-- ==== Sys2Proof/Word.lean ====
section
/-! DEFINITION. Word types of the Halron module and their plainest arithmetic (spec 00, R1, R2). -/

namespace Sys2Proof

/-- One byte of memory. -/
abbrev Byte := BitVec 8
/-- One halfword of an instruction group (R34). -/
abbrev Half := BitVec 16
/-- A general or engine register (R23, R24). -/
abbrev Word := BitVec 64
/-- A 48-bit virtual or physical address (R175). -/
abbrev Addr := BitVec 48

end Sys2Proof
end

