-- ==== Sys2Proof/Syntax.lean ====
section
/-! DEFINITION. The syntax of the module: one constructor of `Instr` for each row of spec/opcode_table.json,
in the table's order. Rows 0 to 202 are the words of pages 0 to 5 (spec 02), rows 203 to 225 the words of
Gorivo (spec 19, Table 19-5), and rows 226 to 400 the steps of the machine that no word encodes
(spec 95_what_each_step_holds.md); such a step names what it acts on. -/

namespace Sys2Proof

/-- A composed register number, 0 to 63 (R36). -/
abbrev RegNum := BitVec 6
/-- A register field of pages 3 and 4: e0 to e15 (R46). -/
abbrev ERegNum := BitVec 4
/-- Relative mode of the group's `pg`: the index register x_k it names, if relative mode is on (R37). -/
abbrev Rel := Option (BitVec 2)

/-- Routing class of an access, a send or a copy (R41, R184). -/
inductive MemClass | o | a | v
  deriving DecidableEq, Repr

/-- Wait field of `pm` (Table 2-2, R194). -/
inductive WaitCond | none | a | v | all
  deriving DecidableEq, Repr

/-- Synchronisation scope, cell < die < device < system (R195). -/
inductive SyncScope | cell | die | device | system
  deriving DecidableEq, Repr

/-- The memory attributes that a `pm` carries (Table 2-2); without one, those of `Attr.default` (R41). -/
structure Attr where
  cls   : MemClass
  wait  : WaitCond
  scope : SyncScope
  hint  : BitVec 4
  deriving DecidableEq, Repr

/-- Without `pm`, an access is class O, waits for nothing, has device scope and hint 0 (R41). -/
def Attr.default : Attr := ⟨.o, .none, .device, 0⟩

/-- Store width (Table 2-4, major 0xB). -/
inductive Width | b | h | w | d
  deriving DecidableEq, Repr

/-- Bits [5:4] of the atomic selector: posted form and word width (Table 2-7). -/
structure AtomForm where
  posted : Bool
  word   : Bool
  deriving DecidableEq, Repr

/-- Class mask of a fence: o, a, v, e (Table 10-4). -/
structure FenceMask where
  o : Bool
  a : Bool
  v : Bool
  e : Bool
  deriving DecidableEq, Repr

/-- The three engines of a cell (R24). -/
inductive EngineUnit | vector | matrix | streamer
  deriving DecidableEq, Repr

/-- A memory or unit that keeps a violation log or an error log (R180, R408): `cell` is what a cell detects at issue, `memPort` its
memory port. -/
inductive LogUnit
  | cell (c : Nat) | memPort (c : Nat) | agent (a : Nat) | port (p : Nat) | dieEdge (k : Nat) | commandProcessor (p : Nat)
  | traceCore (k : Nat) | controller (k : Nat) | transport | hub
  deriving DecidableEq, Repr

/-- Targets of a management write that has no row of its own (R332, R355, R372, R373, R390, R392, R405, R416). -/
inductive MgmtTarget
  | queue (q : Nat) | route (node : Nat) | peer (p : Nat) | region (field idx : Nat) | portTenant (port tenant : Nat)
  | portLink (port : Nat) | traceRing (k : Nat) | traceCtl (k : Nat) | traceLen (k : Nat) | counter (k n : Nat)
  | scrubInt | tapInt (k : Nat) | timeReference | deviceNumber | pluginImage | group (g : Nat)
  deriving DecidableEq, Repr

/-- A fabric frame: a 64-byte flit and its sideband (R353, Table 18-1). -/
structure LinkFrame where
  flit : List Word
  side : Word
  deriving DecidableEq, Repr

/-- Where a packet of an Ethernet peer comes from: the peer, its delivery mode, and its number in that order (R371 to R374). -/
structure PeerPacket where
  peer : Nat
  mode : Nat
  seq  : Nat
  deriving DecidableEq, Repr

/-- The packet of a transfer that its target refuses: the transfer, and the bytes that it carried (R379). -/
structure RefusedBytes where
  xfer  : Nat
  bytes : Nat
  deriving DecidableEq, Repr

/-- An instruction of the module, or a step of it that no word encodes. -/
inductive Instr
  -- page 0, majors 0x0 to 0x5 (R82)
  | add (r : Rel) (d a b : RegNum)
  | sub (r : Rel) (d a b : RegNum)
  | and (r : Rel) (d a b : RegNum)
  | or (r : Rel) (d a b : RegNum)
  | xor (r : Rel) (d a b : RegNum)
  | mul (r : Rel) (d a b : RegNum)
  -- page 0, major 0x6 (R83)
  | shl (r : Rel) (d a : RegNum)
  | shr (r : Rel) (d a : RegNum)
  | sar (r : Rel) (d a : RegNum)
  | rol (r : Rel) (d a : RegNum)
  | ror (r : Rel) (d a : RegNum)
  | andn (r : Rel) (d a : RegNum)
  | min (r : Rel) (d a : RegNum)
  | max (r : Rel) (d a : RegNum)
  | minu (r : Rel) (d a : RegNum)
  | maxu (r : Rel) (d a : RegNum)
  | mulh (r : Rel) (d a : RegNum)
  | mulhu (r : Rel) (d a : RegNum)
  | seq (r : Rel) (d a : RegNum)
  | sne (r : Rel) (d a : RegNum)
  | slt (r : Rel) (d a : RegNum)
  | sltu (r : Rel) (d a : RegNum)
  -- page 0, major 0x7 (R84, R92 to R97)
  | mov (r : Rel) (d a : RegNum)
  | neg (r : Rel) (d a : RegNum)
  | not (r : Rel) (d a : RegNum)
  | clz (r : Rel) (d a : RegNum)
  | ctz (r : Rel) (d a : RegNum)
  | popc (r : Rel) (d a : RegNum)
  | bswap (r : Rel) (d a : RegNum)
  | jr (r : Rel) (a : RegNum)
  | jalr (r : Rel) (d a : RegNum)
  | ret
  | done
  | trap (code : BitVec 8)
  | brk (code : BitVec 8)
  | nop
  | ifence
  | rdtime (r : Rel) (d : RegNum)
  -- page 0, major 0x8 (R85, R86)
  | li (r : Rel) (d : RegNum) (imm : BitVec 44)
  | addi (r : Rel) (d : RegNum) (imm : BitVec 44)
  | andi (r : Rel) (d : RegNum) (imm : BitVec 44)
  | ori (r : Rel) (d : RegNum) (imm : BitVec 44)
  | xori (r : Rel) (d : RegNum) (imm : BitVec 44)
  | shli (r : Rel) (d : RegNum) (n : BitVec 6)
  | shri (r : Rel) (d : RegNum) (n : BitVec 6)
  | sari (r : Rel) (d : RegNum) (n : BitVec 6)
  | slti (r : Rel) (d : RegNum) (imm : BitVec 44)
  | sltui (r : Rel) (d : RegNum) (imm : BitVec 44)
  | sext (r : Rel) (d : RegNum) (n : BitVec 6)
  | zext (r : Rel) (d : RegNum) (n : BitVec 6)
  | bext (r : Rel) (d : RegNum) (p lm1 : BitVec 6)
  | bins (r : Rel) (d : RegNum) (p lm1 : BitVec 6)
  -- page 0, majors 0x9 to 0xB (R87)
  | ldW (r : Rel) (t : Attr) (d n : RegNum) (off : BitVec 40) (l : BitVec 4)
  | ldD (r : Rel) (t : Attr) (d n : RegNum) (off : BitVec 40) (l : BitVec 4)
  | st (r : Rel) (t : Attr) (w : Width) (v n : RegNum) (off : BitVec 40)
  -- page 0, majors 0xC to 0xE (R88 to R91)
  | beq (r : Rel) (a b : RegNum) (off : BitVec 10)
  | bne (r : Rel) (a b : RegNum) (off : BitVec 10)
  | blt (r : Rel) (a b : RegNum) (off : BitVec 10)
  | bge (r : Rel) (a b : RegNum) (off : BitVec 10)
  | bltu (r : Rel) (a b : RegNum) (off : BitVec 10)
  | bgeu (r : Rel) (a b : RegNum) (off : BitVec 10)
  | bz (r : Rel) (a : RegNum) (off : BitVec 46)
  | bnz (r : Rel) (a : RegNum) (off : BitVec 46)
  | bltz (r : Rel) (a : RegNum) (off : BitVec 46)
  | bgez (r : Rel) (a : RegNum) (off : BitVec 46)
  | br (off : BitVec 50)
  | jal (off : BitVec 50)
  | lp (off : BitVec 50)
  -- page 1 loads and stores (R211 to R218)
  | ldB (r : Rel) (t : Attr) (d n : RegNum) (off : BitVec 40) (l : BitVec 4)
  | ldBu (r : Rel) (t : Attr) (d n : RegNum) (off : BitVec 40) (l : BitVec 4)
  | ldH (r : Rel) (t : Attr) (d n : RegNum) (off : BitVec 40) (l : BitVec 4)
  | ldHu (r : Rel) (t : Attr) (d n : RegNum) (off : BitVec 40) (l : BitVec 4)
  | ldWPage1 (r : Rel) (t : Attr) (d n : RegNum) (off : BitVec 40) (l : BitVec 4)
  | ldWu (r : Rel) (t : Attr) (d n : RegNum) (off : BitVec 40) (l : BitVec 4)
  | ldDPage1 (r : Rel) (t : Attr) (d n : RegNum) (off : BitVec 40) (l : BitVec 4)
  | stPage1 (r : Rel) (t : Attr) (w : Width) (v n : RegNum) (off : BitVec 40)
  | lda (r : Rel) (t : Attr) (d n : RegNum) (off : BitVec 40) (l : BitVec 4)
  | stl (r : Rel) (t : Attr) (w : Width) (v n : RegNum) (off : BitVec 40)
  | ldp (r : Rel) (t : Attr) (d n : RegNum) (off : BitVec 40) (l : BitVec 4)
  | stp (r : Rel) (t : Attr) (v n : RegNum) (off : BitVec 40)
  | pf (r : Rel) (t : Attr) (n : RegNum) (off : BitVec 40)
  | fence (m : FenceMask) (sc : SyncScope)
  | fenceAcq (m : FenceMask) (sc : SyncScope)
  | fenceRel (m : FenceMask) (sc : SyncScope)
  -- page 1 atomics (R221 to R225)
  | aadd (r : Rel) (t : Attr) (f : AtomForm) (a b : RegNum) (l : BitVec 4)
  | aand (r : Rel) (t : Attr) (f : AtomForm) (a b : RegNum) (l : BitVec 4)
  | aor (r : Rel) (t : Attr) (f : AtomForm) (a b : RegNum) (l : BitVec 4)
  | axor (r : Rel) (t : Attr) (f : AtomForm) (a b : RegNum) (l : BitVec 4)
  | amin (r : Rel) (t : Attr) (f : AtomForm) (a b : RegNum) (l : BitVec 4)
  | amax (r : Rel) (t : Attr) (f : AtomForm) (a b : RegNum) (l : BitVec 4)
  | aminu (r : Rel) (t : Attr) (f : AtomForm) (a b : RegNum) (l : BitVec 4)
  | amaxu (r : Rel) (t : Attr) (f : AtomForm) (a b : RegNum) (l : BitVec 4)
  | aswap (r : Rel) (t : Attr) (f : AtomForm) (a b : RegNum) (l : BitVec 4)
  | acas (r : Rel) (t : Attr) (f : AtomForm) (a b : RegNum) (l : BitVec 4)
  | ainc (r : Rel) (t : Attr) (f : AtomForm) (a b : RegNum) (l : BitVec 4)
  | adec (r : Rel) (t : Attr) (f : AtomForm) (a b : RegNum) (l : BitVec 4)
  | afadd (r : Rel) (t : Attr) (f : AtomForm) (a b : RegNum) (l : BitVec 4)
  -- page 1 fronts (R234 to R243)
  | fcfg (r : Rel) (t : Attr) (a b : RegNum) (l : BitVec 4)
  | fins (r : Rel) (t : Attr) (a b : RegNum) (l : BitVec 4)
  | fmerge (r : Rel) (t : Attr) (a b : RegNum) (l : BitVec 4)
  | frd (r : Rel) (t : Attr) (a b : RegNum) (l : BitVec 4)
  | fclr (r : Rel) (t : Attr) (a b : RegNum) (l : BitVec 4)
  | fstat (r : Rel) (t : Attr) (a b : RegNum) (l : BitVec 4)
  -- page 2 (R139 to R141, R154, R173, R174, R247 to R266, R375 to R380)
  | snd (r : Rel) (t : Attr) (d a b : RegNum)
  | sndm (r : Rel) (t : Attr) (d a b : RegNum)
  | sndg (r : Rel) (t : Attr) (d a b : RegNum)
  | snds (r : Rel) (t : Attr) (d a b : RegNum)
  | tagen (r : Rel) (d a : RegNum)
  | tagdis (r : Rel) (d a : RegNum)
  | tagrd (r : Rel) (d a : RegNum)
  | bar (r : Rel) (d a : RegNum)
  | barw (r : Rel) (d a : RegNum)
  | sopen (r : Rel) (d a : RegNum)
  | sclose (r : Rel) (d a : RegNum)
  | scancel (r : Rel) (d : RegNum)
  | sshield (r : Rel) (d : RegNum)
  | sclaim (r : Rel) (d : RegNum)
  | schk (r : Rel) (d : RegNum)
  | fork (r : Rel) (d a : RegNum)
  | rdv (r : Rel) (d a : RegNum)
  | copy (r : Rel) (d a : RegNum)
  | qfence (r : Rel) (d a : RegNum)
  | nsend (r : Rel) (d a : RegNum)
  | nwrite (r : Rel) (d a : RegNum)
  | nread (r : Rel) (d a : RegNum)
  | ncst (r : Rel) (d a : RegNum)
  -- page 3 (spec 12, Table 12-3)
  | vadd (d a b : ERegNum)
  | vsub (d a b : ERegNum)
  | vmul (d a b : ERegNum)
  | vfma (d a b : ERegNum)
  | vfms (d a b : ERegNum)
  | vdiv (d a b : ERegNum)
  | vmin (d a b : ERegNum)
  | vmax (d a b : ERegNum)
  | vand (d a b : ERegNum)
  | vor (d a b : ERegNum)
  | vxor (d a b : ERegNum)
  | vshl (d a b : ERegNum)
  | vshr (d a b : ERegNum)
  | vabs (d a : ERegNum)
  | vneg (d a : ERegNum)
  | vcvt (d a : ERegNum)
  | vexp (d a : ERegNum)
  | vlog (d a : ERegNum)
  | vrcp (d a : ERegNum)
  | vrsq (d a : ERegNum)
  | vsqrt (d a : ERegNum)
  | vtanh (d a : ERegNum)
  | vsig (d a : ERegNum)
  | verf (d a : ERegNum)
  | vsin (d a : ERegNum)
  | vcos (d a : ERegNum)
  | vfill (d a : ERegNum)
  | vcpy (d a : ERegNum)
  | eend
  | vcmpEq (d a : ERegNum)
  | vcmpNe (d a : ERegNum)
  | vcmpLt (d a : ERegNum)
  | vcmpLe (d a : ERegNum)
  | vcmpGt (d a : ERegNum)
  | vcmpGe (d a : ERegNum)
  | vcmpUn (d a : ERegNum)
  | vcmpOr (d a : ERegNum)
  | vsel (d a : ERegNum)
  | vredAdd (d a : ERegNum)
  | vredMul (d a : ERegNum)
  | vredMin (d a : ERegNum)
  | vredMax (d a : ERegNum)
  | vredAnd (d a : ERegNum)
  | vredOr (d a : ERegNum)
  | vredXor (d a : ERegNum)
  | vscanAdd (d a : ERegNum)
  | vscanMul (d a : ERegNum)
  | vscanMin (d a : ERegNum)
  | vscanMax (d a : ERegNum)
  | vscanAnd (d a : ERegNum)
  | vscanOr (d a : ERegNum)
  | vscanXor (d a : ERegNum)
  | vgat (d a : ERegNum)
  | vsca (d a : ERegNum)
  | vtop (d a : ERegNum)
  -- page 4 (spec 13, Table 13-6)
  | mplane (a b : ERegNum)
  | mscl (a b : ERegNum)
  | mzero (a : ERegNum)
  | mmul (a b : ERegNum)
  | mgang (a b : ERegNum)
  | mst (a b : ERegNum)
  | macc (a b : ERegNum)
  | eendPage4
  -- page 5 (R86, R98 to R104)
  | div (r : Rel) (d a b : RegNum)
  | divu (r : Rel) (d a b : RegNum)
  | rem (r : Rel) (d a b : RegNum)
  | remu (r : Rel) (d a b : RegNum)
  | crd (r : Rel) (d : RegNum) (n : BitVec 12)
  | cwr (r : Rel) (d : RegNum) (n : BitVec 12)
  | cset (r : Rel) (d : RegNum) (n : BitVec 12)
  | cclr (r : Rel) (d : RegNum) (n : BitVec 12)
  | bextu (r : Rel) (d a : RegNum) (p lm1 : BitVec 6)
  | lea (r : Rel) (d a : RegNum) (imm : BitVec 44)
  | movxToIndex (r : Rel) (k : BitVec 2) (a : RegNum)
  | movxFromIndex (r : Rel) (k : BitVec 2) (a : RegNum)
  | addx (r : Rel) (k : BitVec 2) (imm : BitVec 44)
  | tmark (r : Rel) (a : RegNum) (code : BitVec 16)
  -- Gorivo (Table 19-5)
  | gorivoLdr (d : BitVec 4) (n : BitVec 18)
  | gorivoLdi (d : BitVec 4) (imm : BitVec 18)
  | gorivoLdh (d : BitVec 4) (imm : BitVec 18)
  | gorivoAdd (d a b : BitVec 4)
  | gorivoSub (d a b : BitVec 4)
  | gorivoAnd (d a b : BitVec 4)
  | gorivoOr (d a b : BitVec 4)
  | gorivoXor (d a b : BitVec 4)
  | gorivoShli (d a : BitVec 4) (n : BitVec 18)
  | gorivoShri (d a : BitVec 4) (n : BitVec 18)
  | gorivoAndi (d a : BitVec 4) (imm : BitVec 18)
  | gorivoCadd (a : BitVec 4) (n : BitVec 18)
  | gorivoCset (a : BitVec 4) (n : BitVec 18)
  | gorivoCrd (d : BitVec 4) (n : BitVec 18)
  | gorivoBeq (a b : BitVec 4) (off : BitVec 14)
  | gorivoBne (a b : BitVec 4) (off : BitVec 14)
  | gorivoBltu (a b : BitVec 4) (off : BitVec 14)
  | gorivoBgeu (a b : BitVec 4) (off : BitVec 14)
  | gorivoBr (off : BitVec 18)
  | gorivoKeep
  | gorivoDrop
  | gorivoCount (n : BitVec 18)
  | gorivoTrigger (m : BitVec 3)
  -- steps of cells: messages, activations, traps (spec 01, 02, 07)
  | messageArrival (m : Nat)
  | dispatch (c : Nat)
  | retirement (c slot : Nat)
  | weightReturnDrain (c act : Nat)
  | stealProbe (c : Nat)
  | stolenMessageArrival (c : Nat)
  | streamerStealProbe (c : Nat)
  | loadComplete (x : Nat)
  | trapTaken (c slot : Nat)
  | trapDeferredWrite (f : Nat)
  | engineTrap (c : Nat) (u : EngineUnit)
  | retiredAccessError (x : Nat)
  | verdictResumeAt (c : Nat) (record : Addr)
  | verdictResumeAfter (c : Nat) (record : Addr)
  | verdictAbandon (c : Nat) (record : Addr)
  | verdictKeep (c : Nat) (record : Addr)
  -- steps of the memory system (spec 09, 10)
  | storeBufferSend (c : Nat)
  | accessPerformed (x : Nat)
  | storeAck (x : Nat)
  | atomicEngineOp (k : Nat)
  | hotLineEvict (k : Nat)
  | frontWriteback (k : Nat) (obj : Nat)
  -- steps of the engines and copies (spec 11, 12, 13)
  | launchRecordRead (c : Nat)
  | engineProgramStart (c : Nat) (u : EngineUnit)
  | engineProgramEnd (c : Nat) (u : EngineUnit)
  | rdvContinuation (c j : Nat)
  | scoreboardGrant (c frag : Nat)
  | gangStart (strip : Nat)
  | gangPass (strip : Nat)
  | copyHead (c : Nat)
  | chunkStart (x : Nat)
  | chunkForward (x chunk : Nat)
  | chunkPerformed (x chunk : Nat)
  | chunkRefused (x chunk : Nat)
  | copyEnd (x : Nat)
  | syncCredit (x : Nat)
  | wakeMessage (x : Nat)
  | qfenceRelease (c marker : Nat)
  -- steps of the carillon (spec 07)
  | generationClose (die bell : Nat)
  | bellMessage (die bell : Nat)
  | externalArrival (x : Nat)
  -- steps of the scope ports (spec 08)
  | mint (x : Nat)
  | grant (x : Nat)
  | refuse (x : Nat)
  | link (x : Nat)
  | linkres (x : Nat)
  | unlink (x : Nat)
  | unlinkack (x : Nat)
  | notice (x : Nat)
  | clear (x : Nat)
  | clearack (x : Nat)
  | close (x : Nat)
  | cancel (x : Nat)
  | choke (x : Nat)
  | shield (x : Nat)
  | claim (x : Nat)
  | check (x : Nat)
  | climb (x : Nat)
  | answer (x : Nat)
  | weightReturn (x : Nat)
  -- steps of the command processors (spec 17)
  | doorbell (node queue tail : Nat)
  | packetSelect (p : Nat)
  | ageingTick
  | launch (p : Nat)
  | launchStartMessage (p : Nat)
  | launchComplete (x : Nat)
  | nopPacket (p : Nat)
  | waitPacket (p : Nat)
  | waitRecheck (q : Nat)
  | signalPacket (p : Nat)
  | fencePacket (p : Nat)
  | freeSlotReport (c : Nat)
  | tollExpiry (q : Nat)
  | tollExtend (q n : Nat)
  | tollRecover (q : Nat)
  | pluginTimeout (q : Nat)
  | recovery (f : Nat)
  | fenceLift (f : Nat)
  | containment (f : Nat)
  -- steps of the scheduler (spec 17, 19)
  | loadFieldContext (rec : Addr)
  | segmentTableLoad (f : Nat)
  | imageLoad (f : Nat) (image : Addr)
  | contextSwitch (f : Nat)
  | preemptDeadline (f : Nat)
  | switchDrainComplete (f : Nat) (rec : Addr)
  | stopField (f : Nat)
  | resumeField (f : Nat)
  | dump (f : Nat) (area : Addr)
  | invalidate (f : Nat) (lo hi : Addr)
  | translationWalk (x : Nat)
  | faultResolve (x : Nat)
  | faultRefuse (x : Nat)
  | queueRearm (q : Nat)
  | managementTableWrite (t : MgmtTarget) (ws : List Word)
  | groupTableWrite (g : Nat) (ports : Word) (valid local_ : Bool)
  | senderTableRead (c : Nat) (clear : Bool)
  | violationLogRead (u : LogUnit)
  | refusalLogRead (c : Nat)
  | bellDiscardCountRead (die bell : Nat)
  | errorLogRead (u : LogUnit)
  | raceRingPlace (c : Nat) (ring : Addr)
  -- steps of the trace cores (spec 19)
  | traceRecordOffer (k : Nat)
  | traceRecordProcess (k : Nat)
  | traceStateWrite (k : Nat) (v : BitVec 2)
  | prog (k : Nat) (addr : Addr)
  | traceLostRead (k : Nat)
  -- steps of the fabric (spec 18, 19)
  | frameReceive (port : Nat) (fr : LinkFrame)
  | packetAccept (port : Nat)
  | packetForward (x : Nat)
  | ackReceived (port : Nat) (seq : BitVec 12)
  | refusalReceived (port : Nat) (seq : BitVec 12)
  | corruptReceived (port : Nat) (seq : BitVec 12)
  | refusedResend (port : Nat)
  | controlFrameSend (port : Nat)
  | controlFrameReceive (port : Nat) (fr : LinkFrame)
  | timeSlew
  | timeLoad
  | message (x : Nat)
  | load (x : Nat)
  | store (x : Nat)
  | atomic (x : Nat)
  | response (x : Nat)
  | nack (x : Nat)
  | weight (x : Nat)
  | builtInHandler (m : Nat)
  | multicastPacket (x : Nat)
  -- steps of the transport engine (spec 18)
  | transferStart (x : Nat)
  | transferPacketSend (x : Nat)
  | transferAck (x bytes : Nat) (marked trimmed : Bool)
  | transferComplete (x : Nat)
  | transferRefused (r : RefusedBytes)
  | retryLimit (x : Nat)
  | rmaWrite (p : PeerPacket) (key : BitVec 32) (off : Nat) (data : List Byte) (last : Bool)
  | rmaRead (p : PeerPacket) (key : BitVec 32) (off len : Nat)
  | send (p : PeerPacket) (key : BitVec 32) (msg total off : Nat) (data : List Byte)
  | taggedSend (p : PeerPacket) (key : BitVec 32) (tag : Word) (msg total off : Nat) (data : List Byte)
  -- steps of checked pairs, tap slots and tests (spec 21)
  | chime (c : Nat)
  | chimeAgree (c : Nat)
  | chimeDisagree (c : Nat)
  | tapInject (c : Nat) (u : Nat) (lane : Nat) (results : List Word)
  | sweepResult (k : Nat) (pass : Bool)
  | requalification (k : Nat) (bin : BitVec 2)
  | scanTest (c : Nat)
  | scanTestAbort (c : Nat)
  | scanTestResult (c : Nat) (signature : Word)
  | repairPoint (die col : Nat)
  | scrub (u : LogUnit)
  | commitDieRecord (die : Nat)
  -- steps of the firmware complex (spec 21)
  | requestUpdate
  | passComponentTable (comp : Nat)
  | updateComponent (comp : Nat)
  | requestFirmwareData (off : Nat) (data : List Byte)
  | verifyComplete
  | applyComplete
  | activateFirmware
  | monitorActivation
  | raiseMinSvn (comp svn : Nat)
  | pluginStop (tenant : Nat)
  | boot
  | getVersion
  | getCapabilities
  | negotiateAlgorithms
  | getDigests
  | getCertificate
  | challenge (nonce : Word)
  | getMeasurements (index : Nat)
  -- steps of far memory, power and reset (spec 21)
  | farMemoryBringup (passed : List Nat)
  | zqCalibration (k : Nat)
  | dataRetrain (k : Nat) (passed : Bool)
  | thermalSample (temp : Int)
  | powerCapSet (watts : Nat)
  | powerCapWindow (watts : Nat)
  | powerOnReset
  | rmaReadResponse (x off : Nat) (data : List Byte)
  | powerLoss
  deriving DecidableEq, Repr, Inhabited

end Sys2Proof
end

