-- ==== Sys2Proof/Config.lean ====
section
/-! DEFINITION. What the manual leaves open: free values. Each is an opaque constant without a body, so nothing
can be proved of its value; `State.tick` or the operands are its argument (log 5, log 13). -/

namespace Sys2Proof.Config

/-- Which of several enabled steps of different agents comes next, as numbers by the occasion (R8; log 5). -/
opaque pick : Nat → Nat → Nat

/-- Which step without a word is tried next (log 5). -/
opaque event : Nat → Instr

/-- Which of the elements written to one byte stays, and whether an overlapped source is read before or after
the writes (R256, R274, R290 to R293; log 13). -/
opaque overlap : Nat → Nat → Nat

/-- A value that the manual leaves without a statement, by an occasion number and a place (log 13). -/
opaque freeWord : Nat → Nat → BitVec 64

/-- Bytes of an SPDM certificate, whose contents the manual does not define (R428; log 14), by its place. -/
opaque secretByte : Nat → Nat → BitVec 8

/-- The SHA-384 digest of some bytes (R424, R428; log 14). -/
opaque digest : List (BitVec 8) → List (BitVec 8)

/-- What HKDF or the physical unclonable function derives, by a label, from some bytes (R427; log 14). -/
opaque derive : Nat → List (BitVec 8) → List (BitVec 8)

/-- The signature by a private key over some bytes: 0 Ed25519, 1 ML-DSA-65, and 2 and 3 the same by Umaith's keys (R420, R428; log 14). -/
opaque sign : Nat → List (BitVec 8) → List (BitVec 8) → List (BitVec 8)

/-- Does a check of an image verify: 0 Ed25519, 1 ML-DSA-65, of header bytes 0x000 to 0x0FF with the signature in the rest of the header,
against Umaith's public keys; 2 the digest in the header, with that of the body (R424; log 14)? -/
opaque verifies : Nat → List (BitVec 8) → List (BitVec 8) → Bool

/-- The image of a tenant's plug-in in the bytes of a plug-in set, whose layout the manual does not give (R423, R428; log 14). -/
opaque pluginImage : Nat → List (BitVec 8) → List (BitVec 8)

/-- The check bits' syndrome that an error leaves, by an occasion and a place (R408, Table 21-2; log 13). -/
opaque syndrome : Nat → Nat → BitVec 16

/-- What a plug-in is granted, code, data and mailbox, whose addresses the manual does not give, and where its code begins (R421; log 14), by
tenant and place. -/
opaque grant : Nat → Nat → BitVec 64

/-- Where an error may strike: STRUCT, cell or table, entry, and how (R404; log 13). -/
opaque upset : Nat → Nat → Nat

/-- A field of an image header, whose places the manual does not give: 0 component, 1 version, 2 SVN (R423; log 14). -/
opaque headerField : Nat → List (BitVec 8) → Nat

/-- The stored known-answer signature of a unit, a lane and an operation (R416; log 14). -/
opaque knownAnswer : Nat → Nat → Nat → BitVec 64

/-- The stored scan signature of a cell (R418; log 14). -/
opaque scanSignature : Nat → BitVec 64

/-- A special function result where no finite series decides the rounding (R287; log 16). -/
opaque specialTail : Nat → Nat → Bool

/-- Congestion window and round trip after an acknowledgement: the standard's NSCC (R371, R380; log 15). -/
opaque nscc : Nat → Nat → BitVec 64

/-- The cell number in DST of an access packet that leaves for a device and a remote context, which no rule states (R358, R361; log 60). -/
opaque accessCell : Nat → Nat → BitVec 12

/-- A uniformly drawn port of the class-V route (R185, R356; log 13). -/
opaque draw : Nat → Nat

/-- Does a scope whose record lies on another device lie below another scope (R351; log 38)? -/
opaque beneath : BitVec 32 → BitVec 32 → Bool

end Sys2Proof.Config
end

