-- ==== Sys2Proof/Decode.lean ====
section
/-! DEFINITION. Decoding instruction groups (spec 02, R34 to R49) and Gorivo words (spec 19, R392, R393),
and the encoder written from the same tables. Checks 1 to 5 of Table 2-12 are made here; checks 6 to 11
are made at issue (Machine/Operands.lean). -/

namespace Sys2Proof

/-- The unit that executes a group: a scalar core or an engine of a cell (R48). -/
inductive ExecUnit
  | scalar
  | engine (u : EngineUnit)
  deriving DecidableEq, Repr

/-- Why the checks 1 to 5 of Table 2-12 turn a group away. -/
inductive DecodeCause | illegal | reserved | enginePage | badPrefix
  deriving DecidableEq, Repr

/-- What decoding answers. -/
inductive Decoded
  | ok (i : Instr)
  | bad (c : DecodeCause)
  deriving DecidableEq, Repr

/-! ### Words and fields -/

/-- Bits [15:12] of a word, its major (R34). -/
def Half.major (h : Half) : BitVec 4 := h.extractLsb' 12 4
/-- Bits [11:8]. -/
def Half.n2 (h : Half) : BitVec 4 := h.extractLsb' 8 4
/-- Bits [7:4]. -/
def Half.n1 (h : Half) : BitVec 4 := h.extractLsb' 4 4
/-- Bits [3:0]. -/
def Half.n0 (h : Half) : BitVec 4 := h.extractLsb' 0 4

/-- A word from its four nibbles, most significant first. -/
def Half.ofNibbles (a b c d : BitVec 4) : Half := a ++ b ++ c ++ d

/-- A prefix word has major 0xF (R34). -/
def Half.isPfx (h : Half) : Bool := Half.major h == 0xF#4
/-- The kind of a prefix word: 0 `px`, 1 `pg`, 2 `pp`, 3 `pm` (Table 2-2). -/
def Half.pfxKind (h : Half) : BitVec 2 := h.extractLsb' 10 2
/-- Bits [9:0] of a prefix word. -/
def Half.pfxBits (h : Half) : BitVec 10 := h.extractLsb' 0 10
/-- A prefix word of a kind. -/
def Half.ofPfx (kind : BitVec 2) (v : BitVec 10) : Half := 0xF#4 ++ kind ++ v

/-- The words of a group: its prefixes in order and its base word (R34). -/
structure GroupWords where
  pfx  : List Half
  base : Half
  deriving DecidableEq, Repr

/-- A group with its prefixes sorted out by kind (R38); `px` in the order they stand. -/
structure Group where
  pm   : Option (BitVec 10)
  pg   : Option (BitVec 10)
  pp   : Option (BitVec 10)
  px   : List (BitVec 10)
  base : Half
  deriving DecidableEq, Repr

/-- The payloads of the prefixes of one kind, in order. -/
def pfxOf (k : BitVec 2) (ws : List Half) : List (BitVec 10) :=
  (ws.filter (fun h => Half.pfxKind h == k)).map Half.pfxBits

/-- Check 1: at most four prefixes, none of `pp`, `pg` and `pm` twice (R39). -/
def GroupWords.sort (g : GroupWords) : Option Group :=
  let pm := pfxOf 3#2 g.pfx
  let pg := pfxOf 1#2 g.pfx
  let pp := pfxOf 2#2 g.pfx
  if g.pfx.length ≤ 4 ∧ pm.length ≤ 1 ∧ pg.length ≤ 1 ∧ pp.length ≤ 1 then
    some ⟨pm.head?, pg.head?, pp.head?, pfxOf 0#2 g.pfx, g.base⟩
  else none

/-- The words of a group in the order joter places them: pm, pg, pp, px, base (spec 05, R117). -/
def Group.words (g : Group) : GroupWords :=
  ⟨(g.pm.toList.map (Half.ofPfx 3#2)) ++ (g.pg.toList.map (Half.ofPfx 1#2)) ++
   (g.pp.toList.map (Half.ofPfx 2#2)) ++ (g.px.map (Half.ofPfx 0#2)), g.base⟩

/-- The group that a list of halfwords starts with. -/
def takeGroup : List Half → Option GroupWords
  | [] => none
  | h :: t => if Half.isPfx h then (takeGroup t).map (fun g => ⟨h :: g.pfx, g.base⟩) else some ⟨[], h⟩

/-- The page on which the base word is decoded (R42). -/
def Group.page (g : Group) : BitVec 4 := (g.pp.getD 0).extractLsb' 0 4

/-- The high bits that `pg` supplies for position [11:8], [7:4] or [3:0] (R36). -/
def Group.hi2 (g : Group) : BitVec 2 := (g.pg.getD 0).extractLsb' 8 2
/-- See `Group.hi2`. -/
def Group.hi1 (g : Group) : BitVec 2 := (g.pg.getD 0).extractLsb' 6 2
/-- See `Group.hi2`. -/
def Group.hi0 (g : Group) : BitVec 2 := (g.pg.getD 0).extractLsb' 4 2

/-- Relative mode (R37). -/
def Group.rel (g : Group) : Rel :=
  if (g.pg.getD 0).extractLsb' 3 1 == 1#1 then some ((g.pg.getD 0).extractLsb' 1 2) else none

/-- The composed register number of a position (R36). -/
def Group.r2 (g : Group) : RegNum := g.hi2 ++ Half.n2 g.base
/-- See `Group.r2`. -/
def Group.r1 (g : Group) : RegNum := g.hi1 ++ Half.n1 g.base
/-- See `Group.r2`. -/
def Group.r0 (g : Group) : RegNum := g.hi0 ++ Half.n0 g.base

/-- Routing class from its two bits; 0b11 is reserved (Table 2-2). -/
def classOfBits (b : BitVec 2) : MemClass := if b == 1#2 then .a else if b == 2#2 then .v else .o
/-- Wait field from its two bits (Table 2-2). -/
def waitOfBits (b : BitVec 2) : WaitCond :=
  if b == 1#2 then .a else if b == 2#2 then .v else if b == 3#2 then .all else .none
/-- Scope field from its two bits (Table 2-2). -/
def scopeOfBits (b : BitVec 2) : SyncScope :=
  if b == 1#2 then .die else if b == 2#2 then .device else if b == 3#2 then .system else .cell

/-- The attributes of a group (R41). -/
def Group.attr (g : Group) : Attr :=
  match g.pm with
  | none => Attr.default
  | some v => ⟨classOfBits (v.extractLsb' 8 2), waitOfBits (v.extractLsb' 6 2),
      scopeOfBits (v.extractLsb' 4 2), v.extractLsb' 0 4⟩

/-! ### Immediates (R40) -/

/-- The payloads of the `px` prefixes, the first most significant. -/
def pxValue (px : List (BitVec 10)) : Nat := px.foldl (fun acc p => acc * 1024 + p.toNat) 0

/-- The assembled immediate, unsigned (R40): `b` base bits of value `bits`. -/
def Group.immU (g : Group) (b bits : Nat) : Nat := pxValue g.px * 2 ^ b + bits

/-- A number of `w` bits as two's complement. -/
def signedOf (w v : Nat) : Int := if 2 * v < 2 ^ w then (v : Int) else (v : Int) - (2 : Int) ^ w

/-- The assembled immediate, sign-extended from its top bit (R40). -/
def Group.immS (g : Group) (b bits : Nat) : Int :=
  signedOf (b + 10 * g.px.length) (g.immU b bits)

/-- The `n` payloads of ten bits that hold `v`, most significant first. -/
def pxOf : Nat → Nat → List (BitVec 10)
  | 0, _ => []
  | n + 1, v => pxOf n (v / 1024) ++ [BitVec.ofNat 10 v]

/-- Does `v` fit in `w` bits of two's complement? -/
def fitsS (w : Nat) (v : Int) : Bool := decide (-(2 : Int) ^ w ≤ 2 * v) && decide (2 * v < (2 : Int) ^ w)

/-- The smallest number of `px` that holds a signed immediate with `b` base bits (spec 05, R117). -/
def pxCountS (b : Nat) (v : Int) : Nat :=
  if fitsS b v then 0 else if fitsS (b + 10) v then 1 else if fitsS (b + 20) v then 2
  else if fitsS (b + 30) v then 3 else 4

/-- The smallest number of `px` that holds an unsigned immediate with `b` base bits. -/
def pxCountU (b v : Nat) : Nat :=
  if v < 2 ^ b then 0 else if v < 2 ^ (b + 10) then 1 else if v < 2 ^ (b + 20) then 2
  else if v < 2 ^ (b + 30) then 3 else 4

/-- An immediate split into its `px` payloads and its base bits. -/
structure SplitImm where
  px   : List (BitVec 10)
  bits : Nat
  deriving DecidableEq, Repr

/-- A signed immediate split for `b` base bits. -/
def splitS (b : Nat) (v : Int) : SplitImm :=
  let n := pxCountS b v
  let u := (v % (2 : Int) ^ (b + 10 * n)).toNat
  ⟨pxOf n (u / 2 ^ b), u % 2 ^ b⟩

/-- An unsigned immediate split for `b` base bits. -/
def splitU (b v : Nat) : SplitImm := ⟨pxOf (pxCountU b v) (v / 2 ^ b), v % 2 ^ b⟩

/-! ### The checks of a word (Table 2-12, checks 4 and 5) -/

/-- What check 5 asks about an assigned word: how many `px` it takes, whether it accepts `pm`, and which of
the positions [11:8], [7:4], [3:0] are register fields. -/
structure Form where
  pxMin : Nat
  pxMax : Nat
  pm : Bool
  r2 : Bool
  r1 : Bool
  r0 : Bool
  deriving DecidableEq, Repr

/-- Check 5, first part: the cases of R39 that depend on the base word. -/
def Group.prefixOk (g : Group) (f : Form) : Bool :=
  decide (f.pxMin ≤ g.px.length) && decide (g.px.length ≤ f.pxMax) && (f.pm || g.pm.isNone) &&
  (f.r2 || f.r1 || f.r0 || g.pg.isNone)

/-- Check 5, second part, for the prefixes: reserved bits of `pp` and `pg`, the reserved class of `pm`, and
`pg` high bits at a position that is no register field (R36 to R38, R41). -/
def Group.pfxFieldsOk (g : Group) (f : Form) : Bool :=
  ((g.pp.getD 0).extractLsb' 4 6 == 0#6) && ((g.pg.getD 0).extractLsb' 0 1 == 0#1) &&
  !((g.pm.getD 0).extractLsb' 8 2 == 3#2) &&
  (f.r2 || g.hi2 == 0#2) && (f.r1 || g.hi1 == 0#2) && (f.r0 || g.hi0 == 0#2)

/-- An assigned word under check 5; `ok` says that its own reserved fields are zero and its immediate lies in
its range. -/
def Group.finish (g : Group) (f : Form) (ok : Bool) (i : Instr) : Decoded :=
  if g.prefixOk f then (if g.pfxFieldsOk f && ok then .ok i else .bad .reserved) else .bad .badPrefix

/-- Three register fields, no immediate. -/
def Form.dab : Form := ⟨0, 0, false, true, true, true⟩
/-- Register fields at [7:4] and [3:0], no immediate. -/
def Form.da : Form := ⟨0, 0, false, false, true, true⟩
/-- A register field at [7:4], no immediate. -/
def Form.d : Form := ⟨0, 0, false, false, true, false⟩
/-- A register field at [3:0], no immediate. -/
def Form.a : Form := ⟨0, 0, false, false, false, true⟩
/-- No register field, no immediate. -/
def Form.none : Form := ⟨0, 0, false, false, false, false⟩
/-- A register field at [7:4] and an immediate. -/
def Form.dImm : Form := ⟨0, 4, false, false, true, false⟩
/-- Register fields at [11:8] and [7:4] and an immediate. -/
def Form.daImm : Form := ⟨0, 4, false, true, true, false⟩
/-- Formats L and S: register fields at [11:8] and [7:4], an offset and `pm`. -/
def Form.mem : Form := ⟨0, 4, true, true, true, false⟩
/-- Format F: register fields at [11:8] and [7:4], exactly one `px`, and `pm`. -/
def Form.func : Form := ⟨1, 1, true, true, true, false⟩

/-- Width of a store (Table 2-4). -/
def widthOfBits (b : BitVec 2) : Width := if b == 0#2 then .b else if b == 1#2 then .h else if b == 2#2 then .w else .d

/-! ### Page 0 (R43) -/

/-- Page 0 major 0x6 (Table 4-3). -/
def decode06 (g : Group) : Decoded :=
  let r := g.rel; let d := g.r1; let a := g.r0
  match (Half.n2 g.base).toNat with
  | 0x0 => g.finish .da true (.shl r d a)
  | 0x1 => g.finish .da true (.shr r d a)
  | 0x2 => g.finish .da true (.sar r d a)
  | 0x3 => g.finish .da true (.rol r d a)
  | 0x4 => g.finish .da true (.ror r d a)
  | 0x5 => g.finish .da true (.andn r d a)
  | 0x6 => g.finish .da true (.min r d a)
  | 0x7 => g.finish .da true (.max r d a)
  | 0x8 => g.finish .da true (.minu r d a)
  | 0x9 => g.finish .da true (.maxu r d a)
  | 0xA => g.finish .da true (.mulh r d a)
  | 0xB => g.finish .da true (.mulhu r d a)
  | 0xC => g.finish .da true (.seq r d a)
  | 0xD => g.finish .da true (.sne r d a)
  | 0xE => g.finish .da true (.slt r d a)
  | _ => g.finish .da true (.sltu r d a)

/-- Page 0 major 0x7 (Table 2-5). -/
def decode07 (g : Group) : Decoded :=
  let r := g.rel; let d := g.r1; let a := g.r0
  let z1 := Half.n1 g.base == 0#4
  let z0 := Half.n0 g.base == 0#4
  let code : BitVec 8 := Half.n1 g.base ++ Half.n0 g.base
  match (Half.n2 g.base).toNat with
  | 0x0 => g.finish .da true (.mov r d a)
  | 0x1 => g.finish .da true (.neg r d a)
  | 0x2 => g.finish .da true (.not r d a)
  | 0x3 => g.finish .da true (.clz r d a)
  | 0x4 => g.finish .da true (.ctz r d a)
  | 0x5 => g.finish .da true (.popc r d a)
  | 0x6 => g.finish .da true (.bswap r d a)
  | 0x7 => g.finish .a z1 (.jr r a)
  | 0x8 => g.finish .da true (.jalr r d a)
  | 0x9 => g.finish .none (z1 && z0) .ret
  | 0xA => g.finish .none (z1 && z0) .done
  | 0xB => g.finish .none true (.trap code)
  | 0xC => g.finish .none true (.brk code)
  | 0xD => g.finish .none (z1 && z0) .nop
  | 0xE => g.finish .none (z1 && z0) .ifence
  | _ => g.finish .d z0 (.rdtime r d)

/-- Page 0 major 0x8 (Table 4-5). -/
def decode08 (g : Group) : Decoded :=
  let r := g.rel; let d := g.r1
  let s : BitVec 44 := BitVec.ofInt 44 (g.immS 4 (Half.n0 g.base).toNat)
  let u := g.immU 4 (Half.n0 g.base).toNat
  let sh : BitVec 6 := BitVec.ofNat 6 u
  let p : BitVec 6 := BitVec.ofNat 6 u
  let l : BitVec 6 := BitVec.ofNat 6 (u / 64)
  let shOk := decide (u < 64)
  let bfOk := decide (u < 4096) && decide (u % 64 + u / 64 + 1 ≤ 64)
  match (Half.n2 g.base).toNat with
  | 0x0 => g.finish .dImm true (.li r d s)
  | 0x1 => g.finish .dImm true (.addi r d s)
  | 0x2 => g.finish .dImm true (.andi r d s)
  | 0x3 => g.finish .dImm true (.ori r d s)
  | 0x4 => g.finish .dImm true (.xori r d s)
  | 0x5 => g.finish .dImm shOk (.shli r d sh)
  | 0x6 => g.finish .dImm shOk (.shri r d sh)
  | 0x7 => g.finish .dImm shOk (.sari r d sh)
  | 0x8 => g.finish .dImm true (.slti r d s)
  | 0x9 => g.finish .dImm true (.sltui r d s)
  | 0xA => g.finish .dImm shOk (.sext r d sh)
  | 0xB => g.finish .dImm shOk (.zext r d sh)
  | 0xC => g.finish .dImm bfOk (.bext r d p l)
  | 0xD => g.finish .dImm bfOk (.bins r d p l)
  | _ => .bad .illegal

/-- The signed byte offset of a memory access, without base bits (Table 2-3). -/
def Group.offset (g : Group) : BitVec 40 := BitVec.ofInt 40 (g.immS 0 0)

/-- Format S (Tables 2-4 and 2-6): the kind bits [3:2] shall be plain. -/
def Group.storeForm (g : Group) (mk : Rel → Attr → Width → RegNum → RegNum → BitVec 40 → Instr) : Decoded :=
  g.finish .mem ((Half.n0 g.base).extractLsb' 2 2 == 0#2)
    (mk g.rel g.attr (widthOfBits ((Half.n0 g.base).extractLsb' 0 2)) g.r2 g.r1 g.offset)

/-- Format L (Tables 2-4 and 2-6). -/
def Group.loadForm (g : Group) (mk : Rel → Attr → RegNum → RegNum → BitVec 40 → BitVec 4 → Instr) : Decoded :=
  g.finish .mem true (mk g.rel g.attr g.r2 g.r1 g.offset (Half.n0 g.base))

/-- Page 0 major 0xC, compare-branch (Table 4-6). -/
def decode0C (g : Group) : Decoded :=
  let r := g.rel; let a := g.r2; let b := g.r1
  let o : BitVec 10 := BitVec.ofInt 10 (g.immS 0 0)
  let f : Form := ⟨1, 1, false, true, true, false⟩
  match (Half.n0 g.base).toNat with
  | 0x0 => g.finish f true (.beq r a b o)
  | 0x1 => g.finish f true (.bne r a b o)
  | 0x2 => g.finish f true (.blt r a b o)
  | 0x3 => g.finish f true (.bge r a b o)
  | 0x4 => g.finish f true (.bltu r a b o)
  | 0x5 => g.finish f true (.bgeu r a b o)
  | _ => .bad .illegal

/-- Page 0 major 0xD, short branch (R89). -/
def decode0D (g : Group) : Decoded :=
  let r := g.rel; let a := g.r0
  let o : BitVec 46 := BitVec.ofInt 46 (g.immS 6 (g.base.extractLsb' 4 6).toNat)
  let f : Form := ⟨0, 4, false, false, false, true⟩
  match (g.base.extractLsb' 10 2).toNat with
  | 0 => g.finish f true (.bz r a o)
  | 1 => g.finish f true (.bnz r a o)
  | 2 => g.finish f true (.bltz r a o)
  | _ => g.finish f true (.bgez r a o)

/-- Page 0 major 0xE, long branch (R90). -/
def decode0E (g : Group) : Decoded :=
  let o : BitVec 50 := BitVec.ofInt 50 (g.immS 10 (g.base.extractLsb' 0 10).toNat)
  let f : Form := ⟨0, 4, false, false, false, false⟩
  match (g.base.extractLsb' 10 2).toNat with
  | 0 => g.finish f true (.br o)
  | 1 => g.finish f true (.jal o)
  | 2 => g.finish f true (.lp o)
  | _ => .bad .illegal

/-- Page 0 (Tables 2-4 and 2-5). -/
def decodePage0 (g : Group) : Decoded :=
  let r := g.rel; let d := g.r2; let a := g.r1; let b := g.r0
  match (Half.major g.base).toNat with
  | 0x0 => g.finish .dab true (.add r d a b)
  | 0x1 => g.finish .dab true (.sub r d a b)
  | 0x2 => g.finish .dab true (.and r d a b)
  | 0x3 => g.finish .dab true (.or r d a b)
  | 0x4 => g.finish .dab true (.xor r d a b)
  | 0x5 => g.finish .dab true (.mul r d a b)
  | 0x6 => decode06 g
  | 0x7 => decode07 g
  | 0x8 => decode08 g
  | 0x9 => g.loadForm .ldW
  | 0xA => g.loadForm .ldD
  | 0xB => g.storeForm .st
  | 0xC => decode0C g
  | 0xD => decode0D g
  | _ => decode0E g

/-! ### Page 1 (R44) -/

/-- Page 1 major 0xC, the atomic group (Table 2-7). A posted form shall have a lookahead of zero. -/
def decode1C (g : Group) : Decoded :=
  let px := g.px.headD 0
  let fm : AtomForm := ⟨px.extractLsb' 4 1 == 1#1, px.extractLsb' 5 1 == 1#1⟩
  let ok := (px.extractLsb' 6 4 == 0#4) && (!fm.posted || Half.n0 g.base == 0#4)
  let fin := fun (mk : Rel → Attr → AtomForm → RegNum → RegNum → BitVec 4 → Instr) =>
    g.finish .func ok (mk g.rel g.attr fm g.r2 g.r1 (Half.n0 g.base))
  match (px.extractLsb' 0 4).toNat with
  | 0x0 => fin .aadd
  | 0x1 => fin .aand
  | 0x2 => fin .aor
  | 0x3 => fin .axor
  | 0x4 => fin .amin
  | 0x5 => fin .amax
  | 0x6 => fin .aminu
  | 0x7 => fin .amaxu
  | 0x8 => fin .aswap
  | 0x9 => fin .acas
  | 0xA => fin .ainc
  | 0xB => fin .adec
  | 0xC => fin .afadd
  | _ => .bad .illegal

/-- Page 1 major 0xD, the front group (Table 2-8). -/
def decode1D (g : Group) : Decoded :=
  let px := g.px.headD 0
  let ok := px.extractLsb' 4 6 == 0#6
  let fin := fun (mk : Rel → Attr → RegNum → RegNum → BitVec 4 → Instr) =>
    g.finish .func ok (mk g.rel g.attr g.r2 g.r1 (Half.n0 g.base))
  match (px.extractLsb' 0 4).toNat with
  | 0x0 => fin .fcfg
  | 0x1 => fin .fins
  | 0x2 => fin .fmerge
  | 0x3 => fin .frd
  | 0x4 => fin .fclr
  | 0x5 => fin .fstat
  | _ => .bad .illegal

/-- The fence forms of page 1 major 0xE, f = 0x1 (Table 2-6): kind 0b00 acq, 0b01 rel, 0b10 full. -/
def decodeFence (g : Group) : Decoded :=
  let m := Half.n1 g.base
  let mask : FenceMask := ⟨m.extractLsb' 3 1 == 1#1, m.extractLsb' 2 1 == 1#1, m.extractLsb' 1 1 == 1#1,
    m.extractLsb' 0 1 == 1#1⟩
  let sc := scopeOfBits ((Half.n0 g.base).extractLsb' 0 2)
  match ((Half.n0 g.base).extractLsb' 2 2).toNat with
  | 0 => g.finish .none true (.fenceAcq mask sc)
  | 1 => g.finish .none true (.fenceRel mask sc)
  | 2 => g.finish .none true (.fence mask sc)
  | _ => g.finish .none false (.fence mask sc)

/-- Page 1 (Table 2-6). -/
def decodePage1 (g : Group) : Decoded :=
  match (Half.major g.base).toNat with
  | 0x0 => g.loadForm .ldB
  | 0x1 => g.loadForm .ldBu
  | 0x2 => g.loadForm .ldH
  | 0x3 => g.loadForm .ldHu
  | 0x4 => g.loadForm .ldWPage1
  | 0x5 => g.loadForm .ldWu
  | 0x6 => g.loadForm .ldDPage1
  | 0x7 => g.storeForm .stPage1
  | 0x8 => g.loadForm .lda
  | 0x9 => g.storeForm .stl
  | 0xA => g.loadForm .ldp
  | 0xB => g.finish .mem (Half.n0 g.base == 0#4) (.stp g.rel g.attr g.r2 g.r1 g.offset)
  | 0xC => decode1C g
  | 0xD => decode1D g
  | _ =>
    match (Half.n2 g.base).toNat with
    | 0x0 => g.finish ⟨0, 4, true, false, true, false⟩ (Half.n0 g.base == 0#4) (.pf g.rel g.attr g.r1 g.offset)
    | 0x1 => decodeFence g
    | _ => .bad .illegal

/-! ### Page 2 (R45) -/

/-- Page 2 (Table 2-9). -/
def decodePage2 (g : Group) : Decoded :=
  let r := g.rel; let d := g.r1; let a := g.r0
  let z0 := Half.n0 g.base == 0#4
  let snds : Form := ⟨0, 0, true, true, true, true⟩
  match (Half.major g.base).toNat, (Half.n2 g.base).toNat with
  | 0x0, _ => g.finish snds true (.snd r g.attr g.r2 d a)
  | 0x1, _ => g.finish snds true (.sndm r g.attr g.r2 d a)
  | 0x2, _ => g.finish snds true (.sndg r g.attr g.r2 d a)
  | 0x3, _ => g.finish snds true (.snds r g.attr g.r2 d a)
  | 0x4, 0x0 => g.finish .da true (.tagen r d a)
  | 0x4, 0x1 => g.finish .da true (.tagdis r d a)
  | 0x4, 0x2 => g.finish .da true (.tagrd r d a)
  | 0x5, 0x0 => g.finish .da true (.bar r d a)
  | 0x5, 0x1 => g.finish .da true (.barw r d a)
  | 0x6, 0x0 => g.finish .da true (.sopen r d a)
  | 0x6, 0x1 => g.finish .da true (.sclose r d a)
  | 0x6, 0x2 => g.finish .d z0 (.scancel r d)
  | 0x6, 0x3 => g.finish .d z0 (.sshield r d)
  | 0x6, 0x4 => g.finish .d z0 (.sclaim r d)
  | 0x6, 0x5 => g.finish .d z0 (.schk r d)
  | 0x7, 0x0 => g.finish .da true (.fork r d a)
  | 0x7, 0x1 => g.finish .da true (.rdv r d a)
  | 0x7, 0x2 => g.finish .da true (.copy r d a)
  | 0x7, 0x3 => g.finish .da true (.qfence r d a)
  | 0x8, 0x0 => g.finish .da true (.nsend r d a)
  | 0x8, 0x1 => g.finish .da true (.nwrite r d a)
  | 0x8, 0x2 => g.finish .da true (.nread r d a)
  | 0x8, 0x3 => g.finish .da true (.ncst r d a)
  | _, _ => .bad .illegal

/-! ### Page 3 (R46) -/

/-- Page 3 major 0xD (R46). -/
def decode3D (g : Group) : Decoded :=
  let d := Half.n1 g.base; let a := Half.n0 g.base
  match (Half.n2 g.base).toNat with
  | 0x0 => g.finish .da true (.vabs d a)
  | 0x1 => g.finish .da true (.vneg d a)
  | 0x2 => g.finish .da true (.vcvt d a)
  | 0x3 => g.finish .da true (.vexp d a)
  | 0x4 => g.finish .da true (.vlog d a)
  | 0x5 => g.finish .da true (.vrcp d a)
  | 0x6 => g.finish .da true (.vrsq d a)
  | 0x7 => g.finish .da true (.vsqrt d a)
  | 0x8 => g.finish .da true (.vtanh d a)
  | 0x9 => g.finish .da true (.vsig d a)
  | 0xA => g.finish .da true (.verf d a)
  | 0xB => g.finish .da true (.vsin d a)
  | 0xC => g.finish .da true (.vcos d a)
  | 0xD => g.finish .da true (.vfill d a)
  | 0xE => g.finish .da true (.vcpy d a)
  | _ => g.finish .none (d == 0#4 && a == 0#4) .eend

/-- A word of page 3 whose function is the selector of its one `px` (Table 2-3: [9:4] zero). -/
def Form.sel : Form := ⟨1, 1, false, false, true, true⟩

/-- `vcmp`, by its selector (Table 12-7); without a `px` it passes check 4 and traps PREFIX (R39). -/
def decodeVcmp (g : Group) : Decoded :=
  let d := Half.n1 g.base; let a := Half.n0 g.base
  let px := g.px.headD 0
  let ok := px.extractLsb' 4 6 == 0#6
  match (px.extractLsb' 0 4).toNat with
  | 0x0 => g.finish .sel ok (.vcmpEq d a)
  | 0x1 => g.finish .sel ok (.vcmpNe d a)
  | 0x2 => g.finish .sel ok (.vcmpLt d a)
  | 0x3 => g.finish .sel ok (.vcmpLe d a)
  | 0x4 => g.finish .sel ok (.vcmpGt d a)
  | 0x5 => g.finish .sel ok (.vcmpGe d a)
  | 0x6 => g.finish .sel ok (.vcmpUn d a)
  | 0x7 => g.finish .sel ok (.vcmpOr d a)
  | _ => g.finish .sel false (.vcmpEq d a)

/-- `vred`, by its selector (Table 12-8). -/
def decodeVred (g : Group) : Decoded :=
  let d := Half.n1 g.base; let a := Half.n0 g.base
  let px := g.px.headD 0
  let ok := px.extractLsb' 4 6 == 0#6
  match (px.extractLsb' 0 4).toNat with
  | 0x0 => g.finish .sel ok (.vredAdd d a)
  | 0x1 => g.finish .sel ok (.vredMul d a)
  | 0x2 => g.finish .sel ok (.vredMin d a)
  | 0x3 => g.finish .sel ok (.vredMax d a)
  | 0x4 => g.finish .sel ok (.vredAnd d a)
  | 0x5 => g.finish .sel ok (.vredOr d a)
  | 0x6 => g.finish .sel ok (.vredXor d a)
  | _ => g.finish .sel false (.vredAdd d a)

/-- `vscan`, by its selector (Table 12-8). -/
def decodeVscan (g : Group) : Decoded :=
  let d := Half.n1 g.base; let a := Half.n0 g.base
  let px := g.px.headD 0
  let ok := px.extractLsb' 4 6 == 0#6
  match (px.extractLsb' 0 4).toNat with
  | 0x0 => g.finish .sel ok (.vscanAdd d a)
  | 0x1 => g.finish .sel ok (.vscanMul d a)
  | 0x2 => g.finish .sel ok (.vscanMin d a)
  | 0x3 => g.finish .sel ok (.vscanMax d a)
  | 0x4 => g.finish .sel ok (.vscanAnd d a)
  | 0x5 => g.finish .sel ok (.vscanOr d a)
  | 0x6 => g.finish .sel ok (.vscanXor d a)
  | _ => g.finish .sel false (.vscanAdd d a)

/-- Page 3 (R46). -/
def decodePage3 (g : Group) : Decoded :=
  let d := Half.n2 g.base; let a := Half.n1 g.base; let b := Half.n0 g.base
  match (Half.major g.base).toNat with
  | 0x0 => g.finish .dab true (.vadd d a b)
  | 0x1 => g.finish .dab true (.vsub d a b)
  | 0x2 => g.finish .dab true (.vmul d a b)
  | 0x3 => g.finish .dab true (.vfma d a b)
  | 0x4 => g.finish .dab true (.vfms d a b)
  | 0x5 => g.finish .dab true (.vdiv d a b)
  | 0x6 => g.finish .dab true (.vmin d a b)
  | 0x7 => g.finish .dab true (.vmax d a b)
  | 0x8 => g.finish .dab true (.vand d a b)
  | 0x9 => g.finish .dab true (.vor d a b)
  | 0xA => g.finish .dab true (.vxor d a b)
  | 0xB => g.finish .dab true (.vshl d a b)
  | 0xC => g.finish .dab true (.vshr d a b)
  | 0xD => decode3D g
  | _ =>
    match (Half.n2 g.base).toNat with
    | 0x0 => decodeVcmp g
    | 0x1 => g.finish .da (decide (b.toNat + 2 ≤ 15)) (.vsel a b)
    | 0x2 => decodeVred g
    | 0x3 => decodeVscan g
    | 0x4 => g.finish .da (decide (b.toNat + 1 ≤ 15)) (.vgat a b)
    | 0x5 => g.finish .da (decide (b.toNat + 1 ≤ 15)) (.vsca a b)
    | 0x6 => g.finish .da (decide (b.toNat + 1 ≤ 15)) (.vtop a b)
    | _ => .bad .illegal

/-! ### Page 4 (R46) -/

/-- Page 4 major 0x0 (Table 13-6). -/
def decodePage4 (g : Group) : Decoded :=
  let a := Half.n1 g.base; let b := Half.n0 g.base
  match (Half.major g.base).toNat, (Half.n2 g.base).toNat with
  | 0x0, 0x0 => g.finish .da true (.mplane a b)
  | 0x0, 0x1 => g.finish .da true (.mscl a b)
  | 0x0, 0x2 => g.finish .d (b == 0#4) (.mzero a)
  | 0x0, 0x3 => g.finish .da true (.mmul a b)
  | 0x0, 0x4 => g.finish .da true (.mgang a b)
  | 0x0, 0x5 => g.finish .da true (.mst a b)
  | 0x0, 0x6 => g.finish .da true (.macc a b)
  | 0x0, 0x7 => g.finish .none (a == 0#4 && b == 0#4) .eendPage4
  | _, _ => .bad .illegal

/-! ### Page 5 (R47) -/

/-- The highest assigned control-register number (Table 4-8). -/
def lastControlReg : Nat := 0x013

/-- Page 5 major 0x4: an unassigned control-register number is ILLEGAL, one above 4,095 RESERVED (R40, R47, R104). That an
unassigned number is tested with the function at check 4, before the PREFIX cases of check 5, is the model's reading (DEDUCED, log
17). -/
def decode54 (g : Group) : Decoded :=
  let r := g.rel; let d := g.r1
  let u := g.immU 4 (Half.n0 g.base).toNat
  let n : BitVec 12 := BitVec.ofNat 12 u
  let fin := fun (i : Instr) =>
    if lastControlReg < u ∧ u < 4096 then .bad .illegal else g.finish .dImm (decide (u < 4096)) i
  match (Half.n2 g.base).toNat with
  | 0x0 => fin (.crd r d n)
  | 0x1 => fin (.cwr r d n)
  | 0x2 => fin (.cset r d n)
  | 0x3 => fin (.cclr r d n)
  | _ => .bad .illegal

/-- Page 5 (Table 2-10). -/
def decodePage5 (g : Group) : Decoded :=
  let r := g.rel; let d := g.r2; let a := g.r1; let b := g.r0
  let bits := (Half.n0 g.base).toNat
  let u := g.immU 4 bits
  let s : BitVec 44 := BitVec.ofInt 44 (g.immS 4 bits)
  let q : BitVec 2 := (Half.n2 g.base).extractLsb' 2 2
  let k : BitVec 2 := (Half.n2 g.base).extractLsb' 0 2
  match (Half.major g.base).toNat with
  | 0x0 => g.finish .dab true (.div r d a b)
  | 0x1 => g.finish .dab true (.divu r d a b)
  | 0x2 => g.finish .dab true (.rem r d a b)
  | 0x3 => g.finish .dab true (.remu r d a b)
  | 0x4 => decode54 g
  | 0x5 => g.finish .daImm (decide (u < 4096) && decide (u % 64 + u / 64 + 1 ≤ 64))
      (.bextu r d a (BitVec.ofNat 6 u) (BitVec.ofNat 6 (u / 64)))
  | 0x6 => g.finish .daImm true (.lea r d a s)
  | 0x7 =>
    let ok := Half.n0 g.base == 0#4
    if q == 0#2 then g.finish .d ok (.movxToIndex r k a)
    else if q == 1#2 then g.finish .d ok (.movxFromIndex r k a)
    else g.finish .d false (.movxFromIndex r k a)
  | 0x8 => g.finish .dImm (q == 0#2 && a == 0#6) (.addx r k s)
  | 0x9 => g.finish .dImm (Half.n2 g.base == 0#4 && decide (u < 65536)) (.tmark r a (BitVec.ofNat 16 u))
  | _ => .bad .illegal

/-! ### Units (R48) -/

/-- Does the unit accept the word, assigned or not (Table 2-11)? Any `pg` on an engine, and any `pm` on the
vector or matrix sequencer, fails this check as well (R39). -/
def unitAccepts (u : ExecUnit) (g : Group) : Bool :=
  let M := (Half.major g.base).toNat
  let f := (Half.n2 g.base).toNat
  let page := g.page.toNat
  match u with
  | .scalar => page == 0 || page == 1 || page == 2 || page == 5
  | .engine e =>
    g.pg.isNone && (e == .streamer || g.pm.isNone) &&
    ((page == 0 && !(M == 0x9 || M == 0xA || M == 0xB || (M == 0x7 && f == 0xA))) ||
     (page == 2 && e == .streamer && M == 0x7 && (f == 0x2 || f == 0x3)) ||
     (page == 3 && (e == .vector || (e == .streamer && M == 0xD && f == 0xF))) ||
     (page == 4 && e == .matrix) ||
     (page == 5 && (M ≤ 3 || M == 5 || M == 6)))

/-- Checks 4 and 5 of Table 2-12 on a page. -/
def decodeAssigned (g : Group) : Decoded :=
  match g.page.toNat with
  | 0 => decodePage0 g
  | 1 => decodePage1 g
  | 2 => decodePage2 g
  | 3 => decodePage3 g
  | 4 => decodePage4 g
  | 5 => decodePage5 g
  | _ => .bad .illegal

/-- Checks 1 to 5 of Table 2-12, in their order, for a unit. -/
def decodeFor (u : ExecUnit) (ws : GroupWords) : Decoded :=
  match ws.sort with
  | none => .bad .badPrefix
  | some g =>
    if 6 ≤ g.page.toNat then .bad .illegal
    else if unitAccepts u g then decodeAssigned g
    else .bad .enginePage

/-- Checks 1, 2, 4 and 5, for whichever unit may execute the group. -/
def decodeWords (ws : GroupWords) : Decoded :=
  match ws.sort with
  | none => .bad .badPrefix
  | some g => decodeAssigned g

/-! ### Gorivo (R392, R393) -/

/-- What the loader's checks of one word answer: the instruction, or the code of R393. -/
inductive GorivoDecoded
  | ok (i : Instr)
  | bad (code : Nat)
  deriving DecidableEq, Repr

/-- A Gorivo word: OP in [31:26], D in [25:22], A in [21:18], B in [17:14], an immediate in [13:0] or [17:0]
(R392). Codes 1, 2 and 3 of R393, in that order; codes 4 to 6 concern the whole program. -/
def decodeGorivo (w : BitVec 32) : GorivoDecoded :=
  let d : BitVec 4 := w.extractLsb' 22 4
  let a : BitVec 4 := w.extractLsb' 18 4
  let b : BitVec 4 := w.extractLsb' 14 4
  let i14 : BitVec 14 := w.extractLsb' 0 14
  let i18 : BitVec 18 := w.extractLsb' 0 18
  let zd := d == 0#4
  let za := a == 0#4
  let z14 := i14 == 0#14
  let z18 := i18 == 0#18
  let fin := fun (unused : Bool) (range : Bool) (i : Instr) =>
    if unused then (if range then GorivoDecoded.ok i else .bad 3) else .bad 2
  match (w.extractLsb' 26 6).toNat with
  | 0x01 => fin za (decide (i18.toNat ≤ 3)) (.gorivoLdr d i18)
  | 0x02 => fin za true (.gorivoLdi d i18)
  | 0x03 => fin za true (.gorivoLdh d i18)
  | 0x04 => fin z14 true (.gorivoAdd d a b)
  | 0x05 => fin z14 true (.gorivoSub d a b)
  | 0x06 => fin z14 true (.gorivoAnd d a b)
  | 0x07 => fin z14 true (.gorivoOr d a b)
  | 0x08 => fin z14 true (.gorivoXor d a b)
  | 0x09 => fin true (decide (i18.toNat ≤ 63)) (.gorivoShli d a i18)
  | 0x0A => fin true (decide (i18.toNat ≤ 63)) (.gorivoShri d a i18)
  | 0x0B => fin true true (.gorivoAndi d a i18)
  | 0x0C => fin zd (decide (i18.toNat ≤ 63)) (.gorivoCadd a i18)
  | 0x0D => fin zd (decide (i18.toNat ≤ 63)) (.gorivoCset a i18)
  | 0x0E => fin za (decide (i18.toNat ≤ 63)) (.gorivoCrd d i18)
  | 0x10 => fin zd true (.gorivoBeq a b i14)
  | 0x11 => fin zd true (.gorivoBne a b i14)
  | 0x12 => fin zd true (.gorivoBltu a b i14)
  | 0x13 => fin zd true (.gorivoBgeu a b i14)
  | 0x14 => fin (zd && za) true (.gorivoBr i18)
  | 0x20 => fin (zd && za && z18) true .gorivoKeep
  | 0x21 => fin (zd && za && z18) true .gorivoDrop
  | 0x22 => fin (zd && za) (decide (i18.toNat ≤ 63)) (.gorivoCount i18)
  | 0x23 => fin (zd && za && decide (i18.toNat < 8)) true (.gorivoTrigger (i18.extractLsb' 0 3))
  | _ => .bad 1

/-- The instruction of a row of spec/opcode_table.json: a 16-bit number is a base word of page 0; a 32-bit
number whose high half is a prefix word is that prefix followed by the base word of its low half, as the table
numbers them; any other 32-bit number is a Gorivo word (log 8). -/
def decodeTableWord (nbits w : Nat) : Option Instr :=
  let hi : Half := BitVec.ofNat 16 (w / 65536)
  let lo : Half := BitVec.ofNat 16 w
  let answer := fun (d : Decoded) => match d with | .ok i => some i | .bad _ => none
  if nbits ≤ 16 then
    if Half.isPfx lo then none else answer (decodeWords ⟨[], lo⟩)
  else if Half.isPfx hi then
    if Half.isPfx lo then none else answer (decodeWords ⟨[hi], lo⟩)
  else
    match decodeGorivo (BitVec.ofNat 32 w) with | .ok i => some i | .bad _ => none

/-! ### The encoder, from the same tables -/

/-- The two bits of a class (Table 2-2). -/
def classBits : MemClass → BitVec 2 | .o => 0#2 | .a => 1#2 | .v => 2#2
/-- The two bits of a wait condition (Table 2-2). -/
def waitBits : WaitCond → BitVec 2 | .none => 0#2 | .a => 1#2 | .v => 2#2 | .all => 3#2
/-- The two bits of a scope (Table 2-2). -/
def scopeBits : SyncScope → BitVec 2 | .cell => 0#2 | .die => 1#2 | .device => 2#2 | .system => 3#2
/-- The two bits of a store width (Table 2-4). -/
def widthBits : Width → BitVec 2 | .b => 0#2 | .h => 1#2 | .w => 2#2 | .d => 3#2
/-- A flag as one bit. -/
def bit1 (b : Bool) : BitVec 1 := if b then 1#1 else 0#1

/-- The `pm` of some attributes; the default ones need none (R41). -/
def pmOf (t : Attr) : Option (BitVec 10) :=
  if t = Attr.default then none
  else some (classBits t.cls ++ waitBits t.wait ++ scopeBits t.scope ++ t.hint)

/-- The `pg` of the high bits of the three positions and a relative mode; none where all are zero (R36, R37). -/
def pgOf (r : Rel) (h2 h1 h0 : BitVec 2) : Option (BitVec 10) :=
  match r with
  | none => if h2 = 0#2 ∧ h1 = 0#2 ∧ h0 = 0#2 then none
      else some (h2 ++ h1 ++ h0 ++ (0#1 : BitVec 1) ++ (0#2 : BitVec 2) ++ (0#1 : BitVec 1))
  | some k => some (h2 ++ h1 ++ h0 ++ (1#1 : BitVec 1) ++ k ++ (0#1 : BitVec 1))

/-- The `pp` of a page; page 0 needs none (R42). -/
def ppOf (page : BitVec 4) : Option (BitVec 10) := if page = 0#4 then none else some ((0#6 : BitVec 6) ++ page)

/-- The high bits of a register number. -/
def RegNum.hi (r : RegNum) : BitVec 2 := r.extractLsb' 4 2
/-- The field bits of a register number. -/
def RegNum.lo (r : RegNum) : BitVec 4 := r.extractLsb' 0 4

/-- A group with register fields at [11:8], [7:4] and [3:0]. -/
def encDab (page : BitVec 4) (pm : Option (BitVec 10)) (r : Rel) (major : BitVec 4) (d a b : RegNum) : Group :=
  ⟨pm, pgOf r d.hi a.hi b.hi, ppOf page, [], Half.ofNibbles major d.lo a.lo b.lo⟩
/-- A group of format G: function, register fields at [7:4] and [3:0]. -/
def encDa (page : BitVec 4) (r : Rel) (major f : BitVec 4) (d a : RegNum) : Group :=
  ⟨none, pgOf r 0#2 d.hi a.hi, ppOf page, [], Half.ofNibbles major f d.lo a.lo⟩
/-- A group without register fields. -/
def encPlain (page : BitVec 4) (px : List (BitVec 10)) (w : Half) : Group := ⟨none, none, ppOf page, px, w⟩
/-- A group of format I. -/
def encI (page : BitVec 4) (r : Rel) (major f : BitVec 4) (d : RegNum) (s : SplitImm) : Group :=
  ⟨none, pgOf r 0#2 d.hi 0#2, ppOf page, s.px, Half.ofNibbles major f d.lo (BitVec.ofNat 4 s.bits)⟩
/-- A group of format D. -/
def encD (page : BitVec 4) (r : Rel) (major : BitVec 4) (d a : RegNum) (s : SplitImm) : Group :=
  ⟨none, pgOf r d.hi a.hi 0#2, ppOf page, s.px, Half.ofNibbles major d.lo a.lo (BitVec.ofNat 4 s.bits)⟩
/-- A group of format L or S: an offset in `px` prefixes and the low nibble `lo`. -/
def encMem (page : BitVec 4) (r : Rel) (t : Attr) (major : BitVec 4) (d n : RegNum) (off : BitVec 40)
    (lo : BitVec 4) : Group :=
  ⟨pmOf t, pgOf r d.hi n.hi 0#2, ppOf page, (splitS 0 off.toInt).px, Half.ofNibbles major d.lo n.lo lo⟩
/-- A group of format S. -/
def encStore (page : BitVec 4) (r : Rel) (t : Attr) (major : BitVec 4) (w : Width) (v n : RegNum)
    (off : BitVec 40) : Group :=
  encMem page r t major v n off ((0#2 : BitVec 2) ++ widthBits w)
/-- A group of format F with its selector. -/
def encF (r : Rel) (t : Attr) (major : BitVec 4) (a b : RegNum) (sel : BitVec 10) (l : BitVec 4) : Group :=
  ⟨pmOf t, pgOf r a.hi b.hi 0#2, ppOf 1#4, [sel], Half.ofNibbles major a.lo b.lo l⟩
/-- The selector of an atomic (Table 2-7). -/
def atomSel (f : AtomForm) (op : BitVec 4) : BitVec 10 := (0#4 : BitVec 4) ++ bit1 f.word ++ bit1 f.posted ++ op
/-- A selector without further bits (Tables 2-8, 12-7, 12-8). -/
def plainSel (op : BitVec 4) : BitVec 10 := (0#6 : BitVec 6) ++ op
/-- A compare-branch (R88). -/
def encC (r : Rel) (c : BitVec 4) (a b : RegNum) (off : BitVec 10) : Group :=
  ⟨none, pgOf r a.hi b.hi 0#2, none, [off], Half.ofNibbles 0xC#4 a.lo b.lo c⟩
/-- A short branch (R89). -/
def encZ (r : Rel) (c : BitVec 2) (a : RegNum) (off : BitVec 46) : Group :=
  let s := splitS 6 off.toInt
  ⟨none, pgOf r 0#2 0#2 a.hi, none, s.px, (0xD#4 : BitVec 4) ++ c ++ BitVec.ofNat 6 s.bits ++ a.lo⟩
/-- A long branch (R90). -/
def encJ (c : BitVec 2) (off : BitVec 50) : Group :=
  let s := splitS 10 off.toInt
  ⟨none, none, none, s.px, (0xE#4 : BitVec 4) ++ c ++ BitVec.ofNat 10 s.bits⟩
/-- The low byte of a fence (Table 2-6). -/
def encFence (m : FenceMask) (kind : BitVec 2) (sc : SyncScope) : Group :=
  encPlain 1#4 [] (Half.ofNibbles 0xE#4 0x1#4 (bit1 m.o ++ bit1 m.a ++ bit1 m.v ++ bit1 m.e) (kind ++ scopeBits sc))
/-- A page-3 or page-4 group with engine registers. -/
def encE (page : BitVec 4) (px : List (BitVec 10)) (major x y z : BitVec 4) : Group :=
  encPlain page px (Half.ofNibbles major x y z)

/-- The bit-field immediate (R86). -/
def bitFieldImm (p lm1 : BitVec 6) : Nat := lm1.toNat * 64 + p.toNat

/-- The group of an instruction; none for Gorivo words and for the steps that no word encodes. -/
def encodeGroup : Instr → Option Group
  | .add r d a b => some (encDab 0#4 none r 0x0#4 d a b)
  | .sub r d a b => some (encDab 0#4 none r 0x1#4 d a b)
  | .and r d a b => some (encDab 0#4 none r 0x2#4 d a b)
  | .or r d a b => some (encDab 0#4 none r 0x3#4 d a b)
  | .xor r d a b => some (encDab 0#4 none r 0x4#4 d a b)
  | .mul r d a b => some (encDab 0#4 none r 0x5#4 d a b)
  | .shl r d a => some (encDa 0#4 r 0x6#4 0x0#4 d a)
  | .shr r d a => some (encDa 0#4 r 0x6#4 0x1#4 d a)
  | .sar r d a => some (encDa 0#4 r 0x6#4 0x2#4 d a)
  | .rol r d a => some (encDa 0#4 r 0x6#4 0x3#4 d a)
  | .ror r d a => some (encDa 0#4 r 0x6#4 0x4#4 d a)
  | .andn r d a => some (encDa 0#4 r 0x6#4 0x5#4 d a)
  | .min r d a => some (encDa 0#4 r 0x6#4 0x6#4 d a)
  | .max r d a => some (encDa 0#4 r 0x6#4 0x7#4 d a)
  | .minu r d a => some (encDa 0#4 r 0x6#4 0x8#4 d a)
  | .maxu r d a => some (encDa 0#4 r 0x6#4 0x9#4 d a)
  | .mulh r d a => some (encDa 0#4 r 0x6#4 0xA#4 d a)
  | .mulhu r d a => some (encDa 0#4 r 0x6#4 0xB#4 d a)
  | .seq r d a => some (encDa 0#4 r 0x6#4 0xC#4 d a)
  | .sne r d a => some (encDa 0#4 r 0x6#4 0xD#4 d a)
  | .slt r d a => some (encDa 0#4 r 0x6#4 0xE#4 d a)
  | .sltu r d a => some (encDa 0#4 r 0x6#4 0xF#4 d a)
  | .mov r d a => some (encDa 0#4 r 0x7#4 0x0#4 d a)
  | .neg r d a => some (encDa 0#4 r 0x7#4 0x1#4 d a)
  | .not r d a => some (encDa 0#4 r 0x7#4 0x2#4 d a)
  | .clz r d a => some (encDa 0#4 r 0x7#4 0x3#4 d a)
  | .ctz r d a => some (encDa 0#4 r 0x7#4 0x4#4 d a)
  | .popc r d a => some (encDa 0#4 r 0x7#4 0x5#4 d a)
  | .bswap r d a => some (encDa 0#4 r 0x7#4 0x6#4 d a)
  | .jr r a => some (encDa 0#4 r 0x7#4 0x7#4 0#6 a)
  | .jalr r d a => some (encDa 0#4 r 0x7#4 0x8#4 d a)
  | .ret => some (encPlain 0#4 [] 0x7900#16)
  | .done => some (encPlain 0#4 [] 0x7A00#16)
  | .trap c => some (encPlain 0#4 [] ((0x7B#8 : BitVec 8) ++ c))
  | .brk c => some (encPlain 0#4 [] ((0x7C#8 : BitVec 8) ++ c))
  | .nop => some (encPlain 0#4 [] 0x7D00#16)
  | .ifence => some (encPlain 0#4 [] 0x7E00#16)
  | .rdtime r d => some (encDa 0#4 r 0x7#4 0xF#4 d 0#6)
  | .li r d imm => some (encI 0#4 r 0x8#4 0x0#4 d (splitS 4 imm.toInt))
  | .addi r d imm => some (encI 0#4 r 0x8#4 0x1#4 d (splitS 4 imm.toInt))
  | .andi r d imm => some (encI 0#4 r 0x8#4 0x2#4 d (splitS 4 imm.toInt))
  | .ori r d imm => some (encI 0#4 r 0x8#4 0x3#4 d (splitS 4 imm.toInt))
  | .xori r d imm => some (encI 0#4 r 0x8#4 0x4#4 d (splitS 4 imm.toInt))
  | .shli r d n => some (encI 0#4 r 0x8#4 0x5#4 d (splitU 4 n.toNat))
  | .shri r d n => some (encI 0#4 r 0x8#4 0x6#4 d (splitU 4 n.toNat))
  | .sari r d n => some (encI 0#4 r 0x8#4 0x7#4 d (splitU 4 n.toNat))
  | .slti r d imm => some (encI 0#4 r 0x8#4 0x8#4 d (splitS 4 imm.toInt))
  | .sltui r d imm => some (encI 0#4 r 0x8#4 0x9#4 d (splitS 4 imm.toInt))
  | .sext r d n => some (encI 0#4 r 0x8#4 0xA#4 d (splitU 4 n.toNat))
  | .zext r d n => some (encI 0#4 r 0x8#4 0xB#4 d (splitU 4 n.toNat))
  | .bext r d p l => some (encI 0#4 r 0x8#4 0xC#4 d (splitU 4 (bitFieldImm p l)))
  | .bins r d p l => some (encI 0#4 r 0x8#4 0xD#4 d (splitU 4 (bitFieldImm p l)))
  | .ldW r t d n off l => some (encMem 0#4 r t 0x9#4 d n off l)
  | .ldD r t d n off l => some (encMem 0#4 r t 0xA#4 d n off l)
  | .st r t w v n off => some (encStore 0#4 r t 0xB#4 w v n off)
  | .beq r a b off => some (encC r 0x0#4 a b off)
  | .bne r a b off => some (encC r 0x1#4 a b off)
  | .blt r a b off => some (encC r 0x2#4 a b off)
  | .bge r a b off => some (encC r 0x3#4 a b off)
  | .bltu r a b off => some (encC r 0x4#4 a b off)
  | .bgeu r a b off => some (encC r 0x5#4 a b off)
  | .bz r a off => some (encZ r 0#2 a off)
  | .bnz r a off => some (encZ r 1#2 a off)
  | .bltz r a off => some (encZ r 2#2 a off)
  | .bgez r a off => some (encZ r 3#2 a off)
  | .br off => some (encJ 0#2 off)
  | .jal off => some (encJ 1#2 off)
  | .lp off => some (encJ 2#2 off)
  | .ldB r t d n off l => some (encMem 1#4 r t 0x0#4 d n off l)
  | .ldBu r t d n off l => some (encMem 1#4 r t 0x1#4 d n off l)
  | .ldH r t d n off l => some (encMem 1#4 r t 0x2#4 d n off l)
  | .ldHu r t d n off l => some (encMem 1#4 r t 0x3#4 d n off l)
  | .ldWPage1 r t d n off l => some (encMem 1#4 r t 0x4#4 d n off l)
  | .ldWu r t d n off l => some (encMem 1#4 r t 0x5#4 d n off l)
  | .ldDPage1 r t d n off l => some (encMem 1#4 r t 0x6#4 d n off l)
  | .stPage1 r t w v n off => some (encStore 1#4 r t 0x7#4 w v n off)
  | .lda r t d n off l => some (encMem 1#4 r t 0x8#4 d n off l)
  | .stl r t w v n off => some (encStore 1#4 r t 0x9#4 w v n off)
  | .ldp r t d n off l => some (encMem 1#4 r t 0xA#4 d n off l)
  | .stp r t v n off => some (encMem 1#4 r t 0xB#4 v n off 0#4)
  | .pf r t n off => some ⟨pmOf t, pgOf r 0#2 n.hi 0#2, ppOf 1#4, (splitS 0 off.toInt).px,
      Half.ofNibbles 0xE#4 0x0#4 n.lo 0#4⟩
  | .fence m sc => some (encFence m 2#2 sc)
  | .fenceAcq m sc => some (encFence m 0#2 sc)
  | .fenceRel m sc => some (encFence m 1#2 sc)
  | .aadd r t f a b l => some (encF r t 0xC#4 a b (atomSel f 0x0#4) l)
  | .aand r t f a b l => some (encF r t 0xC#4 a b (atomSel f 0x1#4) l)
  | .aor r t f a b l => some (encF r t 0xC#4 a b (atomSel f 0x2#4) l)
  | .axor r t f a b l => some (encF r t 0xC#4 a b (atomSel f 0x3#4) l)
  | .amin r t f a b l => some (encF r t 0xC#4 a b (atomSel f 0x4#4) l)
  | .amax r t f a b l => some (encF r t 0xC#4 a b (atomSel f 0x5#4) l)
  | .aminu r t f a b l => some (encF r t 0xC#4 a b (atomSel f 0x6#4) l)
  | .amaxu r t f a b l => some (encF r t 0xC#4 a b (atomSel f 0x7#4) l)
  | .aswap r t f a b l => some (encF r t 0xC#4 a b (atomSel f 0x8#4) l)
  | .acas r t f a b l => some (encF r t 0xC#4 a b (atomSel f 0x9#4) l)
  | .ainc r t f a b l => some (encF r t 0xC#4 a b (atomSel f 0xA#4) l)
  | .adec r t f a b l => some (encF r t 0xC#4 a b (atomSel f 0xB#4) l)
  | .afadd r t f a b l => some (encF r t 0xC#4 a b (atomSel f 0xC#4) l)
  | .fcfg r t a b l => some (encF r t 0xD#4 a b (plainSel 0x0#4) l)
  | .fins r t a b l => some (encF r t 0xD#4 a b (plainSel 0x1#4) l)
  | .fmerge r t a b l => some (encF r t 0xD#4 a b (plainSel 0x2#4) l)
  | .frd r t a b l => some (encF r t 0xD#4 a b (plainSel 0x3#4) l)
  | .fclr r t a b l => some (encF r t 0xD#4 a b (plainSel 0x4#4) l)
  | .fstat r t a b l => some (encF r t 0xD#4 a b (plainSel 0x5#4) l)
  | .snd r t d a b => some (encDab 2#4 (pmOf t) r 0x0#4 d a b)
  | .sndm r t d a b => some (encDab 2#4 (pmOf t) r 0x1#4 d a b)
  | .sndg r t d a b => some (encDab 2#4 (pmOf t) r 0x2#4 d a b)
  | .snds r t d a b => some (encDab 2#4 (pmOf t) r 0x3#4 d a b)
  | .tagen r d a => some (encDa 2#4 r 0x4#4 0x0#4 d a)
  | .tagdis r d a => some (encDa 2#4 r 0x4#4 0x1#4 d a)
  | .tagrd r d a => some (encDa 2#4 r 0x4#4 0x2#4 d a)
  | .bar r d a => some (encDa 2#4 r 0x5#4 0x0#4 d a)
  | .barw r d a => some (encDa 2#4 r 0x5#4 0x1#4 d a)
  | .sopen r d a => some (encDa 2#4 r 0x6#4 0x0#4 d a)
  | .sclose r d a => some (encDa 2#4 r 0x6#4 0x1#4 d a)
  | .scancel r d => some (encDa 2#4 r 0x6#4 0x2#4 d 0#6)
  | .sshield r d => some (encDa 2#4 r 0x6#4 0x3#4 d 0#6)
  | .sclaim r d => some (encDa 2#4 r 0x6#4 0x4#4 d 0#6)
  | .schk r d => some (encDa 2#4 r 0x6#4 0x5#4 d 0#6)
  | .fork r d a => some (encDa 2#4 r 0x7#4 0x0#4 d a)
  | .rdv r d a => some (encDa 2#4 r 0x7#4 0x1#4 d a)
  | .copy r d a => some (encDa 2#4 r 0x7#4 0x2#4 d a)
  | .qfence r d a => some (encDa 2#4 r 0x7#4 0x3#4 d a)
  | .nsend r d a => some (encDa 2#4 r 0x8#4 0x0#4 d a)
  | .nwrite r d a => some (encDa 2#4 r 0x8#4 0x1#4 d a)
  | .nread r d a => some (encDa 2#4 r 0x8#4 0x2#4 d a)
  | .ncst r d a => some (encDa 2#4 r 0x8#4 0x3#4 d a)
  | .vadd d a b => some (encE 3#4 [] 0x0#4 d a b)
  | .vsub d a b => some (encE 3#4 [] 0x1#4 d a b)
  | .vmul d a b => some (encE 3#4 [] 0x2#4 d a b)
  | .vfma d a b => some (encE 3#4 [] 0x3#4 d a b)
  | .vfms d a b => some (encE 3#4 [] 0x4#4 d a b)
  | .vdiv d a b => some (encE 3#4 [] 0x5#4 d a b)
  | .vmin d a b => some (encE 3#4 [] 0x6#4 d a b)
  | .vmax d a b => some (encE 3#4 [] 0x7#4 d a b)
  | .vand d a b => some (encE 3#4 [] 0x8#4 d a b)
  | .vor d a b => some (encE 3#4 [] 0x9#4 d a b)
  | .vxor d a b => some (encE 3#4 [] 0xA#4 d a b)
  | .vshl d a b => some (encE 3#4 [] 0xB#4 d a b)
  | .vshr d a b => some (encE 3#4 [] 0xC#4 d a b)
  | .vabs d a => some (encE 3#4 [] 0xD#4 0x0#4 d a)
  | .vneg d a => some (encE 3#4 [] 0xD#4 0x1#4 d a)
  | .vcvt d a => some (encE 3#4 [] 0xD#4 0x2#4 d a)
  | .vexp d a => some (encE 3#4 [] 0xD#4 0x3#4 d a)
  | .vlog d a => some (encE 3#4 [] 0xD#4 0x4#4 d a)
  | .vrcp d a => some (encE 3#4 [] 0xD#4 0x5#4 d a)
  | .vrsq d a => some (encE 3#4 [] 0xD#4 0x6#4 d a)
  | .vsqrt d a => some (encE 3#4 [] 0xD#4 0x7#4 d a)
  | .vtanh d a => some (encE 3#4 [] 0xD#4 0x8#4 d a)
  | .vsig d a => some (encE 3#4 [] 0xD#4 0x9#4 d a)
  | .verf d a => some (encE 3#4 [] 0xD#4 0xA#4 d a)
  | .vsin d a => some (encE 3#4 [] 0xD#4 0xB#4 d a)
  | .vcos d a => some (encE 3#4 [] 0xD#4 0xC#4 d a)
  | .vfill d a => some (encE 3#4 [] 0xD#4 0xD#4 d a)
  | .vcpy d a => some (encE 3#4 [] 0xD#4 0xE#4 d a)
  | .eend => some (encE 3#4 [] 0xD#4 0xF#4 0#4 0#4)
  | .vcmpEq d a => some (encE 3#4 [plainSel 0x0#4] 0xE#4 0x0#4 d a)
  | .vcmpNe d a => some (encE 3#4 [plainSel 0x1#4] 0xE#4 0x0#4 d a)
  | .vcmpLt d a => some (encE 3#4 [plainSel 0x2#4] 0xE#4 0x0#4 d a)
  | .vcmpLe d a => some (encE 3#4 [plainSel 0x3#4] 0xE#4 0x0#4 d a)
  | .vcmpGt d a => some (encE 3#4 [plainSel 0x4#4] 0xE#4 0x0#4 d a)
  | .vcmpGe d a => some (encE 3#4 [plainSel 0x5#4] 0xE#4 0x0#4 d a)
  | .vcmpUn d a => some (encE 3#4 [plainSel 0x6#4] 0xE#4 0x0#4 d a)
  | .vcmpOr d a => some (encE 3#4 [plainSel 0x7#4] 0xE#4 0x0#4 d a)
  | .vsel d a => some (encE 3#4 [] 0xE#4 0x1#4 d a)
  | .vredAdd d a => some (encE 3#4 [plainSel 0x0#4] 0xE#4 0x2#4 d a)
  | .vredMul d a => some (encE 3#4 [plainSel 0x1#4] 0xE#4 0x2#4 d a)
  | .vredMin d a => some (encE 3#4 [plainSel 0x2#4] 0xE#4 0x2#4 d a)
  | .vredMax d a => some (encE 3#4 [plainSel 0x3#4] 0xE#4 0x2#4 d a)
  | .vredAnd d a => some (encE 3#4 [plainSel 0x4#4] 0xE#4 0x2#4 d a)
  | .vredOr d a => some (encE 3#4 [plainSel 0x5#4] 0xE#4 0x2#4 d a)
  | .vredXor d a => some (encE 3#4 [plainSel 0x6#4] 0xE#4 0x2#4 d a)
  | .vscanAdd d a => some (encE 3#4 [plainSel 0x0#4] 0xE#4 0x3#4 d a)
  | .vscanMul d a => some (encE 3#4 [plainSel 0x1#4] 0xE#4 0x3#4 d a)
  | .vscanMin d a => some (encE 3#4 [plainSel 0x2#4] 0xE#4 0x3#4 d a)
  | .vscanMax d a => some (encE 3#4 [plainSel 0x3#4] 0xE#4 0x3#4 d a)
  | .vscanAnd d a => some (encE 3#4 [plainSel 0x4#4] 0xE#4 0x3#4 d a)
  | .vscanOr d a => some (encE 3#4 [plainSel 0x5#4] 0xE#4 0x3#4 d a)
  | .vscanXor d a => some (encE 3#4 [plainSel 0x6#4] 0xE#4 0x3#4 d a)
  | .vgat d a => some (encE 3#4 [] 0xE#4 0x4#4 d a)
  | .vsca d a => some (encE 3#4 [] 0xE#4 0x5#4 d a)
  | .vtop d a => some (encE 3#4 [] 0xE#4 0x6#4 d a)
  | .mplane a b => some (encE 4#4 [] 0x0#4 0x0#4 a b)
  | .mscl a b => some (encE 4#4 [] 0x0#4 0x1#4 a b)
  | .mzero a => some (encE 4#4 [] 0x0#4 0x2#4 a 0#4)
  | .mmul a b => some (encE 4#4 [] 0x0#4 0x3#4 a b)
  | .mgang a b => some (encE 4#4 [] 0x0#4 0x4#4 a b)
  | .mst a b => some (encE 4#4 [] 0x0#4 0x5#4 a b)
  | .macc a b => some (encE 4#4 [] 0x0#4 0x6#4 a b)
  | .eendPage4 => some (encE 4#4 [] 0x0#4 0x7#4 0#4 0#4)
  | .div r d a b => some (encDab 5#4 none r 0x0#4 d a b)
  | .divu r d a b => some (encDab 5#4 none r 0x1#4 d a b)
  | .rem r d a b => some (encDab 5#4 none r 0x2#4 d a b)
  | .remu r d a b => some (encDab 5#4 none r 0x3#4 d a b)
  | .crd r d n => some (encI 5#4 r 0x4#4 0x0#4 d (splitU 4 n.toNat))
  | .cwr r d n => some (encI 5#4 r 0x4#4 0x1#4 d (splitU 4 n.toNat))
  | .cset r d n => some (encI 5#4 r 0x4#4 0x2#4 d (splitU 4 n.toNat))
  | .cclr r d n => some (encI 5#4 r 0x4#4 0x3#4 d (splitU 4 n.toNat))
  | .bextu r d a p l => some (encD 5#4 r 0x5#4 d a (splitU 4 (bitFieldImm p l)))
  | .lea r d a imm => some (encD 5#4 r 0x6#4 d a (splitS 4 imm.toInt))
  | .movxToIndex r k a => some ⟨none, pgOf r 0#2 a.hi 0#2, ppOf 5#4, [],
      Half.ofNibbles 0x7#4 ((0#2 : BitVec 2) ++ k) a.lo 0#4⟩
  | .movxFromIndex r k a => some ⟨none, pgOf r 0#2 a.hi 0#2, ppOf 5#4, [],
      Half.ofNibbles 0x7#4 ((1#2 : BitVec 2) ++ k) a.lo 0#4⟩
  | .addx r k imm =>
    let s := splitS 4 imm.toInt
    some ⟨none, pgOf r 0#2 0#2 0#2, ppOf 5#4, s.px,
      Half.ofNibbles 0x8#4 ((0#2 : BitVec 2) ++ k) 0#4 (BitVec.ofNat 4 s.bits)⟩
  | .tmark r a code => some (encI 5#4 r 0x9#4 0#4 a (splitU 4 code.toNat))
  | _ => none

/-- A Gorivo word from its fields (R392). -/
def gorivoWord (op : BitVec 6) (d a b : BitVec 4) (i : BitVec 14) : BitVec 32 := op ++ d ++ a ++ b ++ i
/-- A Gorivo word with an immediate of 18 bits. -/
def gorivoWord18 (op : BitVec 6) (d a : BitVec 4) (i : BitVec 18) : BitVec 32 := op ++ d ++ a ++ i

/-- The word of a Gorivo instruction (Table 19-5); none for the others. -/
def encodeGorivo : Instr → Option (BitVec 32)
  | .gorivoLdr d n => some (gorivoWord18 0x01#6 d 0#4 n)
  | .gorivoLdi d i => some (gorivoWord18 0x02#6 d 0#4 i)
  | .gorivoLdh d i => some (gorivoWord18 0x03#6 d 0#4 i)
  | .gorivoAdd d a b => some (gorivoWord 0x04#6 d a b 0#14)
  | .gorivoSub d a b => some (gorivoWord 0x05#6 d a b 0#14)
  | .gorivoAnd d a b => some (gorivoWord 0x06#6 d a b 0#14)
  | .gorivoOr d a b => some (gorivoWord 0x07#6 d a b 0#14)
  | .gorivoXor d a b => some (gorivoWord 0x08#6 d a b 0#14)
  | .gorivoShli d a n => some (gorivoWord18 0x09#6 d a n)
  | .gorivoShri d a n => some (gorivoWord18 0x0A#6 d a n)
  | .gorivoAndi d a i => some (gorivoWord18 0x0B#6 d a i)
  | .gorivoCadd a n => some (gorivoWord18 0x0C#6 0#4 a n)
  | .gorivoCset a n => some (gorivoWord18 0x0D#6 0#4 a n)
  | .gorivoCrd d n => some (gorivoWord18 0x0E#6 d 0#4 n)
  | .gorivoBeq a b o => some (gorivoWord 0x10#6 0#4 a b o)
  | .gorivoBne a b o => some (gorivoWord 0x11#6 0#4 a b o)
  | .gorivoBltu a b o => some (gorivoWord 0x12#6 0#4 a b o)
  | .gorivoBgeu a b o => some (gorivoWord 0x13#6 0#4 a b o)
  | .gorivoBr o => some (gorivoWord18 0x14#6 0#4 0#4 o)
  | .gorivoKeep => some (gorivoWord18 0x20#6 0#4 0#4 0#18)
  | .gorivoDrop => some (gorivoWord18 0x21#6 0#4 0#4 0#18)
  | .gorivoCount n => some (gorivoWord18 0x22#6 0#4 0#4 n)
  | .gorivoTrigger m => some (gorivoWord18 0x23#6 0#4 0#4 ((0#15 : BitVec 15) ++ m))
  | _ => none

/-- The halfwords of an instruction as memory holds them: its group, or the two halves of its Gorivo word, low
half first (R34, R392). A step that no word encodes has none. -/
def encode (i : Instr) : List Half :=
  match encodeGroup i with
  | some g => g.words.pfx ++ [g.words.base]
  | none =>
    match encodeGorivo i with
    | some w => [w.extractLsb' 0 16, w.extractLsb' 16 16]
    | none => []

end Sys2Proof
end

