-- ==== Sys2Proof/Machine/Mem.lean ====
section
/-! DEFINITION. Sparse tables, register files and memory as plain data. Memory is one list of cells over a flat
physical numbering (log 1): near scratch of every cell, then every slice, then far memory (spec 01, R12, R22;
spec 09, R175, R182). -/

namespace Sys2Proof.Machine

/-- A sparse table: pairs of a key and a value. -/
abbrev AL (α : Type) := List (Nat × α)

/-- The entry of a key, if listed. -/
def AL.find {α : Type} : AL α → Nat → Option α
  | [], _ => none
  | (k, v) :: t, j => if k = j then some v else AL.find t j

/-- The entry of a key, or a default. -/
def AL.get {α : Type} (d : α) (l : AL α) (k : Nat) : α := (AL.find l k).getD d

/-- Is the key listed? -/
def AL.has {α : Type} (l : AL α) (k : Nat) : Bool := (AL.find l k).isSome

/-- Set an entry, keeping rising keys rising. -/
def AL.put {α : Type} : AL α → Nat → α → AL α
  | [], k, v => [(k, v)]
  | (j, x) :: t, k, v =>
    if k < j then (k, v) :: (j, x) :: t
    else if k = j then (k, v) :: t
    else (j, x) :: AL.put t k v

/-- Drop an entry. -/
def AL.del {α : Type} (l : AL α) (k : Nat) : AL α := l.filter (fun p => p.1 != k)

/-- The values, in rising key order. -/
def AL.vals {α : Type} (l : AL α) : List α := l.map Prod.snd

/-- Registers: a sparse table in which an unlisted register reads zero. -/
abbrev Regs := AL Word

/-- Read a register. -/
def Regs.get (r : Regs) (k : Nat) : Word := AL.get 0 r k
/-- Write a register; a zero is not listed. -/
def Regs.set (r : Regs) (k : Nat) (v : Word) : Regs := if v = 0 then AL.del r k else AL.put r k v

/-! ### Memory -/

/-- Memory: the bytes that are not zero, by rising flat address. -/
abbrev Memory := List Host.Cell

/-- What a byte that is not listed reads as: far memory and near scratch by R429 and R328, a slice by
DESIGN CHOICE (log 2). -/
def Memory.unlisted : Byte := 0

/-- Read one byte. -/
def Memory.get (m : Memory) (a : Nat) : Byte := AL.get Memory.unlisted m a

/-- Insert a byte that is not the unlisted one at its place. -/
def Memory.insert : Memory → Nat → Byte → Memory
  | [], a, b => [(a, b)]
  | (j, x) :: t, a, b => if a < j then (a, b) :: (j, x) :: t else (j, x) :: Memory.insert t a b

/-- Write one byte; writing what an unlisted byte reads as takes the entry out. -/
def Memory.set (m : Memory) (a : Nat) (b : Byte) : Memory :=
  let m' := m.filter (fun p => p.1 != a)
  if b = Memory.unlisted then m' else Memory.insert m' a b

/-- Addresses strictly rising from a bound on, and no entry equal to the unlisted value. -/
def Memory.wfFrom : Nat → Memory → Bool
  | _, [] => true
  | lo, (a, b) :: t => decide (lo ≤ a) && !(b == Memory.unlisted) && Memory.wfFrom (a + 1) t

/-- The canonical form: addresses strictly rising, no entry equal to what an unlisted address reads as. -/
def Memory.wf (m : Memory) : Bool := Memory.wfFrom 0 m

/-- Read `n` bytes from `a` on. -/
def Memory.bytes (m : Memory) : Nat → Nat → List Byte
  | _, 0 => []
  | a, n + 1 => m.get a :: Memory.bytes m (a + 1) n

/-- Write bytes from `a` on. -/
def Memory.setBytes (m : Memory) : Nat → List Byte → Memory
  | _, [] => m
  | a, b :: t => Memory.setBytes (m.set a b) (a + 1) t

/-- Zero `n` bytes from `a` on, in a memory whose unlisted bytes are zero. -/
def Memory.clear (m : Memory) (a n : Nat) : Memory := m.filter (fun p => !(decide (a ≤ p.1) && decide (p.1 < a + n)))

/-- Zero a block and write pieces into it, each at its offset. -/
def Memory.block (m : Memory) (a n : Nat) (ps : List (Nat × List Byte)) : Memory :=
  ps.foldl (fun t p => t.setBytes (a + p.1) p.2) (m.clear a n)

/-- Little-endian value of some bytes (R2). -/
def leNat : List Byte → Nat
  | [] => 0
  | b :: t => b.toNat + 256 * leNat t

/-- The `n` little-endian bytes of a number (R2). -/
def leBytes : Nat → Nat → List Byte
  | 0, _ => []
  | n + 1, v => BitVec.ofNat 8 v :: leBytes n (v / 256)

/-! ### The flat physical numbering (log 1) -/

/-- Logical cells of the module (R10). -/
def cellCount : Nat := 4096
/-- Bytes of near scratch of a cell (Table 1-4). -/
def nearSize : Nat := 0x40000
/-- Bytes of a slice (Table 1-4). -/
def sliceSize : Nat := 0x400000
/-- Where the slices start in the flat numbering. -/
def sliceBase : Nat := cellCount * nearSize
/-- Where far memory starts in the flat numbering. -/
def farBase : Nat := sliceBase + cellCount * sliceSize
/-- Bytes of far memory, 64 channels of 24 GiB (R12). -/
def farSize : Nat := 64 * 24 * 0x40000000

/-- Flat address of a byte of near scratch. -/
def nearAddr (cell off : Nat) : Nat := cell * nearSize + off
/-- Flat address of a byte of a slice. -/
def sliceAddr (cell off : Nat) : Nat := sliceBase + cell * sliceSize + off
/-- Flat address of a far-memory physical address. One at or above 1,536 GiB, which a page-table leaf can name, has memory of its own behind
the channel of bits [13:8] (DESIGN CHOICE, log 63). -/
def farAddr (pa : Nat) : Nat := farBase + pa

/-- The cell that owns a flat address, if a cell does. -/
def ownerCell (a : Nat) : Option Nat :=
  if a < sliceBase then some (a / nearSize)
  else if a < farBase then some ((a - sliceBase) / sliceSize)
  else none

/-- Die of a logical cell number (Table 1-3). -/
def dieOf (c : Nat) : Nat := c / 1024
/-- Logical row. -/
def rowOf (c : Nat) : Nat := c / 32 % 32
/-- Logical column. -/
def colOf (c : Nat) : Nat := c % 32
/-- A logical cell number from its parts. -/
def cellAt (die row col : Nat) : Nat := die * 1024 + row * 32 + col
/-- Package cluster number (R18). -/
def clusterOf (c : Nat) : Nat := dieOf c * 64 + rowOf c / 4 * 8 + colOf c / 4
/-- A cell's place in its cluster (R145). -/
def placeInCluster (c : Nat) : Nat := 4 * (rowOf c % 4) + colOf c % 4
/-- The sixteen cells of a package cluster (R18). -/
def clusterCells (k : Nat) : List Nat :=
  (List.range 16).map (fun j => cellAt (k / 64) (k % 64 / 8 * 4 + j / 4) (k % 8 * 4 + j % 4))
/-- Package strip number (R18). -/
def stripOf (c : Nat) : Nat := c / 32

end Sys2Proof.Machine
end

