-- ==== Sys2Proof/Machine/Parts.lean ====
section
/-! DEFINITION. The state that cells hold, part by part, as plain data: frames and activations (spec 02, 04, 07),
scope records and control messages (spec 08), accesses, buffers and atomic engines (spec 09, 10), engines and
copies (spec 11). Each thing in flight has a number of its own; a smaller number was made earlier. -/

namespace Sys2Proof.Machine

/-! ### Naming, sites and traps -/

/-- What names an activation: its kept header word, its scope word and its job colour (Tables 7-2, 7-3). -/
structure Naming where
  hdr    : Word
  scope  : BitVec 32
  tenant : BitVec 4
  colour : BitVec 4
  deriving DecidableEq, Repr

/-- Naming fields of nothing. -/
def Naming.zero : Naming := ⟨0, 0, 0, 0⟩

/-- An instruction group as a trap record names it (Table 2-15): its address, the address after its base word,
its page, its prefixes and its base word. -/
structure Site where
  pc   : Addr
  next : Addr
  page : Nat
  pfx  : List Half
  base : Half
  deriving DecidableEq, Repr

/-- A site of nothing. -/
def Site.zero : Site := ⟨0, 0, 0, [], 0⟩

/-- How far a trap has come: raised and waiting for the outstanding instructions (R53, step 2), waiting for a
free entry of the trap area (R326), or recorded at an address. -/
inductive TrapStage
  | raised
  | deferred
  | recorded (entry : Nat) (record : Addr)
  deriving DecidableEq, Repr

/-- A trap (R53, R54): cause code of Table 2-14, site, ADDR_IDX, NEXT, stage, and where its instruction stands in
program order among those that made something in flight. -/
structure Trap where
  cause   : Nat
  site    : Site
  addrIdx : Word
  next    : Addr
  stage   : TrapStage
  order   : Nat
  deriving DecidableEq, Repr

/-- A refusal kept for an activation that takes a trap or is frozen (R181). -/
structure KeptRefusal where
  site : Site
  va   : Addr
  deriving DecidableEq, Repr

/-- A weight holding: a scope and a positive weight (R158). -/
structure Holding where
  scope : BitVec 32
  w     : Nat
  deriving DecidableEq, Repr

/-! ### Responses and accesses -/

/-- An error response: a violation kind of Table 9-3 and the refused address. -/
structure ErrResp where
  kind : Nat
  va   : Addr
  deriving DecidableEq, Repr

/-- The answer to an access. -/
inductive Resp
  | data (bs : List Byte)
  | words (ws : List Word)
  | err (e : ErrResp)
  deriving DecidableEq, Repr

/-- How a load or a returning atomic writes its destinations (Tables 10-3, 10-7, 10-14). -/
inductive LoadFmt
  | int (n : Nat) (signed : Bool)
  | pair
  | regs
  deriving DecidableEq, Repr

/-- An outstanding long-latency instruction of a frame (R50). `left` is how many instructions of its window may
still issue. -/
structure Outst where
  flight : Nat
  dests  : List Nat
  left   : Nat
  fmt    : LoadFmt
  cls    : MemClass
  plain  : Bool
  site   : Site
  deriving DecidableEq, Repr

/-- The operations of an atomic engine (Tables 10-7, 10-14). -/
inductive AtomOp | add | and | or | xor | min | max | minu | maxu | swap | cas | inc | dec | fadd
  deriving DecidableEq, Repr

/-- The front operations (Table 10-14). -/
inductive FrontOp | cfg | ins | merge | rd | clr | stat
  deriving DecidableEq, Repr

/-- What an access does at its owner. -/
inductive MemOp
  | load (n : Nat)
  | fetch
  | store (bs : List Byte)
  | atomic (op : AtomOp) (word : Bool) (opnd new : Word)
  | front (op : FrontOp) (a0 a1 a2 : Word) (nohot : Bool)
  | credit (n : Nat)
  deriving DecidableEq, Repr

/-- Where an access goes (Table 9-2): a flat address of an SRAM owner, a far-memory address that an agent
translates, a device behind a fabric window, or the host; `bad` is an address that the cell refuses with a kind of
Table 9-3. -/
inductive Target
  | sram (flat : Nat)
  | far (va : Addr)
  | fabric (dev : Nat) (ra : Addr) (ctxid : BitVec 16)
  | host (node : Nat) (ra : Addr)
  | bad (kind : Nat)
  deriving DecidableEq, Repr

/-- Who waits for a page fault, for a line of another device or for an operation of an atomic engine (R331, R343): of a queue its packet,
the comparison of its WAIT, and the signal of a launch wait apart (R338, R339). -/
inductive FaultReq
  | flight (x : Nat)
  | frame (cell slot : Nat)
  | prog (p : Nat)
  | chunk (copy c : Nat)
  | input (cell slot : Nat)
  | queue (q : Nat)
  | wait (q : Nat)
  | launch (x : Nat)
  | transfer (x : Nat)
  | trace (k : Nat)
  | packet (x : Nat)
  | credit (x : Nat)
  | arrival (c : Nat)
  deriving DecidableEq, Repr

/-- Who made an access: an activation's instruction; a write of an engine program, of a chunk of a copy, of an operation of an
atomic engine, of a transfer, of a signal of a queue, of a trace core, of a cell for a service of its own or of another unit of the hub
die, that waits only for its acknowledgement; or whoever waits for the answer. -/
inductive Issuer
  | act (a : Nat)
  | prog (p : Nat)
  | copy (x c : Nat)
  | atomic (x : Nat)
  | transfer (x : Nat)
  | queue (q : Nat)
  | trace (k : Nat)
  | cell
  | hub (unit : BitVec 12)
  | line (r : FaultReq)
  deriving DecidableEq, Repr

/-- How far an access has come: on its way, stopped at a translation agent by a non-resident page (R193, R331), to be
sent to another device, sent there, answered, withheld because it consumed an uncorrectable error (R407), or taken
from the leader's load of the same number (R412). -/
inductive FlightStage
  | going
  | faulted
  | leaving
  | away
  | answered (r : Resp)
  | withheld
  | mirrored
  deriving DecidableEq, Repr

/-- What a frame, a program, a chunk or a message waits for before its access can be made: nothing, a line from
another device or the host, a page fault (R331), one of the walks of an agent to end (R330), nothing more because the fault was refused, or for ever because it met an uncorrectable word (R407). -/
inductive MemWait
  | none
  | flight (x : Nat)
  | page (p : Nat)
  | walk (va : Nat)
  | refused (e : ErrResp)
  | withheld
  deriving DecidableEq, Repr

/-- Lines of 64 bytes that have come from another device or the host for the access at hand, by virtual line
number. -/
abbrev LineBuf := AL (List Byte)

/-- A write of a front operation within one aligned doubleword; `own` says that it is one of the front itself. -/
structure FrontWrite where
  va    : Nat
  bytes : List Byte
  own   : Bool
  deriving DecidableEq, Repr

/-- A front operation that its engine has served but for writes still to be performed, in order (R231, R240): what it answers then, and
what stood where it wrote the front, for a write that is refused (R236). -/
structure FrontRun where
  writes : List FrontWrite
  undo   : List (Nat × List Byte × List Byte)
  result : List Word
  deriving DecidableEq, Repr

/-- What someone waits for, the lines it has, the addresses in another device or the host at which a write of its operation has
been performed, and the writes of a front operation that remain. -/
structure WaitRec where
  req   : FaultReq
  wait  : MemWait
  lines : LineBuf
  wrote : List Nat
  run   : Option FrontRun
  deriving DecidableEq, Repr

/-- An access in flight (R182). `second` is where the second half of a pair goes (R183, R216); `order` is its
instruction's place in program order. -/
structure Flight where
  issuer : Issuer
  cell   : Nat
  field  : Nat
  cls    : MemClass
  op     : MemOp
  va     : Addr
  target : Target
  second : Target
  posted : Bool
  hint   : BitVec 4
  site   : Site
  mirror : Option Nat
  order  : Nat
  stage  : FlightStage
  deriving DecidableEq, Repr

/-- The internal hub ports by which something in flight leaves and enters a compute die, the flit places that it takes in their buffers,
its colour and its tenant (R185, R344, R367). -/
structure HubPath where
  exit_  : Option Nat
  entry  : Option Nat
  places : Nat
  colour : BitVec 4
  tenant : BitVec 4
  deriving DecidableEq, Repr

/-! ### Activations and frames -/

/-- An activation from its dispatch until its weight has returned (R27, R158, R161, R192). It outlives its frame; `dead` are the
traps of its writes that were refused after it retired (R181). -/
structure Act where
  cell     : Nat
  slot     : Option Nat
  slot0    : Nat
  dseq     : BitVec 8
  naming   : Naming
  holdings : List Holding
  cntO     : Nat
  cntA     : Nat
  cntV     : Nat
  cntE     : Nat
  remO     : Nat
  remA     : Nat
  remV     : Nat
  forked   : List Nat
  xferId   : BitVec 32
  entry    : Addr
  engine   : Bool
  checked  : Bool
  kept     : Option KeptRefusal
  dead     : List Trap
  sent     : BitVec 64
  arrived  : BitVec 64
  dispd    : BitVec 64
  remAcc   : Nat
  loads    : Nat
  deriving DecidableEq, Repr

/-- An activation of nothing. -/
def Act.zero : Act :=
  ⟨0, none, 0, 0, Naming.zero, [], 0, 0, 0, 0, 0, 0, 0, [], 0, 0, false, false, none, [], 0, 0, 0, 0, 0⟩

/-- The operands of a tile operation, as read when it starts (R310, R311): declared planes and plane offsets of A and B, the
fragment, the planes, the block exponents and the outlier list entries; for a gang also its tag and the source's column,
and whether the formats of both operands are ES4. -/
structure MatRun where
  pa     : Nat
  pb     : Nat
  oa     : Nat
  ob     : Nat
  frag   : Nat
  aes4   : Bool
  bes4   : Bool
  aBytes : List Byte
  bBytes : List Byte
  ua     : List Int
  ub     : List Int
  alist  : List (BitVec 32)
  blist  : List (BitVec 32)
  gtag   : Nat
  srccol : Nat
  deriving DecidableEq, Repr

/-- The latch of the last B tile (R310): its BASE, FMT_B and SCL_B.OFFSET, planes, scale entries and outlier list entries. -/
structure Latch where
  base  : Addr
  fmt   : BitVec 9
  off   : Nat
  bytes : List Byte
  exps  : List Int
  list  : List (BitVec 32)
  deriving DecidableEq, Repr

/-- A write that an iteration of an engine program still has to make (R276): bytes at an address, where `nib` says which nibble of a byte it
is, high or low; or V of an accumulator. -/
inductive UWrite
  | mem (va : Int) (bs : List Byte) (nib : Option Bool) (cls : MemClass)
  | acc (frag idx v : Nat)
  deriving DecidableEq, Repr

/-- What an instruction that waits for answers has done so far (R142, R159, R174, R254): the checks it has passed
are not made again, what it has read or made is kept, and the answer stands here when it has come; `mints` counts the grants that its
splits have not used, `carry` is what a row of several iterations hands from one to the next (R274), `writes` is what remains of an
iteration's writes and `err` the first of its writes that was refused (R276). -/
structure Pending where
  stage  : Nat
  sent   : Nat
  answer : Option Word
  data   : List Byte
  scope  : BitVec 32
  ids    : List Nat
  mat    : Option MatRun
  mints  : Nat
  carry  : List Int
  writes : List UWrite
  err    : Option ErrResp
  deriving DecidableEq, Repr

/-- Nothing done so far. -/
def Pending.zero : Pending := ⟨0, 0, none, [], 0, [], none, 0, [], [], none⟩

/-- The life of a frame slot (R23, R29, R53, R331; Table 17-10). `done` has issued `done` and not retired. -/
inductive FrameLife | free | running | done | parked | frozen
  deriving DecidableEq, Repr

/-- The per-frame control registers that instructions write (Table 4-8). -/
structure FrameCr where
  rmode  : Word
  nbv    : BitVec 2
  fmtA   : BitVec 9
  fmtB   : BitVec 9
  sclA   : BitVec 13
  sclB   : BitVec 13
  result : BitVec 4
  deriving DecidableEq, Repr

/-- Their dispatch values (Tables 3-4, 3-7, 4-13 to 4-15). -/
def FrameCr.reset : FrameCr := ⟨0, 2, 0, 0, 0, 0, 0⟩

/-- A frame slot (R23). `off` says that sequential fetch has passed the end of the code segment (check 10); `groups`
counts the groups that have issued; `held` is the group in the fetch buffer (R96). -/
structure Frame where
  life   : FrameLife
  act    : Nat
  size   : Nat
  g      : Regs
  x      : AL (BitVec 16)
  pc     : Addr
  chan   : BitVec 3
  cr     : FrameCr
  outst  : List Outst
  acq    : List Nat
  acqE   : Bool
  mark   : Option Nat
  pend   : Option Pending
  trap   : Option Trap
  resume : Option Addr
  off    : Bool
  order  : Nat
  groups : Nat
  held   : Option Site
  deriving DecidableEq, Repr

/-- A free frame slot. -/
def Frame.free : Frame :=
  ⟨.free, 0, 0, [], [], 0, 0, FrameCr.reset, [], [], false, none, none, none, none, false, 0, 0, none⟩

/-! ### Messages -/

/-- A message (R141, Tables 7-2, 7-3, 7-7); `flags` and `xferId` are what its dispatch sets (R67, R258, R264); a multicast replica has
the external port that brought it, which counts its refusal (R365). -/
structure Msg where
  dst     : BitVec 24
  handler : Addr
  words   : List Word
  elem    : BitVec 24
  stage   : BitVec 4
  tag     : BitVec 4
  hub     : Bool
  src     : BitVec 24
  scope   : BitVec 32
  w       : Nat
  tenant  : BitVec 4
  colour  : BitVec 4
  cls     : MemClass
  sent    : BitVec 64
  xferId  : BitVec 32
  flags   : Word
  nack    : Bool
  replica : Option Nat
  deriving DecidableEq, Repr

/-- A message of nothing. -/
def Msg.zero : Msg := ⟨0, 0, [], 0, 0, 0, false, 0, 0, 0, 0, 0, .o, 0, 0, 0, false, none⟩

/-- A message in flight to an input buffer (R135, R143), and the unit that it comes from. -/
structure MsgFlight where
  msg   : Msg
  from_ : BitVec 24
  deriving DecidableEq, Repr

/-- An input-buffer or bell slot that holds a message (R135, R146, R152). A stolen one has the frame slot that the
thief reserved and its victim; `query` is the answer of its scope's home in overflow mode, and `asked` says that the
home has been asked (R168); `pool` says that it took a slot of the shared pool and none that is reserved for its tenant (R135). -/
structure InSlot where
  msg      : Msg
  arrived  : BitVec 64
  order    : Nat
  chan     : Option (BitVec 3)
  stolen   : Option (Nat × Nat)
  query    : Option Bool
  asked    : Bool
  pool     : Bool
  deriving DecidableEq, Repr

/-- A route-tag entry (R137). -/
structure TagEntry where
  en      : Bool
  chan    : BitVec 3
  handler : Addr
  deriving DecidableEq, Repr

/-- An entry after cell reset (R137). -/
def TagEntry.reset : TagEntry := ⟨false, 0, 0⟩

/-! ### The store buffer -/

/-- What a store-buffer entry holds (R187). -/
inductive SbKind
  | store (va : Addr) (target second : Target) (bs : List Byte)
  | atomic (va : Addr) (target : Target) (op : AtomOp) (word : Bool) (opnd new : Word)
  | copy (c : Nat)
  | fork (ps : List Nat)
  deriving DecidableEq, Repr

/-- A store-buffer entry (R187): its number, its activation, class, hint and site, and the flight it became. -/
structure SbEntry where
  seq    : Nat
  act    : Nat
  cls    : MemClass
  hint   : BitVec 4
  site   : Site
  kind   : SbKind
  sent   : Bool
  flight : Nat
  deriving DecidableEq, Repr

/-! ### Scopes -/

/-- LIFE of a scope record (Table 8-1). -/
inductive ScopeLife | free | open | closing | empty
  deriving DecidableEq, Repr

/-- A scope record (Table 8-1): CHILD is the head of `kids`, the children most recently linked first; `won` says that it
claimed its parent (R165), and `acks` holds the receivers of its notice, which are those of its clear that have not acknowledged (R168,
Table 8-2). -/
structure ScopeRec where
  life    : ScopeLife
  parent  : BitVec 32
  claimer : BitVec 32
  kids    : List (BitVec 32)
  sib     : BitVec 32
  issued  : Word
  retd    : Word
  cont    : Word
  cwords  : List Word
  depth   : BitVec 4
  tenant  : BitVec 4
  colour  : BitVec 4
  root    : Bool
  shld    : Bool
  clmd    : Bool
  canc    : Bool
  won     : Bool
  unlinked : Bool
  acks    : List Nat
  deriving DecidableEq, Repr

/-- A free slot (Table 8-1). -/
def ScopeRec.free : ScopeRec :=
  ⟨.free, 0, 0, [], 0, 0, 0, 0, [0, 0, 0, 0], 0, 0, 0, false, false, false, false, false, false, []⟩

/-- The control messages of the scope ports (R157 to R174). -/
inductive CtlKind
  | mint | grant | refuse | link | linkres | unlink | unlinkack | notice | clear | clearack | close | cancel
  | choke | shield | claim | check | climb | query | answer | weightReturn
  deriving DecidableEq, Repr

/-- Who waits for an answer: a frame, a message in a slot, a home, a message that needs a mint, a program, the engines of a cell, another
device; the answer to a claim passes through the home of its child, which notes it (R165, R172). -/
inductive Waiter
  | none
  | frame (cell slot : Nat)
  | input (cell slot : Nat)
  | scope (s : BitVec 32)
  | wake (w : Nat)
  | prog (p : Nat)
  | unit (cell : Nat) (s : BitVec 32)
  | remote (dev : Nat) (tag : Nat)
  | via (s : BitVec 32) (w : Waiter)
  deriving DecidableEq, Repr

/-- A control message in flight: the unit that sent it and whether that is a unit of the hub die, the cell it goes to, the scope
it names, a second scope, who waits for the answer, its values, and its job colour (R344). Device numbers stand above cell numbers as in
R17. -/
structure Ctl where
  kind   : CtlKind
  hub    : Bool
  src    : BitVec 24
  dst    : BitVec 24
  scope  : BitVec 32
  other  : BitVec 32
  who    : Waiter
  value  : Word
  words  : List Word
  then_  : CtlKind
  colour : BitVec 4
  deriving DecidableEq, Repr

/-! ### Engines and copies -/

/-- An operation of an engine queue (R244). -/
inductive QItem
  | prog (p : Nat)
  | copy (c : Nat)
  | marker (m : Nat)
  deriving DecidableEq, Repr

/-- The life of an engine program (R244 to R246, R56). `refused` is a launch record that failed (R245). -/
inductive ProgLife | buffered | queued | running | ending | frozen | refused | ended
  deriving DecidableEq, Repr

/-- An engine program (R245): its forking activation and naming fields, its launch record, its copies of the
rounding and format state (R67, R295), its weight, its trap, the copy it waits for, the group in the fetch buffer (R96), and what stood
where its instruction has written over a source of its own (R290, R291). -/
structure Prog where
  cell   : Nat
  unit   : EngineUnit
  act    : Nat
  naming : Naming
  field  : Nat
  record : Addr
  code   : Addr
  args   : List Word
  w      : Nat
  cr     : FrameCr
  life   : ProgLife
  pc     : Addr
  trap   : Option Trap
  pend   : Option Pending
  copy   : Option Nat
  mark   : Option (List QItem)
  resume : Option Addr
  off    : Bool
  next   : Addr
  writes : Nat
  held   : Option Site
  old    : AL Nat
  deriving DecidableEq, Repr

/-- An engine of a cell (R24, R244): its registers, its queue and the program it runs. -/
structure Engine where
  e     : Regs
  queue : List QItem
  run   : Option Nat
  deriving DecidableEq, Repr

/-- An idle engine. -/
def Engine.idle : Engine := ⟨[], [], none⟩

/-- A copy parameter block (Tables 11-4, 11-5), as read at issue (R254). -/
structure CopyBlock where
  src    : Addr
  dst    : Addr
  total  : Nat
  bellen : Bool
  chunk  : Nat
  relsc  : SyncScope
  cls    : MemClass
  ftz    : Bool
  sat    : Bool
  rmode  : Nat
  dfmt   : Nat
  sfmt   : Nat
  conv   : Bool
  esize  : Nat
  ndim   : Nat
  bell   : Nat
  scope  : BitVec 32
  chand  : Word
  cwords : List Word
  sync   : Addr
  ext    : List Nat
  sstr   : List Int
  dstr   : List Int
  deriving DecidableEq, Repr

/-- Who issued a copy. -/
inductive CopyIssuer
  | act (a : Nat)
  | prog (p : Nat)
  deriving DecidableEq, Repr

/-- How far a chunk that is not performed has come (R255 to R259): given to another streamer, started, or moved with writes
that await another device. -/
inductive ChunkLife | forwarded | started | moved
  deriving DecidableEq, Repr

/-- A chunk of a copy: the cell whose streamer performs it, and the one as whose streamer, where it has been stolen (R147). -/
structure Chunk where
  cell : Nat
  as_  : Nat
  life : ChunkLife
  deriving DecidableEq, Repr

/-- A copy from its issue to its end (R254 to R265). `next` is the first chunk not given out in ascending order,
`top` the end of the unstarted ones (chunks taken from the end by stealing lie above it), `errs` what another device has
refused by chunk. `phase` is 0 until the copy ends, 1 until CNT_E falls, 2 until its weight returns (R264). -/
structure CopyRun where
  id      : BitVec 32
  cell    : Nat
  issuer  : CopyIssuer
  naming  : Naming
  field   : Nat
  scope   : BitVec 32
  w       : Nat
  block   : CopyBlock
  site    : Site
  atHead  : Bool
  lead    : Nat
  next    : Nat
  top     : Nat
  chunks  : AL Chunk
  flags   : Word
  stopped : Nat
  refusal : Option ErrResp
  errs    : AL ErrResp
  credits : Nat
  phase   : Nat
  deriving DecidableEq, Repr

/-- A continuation that `rdv` registered (R250). -/
structure Join where
  handler : Word
  words   : List Word
  naming  : Naming
  w       : Nat
  progs   : List Nat
  flags   : Word
  deriving DecidableEq, Repr

/-- A credit on its way to a sync word (R262). -/
structure Credit where
  copy   : Option Nat
  cell   : Nat
  field  : Nat
  sync   : Addr
  bytes  : Nat
  hub    : Bool
  scope  : BitVec 32
  holder : Waiter
  naming : Naming
  ident  : BitVec 32
  deriving DecidableEq, Repr

/-- A wake or completion message whose share may need a mint first (R263, R264), or a message of a field's service
scope, which carries 2^20 minted for it (R326); `last` marks a completion message. -/
structure WakeDue where
  msg    : Msg
  copy   : Option Nat
  xfer   : Option Nat
  prog   : Option Nat
  service : Bool
  asked  : Bool
  granted : Bool
  last   : Bool
  deriving DecidableEq, Repr

/-- A `qfence` marker: its cell, the queues it stands in, and the operations it waits for (R266). -/
structure Marker where
  cell   : Nat
  queues : List EngineUnit
  deriving DecidableEq, Repr

/-! ### Bells -/

/-- A bell of a die (R150, R151, R153). -/
structure Bell where
  cfg      : Word
  field    : Option Nat
  latches  : List Nat
  ext      : Nat
  gen      : BitVec 24
  discards : BitVec 32
  deriving DecidableEq, Repr

/-- A bell at reset. -/
def Bell.reset : Bell := ⟨0, none, [], 0, 0, 0⟩

/-- What a member has registered for the open generation of a bell: a bare bell or a continuation (R152, R154). -/
structure BellReg where
  bare : Option Msg
  cont : Option Msg
  deriving DecidableEq, Repr

/-- The bell messages of a generation that has closed (R152). -/
structure BellDue where
  die   : Nat
  bell  : Nat
  msgs  : List Msg
  deriving DecidableEq, Repr

/-- An external arrival on its way to a carillon root (R153). -/
structure ExtArrival where
  die   : Nat
  bell  : Nat
  field : Option Nat
  deriving DecidableEq, Repr

/-! ### Logs -/

/-- A violation log entry (Table 9-4). -/
structure Violation where
  va     : Addr
  kind   : Nat
  cls    : MemClass
  op     : Nat
  size   : Nat
  source : BitVec 24
  time   : BitVec 24
  deriving DecidableEq, Repr

/-- A refusal log entry (R136). -/
structure RefusalEntry where
  code    : Nat
  handler : Addr
  source  : BitVec 24
  scope   : BitVec 32
  deriving DecidableEq, Repr

/-- Append to a log that keeps the newest eight entries (R136, R180). -/
def log8 {α : Type} (l : List α) (x : α) : List α := (l ++ [x]).drop ((l.length + 1) - 8)

end Sys2Proof.Machine
end

