-- ==== Sys2Proof/Machine/HubParts.lean ====
section
/-! DEFINITION. The state of the hub die, the trace cores, the checked pairs, the repair records, the firmware
complex and the power unit, part by part, as plain data (spec 17, 18, 19, 21). -/

namespace Sys2Proof.Machine

/-! ### Fields and contexts (spec 17) -/

/-- A field context record (Table 17-1). -/
structure FieldCtx where
  field    : Nat
  shape    : Bool
  die      : Nat
  row0     : Nat
  col0     : Nat
  h        : Nat
  w        : Nat
  dies     : BitVec 4
  ctxid    : BitVec 16
  colour   : BitVec 4
  tenants  : BitVec 16
  segtab   : Addr
  root     : Addr
  trapBase : Addr
  trapLog2 : Nat
  trapH    : Addr
  trapTag  : BitVec 4
  trapCell : Nat
  svcScope : BitVec 32
  save     : Addr
  res      : List Nat
  weights  : List Nat
  stages   : List Word
  bells    : List Word
  interval : Nat
  pairs    : Bool
  deriving DecidableEq, Repr

/-- A used segment table entry (Table 17-2). -/
structure Seg where
  base  : Nat
  len   : Nat
  r     : Bool
  w     : Bool
  x     : Bool
  at_   : Bool
  kind  : Nat
  race  : Bool
  kf    : Word
  rbase : Addr
  deriving DecidableEq, Repr

/-- Where a field stands between running and out (R345, R349, R396, R402). -/
inductive FieldMode
  | running
  | stopping
  | switching
  | out
  deriving DecidableEq, Repr

/-- A field (R323): its context, its segments, its trap-area cursor and entries in use (R326), its mode, whether
it is fenced (R349), and whether the switch deadline has passed (Table 17-9, step 3). -/
structure Field where
  ctx      : FieldCtx
  segs     : List Seg
  trapNext : Nat
  trapUse  : List Nat
  mode     : FieldMode
  fenced   : Bool
  deadline : Bool
  deriving DecidableEq, Repr

/-! ### Queues, launches and command processors (spec 17) -/

/-- STATE of a queue (Table 17-4). -/
inductive QueueState | disabled | idle | ready | waiting | parked | paused | recovering | error
  deriving DecidableEq, Repr

/-- A queue table entry (Table 17-4), with the packet at its head once read (R333), the launches that its FENCE
waits for (R340), whether its WAIT is satisfied (R341), whether it was served in the current microsecond (R341), whether HEAD is still to
be copied to HEADPTR (R333), and whether its toll timer has expired with the plug-in asked for so many microseconds (R348). -/
structure QueueEntry where
  log2n   : Nat
  ring    : Addr
  tail    : BitVec 32
  head    : BitVec 32
  host    : BitVec 12
  headptr : Addr
  age     : BitVec 32
  state   : QueueState
  lent    : Nat
  lentv   : Bool
  eff     : Nat
  tenant  : BitVec 4
  field   : Nat
  prio    : Nat
  tollrun : BitVec 32
  toll    : BitVec 32
  raise   : Nat
  agerun  : BitVec 32
  errcode : Nat
  errpkt  : Addr
  packet  : Option (List Word)
  fenceOn : Option (List Nat)
  waitOk  : Bool
  taken   : Bool
  headDue : Bool
  expired : Bool
  asked   : BitVec 32
  deriving DecidableEq, Repr

/-- A queue table entry at reset (Table 17-4). -/
def QueueEntry.reset : QueueEntry :=
  ⟨0, 0, 0, 0, 0, 0, 0, .disabled, 0, false, 0, 0, 0, 0, 0, 0, 0, 0, 0, 0, none, none, false, false, false, false, 0⟩

/-- How far a launch has come (R337, R338): its root has emptied, and its home's report has been served; `failed` says that a recovery
has completed it before its parent's home has answered (R349). -/
inductive LaunchStage
  | linking
  | sending (e : Nat)
  | outstanding
  | emptied
  | completing
  | failed
  deriving DecidableEq, Repr

/-- A launch from the processing of its packet to its completion (R337, R338), with the address of its packet; `linked` says that
its parent is still to be told, `dropped` that the parent refused the link. -/
structure Launch where
  queue   : Nat
  cp      : Nat
  field   : Nat
  packet  : List Word
  addr    : Addr
  count   : Nat
  home    : Nat
  root    : BitVec 32
  stage   : LaunchStage
  linked  : Bool
  dropped : Bool
  deriving DecidableEq, Repr

/-- A command processor (R341): the queues in its dispatch slots, the queue whose packet it works on, and its
violation log. -/
structure Cp where
  slots : List Nat
  work  : Option Nat
  log   : List Violation
  deriving DecidableEq, Repr

/-- A translation agent's cached leaf (R330): field, virtual page, page size, physical address and permissions. -/
structure Leaf where
  field : Nat
  va    : Nat
  size  : Nat
  pa    : Nat
  perm  : BitVec 4
  deriving DecidableEq, Repr

/-- A walk under way at a translation agent: its field and its page of 64 KiB (R330). -/
structure Walk where
  field : Nat
  page  : Nat
  deriving DecidableEq, Repr

/-- A translation agent (R330): its cache, oldest entry first, its walks under way, those whose miss found every walk busy, in the
order of their arrival, and its violation log. -/
structure Agent where
  cache   : List Leaf
  walks   : List Walk
  waiting : List FaultReq
  log     : List Violation
  deriving DecidableEq, Repr

/-- A translation agent at reset. -/
def Agent.reset : Agent := ⟨[], [], [], []⟩

/-- A requester that waits for a page, with the address, the operation, the class and the SIZE of its access as a log entry gives
them (R331, Table 9-4). -/
structure FaultBy where
  req  : FaultReq
  va   : Nat
  op   : Nat
  cls  : MemClass
  size : Nat
  deriving DecidableEq, Repr

/-- A page fault raised to the scheduler (R331): field, address, operation, and who waits. -/
structure PageFault where
  field : Nat
  va    : Nat
  op    : Nat
  reqs  : List FaultBy
  deriving DecidableEq, Repr

/-- A recovery or containment of a field under way (R349, R410): the completion code, the queue that expired,
the cancelled scopes with the receivers of their notices, and the receivers of their clears that have not acknowledged (R402). -/
structure Recovery where
  code  : Nat
  queue : Option Nat
  step  : Nat
  roots : List (BitVec 32 × List Nat)
  acks  : List (BitVec 32 × Nat)
  deriving DecidableEq, Repr

/-! ### Fabric (spec 18) -/

/-- A packet (Tables 18-4, 18-5): its header fields, its four words and the bytes of its further flits. `op` is
bits [63:48] and `addr` bits [47:0] of the doubleword at 0x10 for LOAD, STORE, ATOMIC and SCOPECTL. -/
structure Packet where
  ctxid   : BitVec 16
  kind    : Nat
  mc      : Bool
  cls     : MemClass
  hop     : Nat
  vrand   : Nat
  colour  : BitVec 4
  tenant  : BitVec 4
  hub     : Bool
  tag     : BitVec 4
  stage   : BitVec 4
  w       : Nat
  elem    : BitVec 24
  dst     : BitVec 24
  src     : BitVec 24
  handler : Addr
  op      : BitVec 16
  addr    : Addr
  status  : BitVec 8
  scope   : BitVec 32
  time    : BitVec 32
  words   : List Word
  tree    : List Byte
  data    : List Byte
  deriving DecidableEq, Repr

/-- A packet of nothing. -/
def Packet.zero : Packet :=
  ⟨0, 0, false, .o, 0, 0, 0, 0, false, 0, 0, 0, 0, 0, 0, 0, 0, 0, 0, 0, 0, [], [], []⟩

/-- A multicast group entry (Table 18-6). -/
structure GroupEntry where
  ports  : Word
  valid  : Bool
  local_ : Bool
  deriving DecidableEq, Repr

/-- Where a packet stands: leaving this device, on a port of its own where it is a replica (R365), arriving at a port, waiting
there to be forwarded, or to be served here; or it has been replicated, and its replicas hold its places (R365, R367). -/
inductive PacketPlace
  | egress (port : Option Nat)
  | arriving (port : Nat)
  | transit (port : Nat)
  | served (port : Option Nat)
  | held (port : Option Nat)
  deriving DecidableEq, Repr

/-- A packet held by the hub die: with the places it takes at its port, the part of the input buffer and the channel they are of
(R367: 0 the tenant's reserve, 1 the pool, 2 the channel's reserve), the flits that have come, the multicast groups as its
acceptance latched them (R366), the route table entry as it stood when the first frame arrived, with the port chosen from it and the
new VRAND (R355), and the packet of which it is a replica (R365). -/
structure PacketRun where
  pkt    : Packet
  place  : PacketPlace
  flits  : Nat
  pool   : Nat
  vc     : Nat
  frames : List (List Word)
  groups : AL GroupEntry
  route  : Option (Bool × Nat × Nat)
  of_    : Option Nat
  deriving DecidableEq, Repr

/-- A frame in a replay buffer (R368): its number, its content and the packet it starts. -/
structure SentFrame where
  seq    : BitVec 12
  frame  : LinkFrame
  vc     : Nat
  tenant : BitVec 4
  src    : BitVec 24
  packet : Nat
  deriving DecidableEq, Repr

/-- A refused packet that waits to be sent again (R368). -/
structure RefusedPacket where
  frames : List SentFrame
  since  : Nat
  deriving DecidableEq, Repr

/-- An external fabric port (R353, R367, R368, R382): the node at the other end; its sending side with the frames that left last
(`out`); its receiving side with the frames of packets not yet accepted (`waiting`), the channels whose packet is being refused
and the first flits of the refused class-O packets by source; the acknowledgements still to be carried; and what the peer's
last control frame said. -/
structure Port where
  peer     : BitVec 12
  up       : Bool
  sendSeq  : BitVec 12
  replay   : List SentFrame
  refused  : List RefusedPacket
  out      : List LinkFrame
  recvSeq  : BitVec 12
  waiting  : List LinkFrame
  refusing : List Nat
  blocked  : List (BitVec 24 × List Word)
  acks     : List (Nat × BitVec 12)
  res      : List Nat
  peerFree : List Nat
  peerTx   : Word
  peerAt   : Nat
  delay    : Int
  offsets  : List Int
  peerDist : BitVec 16
  peerRef  : BitVec 16
  log      : List Violation
  refusals : List RefusalEntry
  drops    : Nat
  deriving DecidableEq, Repr

/-- A port at reset. -/
def Port.reset : Port :=
  ⟨0, false, 0, [], [], [], 0, [], [], [], [], [], [], 0, 0, 0, [], 0xFFFF, 0, [], [], 0⟩

/-- An internal hub port, one of 192 (R11, R21, R349, R367): its violation log, its refusal log, the weight returns and credits that its
fence has dropped, and the places of its buffers that are reserved for each tenant. -/
structure HubPort where
  log      : List Violation
  refusals : List RefusalEntry
  drops    : Nat
  res      : List Nat
  deriving DecidableEq, Repr

/-- An internal hub port at reset. -/
def HubPort.reset : HubPort := ⟨[], [], 0, []⟩

/-- A route table entry (Table 18-2). -/
structure Route where
  minmask : Word
  hostn   : Bool
  valid   : Bool
  dist    : Nat
  oport   : Nat
  deriving DecidableEq, Repr

/-- A route table entry at reset (Table 18-2). -/
def Route.reset : Route := ⟨0, false, false, 0, 0⟩

/-! ### Transport engine (spec 18) -/

/-- A peer table entry (Table 18-8). -/
structure Peer where
  valid : Bool
  ports : BitVec 8
  jobid : BitVec 24
  ctxid : BitVec 16
  pid   : BitVec 12
  addr  : BitVec 128
  deriving DecidableEq, Repr

/-- A peer table entry at reset. -/
def Peer.reset : Peer := ⟨false, 0, 0, 0, 0, 0⟩

/-- A region table entry (Table 18-9). -/
structure Region where
  ctxid  : BitVec 16
  base   : Addr
  check  : BitVec 20
  length : Nat
  sync   : Addr
  valid  : Bool
  ring   : Bool
  r      : Bool
  w      : Bool
  bellen : Bool
  bell   : Nat
  deriving DecidableEq, Repr

/-- A region table entry at reset. -/
def Region.reset : Region := ⟨0, 0, 0, 0, 0, false, false, false, false, false, 0⟩

/-- The three transfers (R377). -/
inductive XferKind | send | write | read
  deriving DecidableEq, Repr

/-- What a packet from a peer asks for (R373): a write or a read of a region's bytes, or a part of a message for its ring. -/
inductive Arrival
  | write (key : BitVec 32) (off : Nat) (data : List Byte) (last : Bool)
  | read (key : BitVec 32) (off len : Nat)
  | send (key : BitVec 32) (tag : Word) (msg total off : Nat) (data : List Byte)
  deriving DecidableEq, Repr

/-- A packet delivery context (R372, R380); `next` is the number of the next packet that arrives in packet order, `held` the packet
that has arrived and is being placed, with how far it has come: record reserved, payload placed (R374). -/
structure Delivery where
  cwnd    : Word
  rtt     : Word
  ecn     : BitVec 16
  trimmed : Word
  next    : Nat
  held    : Option (Arrival × Nat)
  deriving DecidableEq, Repr

/-- A packet that the transport engine has given to an Ethernet port (R371): the transfer, its peer and mode, the job identifier, the
operation with its key, offset or tag, and its bytes. -/
structure EtherPacket where
  port  : Nat
  xfer  : Nat
  peer  : Nat
  mode  : Nat
  jobid : BitVec 24
  kind  : XferKind
  tag   : Option Word
  key   : BitVec 32
  off   : Nat
  total : Nat
  data  : List Byte
  deriving DecidableEq, Repr

/-- A transfer at the transport engine (R376 to R379): bytes sent, acknowledged or placed, and still in the air, the Ethernet port
of its last packet, its outcome, and whether its completion forms have been made. -/
structure Transfer where
  id      : BitVec 32
  kind    : XferKind
  cell    : Nat
  act     : Nat
  naming  : Naming
  field   : Nat
  scope   : BitVec 32
  w       : Nat
  site    : Site
  laddr   : Addr
  length  : Nat
  mode    : Nat
  peer    : Nat
  cls     : MemClass
  bell    : Nat
  bellen  : Bool
  relsc   : SyncScope
  tagged  : Bool
  roff    : Word
  rkey    : BitVec 32
  chand   : Word
  cwords  : List Word
  sync    : Addr
  started : Bool
  sent    : Nat
  acked   : Nat
  inAir   : Nat
  port    : Nat
  outcome : Nat
  ended   : Bool
  deriving DecidableEq, Repr

/-- A message of an arriving send that is being placed (R373, R374): its peer, key and number, where its record
lies, and the bytes still missing. -/
structure Inbound where
  peer   : Nat
  key    : BitVec 32
  msg    : Nat
  record : Nat
  total  : Nat
  left   : Nat
  deriving DecidableEq, Repr

/-! ### Trace cores (spec 19) -/

/-- A trace record, race record or packet of words: four doublewords (Table 19-2). -/
structure TraceRec where
  w0 : Word
  w1 : Word
  w2 : Word
  w3 : Word
  deriving DecidableEq, Repr

/-- What a Gorivo program has decided about its record (R394). -/
inductive Verdict
  | none
  | keep
  | drop
  | trigger (m : BitVec 3)
  deriving DecidableEq, Repr

/-- A trace core (Tables 19-4, 19-5): its control block, its program store, its counters, the records offered to it
and not yet taken or lost, its input queue, and the record it works on (`busy`) with the registers and PC of the program.
`loaded` says that the loader has accepted a program since reset (R389), `loading` is a program address whose words are
being read (R393), `request` a STATE write that a running program holds back (R390). -/
structure TraceCore where
  ring     : Addr
  log2n    : BitVec 5
  ctxf     : Nat
  tenants  : BitVec 16
  state    : BitVec 2
  lderr    : BitVec 8
  wr       : Word
  lost     : Word
  len      : BitVec 9
  store    : List (BitVec 32)
  loaded   : Bool
  counters : Regs
  offered  : List (Nat × TraceRec)
  inq      : List (Nat × TraceRec)
  record   : TraceRec
  rcell    : Nat
  f        : Regs
  pc       : Nat
  verdict  : Verdict
  request  : Option (BitVec 2)
  late     : Option (BitVec 2)
  busy     : Bool
  loading  : Option Addr
  log      : List Violation
  deriving DecidableEq, Repr

/-- A trace core at reset (Table 19-4). -/
def TraceCore.reset : TraceCore :=
  ⟨0, 0, 0, 0, 0, 0, 0, 0, 0, [], false, [], [], [], ⟨0, 0, 0, 0⟩, 0, [], 0, .none, none, none, false, none, []⟩

/-- A sender table entry (Table 19-1). -/
structure SenderEntry where
  valid    : Bool
  tenant   : BitVec 4
  hub      : Bool
  source   : BitVec 24
  count    : Nat
  discards : Nat
  transit  : Nat
  wait     : Nat
  run      : Nat
  skew     : Nat
  maxwait  : Nat
  deriving DecidableEq, Repr

/-- A free sender table entry. -/
def SenderEntry.free : SenderEntry := ⟨false, 0, false, 0, 0, 0, 0, 0, 0, 0, 0⟩

/-! ### Errors, pairs, repair (spec 21) -/

/-- An error log entry (Table 21-2). -/
structure ErrEntry where
  time     : Word
  kind     : Nat
  struct_  : Nat
  location : BitVec 48
  source   : BitVec 24
  field    : Option Nat
  syndrome : BitVec 16
  deriving DecidableEq, Repr

/-- An error log with its counters (R408). -/
structure ErrLog where
  entries       : List ErrEntry
  lostue        : Nat
  corrected     : AL Nat
  uncorrectable : AL Nat
  deriving DecidableEq, Repr

/-- An empty error log. -/
def ErrLog.empty : ErrLog := ⟨[], 0, [], []⟩

/-- An uncorrectable error in a structure other than a memory of lines (R404): STRUCT of Table 21-2, the cell, or for a hub table (10) the
table, and the entry. -/
structure Upset where
  struct_ : Nat
  key     : Nat
  index   : Nat
  deriving DecidableEq, Repr

/-- What strikes a structure (R404, R408): a single error, which its code corrects, a multiple one, or an error of a far-memory link. -/
inductive UpsetKind | single | multiple | link
  deriving DecidableEq, Repr

/-- A checkpoint of a checked activation (R415). -/
structure Checkpoint where
  g  : Regs
  x  : AL (BitVec 16)
  cr : FrameCr
  pc : Addr
  deriving DecidableEq, Repr

/-- What an interval folds into its fingerprint, in program order (R413): a register write, the writes of an
outstanding instruction that have not come yet, a store. -/
inductive FpItem
  | reg (i : Nat) (v : Word)
  | pend (flight : Nat)
  | store (ea : Addr) (data : Word)
  deriving DecidableEq, Repr

/-- What a forced instruction that the leader alone issues gives its follower: the registers that it wrote, x0 to x3 above the 64, or its
trap (R414). -/
inductive Fed
  | regs (ws : List (Nat × Word))
  | trap (cause : Nat) (idx : Word) (next : Addr)
  deriving DecidableEq, Repr

/-- What a cell of a checked pair keeps for a checked activation (R413 to R415): what the interval
folds so far, its instruction count, the chime number, whether it waits at a chime, the forced instruction that
may issue after an agreement, the checkpoint, the gated stores, the results of forced instructions of the leader
that the follower has not yet taken, how many loads the activation has sent out of the pair since its checkpoint, and
the values of such loads that have come before the follower asked; the disagreements in a row, whether a parity error has been
consumed since the last chime, and the fingerprint sent over the pair link. -/
structure PairUnit where
  trail    : List FpItem
  count    : Nat
  number   : Nat
  waiting  : Bool
  passed   : Bool
  check    : Option Checkpoint
  gated    : List SbEntry
  fed      : List Fed
  issued   : Nat
  vals     : AL Resp
  bad      : Nat
  parity   : Bool
  sent     : Option Word
  deriving DecidableEq, Repr

/-- A pair unit with nothing to check. -/
def PairUnit.idle : PairUnit := ⟨[], 0, 0, false, false, none, [], [], 0, [], 0, false, none⟩

/-- A column of a die (R19, R418, R419, Table 21-7): the physical row that its map leaves out, the failed physical row that awaits
its repair point, whether a second cell has failed, and the logical row for whose scan test the spare row is reserved. -/
structure Column where
  removed  : Option Nat
  failed   : Option Nat
  second   : Bool
  reserved : Option Nat
  deriving DecidableEq, Repr

/-- A column with no removed cell. -/
def Column.whole : Column := ⟨none, none, false, none⟩

/-- A die record in a flash slot (Table 21-7): MAGIC, VERSION, DIE, GEN, the columns, the bins of the clusters, and the two
signatures. -/
structure DieRecord where
  magic    : BitVec 32
  version  : BitVec 16
  die      : Nat
  gen      : Nat
  columns  : AL Column
  bins     : AL (BitVec 2)
  sigEd    : List Byte
  sigMldsa : List Byte
  deriving DecidableEq, Repr

/-- A cluster (R416, R417): its bin, its marginal flag, whether its cells are stopped for a sweep, TAPINT, and the log of failed
known-answer operations by cell, unit and lane. -/
structure Cluster where
  bin      : BitVec 2
  marginal : Bool
  stopped  : Bool
  tapint   : Nat
  tapLog   : List (Nat × Nat × Nat)
  deriving DecidableEq, Repr

/-- A cluster at reset (R416; bin by log 12). -/
def Cluster.reset : Cluster := ⟨0, false, false, 1024, []⟩

/-- The stage of the in-field scan test of a cell (Table 21-6). -/
inductive ScanStage | none | running
  deriving DecidableEq, Repr

/-! ### Firmware, identity, power (spec 21) -/

/-- A flash bank of a component (R423): is its image valid and ready, its SVN, its version, and the bytes written
into it. -/
structure Bank where
  valid   : Bool
  ready   : Bool
  svn     : Nat
  version : Nat
  bytes   : List Byte
  deriving DecidableEq, Repr

/-- An empty bank. -/
def Bank.empty : Bank := ⟨false, false, 0, 0, []⟩

/-- A firmware component (R423): which bank is active, the two banks and the minimum SVN. -/
structure Component where
  active : Bool
  bank0  : Bank
  bank1  : Bank
  minSvn : Nat
  deriving DecidableEq, Repr

/-- A component without images. -/
def Component.empty : Component := ⟨false, Bank.empty, Bank.empty, 0⟩

/-- The stages of an update (Table 21-8). -/
inductive UpdateStage
  | idle
  | requested
  | named (c : Nat)
  | loading (c : Nat)
  | verified (c : Nat)
  | applied (c : Nat)
  deriving DecidableEq, Repr

/-- The last answer of the firmware complex to a management command (R423 to R428). -/
inductive MgmtAnswer
  | none
  | ok
  | refused
  | verifyFailed
  | words (ws : List Word)
  | bytes (bs : List Byte)
  deriving DecidableEq, Repr

/-- The key store of the monitor (R422, R427): the seed of the physical unclonable function, the private identity keys, the record keys
and the alias keys, Ed25519 before ML-DSA-65. -/
structure KeyStore where
  seed    : List Byte
  idEd    : List Byte
  idMl    : List Byte
  recEd   : List Byte
  recMl   : List Byte
  aliasEd : List Byte
  aliasMl : List Byte
  deriving DecidableEq, Repr

/-- A key store before the monitor has derived its keys. -/
def KeyStore.empty : KeyStore := ⟨[], [], [], [], [], [], []⟩

/-- The firmware complex (R421 to R428): its components by identifier, the stage of an update, whether the monitor runs, whether a
monitor image waits for its activation, the scan tests that have failed (by die, physical row and column), the last answer, the image of
each tenant's plug-in as the active set gave it (R428), the helper data in the flash and the keys (R427), the geometry and the
timing set of each channel in the signed configuration area (R429), the channels that failed their training (R429), and whether a live
activation is under way, which holds the queues PAUSED (R426). -/
structure Firmware where
  comps      : AL Component
  stage      : UpdateStage
  booted     : Bool
  monitorDue : Bool
  scanFail   : List Nat
  answer     : MgmtAnswer
  plugins    : AL (List Byte)
  helper     : List Byte
  keys       : KeyStore
  channels   : AL (Word × Word)
  trainFail  : List Nat
  changing   : Bool
  deriving DecidableEq, Repr

/-- The firmware complex without images. -/
def Firmware.reset : Firmware := ⟨[], .idle, false, false, [], .none, [], [], KeyStore.empty, [], [], false⟩

/-- The privilege modes of a control hart (R33). -/
inductive HartMode | machine | supervisor | user
  deriving DecidableEq, Repr

/-- A physical-memory-protection entry of a hart (R421): what it covers and what it grants. -/
structure PmpEntry where
  base : Word
  len  : Word
  r    : Bool
  w    : Bool
  x    : Bool
  deriving DecidableEq, Repr

/-- A control hart (R33, R421): the registers of RV64GC with its floating-point control register and its other control and status
registers by number, its program counter, its privilege mode, its 16 physical-memory-protection entries, and the tenant whose plug-in runs
on it with the microseconds since that last yielded. The harts never run Halron
instructions; what their firmware does to the device are steps of its own, and the instructions of RV64GC the manual leaves to their
standard (log 67). -/
structure Hart where
  x    : Regs
  f    : Regs
  fcsr : BitVec 32
  csrs : AL Word
  pc   : Word
  mode : HartMode
  pmp  : List PmpEntry
  plug : Option (Nat × Nat)
  deriving DecidableEq, Repr

/-- An entry that covers and grants nothing. -/
def PmpEntry.empty : PmpEntry := ⟨0, 0, false, false, false⟩

/-- A control hart at reset: in M-mode, where RV64GC resets to; the other values are those of log 12. -/
def Hart.reset : Hart := ⟨[], [], 0, [], 0, .machine, List.replicate 16 PmpEntry.empty, none⟩

/-- A far-memory channel (R429): has it passed its training at power-on, has it failed a retraining since, and the device geometry and
timing set that its controller has loaded? -/
structure Channel where
  trained  : Bool
  failed   : Bool
  geometry : Word
  timing   : Word
  deriving DecidableEq, Repr

/-- A channel before its training. -/
def Channel.reset : Channel := ⟨false, false, 0, 0⟩

/-- What has power (R425, R430). -/
inductive PowerMode | on | hubOnly | off
  deriving DecidableEq, Repr

/-- Power and thermal state (R430): cap in watts; the clock stretches for temperature and for the cap, in sixteenths; whether the
clock is being stretched for temperature, and whether the compute dies are being powered down. -/
structure Power where
  cap     : Nat
  thermal : Nat
  capped  : Nat
  hot     : Bool
  closing : Bool
  mode    : PowerMode
  deriving DecidableEq, Repr

/-- Power state at reset (cap by log 12). -/
def Power.reset : Power := ⟨2800, 0, 0, false, false, .on⟩

end Sys2Proof.Machine
end

