-- ==== Sys2Proof/Machine/State.lean ====
section
/-! DEFINITION. The state of the module: cells, atomic engines, trace cores, hub die and what is in flight between
them, as plain data, and its value at reset (INVENTORY.md lists every part with the rule that names it). -/

namespace Sys2Proof.Machine

/-- A cell (R22, Table 1-4). `unitAsks` holds what its engines have asked the homes of scopes in overflow mode, with the answers that
have come (R168). -/
structure Cell where
  field     : Nat
  fieldV    : Bool
  frames    : AL Frame
  dseq      : AL (BitVec 8)
  tags      : AL TagEntry
  disagree  : BitVec 16
  interval  : BitVec 16
  leader    : Bool
  paired    : Bool
  raceLost  : BitVec 32
  raceRing  : Addr
  slots     : AL InSlot
  outq      : List Nat
  incoming  : List InSlot
  sb        : List SbEntry
  scopes    : AL ScopeRec
  opening   : List Nat
  cancels   : List (BitVec 32)
  overflow  : Bool
  unitAsks  : AL (Option Bool)
  joins     : AL Join
  bells     : AL BellReg
  deficit   : AL Int
  senders   : List SenderEntry
  refusals  : List RefusalEntry
  violations : List Violation
  portLog   : List Violation
  copyCtr   : BitVec 20
  vector    : Engine
  matrix    : Engine
  streamer  : Engine
  vlfsr     : AL (BitVec 16)
  mlfsr     : AL (BitVec 16)
  acc       : AL Word
  scales    : AL (BitVec 16)
  latch     : Option Latch
  accOwner  : AL (List Nat)
  icache    : AL (List Byte)
  writers   : AL (BitVec 24)
  service   : Bool
  removed   : Bool
  scan      : ScanStage
  pairs     : AL PairUnit
  placeFree : Int
  tapPos    : List Nat
  deriving DecidableEq, Repr

/-- An empty container of an accumulator fragment: X UNSET, V zero (Table 13-5). -/
def accUnset : Word := 0x0080000000000000#64

/-- A cell after cell reset. The values that the manual does not give are those of log 12. -/
def Cell.reset : Cell where
  field := 0
  fieldV := false
  frames := []
  dseq := []
  tags := []
  disagree := 0
  interval := 256
  leader := false
  paired := false
  raceLost := 0
  raceRing := 0
  slots := []
  outq := []
  incoming := []
  sb := []
  scopes := []
  opening := []
  cancels := []
  overflow := false
  unitAsks := []
  joins := []
  bells := []
  deficit := []
  senders := []
  refusals := []
  violations := []
  portLog := []
  copyCtr := 0
  vector := Engine.idle
  matrix := Engine.idle
  streamer := Engine.idle
  vlfsr := []
  mlfsr := []
  acc := []
  scales := []
  latch := none
  accOwner := []
  icache := []
  writers := []
  service := true
  removed := false
  scan := .none
  pairs := []
  placeFree := 0
  tapPos := [0, 0, 0]

/-- What executes now: nothing, an instruction group of a frame or of an engine, or a Gorivo instruction of a
trace core. -/
inductive Cur
  | none
  | group (cell : Nat) (unit : ExecUnit) (slot : Nat) (site : Site)
  | trace (k : Nat)
  deriving DecidableEq, Repr

/-- Which agent moves, or which input comes, next (log 5): a cell issues from a frame, an engine of a cell takes an
instruction, a trace core takes a Gorivo instruction, a step of the opcode table without a word happens, a cell's
instruction cache evicts a line, time passes, or an error strikes a structure (R404). -/
inductive Move
  | issue (cell slot : Nat)
  | engine (cell : Nat) (u : EngineUnit)
  | gorivo (k : Nat)
  | event (i : Instr)
  | evict (cell line : Nat)
  | clock (ns : Nat)
  | upset (u : Upset) (k : UpsetKind)
  deriving DecidableEq, Repr

/-- An operation that waits at an input port of an atomic engine since a step (R203). -/
structure EngineWait where
  flight : Nat
  port   : Nat
  since  : Nat
  deriving DecidableEq, Repr

/-- A front object that an engine holds resident (R233): its flat address and the lines of its object. -/
structure Resident where
  obj   : Nat
  lines : List Nat
  deriving DecidableEq, Repr

/-- An atomic engine of a cluster (R203, R204, R233): the flat line addresses that are hot and the front objects
that are resident, least recently used first, and the operations that wait at its ports. -/
structure AtomicEngine where
  hot     : List Nat
  fronts  : List Resident
  waiting : List EngineWait
  deriving DecidableEq, Repr

/-- An atomic engine at reset. -/
def AtomicEngine.reset : AtomicEngine := ⟨[], [], []⟩

/-- A gang join of a strip (R311 to R313): the members that have arrived, each with its cell and whether its read
was refused, and whether the gang runs. -/
structure GangJoin where
  arrived : List (Nat × Bool)
  running : Bool
  pass    : Nat
  deriving DecidableEq, Repr

/-- A join at which nobody waits. -/
def GangJoin.idle : GangJoin := ⟨[], false, 0⟩

/-- A context that has been switched out (R345, R346): what its cells held and had under way, its bells, the queues that it left
PAUSED, and its trap-area cursor and entries in use. -/
structure Saved where
  ctx     : FieldCtx
  segs    : List Seg
  cells   : AL Cell
  bells   : AL Bell
  acts    : AL Act
  progs   : AL Prog
  copies  : AL CopyRun
  markers : AL Marker
  flights : AL Flight
  gangs   : AL GangJoin
  faults  : AL PageFault
  waits   : List WaitRec
  queues  : List Nat
  use     : List Nat
  nextT   : Nat
  deriving DecidableEq, Repr

/-- Time alignment of the device (R381, R382): the reference node, the correction still to be made, the nanoseconds since the
last one, and whether the start-up load has been made. -/
structure TimeAlign where
  reference : BitVec 12
  slew      : Int
  phase     : Nat
  loaded    : Bool
  deriving DecidableEq, Repr

/-- The state of the module. -/
structure State where
  devNum    : BitVec 12
  ns        : Nat
  mem       : Memory
  poison    : List Nat
  upsets    : List Upset
  cells     : AL Cell
  acts      : AL Act
  progs     : AL Prog
  copies    : AL CopyRun
  markers   : AL Marker
  flights   : AL Flight
  msgs      : AL MsgFlight
  ctls      : AL Ctl
  asks      : AL Waiter
  credits   : AL Credit
  wakes     : AL WakeDue
  arrivals  : AL ExtArrival
  hubPaths  : AL HubPath
  bells     : AL Bell
  dues      : List BellDue
  gangs     : AL GangJoin
  atomics   : AL AtomicEngine
  fields    : AL Field
  saved     : List Saved
  queues    : AL QueueEntry
  cps       : AL Cp
  launches  : AL Launch
  agents    : AL Agent
  faults    : AL PageFault
  waits     : List WaitRec
  recovery  : AL Recovery
  ports     : AL Port
  routes    : AL Route
  groups    : AL GroupEntry
  packets   : AL PacketRun
  hubPorts  : AL HubPort
  peers     : AL Peer
  regions   : AL Region
  delivery  : AL Delivery
  transfers : AL Transfer
  inbound   : List Inbound
  ether     : List EtherPacket
  xportLog  : List Violation
  xportCancels : List (BitVec 32)
  traces    : AL TraceCore
  clusters  : AL Cluster
  columns   : AL Column
  degraded  : List Nat
  dieRecs   : AL DieRecord
  errLogs   : AL ErrLog
  scrubInt  : Nat
  scrubPos  : AL Nat
  channels  : AL Channel
  harts     : AL Hart
  firmware  : Firmware
  power     : Power
  time      : TimeAlign
  nextId    : Nat
  tick      : Nat
  agenda    : List Move
  cur       : Cur
  readout   : List Word
  deriving DecidableEq, Repr

/-- The state at the module's power-on reset. -/
def State.reset : State where
  devNum := 0
  ns := 0
  mem := []
  poison := []
  upsets := []
  cells := []
  acts := []
  progs := []
  copies := []
  markers := []
  flights := []
  msgs := []
  ctls := []
  asks := []
  credits := []
  wakes := []
  arrivals := []
  hubPaths := []
  bells := []
  dues := []
  gangs := []
  atomics := []
  fields := []
  saved := []
  queues := []
  cps := []
  launches := []
  agents := []
  faults := []
  waits := []
  recovery := []
  ports := []
  routes := []
  groups := []
  packets := []
  hubPorts := []
  peers := []
  regions := []
  delivery := []
  transfers := []
  inbound := []
  ether := []
  xportLog := []
  xportCancels := []
  traces := []
  clusters := []
  columns := []
  degraded := []
  dieRecs := []
  errLogs := []
  scrubInt := 65536
  scrubPos := []
  channels := []
  harts := []
  firmware := Firmware.reset
  power := Power.reset
  time := ⟨0, 0, 0, false⟩
  nextId := 1
  tick := 0
  agenda := []
  cur := .none
  readout := []

/-- Faults: what the model stops on because the manual gives no effect. -/
inductive Fault
  /-- Raised by the meaning of an instruction group when no frame, engine or trace core executes one: a state that
  no run reaches, since a step runs a group only after fetching it. Safe. -/
  | noProgram
  deriving DecidableEq, Repr

/-- Refusals: what the model turns away by name. -/
inductive Refusal
  /-- Raised by an arm of the dispatcher whose instruction has no meaning yet. Safe. -/
  | notModelled (mnemonic : String)
  deriving DecidableEq, Repr

/-- What a step answers. -/
abbrev Out := Host.Outcome State Fault Refusal

end Sys2Proof.Machine
end

