-- ==== Sys2Proof/Machine/Routes.lean ====
section
/-! DEFINITION. Routes on the meshes of the compute dies and through the internal hub ports (spec 01, R16, R19, R21; spec 09, R184,
R185): the hops of each class, the ports that it leaves and enters a die by, and what those ports hold (R344, R367). -/

namespace Sys2Proof.Machine

/-! ### The mesh (R16, R19, R184) -/

/-- The physical row of a cell, from its column's map (R19). -/
def State.physRow (s : State) (c : Nat) : Nat :=
  match (AL.get Column.whole s.columns (dieOf c * 32 + colOf c)).removed with
  | some f => if rowOf c < f then rowOf c else rowOf c + 1
  | none => rowOf c

/-- A router of a die's physical mesh: row and column. -/
abbrev Place := Nat × Nat

/-- The router of a cell (R19). -/
def State.placeOf (s : State) (c : Nat) : Place := (s.physRow c, colOf c)

/-- The sides of a router (R16). -/
inductive Side | north | east | south | west
  deriving DecidableEq, Repr

/-- The neighbour on a side (R16). -/
def Side.next (p : Place) : Side → Place
  | .north => (p.1 - 1, p.2)
  | .south => (p.1 + 1, p.2)
  | .west => (p.1, p.2 - 1)
  | .east => (p.1, p.2 + 1)

/-- The side by which a hop in a direction enters the next router. -/
def Side.entered : Side → Side
  | .north => .south
  | .south => .north
  | .west => .east
  | .east => .west

/-- The distance of two numbers. -/
def gap (a b : Nat) : Nat := (a - b) + (b - a)

/-- Physical mesh hops between two routers. -/
def meshHops (a b : Place) : Nat := gap a.1 b.1 + gap a.2 b.2

/-- The hop along the row that is left, if one is. -/
def rowHop (a b : Place) : Option Side := if a.2 < b.2 then some .east else if b.2 < a.2 then some .west else none
/-- The hop along the column that is left, if one is. -/
def colHop (a b : Place) : Option Side := if a.1 < b.1 then some .south else if b.1 < a.1 then some .north else none

/-- The next hop of class O: along the row to the destination's column, then along the column (R184). -/
def orderedHop (a b : Place) : Option Side := (rowHop a b).orElse (fun _ => colHop a b)

/-- The next hop of class A: of the minimal ones the one with more free slots in its channel, on a tie that of class O (R184). -/
def adaptiveHop (free : Place → Side → Nat) (a b : Place) : Option Side :=
  match rowHop a b, colHop a b with
  | some r, some c => if free a r < free a c then some c else some r
  | some r, none => some r
  | none, c => c

/-- The hops of a route whose next hop a rule gives. -/
def hopsBy (rule : Place → Place → Option Side) : Nat → Place → Place → List Side
  | 0, _, _ => []
  | n + 1, a, b =>
    match rule a b with
    | some d => d :: hopsBy rule n (d.next a) b
    | none => []

/-- The free slots of a router's channel when an access comes to it, which the model leaves free (log 58). -/
def freeSlots (occasion : Nat) (p : Place) (d : Side) : Nat :=
  Config.pick occasion (4 * (32 * p.1 + p.2) + (match d with | .north => 0 | .east => 1 | .south => 2 | .west => 3))

/-- The cell that a class-V access travels to first: drawn uniformly from the 1,024 logical cells of the source die (R184). -/
def middleCell (occasion die : Nat) : Nat := die * 1024 + Config.draw occasion % 1024

/-- The hops of an access of a class between two routers of one die (R184); `occasion` names its draws. -/
def State.meshRoute (s : State) (cls : MemClass) (occasion die : Nat) (a b : Place) : List Side :=
  match cls with
  | .o => hopsBy orderedHop (meshHops a b) a b
  | .a => hopsBy (adaptiveHop (freeSlots occasion)) (meshHops a b) a b
  | .v =>
    let m := s.placeOf (middleCell occasion die)
    hopsBy orderedHop (meshHops a m) a m ++ hopsBy orderedHop (meshHops m b) m b

/-! ### Internal hub ports (R11, R21, R185) -/

/-- The edge router that port `k` of a die attaches to, and the side by which the port enters: ports 0 to 31 from the north by column,
32 to 39 from the west and 40 to 47 from the east by row (R21, R185). -/
def hubPortAt (k : Nat) : Place × Side :=
  if k < 32 then ((0, k), .north)
  else if k < 40 then ((4 * (k - 32) + 2, 0), .west)
  else ((4 * (k - 40) + 2, 31), .east)

/-- The ports of a die whose edge routers lie at the least number of hops from a router (R185). -/
def nearPorts (p : Place) : List Nat :=
  let d := fun (k : Nat) => meshHops p (hubPortAt k).1
  let least := (List.range 48).foldl (fun m k => min m (d k)) (d 0)
  (List.range 48).filter (fun k => d k == least)

/-- The first of some ports with the most free places. -/
def mostFree (free : Nat → Nat) (ps : List Nat) : Nat :=
  let best := ps.foldl (fun m k => max m (free k)) 0
  (ps.find? (fun k => free k == best)).getD 0

/-- Flit places of an internal port's buffer in each direction (R367). -/
def hubPlaces : Nat := 1024

/-- Places taken in the hub-bound buffer of internal port `k` of the device by what has left a cell and has not arrived. -/
def State.hubBound (s : State) (k : Nat) : Nat :=
  s.hubPaths.foldl (fun n p => if p.2.exit_ == some k then n + p.2.places else n) 0
/-- Places taken in its die-bound buffer. -/
def State.dieBound (s : State) (k : Nat) : Nat :=
  s.hubPaths.foldl (fun n p => if p.2.entry == some k then n + p.2.places else n) 0

/-- The internal port by which traffic of a cell leaves its die (R185). -/
def State.exitPort (s : State) (cls : MemClass) (occasion c : Nat) : Nat :=
  48 * dieOf c +
  match cls with
  | .o => colOf c
  | .a => mostFree (fun k => hubPlaces - s.hubBound (48 * dieOf c + k)) (nearPorts (s.placeOf c))
  | .v => Config.draw (occasion + 1) % 48

/-- The internal port by which traffic enters the die of a cell (R185). -/
def State.entryPort (s : State) (cls : MemClass) (occasion c : Nat) : Nat :=
  48 * dieOf c +
  match cls with
  | .o => colOf c
  | .a => mostFree (fun k => hubPlaces - s.dieBound (48 * dieOf c + k)) (nearPorts (s.placeOf c))
  | .v => Config.draw (occasion + 2) % 48

/-- The internal ports that traffic takes from a cell (none: from the hub die) to a cell (none: to the hub die); traffic within a die
takes none (R185). -/
def State.hubPath (s : State) (cls : MemClass) (occasion : Nat) (src dst : Option Nat) (places : Nat) (colour tenant : BitVec 4) :
    Option HubPath :=
  let within := match src, dst with | some a, some b => dieOf a == dieOf b | _, _ => false
  if within then none
  else some ⟨src.map (s.exitPort cls occasion), dst.map (s.entryPort cls occasion), places, colour, tenant⟩

/-- Does number `x` still travel: an access on its way, a message or a control message (R367)? -/
def State.travels (s : State) (x : Nat) : Bool :=
  (match AL.find s.flights x with | some f => f.stage == .going || f.stage == .leaving | none => false) ||
  AL.has s.msgs x || AL.has s.ctls x

/-- Number `x` travels by some internal ports; what no longer travels has left their buffers. -/
def State.takePath (s : State) (x : Nat) (p : Option HubPath) : State :=
  let live := s.hubPaths.filter (fun q => s.travels q.1)
  { s with hubPaths := match p with | some q => AL.put live x q | none => live }

/-- Places taken in one buffer of an internal port: of each tenant's reserve, of the pool, and of the channel's reserve (R367). -/
structure Places where
  res  : AL Nat
  pool : Nat
  vc   : Nat
  deriving DecidableEq, Repr

/-- Take `n` places for a tenant: of its reserve, else of the pool, else of the channel's reserve; none where all lack room (R367). -/
def Places.take (p : Places) (res : List Nat) (t n : Nat) : Option Places :=
  let own := (res[t]?).getD 0
  if AL.get 0 p.res t + n ≤ own then some { p with res := AL.put p.res t (AL.get 0 p.res t + n) }
  else if p.pool + n ≤ hubPlaces - 72 - res.sum then some { p with pool := p.pool + n }
  else if p.vc + n ≤ 8 then some { p with vc := p.vc + n }
  else none

/-- Has number `x` its places in a buffer of an internal port, where earlier ones that have theirs keep them? What has none is held back
(R367). Inside a device everything travels on channel 0, as HOP is 0 (R356). -/
def State.portAdmits (s : State) (at_ : HubPath → Option Nat) (k x : Nat) : Bool :=
  let res := (AL.get HubPort.reset s.hubPorts k).res
  let go := fun (acc : Places × Bool) (p : Nat × HubPath) =>
    if at_ p.2 == some k && s.travels p.1 then
      match acc.1.take res p.2.tenant.toNat p.2.places with
      | some q => (q, acc.2 || p.1 == x)
      | none => acc
    else acc
  (s.hubPaths.foldl go (⟨[], 0, 0⟩, false)).2

/-- May number `x` arrive: has it its places at the internal ports that it takes (R367)? -/
def State.pathOpen (s : State) (x : Nat) : Bool :=
  match AL.find s.hubPaths x with
  | none => true
  | some p =>
    (match p.exit_ with | some k => s.portAdmits HubPath.exit_ k x | none => true) &&
    (match p.entry with | some k => s.portAdmits HubPath.entry k x | none => true)

/-- The number of an internal port as a unit (Table 7-15). -/
def State.hubUnit (s : State) (k : Nat) : BitVec 24 := s.devNum ++ BitVec.ofNat 12 (0x100 + k)

/-- The internal port of the device by which number `x`, of a class, enters the die of a cell. -/
def State.entryOf (s : State) (cls : MemClass) (x c : Nat) : Nat :=
  match AL.find s.hubPaths x with
  | some p => p.entry.getD (s.entryPort cls x c)
  | none => s.entryPort cls x c

/-! ### Ports of an atomic engine (R203) -/

/-- The input ports of an atomic engine in the order in which operations that have waited equally long go (R203). -/
def enginePort : Side → Nat | .north => 1 | .east => 2 | .south => 3 | .west => 4

/-- The port of an engine by which an operation of a cell on a cell's word arrives: local from its own cluster, else the side of the last
hop; what comes from another die or from far memory comes by the hub port (R203; log 58). -/
def State.enginePortOf (s : State) (cls : MemClass) (occasion src dst : Nat) : Nat :=
  if clusterOf src = clusterOf dst then 0
  else if dieOf src ≠ dieOf dst then 5
  else
    match (s.meshRoute cls occasion (dieOf src) (s.placeOf src) (s.placeOf dst)).getLast? with
    | some d => enginePort d.entered
    | none => 0

end Sys2Proof.Machine
end

