-- ==== Sys2Proof/Machine/Ops.lean ====
section
/-! DEFINITION. The named operations over the state: reading and writing its parts, address resolution (R175 to
R180), memory as bytes, messages and control messages, weight (R158, R159), trace records (R388), taking a trap and
the verdicts (R53 to R56), and instruction fetch (R81, R96). -/

namespace Sys2Proof.Machine

/-! ### Bit fields -/

/-- Bits [hi:lo] of a doubleword, as a number. -/
def bits (w : Word) (hi lo : Nat) : Nat := w.toNat / 2 ^ lo % 2 ^ (hi + 1 - lo)
/-- One bit of a doubleword. -/
def bitAt (w : Word) (k : Nat) : Bool := w.getLsbD k
/-- A flag as a number. -/
def flag (b : Bool) : Nat := if b then 1 else 0
/-- A doubleword from a number. -/
def word (n : Nat) : Word := BitVec.ofNat 64 n
/-- The low 48 bits of a doubleword. -/
def lo48 (w : Word) : Addr := w.setWidth 48
/-- An address as a doubleword. -/
def addrWord (a : Addr) : Word := a.setWidth 64
/-- Two halves of a doubleword. -/
def hiLo (hi lo : BitVec 32) : Word := hi ++ lo

/-! ### Parts of the state -/

/-- A cell. -/
def State.cell (s : State) (c : Nat) : Cell := AL.get Cell.reset s.cells c
/-- Replace a cell. -/
def State.setCell (s : State) (c : Nat) (x : Cell) : State := { s with cells := AL.put s.cells c x }
/-- Change a cell. -/
def State.modCell (s : State) (c : Nat) (f : Cell → Cell) : State := s.setCell c (f (s.cell c))
/-- A frame slot. -/
def State.frame (s : State) (c slot : Nat) : Frame := AL.get Frame.free (s.cell c).frames slot
/-- Replace a frame slot. -/
def State.setFrame (s : State) (c slot : Nat) (f : Frame) : State :=
  s.modCell c (fun x => { x with frames := AL.put x.frames slot f })
/-- Change a frame slot. -/
def State.modFrame (s : State) (c slot : Nat) (f : Frame → Frame) : State := s.setFrame c slot (f (s.frame c slot))
/-- An activation. -/
def State.act (s : State) (a : Nat) : Act := AL.get Act.zero s.acts a
/-- Change an activation; one that has ended does not come back. -/
def State.modAct (s : State) (a : Nat) (f : Act → Act) : State :=
  match AL.find s.acts a with
  | some x => { s with acts := AL.put s.acts a (f x) }
  | none => s
/-- The activation of a frame slot. -/
def State.actOf (s : State) (c slot : Nat) : Act := s.act (s.frame c slot).act
/-- Change the activation of a frame slot. -/
def State.modActOf (s : State) (c slot : Nat) (f : Act → Act) : State := s.modAct (s.frame c slot).act f
/-- Change an engine program, if it lives. -/
def State.modProg (s : State) (p : Nat) (f : Prog → Prog) : State :=
  match AL.find s.progs p with
  | some x => { s with progs := AL.put s.progs p (f x) }
  | none => s
/-- Change a copy, if it lives. -/
def State.modCopy (s : State) (x : Nat) (f : CopyRun → CopyRun) : State :=
  match AL.find s.copies x with
  | some y => { s with copies := AL.put s.copies x (f y) }
  | none => s
/-- Change an access in flight. -/
def State.modFlight (s : State) (x : Nat) (f : Flight → Flight) : State :=
  match AL.find s.flights x with
  | some y => { s with flights := AL.put s.flights x (f y) }
  | none => s
/-- A trace core. -/
def State.trace (s : State) (k : Nat) : TraceCore := AL.get TraceCore.reset s.traces k
/-- Change a trace core. -/
def State.modTrace (s : State) (k : Nat) (f : TraceCore → TraceCore) : State :=
  { s with traces := AL.put s.traces k (f (s.trace k)) }
/-- A cluster. -/
def State.cluster (s : State) (k : Nat) : Cluster := AL.get Cluster.reset s.clusters k
/-- Change a cluster. -/
def State.modCluster (s : State) (k : Nat) (f : Cluster → Cluster) : State :=
  { s with clusters := AL.put s.clusters k (f (s.cluster k)) }
/-- A queue table entry. -/
def State.queue (s : State) (q : Nat) : QueueEntry := AL.get QueueEntry.reset s.queues q
/-- Change a queue table entry. -/
def State.modQueue (s : State) (q : Nat) (f : QueueEntry → QueueEntry) : State :=
  { s with queues := AL.put s.queues q (f (s.queue q)) }
/-- A port. -/
def State.port (s : State) (p : Nat) : Port := AL.get Port.reset s.ports p
/-- Change a port. -/
def State.modPort (s : State) (p : Nat) (f : Port → Port) : State := { s with ports := AL.put s.ports p (f (s.port p)) }
/-- An internal hub port. -/
def State.hubPort (s : State) (k : Nat) : HubPort := AL.get HubPort.reset s.hubPorts k
/-- Change an internal hub port. -/
def State.modHubPort (s : State) (k : Nat) (f : HubPort → HubPort) : State :=
  { s with hubPorts := AL.put s.hubPorts k (f (s.hubPort k)) }
/-- A translation agent. -/
def State.agent (s : State) (a : Nat) : Agent := AL.get Agent.reset s.agents a
/-- Change a translation agent. -/
def State.modAgent (s : State) (a : Nat) (f : Agent → Agent) : State :=
  { s with agents := AL.put s.agents a (f (s.agent a)) }
/-- Change a field, if it is configured. -/
def State.modField (s : State) (f : Nat) (g : Field → Field) : State :=
  match AL.find s.fields f with
  | some x => { s with fields := AL.put s.fields f (g x) }
  | none => s
/-- A bell; its key is 8 × die + number. -/
def State.bell (s : State) (die b : Nat) : Bell := AL.get Bell.reset s.bells (8 * die + b)
/-- Change a bell. -/
def State.modBell (s : State) (die b : Nat) (f : Bell → Bell) : State :=
  { s with bells := AL.put s.bells (8 * die + b) (f (s.bell die b)) }
/-- An engine of a cell. -/
def Cell.engine (c : Cell) : EngineUnit → Engine
  | .vector => c.vector
  | .matrix => c.matrix
  | .streamer => c.streamer
/-- Replace an engine of a cell. -/
def Cell.setEngine (c : Cell) (u : EngineUnit) (e : Engine) : Cell :=
  match u with
  | .vector => { c with vector := e }
  | .matrix => { c with matrix := e }
  | .streamer => { c with streamer := e }
/-- Change an engine of a cell. -/
def State.modEngine (s : State) (c : Nat) (u : EngineUnit) (f : Engine → Engine) : State :=
  s.modCell c (fun x => x.setEngine u (f (x.engine u)))

/-- The field that holds a cell, with its context (R148). -/
def State.fieldOf (s : State) (c : Nat) : Option Field :=
  let x := s.cell c
  if x.fieldV then AL.find s.fields x.field else none
/-- The segments that a cell's segment cache holds (R176). -/
def State.segsOf (s : State) (c : Nat) : List Seg :=
  match s.fieldOf c with | some f => f.segs | none => []
/-- A global cell address of this device (R17). -/
def State.gca (s : State) (c : Nat) : BitVec 24 := s.devNum ++ BitVec.ofNat 12 c
/-- The device of a global cell address. -/
def devOf (g : BitVec 24) : BitVec 12 := g.extractLsb' 12 12
/-- The cell of a global cell address. -/
def cellOf (g : BitVec 24) : Nat := (g.extractLsb' 0 12).toNat
/-- The global cell address of a scope's home (R155). -/
def homeOf (sc : BitVec 32) : BitVec 24 := sc.extractLsb' 8 24
/-- The slot of a scope in its home's table (R155). -/
def slotOf (sc : BitVec 32) : Nat := (sc.extractLsb' 0 8).toNat
/-- A scope identifier (R155). -/
def scopeId (dev : BitVec 12) (cell slot : Nat) : BitVec 32 := dev ++ BitVec.ofNat 12 cell ++ BitVec.ofNat 8 slot

/-- Is a cell within a rectangle? -/
def inRect (die row0 col0 h w c : Nat) : Bool :=
  dieOf c == die && decide (row0 ≤ rowOf c) && decide (rowOf c < row0 + h) && decide (col0 ≤ colOf c) &&
  decide (colOf c < col0 + w)
/-- The cells of a rectangle in row-major order. -/
def rectCells (die row0 col0 h w : Nat) : List Nat :=
  (List.range (h * w)).map (fun k => cellAt die (row0 + k / w) (col0 + k % w))
/-- Does a cell lie in the field of a context (R323)? -/
def FieldCtx.holds (x : FieldCtx) (c : Nat) : Bool :=
  if x.shape then decide (c < cellCount) && x.dies.getLsbD (dieOf c) else inRect x.die x.row0 x.col0 x.h x.w c
/-- The cells of a field, in row-major order. -/
def FieldCtx.cells (x : FieldCtx) : List Nat :=
  if x.shape then (List.range 4).flatMap (fun d => if x.dies.getLsbD d then rectCells d 0 0 32 32 else [])
  else rectCells x.die x.row0 x.col0 x.h x.w

/-- A fresh number for something in flight. -/
def State.fresh (s : State) : State := { s with nextId := s.nextId + 1 }

/-! ### Address resolution (R175 to R179) -/

/-- The regions of the straddle check (R175). -/
inductive Region48
  | window
  | hole
  | seg (i : Nat)
  | outside
  deriving DecidableEq, Repr

/-- The index of the segment that holds an address. -/
def segAt (segs : List Seg) (va : Nat) : Option Nat :=
  segs.findIdx? (fun g => decide (g.base ≤ va) && decide (va < g.base + g.len))

/-- The region of an address (Table 9-1). -/
def regionOf (segs : List Seg) (va : Nat) : Region48 :=
  if va < 0x40000 then .window
  else if va < 0x1000000 then .hole
  else match segAt segs va with | some i => .seg i | none => .outside

/-- Do `n` bytes from `va` lie in one region (check 9 of Table 2-12): both ends do, and no segment begins between them? -/
def oneRegion (segs : List Seg) (va n : Nat) : Bool :=
  regionOf segs va == regionOf segs (va + n - 1) &&
  !(regionOf segs va == .outside && segs.any (fun g => decide (va < g.base) && decide (g.base < va + n)))

/-- A permission that an access needs (R179). -/
inductive Need | r | w | x | atom | srcMerge
  deriving DecidableEq, Repr

/-- Does a segment grant what an access needs (R179, R234)? -/
def Seg.grants (g : Seg) : Need → Bool
  | .r => g.r
  | .w => g.w
  | .x => g.x
  | .atom => g.r && g.w && g.at_
  | .srcMerge => g.r && g.at_
/-- Does a leaf's PERM, bits R, W, X, AT, grant it (R329)? -/
def permGrants (p : BitVec 4) : Need → Bool
  | .r => p.getLsbD 0
  | .w => p.getLsbD 1
  | .x => p.getLsbD 2
  | .atom => p.getLsbD 0 && p.getLsbD 1 && p.getLsbD 3
  | .srcMerge => p.getLsbD 0 && p.getLsbD 3

/-- The cell and slice offset of an address in a hashed segment (R178). -/
def hashOwner (kf : Word) (rel : Nat) : Nat × Nat :=
  let die := bits kf 1 0
  let row0 := bits kf 6 2
  let col0 := bits kf 11 7
  let w := bits kf 16 12 + 1
  let h := bits kf 21 17 + 1
  let off := bits kf 43 22
  let g := rel / 256
  let n := w * h
  let k := g % n
  (cellAt die (row0 + k / w) (col0 + k % w), off + g / n * 256 + rel % 256)

/-- Where an address of a segment lies (Table 9-2). -/
def Seg.target (g : Seg) (va : Nat) : Target :=
  let rel := va - g.base
  match g.kind with
  | 1 =>
    let cell := bits g.kf 11 0
    let off := bits g.kf 37 16 + rel
    .sram (if bitAt g.kf 12 then nearAddr cell off else sliceAddr cell off)
  | 2 => let o := hashOwner g.kf rel; .sram (sliceAddr o.1 o.2)
  | 3 => .far (BitVec.ofNat 48 va)
  | 4 => .fabric (bits g.kf 11 0) (g.rbase + BitVec.ofNat 48 rel) (BitVec.ofNat 16 (bits g.kf 31 16))
  | _ => .host (bits g.kf 11 0) (g.rbase + BitVec.ofNat 48 rel)

/-- Does a target lie in a fenced field (Table 9-3, FENCED; R349)? -/
def State.fencedCell (s : State) (c : Nat) : Bool :=
  match s.fieldOf c with | some f => f.fenced | none => false

/-- Resolve an address of a cell, or of a hub unit (no window), at issue (R175 to R180). -/
def resolve (segs : List Seg) (window : Option Nat) (va : Nat) (need : Need) : Target :=
  match regionOf segs va with
  | .window =>
    match window with
    | some c => if need = .x then .bad 6 else .sram (nearAddr c va)
    | none => .bad 3
  | .hole => if need = .x then .bad 6 else .bad 3
  | .outside => if need = .x then .bad 6 else .bad 2
  | .seg i =>
    match segs[i]? with
    | none => .bad 2
    | some g =>
      if g.grants need then g.target va else .bad (if need = .x then 6 else 1)

/-! ### Logs (R180) -/

/-- Bits [23:0] of the global nanosecond count. -/
def State.time24 (s : State) : BitVec 24 := BitVec.ofNat 24 s.ns
/-- The global nanosecond count as software reads it. -/
def State.time64 (s : State) : Word := word s.ns

/-- Log a violation at the memory port of a cell (R180). -/
def State.logPort (s : State) (c : Nat) (v : Violation) : State :=
  s.modCell c (fun x => { x with portLog := log8 x.portLog v })
/-- Log a violation that a cell detects at issue (R180). -/
def State.logCell (s : State) (c : Nat) (v : Violation) : State :=
  s.modCell c (fun x => { x with violations := log8 x.violations v })
/-- Log a violation at a translation agent (R180). -/
def State.logAgent (s : State) (a : Nat) (v : Violation) : State :=
  s.modAgent a (fun g => { g with log := log8 g.log v })
/-- Log a violation in the log of a unit; the hub and the controllers have none (R180). -/
def State.logAt (s : State) (u : LogUnit) (v : Violation) : State :=
  match u with
  | .cell c => s.logCell c v
  | .memPort c => s.logPort c v
  | .agent a => s.logAgent a v
  | .port p => s.modPort p (fun x => { x with log := log8 x.log v })
  | .dieEdge k => s.modHubPort k (fun x => { x with log := log8 x.log v })
  | .commandProcessor k =>
    let p := AL.get ⟨[], none, []⟩ s.cps k
    { s with cps := AL.put s.cps k { p with log := log8 p.log v } }
  | .traceCore k => s.modTrace k (fun t => { t with log := log8 t.log v })
  | .transport => { s with xportLog := log8 s.xportLog v }
  | .controller _ => s
  | .hub => s
/-- The SIZE code of a number of bytes (Table 9-4). It has no code for a fetch of a line or a front operation, of 64 bytes, which are given that of a
pair (DESIGN CHOICE, log 64). -/
def sizeCode (n : Nat) : Nat := if n = 1 then 0 else if n = 2 then 1 else if n = 4 then 2 else if n = 8 then 3 else 4

/-! ### Memory through a flat address -/

/-- The violation kind of a flat address: FENCED where its owner's field is fenced (Table 9-3). -/
def State.flatFenced (s : State) (a : Nat) : Bool :=
  match ownerCell a with | some c => s.fencedCell c | none => false

/-- The follower of a leader, if the cell leads a checked pair (R411). -/
def State.follower (s : State) (c : Nat) : Option Nat :=
  let x := s.cell c
  if x.paired && x.leader then some (c + 1) else none

/-- Where a write of a leader's memory port to its near scratch is made as well: in the follower's (R412). -/
def State.mirrorAt (s : State) (a : Nat) : Option Nat :=
  match ownerCell a with
  | some c => if a < sliceBase then (s.follower c).map (fun d => a - nearAddr c 0 + nearAddr d 0) else none
  | none => none

/-- Write bytes at a flat address, and where it is mirrored; a write that covers a poisoned doubleword clears its poison (R406, R412). -/
def State.writeFlat (s : State) (a : Nat) (bs : List Byte) : State :=
  let clear := fun (a : Nat) (l : List Nat) => l.filter (fun p => !(decide (a ≤ p) && decide (p + 8 ≤ a + bs.length)))
  let s1 : State := { s with mem := s.mem.setBytes a bs, poison := clear a s.poison }
  match s.mirrorAt a with
  | some b => { s1 with mem := s1.mem.setBytes b bs, poison := clear b s1.poison }
  | none => s1

/-- Does a read of `n` bytes meet a poisoned doubleword (R406, R407), or a channel that failed retraining (R429)? -/
def State.poisoned (s : State) (a n : Nat) : Bool :=
  s.poison.any (fun p => decide (p < a + n) && decide (a < p + 8)) ||
  (decide (farBase ≤ a) && (AL.get Channel.reset s.channels ((a - farBase) / 256 % 64)).failed)

/-! ### Translation of far memory (R329, R330) -/

/-- A page-table entry in far memory, by its physical address. -/
def State.pte (s : State) (pa : Nat) : Word := word (leNat (s.mem.bytes (farAddr pa) 8))

/-- Is an entry valid with its zero fields zero (Table 17-3)? `leaf` is what LEAF shall be. -/
def pteOk (e : Word) (leaf : Bool) : Bool :=
  bitAt e 0 && bits e 63 48 == 0 && !bitAt e 7 && !bitAt e 1 && bitAt e 6 == leaf && (leaf || bits e 5 2 == 0)

/-- Walk the three levels for an address; none where the page is not resident (R329, R330). -/
def State.walk (s : State) (field : Nat) (root : Addr) (va : Nat) : Option Leaf :=
  let e1 := s.pte (root.toNat + 8 * (va / 2 ^ 36 % 4096))
  if pteOk e1 false && bits e1 14 8 == 0 then
    let e2 := s.pte (bits e1 47 8 * 256 + 8 * (va / 2 ^ 21 % 32768))
    if bitAt e2 6 then
      if pteOk e2 true && bits e2 20 8 == 0 then
        some ⟨field, va / 2 ^ 21 * 2 ^ 21, 2 ^ 21, bits e2 47 8 * 256, BitVec.ofNat 4 (bits e2 5 2)⟩
      else none
    else if pteOk e2 false then
      let e3 := s.pte (bits e2 47 8 * 256 + 8 * (va / 65536 % 32))
      if pteOk e3 true && bits e3 15 8 == 0 then
        some ⟨field, va / 65536 * 65536, 65536, bits e3 47 8 * 256, BitVec.ofNat 4 (bits e3 5 2)⟩
      else none
    else none
  else none

/-- The first uncorrectable word among the entries that a walk for an address reads (R407, R409, R429). -/
def State.walkPoison (s : State) (root : Addr) (va : Nat) : Option Nat :=
  let a1 := farAddr (root.toNat + 8 * (va / 2 ^ 36 % 4096))
  let e1 := s.pte (root.toNat + 8 * (va / 2 ^ 36 % 4096))
  if s.poisoned a1 8 then some a1
  else if !(pteOk e1 false && bits e1 14 8 == 0) then none
  else
    let p2 := bits e1 47 8 * 256 + 8 * (va / 2 ^ 21 % 32768)
    let e2 := s.pte p2
    if s.poisoned (farAddr p2) 8 then some (farAddr p2)
    else if bitAt e2 6 || !pteOk e2 false then none
    else
      let a3 := farAddr (bits e2 47 8 * 256 + 8 * (va / 65536 % 32))
      if s.poisoned a3 8 then some a3 else none

/-- The agent that translates an address (R330). -/
def agentOf (va : Nat) : Nat := va / 65536 % 16

/-- The cached leaf of an address, if its agent holds one (R330). -/
def State.cachedLeaf (s : State) (field va : Nat) : Option Leaf :=
  (s.agent (agentOf va)).cache.find?
    (fun l => l.field == field && decide (l.va ≤ va) && decide (va < l.va + l.size))

/-- Cache a leaf at the agent of an address: 8,192 entries, the oldest leaving first (R330). -/
def State.cacheLeaf (s : State) (va : Nat) (l : Leaf) : State :=
  s.modAgent (agentOf va) (fun g =>
    let c := g.cache ++ [l]
    { g with cache := c.drop (c.length - 8192) })

/-- What translating a far-memory address gives: a flat address, a refusal, a page that is not resident, an agent whose walks are all
busy, or an uncorrectable word that a walk has met. -/
inductive Xlate
  | ok (flat : Nat)
  | refused
  | notResident
  | busy
  | poison (flat : Nat)
  deriving DecidableEq, Repr

/-- What a requester waits for. -/
def State.waitOf (s : State) (r : FaultReq) : MemWait :=
  match s.waits.find? (fun w => w.req == r) with | some w => w.wait | none => .none

/-- The far address of an access whose leaf its agent lacks. -/
def State.missing (s : State) (f : Flight) : Option Nat :=
  let one := fun (t : Target) => match t with
    | .far va => if (s.cachedLeaf f.field va.toNat).isSome then none else some va.toNat
    | _ => none
  match one f.target with | some v => some v | none => one f.second

/-- Walks of an agent at once (R330). -/
def walkLimit : Nat := 64

/-- Does a requester still wait for a walk of an agent to end? -/
def State.stillMisses (s : State) (g : Agent) (r : FaultReq) : Bool :=
  match r with
  | .flight y =>
    match AL.find s.flights y with
    | some f => f.stage == .going &&
      (match s.missing f with | some va => !g.walks.contains ⟨f.field, va / 65536⟩ | none => false)
    | none => false
  | r => match s.waitOf r with | .walk _ => true | _ => false

/-- The first of those that wait for a walk of an agent (R330). -/
def State.firstMiss (s : State) (g : Agent) : Option FaultReq := g.waiting.find? (fun r => s.stillMisses g r)

/-- Does a requester's miss find a walk that it may use: one of its page under way, which it joins, or one of the 64 that is free, if none
has waited longer (R330)? A requester without a name takes a free one that only other such requesters wait for. -/
def State.mayWalk (s : State) (field va : Nat) (r : Option FaultReq) : Bool :=
  let g := s.agent (agentOf va)
  g.walks.contains ⟨field, va / 65536⟩ ||
    (decide (g.walks.length < walkLimit) &&
      match s.firstMiss g, r with
      | none, _ => true
      | some x, some y => x == y
      | some (.frame _ _), none => true
      | some (.prog _), none => true
      | some (.input _ _), none => true
      | some _, none => false)

/-- A walk has ended: it and the requester leave the agent's lists. -/
def State.walkDone (s : State) (field va : Nat) (r : Option FaultReq) : State :=
  s.modAgent (agentOf va) (fun g => { g with
    walks := g.walks.erase ⟨field, va / 65536⟩, waiting := g.waiting.filter (fun y => !(some y == r)) })

/-- Translate with the cached leaf or a walk; a leaf that a walk finds is cached (R330). -/
def State.translate (s : State) (field va : Nat) (need : Need) (r : Option FaultReq := none) : Xlate × State :=
  let use := fun (l : Leaf) => if permGrants l.perm need then Xlate.ok (farAddr (l.pa + (va - l.va))) else .refused
  match s.cachedLeaf field va with
  | some l => (use l, s)
  | none =>
    match AL.find s.fields field with
    | none => (.notResident, s)
    | some f =>
      if s.mayWalk field va r then
        match s.walkPoison f.ctx.root va, s.walk field f.ctx.root va with
        | some a, _ => (.poison a, s)
        | none, some l => (use l, (s.walkDone field va r).cacheLeaf va l)
        | none, none => (.notResident, s.walkDone field va r)
      else (.busy, s)

/-! ### Waiting for a page or for a line of another device -/

/-- The lines of other devices that a requester has. -/
def State.linesOf (s : State) (r : FaultReq) : LineBuf :=
  match s.waits.find? (fun w => w.req == r) with | some w => w.lines | none => []
/-- The addresses in other devices at which a requester's writes have been performed. -/
def State.wroteOf (s : State) (r : FaultReq) : List Nat :=
  match s.waits.find? (fun w => w.req == r) with | some w => w.wrote | none => []
/-- What remains of a requester's front operation. -/
def State.runOf (s : State) (r : FaultReq) : Option FrontRun :=
  (s.waits.find? (fun w => w.req == r)).bind WaitRec.run
/-- A requester's front operation stands so far; of the writes performed for it none waits to be used. -/
def State.setRun (s : State) (r : FaultReq) (x : FrontRun) : State :=
  { s with waits := ⟨r, s.waitOf r, s.linesOf r, [], some x⟩ :: s.waits.filter (fun w => !(w.req == r)) }
/-- A requester waits for nothing any more and has no lines. -/
def State.endWait (s : State) (r : FaultReq) : State := { s with waits := s.waits.filter (fun w => !(w.req == r)) }
/-- Set what a requester waits for; it keeps its lines. -/
def State.setWait (s : State) (r : FaultReq) (m : MemWait) : State :=
  { s with waits := ⟨r, m, s.linesOf r, s.wroteOf r, s.runOf r⟩ :: s.waits.filter (fun w => !(w.req == r)) }
/-- A requester waits for a walk of the agent of an address to end, in the order of arrival (R330). -/
def State.waitWalk (s : State) (r : FaultReq) (va : Nat) : State :=
  (s.modAgent (agentOf va) (fun g => { g with waiting := if g.waiting.contains r then g.waiting else g.waiting ++ [r] })).setWait r (.walk va)
/-- A requester's line has come. -/
def State.gotLine (s : State) (r : FaultReq) (line : Nat) (bs : List Byte) : State :=
  { s with waits := ⟨r, .none, AL.put (s.linesOf r) line bs, s.wroteOf r, s.runOf r⟩ :: s.waits.filter (fun w => !(w.req == r)) }
/-- A requester's write in another device has been performed. -/
def State.gotWrite (s : State) (r : FaultReq) (va : Nat) : State :=
  { s with waits := ⟨r, .none, s.linesOf r, va :: s.wroteOf r, s.runOf r⟩ :: s.waits.filter (fun w => !(w.req == r)) }

/-! ### Messages and control messages -/

/-- A message on its way (R143). -/
def State.post (s : State) (m : Msg) : State :=
  let here := devOf m.dst == s.devNum
  let path := s.hubPath m.cls s.nextId (if m.hub || devOf m.src != s.devNum then none else some (cellOf m.src)) (if here then some (cellOf m.dst) else none) 2
    m.colour m.tenant
  { s with msgs := AL.put s.msgs s.nextId ⟨m, m.src⟩, nextId := s.nextId + 1 }.takePath s.nextId path

/-- A packet that leaves this device, under a number of its own. -/
def State.sendPacketAs (s : State) (x : Nat) (p : Packet) : State :=
  { s with packets := AL.put s.packets x ⟨p, .egress none, 0, 0, 0, [], [], none, none⟩ }

/-- A packet that leaves this device. -/
def State.sendPacket (s : State) (p : Packet) : State :=
  { s.sendPacketAs s.nextId p with nextId := s.nextId + 1 }

/-- OP of a SCOPECTL packet (Table 18-5). A choke travels as a CANCEL and a query as a CHECK, told apart by the third
word (log 21). -/
def CtlKind.op : CtlKind → Nat
  | .mint => 0x01 | .grant => 0x02 | .refuse => 0x03 | .link => 0x04 | .linkres => 0x05 | .unlink => 0x06
  | .unlinkack => 0x07 | .notice => 0x08 | .clear => 0x09 | .clearack => 0x0A | .close => 0x0B | .cancel => 0x0C
  | .choke => 0x0C | .shield => 0x0D | .claim => 0x0E | .check => 0x0F | .query => 0x0F | .climb => 0x10
  | .answer => 0x11 | .weightReturn => 0

/-- The kind of an OP and the third word. -/
def CtlKind.ofOp (op third : Nat) : Option CtlKind :=
  match op with
  | 0x01 => some .mint | 0x02 => some .grant | 0x03 => some .refuse | 0x04 => some .link | 0x05 => some .linkres
  | 0x06 => some .unlink | 0x07 => some .unlinkack | 0x08 => some .notice | 0x09 => some .clear
  | 0x0A => some .clearack | 0x0B => some .close
  | 0x0C => some (if third % 2 = 1 then .choke else .cancel)
  | 0x0D => some .shield | 0x0E => some .claim
  | 0x0F => some (if third % 2 = 1 then .query else .check)
  | 0x10 => some .climb | 0x11 => some .answer
  | _ => none

/-- The packet of a control message to another device (R358, R359), with an identifier that its answer echoes. The
manual does not lay out the operands: words 0 to 2 hold the second scope, the value and what a climb does then, the
further words follow as data (log 21). -/
def Ctl.packet (c : Ctl) (ns rid : Nat) : Packet :=
  let third := (if c.kind = .choke ∨ c.kind = .query then 1 else 0) + 2 * c.then_.op
  if c.kind = .weightReturn then
    { Packet.zero with kind := 6, hub := c.hub, colour := c.colour, dst := c.dst, src := c.src, addr := lo48 c.value,
                       scope := c.scope, time := BitVec.ofNat 32 ns }
  else
    { Packet.zero with
      kind := 7, hub := c.hub, colour := c.colour, dst := c.dst, src := c.src, op := BitVec.ofNat 16 c.kind.op,
      elem := BitVec.ofNat 24 rid, scope := c.scope, time := BitVec.ofNat 32 ns, words := [c.other.setWidth 64, c.value, word third, 0],
      data := c.words.flatMap (fun w => leBytes 8 w.toNat) }

/-- The job colour of a control message: that of the context of its cell's field, or of its scope where a unit of the hub die sends it
(R344). -/
def State.ctlColour (s : State) (c : Ctl) : BitVec 4 :=
  if c.colour ≠ 0 then c.colour
  else if !c.hub && devOf c.src == s.devNum then
    (match s.fieldOf (cellOf c.src) with | some f => f.ctx.colour | none => 0)
  else if devOf (homeOf c.scope) = s.devNum then
    (AL.get ScopeRec.free (s.cell (cellOf (homeOf c.scope))).scopes (slotOf c.scope)).colour
  else 0

/-- A control message on its way (R157): on this device to a scope port, to another device as a packet. Who waits for
the answer of a packet is kept under its identifier. -/
def State.postCtl (s : State) (m : Ctl) : State :=
  let c := { m with colour := s.ctlColour m }
  if devOf c.dst = s.devNum then
    let path := s.hubPath .o s.nextId (if c.hub || devOf c.src != s.devNum then none else some (cellOf c.src)) (some (cellOf c.dst)) 1
      c.colour 0
    { s with ctls := AL.put s.ctls s.nextId c, nextId := s.nextId + 1 }.takePath s.nextId path
  else
    match c.who with
    | .none => s.sendPacket (c.packet s.ns 0)
    | .remote _ tag => s.sendPacket (c.packet s.ns tag)
    | w =>
      let rid := s.nextId % 2 ^ 24
      { s with asks := AL.put s.asks rid w }.sendPacket (c.packet s.ns rid)

/-- A control message of a kind, from a unit to a cell, about a scope. -/
def Ctl.make (k : CtlKind) (src dst : BitVec 24) (scope other : BitVec 32) (who : Waiter) : Ctl :=
  ⟨k, false, src, dst, scope, other, who, 0, [], .answer, 0⟩

/-- Return weight to the home of a scope, from a cell or from a unit of the hub die (R160). A return of nothing is not sent. -/
def State.returnWeight (s : State) (src : BitVec 24) (sc : BitVec 32) (w : Nat) (hub : Bool := false) : State :=
  if w = 0 then s
  else s.postCtl { Ctl.make .weightReturn src (homeOf sc) sc 0 .none with value := word w, hub := hub }

/-- Ask the home of a scope to mint (R159). -/
def State.askMint (s : State) (src : BitVec 24) (sc : BitVec 32) (who : Waiter) (hub : Bool := false) : State :=
  s.postCtl { Ctl.make .mint src (homeOf sc) sc 0 who with hub := hub }

/-! ### Weight (R158, R159) -/

/-- The holding of a scope among some. -/
def holdingOf (hs : List Holding) (sc : BitVec 32) : Option Holding := hs.find? (fun h => h.scope == sc)

/-- Change the weight of a holding. -/
def setHolding (hs : List Holding) (sc : BitVec 32) (w : Nat) : List Holding :=
  hs.map (fun h => if h.scope == sc then { h with w := w } else h)

/-- Weight that a grant of a mint adds: 2^20 (R159). -/
def mintAmount : Nat := 2 ^ 20

/-- The weight a split gives to new work; the holder keeps the rest (R159). -/
def splitShare (w : Nat) : Nat := w / 2

/-- Is a cell notified that a scope is cancelled, by its cancel list (R168, R169)? -/
def State.notified (s : State) (c : Nat) (sc : BitVec 32) : Bool := (s.cell c).cancels.contains sc

/-- What the home of a scope has answered to the engines of a cell in overflow mode (R168). -/
def State.unitAnswer (s : State) (c : Nat) (sc : BitVec 32) : Option Bool := ((AL.find (s.cell c).unitAsks sc.toNat).join)

/-- Can the engines of a cell check a scope now: against the cell's list, or in overflow mode with the answer of its home (R168)? -/
def State.mayCheck (s : State) (c : Nat) (sc : BitVec 32) : Bool := !(s.cell c).overflow || (s.unitAnswer c sc).isSome

/-- Are the engines of a cell notified that a scope is cancelled: by the cell's cancel list, or in overflow mode as its home has
answered (R168, R169)? -/
def State.cancelledAt (s : State) (c : Nat) (sc : BitVec 32) : Bool :=
  if (s.cell c).overflow then s.unitAnswer c sc == some true else s.notified c sc

/-- They ask the home of a scope, once (R168). -/
def State.askUnit (s : State) (c : Nat) (sc : BitVec 32) : State :=
  if AL.has (s.cell c).unitAsks sc.toNat then s
  else (s.postCtl (Ctl.make .query (s.gca c) (homeOf sc) sc 0 (.unit c sc))).modCell c
    (fun x => { x with unitAsks := AL.put x.unitAsks sc.toNat none })

/-- A check has been made: in overflow mode the next one asks anew (R168). -/
def State.checked (s : State) (c : Nat) (sc : BitVec 32) : State :=
  if (s.cell c).overflow then s.modCell c (fun x => { x with unitAsks := AL.del x.unitAsks sc.toNat }) else s

/-- Do the engines of a cell execute (Table 17-9)? -/
def State.engineGo (s : State) (c : Nat) : Bool :=
  match s.fieldOf c with | some f => f.mode != .switching && f.mode != .out | none => true

/-- May queued operations of a cell's engines start (R396, R417, Table 17-9)? -/
def State.engineStarts (s : State) (c : Nat) : Bool :=
  !(s.cluster (clusterOf c)).stopped &&
  match s.fieldOf c with | some f => f.mode == .running && !f.fenced | none => true

/-! ### Trace records (R387, R388) -/

/-- Saturate to 32 bits. -/
def sat32 (n : Nat) : Nat := if n < 2 ^ 32 then n else 2 ^ 32 - 1

/-- A cell offers a record to its cluster's trace core (R388, Tables 19-2, 19-3). -/
def State.offer (s : State) (c : Nat) (kind : Nat) (nm : Naming) (entry : Addr) (slot : Nat) (dseq : BitVec 8)
    (code aux : Nat) : State :=
  let w1 := bits nm.hdr 63 40 * 2 ^ 40 + bits nm.hdr 39 36 * 2 ^ 36 + bits nm.hdr 35 32 * 2 ^ 32 + kind * 2 ^ 28 +
    nm.tenant.toNat * 2 ^ 24 + slot * 2 ^ 20 + c * 2 ^ 8 + dseq.toNat
  let r : TraceRec := ⟨s.time64, word w1, word (code * 2 ^ 48 + entry.toNat), hiLo nm.scope (BitVec.ofNat 32 aux)⟩
  s.modTrace (clusterOf c) (fun t => { t with offered := t.offered ++ [(c, r)] })

/-- The record of an event of a resident activation. -/
def State.offerSlot (s : State) (c slot kind code aux : Nat) : State :=
  let a := s.actOf c slot
  s.offer c kind a.naming a.entry slot (AL.get 0 (s.cell c).dseq slot) code aux

/-! ### Service messages (R136, R326) -/

/-- A message to the trap handler of a field, which carries 2^20 of SVCSCOPE, minted for it (R326). It waits for
its mint among the wakes. -/
def State.sendService (s : State) (f : Field) (src : BitVec 24) (hub : Bool) (words : List Word) (nack : Bool) : State :=
  let m : Msg := { Msg.zero with
    dst := s.gca f.ctx.trapCell, handler := f.ctx.trapH, words := words, tag := f.ctx.trapTag, hub := hub,
    src := src, scope := f.ctx.svcScope, colour := f.ctx.colour, sent := s.time64, nack := nack }
  let id := s.nextId
  ({ s with wakes := AL.put s.wakes id ⟨m, none, none, none, true, true, false, false⟩, nextId := id + 1 }).askMint
    src f.ctx.svcScope (.wake id) hub

/-- The words of a negative acknowledgement (R136). -/
def nackWords (code : Nat) (handler : Addr) (src : BitVec 24) (elem : BitVec 24) (sc : BitVec 32) : List Word :=
  [word code, addrWord handler, word (elem.toNat * 2 ^ 24 + src.toNat), word sc.toNat]

/-! ### Traps (R53 to R56) -/

/-- UNIT of a trap record (Table 2-15). -/
def unitCode : ExecUnit → Nat
  | .scalar => 0
  | .engine .vector => 1
  | .engine .matrix => 2
  | .engine .streamer => 3

/-- The 64 bytes of a trap record as eight doublewords (Table 2-15). -/
def trapRecord (t : Trap) (unit slot : Nat) (nm : Naming) (snap : Addr) : List Word :=
  let pfx := (List.range 4).foldl (fun acc i => acc + ((t.site.pfx[i]?).getD 0).toNat * 2 ^ (16 * i)) 0
  [ word (t.cause * 2 ^ 56 + unit * 2 ^ 54 + slot * 2 ^ 50 + t.site.pc.toNat),
    word (t.site.page * 2 ^ 19 + t.site.pfx.length * 2 ^ 16 + t.site.base.toNat),
    word pfx,
    t.addrIdx,
    addrWord snap,
    word (nm.colour.toNat * 2 ^ 44 + bits nm.hdr 39 36 * 2 ^ 40 + bits nm.hdr 35 32 * 2 ^ 36 + nm.tenant.toNat * 2 ^ 32 +
      nm.scope.toNat),
    nm.hdr,
    addrWord t.next ]

/-- The bytes of some doublewords. -/
def wordsBytes (ws : List Word) : List Byte := ws.flatMap (fun w => leBytes 8 w.toNat)

/-- The 640-byte snapshot of a frame (R53): entries at or above the frame size are zero. -/
def snapshot (f : Frame) : List Word :=
  (List.range 64).map (fun i => if i < f.size then Regs.get f.g i else 0) ++
  [ word ((List.range 4).foldl (fun acc i => acc + (AL.get 0 f.x i).toNat * 2 ^ (16 * i)) 0), word f.size ] ++
  List.replicate 14 0

/-- The snapshot of an engine program (R56): e0 to e15 at 0x000 to 0x07F. -/
def snapshotE (e : Regs) : List Word := (List.range 16).map (fun i => Regs.get e i) ++ List.replicate 64 0

/-- The first free entry of the trap area after the one handed out last (R326). -/
def Field.trapEntry (f : Field) : Option Nat :=
  let n := 2 ^ f.ctx.trapLog2
  ((List.range n).map (fun i => (f.trapNext + i) % n)).find? (fun k => !f.trapUse.contains k)

/-- The address of an entry of the trap area (R326). -/
def Field.trapAddr (f : Field) (k : Nat) : Addr := f.ctx.trapBase + BitVec.ofNat 48 (1024 * k)

/-- Raise a trap on the scalar core: the frame issues nothing more (R53, step 1). -/
def State.raiseTrap (s : State) (c slot : Nat) (cause : Nat) (site : Site) (addrIdx : Word) (next : Addr) : State :=
  (s.endWait (.frame c slot)).modFrame c slot (fun f => { f with
    life := .frozen, trap := some ⟨cause, site, addrIdx, next, .raised, s.nextId⟩,
    pend := none, mark := none, held := none, groups := f.groups + 1 })

/-- Raise a trap in an engine program: the engine stops at the instruction (R56). NEXT is the address after the base
word at PC, or zero where PC is zero. -/
def State.raiseEngineTrap (s : State) (p : Nat) (cause : Nat) (site : Site) (addrIdx : Word) : State :=
  (s.endWait (.prog p)).modProg p (fun x => { x with
    life := .frozen, pend := none, held := none, old := [],
    trap := some ⟨cause, site, addrIdx, if site.pc = 0 then 0 else site.next, .raised, s.nextId⟩ })

/-! ### Instruction fetch (R81, R96) -/

/-- What fetching gives: bytes, the end of every executable segment, a refusal, a page that is not resident, an
uncorrectable word and the agent whose walk met it, if one did, an agent whose walks are all busy, or a line still to come from another device
or the host. -/
inductive Fetched
  | ok (bs : List Byte)
  | none
  | refused
  | notResident
  | busy
  | poison (flat : Nat) (agent : Option Nat)
  | away (t : Target)
  deriving DecidableEq, Repr

/-- Read a 64-byte code line for a cell as code memory stands; `va` is aligned to 64. What the owner's memory port refuses for a
fence, or an agent for a page without X, is logged there (R180). -/
def State.codeLine (s : State) (c field : Nat) (segs : List Seg) (va : Nat) : Fetched × State :=
  let v : Nat → Violation := fun kind => ⟨BitVec.ofNat 48 va, kind, .o, 3, sizeCode 64, s.gca c, s.time24⟩
  match resolve segs none va .x with
  | .sram a =>
    if s.flatFenced a then (.refused, s.logPort ((ownerCell a).getD 0) (v 5))
    else if s.poisoned a 64 then (.poison a none, s)
    else (.ok (s.mem.bytes a 64), s)
  | .far _ =>
    match s.translate field va .x with
    | (.ok a, s2) => if s2.poisoned a 64 then (.poison a none, s2) else (.ok (s2.mem.bytes a 64), s2)
    | (.refused, s2) => (.refused, s2.logAgent (agentOf va) (v 6))
    | (.notResident, s2) => (.notResident, s2)
    | (.busy, s2) => (.busy, s2)
    | (.poison a, s2) => (.poison a (some (agentOf va)), s2)
  | .fabric d ra cx => (.away (.fabric d ra cx), s)
  | .host n ra => (.away (.host n ra), s)
  | .bad _ => (.none, s)

/-- A line enters a cell's instruction cache of 32 KiB, 4-way: where its set of four is full a line of the set leaves, which one
being a free choice (R22, R81, R96). That line numbers modulo 128 share a set is PRESUMED, the usual index (log 9). -/
def Cell.fillLine (x : Cell) (tick line : Nat) (bs : List Byte) : Cell :=
  let set := (x.icache.map Prod.fst).filter (fun j => j % 128 == line % 128 && j != line)
  let kept := if set.length < 4 then x.icache else AL.del x.icache ((set[Config.pick tick 7 % set.length]?).getD line)
  { x with icache := AL.put kept line bs }

/-- Fetch the line of an address through the cell's instruction cache, from a segment with X: a held line as it was filled, otherwise as
code memory stands, which fills the line (R81, R96). -/
def State.fetchLine (s : State) (c : Nat) (va : Nat) : Fetched × State :=
  let x := s.cell c
  let line := va / 64
  match AL.find x.icache line, resolve (s.segsOf c) none (line * 64) .x with
  | _, .bad _ => (.none, s)
  | some bs, _ => (.ok bs, s)
  | none, _ =>
    match s.codeLine c x.field (s.segsOf c) (line * 64) with
    | (.ok bs, s2) => (.ok bs, s2.modCell c (fun y => y.fillLine s2.tick line bs))
    | r => r

/-- One halfword of code at an even address. -/
inductive FetchedHalf
  | ok (h : Half)
  | none
  | refused
  | notResident
  | busy
  | poison (flat : Nat) (agent : Option Nat)
  | away (t : Target) (line : Nat)
  deriving DecidableEq, Repr

/-- Fetch one halfword of code (R2, R81). -/
def State.fetchHalf (s : State) (c : Nat) (va : Nat) : FetchedHalf × State :=
  match regionOf (s.segsOf c) va, s.fetchLine c va with
  | .seg _, (.ok bs, s2) =>
    let o := va % 64
    (.ok (BitVec.ofNat 16 (leNat [(bs[o]?).getD 0, (bs[o + 1]?).getD 0])), s2)
  | .seg _, (.none, s2) => (.none, s2)
  | .seg _, (.refused, s2) => (.refused, s2)
  | .seg _, (.notResident, s2) => (.notResident, s2)
  | .seg _, (.busy, s2) => (.busy, s2)
  | .seg _, (.poison a g, s2) => (.poison a g, s2)
  | .seg _, (.away t, s2) => (.away t (va / 64), s2)
  | _, (_, s2) => (.none, s2)

/-- Code lines of a cell that are on their way from another device or the host are stale and do not fill its cache (R96): those of
the numbers that `p` picks. -/
def State.staleLines (s : State) (c : Nat) (p : Nat → Bool) : State :=
  { s with flights := s.flights.map (fun q =>
      (q.1, if q.2.cell == c && q.2.op == .fetch && p (q.2.va.toNat / 64) then { q.2 with hint := 1 } else q.2)) }

/-- Invalidate a cell's whole instruction cache, lines on their way to it among them (R96). -/
def State.flushCode (s : State) (c : Nat) : State :=
  (s.modCell c (fun x => { x with icache := [] })).staleLines c (fun _ => true)

/-! ### Errors (R407 to R410) -/

/-- Keys of the error logs: cells by number, then far-memory controllers, then the hub die (R408). -/
def errKeyController (k : Nat) : Nat := cellCount + k
/-- See `errKeyController`. -/
def errKeyHub : Nat := cellCount + 64

/-- Is an entry corrected, by its KIND (Table 21-2)? -/
def ErrEntry.isCorrected (e : ErrEntry) : Bool := e.kind == 1 || e.kind == 5

/-- Log an error and count it at its structure (R408). -/
def ErrLog.log (l : ErrLog) (e : ErrEntry) : ErrLog :=
  let count := fun (m : AL Nat) => AL.put m e.struct_ (sat32 (AL.get 0 m e.struct_ + 1))
  let l1 := if e.isCorrected then { l with corrected := count l.corrected }
    else { l with uncorrectable := count l.uncorrectable }
  if l.entries.length < 16 then { l1 with entries := l.entries ++ [e] }
  else
    match l.entries.findIdx? ErrEntry.isCorrected with
    | some i => { l1 with entries := l.entries.eraseIdx i ++ [e] }
    | none => if e.isCorrected then l1 else { l1 with lostue := sat32 (l.lostue + 1) }

/-- Log an error at a cell, a controller or the hub die. -/
def State.logErr (s : State) (key : Nat) (e : ErrEntry) : State :=
  { s with errLogs := AL.put s.errLogs key ((AL.get ErrLog.empty s.errLogs key).log e) }

/-- LOCATION of a cell structure (Table 21-2). -/
def State.cellLocation (s : State) (c off : Nat) : BitVec 48 :=
  BitVec.ofNat 48 (dieOf c * 2 ^ 44 + s.physRow c * 2 ^ 38 + colOf c * 2 ^ 33 + off)

/-- A cell after cell reset: what the repair records say of it, its race ring and its logs stay; the sender table is cleared
(R350, R386). -/
def Cell.afterReset (x : Cell) : Cell :=
  { Cell.reset with
    field := x.field, fieldV := x.fieldV, raceRing := x.raceRing, refusals := x.refusals,
    violations := x.violations, portLog := x.portLog, service := x.service, removed := x.removed, scan := x.scan, placeFree := x.placeFree }

/-- Is a requester a unit of the hub die or a trace core? -/
def FaultReq.isHub : FaultReq → Bool
  | .queue _ => true
  | .wait _ => true
  | .launch _ => true
  | .transfer _ => true
  | .trace _ => true
  | .packet _ => true
  | .arrival _ => true
  | _ => false

/-- Does an access come from a unit of the hub die or a trace core? -/
def Issuer.ofHub : Issuer → Bool
  | .transfer _ => true
  | .queue _ => true
  | .trace _ => true
  | .hub _ => true
  | .line r => r.isHub
  | _ => false

/-- Does a requester belong to some cells? -/
def State.reqIn (s : State) (inC : Nat → Bool) : FaultReq → Bool
  | .frame c _ => inC c
  | .input c _ => inC c
  | .prog p => match AL.find s.progs p with | some x => inC x.cell | none => false
  | .chunk x _ => match AL.find s.copies x with | some y => inC y.cell | none => false
  | .flight x =>
    match AL.find s.flights x with
    | some f => !f.issuer.ofHub && inC f.cell
    | none => false
  | .credit x => match AL.find s.credits x with | some k => inC k.cell | none => false
  | _ => false

/-- Did an access come from some cells? -/
def State.issuedIn (s : State) (inC : Nat → Bool) (f : Flight) : Bool :=
  match f.issuer with
  | .line r => s.reqIn inC r
  | i => !i.ofHub && inC f.cell

/-- What some cells hold, have under way or have sent is gone, and every one of them is as after cell reset (Table 17-11, steps 1
and 3). What has passed on to another device stays there. -/
def State.wipe (s : State) (inC : Nat → Bool) : State :=
  let hubCell := fun (g : BitVec 24) (hub : Bool) => !hub && devOf g == s.devNum && inC (cellOf g)
  let waiter := fun (w : Waiter) => match w with
    | .frame c _ => inC c
    | .input c _ => inC c
    | .via sc _ => hubCell (homeOf sc) false
    | .unit c _ => inC c
    | .prog p => (match AL.find s.progs p with | some x => inC x.cell | none => false)
    | _ => false
  { s with
    cells := s.cells.map (fun p => (p.1, if inC p.1 then p.2.afterReset else p.2)),
    acts := s.acts.filter (fun p => !inC p.2.cell),
    progs := s.progs.filter (fun p => !inC p.2.cell),
    copies := s.copies.filter (fun p => !inC p.2.cell),
    markers := s.markers.filter (fun p => !inC p.2.cell),
    flights := s.flights.filter (fun p => !s.issuedIn inC p.2),
    msgs := s.msgs.filter (fun p => !hubCell p.2.msg.src p.2.msg.hub),
    ctls := s.ctls.filter (fun p => p.2.kind == .clearack || !hubCell p.2.src p.2.hub),
    asks := s.asks.filter (fun p => !waiter p.2),
    packets := s.packets.filter (fun p => match p.2.place with
      | .egress _ => !hubCell p.2.pkt.src p.2.pkt.hub
      | _ => true),
    upsets := s.upsets.filter (fun u => !(decide (2 ≤ u.struct_) && decide (u.struct_ ≤ 8) && inC u.key)),
    credits := s.credits.filter (fun p => !inC p.2.cell),
    wakes := s.wakes.filter (fun p => !hubCell p.2.msg.src p.2.msg.hub),
    gangs := s.gangs.filter (fun p => !p.2.arrived.any (fun a => inC a.1)),
    faults := (s.faults.map (fun p => (p.1, { p.2 with reqs := p.2.reqs.filter (fun r => !s.reqIn inC r.req) }))).filter
      (fun p => !p.2.reqs.isEmpty),
    waits := s.waits.filter (fun w => !s.reqIn inC w.req) }

/-- Contain a field after a consumed error: its containment begins, or joins what is under way, whose launches that are still to be completed
end with CONTAINED (R410). -/
def State.contain (s : State) (field : Option Nat) : State :=
  match field with
  | none => s
  | some f =>
    match AL.find s.recovery f with
    | some r => if r.step < 2 then { s with recovery := AL.put s.recovery f { r with code := 4, queue := none } } else s
    | none => if (AL.find s.fields f).isSome then { s with recovery := AL.put s.recovery f ⟨4, none, 0, [], []⟩ } else s

/-- A requester of a cell has consumed an uncorrectable word: it never goes on, or its cell, which lies in no field, is reset
alone (R407, R409). -/
def State.withhold (s : State) (c : Nat) (r : FaultReq) : State :=
  if r.isHub || (s.cell c).fieldV then s.setWait r .withheld else s.wipe (fun k => k == c)

/-- An access of `source` in a field has consumed an uncorrectable word at a flat address, or the walk of an agent for it has (R407,
R409). -/
def State.consume (s : State) (flat : Nat) (source_ : BitVec 24) (field : Option Nat) (agent : Option Nat := none) : State :=
  let source : BitVec 24 := match agent with | some a => s.devNum ++ BitVec.ofNat 12 (0x10 + a) | none => source_
  match ownerCell flat with
  | some c =>
    let near := decide (flat < sliceBase)
    let off := if near then flat - nearAddr c 0 else flat - sliceAddr c 0
    (s.logErr c ⟨s.time64, 3, if near then 0 else 1, s.cellLocation c off, source, field,
      Config.syndrome s.tick flat⟩).contain field
  | none =>
    let pa := flat - farBase
    (s.logErr (errKeyController (pa / 256 % 64)) ⟨s.time64, 3, 9, BitVec.ofNat 48 pa, source, field,
      Config.syndrome s.tick flat⟩).contain field

/-- The entry of the log for an error in a structure of a cell, or in a hub table, which `source` has met (Table 21-2). -/
def State.upsetEntry (s : State) (kind : Nat) (u : Upset) (source : BitVec 24) (field : Option Nat) : Nat × ErrEntry :=
  let size := match u.struct_ with | 2 => 8 | 3 => 2 | 4 => 8 | 5 => 8 | 6 => 128 | 7 => 96 | _ => 1
  let at_ := if u.struct_ = 10 then BitVec.ofNat 48 (u.key * 2 ^ 32 + u.index) else s.cellLocation u.key (u.index * size)
  (if u.struct_ = 10 then errKeyHub else u.key, ⟨s.time64, kind, u.struct_, at_, source, field, Config.syndrome s.tick u.index⟩)

/-- The number of an engine among those of a cell. -/
def unitIndex (u : EngineUnit) : Nat :=
  match u with
  | .vector => 0
  | .matrix => 1
  | .streamer => 2

/-- A cell uses an entry or a register of its own that holds an uncorrectable error: it is logged with a KIND, and the cell's field is
contained; a cell that lies in no field is reset alone (R407, R409). -/
def State.consumeIn (s : State) (kind : Nat) (u : Upset) : State :=
  let x := s.cell u.key
  let field := if x.fieldV then some x.field else none
  let e := s.upsetEntry kind u (s.gca u.key) field
  let s1 := { s with upsets := s.upsets.filter (fun v => v != u) }.logErr e.1 e.2
  if x.fieldV then s1.contain field else s1.wipe (fun k => k == u.key)

/-! ### Accesses in flight and packets of the hub (R354, R358, R359) -/

/-- What names the work an access belongs to. -/
def State.namingOf (s : State) (i : Issuer) : Naming :=
  match i with
  | .act a => (s.act a).naming
  | .prog p => match AL.find s.progs p with | some x => x.naming | none => Naming.zero
  | .copy x _ => match AL.find s.copies x with | some y => y.naming | none => Naming.zero
  | .transfer x => match AL.find s.transfers x with | some y => y.naming | none => Naming.zero
  | _ => Naming.zero

/-- The transport engine as a unit (Table 7-15). -/
def unitXport : BitVec 12 := 0x020
/-- An external port as a unit (Table 7-15). -/
def unitPort (p : Nat) : BitVec 12 := BitVec.ofNat 12 (0x40 + p)
/-- A command processor as a unit (Table 7-15). -/
def unitCp (p : Nat) : BitVec 12 := BitVec.ofNat 12 p
/-- A translation agent as a unit (Table 7-15). -/
def unitAgent (a : Nat) : BitVec 12 := BitVec.ofNat 12 (0x10 + a)

/-- The unit of the hub die for which a requester waits, if it is one (R134). -/
def State.reqUnit (s : State) : FaultReq → Option (BitVec 12)
  | .queue q => some (unitCp (q % 16))
  | .wait q => some (unitCp (q % 16))
  | .launch x => some (unitCp (match AL.find s.launches x with | some l => l.cp | none => 0))
  | .transfer _ => some unitXport
  | .packet x =>
    some (match AL.find s.packets x with
      | some r => (match r.place with | .served (some p) => unitPort p | _ => 0)
      | none => 0)
  | .arrival _ => some unitXport
  | .credit x => (match AL.find s.credits x with | some k => if k.hub then some unitXport else none | none => none)
  | _ => none

/-- The unit of the hub die that makes an access, if one does (R134). -/
def State.issuerUnit (s : State) : Issuer → Option (BitVec 12)
  | .transfer _ => some unitXport
  | .queue q => some (unitCp (q % 16))
  | .hub u => some u
  | .line r => s.reqUnit r
  | _ => none

/-- The cell as whose streamer a chunk is performed (R147). -/
def State.chunkCell (s : State) (x k : Nat) : Option Nat :=
  (AL.find s.copies x).map (fun y => match AL.find y.chunks k with | some h => h.as_ | none => y.cell)

/-- The source of an access as packets and logs name it, and whether it is a unit of the hub die (R134, R358); a copy's writes have the
streamer's cell (R201). -/
def State.flightSrc (s : State) (f : Flight) : BitVec 24 × Bool :=
  match f.issuer, s.issuerUnit f.issuer with
  | .copy x k, _ => (s.gca ((s.chunkCell x k).getD f.cell), false)
  | .line (.chunk x k), _ => (s.gca ((s.chunkCell x k).getD f.cell), false)
  | .line (.packet x), _ => (match AL.find s.packets x with | some p => (p.pkt.src, p.pkt.hub) | none => (0, true))
  | _, some u => (s.devNum ++ u, true)
  | _, none => (s.gca f.cell, false)

/-- SIZE of a LOAD packet (Table 18-5). -/
def loadSize (n : Nat) : Nat := if n = 16 then 4 else if n = 64 then 5 else sizeCode n

/-- Selector of an atomic operation (Table 10-7). -/
def AtomOp.code : AtomOp → Nat
  | .add => 0 | .and => 1 | .or => 2 | .xor => 3 | .min => 4 | .max => 5 | .minu => 6 | .maxu => 7
  | .swap => 8 | .cas => 9 | .inc => 10 | .dec => 11 | .fadd => 12
/-- Selector of a front operation (Table 10-14). -/
def FrontOp.code : FrontOp → Nat
  | .cfg => 0 | .ins => 1 | .merge => 2 | .rd => 3 | .clr => 4 | .stat => 5

/-- Some bytes as doublewords. -/
def bytesWords : Nat → List Byte → List Word
  | 0, _ => []
  | n + 1, bs => word (leNat (bs.take 8)) :: bytesWords n (bs.drop 8)

/-- OP, the words and the further bytes of the packet for an access (Table 18-5). -/
def MemOp.packet (posted : Bool) : MemOp → Nat × Nat × List Word × List Byte
  | .load n => (1, loadSize n, [], [])
  | .fetch => (1, 5, [], [])
  | .store bs => (2, bs.length - 1, bytesWords 4 bs, bs.drop 32)
  | .atomic op w opnd new =>
    (3, op.code + flag posted * 16 + flag w * 32, [opnd] ++ (if op = .cas then [new] else []), [])
  | .front op a0 a1 a2 _ =>
    (3, 64 + op.code, match op with | .cfg => [a0, a1] | .ins => [a0, a1, a2] | .merge => [a0] | .rd => [a0] | _ => [], [])
  | .credit n => (3, 0, [word n], [])

/-- The job colour of an access: that of its field's context (R344). -/
def State.flightColour (s : State) (f : Flight) : BitVec 4 :=
  match AL.find s.fields f.field with | some g => g.ctx.colour | none => (s.namingOf f.issuer).colour

/-- The packet of an access to another device or to the host (R354, R359); COPYW marks a write of a copy or of a transfer. Its RID is the
number of the access; its kind makes no use of SCOPE. DST names the device; which cell it names is not stated, so that is a free value (log
60). -/
def State.accessPacket (s : State) (x : Nat) (f : Flight) : Packet :=
  let nm := s.namingOf f.issuer
  let p := f.op.packet f.posted
  let tg := match f.target with
    | .fabric d ra cx => (d, ra, cx)
    | .host n ra => (n, ra, 0)
    | _ => (0, 0, 0)
  let src := s.flightSrc f
  let copyw := match f.op, f.issuer with | .store _, .copy _ _ => 512 | .store _, .transfer _ => 512 | _, _ => 0
  { Packet.zero with
    ctxid := tg.2.2, kind := p.1, cls := f.cls, colour := s.flightColour f, tenant := nm.tenant, hub := src.2,
    elem := BitVec.ofNat 24 x, dst := BitVec.ofNat 12 tg.1 ++ Config.accessCell tg.1 tg.2.2.toNat, src := src.1,
    op := BitVec.ofNat 16 (p.2.1 + copyw), addr := tg.2.1, time := BitVec.ofNat 32 s.ns,
    words := p.2.2.1, data := p.2.2.2 }

/-- Put an access in flight and answer its number; one to another device or the host has its packet. -/
def State.launchFlight (s : State) (f : Flight) : State × Nat :=
  let x := s.nextId
  let to_ := match f.target with | .sram a => ownerCell a | _ => none
  let from_ := if (s.issuerUnit f.issuer).isSome then none else some f.cell
  let path := s.hubPath f.cls x from_ to_ 2 (s.flightColour f) (s.namingOf f.issuer).tenant
  let s1 := { s with flights := AL.put s.flights x f, nextId := x + 1 }.takePath x path
  (if f.stage = .leaving then s1.sendPacketAs x (s.accessPacket x f) else s1, x)

/-- Ask another device or the host for a line of 64 bytes. -/
def State.askRemote (s : State) (r : FaultReq) (cell field : Nat) (cls : MemClass) (op : MemOp) (va : Addr)
    (t : Target) : State × Nat :=
  s.launchFlight ⟨.line r, cell, field, cls, op, va, t, t, false, 0, Site.zero, none, s.nextId, .leaving⟩

/-- Raise a page fault for a requester, joining one already raised for its page (R331). -/
def State.pageFault (s : State) (field va op : Nat) (q : FaultReq) (cls : MemClass := .o) (size : Nat := 3) : State × Nat :=
  match s.faults.find? (fun p => p.2.field == field && p.2.va / 65536 == va / 65536) with
  | some (k, p) => ({ s with faults := AL.put s.faults k { p with reqs := p.reqs ++ [⟨q, va, op, cls, size⟩] } }, k)
  | none => ({ s with faults := AL.put s.faults s.nextId ⟨field, va, op, [⟨q, va, op, cls, size⟩]⟩, nextId := s.nextId + 1 }, s.nextId)

end Sys2Proof.Machine
end

