-- ==== Sys2Proof/Machine/Operands.lean ====
section
/-! DEFINITION. Register operands (R36, R37, R79), the issue checks 6 to 8 of Table 2-12, lookahead windows (R50),
control transfers (R81), the memory operand (R207), and the coupling of checked pairs at issue (R412 to R414): one
combinator through which every instruction group issues. -/

namespace Sys2Proof.Machine

/-- The group that issues: its cell, its unit, its frame slot and its site. -/
structure Ctx where
  cell : Nat
  unit : ExecUnit
  slot : Nat
  site : Site
  deriving DecidableEq, Repr

/-- Run a meaning on the group that the state says issues. -/
def withGroup (s : State) (k : Ctx → Out) : Out :=
  match s.cur with
  | .group c u sl site => k ⟨c, u, sl, site⟩
  | _ => .fault .noProgram

/-- What the body of an instruction answers: the frame waits and issues it again; it is done; it is done but for an access outstanding under a number; it transfers control; it
traps with a cause of Table 2-14 and ADDR_IDX, in the state before it or in a state that has logged the refusal; or it ends the issue of its frame or program. -/
inductive Issued
  | stall (s : State)
  | ok (s : State)
  | out (s : State) (flight : Nat)
  | jump (s : State) (target : Addr)
  | trap (cause : Nat) (idx : Word)
  | trapIn (s : State) (cause : Nat) (idx : Word)
  | halt (s : State)
  deriving DecidableEq, Repr

/-! ### Registers -/

/-- The frame of the group. -/
def State.fr (s : State) (c : Ctx) : Frame := s.frame c.cell c.slot
/-- Change the frame of the group. -/
def State.modFr (s : State) (c : Ctx) (f : Frame → Frame) : State := s.modFrame c.cell c.slot f
/-- The activation of the group's frame. -/
def State.actC (s : State) (c : Ctx) : Act := s.act (s.fr c).act
/-- Change it. -/
def State.modActC (s : State) (c : Ctx) (f : Act → Act) : State := s.modAct (s.fr c).act f
/-- The engine program that the group belongs to. -/
def State.progId (s : State) (c : Ctx) : Nat :=
  match c.unit with
  | .scalar => 0
  | .engine u => (((s.cell c.cell).engine u).run).getD 0

/-- Have the writes of a program to other devices and the host been acknowledged? Its next instruction starts, and its trap is taken, only
then (R275, R276, R305, R306). -/
def State.writesDone (s : State) (p : Nat) : Bool := s.flights.all (fun f => !(f.2.issuer == .prog p))

/-- Read a register of the group's unit (R48). -/
def State.reg (s : State) (c : Ctx) (n : Int) : Word :=
  match c.unit with
  | .scalar => Regs.get (s.fr c).g n.toNat
  | .engine u => Regs.get ((s.cell c.cell).engine u).e n.toNat

/-- Write a register of the group's unit. -/
def State.setReg (s : State) (c : Ctx) (n : Int) (v : Word) : State :=
  match c.unit with
  | .scalar => s.modFr c (fun f => { f with g := Regs.set f.g n.toNat v })
  | .engine u => s.modEngine c.cell u (fun e => { e with e := Regs.set e.e n.toNat v })

/-- Read an index register (R100). -/
def State.xreg (s : State) (c : Ctx) (k : BitVec 2) : BitVec 16 := AL.get 0 (s.fr c).x k.toNat
/-- Write an index register. -/
def State.setX (s : State) (c : Ctx) (k : BitVec 2) (v : BitVec 16) : State :=
  s.modFr c (fun f => { f with x := AL.put f.x k.toNat v })

/-- The register that a composed number names (R37): with relative mode, 48 to 63 name x_k + (v - 48). -/
def State.regNo (s : State) (c : Ctx) (r : Rel) (v : RegNum) : Int :=
  match r with
  | none => (v.toNat : Int)
  | some k => if v.toNat < 48 then (v.toNat : Int) else (s.xreg c k).toInt + ((v.toNat : Int) - 48)

/-- The first register number that the unit does not have: the frame size, or 16 on an engine (R37, R48). -/
def State.regLimit (s : State) (c : Ctx) : Nat :=
  match c.unit with | .scalar => (s.fr c).size | .engine _ => 16

/-- Check 6: the first register out of bounds, in the order in which the instruction names them, implied registers last. Which
index the record holds where several are out of bounds is not stated (R37, R82): the first is the model's choice (DESIGN CHOICE, log
56). -/
def outOfBounds (limit : Nat) (touched : List Int) : Option Int :=
  touched.find? (fun n => decide (n < 0) || decide ((limit : Int) ≤ n))

/-- Check 7: the first register that an outstanding instruction, whose window the group lies in, has yet to write
(R50). Where it touches several, the first in the order in which it names them is recorded, the model's choice (DESIGN CHOICE, log
56). -/
def pendingHit (outst : List Outst) (touched : List Int) : Option Int :=
  touched.find? (fun n => outst.any (fun o => decide (0 < o.left) && o.dests.contains n.toNat))

/-- A group waits while the window of an outstanding instruction is used up (R50). -/
def windowClosed (outst : List Outst) : Bool := outst.any (fun o => o.left == 0)

/-! ### Checked pairs at issue (R411 to R414) -/

/-- Is the group part of an activation that runs on both cells of its pair (R412)? -/
def State.checkedC (s : State) (c : Ctx) : Bool :=
  c.unit == .scalar && AL.has (s.cell c.cell).pairs c.slot

/-- What a cell keeps for the checked activation of a slot. -/
def State.pairU (s : State) (cell slot : Nat) : PairUnit := AL.get PairUnit.idle (s.cell cell).pairs slot

/-- Change it, if the slot runs a checked activation. -/
def State.modPair (s : State) (cell slot : Nat) (f : PairUnit → PairUnit) : State :=
  s.modCell cell (fun x =>
    match AL.find x.pairs slot with
    | some p => { x with pairs := AL.put x.pairs slot (f p) }
    | none => x)

/-- Rotate left by seven, as the fingerprint does (R413). -/
def rol7 (w : Word) : Word := w.rotateLeft 7

/-- One item in the fingerprint (R413). -/
def FpItem.fold (f : Word) : FpItem → Word
  | .reg i v => rol7 f ^^^ v ^^^ word (i * 2 ^ 56)
  | .pend _ => f
  | .store ea data => rol7 (rol7 f ^^^ addrWord ea) ^^^ data

/-- The fingerprint of an interval (R413). -/
def fingerprint (t : List FpItem) : Word := t.foldl FpItem.fold 0

/-- Does the trail still wait for an outstanding instruction? -/
def FpItem.isPend : FpItem → Bool
  | .pend _ => true
  | _ => false

/-- The number of an index register among the registers that an instruction writes: x0 to x3 follow the 64 (R413; log 72). -/
def xNo (k : BitVec 2) : Nat := 64 + k.toNat

/-- The value of a numbered register of a frame: g0 to g63, then x0 to x3. -/
def Frame.regNo (f : Frame) (i : Nat) : Word := if 64 ≤ i then (AL.get 0 f.x (i - 64)).setWidth 64 else Regs.get f.g i

/-- An instruction of a checked activation has retired: its register writes join the trail, those of an outstanding
instruction as a place to be filled, it is counted, and the cell waits for the chime when the interval is full
(R413, R414). `x` is the flight it left outstanding. -/
def State.pairRetire (s : State) (c : Ctx) (dests : List Nat) (x : Option Nat) : State :=
  if s.checkedC c then
    s.modPair c.cell c.slot (fun p =>
      let items := match x with
        | some k => [FpItem.pend k]
        | none => dests.map (fun i => FpItem.reg i ((s.fr c).regNo i))
      let n := p.count + 1
      { p with trail := p.trail ++ items, count := n, passed := false,
               waiting := p.waiting || decide ((s.cell c.cell).interval.toNat ≤ n) })
  else s

/-- A store of a checked activation joins the trail (R413). -/
def State.pairStore (s : State) (c : Ctx) (ea : Addr) (data : Word) : State :=
  if s.checkedC c then s.modPair c.cell c.slot (fun p => { p with trail := p.trail ++ [.store ea data] }) else s

/-! ### Finishing a group -/

/-- Who the group is to a page fault or a line of another device. -/
def State.req (s : State) (c : Ctx) : FaultReq :=
  match c.unit with | .scalar => .frame c.cell c.slot | .engine _ => .prog (s.progId c)

/-- Does the group end its code segment, so that sequential fetch passes the segment's end (check 10)? -/
def State.endsSegment (s : State) (c : Ctx) : Bool :=
  !(regionOf (s.segsOf c.cell) c.site.next.toNat == regionOf (s.segsOf c.cell) c.site.pc.toNat)

/-- The instruction is done: the PC moves on, to NEXT of a resume-at verdict if one waits (R55), and the windows of
the older outstanding instructions shrink by one (R50). -/
def State.advance (s : State) (c : Ctx) (older : Nat) (target : Option Addr) : State :=
  let s := s.endWait (s.req c)
  match c.unit with
  | .scalar => s.modFr c (fun f => { f with
      pc := target.getD (f.resume.getD c.site.next), resume := none,
      off := target.isNone && f.resume.isNone && s.endsSegment c, mark := none, pend := none, held := none,
      groups := f.groups + 1,
      outst := f.outst.map (fun o => if o.flight < older then { o with left := o.left - 1 } else o) })
  | .engine _ => s.modProg (s.progId c) (fun p => { p with
      pc := target.getD (p.resume.getD c.site.next), resume := none,
      off := target.isNone && p.resume.isNone && s.endsSegment c, mark := none, pend := none,
      held := none, copy := none, old := [] })

/-- Raise a trap of the group (R53, R56); of a checked activation a chime comes before its record (R413). -/
def State.trapGroup (s : State) (c : Ctx) (cause : Nat) (idx : Word) (next : Addr) : State :=
  match c.unit with
  | .scalar => (s.raiseTrap c.cell c.slot cause c.site idx next).modPair c.cell c.slot (fun p => { p with passed := false })
  | .engine _ => s.raiseEngineTrap (s.progId c) cause c.site idx

/-- The group waits for a page fault: a frame parks (R331), an engine program waits (R276). -/
def State.waitPage (s : State) (c : Ctx) (va op : Nat) (cls : MemClass := .o) (size : Nat := 3) : State :=
  let r := s.pageFault (s.cell c.cell).field va op (s.req c) cls size
  let s1 := r.1.setWait (s.req c) (.page r.2)
  match c.unit with
  | .scalar => (s1.modFr c (fun f => { f with life := .parked })).offerSlot c.cell c.slot 7 0 0
  | .engine _ => s1

/-- What the group waits for. -/
def State.memWait (s : State) (c : Ctx) : MemWait := s.waitOf (s.req c)

/-- The access that brings a code line from another device or the host. -/
def State.askLine (s : State) (c : Ctx) (t : Target) (line : Nat) : State :=
  let r := s.askRemote (s.req c) c.cell (s.cell c.cell).field .o .fetch (BitVec.ofNat 48 (line * 64)) t
  r.1.setWait (s.req c) (.flight r.2)

/-- The group has consumed an uncorrectable word: it neither completes nor traps (R407). -/
def State.withholdGroup (s : State) (c : Ctx) (flat : Nat) (agent : Option Nat := none) : State :=
  (s.consume flat (s.gca c.cell) (if (s.cell c.cell).fieldV then some (s.cell c.cell).field else none) agent).withhold c.cell
    (s.req c)

/-- What a control transfer finds at its target (R81). -/
inductive TargetCheck
  | ok (s : State)
  | wait (s : State)
  | bad (s : State)
  deriving DecidableEq, Repr

/-- Fetch the target of a control transfer (R81). -/
def State.checkTarget (s : State) (c : Ctx) (t : Addr) : TargetCheck :=
  let logged := fun (s2 : State) => s2.logCell c.cell ⟨t, 6, .o, 3, 1, s.gca c.cell, s.time24⟩
  match s.fetchHalf c.cell t.toNat with
  | (.ok _, s2) => .ok s2
  | (.none, s2) => .bad (logged s2)
  | (.refused, s2) => .bad s2
  | (.notResident, s2) =>
    match s.memWait c with
    | .refused _ => .bad s2
    | .page _ => .wait s
    | _ => .wait (s2.waitPage c t.toNat 3 .o (sizeCode 64))
  | (.busy, s2) => .wait (s2.waitWalk (s2.req c) t.toNat)
  | (.poison a g, s2) => .wait (s2.withholdGroup c a g)
  | (.away tg line, s2) =>
    match s.memWait c with
    | .refused _ => .bad s2
    | .flight _ => .wait s
    | _ => .wait (s2.askLine c tg line)

/-- Finish a group. `s0` is the state before it: a trap leaves it as it was, but for the trap. -/
def finish (s0 : State) (c : Ctx) (dests : List Nat) (r : Issued) : State :=
  let older := s0.nextId
  match r with
  | .stall s => s
  | .ok s => (s.advance c older none).pairRetire c dests none
  | .out s x => (s.advance c older none).pairRetire c dests (some x)
  | .jump s t =>
    if t.toNat % 2 = 1 then s0.trapGroup c 0x08 (addrWord t) c.site.next
    else
      match s0.checkTarget c t with
      | .ok s2 => (({ s with cells := (AL.put s.cells c.cell
            { s.cell c.cell with icache := (s2.cell c.cell).icache }), agents := s2.agents }).advance c older
              (some t)).pairRetire c dests none
      | .wait s2 => s2
      | .bad s2 => s2.trapGroup c 0x0A (addrWord t) t
  | .trap cause idx => s0.trapGroup c cause idx c.site.next
  | .trapIn s cause idx => s.trapGroup c cause idx c.site.next
  | .halt s => s.pairRetire c [] none

/-- Which instructions R413 forces a chime before: none; those that both cells then issue, the follower's accesses
mirroring the leader's; those that the leader alone issues, its results being given to both (R414). -/
inductive Forced | no | both | leader
  deriving DecidableEq, Repr

/-- What the pair lets a group of a checked activation do (R412 to R414). -/
inductive PairGate
  | go
  | stall (s : State)
  | fed (r : Fed)
  deriving DecidableEq, Repr

/-- A cell waits at a chime until it is decided; a forced instruction takes a chime first, and one that the leader
alone issues is taken by the follower from the leader's result (R413, R414). -/
def State.pairGate (s : State) (c : Ctx) (forced : Forced) : PairGate :=
  if s.checkedC c then
    let p := s.pairU c.cell c.slot
    if p.waiting then .stall s
    else if forced = .no then .go
    else if p.passed then
      if (s.cell c.cell).leader || forced == .both then .go
      else match p.fed with
        | r :: _ => .fed r
        | [] => .stall s
    else .stall (s.modPair c.cell c.slot (fun q => { q with waiting := true }))
  else .go

/-- The follower takes what a forced instruction gave on the leader (R414). -/
def State.takeFed (s : State) (c : Ctx) (dests : List Nat) (r : Fed) : State :=
  let s1 := s.modPair c.cell c.slot (fun p => { p with fed := p.fed.drop 1 })
  match r with
  | .regs ws =>
    finish s1 c dests (.ok (ws.foldl (fun acc w => if 64 ≤ w.1 then acc.setX c (BitVec.ofNat 2 w.1) (w.2.setWidth 16) else acc.setReg c w.1 w.2) s1))
  | .trap cause idx next => s1.trapGroup c cause idx next

/-- The leader gives its follower what a forced instruction of its own has come to: its registers when it completes, or its trap
(R414). -/
def State.feed (s0 s : State) (c : Ctx) (forced : Forced) (dests : List Nat) (done : Bool) : State :=
  if forced = .leader && s0.checkedC c then
    let give := fun (r : Fed) => match s0.follower c.cell with
      | some d => s.modPair d c.slot (fun p => { p with fed := p.fed ++ [r] })
      | none => s
    if done then give (.regs (dests.map (fun i => (i, (s.fr c).regNo i))))
    else
      match (s0.fr c).trap, (s.fr c).trap with
      | none, some t => give (.trap t.cause t.addrIdx t.next)
      | _, _ => s
  else s

/-- Does a body complete its instruction? -/
def Issued.completes : Issued → Bool
  | .ok _ => true
  | .out _ _ => true
  | .jump _ _ => true
  | .halt _ => true
  | _ => false

/-- An error in a register of the group's unit (R404, Table 21-2). -/
def Ctx.regUpset (c : Ctx) (n : Int) : Upset :=
  match c.unit with
  | .scalar => ⟨4, c.cell, 64 * c.slot + n.toNat⟩
  | .engine u => ⟨5, c.cell, 16 * unitIndex u + n.toNat⟩

/-- Some errors are gone: what held them has been written. -/
def State.dropUpsets (s : State) (l : List Upset) : State := { s with upsets := s.upsets.filter (fun u => !l.contains u) }

/-- The group reads a register whose parity is wrong: it neither completes nor traps, and its field is contained; in a checked activation
the next chime disagrees instead (R404, R407, R415). -/
def State.consumeReg (s : State) (c : Ctx) (n : Int) : State :=
  let u := c.regUpset n
  let s1 := s.dropUpsets [u]
  if s.checkedC c then s1.modPair c.cell c.slot (fun p => { p with parity := true })
  else (s1.consumeIn 4 u).withhold c.cell (s.req c)

/-- Issue a group: the window stall (R50), check 6 on every register it names in the order given, check 7, the coupling of a checked pair,
the parity of the registers that it reads (R404), then its body. `forced` marks the instructions before which R413 forces a chime. -/
def issueWith (s : State) (c : Ctx) (forced : Forced) (touched reads dests : List Int) (body : State → Issued) : Out :=
  let f := s.fr c
  let ds := dests.map Int.toNat
  if c.unit == .scalar && windowClosed f.outst then .next s
  else
    match outOfBounds (s.regLimit c) touched with
    | some n => .next (s.trapGroup c 0x05 (BitVec.ofInt 64 n) c.site.next)
    | none =>
      match (if c.unit == .scalar then pendingHit f.outst touched else none) with
      | some n => .next (s.trapGroup c 0x06 (BitVec.ofInt 64 n) c.site.next)
      | none =>
        match s.pairGate c forced with
        | .stall s1 => .next s1
        | .fed x => .next (s.takeFed c ds x)
        | .go =>
          match reads.find? (fun n => s.upsets.contains (c.regUpset n)) with
          | some n => .next (s.consumeReg c n)
          | none =>
            let struck := (touched.map c.regUpset).filter s.upsets.contains
            let s0 := if struck.isEmpty || !(body s).completes then s else s.dropUpsets struck
            let r := body s0
            .next (State.feed s0 (finish s0 c ds r) c forced ds r.completes)

/-- Issue a group that reads the registers it names but for its destinations. -/
def issue (s : State) (c : Ctx) (forced : Forced) (touched dests : List Int) (body : State → Issued) : Out :=
  issueWith s c forced touched (touched.filter (fun n => !dests.contains n)) dests body

/-- Issue a group that reads every register it names. -/
def issueRW (s : State) (c : Ctx) (forced : Forced) (touched dests : List Int) (body : State → Issued) : Out :=
  issueWith s c forced touched touched dests body

/-- Issue a group that names no register of its own beyond those given as plain numbers. -/
def issueN (s : State) (forced : Forced) (touched dests : List Nat) (body : Ctx → State → Issued) : Out :=
  withGroup s fun c => issue s c forced (touched.map Int.ofNat) (dests.map Int.ofNat) (body c)

/-! ### Shapes of scalar instructions -/

/-- g[d] := f g[a] g[b] (format A). -/
def alu3 (s : State) (r : Rel) (d a b : RegNum) (f : Word → Word → Word) : Out :=
  withGroup s fun c =>
    let D := s.regNo c r d; let A := s.regNo c r a; let B := s.regNo c r b
    issue s c .no [D, A, B] [D] fun s => .ok (s.setReg c D (f (s.reg c A) (s.reg c B)))

/-- g[d] := f g[d] g[a] (two-address group). -/
def alu2 (s : State) (r : Rel) (d a : RegNum) (f : Word → Word → Word) : Out :=
  withGroup s fun c =>
    let D := s.regNo c r d; let A := s.regNo c r a
    issueRW s c .no [D, A] [D] fun s => .ok (s.setReg c D (f (s.reg c D) (s.reg c A)))

/-- g[d] := f g[a] (unary). -/
def alu1 (s : State) (r : Rel) (d a : RegNum) (f : Word → Word) : Out :=
  withGroup s fun c =>
    let D := s.regNo c r d; let A := s.regNo c r a
    issue s c .no [D, A] [D] fun s => .ok (s.setReg c D (f (s.reg c A)))

/-- g[d] := f g[d] (immediate group). -/
def aluI (s : State) (r : Rel) (d : RegNum) (f : Word → Word) : Out :=
  withGroup s fun c =>
    let D := s.regNo c r d
    issueRW s c .no [D] [D] fun s => .ok (s.setReg c D (f (s.reg c D)))

/-! ### Memory operands -/

/-- The effective address (R207): ea := (g[n] + imm)[47:0]. -/
def effAddr (base : Word) (off : BitVec 40) : Addr := lo48 (base + off.signExtend 64)

/-- Checks 8 and 9 on a data address: ALIGN, then STRADDLE (Table 2-12). -/
def dataCheck (segs : List Seg) (ea : Addr) (align n : Nat) : Option Nat :=
  if ea.toNat % align ≠ 0 then some 0x08 else if oneRegion segs ea.toNat n then none else some 0x09

/-- A branch target: the group's address plus twice the offset, modulo 2^48 (R40). -/
def branchTarget (c : Ctx) (off : Int) : Addr := c.site.pc + BitVec.ofInt 48 (2 * off)

end Sys2Proof.Machine
end

