-- ==== Sys2Proof/Machine/Memory.lean ====
section
/-! DEFINITION. Reading and writing at an owning port (R175 to R183), race logging (R201, R398), and memory
operations of several accesses as one computation that can stop for a page, a line of another device, a refusal or an
uncorrectable word. -/

namespace Sys2Proof.Machine

/-! ### The owning ports -/

/-- Who writes, as a race record names it (Table 19-8); `size` is the SIZE code of an access of which a write is part. -/
structure RaceBy where
  src   : BitVec 24
  slot  : Nat
  dseq  : BitVec 8
  cls   : MemClass
  fab   : Bool
  copyw : Bool
  size  : Option Nat
  deriving DecidableEq, Repr

/-- What an owning port answers: bytes, a refusal, an uncorrectable word at a flat address, or that the page is not in
the agent's cache. -/
inductive PortAnswer
  | ok (bs : List Byte)
  | err (kind : Nat)
  | poison (flat : Nat)
  | miss
  deriving DecidableEq, Repr

/-- The number of a class in a log entry (Table 9-4). -/
def classCode : MemClass → Nat | .o => 0 | .a => 1 | .v => 2

/-- Read `n` bytes where a target lies. -/
def State.readTarget (s : State) (field : Nat) (t : Target) (n : Nat) (need : Need) (v : Nat → Violation) :
    PortAnswer × State :=
  match t with
  | .sram a =>
    if s.flatFenced a then (.err 5, s.logPort ((ownerCell a).getD 0) (v 5))
    else if s.poisoned a n then (.poison a, s) else (.ok (s.mem.bytes a n), s)
  | .far va =>
    match s.cachedLeaf field va.toNat with
    | none => (.miss, s)
    | some l =>
      if permGrants l.perm need then
        let a := farAddr (l.pa + (va.toNat - l.va))
        if s.poisoned a n then (.poison a, s) else (.ok (s.mem.bytes a n), s)
      else (.err 1, s.logAgent (agentOf va.toNat) (v 1))
  | .bad k => (.err k, s)
  | _ => (.miss, s)

/-- Is a flat address in a segment of its owner's context with race logging on (R201)? The granule hash is undone
(R178). -/
def State.raceOn (s : State) (flat : Nat) : Bool :=
  match ownerCell flat with
  | none => false
  | some c =>
    let near := decide (flat < sliceBase)
    let off := if near then flat - nearAddr c 0 else flat - sliceAddr c 0
    (s.segsOf c).any (fun g =>
      g.race &&
      match g.kind with
      | 1 =>
        bits g.kf 11 0 == c && bitAt g.kf 12 == near && decide (bits g.kf 37 16 ≤ off) &&
          decide (off < bits g.kf 37 16 + g.len)
      | 2 =>
        let w := bits g.kf 16 12 + 1
        let h := bits g.kf 21 17 + 1
        let o := bits g.kf 43 22
        let k := (rowOf c - bits g.kf 6 2) * w + (colOf c - bits g.kf 11 7)
        !near && inRect (bits g.kf 1 0) (bits g.kf 6 2) (bits g.kf 11 7) h w c && decide (o ≤ off) &&
          decide ((off - o) / 256 * (w * h) * 256 + k * 256 + off % 256 < g.len)
      | _ => false)

/-- A race record (Table 19-8). -/
def raceRecord (time : Word) (near : Bool) (off : Nat) (by_ : RaceBy) (code : Nat) (prev : BitVec 24) : List Word :=
  [ time,
    word (flag near * 2 ^ 47 + off),
    word (by_.src.toNat * 2 ^ 40 + by_.slot * 2 ^ 36 + by_.dseq.toNat * 2 ^ 28 + classCode by_.cls * 2 ^ 26 +
      code * 2 ^ 23 + flag by_.fab * 2 ^ 22 + flag by_.copyw * 2 ^ 21),
    word (prev.toNat * 2 ^ 40) ]

/-- The flat address of a byte in a cell's context, if the cell can reach it on this device now. -/
def State.flatOf (s : State) (c va : Nat) (need : Need) : Option Nat :=
  match resolve (s.segsOf c) (some c) va need with
  | .sram a => some a
  | .far v =>
    match s.translate (s.cell c).field v.toNat need with
    | (.ok a, _) => some a
    | _ => none
  | _ => none

/-- Append a race record to a cell's race ring, or count it as lost where the ring is full, or where its memory port cannot reach it now
(R201, R398; log 43). An uncorrectable word of the ring header is consumed (R407). -/
def State.appendRace (s : State) (c : Nat) (rec : List Word) : State :=
  let lost := s.modCell c (fun x => { x with raceLost := BitVec.ofNat 32 (sat32 (x.raceLost.toNat + 1)) })
  let ring := (s.cell c).raceRing.toNat
  match s.flatOf c ring .r with
  | none => lost
  | some h =>
    if s.poisoned h 32 then
      lost.consume h (s.gca c) (if (s.cell c).fieldV then some (s.cell c).field else none)
    else
    let hd := leNat (s.mem.bytes h 8)
    let wr := word (leNat (s.mem.bytes (h + 8) 8))
    let rd := word (leNat (s.mem.bytes (h + 16) 8))
    let log2n := hd / 2 ^ 56
    if ring = 0 ∨ 24 < log2n ∨ 2 ^ log2n ≤ (wr - rd).toNat then lost
    else
      match s.flatOf c (hd % 2 ^ 48 + 32 * (wr.toNat % 2 ^ log2n)) .w with
      | none => lost
      | some a => (s.writeFlat a (wordsBytes rec)).writeFlat (h + 8) (leBytes 8 (wr + 1).toNat)

/-- The record of one line of a store at an owning port, before the next access to the line (R201). -/
def State.noteLine (s : State) (c line flat : Nat) (by_ : RaceBy) (code : Nat) : State :=
  let put := fun (t : State) => t.modCell c (fun x => { x with writers := AL.put x.writers line by_.src })
  match AL.find (s.cell c).writers line with
  | none => put s
  | some prev =>
    if prev = by_.src then s
    else
      let near := decide (flat < sliceBase)
      let off := if near then flat - nearAddr c 0 else flat - sliceAddr c 0
      put (s.appendRace c (raceRecord s.time64 near off by_ code prev))

/-- Race logging for a store of an access of a SIZE code whose bytes start at `flat` (R201). -/
def State.noteStore (s : State) (flat code : Nat) (by_ : RaceBy) : State :=
  if s.raceOn flat then
    match ownerCell flat with
    | none => s
    | some c => s.noteLine c (flat / 64) flat by_ code
  else s

/-- Does a write of `n` bytes cover only part of a poisoned doubleword, there or where it is mirrored (R406, R412)? -/
def State.narrowPoison (s : State) (a n : Nat) : Bool :=
  let part := fun (a : Nat) =>
    s.poison.any (fun p => decide (p < a + n) && decide (a < p + 8) && !(decide (a ≤ p) && decide (p + 8 ≤ a + n)))
  part a || (match s.mirrorAt a with | some b => part b | none => false)

/-- Write bytes where a target lies; `by_` names the writer of a store that race logging sees (R201). -/
def State.writeTarget (s : State) (field : Nat) (t : Target) (bs : List Byte) (by_ : Option RaceBy) (v : Nat → Violation) :
    PortAnswer × State :=
  match t with
  | .sram a =>
    if s.flatFenced a then (.err 5, s.logPort ((ownerCell a).getD 0) (v 5))
    else if s.narrowPoison a bs.length then (.poison a, s)
    else
      (.ok [], (match by_ with | some b => s.noteStore a (b.size.getD (sizeCode bs.length)) b | none => s).writeFlat a bs)
  | .far va =>
    match s.cachedLeaf field va.toNat with
    | none => (.miss, s)
    | some l =>
      if permGrants l.perm .w then
        let a := farAddr (l.pa + (va.toNat - l.va))
        if s.narrowPoison a bs.length then (.poison a, s) else (.ok [], s.writeFlat a bs)
      else (.err 1, s.logAgent (agentOf va.toNat) (v 1))
  | .bad k => (.err k, s)
  | _ => (.miss, s)

/-! ### Checks of a line (R405, R406) -/

/-- The log entry of what a check finds at a flat address (Table 21-2). -/
def State.scrubEntry (s : State) (kind flat : Nat) : Nat × ErrEntry :=
  match ownerCell flat with
  | some c =>
    let near := decide (flat < sliceBase)
    let off := if near then flat - nearAddr c 0 else flat - sliceAddr c 0
    (c, ⟨s.time64, kind, if near then 0 else 1, s.cellLocation c off, s.gca c, none, Config.syndrome s.tick flat⟩)
  | none =>
    let pa := flat - farBase
    (errKeyController (pa / 256 % 64), ⟨s.time64, kind, 9, BitVec.ofNat 48 pa, 0, none, Config.syndrome s.tick flat⟩)

/-- Is a line held hot by an atomic engine (R204, R405)? -/
def State.isHot (s : State) (flat : Nat) : Bool := s.atomics.any (fun a => a.2.hot.contains (flat / 64))

/-- The mark of a doubleword of memory that holds an uncorrectable error which no check has found yet (R406). -/
def memUpset (w : Nat) : Upset := ⟨if farBase ≤ w then 9 else if w < sliceBase then 0 else 1, 0, w⟩

/-- A check finds an uncorrectable doubleword: the event is logged as latent, and every later read detects it (R406). -/
def State.latent (s : State) (w : Nat) : State :=
  let e := s.scrubEntry 2 w
  { s.logErr e.1 e.2 with
    poison := if s.poison.contains w then s.poison else s.poison ++ [w], upsets := s.upsets.filter (fun u => u != memUpset w) }

/-- What a check of a doubleword finds, by a code: a corrected error, or an uncorrectable one, which is poisoned; a word poisoned already is
passed over, and in a channel that failed a retraining every word is uncorrectable (R406, R429). -/
def State.checkWord (s : State) (code w : Nat) : State :=
  if s.poison.contains w then (if s.upsets.contains (memUpset w) then s.latent w else s)
  else if code = 2 || s.poisoned w 8 then s.latent w
  else if code = 1 then
    let e := s.scrubEntry 1 w
    s.logErr e.1 e.2
  else s

/-- A check of a line, as the scrubber makes it and an engine's write-back (R405): a free value says what each doubleword holds (log 13). -/
def State.checkLine (s : State) (flat : Nat) : State :=
  let v := (Config.freeWord s.tick flat).toNat
  (List.range 8).foldl (fun t k => t.checkWord (v / 4 ^ k % 4) (flat + 8 * k)) s

/-- Lines that an engine writes back are checked (R405). -/
def State.writtenBack (s : State) (lines : List Nat) : State := lines.foldl (fun t l => t.checkLine (64 * l)) s

/-! ### Lines that an atomic engine holds (R204, R233) -/

/-- A key becomes the most recently used of at most `n`. -/
def useLru (l : List Nat) (k n : Nat) : List Nat :=
  let m := l.filter (fun j => j != k) ++ [k]
  m.drop (m.length - n)

/-- Does an engine hold a line: as a hot line, or as one of a resident front? -/
def AtomicEngine.holds (e : AtomicEngine) (line : Nat) : Bool :=
  e.hot.contains line || e.fronts.any (fun r => r.lines.contains line)

/-- Does no engine hold a line? -/
def State.cold (s : State) (line : Nat) : Bool := s.atomics.all (fun e => !e.2.holds line)

/-- The lines of the resident fronts, but those that `keep` names, to which a line belongs. -/
def AtomicEngine.frontLines (e : AtomicEngine) (keep : Resident → Bool) (line : Nat) : List Nat :=
  e.fronts.flatMap (fun r => if r.lines.contains line && !keep r then r.lines else [])

/-- An engine has served a plain access to a line, or its owner has: where it is hot it is the most recently used (R204), and a resident
front of which it is a line has been written back and released, unless `keep` names it (R233). -/
def AtomicEngine.plain (e : AtomicEngine) (keep : Resident → Bool) (line : Nat) : AtomicEngine :=
  { e with hot := if e.hot.contains line then useLru e.hot line 64 else e.hot,
           fronts := e.fronts.filter (fun r => !r.lines.contains line || keep r) }

/-- A plain access has been performed at a flat address. -/
def State.plainAt (s : State) (keep : Resident → Bool) (a : Nat) : State :=
  if s.cold (a / 64) then s
  else
    { s.writtenBack (s.atomics.flatMap (fun p => p.2.frontLines keep (a / 64))) with
      atomics := s.atomics.map (fun p => (p.1, if p.2.holds (a / 64) then p.2.plain keep (a / 64) else p.2)) }

/-- The flat address of a target, if it is on this device and known. -/
def State.flatNow (s : State) (field : Nat) (t : Target) : Option Nat :=
  match t with
  | .sram a => some a
  | .far va => (s.cachedLeaf field va.toNat).map (fun l => farAddr (l.pa + (va.toNat - l.va)))
  | _ => none

/-- A plain access has been performed where a target lies. -/
def State.plainTo (s : State) (keep : Resident → Bool) (field : Nat) (t : Target) : State :=
  match s.flatNow field t with | some a => s.plainAt keep a | none => s

/-! ### Computations over memory -/

/-- On whose behalf a computation reaches memory: where it logs, its field and segments, its local window, the lines
of other devices it has, the writes in other devices that it has seen performed, what a violation entry, a trap and a race record
name, and the requester. -/
structure Who where
  log    : LogUnit
  cell   : Nat
  field  : Nat
  segs   : List Seg
  window : Option Nat
  lines  : LineBuf
  wrote  : List Nat
  site   : Site
  cls    : MemClass
  opR    : Nat
  opW    : Nat
  size   : Option Nat
  issuer : Issuer
  src    : BitVec 24
  by_    : Option RaceBy
  req    : FaultReq
  deriving DecidableEq, Repr

/-- Why a computation stops: a refusal, a page that is not resident, a line of another device, a write in another device or an operation of
an atomic engine that is to be performed before it goes on, each with its class, an agent whose walks are all busy, an uncorrectable word
and the agent whose walk met it, if one did, or a posted write of its own program in another device (R274, R305). -/
inductive Stop
  | refused (e : ErrResp)
  | page (va op : Nat) (cls : MemClass) (size : Nat)
  | away (t : Target) (line : Nat) (cls : MemClass)
  | awayWrite (t : Target) (va : Nat) (bs : List Byte) (cls : MemClass)
  | engine (t : Target) (va : Nat) (op : MemOp) (cls : MemClass)
  | walk (va : Nat)
  | poison (flat : Nat) (agent : Option Nat)
  | drain
  | other (code : Nat)
  deriving DecidableEq, Repr

/-- A computation over the state that can stop; what it did before it stopped stands in the state. -/
abbrev M := ExceptT Stop (StateM State)

/-- Run a computation. -/
def M.exec {α : Type} (m : M α) (s : State) : Except Stop α × State := (ExceptT.run m).run s

/-- Stop a computation. -/
def M.stop {α : Type} (x : Stop) : M α := throw x

/-- The state of a computation. -/
def M.state : M State := get
/-- Replace the state. -/
def M.put (s : State) : M Unit := set s

/-- A violation entry of a computation. -/
def Who.violation (w : Who) (s : State) (va : Nat) (op n kind : Nat) : Violation :=
  ⟨BitVec.ofNat 48 va, kind, w.cls, op, w.size.getD (sizeCode n), w.src, s.time24⟩

/-- A target moved by some bytes, for a line of 64 bytes of another device. -/
def Target.back (t : Target) (k : Nat) : Target :=
  match t with
  | .fabric d ra cx => .fabric d (ra - BitVec.ofNat 48 k) cx
  | .host n ra => .host n (ra - BitVec.ofNat 48 k)
  | t => t

/-- The stop of an access of `n` bytes for a page. -/
def Who.pageStop (w : Who) (va op n : Nat) : Stop := .page va op w.cls (w.size.getD (sizeCode n))

/-- Make a far-memory address's leaf present at its agent, or stop for its page (R330, R331). -/
def ensureLeaf (w : Who) (va op n : Nat) : M Unit := do
  let s ← M.state
  match s.translate w.field va .r (some w.req) with
  | (.notResident, s2) => M.put s2; M.stop (w.pageStop va op n)
  | (.busy, _) => M.stop (.walk va)
  | (.poison a, _) => M.stop (.poison a (some (agentOf va)))
  | (_, s2) => M.put s2

/-- The resident fronts that an access of a computation leaves resident (R233): all for the reads of an atomic engine, its own object for
its writes, none for a plain access. -/
def State.keeps (s : State) (w : Who) (write : Bool) (r : Resident) : Bool :=
  match w.issuer with
  | .atomic x =>
    !write || (match AL.find s.flights x with | some f => s.flatNow f.field f.target == some r.obj | none => false)
  | _ => false

/-- Has the program of a computation a posted write of another device on its way to a line? Its own later reads see that write (R274,
R305). -/
def State.ownWrite (s : State) (w : Who) (line : Nat) : Bool :=
  match w.issuer with
  | .prog p => s.flights.any (fun f => f.2.issuer == .prog p && f.2.va.toNat / 64 == line)
  | _ => false

/-- Use what a port answered to an access of `n` bytes to a target. -/
def useAnswer (w : Who) (t : Target) (r : PortAnswer × State) (va op n : Nat) (write : Bool) : M (List Byte) := do
  match r.1 with
  | .ok bs => M.put (r.2.plainTo (r.2.keeps w write) w.field t); pure bs
  | a => M.put r.2; match a with
    | .err k => M.stop (.refused ⟨k, BitVec.ofNat 48 va⟩)
    | .poison a => M.stop (.poison a none)
    | _ => M.stop (w.pageStop va op n)

/-- Read `n` bytes at an address, all in one aligned doubleword. -/
def readPiece (w : Who) (va n : Nat) (need : Need) : M (List Byte) := do
  let s ← M.state
  match resolve w.segs w.window va need with
  | .bad k =>
    M.put (s.logAt w.log (w.violation s va w.opR n k))
    M.stop (.refused ⟨k, BitVec.ofNat 48 va⟩)
  | .sram a => useAnswer w (.sram a) (s.readTarget w.field (.sram a) n need (w.violation s va w.opR n)) va w.opR n false
  | .far t =>
    ensureLeaf w va w.opR n
    let s2 ← M.state
    useAnswer w (.far t) (s2.readTarget w.field (.far t) n need (w.violation s va w.opR n)) va w.opR n false
  | t =>
    if s.ownWrite w (va / 64) then M.stop .drain
    else
    match AL.find w.lines (va / 64) with
    | some bs => pure ((bs.drop (va % 64)).take n)
    | none => M.stop (.away (t.back (va % 64)) (va / 64) w.cls)

/-- Write bytes at an address, all in one aligned doubleword. A write to another device or the host is posted. -/
def writePiece (w : Who) (va : Nat) (bs : List Byte) : M Unit := do
  let s ← M.state
  let n := bs.length
  match resolve w.segs w.window va .w with
  | .bad k =>
    M.put (s.logAt w.log (w.violation s va w.opW n k))
    M.stop (.refused ⟨k, BitVec.ofNat 48 va⟩)
  | .sram a =>
    let _ ← useAnswer w (.sram a) (s.writeTarget w.field (.sram a) bs w.by_ (w.violation s va w.opW n)) va w.opW n true
  | .far t =>
    ensureLeaf w va w.opW n
    let s2 ← M.state
    let _ ← useAnswer w (.far t) (s2.writeTarget w.field (.far t) bs w.by_ (w.violation s va w.opW n)) va w.opW n true
  | t =>
    M.put (s.launchFlight ⟨w.issuer, w.cell, w.field, w.cls, .store bs, BitVec.ofNat 48 va, t, t, true, 0, w.site,
      none, s.nextId, .leaving⟩).1

/-- Split a run of bytes at doubleword boundaries: address and length of each piece. -/
def pieces : Nat → Nat → Nat → List (Nat × Nat)
  | 0, _, _ => []
  | f + 1, va, n =>
    if n = 0 then []
    else
      let k := min n (8 - va % 8)
      (va % 2 ^ 48, k) :: pieces f (va + k) (n - k)

/-- Read `n` bytes from an address on. -/
def readVa (w : Who) (va n : Nat) (need : Need) : M (List Byte) :=
  (pieces n va n).foldlM (fun acc p => do let bs ← readPiece w p.1 p.2 need; pure (acc ++ bs)) []

/-- Write bytes from an address on. -/
def writeVaM (w : Who) (va : Nat) (bs : List Byte) : M Unit := do
  let _ ← (pieces bs.length va bs.length).foldlM
    (fun rest p => do writePiece w p.1 (rest.take p.2); pure (rest.drop p.2)) bs

/-- Write bytes from an address on; a piece in another device or the host is performed before the computation goes on. -/
def writeVaWait (w : Who) (va : Nat) (bs : List Byte) : M Unit := do
  let _ ← (pieces bs.length va bs.length).foldlM (fun rest p => do
    match resolve w.segs w.window p.1 .w with
    | .fabric d ra cx => if w.wrote.contains p.1 then pure () else M.stop (.awayWrite (.fabric d ra cx) p.1 (rest.take p.2) w.cls)
    | .host n ra => if w.wrote.contains p.1 then pure () else M.stop (.awayWrite (.host n ra) p.1 (rest.take p.2) w.cls)
    | _ => writePiece w p.1 (rest.take p.2)
    pure (rest.drop p.2)) bs

/-- Where the answer of an atomic engine stands among the lines of a requester: above the line numbers. -/
def engineKey (va : Nat) : Nat := 2 ^ 48 + va

/-- An operation of a unit of the hub die at the atomic engine that serves an address: it takes its place in the engine's order, and its
answer comes back as bytes (R202, R203, R340, R361). -/
def engineOp (w : Who) (va n : Nat) (need : Need) (op : MemOp) : M (List Byte) := do
  let s ← M.state
  match AL.find w.lines (engineKey va), resolve w.segs w.window va need with
  | some bs, _ => pure bs
  | none, .bad k =>
    M.put (s.logAt w.log (w.violation s va 2 n k))
    M.stop (.refused ⟨k, BitVec.ofNat 48 va⟩)
  | none, t => M.stop (.engine t va op w.cls)

/-- Read a doubleword. -/
def readWord (w : Who) (va : Nat) (need : Need) : M Word := do
  let bs ← readVa w va 8 need
  pure (word (leNat bs))

/-- Read `n` doublewords. -/
def readWords (w : Who) (va : Nat) (n : Nat) (need : Need) : M (List Word) := do
  let bs ← readVa w va (8 * n) need
  pure (bytesWords n bs)

/-! ### Trap records (R53, R326) -/

/-- On whose behalf a cell reaches memory for a service of its own: the trap area, a verdict, a launch record. -/
def State.whoCell (s : State) (c : Nat) (req : FaultReq) : Who :=
  { log := .cell c, cell := c, field := (s.cell c).field, segs := s.segsOf c, window := some c, lines := s.linesOf req,
    wrote := s.wroteOf req, site := Site.zero, cls := .o, opR := 0, opW := 1, size := none, issuer := .cell, src := s.gca c, by_ := none,
    req := req }

/-- Does a requester wait for a page, a line or for ever? -/
def State.isWaiting (s : State) (r : FaultReq) : Bool :=
  match s.waitOf r with | .page _ => true | .flight _ => true | .withheld => true | _ => false

/-- A requester's computation stopped for a page, a line, a write in another device or an uncorrectable word: raise or ask, and wait. -/
def State.stopFor (s : State) (r : FaultReq) (cell field : Nat) (x : Stop) : State :=
  match x with
  | .page va op cls size => let p := s.pageFault field va op r cls size; p.1.setWait r (.page p.2)
  | .away t line cls =>
    let p := s.askRemote r cell field cls (.load 64) (BitVec.ofNat 48 (line * 64)) t
    p.1.setWait r (.flight p.2)
  | .awayWrite t va bs cls =>
    let p := s.askRemote r cell field cls (.store bs) (BitVec.ofNat 48 va) t
    p.1.setWait r (.flight p.2)
  | .engine t va op cls =>
    let st : FlightStage := match t with | .fabric _ _ _ => .leaving | .host _ _ => .leaving | _ => .going
    let p := s.launchFlight ⟨.line r, cell, field, cls, op, BitVec.ofNat 48 va, t, t, false, 0, Site.zero, none, s.nextId, st⟩
    p.1.setWait r (.flight p.2)
  | .walk va => s.waitWalk r va
  | .poison a g => (s.consume a (s.gca cell) (if r.isHub || (s.cell cell).fieldV then some field else none) g).withhold cell r
  | _ => s

/-- What writing a trap record gives: the record's address, or a wait. -/
inductive TrapWrite
  | done (s : State) (record : Addr)
  | wait (s : State)
  deriving DecidableEq, Repr

/-- Write a trap record and its snapshot into an entry of the trap area, the rest of the entry zero (R326), and send
the trap message (R53, steps 3 and 4). What a port refuses is not written. -/
def State.writeTrap (s : State) (c : Nat) (f : Field) (k : Nat) (t : Trap) (unit slot : Nat) (nm : Naming)
    (snap : Option (List Word)) (req : FaultReq) : TrapWrite :=
  let ra := f.trapAddr k
  let sa : Addr := match snap with | some _ => ra + 0x40 | none => 0
  let body := trapRecord t unit slot nm sa ++ (snap.getD (List.replicate 80 0)) ++ List.replicate 40 0
  let finish := fun (s1 : State) =>
    let s2 := (s1.endWait req).modField f.ctx.field (fun g =>
      { g with trapUse := k :: g.trapUse, trapNext := (k + 1) % 2 ^ g.ctx.trapLog2 })
    TrapWrite.done (s2.sendService f (s.gca c) false [addrWord ra, word t.cause, 0, 0] false) ra
  match s.waitOf req with
  | .refused _ => finish s
  | _ =>
    match (writeVaM (s.whoCell c req) ra.toNat (wordsBytes body)).exec s with
    | (.ok _, s1) => finish s1
    | (.error (.page va op cls size), _) => .wait (s.stopFor req c f.ctx.field (.page va op cls size))
    | (.error (.poison a g), s1) => .wait (s1.stopFor req c f.ctx.field (.poison a g))
    | (.error (.walk va), _) => .wait (s.waitWalk req va)
    | (.error _, s1) => finish s1

end Sys2Proof.Machine
end

