-- ==== Sys2Proof/Machine/Access.lean ====
section
/-! DEFINITION. Loads, stores, pairs, prefetch and fences (spec 10, R207 to R218), with the waits, counts and
acquires of spec 09 (R187 to R197) and the gated buffer of checked pairs (R412, R414). -/

namespace Sys2Proof.Machine

/-! ### Where an access goes, as pieces -/

/-- A space and an address in it: two accesses touch the same bytes when their keys agree. -/
def Target.key : Target → Nat × Nat
  | .sram a => (0, a)
  | .far va => (1, va.toNat)
  | .fabric d ra cx => (4 + 4 * (d * 65536 + cx.toNat), ra.toNat)
  | .host n ra => (5 + 4 * n, ra.toNat)
  | .bad _ => (2, 0)

/-- The pieces of an access of `n` bytes: space, address, length. -/
def accessPieces (t second : Target) (n : Nat) : List (Nat × Nat × Nat) :=
  let k := t.key
  if n ≤ 8 then [(k.1, k.2, n)] else [(k.1, k.2, 8), (second.key.1, second.key.2, n - 8)]

/-- Do two pieces share a byte? Refused addresses share none. -/
def pieceMeets (a b : Nat × Nat × Nat) : Bool :=
  a.1 == b.1 && a.1 != 2 && decide (a.2.1 < b.2.1 + b.2.2) && decide (b.2.1 < a.2.1 + a.2.2)

/-- The pieces of a store-buffer entry with their bytes; an atomic has no bytes to give. -/
def SbEntry.pieces (e : SbEntry) : List ((Nat × Nat × Nat) × List Byte) :=
  match e.kind with
  | .store _ t t2 bs =>
    match accessPieces t t2 bs.length with
    | [p] => [(p, bs)]
    | [p, q] => [(p, bs.take 8), (q, bs.drop 8)]
    | _ => []
  | .atomic _ t _ w _ _ => [((t.key.1, t.key.2, if w then 4 else 8), [])]
  | _ => []

/-- Does an entry share a byte with an access? -/
def SbEntry.meets (e : SbEntry) (ps : List (Nat × Nat × Nat)) : Bool :=
  e.pieces.any (fun q => ps.any (fun p => pieceMeets p q.1))

/-- The bytes of one piece out of an entry that covers it. -/
def SbEntry.give (e : SbEntry) (p : Nat × Nat × Nat) : Option (List Byte) :=
  e.pieces.findSome? (fun q =>
    if q.1.1 == p.1 && decide (q.1.2.1 ≤ p.2.1) && decide (p.2.1 + p.2.2 ≤ q.1.2.1 + q.2.length) then
      some ((q.2.drop (p.2.1 - q.1.2.1)).take p.2.2)
    else none)

/-- What the store buffer has for a load (R189). -/
inductive Forward
  | none
  | data (bs : List Byte)
  | wait
  deriving DecidableEq, Repr

/-- Forwarding from the youngest overlapping entry (R189). -/
def forward (es : List SbEntry) (ps : List (Nat × Nat × Nat)) : Forward :=
  match (es.filter (fun e => e.meets ps)).getLast? with
  | none => .none
  | some e =>
    match ps.mapM e.give with
    | some bss => .data bss.flatten
    | none => .wait

/-- A near-scratch target of a leader, as its follower holds it (R412). -/
def Target.mirror (t : Target) (leader follower : Nat) : Target :=
  match t with
  | .sram a =>
    if nearAddr leader 0 ≤ a ∧ a < nearAddr leader 0 + nearSize then .sram (a - nearAddr leader 0 + nearAddr follower 0)
    else t
  | t => t

/-- An entry of a leader as its follower sees it. -/
def SbEntry.mirror (e : SbEntry) (leader follower : Nat) : SbEntry :=
  match e.kind with
  | .store va t t2 bs => { e with kind := .store va (t.mirror leader follower) (t2.mirror leader follower) bs }
  | .atomic va t op w o n => { e with kind := .atomic va (t.mirror leader follower) op w o n }
  | _ => e

/-- The entries of the buffer of a cell that are older than number `x`, oldest first; those of a checked activation
in its gated buffer follow, and a follower sees its leader's (R189, R412, R414). -/
def State.olderEntries (s : State) (cell : Nat) (checked : Option Nat) (x : Nat) : List SbEntry :=
  let y := s.cell cell
  let sb := if checked.isSome && !y.leader then ((s.cell (cell - 1)).sb).map (fun e => e.mirror (cell - 1) cell) else y.sb
  (sb ++ (match checked with | some sl => (s.pairU cell sl).gated | none => [])).filter (fun e => decide (e.seq < x))

/-! ### Waits, acquires and releases -/

/-- Remember when the group first tried to issue, so that older entries can be told from newer ones. -/
def State.marked (s : State) (c : Ctx) : State :=
  s.modFr c (fun f => { f with mark := some (f.mark.getD s.nextId) })

/-- Have the store-buffer entries older than the group left the buffer? -/
def State.olderGone (s : State) (c : Ctx) : Bool :=
  (s.cell c.cell).sb.all (fun e => decide (((s.fr c).mark.getD 0) ≤ e.seq))

/-- Have the store-buffer entries older than the group been sent (R191)? -/
def State.olderSent (s : State) (c : Ctx) : Bool :=
  (s.cell c.cell).sb.all (fun e => e.sent || decide (((s.fr c).mark.getD 0) ≤ e.seq))

/-- The wait condition of `pm` (R194). -/
def State.waitOk (s : State) (c : Ctx) (w : WaitCond) : Bool :=
  let a := s.actC c
  match w with
  | .none => true
  | .a => a.cntA == 0
  | .v => a.cntV == 0
  | .all => a.cntO == 0 && a.cntA == 0 && a.cntV == 0 && s.olderGone c

/-- Does an acquire of the frame still hold the group back (R196)? -/
def State.acqBlocked (s : State) (c : Ctx) : Bool :=
  let f := s.fr c
  f.outst.any (fun o => f.acq.contains o.flight) || (f.acqE && (s.actC c).cntE != 0)

/-- The frame's acquires are complete. -/
def State.acqDone (s : State) (c : Ctx) : State := s.modFr c (fun f => { f with acq := [], acqE := false })

/-- Is a class in a mask? -/
def maskHas (m : FenceMask) : MemClass → Bool
  | .o => m.o
  | .a => m.a
  | .v => m.v

/-- Have the copies of an activation no write that awaits another device (Table 9-8, class e)? -/
def State.copiesAcked (s : State) (a : Nat) : Bool :=
  s.flights.all (fun p => match p.2.issuer with
    | .copy x _ => match AL.find s.copies x with
      | some y => !(y.issuer == .act a)
      | none => true
    | _ => true)

/-- The conditions of Table 9-8. -/
def State.released (s : State) (c : Ctx) (m : FenceMask) (sc : SyncScope) : Bool :=
  let a := s.actC c
  let sys := sc == .system
  (!m.o || (s.olderGone c && a.cntO == 0 && (!sys || a.remO == 0))) &&
  (!m.a || (a.cntA == 0 && (!sys || a.remA == 0))) &&
  (!m.v || (a.cntV == 0 && (!sys || a.remV == 0))) &&
  (!m.e || (a.cntE == 0 && (!sys || s.copiesAcked (s.fr c).act)))

/-- An acquire: later accesses wait for the outstanding loads, `lda` and returning atomics of its classes (R196). -/
def State.acquire (s : State) (c : Ctx) (m : FenceMask) : State :=
  s.modFr c (fun f => { f with
    acq := f.acq ++ (f.outst.filter (fun o => o.plain && maskHas m o.cls)).map (fun o => o.flight),
    acqE := f.acqE || (m.e && (s.actC c).cntE != 0) })

/-- The mask oav (R197). -/
def maskOav : FenceMask := ⟨true, true, true, false⟩

/-- A checked activation whose stores wait in the gated buffer takes a chime before it waits for its stores (R414;
log 20). -/
def State.gateForce (s : State) (c : Ctx) : Forced :=
  if s.checkedC c && !((s.pairU c.cell c.slot).gated.isEmpty) then .both else .no

/-! ### Entering stores (R187, R192) -/

/-- Does an owner lie on the die of the cell (R188)? -/
def onDie (cell : Nat) (t : Target) : Bool :=
  match t with
  | .sram a => match ownerCell a with | some c => dieOf c == dieOf cell | none => false
  | .bad _ => true
  | _ => false

/-- Is an entry counted from its issue (R109, R188, R224)? -/
def countedStore (cell : Nat) (cls : MemClass) (t : Target) : Bool :=
  match cls with | .o => !onDie cell t | _ => true

/-- The count of a class. -/
def Act.count (a : Act) : MemClass → Nat
  | .o => a.cntO
  | .a => a.cntA
  | .v => a.cntV

/-- Change the count of a class. -/
def Act.setCount (a : Act) (c : MemClass) (n : Nat) : Act :=
  match c with
  | .o => { a with cntO := n }
  | .a => { a with cntA := n }
  | .v => { a with cntV := n }

/-- The remote count of a class. -/
def Act.rem (a : Act) : MemClass → Nat
  | .o => a.remO
  | .a => a.remA
  | .v => a.remV

/-- Change the remote count of a class. -/
def Act.setRem (a : Act) (c : MemClass) (n : Nat) : Act :=
  match c with
  | .o => { a with remO := n }
  | .a => { a with remA := n }
  | .v => { a with remV := n }

/-- The target of an entry. -/
def SbKind.target : SbKind → Target
  | .store _ t _ _ => t
  | .atomic _ t _ _ _ _ => t
  | _ => .bad 0

/-- Has the buffer that the group's entry would enter no place (R187, R414)? Released entries beyond the sixteenth of the store buffer still
stand in the gated buffer (log 20). The follower, whose stores leave no cell, does not stall for one. -/
def State.bufferFull (s : State) (c : Ctx) : Bool :=
  let sb := (s.cell c.cell).sb.length
  if s.checkedC c then (s.cell c.cell).leader && decide (64 ≤ (s.pairU c.cell c.slot).gated.length + (sb - 16)) else decide (16 ≤ sb)

/-- Would a count pass 0xFFFF (R109)? Only the leader of a pair counts. -/
def State.countFull (s : State) (c : Ctx) (cls : MemClass) (k : SbKind) : Bool :=
  countedStore c.cell cls k.target && (!s.checkedC c || (s.cell c.cell).leader) &&
    decide (0xFFFF ≤ (s.actC c).count cls)

/-- Enter a store or a posted atomic (R187), in the gated buffer for a checked activation (R414). -/
def State.enter (s : State) (c : Ctx) (cls : MemClass) (hint : BitVec 4) (k : SbKind) : State :=
  let e : SbEntry := ⟨s.nextId, (s.fr c).act, cls, hint, c.site, k, false, 0⟩
  let s1 := { s with nextId := s.nextId + 1 }
  let chk := s.checkedC c
  let s2 := if countedStore c.cell cls k.target && (!chk || (s.cell c.cell).leader) then
      s1.modActC c (fun a => a.setCount cls (a.count cls + 1)) else s1
  if chk then s2.modPair c.cell c.slot (fun p => { p with gated := p.gated ++ [e] })
  else s2.modCell c.cell (fun x => { x with sb := x.sb ++ [e] })

/-- Log a violation that the cell detects at issue (R180). -/
def State.logIssue (s : State) (c : Ctx) (va : Addr) (kind : Nat) (cls : MemClass) (op n : Nat) : State :=
  s.logCell c.cell ⟨va, kind, cls, op, sizeCode n, s.gca c.cell, s.time24⟩

/-- Resolve an address of the group (R176). -/
def State.resolveC (s : State) (c : Ctx) (va : Addr) (need : Need) : Target :=
  resolve (s.segsOf c.cell) (some c.cell) va.toNat need

/-- The checks 8 and 9 of an access: the trap, if one is due; a straddle is logged (R180). -/
def State.checkData (s : State) (c : Ctx) (ea : Addr) (align n : Nat) (cls : MemClass) (op : Nat) : Option Issued :=
  match dataCheck (s.segsOf c.cell) ea align n with
  | none => none
  | some 0x09 => some (.trapIn (s.logIssue c ea 4 cls op n) 0x09 (addrWord ea))
  | some k => some (.trap k (addrWord ea))

/-- Is a far-memory page found non-resident at the issue of a store, because the segment cache does not mark it resident (R193)? Which
pages it marks is not stated, so a page that a walk would find non-resident is marked or not by a free choice (log 57). -/
def State.unmarkedPage (s : State) (c : Ctx) (t : Target) : Option Nat :=
  match t with
  | .far va =>
    match (s.translate (s.cell c.cell).field va.toNat .w).1 with
    | .notResident => if Config.pick s.tick 11 % 2 = 0 then some va.toNat else none
    | _ => none
  | _ => none

/-- A store or posted atomic whose page is found non-resident at issue parks its activation, and traps ACCESS where the fault was refused
(R193, R331); otherwise it goes on. -/
def State.parkStore (s : State) (c : Ctx) (t : Target) (op : Nat) (cls : MemClass) (size : Nat) (go : Issued) : Issued :=
  match s.memWait c with
  | .refused e => .trap 0x0A (addrWord e.va)
  | .page _ => .stall s
  | _ =>
    match s.unmarkedPage c t with
    | some va => .stall (s.waitPage c va op cls size)
    | none => go

/-- A store's body (R213, R215, R216): wait, release, room, checks, then the entry. -/
def storeBody (c : Ctx) (t : Attr) (rel : Bool) (base : Int) (off : BitVec 40) (align : Nat) (regs : List Int) (n : Nat)
    (s : State) : Issued :=
  let s := s.marked c
  let ea := effAddr (s.reg c base) off
  if !s.waitOk c t.wait || s.acqBlocked c then .stall s
  else if rel && !s.released c maskOav t.scope then .stall s
  else if s.bufferFull c then .stall s
  else
    match s.checkData c ea align n t.cls 1 with
    | some r => r
    | none =>
      let tg := s.resolveC c ea .w
      let tg2 := if 8 < n then s.resolveC c (ea + 8) .w else tg
      let bs := (regs.flatMap (fun r => leBytes 8 (s.reg c r).toNat)).take n
      let k := SbKind.store ea tg tg2 bs
      if s.countFull c t.cls k then .stall s
      else s.parkStore c tg 1 t.cls (sizeCode n) <|
        let s1 := s.acqDone c
        let s2 := match tg with | .bad kind => s1.logIssue c ea kind t.cls 1 n | _ => s1
        let s3 := if 8 < n then
            ((s2.pairStore c ea (s.reg c (regs.headD 0))).pairStore c (ea + 8) (s.reg c (regs.getLastD 0)))
          else s2.pairStore c ea (word (leNat bs))
        .ok (s3.enter c t.cls t.hint k)

/-- The bytes of a store width. -/
def widthBytes : Width → Nat | .b => 1 | .h => 2 | .w => 4 | .d => 8

/-- A store of a width (R213), or a releasing one (R215). -/
def storeInstr (s : State) (r : Rel) (t : Attr) (w : Width) (v n : RegNum) (off : BitVec 40) (rel : Bool) : Out :=
  withGroup s fun c =>
    let V := s.regNo c r v; let N := s.regNo c r n
    let force := if rel then Forced.both else if t.wait = .none then .no else s.gateForce c
    issue s c force [V, N] [] (storeBody c t rel N off (widthBytes w) [V] (widthBytes w))

/-! ### Loads (R211 to R217) -/

/-- Does the activation run on both cells of a pair, on the leader? -/
def State.leads (s : State) (c : Ctx) : Bool := s.checkedC c && (s.cell c.cell).leader

/-- Is an address in the local window? -/
def inWindow (va : Addr) : Bool := decide (va.toNat < 0x40000)

/-- Has the frame an earlier class-O load on the die that is not performed (R190)? -/
def State.earlierLoads (s : State) (a cell x : Nat) : Bool :=
  s.flights.any (fun p => decide (p.1 < x) && p.2.issuer == .act a && p.2.cls == .o &&
    (match p.2.op with | .load _ => true | _ => false) && onDie cell p.2.target &&
    (p.2.stage == .going))

/-- Make a long-latency access of the group (`lead`: the leader of a pair alone makes it wherever it goes): refused at issue, given by the leader,
forwarded, or on its way; a load of another device or the host is sent at once, an operation of its engines leaves the cell by a step of its
own (R189, R202). -/
def State.access (s : State) (c : Ctx) (t : Attr) (lead : Bool) (op : MemOp) (ea : Addr) (n : Nat) (need : Need) :
    State × Nat :=
  let a := (s.fr c).act
  let chk := s.checkedC c
  let tg := s.resolveC c ea need
  let tg2 := if 8 < n ∧ n ≤ 16 then s.resolveC c (ea + 8) need else tg
  let outside := chk && (lead || !inWindow ea)
  let num := (s.pairU c.cell c.slot).issued
  let s0 := if outside then s.modPair c.cell c.slot (fun p => { p with issued := p.issued + 1 }) else s
  let follower := chk && !(s.cell c.cell).leader
  let opc := match op with | .load _ => 0 | _ => 2
  let fw := match op with
    | .load _ =>
      if t.cls == MemClass.o && onDie c.cell tg && s.earlierLoads a c.cell s.nextId then Forward.none
      else forward (s.olderEntries c.cell (if chk then some c.slot else none) s.nextId) (accessPieces tg tg2 n)
    | _ => .none
  let fl : FlightStage → Option Nat → Flight := fun st mir =>
    ⟨.act a, c.cell, (s.cell c.cell).field, t.cls, op, ea, tg, tg2, false, t.hint, c.site, mir, s.nextId, st⟩
  let mir := if outside then some num else none
  if outside && follower then
    match AL.find (s.pairU c.cell c.slot).vals num with
    | some r => s0.launchFlight (fl (.answered r) mir)
    | none => s0.launchFlight (fl .mirrored mir)
  else
    match tg with
    | .bad k => (s0.logIssue c ea k t.cls opc n).launchFlight (fl (.answered (.err ⟨k, ea⟩)) mir)
    | _ =>
      match fw with
      | .data bs => s0.launchFlight (fl (.answered (.data bs)) mir)
      | _ => s0.launchFlight (fl (match op, tg with
          | .load _, .fabric _ _ _ => .leaving
          | .load _, .host _ _ => .leaving
          | _, _ => .going) mir)

/-- The frame holds one more outstanding instruction (R50). -/
def State.addOutst (s : State) (c : Ctx) (o : Outst) : State := s.modFr c (fun f => { f with outst := f.outst ++ [o] })

/-- Does a load of a checked activation meet a gated store that cannot give all its bytes? It takes a chime first, so
that the store can leave (log 20). -/
def State.gatedClash (s : State) (c : Ctx) (tg tg2 : Target) (n : Nat) : Bool :=
  s.checkedC c &&
  match forward (s.olderEntries c.cell (some c.slot) s.nextId) (accessPieces tg tg2 n) with
  | .wait => (s.pairU c.cell c.slot).gated.any (fun e => e.meets (accessPieces tg tg2 n))
  | _ => false

/-- Does a load overlap stores still in the buffer, the youngest of which does not cover it? It stalls until they have left (R189). -/
def State.partlyBuffered (s : State) (c : Ctx) (tg tg2 : Target) (n : Nat) : Bool :=
  forward (s.olderEntries c.cell (if s.checkedC c then some c.slot else none) s.nextId) (accessPieces tg tg2 n) == .wait

/-- A load's body (R212, R214, R216). -/
def loadBody (c : Ctx) (t : Attr) (acq : Bool) (base : Int) (off : BitVec 40) (align n : Nat) (fmt : LoadFmt)
    (dests : List Int) (l : BitVec 4) (s : State) : Issued :=
  let s := s.marked c
  let ea := effAddr (s.reg c base) off
  if !s.waitOk c t.wait || s.acqBlocked c || decide (4 ≤ (s.fr c).outst.length) then .stall s
  else
    match s.checkData c ea align n t.cls 0 with
    | some r => r
    | none =>
      let tg := s.resolveC c ea .r
      let tg2 := if 8 < n then s.resolveC c (ea + 8) .r else tg
      if s.gatedClash c tg tg2 n then .stall (s.modPair c.cell c.slot (fun p => { p with waiting := true }))
      else if s.partlyBuffered c tg tg2 n then .stall s
      else
        let r := (s.acqDone c).access c t acq (.load n) ea n .r
        let o : Outst := ⟨r.2, dests.map Int.toNat, l.toNat, fmt, t.cls, true, c.site⟩
        let s2 := r.1.addOutst c o
        .out (if acq then s2.acquire c maskOav else s2) r.2

/-- A load of a width (R211, Table 10-3). -/
def loadInstr (s : State) (r : Rel) (t : Attr) (d n : RegNum) (off : BitVec 40) (l : BitVec 4) (k : Nat)
    (signed : Bool) : Out :=
  withGroup s fun c =>
    let D := s.regNo c r d; let N := s.regNo c r n
    issue s c (if t.wait = .none then .no else s.gateForce c) [D, N] [D]
      (loadBody c t false N off k k (.int k signed) [D] l)

/-- R87, R211. -/
def execLdW (r : Rel) (t : Attr) (d n : RegNum) (off : BitVec 40) (l : BitVec 4) (s : State) : Out :=
  loadInstr s r t d n off l 4 true
/-- R87, R211. -/
def execLdD (r : Rel) (t : Attr) (d n : RegNum) (off : BitVec 40) (l : BitVec 4) (s : State) : Out :=
  loadInstr s r t d n off l 8 true
/-- R211. -/
def execLdB (r : Rel) (t : Attr) (d n : RegNum) (off : BitVec 40) (l : BitVec 4) (s : State) : Out :=
  loadInstr s r t d n off l 1 true
/-- R211. -/
def execLdBu (r : Rel) (t : Attr) (d n : RegNum) (off : BitVec 40) (l : BitVec 4) (s : State) : Out :=
  loadInstr s r t d n off l 1 false
/-- R211. -/
def execLdH (r : Rel) (t : Attr) (d n : RegNum) (off : BitVec 40) (l : BitVec 4) (s : State) : Out :=
  loadInstr s r t d n off l 2 true
/-- R211. -/
def execLdHu (r : Rel) (t : Attr) (d n : RegNum) (off : BitVec 40) (l : BitVec 4) (s : State) : Out :=
  loadInstr s r t d n off l 2 false
/-- R211. -/
def execLdWPage1 (r : Rel) (t : Attr) (d n : RegNum) (off : BitVec 40) (l : BitVec 4) (s : State) : Out :=
  loadInstr s r t d n off l 4 true
/-- R211. -/
def execLdWu (r : Rel) (t : Attr) (d n : RegNum) (off : BitVec 40) (l : BitVec 4) (s : State) : Out :=
  loadInstr s r t d n off l 4 false
/-- R211. -/
def execLdDPage1 (r : Rel) (t : Attr) (d n : RegNum) (off : BitVec 40) (l : BitVec 4) (s : State) : Out :=
  loadInstr s r t d n off l 8 true

/-- R87, R213. -/
def execSt (r : Rel) (t : Attr) (w : Width) (v n : RegNum) (off : BitVec 40) (s : State) : Out :=
  storeInstr s r t w v n off false
/-- R213. -/
def execStPage1 (r : Rel) (t : Attr) (w : Width) (v n : RegNum) (off : BitVec 40) (s : State) : Out :=
  storeInstr s r t w v n off false
/-- R215: a release of mask oav, then the store. -/
def execStl (r : Rel) (t : Attr) (w : Width) (v n : RegNum) (off : BitVec 40) (s : State) : Out :=
  storeInstr s r t w v n off true

/-- R214: a doubleword load, then an acquire of mask oav. -/
def execLda (r : Rel) (t : Attr) (d n : RegNum) (off : BitVec 40) (l : BitVec 4) (s : State) : Out :=
  withGroup s fun c =>
    let D := s.regNo c r d; let N := s.regNo c r n
    issue s c .both [D, N] [D] (loadBody c t true N off 8 8 (.int 8 true) [D] l)

/-- The first register of a pair that is odd traps FRAME_BOUND with that index (R216). -/
def oddPair (n : Int) : Option Issued := if n % 2 = 0 then none else some (.trap 0x05 (BitVec.ofInt 64 n))

/-- R216. -/
def execLdp (r : Rel) (t : Attr) (d n : RegNum) (off : BitVec 40) (l : BitVec 4) (s : State) : Out :=
  withGroup s fun c =>
    let D := s.regNo c r d; let N := s.regNo c r n
    match outOfBounds (s.regLimit c) [D, N, D + 1], oddPair D with
    | none, some x => issue s c .no [] [] (fun _ => x)
    | _, _ =>
      issue s c (if t.wait = .none then .no else s.gateForce c) [D, N, D + 1] [D, D + 1]
        (loadBody c t false N off 8 16 .pair [D, D + 1] l)

/-- R216: one entry that holds both doublewords. -/
def execStp (r : Rel) (t : Attr) (v n : RegNum) (off : BitVec 40) (s : State) : Out :=
  withGroup s fun c =>
    let V := s.regNo c r v; let N := s.regNo c r n
    match outOfBounds (s.regLimit c) [V, N, V + 1], oddPair V with
    | none, some x => issue s c .no [] [] (fun _ => x)
    | _, _ =>
      issue s c (if t.wait = .none then .no else s.gateForce c) [V, N, V + 1] []
        (storeBody c t false N off 8 [V, V + 1] 16)

/-- What `pf` does at an address: a far-memory address is translated and its leaf kept; hint 2 reports a page that is not
resident (R217). -/
def State.prefetch (s : State) (c : Ctx) (hint : BitVec 4) (ea : Nat) : State :=
  match regionOf (s.segsOf c.cell) ea with
  | .seg i =>
    match (s.segsOf c.cell)[i]? with
    | some g =>
      if g.kind = 3 then
        let field := (s.cell c.cell).field
        match s.translate field ea .r with
        | (.notResident, s2) =>
          if hint = 2 ∧ !(s.faults.any (fun p => p.2.field == field && p.2.va / 65536 == ea / 65536)) then
            { s2 with faults := AL.put s2.faults s2.nextId ⟨field, ea, 0, []⟩, nextId := s2.nextId + 1 }
          else s2
        | (_, s2) => s2
      else s
    | none => s
  | _ => s

/-- R217: of the checks at issue those up to 6 apply, so its register may be pending. -/
def execPf (r : Rel) (t : Attr) (n : RegNum) (off : BitVec 40) (s : State) : Out :=
  withGroup s fun c =>
    let N := s.regNo c r n
    issue s c .no [] [] fun s =>
      match outOfBounds (s.regLimit c) [N] with
      | some k => .trap 0x05 (BitVec.ofInt 64 k)
      | none => .ok (s.prefetch c t.hint (effAddr (s.reg c N) off).toNat)

/-! ### Fences (R196, R218) -/

/-- A release stalls until Table 9-8 holds; an empty mask waits for nothing. -/
def fenceBody (c : Ctx) (m : FenceMask) (sc : SyncScope) (rel acq : Bool) (s : State) : Issued :=
  let s := s.marked c
  if rel && !s.released c m sc then .stall s
  else .ok (if acq then s.acquire c m else s)

/-- A fence that releases takes a chime while stores are gated. -/
def fenceForce (s : State) (c : Ctx) (m : FenceMask) : Forced :=
  if m.o || m.a || m.v then s.gateForce c else .no

/-- R218: full, a release and then an acquire. -/
def execFence (m : FenceMask) (sc : SyncScope) (s : State) : Out :=
  withGroup s fun c => issue s c (fenceForce s c m) [] [] (fenceBody c m sc true true)
/-- R218. -/
def execFenceAcq (m : FenceMask) (sc : SyncScope) (s : State) : Out :=
  withGroup s fun c => issue s c .no [] [] (fenceBody c m sc false true)
/-- R218. -/
def execFenceRel (m : FenceMask) (sc : SyncScope) (s : State) : Out :=
  withGroup s fun c => issue s c (fenceForce s c m) [] [] (fenceBody c m sc true false)

/-- Have the stores of the group's frame, or the writes of its program, been performed (R96)? -/
def State.storesDone (s : State) (c : Ctx) : Bool :=
  match c.unit with
  | .scalar =>
    let a := s.actC c
    a.cntO == 0 && a.cntA == 0 && a.cntV == 0 && (s.cell c.cell).sb.all (fun e => !(e.act == (s.fr c).act))
  | .engine _ =>
    s.copies.all (fun x => !(x.2.issuer == .prog (s.progId c))) &&
      s.flights.all (fun x => !(x.2.issuer == .prog (s.progId c)))

/-- R96: wait for the drain, then invalidate the cell's instruction cache. -/
def execIfence (s : State) : Out :=
  withGroup s fun c => issue s c (s.gateForce c) [] [] fun s =>
    let s := if c.unit = .scalar then s.marked c else s
    if s.storesDone c then .ok (s.flushCode c.cell) else .stall s

end Sys2Proof.Machine
end

