-- ==== Sys2Proof/Machine/Flags.lean ====
section
/-! DEFINITION. The sticky flags of RMODE (spec 03, Tables 3-4 and 3-5), NBV (Table 3-7), and the control registers
as numbered registers (spec 04, R104 to R111). -/

namespace Sys2Proof.Machine

/-- The sticky flags that an operation raises (Table 3-5). -/
structure Flags where
  nv : Bool
  of : Bool
  uf : Bool
  nx : Bool
  dz : Bool
  as : Bool
  deriving DecidableEq, Repr

/-- No flag. -/
def Flags.none : Flags := ⟨false, false, false, false, false, false⟩
/-- NV alone. -/
def Flags.invalid : Flags := ⟨true, false, false, false, false, false⟩
/-- The OR of two sets of flags. -/
def Flags.or (a b : Flags) : Flags :=
  ⟨a.nv || b.nv, a.of || b.of, a.uf || b.uf, a.nx || b.nx, a.dz || b.dz, a.as || b.as⟩

/-- The flags at their places in RMODE: NV 8, OF 9, UF 10, NX 11, DZ 12, AS 13 (Table 3-4). -/
def Flags.toWord (f : Flags) : Word :=
  word (flag f.nv * 2 ^ 8 + flag f.of * 2 ^ 9 + flag f.uf * 2 ^ 10 + flag f.nx * 2 ^ 11 + flag f.dz * 2 ^ 12 +
    flag f.as * 2 ^ 13)

/-- Bits [13:8] of RMODE, the flags. -/
def flagMask : Word := 0x3F00#64

/-- MODE of an RMODE value (Table 3-4). -/
def modeOf (r : Word) : Nat := bits r 2 0
/-- FTZ. -/
def ftzOf (r : Word) : Bool := bitAt r 3
/-- SAT. -/
def satOf (r : Word) : Bool := bitAt r 4
/-- SEED. -/
def seedOf (r : Word) : BitVec 16 := r.extractLsb' 48 16

/-- A value written to the RW fields of RMODE: SEED, SAT, FTZ and MODE; a MODE of 5 to 7 leaves MODE (R65, R104). -/
def rmodeFields (old v : Word) : Word :=
  let mode := if bits v 2 0 ≤ 4 then bits v 2 0 else bits old 2 0
  word (bits v 63 48 * 2 ^ 48 + bits v 4 3 * 2 ^ 3 + mode) ||| (old &&& flagMask)

/-- `cwr RMODE`: the RW fields take the value and the flags written as 1 are cleared (R104). -/
def rmodeWrite (old v : Word) : Word :=
  rmodeFields (old &&& ~~~(v &&& flagMask)) v

/-- `cset` and `cclr` on RMODE change RW fields only (R104). -/
def rmodeSet (old v : Word) : Word := rmodeFields old (old ||| v)
/-- See `rmodeSet`. -/
def rmodeClr (old v : Word) : Word := rmodeFields old (old &&& ~~~v)

/-- A value written to NBV; 0 and 3 leave it (R78). -/
def nbvWrite (old v : BitVec 2) : BitVec 2 := if v = 0 ∨ v = 3 then old else v

/-! ### Reading control registers (Tables 4-8 to 4-21) -/

/-- PEND of a tag: the input buffer or a bell slot holds a message on it that waits because EN is 0 (R137). -/
def Cell.pend (x : Cell) (t : Nat) : Bool :=
  !(AL.get TagEntry.reset x.tags t).en && x.slots.any (fun p => p.2.msg.tag.toNat == t && p.2.chan.isNone)

/-- Sixteen bits, one for each tag. -/
def tagBits (f : Nat → Bool) : Word :=
  word ((List.range 16).foldl (fun acc t => acc + flag (f t) * 2 ^ t) 0)

/-- TAG_ENABLE (Table 4-18). -/
def Cell.tagEnable (x : Cell) : Word := tagBits (fun t => (AL.get TagEntry.reset x.tags t).en)
/-- TAG_PENDING (Table 4-19). -/
def Cell.tagPending (x : Cell) : Word := tagBits x.pend
/-- RACE_CTL.ACTIVE: some used segment of the context has RACE set (R327, Table 4-21). -/
def State.raceActive (s : State) (c : Nat) : Bool := (s.segsOf c).any (fun g => g.race)

/-- A control register as `crd` returns it. -/
def State.crRead (s : State) (c : Ctx) (n : Nat) : Word :=
  let x := s.cell c.cell
  let f := s.fr c
  let a := s.actC c
  match n with
  | 0x000 => word (s.devNum.toNat * 2 ^ 12 + c.cell)
  | 0x001 => word f.size
  | 0x002 => word (a.naming.colour.toNat * 2 ^ 8 + a.naming.tenant.toNat)
  | 0x003 => word x.field
  | 0x004 => f.cr.rmode
  | 0x005 => f.cr.nbv.setWidth 64
  | 0x006 => f.cr.fmtA.setWidth 64
  | 0x007 => f.cr.fmtB.setWidth 64
  | 0x008 => f.cr.sclA.setWidth 64
  | 0x009 => f.cr.sclB.setWidth 64
  | 0x00A => f.cr.result.setWidth 64
  | 0x00B => a.xferId.setWidth 64
  | 0x00C => word a.cntO
  | 0x00D => word a.cntA
  | 0x00E => word a.cntV
  | 0x00F => word a.cntE
  | 0x010 => x.tagEnable
  | 0x011 => x.tagPending
  | 0x012 => word (x.disagree.toNat * 2 ^ 32 + x.interval.toNat * 2 ^ 16 + flag x.leader * 2 + flag x.paired)
  | _ => word (x.raceLost.toNat * 2 ^ 32 + flag (s.raceActive c.cell))

/-- The RC fields that a `crd` clears: DISAGREE of PAIR_CTL and LOST of RACE_CTL (Tables 4-20, 4-21). -/
def State.crClear (s : State) (c : Ctx) (n : Nat) : State :=
  match n with
  | 0x012 => s.modCell c.cell (fun x => { x with disagree := 0 })
  | 0x013 => s.modCell c.cell (fun x => { x with raceLost := 0 })
  | _ => s

/-- Change the frame's control registers. -/
def State.modCr (s : State) (c : Ctx) (f : FrameCr → FrameCr) : State :=
  s.modFr c (fun x => { x with cr := f x.cr })

/-- Set the enable bits of all tags in one update (R110). -/
def State.setTagEnable (s : State) (c : Nat) (v : Word) : State :=
  s.modCell c (fun x => { x with
    tags := (List.range 16).foldl (fun acc t =>
      AL.put acc t { AL.get TagEntry.reset x.tags t with en := v.getLsbD t }) x.tags })

/-- The three writes of R104: `write` gives the new value of RMODE and `mix` that of a plain RW field from the old
one and the operand; R fields ignore a write, and so does every register that has only R and RC fields. -/
def State.crWrite (s : State) (c : Ctx) (n : Nat) (v : Word) (rm : Word → Word → Word) (mix : Word → Word → Word) :
    State :=
  match n with
  | 0x004 => s.modCr c (fun r => { r with rmode := rm r.rmode v })
  | 0x005 => s.modCr c (fun r => { r with nbv := nbvWrite r.nbv ((mix (r.nbv.setWidth 64) v).setWidth 2) })
  | 0x006 => s.modCr c (fun r => { r with fmtA := (mix (r.fmtA.setWidth 64) v).setWidth 9 })
  | 0x007 => s.modCr c (fun r => { r with fmtB := (mix (r.fmtB.setWidth 64) v).setWidth 9 })
  | 0x008 => s.modCr c (fun r => { r with sclA := (mix (r.sclA.setWidth 64) v).setWidth 13 })
  | 0x009 => s.modCr c (fun r => { r with sclB := (mix (r.sclB.setWidth 64) v).setWidth 13 })
  | 0x00A => s.modCr c (fun r => { r with result := (mix (r.result.setWidth 64) v).setWidth 4 })
  | 0x010 => s.setTagEnable c.cell (mix (s.cell c.cell).tagEnable v)
  | _ => s

end Sys2Proof.Machine
end

