-- ==== Sys2Proof/Machine/Numeric.lean ====
section
/-! DEFINITION. Number formats and exact arithmetic (spec 03): values as exact dyadic numbers, and one rounding into a
destination format with the flags it raises (R57 to R72). -/

namespace Sys2Proof.Machine

/-! ### Formats (Table 3-1, Table 3-2) -/

/-- The element formats (Table 3-1). -/
inductive Fmt | fp32 | fp16 | bf16 | e4m3 | e5m2 | int4 | int8 | uint8 | int32 | int64 | es4 | e8m0
  deriving DecidableEq, Repr

/-- The format of a code; 0xC to 0xF name none (R57). -/
def fmtOf (code : Nat) : Option Fmt :=
  match code with
  | 0 => some .fp32 | 1 => some .fp16 | 2 => some .bf16 | 3 => some .e4m3 | 4 => some .e5m2 | 5 => some .int4
  | 6 => some .int8 | 7 => some .uint8 | 8 => some .int32 | 9 => some .int64 | 10 => some .es4 | 11 => some .e8m0
  | _ => none

/-- Element bits (Table 3-1). -/
def Fmt.bits : Fmt → Nat
  | .fp32 => 32 | .fp16 => 16 | .bf16 => 16 | .e4m3 => 8 | .e5m2 => 8 | .int4 => 4 | .int8 => 8 | .uint8 => 8
  | .int32 => 32 | .int64 => 64 | .es4 => 4 | .e8m0 => 8

/-- Exponent bits, fraction bits and bias of a floating format (Table 3-2); none for the others. -/
structure FloatFmt where
  ebits : Nat
  mbits : Nat
  bias  : Int
  hasInf : Bool
  deriving DecidableEq, Repr

/-- The floating formats (Table 3-2). -/
def Fmt.float : Fmt → Option FloatFmt
  | .fp32 => some ⟨8, 23, 127, true⟩
  | .fp16 => some ⟨5, 10, 15, true⟩
  | .bf16 => some ⟨8, 7, 127, true⟩
  | .e4m3 => some ⟨4, 3, 7, false⟩
  | .e5m2 => some ⟨5, 2, 15, true⟩
  | _ => none

/-- Signedness of an integer format; none for the others (R61). -/
def Fmt.intSigned : Fmt → Option Bool
  | .int4 => some true | .int8 => some true | .uint8 => some false | .int32 => some true | .int64 => some true
  | _ => none

/-- Smallest normal exponent. -/
def FloatFmt.emin (f : FloatFmt) : Int := 1 - f.bias
/-- Largest finite value, as an integer of units of the last place of its exponent, and that unit's exponent. -/
def FloatFmt.maxUnits (f : FloatFmt) : Nat × Int :=
  if f.hasInf then (2 ^ (f.mbits + 1) - 1, 2 ^ f.ebits - 2 - f.bias - f.mbits)
  else (2 ^ (f.mbits + 1) - 2, 2 ^ f.ebits - 1 - f.bias - f.mbits)

/-! ### Values -/

/-- A value read from an element: a NaN, signalling or quiet; an infinity; a finite value ±m × 2^e. -/
inductive Num
  | nan (signalling : Bool)
  | inf (neg : Bool)
  | fin (neg : Bool) (m : Nat) (e : Int)
  deriving DecidableEq, Repr

/-- Positive zero. -/
def Num.zero : Num := .fin false 0 0

/-- Is it a NaN? -/
def Num.isNan : Num → Bool | .nan _ => true | _ => false
/-- Is it a signalling NaN? -/
def Num.isSnan : Num → Bool | .nan b => b | _ => false
/-- Is it infinite? -/
def Num.isInf : Num → Bool | .inf _ => true | _ => false
/-- Is it a zero? -/
def Num.isZero : Num → Bool | .fin _ m _ => m == 0 | _ => false
/-- Its sign. -/
def Num.neg : Num → Bool | .fin s _ _ => s | .inf s => s | .nan _ => false
/-- The opposite value. -/
def Num.opp : Num → Num | .fin s m e => .fin (!s) m e | .inf s => .inf (!s) | x => x
/-- The magnitude. -/
def Num.abs : Num → Num | .fin _ m e => .fin false m e | .inf _ => .inf false | x => x

/-- A finite value of an integer. -/
def Num.ofInt (v : Int) : Num := .fin (decide (v < 0)) v.natAbs 0

/-- Decode the bits of a floating format; under FTZ a subnormal reads as a zero (R59, R60, R70). -/
def decodeFloat (f : FloatFmt) (ftz : Bool) (b : Nat) : Num :=
  let frac := b % 2 ^ f.mbits
  let e := b / 2 ^ f.mbits % 2 ^ f.ebits
  let s := decide (b / 2 ^ (f.mbits + f.ebits) % 2 = 1)
  if f.hasInf && e == 2 ^ f.ebits - 1 then
    if frac = 0 then .inf s else .nan (decide (frac < 2 ^ (f.mbits - 1)))
  else if !f.hasInf && e == 2 ^ f.ebits - 1 && frac == 2 ^ f.mbits - 1 then .nan false
  else if e = 0 then
    if ftz then .fin s 0 0 else .fin s frac (f.emin - f.mbits)
  else .fin s (2 ^ f.mbits + frac) ((e : Int) - f.bias - f.mbits)

/-- A two's-complement value of `w` bits. -/
def signedNat (w b : Nat) : Int := if 2 * (b % 2 ^ w) < 2 ^ w then (b % 2 ^ w : Int) else (b % 2 ^ w : Int) - 2 ^ w

/-- Decode the bits of an element; ES4 elements are decoded by their block (R59 to R61). -/
def decodeNum (f : Fmt) (ftz : Bool) (b : Nat) : Num :=
  match f.float with
  | some x => decodeFloat x ftz b
  | none =>
    match f with
    | .e8m0 => if b % 256 = 255 then .nan false else .fin false 1 ((b % 256 : Int) - 127)
    | .uint8 => Num.ofInt (b % 256 : Nat)
    | _ => Num.ofInt (signedNat f.bits b)

/-! ### One rounding (R66, R69) -/

/-- A magnitude num / den × 2^exp; with `sticky`, the exact value lies just above it. -/
structure Mag where
  num : Nat
  den : Nat
  exp : Int
  sticky : Bool
  deriving DecidableEq, Repr

/-- The magnitude m × 2^e. -/
def Mag.dyadic (m : Nat) (e : Int) : Mag := ⟨m, 1, e, false⟩

/-- Rounding parameters: MODE, FTZ, SAT. -/
structure Rounding where
  mode : Nat
  ftz  : Bool
  sat  : Bool
  deriving DecidableEq, Repr

/-- Nearest-even with subnormals, as an atomic engine adds (R223). -/
def Rounding.plain : Rounding := ⟨0, false, false⟩

/-- The magnitude as a quotient in units of 2^ulp. -/
def Mag.units (m : Mag) (ulp : Int) : Nat × Nat :=
  let sh := m.exp - ulp
  if 0 ≤ sh then (m.num * 2 ^ sh.toNat, m.den) else (m.num, m.den * 2 ^ (-sh).toNat)

/-- Round a magnitude to a whole number of units of 2^ulp, with a draw for mode 4; says whether it was inexact. -/
def Mag.round (m : Mag) (mode : Nat) (neg : Bool) (ulp : Int) (draw : Nat) : Nat × Bool :=
  let q := m.units ulp
  let k := q.1 / q.2
  let rem := q.1 % q.2
  let inexact := m.sticky || rem != 0
  let up :=
    match mode with
    | 0 => decide (q.2 < 2 * rem) || (2 * rem == q.2 && (m.sticky || k % 2 == 1))
    | 1 => false
    | 2 => inexact && !neg
    | 3 => inexact && neg
    | _ => decide (2 ^ 16 ≤ rem * 2 ^ 16 / q.2 + draw)
  (if up then k + 1 else k, inexact)

/-- ⌊log2⌋ of a positive magnitude. -/
def Mag.log2 (m : Mag) : Int :=
  let d : Int := (m.num.log2 : Int) - (m.den.log2 : Int)
  -- num / den lies in (2^(d-1), 2^(d+1))
  let ge := if 0 ≤ d then decide (m.den * 2 ^ d.toNat ≤ m.num) else decide (m.den ≤ m.num * 2 ^ (-d).toNat)
  m.exp + (if ge then d else d - 1)

/-- A flag set alone. -/
def Flags.inexact : Flags := { Flags.none with nx := true }
/-- OF and NX. -/
def Flags.overflowed : Flags := { Flags.none with of := true, nx := true }

/-- The canonical NaN of a floating format (R60). -/
def FloatFmt.nan (f : FloatFmt) : Nat :=
  if f.hasInf then (2 ^ f.ebits - 1) * 2 ^ f.mbits + 2 ^ (f.mbits - 1) else 2 ^ (f.ebits + f.mbits) - 1

/-- The bits of a sign. -/
def FloatFmt.signBit (f : FloatFmt) (neg : Bool) : Nat := flag neg * 2 ^ (f.ebits + f.mbits)

/-- The bits of a magnitude of `k` units of 2^ulp, k < 2^(mbits+1), which the format holds exactly. -/
def FloatFmt.pack (f : FloatFmt) (neg : Bool) (k : Nat) (ulp : Int) : Nat :=
  f.signBit neg +
    (if k < 2 ^ f.mbits then k
    else (ulp + f.mbits + f.bias).toNat * 2 ^ f.mbits + (k - 2 ^ f.mbits))

/-- The largest finite value. -/
def FloatFmt.largest (f : FloatFmt) (neg : Bool) : Nat := f.pack neg f.maxUnits.1 f.maxUnits.2
/-- Infinity, or the NaN code of the sign where the format has none (R71, Table 3-6). -/
def FloatFmt.infCode (f : FloatFmt) (neg : Bool) : Nat :=
  f.signBit neg + (if f.hasInf then (2 ^ f.ebits - 1) * 2 ^ f.mbits else 2 ^ (f.ebits + f.mbits) - 1)

/-- Round a magnitude into a floating format (R66, R70 to R72). -/
def FloatFmt.roundMag (f : FloatFmt) (rd : Rounding) (neg : Bool) (m : Mag) (draw : Nat) : Nat × Flags :=
  if m.num = 0 ∧ !m.sticky then (f.signBit neg, Flags.none)
  else
    let e := if m.num = 0 then f.emin - f.mbits - 2 else m.log2
    let ulp := (if e < f.emin then f.emin else e) - f.mbits
    let r := m.round rd.mode neg ulp draw
    -- a carry out of the significand moves to the next exponent
    let k := if r.1 = 2 ^ (f.mbits + 1) then 2 ^ f.mbits else r.1
    let u := if r.1 = 2 ^ (f.mbits + 1) then ulp + 1 else ulp
    let mx := f.maxUnits
    let big := decide (mx.2 < u) || (u == mx.2 && decide (mx.1 < k))
    if big then
      let away := if f.hasInf then
          !rd.sat && (rd.mode == 0 || rd.mode == 4 || (rd.mode == 2 && !neg) || (rd.mode == 3 && neg))
        else !rd.sat
      (if away then f.infCode neg else f.largest neg, Flags.overflowed)
    else if k < 2 ^ f.mbits then
      if rd.ftz && k != 0 then (f.signBit neg, { Flags.none with uf := true, nx := true })
      else (f.pack neg k u, { Flags.none with uf := r.2, nx := r.2 })
    else (f.pack neg k u, { Flags.none with nx := r.2 })

/-- Convert a value that is not finite, or round a finite one, into a floating format (R71). -/
def FloatFmt.ofNum (f : FloatFmt) (rd : Rounding) (x : Num) (draw : Nat) : Nat × Flags :=
  match x with
  | .nan s => (f.nan, { Flags.none with nv := s })
  | .inf s =>
    if f.hasInf then (f.infCode s, Flags.none)
    else (if rd.sat then f.largest s else f.infCode s, { Flags.none with of := true })
  | .fin s m e => f.roundMag rd s (Mag.dyadic m e) draw

/-- The range of an integer format (R61). -/
def intRange (signed : Bool) (w : Nat) : Int × Int :=
  if signed then (-(2 ^ (w - 1)), 2 ^ (w - 1) - 1) else (0, 2 ^ w - 1)

/-- Round a magnitude into an integer format (R66, R71, R72). -/
def roundInt (signed : Bool) (w : Nat) (rd : Rounding) (neg : Bool) (m : Mag) (draw : Nat) : Int × Flags :=
  let r := m.round rd.mode neg 0 draw
  let v : Int := if neg then -(r.1 : Int) else r.1
  let range := intRange signed w
  if v < range.1 then (range.1, { Flags.overflowed with nv := !rd.sat })
  else if range.2 < v then (range.2, { Flags.overflowed with nv := !rd.sat })
  else (v, { Flags.none with nx := r.2 })

/-- Round into E8M0 (R62). -/
def roundE8m0 (rd : Rounding) (neg : Bool) (m : Mag) : Nat × Flags :=
  if m.num = 0 ∧ !m.sticky then (0, Flags.inexact)
  else if neg then (255, Flags.invalid)
  else
    let e := m.log2
    let q := m.units e
    let exact := !m.sticky && q.1 == q.2
    let k := if rd.mode = 2 ∧ !exact then e + 1 else e
    if k < -127 then (0, { Flags.none with uf := true, nx := true })
    else if 127 < k then (if rd.sat then 254 else 255, Flags.overflowed)
    else ((k + 127).toNat, { Flags.none with nx := !exact })

/-- A two's-complement number of `w` bits. -/
def intBits (w : Nat) (v : Int) : Nat := (v % 2 ^ w).toNat

/-- Round a magnitude into any format but ES4. -/
def Fmt.roundMag (f : Fmt) (rd : Rounding) (neg : Bool) (m : Mag) (draw : Nat) : Nat × Flags :=
  match f.float with
  | some x => x.roundMag rd neg m draw
  | none =>
    match f.intSigned with
    | some sg => let r := roundInt sg f.bits rd neg m draw; (intBits f.bits r.1, r.2)
    | none => roundE8m0 rd neg m

/-- Convert a value into any format but ES4 (R71, Table 3-6). -/
def Fmt.ofNum (f : Fmt) (rd : Rounding) (x : Num) (draw : Nat) : Nat × Flags :=
  match f.float with
  | some y => y.ofNum rd x draw
  | none =>
    match f.intSigned with
    | some sg =>
      match x with
      | .nan _ => (0, Flags.invalid)
      | .inf s =>
        let range := intRange sg f.bits
        (intBits f.bits (if s then range.1 else range.2), { Flags.none with of := true, nv := !rd.sat })
      | .fin s m e => f.roundMag rd s (Mag.dyadic m e) draw
    | none =>
      match x with
      | .nan s => (255, { Flags.none with nv := s })
      | .inf true => (255, { Flags.none with of := true, nv := true })
      | .inf false => (if rd.sat then 254 else 255, { Flags.none with of := true })
      | .fin s m e => roundE8m0 rd s (Mag.dyadic m e)

/-! ### Draws (R69) -/

/-- An LFSR at the start of an engine program (R69). -/
def lfsrInit (seed : BitVec 16) (l : Nat) : BitVec 16 :=
  let v := seed ^^^ BitVec.ofNat 16 (l * 0x0101)
  if v = 0 then 0xACE1#16 else v

/-- One shift of an LFSR: x^16 + x^14 + x^13 + x^11 + 1. -/
def lfsrShift (s : BitVec 16) : BitVec 16 :=
  (s >>> 1) ||| (((s ^^^ (s >>> 2) ^^^ (s >>> 3) ^^^ (s >>> 5)) &&& 1) <<< 15)

/-- `n` shifts. -/
def lfsrShifts : Nat → BitVec 16 → BitVec 16
  | 0, s => s
  | n + 1, s => lfsrShifts n (lfsrShift s)

/-- One step: sixteen shifts. -/
def lfsrStep (s : BitVec 16) : BitVec 16 := lfsrShifts 16 s

/-- The state after `n` steps. -/
def lfsrSteps : Nat → BitVec 16 → BitVec 16
  | 0, s => s
  | n + 1, s => lfsrSteps n (lfsrStep s)

/-! ### Exact sums and products -/

/-- The signed integer of a finite value in units of 2^u, u not above its exponent. -/
def scaled (s : Bool) (m : Nat) (e u : Int) : Int :=
  let v : Int := m * 2 ^ (e - u).toNat
  if s then -v else v

/-- The exact sum; an exact zero sum of values that are not both of one sign of zero is +0, or −0 under mode down. -/
def Num.add (mode : Nat) (x y : Num) : Num × Bool :=
  match x, y with
  | .nan _, _ => (.nan false, x.isSnan || y.isSnan)
  | _, .nan _ => (.nan false, y.isSnan)
  | .inf s, .inf t => if s = t then (.inf s, false) else (.nan false, true)
  | .inf s, _ => (.inf s, false)
  | _, .inf t => (.inf t, false)
  | .fin s m e, .fin t n g =>
    let u := if e < g then e else g
    let v := scaled s m e u + scaled t n g u
    if v = 0 then (.fin (if s = t then s else mode == 3) 0 0, false)
    else (.fin (decide (v < 0)) v.natAbs u, false)

/-- The exact product. -/
def Num.mul (x y : Num) : Num × Bool :=
  match x, y with
  | .nan _, _ => (.nan false, x.isSnan || y.isSnan)
  | _, .nan _ => (.nan false, y.isSnan)
  | .inf s, .inf t => (.inf (s != t), false)
  | .inf s, .fin t m _ => if m = 0 then (.nan false, true) else (.inf (s != t), false)
  | .fin s m _, .inf t => if m = 0 then (.nan false, true) else (.inf (s != t), false)
  | .fin s m e, .fin t n g => (.fin (s != t) (m * n) (e + g), false)

/-- Compare two values that are not NaNs. -/
def Num.lt (x y : Num) : Bool :=
  match x, y with
  | .inf s, .inf t => s && !t
  | .inf s, _ => s
  | _, .inf t => !t
  | .fin s m e, .fin t n g =>
    let u := if e < g then e else g
    decide (scaled s m e u < scaled t n g u)
  | _, _ => false

/-- Equality by value; a NaN equals nothing. -/
def Num.eqv (x y : Num) : Bool := !x.isNan && !y.isNan && !x.lt y && !y.lt x

/-- The floating layout of FP32. -/
def fp32 : FloatFmt := ⟨8, 23, 127, true⟩

/-- The sum of two FP32 words as an atomic engine forms it (R223): nearest-even, subnormals kept, +0 for +0 and −0. -/
def fp32Add (a b : Nat) : Nat :=
  (fp32.ofNum Rounding.plain ((Num.add 0 (decodeFloat fp32 false a) (decodeFloat fp32 false b)).1) 0).1

end Sys2Proof.Machine
end

