-- ==== Sys2Proof/Machine/Atomic.lean ====
section
/-! DEFINITION. The atomics (spec 10, R221 to R225) and what an atomic engine makes of a value. -/

namespace Sys2Proof.Machine

/-! ### The new value (Table 10-7) -/

/-- A value of a word or doubleword as signed. -/
def sval (word_ : Bool) (x : Word) : Int := if word_ then signedNat 32 x.toNat else x.toInt

/-- Cut a value to the width. -/
def cut (word_ : Bool) (x : Word) : Word := if word_ then word (x.toNat % 2 ^ 32) else x

/-- The new memory value; `m` and `opnd` are of the width (R222, R223). -/
def AtomOp.apply (op : AtomOp) (w : Bool) (m opnd new : Word) : Word :=
  cut w (match op with
    | .add => m + opnd
    | .and => m &&& opnd
    | .or => m ||| opnd
    | .xor => m ^^^ opnd
    | .min => if sval w opnd < sval w m then opnd else m
    | .max => if sval w m < sval w opnd then opnd else m
    | .minu => if opnd.toNat < m.toNat then opnd else m
    | .maxu => if m.toNat < opnd.toNat then opnd else m
    | .swap => opnd
    | .cas => if m = opnd then new else m
    | .inc => if m.toNat < opnd.toNat then m + 1 else m
    | .dec => if opnd.toNat < m.toNat then m - 1 else m
    | .fadd =>
      if w then word (fp32Add m.toNat opnd.toNat)
      else word (fp32Add (m.toNat / 2 ^ 32) (opnd.toNat / 2 ^ 32) * 2 ^ 32 +
        fp32Add (m.toNat % 2 ^ 32) (opnd.toNat % 2 ^ 32)))

/-- Is the old word sign-extended into the destination (R222)? -/
def AtomOp.signed : AtomOp → Bool
  | .minu => false | .maxu => false | .inc => false | .dec => false | .fadd => false | _ => true

/-! ### Instructions -/

/-- The body of a posted atomic (R224). -/
def postedBody (c : Ctx) (t : Attr) (op : AtomOp) (w : Bool) (a b : Int) (s : State) : Issued :=
  let s := s.marked c
  let ea := lo48 (s.reg c b)
  let n := if w then 4 else 8
  if !s.waitOk c t.wait || s.acqBlocked c then .stall s
  else if s.bufferFull c then .stall s
  else
    match s.checkData c ea n n t.cls 2 with
    | some r => r
    | none =>
      let tg := s.resolveC c ea .atom
      let opnd := cut w (s.reg c a)
      let new := if op = .cas then cut w (s.reg c (a + 1)) else 0
      let k := SbKind.atomic ea tg op w opnd new
      if s.countFull c t.cls k then .stall s
      else s.parkStore c tg 2 t.cls (sizeCode n) <|
        let s1 := s.acqDone c
        let s2 := match tg with | .bad kind => s1.logIssue c ea kind t.cls 2 n | _ => s1
        .ok ((s2.pairStore c ea opnd).enter c t.cls t.hint k)

/-- The body of a returning atomic (R202, R222). -/
def returningBody (c : Ctx) (t : Attr) (op : AtomOp) (w : Bool) (a b : Int) (l : BitVec 4) (s : State) : Issued :=
  let s := s.marked c
  let ea := lo48 (s.reg c b)
  let n := if w then 4 else 8
  if !s.waitOk c t.wait || s.acqBlocked c || decide (4 ≤ (s.fr c).outst.length) then .stall s
  else
    match s.checkData c ea n n t.cls 2 with
    | some r => r
    | none =>
      let opnd := cut w (s.reg c a)
      let new := if op = .cas then cut w (s.reg c (a + 1)) else 0
      let r := (s.acqDone c).access c t true (.atomic op w opnd new) ea n .atom
      .out (r.1.addOutst c ⟨r.2, [a.toNat], l.toNat, .int n op.signed, t.cls, true, c.site⟩) r.2

/-- An atomic (R221 to R224); `acas` also names g[a+1]. -/
def atomInstr (s : State) (op : AtomOp) (r : Rel) (t : Attr) (f : AtomForm) (a b : RegNum) (l : BitVec 4) : Out :=
  withGroup s fun c =>
    let A := s.regNo c r a; let B := s.regNo c r b
    let touched := [A, B] ++ (if op = .cas then [A + 1] else [])
    if f.posted then
      issue s c (if t.wait = .none then .no else s.gateForce c) touched [] (postedBody c t op f.word A B)
    else issueRW s c .both touched [A] (returningBody c t op f.word A B l)

/-- R222. -/
def execAadd (r : Rel) (t : Attr) (f : AtomForm) (a b : RegNum) (l : BitVec 4) (s : State) : Out := atomInstr s .add r t f a b l
/-- R222. -/
def execAand (r : Rel) (t : Attr) (f : AtomForm) (a b : RegNum) (l : BitVec 4) (s : State) : Out := atomInstr s .and r t f a b l
/-- R222. -/
def execAor (r : Rel) (t : Attr) (f : AtomForm) (a b : RegNum) (l : BitVec 4) (s : State) : Out := atomInstr s .or r t f a b l
/-- R222. -/
def execAxor (r : Rel) (t : Attr) (f : AtomForm) (a b : RegNum) (l : BitVec 4) (s : State) : Out := atomInstr s .xor r t f a b l
/-- R222. -/
def execAmin (r : Rel) (t : Attr) (f : AtomForm) (a b : RegNum) (l : BitVec 4) (s : State) : Out := atomInstr s .min r t f a b l
/-- R222. -/
def execAmax (r : Rel) (t : Attr) (f : AtomForm) (a b : RegNum) (l : BitVec 4) (s : State) : Out := atomInstr s .max r t f a b l
/-- R222. -/
def execAminu (r : Rel) (t : Attr) (f : AtomForm) (a b : RegNum) (l : BitVec 4) (s : State) : Out := atomInstr s .minu r t f a b l
/-- R222. -/
def execAmaxu (r : Rel) (t : Attr) (f : AtomForm) (a b : RegNum) (l : BitVec 4) (s : State) : Out := atomInstr s .maxu r t f a b l
/-- R222. -/
def execAswap (r : Rel) (t : Attr) (f : AtomForm) (a b : RegNum) (l : BitVec 4) (s : State) : Out := atomInstr s .swap r t f a b l
/-- R222. -/
def execAcas (r : Rel) (t : Attr) (f : AtomForm) (a b : RegNum) (l : BitVec 4) (s : State) : Out := atomInstr s .cas r t f a b l
/-- R222. -/
def execAinc (r : Rel) (t : Attr) (f : AtomForm) (a b : RegNum) (l : BitVec 4) (s : State) : Out := atomInstr s .inc r t f a b l
/-- R222. -/
def execAdec (r : Rel) (t : Attr) (f : AtomForm) (a b : RegNum) (l : BitVec 4) (s : State) : Out := atomInstr s .dec r t f a b l
/-- R223. -/
def execAfadd (r : Rel) (t : Attr) (f : AtomForm) (a b : RegNum) (l : BitVec 4) (s : State) : Out := atomInstr s .fadd r t f a b l

end Sys2Proof.Machine
end

