-- ==== Sys2Proof/Machine/Front.lean ====
section
/-! DEFINITION. Pareto fronts (spec 10, R226 to R243): the front object, insertion, overflow and spilling as an atomic
engine performs them, and the front instructions. -/

namespace Sys2Proof.Machine

/-! ### The object (Tables 10-9 to 10-12) -/

/-- A tuple (Table 10-12). -/
structure Tuple where
  keys    : List (BitVec 32)
  payload : BitVec 32
  deriving DecidableEq, Repr

/-- A front as an engine holds it. -/
structure Front where
  config   : Word
  ring     : Word
  ovfn     : Nat
  lostf    : Bool
  ovf      : Bool
  count    : Nat
  inserts  : Word
  evicts   : Word
  discards : Word
  slots    : List Tuple
  deriving DecidableEq, Repr

/-- Keys of the front. -/
def Front.nkeys (f : Front) : Nat := bits f.config 1 0 + 1
/-- KIND. -/
def Front.kind (f : Front) : Nat := bits f.config 3 2
/-- DIR. -/
def Front.dir (f : Front) : Nat := bits f.config 7 4
/-- CAP. -/
def Front.cap (f : Front) : Nat := bits f.config 13 8 + 1
/-- VALID. -/
def Front.valid (f : Front) : Bool := bitAt f.config 31

/-- Are the reserved bits of a CONFIG zero, its KIND below 3 and its DIR within its keys? -/
def configOk (c : Word) : Bool :=
  bits c 63 32 == 0 && bits c 30 20 == 0 && bits c 15 14 == 0 && bits c 3 2 != 3 &&
    bits c 7 4 / 2 ^ (bits c 1 0 + 1) == 0

/-- A front that is not VALID or is malformed (R236). -/
def Front.bad (f : Front) : Bool := !f.valid || !configOk f.config || decide (f.cap < f.count)

/-- STATUS (Table 10-11). -/
def Front.status (f : Front) : Word := word (f.ovfn * 2 ^ 32 + flag f.lostf * 2 ^ 9 + flag f.ovf * 2 ^ 8 + f.count)

/-- The 48 bytes of header that carry fields (Table 10-9). -/
def Front.header (f : Front) : List Byte := wordsBytes [f.config, f.ring, f.status, f.inserts, f.evicts, f.discards]

/-- A tuple record (Table 10-12). -/
def Tuple.record (t : Tuple) : List Byte :=
  ((List.range 4).flatMap (fun i => leBytes 4 ((t.keys[i]?).getD 0).toNat)) ++ leBytes 4 t.payload.toNat ++
    List.replicate 12 0

/-- A tuple from its record. -/
def tupleOf (bs : List Byte) : Tuple :=
  ⟨(List.range 4).map (fun i => BitVec.ofNat 32 (leNat ((bs.drop (4 * i)).take 4))),
   BitVec.ofNat 32 (leNat ((bs.drop 16).take 4))⟩

/-- A front from its header, without slots. -/
def frontOf (bs : List Byte) : Front :=
  let w := fun i => word (leNat ((bs.drop (8 * i)).take 8))
  ⟨w 0, word ((w 1).toNat % 2 ^ 48), bits (w 2) 63 32, bitAt (w 2) 9, bitAt (w 2) 8, bits (w 2) 6 0, w 3, w 4, w 5, []⟩

/-- A key as the front keeps it: sign-extended under KIND 0 (R227). -/
def Front.key (f : Front) (k : BitVec 32) : BitVec 32 := if f.kind = 0 then (k.setWidth 16).signExtend 32 else k

/-- A tuple as the front keeps it: keys above KEYSM1 are zero (R227). -/
def Front.normal (f : Front) (t : Tuple) : Tuple :=
  { t with keys := (List.range 4).map (fun i => if i < f.nkeys then f.key ((t.keys[i]?).getD 0) else 0) }

/-! ### Comparison (R228) -/

/-- Is key `a` below key `b` by value? -/
def Front.keyLt (f : Front) (a b : BitVec 32) : Bool :=
  if f.kind = 2 then (decodeFloat fp32 false a.toNat).lt (decodeFloat fp32 false b.toNat)
  else decide (a.toInt < b.toInt)

/-- Is `a` better than `b` on key `i`? -/
def Front.better (f : Front) (i : Nat) (a b : BitVec 32) : Bool :=
  if f.dir / 2 ^ i % 2 = 1 then f.keyLt b a else f.keyLt a b

/-- The key of a tuple. -/
def Tuple.at_ (t : Tuple) (i : Nat) : BitVec 32 := (t.keys[i]?).getD 0

/-- Does `t` dominate `u`? -/
def Front.dominates (f : Front) (t u : Tuple) : Bool :=
  (List.range f.nkeys).all (fun i => !f.better i (u.at_ i) (t.at_ i)) &&
    (List.range f.nkeys).any (fun i => f.better i (t.at_ i) (u.at_ i))

/-- Are two tuples equal on every key? -/
def Front.equal (f : Front) (t u : Tuple) : Bool :=
  (List.range f.nkeys).all (fun i => !f.better i (u.at_ i) (t.at_ i) && !f.better i (t.at_ i) (u.at_ i))

/-- Has the tuple a NaN key? -/
def Front.invalid (f : Front) (t : Tuple) : Bool :=
  f.kind == 2 && (List.range f.nkeys).any (fun i => (decodeFloat fp32 false (t.at_ i).toNat).isNan)

/-! ### Insertion (R229, R230) -/

/-- What an insertion answers (Table 10-16): outcome, slot, evicted, overflow; `spill` asks for the ring. -/
structure Inserted where
  front   : Front
  outcome : Nat
  slot    : Nat
  evicted : Nat
  ovf     : Bool
  spill   : Bool
  deriving DecidableEq, Repr

/-- Discard the offered tuple. -/
def Front.discard (f : Front) (outcome : Nat) (ovf : Bool) : Inserted :=
  ⟨{ f with discards := f.discards + 1 }, outcome, 0, 0, ovf, false⟩

/-- Overflow under the front's POLICY (R230). -/
def Front.overflow (f : Front) (t : Tuple) : Inserted :=
  let f := { f with ovfn := sat32 (f.ovfn + 1) }
  match bits f.config 17 16 with
  | 0 => f.discard 3 true
  | 1 =>
    let k := bits f.config 19 18
    let w := (f.slots.map (fun u => u.at_ k)).foldl (fun acc x => if f.better k acc x then x else acc) (t.at_ k)
    let same := fun (x : BitVec 32) => !f.better k x w && !f.better k w x
    if same (t.at_ k) then f.discard 3 true
    else
      match (List.range f.slots.length).reverse.find? (fun i => same (((f.slots[i]?).getD ⟨[], 0⟩).at_ k)) with
      | none => f.discard 3 true
      | some i =>
        let sl := f.slots.eraseIdx i ++ [t]
        ⟨{ f with slots := sl, count := sl.length, inserts := f.inserts + 1, evicts := f.evicts + 1 }, 0, sl.length - 1,
          1, true, false⟩
  | 2 => { f with ovf := true }.discard 3 true
  | _ => ⟨f, 4, 0, 0, true, true⟩

/-- Insert a tuple that the front keeps as `t` (R229). -/
def Front.insert (f : Front) (t : Tuple) : Inserted :=
  if f.invalid t then f.discard 6 false
  else
    match f.slots.find? (fun u => f.dominates u t || f.equal u t) with
    | some u => f.discard (if f.dominates u t then 1 else 2) false
    | none =>
      let keep := f.slots.filter (fun u => !f.dominates t u)
      let ev := f.slots.length - keep.length
      if keep.length = f.cap then f.overflow t
      else
        let sl := keep ++ [t]
        ⟨{ f with slots := sl, count := sl.length, inserts := f.inserts + 1, evicts := f.evicts + word ev }, 0,
          sl.length - 1, ev, false, false⟩

/-- Writes of some bytes from an address on. -/
def frontWrites (va : Nat) (bs : List Byte) (own : Bool) : List FrontWrite :=
  ((pieces bs.length va bs.length).foldl
    (fun (acc : List FrontWrite × List Byte) p => (acc.1 ++ [⟨p.1, acc.2.take p.2, own⟩], acc.2.drop p.2)) ([], bs)).1

/-- What a spill does to the ring header, as words LOG2N and BASE, WR, RD, LOST, and the writes that it asks for, in order: WR moves on once
the record has been performed (R231). It answers 4, or 5 where the tuple is lost. -/
def Front.spill (f : Front) (t : Tuple) (hd wr rd lost : Word) : Front × Nat × List Word × List FrontWrite :=
  let ring := f.ring.toNat
  let log2n := bits hd 63 56
  let gone := { f with lostf := true, discards := f.discards + 1 }
  if 24 < log2n then (gone, 5, [hd, wr, rd, lost], [])
  else if 2 ^ log2n ≤ (wr - rd).toNat then
    (gone, 5, [hd, wr, rd, lost + 1], frontWrites (ring + 24) (leBytes 8 (lost + 1).toNat) false)
  else
    (f, 4, [hd, wr + 1, rd, lost],
      frontWrites ((bits hd 47 0 + 32 * (wr.toNat % 2 ^ log2n)) % 2 ^ 48) t.record false ++
        frontWrites (ring + 8) (leBytes 8 (wr + 1).toNat) false)

/-- What an operation has of the spill ring: its header once read, and the writes asked for so far. -/
structure Spilling where
  header : Option (List Word)
  writes : List FrontWrite

/-- An insertion with its spill. -/
def Front.offer (w : Who) (f : Front) (t : Tuple) (r : Spilling) : M (Inserted × Spilling) := do
  let q := f.insert (f.normal t)
  if q.spill then
    let h ← match r.header with | some h => pure h | none => readWords w f.ring.toNat 4 .r
    let p := q.front.spill (f.normal t) ((h[0]?).getD 0) ((h[1]?).getD 0) ((h[2]?).getD 0) ((h[3]?).getD 0)
    pure ({ q with front := p.1, outcome := p.2.1, spill := false }, ⟨some p.2.2.1, r.writes ++ p.2.2.2⟩)
  else pure (q, r)

/-! ### The operations at an engine (R235 to R242) -/

/-- The result word (Table 10-15). -/
def frontResult (outcome : Nat) (ovf : Bool) (slot evicted count nins ndisc nspill : Nat) : Word :=
  word (nspill * 2 ^ 48 + ndisc * 2 ^ 40 + nins * 2 ^ 32 + count * 2 ^ 24 + evicted * 2 ^ 16 + slot * 2 ^ 8 +
    flag ovf * 2 ^ 4 + outcome)

/-- Load a front: its header and, where it is well formed, its tuples as it keeps them (R227, R233, R236). -/
def loadFront (w : Who) (va : Nat) (need : Need) : M Front := do
  let bs ← readVa w va 48 need
  let f := frontOf bs
  if f.bad then pure f
  else
    let sl ← readVa w (va + 64) (32 * f.count) need
    pure { f with slots := (List.range f.count).map (fun i => f.normal (tupleOf ((sl.drop (32 * i)).take 32))) }

/-- The writes of a front's header and tuples. -/
def Front.saved (f : Front) (va : Nat) : List FrontWrite :=
  frontWrites va f.header true ++ frontWrites (va + 64) (f.slots.flatMap Tuple.record) true

/-- An operation that writes nothing. -/
def FrontRun.answer (ws : List Word) : FrontRun := ⟨[], [], ws⟩

/-- `fcfg` (R237). -/
def frontCfg (w : Who) (va : Nat) (c r : Word) : M FrontRun := do
  let ring := word (r.toNat % 2 ^ 48)
  let _ ← readVa w va 48 .atom
  if !configOk c || (bits c 17 16 == 1 && decide (bits c 1 0 < bits c 19 18)) ||
      (bits c 17 16 == 3 && (ring == 0 || ring.toNat % 32 != 0)) then
    pure (.answer [word 8])
  else
    pure ⟨frontWrites va (wordsBytes [c ||| word (2 ^ 31), if bits c 17 16 = 3 then ring else 0, 0, 0, 0, 0]) true, [], [0]⟩

/-- `fins` (R238). -/
def frontIns (w : Who) (va : Nat) (a0 a1 a2 : Word) : M FrontRun := do
  let f ← loadFront w va .atom
  if f.bad then pure (.answer [word 7])
  else
    let half := fun (x : Word) (h : Bool) => if h then x.extractLsb' 32 32 else x.extractLsb' 0 32
    let t : Tuple := ⟨[half a0 false, half a0 true, half a1 false, half a1 true], half a2 false⟩
    let q ← f.offer w t ⟨none, []⟩
    let r := q.1
    pure ⟨r.front.saved va ++ q.2.writes, [], [frontResult r.outcome r.ovf r.slot r.evicted r.front.count 0 0 0]⟩

/-- The sums of a merge (R239). -/
structure MergeSums where
  front   : Front
  ring    : Spilling
  nins    : Nat
  ndisc   : Nat
  nspill  : Nat
  evicted : Nat
  ovf     : Bool

/-- `fmerge` (R239). Whether NDISC, the tuples not inserted, also counts those that NSPILL counts is not stated: it does not (DESIGN
CHOICE, log 66). -/
def frontMerge (w : Who) (src dst : Nat) : M FrontRun := do
  let f ← loadFront w src .srcMerge
  let d ← loadFront w dst .atom
  if f.bad || d.bad then pure (.answer [word 7])
  else if f.nkeys != d.nkeys || f.kind != d.kind || f.dir != d.dir then pure (.answer [word 8])
  else
    let r ← f.slots.foldlM (fun (acc : MergeSums) t => do
      let o ← acc.front.offer w t acc.ring
      let q := o.1
      let spilled := q.outcome == 4 || q.outcome == 5
      pure { front := q.front, ring := o.2, nins := acc.nins + flag (q.outcome == 0),
             ndisc := acc.ndisc + flag (q.outcome != 0 && !spilled), nspill := acc.nspill + flag spilled,
             evicted := acc.evicted + q.evicted, ovf := acc.ovf || q.ovf }) ⟨d, ⟨none, []⟩, 0, 0, 0, 0, false⟩
    pure ⟨r.front.saved dst ++ r.ring.writes, [],
      [frontResult 0 r.ovf 0 r.evicted r.front.count r.nins r.ndisc r.nspill]⟩

/-- `frd` (R240): the records are written in slot order. -/
def frontRd (w : Who) (va to_ : Nat) : M FrontRun := do
  let f ← loadFront w va .atom
  if f.bad then pure (.answer [word 7])
  else pure ⟨frontWrites to_ (f.slots.flatMap Tuple.record) false, [], [frontResult 0 false 0 0 f.count 0 0 0]⟩

/-- `fclr` (R241). -/
def frontClr (w : Who) (va : Nat) : M FrontRun := do
  let bs ← readVa w va 48 .atom
  let f := frontOf bs
  if !f.valid then pure (.answer [word 7])
  else pure ⟨frontWrites (va + 16) (List.replicate 32 0) true, [], [frontResult 0 false 0 0 f.count 0 0 0]⟩

/-- `fstat` (R242). -/
def frontStat (w : Who) (va : Nat) : M FrontRun := do
  let bs ← readVa w va 48 .atom
  let ws := bytesWords 6 bs
  pure (.answer [(ws[2]?).getD 0, (ws[0]?).getD 0])

/-- A front operation on the object at an address, up to the writes that it asks for: one operation at the engine (R229, R239, R240). -/
def FrontOp.plan (op : FrontOp) (w : Who) (va : Nat) (a0 a1 a2 : Word) : M FrontRun :=
  match op with
  | .cfg => frontCfg w va a0 a1
  | .ins => frontIns w va a0 a1 a2
  | .merge => frontMerge w (lo48 a0).toNat va
  | .rd => frontRd w va (lo48 a0).toNat
  | .clr => frontClr w va
  | .stat => frontStat w va

/-! ### Instructions (R234) -/

/-- The body of a front instruction; `frd`'s target is aligned to 32 (R240). -/
def frontBody (c : Ctx) (t : Attr) (op : FrontOp) (a b : Int) (dests : List Int) (l : BitVec 4) (s : State) : Issued :=
  let s := s.marked c
  let ea := lo48 (s.reg c b)
  if !s.waitOk c t.wait || s.acqBlocked c || decide (4 ≤ (s.fr c).outst.length) then .stall s
  else
    match s.checkData c ea 64 64 t.cls 2 with
    | some r => r
    | none =>
      if op = .rd ∧ (s.reg c a).toNat % 32 ≠ 0 then .trap 0x08 (addrWord (lo48 (s.reg c a)))
      else
        let m := MemOp.front op (s.reg c a) (if op = .cfg ∨ op = .ins then s.reg c (a + 1) else 0)
          (if op = .ins then s.reg c (a + 2) else 0) (t.hint == 1)
        let r := (s.acqDone c).access c t true m ea 64 .atom
        .out (r.1.addOutst c ⟨r.2, dests.map Int.toNat, l.toNat, .regs, t.cls, false, c.site⟩) r.2

/-- A front instruction with the registers of Table 10-14. -/
def frontInstr (s : State) (op : FrontOp) (r : Rel) (t : Attr) (a b : RegNum) (l : BitVec 4) : Out :=
  withGroup s fun c =>
    let A := s.regNo c r a; let B := s.regNo c r b
    let implied := match op with | .cfg => [A + 1] | .ins => [A + 1, A + 2] | .stat => [A + 1] | _ => []
    let dests := if op = .stat then [A, A + 1] else [A]
    let go := if op = .clr ∨ op = .stat then issue s c .both else issueRW s c .both
    go ([A, B] ++ implied) dests (frontBody c t op A B dests l)

/-- R237. -/
def execFcfg (r : Rel) (t : Attr) (a b : RegNum) (l : BitVec 4) (s : State) : Out := frontInstr s .cfg r t a b l
/-- R238. -/
def execFins (r : Rel) (t : Attr) (a b : RegNum) (l : BitVec 4) (s : State) : Out := frontInstr s .ins r t a b l
/-- R239. -/
def execFmerge (r : Rel) (t : Attr) (a b : RegNum) (l : BitVec 4) (s : State) : Out := frontInstr s .merge r t a b l
/-- R240. -/
def execFrd (r : Rel) (t : Attr) (a b : RegNum) (l : BitVec 4) (s : State) : Out := frontInstr s .rd r t a b l
/-- R241. -/
def execFclr (r : Rel) (t : Attr) (a b : RegNum) (l : BitVec 4) (s : State) : Out := frontInstr s .clr r t a b l
/-- R242. -/
def execFstat (r : Rel) (t : Attr) (a b : RegNum) (l : BitVec 4) (s : State) : Out := frontInstr s .stat r t a b l

end Sys2Proof.Machine
end

