-- ==== Sys2Proof/Machine/MemEvents.lean ====
section
/-! DEFINITION. The steps of the memory system: the store buffer, owning ports, acknowledgements, atomic engines,
translation agents, page faults, and the completion of long-latency instructions (spec 09, 10; R188, R192, R203, R204,
R212, R233, R330, R331). A step whose condition does not hold leaves the state as it is (log 6). -/

namespace Sys2Proof.Machine

/-- A step that happens if its condition holds (log 6). -/
def happen (s : State) (r : Option State) : Out := .next (r.getD s)

/-! ### Sending store-buffer entries (R188, R202) -/

/-- The owning port of an entry on the die, as a number: a memory port, or an atomic engine (R188, R224). -/
def SbEntry.port (e : SbEntry) : Nat :=
  match e.kind with
  | .store _ (.sram a) _ _ => (ownerCell a).getD 0
  | .atomic _ (.sram a) _ _ _ _ => cellCount + clusterOf ((ownerCell a).getD 0)
  | _ => cellCount + 256

/-- Is an entry a class-O store or posted atomic whose owner lies on the die of its cell? -/
def SbEntry.ordered (e : SbEntry) (cell : Nat) : Bool :=
  match e.kind with
  | .store _ t _ _ => e.cls == .o && onDie cell t
  | .atomic _ t _ _ _ _ => e.cls == .o && onDie cell t
  | _ => false

/-- The access that an entry becomes when it is sent. -/
def State.entryFlight (s : State) (cell : Nat) (e : SbEntry) : Option Flight :=
  let mk := fun (va : Addr) (t t2 : Target) (op : MemOp) =>
    let st : FlightStage := match t with
      | .bad k => .answered (.err ⟨k, va⟩)
      | .fabric _ _ _ => .leaving
      | .host _ _ => .leaving
      | _ => .going
    some ⟨.act e.act, cell, (s.cell cell).field, e.cls, op, va, t, t2, true, e.hint, e.site, none, e.seq, st⟩
  match e.kind with
  | .store va t t2 bs => mk va t t2 (.store bs)
  | .atomic va t op w o n => mk va t t (.atomic op w o n)
  | _ => none

/-- The first entry that has not been sent, with its place. -/
def firstUnsent (es : List SbEntry) : Option (Nat × SbEntry) :=
  match es.findIdx? (fun e => !e.sent) with
  | some i => (es[i]?).map (fun e => (i, e))
  | none => none

/-- The buffer once the entries at its head that await nothing more have left it: entries leave in FIFO order, so that one sent behind
an entry that awaits its acknowledgement leaves after it (R187, R188; log 20). -/
def leaveInOrder (es : List SbEntry) : List SbEntry := es.dropWhile (fun e => e.sent && e.flight == 0)

/-- Places of an engine queue (R244). -/
def queueSize : Nat := 16

/-- Entries of the store buffer (R187). -/
def sbSize : Nat := 16

/-- Send the head entry of a cell's store buffer, or pass a copy to its queue (R188, R244). What has been released from a gated buffer
takes a place as one comes free (R414; log 20). -/
def State.sendEntry (s : State) (c : Nat) : Option State :=
  let x := s.cell c
  match firstUnsent (x.sb.take sbSize) with
  | none => none
  | some (i, e) =>
    match e.kind with
    | .copy k =>
      if i = 0 ∧ x.streamer.queue.length < queueSize then
        some (s.setCell c { x with sb := x.sb.eraseIdx i,
                                   streamer := { x.streamer with queue := x.streamer.queue ++ [.copy k] } })
      else none
    | .fork _ => none
    | _ =>
      let inOrder := !e.ordered c || (x.sb.take i).all (fun o => o.flight == 0 || o.port == e.port)
      if inOrder then
        match s.entryFlight c e with
        | none => none
        | some fl =>
          let r := s.launchFlight fl
          some (r.1.modCell c (fun y => { y with
            sb := if e.ordered c then y.sb.set i { e with sent := true, flight := r.2 }
              else leaveInOrder (y.sb.set i { e with sent := true }) }))
      else none

/-- STORE_BUFFER_SEND (R188). -/
def execStoreBufferSend (c : Nat) (s : State) : Out := happen s (s.sendEntry c)

/-! ### Ordering at the owning ports (R186, R190) -/

/-- The owning port that an access goes to: a memory port; a far-memory channel, which bits [13:8] of the address within its page name
(R329); a node of the fabric. -/
def Flight.portOf (f : Flight) : Nat × Nat :=
  match f.target with
  | .sram a => (0, (ownerCell a).getD 0)
  | .far va => (1, va.toNat / 256 % 64)
  | .fabric d _ _ => (2, d)
  | .host n _ => (2, n)
  | .bad _ => (3, 0)

/-- Is the access a plain load or store? -/
def MemOp.plain : MemOp → Bool
  | .load _ => true
  | .store _ => true
  | .fetch => true
  | _ => false

/-- Is the access a load? -/
def MemOp.isLoad : MemOp → Bool
  | .load _ => true
  | _ => false

/-- Has an earlier class-O message of a cell to the cell of an access not arrived (R186)? -/
def State.messageBefore (s : State) (x : Nat) (f : Flight) : Bool :=
  match f.target with
  | .sram a => s.msgs.any (fun p => decide (p.1 < x) && p.2.msg.cls == .o && !p.2.msg.hub && p.2.from_ == s.gca f.cell &&
      p.2.msg.dst == s.gca ((ownerCell a).getD 0))
  | _ => false

/-- The slot of the checked activation that an access is part of. -/
def State.flightChecked (s : State) (f : Flight) : Option Nat :=
  match f.issuer with
  | .act a => match (s.act a).slot with | some sl => if AL.has (s.cell f.cell).pairs sl then some sl else none | none => none
  | _ => none

/-- Is an access a load that a store still in the buffer meets, so that it is not on its way to its owning port (R189)? -/
def State.unsentLoad (s : State) (f : Flight) : Bool :=
  match f.op with
  | .load n => forward (s.olderEntries f.cell (s.flightChecked f) f.order) (accessPieces f.target f.second n) != .none
  | _ => false

/-- Must an earlier access or message of its cell be performed or arrive first: one of class O sent earlier to the same owning port
(R186), or a class-O load of the same activation on the die that stands earlier in program order (R190)? -/
def State.behind (s : State) (x : Nat) (f : Flight) : Bool :=
  f.cls == .o && (s.messageBefore x f || s.flights.any (fun p =>
    p.1 != x && (p.2.stage == .going || p.2.stage == .faulted) && p.2.cls == .o && p.2.cell == f.cell && p.2.op.plain &&
      ((decide (p.1 < x) && p.2.portOf == f.portOf && !s.unsentLoad p.2) ||
        (decide (p.2.order < f.order) && p.2.issuer == f.issuer && p.2.op.isLoad && onDie f.cell p.2.target && onDie f.cell f.target))))

/-- Is every translation that an access needs in its agent's cache? -/
def State.translated (s : State) (f : Flight) : Bool :=
  let ok := fun (t : Target) => match t with | .far va => (s.cachedLeaf f.field va.toNat).isSome | _ => true
  ok f.target && ok f.second

/-- The flat addresses of an access, where they are known. -/
def State.flatsOf (s : State) (f : Flight) : List Nat :=
  let one := fun (t : Target) => match t with
    | .sram a => [a]
    | .far va =>
      match s.cachedLeaf f.field va.toNat with
      | some l => [farAddr (l.pa + (va.toNat - l.va))]
      | none => []
    | _ => []
  one f.target ++ one f.second

/-- The bytes of a front object by its header (R226). -/
def State.frontSize (s : State) (obj : Nat) : Nat := 64 + 32 * (bits (word (leNat (s.mem.bytes obj 8))) 13 8 + 1)

/-- The lines of an object of `n` bytes at an address, as far as the agents hold its translations (R226, R233). -/
def State.objectLines (s : State) (w : Who) (va n : Nat) : List Nat :=
  (List.range ((n + 63) / 64)).filterMap (fun i =>
    (s.flatNow w.field (resolve w.segs w.window (va + 64 * i) .atom)).map (fun a => a / 64))

/-- Is a plain access held until an engine has written a resident front back (R233)? -/
def State.heldByFront (s : State) (f : Flight) : Bool :=
  (s.flatsOf f).any (fun a => s.atomics.any (fun e => e.2.fronts.any (fun r => r.lines.contains (a / 64))))

/-! ### Performing at the owning port (R182, R183) -/

/-- Who a store is to a race record (R398). -/
def State.raceBy (s : State) (f : Flight) : RaceBy :=
  match f.issuer with
  | .act a => ⟨s.gca f.cell, (s.act a).slot0, (s.act a).dseq, f.cls, false, false,
      match f.op with | .store bs => some (sizeCode bs.length) | _ => none⟩
  | _ => ⟨(s.flightSrc f).1, 0, 0, f.cls, false, true, some 5⟩

/-- The violation entry of an access. -/
def State.violationOf (s : State) (f : Flight) (va : Addr) (kind : Nat) : Violation :=
  let r := match f.op with
    | .load n => (0, n) | .fetch => (3, 64) | .store bs => (1, bs.length)
    | .atomic _ w _ _ => (2, if w then 4 else 8) | .front _ _ _ _ _ => (2, 64) | .credit _ => (2, 16)
  let copy := match f.issuer with | .copy _ _ => true | .line (.chunk _ _) => true | _ => false
  let xfer := match f.issuer with | .transfer _ => true | .line (.transfer _) => true | _ => false
  let op := if copy then (if r.1 = 1 then 5 else 4) else if xfer then 6 else r.1
  ⟨va, kind, f.cls, op, if copy then 5 else sizeCode r.2, (s.flightSrc f).1, s.time24⟩

/-- A stage from what a port answered; an uncorrectable word is consumed (R407). -/
def State.settle (s : State) (f : Flight) (va : Addr) (r : PortAnswer) : Option (FlightStage × State) :=
  match r with
  | .ok bs => some (.answered (.data bs), s)
  | .err k => some (.answered (.err ⟨k, va⟩), s)
  | .poison a => some (.withheld, s.consume a (s.gca f.cell) (some f.field))
  | .miss => none

/-- The engine that holds a line hot performs a plain access to it in its order, where it is then the most recently used (R204). -/
def State.plainDone (s : State) (f : Flight) : State := (s.plainTo (fun _ => false) f.field f.target).plainTo (fun _ => false) f.field f.second

/-- Read both halves of a load, in one step: that a reader may observe one half of a pair without the other (R183) is what the model leaves
out (DESIGN CHOICE, log 65). -/
def State.portLoad (s : State) (f : Flight) (n : Nat) : Option (FlightStage × State) :=
  let n1 := min n 8
  let r1 := s.readTarget f.field f.target n1 .r (s.violationOf f f.va)
  match r1.1 with
  | .ok bs1 =>
    if n ≤ 8 then s.settle f f.va r1.1
    else
      let r2 := r1.2.readTarget f.field f.second (n - 8) .r (s.violationOf f (f.va + 8))
      match r2.1 with
      | .ok bs2 => r2.2.settle f f.va (.ok (bs1 ++ bs2))
      | r => r2.2.settle f (f.va + 8) r
  | r => r1.2.settle f f.va r

/-- Write both halves of a store, in one step as well (DESIGN CHOICE, log 65). -/
def State.portStore (s : State) (f : Flight) (bs : List Byte) : Option (FlightStage × State) :=
  let by_ := some (s.raceBy f)
  let r1 := s.writeTarget f.field f.target (bs.take 8) by_ (s.violationOf f f.va)
  match r1.1 with
  | .ok _ =>
    if bs.length ≤ 8 then r1.2.settle f f.va (.ok [])
    else
      let sameLine := match f.target, f.second with | .sram a, .sram b => a / 64 == b / 64 | _, _ => false
      let r2 := r1.2.writeTarget f.field f.second (bs.drop 8) (if sameLine then none else by_) (s.violationOf f (f.va + 8))
      match r2.1 with
      | .ok _ => r2.2.settle f f.va (.ok [])
      | r => r2.2.settle f (f.va + 8) r
  | r => r1.2.settle f f.va r

/-- Does an access go to another device or the host? -/
def Flight.outside (f : Flight) : Bool :=
  match f.target with | .fabric _ _ _ => true | .host _ _ => true | _ => false

/-- A returning atomic or a front operation of another device or the host leaves its cell when every older entry of the store buffer has been
sent (R202, R234). -/
def State.depart (s : State) (x : Nat) (f : Flight) : Option State :=
  let go := some ({ s.modFlight x (fun g => { g with stage := .leaving }) with nextId := s.nextId + 1 }.sendPacketAs s.nextId
    (s.accessPacket x { f with stage := .leaving }))
  let older := s.olderEntries f.cell (s.flightChecked f) f.order
  if f.op.plain || older.all (fun e => e.sent) then go else none

/-- Perform a plain access at its owning port, or forward a load from an older entry (R182, R189); one to another device or the host
leaves the cell. -/
def State.performAccess (s : State) (x : Nat) : Option State :=
  match AL.find s.flights x with
  | none => none
  | some f =>
    if f.stage = .going ∧ f.outside then s.depart x f
    else if f.stage = .going ∧ f.op.plain ∧ !s.behind x f ∧ s.translated f ∧ !s.heldByFront f then
      let done := fun (r : FlightStage × State) => some (r.2.modFlight x (fun g => { g with stage := r.1 }))
      match f.op with
      | .store bs => (s.portStore f bs).bind (fun r => done (r.1, r.2.plainDone f))
      | .load n =>
        match forward (s.olderEntries f.cell (s.flightChecked f) f.order) (accessPieces f.target f.second n) with
        | .data bs => done (.answered (.data bs), s)
        | .wait => none
        | .none => (s.portLoad f n).bind (fun r => done (r.1, r.2.plainDone f))
      | _ => none
    else none

/-- ACCESS_PERFORMED (R182). -/
def execAccessPerformed (x : Nat) (s : State) : Out := happen s (s.performAccess x)

/-! ### Translation and page faults (R330, R331) -/

/-- The operation of a page fault, as Table 9-4 numbers operations. -/
def MemOp.faultOp : MemOp → Nat
  | .load _ => 0 | .store _ => 1 | .atomic _ _ _ _ => 2 | .front _ _ _ _ _ => 2 | .fetch => 3 | .credit _ => 2

/-- Park the activation of an access (R331). -/
def State.parkFor (s : State) (f : Flight) : State :=
  match f.issuer with
  | .act a =>
    match (s.act a).slot with
    | some sl =>
      if !f.posted && (s.frame f.cell sl).life == .running then
        (s.modFrame f.cell sl (fun r => { r with life := .parked })).offerSlot f.cell sl 7 0 0
      else s
    | none => s
  | _ => s

/-- A page that a walk finds non-resident faults for an access: it parks its activation or is held at the agent (R330, R331). -/
def State.faultFlight (s : State) (x : Nat) (f : Flight) (va : Nat) : State :=
  let size := (s.violationOf f f.va 2).size
  let r := s.pageFault f.field va f.op.faultOp (.flight x) f.cls size
  (r.1.modFlight x (fun g => { g with stage := .faulted })).parkFor f

/-- The accesses that have joined the walk of a page (R330). -/
def State.joined (s : State) (w : Walk) : List (Nat × Flight × Nat) :=
  s.flights.filterMap (fun p =>
    if p.2.stage == .going && p.2.field == w.field then
      (match s.missing p.2 with | some va => if va / 65536 = w.page then some (p.1, p.2, va) else none | none => none)
    else none)

/-- A walk ends for an access: the leaf is cached, or the page is not resident, which faults for every access that has joined it (R330, R331);
an uncorrectable word that it meets is consumed by the agent (R409). -/
def State.endWalk (s : State) (x : Nat) (f : Flight) (va : Nat) : State :=
  let w : Walk := ⟨f.field, va / 65536⟩
  match s.translate f.field va .r (some (.flight x)) with
  | (.notResident, s2) => (s2.joined w).foldl (fun t p => t.faultFlight p.1 p.2.1 p.2.2) s2
  | (.poison a, s2) =>
    ((s2.walkDone f.field va none).consume a (s.gca f.cell) (some f.field) (some (agentOf va))).modFlight x
      (fun g => { g with stage := .withheld })
  | (_, s2) => s2

/-- The walk for an access ends where it is under way; else it begins, or the access waits in the order of arrival for one of the 64 walks
to end (R330). -/
def State.walkFor (s : State) (x : Nat) : Option State :=
  match AL.find s.flights x with
  | none => none
  | some f =>
    if f.stage = .going then
      match s.missing f with
      | none => none
      | some va =>
        let g := s.agent (agentOf va)
        let w : Walk := ⟨f.field, va / 65536⟩
        if g.walks.contains w then some (s.endWalk x f va)
        else if g.walks.length < walkLimit then
          if (s.firstMiss g).getD (.flight x) = .flight x then
            some (s.modAgent (agentOf va) (fun g => { g with
              walks := g.walks ++ [w], waiting := g.waiting.filter (fun y => !(y == .flight x)) }))
          else none
        else if g.waiting.contains (.flight x) then none
        else some (s.modAgent (agentOf va) (fun g => { g with waiting := g.waiting ++ [.flight x] }))
    else none

/-- TRANSLATION_WALK (R330). -/
def execTranslationWalk (x : Nat) (s : State) : Out := happen s (s.walkFor x)

/-- A requester goes on after its page fault is resolved. -/
def State.resumeReq (s : State) (r : FaultReq) : State :=
  match r with
  | .flight x => s.modFlight x (fun f => if f.stage = .faulted then { f with stage := .going } else f)
  | .frame c sl =>
    (s.setWait r .none).modFrame c sl (fun f => if f.life = .parked then { f with life := .running } else f)
  | r => s.setWait r .none

/-- FAULT_RESOLVE: the scheduler resolves a fault and every requester proceeds (R331). -/
def execFaultResolve (x : Nat) (s : State) : Out :=
  happen s ((AL.find s.faults x).map (fun p =>
    p.reqs.foldl (fun t r => t.resumeReq r.req) { s with faults := AL.del s.faults x }))

/-- The source of a requester's access as a log entry names it (Table 9-4). -/
def State.reqSource (s : State) (r : FaultReq) : BitVec 24 :=
  match r with
  | .frame c _ => s.gca c
  | .input c _ => s.gca c
  | .prog p => match AL.find s.progs p with | some x => s.gca x.cell | none => 0
  | .chunk x k => match s.chunkCell x k with | some c => s.gca c | none => 0
  | .trace k => s.gca ((clusterCells k).headD 0)
  | .credit x => match AL.find s.credits x with
    | some k => if k.hub then s.devNum ++ unitXport else s.gca k.cell
    | none => 0
  | .packet x => match AL.find s.packets x with | some p => p.pkt.src | none => 0
  | r => match s.reqUnit r with | some u => s.devNum ++ u | none => 0

/-- The answer of an operation has come for a unit of the hub die that waits for it (R340, R361). -/
def State.answerLine (s : State) (x : Nat) (f : Flight) (q : FaultReq) (r : Resp) : State :=
  let gone : State := { s with flights := AL.del s.flights x }
  match r with
  | .data bs => gone.gotLine q (engineKey f.va.toNat) bs
  | .words ws => gone.gotLine q (engineKey f.va.toNat) (wordsBytes ws)
  | .err e => gone.setWait q (.refused e)

/-- An engine answers a unit of the hub die at once; a cell by a step of its own (R203). -/
def State.engineAnswer (s : State) (x : Nat) : State :=
  match AL.find s.flights x with
  | some f =>
    match f.issuer, f.stage with
    | .line q, .answered r => s.answerLine x f q r
    | _, _ => s
  | none => s

/-- What a front operation that ends in an error has written of the front goes, where it still stands (R236). -/
def State.undoFront (s : State) (u : List (Nat × List Byte × List Byte)) : State :=
  u.foldr (fun p t => if t.mem.bytes p.1 p.2.2.length = p.2.2 then t.writeFlat p.1 p.2.1 else t) s

/-- An access is answered with an error; a front operation leaves the front as it stood (R236). -/
def State.failFlight (s : State) (x : Nat) (e : ErrResp) : State :=
  let u := match s.runOf (.flight x) with | some r => s.undoFront r.undo | none => s
  ((u.endWait (.flight x)).modFlight x (fun f => { f with stage := .answered (.err e) })).engineAnswer x

/-- A requester's access is refused with BOUND, logged by the agent (R331). -/
def State.refuseReq (s : State) (b : FaultBy) : State :=
  let a : Addr := BitVec.ofNat 48 b.va
  let e : ErrResp := ⟨2, a⟩
  match b.req with
  | .flight x =>
    match AL.find s.flights x with
    | some f => (s.logAgent (agentOf b.va) (s.violationOf f a 2)).failFlight x e
    | none => s
  | r =>
    let t := (s.logAgent (agentOf b.va) ⟨a, 2, b.cls, b.op, b.size, s.reqSource r, s.time24⟩).setWait r (.refused e)
    match r with
    | .frame c sl => t.modFrame c sl (fun f => if f.life = .parked then { f with life := .running } else f)
    | _ => t

/-- FAULT_REFUSE: the scheduler refuses a fault (R331). -/
def execFaultRefuse (x : Nat) (s : State) : Out :=
  happen s ((AL.find s.faults x).map (fun p =>
    p.reqs.foldl State.refuseReq { s with faults := AL.del s.faults x }))

/-! ### Atomic engines (R202 to R204, R233) -/

/-- The cluster whose engine performs an atomic or front operation, once its address is known (R202). -/
def State.engineOf (s : State) (f : Flight) : Option Nat :=
  match f.target with
  | .sram a => (ownerCell a).map clusterOf
  | .far va => (s.cachedLeaf f.field va.toNat).map (fun l => (l.pa + (va.toNat - l.va)) / 64 % 256)
  | _ => none

/-- Is an access an operation of an atomic engine? -/
def MemOp.atEngine : MemOp → Bool
  | .atomic _ _ _ _ => true
  | .front _ _ _ _ _ => true
  | .credit _ => true
  | _ => false

/-- Is another operation on the same front under way, waiting for a page or another device (R231)? -/
def State.frontBusy (s : State) (x : Nat) (f : Flight) : Bool :=
  (match f.op with | .front _ _ _ _ _ => true | _ => false) &&
  s.flights.any (fun p => p.1 != x && p.2.target == f.target && p.2.op.atEngine &&
    (!(s.waitOf (.flight p.1) == .none) || (s.runOf (.flight p.1)).isSome || !(s.linesOf (.flight p.1)).isEmpty))

/-- Can an operation have arrived at engine `k`: with its places at the internal ports (R367), sent after the older entries of its buffer (R202), no
operation on its front under way, and no earlier class-O operation of its cell to the same engine still on its way (R186)? -/
def State.atEngine (s : State) (k x : Nat) (f : Flight) : Bool :=
  f.stage == .going && f.op.atEngine && s.engineOf f == some k && s.pathOpen x &&
  (match s.waitOf (.flight x) with | .none => true | .walk _ => true | _ => false) &&
  (f.posted || (match f.issuer with
    | .act _ => (s.cell f.cell).sb.all (fun e => e.sent || decide (f.order ≤ e.seq))
    | _ => true)) &&
  !s.frontBusy x f &&
  !(f.cls == .o && s.flights.any (fun p => decide (p.2.order < f.order) && p.2.cls == .o && s.flightSrc p.2 == s.flightSrc f &&
    (p.2.stage == .going || p.2.stage == .faulted) && p.2.op.atEngine && s.engineOf p.2 == some k))

/-- The log of what is found for an operation of an engine: that of the port which brought it from another device, else of its cell. -/
def State.flightLog (s : State) (f : Flight) : LogUnit :=
  match f.issuer with
  | .line (.packet x) => (match AL.find s.packets x with
    | some r => (match r.place with | .served (some q) => .port q | _ => .cell f.cell)
    | none => .cell f.cell)
  | .line (.credit _) => if (s.flightSrc f).2 then .transport else .cell f.cell
  | _ => .cell f.cell

/-- Who an engine operation reaches memory for: the cell that issued it, with plain accesses that race logging does not
see (R201, R231). -/
def State.whoFlight (s : State) (x : Nat) (f : Flight) : Who :=
  { log := s.flightLog f, cell := f.cell, field := f.field,
    segs := (match AL.find s.fields f.field with | some g => g.segs | none => []),
    window := if f.issuer.ofHub then none else some f.cell, lines := s.linesOf (.flight x), wrote := s.wroteOf (.flight x),
    site := f.site, cls := .o, opR := 2, opW := 2, size := none, issuer := .atomic x, src := (s.flightSrc f).1, by_ := none,
    req := .flight x }

/-- The atomic engine's state. -/
def State.atomicEngine (s : State) (k : Nat) : AtomicEngine := AL.get AtomicEngine.reset s.atomics k

/-- The line of an atomic becomes hot, unless NOHOT keeps it out (R204, R209). -/
def State.touchLine (s : State) (k line : Nat) (nohot : Bool) : State :=
  let e := s.atomicEngine k
  if nohot && !e.hot.contains line then s
  else
    let m := useLru e.hot line 64
    { s.writtenBack (e.hot.filter (fun l => !m.contains l)) with atomics := AL.put s.atomics k { e with hot := m } }

/-- A front object becomes resident with its lines, the most recently used of at most 32, unless NOHOT keeps it out (R209, R233). -/
def State.touchFront (s : State) (k : Nat) (r : Resident) (nohot : Bool) : State :=
  let e := s.atomicEngine k
  let others := e.fronts.filter (fun o => o.obj != r.obj)
  if nohot && others.length == e.fronts.length then s
  else
    let m := others ++ [r]
    { s.writtenBack ((m.take (m.length - 32)).flatMap Resident.lines) with
      atomics := AL.put s.atomics k { e with fronts := m.drop (m.length - 32) } }

/-- The words of a sync word after a credit of `n` bytes, with the generations completed (R262). -/
def creditWord (target count gen n : Nat) : Nat × Nat × List Nat :=
  if target = 0 then ((count + n) % 2 ^ 32, gen, [])
  else
    let k := (count + n) / target
    ((count + n) % target % 2 ^ 32, (gen + k) % 2 ^ 32, (List.range k).map (fun i => (gen + i + 1) % 2 ^ 32))

/-- A credit of `n` bytes at a flat address (R262): the sync word as it was. -/
def State.creditAt (s : State) (a n : Nat) : List Byte × State :=
  let bs := s.mem.bytes a 16
  let w0 := word (leNat (bs.take 8))
  let w1 := word (leNat (bs.drop 8))
  let r := creditWord (bits w0 31 0) (bits w0 63 32) (bits w1 31 0) n
  (bs, s.writeFlat a (leBytes 8 (bits w0 31 0 + r.1 * 2 ^ 32) ++ leBytes 4 r.2.1))

/-- The writes of a front operation, in order: what remains of them, what stood where it wrote the front, why it stops, and the state
(R231, R236, R240). -/
def State.writeFront (s : State) (x : Nat) (f : Flight) (u : List (Nat × List Byte × List Byte)) :
    List FrontWrite → List FrontWrite × List (Nat × List Byte × List Byte) × Option Stop × State
  | [] => ([], u, none, s)
  | p :: rest =>
    let w := s.whoFlight x f
    let away := fun (t : Target) =>
      if (s.wroteOf (.flight x)).contains p.va then
        State.writeFront (s.setRun (.flight x) ⟨rest, u, []⟩) x f u rest
      else (p :: rest, u, some (.awayWrite t p.va p.bytes .o), s)
    match resolve w.segs w.window p.va .w with
    | .fabric d ra cx => away (.fabric d ra cx)
    | .host n ra => away (.host n ra)
    | t =>
      match (writePiece w p.va p.bytes).exec s with
      | (.ok _, s2) =>
        let u2 := match p.own, s2.flatNow w.field t with
          | true, some a => u ++ [(a, s.mem.bytes a p.bytes.length, p.bytes)]
          | _, _ => u
        State.writeFront s2 x f u2 rest
      | (.error e, s2) => (p :: rest, u, some e, s2)

/-- A front operation under way, or begun now. -/
def State.frontRun (s : State) (x : Nat) (f : Flight) (op : FrontOp) (a0 a1 a2 : Word) : Except Stop FrontRun × State :=
  match s.runOf (.flight x) with
  | some r => (.ok r, s)
  | none => (op.plan (s.whoFlight x f) f.va.toNat a0 a1 a2).exec s

/-- An operation of an engine stops: for a page, which parks its activation (R233, R331), for another device, or for ever. -/
def State.stopEngine (s : State) (x : Nat) (f : Flight) (e : Stop) : State :=
  match e with
  | .page va o cls size =>
    let r := s.pageFault f.field va o (.flight x) cls size
    (r.1.modFlight x (fun g => { g with stage := .faulted })).parkFor f
  | .poison a g => (s.consume a (s.gca f.cell) (some f.field) g).modFlight x (fun g => { g with stage := .withheld })
  | e => s.stopFor (.flight x) f.cell f.field e

/-- An engine serves a front operation (R229 to R242): its plan as one operation, then its writes in order. -/
def State.performFront (s : State) (k x : Nat) (f : Flight) (op : FrontOp) (a0 a1 a2 : Word) (nohot : Bool) : State :=
  match s.waitOf (.flight x) with
  | .refused e => s.failFlight x e
  | _ =>
    match s.frontRun x f op a0 a1 a2 with
    | (.error (.refused e), t) => t.failFlight x e
    | (.error (.poison a g), t) => t.stopEngine x f (.poison a g)
    | (.error e, _) => s.stopEngine x f e
    | (.ok r, t) =>
      match t.writeFront x f r.undo r.writes with
      | (_, _, none, v) =>
        let w := v.whoFlight x f
        let v2 := match v.flatsOf f with
          | a :: _ => v.touchFront k ⟨a, v.objectLines w f.va.toNat (v.frontSize a)⟩ nohot
          | [] => v
        (v2.endWait (.flight x)).modFlight x (fun g => { g with stage := .answered (.words r.result) })
      | (ws, u, some (.refused e), v) => (v.setRun (.flight x) ⟨ws, u, r.result⟩).failFlight x e
      | (ws, u, some e, v) => (v.setRun (.flight x) ⟨ws, u, r.result⟩).stopEngine x f e

/-- Perform an atomic on a value at a flat address (R222): the old value, of the width. -/
def State.atomicAt (s : State) (a : Nat) (op : AtomOp) (w : Bool) (opnd new : Word) : Word × State :=
  let n := if w then 4 else 8
  let m := word (leNat (s.mem.bytes a n))
  (m, s.writeFlat a (leBytes n (op.apply w m opnd new).toNat))

/-- An engine performs an operation (R203). -/
def State.performAtomic (s : State) (k x : Nat) (f : Flight) : State :=
  let stage := fun (t : State) (st : FlightStage) => t.modFlight x (fun g => { g with stage := st })
  match f.op with
  | .atomic op w opnd new =>
    let n := if w then 4 else 8
    let r := s.readTarget f.field f.target n .atom (s.violationOf f f.va)
    match r.1 with
    | .ok _ =>
      match s.flatsOf f with
      | a :: _ =>
        let q := r.2.atomicAt a op w opnd new
        stage (q.2.touchLine k (a / 64) (f.hint == 1)) (.answered (.data (leBytes n q.1.toNat)))
      | [] => s
    | o => match r.2.settle f f.va o with | some (st, t) => stage t st | none => s
  | .credit n =>
    let r := s.readTarget f.field f.target 16 .atom (s.violationOf f f.va)
    match r.1, s.flatsOf f with
    | .ok _, a :: _ =>
      let q := r.2.creditAt a n
      stage (q.2.touchLine k (a / 64) false) (.answered (.data q.1))
    | .ok _, [] => s
    | o, _ => match r.2.settle f f.va o with | some (st, t) => stage t st | none => s
  | .front op a0 a1 a2 nohot => s.performFront k x f op a0 a1 a2 nohot
  | _ => s

/-- The operations that have arrived at an engine. -/
def State.engineReady (s : State) (k : Nat) : List (Nat × Flight) := s.flights.filter (fun p => s.atEngine k p.1 p.2)

/-- One of some; which one is a free choice where there are several (log 5). -/
def State.choose {α : Type} (s : State) (l : List α) : Option α :=
  match l with
  | [] => none
  | [a] => some a
  | l => l[Config.pick s.tick 0 % l.length]?

/-- The port by which an operation arrives at its engine: that of its last hop; the hub port from the hub die, where a translation agent
forwards it among others; a streamer's credit by the streamer port, what a trace core asks for by the trace port (R202, R203). -/
def State.arrivalPort (s : State) (x : Nat) (f : Flight) : Nat :=
  match f.issuer, f.target with
  | .line (.credit y), _ => (match AL.find s.credits y with | some k => if k.hub then 5 else 6 | none => 6)
  | .trace _, _ => 7
  | .line (.trace _), _ => 7
  | i, .sram a => if i.ofHub then 5 else s.enginePortOf f.cls x f.cell ((ownerCell a).getD 0)
  | _, _ => 5

/-- The operations that wait at an engine in this cycle: those that waited, and those that arrive now. When an operation arrives is a
free choice, but one arrives where none waits (R203; log 5). -/
def State.engineQueue (s : State) (k : Nat) : List EngineWait :=
  let here := s.engineReady k
  let old := (s.atomicEngine k).waiting.filter (fun w => here.any (fun p => p.1 == w.flight))
  let new := here.filter (fun p => !old.any (fun w => w.flight == p.1))
  let some_ := new.filter (fun p => Config.pick s.tick (64 + p.1) % 2 == 0)
  let come := if old = [] ∧ some_ = [] then (s.choose new).toList else some_
  old ++ come.map (fun p => ⟨p.1, s.arrivalPort p.1 p.2, s.tick⟩)

/-- Does an operation go before another: it has waited longer, or as long at a port that goes first (R203)? -/
def EngineWait.before (a b : EngineWait) : Bool :=
  decide (a.since < b.since) ||
    (a.since == b.since && (decide (a.port < b.port) || (a.port == b.port && decide (a.flight < b.flight))))

/-- The operation that goes first. -/
def firstWaiting (l : List EngineWait) : Option EngineWait :=
  l.foldl (fun b w => match b with | none => some w | some v => if w.before v then some w else some v) none

/-- ATOMIC_ENGINE_OP: the operation that has waited longest at its port is performed (R203). -/
def State.tryAtomic (s : State) (k : Nat) : Option State :=
  let q := s.engineQueue k
  match firstWaiting q with
  | none => none
  | some w =>
    (AL.find s.flights w.flight).map (fun f =>
      let e := s.atomicEngine k
      ({ s with atomics := AL.put s.atomics k { e with waiting := q.filter (fun v => v.flight != w.flight) } }.performAtomic k
        w.flight f).engineAnswer w.flight)

/-- ATOMIC_ENGINE_OP (R203). -/
def execAtomicEngineOp (k : Nat) (s : State) : Out := happen s (s.tryAtomic k)

/-- HOT_LINE_EVICT: the least recently used hot line is written back and released (R204). -/
def State.tryEvictLine (s : State) (k : Nat) : Option State :=
  let e := s.atomicEngine k
  match e.hot with
  | [] => none
  | l :: t => some { s.writtenBack [l] with atomics := AL.put s.atomics k { e with hot := t } }

/-- HOT_LINE_EVICT (R204). -/
def execHotLineEvict (k : Nat) (s : State) : Out := happen s (s.tryEvictLine k)

/-- FRONT_WRITEBACK: a resident front that a plain access waits for is written back and released (R233). -/
def State.tryFrontBack (s : State) (k obj : Nat) : Option State :=
  let e := s.atomicEngine k
  match e.fronts.find? (fun r => r.obj == obj) with
  | some r =>
    if s.flights.any (fun p => p.2.stage == .going && p.2.op.plain && (s.flatsOf p.2).any (fun a => r.lines.contains (a / 64))) then
      some { s.writtenBack r.lines with
        atomics := AL.put s.atomics k { e with fronts := e.fronts.filter (fun o => o.obj != obj) } }
    else none
  | none => none

/-- FRONT_WRITEBACK (R233). -/
def execFrontWriteback (k obj : Nat) (s : State) : Out := happen s (s.tryFrontBack k obj)

/-! ### Acknowledgements (R181, R192) -/

/-- Is the issuing activation still running, with its frame in slot `some` (R181)? -/
def State.runningSlot (s : State) (a : Nat) : Option Nat :=
  match (s.act a).slot with
  | some sl => if (s.frame (s.act a).cell sl).life = .frozen then none else some sl
  | none => none

/-- An access of a running activation is refused: its frame traps ACCESS, unless an earlier instruction has (R53,
R181). NEXT is the instruction after the last one issued (R54). An instruction that waits for answers (R142, R174, R249) comes to its end
first: the refusal is kept, and the frame traps for it before it issues anything more. -/
def State.accessTrap (s : State) (c sl : Nat) (site : Site) (va : Addr) (order : Nat) : State :=
  let f := s.frame c sl
  let earlier := match f.trap with | some t => decide (t.order < order) | none => false
  if earlier then s
  else if f.life = .running ∧ f.pend.isSome then s.modAct f.act (fun a => { a with kept := some (a.kept.getD ⟨site, va⟩) })
  else
    s.modFrame c sl (fun r => { r with
      life := .frozen, trap := some ⟨0x0A, site, addrWord va, r.pc, .raised, order⟩, pend := none, mark := none })

/-- A performed or refused store lowers its count and leaves the buffer (R188, R192). -/
def State.countDown (s : State) (x : Nat) (f : Flight) : State :=
  let s1 := { s with flights := AL.del s.flights x }
  let s2 := s1.modCell f.cell (fun y => { y with sb := leaveInOrder (y.sb.filter (fun e => !(e.sent && e.flight == x))) })
  match f.issuer with
  | .act a =>
    if countedStore f.cell f.cls f.target then
      match f.stage with
      | .away => s2.modAct a (fun t => t.setRem f.cls (t.rem f.cls - 1))
      | _ => s2.modAct a (fun t => t.setCount f.cls (t.count f.cls - 1))
    else s2
  | _ => s2

/-- The answer of a posted access of an activation, if it has one. -/
def Flight.postedAnswer (f : Flight) : Option (Nat × Resp) :=
  match f.posted, f.issuer, f.stage with
  | true, .act a, .answered r => some (a, r)
  | _, _, _ => none

/-- Stands an entry that awaits its acknowledgement before that of an access in the buffer? Entries leave in FIFO order (R187). -/
def State.notFirst (s : State) (x : Nat) (f : Flight) : Bool :=
  match (s.cell f.cell).sb.findIdx? (fun e => e.flight == x) with
  | some i => ((s.cell f.cell).sb.take i).any (fun e => e.flight != 0)
  | none => false

/-- STORE_ACK: a performed store, or a refused one of a running activation (R181, R192). -/
def State.tryAck (s : State) (x : Nat) : Option State :=
  match AL.find s.flights x with
  | none => none
  | some f =>
    if s.notFirst x f then none
    else
    match f.postedAnswer with
    | some (_, .data _) => some (s.countDown x f)
    | some (_, .words _) => some (s.countDown x f)
    | some (a, .err e) =>
      match s.runningSlot a with
      | some sl => some ((s.countDown x f).accessTrap f.cell sl f.site e.va f.order)
      | none => none
    | none => none

/-- STORE_ACK (R192). -/
def execStoreAck (x : Nat) (s : State) : Out := happen s (s.tryAck x)

/-- Who waits for the trap area on behalf of a retired activation: a number above the frame slots. -/
def deadReq (c a : Nat) : FaultReq := .frame c (16 + a)

/-- A trap of a retired activation has come so far. -/
def State.setDead (s : State) (a : Nat) (t : Trap) (st : TrapStage) : State :=
  s.modAct a (fun y => { y with dead := y.dead.map (fun u => if u = t then { t with stage := st } else u) })

/-- The record of a retired activation's trap has been written; it is traced as every trap is (R181, R388). -/
def State.deadRecorded (s : State) (a : Nat) (x : Act) (t : Trap) (k : Nat) (ra : Addr) : State :=
  (s.setDead a t (.recorded k ra)).offer x.cell 4 x.naming x.entry x.slot0 x.dseq 0 t.cause

/-- The trap record of a refused write of a retired activation (R181): no frame, no snapshot. It waits where the trap area is full,
behind an earlier one of the activation that waits. -/
def State.deadRecord (s : State) (a : Nat) (f : Flight) (va : Addr) : State :=
  let act := s.act a
  let t : Trap := ⟨0x0A, f.site, addrWord va, f.site.next, .deferred, s.nextId⟩
  match s.fieldOf f.cell with
  | none => s
  | some fd =>
    let s1 := { s with nextId := s.nextId + 1 }.modAct a (fun y => { y with dead := y.dead ++ [t] })
    match fd.trapEntry with
    | none => s1
    | some k =>
      if act.dead.any (fun u => u.stage == .deferred) then s1
      else
        match s1.writeTrap f.cell fd k t 0 0 act.naming none (deadReq f.cell a) with
        | .done s2 ra => s2.deadRecorded a act t k ra
        | .wait s2 => s2

/-- RETIRED_ACCESS_ERROR: the refusal of a write of a retired activation writes a record, the first of a frozen one is
kept for its frame (R181). -/
def State.tryRetiredError (s : State) (x : Nat) : Option State :=
  match AL.find s.flights x with
  | none => none
  | some f =>
    if s.notFirst x f then none
    else
    match f.postedAnswer with
    | some (a, .err e) =>
      match s.runningSlot a with
      | some _ => none
      | none =>
        let s1 := s.countDown x f
        match (s.act a).slot with
        | some _ => some (s1.modAct a (fun y => { y with kept := some (y.kept.getD ⟨f.site, e.va⟩) }))
        | none => some (s1.deadRecord a f e.va)
    | _ => none

/-- RETIRED_ACCESS_ERROR (R181). -/
def execRetiredAccessError (x : Nat) (s : State) : Out := happen s (s.tryRetiredError x)

/-! ### Completion of long-latency instructions (R50, R212, R222, R235) -/

/-- The registers that an answer writes (Tables 10-3, 10-14). -/
def LoadFmt.values (fmt : LoadFmt) (dests : List Nat) (r : Resp) : List (Nat × Word) :=
  match fmt, r with
  | .int n signed, .data bs =>
    let v := leNat (bs.take n)
    [(dests.headD 0, if signed then BitVec.ofInt 64 (signedNat (8 * n) v) else word v)]
  | .pair, .data bs => dests.zip [word (leNat (bs.take 8)), word (leNat (bs.drop 8))]
  | .regs, .words ws => dests.zip ws
  | _, _ => []

/-- The leader's answer to a numbered load goes to the follower as well (R412). -/
def State.mirrorAnswer (s : State) (f : Flight) (sl : Nat) (r : Resp) : State :=
  match f.mirror, s.follower f.cell with
  | some k, some d =>
    match s.flights.find? (fun p => p.2.cell == d && p.2.issuer == f.issuer && p.2.mirror == some k &&
      p.2.stage == .mirrored) with
    | some (y, _) => s.modFlight y (fun g => { g with stage := .answered r })
    | none => s.modPair d sl (fun p => { p with vals := AL.put p.vals k r })
  | _, _ => s

/-- The place of an outstanding instruction in the trail of a checked activation is filled (R413). -/
def fillTrail (t : List FpItem) (x : Nat) (ws : List (Nat × Word)) : List FpItem :=
  t.flatMap (fun i => if i = .pend x then ws.map (fun w => FpItem.reg w.1 w.2) else [i])

/-- Is the frame still parked for another access or for its own wait? -/
def State.stillParked (s : State) (c sl : Nat) : Bool :=
  (match s.waitOf (.frame c sl) with | .page _ => true | _ => false) ||
  s.flights.any (fun p => p.2.issuer == .act (s.frame c sl).act && !p.2.posted && p.2.stage == .faulted)

/-- LOAD_COMPLETE: a long-latency instruction completes; an error leaves its destinations and traps (R212). Its result
waits for the writes that an engine made for it (R231, R240). -/
def State.tryComplete (s : State) (x : Nat) : Option State :=
  match AL.find s.flights x with
  | none => none
  | some f =>
    match f.posted, f.issuer, f.stage with
    | false, .act a, .answered r =>
      match (s.act a).slot with
      | none => none
      | some sl =>
        match (s.frame f.cell sl).outst.find? (fun o => o.flight == x) with
        | none => none
        | some o =>
          if s.flights.any (fun p => p.2.issuer == .atomic x) then none
          else
            let ws := o.fmt.values o.dests r
            let s0 : State := { s with flights := AL.del s.flights x }
            let s1 := (s0.endWait (.flight x)).modFrame f.cell sl (fun g => { g with
              outst := g.outst.filter (fun p => p.flight != x),
              g := ws.foldl (fun acc w => Regs.set acc w.1 w.2) g.g })
            let s2 := s1.modPair f.cell sl (fun p => { p with trail := fillTrail p.trail x ws })
            let s3 := s2.mirrorAnswer f sl r
            let s4 := s3.modFrame f.cell sl (fun g =>
              if g.life = .parked ∧ !s3.stillParked f.cell sl then { g with life := .running } else g)
            match r with
            | .err e => some (s4.accessTrap f.cell sl f.site e.va f.order)
            | _ => some s4
    | _, _, _ => none

/-- LOAD_COMPLETE (R212). -/
def execLoadComplete (x : Nat) (s : State) : Out := happen s (s.tryComplete x)

end Sys2Proof.Machine
end

