-- ==== Sys2Proof/Machine/Messages.lean ====
section
/-! DEFINITION. Messages from their making to the end of their activations: refusal (R136), arrival (R135, R143),
dispatch (R27 to R30, R131 to R138), retirement and weight return (R160, R161), stealing between cells (R145, R146),
and the sender table (R384, R385). -/

namespace Sys2Proof.Machine

/-! ### Words and packets of messages -/

/-- The header word of a message (Table 7-2). -/
def Msg.hdr (m : Msg) : Word :=
  word (m.elem.toNat * 2 ^ 40 + m.stage.toNat * 2 ^ 36 + m.tag.toNat * 2 ^ 32 + flag m.hub * 2 ^ 24 + m.src.toNat)

/-- What names the activation that a message starts. -/
def Msg.naming (m : Msg) : Naming := ⟨m.hdr, m.scope, m.tenant, m.colour⟩

/-- The scope word (Table 7-3). -/
def Naming.scopeWord (n : Naming) : Word := word (n.tenant.toNat * 2 ^ 32 + n.scope.toNat)

/-- The element id of a kept header word. -/
def Naming.elem (n : Naming) : BitVec 24 := n.hdr.extractLsb' 40 24

/-- The further flits of a packet: its tree area and its data (R358, R364). -/
def Packet.extra (p : Packet) : Nat := (p.tree.length + 63) / 64 + (p.data.length + 63) / 64

/-- The first four doublewords of a packet (Tables 18-4, 18-5). -/
def Packet.header (p : Packet) : List Word :=
  let top := p.kind * 2 ^ 60 + p.extra * 2 ^ 57 + flag p.mc * 2 ^ 56 + classCode p.cls * 2 ^ 54 + p.hop * 2 ^ 50 +
    p.vrand * 2 ^ 47 + p.colour.toNat * 2 ^ 43 + p.tenant.toNat * 2 ^ 39 + flag p.hub * 2 ^ 38
  let ends := p.dst.toNat * 2 ^ 40 + p.src.toNat * 2 ^ 16
  if p.kind = 0 then
    [ word (top + p.tag.toNat * 2 ^ 34 + p.stage.toNat * 2 ^ 30 + p.w / 2 ^ 37 % 8 * 2 ^ 24 + p.elem.toNat),
      word (ends + p.handler.toNat / 2 ^ 32),
      word (p.handler.toNat / 32 % 2 ^ 27 * 2 ^ 37 + p.w % 2 ^ 37),
      hiLo p.scope p.time ]
  else
    [ word (top + p.elem.toNat), word (ends + p.status.toNat), word (p.op.toNat * 2 ^ 48 + p.addr.toNat),
      hiLo p.scope p.time ]

/-- The MESSAGE packet of a message (R358). -/
def Msg.packet (m : Msg) (ctxid : BitVec 16) : Packet :=
  { Packet.zero with
    ctxid := ctxid, kind := 0, cls := m.cls, colour := m.colour, tenant := m.tenant, hub := m.hub, tag := m.tag,
    stage := m.stage, w := m.w, elem := m.elem, dst := m.dst, src := m.src, handler := m.handler, scope := m.scope,
    time := m.sent.setWidth 32, words := m.words }

/-- The message of a MESSAGE packet. The sender's count has only its low half on the wire (R383). -/
def Packet.msg (p : Packet) : Msg :=
  { Msg.zero with
    dst := p.dst, handler := p.handler, words := p.words, elem := p.elem, stage := p.stage, tag := p.tag, hub := p.hub,
    src := p.src, scope := p.scope, w := p.w, tenant := p.tenant, colour := p.colour, cls := p.cls,
    sent := p.time.setWidth 64 }

/-- Is a handler address that of a built-in handler (R362)? -/
def isBuiltIn (h : Addr) : Bool := decide (0xFFFFFFFFFF00 ≤ h.toNat)
/-- The doorbell of the front end. -/
def doorbellHandler : Addr := 0xFFFFFFFFFFE0#48
/-- The trap service of a cell. -/
def trapHandler : Addr := 0xFFFFFFFFFFC0#48

/-! ### Refusal (R136) -/

/-- The refusal of a multicast replica is counted by the port that brought it (R365). -/
def State.countReplica (s : State) (m : Msg) : State :=
  match m.replica with
  | some q => s.modPort q (fun r => { r with drops := r.drops + 1 })
  | none => s

/-- A refused message: its weight returns from the refusing unit, if it has not yet, and its source hears of it, unless
it is itself a negative acknowledgement or a multicast replica, whose refusal is counted (R365). `fld` is the field of the refusing cell, for a hub source. -/
def State.nack (s : State) (m : Msg) (code : Nat) (src : BitVec 24) (hub : Bool) (fld : Option Field) : State :=
  let s1 := s.returnWeight src m.scope m.w hub
  let ws := nackWords code m.handler m.src m.elem m.scope
  if m.nack then s1
  else if m.replica.isSome then s1.countReplica m
  else if m.hub then
    match fld with | some f => s1.sendService f src hub ws true | none => s1
  else if devOf m.src = s.devNum then
    match s.fieldOf (cellOf m.src) with | some f => s1.sendService f src hub ws true | none => s1
  else
    s1.sendPacket { Packet.zero with
      kind := 5, colour := (match fld with | some f => f.ctx.colour | none => m.colour), tenant := m.tenant, dst := m.src, src := src, hub := hub, status := BitVec.ofNat 8 code,
      time := BitVec.ofNat 32 s.ns, words := ({ m with w := 0 }.packet 0).header }

/-- An entry of a cell's refusal log (R136). -/
def State.logRefusal (s : State) (c : Nat) (code : Nat) (m : Msg) : State :=
  s.modCell c (fun x => { x with refusals := log8 x.refusals ⟨code, m.handler, m.src, m.scope⟩ })

/-! ### Sending -/

/-- The remote context of the first fabric window that leads to a device (R354). -/
def windowTo (segs : List Seg) (dev : Nat) : Option (BitVec 16) :=
  (segs.find? (fun g => g.kind == 4 && bits g.kf 11 0 == dev)).map (fun g => BitVec.ofNat 16 (bits g.kf 31 16))

/-- An external port as a unit (Table 7-15). -/
def State.portUnit (s : State) (p : Nat) : BitVec 24 := s.devNum ++ unitPort p
/-- A route table entry. -/
def State.route (s : State) (n : Nat) : Route := AL.get Route.reset s.routes n
/-- The ports of a mask. -/
def maskPorts (m : Word) : List Nat := (List.range 64).filter (fun p => bitAt m p)

/-- The port of class A: most free places for the channel, on a tie OPORT, else the lowest (Table 18-3). -/
def State.freestPort (s : State) (e : Route) (hop : Nat) : Nat :=
  let free := fun (p : Nat) => ((s.port p).peerFree[hop]?).getD 0
  let ps := maskPorts e.minmask
  let best := ps.foldl (fun m p => max m (free p)) 0
  let tied := ps.filter (fun p => free p == best)
  if tied.contains e.oport then e.oport else tied.headD e.oport

/-- The port and the new VRAND of a packet at this device (Table 18-3). -/
def State.choosePort (s : State) (e : Route) (p : Packet) (atSource : Bool) : Nat × Nat :=
  match p.cls with
  | .o => (e.oport, 0)
  | .a => (s.freestPort e p.hop, 0)
  | .v =>
    let v := if atSource then (if e.dist ≤ 8 then min 4 ((8 - e.dist) / 2) else 0) else p.vrand
    let ps := (List.range 64).filter (fun q => (s.port q).up && !(s.route (s.port q).peer.toNat).hostn)
    if v = 0 ∨ ps = [] then (e.oport, v)
    else ((ps[Config.draw s.tick % ps.length]?).getD e.oport, v - 1)

/-- An entry of an external port's refusal log (R136). -/
def State.logPortRefusal (s : State) (q : Nat) (code : Nat) (handler : Addr) (src : BitVec 24) (sc : BitVec 32) : State :=
  s.modPort q (fun r => { r with refusals := log8 r.refusals ⟨code, handler, src, sc⟩ })

/-- Send a message of a cell under the number `s.nextId`: on this device towards its cell, to another device as a
packet through a fabric window of the sender's context, without which the fabric port that it takes refuses it (R134, R141, R354). -/
def State.sendMsg (s : State) (c : Nat) (m : Msg) : State :=
  if devOf m.dst = s.devNum then s.post m
  else
    match windowTo (s.segsOf c) (devOf m.dst).toNat with
    | some cx => s.sendPacket (m.packet cx)
    | none =>
      let port := (s.choosePort (s.route (devOf m.dst).toNat) (m.packet 0) true).1
      (s.logPortRefusal port 6 m.handler m.src m.scope).nack m 6 (s.portUnit port) true (s.fieldOf c)

/-! ### Arrival (R135, R143) -/

/-- Does a target lie at the port of a cell? -/
def Target.at_ (t : Target) (c : Nat) : Bool := match t with | .sram a => ownerCell a == some c | _ => false

/-- Has a cell an earlier class-O load or store to the port of another that is not performed (R186)? -/
def State.accessBefore (s : State) (src dst m : Nat) : Bool :=
  s.flights.any (fun p => decide (p.1 < m) && p.2.cls == .o && p.2.stage == .going && p.2.op.plain && p.2.cell == src &&
    (p.2.target.at_ dst || p.2.second.at_ dst))

/-- Must an earlier class-O message or access of the same source to the same cell arrive first (R143, R186)? -/
def State.msgBehind (s : State) (m : Nat) (f : MsgFlight) : Bool :=
  s.msgs.any (fun p => decide (p.1 < m) && p.2.from_ == f.from_ && p.2.msg.hub == f.msg.hub && p.2.msg.dst == f.msg.dst &&
    ((f.msg.cls == .o && p.2.msg.cls == .o) || (f.msg.replica.isSome && p.2.msg.replica == f.msg.replica))) ||
  (f.msg.cls == .o && !f.msg.hub && devOf f.from_ == s.devNum && s.accessBefore (cellOf f.from_) (cellOf f.msg.dst) m)

/-- Is a message still in its cell's outbound queue (R142)? -/
def State.queued (s : State) (m : Nat) (f : MsgFlight) : Bool := (s.cell (cellOf f.from_)).outq.contains m

/-- RES of a tenant at a cell (R135). -/
def State.reserve (s : State) (c : Nat) (i : Nat) : Nat :=
  match s.fieldOf c with | some f => (f.ctx.res[i]?).getD 0 | none => 0

/-- The slots of a tenant's reserve that its messages hold at a cell (R135). -/
def State.heldSlots (s : State) (c : Nat) (i : Nat) : Nat :=
  ((s.cell c).slots.filter (fun p => decide (p.1 < 512) && !p.2.pool && p.2.msg.tenant.toNat == i)).length

/-- Has a tenant's reserve at a cell a free slot (R135)? -/
def State.reserveRoom (s : State) (c : Nat) (t : BitVec 4) : Bool := decide (s.heldSlots c t.toNat < s.reserve c t.toNat)

/-- Has the pool of a cell's input buffer a free slot: what no tenant has reserved, less what messages have taken of it? A reserved slot
is never lent (R135, R146). -/
def State.poolRoom (s : State) (c : Nat) : Bool :=
  let taken := ((s.cell c).slots.filter (fun p => decide (p.1 < 512) && p.2.pool)).length
  decide (taken < 512 - (List.range 16).foldl (fun acc i => acc + s.reserve c i) 0)

/-- The lowest free input slot of a cell. -/
def State.lowestSlot (s : State) (c : Nat) : Option Nat := (List.range 512).find? (fun k => !AL.has (s.cell c).slots k)

/-- The slot that an arriving message takes: the lowest free one (log 45), if its tenant's reserve has room or else the pool (R135). -/
def State.freeInSlot (s : State) (c : Nat) (t : BitVec 4) : Option Nat :=
  if s.reserveRoom c t || s.poolRoom c then s.lowestSlot c else none

/-- A leader's input and bell slots stand in its follower too (R412). -/
def State.mirrorSlots (s : State) (c : Nat) : State :=
  match s.follower c with
  | some d => s.modCell d (fun x => { x with slots := (s.cell c).slots })
  | none => s

/-- A message in a slot: one reserved for its tenant where there is one, else one of the pool; a bell slot is neither (R135, R152). -/
def State.putSlot (s : State) (c k : Nat) (m : Msg) (order : Nat) : State :=
  (s.modCell c (fun x => { x with
    slots := AL.put x.slots k ⟨m, s.time64, order, none, none, none, false, !s.reserveRoom c m.tenant⟩ })).mirrorSlots c

/-- The internal hub port at which number `x`, of a class, for a cell meets the cell's fence (R349, Table 7-15). -/
def State.fencePort (s : State) (cls : MemClass) (x c : Nat) : Nat := s.entryOf cls x c
/-- It counts what its fence drops (R349). -/
def State.countDrop (s : State) (k : Nat) : State := s.modHubPort k (fun r => { r with drops := r.drops + 1 })
/-- An entry of its refusal log (R136). -/
def State.logHubRefusal (s : State) (k : Nat) (code : Nat) (m : Msg) : State :=
  s.modHubPort k (fun r => { r with refusals := log8 r.refusals ⟨code, m.handler, m.src, m.scope⟩ })
/-- A message of number `x` is refused at the fence of a cell (R136, R349). -/
def State.refuseFenced (s : State) (x c : Nat) (m : Msg) : State :=
  let k := s.fencePort m.cls x c
  (s.logHubRefusal k 3 m).nack m 3 (s.hubUnit k) true none
/-- A message is refused by a cell that is out of service (R136, R419). -/
def State.refuseService (s : State) (c : Nat) (m : Msg) : State := (s.logRefusal c 8 m).nack m 8 (s.gca c) false (s.fieldOf c)

/-- Is the message's own device's fence in its way at its source (Table 17-11, step 1)? -/
def State.sourceFenced (s : State) (m : Msg) : Bool :=
  !m.hub && devOf m.src == s.devNum && s.fencedCell (cellOf m.src)

/-- MESSAGE_ARRIVAL: a message takes a slot, whatever its handler address, is held back, is dropped or refused at a fence, or is refused
by a cell that is out of service (R25, R135, R349, R419). A cell under test admits none (R418); the doorbell goes to the hub die
(R362). -/
def State.tryArrive (s : State) (m : Nat) : Option State :=
  match AL.find s.msgs m with
  | none => none
  | some f =>
    let c := cellOf f.msg.dst
    if s.queued m f || s.msgBehind m f || f.msg.handler == doorbellHandler || (s.cell c).scan != .none then none
    else
      let s1 : State := { s with msgs := AL.del s.msgs m }
      if s.sourceFenced f.msg then some s1
      else if s.fencedCell c then some (s1.refuseFenced m c f.msg)
      else if !(s.cell c).service then some (s1.refuseService c f.msg)
      else
        match s.freeInSlot c f.msg.tenant with
        | none => none
        | some k => some ({ s1 with nextId := s.nextId + 1 }.putSlot c k f.msg s.nextId)

/-- MESSAGE_ARRIVAL (R135). -/
def execMessageArrival (m : Nat) (s : State) : Out := happen s (s.tryArrive m)

/-! ### The sender table (R384, R385) -/

/-- Saturate to 64 bits. -/
def sat64 (n : Nat) : Nat := if n < 2 ^ 64 then n else 2 ^ 64 - 1

/-- Update the entry of a key: the entry that holds it, else the lowest free one, else the overflow bucket (R385). -/
def Cell.senderPlace (x : Cell) (m : Naming) : Nat :=
  let get := fun i => (x.senders[i]?).getD SenderEntry.free
  let src : BitVec 24 := m.hdr.extractLsb' 0 24
  match (List.range 32).find? (fun i => (get i).valid && (get i).tenant == m.tenant && (get i).hub == bitAt m.hdr 24 &&
      (get i).source == src) with
  | some i => i
  | none => ((List.range 32).find? (fun i => !(get i).valid)).getD 32

/-- Account a message at its retirement or discard: its send, arrival and dispatch times, and the time now (R384). -/
def State.account (s : State) (c : Nat) (nm : Naming) (sent arrived dispd : BitVec 64) (discard : Bool) : State :=
  let raw := (arrived.setWidth 32 - sent.setWidth 32 : BitVec 32).toNat
  let skew := decide (2 ^ 31 ≤ raw)
  let wait := dispd.toNat - arrived.toNat
  let run := if discard then 0 else s.time64.toNat - dispd.toNat
  s.modCell c (fun x =>
    let i := x.senderPlace nm
    let table := (List.range 33).map (fun j => (x.senders[j]?).getD SenderEntry.free)
    let e := (table[i]?).getD SenderEntry.free
    let key := if e.valid || i == 32 then { e with valid := true }
      else { e with valid := true, tenant := nm.tenant, hub := bitAt nm.hdr 24, source := nm.hdr.extractLsb' 0 24 }
    { x with senders := table.set i { key with
        count := if discard then e.count else sat32 (e.count + 1)
        discards := if discard then sat32 (e.discards + 1) else e.discards
        transit := sat64 (e.transit + (if skew then 0 else raw))
        wait := sat64 (e.wait + wait)
        run := sat64 (e.run + run)
        skew := sat32 (e.skew + flag skew)
        maxwait := sat32 (max e.maxwait wait) } })

/-! ### Dispatch (R27 to R30, R131 to R138) -/

/-- A handler descriptor (Table 7-1). -/
structure Descriptor where
  chan    : Nat
  engine  : Bool
  checked : Bool
  mobile  : Bool
  frame   : Nat
  deriving DecidableEq, Repr

/-- The 32 bytes of a descriptor, if they meet R132. -/
def parseDescriptor (bs : List Byte) : Option Descriptor :=
  let w0 := leNat (bs.take 4)
  let w1 := word (leNat ((bs.drop 4).take 4))
  let fr := bits w1 7 0
  if w0 = 0x48445348 ∧ bits w1 31 19 = 0 ∧ bits w1 15 11 = 0 ∧ (fr = 16 ∨ fr = 32 ∨ fr = 48 ∨ fr = 64) ∧
      (bs.drop 8).all (fun b => b == 0) then
    some ⟨bits w1 18 16, bitAt w1 10, bitAt w1 9, bitAt w1 8, fr⟩
  else none

/-- What reading a descriptor gives. -/
inductive DescRead
  | ok (d : Descriptor)
  | bad
  | page
  | busy
  | poison (flat : Nat) (agent : Option Nat)
  | away (t : Target) (line : Nat)
  deriving DecidableEq, Repr

/-- Read the descriptor at an address for the message in an input slot (R132). -/
def State.readDescriptor (s : State) (c : Nat) (req : FaultReq) (h : Addr) : DescRead × State :=
  let va := h.toNat
  let line := va / 64
  let use := fun (bs : List Byte) =>
    match parseDescriptor ((bs.drop (va % 64)).take 32) with | some d => DescRead.ok d | none => .bad
  if va % 32 ≠ 0 then (.bad, s)
  else
    match s.waitOf req, AL.find (s.linesOf req) line with
    | .refused _, _ => (.bad, s)
    | _, some bs => (use bs, s)
    | _, none =>
      match s.codeLine c (s.cell c).field (s.segsOf c) (line * 64) with
      | (.ok bs, s2) => (use bs, s2)
      | (.none, s2) => (.bad, s2)
      | (.refused, s2) => (.bad, s2)
      | (.notResident, s2) => (.page, s2)
      | (.busy, s2) => (.busy, s2)
      | (.poison a g, s2) => (.poison a g, s2)
      | (.away t, s2) => (.away t line, s2)

/-- Does the field of a cell let it dispatch and steal, and its cluster (R345, R396, R417)? The follower of a pair decides nothing: a
checked activation starts on it with its leader (R412). -/
def State.mayDispatch (s : State) (c : Nat) : Bool :=
  (s.cell c).service && !((s.cell c).paired && !(s.cell c).leader) && (s.cell c).scan == .none && !(s.cluster (clusterOf c)).stopped &&
  match s.fieldOf c with | some f => f.mode == .running && !f.fenced | none => true

/-- The frame slots that a cell has reserved for stolen messages (R146). -/
def Cell.reservedSlots (x : Cell) : List Nat :=
  (x.incoming ++ x.slots.vals).filterMap (fun p => p.stolen.map Prod.fst)

/-- May an activation or a program that it forked still make a store that is not performed? -/
def State.storing (s : State) (a : Nat) (t : Act) : Bool :=
  (s.cell t.cell).sb.any (fun e => e.act == a) || s.flights.any (fun p => p.2.issuer == .act a) ||
  s.progs.any (fun p => p.2.act == a && p.2.life != .ended)

/-- Would one more dispatch into a frame slot be the 256th after that of a retired activation whose stores are not all performed (R399;
log 43)? -/
def State.wrapsDseq (s : State) (c k : Nat) : Bool :=
  s.acts.any (fun p => p.2.slot.isNone && p.2.cell == c && p.2.slot0 == k && AL.get 0 (s.cell c).dseq k - p.2.dseq == 255 &&
    s.storing p.1 p.2)

/-- The frame slots of a cell that a dispatch may take, in ascending order (R23, R146, R399). -/
def State.freeFrames (s : State) (c : Nat) : List Nat :=
  (List.range 16).filter (fun k => (s.frame c k).life == .free && !(s.cell c).reservedSlots.contains k && !s.wrapsDseq c k)

/-- Is the message of a slot eligible, and on which dispatch channel (R137, R138)? A message that waits for the page of
its descriptor or for its scope's home is not (R132, R168); one for a built-in handler is served without dispatching (R362). -/
def State.eligible (s : State) (c k : Nat) (p : InSlot) : Option (BitVec 3) :=
  let t := AL.get TagEntry.reset (s.cell c).tags p.msg.tag.toNat
  let waits := (match s.waitOf (.input c k) with
    | .page _ => true | .flight _ => true | .walk _ => true | .withheld => true | _ => false) || (p.asked && p.query.isNone)
  if waits || isBuiltIn p.msg.handler then none
  else
    match p.stolen with
    | some _ => p.chan
    | none => if t.en && !(s.freeFrames c).isEmpty then some t.chan else none

/-- Does slot `a` dispatch before slot `b`: the higher channel, then the earlier arrival, then the lower slot (R30)? -/
def dispatchFirst (a b : BitVec 3 × Nat × Nat) : Bool :=
  decide (b.1.toNat < a.1.toNat) ||
  (a.1 == b.1 && (decide (a.2.1 < b.2.1) || (a.2.1 == b.2.1 && decide (a.2.2 < b.2.2))))

/-- The slot of a cell's next dispatch decision, with its message and channel (R30). -/
def State.nextDispatch (s : State) (c : Nat) : Option (Nat × InSlot × BitVec 3) :=
  ((s.cell c).slots.filterMap (fun p => (s.eligible c p.1 p.2).map (fun ch => (p.1, p.2, ch)))).foldl
    (fun best x =>
      match best with
      | none => some x
      | some b => if dispatchFirst (x.2.2, x.2.1.order, x.1) (b.2.2, b.2.1.order, b.1) then some x else some b) none

/-- Free a slot. -/
def State.dropSlot (s : State) (c k : Nat) : State :=
  ((s.endWait (.input c k)).modCell c (fun x => { x with slots := AL.del x.slots k })).mirrorSlots c

/-- A record about a message for which no frame is allocated (R388). -/
def State.offerMsg (s : State) (c : Nat) (m : Msg) (kind aux : Nat) : State :=
  s.offer c kind m.naming m.handler 0 0 0 aux

/-- How long a message has waited (R384). -/
def State.waitNs (s : State) (p : InSlot) : Nat := sat32 (s.time64.toNat - p.arrived.toNat)

/-- A message in a cancelled scope is discarded (R28, Table 8-3). -/
def State.discardSlot (s : State) (c k : Nat) (p : InSlot) : State :=
  (((s.dropSlot c k).returnWeight (s.gca c) p.msg.scope p.msg.w).offerMsg c p.msg 2 (s.waitNs p)).account c
    p.msg.naming p.msg.sent p.arrived s.time64 true

/-- A message is refused at dispatch (R136). -/
def State.refuseSlot (s : State) (c k : Nat) (p : InSlot) (code : Nat) : State :=
  (((s.dropSlot c k).logRefusal c code p.msg).nack p.msg code (s.gca c) false (s.fieldOf c)).offerMsg c p.msg 5 code

/-- A frame as dispatch loads it (R133, R105, R67). -/
def Frame.dispatched (m : Msg) (h : Addr) (d : Descriptor) (chan : BitVec 3) (act order : Nat) : Frame :=
  { Frame.free with
    life := .running, act := act, size := d.frame,
    g := (m.words ++ [m.hdr, m.naming.scopeWord]).zipIdx.foldl (fun r v => Regs.set r v.2 v.1) [],
    pc := h + 32, chan := BitVec.ofNat 3 (max chan.toNat d.chan),
    cr := { FrameCr.reset with rmode := m.flags &&& 0x3F00#64 }, order := order }

/-- A decision that is made later asks the homes of scopes anew: what they have answered is dropped (R168, R169). -/
def Cell.askAnew (x : Cell) : Cell :=
  { x with slots := x.slots.map (fun p => (p.1, if p.2.query.isSome then { p.2 with query := none, asked := false } else p.2)) }

/-- Start the activation of a message in a frame slot, on both cells of a pair where its handler is checked (R133,
R412). -/
def State.startAct (s : State) (c k : Nat) (p : InSlot) (h : Addr) (d : Descriptor) (chan : BitVec 3) (slot : Nat) :
    State :=
  let m := p.msg
  let a := s.nextId
  let pairOn := match s.fieldOf c with | some f => f.ctx.pairs | none => false
  let chk := d.checked && pairOn && (s.follower c).isSome
  let seq := (AL.get 0 (s.cell c).dseq slot) + 1
  let act : Act := { Act.zero with
    cell := c, slot := some slot, slot0 := slot, dseq := seq, naming := m.naming,
    holdings := if m.w = 0 then [] else [⟨m.scope, m.w⟩], xferId := m.xferId, entry := h, engine := d.engine,
    checked := chk, sent := m.sent, arrived := p.arrived, dispd := s.time64 }
  let fr := Frame.dispatched m h d chan a a
  let unit0 : PairUnit := { PairUnit.idle with check := some ⟨fr.g, fr.x, fr.cr, fr.pc⟩ }
  let place := fun (t : State) (cell : Nat) =>
    (t.setFrame cell slot fr).modCell cell (fun x => { x with
      dseq := AL.put x.dseq slot seq,
      pairs := if chk then AL.put x.pairs slot unit0 else AL.del x.pairs slot })
  let s0 := s.dropSlot c k
  let s1 := { s0 with
    acts := AL.put s.acts a act, nextId := a + 1,
    upsets := s0.upsets.filter (fun u => !(u.struct_ == 4 && u.key == c && u.index / 64 == slot)) }
  let s2 := place s1 c
  let s3 := match s.follower c with | some f => if chk then place s2 f else s2 | none => s2
  match p.stolen with
  | some (_, v) => s3.offerSlot c slot 6 0 v
  | none => s3.offerSlot c slot 0 0 (s.waitNs p)

/-- A cell's dispatch decision: it dispatches, discards or refuses one eligible message, or asks for what the decision
needs (R28, R30, R132, R136, R168). -/
def State.tryDispatch (s : State) (c : Nat) : Option State :=
  if !s.mayDispatch c then none
  else
    match s.nextDispatch c with
    | none => none
    | some (k, p, chan) =>
      let x := s.cell c
      let req : FaultReq := .input c k
      if x.overflow ∧ p.query = none then
        some ((s.postCtl (Ctl.make .query (s.gca c) (homeOf p.msg.scope) p.msg.scope 0 (.input c k))).modCell c
          (fun y => { y with slots := AL.put y.slots k { p with asked := true } }))
      else if p.query.getD (s.notified c p.msg.scope) then some (s.discardSlot c k p)
      else
        let h := if p.msg.handler = 0 ∧ p.stolen.isNone then (AL.get TagEntry.reset x.tags p.msg.tag.toNat).handler
          else p.msg.handler
        if h = 0 then some (s.refuseSlot c k p 1)
        else
          match s.readDescriptor c req h with
          | (.ok d, s2) =>
            match (match p.stolen with | some (fs, _) => some fs | none => (s.freeFrames c).head?) with
            | some slot => some ((s2.startAct c k p h d chan slot).modCell c Cell.askAnew)
            | none => none
          | (.bad, s2) => some (s2.refuseSlot c k p 2)
          | (.page, s2) =>
            let r := s2.pageFault x.field h.toNat 3 req .o (sizeCode 32)
            some ((r.1.setWait req (.page r.2)).modCell c Cell.askAnew)
          | (.busy, s2) => some ((s2.waitWalk req h.toNat).modCell c Cell.askAnew)
          | (.poison a g, s2) =>
            some ((s2.consume a (s.gca c) (if x.fieldV then some x.field else none) g).withhold c req)
          | (.away t line, s2) =>
            let r := s2.askRemote req c x.field .o .fetch (BitVec.ofNat 48 (line * 64)) t
            some ((r.1.setWait req (.flight r.2)).modCell c Cell.askAnew)

/-- DISPATCH (R30). -/
def execDispatch (c : Nat) (s : State) : Out := happen s (s.tryDispatch c)

/-! ### Retirement and the drain rule (R27, R160, R161) -/

/-- Free the frame slot of an activation: it retires at its cell, and its account and trace record are made (R384,
R388). Its holdings wait for the drain rule. -/
def State.freeFrame (s : State) (c slot : Nat) : State :=
  let f := s.frame c slot
  let a := s.act f.act
  let s1 := (s.offerSlot c slot 1 0 (sat32 (s.time64.toNat - a.dispd.toNat))).account c a.naming a.sent a.arrived
    a.dispd false
  let clear := fun (t : State) (cell : Nat) =>
    ((t.endWait (.frame cell slot)).setFrame cell slot Frame.free).modCell cell
      (fun x => { x with pairs := AL.del x.pairs slot })
  let s2 := clear s1 c
  let s3 := match s.follower c with | some d => if a.checked then clear s2 d else s2 | none => s2
  s3.modAct f.act (fun t => { t with slot := none })

/-- Has a frame issued `done` and are its outstanding instructions complete (Table 1-5, step 7)? -/
def State.mayRetire (s : State) (c slot : Nat) : Bool :=
  let f := s.frame c slot
  f.life == .done && f.outst.isEmpty

/-- RETIREMENT of a frame; a checked activation retires on both cells at once (R27, R412, R414). -/
def State.tryRetire (s : State) (c slot : Nat) : Option State :=
  let chk := (s.actOf c slot).checked
  let other := match s.follower c with | some d => !chk || s.mayRetire d slot | none => true
  let leads := !((s.cell c).paired && !(s.cell c).leader)
  if leads && s.mayRetire c slot && other && (s.frame c slot).trap.isNone then some (s.freeFrame c slot) else none

/-- RETIREMENT (R27). -/
def execRetirement (c slot : Nat) (s : State) : Out := happen s (s.tryRetire c slot)

/-- Have the stores, posted atomics and messages of an activation been performed, also those to other devices and the
host (R161)? -/
def State.drained (s : State) (a : Nat) (t : Act) : Bool :=
  t.cntO == 0 && t.cntA == 0 && t.cntV == 0 && t.remO == 0 && t.remA == 0 && t.remV == 0 &&
  (s.cell t.cell).sb.all (fun e => !(e.act == a)) &&
  s.flights.all (fun p => !(p.2.issuer == .act a))

/-- Does nothing that the activation made name it any more? -/
def State.unnamed (s : State) (a : Nat) (t : Act) : Bool :=
  t.cntE == 0 && s.copies.all (fun p => !(p.2.issuer == .act a)) && s.progs.all (fun p => !(p.2.act == a) || p.2.life == .ended) &&
  s.transfers.all (fun p => !(p.2.act == a))

/-- Some holdings in an order of free choice: the returns of a frame's holdings go to different scopes in either order (R160, R318;
log 5). -/
def anyOrder (occasion : Nat) : Nat → List Holding → List Holding
  | 0, l => l
  | n + 1, l =>
    let i := Config.pick occasion (16 + n) % max l.length 1
    match l[i]? with
    | some h => h :: anyOrder occasion n (l.eraseIdx i)
    | none => l

/-- WEIGHT_RETURN_DRAIN: the holdings of a retired activation return, one weight return each (R160, R161). A record that
awaits its abandon holds them (R181). -/
def State.tryDrain (s : State) (c a : Nat) : Option State :=
  match AL.find s.acts a with
  | none => none
  | some t =>
    if t.cell = c ∧ t.slot = none ∧ t.dead = [] ∧ s.drained a t then
      let s1 := (anyOrder s.tick t.holdings.length t.holdings).foldl (fun acc h => acc.returnWeight (s.gca c) h.scope h.w) s
      if s.unnamed a t then some { s1 with acts := AL.del s1.acts a, progs := s1.progs.filter (fun p => !(p.2.act == a)) }
      else if t.holdings = [] then none
      else some (s1.modAct a (fun y => { y with holdings := [] }))
    else none

/-- WEIGHT_RETURN_DRAIN (R161). -/
def execWeightReturnDrain (c act : Nat) (s : State) : Out := happen s (s.tryDrain c act)

/-! ### Stealing between cells (R145, R146) -/

/-- Does a cell probe for work when its cycle comes, if none of its frames is ready then (R145)? That none is ready, `State.ready` sees
to, which can try what each would issue (R144). -/
def State.probes (s : State) (c : Nat) : Bool :=
  s.mayDispatch c && !(s.cell c).paired && !(s.freeFrames c).isEmpty &&
  (s.cell c).slots.all (fun p => (s.eligible c p.1 p.2).isNone)

/-- Is the message of a victim's slot stealable (R145)? -/
def State.stealable (s : State) (v k : Nat) (p : InSlot) : Bool :=
  let t := AL.get TagEntry.reset (s.cell v).tags p.msg.tag.toNat
  decide (k < 512) && p.stolen.isNone && t.en && (s.freeFrames v).isEmpty && p.msg.handler != 0 && !isBuiltIn p.msg.handler &&
  s.waitOf (.input v k) == .none && !(p.asked && p.query.isNone) &&
  match s.readDescriptor v (.input v k) p.msg.handler with | (.ok d, _) => d.mobile | _ => false

/-- The stealable messages of the other cells of a cluster in the thief's field (R145). -/
def State.loot (s : State) (c : Nat) : List (Nat × Nat × InSlot) :=
  let f := s.fieldOf c
  ((clusterCells (clusterOf c)).filter (fun v => v != c && !(s.cell v).paired && s.mayDispatch v &&
      (s.cell v).fieldV == (s.cell c).fieldV && (s.cell v).field == (s.cell c).field && f.isSome)).flatMap
    (fun v => ((s.cell v).slots.filter (fun p => s.stealable v p.1 p.2)).map (fun p => (v, p.1, p.2)))

/-- STEAL_PROBE: the stealable message that arrived earliest is taken; ties go to the lowest cell, then slot. The thief checks its
cancellation anew (R145, R146). -/
def State.trySteal (s : State) (c : Nat) : Option State :=
  if !s.probes c then none
  else
    let best := (s.loot c).foldl (fun b x =>
      match b with
      | none => some x
      | some y =>
        if x.2.2.order < y.2.2.order ∨ (x.2.2.order = y.2.2.order ∧ (x.1 < y.1 ∨ (x.1 = y.1 ∧ x.2.1 < y.2.1))) then
          some x else some y) none
    match best, (s.freeFrames c).head? with
    | some (v, k, p), some fs =>
      let chan := (AL.get TagEntry.reset (s.cell v).tags p.msg.tag.toNat).chan
      some ((s.dropSlot v k).modCell c (fun x => { x with
        incoming := x.incoming ++ [{ p with chan := some chan, stolen := some (fs, v), query := none, asked := false }] }))
    | _, _ => none

/-- STEAL_PROBE (R145). -/
def execStealProbe (c : Nat) (s : State) : Out := happen s (s.trySteal c)

/-- STOLEN_MESSAGE_ARRIVAL: a stolen message enters a slot of the thief's pool; it does not count against reservations, and a reserved
slot is never lent (R135, R146). -/
def State.tryStolen (s : State) (c : Nat) : Option State :=
  match (s.cell c).incoming, (if s.poolRoom c then s.lowestSlot c else none) with
  | p :: t, some k =>
    some { s.modCell c (fun x => { x with
      incoming := t, slots := AL.put x.slots k { p with order := s.nextId, pool := true } }) with nextId := s.nextId + 1 }
  | _, _ => none

/-- STOLEN_MESSAGE_ARRIVAL (R146). -/
def execStolenMessageArrival (c : Nat) (s : State) : Out := happen s (s.tryStolen c)

end Sys2Proof.Machine
end

