-- ==== Sys2Proof/Machine/Send.lean ====
section
/-! DEFINITION. Sends, route tags and bell instructions (R139 to R142, R154), over the steps that instructions which
create work share: the cancellation check at issue (R168, R169) and the mints of their splits (R159). -/

namespace Sys2Proof.Machine

/-! ### Instructions that wait for answers -/

/-- What an instruction has done so far; nothing at its first attempt. -/
def State.pendOf (s : State) (c : Ctx) : Pending :=
  (match c.unit with
  | .scalar => (s.fr c).pend
  | .engine _ => match AL.find s.progs (s.progId c) with | some x => x.pend | none => none).getD Pending.zero
/-- Remember it. -/
def State.setPend (s : State) (c : Ctx) (p : Pending) : State :=
  match c.unit with
  | .scalar => s.modFr c (fun f => { f with pend := some p })
  | .engine _ => s.modProg (s.progId c) (fun x => { x with pend := some p })

/-- Who an answer is for: the frame; an engine program asks the home of its scope itself (R168). -/
def Ctx.waiter (c : Ctx) : Waiter := .frame c.cell c.slot

/-- Write a status and finish. -/
def status (s : State) (c : Ctx) (d : Int) (code : Nat) : Issued := .ok (s.setReg c d (word code))

/-- The cancellation check at issue (R169): against the cancel list, or by a query to the scope's home in overflow mode
(R168). `stop` follows where the cell is notified. Stages 0 and 1 are before the check, 2 is after it. -/
def cancelPoint (c : Ctx) (sc : BitVec 32) (p : Pending) (s : State) (stop : State → Issued)
    (go : Pending → State → Issued) : Issued :=
  if p.stage = 0 then
    if (s.cell c.cell).overflow then
      .stall ((s.postCtl (Ctl.make .query (s.gca c.cell) (homeOf sc) sc 0 c.waiter)).setPend c
        { p with stage := 1, answer := none })
    else if s.notified c.cell sc then stop s
    else go { p with stage := 2 } s
  else if p.stage = 1 then
    match p.answer with
    | none => .stall s
    | some v => if v = 0 then go { p with stage := 2, answer := none } s else stop s
  else go p s

/-- The weight of a holding at a split: a weight of 1 takes one of the mints made for it (R159, R162). -/
def mintedWeight (w m : Nat) : Nat × Nat := if w ≤ 1 ∧ 0 < m then (w + mintAmount, m - 1) else (w, m)

/-- Do `n` splits of a holding of `w` need another mint beside `m` made for them: a split mints from a weight of 1 only (R159, R162)? -/
def needsMint : Nat → Nat → Nat → Bool
  | 0, _, _ => false
  | n + 1, w, m =>
    let q := mintedWeight w m
    if q.1 ≤ 1 then true else needsMint n (q.1 - splitShare q.1) q.2

/-- The weight of a holding of the frame's activation. -/
def State.weightIn (s : State) (c : Ctx) (sc : BitVec 32) : Nat :=
  match holdingOf (s.actC c).holdings sc with | some h => h.w | none => 0

/-- Every mint that `n` splits of a holding need, one at a time (R141, R159): the frame stalls for each. What is granted stands in the
holding and is set aside for the splits that find a weight of 1. `stop` follows a refused one. Stage 3 waits for an answer, stage 4 is
after the mints. -/
def mintPoint (c : Ctx) (sc : BitVec 32) (n : Nat) (p : Pending) (s : State) (stop : State → Issued)
    (go : Pending → State → Issued) : Issued :=
  let ask := fun (p : Pending) (t : State) =>
    if needsMint n (t.weightIn c sc - p.mints * mintAmount) p.mints then
      Issued.stall ((t.askMint (t.gca c.cell) sc c.waiter).setPend c { p with stage := 3, answer := none })
    else go { p with stage := 4, answer := none } t
  if p.stage = 2 then ask p s
  else if p.stage = 3 then
    match p.answer with
    | none => .stall s
    | some v => if v = 0 then stop s else ask { p with mints := p.mints + 1 } s
  else go p s

/-- Split a holding: the share, and the state in which the holder keeps the rest (R159). -/
def State.split (s : State) (c : Ctx) (sc : BitVec 32) : Nat × State :=
  let w := s.weightIn c sc
  (splitShare w, s.modActC c (fun a => { a with holdings := setHolding a.holdings sc (w - splitShare w) }))

/-- Split a holding for which `m` mints stand aside: the share, the mints that are left, and the state (R141, R159). -/
def State.splitMinted (s : State) (c : Ctx) (sc : BitVec 32) (m : Nat) : Nat × Nat × State :=
  let w := s.weightIn c sc
  let q := mintedWeight (w - m * mintAmount) m
  let n := splitShare q.1
  (n, q.2, s.modActC c (fun a => { a with holdings := setHolding a.holdings sc (w - n) }))

/-! ### Sends (R140 to R142) -/

/-- The four sends. -/
inductive SendKind | one | many | addr | stage
  deriving DecidableEq, Repr

/-- Does a handler word keep Table 7-7? -/
def handlerWordOk (h : Word) : Bool := bits h 63 57 == 0 && bits h 4 0 == 0

/-- The messages of a send: its scope, element id and target cells. -/
structure SendPlan where
  scope   : BitVec 32
  elem    : BitVec 24
  targets : List (BitVec 24)
  deriving DecidableEq, Repr

/-- May the sender name a cell as a target: on another device, or in its own field and no follower (R141, R411)? -/
def State.targetOk (s : State) (c : Nat) (g : BitVec 24) : Bool :=
  devOf g != s.devNum ||
  match s.fieldOf c with
  | some f => f.ctx.holds (cellOf g) && !((s.cell (cellOf g)).paired && !(s.cell (cellOf g)).leader)
  | none => false

/-- The cell that a virtual data address belongs to (R141). -/
def State.ownerOf (s : State) (c : Nat) (va : Nat) : Option Nat :=
  match regionOf (s.segsOf c) va with
  | .window => some c
  | .seg i =>
    match (s.segsOf c)[i]? with
    | some g => match g.target va with | .sram a => ownerCell a | _ => none
    | none => none
  | _ => none

/-- The cell of an element in a rectangle, row-major (R149). -/
def rectElement (die row0 col0 h w e : Nat) : Nat :=
  let k := e % (h * w)
  cellAt die (row0 + k / w) (col0 + k % w)

/-- The cell that a stage gives an element, if the stage is valid (R149). -/
def State.stageCell (s : State) (c st e : Nat) : Option Nat :=
  match s.fieldOf c with
  | none => none
  | some f =>
    let x := (f.ctx.stages[st]?).getD 0
    if bitAt x 0 then
      some (rectElement (bits x 2 1) (bits x 7 3) (bits x 12 8) (bits x 17 13 + 1) (bits x 22 18 + 1) e)
    else none

/-- The checks of a send before its scope: its plan, or a status of Table 7-9 (R141). -/
def State.planSend (s : State) (c : Ctx) (k : SendKind) (h dest : Word) : SendPlan ⊕ Nat :=
  let own := (s.actC c).naming
  let xs := bitAt h 56
  let sc : BitVec 32 := if xs then dest.extractLsb' 32 32 else own.scope
  let here := fun (n : Nat) => s.gca n
  let check := fun (e : BitVec 24) (ts : List (BitVec 24)) =>
    if ts.all (s.targetOk c.cell) then Sum.inl ⟨sc, e, ts⟩ else Sum.inr 3
  if !handlerWordOk h then .inr 5
  else
    match k with
    | .one => if bits dest 31 24 ≠ 0 then .inr 5 else check own.elem [dest.extractLsb' 0 24]
    | .many =>
      let die := bits dest 21 20
      let r0 := bits dest 19 15
      let c0 := bits dest 14 10
      let hh := bits dest 9 5 + 1
      let ww := bits dest 4 0 + 1
      if bits dest 31 22 ≠ 0 ∨ 32 < r0 + hh ∨ 32 < c0 + ww then .inr 5
      else check own.elem ((rectCells die r0 c0 hh ww).map here)
    | .addr =>
      if bits dest 63 48 ≠ 0 ∨ xs = true then .inr 5
      else
        match s.ownerOf c.cell (bits dest 47 0) with
        | none => .inr 6
        | some n => check own.elem [here n]
    | .stage =>
      if bits dest 31 24 ≠ 0 then .inr 5
      else
        match s.stageCell c.cell (bits h 55 52) (bits dest 23 0) with
        | none => .inr 4
        | some n => check (dest.extractLsb' 0 24) [here n]

/-- The job colour of what a cell sends: that of its field's context (R344). -/
def State.colourAt (s : State) (c : Nat) (own : BitVec 4) : BitVec 4 :=
  match s.fieldOf c with | some f => f.ctx.colour | none => own

/-- The message to one target of a send (R141). -/
def State.sendOf (s : State) (c : Ctx) (cls : MemClass) (h : Word) (ws : List Word) (p : SendPlan) (w : Nat)
    (g : BitVec 24) : Msg :=
  let own := (s.actC c).naming
  { Msg.zero with
    dst := g, handler := lo48 h, words := ws, elem := p.elem, stage := h.extractLsb' 52 4, tag := h.extractLsb' 48 4,
    src := s.gca c.cell, scope := p.scope, w := w, tenant := own.tenant, colour := s.colourAt c.cell own.colour, cls := cls,
    sent := s.time64 }

/-- Is a message to a cell admitted to the outbound queue: the older store-buffer entries have been sent, and a class-O
message to a cell of the same die waits as a class-O store to that cell would: for earlier stores to other ports, and for the frame's
earlier class-O loads on the die (R143, R190, R191)? -/
def State.admits (s : State) (c : Ctx) (cls : MemClass) (g : BitVec 24) : Bool :=
  s.olderSent c &&
  !(cls == .o && devOf g == s.devNum && dieOf (cellOf g) == dieOf c.cell &&
    ((s.cell c.cell).sb.any (fun e => e.sent && e.ordered c.cell && e.port != cellOf g) ||
      s.earlierLoads (s.fr c).act c.cell s.nextId))

/-- Places of the outbound message queue (R142). -/
def outQueueSize : Nat := 16

/-- Queue the messages of a send that remain, as far as the queue has room: up to 16 at once, more as places free
(R142). -/
def queueSends (c : Ctx) (cls : MemClass) (h : Word) (ws : List Word) (d : Int) (p : SendPlan) (pend : Pending) :
    List (BitVec 24) → State → Issued
  | [], s => status s c d 0
  | g :: t, s =>
    let room := outQueueSize - (s.cell c.cell).outq.length
    let need := if pend.sent = 0 then (if p.targets.length ≤ outQueueSize then p.targets.length else 1) else 1
    let done := p.targets.length - (g :: t).length
    if room < need ∨ !s.admits c cls g then .stall (s.setPend c { pend with sent := done })
    else
      let r := s.splitMinted c p.scope pend.mints
      let m := s.sendOf c cls h ws p r.1 g
      let id := r.2.2.nextId
      let s1 := (r.2.2.sendMsg c.cell m).modCell c.cell (fun x => { x with outq := x.outq ++ [id] })
      queueSends c cls h ws d p { pend with sent := done + 1, mints := r.2.1 } t s1

/-- A send's body (R141, R142). -/
def sendBody (c : Ctx) (t : Attr) (k : SendKind) (d a b : Int) (s : State) : Issued :=
  let s := s.marked c
  let h := s.reg c b
  let dest := s.reg c a
  let ws := (List.range 4).map (fun (i : Nat) => s.reg c (b + 1 + (i : Int)))
  let p := s.pendOf c
  if !s.waitOk c t.wait || s.acqBlocked c then .stall s
  else
    match s.planSend c k h dest with
    | .inr code => status s c d code
    | .inl plan =>
      if p.stage = 0 ∧ (holdingOf (s.actC c).holdings plan.scope).isNone then status s c d 2
      else
        cancelPoint c plan.scope p s (fun s => status s c d 1) fun p s =>
          mintPoint c plan.scope plan.targets.length p s (fun s => status s c d 1) fun p s =>
            queueSends c t.cls h ws d plan p (plan.targets.drop p.sent) (s.acqDone c)

/-- A send (R140): it names g[d], g[a] and the block g[b] to g[b+4]. -/
def sendInstr (s : State) (r : Rel) (t : Attr) (k : SendKind) (d a b : RegNum) : Out :=
  withGroup s fun c =>
    let D := s.regNo c r d; let A := s.regNo c r a; let B := s.regNo c r b
    issue s c .leader [D, A, B, B + 1, B + 2, B + 3, B + 4] [D] (sendBody c t k D A B)

/-- R141: to one cell. -/
def execSnd (r : Rel) (t : Attr) (d a b : RegNum) (s : State) : Out := sendInstr s r t .one d a b
/-- R141: to every cell of a rectangle. -/
def execSndm (r : Rel) (t : Attr) (d a b : RegNum) (s : State) : Out := sendInstr s r t .many d a b
/-- R141: to the cell that owns an address. -/
def execSndg (r : Rel) (t : Attr) (d a b : RegNum) (s : State) : Out := sendInstr s r t .addr d a b
/-- R141: to a stage. -/
def execSnds (r : Rel) (t : Attr) (d a b : RegNum) (s : State) : Out := sendInstr s r t .stage d a b

/-! ### Route tags (R139) -/

/-- The entry word of a tag (Table 7-6). -/
def Cell.tagWord (x : Cell) (t : Nat) : Word :=
  let e := AL.get TagEntry.reset x.tags t
  word (flag (x.pend t) * 2 ^ 57 + flag e.en * 2 ^ 56 + e.handler.toNat * 2 ^ 8 + e.chan.toNat * 2 ^ 4 + t)

/-- A route-tag instruction: g[d] takes the entry word as it stood, and the entry changes; a dispatch decision after it checks anew
(R168). -/
def tagInstr (s : State) (r : Rel) (d a : RegNum) (f : Word → TagEntry → TagEntry) : Out :=
  withGroup s fun c =>
    let D := s.regNo c r d; let A := s.regNo c r a
    issue s c .leader [D, A] [D] fun s =>
      let v := s.reg c A
      let t := bits v 3 0
      let old := (s.cell c.cell).tagWord t
      .ok ((s.modCell c.cell (fun x => ({ x with
        tags := AL.put x.tags t (f v (AL.get TagEntry.reset x.tags t)) }).askAnew)).setReg c D old)

/-- R139: channel, table handler, enable. -/
def execTagen (r : Rel) (d a : RegNum) (s : State) : Out :=
  tagInstr s r d a (fun v _ => ⟨true, v.extractLsb' 4 3, BitVec.ofNat 48 (bits v 55 13 * 32)⟩)
/-- R139: disable. -/
def execTagdis (r : Rel) (d a : RegNum) (s : State) : Out := tagInstr s r d a (fun _ e => { e with en := false })
/-- R139: read. -/
def execTagrd (r : Rel) (d a : RegNum) (s : State) : Out := tagInstr s r d a (fun _ e => e)

/-! ### Bells (R150, R154) -/

/-- Is a bell ON and a cell its member (R150)? -/
def State.member (s : State) (c b : Nat) : Bool :=
  let w := (s.bell (dieOf c) b).cfg
  bitAt w 0 && bitAt w (40 + dieOf c) &&
  inRect (dieOf c) (bits w 39 35) (bits w 34 30) (bits w 29 25 + 1) (bits w 24 20 + 1) c

/-- What a cell has registered for the open generation of a bell. -/
def Cell.bellReg (x : Cell) (b : Nat) : BellReg := AL.get ⟨none, none⟩ x.bells b
/-- Change it. -/
def State.modBellReg (s : State) (c b : Nat) (f : BellReg → BellReg) : State :=
  s.modCell c (fun x => { x with bells := AL.put x.bells b (f (x.bellReg b)) })

/-- The dies that a bell's configuration word joins (R150). -/
def bellDies (cfg : Word) : List Nat := (List.range 4).filter (fun d => bitAt cfg (40 + d))

/-- The member cells of a bell, by die (R150). -/
def bellMembers (cfg : Word) : List Nat :=
  (bellDies cfg).flatMap (fun d => rectCells d (bits cfg 39 35) (bits cfg 34 30) (bits cfg 29 25 + 1) (bits cfg 24 20 + 1))

/-- Take `n` external arrivals off the counts of some dies (R151). -/
def State.takeExternal (s : State) (b : Nat) : List Nat → Nat → State
  | [], _ => s
  | d :: t, n =>
    let have_ := (s.bell d b).ext
    (s.modBell d b (fun x => { x with ext := have_ - n })).takeExternal b t (n - have_)

/-- The bell message of a member for a generation, if it has one: R152 gives ELEM, TAG and source of its header word; STAGE is 0 (DESIGN
CHOICE, log 69). -/
def State.bellMsg (s : State) (cfg : Word) (gen : BitVec 24) (b c : Nat) : Option Msg :=
  let r := (s.cell c).bellReg b
  let fill := fun (m : Msg) => { m with elem := gen, stage := 0, tag := cfg.extractLsb' 44 4, sent := s.time64 }
  match r.cont with
  | some m => some (fill m)
  | none => r.bare.map fill

/-- The die under which what a bell has closed is kept: the first of those that it joins (R150). -/
def bellRoot (cfg : Word) (die : Nat) : Nat := (bellDies cfg).headD die

/-- GENERATION_CLOSE: every latch is set, the external arrivals suffice, and every member's bell slot is empty (R151). -/
def State.tryClose (s : State) (die b : Nat) : Option State :=
  let x := s.bell die b
  let cfg := x.cfg
  let dies := bellDies cfg
  let mem := bellMembers cfg
  let ext := dies.foldl (fun acc d => acc + (s.bell d b).ext) 0
  if bitAt cfg 0 && dies.contains die && mem.all (fun c => (s.bell (dieOf c) b).latches.contains c) &&
      decide (bits cfg 63 48 ≤ ext) && mem.all (fun c => !AL.has (s.cell c).slots (512 + b)) then
    let msgs := mem.filterMap (s.bellMsg cfg x.gen b)
    let s1 := dies.foldl (fun t d => t.modBell d b (fun y => { y with latches := [], gen := y.gen + 1 })) s
    let s2 := (s1.takeExternal b dies (bits cfg 63 48))
    let s3 := mem.foldl (fun t c => t.modBellReg c b (fun _ => ⟨none, none⟩)) s2
    some { s3 with dues := s3.dues ++ [⟨bellRoot cfg die, b, msgs⟩] }
  else none

/-- A bell instruction finds a generation closed whose conditions hold already (R151). -/
def State.closeDue (s : State) (die b : Nat) : State := if b < 8 then (s.tryClose die b).getD s else s

/-- `bar` (R154): the latch is set once; a bare bell is reserved unless a continuation is registered. Its effects come together when its
mint, if it needs one, has come (R7, R159). An own scope without a holding arrives and reserves nothing, as where it is cancelled
(log 23). -/
def barBody (c : Ctx) (d a : Int) (s : State) : Issued :=
  let b := (s.reg c a).toNat
  let p := s.pendOf c
  let die := dieOf c.cell
  let sc := (s.actC c).naming.scope
  let s := s.closeDue die b
  let arrive := fun (t : State) (code : Nat) =>
    status (t.modBell die b (fun x => { x with latches := x.latches ++ [c.cell] })) c d code
  if 7 < b then status s c d 5
  else if !s.member c.cell b then status s c d 4
  else if (s.bell die b).latches.contains c.cell then status s c d 2
  else
    cancelPoint c sc p s (fun s => arrive s 1) fun p s =>
      if ((s.cell c.cell).bellReg b).cont.isSome then arrive s 0
      else if (holdingOf (s.actC c).holdings sc).isNone then arrive s 1
      else
        mintPoint c sc 1 p s (fun s => arrive s 1) fun _ s =>
          let r := s.split c sc
          let nm := (s.actC c).naming
          let m : Msg := { Msg.zero with
            dst := s.gca c.cell, words := [0, 0, 0, 0], src := s.gca c.cell, scope := sc, w := r.1, tenant := nm.tenant,
            colour := s.colourAt c.cell nm.colour }
          arrive (r.2.modBellReg c.cell b (fun x => { x with bare := some m })) 0

/-- R154. -/
def execBar (r : Rel) (d a : RegNum) (s : State) : Out :=
  withGroup s fun c =>
    let D := s.regNo c r d; let A := s.regNo c r a
    issue s c .leader [D, A] [D] (barBody c D A)

/-- `barw` (R154): a continuation for the generation that is open when its mint, if it needs one, has come; it gives back a bare bell's
weight. -/
def barwBody (c : Ctx) (d a : Int) (s : State) : Issued :=
  let b := (s.reg c d).toNat
  let p := s.pendOf c
  let nm := (s.actC c).naming
  let sc := nm.scope
  let s := s.closeDue (dieOf c.cell) b
  let reg := (s.cell c.cell).bellReg b
  if 7 < b then status s c d 5
  else if !s.member c.cell b then status s c d 4
  else if reg.cont.isSome then status s c d 3
  else
    cancelPoint c sc p s (fun s => status s c d 1) fun p s =>
      if (holdingOf (s.actC c).holdings sc).isNone then status s c d 1
      else
        mintPoint c sc 1 p s (fun s => status s c d 1) fun _ s =>
          let r := s.split c sc
          let m : Msg := { Msg.zero with
            dst := s.gca c.cell, handler := lo48 (s.reg c a),
            words := (List.range 4).map (fun (i : Nat) => s.reg c (a + 1 + (i : Int))),
            src := s.gca c.cell, scope := sc, w := r.1, tenant := nm.tenant,
            colour := s.colourAt c.cell nm.colour }
          let s1 := match ((r.2.cell c.cell).bellReg b).bare with
            | some h => r.2.returnWeight (s.gca c.cell) h.scope h.w
            | none => r.2
          status (s1.modBellReg c.cell b (fun _ => ⟨none, some m⟩)) c d 0

/-- R154. -/
def execBarw (r : Rel) (d a : RegNum) (s : State) : Out :=
  withGroup s fun c =>
    let D := s.regNo c r d; let A := s.regNo c r a
    issue s c .leader [D, A, A + 1, A + 2, A + 3, A + 4] [D] (barwBody c D A)

end Sys2Proof.Machine
end

