-- ==== Sys2Proof/Machine/Traps.lean ====
section
/-! DEFINITION. Taking traps on the scalar core and on engines, and the verdicts that answer them (R53 to R56, R181,
R326). -/

namespace Sys2Proof.Machine

/-! ### Writing records -/

/-- A trap of a frame, once its record is written or has to wait (R53, step 3; R326). -/
def State.frameTrapTo (s : State) (c slot : Nat) (st : TrapStage) : State :=
  let set := fun (t : State) (cell : Nat) =>
    t.modFrame cell slot (fun f => { f with trap := f.trap.map (fun x => { x with stage := st }) })
  let s1 := set s c
  match s.follower c with | some d => if (s.actOf c slot).checked then set s1 d else s1 | none => s1

/-- Write the record of a frame's trap, or keep it waiting for a free entry. -/
def State.recordFrame (s : State) (c slot : Nat) (t : Trap) : Option State :=
  match s.fieldOf c with
  | none => none
  | some f =>
    match f.trapEntry with
    | none => if t.stage = .deferred then none else some (s.frameTrapTo c slot .deferred)
    | some k =>
      let req : FaultReq := .frame c slot
      if s.isWaiting req then none
      else
        match s.writeTrap c f k t (unitCode .scalar) slot (s.actOf c slot).naming (some (snapshot (s.frame c slot))) req with
        | .done s1 ra => some ((s1.frameTrapTo c slot (.recorded k ra)).offerSlot c slot 4 0 t.cause)
        | .wait s1 => some s1

/-- TRAP_TAKEN: once the frame's outstanding instructions are complete, the record and snapshot are written and the trap
message is sent (R53). A checked activation takes a chime first, and its leader writes (R413). -/
def State.tryTrap (s : State) (c slot : Nat) : Option State :=
  let f := s.frame c slot
  match f.trap with
  | none => none
  | some t =>
    let chk := AL.has (s.cell c).pairs slot
    if f.life ≠ .frozen ∨ t.stage ≠ .raised ∨ !f.outst.isEmpty then none
    else if chk ∧ !(s.pairU c slot).passed then
      if (s.pairU c slot).waiting then none else some (s.modPair c slot (fun p => { p with waiting := true }))
    else if chk ∧ !(s.cell c).leader then none
    else s.recordFrame c slot t

/-- TRAP_TAKEN (R53). -/
def execTrapTaken (c slot : Nat) (s : State) : Out := happen s (s.tryTrap c slot)

/-- Write the record of an engine program's trap (R56). A launch record that failed has no snapshot (R245). -/
def State.recordProg (s : State) (p : Nat) (x : Prog) (t : Trap) : Option State :=
  match s.fieldOf x.cell with
  | none => none
  | some f =>
    let stage := fun (st : TrapStage) (s1 : State) =>
      s1.modProg p (fun y => { y with trap := some { t with stage := st } })
    match f.trapEntry with
    | none => if t.stage = .deferred then none else some (stage .deferred s)
    | some k =>
      let req : FaultReq := .prog p
      if s.isWaiting req then none
      else
        let snap := if x.life = .refused then none else some (snapshotE ((s.cell x.cell).engine x.unit).e)
        match s.writeTrap x.cell f k t (unitCode (.engine x.unit)) 0 x.naming snap req with
        | .done s1 ra =>
          some ((stage (.recorded k ra) s1).offer x.cell 4 x.naming 0 0 0 0 t.cause)
        | .wait s1 => some s1

/-- ENGINE_TRAP: the trap of the program an engine runs, or of a launch record that failed (R56, R245). -/
def State.tryEngineTrap (s : State) (c : Nat) (u : EngineUnit) : Option State :=
  match s.progs.find? (fun p => p.2.cell == c && p.2.unit == u &&
      (match p.2.trap with | some t => t.stage == .raised | none => false) && s.writesDone p.1) with
  | none => none
  | some (p, x) => match x.trap with | some t => s.recordProg p x t | none => none

/-- ENGINE_TRAP (R56). -/
def execEngineTrap (c : Nat) (u : EngineUnit) (s : State) : Out := happen s (s.tryEngineTrap c u)

/-- Who waits for a free entry of a trap area: a frame, an engine program or a retired activation. -/
inductive Deferred
  | frame (c slot : Nat) (t : Trap)
  | prog (p : Nat) (x : Prog) (t : Trap)
  | dead (a : Nat) (x : Act) (t : Trap)
  deriving DecidableEq, Repr

/-- When the trap was raised. -/
def Deferred.order : Deferred → Nat
  | .frame _ _ t => t.order
  | .prog _ _ t => t.order
  | .dead _ _ t => t.order

/-- The deferred traps of a field (R326). -/
def State.deferredTraps (s : State) (f : Nat) : List Deferred :=
  let inField := fun (c : Nat) => (s.cell c).fieldV && (s.cell c).field == f
  let waits := fun (t : Option Trap) => t.filter (fun x => x.stage == .deferred)
  let dead := fun (y : Act) => y.dead.find? (fun x => x.stage == .deferred)
  (s.cells.flatMap (fun p => if inField p.1 && !(p.2.paired && !p.2.leader) then
      p.2.frames.filterMap (fun q => (waits q.2.trap).map (fun t => Deferred.frame p.1 q.1 t)) else [])) ++
  (s.progs.filterMap (fun p => if inField p.2.cell then
      (waits p.2.trap).map (fun t => Deferred.prog p.1 p.2 t) else none)) ++
  (s.acts.filterMap (fun p => if inField p.2.cell then
      (dead p.2).map (fun t => Deferred.dead p.1 p.2 t) else none))

/-- TRAP_DEFERRED_WRITE: the trap of a field that was raised first takes the entry that is free (R326). -/
def State.tryDeferred (s : State) (f : Nat) : Option State :=
  let first : Option Deferred := (s.deferredTraps f).foldl (fun b x =>
    match b with
    | none => some x
    | some y => if x.order < y.order then some x else some y) none
  match first with
  | some (.frame c slot t) => s.recordFrame c slot t
  | some (.prog p x t) => s.recordProg p x t
  | some (.dead a x t) =>
    match s.fieldOf x.cell with
    | none => none
    | some fd =>
      match fd.trapEntry with
      | none => none
      | some k =>
        if s.isWaiting (deadReq x.cell a) then none
        else
          match s.writeTrap x.cell fd k t 0 0 x.naming none (deadReq x.cell a) with
          | .done s1 ra => some (s1.deadRecorded a x t k ra)
          | .wait s1 => some s1
  | none => none

/-- TRAP_DEFERRED_WRITE (R326). -/
def execTrapDeferredWrite (f : Nat) (s : State) : Out := happen s (s.tryDeferred f)

/-! ### Verdicts (R55, R56) -/

/-- What a verdict comes to: carried out, refused with BAD_VERDICT, or waiting for a page, a line or for ever. -/
inductive VerdictResult
  | done (s : State)
  | bad (s : State)
  | wait (s : State)
  deriving DecidableEq, Repr

/-- Is a trap recorded at an address? -/
def recordedAt (t : Option Trap) (ra : Addr) : Option Nat :=
  match t with
  | some ⟨_, _, _, _, .recorded k r, _⟩ => if r = ra then some k else none
  | _ => none

/-- An entry of the trap area of a cell's field is free again (R326). -/
def State.freeEntry (s : State) (c k : Nat) : State :=
  s.modField (s.cell c).field (fun f => { f with trapUse := f.trapUse.filter (fun j => j != k) })

/-- Invalidate the lines of a cell that hold the groups at two addresses (R55). -/
def State.dropCode (s : State) (c : Nat) (pc next : Addr) : State :=
  let lines := [pc.toNat, pc.toNat + 9, next.toNat, next.toNat + 9].map (fun a => a / 64)
  (s.modCell c (fun x => { x with icache := lines.foldl AL.del x.icache })).staleLines c (fun k => lines.contains k)

/-- The record and the snapshot of an entry, as memory holds them: PC, NEXT and 80 doublewords (R55). -/
def readEntry (w : Who) (ra : Addr) : M (Addr × Addr × List Word) := do
  let r ← readWords w ra.toNat 8 .r
  let snap ← readWords w (ra.toNat + 0x40) 80 .r
  pure (lo48 ((r[0]?).getD 0), lo48 ((r[7]?).getD 0), snap)

/-- The registers of a snapshot. -/
def snapRegs (n : Nat) (snap : List Word) : Regs :=
  (List.range n).foldl (fun r i => Regs.set r i ((snap[i]?).getD 0)) []

/-- The index registers of a snapshot. -/
def snapX (snap : List Word) : AL (BitVec 16) :=
  let w := (snap[64]?).getD 0
  (List.range 4).map (fun i => (i, BitVec.ofNat 16 (bits w (16 * i + 15) (16 * i))))

/-- A frame goes on after a resume verdict: at PC with NEXT to follow, or at NEXT; an odd address traps ALIGN, a kept
refusal traps ACCESS, before anything issues (R55, R181). That a kept refusal comes before an odd address is the model's choice (DESIGN
CHOICE, log 18). -/
def State.resumeFrame (s : State) (c slot : Nat) (after : Bool) (pc next : Addr) (snap : List Word) : State :=
  let a := (s.frame c slot).act
  let act := s.act a
  let set := fun (t : State) (cell : Nat) =>
    let t1 := (t.endWait (.frame cell slot)).modFrame cell slot (fun f =>
      let g := snapRegs f.size snap
      { f with life := .running, trap := none, g := g, x := snapX snap, off := false, pend := none, mark := none,
               held := none, pc := if after then next else pc, resume := if after then none else some next })
    let f := t1.frame cell slot
    let t2 := (t1.modPair cell slot (fun _ => { PairUnit.idle with check := some ⟨f.g, f.x, f.cr, f.pc⟩ })).dropCode cell
      pc next
    let odd := fun (v : Addr) => t2.raiseTrap cell slot 0x08 ⟨v, v, 0, [], 0⟩ (addrWord v) v
    match act.kept with
    | some k => t2.raiseTrap cell slot 0x0A k.site (addrWord k.va) k.site.next
    | none => if pc.toNat % 2 = 1 then odd pc else if next.toNat % 2 = 1 then odd next else t2
  let s1 := set s c
  let s2 := match s.follower c with | some d => if act.checked then set s1 d else s1 | none => s1
  s2.modAct a (fun y => { y with kept := none })

/-- An engine program goes on after a resume verdict (R56). -/
def State.resumeProg (s : State) (p : Nat) (x : Prog) (after : Bool) (pc next : Addr) (snap : List Word) : State :=
  let s1 := ((s.endWait (.prog p)).modEngine x.cell x.unit (fun e => { e with e := snapRegs 16 snap })).modProg p (fun y =>
    { y with life := .running, trap := none, off := false, pend := none, held := none,
             pc := if after then next else pc, resume := if after then none else some next })
  let s2 := s1.dropCode x.cell pc next
  let odd := fun (v : Addr) => s2.raiseEngineTrap p 0x08 ⟨v, v, 0, [], 0⟩ (addrWord v)
  if pc.toNat % 2 = 1 then odd pc else if next.toNat % 2 = 1 then odd next else s2

/-- A resume verdict reads the entry and goes on with what it read. -/
def State.resumeWith (s : State) (c : Nat) (req : FaultReq) (ra : Addr) (k : Nat)
    (go : State → Addr → Addr → List Word → State) : VerdictResult :=
  match s.waitOf req with
  | .refused _ => .bad (s.endWait req)
  | _ =>
    if s.isWaiting req then .wait s
    else
      match (readEntry (s.whoCell c req) ra).exec s with
      | (.ok (pc, next, snap), s1) => .done (go (s1.freeEntry c k) pc next snap)
      | (.error (.refused _), s1) => .bad s1
      | (.error x, _) => .wait (s.stopFor req c (s.cell c).field x)

/-- The frame, engine program or retired activation of a cell that a record address names. -/
inductive RecordHolder
  | frame (slot entry : Nat)
  | prog (p : Nat) (x : Prog) (entry : Nat)
  | dead (a entry : Nat)
  deriving DecidableEq, Repr

/-- Find it. -/
def State.holderOf (s : State) (c : Nat) (ra : Addr) : Option RecordHolder :=
  match (s.cell c).frames.findSome? (fun p => (recordedAt p.2.trap ra).map (fun k => RecordHolder.frame p.1 k)) with
  | some h => some h
  | none =>
    match s.progs.findSome? (fun p =>
        if p.2.cell = c then (recordedAt p.2.trap ra).map (fun k => RecordHolder.prog p.1 p.2 k) else none) with
    | some h => some h
    | none =>
      s.acts.findSome? (fun p =>
        if p.2.cell = c then p.2.dead.findSome? (fun t => (recordedAt (some t) ra).map (fun k => RecordHolder.dead p.1 k)) else none)

/-- A verdict reaches the trap service of a cell (R55, Table 2-16). -/
def State.verdict (s : State) (c : Nat) (ra : Addr) (code : Nat) : VerdictResult :=
  match s.holderOf c ra, code with
  | some (.frame slot k), 0 => s.resumeWith c (.frame c slot) ra k (fun t pc nx sn => t.resumeFrame c slot false pc nx sn)
  | some (.frame slot k), 1 => s.resumeWith c (.frame c slot) ra k (fun t pc nx sn => t.resumeFrame c slot true pc nx sn)
  | some (.frame slot k), 2 =>
    .done (((s.modActOf c slot (fun a => { a with kept := none })).freeEntry c k).freeFrame c slot)
  | some (.frame _ _), 3 => .done s
  | some (.prog p x k), 0 =>
    if x.life = .refused then .bad s
    else s.resumeWith c (.prog p) ra k (fun t pc nx sn => t.resumeProg p x false pc nx sn)
  | some (.prog p x k), 1 =>
    if x.life = .refused then .bad s
    else s.resumeWith c (.prog p) ra k (fun t pc nx sn => t.resumeProg p x true pc nx sn)
  | some (.prog p _ k), 2 =>
    .done (((s.freeEntry c k).endWait (.prog p)).modProg p (fun y => { y with life := .ending, trap := none }))
  | some (.prog _ x _), 3 => if x.life = .refused then .bad s else .done s
  | some (.dead a k), 2 => .done ((s.freeEntry c k).modAct a (fun y =>
      { y with dead := y.dead.filter (fun t => (recordedAt (some t) ra).isNone) }))
  | _, _ => .bad s

/-- A verdict as a step: a refused one changes nothing but what its reads have logged; the negative acknowledgement of its
message is BUILT_IN_HANDLER's (R55, R362). -/
def State.tryVerdict (s : State) (c : Nat) (ra : Addr) (code : Nat) : Option State :=
  match s.verdict c ra code with
  | .done t => some t
  | .bad t => some t
  | .wait t => some t

/-- VERDICT_RESUME_AT (R55). -/
def execVerdictResumeAt (c : Nat) (record : Addr) (s : State) : Out := happen s (s.tryVerdict c record 0)
/-- VERDICT_RESUME_AFTER (R55). -/
def execVerdictResumeAfter (c : Nat) (record : Addr) (s : State) : Out := happen s (s.tryVerdict c record 1)
/-- VERDICT_ABANDON (R55). -/
def execVerdictAbandon (c : Nat) (record : Addr) (s : State) : Out := happen s (s.tryVerdict c record 2)
/-- VERDICT_KEEP (R55). -/
def execVerdictKeep (c : Nat) (record : Addr) (s : State) : Out := happen s (s.tryVerdict c record 3)

end Sys2Proof.Machine
end

