-- ==== Sys2Proof/Machine/Scope.lean ====
section
/-! DEFINITION. Scopes: the scope instructions (R170 to R174) and the steps of the scope ports (R157 to R169). -/

namespace Sys2Proof.Machine

/-! ### Records -/

/-- The record of a scope whose home lies on this device. -/
def State.scopeRec (s : State) (sc : BitVec 32) : ScopeRec :=
  AL.get ScopeRec.free (s.cell (cellOf (homeOf sc))).scopes (slotOf sc)

/-- Replace it; a free slot is not listed. -/
def State.setScope (s : State) (sc : BitVec 32) (r : ScopeRec) : State :=
  s.modCell (cellOf (homeOf sc)) (fun x => { x with
    scopes := if r.life = .free then AL.del x.scopes (slotOf sc) else AL.put x.scopes (slotOf sc) r })

/-- Is the home of a scope on this device? -/
def State.homeHere (s : State) (sc : BitVec 32) : Bool := devOf (homeOf sc) == s.devNum

/-- Is a record live: open or closing (Table 8-2)? -/
def ScopeRec.live (r : ScopeRec) : Bool := r.life == .open || r.life == .closing

/-- A free slot of a cell's scope table that is not reserved (R174): the lowest (DESIGN CHOICE, log 45). -/
def State.freeScope (s : State) (c : Nat) : Option Nat :=
  (List.range 256).find? (fun k => !AL.has (s.cell c).scopes k && !(s.cell c).opening.contains k)

/-- A record as it opens (R162, R163, R174). -/
def ScopeRec.opened (parent : BitVec 32) (sib : BitVec 32) (depth : Nat) (tenant colour : BitVec 4) (root : Bool) :
    ScopeRec :=
  { ScopeRec.free with
    life := .open, parent := parent, sib := sib, issued := word (2 ^ 40), depth := BitVec.ofNat 4 depth,
    tenant := tenant, colour := colour, root := root }

/-! ### Answers -/

/-- The unit that an answer goes to. -/
def State.replyTo (s : State) (w : Waiter) : BitVec 24 :=
  match w with
  | .frame c _ => s.gca c
  | .input c _ => s.gca c
  | .unit c _ => s.gca c
  | .scope sc => homeOf sc
  | .via sc _ => homeOf sc
  | .prog p => match AL.find s.progs p with | some x => s.gca x.cell | none => s.gca 0
  | .remote d _ => BitVec.ofNat 12 d ++ (0 : BitVec 12)
  | .wake k => match AL.find s.wakes k with | some d => d.msg.src | none => s.gca 0
  | .none => s.gca 0

/-- Answer a request. -/
def State.reply (s : State) (c : Ctl) (k : CtlKind) (value : Word) (other : BitVec 32) : State :=
  if c.who = .none then s
  else s.postCtl { Ctl.make k c.dst (s.replyTo c.who) c.scope other c.who with value := value }

/-! ### Serving at a port (R157) -/

/-- Must an earlier control message between the same units be served first (R157)? -/
def State.ctlBehind (s : State) (x : Nat) (c : Ctl) : Bool :=
  s.ctls.any (fun p => decide (p.1 < x) && p.2.src == c.src && p.2.dst == c.dst)

/-- Does a global cell address lie in a fenced field of this device? -/
def State.fencedGca (s : State) (g : BitVec 24) : Bool := devOf g == s.devNum && s.fencedCell (cellOf g)

/-- A fence discards what comes from or goes to its field, and the port that number `x` meets counts it (Table 17-11, steps 1
and 4). -/
def State.fenceDrop (s : State) (x c : Nat) : State := s.countDrop (s.fencePort .o x c)

/-- Does a control message come from a cell of a fenced field, or go to one? The transport engine's notices and
the answers to the hub die's own requests go to no cell; a clear is acknowledged at once by a cell that was reset (R351; log 38). -/
def State.ctlFenced (s : State) (c : Ctl) : Bool :=
  let from_ := !c.hub && s.fencedGca c.src
  let to_ := match c.kind, c.who with
    | .notice, _ => decide (c.value.toNat < cellCount) && s.fencedGca c.dst
    | .clear, _ => false
    | .linkres, .scope _ => false
    | _, .wake k =>
      (match AL.find s.wakes k with | some d => d.msg.hub && (c.kind == .grant || c.kind == .refuse) | none => false) = false &&
        s.fencedGca c.dst
    | _, _ => s.fencedGca c.dst
  from_ || to_

/-- Serve a control message of a kind, unless a fence stops it. -/
def State.serve (s : State) (x : Nat) (kinds : List CtlKind) (f : Ctl → State → Option State) : Option State :=
  match AL.find s.ctls x with
  | none => none
  | some c =>
    if !kinds.contains c.kind || s.ctlBehind x c then none
    else
      let s1 : State := { s with ctls := AL.del s.ctls x }
      if c.kind != .clearack && s.ctlFenced c then some (s1.fenceDrop x (cellOf c.dst))
      else f c s1

/-! ### Weight (R159, R163) -/

/-- MINT at the home: 2^20 more, or a refusal (R159). -/
def State.serveMint (s : State) (x : Nat) : Option State :=
  s.serve x [.mint] fun c s =>
    let r := s.scopeRec c.scope
    if r.canc || !r.live then some (s.reply c .refuse 0 0)
    else some ((s.setScope c.scope { r with issued := r.issued + word mintAmount }).reply c .grant (word mintAmount) 0)

/-- MINT (R159). -/
def execMint (x : Nat) (s : State) : Out := happen s (s.serveMint x)

/-- The answer that a waiting frame or program has been given. A message that is no longer eligible drops the answer to its decision, and a
later decision asks anew (R168). -/
def State.answerTo (s : State) (w : Waiter) (v : Word) : State :=
  match w with
  | .frame c slot => s.modFrame c slot (fun f => { f with pend := f.pend.map (fun p => { p with answer := some v }) })
  | .prog p => s.modProg p (fun x => { x with pend := x.pend.map (fun q => { q with answer := some v }) })
  | .unit c sc => s.modCell c (fun x =>
      if x.overflow && AL.has x.unitAsks sc.toNat then { x with unitAsks := AL.put x.unitAsks sc.toNat (some (v != 0)) }
      else { x with unitAsks := AL.del x.unitAsks sc.toNat })
  | .input c k => (s.modCell c (fun x =>
      match AL.find x.slots k with
      | some q =>
        let due := (s.eligible c k { q with asked := false }).isSome
        { x with slots := AL.put x.slots k (if due then { q with query := some (v != 0) } else { q with asked := false }) }
      | none => x)).mirrorSlots c
  | _ => s

/-- A weight granted to a holder joins its holding (R159). -/
def State.grantTo (s : State) (w : Waiter) (sc : BitVec 32) (n : Nat) : State :=
  match w with
  | .frame c slot =>
    (s.modActOf c slot (fun a =>
      { a with holdings := a.holdings.map (fun h => if h.scope = sc then { h with w := h.w + n } else h) })).answerTo w 1
  | .prog p => (s.modProg p (fun x => { x with w := x.w + n })).answerTo w 1
  | .wake k =>
    match AL.find s.wakes k with
    | some d => { s with wakes := AL.put s.wakes k { d with granted := true } }
    | none => s
  | _ => s

/-- GRANT: the weight joins the holding and the stalled instruction goes on (R159). -/
def State.serveGrant (s : State) (x : Nat) : Option State :=
  s.serve x [.grant] fun c s => some (s.grantTo c.who c.scope c.value.toNat)

/-- GRANT (R159). -/
def execGrant (x : Nat) (s : State) : Out := happen s (s.serveGrant x)

/-- REFUSE: the instruction ends with CANCELLED; a wake or completion message is not sent, and one of the service scope is
logged by its cell (R159, R263, R326). -/
def State.serveRefuse (s : State) (x : Nat) : Option State :=
  s.serve x [.refuse] fun c s =>
    match c.who with
    | .wake k =>
      match AL.find s.wakes k with
      | some d =>
        let s1 : State := { s with wakes := AL.del s.wakes k }
        some (if d.service && !d.msg.hub then s1.logRefusal (cellOf d.msg.src) 0 d.msg else s1)
      | none => some s
    | w => some (s.answerTo w 0)

/-- REFUSE (R159). -/
def execRefuse (x : Nat) (s : State) : Out := happen s (s.serveRefuse x)

/-! ### Cancellation (R167, R168) -/

/-- The receiver number of the transport engine among those of a notice, above the cells. -/
def xportReceiver : Nat := cellCount
/-- The receiver number of another device. -/
def deviceReceiver (d : Nat) : Nat := 2 * cellCount + d

/-- The devices named in the fabric windows of a cell's context (R168). -/
def State.windowDevices (s : State) (c : Nat) : List Nat :=
  (((s.segsOf c).filter (fun g => g.kind == 4)).map (fun g => bits g.kf 11 0)).eraseDups

/-- The receivers of the notices of a home (R168). -/
def State.receivers (s : State) (c : Nat) : List Nat :=
  List.range cellCount ++ [xportReceiver] ++ (s.windowDevices c).map deviceReceiver

/-- Who sends a notice or a clear: a cell, or a unit of the hub die (R134). -/
structure Sender where
  gca : BitVec 24
  hub : Bool
  deriving DecidableEq, Repr

/-- The home of a scope as a sender. -/
def homeSender (sc : BitVec 32) : Sender := ⟨homeOf sc, false⟩

/-- A notice or clear to one receiver: its number stands in the value. -/
def State.tellOne (s : State) (k : CtlKind) (sc : BitVec 32) (who : Waiter) (u : Sender) (n : Nat) : State :=
  let dst : BitVec 24 := if n < cellCount then s.gca n
    else if n = xportReceiver then s.devNum ++ (0x020 : BitVec 12)
    else BitVec.ofNat 12 (n - 2 * cellCount) ++ (0 : BitVec 12)
  s.postCtl { Ctl.make k u.gca dst sc 0 who with value := word n, hub := u.hub }

/-- To some receivers. -/
def State.tellAll (s : State) (k : CtlKind) (sc : BitVec 32) (who : Waiter) (u : Sender) (to_ : List Nat) : State :=
  to_.foldl (fun t n => t.tellOne k sc who u n) s

/-- A scope becomes cancelled at its home: flag, notice, choke to every child (R167). The receivers of the notice are kept: its clear goes to
the same (R168). -/
def State.cancelHere (s : State) (sc : BitVec 32) : State :=
  let r := s.scopeRec sc
  let to_ := s.receivers (cellOf (homeOf sc))
  let s1 := (s.setScope sc { r with canc := true, acks := to_ }).tellAll .notice sc .none (homeSender sc) to_
  r.kids.foldl (fun t k => t.postCtl (Ctl.make .choke (homeOf sc) (homeOf k) k 0 .none)) s1

/-- CANCEL: a direct cancel at the home, from `scancel` or from a claim (R167). -/
def State.serveCancel (s : State) (x : Nat) : Option State :=
  s.serve x [.cancel] fun c s =>
    let r := s.scopeRec c.scope
    if !r.live then some (s.reply c .answer 2 0)
    else if r.canc then some (s.reply c .answer 2 0)
    else some ((s.cancelHere c.scope).reply c .answer 0 0)

/-- CANCEL (R167). -/
def execCancel (x : Nat) (s : State) : Out := happen s (s.serveCancel x)

/-- CHOKE: a cancellation from the parent, which stops at a shield (R167). -/
def State.serveChoke (s : State) (x : Nat) : Option State :=
  s.serve x [.choke] fun c s =>
    let r := s.scopeRec c.scope
    if !r.live || r.canc || r.shld then some s else some (s.cancelHere c.scope)

/-- CHOKE (R167). -/
def execChoke (x : Nat) (s : State) : Out := happen s (s.serveChoke x)

/-- Enter a notice into a cell's cancel list, or set its overflow mode (R168). -/
def Cell.notice (x : Cell) (sc : BitVec 32) : Cell :=
  if x.cancels.contains sc then x
  else if 256 ≤ x.cancels.length then { x with overflow := true }
  else { x with cancels := x.cancels ++ [sc] }

/-- NOTICE: entered into a receiver's cancel list. A hub die passes a notice from another device on to its own cells
(R168). -/
def State.serveNotice (s : State) (x : Nat) : Option State :=
  s.serve x [.notice] fun c s =>
    let n := c.value.toNat
    if 2 * cellCount ≤ n then
      some (s.tellAll .notice c.scope .none ⟨c.src, c.hub⟩ (List.range cellCount ++ [xportReceiver]))
    else if n = xportReceiver then
      some { s with xportCancels := if s.xportCancels.contains c.scope then s.xportCancels else s.xportCancels ++ [c.scope] }
    else some (s.modCell n (fun y => y.notice c.scope))

/-- NOTICE (R168). -/
def execNotice (x : Nat) (s : State) : Out := happen s (s.serveNotice x)

/-- Take a scope out of a cell's cancel list; with room again the cell leaves overflow mode (R168). -/
def Cell.clearScope (x : Cell) (sc : BitVec 32) : Cell :=
  let l := x.cancels.filter (fun y => y != sc)
  let on := x.overflow && decide (256 ≤ l.length)
  { x with cancels := l, overflow := on, unitAsks := if on then x.unitAsks else [] }

/-- Is a scope another one or below it (R351)? The records of this device tell; beyond a record of another device `Config.beneath` does
(log 38). -/
def State.below (s : State) (root : BitVec 32) : Nat → BitVec 32 → Bool
  | 0, sc => sc == root
  | n + 1, sc =>
    sc == root ||
    (if s.homeHere sc then (s.scopeRec sc).live && State.below s root n (s.scopeRec sc).parent else Config.beneath root sc)

/-- Is a control message one that a unit owes to scopes: a weight return or a scope request, and no notice, clear or
acknowledgement of one (R351)? -/
def CtlKind.owed (k : CtlKind) : Bool := !(k == .notice || k == .clear || k == .clearack)

/-- Is a launch linked under a parent scope (Table 17-5)? -/
def Launch.parented (l : Launch) : Bool := bitAt ((l.packet[6]?).getD 0) 29
/-- The parent scope that its packet names (Table 17-5). -/
def Launch.parent (l : Launch) : BitVec 32 := ((l.packet[6]?).getD 0).extractLsb' 32 32

/-- Does a cell hold a live thing of a scope or of one below it, or a return or request that it owes them and has not sent, or is a message
of them on its way to it (R351)? -/
def State.cellHolds (s : State) (root : BitVec 32) (c : Nat) : Bool :=
  let b := fun sc => s.below root 15 sc
  let slot := fun (q : InSlot) => b q.msg.scope
  let here := fun (g : BitVec 24) (hub : Bool) => !hub && g == s.gca c
  let x := s.cell c
  s.acts.any (fun p => p.2.cell == c && p.2.holdings.any (fun h => b h.scope)) ||
  s.progs.any (fun p => p.2.cell == c && p.2.life != .ended && b p.2.naming.scope) ||
  s.copies.any (fun p => (p.2.cell == c || p.2.chunks.any (fun k => k.2.cell == c)) && b p.2.scope) ||
  s.msgs.any (fun p => (here p.2.msg.dst false || here p.2.msg.src p.2.msg.hub) && b p.2.msg.scope) ||
  s.wakes.any (fun p => here p.2.msg.src p.2.msg.hub && b p.2.msg.scope) ||
  s.dues.any (fun d => d.msgs.any (fun m => here m.dst false && b m.scope)) ||
  s.ctls.any (fun p => p.2.kind.owed && here p.2.src p.2.hub && b p.2.scope) ||
  x.slots.any (fun q => slot q.2) || x.incoming.any slot || x.joins.any (fun q => b q.2.naming.scope) ||
  x.bells.any (fun q => (match q.2.bare with | some h => b h.scope | none => false) ||
    (match q.2.cont with | some m => b m.scope | none => false))

/-- Does this device hold a live thing of a scope or of one below it, or a return or request that it owes them and has not sent
(R351)? A launch below it owes its parent's unit (R338). -/
def State.holdsWork (s : State) (root : BitVec 32) : Bool :=
  let b := fun sc => s.below root 15 sc
  let slot := fun (q : InSlot) => b q.msg.scope
  s.launches.any (fun p => p.2.parented && b p.2.parent) ||
  s.acts.any (fun p => p.2.holdings.any (fun h => b h.scope)) || s.progs.any (fun p => b p.2.naming.scope) ||
  s.copies.any (fun p => b p.2.scope) || s.transfers.any (fun p => b p.2.scope) || s.msgs.any (fun p => b p.2.msg.scope) ||
  s.wakes.any (fun p => b p.2.msg.scope) || s.dues.any (fun d => d.msgs.any (fun m => b m.scope)) ||
  s.ctls.any (fun p => p.2.kind.owed && b p.2.scope) ||
  s.packets.any (fun p => !(p.2.pkt.kind == 7 && ((CtlKind.ofOp p.2.pkt.op.toNat 0).any (fun k => !k.owed))) && b p.2.pkt.scope) ||
  s.cells.any (fun p => p.2.slots.any (fun q => slot q.2) || p.2.incoming.any slot || p.2.joins.any (fun q => b q.2.naming.scope) ||
    p.2.bells.any (fun q => (match q.2.bare with | some h => b h.scope | none => false) ||
      (match q.2.cont with | some m => b m.scope | none => false)))

/-- The unit that acknowledges a clear for a whole device: the master distributor (DESIGN CHOICE, log 67). -/
def unitDistributor : BitVec 12 := 0x021

/-- CLEAR: the entry is removed and the removal acknowledged. A receiver acknowledges the clear of a recovered root only when it holds no
work of it (R168, R351). -/
def State.serveClear (s : State) (x : Nat) : Option State :=
  s.serve x [.clear] fun c s =>
    let n := c.value.toNat
    let src : BitVec 24 := if 2 * cellCount ≤ n then s.devNum ++ unitDistributor else c.dst
    let ack := fun (t : State) =>
      t.postCtl { Ctl.make .clearack src (homeOf c.scope) c.scope 0 .none with value := word n, hub := decide (cellCount ≤ n) }
    if 2 * cellCount ≤ n then
      if s.holdsWork c.scope || s.ctls.any (fun p => p.2.kind == .notice && p.2.scope == c.scope) then none
      else
        let s1 : State := { s with
          cells := s.cells.map (fun p => (p.1, p.2.clearScope c.scope)),
          xportCancels := s.xportCancels.filter (fun y => y != c.scope) }
        some (ack s1)
    else if n = xportReceiver then
      if s.transfers.any (fun p => s.below c.scope 15 p.2.scope) ||
          s.wakes.any (fun p => p.2.xfer.isSome && s.below c.scope 15 p.2.msg.scope) then none
      else some (ack { s with xportCancels := s.xportCancels.filter (fun y => y != c.scope) })
    else if s.cellHolds c.scope n then none
    else some (ack (s.modCell n (fun y => y.clearScope c.scope)))

/-- CLEAR (R168). -/
def execClear (x : Nat) (s : State) : Out := happen s (s.serveClear x)

/-- Free the slot of an empty scope when its unlink and every clear are acknowledged (Table 8-2). -/
def State.tryFree (s : State) (sc : BitVec 32) : State :=
  let r := s.scopeRec sc
  if r.life = .empty ∧ r.unlinked = true ∧ r.acks = [] then s.setScope sc ScopeRec.free else s

/-- CLEARACK: towards freeing the slot (R168), or, while the home's field is fenced, towards lifting the fence (R351,
R402). -/
def State.serveClearack (s : State) (x : Nat) : Option State :=
  s.serve x [.clearack] fun c s =>
    let n := c.value.toNat
    match (if s.fencedGca (homeOf c.scope) then AL.find s.recovery (s.cell (cellOf (homeOf c.scope))).field else none) with
    | some r =>
      let f := (s.cell (cellOf (homeOf c.scope))).field
      some { s with recovery := AL.put s.recovery f { r with acks := r.acks.filter (fun a => !(a.1 == c.scope && a.2 == n)) } }
    | none =>
      let r := s.scopeRec c.scope
      if r.life = .empty then some ((s.setScope c.scope { r with acks := r.acks.filter (fun k => k != n) }).tryFree c.scope)
      else some s

/-- CLEARACK (R168). -/
def execClearack (x : Nat) (s : State) : Out := happen s (s.serveClearack x)

/-! ### Emptying (R165) -/

/-- The continuation message of an emptied scope (R165). -/
def State.continuation (s : State) (sc : BitVec 32) (r : ScopeRec) : Msg :=
  { Msg.zero with
    dst := homeOf sc, handler := lo48 r.cont, words := r.cwords,
    elem := BitVec.ofNat 24 (flag r.canc + 2 * flag r.won), stage := r.cont.extractLsb' 52 4,
    tag := r.cont.extractLsb' 48 4, src := homeOf sc, scope := r.parent, w := 1, tenant := r.tenant, colour := r.colour,
    sent := s.time64 }

/-- A closing scope empties: continuation into the parent, clear, unlink; a root reports to the front end (R165,
R338). -/
def State.emptyScope (s : State) (sc : BitVec 32) (r : ScopeRec) : State :=
  let home := homeOf sc
  let s1 := s.setScope sc { r with life := .empty, unlinked := r.root && r.parent == 0 }
  let s2 := if r.root then
      { s1 with launches := s1.launches.map (fun p => if p.2.root = sc then (p.1, { p.2 with stage := .emptied }) else p) }
    else s1.post (s1.continuation sc r)
  let s3 := s2.tellAll .clear sc (.scope sc) (homeSender sc) r.acks
  if r.root then s3.tryFree sc else s3.postCtl (Ctl.make .unlink home (homeOf r.parent) r.parent sc (.scope sc))

/-- WEIGHT_RETURN at the home; a free or empty slot is a hardware fault, which is contained (R162, R163, R407). -/
def State.serveReturn (s : State) (x : Nat) : Option State :=
  s.serve x [.weightReturn] fun c s =>
    let r := s.scopeRec c.scope
    let home := cellOf (homeOf c.scope)
    if !r.live then
      let f := if (s.cell home).fieldV then some (s.cell home).field else none
      some ((s.logErr home ⟨s.time64, 6, 7, s.cellLocation home (96 * slotOf c.scope), c.src, f,
        Config.syndrome s.tick (slotOf c.scope)⟩).contain f)
    else
      let ret := r.retd + c.value
      if r.life = .closing ∧ ret = r.issued then some (s.emptyScope c.scope { r with retd := ret })
      else some (s.setScope c.scope { r with retd := ret })

/-- WEIGHT_RETURN (R163). -/
def execWeightReturn (x : Nat) (s : State) : Out := happen s (s.serveReturn x)

/-! ### Linking (R165, R174, R337) -/

/-- LINK at the parent's home: `other` is the child; a launch's link (value 1) also issues the child's unit (R337). -/
def State.serveLink (s : State) (x : Nat) : Option State :=
  s.serve x [.link] fun c s =>
    let r := s.scopeRec c.scope
    let launch := c.value == 1
    if r.canc || !r.live then some (s.reply c .linkres 0 0)
    else if r.depth = 15 ∧ !launch then some (s.reply c .linkres 1 0)
    else
      let s1 := s.setScope c.scope { r with
        kids := c.other :: r.kids, issued := if launch then r.issued + 1 else r.issued }
      some (s1.reply c .linkres (word (r.depth.toNat + 3)) ((r.kids.head?).getD 0))

/-- LINK (R174). -/
def execLink (x : Nat) (s : State) : Out := happen s (s.serveLink x)

/-- A link has been granted: the record in the reserved slot opens, and chokes and cancels that come later find it (R163, R167). -/
def State.openChild (s : State) (cell slot : Nat) (par sib : BitVec 32) (depth : Nat) : State :=
  match (s.frame cell slot).pend with
  | some p =>
    let k := p.sent - 1
    let nm := (s.actOf cell slot).naming
    (s.modCell cell (fun x => { x with opening := x.opening.filter (fun j => j != k) })).setScope (scopeId s.devNum cell k)
      (ScopeRec.opened par sib depth nm.tenant nm.colour false)
  | none => s

/-- A unit of a launch's parent returns to its home, and the root is unlinked there (R338, R349). -/
def State.unlinkRoot (s : State) (cp : BitVec 24) (parent root : BitVec 32) : State :=
  (s.returnWeight cp parent 1 true).postCtl
    { Ctl.make .unlink cp (homeOf parent) parent root (.scope root) with hub := true }

/-- The answer to the link of a root, which concerns the earliest launch that waits for one: it goes on, or, failed by a recovery
meanwhile, gives back the unit (R337, R349). -/
def State.answerLink (s : State) (root parent sib : BitVec 32) (granted : Bool) : State :=
  match s.launches.find? (fun p => p.2.root == root && (p.2.stage == .linking || p.2.stage == .failed)) with
  | none => s
  | some (x, l) =>
    if l.stage = .failed then
      let t : State := { s with launches := AL.del s.launches x }
      if granted then t.unlinkRoot (s.devNum ++ unitCp l.cp) parent root else t
    else
      let t := if s.homeHere root && (s.scopeRec root).live then s.setScope root { s.scopeRec root with sib := sib } else s
      { t with launches := AL.put t.launches x { l with stage := .sending 0, linked := granted, dropped := !granted } }

/-- LINKRES: 0 cancelled or refused, 1 deep, else the child's depth plus 2, with the sibling (R174). -/
def State.serveLinkres (s : State) (x : Nat) : Option State :=
  s.serve x [.linkres] fun c s =>
    match c.who with
    | .frame cell slot =>
      let s := if 2 ≤ c.value.toNat then s.openChild cell slot c.scope c.other (c.value.toNat - 2) else s
      some (s.answerTo c.who c.value)
    | .scope root => some (s.answerLink root c.scope c.other (decide (2 ≤ c.value.toNat)))
    | _ => some s

/-- LINKRES (R174). -/
def execLinkres (x : Nat) (s : State) : Out := happen s (s.serveLinkres x)

/-- UNLINK at the parent's home: the child leaves the list, and the next older sibling follows the one before it
(R165). SIB of one that is homed on another device stays as it is: no message carries it (DESIGN CHOICE, log 68). -/
def State.serveUnlink (s : State) (x : Nat) : Option State :=
  s.serve x [.unlink] fun c s =>
    let r := s.scopeRec c.scope
    let next := ((r.kids.dropWhile (fun k => k != c.other)).drop 1).head?.getD 0
    let before := (r.kids.takeWhile (fun k => k != c.other)).getLast?
    let s1 := s.setScope c.scope { r with kids := r.kids.filter (fun k => k != c.other) }
    let s2 := match before with
      | some b => if s1.homeHere b && (s1.scopeRec b).life != ScopeLife.free then s1.setScope b { s1.scopeRec b with sib := next } else s1
      | none => s1
    some (s2.reply c .unlinkack 0 c.other)

/-- UNLINK (R165). -/
def execUnlink (x : Nat) (s : State) : Out := happen s (s.serveUnlink x)

/-- UNLINKACK: towards freeing the slot (R163). -/
def State.serveUnlinkack (s : State) (x : Nat) : Option State :=
  s.serve x [.unlinkack] fun c s =>
    match c.who with
    | .scope sc =>
      let r := s.scopeRec sc
      if r.life = .empty then some ((s.setScope sc { r with unlinked := true }).tryFree sc) else some s
    | _ => some s

/-- UNLINKACK (R163). -/
def execUnlinkack (x : Nat) (s : State) : Out := happen s (s.serveUnlinkack x)

/-! ### Requests at the home (R172, R174) -/

/-- CLOSE: value 1 says that the handler word is malformed; the words are CONT and CWORD0 to CWORD3 (R174). -/
def State.serveClose (s : State) (x : Nat) : Option State :=
  s.serve x [.close] fun c s =>
    let r := s.scopeRec c.scope
    if c.value = 1 then some (s.reply c .answer 5 0)
    else if r.life = .closing then some (s.reply c .answer 2 0)
    else if r.life = .open then
      some ((s.setScope c.scope { r with
        life := .closing, cont := (c.words.head?).getD 0, cwords := c.words.drop 1 }).reply c .answer 0 0)
    else some (s.reply c .answer 2 0)

/-- CLOSE (R174). -/
def execClose (x : Nat) (s : State) : Out := happen s (s.serveClose x)

/-- SHIELD (R174). -/
def State.serveShield (s : State) (x : Nat) : Option State :=
  s.serve x [.shield] fun c s =>
    let r := s.scopeRec c.scope
    if r.shld || !r.live then some (s.reply c .answer 2 0)
    else some ((s.setScope c.scope { r with shld := true }).reply c .answer 0 0)

/-- SHIELD (R174). -/
def execShield (x : Nat) (s : State) : Out := happen s (s.serveShield x)

/-- CLAIM: first at the home of the child, then (value 1, with the child in `other`) at the parent's, whose answer passes through the
child's home (R165, R172). -/
def State.serveClaim (s : State) (x : Nat) : Option State :=
  s.serve x [.claim] fun c s =>
    let r := s.scopeRec c.scope
    if c.value = 0 then
      if r.root || r.canc || !r.live then some (s.reply c .answer 0 0)
      else
        some (s.postCtl { c with
          kind := .claim, hub := false, src := homeOf c.scope, dst := homeOf r.parent, scope := r.parent, other := c.scope,
          who := .via c.scope c.who, value := 1 })
    else if r.clmd || r.canc || !r.live then some (s.reply c .answer 0 0)
    else
      let s1 := s.setScope c.scope { r with clmd := true, claimer := c.other }
      let s2 := (r.kids.filter (fun k => k != c.other)).foldl
        (fun t k => t.postCtl (Ctl.make .cancel (homeOf c.scope) (homeOf k) k 0 .none)) s1
      some (s2.reply c .answer 1 0)

/-- CLAIM (R172). -/
def execClaim (x : Nat) (s : State) : Out := happen s (s.serveClaim x)

/-- The word of Table 8-6. -/
def ScopeRec.checkWord (r : ScopeRec) : Word :=
  let life := match r.life with | .free => 0 | .open => 1 | .closing => 2 | .empty => 3
  word ((if r.clmd then r.claimer.toNat else 0) * 2 ^ 32 + r.depth.toNat * 2 ^ 16 + flag r.root * 2 ^ 11 +
    flag r.shld * 2 ^ 10 + flag r.clmd * 2 ^ 9 + flag r.canc * 2 ^ 8 + life * 2 ^ 6)

/-- CHECK: the word of Table 8-6, or for a query of overflow mode the home's CANC (R168, R174). -/
def State.serveCheck (s : State) (x : Nat) : Option State :=
  s.serve x [.check, .query] fun c s =>
    let r := s.scopeRec c.scope
    some (s.reply c .answer (if c.kind = .query then word (flag r.canc) else r.checkWord) 0)

/-- CHECK (R174). -/
def execCheck (x : Nat) (s : State) : Out := happen s (s.serveCheck x)

/-- CLIMB: at the home of a scope the request for authority over `other` stops there, climbs to the parent, or ends at a
root without authority (R170). The level is counted in the low byte of the value; bit 8 is what a `sclose` found of its
handler word. -/
def State.serveClimb (s : State) (x : Nat) : Option State :=
  s.serve x [.climb] fun c s =>
    let r := s.scopeRec c.scope
    let level := c.value.toNat % 256
    let bad := word (c.value.toNat / 256 % 2)
    if c.scope = c.other then
      some (s.postCtl { c with kind := c.then_, dst := homeOf c.other, scope := c.other, other := 0, value := bad })
    else if r.root || !r.live || decide (15 < level) then some (s.reply c .answer 3 0)
    else if r.parent = c.other then
      some (s.postCtl { c with kind := c.then_, dst := homeOf c.other, scope := c.other, other := 0, value := bad })
    else
      some (s.postCtl { c with
        dst := homeOf r.parent, scope := r.parent, value := c.value + 1 })

/-- CLIMB (R170). -/
def execClimb (x : Nat) (s : State) : Out := happen s (s.serveClimb x)

/-- ANSWER: it reaches whoever waits for it (R168, R174). The home of a scope that has claimed its parent notes it and passes the answer
on (R165). -/
def State.serveAnswer (s : State) (x : Nat) : Option State :=
  s.serve x [.answer] fun c s =>
    match c.who with
    | .via sc w =>
      let s1 := if c.value = 1 ∧ (s.scopeRec sc).live = true then s.setScope sc { s.scopeRec sc with won := true } else s
      some (s1.reply { c with who := w, dst := homeOf sc } .answer c.value 0)
    | w => some (s.answerTo w c.value)

/-- ANSWER (R168). -/
def execAnswer (x : Nat) (s : State) : Out := happen s (s.serveAnswer x)

/-! ### Instructions (R173, R174) -/

/-- The frame waits for the answer to a control message. -/
def State.ask (s : State) (c : Ctx) (p : Pending) (stage : Nat) (m : Ctl) : Issued :=
  .stall ((s.postCtl m).setPend c { p with stage := stage, answer := none })

/-- `sopen` (R174). The reserved slot stands in `sent`. -/
def sopenBody (c : Ctx) (d a : Int) (s : State) : Issued :=
  let par : BitVec 32 := (s.reg c a).setWidth 32
  let act := s.actC c
  let p := s.pendOf c
  let hold := fun (t : State) (f : Nat → Nat) => t.modActC c (fun y => { y with
    holdings := y.holdings.map (fun h => if h.scope = par then { h with w := f h.w } else h) })
  if p.stage = 0 ∧ (holdingOf act.holdings par).isNone then status s c d 3
  else if p.stage = 0 ∧ 8 ≤ act.holdings.length then status s c d 6
  else
    cancelPoint c par p s (fun s => status s c d 1) fun p s =>
      match (if p.stage = 2 ∧ p.sent = 0 then (s.freeScope c.cell).map (fun k => (k, true)) else some (p.sent - 1, false)) with
      | none => status s c d 0
      | some (k, new) =>
        let p := { p with sent := k + 1 }
        let s := if new then s.modCell c.cell (fun x => { x with opening := x.opening ++ [k] }) else s
        let release := fun (t : State) =>
          t.modCell c.cell (fun x => { x with opening := x.opening.filter (fun j => j != k) })
        let id := scopeId s.devNum c.cell k
        mintPoint c par 1 p s (fun s => status (release s) c d 1) fun p s =>
          if p.stage = 4 then
            (hold s (fun w => w - 1)).ask c p 5 (Ctl.make .link (s.gca c.cell) (homeOf par) par id c.waiter)
          else
            match p.answer with
            | none => .stall s
            | some v =>
              if v = 0 then status (hold (release s) (fun w => w + 1)) c d 1
              else if v = 1 then status (hold (release s) (fun w => w + 1)) c d 4
              else
                .ok ((s.modActC c (fun y => { y with holdings := y.holdings ++ [⟨id, 2 ^ 40⟩] })).setReg c d
                  (word (2 ^ 32 + id.toNat)))

/-- R174. -/
def execSopen (r : Rel) (d a : RegNum) (s : State) : Out :=
  withGroup s fun c =>
    let D := s.regNo c r d; let A := s.regNo c r a
    issue s c .leader [D, A] [D] (sopenBody c D A)

/-- A request that needs authority over a scope (R170): to its home if the frame holds weight in it, otherwise by climbing
from the own scope's home. The answer is g[d]. -/
def scopeRequest (c : Ctx) (d : Int) (k : CtlKind) (bad : Bool) (ws : List Word) (s : State) : Issued :=
  let sc : BitVec 32 := (s.reg c d).setWidth 32
  let act := s.actC c
  let own := act.naming.scope
  let p := s.pendOf c
  if p.stage = 0 then
    if (holdingOf act.holdings sc).isSome then
      if bad then status s c d 5
      else s.ask c p 5 { Ctl.make k (s.gca c.cell) (homeOf sc) sc 0 c.waiter with words := ws }
    else
      s.ask c p 5 { Ctl.make .climb (s.gca c.cell) (homeOf own) own sc c.waiter with
        value := word (flag bad * 256), words := ws, then_ := k }
  else
    match p.answer with
    | none => .stall s
    | some v => .ok (s.setReg c d v)

/-- `sclose` (R174): the block g[a] to g[a+4] is the continuation. -/
def execSclose (r : Rel) (d a : RegNum) (s : State) : Out :=
  withGroup s fun c =>
    let D := s.regNo c r d; let A := s.regNo c r a
    issue s c .leader [D, A, A + 1, A + 2, A + 3, A + 4] [D] fun s =>
      let ws := (List.range 5).map (fun (i : Nat) => s.reg c (A + (i : Int)))
      let h := s.reg c A
      scopeRequest c D .close (!handlerWordOk h || bitAt h 56) ws s

/-- R174. -/
def execScancel (r : Rel) (d : RegNum) (s : State) : Out :=
  withGroup s fun c =>
    let D := s.regNo c r d
    issue s c .leader [D] [D] (scopeRequest c D .cancel false [])

/-- R174. -/
def execSshield (r : Rel) (d : RegNum) (s : State) : Out :=
  withGroup s fun c =>
    let D := s.regNo c r d
    issue s c .leader [D] [D] (scopeRequest c D .shield false [])

/-- R174, Table 8-6. -/
def execSchk (r : Rel) (d : RegNum) (s : State) : Out :=
  withGroup s fun c =>
    let D := s.regNo c r d
    issue s c .leader [D] [D] (scopeRequest c D .check false [])

/-- `sclaim` (R171, R172): on the own scope. -/
def execSclaim (r : Rel) (d : RegNum) (s : State) : Out :=
  withGroup s fun c =>
    let D := s.regNo c r d
    issue s c .leader [D] [D] fun s =>
      let own := (s.actC c).naming.scope
      let p := s.pendOf c
      if p.stage = 0 then s.ask c p 5 (Ctl.make .claim (s.gca c.cell) (homeOf own) own 0 c.waiter)
      else
        match p.answer with
        | none => .stall s
        | some v => .ok (s.setReg c D v)

end Sys2Proof.Machine
end

