-- ==== Sys2Proof/Machine/Bells.lean ====
section
/-! DEFINITION. The carillon: closing a generation, bell messages, external arrivals (R150 to R153). -/

namespace Sys2Proof.Machine

/-- GENERATION_CLOSE (R151). -/
def execGenerationClose (die bell : Nat) (s : State) : Out := happen s (s.tryClose die bell)

/-- BELL_MESSAGE: the messages of the earliest closed generation of a bell, whichever of the dies that it joins is named, are written into
the bell slots of their members, arriving together (R152), once an earlier generation's have left them. -/
def State.tryBell (s : State) (die b : Nat) : Option State :=
  match s.dues.find? (fun d => d.die == bellRoot (s.bell die b).cfg die && d.bell == b) with
  | none => none
  | some d =>
    if d.msgs.any (fun m => AL.has (s.cell (cellOf m.dst)).slots (512 + b)) then none
    else
      let s1 : State := { s with dues := s.dues.erase d, nextId := s.nextId + 1 }
      some (d.msgs.foldl (fun t m => t.putSlot (cellOf m.dst) (512 + b) m s.nextId) s1)

/-- BELL_MESSAGE (R152). -/
def execBellMessage (die bell : Nat) (s : State) : Out := happen s (s.tryBell die bell)

/-- EXTERNAL_ARRIVAL: counted if the bell is ON, expects any, and belongs to the field; otherwise discarded and the
discard counted (R153). -/
def State.tryExternal (s : State) (x : Nat) : Option State :=
  match AL.find s.arrivals x with
  | none => none
  | some a =>
    let b := s.bell a.die a.bell
    let s1 : State := { s with arrivals := AL.del s.arrivals x }
    if bitAt b.cfg 0 && decide (0 < bits b.cfg 63 48) && b.field == a.field && a.field.isSome then
      some (s1.modBell a.die a.bell (fun y => { y with ext := y.ext + 1 }))
    else
      some (s1.modBell a.die a.bell (fun y => { y with
        discards := BitVec.ofNat 32 (sat32 (y.discards.toNat + 1)) }))

/-- EXTERNAL_ARRIVAL (R153). -/
def execExternalArrival (x : Nat) (s : State) : Out := happen s (s.tryExternal x)

/-- An external arrival on its way to a root (R153). -/
def State.postArrival (s : State) (die bell : Nat) (field : Option Nat) : State :=
  { s with arrivals := AL.put s.arrivals s.nextId ⟨die, bell, field⟩, nextId := s.nextId + 1 }

/-- BELL_DISCARD_COUNT_READ: the scheduler reads and clears a count (R153). -/
def execBellDiscardCountRead (die bell : Nat) (s : State) : Out :=
  .next { s.modBell die bell (fun y => { y with discards := 0 }) with
    readout := [(s.bell die bell).discards.setWidth 64] }

end Sys2Proof.Machine
end

