-- ==== Sys2Proof/Machine/Control.lean ====
section
/-! DEFINITION. Branches, jumps, loops, ending, trapping and system instructions, control registers and marks
(spec 04, R87 to R98, R104). -/

namespace Sys2Proof.Machine

/-! ### Branches (R88 to R91) -/

/-- A compare-branch (R88). -/
def branch2 (s : State) (r : Rel) (a b : RegNum) (off : BitVec 10) (cond : Word → Word → Bool) : Out :=
  withGroup s fun c =>
    let A := s.regNo c r a; let B := s.regNo c r b
    issue s c .no [A, B] [] fun s =>
      if cond (s.reg c A) (s.reg c B) then .jump s (branchTarget c off.toInt) else .ok s

/-- A short branch (R89). -/
def branch1 (s : State) (r : Rel) (a : RegNum) (off : BitVec 46) (cond : Word → Bool) : Out :=
  withGroup s fun c =>
    let A := s.regNo c r a
    issue s c .no [A] [] fun s => if cond (s.reg c A) then .jump s (branchTarget c off.toInt) else .ok s

/-- R88, Table 4-6. -/
def execBeq (r : Rel) (a b : RegNum) (off : BitVec 10) (s : State) : Out := branch2 s r a b off (fun x y => x == y)
/-- R88, Table 4-6. -/
def execBne (r : Rel) (a b : RegNum) (off : BitVec 10) (s : State) : Out := branch2 s r a b off (fun x y => !(x == y))
/-- R88, Table 4-6. -/
def execBlt (r : Rel) (a b : RegNum) (off : BitVec 10) (s : State) : Out :=
  branch2 s r a b off (fun x y => decide (x.toInt < y.toInt))
/-- R88, Table 4-6. -/
def execBge (r : Rel) (a b : RegNum) (off : BitVec 10) (s : State) : Out :=
  branch2 s r a b off (fun x y => decide (y.toInt ≤ x.toInt))
/-- R88, Table 4-6. -/
def execBltu (r : Rel) (a b : RegNum) (off : BitVec 10) (s : State) : Out :=
  branch2 s r a b off (fun x y => decide (x.toNat < y.toNat))
/-- R88, Table 4-6. -/
def execBgeu (r : Rel) (a b : RegNum) (off : BitVec 10) (s : State) : Out :=
  branch2 s r a b off (fun x y => decide (y.toNat ≤ x.toNat))

/-- R89. -/
def execBz (r : Rel) (a : RegNum) (off : BitVec 46) (s : State) : Out := branch1 s r a off (fun x => x == 0)
/-- R89. -/
def execBnz (r : Rel) (a : RegNum) (off : BitVec 46) (s : State) : Out := branch1 s r a off (fun x => !(x == 0))
/-- R89. -/
def execBltz (r : Rel) (a : RegNum) (off : BitVec 46) (s : State) : Out := branch1 s r a off (fun x => decide (x.toInt < 0))
/-- R89. -/
def execBgez (r : Rel) (a : RegNum) (off : BitVec 46) (s : State) : Out := branch1 s r a off (fun x => decide (0 ≤ x.toInt))

/-- R90. -/
def execBr (off : BitVec 50) (s : State) : Out :=
  withGroup s fun c => issue s c .no [] [] fun s => .jump s (branchTarget c off.toInt)

/-- R90: the link register is g15, or e15 on an engine (R48). -/
def execJal (off : BitVec 50) (s : State) : Out :=
  withGroup s fun c => issue s c .no [15] [15] fun s =>
    .jump (s.setReg c 15 (addrWord c.site.next)) (branchTarget c off.toInt)

/-- The counted loop of R91: on x3, or on e14 of an engine. -/
def execLp (off : BitVec 50) (s : State) : Out :=
  withGroup s fun c =>
    match c.unit with
    | .scalar => issue s c .no [] (if 0 < (s.xreg c 3#2).toInt then [xNo 3] else []) fun s =>
        let x := s.xreg c 3#2
        if 0 < x.toInt then
          let s1 := s.setX c 3#2 (x - 1)
          if 0 < (x - 1).toInt then .jump s1 (branchTarget c off.toInt) else .ok s1
        else .ok s
    | .engine _ => issueRW s c .no [14] [14] fun s =>
        let x := s.reg c 14
        if 0 < x.toInt then
          let s1 := s.setReg c 14 (x - 1)
          if 0 < (x - 1).toInt then .jump s1 (branchTarget c off.toInt) else .ok s1
        else .ok s

/-! ### Indirect jumps (R92) -/

/-- R92. -/
def execJr (r : Rel) (a : RegNum) (s : State) : Out :=
  withGroup s fun c =>
    let A := s.regNo c r a
    issue s c .no [A] [] fun s => .jump s (lo48 (s.reg c A))

/-- R92: the target is read before the link is written. -/
def execJalr (r : Rel) (d a : RegNum) (s : State) : Out :=
  withGroup s fun c =>
    let D := s.regNo c r d; let A := s.regNo c r a
    issue s c .no [D, A] [D] fun s => .jump (s.setReg c D (addrWord c.site.next)) (lo48 (s.reg c A))

/-- R92: the target is in g15, or e15 on an engine (R48). -/
def execRet (s : State) : Out :=
  withGroup s fun c => issue s c .no [15] [] fun s => .jump s (lo48 (s.reg c 15))

/-! ### Ending, trapping, system (R93 to R98) -/

/-- R93: the activation issues nothing more; retirement follows (Table 1-5, step 7). -/
def execDone (s : State) : Out :=
  withGroup s fun c => issue s c .both [] [] fun s =>
    .halt (s.modFr c (fun f => { f with
      life := .done, pc := f.resume.getD c.site.next, resume := none, pend := none, mark := none,
      groups := f.groups + 1 }))

/-- R94: SOFTWARE, with the code in ADDR_IDX. -/
def execTrap (code : BitVec 8) (s : State) : Out :=
  withGroup s fun c => issue s c .no [] [] fun _ => .trap 0x0B (code.setWidth 64)

/-- R94: BREAK, with the code in ADDR_IDX. -/
def execBrk (code : BitVec 8) (s : State) : Out :=
  withGroup s fun c => issue s c .no [] [] fun _ => .trap 0x0C (code.setWidth 64)

/-- R95. -/
def execNop (s : State) : Out := withGroup s fun c => issue s c .no [] [] fun s => .ok s

/-- R97. -/
def execRdtime (r : Rel) (d : RegNum) (s : State) : Out :=
  withGroup s fun c =>
    let D := s.regNo c r d
    issue s c .no [D] [D] fun s => .ok (s.setReg c D s.time64)

/-- R98: a mark record with the code and bits [31:0] of g[a] (Table 19-3). -/
def execTmark (r : Rel) (a : RegNum) (code : BitVec 16) (s : State) : Out :=
  withGroup s fun c =>
    let A := s.regNo c r a
    issue s c .no [A] [] fun s =>
      .ok (s.offerSlot c.cell c.slot 3 code.toNat ((s.reg c A).toNat % 2 ^ 32))

/-! ### Control registers (R104) -/

/-- R104: RC fields clear after the read. -/
def execCrd (r : Rel) (d : RegNum) (n : BitVec 12) (s : State) : Out :=
  withGroup s fun c =>
    let D := s.regNo c r d
    issue s c .no [D] [D] fun s => .ok ((s.crClear c n.toNat).setReg c D (s.crRead c n.toNat))

/-- One of the three writes. -/
def crOp (s : State) (r : Rel) (d : RegNum) (n : BitVec 12) (rm mix : Word → Word → Word) : Out :=
  withGroup s fun c =>
    let D := s.regNo c r d
    issue s c .both [D] [] fun s => .ok (s.crWrite c n.toNat (s.reg c D) rm mix)

/-- R104. -/
def execCwr (r : Rel) (d : RegNum) (n : BitVec 12) (s : State) : Out := crOp s r d n rmodeWrite (fun _ v => v)
/-- R104. -/
def execCset (r : Rel) (d : RegNum) (n : BitVec 12) (s : State) : Out := crOp s r d n rmodeSet (fun x v => x ||| v)
/-- R104. -/
def execCclr (r : Rel) (d : RegNum) (n : BitVec 12) (s : State) : Out := crOp s r d n rmodeClr (fun x v => x &&& ~~~v)

end Sys2Proof.Machine
end

