-- ==== Sys2Proof/Machine/Engine.lean ====
section
/-! DEFINITION. Engine programs (spec 11, R244 to R250, R266): `fork`, `rdv`, `qfence`, `eend`, and the steps that read launch
records, start programs and end them. -/

namespace Sys2Proof.Machine

/-! ### Reading a parameter block (R249, R254, R376) -/

/-- The activation on whose behalf a group runs: that of its frame, or the one that forked its program. -/
def State.actOn (s : State) (c : Ctx) : Act :=
  match c.unit with
  | .scalar => s.actC c
  | .engine _ => match AL.find s.progs (s.progId c) with | some x => s.act x.act | none => Act.zero

/-- On whose behalf a group's block reads and vector accesses reach memory. Its stores name the frame slot and DSEQ of the activation, for
an engine program of the one that forked it (R398, R399). -/
def State.whoGroup (s : State) (c : Ctx) : Who :=
  let a := s.actOn c
  { s.whoCell c.cell (s.req c) with
    issuer := match c.unit with | .scalar => .hub 0 | .engine _ => .prog (s.progId c)
    site := c.site, by_ := some ⟨s.gca c.cell, a.slot0, a.dseq, .o, false, false, none⟩ }

/-- Does an older store-buffer entry overlap a block of `n` bytes, a multiple of 64 (R189)? -/
def State.blockWaits (s : State) (c : Ctx) (va : Addr) (n : Nat) : Bool :=
  (List.range (n / 64)).any (fun i =>
    let k := (s.resolveC c (va + BitVec.ofNat 48 (64 * i)) .r).key
    (s.cell c.cell).sb.any (fun e => e.meets [(k.1, k.2, 64)]))

/-- The trap of a refusal: STRADDLE for kind 4, else ACCESS, with the refused address (R272, R276). -/
def refusalTrap (s : State) (e : ErrResp) : Issued := .trapIn s (if e.kind = 4 then 0x09 else 0x0A) (addrWord e.va)

/-- A group's computation over memory waits for what it has stopped for; `s1` is the state in which an uncorrectable word was met, `s` the
one before the computation. -/
def State.groupWaits (s : State) (c : Ctx) (x : Stop) (s1 : State) : State :=
  match x with
  | .page v op cls size => s.waitPage c v op cls size
  | .poison a g => s1.withholdGroup c a g
  | x => s.stopFor (s.req c) c.cell (s.cell c.cell).field x

/-- Go on after a computation over memory on behalf of a group, or wait for what it needs (`keep` is what a wait keeps), or trap: ACCESS, or
STRADDLE for kind 4 (R181, R193, R272). What it read from another device is kept. -/
def withMemoryKeep {α : Type} (c : Ctx) (keep : State → State) (m : M α) (s : State) (go : α → State → Issued) : Issued :=
  match s.memWait c with
  | .refused e => refusalTrap (s.endWait (s.req c)) e
  | .page _ => .stall s
  | .flight _ => .stall s
  | .withheld => .stall s
  | .walk _ | .none =>
    match m.exec s with
    | (.ok x, s1) => go x s1
    | (.error (.refused e), s1) => refusalTrap s1 e
    | (.error x, s1) => .stall (keep (s.groupWaits c x s1))

/-- See `withMemoryKeep`. -/
def withMemory {α : Type} (c : Ctx) (m : M α) (s : State) (go : α → State → Issued) : Issued := withMemoryKeep c id m s go

/-- The records of `n` bytes at some addresses, each aligned to `n`, one after the other: an address that is not aligned traps ALIGN, and what
has been read is kept however long the next one waits (R272, R304). -/
def readEach (c : Ctx) (n : Nat) (go : Pending → State → Issued) : List Addr → Pending → State → Issued
  | [], p, s => go p (s.endWait (s.req c))
  | a :: t, p, s =>
    if a.toNat % n ≠ 0 then .trap 0x08 (addrWord a)
    else withMemoryKeep c (fun u => u.setPend c p) (readVa (s.whoGroup c) a.toNat n .r) s fun bs s1 =>
      readEach c n go t { p with data := p.data ++ bs } s1

/-- An instruction's records: read when it starts, and kept to its end (R272, R304). -/
def withRecords (c : Ctx) (n : Nat) (as : List Addr) (s : State) (go : Pending → State → Issued) : Issued :=
  let p := s.pendOf c
  match as.drop (p.data.length / n) with
  | [] => go p s
  | l => readEach c n go l p s

/-- Must the block reads of a group wait: for an acquire of its frame, or, for a block on the die, for the frame's earlier class-O loads
there (R190, R196)? -/
def State.blockHeld (s : State) (c : Ctx) (va : Addr) : Bool :=
  c.unit == .scalar && (s.acqBlocked c || (onDie c.cell (s.resolveC c va .r) && s.earlierLoads (s.fr c).act c.cell s.nextId))

/-- The bytes of a block at an address aligned to 64: read once, by class-O loads that follow the frame's acquires and its earlier
class-O loads, and wait for older overlapping entries of the store buffer (R189, R190, R196, R254). -/
def withBlock (c : Ctx) (va : Addr) (n : Nat) (p : Pending) (s : State) (go : Pending → State → Issued) : Issued :=
  if p.data ≠ [] then go p s
  else if va.toNat % 64 ≠ 0 then .trap 0x08 (addrWord va)
  else if s.blockHeld c va || (c.unit == .scalar && s.blockWaits c va n) then .stall s
  else
    withMemory c (readVa (s.whoGroup c) va.toNat n .r) s fun bs s1 => go { p with data := bs } s1

/-! ### `fork` (R249) -/

/-- The programs that a `fork` names: engine and record address. -/
def forkTargets (p0 p1 p2 : Addr) : List (EngineUnit × Addr) :=
  [(EngineUnit.vector, p0), (.matrix, p1), (.streamer, p2)].filter (fun x => x.2 != 0)

/-- The rounding and format state that a program takes from its frame, all flags clear (R67, R295). -/
def FrameCr.forked (r : FrameCr) : FrameCr := { r with rmode := r.rmode &&& ~~~flagMask }

/-- A program as `fork` makes it, with its share. -/
def State.newProg (s : State) (c : Ctx) (u : EngineUnit) (rec : Addr) (w : Nat) : Prog :=
  ⟨c.cell, u, (s.fr c).act, (s.actC c).naming, (s.cell c.cell).field, rec, 0, [], w, (s.fr c).cr.forked, .buffered, 0,
    none, none, none, none, none, false, 0, 0, none, []⟩

/-- The last step of `fork`: the count rises and one store-buffer entry is entered, when it has a place. -/
def forkEnter (c : Ctx) (d : Int) (p : Pending) (s : State) : Issued :=
  let n := p.ids.length
  if 16 ≤ (s.cell c.cell).sb.length ∨ 0xFFFF < (s.actC c).cntE + n then .stall (s.setPend c p)
  else
    let e : SbEntry := ⟨s.nextId, (s.fr c).act, .o, 0, c.site, .fork p.ids, false, 0⟩
    let s1 := { s with nextId := s.nextId + 1 }.modActC c (fun a => { a with
      cntE := a.cntE + n, forked := a.forked ++ p.ids })
    status (s1.modCell c.cell (fun x => { x with sb := x.sb ++ [e] })) c d 0

/-- The shares of a `fork`, one split after the other, each with its mint; a refused mint gives the shares back. -/
def forkShares (c : Ctx) (d : Int) : List (EngineUnit × Addr) → Pending → State → Issued
  | [], p, s => forkEnter c d p s
  | (u, rec) :: t, p, s =>
    let own := (s.actC c).naming.scope
    if s.weightIn c own ≤ 1 then
      if p.stage = 3 then
        match p.answer with
        | none => .stall s
        | some _ =>
          let back := p.ids.foldl (fun n k => n + (match AL.find s.progs k with | some x => x.w | none => 0)) 0
          let s1 := s.modActC c (fun a => { a with holdings := setHolding a.holdings own (s.weightIn c own + back) })
          status { s1 with progs := s1.progs.filter (fun x => !p.ids.contains x.1) } c d 1
      else .stall ((s.askMint (s.gca c.cell) own c.waiter).setPend c { p with stage := 3, answer := none })
    else
      let r := s.split c own
      let k := r.2.nextId
      forkShares c d t { p with stage := 2, answer := none, ids := p.ids ++ [k] }
        { r.2 with progs := AL.put r.2.progs k (r.2.newProg c u rec r.1), nextId := k + 1 }

/-- `fork`'s body (R249). -/
def forkBody (c : Ctx) (d a : Int) (s : State) : Issued :=
  let s := s.marked c
  let p := s.pendOf c
  let act := s.actC c
  let ts := forkTargets (lo48 (s.reg c a)) (lo48 (s.reg c (a + 1))) (lo48 (s.reg c (a + 2)))
  if !act.engine then status s c d 4
  else if s.acqBlocked c then .stall s
  else if ts.any (fun x => x.2.toNat % 32 != 0) then status s c d 5
  else if ts = [] then status s c d 0
  else if p.stage = 0 ∧ (holdingOf act.holdings act.naming.scope).isNone then status s c d 2
  else
    cancelPoint c act.naming.scope p s (fun s => status s c d 1) fun p s =>
      forkShares c d (ts.drop p.ids.length) p (s.acqDone c)

/-- R249. -/
def execFork (r : Rel) (d a : RegNum) (s : State) : Out :=
  withGroup s fun c =>
    let D := s.regNo c r d; let A := s.regNo c r a
    issue s c .leader [D, A, A + 1, A + 2] [D] (forkBody c D A)

/-! ### `rdv` (R250) -/

/-- Has a program ended? -/
def State.progEnded (s : State) (p : Nat) : Bool :=
  match AL.find s.progs p with | some x => x.life == .ended | none => true

/-- The flags that a program raised (R67). -/
def State.progFlags (s : State) (p : Nat) : Word :=
  match AL.find s.progs p with | some x => x.cr.rmode &&& flagMask | none => 0

/-- Places of the join table (R250). -/
def joinTableSize : Nat := 16

/-- `rdv`'s body (R250): J is the programs that the frame has forked and no earlier `rdv` joined. -/
def rdvBody (c : Ctx) (d a : Int) (s : State) : Issued :=
  let s := s.marked c
  let p := s.pendOf c
  let act := s.actC c
  let h := s.reg c a
  let own := act.naming.scope
  if s.acqBlocked c ∨ (p.stage = 0 ∧ joinTableSize ≤ (s.cell c.cell).joins.length) then .stall s
  else if !handlerWordOk h || bitAt h 56 then status s c d 5
  else if p.stage = 0 ∧ (holdingOf act.holdings own).isNone then status s c d 2
  else
    cancelPoint c own p s (fun s => status s c d 1) fun p s =>
      mintPoint c own 1 p s (fun s => status s c d 1) fun p s =>
        if joinTableSize ≤ (s.cell c.cell).joins.length then .stall (s.setPend c p)
        else
          let s := s.acqDone c
          let js := (s.actC c).forked
          let done := js.filter s.progEnded
          let r := s.split c own
          let j : Join := ⟨h, (List.range 4).map (fun (i : Nat) => s.reg c (a + 1 + (i : Int))), act.naming, r.1,
            js.filter (fun k => !s.progEnded k), done.foldl (fun f k => f ||| s.progFlags k) 0⟩
          let s1 := { r.2 with
            progs := r.2.progs.filter (fun x => !done.contains x.1), nextId := r.2.nextId + 1 }
          status ((s1.modActC c (fun y => { y with forked := [] })).modCell c.cell (fun x => { x with
            joins := AL.put x.joins r.2.nextId j })) c d 0

/-- R250. -/
def execRdv (r : Rel) (d a : RegNum) (s : State) : Out :=
  withGroup s fun c =>
    let D := s.regNo c r d; let A := s.regNo c r a
    issue s c .leader [D, A, A + 1, A + 2, A + 3, A + 4] [D] (rdvBody c D A)

/-- RDV_CONTINUATION: every program of a join has ended; the cell sends the continuation to itself (R250). -/
def State.tryRdv (s : State) (c j : Nat) : Option State :=
  match AL.find (s.cell c).joins j with
  | none => none
  | some x =>
    if x.progs ≠ [] then none
    else
      let m : Msg := { Msg.zero with
        dst := s.gca c, handler := lo48 x.handler, words := x.words, elem := x.naming.elem,
        stage := x.handler.extractLsb' 52 4, tag := x.handler.extractLsb' 48 4, src := s.gca c, scope := x.naming.scope,
        w := x.w, tenant := x.naming.tenant, colour := x.naming.colour, sent := s.time64, flags := x.flags }
      some ((s.modCell c (fun y => { y with joins := AL.del y.joins j })).post m)

/-- RDV_CONTINUATION (R250). -/
def execRdvContinuation (c j : Nat) (s : State) : Out := happen s (s.tryRdv c j)

/-! ### `qfence` (R266) -/

/-- The queues that a mask names. -/
def maskUnits (m : Word) : List EngineUnit :=
  (if bitAt m 0 then [.vector] else []) ++ (if bitAt m 1 then [.matrix] else []) ++ (if bitAt m 2 then [.streamer] else [])

/-- Does an operation of a queue still stand there or run? -/
def State.qAlive (s : State) (c : Nat) (i : QItem) : Bool :=
  match i with
  | .prog p => !s.progEnded p
  | i => [EngineUnit.vector, .matrix, .streamer].any (fun u => ((s.cell c).engine u).queue.contains i)

/-- The operations that stand in a queue, the running program first. -/
def Engine.items (e : Engine) : List QItem := (match e.run with | some p => [.prog p] | none => []) ++ e.queue

/-- `qfence` on the scalar core: one marker in each named queue (R266). -/
def qfenceScalar (c : Ctx) (d a : Int) (s : State) : Issued :=
  let s := s.marked c
  let m := s.reg c a
  let us := maskUnits m
  if bits m 63 3 ≠ 0 then status s c d 5
  else if us = [] then status s c d 0
  else if !s.olderGone c || us.any (fun u => decide (queueSize ≤ ((s.cell c.cell).engine u).queue.length)) then .stall s
  else
    let k := s.nextId
    let s1 := { s with nextId := k + 1, markers := AL.put s.markers k ⟨c.cell, us⟩ }
    status (us.foldl (fun t u => t.modEngine c.cell u (fun e => { e with queue := e.queue ++ [.marker k] })) s1) c d 0

/-- `qfence` in a streamer program: it waits for the operations that stood in the named vector and matrix queues when it
issued (R266). -/
def qfenceProg (c : Ctx) (d a : Int) (s : State) : Issued :=
  let m := s.reg c a
  let us := (maskUnits m).filter (fun u => u != .streamer)
  if bits m 63 3 ≠ 0 then status s c d 5
  else
    match AL.find s.progs (s.progId c) with
    | none => .stall s
    | some x =>
      let items : List QItem := match x.mark with
        | some (l : List QItem) => l
        | none => us.flatMap (fun u => ((s.cell c.cell).engine u).items)
      let left := items.filter (s.qAlive c.cell)
      if left = [] then status (s.modProg (s.progId c) (fun y => { y with mark := none })) c d 0
      else .stall (s.modProg (s.progId c) (fun y => { y with mark := some left }))

/-- R266. -/
def execQfence (r : Rel) (d a : RegNum) (s : State) : Out :=
  withGroup s fun c =>
    let D := s.regNo c r d; let A := s.regNo c r a
    issue s c .leader [D, A] [D] (match c.unit with | .scalar => qfenceScalar c D A | .engine _ => qfenceProg c D A)

/-- QFENCE_RELEASE: the markers of a `qfence` are at the heads of their queues and everything before them has ended
(R266). -/
def State.tryQfence (s : State) (c k : Nat) : Option State :=
  match AL.find s.markers k with
  | none => none
  | some m =>
    let us := m.queues
    if m.cell = c ∧ us.all (fun u =>
        ((s.cell c).engine u).run.isNone && ((s.cell c).engine u).queue.head? == some (.marker k)) then
      some (us.foldl (fun t u => t.modEngine c u (fun e => { e with queue := e.queue.drop 1 }))
        { s with markers := AL.del s.markers k })
    else none

/-- QFENCE_RELEASE (R266). -/
def execQfenceRelease (c marker : Nat) (s : State) : Out := happen s (s.tryQfence c marker)

/-! ### The life of a program (R245, R246) -/

/-- A launch record whose read failed or whose reserved bits are not zero (R245). -/
def State.refuseRecord (s : State) (p : Nat) : State :=
  s.modProg p (fun x => { x with
    life := .refused, trap := some ⟨0x0A, Site.zero, addrWord x.record, 0, .raised, s.nextId⟩ })

/-- Read the records of the programs of a fork, one after the other; a program whose record waits for a page or for another
device leaves the rest to be read again. -/
def State.readRecords (c : Nat) : List Nat → State → Bool × State
  | [], s => (true, s)
  | p :: t, s =>
    match AL.find s.progs p with
    | none => State.readRecords c t s
    | some x =>
      let req : FaultReq := .prog p
      if x.life ≠ .buffered then State.readRecords c t s
      else if s.isWaiting req then (false, s)
      else
        match s.waitOf req with
        | .refused _ => State.readRecords c t ((s.endWait req).refuseRecord p)
        | _ =>
          match (readWords (s.whoCell c req) x.record.toNat 4 .r).exec s with
          | (.ok ws, s1) =>
            let w := (ws[0]?).getD 0
            let s2 := s1.endWait req
            State.readRecords c t (if bits w 63 48 ≠ 0 then s2.refuseRecord p
              else s2.modProg p (fun y => { y with life := .queued, code := lo48 w, args := ws.drop 1 }))
          | (.error (.refused _), s1) => State.readRecords c t ((s1.endWait req).refuseRecord p)
          | (.error x, s1) =>
            (false, match x with
              | .poison _ _ => s1.stopFor req c (s.cell c).field x
              | y => s.stopFor req c (s.cell c).field y)

/-- LAUNCH_RECORD_READ: the fork at the head of a cell's store buffer leaves it; its programs enter their queues together
(R245, R249). -/
def State.tryRecords (s : State) (c : Nat) : Option State :=
  match (s.cell c).sb with
  | ⟨_, _, _, _, _, .fork ps, _, _⟩ :: t =>
    let us := ps.filterMap (fun p => (AL.find s.progs p).map (fun x => (x.unit, p)))
    if us.all (fun x => decide (((s.cell c).engine x.1).queue.length < queueSize)) then
      match State.readRecords c ps s with
      | (true, s1) =>
        some (us.foldl (fun u x => u.modEngine c x.1 (fun e => { e with queue := e.queue ++ [.prog x.2] }))
          (s1.modCell c (fun y => { y with sb := t })))
      | (false, s1) => some s1
    else none
  | _ => none

/-- LAUNCH_RECORD_READ (R245). -/
def execLaunchRecordRead (c : Nat) (s : State) : Out := happen s (s.tryRecords c)

/-- The registers of a program at its start (R245). -/
def startRegs (x : Prog) : Regs :=
  ([addrWord x.record] ++ x.args.take 3).zipIdx.foldl (fun r v => Regs.set r v.2 v.1) []

/-- The LFSRs of a sequencer at the start of a program (R69). -/
def startLfsrs (seed : BitVec 16) : AL (BitVec 16) := (List.range 64).map (fun l => (l, lfsrInit seed l))

/-- ENGINE_PROGRAM_START: the program at the head of an idle engine's queue starts; one of a cancelled scope never does, and
one that has been abandoned leaves the queue (R205, R245, Table 8-3). -/
def State.tryStart (s : State) (c : Nat) (u : EngineUnit) : Option State :=
  let e := (s.cell c).engine u
  if !s.engineStarts c || e.run.isSome then none
  else
    match e.queue with
    | .prog p :: t =>
      let pop := s.modEngine c u (fun y => { y with queue := t })
      match AL.find s.progs p with
      | none => some pop
      | some x =>
        match x.life with
        | .queued =>
          if !s.mayCheck c x.naming.scope then some (s.askUnit c x.naming.scope)
          else if s.cancelledAt c x.naming.scope then
            some ((pop.checked c x.naming.scope).modProg p (fun y => { y with life := .ending }))
          else
            let s0 := ((s.checked c x.naming.scope).modEngine c u (fun _ => ⟨startRegs x, t, some p⟩)).modProg p (fun y => { y with
              life := .running, pc := y.code })
            let s1 := { s0 with upsets := s0.upsets.filter (fun v => !(v.struct_ == 5 && v.key == c && v.index / 16 == unitIndex u)) }
            let fs := startLfsrs (seedOf x.cr.rmode)
            some (match u with
              | .vector => s1.modCell c (fun y => { y with vlfsr := fs })
              | .matrix => s1.modCell c (fun y => { y with mlfsr := fs, latch := none })
              | .streamer => s1)
        | .ending => some pop
        | .ended => some pop
        | _ => none
    | _ => none

/-- ENGINE_PROGRAM_START (R245). -/
def execEngineProgramStart (c : Nat) (u : EngineUnit) (s : State) : Out := happen s (s.tryStart c u)

/-- `eend` (R246): the program issues nothing more. -/
def eendBody (c : Ctx) (s : State) : Issued :=
  .halt (s.modProg (s.progId c) (fun p => { p with life := .ending, pend := none, resume := none }))

/-- R246, on the vector sequencer and the streamer. -/
def execEend (s : State) : Out := withGroup s fun c => issue s c .no [] [] (eendBody c)
/-- R246, on the matrix sequencer. -/
def execEendPage4 (s : State) : Out := withGroup s fun c => issue s c .no [] [] (eendBody c)

/-- Has everything that a program made been performed (R161, R246)? -/
def State.progDrained (s : State) (p : Nat) : Bool :=
  s.flights.all (fun f => !(f.2.issuer == .prog p)) && s.copies.all (fun x => !(x.2.issuer == .prog p)) &&
  s.wakes.all (fun w => w.2.prog != some p)

/-- The joins of a cell when a program has ended (R250). -/
def Cell.joinEnds (x : Cell) (p : Nat) (flags : Word) : Cell :=
  { x with joins := x.joins.map (fun j =>
      (j.1, if j.2.progs.contains p then
          { j.2 with progs := j.2.progs.filter (fun k => k != p), flags := j.2.flags ||| flags } else j.2)) }

/-- ENGINE_PROGRAM_END: the last write of a program is performed; its weight returns, CNT_E falls, and what joins it hears of
it (R192, R246, R250). -/
def State.tryEnd (s : State) (c : Nat) (u : EngineUnit) : Option State :=
  match s.progs.find? (fun p => p.2.cell == c && p.2.unit == u && p.2.life == .ending && s.progDrained p.1) with
  | none => none
  | some (p, x) =>
    let s1 := (s.endWait (.prog p)).returnWeight (s.gca c) x.naming.scope x.w
    let s2 := s1.modEngine c u (fun e => if e.run = some p then { e with run := none } else e)
    let s3 := s2.modAct x.act (fun a => { a with cntE := a.cntE - 1 })
    let keeps := (s.act x.act).forked.contains p && (s.act x.act).slot.isSome
    let s4 := s3.modCell c (fun y => y.joinEnds p (x.cr.rmode &&& flagMask))
    some (if keeps then s4.modProg p (fun y => { y with life := .ended, w := 0, trap := none })
      else { s4 with progs := AL.del s4.progs p })

/-- ENGINE_PROGRAM_END (R246). -/
def execEngineProgramEnd (c : Nat) (u : EngineUnit) (s : State) : Out := happen s (s.tryEnd c u)

end Sys2Proof.Machine
end

