-- ==== Sys2Proof/Machine/Copy.lean ====
section
/-! DEFINITION. Copies (spec 11, R251 to R265): the parameter block, `copy`, chunks, sync words, wake and completion messages,
and stealing between streamers (R147). -/

namespace Sys2Proof.Machine

/-! ### The parameter block (R251 to R253) -/

/-- A little-endian field of a block. -/
def fieldAt (bs : List Byte) (off n : Nat) : Nat := leNat ((bs.drop off).take n)

/-- Bits of an element of ESIZE (Table 11-5). -/
def esizeBits (e : Nat) : Nat := 4 * 2 ^ e

/-- Bits of a destination element (R252). -/
def CopyBlock.dstBits (b : CopyBlock) : Nat :=
  if b.conv then (match fmtOf b.dfmt with | some f => f.bits | none => 8) else esizeBits b.esize

/-- The element count (R253). -/
def CopyBlock.count (b : CopyBlock) : Nat := (b.ext.take b.ndim).foldl (fun a x => a * x) 1

/-- The destination bytes of `n` elements. -/
def CopyBlock.bytesOf (b : CopyBlock) (n : Nat) : Nat := n * b.dstBits / 8

/-- A block read from its 256 bytes (Tables 11-4, 11-5). -/
def copyBlockOf (bs : List Byte) : CopyBlock :=
  let ctrl := word (fieldAt bs 0x10 8)
  let third := word (fieldAt bs 0x18 8)
  { src := lo48 (word (fieldAt bs 0 8)), dst := lo48 (word (fieldAt bs 8 8)), total := bits ctrl 63 32,
    bellen := bitAt ctrl 29, chunk := bits ctrl 28 25,
    relsc := match bits ctrl 24 23 with | 0 => .cell | 1 => .die | 2 => .device | _ => .system,
    cls := match bits ctrl 22 21 with | 0 => .o | 1 => .a | _ => .v,
    ftz := bitAt ctrl 20, sat := bitAt ctrl 19, rmode := bits ctrl 18 16, dfmt := bits ctrl 15 12, sfmt := bits ctrl 11 8,
    conv := bitAt ctrl 7, esize := bits ctrl 6 4, ndim := bits ctrl 3 0, bell := bits third 34 32,
    scope := third.setWidth 32, chand := word (fieldAt bs 0x20 8),
    cwords := (List.range 4).map (fun i => word (fieldAt bs (0x28 + 8 * i) 8)),
    sync := lo48 (word (fieldAt bs 0x48 8)),
    ext := (List.range 12).map (fun k => fieldAt bs (0x50 + 4 * k) 4),
    sstr := (List.range 12).map (fun k => signedNat 40 (fieldAt bs (0x80 + 10 * k) 5)),
    dstr := (List.range 12).map (fun k => signedNat 40 (fieldAt bs (0x85 + 10 * k) 5)) }

/-- Are the zero fields of Table 11-4 and Table 11-5 zero? -/
def copyZeros (bs : List Byte) (b : CopyBlock) : Bool :=
  fieldAt bs 6 2 == 0 && fieldAt bs 14 2 == 0 && bits (word (fieldAt bs 0x10 8)) 31 30 == 0 &&
  bits (word (fieldAt bs 0x18 8)) 63 35 == 0 && fieldAt bs 0x4E 2 == 0 && fieldAt bs 0xF8 8 == 0 &&
  bits (word (fieldAt bs 0x10 8)) 22 21 != 3 &&
  (b.ext.drop b.ndim).all (fun x => x == 0) && (b.sstr.drop b.ndim).all (fun x => x == 0) &&
  (b.dstr.drop b.ndim).all (fun x => x == 0)

/-- Does a format code name a format that a copy converts (R253)? -/
def copyFmt (k : Nat) : Bool := k != 0xA && decide (k < 0xC)

/-- Is a block well formed (R253)? -/
def copyOk (bs : List Byte) : Bool :=
  let b := copyBlockOf bs
  let ex := b.ext.take b.ndim
  copyZeros bs b && decide (1 ≤ b.ndim) && decide (b.ndim ≤ 12) && decide (b.esize ≤ 4) && decide (b.rmode ≤ 4) &&
  decide (8 ≤ b.chunk) && decide (b.chunk ≤ 12) && ex.all (fun x => x != 0) && decide (b.count ≤ 2 ^ 40) &&
  (if b.conv then
    copyFmt b.sfmt && copyFmt b.dfmt &&
      (match fmtOf b.sfmt with | some f => f.bits == esizeBits b.esize | none => false)
  else b.sfmt == 0 && b.dfmt == 0) &&
  (b.src.toNat * 8) % esizeBits b.esize == 0 && (b.dst.toNat * 8) % b.dstBits == 0 &&
  (b.chand == 0 || (handlerWordOk b.chand && !bitAt b.chand 56)) &&
  (b.total == 0 || b.total == b.bytesOf b.count) &&
  (b.dstBits != 4 ||
    (ex.headD 0 % 2 == 0 && b.dstr.headD 0 == 1 && ((b.dstr.take b.ndim).drop 1).all (fun x => x % 2 == 0)))

/-! ### `copy` (R254, R260) -/

/-- Does a sync word lie in the local window or in an SRAM segment (R254)? -/
def syncSram (segs : List Seg) (va : Nat) : Bool :=
  match regionOf segs va with
  | .window => true
  | .seg i => match segs[i]? with | some g => g.kind == 1 || g.kind == 2 | none => false
  | _ => false

/-- Elements of a chunk (R255). -/
def CopyBlock.perChunk (b : CopyBlock) : Nat := 2 ^ b.chunk * 8 / b.dstBits

/-- Chunks of a copy (R255). -/
def CopyBlock.chunkCount (b : CopyBlock) : Nat := (b.count + b.perChunk - 1) / b.perChunk

/-- The cell that owns an address of a cell's context, whatever its permissions, if a cell does (R257, R263). -/
def State.placedAt (s : State) (home va : Nat) : Option Nat :=
  match regionOf (s.segsOf home) va with
  | .window => some home
  | .seg i =>
    match (s.segsOf home)[i]? with
    | some g => (match g.target va with | .sram a => ownerCell a | _ => none)
    | none => none
  | _ => none

/-- The lead streamer of a copy (R257). -/
def State.leadOf (s : State) (home : Nat) (b : CopyBlock) : Nat :=
  match s.placedAt home b.src.toNat with
  | some c => if dieOf c = dieOf home then c else home
  | none => home

/-- A transfer identifier of a cell (R254). -/
def State.copyIdent (s : State) (c : Nat) : BitVec 32 := BitVec.ofNat 12 c ++ (s.cell c).copyCtr

/-- A copy as it is issued. -/
def State.newCopy (s : State) (c : Ctx) (issuer : CopyIssuer) (nm : Naming) (sc : BitVec 32) (w : Nat) (b : CopyBlock)
    (atHead : Bool) : CopyRun :=
  ⟨s.copyIdent c.cell, c.cell, issuer, nm, (s.cell c.cell).field, sc, w, b, c.site, atHead, c.cell, 0, b.chunkCount, [], 0,
    0, none, [], 0, 0⟩

/-- Make a copy under the number `s.nextId`; the copy counter rises. -/
def State.addCopy (s : State) (c : Nat) (x : CopyRun) : State :=
  { s with copies := AL.put s.copies s.nextId x, nextId := s.nextId + 1 }.modCell c (fun y => { y with
    copyCtr := y.copyCtr + 1 })

/-- `copy` on the scalar core (R254). -/
def copyScalar (c : Ctx) (d a : Int) (s : State) : Issued :=
  let s := s.marked c
  withBlock c (lo48 (s.reg c a)) 256 (s.pendOf c) s fun p s =>
    let b := copyBlockOf p.data
    let act := s.actC c
    let sc := if b.scope = 0 then act.naming.scope else b.scope
    if !copyOk p.data then status s c d 5
    else if p.stage = 0 ∧ (holdingOf act.holdings sc).isNone then status s c d 2
    else if b.sync ≠ 0 ∧ !syncSram (s.segsOf c.cell) b.sync.toNat then status s c d 6
    else
      cancelPoint c sc p s (fun s => status s c d 1) fun p s =>
        mintPoint c sc 1 p s (fun s => status s c d 1) fun p s =>
          if 16 ≤ (s.cell c.cell).sb.length ∨ 0xFFFF ≤ (s.actC c).cntE then .stall (s.setPend c p)
          else
            let r := (s.acqDone c).split c sc
            let s1 := r.2
            let x := s1.newCopy c (.act (s1.fr c).act) act.naming sc r.1 b false
            let e : SbEntry := ⟨s1.nextId + 1, (s1.fr c).act, .o, 0, c.site, .copy s1.nextId, false, 0⟩
            let s2 := s1.addCopy c.cell x
            let s3 := { s2 with nextId := s2.nextId + 1 }.modActC c (fun y => { y with cntE := y.cntE + 1 })
            .ok ((s3.modCell c.cell (fun y => { y with sb := y.sb ++ [e] })).setReg c d (word (2 ^ 32 + x.id.toNat)))

/-- `copy` in a streamer program (R260): the program waits until every started chunk has been performed. `sent` is the
number of the copy plus one. -/
def copyProg (c : Ctx) (d a : Int) (s : State) : Issued :=
  let pr := s.progId c
  withBlock c (lo48 (s.reg c a)) 256 (s.pendOf c) s fun p s =>
    let b := copyBlockOf p.data
    let nm := s.namingOf (.prog pr)
    if p.stage = 9 then
      match AL.find s.copies (p.sent - 1) with
      | none => .stall s
      | some x =>
        if x.phase = 0 then .stall s
        else
          match x.refusal with
          | some e => refusalTrap (s.modProg pr (fun y => { y with copy := none })) ⟨2, e.va⟩
          | none => .ok (s.setReg c d (word (2 ^ 32 + x.id.toNat)))
    else if !copyOk p.data then status s c d 5
    else if b.scope ≠ 0 ∧ b.scope ≠ nm.scope then status s c d 2
    else if b.sync ≠ 0 ∧ !syncSram (s.segsOf c.cell) b.sync.toNat then status s c d 6
    else if !s.mayCheck c.cell nm.scope then .stall (s.askUnit c.cell nm.scope)
    else if s.cancelledAt c.cell nm.scope then status (s.checked c.cell nm.scope) c d 1
    else
      let s := s.checked c.cell nm.scope
      let x := s.newCopy c (.prog pr) nm nm.scope 0 b true
      let s1 := (s.addCopy c.cell x).modProg pr (fun y => { y with copy := some s.nextId })
      .stall (s1.setPend c { p with stage := 9, sent := s.nextId + 1, scope := x.id })

/-- R254, R260. -/
def execCopy (r : Rel) (d a : RegNum) (s : State) : Out :=
  withGroup s fun c =>
    let D := s.regNo c r d; let A := s.regNo c r a
    issue s c .leader [D, A] [D] (match c.unit with | .scalar => copyScalar c D A | .engine _ => copyProg c D A)

/-! ### Moving a chunk (R255, R256, R258) -/

/-- The element index of an element: the sum over the dimensions of coordinate times stride (R255). -/
def elemIndex : List Nat → List Int → Nat → Int
  | ext :: es, st :: ss, e => ((e % ext : Nat) : Int) * st + elemIndex es ss (e / ext)
  | _, _, _ => 0

/-- A place of an element: its byte address and, for a four-bit one, whether it is the high nibble (R58). -/
def elemPlace (base : Addr) (idx : Int) (nbits : Nat) : Int × Bool :=
  if nbits = 4 then ((base.toNat : Int) + idx / 2, decide (idx % 2 = 1)) else ((base.toNat : Int) + idx * (nbits / 8 : Nat), false)

/-- Insert into a list at a place. -/
def insertAt {α : Type} : List α → Nat → α → List α
  | l, 0, x => x :: l
  | [], _, x => [x]
  | y :: t, n + 1, x => y :: insertAt t n x

/-- A list in a free order (R256, R274; log 13). -/
def shuffle {α : Type} (occasion : Nat) (l : List α) : List α :=
  l.foldl (fun acc x => insertAt acc (Config.overlap occasion acc.length % (acc.length + 1)) x) []

/-- On whose behalf a streamer moves a chunk: the window and the segments are those of the issuing cell (R175, R245); `perf` is the cell
as whose streamer it is performed, which logs its refusals and is the source of its writes (R147, R201, R259). -/
def State.whoChunk (s : State) (x k : Nat) (y : CopyRun) (perf : Nat) : Who :=
  { log := .cell perf, cell := y.cell, field := y.field, segs := s.segsOf y.cell, window := some y.cell,
    lines := s.linesOf (.chunk x k), wrote := s.wroteOf (.chunk x k), site := y.site, cls := y.block.cls, opR := 4, opW := 5,
    size := some 5, issuer := .copy x k, src := s.gca perf, req := .chunk x k, by_ := some ⟨s.gca perf, 0, 0, y.block.cls, false, true, none⟩ }

/-- An element outside the address space is refused as BOUND (R255). -/
def boundStop (w : Who) (va : Int) (op : Nat) : M Unit := do
  let a := (va % 2 ^ 48).toNat
  if va < 0 ∨ 2 ^ 48 ≤ va then
    let s ← M.state
    M.put (s.logAt w.log (w.violation s a op 8 2))
    M.stop (.refused ⟨2, BitVec.ofNat 48 a⟩)
  else pure ()

/-- Read the bits of a source element. -/
def readElem (w : Who) (b : CopyBlock) (e : Nat) : M Nat := do
  let n := esizeBits b.esize
  let p := elemPlace b.src (elemIndex (b.ext.take b.ndim) b.sstr e) n
  boundStop w p.1 w.opR
  let bs ← readVa w p.1.toNat ((n + 7) / 8) .r
  let v := leNat bs
  pure (if n = 4 then (if p.2 then v / 16 else v % 16) else v)

/-- Convert an element (R258): the destination bits and the flags. -/
def convertElem (b : CopyBlock) (v draw : Nat) : Nat × Flags :=
  match (if b.conv then fmtOf b.sfmt else none), fmtOf b.dfmt with
  | some f, some g => g.ofNum ⟨b.rmode, b.ftz, b.sat⟩ (decodeNum f b.ftz v) draw
  | _, _ => (v, Flags.none)

/-- The draw of element `j` of chunk `k` of a copy (R258). -/
def chunkDraw (id : BitVec 32) (k j : Nat) : Nat :=
  let seed : BitVec 16 := id.setWidth 16 ^^^ BitVec.ofNat 16 k
  (lfsrSteps (j + 1) (if seed = 0 then 0xACE1#16 else seed)).toNat

/-- Write a destination unit: one element, or the two four-bit elements of a byte. -/
def writeUnit (w : Who) (b : CopyBlock) (e : Nat) (vs : List Nat) : M Unit := do
  let n := b.dstBits
  let p := elemPlace b.dst (elemIndex (b.ext.take b.ndim) b.dstr e) n
  boundStop w p.1 w.opW
  writeVaM w p.1.toNat (if n = 4 then [BitVec.ofNat 8 (vs.headD 0 + 16 * vs.getLastD 0)] else leBytes (n / 8) (vs.headD 0))

/-- Do two of some byte ranges of one length share a byte? -/
def rangesMeet (n : Nat) (a b : List Int) : Bool :=
  a.any (fun x => b.any (fun y => decide (x < y + n) && decide (y < x + n)))

/-- Do two ranges in one list share a byte? -/
def selfMeet (n : Nat) : List Int → Bool
  | [] => false
  | x :: t => rangesMeet n [x] t || selfMeet n t

/-- Do the source and destination bytes of a chunk overlap, or its destination elements each other (R256)? -/
def CopyBlock.overlaps (b : CopyBlock) (es : List Nat) : Bool :=
  let at_ := fun (base : Addr) (str : List Int) (n : Nat) =>
    es.map (fun e => (elemPlace base (elemIndex (b.ext.take b.ndim) str e) n).1)
  let sb := (esizeBits b.esize + 7) / 8
  let db := (b.dstBits + 7) / 8
  let src := at_ b.src b.sstr (esizeBits b.esize)
  let dst := (at_ b.dst b.dstr b.dstBits)
  rangesMeet (max sb db) src dst || (b.dstBits != 4 && selfMeet db dst)

/-- The flags that an element has raised join those of its copy, also where a later element is refused (R258, R259). -/
def raiseCopy (x : Nat) (f : Flags) : M Unit := do
  let s ← M.state
  M.put (s.modCopy x (fun z => { z with flags := z.flags ||| f.toWord }))

/-- Move a chunk: its elements in ascending order, or, where bytes overlap, in a free order with free early reads (R256). -/
def moveChunk (w : Who) (x : Nat) (y : CopyRun) (k occasion : Nat) : M Unit := do
  let b := y.block
  let lo := k * b.perChunk
  let n := min b.perChunk (b.count - lo)
  let per := if b.dstBits = 4 then 2 else 1
  let units := (List.range (n / per)).map (fun u => lo + u * per)
  let free := b.overlaps ((List.range n).map (fun j => lo + j))
  let order := if free then shuffle occasion units else units
  let early ← order.mapM (fun e =>
    if free && Config.overlap occasion (e + 2 ^ 48) % 2 == 1 then do
      let vs ← (List.range per).mapM (fun j => readElem w b (e + j))
      pure (e, some vs)
    else pure (e, none))
  early.forM (fun (e : Nat × Option (List Nat)) => do
    let vs ← match e.2 with
      | some vs => pure vs
      | none => (List.range per).mapM (fun j => readElem w b (e.1 + j))
    let rs := vs.zipIdx.map (fun v => convertElem b v.1 (if b.rmode = 4 then chunkDraw y.id k (e.1 + v.2 - lo) else 0))
    writeUnit w b e.1 (rs.map Prod.fst)
    raiseCopy x (rs.foldl (fun g r => g.or r.2) Flags.none))

/-! ### Chunks (R257, R259) -/

/-- COPY_HEAD: a copy reaches the head of its home streamer's queue, and the request goes to its lead (R205, R257). -/
def State.tryHead (s : State) (c : Nat) : Option State :=
  let e := (s.cell c).streamer
  match e.queue with
  | .copy x :: _ =>
    match AL.find s.copies x with
    | some y =>
      if e.run.isSome || y.atHead || !s.engineStarts c then none
      else some (s.modCopy x (fun z => { z with atHead := true, lead := s.leadOf c z.block }))
    | none => none
  | _ => none

/-- COPY_HEAD (R257). -/
def execCopyHead (c : Nat) (s : State) : Out := happen s (s.tryHead c)

/-- Has a copy chunks that have not been given out, and may it start one? -/
def CopyRun.mayStart (y : CopyRun) : Bool :=
  y.atHead && y.phase == 0 && y.stopped == 0 && decide (y.next < y.top) && decide (y.chunks.length < 4)

/-- Has a streamer a chunk that was given to it, which comes before its own next one (R257)? -/
def State.guestChunk (s : State) (c : Nat) : Bool :=
  s.copies.any (fun p => p.2.chunks.any (fun q => q.2.cell == c && q.2.life == .forwarded))

/-- The cell that owns the first source element of a chunk in a hashed segment, if it is another cell of the lead's die (R257);
a streamer program's copy is not forwarded (R260). -/
def State.forwardTo (s : State) (y : CopyRun) (k : Nat) : Option Nat :=
  let b := y.block
  let va := (elemPlace b.src (elemIndex (b.ext.take b.ndim) b.sstr (k * b.perChunk)) (esizeBits b.esize)).1
  match y.issuer, (if va < 0 then none else segAt (s.segsOf y.cell) va.toNat) with
  | .act _, some i =>
    match (s.segsOf y.cell)[i]? with
    | some g =>
      if g.kind = 2 then
        let c := (hashOwner g.kf (va.toNat - g.base)).1
        if c ≠ y.lead ∧ dieOf c = dieOf y.lead then some c else none
      else none
    | none => none
  | _, _ => none

/-- CHUNK_START: the lead starts the next chunk in ascending order, or stops the copy of a cancelled scope (R257, Table
8-3). -/
def State.tryChunk (s : State) (x : Nat) : Option State :=
  match AL.find s.copies x with
  | none => none
  | some y =>
    if !y.mayStart || !s.engineGo y.lead || s.guestChunk y.lead then none
    else if !s.mayCheck y.lead y.scope then some (s.askUnit y.lead y.scope)
    else if s.cancelledAt y.lead y.scope then
      some ((s.checked y.lead y.scope).modCopy x (fun z => { z with stopped := 1 }))
    else
      match s.forwardTo y y.next with
      | some _ => none
      | none => some ((s.checked y.lead y.scope).modCopy x (fun z => { z with
          next := z.next + 1, chunks := AL.put z.chunks z.next ⟨y.lead, y.lead, .started⟩ }))

/-- CHUNK_START (R257). -/
def execChunkStart (x : Nat) (s : State) : Out := happen s (s.tryChunk x)

/-- CHUNK_FORWARD: the lead gives the next chunk to the streamer of the cell that owns its source; that streamer starts a
chunk that was forwarded or stolen, unless the copy has been stopped meanwhile (R147, R257). -/
def State.tryForward (s : State) (x k : Nat) : Option State :=
  match AL.find s.copies x with
  | none => none
  | some y =>
    match AL.find y.chunks k with
    | some ⟨c, v, .forwarded⟩ =>
      if !s.engineGo c then none
      else if y.stopped ≠ 0 then some (s.modCopy x (fun z => { z with chunks := AL.del z.chunks k }))
      else if !s.mayCheck c y.scope then some (s.askUnit c y.scope)
      else if s.cancelledAt c y.scope then
        some ((s.checked c y.scope).modCopy x (fun z => { z with chunks := AL.del z.chunks k, stopped := 1 }))
      else some ((s.checked c y.scope).modCopy x (fun z => { z with chunks := AL.put z.chunks k ⟨c, v, .started⟩ }))
    | some _ => none
    | none =>
      if y.next ≠ k || !y.mayStart || !s.engineGo y.lead || s.guestChunk y.lead then none
      else
        match s.forwardTo y k with
        | none => none
        | some c => some (s.modCopy x (fun z => { z with
            next := k + 1, chunks := AL.put z.chunks k ⟨c, c, .forwarded⟩ }))

/-- CHUNK_FORWARD (R257). -/
def execChunkForward (x chunk : Nat) (s : State) : Out := happen s (s.tryForward x chunk)

/-- A credit of bytes to a sync word on its way (R262). -/
def State.postCredit (s : State) (k : Credit) : State :=
  { s with credits := AL.put s.credits s.nextId k, nextId := s.nextId + 1 }

/-- The credit of a chunk that has been performed, to the copy's sync word (R262). -/
def State.chunkCredit (s : State) (x : Nat) (y : CopyRun) (perf k : Nat) : State :=
  if y.block.sync = 0 then s
  else
    let n := y.block.bytesOf (min y.block.perChunk (y.block.count - k * y.block.perChunk))
    (s.postCredit ⟨some x, perf, y.field, y.block.sync, n, false, y.scope, .none, y.naming, y.id⟩).modCopy x (fun z =>
      { z with credits := z.credits + 1 })

/-- Has a chunk writes that await another device? -/
def State.chunkAway (s : State) (x k : Nat) : Bool := s.flights.any (fun f => f.2.issuer == .copy x k)

/-- What moving a chunk comes to. -/
inductive ChunkRun
  | none
  | moved (s : State)
  | refused (e : ErrResp) (s : State)
  | wait (s : State)
  deriving DecidableEq, Repr

/-- Move a started chunk, or say what it waits for (R255, R257). -/
def State.runChunk (s : State) (x k : Nat) (y : CopyRun) (q : Chunk) : ChunkRun :=
  let req : FaultReq := .chunk x k
  match s.waitOf req with
  | .refused e => .refused e (s.endWait req)
  | .page _ => .none
  | .flight _ => .none
  | .withheld => .none
  | _ =>
    match (moveChunk (s.whoChunk x k y q.as_) x y k s.tick).exec s with
    | (.ok _, s1) => .moved ((s1.endWait req).modCopy x (fun z => { z with
        chunks := AL.put z.chunks k { q with life := .moved } }))
    | (.error (.refused e), s1) => .refused e (s1.endWait req)
    | (.error (.poison a g), s1) => .wait (s1.stopFor req y.cell y.field (.poison a g))
    | (.error z, _) => .wait (s.stopFor req y.cell y.field z)

/-- A chunk has been performed: its bytes are credited (R262). -/
def State.endChunk (s : State) (x k : Nat) (y : CopyRun) (perf : Nat) : State :=
  (s.modCopy x (fun z => { z with chunks := AL.del z.chunks k })).chunkCredit x y perf k

/-- CHUNK_PERFORMED: a started chunk is moved; it is performed once its writes to other devices are acknowledged (R255). -/
def State.tryPerformed (s : State) (x k : Nat) : Option State :=
  match AL.find s.copies x with
  | none => none
  | some y =>
    match AL.find y.chunks k with
    | some ⟨c, v, .started⟩ =>
      match s.runChunk x k y ⟨c, v, .started⟩ with
      | .moved s1 => some (if s1.chunkAway x k then s1 else s1.endChunk x k y v)
      | .wait s1 => some s1
      | _ => none
    | some ⟨_, v, .moved⟩ =>
      if s.chunkAway x k || AL.has y.errs k then none else some (s.endChunk x k y v)
    | _ => none

/-- CHUNK_PERFORMED (R255). -/
def execChunkPerformed (x chunk : Nat) (s : State) : Out := happen s (s.tryPerformed x chunk)

/-- The first refusal of a copy is reported to its issuer (R181, R259): a running activation traps, one that is taking a trap or
is frozen keeps it, a retired one has a record written; a streamer program learns of it when the copy has ended. -/
def State.reportRefusal (s : State) (y : CopyRun) (e : ErrResp) : State :=
  match y.issuer with
  | .prog _ => s
  | .act a =>
    match s.runningSlot a, (s.act a).slot with
    | some sl, _ => s.accessTrap y.cell sl y.site e.va s.nextId
    | none, some _ => s.modAct a (fun z => { z with kept := some (z.kept.getD ⟨y.site, e.va⟩) })
    | none, none =>
        let f : Flight := ⟨.act a, y.cell, y.field, y.block.cls, .load 8, e.va, .bad e.kind, .bad e.kind, true, 0, y.site, none,
          s.nextId, .going⟩
        s.deadRecord a f e.va

/-- A chunk meets a refusal: its remaining elements are not performed, and no further chunk starts (R259). -/
def State.failChunk (s : State) (x k : Nat) (y : CopyRun) (e : ErrResp) : State :=
  let s1 := s.modCopy x (fun z => { z with
    chunks := AL.del z.chunks k, errs := AL.del z.errs k, stopped := 2, refusal := some (z.refusal.getD e) })
  if y.refusal.isSome then s1 else s1.reportRefusal y e

/-- CHUNK_REFUSED (R259). -/
def State.tryRefused (s : State) (x k : Nat) : Option State :=
  match AL.find s.copies x with
  | none => none
  | some y =>
    match AL.find y.chunks k with
    | some ⟨c, v, .started⟩ =>
      match s.runChunk x k y ⟨c, v, .started⟩ with | .refused e s1 => some (s1.failChunk x k y e) | _ => none
    | some ⟨_, _, .moved⟩ =>
      match AL.find y.errs k with
      | some e => if s.chunkAway x k then none else some (s.failChunk x k y e)
      | none => none
    | _ => none

/-- CHUNK_REFUSED (R259). -/
def execChunkRefused (x chunk : Nat) (s : State) : Out := happen s (s.tryRefused x chunk)

/-- The current copy of a streamer: one that it leads, and of these one of which it has a chunk under way. Which, where there are several,
is a free choice (R147; log 5). -/
def State.currentCopy (s : State) (v : Nat) : Option (Nat × CopyRun) :=
  let led := s.copies.filter (fun p => p.2.lead == v && p.2.atHead && p.2.phase == 0)
  let busy := led.filter (fun p => p.2.chunks.any (fun q => q.2.cell == v))
  s.choose (if busy = [] then led else busy)

/-- STREAMER_STEAL_PROBE: an idle streamer takes the last unstarted chunk of the streamer of its cluster and field that holds the
most (R147); none steals in a stopping or stopped field (R396). -/
def State.tryStreamerSteal (s : State) (c : Nat) : Option State :=
  let e := (s.cell c).streamer
  if e.run.isSome || !e.queue.isEmpty || !s.engineStarts c || !(s.cell c).fieldV then none
  else
    let others := (clusterCells (clusterOf c)).filter (fun v => v != c && (s.cell v).fieldV &&
      (s.cell v).field == (s.cell c).field)
    let best : Option (Nat × Nat) := others.foldl (fun acc v =>
      match s.currentCopy v with
      | none => acc
      | some (x, y) =>
        let left := match y.issuer with | .act _ => if y.stopped = 0 then y.top - y.next else 0 | .prog _ => 0
        if left < 2 then acc
        else
          match acc with
          | none => some (x, left)
          | some b => if b.2 < left then some (x, left) else some b) none
    best.map (fun b => s.modCopy b.1 (fun z => { z with
      top := z.top - 1, chunks := AL.put z.chunks (z.top - 1) ⟨c, z.lead, .forwarded⟩ }))

/-- STREAMER_STEAL_PROBE (R147). -/
def execStreamerStealProbe (c : Nat) (s : State) : Out := happen s (s.tryStreamerSteal c)

/-! ### Sync words and wakes (R261 to R263) -/

/-- A message that waits for its share (R263). -/
def State.postWake (s : State) (d : WakeDue) : State :=
  { s with wakes := AL.put s.wakes s.nextId d, nextId := s.nextId + 1 }

/-- The wake of one generation (R263). A region's arrival holds no weight (R374): its wake carries weight of the field's
service scope (log 24). -/
def State.postGen (s : State) (k : Credit) (owner : Nat) (tag gen : Nat) : State :=
  let src : BitVec 24 := if k.hub then s.devNum ++ (0x020 : BitVec 12) else s.gca k.cell
  let m : Msg := { Msg.zero with
    dst := s.gca owner, words := [addrWord k.sync, word gen, k.ident.setWidth 64, 0], elem := BitVec.ofNat 24 gen,
    tag := BitVec.ofNat 4 tag, hub := k.hub, src := src, scope := k.scope, tenant := k.naming.tenant,
    colour := k.naming.colour, sent := s.time64 }
  match k.copy with
  | some x =>
    match AL.find s.copies x with
    | some ⟨_, _, .prog p, _, _, _, _, _, _, _, _, _, _, _, _, _, _, _, _, _⟩ =>
      s.postWake ⟨m, some x, none, some p, false, false, false, false⟩
    | _ => s.postWake ⟨m, some x, none, none, false, false, false, false⟩
  | none =>
    match k.holder with
    | .wake t => s.postWake ⟨m, none, some t, none, false, false, false, false⟩
    | _ =>
      match AL.find s.fields k.field with
      | none => s
      | some f =>
        let id := s.nextId
        (s.postWake ⟨{ m with scope := f.ctx.svcScope, colour := f.ctx.colour }, none, none, none, true, true, false,
          false⟩).askMint src f.ctx.svcScope (.wake id) k.hub

/-- On whose behalf a credit reaches its sync word: the window is that of the issuing cell of a copy or of a transfer; a region has none
(R175, R373). -/
def State.whoCredit (s : State) (x : Nat) (k : Credit) : Who :=
  let home := match k.copy with
    | some y => (match AL.find s.copies y with | some z => z.cell | none => k.cell)
    | none => k.cell
  { log := if k.hub then .transport else .cell k.cell, cell := k.cell, field := k.field,
    segs := match AL.find s.fields k.field with | some f => f.segs | none => [],
    window := (match k.copy, k.holder with | none, .wake _ => some home | none, _ => none | some _, _ => some home),
    lines := s.linesOf (.credit x), wrote := [], site := Site.zero, cls := .o, opR := 2, opW := 2, size := some 4,
    issuer := if k.hub then .hub unitXport else .cell, src := if k.hub then s.devNum ++ unitXport else s.gca k.cell, by_ := none,
    req := .credit x }

/-- The wakes of a credit that found its sync word as `bs`, in ascending GEN (R262, R263). -/
def State.creditWakes (s : State) (k : Credit) (owner : Nat) (bs : List Byte) : State :=
  let w0 := word (leNat (bs.take 8))
  let w1 := word (leNat (bs.drop 8))
  if bitAt w1 36 then
    (creditWord (bits w0 31 0) (bits w0 63 32) (bits w1 31 0) k.bytes).2.2.foldl (fun t g => t.postGen k owner (bits w1 35 32) g) s
  else s

/-- A credit is over. -/
def State.endCredit (s : State) (x : Nat) (k : Credit) : State :=
  let t : State := { s.endWait (.credit x) with credits := AL.del s.credits x }
  match k.copy with
  | some y => t.modCopy y (fun z => { z with credits := z.credits - 1 })
  | none => t

/-- SYNC_CREDIT: one atomic operation on the sync word, at the engine that serves it and in that engine's order (R203, R262). A refused one
credits nothing. -/
def State.tryCredit (s : State) (x : Nat) : Option State :=
  match AL.find s.credits x with
  | none => none
  | some k =>
    let who := s.whoCredit x k
    match s.waitOf (.credit x) with
    | .refused _ => some (s.endCredit x k)
    | .page _ => none
    | .flight _ => none
    | .withheld => none
    | _ =>
      match (engineOp who k.sync.toNat 16 .atom (.credit k.bytes)).exec s with
      | (.ok bs, s1) =>
        let owner := match resolve who.segs who.window k.sync.toNat .r with | .sram a => (ownerCell a).getD k.cell | _ => k.cell
        some ((s1.endCredit x k).creditWakes k owner bs)
      | (.error (.refused _), s1) => some (s1.endCredit x k)
      | (.error e, s1) => some (s1.stopFor (.credit x) k.cell k.field e)

/-- SYNC_CREDIT (R262). -/
def execSyncCredit (x : Nat) (s : State) : Out := happen s (s.tryCredit x)

/-- The weight that a waiting message's share comes from. -/
def State.wakeWeight (s : State) (d : WakeDue) : Nat :=
  match d.prog, d.copy, d.xfer with
  | some p, _, _ => match AL.find s.progs p with | some x => x.w | none => 0
  | _, some x, _ => match AL.find s.copies x with | some y => y.w | none => 0
  | _, _, some x => match AL.find s.transfers x with | some y => y.w | none => 0
  | _, _, _ => 0

/-- Set it. -/
def State.setWakeWeight (s : State) (d : WakeDue) (w : Nat) : State :=
  match d.prog, d.copy, d.xfer with
  | some p, _, _ => s.modProg p (fun x => { x with w := w })
  | _, some x, _ => s.modCopy x (fun y => { y with w := w })
  | _, _, some x =>
    match AL.find s.transfers x with
    | some y => { s with transfers := AL.put s.transfers x { y with w := w } }
    | none => s
  | _, _, _ => s

/-- WAKE_MESSAGE: the first waiting message of a contributor takes its share and is sent, or asks for a mint; one of the service
scope is sent when its 2^20 is granted, after the earlier ones of its sync word (R263, R264, R326). -/
def State.tryWake (s : State) (x : Nat) : Option State :=
  match AL.find s.wakes x with
  | none => none
  | some d =>
    if d.service then
      if s.wakes.any (fun p => decide (p.1 < x) && p.2.service && p.2.msg.dst == d.msg.dst && p.2.msg.words == d.msg.words.set 1 ((p.2.msg.words[1]?).getD 0)) then
        none
      else if d.granted then some ({ s with wakes := AL.del s.wakes x }.post { d.msg with w := mintAmount }) else none
    else if s.wakes.any (fun p => decide (p.1 < x) && !p.2.service && p.2.copy == d.copy && p.2.xfer == d.xfer) then none
    else
      let w := s.wakeWeight d + (if d.granted then mintAmount else 0)
      if w ≤ 1 then
        if d.asked then none
        else some ({ s with wakes := AL.put s.wakes x { d with asked := true } }.askMint d.msg.src d.msg.scope (.wake x) d.msg.hub)
      else
        some (({ s with wakes := AL.del s.wakes x }.setWakeWeight d (w - splitShare w)).post
          { d.msg with w := splitShare w, sent := s.time64 })

/-- WAKE_MESSAGE (R263). -/
def execWakeMessage (x : Nat) (s : State) : Out := happen s (s.tryWake x)

/-! ### The end of a copy (R264, R265) -/

/-- Has every chunk that will be started been performed (R264)? -/
def CopyRun.quiet (y : CopyRun) : Bool := y.atHead && y.chunks.isEmpty && (y.stopped != 0 || decide (y.top ≤ y.next))

/-- The completion message (R264). -/
def State.completion (s : State) (y : CopyRun) : Msg :=
  let h := y.block.chand
  { Msg.zero with
    dst := s.gca y.cell, handler := lo48 h, words := y.block.cwords, elem := BitVec.ofNat 24 y.stopped,
    stage := h.extractLsb' 52 4, tag := h.extractLsb' 48 4, src := s.gca y.cell, scope := y.scope,
    tenant := y.naming.tenant, colour := y.naming.colour, sent := s.time64, xferId := y.id, flags := y.flags }

/-- Has the program that issued a copy still to go on after it (R260)? -/
def State.awaited (s : State) (x : Nat) (pr : Option Nat) : Bool :=
  match pr with
  | some p => (match AL.find s.progs p with | some y => y.life == .running && y.copy == some x | none => false)
  | none => false

/-- COPY_END, a step at a time (R264): the bell arrival and the completion message once the class-e condition at RELSC holds; CNT_E falls when
the message has been sent; the weight returns when everything has been acknowledged. -/
def State.tryCopyEnd (s : State) (x : Nat) : Option State :=
  match AL.find s.copies x with
  | none => none
  | some y =>
    let away := s.flights.any (fun f => match f.2.issuer with | .copy z _ => z == x | _ => false)
    let pr := match y.issuer with | .prog p => some p | .act _ => none
    match y.phase with
    | 0 =>
      if !y.quiet || y.credits != 0 || (y.block.relsc == .system && away) then none
      else
        let s1 := if y.block.bellen then s.postArrival (dieOf y.cell) y.block.bell (some y.field) else s
        let s2 := if y.block.chand = 0 then s1
          else s1.postWake ⟨s1.completion y, some x, none, pr, false, false, false, true⟩
        let s3 := s2.modCopy x (fun z => { z with phase := 1 })
        some (s3.modCell y.cell (fun c => { c with
          streamer := { c.streamer with queue := c.streamer.queue.filter (fun q => !(q == QItem.copy x)) } }))
    | 1 =>
      if s.wakes.any (fun w => w.2.copy == some x && w.2.last) then none
      else
        let s1 := s.modCopy x (fun z => { z with phase := 2 })
        some (match y.issuer with | .act a => s1.modAct a (fun t => { t with cntE := t.cntE - 1 }) | .prog _ => s1)
    | _ =>
      if away || s.wakes.any (fun w => w.2.copy == some x) || s.awaited x pr then none
      else some ({ s with copies := AL.del s.copies x }.returnWeight (s.gca y.cell) y.scope y.w)

/-- COPY_END (R264). -/
def execCopyEnd (x : Nat) (s : State) : Out := happen s (s.tryCopyEnd x)

end Sys2Proof.Machine
end

