-- ==== Sys2Proof/Machine/Packets.lean ====
section
/-! DEFINITION. Packets and frames of the fabric as words: flits (R358, R359, R364), the frame sideband and its CRC (R353),
reading a packet back and what makes one malformed (R360). -/

namespace Sys2Proof.Machine

/-! ### Flits -/

/-- Some bytes as flits of 64 bytes, the last filled with zeros. -/
def bytesFlits (bs : List Byte) : List (List Word) :=
  (List.range ((bs.length + 63) / 64)).map (fun i => bytesWords 8 (bs.drop (64 * i)))

/-- The flits of a packet: header and words, tree area, data (R358, R364). -/
def Packet.flits (p : Packet) : List (List Word) :=
  (p.header ++ (List.range 4).map (fun i => (p.words[i]?).getD 0)) :: (bytesFlits p.tree ++ bytesFlits p.data)

/-- The class of a code; 3 is reserved. -/
def packetClass (n : Nat) : Option MemClass :=
  match n with | 0 => some .o | 1 => some .a | 2 => some .v | _ => none

/-- The header of a packet, from its first flit. -/
def Packet.ofHeader (ctxid : BitVec 16) (f : List Word) : Packet :=
  let w := fun i => (f[i]?).getD 0
  let k := bits (w 0) 63 60
  let base : Packet := { Packet.zero with
    ctxid := ctxid, kind := k, mc := bitAt (w 0) 56, cls := (packetClass (bits (w 0) 55 54)).getD .o, hop := bits (w 0) 53 50,
    vrand := bits (w 0) 49 47, colour := (w 0).extractLsb' 43 4, tenant := (w 0).extractLsb' 39 4, hub := bitAt (w 0) 38,
    elem := (w 0).extractLsb' 0 24, dst := (w 1).extractLsb' 40 24, src := (w 1).extractLsb' 16 24,
    scope := (w 3).extractLsb' 32 32, time := (w 3).extractLsb' 0 32, words := f.drop 4 }
  if k = 0 then
    { base with
      tag := (w 0).extractLsb' 34 4, stage := (w 0).extractLsb' 30 4,
      w := bits (w 0) 26 24 * 2 ^ 37 + bits (w 2) 36 0,
      handler := BitVec.ofNat 48 (bits (w 1) 15 0 * 2 ^ 32 + bits (w 2) 63 37 * 32) }
  else { base with status := (w 1).extractLsb' 0 8, op := (w 2).extractLsb' 48 16, addr := (w 2).extractLsb' 0 48 }

/-- Bytes of a flit. -/
def flitBytes (f : List Word) : List Byte := f.flatMap (fun w => leBytes 8 w.toNat)

/-- Bytes of the tree area: TLEN and what follows, in whole flits (R364). -/
def treeFlits (rest : List (List Word)) : Nat :=
  match rest with | f :: _ => (bits ((f[0]?).getD 0) 7 0 + 1 + 63) / 64 | [] => 0

/-- Length of a STORE (Table 18-5). -/
def Packet.storeLength (p : Packet) : Nat := bits (p.op.setWidth 64) 8 0 + 1

/-- A whole packet, from its flits. -/
def Packet.ofFlits (ctxid : BitVec 16) (fs : List (List Word)) : Packet :=
  match fs with
  | [] => Packet.zero
  | f :: rest =>
    let p := Packet.ofHeader ctxid f
    let t := if p.mc then treeFlits rest else 0
    let area := (rest.take t).flatMap flitBytes
    let tlen := ((area[0]?).getD 0).toNat + 1
    let data := (rest.drop t).flatMap flitBytes
    { p with
      tree := if p.mc then area.take tlen else []
      data := if p.kind = 2 then data.take (p.storeLength - 32) else data }

/-! ### Multicast trees (R364) -/

/-- A branch of a tree. -/
inductive Branch
  | forward (port : Nat) (sub : List Byte)
  | deliver
  | group (g : Nat)
  deriving DecidableEq, Repr

/-- `n` branches of a tree, and the bytes that follow. -/
def branches : Nat → List Byte → Option (List Branch × List Byte)
  | 0, bs => some ([], bs)
  | n + 1, a :: b :: t =>
    let rest := fun (x : Branch) (u : List Byte) => (branches n u).map (fun r => (x :: r.1, r.2))
    match a.toNat / 64 with
    | 0 =>
      let l := b.toNat
      if l < 3 ∨ 93 < l ∨ t.length < l then none else rest (.forward (a.toNat % 64) (t.take l)) (t.drop l)
    | 1 => if a.toNat = 0x40 ∧ b = 0 then rest .deliver t else none
    | 2 => if a.toNat = 0x80 then rest (.group b.toNat) t else none
    | _ => none
  | _ + 1, _ => none

/-- A tree of at most `depth` levels that takes exactly its bytes. -/
def treeOk : Nat → List Byte → Bool
  | 0, _ => false
  | d + 1, bs =>
    match bs with
    | [] => false
    | n :: t =>
      decide (1 ≤ n.toNat) && decide (n.toNat ≤ 31) &&
      match branches n.toNat t with
      | some (l, []) => l.all (fun b => match b with | .forward _ sub => treeOk d sub | _ => true)
      | _ => false

/-- The branches of a tree. -/
def treeBranches (bs : List Byte) : List Branch :=
  match bs with
  | [] => []
  | n :: t => match branches n.toNat t with | some (l, _) => l | none => []

/-! ### Malformed packets (R360) -/

/-- Operations by their selectors (Tables 2-7, 2-8). -/
def atomOps : List AtomOp := [.add, .and, .or, .xor, .min, .max, .minu, .maxu, .swap, .cas, .inc, .dec, .fadd]
/-- See `atomOps`. -/
def frontOps : List FrontOp := [.cfg, .ins, .merge, .rd, .clr, .stat]

/-- The operation of an ATOMIC packet: its operands stand in register order (Table 18-5). -/
def Packet.atomOp (p : Packet) : Option MemOp :=
  let o := p.op.toNat
  let w := fun i => (p.words[i]?).getD 0
  if 128 ≤ o then none
  else if o < 64 then (atomOps[o % 16]?).map (fun a => MemOp.atomic a (decide (32 ≤ o)) (w 0) (w 1))
  else if 16 ≤ o - 64 then none
  else (frontOps[o - 64]?).map (fun f => MemOp.front f (w 0) (w 1) (w 2) false)

/-- Is a length one that may be stored, and the address aligned for it (R359)? -/
def storeOk (n : Nat) (a : Nat) : Bool :=
  decide (n ≤ 288) && (if n = 1 ∨ n = 2 ∨ n = 4 ∨ n = 8 then a % n == 0 else a % 8 == 0)

/-- Does a packet meet R358 and R359? Reading and laying out again must give the flits that came, so that every zero field is
zero and EXTRA agrees with the length and the tree. -/
def Packet.ok (p : Packet) (fs : List (List Word)) : Bool :=
  let first := (fs[0]?).getD []
  p.flits == fs && decide (bits ((first[0]?).getD 0) 55 54 < 3) && decide (fs.length ≤ 7) && decide (p.vrand ≤ 4) &&
  (!p.mc || (p.kind == 0 || p.kind == 2)) && (p.kind == 0 || decide (6 ≤ p.kind) || p.scope == 0) &&
  (!p.mc || (decide (2 ≤ p.tree.length) && decide (p.tree.length ≤ 96) && treeOk 3 (p.tree.drop 1))) &&
  match p.kind with
  | 0 => p.data.isEmpty
  | 1 => decide (p.op.toNat ≤ 5) && p.words.all (fun w => w == 0) && p.data.isEmpty && p.status == 0
  | 2 =>
    decide (p.op.toNat < 1024) && storeOk p.storeLength p.addr.toNat && p.status == 0 &&
      ((flitBytes p.words).drop p.storeLength).all (fun b => b == 0)
  | 3 => p.atomOp.isSome && p.data.isEmpty && p.status == 0
  | 4 => p.op == 0 && p.addr == 0 && decide (p.status.toNat ≤ 7)
  | 5 => p.op == 0 && p.addr == 0 && p.data.isEmpty && decide (1 ≤ p.status.toNat) && decide (p.status.toNat ≤ 9)
  | 6 => p.status == 0 && p.op == 0 && decide (1 ≤ p.addr.toNat) && decide (p.addr.toNat ≤ 2 ^ 40) &&
      p.words.all (fun w => w == 0) && p.data.isEmpty
  | 7 => p.status == 0 && p.addr == 0 && decide (1 ≤ p.op.toNat) && decide (p.op.toNat ≤ 0x11)
  | _ => false

/-! ### Frames (R353) -/

/-- One bit of CRC-16 with polynomial 0x1021, most significant bit first (log 26). -/
def crcBits : Nat → BitVec 16 → BitVec 16
  | 0, c => c
  | n + 1, c => crcBits n (if c.msb then (c <<< 1) ^^^ 0x1021#16 else c <<< 1)

/-- CRC-16 of some bytes, from 0xFFFF. -/
def crc16 (bs : List Byte) : BitVec 16 :=
  bs.foldl (fun (c : BitVec 16) (b : Byte) => crcBits 8 (c ^^^ (b.setWidth 16 <<< 8))) 0xFFFF#16

/-- The CRC of a frame: over the flit and sideband bits [63:16], byte by byte in the order of the frame (log 26). -/
def linkCrc (f : LinkFrame) : BitVec 16 :=
  crc16 ((flitBytes ((List.range 8).map (fun i => (f.flit[i]?).getD 0))) ++ (leBytes 8 f.side.toNat).drop 2)

/-- Fields of the sideband (Table 18-1). -/
def linkCtxid (f : LinkFrame) : BitVec 16 := f.side.extractLsb' 48 16
/-- SEQ. -/
def linkSeq (f : LinkFrame) : BitVec 12 := f.side.extractLsb' 36 12
/-- VC. -/
def linkVc (f : LinkFrame) : Nat := bits f.side 35 32
/-- First frame of a packet. -/
def linkSop (f : LinkFrame) : Bool := bitAt f.side 31
/-- Last frame of a packet. -/
def linkEop (f : LinkFrame) : Bool := bitAt f.side 30
/-- ACKSEQ. -/
def linkAckSeq (f : LinkFrame) : BitVec 12 := f.side.extractLsb' 18 12
/-- ACKKIND. -/
def linkAckKind (f : LinkFrame) : Nat := bits f.side 17 16
/-- Is the CRC right, with a VC that is not reserved? -/
def linkGood (f : LinkFrame) : Bool :=
  f.side.extractLsb' 0 16 == linkCrc f && !(decide (9 ≤ linkVc f) && decide (linkVc f ≤ 14))

/-- A frame with its CRC. -/
def linkSeal (flit : List Word) (ctxid seq vc : Nat) (sop eop : Bool) (ack : Nat × BitVec 12) : LinkFrame :=
  let side := word (ctxid * 2 ^ 48 + seq * 2 ^ 36 + vc * 2 ^ 32 + flag sop * 2 ^ 31 + flag eop * 2 ^ 30 +
    ack.2.toNat * 2 ^ 18 + ack.1 * 2 ^ 16)
  let f : LinkFrame := ⟨flit, side⟩
  { f with side := side ||| (linkCrc f).setWidth 64 }

end Sys2Proof.Machine
end

