-- ==== Sys2Proof/Machine/Fetch.lean ====
section
/-! DEFINITION. Fetching an instruction group and the checks 1 to 5 and 10 of Table 2-12, for a frame and for an
engine program (R39, R49, R81); and the Gorivo word at the PC of a trace core (R391). -/

namespace Sys2Proof.Machine

/-- The cause code of a decode check (Table 2-14). -/
def causeCode : DecodeCause → Nat
  | .illegal => 0x01
  | .reserved => 0x02
  | .enginePage => 0x03
  | .badPrefix => 0x04

/-- What fetching a group gives: its words and the address after them; a structural trap with the prefixes read;
a halfword whose fetch is refused, not resident, or still to come. -/
inductive GroupFetch
  | ok (ws : GroupWords) (next : Addr) (s : State)
  | trap (cause : Nat) (pfx : List Half) (idx : Word) (s : State)
  | refused (va : Addr) (s : State)
  | notResident (va : Addr) (s : State)
  | busy (va : Addr) (s : State)
  | poison (flat : Nat) (agent : Option Nat) (s : State)
  | away (t : Target) (line : Nat) (s : State)

/-- Fetch the halfwords of a group from `va` on, after the prefixes `pfx`; `pc` is where the group starts (R39). -/
def State.fetchGroup (s : State) (c : Nat) (pc : Addr) : Nat → List Half → Addr → GroupFetch
  | 0, pfx, _ => .trap 0x04 pfx 0 s
  | n + 1, pfx, va =>
    if pfx ≠ [] ∧ !(regionOf (s.segsOf c) va.toNat == regionOf (s.segsOf c) pc.toNat) then .trap 0x04 pfx 0 s
    else
      match s.fetchHalf c va.toNat with
      | (.ok h, s2) =>
        if Half.isPfx h then
          if pfx.length = 4 then .trap 0x04 pfx 0 s2 else State.fetchGroup s2 c pc n (pfx ++ [h]) (va + 2)
        else .ok ⟨pfx, h⟩ (va + 2) s2
      | (.none, s2) => if pfx = [] then .trap 0x07 [] (addrWord va) s2 else .trap 0x04 pfx 0 s2
      | (.refused, s2) => .refused va s2
      | (.notResident, s2) => .notResident va s2
      | (.busy, s2) => .busy va s2
      | (.poison a g, s2) => .poison a g s2
      | (.away t line, s2) => .away t line s2

/-- The page that the prefixes read so far select (R42). -/
def pageOf (pfx : List Half) : Nat := (((pfxOf 2#2 pfx).headD 0).extractLsb' 0 4).toNat

/-- What a frame or an engine program is ready to do: run an instruction in a state, or move to a state without
running one. -/
inductive Ready
  | run (i : Instr) (s : State)
  | done (s : State)

/-- The group that the fetch buffer of a frame or of an engine's program holds (R96). -/
def State.heldGroup (s : State) (c : Ctx) : Option Site :=
  match c.unit with
  | .scalar => (s.fr c).held
  | .engine _ => match AL.find s.progs (s.progId c) with | some x => x.held | none => none

/-- A group enters the fetch buffer (R96). -/
def State.hold (s : State) (c : Ctx) (st : Site) : State :=
  match c.unit with
  | .scalar => s.modFr c (fun f => { f with held := some st })
  | .engine _ => s.modProg (s.progId c) (fun x => { x with held := some st })

/-- Decode a fetched group: it runs, held in the fetch buffer until it has issued, or takes the trap of the first check that
fails. -/
def State.decodeGroup (s : State) (cell : Nat) (unit : ExecUnit) (slot : Nat) (st : Site) : Ready :=
  match decodeFor unit ⟨st.pfx, st.base⟩ with
  | .ok i => .run i { s.hold ⟨cell, unit, slot, st⟩ st with cur := .group cell unit slot st }
  | .bad cause =>
    let base := if cause = .badPrefix then 0 else st.base
    .done (s.trapGroup ⟨cell, unit, slot, { st with base := base }⟩ (causeCode cause) 0 st.next)

/-- Fetch and decode the group at a PC, or take it from the fetch buffer; take the trap of the first check that fails, or wait for
the fetch. The first halfword of a resumed frame outside every executable segment traps RUNAWAY at that PC, as sequential fetch does,
the model's choice (DESIGN CHOICE, log 18). -/
def State.readyGroup (s : State) (cell : Nat) (unit : ExecUnit) (slot : Nat) (pc : Addr) (off : Bool) : Ready :=
  let at_ : Site := ⟨pc, pc, 0, [], 0⟩
  let c : Ctx := ⟨cell, unit, slot, at_⟩
  if pc.toNat % 2 = 1 then .done (s.trapGroup c 0x08 (addrWord pc) pc)
  else if off then .done (s.trapGroup c 0x07 (addrWord pc) pc)
  else
    match (s.heldGroup c).filter (fun st => st.pc == pc) with
    | some st => s.decodeGroup cell unit slot st
    | none =>
    match s.fetchGroup cell pc 6 [] pc with
    | .ok ws next s2 => s2.decodeGroup cell unit slot ⟨pc, next, pageOf ws.pfx, ws.pfx, ws.base⟩
    | .trap cause pfx idx s2 =>
      .done (s2.trapGroup ⟨cell, unit, slot, ⟨pc, pc, pageOf pfx, pfx, 0⟩⟩ cause idx pc)
    | .refused va s2 => .done (s2.trapGroup c 0x0A (addrWord va) pc)
    | .notResident va s2 =>
      match s.memWait c with
      | .refused _ => .done (s2.trapGroup c 0x0A (addrWord va) pc)
      | .page _ => .done s
      | _ => .done (s2.waitPage c va.toNat 3 .o (sizeCode 64))
    | .busy va s2 => .done (s2.waitWalk (s2.req c) va.toNat)
    | .poison a g s2 => .done (s2.withholdGroup c a g)
    | .away t line s2 =>
      match s.memWait c with
      | .refused e => .done (s2.trapGroup c 0x0A (addrWord e.va) pc)
      | .flight _ => .done s
      | _ => .done (s2.askLine c t line)

/-- Has the deadline of a switch stopped a frame at its instruction boundary (Table 17-9, step 3)? -/
def State.preempted (s : State) (cell slot : Nat) : Bool :=
  (s.frame cell slot).pend.isNone &&
  match s.fieldOf cell with | some f => f.mode == .switching && f.deadline | none => false

/-- A kept refusal of a frame traps before it issues anything more (R181). -/
def State.trapKept (s : State) (cell slot : Nat) (k : KeptRefusal) (next : Addr) : State :=
  (s.raiseTrap cell slot 0x0A k.site (addrWord k.va) next).modActOf cell slot (fun a => { a with kept := none })

/-- A frame that issues: running, not pre-empted, and what it waits for has come. -/
def State.readyFrame (s : State) (cell slot : Nat) : Ready :=
  let f := s.frame cell slot
  if f.life = .running ∧ f.pend = none ∧ (s.actOf cell slot).kept.isSome then
    .done (match (s.actOf cell slot).kept with | some k => s.trapKept cell slot k f.pc | none => s)
  else if f.life = .running ∧ s.waitOf (.frame cell slot) ≠ .withheld ∧ s.preempted cell slot = false then
    s.readyGroup cell .scalar slot f.pc f.off
  else .done s

/-- An engine that takes its next instruction when the writes of the one before have been performed, unless its program's scope is
cancelled (R275, Table 8-3). -/
def State.readyEngine (s : State) (cell : Nat) (u : EngineUnit) : Ready :=
  match ((s.cell cell).engine u).run with
  | none => .done s
  | some p =>
    match AL.find s.progs p with
    | some x =>
      if x.life ≠ .running ∨ (x.pend = none ∧ s.engineGo cell = false) then .done s
      else if x.pend = none ∧ s.mayCheck cell x.naming.scope = false then .done (s.askUnit cell x.naming.scope)
      else if x.pend = none ∧ s.cancelledAt cell x.naming.scope then
        .done (((s.checked cell x.naming.scope).endWait (.prog p)).modProg p (fun y => { y with life := .ending }))
      else if s.waitOf (.prog p) = .withheld ∨ (x.pend = none ∧ s.writesDone p = false) then .done s
      else (if x.pend = none then s.checked cell x.naming.scope else s).readyGroup cell (.engine u) 0 x.pc x.off
    | none => .done s

/-- A free trace core takes the record at the head of its input queue: every register zero, the PC at instruction 0
(R391, R392). -/
def State.beginTrace (s : State) (k : Nat) : State :=
  let t := s.trace k
  match t.busy, t.inq with
  | false, (c, r) :: q =>
    s.modTrace k (fun t => { t with inq := q, record := r, rcell := c, f := [], pc := 0, verdict := .none, busy := true })
  | _, _ => s

/-- A trace core that takes its next Gorivo word (R392): the store is whole words, checked when it was loaded. -/
def State.readyTrace (s : State) (k : Nat) : Ready :=
  let s1 := s.beginTrace k
  let t := s1.trace k
  if !t.busy || t.verdict != .none then .done s1
  else
    match t.store[t.pc]? with
    | none => .done s1
    | some w =>
      match decodeGorivo w with
      | .ok i => .run i { s1 with cur := .trace k }
      | .bad _ => .done s1

/-! ### Placing an instruction where the next step fetches it -/

/-- Where `placeGroup` puts code: a segment that maps the slice of cell 0. -/
def placeBase : Addr := 0x1000000#48

/-- A one-cell field whose only segment is the slice of cell 0, readable, writable and executable. -/
def placeField (f : Field) : Field :=
  { f with ctx := { f.ctx with shape := false, die := 0, row0 := 0, col0 := 0, h := 1, w := 1 },
           segs := [⟨placeBase.toNat, sliceSize, true, true, true, true, 1, false, 0, 0⟩],
           mode := .running, fenced := false }

/-- A field context record of zeros. -/
def FieldCtx.zero : FieldCtx :=
  ⟨0, false, 0, 0, 0, 1, 1, 0, 0, 0, 0, 0, 0, 0, 4, 0, 0, 0, 0, 0, [], [], [], [], 256, false⟩
/-- A field of zeros. -/
def Field.zero : Field := ⟨FieldCtx.zero, [], 0, [], .running, false, false⟩

/-- Store halfwords at the start of cell 0's slice and give cell 0 a field that maps it. -/
def State.placeWords (s : State) (hs : List Half) : State :=
  let x := s.cell 0
  let f := placeField (AL.get Field.zero s.fields x.field)
  { s with
    mem := s.mem.setBytes (sliceAddr 0 0) (hs.flatMap (fun h => leBytes 2 h.toNat)),
    fields := AL.put s.fields x.field f,
    cells := AL.put s.cells 0 { x with fieldV := true, icache := [] } }

/-- A group placed for frame slot 0 of cell 0: the frame runs, of 64 registers where it was free, and nothing is
outstanding. -/
def State.placeScalar (s : State) (hs : List Half) : State :=
  let s1 := s.placeWords hs
  let f := s1.frame 0 0
  let a := s1.nextId
  let act := if f.life = .free then a else f.act
  let size := if f.life = .free then 64 else f.size
  let s2 := if f.life = .free then
      { s1 with acts := AL.put s1.acts a { Act.zero with cell := 0, slot := some 0 }, nextId := a + 1 } else s1
  { s2.setFrame 0 0 { f with
      life := .running, act := act, size := size, pc := placeBase, off := false, outst := [], pend := none,
      trap := none, resume := none, held := none } with agenda := .issue 0 0 :: s.agenda }

/-- A group placed for an engine of cell 0, as a running program of its own. -/
def State.placeEngine (s : State) (u : EngineUnit) (hs : List Half) : State :=
  let s1 := s.placeWords hs
  let p := s1.nextId
  let x : Prog := ⟨0, u, 0, Naming.zero, (s1.cell 0).field, 0, placeBase, [], 1, FrameCr.reset, .running, placeBase,
    none, none, none, none, none, false, 0, 0, none, []⟩
  let s2 := { s1 with progs := AL.put s1.progs p x, nextId := p + 1 }
  { s2.modEngine 0 u (fun e => { e with run := some p }) with agenda := .engine 0 u :: s.agenda }

/-- A Gorivo word placed as the whole program of trace core 0, which works on its record. -/
def State.placeTrace (s : State) (w : BitVec 32) : State :=
  { s.modTrace 0 (fun t => { t with store := [w], len := 1, loaded := true, pc := 0, verdict := .none, busy := true }) with
    agenda := .gorivo 0 :: s.agenda }

/-- Place the instruction of a table row: a Gorivo word for trace core 0; a group of page 3 for the vector engine or
of page 4 for the matrix engine; any other group for the scalar core of cell 0 (log 4). -/
def State.placeTableWord (s : State) (nbits w : Nat) : State :=
  let hi : Half := BitVec.ofNat 16 (w / 65536)
  let lo : Half := BitVec.ofNat 16 w
  if nbits ≤ 16 then s.placeScalar [lo]
  else if Half.isPfx hi then
    let page := pageOf [hi]
    if page = 3 then s.placeEngine .vector [hi, lo]
    else if page = 4 then s.placeEngine .matrix [hi, lo]
    else s.placeScalar [hi, lo]
  else s.placeTrace (BitVec.ofNat 32 w)

end Sys2Proof.Machine
end

