-- ==== Sys2Proof/Machine/Trace.lean ====
section
/-! DEFINITION. Trace cores (spec 19): Gorivo instructions (R392, R394), the verdict and the triggers (R391, R395), the loader
(R393), and the steps that offer and process records (R389). -/

namespace Sys2Proof.Machine

/-! ### Gorivo (R392, Table 19-5) -/

/-- The register of a trace core's program. -/
def TraceCore.reg (t : TraceCore) (n : BitVec 4) : Word := Regs.get t.f n.toNat
/-- Write a register and go on to the next instruction. -/
def TraceCore.setReg (t : TraceCore) (d : BitVec 4) (v : Word) : TraceCore :=
  { t with f := Regs.set t.f d.toNat v, pc := t.pc + 1 }
/-- Write a counter and go on. -/
def TraceCore.setCounter (t : TraceCore) (n : Nat) (v : Word) : TraceCore :=
  { t with counters := Regs.set t.counters n v, pc := t.pc + 1 }
/-- Branch forward. -/
def TraceCore.branch (t : TraceCore) (taken : Bool) (off : Nat) : TraceCore :=
  { t with pc := t.pc + (if taken then off else 1) }
/-- End with a verdict. -/
def TraceCore.decide (t : TraceCore) (v : Verdict) : TraceCore := { t with verdict := v }

/-- Doubleword `n` of a trace record. -/
def TraceRec.word (r : TraceRec) : Nat → Word
  | 0 => r.w0
  | 1 => r.w1
  | 2 => r.w2
  | _ => r.w3

/-- The verdict of `trigger m`; without a bit it is drop (R394). -/
def triggerVerdict (m : BitVec 3) : Verdict := if m = 0 then .drop else .trigger m

/-- What a Gorivo instruction does to its trace core; none for other instructions. -/
def TraceCore.run (t : TraceCore) : Instr → Option TraceCore
  | .gorivoLdr d n => some (t.setReg d (t.record.word n.toNat))
  | .gorivoLdi d i => some (t.setReg d (i.signExtend 64))
  | .gorivoLdh d i => some (t.setReg d (t.reg d <<< 18 ||| i.setWidth 64))
  | .gorivoAdd d a b => some (t.setReg d (t.reg a + t.reg b))
  | .gorivoSub d a b => some (t.setReg d (t.reg a - t.reg b))
  | .gorivoAnd d a b => some (t.setReg d (t.reg a &&& t.reg b))
  | .gorivoOr d a b => some (t.setReg d (t.reg a ||| t.reg b))
  | .gorivoXor d a b => some (t.setReg d (t.reg a ^^^ t.reg b))
  | .gorivoShli d a n => some (t.setReg d (t.reg a <<< n.toNat))
  | .gorivoShri d a n => some (t.setReg d (t.reg a >>> n.toNat))
  | .gorivoAndi d a i => some (t.setReg d (t.reg a &&& i.setWidth 64))
  | .gorivoCadd a n => some (t.setCounter n.toNat (Regs.get t.counters n.toNat + t.reg a))
  | .gorivoCset a n => some (t.setCounter n.toNat (t.reg a))
  | .gorivoCrd d n => some (t.setReg d (Regs.get t.counters n.toNat))
  | .gorivoBeq a b o => some (t.branch (t.reg a == t.reg b) o.toNat)
  | .gorivoBne a b o => some (t.branch (t.reg a != t.reg b) o.toNat)
  | .gorivoBltu a b o => some (t.branch ((t.reg a).ult (t.reg b)) o.toNat)
  | .gorivoBgeu a b o => some (t.branch (!(t.reg a).ult (t.reg b)) o.toNat)
  | .gorivoBr o => some (t.branch true o.toNat)
  | .gorivoKeep => some (t.decide .keep)
  | .gorivoDrop => some (t.decide .drop)
  | .gorivoCount n => some ((t.setCounter n.toNat (Regs.get t.counters n.toNat + 1)).decide .drop)
  | .gorivoTrigger m => some (t.decide (triggerVerdict m))
  | _ => none

/-! ### Verdicts (R391, R394, R395) -/

/-- STATE codes (Table 19-4). -/
def traceOff : BitVec 2 := 0
/-- See `traceOff`. -/
def traceIdle : BitVec 2 := 1
/-- See `traceOff`. -/
def traceRunning : BitVec 2 := 2
/-- See `traceOff`. -/
def traceStopped : BitVec 2 := 3

/-- START, STOP and HALT of a verdict. -/
def Verdict.bits : Verdict → BitVec 3
  | .trigger m => m
  | _ => 0

/-- Is the record kept, and the next STATE, after a verdict and a STATE write of its cycle (R394, R395, Table 19-6). Drop and count
discard the record whatever the write; a write of 2 leaves STOPPED, and any write leaves OFF (log 25). -/
def traceOutcome (st : BitVec 2) (v : Verdict) (req : Option (BitVec 2)) : Bool × BitVec 2 :=
  let start := v.bits.getLsbD 0 || req == some traceRunning
  let stop := v.bits.getLsbD 1 || req == some traceStopped
  let r : Bool × BitVec 2 :=
    if !start && !stop then (v == .keep && st == traceRunning, st)
    else if st = traceIdle then (start && v != .drop, if stop then traceStopped else traceRunning)
    else if st = traceRunning then (v != .drop, if stop then traceStopped else traceRunning)
    else (false, st)
  match req with
  | some w => if w = traceOff ∨ w = traceIdle ∨ st = traceOff ∨ (st = traceStopped ∧ w = traceRunning) then (r.1, w) else r
  | none => r

/-- Is the record kept, and the next STATE once the verdict has been decided: a STATE write of an earlier cycle of the record, or of a later
one, takes effect between two records (R390, R395). -/
def TraceCore.outcome (t : TraceCore) : Bool × BitVec 2 :=
  let r := traceOutcome t.state t.verdict t.request
  (r.1, t.late.getD r.2)

/-- A cycle of a program is over: a STATE write that came in a cycle with no verdict waits for the end of the record (R390, R395). -/
def TraceCore.cycle (t : TraceCore) : TraceCore :=
  if t.verdict = .none then { t with late := t.request <|> t.late, request := none } else t

/-- On whose behalf a trace core reaches memory: in the address space of field CTXF (R391, R393). It has no unit number of its own
(Table 7-15): the first cell of its cluster names it (log 25). -/
def State.whoTrace (s : State) (k : Nat) : Who :=
  let f := (s.trace k).ctxf
  { log := .traceCore k, cell := (clusterCells k).headD 0, field := f,
    segs := (match AL.find s.fields f with | some x => x.segs | none => []), window := none,
    lines := s.linesOf (.trace k), wrote := s.wroteOf (.trace k), site := Site.zero, cls := .o, opR := 0, opW := 1, size := none,
    issuer := .trace k, src := s.gca ((clusterCells k).headD 0), by_ := none, req := .trace k }

/-- A field is to stop (R396). -/
def State.stopField (s : State) (f : Nat) : State :=
  s.modField f (fun x => if x.mode = .running then { x with mode := .stopping } else x)

/-- A record's program is over: STATE, the request and the record are done with; HALT stops the field of the record's cell
(R394, R396). -/
def State.endTrace (s : State) (k : Nat) (st : BitVec 2) : State :=
  let t := s.trace k
  let s1 := (s.endWait (.trace k)).modTrace k (fun t => { t with
    state := st, request := none, late := none, verdict := .none, busy := false, f := [], pc := 0 })
  if t.verdict.bits.getLsbD 2 && (s.cell t.rcell).fieldV then s1.stopField (s.cell t.rcell).field else s1

/-- Act on the verdict that a trace core has reached: a kept record is written to the ring; a refused write stops the core
(R391). -/
def State.settleTrace (s : State) (k : Nat) : State :=
  let t := s.trace k
  let r := t.outcome
  if t.verdict = .none then s
  else if !r.1 then s.endTrace k r.2
  else if s.isWaiting (.trace k) then s
  else
    match s.waitOf (.trace k) with
    | .refused _ => s.endTrace k traceStopped
    | _ =>
      let va := t.ring.toNat + 32 * (t.wr.toNat % 2 ^ t.log2n.toNat)
      let ws := [t.record.w0, t.record.w1, t.record.w2, t.record.w3]
      match (writeVaWait (s.whoTrace k) (va % 2 ^ 48) (wordsBytes ws)).exec s with
      | (.ok _, s1) => (s1.modTrace k (fun t => { t with wr := t.wr + 1 })).endTrace k r.2
      | (.error (.refused _), s1) => s1.endTrace k traceStopped
      | (.error (.poison a g), s1) => s1.stopFor (.trace k) (s.whoTrace k).cell t.ctxf (.poison a g)
      | (.error x, _) => s.stopFor (.trace k) (s.whoTrace k).cell t.ctxf x

/-- One Gorivo instruction of the trace core that executes; a verdict is acted on at once. -/
def traceGo (s : State) (f : TraceCore → TraceCore) : Out :=
  match s.cur with
  | .trace k => .next (({ s with cur := .none }.modTrace k f).settleTrace k)
  | _ => .fault .noProgram

/-- An instruction as `TraceCore.run` gives it. -/
def traceInstr (i : Instr) (s : State) : Out := traceGo s (fun t => ((t.run i).getD t).cycle)

/-- R392. -/
def execGorivoLdr (d : BitVec 4) (n : BitVec 18) (s : State) : Out := traceInstr (.gorivoLdr d n) s
/-- R392. -/
def execGorivoLdi (d : BitVec 4) (imm : BitVec 18) (s : State) : Out := traceInstr (.gorivoLdi d imm) s
/-- R392. -/
def execGorivoLdh (d : BitVec 4) (imm : BitVec 18) (s : State) : Out := traceInstr (.gorivoLdh d imm) s
/-- R392. -/
def execGorivoAdd (d a b : BitVec 4) (s : State) : Out := traceInstr (.gorivoAdd d a b) s
/-- R392. -/
def execGorivoSub (d a b : BitVec 4) (s : State) : Out := traceInstr (.gorivoSub d a b) s
/-- R392. -/
def execGorivoAnd (d a b : BitVec 4) (s : State) : Out := traceInstr (.gorivoAnd d a b) s
/-- R392. -/
def execGorivoOr (d a b : BitVec 4) (s : State) : Out := traceInstr (.gorivoOr d a b) s
/-- R392. -/
def execGorivoXor (d a b : BitVec 4) (s : State) : Out := traceInstr (.gorivoXor d a b) s
/-- R392. -/
def execGorivoShli (d a : BitVec 4) (n : BitVec 18) (s : State) : Out := traceInstr (.gorivoShli d a n) s
/-- R392. -/
def execGorivoShri (d a : BitVec 4) (n : BitVec 18) (s : State) : Out := traceInstr (.gorivoShri d a n) s
/-- R392. -/
def execGorivoAndi (d a : BitVec 4) (imm : BitVec 18) (s : State) : Out := traceInstr (.gorivoAndi d a imm) s
/-- R392. -/
def execGorivoCadd (a : BitVec 4) (n : BitVec 18) (s : State) : Out := traceInstr (.gorivoCadd a n) s
/-- R392. -/
def execGorivoCset (a : BitVec 4) (n : BitVec 18) (s : State) : Out := traceInstr (.gorivoCset a n) s
/-- R392. -/
def execGorivoCrd (d : BitVec 4) (n : BitVec 18) (s : State) : Out := traceInstr (.gorivoCrd d n) s
/-- R392. -/
def execGorivoBeq (a b : BitVec 4) (off : BitVec 14) (s : State) : Out := traceInstr (.gorivoBeq a b off) s
/-- R392. -/
def execGorivoBne (a b : BitVec 4) (off : BitVec 14) (s : State) : Out := traceInstr (.gorivoBne a b off) s
/-- R392. -/
def execGorivoBltu (a b : BitVec 4) (off : BitVec 14) (s : State) : Out := traceInstr (.gorivoBltu a b off) s
/-- R392. -/
def execGorivoBgeu (a b : BitVec 4) (off : BitVec 14) (s : State) : Out := traceInstr (.gorivoBgeu a b off) s
/-- R392. -/
def execGorivoBr (off : BitVec 18) (s : State) : Out := traceInstr (.gorivoBr off) s
/-- R394. -/
def execGorivoKeep (s : State) : Out := traceInstr .gorivoKeep s
/-- R394. -/
def execGorivoDrop (s : State) : Out := traceInstr .gorivoDrop s
/-- R394. -/
def execGorivoCount (n : BitVec 18) (s : State) : Out := traceInstr (.gorivoCount n) s
/-- R394, R395. -/
def execGorivoTrigger (m : BitVec 3) (s : State) : Out := traceInstr (.gorivoTrigger m) s

/-! ### Records (R389, R391) -/

/-- TRACE_RECORD_OFFER: the core takes a record, loses it, or takes no notice of it (R389). -/
def State.tryOffer (s : State) (k : Nat) : Option State :=
  let t := s.trace k
  match t.offered with
  | [] => none
  | (c, r) :: q =>
    let s1 := s.modTrace k (fun t => { t with offered := q })
    some (if t.state = traceOff ∨ t.loaded = false ∨ t.tenants.getLsbD (bits r.w1 27 24) = false then s1
      else if 64 ≤ t.inq.length then s1.modTrace k (fun t => { t with lost := t.lost + 1 })
      else s1.modTrace k (fun t => { t with inq := t.inq ++ [(c, r)] }))

/-- TRACE_RECORD_OFFER (R389). -/
def execTraceRecordOffer (k : Nat) (s : State) : Out := happen s (s.tryOffer k)

/-- Run a program until its verdict; every branch goes forward, so LEN instructions are enough (R393). A record that finds
an empty store is dropped (log 25). -/
def TraceCore.runAll : Nat → TraceCore → TraceCore
  | 0, t => if t.verdict = .none then t.decide .drop else t
  | n + 1, t =>
    if t.verdict ≠ .none then t
    else
      match t.store[t.pc]? with
      | none => t.decide .drop
      | some w =>
        match decodeGorivo w with
        | .ok i => TraceCore.runAll n ((t.run i).getD t).cycle
        | .bad _ => t.decide .drop

/-- TRACE_RECORD_PROCESS: the program runs to the verdict on the record at hand, or on the next one, and the core acts on it
(R391). -/
def State.tryTrace (s : State) (k : Nat) : Option State :=
  let s1 := s.beginTrace k
  if !(s1.trace k).busy then none
  else some ((s1.modTrace k (fun t => TraceCore.runAll t.store.length t)).settleTrace k)

/-- TRACE_RECORD_PROCESS (R391). -/
def execTraceRecordProcess (k : Nat) (s : State) : Out := happen s (s.tryTrace k)

/-- A STATE write: at once between two records; in the cycle of the program's next instruction, which may be its verdict; or, once that has
been decided, after it (R390, R395). -/
def TraceCore.write (t : TraceCore) (v : BitVec 2) : TraceCore :=
  if t.busy then (if t.verdict = .none then { t with request := some v, late := none } else { t with late := some v })
  else { t with state := v }

/-- TRACE_STATE_WRITE (R390, R395). -/
def execTraceStateWrite (k : Nat) (v : BitVec 2) (s : State) : Out := .next (s.modTrace k (fun t => t.write v))

/-- TRACE_LOST_READ: LOST is read and cleared (R390). -/
def execTraceLostRead (k : Nat) (s : State) : Out :=
  .next { s.modTrace k (fun t => { t with lost := 0 }) with readout := [(s.trace k).lost] }

/-! ### The loader (R393) -/

/-- The code of a word at an index of a program of `n` words; zero where it passes. -/
def loaderCode (n i : Nat) (w : BitVec 32) : Nat :=
  match decodeGorivo w with
  | .bad c => c
  | .ok instr =>
    let off := match instr with
      | .gorivoBeq _ _ o => some o.toNat
      | .gorivoBne _ _ o => some o.toNat
      | .gorivoBltu _ _ o => some o.toNat
      | .gorivoBgeu _ _ o => some o.toNat
      | .gorivoBr o => some o.toNat
      | _ => none
    let badBranch := match off with | some o => o == 0 || decide (n ≤ i + o) | none => false
    if badBranch then 4
    else if i + 1 = n ∧ w.toNat / 2 ^ 26 < 0x20 then 5
    else 0

/-- The code of the first failing word, or zero. -/
def loaderResult (ws : List (BitVec 32)) : Nat :=
  ((ws.zipIdx.map (fun p => loaderCode ws.length p.2 p.1)).find? (fun c => c != 0)).getD 0

/-- A loader result: LDERR, and the program or an empty store with STATE OFF (R393). -/
def State.loaded (s : State) (k : Nat) (ws : List (BitVec 32)) (code : Nat) : State :=
  (s.endWait (.trace k)).modTrace k (fun t =>
    if code = 0 then { t with store := ws, loaded := true, lderr := 0, loading := none }
    else { t with store := [], loaded := false, lderr := BitVec.ofNat 8 code, state := traceOff, loading := none })

/-- Words of 32 bits. -/
def halves : Nat → List Byte → List (BitVec 32)
  | 0, _ => []
  | n + 1, bs => BitVec.ofNat 32 (leNat (bs.take 4)) :: halves n (bs.drop 4)

/-- PROG: a running program ends with drop, the counters are zeroed, and LEN words are loaded and checked. Words of a page
that is not resident, or of another device, come later: the load then goes on (R393). -/
def State.loadProgram (s : State) (k : Nat) (addr : Addr) : State :=
  let s1 := if (s.trace k).loading.isSome then s
    else
      let s0 := if (s.trace k).busy then
          (s.modTrace k (fun t => { t with verdict := .drop })).endTrace k { s.trace k with verdict := .drop }.outcome.2
        else s
      s0.modTrace k (fun t => { t with counters := [], store := [], loading := some addr })
  let t := s1.trace k
  let n := t.len.toNat
  if n = 0 ∨ 256 < n then s1.loaded k [] 6
  else if s1.isWaiting (.trace k) then s1
  else
    match s1.waitOf (.trace k) with
    | .refused _ => s1.loaded k [] 6
    | _ =>
      match (readVa (s1.whoTrace k) (t.loading.getD addr).toNat (4 * n) .r).exec s1 with
      | (.ok bs, s2) => let ws := halves n bs; s2.loaded k ws (loaderResult ws)
      | (.error (.refused _), s2) => s2.loaded k [] 6
      | (.error (.poison a g), s2) => s2.stopFor (.trace k) (s1.whoTrace k).cell t.ctxf (.poison a g)
      | (.error x, _) => s1.stopFor (.trace k) (s1.whoTrace k).cell t.ctxf x

/-- PROG (R393). -/
def execProg (k : Nat) (addr : Addr) (s : State) : Out := .next (s.loadProgram k addr)

end Sys2Proof.Machine
end

