-- ==== Sys2Proof/Machine/Special.lean ====
section
/-! DEFINITION. Square roots, quotients and the special functions (R287, Table 12-6): an enclosure of the exact value by
integer intervals of a fixed scale, rounded at both ends. Where the ends round apart, the manual's value is one of the two
and a free choice stands for it (log 16). -/

namespace Sys2Proof.Machine

/-! ### Integer square roots -/

/-- Newton steps towards the integer square root. -/
def isqrtSteps : Nat → Nat → Nat → Nat
  | 0, _, x => x
  | f + 1, n, x =>
    if x = 0 then 0
    else
      let y := (x + n / x) / 2
      if x ≤ y then x else isqrtSteps f n y

/-- The integer square root, rounded down. -/
def isqrt (n : Nat) : Nat := isqrtSteps (n.log2 + 4) n (2 ^ (n.log2 / 2 + 1))

/-- The exact square root of m × 2^e as a magnitude with many bits, sticky where inexact. -/
def sqrtMag (m : Nat) (e : Int) : Mag :=
  let e1 := if e % 2 = 0 then e else e - 1
  let m1 := if e % 2 = 0 then m else 2 * m
  let n := m1 * 2 ^ 200
  let r := isqrt n
  ⟨r, 1, e1 / 2 - 100, r * r != n⟩

/-- The exact value 1 / √(m × 2^e), m not zero: rounded down to many bits, sticky where inexact. -/
def rsqrtMag (m : Nat) (e : Int) : Mag :=
  let e1 := if e % 2 = 0 then e else e - 1
  let m1 := if e % 2 = 0 then m else 2 * m
  let n := 2 ^ 400 / m1
  let r := isqrt n
  ⟨r, 1, -(e1 / 2) - 200, !(r * r * m1 == 2 ^ 400)⟩

/-! ### Intervals -/

/-- An interval of integers in units of 2^-p. -/
structure Iv where
  lo : Int
  hi : Int
  deriving DecidableEq, Repr

/-- The scale of the enclosures. -/
def ivBits : Nat := 400

/-- Round a quotient up. -/
def ceilDiv (a : Int) (b : Int) : Int := -((-a) / b)

/-- An integer. -/
def Iv.ofInt (p : Nat) (n : Int) : Iv := ⟨n * 2 ^ p, n * 2 ^ p⟩
/-- The sum. -/
def Iv.add (a b : Iv) : Iv := ⟨a.lo + b.lo, a.hi + b.hi⟩
/-- The opposite. -/
def Iv.neg (a : Iv) : Iv := ⟨-a.hi, -a.lo⟩
/-- The difference. -/
def Iv.sub (a b : Iv) : Iv := a.add b.neg
/-- The product. -/
def Iv.mul (p : Nat) (a b : Iv) : Iv :=
  let xs := [a.lo * b.lo, a.lo * b.hi, a.hi * b.lo, a.hi * b.hi]
  let mn := xs.foldl (fun m x => if x < m then x else m) (a.lo * b.lo)
  let mx := xs.foldl (fun m x => if m < x then x else m) (a.lo * b.lo)
  ⟨mn / 2 ^ p, ceilDiv mx (2 ^ p)⟩
/-- Division by a positive integer. -/
def Iv.divNat (a : Iv) (n : Nat) : Iv := ⟨a.lo / n, ceilDiv a.hi n⟩
/-- The reciprocal of a positive interval. -/
def Iv.inv (p : Nat) (a : Iv) : Iv := ⟨2 ^ (2 * p) / a.hi, ceilDiv (2 ^ (2 * p)) a.lo⟩
/-- Widen by some units. -/
def Iv.widen (a : Iv) (u : Int) : Iv := ⟨a.lo - u, a.hi + u⟩
/-- m × 2^e. -/
def Iv.ofDyadic (p : Nat) (neg : Bool) (m : Nat) (e : Int) : Iv :=
  let sh := e + p
  let v : Iv := if 0 ≤ sh then ⟨m * 2 ^ sh.toNat, m * 2 ^ sh.toNat⟩
    else ⟨(m : Int) / 2 ^ (-sh).toNat, ceilDiv m (2 ^ (-sh).toNat)⟩
  if neg then v.neg else v

/-- Sum of x^k / k! from term `t` of index `k` on. -/
def expTerms (p : Nat) (x : Iv) : Nat → Nat → Iv → Iv → Iv
  | 0, _, _, acc => acc.widen 4
  | f + 1, k, t, acc =>
    let t2 := (Iv.mul p t x).divNat k
    expTerms p x f (k + 1) t2 (acc.add t2)

/-- Square `n` times. -/
def Iv.squares (p : Nat) : Nat → Iv → Iv
  | 0, a => a
  | n + 1, a => Iv.squares p n (Iv.mul p a a)

/-- e^x for 0 ≤ x ≤ 256: x is divided by 2^12, summed and squared twelve times. -/
def Iv.exp (p : Nat) (x : Iv) : Iv :=
  let q := p + 440
  let up : Iv := ⟨x.lo * 2 ^ 440, x.hi * 2 ^ 440⟩
  let r := Iv.squares q 12 (expTerms q (up.divNat 4096) 90 1 (Iv.ofInt q 1) (Iv.ofInt q 1))
  ⟨r.lo / 2 ^ 440, ceilDiv r.hi (2 ^ 440)⟩

/-- Sum of z^(2k+1) / (2k+1), signs alternating for an arctangent. -/
def oddTerms (p : Nat) (z2 : Iv) (alt : Bool) : Nat → Nat → Iv → Iv → Iv
  | 0, _, _, acc => acc.widen 4
  | f + 1, k, t, acc =>
    let t2 := Iv.mul p t z2
    let u := t2.divNat (2 * k + 1)
    oddTerms p z2 alt f (k + 1) t2 (if alt && k % 2 == 1 then acc.sub u else acc.add u)

/-- atanh or atan of a small interval, by `n` terms. -/
def Iv.series (p : Nat) (z : Iv) (alt : Bool) (n : Nat) : Iv := oddTerms p (Iv.mul p z z) alt n 1 z z

/-- atan (1 / n). -/
def atanInv (p n : Nat) : Iv := Iv.series p ((Iv.ofInt p 1).divNat n) true (p / 4 + 8)

/-- π, by Machin's formula. -/
def Iv.pi (p : Nat) : Iv :=
  let a := atanInv p 5
  let b := atanInv p 239
  let m := fun (k : Int) (x : Iv) => (⟨x.lo * k, x.hi * k⟩ : Iv)
  (m 16 a).sub (m 4 b)

/-- ln 2 = 2 atanh (1/3). -/
def Iv.ln2 (p : Nat) : Iv :=
  let a := Iv.series p ((Iv.ofInt p 1).divNat 3) false (p / 3 + 8)
  ⟨2 * a.lo, 2 * a.hi⟩

/-- ln of m × 2^e, m not zero. -/
def ivLog (p m : Nat) (e : Int) : Iv :=
  let k : Int := m.log2 + e
  -- x / 2^k lies in [1, 2)
  let x := Iv.ofDyadic p false m (-(m.log2 : Int))
  let big := decide (3 * 2 ^ p ≤ 2 * x.lo)
  let y : Iv := if big then ⟨x.lo / 2, ceilDiv x.hi 2⟩ else x
  let j := if big then k + 1 else k
  let one := Iv.ofInt p 1
  let z := Iv.mul p (y.sub one) (Iv.inv p (y.add one))
  let a := Iv.series p z false (p / 4 + 8)
  let l := Iv.ln2 p
  let jl : Iv := if 0 ≤ j then ⟨j * l.lo, j * l.hi⟩ else ⟨j * l.hi, j * l.lo⟩
  (⟨2 * a.lo, 2 * a.hi⟩ : Iv).add jl

/-- Sum of the terms of a sine or cosine from term `t` of index `k` on. -/
def trigTerms (p : Nat) (x2 : Iv) : Nat → Nat → Iv → Iv → Iv
  | 0, _, _, acc => acc.widen 4
  | f + 1, k, t, acc =>
    let t2 := ((Iv.mul p t x2).divNat ((k + 1) * (k + 2))).neg
    trigTerms p x2 f (k + 2) t2 (acc.add t2)

/-- The sine (or cosine) of m × 2^e: reduced by the nearest multiple of π/2. -/
def ivTrig (cos : Bool) (m : Nat) (e : Int) : Iv :=
  let p := 800
  let x := Iv.ofDyadic p false m e
  let h := Iv.pi p
  let half : Iv := ⟨h.lo / 2, ceilDiv h.hi 2⟩
  let k := (x.lo + half.lo / 2) / half.lo
  let r := x.sub ⟨k * half.lo, k * half.hi⟩
  let q := (k + (if cos then 1 else 0)) % 4
  let r2 := Iv.mul p r r
  let v := if q % 2 = 0 then trigTerms p r2 80 1 r r else trigTerms p r2 80 0 (Iv.ofInt p 1) (Iv.ofInt p 1)
  let v := if 2 ≤ q then v.neg else v
  ⟨v.lo / 2 ^ (p - ivBits), ceilDiv v.hi (2 ^ (p - ivBits))⟩

/-- Sum of the terms of the error function's series. -/
def erfTerms (p : Nat) (x2 : Iv) : Nat → Nat → Iv → Iv → Iv
  | 0, _, _, acc => acc.widen 4
  | f + 1, k, t, acc =>
    let t2 := ((Iv.mul p t x2).divNat k).neg
    erfTerms p x2 f (k + 1) t2 (acc.add (t2.divNat (2 * k + 1)))

/-- erf x for 0 ≤ x < 8. -/
def Iv.erf (p : Nat) (x : Iv) : Iv :=
  let s := erfTerms p (Iv.mul p x x) 500 1 x x
  let pi := Iv.pi p
  let root : Iv := ⟨isqrt (pi.lo.toNat * 2 ^ p), isqrt (pi.hi.toNat * 2 ^ p) + 1⟩
  let r := Iv.mul p s (Iv.inv p root)
  ⟨2 * r.lo, 2 * r.hi⟩

/-! ### Functions (Table 12-6) -/

/-- The special functions. -/
inductive Special | exp | log | rcp | rsq | sqrt | tanh | sig | erf | sin | cos
  deriving DecidableEq, Repr

/-- e^(-|x|) for a magnitude that is at most 256. -/
def ivExpNeg (x : Iv) : Iv := Iv.inv ivBits (Iv.exp ivBits x)

/-- The enclosure of a function that no finite formula gives exactly, at a finite non-zero operand. -/
def Special.enclose (f : Special) (neg : Bool) (m : Nat) (e : Int) : Iv :=
  let p := ivBits
  let one := Iv.ofInt p 1
  let x := Iv.ofDyadic p false m e
  let large := decide (256 ≤ (m.log2 : Int) + e) || decide (Iv.lo (Iv.ofInt p 200) < x.lo)
  let tiny : Iv := ⟨0, 2 ^ (p - 280)⟩
  match f with
  | .exp =>
    if large then (if neg then tiny else ⟨2 ^ (p + 280), 2 ^ (p + 281)⟩)
    else if neg then ivExpNeg x else Iv.exp p x
  | .log => ivLog p m e
  | .tanh =>
    if large || decide (Iv.lo (Iv.ofInt p 40) < x.lo) then
      let r := one.sub ⟨0, 2 ^ (p - 110)⟩
      if neg then r.neg else r
    else
      let q := Iv.exp p ⟨2 * x.lo, 2 * x.hi⟩
      let r := Iv.mul p (q.sub one) (Iv.inv p (q.add one))
      if neg then r.neg else r
  | .sig =>
    if large then (if neg then tiny else one.sub tiny)
    else
      let q := ivExpNeg x
      let d := Iv.inv p (one.add q)
      if neg then Iv.mul p q d else d
  | .erf =>
    let r := if Iv.lo (Iv.ofInt p 7) < x.lo then (⟨2 ^ p - 2 ^ (p - 40), 2 ^ p⟩ : Iv) else Iv.erf p x
    if neg then r.neg else r
  | .sin => let r := ivTrig false m e; if neg then r.neg else r
  | .cos => ivTrig true m e
  | _ => one

/-- Round an enclosure of an inexact value to nearest-even FP32; a free choice where its ends round apart (log 16). -/
def roundIv (sat : Bool) (v : Iv) (occasion place : Nat) : Nat × Flags :=
  let rd : Rounding := ⟨0, false, sat⟩
  let neg := decide (v.hi ≤ 0)
  let a := if neg then (-v.hi).toNat else v.lo.toNat
  let b := if neg then (-v.lo).toNat else v.hi.toNat
  let r := fun (n : Nat) => fp32.roundMag rd neg ⟨n, 1, -(ivBits : Int), true⟩ 0
  if r a = r b then r a else if Config.specialTail occasion place then r a else r b

/-- What an operation gives before it is rounded into the destination: a bit pattern, a value, or a signed magnitude, with the
flags raised so far. -/
inductive Res
  | raw (b : Nat)
  | num (x : Num) (f : Flags)
  | mag (neg : Bool) (m : Mag) (f : Flags)
  deriving DecidableEq, Repr

/-- An infinity with DZ. -/
def dzInf (s : Bool) : Res := .num (.inf s) { Flags.none with dz := true }

/-- A NaN from an invalid operation. -/
def invalidRes : Res := .num (.nan false) Flags.invalid

/-- A NaN operand: the canonical NaN, NV where it signals. -/
def nanRes (x : Num) : Res := .num (.nan false) { Flags.none with nv := x.isSnan }

/-- The value one. -/
def Num.one : Num := .fin false 1 0

/-- A special function of an FP32 value (Table 12-6). Those with an exact quotient or root are rounded once into the
destination, the others to FP32 first. -/
def Special.apply (f : Special) (x : Num) (sat : Bool) (occasion place : Nat) : Res :=
  let inexact := fun (s : Bool) (m : Nat) (e : Int) =>
    let r := roundIv sat (f.enclose s m e) occasion place
    Res.num (decodeFloat fp32 false r.1) r.2
  let exact := fun (y : Num) => Res.num y Flags.none
  match x with
  | .nan _ => nanRes x
  | .inf s =>
    match f with
    | .exp => exact (if s then Num.zero else .inf false)
    | .log => if s then invalidRes else exact (.inf false)
    | .rcp => exact (.fin s 0 0)
    | .rsq => if s then invalidRes else exact Num.zero
    | .sqrt => if s then invalidRes else exact (.inf false)
    | .tanh => exact (.fin s 1 0)
    | .sig => exact (if s then Num.zero else Num.one)
    | .erf => exact (.fin s 1 0)
    | .sin => invalidRes
    | .cos => invalidRes
  | .fin s m e =>
    if m = 0 then
      match f with
      | .exp => exact Num.one
      | .log => exact (.inf true)
      | .rcp => dzInf s
      | .rsq => dzInf s
      | .sqrt => exact x
      | .tanh => exact x
      | .sig => exact (.fin false 1 (-1))
      | .erf => exact x
      | .sin => exact x
      | .cos => exact Num.one
    else
      match f with
      | .rcp => .mag s ⟨1, m, -e, false⟩ Flags.none
      | .sqrt => if s then invalidRes else .mag false (sqrtMag m e) Flags.none
      | .rsq =>
        if s then invalidRes
        else
          let r := fp32.roundMag ⟨0, false, sat⟩ false (rsqrtMag m e) 0
          .num (decodeFloat fp32 false r.1) r.2
      | .log =>
        if s then invalidRes
        else if (Mag.dyadic m e).units 0 = (1, 1) ∨ m * 2 ^ e.toNat = 2 ^ (-e).toNat then exact Num.zero
        else inexact s m e
      | _ => inexact s m e

end Sys2Proof.Machine
end

