-- ==== Sys2Proof/Machine/Shapes.lean ====
section
/-! DEFINITION. Shape records (spec 12, R267 to R273), reading and writing their elements (R269 to R271), ES4 blocks (R63, R64),
accumulator containers (R270, R301) and the draws of the vector LFSRs (R69). -/

namespace Sys2Proof.Machine

/-! ### Accumulator containers (Table 13-5) -/

/-- The key of an accumulator: fragment and index. -/
def accKey (frag idx : Nat) : Nat := frag * 2048 + idx
/-- A container of a cell; one that is not listed is UNSET. -/
def State.accAt (s : State) (c frag idx : Nat) : Word := AL.get accUnset (s.cell c).acc (accKey frag idx)
/-- V of a container. -/
def accV (w : Word) : Int := signedNat 40 w.toNat
/-- X of a container, none where UNSET. -/
def accX (w : Word) : Option Int := if bits w 55 40 = 0x8000 then none else some (signedNat 16 (bits w 55 40))
/-- A container. -/
def accMake (x : Option Int) (v : Int) : Word :=
  word ((match x with | some e => intBits 16 e | none => 0x8000) * 2 ^ 40 + intBits 40 v)
/-- Set a container. -/
def State.setAcc (s : State) (c frag idx : Nat) (w : Word) : State :=
  s.modCell c (fun y => { y with
    acc := if w = accUnset then AL.del y.acc (accKey frag idx) else AL.put y.acc (accKey frag idx) w })
/-- Clamp to 40 bits; says whether it clamped (R74). -/
def clamp40 (v : Int) : Int × Bool :=
  if v < -(2 ^ 39) then (-(2 ^ 39), true) else if 2 ^ 39 ≤ v then (2 ^ 39 - 1, true) else (v, false)

/-! ### Shape records (Tables 12-1, 12-2) -/

/-- A shape. `loc` is 0 memory, 1 channel, 2 accumulator fragment. -/
structure Shape where
  base  : Addr
  fmt   : Fmt
  nd    : Nat
  loc   : Nat
  acc   : Nat
  tag   : Nat
  cls   : MemClass
  dest  : BitVec 24
  ext   : List Nat
  str   : List Int
  scale : Addr
  deriving DecidableEq, Repr

/-- A routing class from its code; 3 is reserved. -/
def classOf (k : Nat) : MemClass := match k with | 0 => .o | 1 => .a | _ => .v

/-- Elements of a shape. -/
def Shape.count (sh : Shape) : Nat := sh.ext.foldl (fun a x => a * x) 1
/-- Element bits of a shape. -/
def Shape.bits (sh : Shape) : Nat := sh.fmt.bits
/-- The element index of an element (R269). -/
def Shape.index (sh : Shape) (e : Nat) : Int := elemIndex sh.ext sh.str e

/-- A shape from the 64 bytes of its record, if it keeps the rules of R272 that concern it alone; `ok` says whether a device
address may be its channel's receiver. -/
def shapeOf (bs : List Byte) (destOk : BitVec 24 → Bool) : Option Shape :=
  let ctrl := word (fieldAt bs 8 8)
  let nd := bits ctrl 5 4 + 1
  let exts := (List.range 4).map (fun k => fieldAt bs (0x10 + 2 * k) 2)
  let strs := (List.range 4).map (fun k => signedNat 32 (fieldAt bs (0x18 + 4 * k) 4))
  match fmtOf (bits ctrl 3 0) with
  | none => none
  | some fmt =>
    let sh : Shape := ⟨lo48 (word (fieldAt bs 0 8)), fmt, nd, bits ctrl 7 6, bits ctrl 9 8, bits ctrl 15 12,
      classOf (bits ctrl 11 10), BitVec.ofNat 24 (bits ctrl 39 16), exts.take nd, strs.take nd,
      lo48 (word (fieldAt bs 0x28 8))⟩
    let zeros := fieldAt bs 6 2 == 0 && bits ctrl 63 40 == 0 && fieldAt bs 0x2E 2 == 0 && fieldAt bs 0x30 8 == 0 &&
      fieldAt bs 0x38 8 == 0 && (exts.drop nd).all (fun x => x == 0) && sh.ext.all (fun x => x != 0) && sh.loc != 3 &&
      bits ctrl 11 10 != 3
    let place := match sh.loc with
      | 0 => sh.acc == 0 && sh.tag == 0 && sh.dest == 0
      | 1 => fmt != .es4 && sh.base == 0 && sh.acc == 0 && strs.all (fun x => x == 0) && destOk sh.dest
      | _ => fmt == .int64 && sh.base == 0 && bits ctrl 11 10 == 0 && sh.tag == 0 && sh.dest == 0 &&
        (let lo := (sh.ext.zip sh.str).foldl (fun (a : Int) x => if x.2 < 0 then a + ((x.1 : Int) - 1) * x.2 else a) 0
         let hi := (sh.ext.zip sh.str).foldl (fun (a : Int) x => if 0 < x.2 then a + ((x.1 : Int) - 1) * x.2 else a) 0
         decide (0 ≤ lo) && decide (hi ≤ 2047))
    let es4 := if fmt = .es4 then
        sh.scale.toNat % 2 == 0 && sh.scale != 0 && sh.str.headD 0 == 1 && sh.ext.headD 0 % 32 == 0 &&
          (sh.str.drop 1).all (fun x => x % 32 == 0) && sh.base.toNat % 16 == 0
      else sh.scale == 0
    if zeros && place && es4 then some sh else none

/-- Is the BASE of a memory shape aligned to its element (R272)? -/
def Shape.aligned (sh : Shape) : Bool := sh.loc != 0 || sh.base.toNat * 8 % sh.bits == 0

/-- Compatible shapes (R273). -/
def Shape.compat (a b : Shape) : Bool := a.nd == b.nd && a.ext == b.ext
/-- The same elements in the same order (R290). -/
def Shape.same (a b : Shape) : Bool :=
  a.loc == b.loc && a.base == b.base && a.fmt == b.fmt && a.acc == b.acc && a.str == b.str
/-- A format of class F (R280). -/
def Shape.isF (sh : Shape) : Bool := sh.fmt.float.isSome
/-- Class I. -/
def Shape.isI (sh : Shape) : Bool := sh.fmt.intSigned.isSome
/-- Class X. -/
def Shape.isX (sh : Shape) : Bool := sh.fmt == .e8m0
/-- Class F or I. -/
def Shape.isFI (sh : Shape) : Bool := sh.isF || sh.isI

/-- Places of an element's bytes: memory bytes or an accumulator. -/
def Shape.range (sh : Shape) (e : Nat) : Option (Nat × Int × Int) :=
  match sh.loc with
  | 0 =>
    let p := (elemPlace sh.base (sh.index e) sh.bits).1
    some (0, p, p + ((sh.bits + 7) / 8 : Nat))
  | 2 => some (1 + sh.acc, sh.index e, sh.index e + 1)
  | _ => none

/-- Does an element of one shape share a byte or an accumulator with some element of another (R290 to R293)? -/
def Shape.meets (d sh : Shape) (e : Nat) : Bool :=
  match sh.range e with
  | none => false
  | some r => (List.range d.count).any (fun k =>
      match d.range k with
      | some q => q.1 == r.1 && decide (r.2.1 < q.2.2) && decide (q.2.1 < r.2.2)
      | none => false)

/-! ### Elements -/

/-- What an instruction of a program computes under: its reader, its rounding, its NBV, and where free values come from. -/
structure VEnv where
  who  : Who
  rd   : Rounding
  nbv  : Nat
  tick : Nat
  deriving DecidableEq, Repr

/-- A requester in a class. -/
def Who.inClass (w : Who) (cls : MemClass) : Who := { w with cls := cls, by_ := w.by_.map (fun b => { b with cls := cls }) }

/-- The reader for a shape's class. -/
def VEnv.whoOf (v : VEnv) (sh : Shape) : Who := v.who.inClass sh.cls

/-- Stop where an element lies in more than one region (R276). -/
def straddleStop (w : Who) (va n op : Nat) : M Unit := do
  if oneRegion w.segs va n then pure ()
  else
    let s ← M.state
    M.put (s.logAt w.log (w.violation s va op n 4))
    M.stop (.refused ⟨4, BitVec.ofNat 48 va⟩)

/-- Read the bits of an element; V of an accumulator, sign-extended (R269, R270). -/
def readBits (v : VEnv) (sh : Shape) (e : Nat) : M Nat := do
  if sh.loc = 2 then
    let s ← M.state
    pure (intBits 64 (accV (s.accAt v.who.cell sh.acc (sh.index e).toNat)))
  else
    let w := v.whoOf sh
    let p := elemPlace sh.base (sh.index e) sh.bits
    let n := (sh.bits + 7) / 8
    boundStop w p.1 w.opR
    straddleStop w p.1.toNat n w.opR
    let bs ← readVa w p.1.toNat n .r
    let x := leNat bs
    pure (if sh.bits = 4 then (if p.2 then x / 16 else x % 16) else x)

/-- Keep what stands at a place, the first time that the instruction writes there. -/
def keepAt (v : VEnv) (key x : Nat) : M Unit := do
  match v.who.issuer with
  | .prog p =>
    let s ← M.state
    M.put (s.modProg p (fun y => if AL.has y.old key then y else { y with old := AL.put y.old key x }))
  | _ => pure ()

/-- The place of an accumulator among the places of an instruction's bytes. -/
def accPlace (sh : Shape) (e : Nat) : Nat := 2 ^ 48 + accKey sh.acc (sh.index e).toNat

/-- Keep the bytes or the accumulator that a write of an element replaces on this device (R290, R291). -/
def keepOld (v : VEnv) (sh : Shape) (e : Nat) : M Unit := do
  let s ← M.state
  if sh.loc = 2 then keepAt v (accPlace sh e) (intBits 64 (accV (s.accAt v.who.cell sh.acc (sh.index e).toNat)))
  else if sh.loc = 0 then
    let va := (elemPlace sh.base (sh.index e) sh.bits).1.toNat
    (List.range ((sh.bits + 7) / 8)).forM (fun i =>
      match s.flatOf v.who.cell (va + i) .w with
      | some a => keepAt v (va + i) (leNat (s.mem.bytes a 1))
      | none => pure ())
  else pure ()

/-- What has been kept at a place that the instruction has written, where an element that is read there is to be the old one; of a source
that overlaps the destination each byte is old or new, a free choice (R290, R291; log 13). -/
def oldAt (v : VEnv) (old : AL Nat) (always : Bool) (key x : Nat) : Nat :=
  match AL.find old key with
  | some y => if always || Config.overlap v.tick key % 2 == 0 then y else x
  | none => x

/-- Read the bits of an element of a source that the instruction may have written over: every such byte as it was (`always`), or old or new
by free choice. -/
def readOld (v : VEnv) (sh : Shape) (always : Bool) (e : Nat) : M Nat := do
  let x ← readBits v sh e
  let s ← M.state
  let old := match v.who.issuer with
    | .prog p => (match AL.find s.progs p with | some y => y.old | none => [])
    | _ => []
  if old = [] then pure x
  else if sh.loc = 2 then pure (oldAt v old always (accPlace sh e) x)
  else
    let p := elemPlace sh.base (sh.index e) sh.bits
    let va := p.1.toNat
    if sh.bits = 4 then
      let k := if p.2 then 16 else 1
      pure (oldAt v old always va (x * k) / k % 16)
    else
      pure (leNat ((leBytes ((sh.bits + 7) / 8) x).zipIdx.map (fun b => BitVec.ofNat 8 (oldAt v old always (va + b.2) b.1.toNat))))

/-- The write of an element's bits, or of V of an accumulator; a channel's results are no writes. -/
def Shape.writeOf (sh : Shape) (e b : Nat) : List UWrite :=
  let p := elemPlace sh.base (sh.index e) sh.bits
  if sh.loc = 2 then [.acc sh.acc (sh.index e).toNat b]
  else if sh.loc = 0 then
    if sh.bits = 4 then [.mem p.1 [BitVec.ofNat 8 (b % 16)] (some p.2) sh.cls] else [.mem p.1 (leBytes ((sh.bits + 7) / 8) b) none sh.cls]
  else []

/-- Make a write: V of an accumulator, whose X becomes 0 where UNSET (R301); bytes; or a nibble, which leaves the other of its byte. -/
def UWrite.perform (w : Who) : UWrite → M Unit
  | .acc frag i v => do
    let s ← M.state
    M.put (s.setAcc w.cell frag i (accMake (some ((accX (s.accAt w.cell frag i)).getD 0)) (signedNat 40 v)))
  | .mem va bs nib cls => do
    let w := w.inClass cls
    boundStop w va w.opW
    straddleStop w va.toNat bs.length w.opW
    match nib with
    | none => writeVaM w va.toNat bs
    | some high =>
      let old ← readVa { w with opR := w.opW } va.toNat 1 .w
      let x := leNat old
      let b := leNat bs
      writeVaM w va.toNat [BitVec.ofNat 8 (if high then x % 16 + 16 * b else x / 16 * 16 + b)]

/-- The scale record of the block of an element (R269). -/
def scaleAddr (sh : Shape) (e : Nat) : Nat := ((sh.scale.toNat : Int) + 2 * (sh.index e / 32)).toNat % 2 ^ 48

/-- Read a scale record. -/
def readScale (v : VEnv) (sh : Shape) (e : Nat) : M Nat := do
  let bs ← readVa (v.whoOf sh) (scaleAddr sh e) 2 .r
  pure (leNat bs)

/-! ### ES4 (R63, R64) -/

/-- The value of an E4M3 code. -/
def e4m3Num (code : Nat) : Num := decodeFloat ⟨4, 3, 7, false⟩ false code

/-- Scale a finite value by a power of two. -/
def Num.scale (x : Num) (k : Int) : Num := match x with | .fin s m e => .fin s m (e + k) | x => x

/-- One slot of a pair, `own` the nibble of the element and `partner` the other's (Table 3-3). -/
def es4Slot (own partner rec : Nat) : Num × Flags :=
  let S := rec % 256
  let H := rec / 256 % 16
  if S = 255 then (.nan false, if own = 8 ∧ partner = 8 then Flags.invalid else Flags.none)
  else
    let k : Int := (S : Int) - 127
    if own = 8 then
      if partner = 8 then (Num.zero, Flags.invalid) else ((e4m3Num (H * 16 + partner)).scale k, Flags.none)
    else if partner = 8 then (Num.zero, Flags.none)
    else ((Num.ofInt (signedNat 4 own)).scale k, Flags.none)

/-- Read the value of an element (R59 to R63, R70, R270). -/
def readNum (v : VEnv) (sh : Shape) (e : Nat) : M (Num × Flags) := do
  if sh.fmt = .es4 then
    let own ← readBits v sh e
    let partner ← readBits v sh (if sh.index e % 2 = 0 then e + 1 else e - 1)
    let rec ← readScale v sh e
    pure (es4Slot own partner rec)
  else
    let b ← readBits v sh e
    pure (decodeNum sh.fmt v.rd.ftz b, Flags.none)

/-- A draw of an LFSR of a table (R69). -/
def drawOf (fs : AL (BitVec 16)) (l : Nat) : Nat × AL (BitVec 16) :=
  let x := lfsrStep (AL.get 0 fs l)
  (x.toNat, AL.put fs l x)

/-- A draw under mode 4; nothing is drawn under another mode. -/
def VEnv.draw (v : VEnv) (fs : AL (BitVec 16)) (l : Nat) : Nat × AL (BitVec 16) :=
  if v.rd.mode = 4 then drawOf fs l else (0, fs)

/-- The floating layout of E4M3. -/
def e4m3 : FloatFmt := ⟨4, 3, 7, false⟩

/-- Compare magnitudes of two values. -/
def magLt (x y : Num) : Bool := x.abs.lt y.abs

/-- Is a code of the set that shares a high nibble? The fifteen with a low nibble other than 0b1000. -/
def hSet (H : Nat) : List Nat := ((List.range 16).filter (fun n => n != 8)).map (fun n => H * 16 + n)

/-- Round a value into the codes of one high nibble (R64); an E4M3 NaN code has no value and is left out. -/
def roundH (rd : Rounding) (H : Nat) (q : Num) (draw : Nat) : Nat :=
  let codes := (hSet H).filter (fun c => !(e4m3Num c).isNan)
  -- ascending by value
  let up := if H / 8 = 1 then codes.reverse else codes
  let lo := (up.filter (fun c => !(q.lt (e4m3Num c)))).getLast?
  let hi := up.find? (fun c => !((e4m3Num c).lt q))
  match lo, hi with
  | none, some h => h
  | some l, none => l
  | some l, some h =>
    if l = h then l
    else
      match e4m3Num l, e4m3Num h, q with
      | .fin sl ml el, .fin sh mh eh, .fin sq mq eq =>
        let u := min (min el eh) eq
        let a := scaled sl ml el u
        let b := scaled sh mh eh u
        let x := scaled sq mq eq u
        let even := if l % 2 = 0 then l else if h % 2 = 0 then h else if l % 16 = 7 then l else if h % 16 = 7 then h else l
        match rd.mode with
        | 0 => if 2 * x < a + b then l else if a + b < 2 * x then h else even
        | 1 => if x < 0 then h else l
        | 2 => h
        | 3 => l
        | _ =>
          -- the fraction towards the neighbour of larger magnitude
          let far := if 0 ≤ x then h else l
          let near := if 0 ≤ x then l else h
          let f := ((if 0 ≤ x then x - a else b - x) * 2 ^ 16 / (b - a)).toNat
          if 2 ^ 16 ≤ f + draw then far else near
      | _, _, _ => l
  | none, none => H * 16

/-- Round a finite value to an integer under the current mode; an infinity keeps its sign. -/
def roundQ (rd : Rounding) (q : Num) (draw : Nat) : Int :=
  match q with
  | .fin s m e => let r := (Mag.dyadic m e).round rd.mode s 0 draw; if s then -(r.1 : Int) else r.1
  | _ => 0

/-- E4M3 of a value as R64 rounds it: overflow without SAT gives ±448 and NV. -/
def es4Code (rd : Rounding) (q : Num) (draw : Nat) : Nat × Flags :=
  match q with
  | .inf s => (e4m3.largest s, { Flags.none with of := true, nv := !rd.sat })
  | q =>
    let r := e4m3.ofNum ⟨rd.mode, false, true⟩ q draw
    (r.1, { r.2 with nv := r.2.nv || (r.2.of && !rd.sat) })

/-- What the conversion of a block has made so far. -/
structure Es4Run where
  slots : List Nat
  high  : Option Nat
  flags : Flags
  fs    : AL (BitVec 16)
  deriving DecidableEq, Repr

/-- One pair of a block (R64); `l0` and `l1` are the LFSRs that serve its elements. -/
def Es4Run.pair (v : VEnv) (S : Nat) (r : Es4Run) (x0 x1 : Num) (l0 l1 : Nat) : Es4Run :=
  let k : Int := 127 - (S : Int)
  let q := fun (x : Num) => if x.isNan then Num.zero else x.scale k
  let nvN := x0.isNan || x1.isNan
  let q0 := q x0
  let q1 := q x1
  let d0 := v.draw r.fs l0
  let i0 := roundQ v.rd q0 d0.1
  let d1 := v.draw d0.2 l1
  let i1 := roundQ v.rd q1 d1.1
  let o0 := decide (7 < i0.natAbs) || q0.isInf
  let o1 := decide (7 < i1.natAbs) || q1.isInf
  let f0 := r.flags.or { Flags.none with nv := nvN }
  if !o0 && !o1 then
    let ne := !((Num.ofInt i0).eqv q0) || !((Num.ofInt i1).eqv q1)
    { r with slots := r.slots ++ [intBits 4 i0, intBits 4 i1], flags := f0.or { Flags.none with nx := ne }, fs := d1.2 }
  else
    let second := !o0 || (o0 && o1 && magLt q0 q1)
    let qo := if second then q1 else q0
    let qp := if second then q0 else q1
    let lo := if second then l1 else l0
    let d2 := v.draw d1.2 lo
    let c := es4Code v.rd qo d2.1
    let H := r.high.getD (c.1 / 16)
    let other := decide (c.1 / 16 ≠ H)
    let d3 := if other then v.draw d2.2 lo else (0, d2.2)
    let code := if other then roundH v.rd H qo d3.1 else c.1
    let adj := decide (code % 16 = 8)
    let d4 := if adj then v.draw d3.2 lo else (0, d3.2)
    let neg := qo.neg
    let away : Bool :=
      match v.rd.mode with
      | 2 => !neg
      | 3 => neg
      | 4 =>
        match qo, e4m3Num (H * 16 + 7), e4m3Num (H * 16 + 9) with
        | .fin _ mq eq, .fin _ ma ea, .fin _ mb eb =>
          let u := min eq (min ea eb)
          let a := scaled false ma ea u
          let b := scaled false mb eb u
          let x := scaled false mq eq u
          decide (2 ^ 16 ≤ ((x - a) * 2 ^ 16 / (b - a)).toNat + d4.1)
        | _, _, _ => false
      | _ => false
    let low := if adj then (if away then 9 else 7) else code % 16
    let nx := other || adj || !qp.isZero
    { r with
      slots := r.slots ++ (if second then [low, 8] else [8, low]), high := some H,
      flags := (f0.or c.2).or { Flags.none with nx := nx }, fs := d4.2 }

/-- The pairs of a block. -/
def Es4Run.pairs (v : VEnv) (S : Nat) (lf : Nat → Nat) : Nat → List Num → Es4Run → Es4Run
  | k, x0 :: x1 :: t, r => Es4Run.pairs v S lf (k + 2) t (r.pair v S x0 x1 (lf k) (lf (k + 1)))
  | _, _, r => r

/-- Convert the 32 values of a block (R64): slots, H, flags and LFSRs; `lf` gives the LFSR of each element. -/
def es4Block (v : VEnv) (S : Nat) (xs : List Num) (lf : Nat → Nat) (fs : AL (BitVec 16)) : Es4Run :=
  if S = 255 then ⟨List.replicate 32 0, none, Flags.invalid, fs⟩ else Es4Run.pairs v S lf 0 xs ⟨[], none, Flags.none, fs⟩

/-! ### Results -/

/-- Round what an operation gives into a format (R66, R70, R71). -/
def Fmt.finish (f : Fmt) (rd : Rounding) (r : Res) (draw : Nat) : Nat × Flags :=
  match r with
  | .raw b => (b, Flags.none)
  | .num x fl => let q := f.ofNum rd x draw; (q.1, q.2.or fl)
  | .mag s m fl => let q := f.roundMag rd s m draw; (q.1, q.2.or fl)

/-- A result as the destination takes it: an accumulator clamps (R270). -/
def Shape.finish (d : Shape) (rd : Rounding) (r : Res) (draw : Nat) : Nat × Flags :=
  let q := d.fmt.finish rd r draw
  if d.loc = 2 then
    let c := clamp40 (signedNat 64 q.1)
    (intBits 64 c.1, q.2.or { Flags.none with as := c.2 })
  else q

/-- Is a result rounded, so that it takes a draw (R69)? -/
def Res.rounded : Res → Bool
  | .raw _ => false
  | _ => true

end Sys2Proof.Machine
end

