-- ==== Sys2Proof/Machine/Vector.lean ====
section
/-! DEFINITION. The vector instructions (spec 12, R274 to R293). An instruction reads its records, waits for its accumulator
fragments, and goes iteration by iteration; channel results leave as messages. -/

namespace Sys2Proof.Machine

/-! ### The scoreboard (R279) -/

/-- The place of a program in a fragment's scoreboard: 2 × number, plus one once it is admitted. -/
def State.score (s : State) (c frag : Nat) : List Nat := AL.get [] (s.cell c).accOwner frag
/-- Replace a scoreboard. -/
def State.setScore (s : State) (c frag : Nat) (l : List Nat) : State :=
  s.modCell c (fun x => { x with accOwner := if l = [] then AL.del x.accOwner frag else AL.put x.accOwner frag l })

/-- A program reaches the scoreboards of some fragments: it is admitted at once where nobody stands before it. -/
def State.reachScore (s : State) (c p : Nat) (frags : List Nat) : State :=
  frags.foldl (fun t f =>
    let l := t.score c f
    if l.any (fun x => x / 2 == p) then t else t.setScore c f (l ++ [if l = [] then 2 * p + 1 else 2 * p])) s

/-- Is a program admitted to all of some fragments? -/
def State.admitted (s : State) (c p : Nat) (frags : List Nat) : Bool :=
  frags.all (fun f => (s.score c f).contains (2 * p + 1))

/-- A program leaves every scoreboard. -/
def State.leaveScore (s : State) (c p : Nat) : State :=
  (List.range 4).foldl (fun t f => t.setScore c f ((t.score c f).filter (fun x => x / 2 != p))) s

/-- SCOREBOARD_GRANT: the instruction that stands first at a fragment is admitted (R279). -/
def State.tryScore (s : State) (c frag : Nat) : Option State :=
  match s.score c frag with
  | x :: t => if x % 2 = 0 then some (s.setScore c frag ((x + 1) :: t)) else none
  | [] => none

/-- SCOREBOARD_GRANT (R279). -/
def execScoreboardGrant (c frag : Nat) (s : State) : Out := happen s (s.tryScore c frag)

/-! ### Programs -/

/-- The program of the group. -/
def State.prog (s : State) (c : Ctx) : Option Prog := AL.find s.progs (s.progId c)

/-- The program ends at an iteration boundary, as a cancelled one does (R278, R306). -/
def cancelProg (c : Ctx) (s : State) : Issued :=
  .halt ((s.leaveScore c.cell (s.progId c)).modProg (s.progId c) (fun p => { p with life := .ending, pend := none }))

/-- A trap leaves the scoreboards. -/
def Issued.leave (r : Issued) (s0 : State) (c : Ctx) : Issued :=
  match r with
  | .trap k i => .trapIn (s0.leaveScore c.cell (s0.progId c)) k i
  | .trapIn s k i => .trapIn (s.leaveScore c.cell (s.progId c)) k i
  | .ok s => .ok (s.leaveScore c.cell (s.progId c))
  | r => r

/-- The environment of a program's instruction (R67, R277). -/
def State.venv (s : State) (c : Ctx) (x : Prog) : VEnv :=
  ⟨s.whoGroup c, ⟨modeOf x.cr.rmode, ftzOf x.cr.rmode, satOf x.cr.rmode⟩, x.cr.nbv.toNat, s.tick⟩

/-- Raise the flags of a program (R67). -/
def State.progRaise (s : State) (c : Ctx) (f : Flags) : State :=
  s.modProg (s.progId c) (fun p => { p with cr := { p.cr with rmode := p.cr.rmode ||| f.toWord } })

/-! ### Units of work (R274, R276, R306) -/

/-- Make some writes in order, keeping what remains where one waits; a refused one does not keep the others back, and the first refusal is
remembered (R276). -/
def doWrites (c : Ctx) (go : Pending → State → Issued) : List UWrite → Pending → State → Issued
  | [], p, s => go { p with writes := [] } s
  | w :: t, p, s =>
    match (w.perform (s.whoGroup c)).exec s with
    | (.ok _, s1) => doWrites c go t p (s1.endWait (s1.req c))
    | (.error (.refused e), s1) => doWrites c go t { p with err := some (p.err.getD e) } (s1.endWait (s1.req c))
    | (.error x, s1) => .stall ((s.groupWaits c x s1).setPend c { p with stage := 12, writes := w :: t })

/-- The writes of a unit go on where they waited, without the one whose page was refused (R276, R331). -/
def moreWrites (c : Ctx) (p : Pending) (s : State) (go : Pending → State → Issued) : Issued :=
  match s.memWait c with
  | .refused e => doWrites c go (p.writes.drop 1) { p with err := some (p.err.getD e) } (s.endWait (s.req c))
  | .page _ => .stall s
  | .flight _ => .stall s
  | .withheld => .stall s
  | _ => doWrites c go p.writes p s

/-- Every write of the program has been performed: go on, or trap for the first that was refused (R275, R276, R306). -/
def settled (c : Ctx) (p : Pending) (s : State) (go : Pending → State → Issued) : Issued :=
  if !s.writesDone (s.progId c) then .stall (s.setPend c { p with stage := 13 })
  else match p.err with | some e => refusalTrap s e | none => go p s

/-- A unit of work: what it reads and computes (stage 14), its writes (stage 12), and what follows; no unit follows one of which a write has
been refused (stage 13). -/
def unitOf (c : Ctx) (p : Pending) (s : State) (m : M Pending) (next : Pending → State → Issued) : Issued :=
  let done := fun (p : Pending) (s : State) => if p.err.isSome then settled c p s next else next p s
  if p.stage = 12 then moreWrites c p s done
  else if p.stage = 13 then settled c p s next
  else
    withMemoryKeep c (fun u => u.setPend c { p with stage := 14 }) m s fun q s1 =>
      doWrites c done q.writes q (s1.endWait (s1.req c))

/-! ### An instruction as units of work -/

/-- What an iteration gives: results for channels (0 the first destination, 1 the second), its writes, and what a row hands on. -/
structure UnitOut where
  outs   : List (Nat × Nat)
  writes : List UWrite
  carry  : List Int
  deriving DecidableEq, Repr

/-- An instruction on its shapes: its destinations, its iterations, how many results each destination has after some of them, and how
one runs on the LFSRs and what the one before handed on. -/
structure Plan where
  dests : List Shape
  units : Nat
  made  : Nat → Nat
  run   : VEnv → AL (BitVec 16) → List Int → Nat → M UnitOut

/-- A program of a computation raises flags at once: they stand, whatever becomes of its writes (R67). -/
def VEnv.raise (v : VEnv) (f : Flags) : M Unit := do
  match v.who.issuer with
  | .prog p =>
    let s ← M.state
    M.put (s.modProg p (fun x => { x with cr := { x.cr with rmode := x.cr.rmode ||| f.toWord } }))
  | _ => pure ()

/-- An iteration has read its sources: what it raises and draws stands, whatever becomes of its writes (R67, R69, R276). -/
def VEnv.commit (v : VEnv) (f : Flags) (fs : AL (BitVec 16)) : M Unit := do
  v.raise f
  let s ← M.state
  M.put (s.modCell v.who.cell (fun y => { y with vlfsr := fs }))

/-- Take groups of `n` off a list while they are full. -/
def fullGroup (n : Nat) (l : List Nat) : Option (List Nat × List Nat) :=
  if n ≤ l.length then some (l.take n, l.drop n) else none

/-- The bits of a group of channel results, padded with zeros to 32 bytes (R271). -/
def groupWords (bitsN : Nat) (g : List Nat) : List Word :=
  let v := (g.zipIdx).foldl (fun a x => a + x.1 % 2 ^ bitsN * 2 ^ (bitsN * x.2)) 0
  (List.range 4).map (fun i => word (v / 2 ^ (64 * i) % 2 ^ 64))

/-- The message of a group of channel results (R271). -/
def State.channelMsg (s : State) (c : Ctx) (x : Prog) (d : Shape) (g : List Nat) (first w : Nat) : Msg :=
  { Msg.zero with
    dst := d.dest, words := groupWords d.bits g, elem := BitVec.ofNat 24 first, tag := BitVec.ofNat 4 d.tag,
    src := s.gca c.cell, scope := x.naming.scope, w := w, tenant := x.naming.tenant, colour := x.naming.colour,
    cls := d.cls, sent := s.time64 }

/-- Send the full groups of the channel destinations, and the last ones once the instruction has made its results: each takes a
share, with its mint, and a place of the outbound queue (R142, R159, R271). `done` is how many results each destination has. -/
def sendGroups (c : Ctx) (dests : List Shape) (done : Nat) (last : Bool) : Nat → Pending → State →
    (Pending → State → Issued) → Issued
  | 0, p, s, _ => .stall (s.setPend c p)
  | f + 1, p, s, go =>
    let ready := (dests.zipIdx).findSome? (fun (x : Shape × Nat) =>
      if x.1.loc = 1 then
        let mine := (p.ids.filter (fun v => v % 2 == x.2)).map (fun v => v / 2)
        let n := 256 / x.1.bits
        if n ≤ mine.length ∨ (last ∧ mine ≠ []) then some (x.1, x.2, mine.take n, mine.drop n, done - mine.length) else none
      else none)
    match ready, s.prog c with
    | some (d, k, g, rest, first), some x =>
      if outQueueSize ≤ (s.cell c.cell).outq.length then .stall (s.setPend c p)
      else if x.w ≤ 1 then
        if p.stage = 10 then
          match p.answer with
          | some v => if v = 0 then cancelProg c s else .stall (s.setPend c { p with stage := 9, answer := none })
          | none => .stall s
        else .stall ((s.askMint (s.gca c.cell) x.naming.scope (.prog (s.progId c))).setPend c
          { p with stage := 10, answer := none })
      else
        let id := s.nextId
        let s1 := (s.sendMsg c.cell (s.channelMsg c x d g first (splitShare x.w))).modCell c.cell (fun y => { y with
          outq := y.outq ++ [id] })
        let s2 := s1.modProg (s.progId c) (fun y => { y with w := x.w - splitShare x.w })
        sendGroups c dests done last f { p with
          stage := 9, answer := none,
          ids := p.ids.filter (fun v => v % 2 != k) ++ rest.map (fun v => 2 * v + k) } s2 go
    | _, _ => go p s

/-- The fragments that some shapes name. -/
def fragsOf (shs : List Shape) : List Nat := ((shs.filter (fun h => h.loc == 2)).map (fun h => h.acc)).eraseDups

/-- Go on after a check of the engines for a cancelled scope, or wait for its home in overflow mode (R168, Table 8-3). -/
def cancelCheck (c : Ctx) (sc : BitVec 32) (s : State) (go : State → Issued) : Issued :=
  if !s.mayCheck c.cell sc then .stall (s.askUnit c.cell sc)
  else if s.cancelledAt c.cell sc then cancelProg c (s.checked c.cell sc)
  else go (s.checked c.cell sc)

/-- Run the iterations of an instruction: stage 8 before one, stages 12 to 14 in it, stages 9 and 10 while its channel results leave, stage
15 once its last has ended. The instruction completes when its last write has been performed (R275). -/
def runUnits (c : Ctx) (pl : Plan) (p : Pending) (s : State) : Issued :=
  match s.prog c with
  | none => .stall s
  | some x =>
    let last := fun (p : Pending) (s : State) => settled c { p with stage := 15 } s (fun _ s => .ok s)
    let send := fun (p : Pending) (s : State) =>
      let n := p.sent + 1
      sendGroups c pl.dests (pl.made n) (decide (pl.units ≤ n)) 2000 p s (fun p s =>
        if pl.units ≤ n then last { p with sent := n } s else .stall (s.setPend c { p with stage := 8, sent := n }))
    if pl.units ≤ p.sent then last p s
    else if p.stage = 9 ∨ p.stage = 10 then send p s
    else
      let run := fun (s : State) =>
        unitOf c p s (do
          let o ← pl.run (s.venv c x) (s.cell c.cell).vlfsr p.carry p.sent
          pure { p with carry := o.carry, writes := o.writes, ids := p.ids ++ o.outs.map (fun v => 2 * v.2 + v.1) })
          (fun p s => send { p with stage := 9 } s)
      if p.stage = 8 ∧ p.sent ≠ 0 then cancelCheck c x.naming.scope s run else run s

/-- May a channel of the group's field send to a device address (R272)? -/
def State.channelOk (s : State) (c : Ctx) (g : BitVec 24) : Bool :=
  devOf g != s.devNum ||
  match s.fieldOf c.cell with | some f => f.ctx.holds (cellOf g) | none => false

/-- A vector instruction: its records are read once (stage 0), checked in the order of R272, its fragments are waited for (stage
7), and its units run. -/
def vectorBody (c : Ctx) (regs : List Int) (plan : List Shape → Option Plan) (s : State) : Issued :=
  let start := fun (p : Pending) (s : State) =>
    let recs := (List.range regs.length).map (fun i => (p.data.drop (64 * i)).take 64)
    match recs.mapM (fun bs => shapeOf bs (s.channelOk c)) with
    | none => Issued.trap 0x02 0
    | some shs =>
      match plan shs with
      | none => .trap 0x02 0
      | some pl =>
        match shs.find? (fun h => !h.aligned) with
        | some h => .trap 0x08 (addrWord h.base)
        | none =>
          let fr := fragsOf shs
          if p.stage = 0 ∨ p.stage = 7 then
            let reach := fun (s : State) =>
              let s1 := s.reachScore c.cell (s.progId c) fr
              if s1.admitted c.cell (s.progId c) fr then runUnits c pl { p with stage := 8 } (s1.setPend c { p with stage := 8 })
              else .stall (s1.setPend c { p with stage := 7 })
            if p.stage = 0 then reach s else cancelCheck c (s.namingOf (.prog (s.progId c))).scope s reach
          else runUnits c pl p s
  (withRecords c 64 (regs.map (fun r => lo48 (s.reg c r))) s start).leave s c

/-- Issue a vector instruction that names the shapes of some registers. -/
def vectorInstr (s : State) (regs : List Nat) (plan : List Shape → Option Plan) : Out :=
  withGroup s fun c =>
    let rs := regs.map (fun (r : Nat) => (r : Int))
    issue s c .no rs [] (vectorBody c rs plan)

/-! ### Element-wise instructions (R274, R282 to R289) -/

/-- Elements of an iteration (R274): 2,048 divided by the widest element, at most 256, or 64 for special functions and
division. -/
def perIteration (shs : List Shape) (slow : Bool) : Nat :=
  let w := shs.foldl (fun a h => max a h.bits) 1
  min (min (2048 / w) 256) (if slow then 64 else 256)

/-- The LFSR that serves element `k` of an iteration of `n` (R69). -/
def lfsrFor (n k : Nat) : Nat := k * 64 / n

/-- The elements of an iteration. -/
def iteration (n total u : Nat) : List Nat := (List.range (min n (total - u * n))).map (fun k => u * n + k)

/-- Results go where their destination is, as writes, or to its channel; where elements of the destination overlap, in a free order. -/
def resultsOf (v : VEnv) (d : Shape) (ch : Nat) (rs : List (Nat × Nat)) (carry : List Int) : UnitOut :=
  if d.loc = 1 then ⟨rs.map (fun r => (ch, r.2)), [], carry⟩
  else
    let addrs := rs.map (fun r => match d.range r.1 with | some q => q.2.1 | none => 0)
    let meets := d.bits != 4 && selfMeet (if d.loc = 2 then 1 else d.bits / 8) addrs
    ⟨[], (if meets then shuffle v.tick rs else rs).flatMap (fun r => d.writeOf r.1 r.2), carry⟩

/-- Round the results of an iteration of at most `n` elements in element order, each with its draw. -/
def finishAll (v : VEnv) (d : Shape) (n : Nat) (rs : List (Nat × Res)) (fs : AL (BitVec 16)) (f0 : Flags) :
    List (Nat × Nat) × Flags × AL (BitVec 16) :=
  (rs.zipIdx).foldl (fun acc x =>
    let dr := if x.1.2.rounded then v.draw acc.2.2 (lfsrFor n x.2) else (0, acc.2.2)
    let q := d.finish v.rd x.1.2 dr.1
    (acc.1 ++ [(x.1.1, q.1)], acc.2.1.or q.2, dr.2)) ([], f0, fs)

/-- An element-wise instruction on the values of its sources (R282). -/
def elementPlan (d : Shape) (srcs : List Shape) (slow : Bool) (f : VEnv → Nat → List Num → Res) : Plan :=
  let n := perIteration (d :: srcs) slow
  { dests := [d], units := (d.count + n - 1) / n, made := fun k => min (k * n) d.count
    run := fun v fs _ u => do
      let rs ← (iteration n d.count u).mapM (fun e => do
        let xs ← srcs.mapM (fun h => readNum v h e)
        pure (e, f v e (xs.map Prod.fst), xs.foldl (fun a x => a.or x.2) Flags.none))
      let q := finishAll v d n (rs.map (fun r => (r.1, r.2.1))) fs (rs.foldl (fun a r => a.or r.2.2) Flags.none)
      v.commit q.2.1 q.2.2
      pure (resultsOf v d 0 q.1 []) }

/-- An element-wise instruction on bit patterns (R283, R285, R286, R289). Whether a pattern that an accumulator takes draws from an LFSR under
mode 4 is not stated: it draws none, the model's choice (DESIGN CHOICE, log 59). -/
def patternPlan (d : Shape) (srcs : List Shape) (f : VEnv → List Nat → Nat) : Plan :=
  let n := perIteration (d :: srcs) false
  { dests := [d], units := (d.count + n - 1) / n, made := fun k => min (k * n) d.count
    run := fun v fs _ u => do
      let rs ← (iteration n d.count u).mapM (fun e => do
        let xs ← srcs.mapM (fun h => readBits v h e)
        pure (e, Res.raw (f v xs)))
      let q := finishAll v d n rs fs Flags.none
      v.commit q.2.1 q.2.2
      pure (resultsOf v d 0 q.1 []) }

/-- A plan for shapes in the order given, if they keep the rule. -/
def plan2 (k : Shape → Shape → Option Plan) : List Shape → Option Plan
  | [d, a] => k d a
  | _ => none
/-- See `plan2`. -/
def plan3 (k : Shape → Shape → Shape → Option Plan) : List Shape → Option Plan
  | [d, a, b] => k d a b
  | _ => none
/-- See `plan2`. -/
def plan4 (k : Shape → Shape → Shape → Shape → Option Plan) : List Shape → Option Plan
  | [d, a, b, x] => k d a b x
  | _ => none

/-- A plan under a condition. -/
def onlyIf (b : Bool) (p : Plan) : Option Plan := if b then some p else none

/-- A shape that an instruction reads is no channel (R281). -/
def Shape.readable (h : Shape) : Bool := h.loc != 1

/-- The value of a NaN-free pair, or the NaN. -/
def nan2 (x y : Num) (k : Res) : Res :=
  if x.isNan || y.isNan then .num (.nan false) { Flags.none with nv := x.isSnan || y.isSnan } else k

/-- A value with NV where the operation is invalid. -/
def numInv (r : Num × Bool) : Res := .num r.1 { Flags.none with nv := r.2 }

/-- The plan of a binary element-wise instruction on F or I. -/
def binaryPlan (f : VEnv → Num → Num → Res) : List Shape → Option Plan :=
  plan3 fun D A B =>
    onlyIf (A.readable && B.readable && A.isFI && B.isFI && D.isFI && A.compat D && B.compat D)
      (elementPlan D [A, B] false (fun v _ xs => f v (xs.headD Num.zero) (xs.getLastD Num.zero)))

/-- A binary element-wise instruction on F or I. -/
def binary (s : State) (d a b : ERegNum) (f : VEnv → Num → Num → Res) : Out :=
  vectorInstr s [d.toNat, a.toNat, b.toNat] (binaryPlan f)

/-- The exact sum (Table 12-5). -/
def addRes (v : VEnv) (x y : Num) : Res := numInv (Num.add v.rd.mode x y)
/-- The exact difference. -/
def subRes (v : VEnv) (x y : Num) : Res := numInv (Num.add v.rd.mode x y.opp)
/-- The exact product. -/
def mulRes (_ : VEnv) (x y : Num) : Res := numInv (Num.mul x y)

/-- Table 12-5. -/
def execVadd (d a b : ERegNum) (s : State) : Out := binary s d a b addRes
/-- Table 12-5. -/
def execVsub (d a b : ERegNum) (s : State) : Out := binary s d a b subRes
/-- Table 12-5. -/
def execVmul (d a b : ERegNum) (s : State) : Out := binary s d a b mulRes

/-- The product of two values, or its opposite, plus a third, exact (Table 12-5). That 0 × ∞ sets NV is stated; whether it does so where the
addend is a quiet NaN, which sets no flag, is not: it does, the model's choice (DESIGN CHOICE, log 71). -/
def fusedRes (neg : Bool) (mode : Nat) (x y z : Num) : Res :=
  let m := Num.mul x y
  let r := Num.add mode (if neg then m.1.opp else m.1) z
  if x.isNan || y.isNan || z.isNan then
    .num (.nan false) { Flags.none with nv := m.2 || x.isSnan || y.isSnan || z.isSnan }
  else .num r.1 { Flags.none with nv := m.2 || r.2 }

/-- The plan of `vfma` and `vfms`: D is read, and the exact sum is rounded once. -/
def fusedPlan (neg : Bool) : List Shape → Option Plan :=
  plan3 fun D A B =>
    onlyIf (D.readable && A.readable && B.readable && A.isFI && B.isFI && D.isFI && A.compat D && B.compat D)
      (elementPlan D [A, B, D] false (fun v _ xs =>
        match xs with
        | [x, y, z] => fusedRes neg v.rd.mode x y z
        | _ => .raw 0))

/-- `vfma` and `vfms`. -/
def fused (s : State) (d a b : ERegNum) (neg : Bool) : Out :=
  vectorInstr s [d.toNat, a.toNat, b.toNat] (fusedPlan neg)

/-- Table 12-5. -/
def execVfma (d a b : ERegNum) (s : State) : Out := fused s d a b false
/-- Table 12-5. -/
def execVfms (d a b : ERegNum) (s : State) : Out := fused s d a b true

/-- The quotient (Table 12-5). -/
def divRes (x y : Num) : Res :=
  nan2 x y (match x, y with
    | .inf _, .inf _ => invalidRes
    | .inf s, _ => .num (.inf (s != y.neg)) Flags.none
    | .fin s _ _, .inf t => .num (.fin (s != t) 0 0) Flags.none
    | .fin s m e, .fin t n g =>
      if n = 0 then (if m = 0 then invalidRes else dzInf (s != t))
      else if m = 0 then .num (.fin (s != t) 0 0) Flags.none
      else .mag (s != t) ⟨m, n, e - g, false⟩ Flags.none
    | _, _ => invalidRes)

/-- The plan of `vdiv`. -/
def divPlan : List Shape → Option Plan :=
  plan3 fun D A B =>
    onlyIf (A.readable && B.readable && A.isFI && B.isFI && D.isF && A.compat D && B.compat D)
      (elementPlan D [A, B] true (fun _ _ xs => divRes (xs.headD Num.zero) (xs.getLastD Num.zero)))

/-- Table 12-5. -/
def execVdiv (d a b : ERegNum) (s : State) : Out := vectorInstr s [d.toNat, a.toNat, b.toNat] divPlan

/-- The smaller value, with −0 below +0 (Table 12-5). -/
def numMin (x y : Num) : Num :=
  if x.lt y then x else if y.lt x then y else if x.neg then x else y
/-- The larger value, with +0 above −0. -/
def numMax (x y : Num) : Num :=
  if x.lt y then y else if y.lt x then x else if x.neg then y else x

/-- The smaller value or the NaN. -/
def minRes (_ : VEnv) (x y : Num) : Res := nan2 x y (.num (numMin x y) Flags.none)
/-- The larger value or the NaN. -/
def maxRes (_ : VEnv) (x y : Num) : Res := nan2 x y (.num (numMax x y) Flags.none)

/-- Table 12-5. -/
def execVmin (d a b : ERegNum) (s : State) : Out := binary s d a b minRes
/-- Table 12-5. -/
def execVmax (d a b : ERegNum) (s : State) : Out := binary s d a b maxRes

/-- The plan of a bitwise instruction on one integer format (R283). -/
def bitwisePlan (f : Nat → Nat → Nat) : List Shape → Option Plan :=
  plan3 fun D A B =>
    onlyIf (A.readable && B.readable && D.isI && A.fmt == D.fmt && B.fmt == D.fmt && A.compat D && B.compat D)
      (patternPlan D [A, B] (fun _ xs => f (xs.headD 0) (xs.getLastD 0)))

/-- A bitwise instruction. -/
def bitwise (s : State) (d a b : ERegNum) (f : Nat → Nat → Nat) : Out :=
  vectorInstr s [d.toNat, a.toNat, b.toNat] (bitwisePlan f)

/-- R283. -/
def execVand (d a b : ERegNum) (s : State) : Out := bitwise s d a b (fun x y => x &&& y)
/-- R283. -/
def execVor (d a b : ERegNum) (s : State) : Out := bitwise s d a b (fun x y => x ||| y)
/-- R283. -/
def execVxor (d a b : ERegNum) (s : State) : Out := bitwise s d a b (fun x y => x ^^^ y)

/-- The plan of a shift of A by B's pattern modulo the width of A's format (R283). -/
def shiftPlan (f : Fmt → Nat → Nat → Nat) : List Shape → Option Plan :=
  plan3 fun D A B =>
    onlyIf (A.readable && B.readable && D.isI && A.fmt == D.fmt && B.isI && A.compat D && B.compat D)
      (patternPlan D [A, B] (fun _ xs => f A.fmt (xs.headD 0) (xs.getLastD 0 % A.bits)))

/-- A shift. -/
def shiftInstr (s : State) (d a b : ERegNum) (f : Fmt → Nat → Nat → Nat) : Out :=
  vectorInstr s [d.toNat, a.toNat, b.toNat] (shiftPlan f)

/-- A pattern shifted left within its format. -/
def shiftLeft (f : Fmt) (x k : Nat) : Nat := x * 2 ^ k % 2 ^ f.bits
/-- A pattern shifted right, arithmetically in a signed format. -/
def shiftRight (f : Fmt) (x k : Nat) : Nat :=
  if f.intSigned = some true then intBits f.bits (signedNat f.bits x / 2 ^ k) else x / 2 ^ k

/-- R283. -/
def execVshl (d a b : ERegNum) (s : State) : Out := shiftInstr s d a b shiftLeft
/-- R283. -/
def execVshr (d a b : ERegNum) (s : State) : Out := shiftInstr s d a b shiftRight

/-- The plan of a unary element-wise instruction on F or I. -/
def unaryPlan (f : Num → Res) : List Shape → Option Plan :=
  plan2 fun D A =>
    onlyIf (A.readable && A.isFI && D.isFI && A.compat D) (elementPlan D [A] false (fun _ _ xs => f (xs.headD Num.zero)))

/-- A unary element-wise instruction. -/
def unary (s : State) (d a : ERegNum) (f : Num → Res) : Out := vectorInstr s [d.toNat, a.toNat] (unaryPlan f)

/-- A value that is no NaN, or the NaN. -/
def nan1 (f : Num → Num) (x : Num) : Res := if x.isNan then nanRes x else .num (f x) Flags.none

/-- Table 12-5. -/
def execVabs (d a : ERegNum) (s : State) : Out := unary s d a (nan1 Num.abs)
/-- Table 12-5. -/
def execVneg (d a : ERegNum) (s : State) : Out := unary s d a (nan1 Num.opp)

/-! ### Conversion, fill, copy (R284 to R286) -/

/-- The blocks of 32 elements of an iteration (R269). -/
def blocks (es : List Nat) : List Nat := es.filter (fun e => e % 32 == 0)

/-- Conversion into ES4, block by block (R64, R284). -/
def toEs4Plan (d a : Shape) : Plan :=
  let n := perIteration [d, a] false
  { dests := [d], units := (d.count + n - 1) / n, made := fun k => min (k * n) d.count
    run := fun v fs _ u => do
      let es := iteration n d.count u
      let bs ← (blocks es).mapM (fun e => do
        let xs ← (List.range 32).mapM (fun k => readNum v a (e + k))
        let rec ← readScale v d e
        pure (e, xs, rec % 256))
      let r := bs.foldl (fun (acc : List UWrite × Flags × AL (BitVec 16)) b =>
        let q := es4Block v b.2.2 (b.2.1.map Prod.fst) (fun k => lfsrFor n (b.1 - u * n + k)) acc.2.2
        let f := b.2.1.foldl (fun g x => g.or x.2) q.flags
        let ws := (q.slots.zipIdx).flatMap (fun x => d.writeOf (b.1 + x.2) x.1)
        let h : UWrite := .mem (scaleAddr d b.1) (leBytes 2 (b.2.2 + q.high.getD 0 * 256)) none d.cls
        (acc.1 ++ ws ++ [h], acc.2.1.or f, q.fs)) ([], Flags.none, fs)
      v.commit r.2.1 r.2.2
      pure ⟨[], r.1, []⟩ }

/-- The plan of `vcvt`. -/
def cvtPlan : List Shape → Option Plan :=
  plan2 fun D A =>
    onlyIf (A.readable && A.compat D)
      (if D.fmt = .es4 then toEs4Plan D A else elementPlan D [A] false (fun _ _ xs => nan1 id (xs.headD Num.zero)))

/-- R284. -/
def execVcvt (d a : ERegNum) (s : State) : Out := vectorInstr s [d.toNat, a.toNat] cvtPlan

/-- The plan of `vfill` with a value. -/
def fillPlan (x : Nat) (shs : List Shape) : Option Plan :=
  match shs with
  | [D] => onlyIf (D.isF || D.isI || D.isX) (patternPlan D [] (fun _ _ => if D.loc = 2 then x else x % 2 ^ D.bits))
  | _ => none

/-- R285. -/
def execVfill (d a : ERegNum) (s : State) : Out :=
  withGroup s fun c =>
    issue s c .no [(d.toNat : Int), (a.toNat : Int)] [] fun s =>
      vectorBody c [(d.toNat : Int)] (fillPlan (s.reg c (a.toNat : Int)).toNat) s

/-- Copy of ES4 elements with the scale record of each block (R286). -/
def copyEs4Plan (d a : Shape) : Plan :=
  let n := perIteration [d, a] false
  { dests := [d], units := (d.count + n - 1) / n, made := fun k => min (k * n) d.count
    run := fun v _ _ u => do
      let es := iteration n d.count u
      let xs ← es.mapM (fun e => do let b ← readBits v a e; pure (e, b))
      let rs ← (blocks es).mapM (fun e => do let r ← readScale v a e; pure (e, r))
      pure ⟨[], xs.flatMap (fun x => d.writeOf x.1 x.2) ++ rs.map (fun r => .mem (scaleAddr d r.1) (leBytes 2 r.2) none d.cls), []⟩ }

/-- The plan of `vcpy`. -/
def cpyPlan : List Shape → Option Plan :=
  plan2 fun D A =>
    onlyIf (A.readable && A.fmt == D.fmt && A.compat D)
      (if D.fmt = .es4 then copyEs4Plan D A else patternPlan D [A] (fun _ xs => xs.headD 0))

/-- R286. -/
def execVcpy (d a : ERegNum) (s : State) : Out := vectorInstr s [d.toNat, a.toNat] cpyPlan

/-! ### Special functions (R287) -/

/-- A special function on F or I: an integer operand is first rounded to FP32 under MODE, with a draw of its own. Whether the nearest-even
rounding inside a function draws under mode 4 is not stated: only the rounding into D does, the model's choice (DESIGN CHOICE, log 59). -/
def specialPlan (f : Special) (d a : Shape) : Plan :=
  let n := perIteration [d, a] true
  { dests := [d], units := (d.count + n - 1) / n, made := fun k => min (k * n) d.count
    run := fun v fs _ u => do
      let es := iteration n d.count u
      let xs ← es.mapM (fun e => do let x ← readNum v a e; pure (e, x.1))
      let r := (xs.zipIdx).foldl (fun (acc : List (Nat × Nat) × Flags × AL (BitVec 16)) x =>
        let l := lfsrFor n x.2
        let d1 := if a.isI then v.draw acc.2.2 l else (0, acc.2.2)
        let q := if a.isI then fp32.ofNum v.rd x.1.2 d1.1 else (0, Flags.none)
        let y := if a.isI then decodeFloat fp32 v.rd.ftz q.1 else x.1.2
        let d2 := v.draw d1.2 l
        let w := d.finish v.rd (f.apply y v.rd.sat v.tick x.1.1) d2.1
        (acc.1 ++ [(x.1.1, w.1)], (acc.2.1.or q.2).or w.2, d2.2)) ([], Flags.none, fs)
      v.commit r.2.1 r.2.2
      pure (resultsOf v d 0 r.1 []) }

/-- The plan of a special function, under the rules of Table 12-6. -/
def functionPlan (f : Special) : List Shape → Option Plan :=
  plan2 fun D A => onlyIf (A.readable && A.isFI && D.isF && A.compat D) (specialPlan f D A)

/-- A special-function instruction. -/
def special (s : State) (f : Special) (d a : ERegNum) : Out := vectorInstr s [d.toNat, a.toNat] (functionPlan f)

/-- Table 12-6. -/
def execVexp (d a : ERegNum) (s : State) : Out := special s .exp d a
/-- Table 12-6. -/
def execVlog (d a : ERegNum) (s : State) : Out := special s .log d a
/-- Table 12-6. -/
def execVrcp (d a : ERegNum) (s : State) : Out := special s .rcp d a
/-- Table 12-6. -/
def execVrsq (d a : ERegNum) (s : State) : Out := special s .rsq d a
/-- Table 12-6. -/
def execVsqrt (d a : ERegNum) (s : State) : Out := special s .sqrt d a
/-- Table 12-6. -/
def execVtanh (d a : ERegNum) (s : State) : Out := special s .tanh d a
/-- Table 12-6. -/
def execVsig (d a : ERegNum) (s : State) : Out := special s .sig d a
/-- Table 12-6. -/
def execVerf (d a : ERegNum) (s : State) : Out := special s .erf d a
/-- Table 12-6. -/
def execVsin (d a : ERegNum) (s : State) : Out := special s .sin d a
/-- Table 12-6. -/
def execVcos (d a : ERegNum) (s : State) : Out := special s .cos d a

/-! ### Comparison and selection (R288, R289) -/

/-- 1 or 0 for a condition of two values; a signalling NaN raises NV (R288). Whether the exact 1 or 0 is a rounding that draws under mode 4
is not stated: it is, once for each element, the model's choice (DESIGN CHOICE, log 59). -/
def condRes (f : Num → Num → Bool) (x y : Num) : Res :=
  .num (if f x y then Num.one else Num.zero) { Flags.none with nv := x.isSnan || y.isSnan }

/-- The plan of a comparison: D's old value with A's (R288). -/
def comparePlan (f : Num → Num → Bool) : List Shape → Option Plan :=
  plan2 fun D A =>
    onlyIf (D.readable && A.readable && A.isFI && D.isFI && A.compat D)
      (elementPlan D [D, A] false (fun _ _ xs => condRes f (xs.headD Num.zero) (xs.getLastD Num.zero)))

/-- A comparison. -/
def compare (s : State) (d a : ERegNum) (f : Num → Num → Bool) : Out := vectorInstr s [d.toNat, a.toNat] (comparePlan f)

/-- Neither is a NaN. -/
def ordered (x y : Num) : Bool := !x.isNan && !y.isNan

/-- Table 12-7. -/
def execVcmpEq (d a : ERegNum) (s : State) : Out := compare s d a (fun x y => x.eqv y)
/-- Table 12-7. -/
def execVcmpNe (d a : ERegNum) (s : State) : Out := compare s d a (fun x y => !x.eqv y)
/-- Table 12-7. -/
def execVcmpLt (d a : ERegNum) (s : State) : Out := compare s d a (fun x y => ordered x y && x.lt y)
/-- Table 12-7. -/
def execVcmpLe (d a : ERegNum) (s : State) : Out := compare s d a (fun x y => ordered x y && !y.lt x)
/-- Table 12-7. -/
def execVcmpGt (d a : ERegNum) (s : State) : Out := compare s d a (fun x y => ordered x y && y.lt x)
/-- Table 12-7. -/
def execVcmpGe (d a : ERegNum) (s : State) : Out := compare s d a (fun x y => ordered x y && !x.lt y)
/-- Table 12-7. -/
def execVcmpUn (d a : ERegNum) (s : State) : Out := compare s d a (fun x y => !ordered x y)
/-- Table 12-7. -/
def execVcmpOr (d a : ERegNum) (s : State) : Out := compare s d a ordered

/-- The plan of `vsel`: the condition of a floating A is read under FTZ (R289). -/
def selPlan : List Shape → Option Plan :=
  plan4 fun D A A1 A2 =>
    onlyIf (A.readable && A1.readable && A2.readable && A.isFI && (D.isFI || D.isX) && A1.fmt == D.fmt && A2.fmt == D.fmt &&
        A.compat D && A1.compat D && A2.compat D)
      (patternPlan D [A, A1, A2] (fun v xs =>
        match xs with
        | [x, y, z] => if (decodeNum A.fmt v.rd.ftz x).isZero then z else y
        | _ => 0))

/-- R289. -/
def execVsel (d a : ERegNum) (s : State) : Out :=
  vectorInstr s [d.toNat, a.toNat, a.toNat + 1, a.toNat + 2] selPlan

/-! ### Reductions and scans (R76, R77, R290) -/

/-- The operators of Table 12-8. -/
inductive RedOp | add | mul | min | max | and | or | xor
  deriving DecidableEq, Repr

/-- Is it a bitwise operator? -/
def RedOp.bitwise : RedOp → Bool
  | .and => true
  | .or => true
  | .xor => true
  | _ => false

/-- One step in FP32, rounded under MODE (R76): its result as a value. -/
def RedOp.fp32 (op : RedOp) (rd : Rounding) (x y : Num) (draw : Nat) : Num × Flags :=
  let r : Res := match op with
    | .add => numInv (Num.add rd.mode x y)
    | .mul => numInv (Num.mul x y)
    | .min => nan2 x y (.num (numMin x y) Flags.none)
    | _ => nan2 x y (.num (numMax x y) Flags.none)
  let q := Fmt.fp32.finish rd r draw
  (decodeFloat Sys2Proof.Machine.fp32 rd.ftz q.1, q.2)

/-- One exact step on integers, or on the bit patterns of a format of `w` bits. -/
def RedOp.int (op : RedOp) (signed : Bool) (w : Nat) (x y : Int) : Int :=
  let b := fun (f : Nat → Nat → Nat) =>
    let v := f (intBits w x) (intBits w y)
    if signed then signedNat w v else (v : Int)
  match op with
  | .add => x + y
  | .mul => x * y
  | .min => if y < x then y else x
  | .max => if x < y then y else x
  | .and => b (fun p q => p &&& q)
  | .or => b (fun p q => p ||| q)
  | .xor => b (fun p q => p ^^^ q)

/-- The state of a reduction: flags and LFSRs. -/
structure RedRun where
  flags : Flags
  fs    : AL (BitVec 16)
  deriving DecidableEq, Repr

/-- A step that draws from LFSR `l`. -/
def RedRun.step (v : VEnv) (op : RedOp) (r : RedRun) (l : Nat) (x y : Num) : Num × RedRun :=
  let d := v.draw r.fs l
  let q := op.fp32 v.rd x y d.1
  (q.1, ⟨r.flags.or q.2, d.2⟩)

/-- One level of the tree: the lanes that are multiples of 2w (R76). -/
def treeLevel (v : VEnv) (op : RedOp) (w : Nat) (xs : AL Num) (r : RedRun) : AL Num × RedRun :=
  (List.range (64 / (2 * w))).foldl (fun acc i =>
    let l := i * 2 * w
    match AL.find acc.1 l, AL.find acc.1 (l + w) with
    | some x, some y => let q := acc.2.step v op l x y; (AL.put acc.1 l q.1, q.2)
    | _, _ => acc) (xs, r)

/-- A chunk of at most 64 values by the tree (R76). -/
def treeChunk (v : VEnv) (op : RedOp) (xs : List Num) (r : RedRun) : Num × RedRun :=
  let q := [1, 2, 4, 8, 16, 32].foldl (fun acc w => treeLevel v op w acc.1 acc.2) (xs.zipIdx.map (fun x => (x.2, x.1)), r)
  (AL.get Num.zero q.1 0, q.2)

/-- The chunks of a row. -/
def chunk64 : Nat → List Num → List (List Num)
  | 0, _ => []
  | f + 1, xs => if xs = [] then [] else xs.take 64 :: chunk64 f (xs.drop 64)

/-- A row of floating values (R76): by the tree under NBV 2, in element order under NBV 1. -/
def reduceFloat (v : VEnv) (op : RedOp) (xs : List Num) (r : RedRun) : Num × RedRun :=
  let seq := fun (x : Num) (t : List Num) (r : RedRun) => t.foldl (fun (acc : Num × RedRun) y => acc.2.step v op 0 acc.1 y) (x, r)
  if v.nbv = 1 then
    match xs with
    | x :: t => seq x t r
    | [] => (Num.zero, r)
  else
    let q := (chunk64 xs.length xs).foldl (fun (acc : List Num × RedRun) ys =>
      let z := treeChunk v op ys acc.2
      (acc.1 ++ [z.1], z.2)) ([], r)
    match q.1 with
    | x :: t => seq x t q.2
    | [] => (Num.zero, q.2)

/-- The result of a row of an integer format, before its rounding (R290). -/
def intRes (v : Int) : Res := .num (Num.ofInt v) Flags.none

/-- The values of a scan of floating values with their LFSRs, from place `k` of a row of `n` on (R77); each is rounded into D after its
step. The last value goes on into the next iteration. -/
def scanFloat (v : VEnv) (op : RedOp) (d : Shape) (n : Nat) : Nat → Num → List Num → RedRun → List Nat → List Nat × Num × RedRun
  | _, acc, [], r, out => (out, acc, r)
  | k, acc, x :: t, r, out =>
    let q := if k % n = 0 then (x, r) else r.step v op (k % n % 64) acc x
    let dr := v.draw q.2.fs (k % n % 64)
    let w := d.finish v.rd (if q.1.isNan then nanRes (.nan false) else .num q.1 Flags.none) dr.1
    scanFloat v op d n (k + 1) q.1 t ⟨q.2.flags.or w.2, dr.2⟩ (out ++ [w.1])

/-- The values of a scan of integers, likewise (R77, R290). -/
def scanInt (v : VEnv) (op : RedOp) (d a : Shape) (n : Nat) : Nat → Int → List Int → RedRun → List Nat → List Nat × Int × RedRun
  | _, acc, [], r, out => (out, acc, r)
  | k, acc, x :: t, r, out =>
    let z := if k % n = 0 then x else op.int (a.fmt.intSigned == some true) a.bits acc x
    let dr := v.draw r.fs (k % n % 64)
    let w := d.finish v.rd (intRes z) dr.1
    scanInt v op d a n (k + 1) z t ⟨r.flags.or w.2, dr.2⟩ (out ++ [w.1])

/-- Read elements of A. One that shares bytes with what the instruction has written of a destination of another layout is old or new, which
is free; a row of an identical destination is read whole before it is written (R290; log 13). -/
def readElems (v : VEnv) (d a : Shape) (es : List Nat) : M (List Nat) := es.mapM (readOld v a (d.same a))

/-- A row has been read whole: what its writes replace is kept from here on. -/
def VEnv.forget (v : VEnv) : M Unit := do
  match v.who.issuer with
  | .prog p =>
    let s ← M.state
    M.put (s.modProg p (fun y => { y with old := [] }))
  | _ => pure ()

/-- Write the results of a destination that A may overlap, keeping what they replace (R290, R291). -/
def writeOver (v : VEnv) (d : Shape) (rs : List (Nat × Nat)) (carry : List Int) : M UnitOut := do
  rs.forM (fun r => keepOld v d r.1)
  pure (resultsOf v d 0 rs carry)

/-- The elements of a row from its bits. -/
def rowInts (a : Shape) (bs : List Nat) : List Int :=
  bs.map (fun b => if a.fmt.intSigned = some true then signedNat a.bits b else ((b % 2 ^ a.bits : Nat) : Int))

/-- The whole rows of `n` elements at the head of some bits. -/
def wholeRows (n : Nat) (bs : List Nat) : List (List Nat) :=
  (List.range (bs.length / n)).map (fun i => (bs.drop (i * n)).take n)

/-- What a row hands on, as bits. -/
def carried (l : List Int) : List Nat := l.map Int.toNat

/-- The reduction of a row, rounded into D (R76, R290); its draws follow one another, the last from LFSR 0 (R69). -/
def reduceRow (v : VEnv) (op : RedOp) (d a : Shape) (bs : List Nat) (r0 : RedRun) : Nat × RedRun :=
  let r : Res × RedRun := if a.isF then
      let xs := bs.map (decodeNum a.fmt v.rd.ftz)
      let q := reduceFloat v op xs { r0 with flags := r0.flags.or { Flags.none with nv := xs.any Num.isSnan } }
      (.num q.1 Flags.none, q.2)
    else
      let is := rowInts a bs
      (intRes ((is.drop 1).foldl (fun x y => op.int (a.fmt.intSigned == some true) a.bits x y) (is.headD 0)), r0)
  let dr := v.draw r.2.fs 0
  let w := d.finish v.rd r.1 dr.1
  (w.1, ⟨r.2.flags.or w.2, dr.2⟩)

/-- `vred` (R290): a row is reduced and written when its last element has been read (R278); the iterations are of A's elements (R274;
log 11). -/
def reducePlan (op : RedOp) (d a : Shape) : Plan :=
  let n := a.ext.headD 1
  let per := perIteration [d, a] false
  { dests := [d], units := (a.count + per - 1) / per, made := fun k => min (k * per) a.count / n
    run := fun v fs carry u => do
      let got ← readElems v d a (iteration per a.count u)
      let bs := carried carry ++ got
      let rows := wholeRows n bs
      let r := rows.foldl (fun (acc : List Nat × RedRun) row =>
        let w := reduceRow v op d a row acc.2
        (acc.1 ++ [w.1], w.2)) ([], ⟨Flags.none, fs⟩)
      v.commit r.2.flags r.2.fs
      writeOver v d (r.1.zipIdx.map (fun x => (u * per / n + x.2, x.1))) ((bs.drop (rows.length * n)).map Int.ofNat) }

/-- `vscan` (R290): a row is written as its iterations complete (R278). -/
def scanPlan (op : RedOp) (d a : Shape) : Plan :=
  let n := a.ext.headD 1
  let per := perIteration [d, a] false
  { dests := [d], units := (a.count + per - 1) / per, made := fun k => min (k * per) a.count
    run := fun v fs carry u => do
      let es := iteration per a.count u
      let bs ← readElems v d a es
      let k := u * per
      let r : List Nat × List Int × RedRun := if a.isF then
          let xs := bs.map (decodeNum a.fmt v.rd.ftz)
          let q := scanFloat v op d n k (decodeFloat Sys2Proof.Machine.fp32 false ((carried carry).headD 0)) xs
            ⟨{ Flags.none with nv := xs.any Num.isSnan }, fs⟩ []
          (q.1, [(Fmt.fp32.finish ⟨0, false, false⟩ (.num q.2.1 Flags.none) 0).1], q.2.2)
        else
          let q := scanInt v op d a n k (carry.headD 0) (rowInts a bs) ⟨Flags.none, fs⟩ []
          (q.1, [q.2.1], q.2.2)
      v.commit r.2.2.flags r.2.2.fs
      if es.any (fun e => e % n == 0) then v.forget else pure ()
      writeOver v d (es.zip r.1) r.2.1 }

/-- The formats of an operator (Table 12-8). -/
def RedOp.formats (op : RedOp) (d a : Shape) : Bool :=
  if op.bitwise then a.isI && d.fmt == a.fmt else a.isFI && d.isFI

/-- The plan of a reduction, under its rules. -/
def redPlan (op : RedOp) : List Shape → Option Plan :=
  plan2 fun D A =>
    onlyIf (A.readable && op.formats D A && D.nd == A.nd && D.ext.headD 0 == 1 && D.ext.drop 1 == A.ext.drop 1)
      (reducePlan op D A)

/-- A reduction. -/
def reduce (s : State) (op : RedOp) (d a : ERegNum) : Out := vectorInstr s [d.toNat, a.toNat] (redPlan op)

/-- The plan of a scan, under its rules. -/
def scaPlan (op : RedOp) : List Shape → Option Plan :=
  plan2 fun D A => onlyIf (A.readable && op.formats D A && A.compat D) (scanPlan op D A)

/-- A scan. -/
def scan (s : State) (op : RedOp) (d a : ERegNum) : Out := vectorInstr s [d.toNat, a.toNat] (scaPlan op)

/-- Table 12-8. -/
def execVredAdd (d a : ERegNum) (s : State) : Out := reduce s .add d a
/-- Table 12-8. -/
def execVredMul (d a : ERegNum) (s : State) : Out := reduce s .mul d a
/-- Table 12-8. -/
def execVredMin (d a : ERegNum) (s : State) : Out := reduce s .min d a
/-- Table 12-8. -/
def execVredMax (d a : ERegNum) (s : State) : Out := reduce s .max d a
/-- Table 12-8. -/
def execVredAnd (d a : ERegNum) (s : State) : Out := reduce s .and d a
/-- Table 12-8. -/
def execVredOr (d a : ERegNum) (s : State) : Out := reduce s .or d a
/-- Table 12-8. -/
def execVredXor (d a : ERegNum) (s : State) : Out := reduce s .xor d a
/-- Table 12-8. -/
def execVscanAdd (d a : ERegNum) (s : State) : Out := scan s .add d a
/-- Table 12-8. -/
def execVscanMul (d a : ERegNum) (s : State) : Out := scan s .mul d a
/-- Table 12-8. -/
def execVscanMin (d a : ERegNum) (s : State) : Out := scan s .min d a
/-- Table 12-8. -/
def execVscanMax (d a : ERegNum) (s : State) : Out := scan s .max d a
/-- Table 12-8. -/
def execVscanAnd (d a : ERegNum) (s : State) : Out := scan s .and d a
/-- Table 12-8. -/
def execVscanOr (d a : ERegNum) (s : State) : Out := scan s .or d a
/-- Table 12-8. -/
def execVscanXor (d a : ERegNum) (s : State) : Out := scan s .xor d a

/-! ### Gather, scatter, top-k (R291 to R293) -/

/-- The value of an index element. -/
def indexOf (h : Shape) (b : Nat) : Int :=
  if h.fmt.intSigned = some true then signedNat h.bits b else ((b % 2 ^ h.bits : Nat) : Int)

/-- `vgat` (R291). -/
def gatherPlan (d a a1 : Shape) : Plan :=
  let n := perIteration [d, a, a1] false
  { dests := [d], units := (d.count + n - 1) / n, made := fun k => min (k * n) d.count
    run := fun v fs _ u => do
      let rs ← (iteration n d.count u).mapM (fun e => do
        let ib ← readOld v a1 (d.same a1) e
        let i := indexOf a1 ib
        if 0 ≤ i ∧ i < a.count then do
          let b ← readOld v a false i.toNat
          pure (e, Res.raw b)
        else pure (e, Res.raw 0))
      let q := finishAll v d n rs fs Flags.none
      v.commit q.2.1 q.2.2
      writeOver v d q.1 [] }

/-- The plan of `vgat`, under its rules. -/
def vgatPlan : List Shape → Option Plan :=
  plan3 fun D A A1 =>
    onlyIf (A.readable && A1.readable && (D.isFI || D.isX) && A.fmt == D.fmt && A1.isI && A1.compat D) (gatherPlan D A A1)

/-- R291. -/
def execVgat (d a : ERegNum) (s : State) : Out := vectorInstr s [d.toNat, a.toNat, a.toNat + 1] vgatPlan

/-- `vsca` (R292): in element order; what is written to bytes that a source shares is free. -/
def scatterPlan (d a a1 : Shape) : Plan :=
  let n := perIteration [d, a, a1] false
  { dests := [d], units := (a.count + n - 1) / n, made := fun k => min (k * n) a.count
    run := fun v fs _ u => do
      let rs ← (iteration n a.count u).mapM (fun e => do
        let ib ← readBits v a1 e
        let b ← readBits v a e
        pure (e, indexOf a1 ib, b))
      let ws := rs.filter (fun (r : Nat × Int × Nat) => decide (0 ≤ r.2.1) && decide (r.2.1 < (d.count : Int)))
      let fin := ws.map (fun (r : Nat × Int × Nat) =>
        let free := a.meets d r.2.1.toNat || a1.meets d r.2.1.toNat
        let q := d.finish v.rd (.raw (if free then (Config.freeWord v.tick r.1).toNat % 2 ^ d.bits else r.2.2)) 0
        (r.2.1.toNat, q))
      v.commit (fin.foldl (fun f r => f.or r.2.2) Flags.none) fs
      pure ⟨[], fin.flatMap (fun r => d.writeOf r.1 r.2.1), []⟩ }

/-- The plan of `vsca`, under its rules. -/
def vscaPlan : List Shape → Option Plan :=
  plan3 fun D A A1 =>
    onlyIf (D.readable && A.readable && A1.readable && (D.isFI || D.isX) && A.fmt == D.fmt && A1.isI && A1.compat A)
      (scatterPlan D A A1)

/-- R292. -/
def execVsca (d a : ERegNum) (s : State) : Out := vectorInstr s [d.toNat, a.toNat, a.toNat + 1] vscaPlan

/-- Does an element rank before another: a greater value, NaNs last, then the lower place (R293)? -/
def ranksBefore (x y : Num × Nat) : Bool :=
  match x.1.isNan, y.1.isNan with
  | true, true => decide (x.2 < y.2)
  | true, false => false
  | false, true => true
  | false, false => y.1.lt x.1 || (!x.1.lt y.1 && decide (x.2 < y.2))

/-- Insert into a ranked list. -/
def rankInsert (x : Num × Nat) : List (Num × Nat) → List (Num × Nat)
  | [] => [x]
  | y :: t => if ranksBefore x y then x :: y :: t else y :: rankInsert x t

/-- The elements of a row of bits that rank highest, with their places (R293). -/
def topOf (v : VEnv) (a : Shape) (k : Nat) (row : List Nat) : List (Num × Nat) :=
  (((row.map (decodeNum a.fmt v.rd.ftz)).zipIdx).foldl (fun l x => rankInsert x l) []).take k

/-- `vtop` (R293): a row is ranked and written when its last element has been read (R278; log 11). A signalling NaN sets NV, as where R288
compares. Which LFSR serves the rounding of element k of a row of J under mode 4 is not stated: with N = P (R277) it is that of element k of
a cycle, the model's choice (DESIGN CHOICE, log 59). -/
def topPlan (d a j : Shape) : Plan :=
  let n := a.ext.headD 1
  let k := d.ext.headD 1
  let per := perIteration [d, a, j] false
  { dests := [d, j], units := (a.count + per - 1) / per, made := fun x => min (x * per) a.count / n * k
    run := fun v fs carry u => do
      let got ← (iteration per a.count u).mapM (readBits v a)
      let bs := carried carry ++ got
      let rows := wholeRows n bs
      let first := u * per / n
      let nv : Flags := { Flags.none with nv := got.any (fun b => (decodeNum a.fmt v.rd.ftz b).isSnan) }
      let r := (rows.zipIdx).foldl (fun (acc : List (Nat × Nat) × List (Nat × Nat) × RedRun) row =>
        let best := (topOf v a k row.1).zipIdx.map (fun x => ((first + row.2) * k + x.2, x.2, x.1.2))
        best.foldl (fun acc x =>
          let w := d.finish v.rd (.raw ((row.1[x.2.2]?).getD 0)) 0
          let dr := v.draw acc.2.2.fs (lfsrFor per (x.2.1 % per))
          let z := j.finish v.rd (.num (Num.ofInt x.2.2) Flags.none) dr.1
          (acc.1 ++ [(x.1, w.1)], acc.2.1 ++ [(x.1, z.1)], ⟨(acc.2.2.flags.or w.2).or z.2, dr.2⟩)) acc) ([], [], ⟨nv, fs⟩)
      v.commit r.2.2.flags r.2.2.fs
      let free := fun (h o : Shape) (e place b : Nat) =>
        if a.meets h e || o.meets h e then (Config.freeWord v.tick place).toNat % 2 ^ h.bits else b
      let o1 := resultsOf v d 0 (r.1.map (fun x => (x.1, free d j x.1 (2 * x.1) x.2))) []
      let o2 := resultsOf v j 1 (r.2.1.map (fun x => (x.1, free j d x.1 (2 * x.1 + 1) x.2))) []
      pure ⟨o1.outs ++ o2.outs, o1.writes ++ o2.writes, (bs.drop (rows.length * n)).map Int.ofNat⟩ }

/-- The plan of `vtop`, under its rules. -/
def vtopPlan : List Shape → Option Plan :=
  plan3 fun D A J =>
    onlyIf (A.readable && A.isFI && D.fmt == A.fmt && J.isI && D.nd == A.nd && J.compat D && D.ext.drop 1 == A.ext.drop 1 &&
        decide (D.ext.headD 0 ≤ A.ext.headD 0))
      (topPlan D A J)

/-- R293. -/
def execVtop (d a : ERegNum) (s : State) : Out := vectorInstr s [d.toNat, a.toNat, a.toNat + 1] vtopPlan

end Sys2Proof.Machine
end

