-- ==== Sys2Proof/Machine/Fabric.lean ====
section
/-! DEFINITION. The Mirulo fabric (spec 18, R352 to R370): frames and their acknowledgements, acceptance, routes, the packets
that a device serves, multicast, and the alignment of time (R382). -/

namespace Sys2Proof.Machine

/-! ### Packets of the hub die -/

/-- Replace a packet. -/
def State.setPacket (s : State) (x : Nat) (r : PacketRun) : State := { s with packets := AL.put s.packets x r }
/-- A packet is gone, with the places it took; the places of one that has been replicated are free when its last replica has left (R367). -/
def State.dropPacket (s : State) (x : Nat) : State :=
  let ps := AL.del s.packets x
  let of_ := (AL.find s.packets x).bind (fun r => r.of_)
  { (s.endWait (.packet x)) with
    packets := match of_ with | some y => (if ps.any (fun q => q.2.of_ == some y) then ps else AL.del ps y) | none => ps }
/-- The field whose loaded context has a CTXID (R354). -/
def State.fieldByCtx (s : State) (cx : BitVec 16) : Option Field :=
  s.fields.findSome? (fun p => if p.2.ctx.ctxid = cx ∧ p.2.mode ≠ .out then some p.2 else none)

/-- The requester of an access to another device or the host, by its echoed identifier (R359). -/
def State.flightByRid (s : State) (rid : BitVec 24) : Option (Nat × Flight) :=
  s.flights.find? (fun p => BitVec.ofNat 24 p.1 == rid && p.2.stage == .away)

/-- An access that was sent or is to be sent to another device is refused before an answer can come. -/
def State.failRid (s : State) (rid : BitVec 24) (e : Nat) (done : State → Nat → Flight → ErrResp → State) : State :=
  match s.flights.find? (fun p => BitVec.ofNat 24 p.1 == rid && (p.2.stage == .away || p.2.stage == .leaving)) with
  | some (x, f) => done s x f ⟨e, f.va⟩
  | none => s

/-! ### Answers to accesses (R192, R212, R361) -/

/-- The refusal of a posted access of an activation: it counts as performed; a running frame traps ACCESS, a frozen one keeps
it, a retired activation has a record written (R181). -/
def State.postedRefused (s : State) (x : Nat) (f : Flight) (a : Nat) (e : ErrResp) : State :=
  let s1 := s.countDown x f
  match s.runningSlot a with
  | some sl => s1.accessTrap f.cell sl f.site e.va f.order
  | none =>
    match (s.act a).slot with
    | some _ => s1.modAct a (fun y => { y with kept := some (y.kept.getD ⟨f.site, e.va⟩) })
    | none => s1.deadRecord a f e.va

/-- A line of another device or the host has come for whoever asked (R361): code fills a line of the instruction cache
(R96), unless an invalidation has made it stale, so that it is asked for anew. -/
def State.lineCame (s : State) (f : Flight) (r : FaultReq) (bs : List Byte) : State :=
  let line := f.va.toNat / 64
  match f.op, r with
  | .fetch, .frame _ _ => (if f.hint = 1 then s else s.modCell f.cell (fun y => y.fillLine s.tick line bs)).setWait r .none
  | .fetch, .prog _ => (if f.hint = 1 then s else s.modCell f.cell (fun y => y.fillLine s.tick line bs)).setWait r .none
  | .fetch, .input _ _ => if f.hint = 1 then s.setWait r .none else s.gotLine r line bs
  | _, _ => s.gotLine r line bs

/-- A transfer's local access is refused: logged with OP 6, the transfer ends with outcome 2 and its activation hears of it
(R181, R379). -/
def State.transferRefusal (s : State) (x : Nat) (e : ErrResp) : State :=
  match AL.find s.transfers x with
  | none => s
  | some t =>
    let s1 := { s with transfers := AL.put s.transfers x { t with outcome := 2 } }
    if t.outcome ≠ 0 then s
    else
      match s.runningSlot t.act, (s.act t.act).slot with
      | some sl, _ => s1.accessTrap t.cell sl t.site e.va s.nextId
      | none, some _ => s1.modAct t.act (fun y => { y with kept := some (y.kept.getD ⟨t.site, e.va⟩) })
      | none, none =>
        s1.deadRecord t.act ⟨.act t.act, t.cell, t.field, t.cls, .load 8, e.va, .bad e.kind, .bad e.kind, true, 0, t.site, none,
            s.nextId, .going⟩ e.va

/-- A write of an engine program to another device or the host is refused: the instruction that made it, which waits for its writes, traps
ACCESS for the first (R276, R306). -/
def State.programRefused (s : State) (p : Nat) (e : ErrResp) : State :=
  s.modProg p (fun y => { y with pend := y.pend.map (fun q => { q with err := some (q.err.getD e) }) })

/-- The answer of another device or the host to whoever waits for it: a line, an acknowledgement of its write, the answer of an
operation of an atomic engine there, or a refusal (R361). -/
def State.lineAnswer (s : State) (x : Nat) (f : Flight) (q : FaultReq) (r : Resp) : State :=
  match f.op, r with
  | _, .err e => s.setWait q (.refused e)
  | .store _, _ => s.gotWrite q f.va.toNat
  | .atomic _ _ _ _, r => s.answerLine x f q r
  | .front _ _ _ _ _, r => s.answerLine x f q r
  | .credit _, r => s.answerLine x f q r
  | _, .data bs => s.lineCame f q bs
  | _, .words _ => s

/-- An access to another device or the host has been answered. -/
def State.answerFlight (s : State) (x : Nat) (f : Flight) (r : Resp) : State :=
  let gone : State := { s with flights := AL.del s.flights x }
  match f.issuer, r with
  | .act a, .err e =>
    if f.posted then s.postedRefused x f a e else s.modFlight x (fun g => { g with stage := .answered r })
  | .act _, _ =>
    if f.posted then s.countDown x f else s.modFlight x (fun g => { g with stage := .answered r })
  | .copy y k, .err e => gone.modCopy y (fun z => { z with errs := AL.put z.errs k e })
  | .prog p, .err e => gone.programRefused p e
  | .line q, r => gone.lineAnswer x f q r
  | .transfer t, .err e => gone.transferRefusal t e
  | _, _ => gone

/-- What a RESPONSE brings for an operation. -/
def MemOp.answer (op : MemOp) (p : Packet) : Resp :=
  let bs := flitBytes ((List.range 4).map (fun i => (p.words[i]?).getD 0)) ++ p.data
  match op with
  | .load n => .data (bs.take n)
  | .fetch => .data (bs.take 64)
  | .store _ => .data []
  | .atomic _ w _ _ => .data (bs.take (if w then 4 else 8))
  | .credit _ => .data (bs.take 16)
  | .front .rd _ _ _ _ => .words ((List.range 4).map (fun i => (p.words[i]?).getD 0))
  | .front _ _ _ _ _ => .words ((List.range 4).map (fun i => (p.words[i]?).getD 0))

/-- A port counts a replica that is refused (R365). -/
def State.countReplicaAt (s : State) (port : Option Nat) : State :=
  match port with | some q => s.modPort q (fun r => { r with drops := r.drops + 1 }) | none => s

/-- The response of a unit of the hub die to an access that has been performed or refused, with its STATUS (R134, R361); that of a replica
is not sent (R365). -/
def State.respond (s : State) (p : Packet) (src : BitVec 24) (status : Nat) (words : List Word) (data : List Byte) : State :=
  if p.mc then s
  else if devOf p.src = s.devNum then s.failRid p.elem status (fun t x f e => t.answerFlight x f (.err e))
  else
    s.sendPacket { Packet.zero with
      kind := 4, cls := p.cls, colour := p.colour, tenant := p.tenant, dst := p.src, src := src, hub := true, elem := p.elem,
      status := BitVec.ofNat 8 status, time := BitVec.ofNat 32 s.ns, words := words, data := data }

/-! ### Refusals on the fabric (R355, R360, R363) -/

/-- A NACK for a packet reaches this device: the weight of a refused message returns, and the trap handler of the source's field hears of
it (R363). -/
def State.nackCame (s : State) (p : Packet) (code : Nat) (src : BitVec 24) : State :=
  let s1 := if p.kind = 0 then s.returnWeight p.src p.scope p.w p.hub else s
  match (if p.hub then none else s.fieldOf (cellOf p.src)) with
  | some f => s1.sendService f src true (nackWords code p.handler p.src p.elem p.scope) true
  | none => s1

/-- OP of an access of another device in a log entry (Table 9-4): a write marked COPYW is one of a copy, or of a transfer where a unit
of the hub die sends it. -/
def Packet.logOp (p : Packet) : Nat :=
  if p.kind = 3 then 2 else if p.kind = 1 then 0 else if !p.op.getLsbD 9 then 1 else if p.hub then 6 else 5

/-- SIZE of an access of `n` bytes of another device in a log entry (Table 9-4): 5 where COPYW marks a write of a copy (R259). -/
def Packet.logSize (p : Packet) (n : Nat) : Nat := if p.kind = 2 ∧ p.op.getLsbD 9 then 5 else sizeCode n

/-- The log of the port that an access of another device came by (R180). -/
def portLogOf (port : Option Nat) : LogUnit := match port with | some q => .port q | none => .hub

/-- The violation entry of a refused access packet: what the access of this device was, where it is one (R180, R259). -/
def State.packetViolation (s : State) (p : Packet) (n kind : Nat) : Violation :=
  match (if devOf p.src = s.devNum then s.flights.find? (fun q => BitVec.ofNat 24 q.1 == p.elem && q.2.stage == .leaving) else none) with
  | some (_, f) => s.violationOf f f.va kind
  | none => ⟨p.addr, kind, p.cls, p.logOp, p.logSize n, p.src, s.time24⟩

/-- Bytes of an access packet. -/
def Packet.bytes (p : Packet) : Nat :=
  match p.kind, p.op.toNat with
  | 1, 0 => 1 | 1, 1 => 2 | 1, 2 => 4 | 1, 3 => 8 | 1, 4 => 16 | 1, _ => 64
  | 2, _ => p.storeLength
  | _, _ => (match p.atomOp with | some (.atomic _ true _ _) => 4 | _ => 8)

/-- A packet is refused with a code of Table 7-4. A refused access is answered by a RESPONSE that carries WINDOW and logged by the port, save
where it is malformed (R180, R259, R360, R363; log 27); a NACK is never answered; a refused replica is only counted (R365). -/
def State.refusePacket (s : State) (p : Packet) (code : Nat) (port : Option Nat) : State :=
  let unit : BitVec 24 := match port with | some q => s.portUnit q | none => s.devNum ++ (0x40 : BitVec 12)
  if p.mc then s.countReplicaAt port
  else if p.kind = 5 then
    let m := Packet.ofHeader 0 p.words
    let s1 := match port with
      | some q => s.logPortRefusal q code m.handler m.src m.scope
      | none => s
    if m.kind = 0 then s1.returnWeight unit m.scope m.w true else s1
  else if code ≠ 4 ∧ (p.kind = 1 ∨ p.kind = 2 ∨ p.kind = 3) then
    (s.logAt (portLogOf port) (s.packetViolation p p.bytes 7)).respond p unit 7 [] []
  else if devOf p.src = s.devNum then s.nackCame p code unit
  else
    s.sendPacket { Packet.zero with
      kind := 5, colour := p.colour, tenant := p.tenant, dst := p.src, src := unit, hub := true, status := BitVec.ofNat 8 code,
      time := BitVec.ofNat 32 s.ns, words := p.header }

/-! ### Sending (R356, R367, R368) -/

/-- Frames that a packet is sent as, from a sequence number on. -/
def sealFrames (ctxid : BitVec 16) (vc n : Nat) (ack : Nat × BitVec 12) : BitVec 12 → Nat → List (List Word) → List LinkFrame
  | _, _, [] => []
  | q, i, f :: t =>
    linkSeal f (if i = 0 then ctxid.toNat else 0) q.toNat vc (i == 0) (i + 1 == n) (if i = 0 then ack else (0, 0)) ::
      sealFrames ctxid vc n ack (q + 1) (i + 1) t

/-- May port `p` take a new packet of a tenant with `n` frames: no 48 refused places, and room in the replay buffer (R368)? -/
def State.portRoom (s : State) (p : Nat) (tenant : BitVec 4) (n : Nat) : Bool :=
  let r := s.port p
  let held := (r.refused.filter (fun x => x.frames.any (fun f => f.tenant == tenant))).foldl (fun (k : Nat) x => k + x.frames.length) 0
  r.up && decide (held < 48) && decide (r.replay.length + n ≤ 256)

/-- Send flits on a port, with the acknowledgement that waits to be carried. -/
def State.sendFlits (s : State) (p x : Nat) (ctxid : BitVec 16) (vc : Nat) (tenant : BitVec 4) (src : BitVec 24)
    (fs : List (List Word)) : State :=
  let r := s.port p
  let frames := sealFrames ctxid vc fs.length (r.acks.headD (0, 0)) r.sendSeq 0 fs
  let sent := frames.map (fun f => (⟨linkSeq f, f, vc, tenant, src, x⟩ : SentFrame))
  s.modPort p (fun r => { r with
    sendSeq := r.sendSeq + BitVec.ofNat 12 fs.length, replay := r.replay ++ sent, out := frames, acks := r.acks.drop 1 })

/-- Must an earlier packet of the same source leave first: one of class O to the same device, which takes the same path, or a multicast
packet on the same branch (R186, R357, R365)? -/
def State.packetBehind (s : State) (x : Nat) (r : PacketRun) : Bool :=
  let p := r.pkt
  s.packets.any (fun q => decide (q.1 < x) && q.2.pkt.src == p.src && q.2.pkt.hub == p.hub && q.2.pkt.mc == p.mc &&
    (match q.2.place with | .served _ => false | _ => true) &&
    (if p.mc then q.2.place == r.place else p.cls == .o && q.2.pkt.cls == .o && devOf q.2.pkt.dst == devOf p.dst))

/-- Is the message of a packet still in its cell's outbound queue (R142)? -/
def State.packetQueued (s : State) (x : Nat) (p : Packet) : Bool :=
  devOf p.src == s.devNum && !p.hub && (s.cell (cellOf p.src)).outq.contains x

/-- The access whose packet leaves the device: a counted store moves to the remote count (R192). -/
def State.leaveDevice (s : State) (p : Packet) : State :=
  let mine := decide (1 ≤ p.kind) && decide (p.kind ≤ 3) && devOf p.src == s.devNum
  match (if mine then s.flights.find? (fun q => BitVec.ofNat 24 q.1 == p.elem && q.2.stage == .leaving) else none) with
  | some (x, f) =>
      let s1 := s.modFlight x (fun g => { g with stage := .away })
      match f.posted, f.issuer with
      | true, .act a =>
        if countedStore f.cell f.cls f.target then
          s1.modAct a (fun t => (t.setCount f.cls (t.count f.cls - 1)).setRem f.cls (t.rem f.cls + 1))
        else s1
      | _, _ => s1
  | none => s

/-- The channel of a packet that is queued at a port, if it is (R356, R368): it has chosen the port, or it is a replica for it. -/
def PacketRun.queuedAt (r : PacketRun) (port : Nat) : Option Nat :=
  match r.place, r.route with
  | .egress (some q), _ => if q = port then some r.pkt.hop else none
  | .egress none, some c => if c.1 && c.2.1 == port then some r.pkt.hop else none
  | .transit _, some c => if c.1 && c.2.1 == port then some r.pkt.hop else none
  | _, _ => none

/-- Does another packet that is queued at a port go first? One with no refused packets pending sends channel by channel, in ascending VC, each
in the order queued (R368). -/
def State.portTurn (s : State) (x vc port : Nat) : Bool :=
  (s.port port).refused != [] || s.packets.all (fun q =>
    match q.2.queuedAt port with | some v => q.1 == x || decide (vc < v) || (vc == v && decide (x < q.1)) | none => true)

/-- Send a packet on a port, if it has room and no other goes first. -/
def State.egress (s : State) (x : Nat) (p : Packet) (port : Nat) : Option State :=
  let fs := p.flits
  if s.portRoom port p.tenant fs.length && s.portTurn x p.hop port then
    some (((s.dropPacket x).leaveDevice p).sendFlits port x p.ctxid p.hop p.tenant p.src fs)
  else none

/-- What a router finds for a packet when its first frame arrives: whether its destination can be reached, its port and its new VRAND
(R355, R356). -/
def State.routeFor (s : State) (p : Packet) (atSource : Bool) : Bool × Nat × Nat :=
  let e := s.route (devOf p.dst).toNat
  let c := s.choosePort e p atSource
  (e.valid, c.1, c.2)

/-- PACKET_FORWARD: a packet leaves for its next node by the rule of its class, or is refused UNREACHABLE or HOPS; where the port has no
room, it keeps the port that it has chosen (R355, R356). -/
def State.tryForwardPacket (s : State) (x : Nat) : Option State :=
  match AL.find s.packets x with
  | none => none
  | some r =>
    let p := r.pkt
    if s.packetQueued x p || s.packetBehind x r then none
    else
      let go := fun (atSource : Bool) (port : Option Nat) =>
        let c := r.route.getD (s.routeFor p atSource)
        let refuser := some (port.getD c.2.1)
        if !c.1 then some ((s.dropPacket x).refusePacket p 7 refuser)
        else if 9 ≤ p.hop then some ((s.dropPacket x).refusePacket p 5 refuser)
        else
          match s.egress x { p with vrand := c.2.2 } c.2.1 with
          | some t => some t
          | none => if r.route.isNone then some (s.setPacket x { r with route := some c }) else none
      match r.place with
      | .egress (some q) => s.egress x p q
      | .egress none => go true none
      | .transit q => go false (some q)
      | _ => none

/-- PACKET_FORWARD (R356). -/
def execPacketForward (x : Nat) (s : State) : Out := happen s (s.tryForwardPacket x)

/-! ### Acknowledgements (R353, R368) -/

/-- ACKKIND 1: the frames up to a number leave the replay buffer (R368). -/
def Port.acked (r : Port) (seq : BitVec 12) : Port :=
  match r.replay.findIdx? (fun f => f.seq == seq) with
  | some i => { r with replay := r.replay.drop (i + 1) }
  | none => r

/-- The frames of the packet at the head of some. -/
def packetFrames : List SentFrame → List SentFrame
  | [] => []
  | f :: t => if linkEop f.frame then [f] else f :: packetFrames t

/-- ACKKIND 2: the packet whose first frame has a number waits to be sent again. Its frames stay among those in flight until an ACKKIND 1
covers them (R368). -/
def Port.refusedAt (r : Port) (seq : BitVec 12) (now : Nat) : Port :=
  match r.replay.findIdx? (fun f => f.seq == seq) with
  | some i =>
    if r.refused.any (fun x => x.frames.any (fun g => g.seq == seq)) then r
    else { r with refused := r.refused ++ [⟨packetFrames (r.replay.drop i), now⟩] }
  | none => r

/-- ACKKIND 3: every frame from a number on is sent again, in order (R368). -/
def Port.resend (r : Port) (seq : BitVec 12) : Port :=
  match r.replay.findIdx? (fun f => f.seq == seq) with
  | some i => { r with out := (r.replay.drop i).map (fun f => f.frame) }
  | none => r

/-- ACK_RECEIVED (R368). -/
def execAckReceived (port : Nat) (seq : BitVec 12) (s : State) : Out := .next (s.modPort port (fun r => r.acked seq))
/-- REFUSAL_RECEIVED (R368). -/
def execRefusalReceived (port : Nat) (seq : BitVec 12) (s : State) : Out :=
  .next (s.modPort port (fun r => r.refusedAt seq s.ns))
/-- CORRUPT_RECEIVED (R368). -/
def execCorruptReceived (port : Nat) (seq : BitVec 12) (s : State) : Out := .next (s.modPort port (fun r => r.resend seq))

/-- What the sideband of an arriving frame acknowledges. -/
def State.takeAck (s : State) (port : Nat) (fr : LinkFrame) : State :=
  match linkAckKind fr with
  | 1 => s.modPort port (fun r => r.acked (linkAckSeq fr))
  | 2 => s.modPort port (fun r => r.refusedAt (linkAckSeq fr) s.ns)
  | 3 => s.modPort port (fun r => r.resend (linkAckSeq fr))
  | _ => s

/-- REFUSED_RESEND: a refused packet is sent again with new sequence numbers, no sooner than 64 ns after its refusal; those of
one source keep their order (R368). -/
def State.tryResend (s : State) (port : Nat) : Option State :=
  let r := s.port port
  let key : RefusedPacket → BitVec 24 × Nat := fun x => match x.frames.head? with | some f => (f.src, f.packet) | none => (0, 0)
  let first := fun (x : RefusedPacket) => r.refused.all (fun y => (key y).1 != (key x).1 || decide ((key x).2 ≤ (key y).2))
  match r.refused.find? (fun x => decide (x.since + 64 ≤ s.ns) && first x) with
  | none => none
  | some x =>
    match x.frames with
    | [] => none
    | f :: _ =>
      if 256 < r.replay.length + x.frames.length then none
      else
        let s1 := s.modPort port (fun r => { r with refused := r.refused.filter (fun y => y != x) })
        some (s1.sendFlits port f.packet (linkCtxid f.frame) f.vc f.tenant f.src (x.frames.map (fun g => g.frame.flit)))

/-- REFUSED_RESEND (R368). -/
def execRefusedResend (port : Nat) (s : State) : Out := happen s (s.tryResend port)

/-! ### Arrival (R353, R360, R367) -/

/-- Places that packets take at a port, of those that meet a condition. -/
def State.placesAt (s : State) (p : Nat) (f : PacketRun → Bool) : Nat :=
  s.packets.foldl (fun n q =>
    let here := match q.2.place with | .arriving k => k == p | .transit k => k == p | .served (some k) => k == p | .held (some k) => k == p | _ => false
    if here && f q.2 then n + q.2.flits else n) 0

/-- Places of the shared pool of a port (R367). -/
def Port.poolSize (r : Port) : Nat := 1024 - 72 - r.res.foldl (fun a b => a + b) 0

/-- The part of the input buffer that takes `n` flits of a tenant on a channel: the tenant's reserve, else the pool, else the
channel's reserve (R367). -/
def State.placePart (s : State) (p : Nat) (tenant : BitVec 4) (vc n : Nat) : Option Nat :=
  let r := s.port p
  if s.placesAt p (fun q => q.pool == 0 && q.pkt.tenant == tenant) + n ≤ (r.res[tenant.toNat]?).getD 0 then some 0
  else if s.placesAt p (fun q => q.pool == 1) + n ≤ r.poolSize then some 1
  else if s.placesAt p (fun q => q.pool == 2 && q.vc == vc) + n ≤ 8 then some 2
  else none

/-- The control message of a SCOPECTL or WEIGHT packet (R358, R359): an answer goes to whoever asked, a request is answered to
the device it came from. -/
def State.packetCtl (s : State) (p : Packet) : State × Option Ctl :=
  if p.kind = 6 then
    (s, some { Ctl.make .weightReturn p.src p.dst p.scope 0 .none with
      value := word p.addr.toNat, hub := p.hub, colour := p.colour })
  else
    let third := ((p.words[2]?).getD 0).toNat
    match CtlKind.ofOp p.op.toNat third with
    | none => (s, none)
    | some k =>
      let answer := [CtlKind.grant, .refuse, .linkres, .unlinkack, .clearack, .answer].contains k
      let rid := p.elem.toNat
      let who := if rid = 0 then Waiter.none
        else if answer then AL.get Waiter.none s.asks rid else .remote (devOf p.src).toNat rid
      let c : Ctl := ⟨k, p.hub, p.src, p.dst, p.scope, ((p.words[0]?).getD 0).setWidth 32, who, (p.words[1]?).getD 0,
        bytesWords (p.data.length / 8) p.data, (CtlKind.ofOp (third / 2) 0).getD .answer, p.colour⟩
      (if answer then { s with asks := AL.del s.asks rid } else s, some c)

/-- A control message of another device goes on to its cell, through an internal port (R185). -/
def State.enterCtl (s : State) (x : Nat) (c : Ctl) : State :=
  { s with ctls := AL.put s.ctls x c }.takePath x (s.hubPath .o x none (some (cellOf c.dst)) 1 c.colour 0)

/-- A message of another device goes on to its cell, through an internal port (R185). -/
def State.enterMsg (s : State) (x : Nat) (m : Msg) : State :=
  { s with msgs := AL.put s.msgs x ⟨m, m.src⟩ }.takePath x (s.hubPath m.cls x none (some (cellOf m.dst)) 2 m.colour m.tenant)

/-- A packet has arrived whole: malformed ones are dropped and answered, those of other nodes wait to be forwarded, control
messages go to their scope port, the rest are served here (R356, R360). -/
def State.packetCame (s : State) (x : Nat) (r : PacketRun) (port : Nat) : State :=
  let p := Packet.ofFlits r.pkt.ctxid r.frames
  let q := { p with hop := p.hop + 1 }
  if !p.ok r.frames then (s.dropPacket x).refusePacket { q with mc := false } 4 (some port)
  else if p.mc then s.setPacket x { r with pkt := q, place := .served (some port), frames := [] }
  else if devOf p.dst ≠ s.devNum then s.setPacket x { r with pkt := q, place := .transit port, frames := [] }
  else if p.kind = 7 then
    match (s.dropPacket x).packetCtl p with
    | (s1, some c) => s1.enterCtl x c
    | (s1, none) => s1.refusePacket q 4 (some port)
  else s.setPacket x { r with pkt := q, place := .served (some port), frames := [] }

/-- Further frames of an arriving packet. -/
def State.moreFrames (s : State) (x : Nat) (fs : List LinkFrame) (port : Nat) : State :=
  match AL.find s.packets x with
  | none => s
  | some r =>
    let r1 := { r with frames := r.frames ++ fs.map (fun f => f.flit) }
    let s1 := s.setPacket x r1
    if fs.any linkEop then s1.packetCame x r1 port else s1

/-- Do two packets of one source keep their order at a port: class-O ones (R367), and multicast ones, which take the same branch here
(R365)? -/
def Packet.inOrder (p q : Packet) : Bool := p.src == q.src && ((p.cls == .o && q.cls == .o) || (p.mc && q.mc))

/-- PACKET_ACCEPT: the decision on the first frame that waits: accepted into places, or refused whole; a class-O or multicast packet also
where an earlier one of its source has been refused (R365, R367). -/
def State.tryAccept (s : State) (port : Nat) : Option State :=
  let r := s.port port
  match r.waiting with
  | [] => none
  | f :: t =>
    let vc := linkVc f
    let more := (t.filter (fun g => linkVc g == vc)).takeWhile (fun g => !linkSop g)
    let fs := if linkEop f then [f] else f :: more
    let left := t.filter (fun g => !(linkVc g == vc && fs.contains g))
    let h := Packet.ofHeader (linkCtxid f) f.flit
    let n := 1 + bits ((f.flit[0]?).getD 0) 59 57
    let first := r.blocked.find? (fun b => h.inOrder (Packet.ofHeader 0 b.2))
    let turn := match first with | some b => b.2 == f.flit | none => true
    let kept := h.cls == .o || h.mc
    let upTo : BitVec 12 := match left with | g :: _ => linkSeq g - 1 | [] => r.recvSeq - 1
    match (if turn then s.placePart port h.tenant vc n else none) with
    | some pool =>
      let s1 := s.modPort port (fun r => { r with
        waiting := left, acks := r.acks ++ [(1, upTo)],
        blocked := if kept then r.blocked.filter (fun b => !(b.1 == h.src && b.2 == f.flit)) else r.blocked })
      let route := if h.mc ∨ devOf h.dst = s.devNum then none else some (s.routeFor { h with hop := h.hop + 1 } false)
      let s2 := { s1.setPacket s.nextId ⟨h, .arriving port, n, pool, vc, [], s.groups, route, none⟩ with nextId := s.nextId + 1 }
      some (s2.moreFrames s.nextId fs port)
    | none =>
      some (s.modPort port (fun r => { r with
        waiting := left, acks := r.acks ++ [(2, linkSeq f), (1, upTo)],
        refusing := if fs.any linkEop then r.refusing else vc :: r.refusing,
        drops := r.drops + flag h.mc,
        blocked := if kept ∧ r.blocked.all (fun b => b.2 != f.flit) then r.blocked ++ [(h.src, f.flit)] else r.blocked }))

/-- PACKET_ACCEPT (R367). -/
def execPacketAccept (port : Nat) (s : State) : Out := happen s (s.tryAccept port)

/-- A frame in sequence: a first frame waits for its acceptance, another one joins its packet or is dropped with it. -/
def State.takeFrame (s : State) (port : Nat) (fr : LinkFrame) : State :=
  let vc := linkVc fr
  let s1 := s.modPort port (fun r => { r with recvSeq := r.recvSeq + 1 })
  let r := s1.port port
  if linkSop fr || r.waiting.any (fun g => linkVc g == vc) then
    s1.modPort port (fun r => { r with waiting := r.waiting ++ [fr] })
  else
    let s2 := s1.modPort port (fun r => { r with acks := if r.waiting = [] then r.acks ++ [(1, linkSeq fr)] else r.acks })
    if r.refusing.contains vc then
      s2.modPort port (fun r => { r with refusing := if linkEop fr then r.refusing.erase vc else r.refusing })
    else
      match s2.packets.find? (fun p => p.2.place == .arriving port && p.2.vc == vc) with
      | some (x, _) => s2.moreFrames x [fr] port
      | none => s2

/-! ### Link-control frames and time (R353, R382) -/

/-- Bytes of a control frame's flit. -/
def controlBytes (fr : LinkFrame) : List Byte := flitBytes fr.flit

/-- A control frame updates the free places that the peer reports, the port's link delay and its time offsets (R353, R382). The
halved delay is rounded down (log 28). -/
def State.takeControl (s : State) (port : Nat) (fr : LinkFrame) : State :=
  let bs := controlBytes fr
  let num := fun (o n : Nat) => leNat ((bs.drop o).take n)
  let tx := num 16 8
  let echo := num 24 8
  let hold := num 32 4
  let d : Int := (((s.ns : Int) - (echo : Int)) - (hold : Int)) / 2
  let o : Int := (tx : Int) + d - (s.ns : Int)
  s.modPort port (fun r => { r with
    peerFree := (List.range 9).map (fun i => 8 * num i 1),
    peerTx := word tx, peerAt := s.ns, peerDist := BitVec.ofNat 16 (num 36 2), peerRef := BitVec.ofNat 16 (num 38 2),
    delay := if echo = 0 then r.delay else d,
    offsets := if echo = 0 then r.offsets else (r.offsets ++ [o]).drop ((r.offsets.length + 1) - 16) })

/-- FRAME_RECEIVE: a frame whose CRC fails is dropped and answered with ACKKIND 3 for the frame that was expected, and frames
out of sequence are dropped until it has come (R353, R368; log 26). -/
def State.receiveFrame (s : State) (port : Nat) (fr : LinkFrame) : State :=
  if !linkGood fr then s.modPort port (fun r => { r with acks := r.acks ++ [(3, r.recvSeq)] })
  else
    let s1 := s.takeAck port fr
    if linkVc fr = 15 then s1.takeControl port fr
    else if linkSeq fr ≠ (s1.port port).recvSeq then s1
    else s1.takeFrame port fr

/-- FRAME_RECEIVE (R353). -/
def execFrameReceive (port : Nat) (fr : LinkFrame) (s : State) : Out := .next (s.receiveFrame port fr)

/-- CONTROL_FRAME_RECEIVE (R353, R382). -/
def execControlFrameReceive (port : Nat) (fr : LinkFrame) (s : State) : Out :=
  .next (if linkGood fr && linkVc fr == 15 then (s.takeAck port fr).takeControl port fr
    else s.modPort port (fun r => { r with acks := r.acks ++ [(3, r.recvSeq)] }))

/-- The port that leads to the time reference: the lowest REFDIST with the named REFNODE, the lowest port on a tie (R382). -/
def State.timeParent (s : State) : Option Nat :=
  let ps := (List.range 64).filter (fun p => (s.port p).up && (s.port p).peerDist != 0xFFFF &&
    (s.port p).peerRef == s.time.reference.setWidth 16)
  ps.foldl (fun best p =>
    match best with
    | none => some p
    | some q => if (s.port p).peerDist.toNat < (s.port q).peerDist.toNat then some p else some q) none

/-- REFDIST of the device (R382). -/
def State.refDist (s : State) : Nat :=
  if s.time.reference = s.devNum then 0
  else match s.timeParent with | some p => min ((s.port p).peerDist.toNat + 1) 0xFFFF | none => 0xFFFF

/-- Free places that a port reports for a channel: the channel's reserve and the pool (R353; log 28). -/
def State.freeReport (s : State) (p vc : Nat) : Nat :=
  let free := (8 - s.placesAt p (fun q => q.pool == 2 && q.vc == vc)) +
    ((s.port p).poolSize - s.placesAt p (fun q => q.pool == 1))
  min (free / 8) 255

/-- CONTROL_FRAME_SEND: free places, time fields and the acknowledgement that waits (R353, R382). -/
def State.sendControl (s : State) (p : Nat) : State :=
  let r := s.port p
  let hold := if r.peerTx = 0 then 0 else s.ns - r.peerAt
  let bs := (List.range 9).map (fun i => BitVec.ofNat 8 (s.freeReport p i)) ++ List.replicate 7 0 ++ leBytes 8 s.ns ++
    leBytes 8 r.peerTx.toNat ++ leBytes 4 hold ++ leBytes 2 s.refDist ++ leBytes 2 s.time.reference.toNat
  let fr := linkSeal (bytesWords 8 bs) 0 0 15 false false (r.acks.headD (0, 0))
  s.modPort p (fun r => { r with out := [fr], acks := r.acks.drop 1 })

/-- CONTROL_FRAME_SEND (R353). -/
def execControlFrameSend (port : Nat) (s : State) : Out := .next (s.sendControl port)

/-- The mean of some offsets (log 28: rounded toward zero). -/
def meanOffset (l : List Int) : Int := if l = [] then 0 else (l.foldl (fun a b => a + b) 0).tdiv l.length

/-- TIME_SLEW: the correction that removes the mean of the parent port's offsets begins; the reference runs freely (R382). -/
def State.slewTime (s : State) : State :=
  if s.time.reference = s.devNum then { s with time := { s.time with slew := 0 } }
  else
    match s.timeParent with
    | some p => { s with time := { s.time with slew := meanOffset (s.port p).offsets } }
    | none => s

/-- TIME_SLEW (R382). -/
def execTimeSlew (s : State) : Out := .next s.slewTime

/-- TIME_LOAD: once, before the first field is configured, the count takes the parent's time if that is later (R382). -/
def State.loadTime (s : State) : State :=
  if s.time.loaded || !s.fields.isEmpty then s
  else
    let s1 := { s with time := { s.time with loaded := true } }
    match s.timeParent with
    | some p =>
      let t : Int := ((s.port p).peerTx.toNat : Int) + (s.port p).delay
      { s1 with ns := max s.ns t.toNat }
    | none => s1

/-- TIME_LOAD (R382). -/
def execTimeLoad (s : State) : Out := .next s.loadTime

/-- Time passes: in at most one nanosecond of every 16 the count advances by 2 or by 0 until the correction is made (R382). -/
def State.passTime : Nat → State → State
  | 0, s => s
  | n + 1, s =>
    let t := s.time
    State.passTime n (
      if t.slew = 0 ∨ t.phase < 15 then { s with ns := s.ns + 1, time := { t with phase := min (t.phase + 1) 15 } }
      else if 0 < t.slew then { s with ns := s.ns + 2, time := { t with phase := 0, slew := t.slew - 1 } }
      else { s with time := { t with phase := 0, slew := t.slew + 1 } })

/-! ### Serving packets (R354, R361) -/

/-- A packet of a kind that is to be served here. -/
def State.servedPacket (s : State) (x kind : Nat) : Option (PacketRun × Option Nat) :=
  match AL.find s.packets x with
  | some r =>
    match r.place with
    | .served q => if r.pkt.kind = kind ∧ (r.pkt.mc → r.pkt.tree = []) then some (r, q) else none
    | _ => none
  | none => none

/-- Where an address of a context lies, whatever permissions its segment grants. -/
def Field.place (f : Field) (va : Nat) : Option Target :=
  ((segAt f.segs va).bind (fun i => f.segs[i]?)).map (fun g => g.target va)

/-- The owning port that a packet goes to: the cell of a message, the owner or the far-memory channel of an access (R186). -/
def State.packetPort (s : State) (p : Packet) : Nat × Nat :=
  if p.kind = 0 then (0, cellOf p.dst)
  else
    match (s.fieldByCtx p.ctxid).bind (fun f => f.place p.addr.toNat) with
    | some (.sram a) => (0, (ownerCell a).getD 0)
    | some (.far va) => (1, va.toNat / 256 % 64)
    | _ => (2, p.kind)

/-- Must an earlier packet of the same source be served first: one of class O to the same owning port, whose message shall also have
arrived, or a multicast packet on the same branch (R186, R357, R365)? -/
def State.servedBehind (s : State) (x : Nat) (p : Packet) : Bool :=
  s.packets.any (fun q => decide (q.1 < x) && q.2.pkt.src == p.src && q.2.pkt.hub == p.hub &&
    (match q.2.place with | .served _ => true | _ => false) &&
    ((p.mc && q.2.pkt.mc) || (p.cls == .o && q.2.pkt.cls == .o && s.packetPort q.2.pkt == s.packetPort p))) ||
  (p.cls == .o && p.kind != 0 && s.msgs.any (fun m => decide (m.1 < x) && m.2.msg.cls == .o && m.2.from_ == p.src &&
    s.packetPort p == (0, cellOf m.2.msg.dst)))

/-- MESSAGE: a packet is checked against CTXID, field and tenant and passed on to its cell; one to a built-in handler to that
handler; a host sends to those alone (R354, R362, R370). -/
def State.tryMessage (s : State) (x : Nat) : Option State :=
  match s.servedPacket x 0 with
  | none => none
  | some (r, port) =>
    let p := r.pkt
    if s.servedBehind x p then none
    else
      let s1 := s.dropPacket x
      let fromHost := (s.route (devOf p.src).toNat).hostn
      let pass := some (s1.enterMsg x { p.msg with replica := if p.mc then port else none })
      if fromHost && !isBuiltIn p.handler then some (s1.refusePacket p 4 port)
      else if p.handler = doorbellHandler then pass
      else
        match s.fieldByCtx p.ctxid with
        | none => some (s1.refusePacket p 6 port)
        | some f =>
          if f.ctx.holds (cellOf p.dst) && f.ctx.tenants.getLsbD p.tenant.toNat then pass
          else some (s1.refusePacket p 6 port)

/-- MESSAGE (R354). -/
def execMessage (x : Nat) (s : State) : Out := happen s (s.tryMessage x)

/-- On whose behalf the hub performs an access of another device: in the context that the CTXID names (R361). -/
def State.whoPacket (s : State) (x : Nat) (p : Packet) (f : Field) (port : Option Nat) (n : Nat) : Who :=
  { log := portLogOf port, cell := (f.ctx.cells.headD 0), field := f.ctx.field, segs := f.segs, window := none,
    lines := s.linesOf (.packet x), wrote := [], site := Site.zero, cls := p.cls, opR := p.logOp, opW := p.logOp,
    size := some (p.logSize n), issuer := .hub (unitPort (port.getD 0)), src := p.src, req := .packet x,
    by_ := some ⟨p.src, 0, 0, p.cls, true, p.kind == 2 && p.op.getLsbD 9, some (p.logSize n)⟩ }

/-- Is the address of an access in a window that is not forwarded a second time (R361)? -/
def onceOnly (segs : List Seg) (va : Nat) : Bool :=
  match segAt segs va with
  | some i => match segs[i]? with | some g => g.kind == 4 || g.kind == 5 | none => false
  | none => false

/-- The unit of the hub die that answers an access of another device: the internal port of its owner's die, the translation agent of its
page, or the external port that refuses it (R134, Table 7-15). -/
def State.responder (s : State) (x : Nat) (p : Packet) (f : Option Field) (port : Option Nat) : BitVec 24 :=
  match f.bind (fun g => g.place p.addr.toNat) with
  | some (.sram a) => s.hubUnit (s.entryOf p.cls x ((ownerCell a).getD 0))
  | some (.far va) => s.devNum ++ unitAgent (agentOf va.toNat)
  | _ => s.portUnit (port.getD 0)

/-- Perform an access of another device: refusals are logged and answered by their code, a replica's is counted, a page that is not resident is
waited for (R331, R354, R361, R365). -/
def State.servePacket (s : State) (x kind n : Nat) (act : Who → Packet → M (List Word × List Byte)) : Option State :=
  match s.servedPacket x kind with
  | none => none
  | some (r, port) =>
    let p := r.pkt
    let req : FaultReq := .packet x
    if s.servedBehind x p || s.isWaiting req then none
    else
      let refuse := fun (t : State) (src : BitVec 24) (k : Nat) =>
        let t1 := t.dropPacket x
        some (if p.mc then t1.countReplicaAt port else t1.respond p src k [] [])
      let window := fun (k : Nat) => refuse (s.logAt (portLogOf port)
        ⟨p.addr, k, p.cls, p.logOp, p.logSize n, p.src, s.time24⟩) (s.portUnit (port.getD 0)) k
      match s.fieldByCtx p.ctxid with
      | none => window 7
      | some f =>
        let src := s.responder x p (some f) port
        if !f.ctx.tenants.getLsbD p.tenant.toNat || !f.ctx.holds (cellOf p.dst) || onceOnly f.segs p.addr.toNat then window 7
        else if !oneRegion f.segs p.addr.toNat n then window 4
        else
          match s.waitOf req with
          | .refused e => refuse s src e.kind
          | _ =>
            match (act (s.whoPacket x p f port n) p).exec s with
            | (.ok o, t) => some ((t.dropPacket x).respond p src 0 o.1 o.2)
            | (.error (.refused e), t) => refuse t src e.kind
            | (.error (.other _), t) => refuse t src 4
            | (.error (.poison a g), t) => some ((t.consume a p.src (some f.ctx.field) g).setWait req .withheld)
            | (.error e, _) => some (s.stopFor req (f.ctx.cells.headD 0) f.ctx.field e)

/-- Bytes as the words and the further bytes of a packet. -/
def packetBytes (bs : List Byte) : List Word × List Byte := (bytesWords 4 bs, bs.drop 32)

/-- LOAD: performed by the hub of the device that owns the address and answered (R361). -/
def State.tryLoad (s : State) (x : Nat) : Option State :=
  let n := match s.servedPacket x 1 with | some (r, _) => r.pkt.bytes | none => 1
  s.servePacket x 1 n fun w p => do
    let bs ← readVa w p.addr.toNat n .r
    pure (packetBytes bs)

/-- LOAD (R361). -/
def execLoad (x : Nat) (s : State) : Out := happen s (s.tryLoad x)

/-- STORE: performed and acknowledged (R361). -/
def State.tryStore (s : State) (x : Nat) : Option State :=
  let n := match s.servedPacket x 2 with | some (r, _) => r.pkt.storeLength | none => 1
  s.servePacket x 2 n fun w p => do
    writeVaM w p.addr.toNat ((flitBytes p.words ++ p.data).take n)
    pure ([], [])

/-- STORE (R361). -/
def execStore (x : Nat) (s : State) : Out := happen s (s.tryStore x)

/-- An atomic or front operation of another device, at the engine that serves its address (R202, R203, R361). -/
def atomicPacket (w : Who) (p : Packet) : M (List Word × List Byte) := do
  match p.atomOp with
  | some (.atomic op wd opnd new) =>
    let bs ← engineOp w p.addr.toNat (if wd then 4 else 8) .atom (.atomic op wd opnd new)
    pure ([word (leNat bs)], [])
  | some op =>
    let bs ← engineOp w p.addr.toNat 8 .atom op
    pure (bytesWords (bs.length / 8) bs, [])
  | none => pure ([], [])

/-- ATOMIC: performed at the owning atomic engine and answered (R361). -/
def State.tryAtomicPacket (s : State) (x : Nat) : Option State :=
  let n := match s.servedPacket x 3 with | some (r, _) => r.pkt.bytes | none => 8
  s.servePacket x 3 n atomicPacket

/-- ATOMIC (R361). -/
def execAtomic (x : Nat) (s : State) : Out := happen s (s.tryAtomicPacket x)

/-- RESPONSE: it completes the requester's access to another device or the host (R361). -/
def State.tryResponse (s : State) (x : Nat) : Option State :=
  match s.servedPacket x 4 with
  | none => none
  | some (r, _) =>
    let s1 := s.dropPacket x
    match s.flightByRid r.pkt.elem with
    | none => some s1
    | some (y, f) =>
      some (s1.answerFlight y f (if r.pkt.status = 0 then f.op.answer r.pkt else .err ⟨r.pkt.status.toNat, f.va⟩))

/-- RESPONSE (R361). -/
def execResponse (x : Nat) (s : State) : Out := happen s (s.tryResponse x)

/-- NACK: passed to the trap handler of the source's field; the refused message's weight returns (R363). -/
def State.tryNack (s : State) (x : Nat) : Option State :=
  match s.servedPacket x 5 with
  | none => none
  | some (r, _) =>
    some ((s.dropPacket x).nackCame (Packet.ofHeader 0 r.pkt.words) r.pkt.status.toNat r.pkt.src)

/-- NACK (R363). -/
def execNack (x : Nat) (s : State) : Out := happen s (s.tryNack x)

/-- WEIGHT: a weight return of another device goes to its scope's home (R358). -/
def State.tryWeight (s : State) (x : Nat) : Option State :=
  match s.servedPacket x 6 with
  | none => none
  | some (r, _) =>
    match (s.dropPacket x).packetCtl r.pkt with
    | (s1, some c) => some (s1.enterCtl x c)
    | (s1, none) => some s1

/-- WEIGHT (R358). -/
def execWeight (x : Nat) (s : State) : Out := happen s (s.tryWeight x)

/-! ### Multicast (R364 to R366) -/

/-- A replica of packet `x` for a port. -/
def State.replica (s : State) (x : Nat) (p : Packet) (port : Nat) (sub : List Byte) : State :=
  if 9 ≤ p.hop then s
  else
    let q := { p with tree := BitVec.ofNat 8 sub.length :: sub }
    { s with packets := AL.put s.packets s.nextId ⟨q, .egress (some port), 0, 0, 0, [], [], none, some x⟩, nextId := s.nextId + 1 }

/-- A local delivery: served as a unicast arrival at the port would be, with no answer (R365). -/
def State.localCopy (s : State) (x : Nat) (p : Packet) (port : Option Nat) : State :=
  let q := { p with tree := [], dst := s.devNum ++ p.dst.setWidth 12 }
  { s with packets := AL.put s.packets s.nextId ⟨q, .served port, 0, 0, 0, [], [], none, some x⟩, nextId := s.nextId + 1 }

/-- The replicas of one branch of packet `x`. -/
def State.branch (s : State) (x : Nat) (p : Packet) (groups : AL GroupEntry) (port : Option Nat) : Branch → State
  | .forward q sub => s.replica x p q sub
  | .deliver => s.localCopy x p port
  | .group g =>
    match AL.find groups g with
    | some ⟨ports, true, here⟩ =>
      let s1 := (maskPorts ports).foldl (fun t q => t.replica x p q [1, 0x80, BitVec.ofNat 8 g]) s
      if here then s1.localCopy x p port else s1
    | _ => s.countReplicaAt port

/-- MULTICAST_PACKET: replicas in branch order (R365); the places of the packet stay taken until its replicas have left the buffer (R367). -/
def State.tryMulticast (s : State) (x : Nat) : Option State :=
  match AL.find s.packets x with
  | none => none
  | some r =>
    match r.place with
    | .served port =>
      if r.pkt.mc = false ∨ r.pkt.tree = [] ∨ s.servedBehind x r.pkt = true then none
      else
        let t := (treeBranches (r.pkt.tree.drop 1)).foldl (fun (t : State) (b : Branch) => t.branch x r.pkt r.groups port b)
          (s.setPacket x { r with place := .held port })
        some (if t.packets.any (fun q => q.2.of_ == some x) then t else t.dropPacket x)
    | _ => none

/-- MULTICAST_PACKET (R365). -/
def execMulticastPacket (x : Nat) (s : State) : Out := happen s (s.tryMulticast x)

end Sys2Proof.Machine
end

