-- ==== Sys2Proof/Machine/Queues.lean ====
section
/-! DEFINITION. Host queues and command processors (spec 17, R332 to R343, R348): doorbells and built-in handlers, the choice of
the next packet, launches, waits, signals and fences, ageing and the toll timer. -/

namespace Sys2Proof.Machine

/-! ### Queues -/

/-- The command processor of a queue (R332). -/
def cpOf (q : Nat) : Nat := q % 16
/-- A command processor. -/
def State.cp (s : State) (p : Nat) : Cp := AL.get ⟨[], none, []⟩ s.cps p
/-- Change a command processor. -/
def State.modCp (s : State) (p : Nat) (f : Cp → Cp) : State := { s with cps := AL.put s.cps p (f (s.cp p)) }
/-- A command processor as a unit (Table 7-15). -/
def State.cpUnit (s : State) (p : Nat) : BitVec 24 := s.devNum ++ BitVec.ofNat 12 p
/-- The address of the packet at the head of a queue (R333). -/
def QueueEntry.headAddr (e : QueueEntry) : Addr := e.ring + BitVec.ofNat 48 (64 * (e.head.toNat % 2 ^ e.log2n))
/-- Has a queue packets? -/
def QueueEntry.hasPackets (e : QueueEntry) : Bool := e.head != e.tail
/-- Has the packet of a launch been consumed (R334)? -/
def LaunchStage.consumed : LaunchStage → Bool
  | .linking => false
  | .sending _ => false
  | _ => true
/-- Is a launch outstanding: from its root's opening to its completion (R337)? -/
def State.openLaunch (s : State) (x : Nat) : Bool :=
  match AL.find s.launches x with | some l => l.stage != .failed | none => false
/-- The launches of a queue that are outstanding (R337). -/
def State.launchesOf (s : State) (q : Nat) : List Nat :=
  (s.launches.filter (fun l => l.2.queue == q && l.2.stage != .failed)).map Prod.fst
/-- The launches of a queue that it has consumed and that have not completed (R334, R340). -/
def State.consumedLaunches (s : State) (q : Nat) : List Nat :=
  (s.launches.filter (fun l => l.2.queue == q && l.2.stage != .failed && l.2.stage.consumed)).map Prod.fst

/-- On whose behalf a command processor reaches memory: in the context of the queue's field (R333). -/
def State.whoQueue (s : State) (q : Nat) (req : FaultReq) : Who :=
  let f := (s.queue q).field
  { log := .commandProcessor (cpOf q), cell := 0, field := f,
    segs := (match AL.find s.fields f with | some x => x.segs | none => []), window := none, lines := s.linesOf req,
    wrote := s.wroteOf req, site := Site.zero, cls := .o, opR := 0, opW := 1, size := none, issuer := .queue q,
    src := s.cpUnit (cpOf q), by_ := some ⟨s.cpUnit (cpOf q), 0, 0, .o, false, false, none⟩,
    req := req }

/-- What an access of a command processor comes to. -/
inductive QueueMem (α : Type)
  | done (x : α) (s : State)
  | refused (s : State)
  | page (s : State)
  | wait (s : State)

/-- Carry out an access of a command processor. Lines of other devices serve one access only; the packet of a queue, the comparison of its
WAIT and the signal of each launch wait apart. -/
def State.queueMem {α : Type} (s : State) (q : Nat) (req : FaultReq) (m : M α) : QueueMem α :=
  match s.waitOf req with
  | .refused _ => .refused (s.endWait req)
  | .page _ => .page s
  | .flight _ => .wait s
  | .withheld => .wait s
  | _ =>
    match m.exec s with
    | (.ok x, t) => .done x (t.endWait req)
    | (.error (.refused _), t) => .refused (t.endWait req)
    | (.error (.other _), t) => .refused (t.endWait req)
    | (.error (.poison a g), t) =>
      .wait ((t.consume a (s.cpUnit (cpOf q)) (some (s.queue q).field) g).setWait req .withheld)
    | (.error (.page va op cls size), _) => .page (s.stopFor req 0 (s.queue q).field (.page va op cls size))
    | (.error x, _) => .wait (s.stopFor req 0 (s.queue q).field x)

/-- A queue leaves its dispatch slot. -/
def State.leaveSlot (s : State) (q : Nat) : State :=
  s.modCp (cpOf q) (fun c => { c with slots := c.slots.filter (fun k => k != q) })

/-- A queue waits for a page without a slot (R343). -/
def State.parkQueue (s : State) (q : Nat) : State :=
  (s.modQueue q (fun e => { e with state := .parked })).leaveSlot q

/-- Record a code of Table 17-7 with the address of its packet (R335). -/
def State.queueCode (s : State) (q code : Nat) (pkt : Addr) : State :=
  s.modQueue q (fun e => { e with errcode := code, errpkt := pkt })

/-- The processor of a queue is free for another packet, if it works on one of that queue. -/
def State.freeCp (s : State) (q : Nat) : State :=
  s.modCp (cpOf q) (fun c => if c.work = some q then { c with work := none } else c)

/-- A queue error: nothing more is consumed until the queue is re-armed, and its processor is free for others (R335). What has been read of
a packet under work stays, so that it is taken up again where it stood. -/
def State.queueError (s : State) (q code : Nat) (pkt : Addr) : State :=
  (((s.queueCode q code pkt).modQueue q (fun e => { e with
    state := .error, packet := if code = 0x11 then e.packet else none, fenceOn := if code = 0x11 then e.fenceOn else none,
    waitOk := code == 0x11 && e.waitOk })).leaveSlot q).freeCp q

/-- The packet at the head is consumed; HEAD is to be copied to HEADPTR (R333). -/
def State.consumePacket (s : State) (q : Nat) : State :=
  let e := s.queue q
  let e1 := { e with
    head := e.head + 1, packet := none, fenceOn := none, waitOk := false, headDue := e.headptr != 0,
    state := if e.state = .ready ∨ e.state = .waiting then (if e.head + 1 = e.tail then .idle else .ready) else e.state }
  let s1 := s.modQueue q (fun _ => e1)
  (if e1.state = .idle then s1.leaveSlot q else s1).freeCp q

/-! ### Doorbells (R333) and built-in handlers (R362) -/

/-- A doorbell: none where it is refused. -/
def State.ring (s : State) (node : BitVec 12) (q : Nat) (t : BitVec 32) : Option State :=
  let e := s.queue q
  if node ≠ e.host ∨ e.state = .disabled then none
  else if 2 ^ 31 ≤ (t - e.tail).toNat then some s
  else if 2 ^ e.log2n < (t - e.head).toNat then some (s.queueError q 0x11 e.headAddr)
  else some (s.modQueue q (fun e => { e with tail := t }))

/-- The code of a refused doorbell; the manual names none (log 31). -/
def doorbellRefusal : Nat := 6

/-- DOORBELL: a node rings a queue (R333). A refused one is answered by a negative acknowledgement to the node. -/
def execDoorbell (node queue tail : Nat) (s : State) : Out :=
  .next ((s.ring (BitVec.ofNat 12 node) queue (BitVec.ofNat 32 tail)).getD
    (s.sendPacket { Packet.zero with
      kind := 5, dst := BitVec.ofNat 12 node ++ (0 : BitVec 12), src := s.devNum ++ (0x022 : BitVec 12), hub := true,
      status := BitVec.ofNat 8 doorbellRefusal, time := BitVec.ofNat 32 s.ns,
      words := ({ Msg.zero with
        src := BitVec.ofNat 12 node ++ (0 : BitVec 12), dst := s.gca 0, handler := doorbellHandler }.packet 0).header }))

/-- A doorbell on its way is served by the front end; its weight returns once it has been served (R333, R362). -/
def State.serveDoorbell (s : State) (m : Nat) (f : MsgFlight) : Option State :=
  if f.msg.handler ≠ doorbellHandler ∨ s.queued m f = true ∨ s.msgBehind m f = true then none
  else
    let gone : State := { s with msgs := AL.del s.msgs m }
    let u : BitVec 24 := s.devNum ++ (0x022 : BitVec 12)
    let w := fun (i : Nat) => (f.msg.words[i]?).getD 0
    if s.sourceFenced f.msg then some gone
    else
      match gone.ring (devOf f.msg.src) (bits (w 0) 12 0) ((w 1).setWidth 32) with
      | some t => some (t.returnWeight u f.msg.scope f.msg.w true)
      | none => some (gone.nack f.msg doorbellRefusal u true none)

/-- The input slot whose message has a number of arrival and names a built-in handler. -/
def State.builtInSlot (s : State) (m : Nat) : Option (Nat × Nat × InSlot) :=
  s.cells.findSome? (fun p => (p.2.slots.find? (fun q => q.2.order == m && isBuiltIn q.2.msg.handler)).map
    (fun q => (p.1, q.1, q.2)))

/-- The message of a slot for a built-in handler of a cell: the trap service serves a verdict; another address of the range has no handler.
The weight returns once the message has been served (R25, R55, R362). -/
def State.serveBuiltIn (s : State) (c k : Nat) (q : InSlot) : State :=
  let w := fun (i : Nat) => (q.msg.words[i]?).getD 0
  let refuse := fun (t : State) (code : Nat) =>
    ((t.dropSlot c k).logRefusal c code q.msg).nack q.msg code (s.gca c) false (s.fieldOf c)
  if q.msg.handler = trapHandler then
    match s.verdict c (lo48 (w 0)) (if bits (w 0) 63 48 = 0 then (w 1).toNat else 4) with
    | .done t => (t.dropSlot c k).returnWeight (s.gca c) q.msg.scope q.msg.w
    | .bad t => refuse t 9
    | .wait t => t
  else refuse s 1

/-- BUILT_IN_HANDLER: a message for a built-in handler is served, a doorbell on its way, another one in its slot (R362). -/
def State.tryBuiltIn (s : State) (m : Nat) : Option State :=
  match AL.find s.msgs m with
  | some f => s.serveDoorbell m f
  | none => (s.builtInSlot m).map (fun r => s.serveBuiltIn r.1 r.2.1 r.2.2)

/-- BUILT_IN_HANDLER (R362). -/
def execBuiltInHandler (m : Nat) (s : State) : Out := happen s (s.tryBuiltIn m)

/-! ### Packets (R334, Tables 17-5 and 17-6) -/

/-- A word of a packet. -/
def pw (ws : List Word) (i : Nat) : Word := (ws[i]?).getD 0

/-- Does a packet keep Tables 17-5 and 17-6? -/
def hostPacketOk (ws : List Word) : Bool :=
  let w := pw ws
  let rest := fun (n : Nat) => (ws.drop n).all (fun x => x == 0)
  let sig := fun (v : Word) => bits v 2 0 == 0
  match bits (w 0) 7 0 with
  | 0 => bits (w 0) 63 9 == 0 && rest 1
  | 1 =>
    bits (w 0) 20 9 == 0 && bits (w 6) 31 30 == 0 && bits (w 6) 28 27 != 3 && (bitAt (w 6) 29 || bits (w 6) 63 32 == 0) &&
      (match bits (w 6) 28 27 with
        | 1 => bits (w 5) 47 22 == 0
        | 2 => bits (w 5) 47 0 == 0
        | _ => true) && sig (w 7)
  | 2 =>
    decide (bits (w 0) 11 9 ≤ 5) && bits (w 0) 15 13 == 0 && bits (w 0) 63 29 == 0 && bits (w 1) 63 48 == 0 && sig (w 1) && rest 3
  | 3 => bits (w 0) 63 12 == 0 && bits (w 1) 63 48 == 0 && sig (w 1) && rest 3
  | 4 =>
    let nq := bits (w 0) 20 16
    bits (w 0) 15 9 == 0 && bits (w 0) 63 21 == 0 && decide (nq ≤ 24) &&
      (List.range 28).all (fun k =>
        let h := bits (w (1 + k / 4)) (16 * (k % 4) + 15) (16 * (k % 4))
        if k < nq then decide (h < 8192) else h == 0)
  | _ => false

/-- The queues that a FENCE names. -/
def fenceQueues (ws : List Word) : List Nat :=
  (List.range (bits (pw ws 0) 20 16)).map (fun k => bits (pw ws (1 + k / 4)) (16 * (k % 4) + 12) (16 * (k % 4)))

/-! ### Choosing the next packet (R341) -/

/-- Does queue `a` come before queue `b` for a slot: higher EFF, then lower number? -/
def slotFirst (a b : Nat × QueueEntry) : Bool :=
  decide (b.2.eff < a.2.eff) || (a.2.eff == b.2.eff && decide (a.1 < b.1))
/-- Does queue `a` come before queue `b` to be served: higher EFF, then larger AGERUN, then lower number? -/
def serveFirst (a b : Nat × QueueEntry) : Bool :=
  decide (b.2.eff < a.2.eff) || (a.2.eff == b.2.eff &&
    (decide (b.2.agerun.toNat < a.2.agerun.toNat) || (a.2.agerun == b.2.agerun && decide (a.1 < b.1))))
/-- The first of some queues. -/
def firstQueue (before : Nat × QueueEntry → Nat × QueueEntry → Bool) (l : List (Nat × QueueEntry)) :
    Option (Nat × QueueEntry) :=
  l.foldl (fun best x => match best with
    | none => some x
    | some b => if before x b then some x else some b) none

/-- Queues that compete for a slot of a processor: with packets, neither READY nor WAITING, and no longer parked on a fault
(R341, R343). -/
def State.competing (s : State) (p : Nat) : List (Nat × QueueEntry) :=
  s.queues.filter (fun q => cpOf q.1 == p && q.2.hasPackets && !(s.cp p).slots.contains q.1 &&
    (q.2.state == .idle || (q.2.state == .parked && !s.isWaiting (.queue q.1) && !s.isWaiting (.wait q.1))))

/-- Fill the free dispatch slots (R341). -/
def State.fillSlots (p : Nat) : Nat → State → State
  | 0, s => s
  | n + 1, s =>
    if 64 ≤ (s.cp p).slots.length then s
    else
      match firstQueue slotFirst (s.competing p) with
      | none => s
      | some (q, _) =>
        State.fillSlots p n ((s.modQueue q (fun e => { e with state := .ready })).modCp p (fun c => { c with slots := c.slots ++ [q] }))

/-- Copy HEAD to HEADPTR where that is due (R333); a refused write is given up. -/
def State.flushHead (s : State) (q : Nat) : State :=
  let e := s.queue q
  if !e.headDue then s
  else
    match s.queueMem q (.queue q) (writeVaWait (s.whoQueue q (.queue q)) e.headptr.toNat (leBytes 8 e.head.toNat)) with
    | .done _ t => t.modQueue q (fun e => { e with headDue := false })
    | .refused t => t.modQueue q (fun e => { e with headDue := false })
    | .page t => t
    | .wait t => t

/-- The launch of a queue that is linked or sent. -/
def State.partLaunch (s : State) (q : Nat) : Option (Nat × Launch) :=
  s.launches.find? (fun l => l.2.queue == q && !l.2.stage.consumed)

/-- Read the packet at the head of a READY queue (R333); that of a LAUNCH partly sent has been read. -/
def State.readHead (s : State) (q : Nat) : State :=
  let e := s.queue q
  if e.state ≠ .ready ∨ e.packet.isSome ∨ e.headDue = true then s
  else
    match s.partLaunch q with
    | some (_, l) => s.modQueue q (fun e => { e with packet := some l.packet })
    | none =>
      match s.queueMem q (.queue q) (readWords (s.whoQueue q (.queue q)) e.headAddr.toNat 8 .r) with
      | .done ws t => t.modQueue q (fun e => { e with packet := some ws })
      | .refused t => t.queueError q 0x12 e.headAddr
      | .page t => t.parkQueue q
      | .wait t => t

/-- Does a WAIT's comparison hold, the signal on the left (R339)? -/
def waitHolds (cond : Nat) (sig v : Word) : Bool :=
  match cond with
  | 0 => sig == v
  | 1 => sig != v
  | 2 => sig.slt v
  | 3 => !sig.slt v
  | 4 => sig.ult v
  | _ => !sig.ult v

/-- A queue lends a level to the producer that its unsatisfied WAIT names (R342). -/
def State.lend (s : State) (lv : Nat) (ws : List Word) : State :=
  let p := bits (pw ws 0) 28 16
  if bitAt (pw ws 0) 12 && decide ((s.queue p).eff < lv) then
    s.modQueue p (fun e => { e with lent := max (if e.lentv then e.lent else 0) lv, lentv := true })
  else s

/-- Compare the signal word of a WAIT: satisfied, or waiting, or PARKED on its page, or abandoned with SIGFAULT (R339, R343). -/
def State.compareWait (s : State) (q : Nat) (ws : List Word) : State :=
  match s.queueMem q (.wait q) (readWord (s.whoQueue q (.wait q)) (bits (pw ws 1) 47 0) .r) with
  | .done v t =>
    if waitHolds (bits (pw ws 0) 11 9) v (pw ws 2) then t.modQueue q (fun e => { e with state := .ready, waitOk := true })
    else (t.modQueue q (fun e => { e with state := .waiting })).lend (s.queue q).eff ws
  | .refused t => (t.queueCode q 0x07 (s.queue q).headAddr).consumePacket q
  | .page t => t.parkQueue q
  | .wait t => t

/-- Does BARRIER let the packet of a queue be processed (R334)? -/
def State.barrierOk (s : State) (q : Nat) (ws : List Word) : Bool := !bitAt (pw ws 0) 8 || (s.consumedLaunches q).isEmpty

/-- A READY queue reaches its packet: a FENCE notes the launches that its queues have consumed, and a WAIT is compared once BARRIER lets it
(R339 to R341). -/
def State.reachHead (s : State) (q : Nat) : State :=
  let e := s.queue q
  match e.packet with
  | some ws =>
    if e.state ≠ .ready ∨ hostPacketOk ws = false then s
    else
      match bits (pw ws 0) 7 0 with
      | 2 => if !e.waitOk && s.barrierOk q ws then s.compareWait q ws else s
      | 4 =>
        if e.fenceOn.isSome then s
        else s.modQueue q (fun e => { e with fenceOn := some ((fenceQueues ws).flatMap s.consumedLaunches) })
      | _ => s
  | none => s

/-- Are the launches complete that the FENCE of a queue waits for (R340)? -/
def State.fenceDone (s : State) (e : QueueEntry) : Bool :=
  match e.fenceOn with | some l => l.all (fun x => !s.openLaunch x) | none => false

/-- May the next packet of a READY queue be processed: BARRIER, FENCE and WAIT are satisfied (R334, R340, R341)? -/
def State.mayProcess (s : State) (q : Nat) (e : QueueEntry) : Bool :=
  e.state == .ready && !e.headDue &&
  match e.packet with
  | some ws => s.barrierOk q ws && (!hostPacketOk ws ||
      match bits (pw ws 0) 7 0 with | 2 => e.waitOk | 4 => s.fenceDone e | _ => true)
  | none => false

/-- Fill the slots, read the heads of the queues in them and take the first packet that may be processed. -/
def State.tryPick (s : State) (p : Nat) : Option State :=
  let mine := (s.queues.filter (fun q => cpOf q.1 == p)).map Prod.fst
  let s1 := mine.foldl State.flushHead (State.fillSlots p 64 s)
  let s2 := (s1.cp p).slots.foldl (fun t q => (t.readHead q).reachHead q) s1
  let take :=
    if (s2.cp p).work.isSome then none
    else firstQueue serveFirst (s2.queues.filter (fun q => (s2.cp p).slots.contains q.1 && s2.mayProcess q.1 q.2))
  match take with
  | some (q, e) =>
    let s3 := s2.modQueue q (fun e => { e with raise := 0, agerun := 0, taken := true })
    some (if hostPacketOk (e.packet.getD []) then s3.modCp p (fun c => { c with work := some q })
      else s3.queueError q 0x10 e.headAddr)
  | none => if s2 = s then none else some s2

/-- PACKET_SELECT: slots are filled, packets at the heads read, and the first that may be processed is taken (R341). -/
def execPacketSelect (p : Nat) (s : State) : Out := happen s (s.tryPick p)

/-- The queue and the packet that a processor works on, of a kind. -/
def State.atWork (s : State) (p kind : Nat) : Option (Nat × QueueEntry × List Word) :=
  match (s.cp p).work with
  | none => none
  | some q =>
    match (s.queue q).packet with
    | some ws => if bits (pw ws 0) 7 0 = kind then some (q, s.queue q, ws) else none
    | none => none

/-! ### Launches (R335 to R338) -/

/-- Write a signal word; a refused write is logged as SIGFAULT; `go` follows once it has been performed or given up. -/
def State.signal (s : State) (q : Nat) (req : FaultReq) (pkt : Addr) (m : M Unit) (go : State → State) : State :=
  match s.queueMem q req m with
  | .done _ t => go t
  | .refused t => go (t.queueCode q 0x07 pkt)
  | .page t => t
  | .wait t => t

/-- SIGADDR of a LAUNCH. -/
def sigAddr (ws : List Word) : Nat := bits (pw ws 7) 47 0
/-- SIGVAL of a LAUNCH: SIGVH:SIGVL. -/
def sigVal (ws : List Word) : Nat := bits (pw ws 5) 63 48 * 65536 + bits (pw ws 7) 63 48

/-- A completion error: ERRCODE and ERRPKT, and the error in the signal word (R335). -/
def State.completionError (s : State) (q : Nat) (req : FaultReq) (code : Nat) (ws : List Word) (pkt : Addr) (go : State → State) : State :=
  let s1 := s.queueCode q code pkt
  if sigAddr ws = 0 then go s1
  else s1.signal q req pkt (writeVaWait (s.whoQueue q req) (sigAddr ws) (leBytes 8 (2 ^ 63 + code * 2 ^ 32 + sigVal ws))) go

/-- The count that the master distributor holds for a cell: its latest report less the elements placed there since (R336). -/
def State.freeCount (s : State) (c : Nat) : Int := (s.cell c).placeFree

/-- The cells of a field that may be given work (R411, R419). -/
def State.placeable (s : State) (f : Field) : List Nat :=
  f.ctx.cells.filter (fun c => !((s.cell c).paired && !(s.cell c).leader))

/-- The cell with the most free frame slots, lowest number on a tie (R336); a cell out of service is passed by (R418). -/
def State.freest (s : State) (f : Field) : Option Nat :=
  ((s.placeable f).filter (fun c => (s.cell c).service && (s.cell c).scan == .none)).foldl (fun best c =>
    match best with
    | none => some c
    | some b =>
      if s.freeCount b < s.freeCount c ∨ (s.freeCount b = s.freeCount c ∧ c < b) then some c else some b) none

/-- The cell of a data address in an SRAM segment (R336). -/
def sramCell (segs : List Seg) (va : Nat) : Option Nat :=
  match segAt segs va with
  | some i =>
    match segs[i]? with
    | some g => match g.target va with | .sram a => ownerCell a | _ => none
    | none => none
  | none => none

/-- The rectangle of PLACE 1: die, first row and column, height and width. -/
def placeRect (ws : List Word) : Nat × Nat × Nat × Nat × Nat :=
  let d := pw ws 5
  (bits d 21 20, bits d 19 15, bits d 14 10, bits d 9 5 + 1, bits d 4 0 + 1)

/-- Element `e` of a launch: its cell (R336). -/
def State.elementCell (s : State) (f : Field) (ws : List Word) (e : Nat) : Option Nat :=
  match bits (pw ws 6) 28 27 with
  | 0 => sramCell f.segs (bits (pw ws 5) 47 0 + 256 * e)
  | 1 =>
    let r := placeRect ws
    some (rectElement r.1 r.2.1 r.2.2.1 r.2.2.2.1 r.2.2.2.2 e)
  | _ => s.freest f

/-- The home of the root, if it and every element's cell lie in the field (R336, R337, R411). -/
def State.launchHome (s : State) (f : Field) (ws : List Word) (count : Nat) : Option Nat :=
  let ok := fun (c : Nat) => (s.placeable f).contains c
  match bits (pw ws 6) 28 27 with
  | 0 =>
    let d := bits (pw ws 5) 47 0
    let last := d + 256 * (count - 1)
    if segAt f.segs d ≠ segAt f.segs last then none
    else
      match sramCell f.segs d with
      | some c =>
        let near := min count 1024
        if (List.range near).all (fun e => match sramCell f.segs (d + 256 * e) with | some k => ok k | none => false) && ok c
        then some c else none
      | none => none
  | 1 =>
    let (die, row, col, h, w) := placeRect ws
    let used := (List.range (max 1 (min count (h * w)))).map (fun k => (row + k / w, col + k % w))
    if used.all (fun p => decide (p.1 < 32) && decide (p.2 < 32) && ok (cellAt die p.1 p.2)) then some (cellAt die row col) else none
  | _ => if count = 0 then f.ctx.cells.head? else s.freest f

/-- The launch that a processor is linking or sending for the queue it works on. -/
def State.launchAt (s : State) (p : Nat) : Option (Nat × Launch) :=
  match (s.cp p).work with | some q => s.partLaunch q | none => none

/-- LAUNCH: the packet is checked and the root opened; with a parent it is linked there (R337). -/
def State.tryLaunch (s : State) (p : Nat) : Option State :=
  match s.atWork p 1 with
  | none => none
  | some (q, e, ws) =>
    let fail := fun (code : Nat) => some (s.completionError q (.queue q) code ws e.headAddr (fun t => t.consumePacket q))
    let count := bits (pw ws 6) 24 0
    if (s.launchAt p).isSome then none
    else if 2 ^ 24 < count then fail 0x01
    else
      match AL.find s.fields e.field with
      | none => fail 0x06
      | some f =>
        match s.launchHome f ws count with
        | none => if bits (pw ws 6) 28 27 = 2 then none else fail 0x06
        | some h =>
          match s.freeScope h with
          | none => none
          | some k =>
            let parent : BitVec 32 := if bitAt (pw ws 6) 29 then (pw ws 6).extractLsb' 32 32 else 0
            let root := scopeId s.devNum h k
            let s1 := s.setScope root (ScopeRec.opened parent 0 0 e.tenant f.ctx.colour true)
            let l : Launch := ⟨q, p, e.field, ws, e.headAddr, count, h, root,
              if bitAt (pw ws 6) 29 then .linking else .sending 0, false, false⟩
            let s2 := { s1 with launches := AL.put s1.launches s1.nextId l, nextId := s1.nextId + 1 }
            some (if bitAt (pw ws 6) 29 then
                s2.postCtl { Ctl.make .link (s.cpUnit p) (homeOf parent) parent root (.scope root) with value := 1, hub := true }
              else s2)

/-- LAUNCH (R337). -/
def execLaunch (p : Nat) (s : State) : Out := happen s (s.tryLaunch p)

/-- Change a launch. -/
def State.modLaunch (s : State) (x : Nat) (f : Launch → Launch) : State :=
  match AL.find s.launches x with
  | some l => { s with launches := AL.put s.launches x (f l) }
  | none => s

/-- The root is closed, what is held returns to it, and the packet is consumed (R337). -/
def State.launchSent (s : State) (x : Nat) (l : Launch) : State :=
  let r := s.scopeRec l.root
  let s1 := (s.setScope l.root { r with life := .closing }).returnWeight (s.cpUnit l.cp) l.root (2 ^ 40 - l.count * 2 ^ 15) true
  (s1.modLaunch x (fun l => { l with stage := .outstanding })).consumePacket l.queue

/-- The start message of an element (R337). -/
def State.startMessage (s : State) (l : Launch) (f : Field) (e : Nat) (c : Nat) : Msg :=
  { Msg.zero with
    dst := s.gca c, handler := BitVec.ofNat 48 (bits (pw l.packet 0) 63 16), words := (l.packet.drop 1).take 4,
    elem := BitVec.ofNat 24 e, hub := true, src := s.cpUnit l.cp, scope := l.root, w := 2 ^ 15,
    tenant := (s.queue l.queue).tenant, colour := f.ctx.colour, sent := s.time64 }

/-- LAUNCH_START_MESSAGE: the start message of one element; after the last the root is closed. A launch whose parent refused the
link ends with BADSCOPE (R337). One of a paused queue stops between start messages (Table 17-9). -/
def State.tryStartMsg (s : State) (p : Nat) : Option State :=
  match s.launchAt p with
  | some (x, l) =>
    match l.stage, AL.find s.fields l.field with
    | .sending e, some f =>
      let st := (s.queue l.queue).state
      if st = .paused ∨ st = .recovering then none
      else if l.dropped then
        some (s.completionError l.queue (.launch x) 0x05 l.packet l.addr (fun t =>
          ({ t with launches := AL.del t.launches x }.setScope l.root ScopeRec.free).consumePacket l.queue))
      else if l.count ≤ e then some (s.launchSent x l)
      else
        match (if e = 0 then some l.home else s.elementCell f l.packet e) with
        | none => none
        | some c =>
          let s1 := s.post (s.startMessage l f e c)
          let s2 := s1.modCell c (fun y => { y with
            placeFree := if bits (pw l.packet 6) 28 27 = 2 then y.placeFree - 1 else y.placeFree })
          some (if l.count ≤ e + 1 then s2.launchSent x l
            else s2.modLaunch x (fun l => { l with stage := .sending (e + 1) }))
    | _, _ => none
  | none => none

/-- LAUNCH_START_MESSAGE (R337). -/
def execLaunchStartMessage (p : Nat) (s : State) : Out := happen s (s.tryStartMsg p)

/-- A launch has completed; TOLLRUN returns to 0 where the queue has none left (R348). -/
def State.endLaunch (s : State) (x : Nat) (l : Launch) : State :=
  let s1 := { s with launches := AL.del s.launches x }
  if (s1.launchesOf l.queue).isEmpty then s1.modQueue l.queue (fun e => { e with tollrun := 0 }) else s1

/-- The parent's unit returns and the root is unlinked there (R338). -/
def State.returnUnit (s : State) (x : Nat) (l : Launch) : State :=
  let parent : BitVec 32 := (pw l.packet 6).extractLsb' 32 32
  if l.linked then (s.unlinkRoot (s.cpUnit l.cp) parent l.root).modLaunch x (fun l => { l with linked := false }) else s

/-- The completion of a launch: the signal is written, if there is one, and then the launch is complete (R338). -/
def State.writeSignal (s : State) (x : Nat) (l : Launch) : State :=
  if sigAddr l.packet = 0 then s.endLaunch x l
  else s.signal l.queue (.launch x) l.addr
    (writeVaWait (s.whoQueue l.queue (.launch x)) (sigAddr l.packet) (leBytes 8 (sigVal l.packet))) (fun t => t.endLaunch x l)

/-- Has step 1 of a field's recovery been taken (Table 17-11)? -/
def State.recovering (s : State) (f : Nat) : Bool := match AL.find s.recovery f with | some r => r.step != 0 | none => false

/-- LAUNCH_COMPLETE: the report of the root's home is served: the parent's unit returns and the root is unlinked there, and the signal is
written (R338). A report that comes after step 1 of a recovery is discarded (R349). -/
def State.tryLaunchEnd (s : State) (x : Nat) : Option State :=
  match AL.find s.launches x with
  | none => none
  | some l =>
    match l.stage with
    | .emptied =>
      if s.recovering l.field then none
      else some (((s.returnUnit x l).modLaunch x (fun l => { l with stage := .completing })).writeSignal x l)
    | .completing => some (s.writeSignal x l)
    | _ => none

/-- LAUNCH_COMPLETE (R338). -/
def execLaunchComplete (x : Nat) (s : State) : Out := happen s (s.tryLaunchEnd x)

/-! ### The other packets (R339, R340) -/

/-- NOP_PACKET (R340). -/
def execNopPacket (p : Nat) (s : State) : Out := happen s ((s.atWork p 0).map (fun r => s.consumePacket r.1))

/-- WAIT_PACKET: a satisfied WAIT is consumed (R339, R341). -/
def State.tryWait (s : State) (p : Nat) : Option State :=
  match s.atWork p 2 with
  | some (q, e, _) => if e.waitOk then some (s.consumePacket q) else none
  | none => none

/-- WAIT_PACKET (R339). -/
def execWaitPacket (p : Nat) (s : State) : Out := happen s (s.tryWait p)

/-- WAIT_RECHECK: the comparison of a WAITING queue is made again (R339). -/
def State.tryRecheck (s : State) (q : Nat) : Option State :=
  match (s.queue q).state, (s.queue q).packet with
  | .waiting, some ws => some (s.compareWait q ws)
  | _, _ => none

/-- WAIT_RECHECK (R339). -/
def execWaitRecheck (q : Nat) (s : State) : Out := happen s (s.tryRecheck q)

/-- Add to a doubleword as `aadd.d` would, at the atomic engine that serves it (R340). -/
def addWord (w : Who) (va : Nat) (v : Word) : M Unit := do
  let _ ← engineOp w va 8 .atom (.atomic .add false v 0)
  pure ()

/-- SIGNAL_PACKET: a store or an atomic add with a release (R340). -/
def State.trySignal (s : State) (p : Nat) : Option State :=
  (s.atWork p 3).map (fun r =>
    let ws := r.2.2
    let va := bits (pw ws 1) 47 0
    let w := s.whoQueue r.1 (.queue r.1)
    s.signal r.1 (.queue r.1) r.2.1.headAddr
      (if bitAt (pw ws 0) 9 then addWord w va (pw ws 2) else writeVaWait w va (leBytes 8 (pw ws 2).toNat))
      (fun t => t.consumePacket r.1))

/-- SIGNAL_PACKET (R340). -/
def execSignalPacket (p : Nat) (s : State) : Out := happen s (s.trySignal p)

/-- FENCE_PACKET: the launches are complete that the named queues had consumed when it was reached (R340). -/
def State.tryFence (s : State) (p : Nat) : Option State :=
  match s.atWork p 4 with
  | some (q, e, _) => if s.fenceDone e then some (s.consumePacket q) else none
  | none => none

/-- FENCE_PACKET (R340). -/
def execFencePacket (p : Nat) (s : State) : Out := happen s (s.tryFence p)

/-! ### Reports, ageing and the toll timer (R336, R341, R342, R348) -/

/-- FREE_SLOT_REPORT: a cell reports its free frame slots to the master distributor (R336). -/
def execFreeSlotReport (c : Nat) (s : State) : Out :=
  .next (s.modCell c (fun y => { y with placeFree := ((s.freeFrames c).length : Int) }))

/-- The WAIT of a queue that has been reached and is neither satisfied nor abandoned, whether the queue is WAITING, PARKED on the page of
its signal, PAUSED or stopped by an error (R342, R343). -/
def State.unsatisfied (s : State) (q : Nat) (e : QueueEntry) : Option (List Word) :=
  match e.packet with
  | some ws =>
    if bits (pw ws 0) 7 0 = 2 ∧ hostPacketOk ws = true ∧ e.waitOk = false ∧ e.state ≠ .ready ∧ s.barrierOk q ws = true then some ws
    else none
  | none => none

/-- Levels lent by queues with an unsatisfied WAIT, one link of a chain at a time: each lends the level that it had before (R342). -/
def State.relend : Nat → State → State
  | 0, s => s
  | n + 1, s =>
    State.relend n (s.queues.foldl (fun (t : State) (q : Nat × QueueEntry) =>
      match s.unsatisfied q.1 q.2 with
      | some ws =>
        if bitAt (pw ws 0) 12 then
          (t.lend q.2.eff ws).modQueue (bits (pw ws 0) 28 16) (fun e =>
            { e with eff := max (e.prio + e.raise) (if e.lentv then e.lent else 0) })
        else t
      | none => t) s)

/-- Does TOLLRUN of a queue count: a launch is outstanding, its field is not stopped, and no fence waits (R348, R351, R396)? -/
def State.tollCounts (s : State) (q : Nat) (e : QueueEntry) : Bool :=
  !(s.launchesOf q).isEmpty && !AL.has s.recovery e.field &&
  match AL.find s.fields e.field with | some f => f.mode != .stopping | none => true

/-- One microsecond of a queue. -/
def State.ageQueue (s : State) (q : Nat) (e : QueueEntry) : QueueEntry :=
  let ages := (e.state == .ready && !e.taken) || e.state == .parked
  let run : BitVec 32 := if ages then e.agerun + 1 else e.agerun
  let up := ages && e.age != 0 && decide (e.age.toNat ≤ run.toNat)
  let raise := if up then min (e.raise + 1) (7 - e.prio) else e.raise
  { e with
    agerun := if up then 0 else run, raise := raise, taken := false, lent := 0, lentv := false, eff := e.prio + raise,
    tollrun := if (s.launchesOf q).isEmpty then 0 else if s.tollCounts q e then e.tollrun + 1 else e.tollrun,
    asked := if !e.expired then 0 else if s.firmware.changing then e.asked else e.asked + 1 }

/-! ### Policy plug-ins (R348, R421) -/

/-- The hart on which the plug-ins of a tenant run: 6 or 7 (R421; which of the two, log 14). -/
def plugHart (tenant : Nat) : Nat := 6 + tenant % 2

/-- What a plug-in is granted: its code (X), its data (R and W) and its mailbox (R and W), and nothing else (R421; log 14). -/
def plugPmp (tenant : Nat) : List PmpEntry :=
  [⟨Config.grant tenant 0, Config.grant tenant 1, false, false, true⟩, ⟨Config.grant tenant 2, Config.grant tenant 3, true, true, false⟩,
   ⟨Config.grant tenant 4, Config.grant tenant 5, true, true, false⟩] ++ List.replicate 13 PmpEntry.empty

/-- The plug-in of a tenant runs on its hart from the start of its image, under its own protection entries (R421). -/
def State.runPlugin (s : State) (tenant : Nat) : State :=
  { s with harts := AL.put s.harts (plugHart tenant) { Hart.reset with
      mode := .user, pc := Config.grant tenant 6, pmp := plugPmp tenant, plug := some (tenant, 0) } }

/-- A hart without a plug-in runs that of the first queue, by number, whose expiry waits for a verdict there (R348, R421). -/
def State.nextPlugin (s : State) (k : Nat) : State :=
  match AL.find s.harts k with
  | some h =>
    match h.plug, s.queues.find? (fun q => q.2.expired && plugHart q.2.tenant.toNat == k) with
    | none, some q => s.runPlugin q.2.tenant.toNat
    | _, _ => s
  | none => s

/-- The plug-in of a tenant, if it runs, yields: its hart holds no grant of it any more, and takes up the next (R421). -/
def State.yieldPlugin (s : State) (tenant : Nat) : State :=
  let k := plugHart tenant
  match AL.find s.harts k with
  | some h =>
    if (h.plug.map Prod.fst) = some tenant then
      { s with harts := AL.put s.harts k { h with pmp := List.replicate 16 PmpEntry.empty, plug := none } }.nextPlugin k
    else s
  | none => s

/-- A microsecond of a plug-in that has not yielded (R421). -/
def Hart.tick (h : Hart) : Hart := { h with plug := h.plug.map (fun p => (p.1, p.2 + 1)) }

/-- AGEING_TICK: AGERUN, RAISE, LENT, EFF and TOLLRUN of every queue (R341, R342, R348), and the time of the plug-ins (R421). -/
def execAgeingTick (s : State) : Out :=
  .next (State.relend 8 { s with
    queues := s.queues.map (fun q => (q.1, s.ageQueue q.1 q.2)), harts := s.harts.map (fun h => (h.1, h.2.tick)) })

/-- TOLL_EXPIRY: TOLLRUN has reached TOLL; the plug-in of the tenant is asked (R348). -/
def State.tryExpiry (s : State) (q : Nat) : Option State :=
  let e := s.queue q
  if e.toll ≠ 0 ∧ e.toll.toNat ≤ e.tollrun.toNat ∧ e.expired = false ∧ !AL.has s.recovery e.field ∧ s.launchesOf q ≠ [] then
    let s1 := s.modQueue q (fun e => { e with expired := true, asked := 0 })
    some (if s.firmware.changing then s1 else s1.nextPlugin (plugHart e.tenant.toNat))
  else none

/-- TOLL_EXPIRY (R348). -/
def execTollExpiry (q : Nat) (s : State) : Out := happen s (s.tryExpiry q)

/-- TOLL_EXTEND: TOLL rises by n, and counting goes on (R348). -/
def State.tryExtend (s : State) (q n : Nat) : Option State :=
  let e := s.queue q
  if e.expired ∧ s.firmware.changing = false then
    some ((s.modQueue q (fun e => { e with toll := e.toll + BitVec.ofNat 32 n, expired := false, asked := 0 })).yieldPlugin e.tenant.toNat)
  else none

/-- TOLL_EXTEND (R348). -/
def execTollExtend (q n : Nat) (s : State) : Out := happen s (s.tryExtend q n)

/-- A verdict of recover: the field's recovery begins, if the queue still has an outstanding launch (R349). -/
def State.tryRecover (s : State) (q : Nat) : Option State :=
  let e := s.queue q
  if !e.expired || s.firmware.changing then none
  else
    let s1 := s.modQueue q (fun e => { e with expired := false, asked := 0 })
    if (s.launchesOf q).isEmpty || AL.has s.recovery e.field then some s1
    else some { s1 with recovery := AL.put s1.recovery e.field ⟨2, some q, 0, [], []⟩ }

/-- TOLL_RECOVER: the plug-in has given its verdict, and yields (R349, R421). -/
def execTollRecover (q : Nat) (s : State) : Out :=
  happen s ((s.tryRecover q).map (fun t => t.yieldPlugin (s.queue q).tenant.toNat))

/-- PLUGIN_TIMEOUT: no answer within 1,000 µs counts as recover (R348). -/
def State.tryPluginTimeout (s : State) (q : Nat) : Option State :=
  if 1000 ≤ (s.queue q).asked.toNat then s.tryRecover q else none

/-- PLUGIN_TIMEOUT (R348). -/
def execPluginTimeout (q : Nat) (s : State) : Out := happen s (s.tryPluginTimeout q)

end Sys2Proof.Machine
end

