-- ==== Sys2Proof/Machine/Transport.lean ====
section
/-! DEFINITION. The Ultra Ethernet transport engine (spec 18, R371 to R380): the transfer instructions, the life of a transfer,
and what arrives from peers. -/

namespace Sys2Proof.Machine

/-! ### The transfer descriptor (R376) -/

/-- A transfer descriptor (Table 18-10). -/
structure XferDesc where
  laddr  : Addr
  length : Nat
  mode   : Nat
  peer   : Nat
  cls    : MemClass
  bell   : Nat
  bellen : Bool
  relsc  : SyncScope
  tagged : Bool
  roff   : Word
  rkey   : BitVec 32
  scope  : BitVec 32
  chand  : Word
  cwords : List Word
  sync   : Addr
  deriving DecidableEq, Repr

/-- A descriptor read from its 128 bytes. -/
def xferDescOf (bs : List Byte) : XferDesc :=
  let ctl := word (fieldAt bs 0x10 8)
  { laddr := lo48 (word (fieldAt bs 0 8)), length := fieldAt bs 8 4, mode := bits ctl 49 48, peer := bits ctl 47 34,
    cls := match bits ctl 33 32 with | 0 => .o | 1 => .a | _ => .v,
    bell := bits ctl 31 29, bellen := bitAt ctl 28,
    relsc := match bits ctl 27 26 with | 0 => .cell | 1 => .die | 2 => .device | _ => .system,
    tagged := bitAt ctl 25, roff := word (fieldAt bs 0x18 8), rkey := BitVec.ofNat 32 (fieldAt bs 0x24 4),
    scope := BitVec.ofNat 32 (fieldAt bs 0x20 4), chand := word (fieldAt bs 0x28 8),
    cwords := (List.range 4).map (fun i => word (fieldAt bs (0x30 + 8 * i) 8)),
    sync := lo48 (word (fieldAt bs 0x50 8)) }

/-- Does a descriptor keep Table 18-10 and the checks of R377? -/
def xferOk (k : XferKind) (bs : List Byte) : Bool :=
  let d := xferDescOf bs
  let ctl := word (fieldAt bs 0x10 8)
  fieldAt bs 6 2 == 0 && fieldAt bs 12 4 == 0 && bits ctl 63 50 == 0 && bits ctl 24 0 == 0 && bits ctl 33 32 != 3 &&
  fieldAt bs 0x56 2 == 0 && (bs.drop 0x58).all (fun b => b == 0) && d.sync.toNat % 16 == 0 &&
  decide (1 ≤ d.length) && (k != .send || decide (d.length ≤ 2 ^ 24)) && d.mode != 3 && !(k == .read && d.mode == 2) &&
  (!d.tagged || k == .send) && (k != .send || d.tagged || d.roff == 0) &&
  decide (d.laddr.toNat + d.length ≤ 2 ^ 48) &&
  (d.chand == 0 || (handlerWordOk d.chand && !bitAt d.chand 56))

/-! ### `nsend`, `nwrite`, `nread` (R377) -/

/-- A peer table entry. -/
def State.peer (s : State) (p : Nat) : Peer := AL.get Peer.reset s.peers p

/-- May the field of a cell use a peer (R372)? -/
def State.peerOk (s : State) (c p : Nat) : Bool :=
  (s.peer p).valid && match s.fieldOf c with | some f => (s.peer p).ctxid == f.ctx.ctxid | none => false

/-- Transfers of one cell that the engine holds at most (R377). -/
def transferLimit : Nat := 16

/-- A transfer as it is passed to the engine. -/
def XferDesc.start (d : XferDesc) (k : XferKind) (s : State) (c : Ctx) (sc : BitVec 32) (w : Nat) : Transfer :=
  { id := s.copyIdent c.cell, kind := k, cell := c.cell, act := (s.fr c).act, naming := (s.actC c).naming,
    field := (s.cell c.cell).field, scope := sc, w := w, site := c.site, laddr := d.laddr, length := d.length, mode := d.mode,
    peer := d.peer, cls := d.cls, bell := d.bell, bellen := d.bellen, relsc := d.relsc, tagged := d.tagged, roff := d.roff,
    rkey := d.rkey, chand := d.chand, cwords := d.cwords, sync := d.sync, started := false, sent := 0, acked := 0, inAir := 0,
    port := 0, outcome := 0, ended := false }

/-- The body of a transfer instruction (R377). -/
def transferBody (k : XferKind) (c : Ctx) (d a : Int) (s : State) : Issued :=
  let s := s.marked c
  withBlock c (lo48 (s.reg c a)) 128 (s.pendOf c) s fun p s =>
    let x := xferDescOf p.data
    let act := s.actC c
    let sc := if x.scope = 0 then act.naming.scope else x.scope
    if !xferOk k p.data then status s c d 5
    else if p.stage = 0 ∧ (holdingOf act.holdings sc).isNone then status s c d 2
    else if x.sync ≠ 0 ∧ !syncSram (s.segsOf c.cell) x.sync.toNat then status s c d 6
    else if !s.peerOk c.cell x.peer then status s c d 7
    else
      cancelPoint c sc p s (fun s => status s c d 1) fun p s =>
        if transferLimit ≤ (s.transfers.filter (fun t => t.2.cell == c.cell)).length then .stall (s.setPend c p)
        else
          mintPoint c sc 1 p s (fun s => status s c d 1) fun p s =>
            if !s.olderSent c then .stall (s.setPend c p)
            else
              let r := s.split c sc
              let t := x.start k r.2 c sc r.1
              let s1 := { r.2 with transfers := AL.put r.2.transfers r.2.nextId t, nextId := r.2.nextId + 1 }
              .ok ((s1.modCell c.cell (fun y => { y with copyCtr := y.copyCtr + 1 })).setReg c d (word (2 ^ 32 + t.id.toNat)))

/-- A transfer instruction. -/
def transferInstr (k : XferKind) (r : Rel) (d a : RegNum) (s : State) : Out :=
  withGroup s fun c =>
    let D := s.regNo c r d; let A := s.regNo c r a
    issue s c .leader [D, A] [D] (transferBody k c D A)

/-- R377. -/
def execNsend (r : Rel) (d a : RegNum) (s : State) : Out := transferInstr .send r d a s
/-- R377. -/
def execNwrite (r : Rel) (d a : RegNum) (s : State) : Out := transferInstr .write r d a s
/-- R377. -/
def execNread (r : Rel) (d a : RegNum) (s : State) : Out := transferInstr .read r d a s

/-! ### Delivery contexts (R372, R380) -/

/-- A delivery context. Window and round trip are the standard's, which the manual does not give (log 15); a window is never all
ones (R380). -/
def State.deliveryOf (s : State) (c : Nat) : Delivery :=
  AL.get ⟨word ((Config.nscc c 0).toNat % (2 ^ 64 - 1)), Config.nscc c 1, 0, 0, 0, none⟩ s.delivery c

/-- `ncst` (R380). -/
def ncstBody (c : Ctx) (d a : Int) (s : State) : Issued :=
  let v := s.reg c a
  let n := bits v 15 0
  let put := fun (w0 w1 w2 w3 : Word) =>
    Issued.ok ((((s.setReg c d w0).setReg c (d + 1) w1).setReg c (d + 2) w2).setReg c (d + 3) w3)
  if bits v 63 16 ≠ 0 ∨ !s.peerOk c.cell (n / 4) then put (BitVec.allOnes 64) 0 0 0
  else
    let x := s.deliveryOf n
    put x.cwnd x.rtt (x.ecn.setWidth 64) x.trimmed

/-- R380. -/
def execNcst (r : Rel) (d a : RegNum) (s : State) : Out :=
  withGroup s fun c =>
    let D := s.regNo c r d; let A := s.regNo c r a
    issue s c .leader [D, D + 1, D + 2, D + 3, A] [D, D + 1, D + 2, D + 3] (ncstBody c D A)

/-- A delivery context after an acknowledgement: the marked fraction moves by a sixteenth of its distance, truncated (R380). -/
def Delivery.ack (x : Delivery) (tick : Nat) (marked trimmed : Bool) : Delivery :=
  let m : Int := if marked then 65535 else 0
  { x with
    cwnd := word ((Config.nscc tick 0).toNat % (2 ^ 64 - 1)), rtt := Config.nscc tick 1,
    ecn := BitVec.ofInt 16 ((x.ecn.toNat : Int) + (m - (x.ecn.toNat : Int)).tdiv 16),
    trimmed := x.trimmed + word (flag trimmed) }

/-! ### The life of a transfer (R377 to R379) -/

/-- Change a transfer, if it lives. -/
def State.modTransfer (s : State) (x : Nat) (f : Transfer → Transfer) : State :=
  match AL.find s.transfers x with
  | some t => { s with transfers := AL.put s.transfers x (f t) }
  | none => s

/-- The transport engine as a unit (Table 7-15). -/
def State.xportUnit (s : State) : BitVec 24 := s.devNum ++ (0x020 : BitVec 12)

/-- On whose behalf the engine reaches LADDR: in the issuing cell's address space (R175, R377). -/
def State.whoTransfer (s : State) (x : Nat) (t : Transfer) : Who :=
  { log := .transport, cell := t.cell, field := t.field,
    segs := (match AL.find s.fields t.field with | some f => f.segs | none => []), window := some t.cell,
    lines := s.linesOf (.transfer x), wrote := s.wroteOf (.transfer x), site := t.site, cls := t.cls, opR := 6, opW := 6, size := some 5,
    issuer := .transfer x, src := s.xportUnit, by_ := some ⟨s.xportUnit, 0, 0, t.cls, false, true, none⟩, req := .transfer x }

/-- TRANSFER_START: the engine has received a transfer; those of one cell come in their order (R377). -/
def State.tryXferStart (s : State) (x : Nat) : Option State :=
  match AL.find s.transfers x with
  | none => none
  | some t =>
    if t.started || s.transfers.any (fun p => decide (p.1 < x) && p.2.cell == t.cell && !p.2.started) then none
    else some (s.modTransfer x (fun t => { t with started := true }))

/-- TRANSFER_START (R377). -/
def execTransferStart (x : Nat) (s : State) : Out := happen s (s.tryXferStart x)

/-- Bytes of a packet at most (R371). -/
def payloadMax : Nat := 4096

/-- The Ethernet port of packet `n`: RUD and UUD go round the peer's ports, ROD uses the lowest (R371). -/
def xferPort (ports : BitVec 8) (mode n : Nat) : Nat :=
  let ps := (List.range 8).filter (fun p => ports.getLsbD p)
  if mode = 1 then ps.headD 0 else (ps[n % ps.length]?).getD 0

/-- The next packet of a transfer, of `n` bytes, as it is given to its Ethernet port (R371). -/
def State.etherPacket (s : State) (x : Nat) (t : Transfer) (n : Nat) (data : List Byte) : EtherPacket :=
  { port := xferPort (s.peer t.peer).ports t.mode (t.sent / payloadMax), xfer := x, peer := t.peer, mode := t.mode,
    jobid := (s.peer t.peer).jobid, kind := t.kind, tag := if t.tagged then some t.roff else none, key := t.rkey,
    off := if t.kind = .send then t.sent else t.roff.toNat + t.sent, total := if t.kind = .read then n else t.length, data := data }

/-- The packet leaves: its bytes are in the air. -/
def State.etherSend (s : State) (x n : Nat) (p : EtherPacket) : State :=
  { ((s.endWait (.transfer x)).modTransfer x (fun t => { t with sent := t.sent + n, inAir := t.inAir + n, port := p.port })) with
    ether := s.ether ++ [p] }

/-- TRANSFER_PACKET_SEND: the next packet, unless the transfer is cancelled, which stops it before the packet (R371, R379). -/
def State.tryXferSend (s : State) (x : Nat) : Option State :=
  match AL.find s.transfers x with
  | none => none
  | some t =>
    if !t.started || t.outcome != 0 || decide (t.length ≤ t.sent) || s.isWaiting (.transfer x) then none
    else if s.xportCancels.contains t.scope then some (s.modTransfer x (fun t => { t with outcome := 1 }))
    else
      let n := min payloadMax (t.length - t.sent)
      let go := fun (data : List Byte) (u : State) => some (u.etherSend x n (u.etherPacket x t n data))
      if t.kind = .read then go [] s
      else
        match s.waitOf (.transfer x) with
        | .refused e => some ((s.endWait (.transfer x)).transferRefusal x e)
        | _ =>
          match (readVa (s.whoTransfer x t) (t.laddr.toNat + t.sent) n .r).exec s with
          | (.ok bs, u) => go bs u
          | (.error (.refused e), u) => some (u.transferRefusal x e)
          | (.error (.poison a g), u) => some (u.stopFor (.transfer x) t.cell t.field (.poison a g))
          | (.error e, _) => some (s.stopFor (.transfer x) t.cell t.field e)

/-- TRANSFER_PACKET_SEND (R371). -/
def execTransferPacketSend (x : Nat) (s : State) : Out := happen s (s.tryXferSend x)

/-- A credit of a transfer to its initiator's sync word (R378). -/
def State.creditTransfer (s : State) (x n : Nat) (t : Transfer) : State :=
  if t.sync = 0 ∨ n = 0 then s
  else
    { s with
      credits := AL.put s.credits s.nextId ⟨none, t.cell, t.field, t.sync, n, true, t.scope, .wake x, t.naming, 0⟩
      nextId := s.nextId + 1 }

/-- TRANSFER_ACK: an acknowledgement updates the delivery context and credits the sync word with its bytes; of a trimmed packet
no byte has come (R378, R380). -/
def State.tryXferAck (s : State) (x bytes : Nat) (marked trimmed : Bool) : Option State :=
  match AL.find s.transfers x with
  | none => none
  | some t =>
    let c := 4 * t.peer + t.mode
    let s1 := { s with delivery := AL.put s.delivery c ((s.deliveryOf c).ack s.tick marked trimmed) }
    let n := if trimmed || t.kind == .read then 0 else min bytes t.inAir
    some ((s1.modTransfer x (fun t => { t with acked := t.acked + n, inAir := t.inAir - n })).creditTransfer x n t)

/-- TRANSFER_ACK (R378). -/
def execTransferAck (x bytes : Nat) (marked trimmed : Bool) (s : State) : Out := happen s (s.tryXferAck x bytes marked trimmed)

/-- RMA_READ_RESPONSE: data of an `nread` is placed at LADDR and, once performed there, credited (R378). -/
def State.tryReadData (s : State) (x off : Nat) (data : List Byte) : Option State :=
  match AL.find s.transfers x with
  | none => none
  | some t =>
    let n := data.length
    if t.kind ≠ .read ∨ t.inAir < n ∨ t.length < off + n ∨ s.isWaiting (.transfer x) then none
    else
      match s.waitOf (.transfer x) with
      | .refused e =>
        some (((s.endWait (.transfer x)).modTransfer x (fun t => { t with inAir := t.inAir - n })).transferRefusal x e)
      | _ =>
        match (writeVaWait (s.whoTransfer x t) (t.laddr.toNat + off) data).exec s with
        | (.ok _, u) =>
          some (((u.endWait (.transfer x)).modTransfer x (fun t => { t with acked := t.acked + n, inAir := t.inAir - n })).creditTransfer
            x n t)
        | (.error (.refused e), u) =>
          some ((u.modTransfer x (fun t => { t with inAir := t.inAir - n })).transferRefusal x e)
        | (.error (.poison a g), u) => some (u.stopFor (.transfer x) t.cell t.field (.poison a g))
        | (.error e, _) => some (s.stopFor (.transfer x) t.cell t.field e)

/-- RMA_READ_RESPONSE (R378). -/
def execRmaReadResponse (x off : Nat) (data : List Byte) (s : State) : Out := happen s (s.tryReadData x off data)

/-- The completion message of a transfer (R264, R378). -/
def State.xferMessage (s : State) (t : Transfer) : Msg :=
  { Msg.zero with
    dst := s.gca t.cell, handler := lo48 t.chand, words := t.cwords, elem := BitVec.ofNat 24 t.outcome,
    stage := t.chand.extractLsb' 52 4, tag := t.chand.extractLsb' 48 4, hub := true, src := s.xportUnit, scope := t.scope,
    tenant := t.naming.tenant, colour := t.naming.colour, sent := s.time64, xferId := t.id }

/-- Has a transfer done all it will: complete, or stopped with nothing in the air (R378, R379)? -/
def Transfer.quiet (t : Transfer) : Bool :=
  if t.outcome != 0 then t.inAir == 0
  else if t.mode = 2 then decide (t.length ≤ t.sent)
  else decide (t.length ≤ t.acked)

/-- TRANSFER_COMPLETE, a step at a time in the order of R264: bell arrival and completion message, then the weight once its
delivery context holds no packet of it (R378). -/
def State.tryXferEnd (s : State) (x : Nat) : Option State :=
  match AL.find s.transfers x with
  | none => none
  | some t =>
    let away := s.flights.any (fun f => f.2.issuer == .transfer x)
    if !t.ended then
      if !t.started || !t.quiet || s.credits.any (fun k => k.2.holder == .wake x && k.2.copy.isNone && k.2.hub) ||
          (t.relsc == .system && away) then none
      else
        let s1 := if t.bellen then s.postArrival (dieOf t.cell) t.bell (some t.field) else s
        let s2 := if t.chand = 0 then s1
          else s1.postWake ⟨s1.xferMessage t, none, some x, none, false, false, false, true⟩
        some (s2.modTransfer x (fun t => { t with ended := true }))
    else if t.inAir != 0 || away || s.wakes.any (fun w => w.2.xfer == some x) then none
    else some ({ (s.endWait (.transfer x)) with transfers := AL.del s.transfers x }.returnWeight s.xportUnit t.scope t.w true)

/-- TRANSFER_COMPLETE (R378). -/
def execTransferComplete (x : Nat) (s : State) : Out := happen s (s.tryXferEnd x)

/-- The engine's log entry of a refusal by the target or of exhausted retries; the manual names no violation kind for them, WINDOW
stands for both (R379; log 29). -/
def State.logXfer (s : State) (t : Transfer) : State :=
  s.logAt .transport ⟨t.laddr, 7, t.cls, 6, 5, s.gca t.cell, s.time24⟩

/-- TRANSFER_REFUSED: a refusal by the target ends the transfer with outcome 2; the refused packet's bytes are no longer in the air
(R379). -/
def State.tryXferRefused (s : State) (x bytes : Nat) : Option State :=
  match AL.find s.transfers x with
  | none => none
  | some t =>
    if t.inAir = 0 then none
    else some ((s.logXfer t).modTransfer x (fun t => { t with
      outcome := if t.outcome = 0 then 2 else t.outcome, inAir := t.inAir - bytes }))

/-- TRANSFER_REFUSED (R379). -/
def execTransferRefused (r : RefusedBytes) (s : State) : Out := happen s (s.tryXferRefused r.xfer r.bytes)

/-- RETRY_LIMIT: under RUD and ROD the transfer ends with outcome 2; under UUD the packets are given up (R378, R379). -/
def State.tryRetry (s : State) (x : Nat) : Option State :=
  match AL.find s.transfers x with
  | none => none
  | some t =>
    if t.inAir = 0 then none
    else if t.mode = 2 then some (s.modTransfer x (fun t => { t with inAir := 0 }))
    else some ((s.logXfer t).modTransfer x (fun t => { t with
      outcome := if t.outcome = 0 then 2 else t.outcome, inAir := 0 }))

/-- RETRY_LIMIT (R379). -/
def execRetryLimit (x : Nat) (s : State) : Out := happen s (s.tryRetry x)

/-! ### Arrivals from peers (R373, R374) -/

/-- A region that an arriving operation may use: its key, its context and its permission hold (R373). -/
def State.regionFor (s : State) (peer : Nat) (key : BitVec 32) (write : Bool) : Option (Field × Region) :=
  let p := s.peer peer
  if !p.valid then none
  else
    match s.fieldByCtx p.ctxid with
    | none => none
    | some f =>
      let r := AL.get Region.reset s.regions (4096 * f.ctx.field + key.toNat % 4096)
      if r.valid && r.check == key.extractLsb' 12 20 && r.ctxid == p.ctxid && (if write then r.w else r.r) then some (f, r)
      else none

/-- On whose behalf the engine reaches a region for a packet of a delivery context: class-O writes of the hub die (R374). -/
def State.whoRegion (s : State) (c : Nat) (f : Field) : Who :=
  { log := .transport, cell := f.ctx.cells.headD 0, field := f.ctx.field, segs := f.segs, window := none,
    lines := s.linesOf (.arrival c), wrote := s.wroteOf (.arrival c), site := Site.zero, cls := .o, opR := 6, opW := 6,
    size := some 5, issuer := .hub unitXport, src := s.xportUnit, by_ := some ⟨s.xportUnit, 0, 0, .o, false, true, none⟩,
    req := .arrival c }

/-- The engine has done with a packet of a delivery context, placed or refused; under ROD the next of its order may come (R374). -/
def State.arrivalDone (s : State) (c : Nat) : State :=
  let s1 := s.endWait (.arrival c)
  let x := s.deliveryOf c
  if c % 4 = 1 then { s1 with delivery := AL.put s.delivery c { x with next := x.next + 1, held := none } }
  else if x.held.isSome then { s1 with delivery := AL.put s.delivery c { x with held := none } }
  else s1

/-- The engine holds a packet that cannot go on yet; the peer sends it again until it can (log 30). -/
def State.holdArrival (s : State) (c : Nat) (a : Arrival) (stage : Nat) : State :=
  { s with delivery := AL.put s.delivery c { s.deliveryOf c with held := some (a, stage) } }

/-- Carry out the memory part of an arrival; a refusal is the transport's negative acknowledgement to the initiator, who is
outside this device. -/
def State.arrive {α : Type} (s : State) (c : Nat) (a : Arrival) (stage : Nat) (f : Field) (m : M α) (go : α → State → State) :
    State :=
  match m.exec s with
  | (.ok x, t) => go x (t.endWait (.arrival c))
  | (.error (.refused _), t) => t.arrivalDone c
  | (.error (.other _), t) => t.arrivalDone c
  | (.error (.poison p g), t) => (t.consume p s.xportUnit (some f.ctx.field) g).arrivalDone c
  | (.error e, _) => (s.holdArrival c a stage).stopFor (.arrival c) (f.ctx.cells.headD 0) f.ctx.field e

/-- The credit of an arrival (R374). -/
def State.creditRegion (s : State) (f : Field) (r : Region) (n : Nat) : State :=
  if r.sync = 0 ∨ n = 0 then s
  else
    { s with
      credits := AL.put s.credits s.nextId
        ⟨none, f.ctx.cells.headD 0, f.ctx.field, r.sync, n, true, 0, .none, Naming.zero, 0⟩
      nextId := s.nextId + 1 }

/-- The die that holds BASE (Table 18-9), whatever the segment's permissions; of a BASE in no die's SRAM, the die of the field's first
cell (log 69). -/
def baseDie (f : Field) (r : Region) : Nat :=
  let first := dieOf (f.ctx.cells.headD 0)
  match regionOf f.segs r.base.toNat with
  | .seg i =>
    match f.segs[i]? with
    | some g => (match g.target r.base.toNat with | .sram a => dieOf ((ownerCell a).getD 0) | _ => first)
    | none => first
  | _ => first

/-- The external arrival of a completed message (R374). -/
def State.arrivalBell (s : State) (f : Field) (r : Region) : State :=
  if r.bellen then s.postArrival (baseDie f r) r.bell (some f.ctx.field) else s

/-- Bytes of a ring record (R373). -/
def recordSize (total : Nat) : Nat := 32 + (total + 31) / 32 * 32

/-- Reserve a record: a pad record where it would not fit before the end, the header with its length still zero, and WR (R373, R374;
log 30). -/
def reserveRecord (w : Who) (r : Region) (peer : Nat) (tag : Word) (total : Nat) : M (Option Nat) := do
  let wr ← readWord w r.base.toNat .r
  let rd ← readWord w (r.base.toNat + 8) .r
  let cap := r.length - 64
  let size := recordSize total
  let pos := wr.toNat % cap
  let pad := if cap < pos + size then cap - pos else 0
  if cap = 0 ∨ cap < (wr - rd).toNat + size then pure none
  else
    let at_ := if pad = 0 then pos else 0
    if pad ≠ 0 then writeVaWait w (r.base.toNat + 64 + pos) (leBytes 4 0xFFFFFFFF)
    writeVaWait w (r.base.toNat + 64 + at_) (leBytes 8 0 ++ leBytes 8 tag.toNat ++ leBytes 8 peer ++ leBytes 8 0)
    writeVaWait w r.base.toNat (leBytes 8 (wr.toNat + pad + size))
    pure (some at_)

/-- Is a message being placed the one of a peer, a key and a number? -/
def Inbound.is (j : Inbound) (peer : Nat) (key : BitVec 32) (msg : Nat) : Bool := j.peer == peer && j.key == key && j.msg == msg

/-- The length of a record, written last, once every byte of the message is placed, and the bell arrival (R374). -/
def State.endRecord (s : State) (c : Nat) (a : Arrival) (f : Field) (r : Region) (i : Inbound) : State :=
  s.arrive c a 2 f (writeVaWait (s.whoRegion c f) (r.base.toNat + 64 + i.record) (leBytes 4 i.total)) fun _ t =>
    ({ t with inbound := t.inbound.filter (fun (j : Inbound) => !j.is i.peer i.key i.msg) }.arrivalBell f r).arrivalDone c

/-- The payload of a packet of a send: placed in the message's record and credited (R374). -/
def State.fillRecord (s : State) (c : Nat) (a : Arrival) (f : Field) (r : Region) (i : Inbound) (off : Nat) (data : List Byte) : State :=
  s.arrive c a 1 f (writeVaWait (s.whoRegion c f) (r.base.toNat + 64 + i.record + 32 + off) data) fun _ t =>
    let i1 := { i with left := i.left - data.length }
    let t1 := { t with inbound := t.inbound.filter (fun (j : Inbound) => !j.is i.peer i.key i.msg) ++ [i1] }.creditRegion f r data.length
    if i1.left = 0 then t1.endRecord c a f r i1 else t1.arrivalDone c

/-- Place a packet in its region; `stage` says how far it has come. What the region does not admit is refused (R373, R374). -/
def State.place (s : State) (c peer stage : Nat) (a : Arrival) : State :=
  match a with
  | .write key off data last =>
    match s.regionFor peer key true with
    | none => s.arrivalDone c
    | some (f, r) =>
      if r.length < off + data.length then s.arrivalDone c
      else
        s.arrive c a 1 f (writeVaWait (s.whoRegion c f) (r.base.toNat + off) data) fun _ t =>
          let u := t.creditRegion f r data.length
          (if last then u.arrivalBell f r else u).arrivalDone c
  | .read key off len =>
    match s.regionFor peer key false with
    | none => s.arrivalDone c
    | some (f, r) =>
      if r.length < off + len then s.arrivalDone c
      else
        s.arrive c a 1 f (readVa (s.whoRegion c f) (r.base.toNat + off) len .r) fun bs t =>
          { t with readout := bytesWords ((len + 7) / 8) bs }.arrivalDone c
  | .send key tag msg total off data =>
    match s.regionFor peer key true with
    | none => s.arrivalDone c
    | some (f, r) =>
      if !r.ring || decide (r.length ≤ 64) || decide (total < off + data.length) then s.arrivalDone c
      else
        match s.inbound.find? (fun (j : Inbound) => j.is peer key msg) with
        | some i => if stage = 2 then s.endRecord c a f r i else s.fillRecord c a f r i off data
        | none =>
          s.arrive c a 0 f (reserveRecord (s.whoRegion c f) r peer tag total) fun p t =>
            match p with
            | none => t.arrivalDone c
            | some k =>
              let i : Inbound := ⟨peer, key, msg, k, total, total⟩
              { t with inbound := t.inbound ++ [i] }.fillRecord c a f r i off data

/-- A packet arrives from a peer in a mode: under ROD it is the next in order, and while the context holds a packet it is that one.
A page refused is a negative acknowledgement as well (R372 to R374). -/
def State.tryArrival (s : State) (p : PeerPacket) (a : Arrival) : Option State :=
  let c := 4 * p.peer + p.mode
  let x := s.deliveryOf c
  if 3 ≤ p.mode ∨ (p.mode = 1 ∧ p.seq ≠ x.next) ∨ s.isWaiting (.arrival c) = true then none
  else
    match s.waitOf (.arrival c), x.held with
    | .refused _, some (b, _) => if a = b then some (s.arrivalDone c) else none
    | _, some (b, k) => if a = b then some (s.place c p.peer k a) else none
    | _, none => some (s.place c p.peer 0 a)

/-- RMA_WRITE (R373). -/
def execRmaWrite (p : PeerPacket) (key : BitVec 32) (off : Nat) (data : List Byte) (last : Bool) (s : State) : Out :=
  happen s (s.tryArrival p (.write key off data last))

/-- RMA_READ (R373). -/
def execRmaRead (p : PeerPacket) (key : BitVec 32) (off len : Nat) (s : State) : Out :=
  happen s (s.tryArrival p (.read key off len))

/-- SEND (R373). -/
def execSend (p : PeerPacket) (key : BitVec 32) (msg total off : Nat) (data : List Byte) (s : State) : Out :=
  happen s (s.tryArrival p (.send key 0 msg total off data))

/-- TAGGED_SEND (R373). -/
def execTaggedSend (p : PeerPacket) (key : BitVec 32) (tag : Word) (msg total off : Nat) (data : List Byte) (s : State) : Out :=
  happen s (s.tryArrival p (.send key tag msg total off data))

end Sys2Proof.Machine
end

