-- ==== Sys2Proof/Machine/Fields.lean ====
section
/-! DEFINITION. Fields and their contexts (spec 17, R323 to R330): the field context record, segment tables, images, first loads;
and the management reads and writes of the S-mode scheduler. A management command answers in `State.readout`: 0 carried out, 1
refused, 2 context loaded with its segment table refused, or what has been read (log 32). -/

namespace Sys2Proof.Machine

/-! ### Answers and hub structures in far memory -/

/-- A management command answers. -/
def State.answerMgmt (s : State) (ws : List Word) : State := { s with readout := ws }
/-- A management command is refused and changes nothing else. -/
def State.refuseMgmt (s : State) : State := s.answerMgmt [1]

/-- Doublewords of a structure that the hub die reads at a physical address of far memory (log 33); none where they hold an
uncorrectable error (R407). -/
def State.hubWords (s : State) (pa : Addr) (n : Nat) : Option (List Word) :=
  if s.poisoned (farAddr pa.toNat) (8 * n) then none
  else some (bytesWords n (s.mem.bytes (farAddr pa.toNat) (8 * n)))

/-- Is far memory available: has every channel passed its training (R429)? -/
def State.farUp (s : State) : Bool := (List.range 64).all (fun k => (AL.get Channel.reset s.channels k).trained)

/-! ### The field context record (Table 17-1) -/

/-- A word of a record. -/
def rw_ (ws : List Word) (i : Nat) : Word := (ws[i]?).getD 0
/-- A byte of two doublewords of a record. -/
def recBytes (ws : List Word) (i : Nat) : List Nat :=
  (List.range 16).map (fun k => bits (rw_ ws (i + k / 8)) (8 * (k % 8) + 7) (8 * (k % 8)))

/-- A field context record (Table 17-1). -/
def FieldCtx.ofWords (ws : List Word) : FieldCtx :=
  let w := rw_ ws
  { field := bits (w 0) 5 0, shape := bitAt (w 0) 6, die := bits (w 0) 9 8, row0 := bits (w 0) 14 10,
    col0 := bits (w 0) 19 15, h := bits (w 0) 24 20 + 1, w := bits (w 0) 29 25 + 1,
    dies := BitVec.ofNat 4 (bits (w 0) 33 30), ctxid := BitVec.ofNat 16 (bits (w 0) 49 34),
    colour := BitVec.ofNat 4 (bits (w 0) 53 50), tenants := (w 1).setWidth 16, segtab := lo48 (w 2), root := lo48 (w 3),
    trapBase := lo48 (w 4), trapLog2 := bits (w 4) 52 48, trapH := lo48 (w 5), trapTag := BitVec.ofNat 4 (bits (w 5) 51 48),
    trapCell := bits (w 6) 11 0, svcScope := BitVec.ofNat 32 (bits (w 6) 63 32), save := lo48 (w 7), res := recBytes ws 8,
    weights := recBytes ws 10, stages := (ws.drop 12).take 16, bells := (ws.drop 28).take 32, interval := bits (w 60) 12 0,
    pairs := bitAt (w 60) 13 }

/-- The configuration word of bell `b` of die `d` in a record. -/
def FieldCtx.bellWord (x : FieldCtx) (d b : Nat) : Word := rw_ x.bells (8 * d + b)
/-- Has a field cells on a die? -/
def FieldCtx.hasDie (x : FieldCtx) (d : Nat) : Bool := if x.shape then x.dies.getLsbD d else d == x.die
/-- Is a cell the follower of a checked pair of the field (R411)? -/
def FieldCtx.follows (x : FieldCtx) (c : Nat) : Bool := x.pairs && colOf c % 2 == 1
/-- Does a rectangle lie within a die and within the field? -/
def FieldCtx.rectIn (x : FieldCtx) (die row0 col0 h w : Nat) : Bool :=
  decide (row0 + h ≤ 32) && decide (col0 + w ≤ 32) && (rectCells die row0 col0 h w).all x.holds

/-- The bells that a record names, by 8 × die + number (R323). -/
def FieldCtx.named (x : FieldCtx) : List Nat :=
  (List.range 32).flatMap (fun k =>
    let w := rw_ x.bells k
    if bitAt w 0 then k :: (bellDies w).map (fun d => 8 * d + k % 8) else [])

/-- Does a bell word keep R150? -/
def FieldCtx.bellOk (x : FieldCtx) (k : Nat) : Bool :=
  let w := rw_ x.bells k
  (x.hasDie (k / 8) || w == 0) &&
  (!bitAt w 0 || (!(bellDies w).isEmpty && (bellDies w).all (fun d =>
    x.hasDie d && x.rectIn d (bits w 39 35) (bits w 34 30) (bits w 29 25 + 1) (bits w 24 20 + 1))))

/-- Does a stage word keep R149 and R411? -/
def FieldCtx.stageOk (x : FieldCtx) (w : Word) : Bool :=
  bits w 63 23 == 0 &&
  (!bitAt w 0 || (x.rectIn (bits w 2 1) (bits w 7 3) (bits w 12 8) (bits w 17 13 + 1) (bits w 22 18 + 1) &&
    (rectCells (bits w 2 1) (bits w 7 3) (bits w 12 8) (bits w 17 13 + 1) (bits w 22 18 + 1)).all (fun c => !x.follows c)))

/-- Does a record keep the ranges and alignments of Table 17-1, R144 and R411? -/
def FieldCtx.rangesOk (x : FieldCtx) : Bool :=
  (if x.shape then x.dies != 0 else decide (x.row0 + x.h ≤ 32) && decide (x.col0 + x.w ≤ 32)) &&
  x.segtab.toNat % 2048 == 0 && x.root.toNat % 32768 == 0 && x.save.toNat % 65536 == 0 && decide (x.trapLog2 ≤ 16) &&
  x.trapBase.toNat % (1024 * 2 ^ x.trapLog2) == 0 && x.holds x.trapCell &&
  x.res.all (fun r => decide (r ≤ 64)) && decide (x.res.foldl (fun a r => a + r) 0 ≤ 512) &&
  (List.range 16).all (fun t => decide ((x.weights[t]?).getD 0 ≠ 0) == x.tenants.getLsbD t) &&
  (!x.pairs || (decide (64 ≤ x.interval) && decide (x.interval ≤ 4096) && (x.shape || (x.col0 % 2 == 0 && x.w % 2 == 0))))

/-- Is a record accepted (R323, R324, R411, R429)? -/
def State.recordOk (s : State) (ws : List Word) : Bool :=
  let x := FieldCtx.ofWords ws
  let w := rw_ ws
  !bitAt (w 0) 7 && bits (w 0) 63 54 == 0 && (ws.drop 61).all (fun v => v == 0) &&
  x.rangesOk && (List.range 32).all x.bellOk && x.stages.all x.stageOk && (x.root == 0 || s.farUp) &&
  s.fields.all (fun p => p.1 == x.field ||
    (p.2.ctx.cells.all (fun c => !x.holds c) && p.2.ctx.named.all (fun k => !x.named.contains k)))

/-! ### Segment tables (Table 17-2, R327) -/

/-- A segment table entry. -/
def Seg.ofWords (a b c d : Word) : Seg :=
  { base := bits a 47 0, len := bits b 47 0, r := bitAt a 48, w := bitAt a 49, x := bitAt a 50, at_ := bitAt a 51,
    kind := bits a 54 52, race := bitAt a 55, kf := c, rbase := lo48 d }

/-- Do the fields that are zero for a kind read zero? -/
def Seg.zerosOk (g : Seg) : Bool :=
  match g.kind with
  | 0 => g.kf == 0 && g.rbase == 0
  | 1 => bits g.kf 15 13 == 0 && bits g.kf 63 38 == 0 && g.rbase == 0
  | 2 => bits g.kf 63 44 == 0 && g.rbase == 0
  | 3 => g.kf == 0 && g.rbase == 0
  | 4 => bits g.kf 15 12 == 0 && bits g.kf 63 32 == 0
  | 5 => bits g.kf 63 12 == 0
  | _ => false

/-- May a cell of the field own memory of a segment (R327, R411)? -/
def FieldCtx.mayOwn (x : FieldCtx) (c : Nat) : Bool := x.holds c && !x.follows c

/-- Is a used entry accepted in a context (R327)? -/
def Seg.okIn (g : Seg) (x : FieldCtx) : Bool :=
  g.base % 256 == 0 && g.len % 256 == 0 && g.len != 0 && decide (0x1000000 ≤ g.base) && decide (g.base + g.len ≤ 2 ^ 48) &&
  match g.kind with
  | 1 =>
    x.mayOwn (bits g.kf 11 0) && decide (bits g.kf 37 16 + g.len ≤ if bitAt g.kf 12 then nearSize else sliceSize)
  | 2 =>
    let w := bits g.kf 16 12 + 1
    let h := bits g.kf 21 17 + 1
    decide (bits g.kf 43 22 + 256 * ((g.len + 256 * (w * h) - 1) / (256 * (w * h))) ≤ sliceSize) &&
      x.rectIn (bits g.kf 1 0) (bits g.kf 6 2) (bits g.kf 11 7) h w &&
      (rectCells (bits g.kf 1 0) (bits g.kf 6 2) (bits g.kf 11 7) h w).all x.mayOwn
  | 3 => x.root != 0
  | _ => true

/-- Do two segments overlap? -/
def Seg.meets (a b : Seg) : Bool := decide (a.base < b.base + b.len) && decide (b.base < a.base + a.len)

/-- No two of some segments overlap. -/
def segsApart : List Seg → Bool
  | [] => true
  | g :: t => t.all (fun h => !g.meets h) && segsApart t

/-- The entries of a table of 64. -/
def segEntries (ws : List Word) : List (Word × Seg) :=
  (List.range 64).map (fun i => (rw_ ws (4 * i), Seg.ofWords (rw_ ws (4 * i)) (rw_ ws (4 * i + 1)) (rw_ ws (4 * i + 2)) (rw_ ws (4 * i + 3))))

/-- The used segments of the table of a context, if it is accepted (R327, R429). -/
def State.segTable (s : State) (x : FieldCtx) : Option (List Seg) :=
  match s.hubWords x.segtab 256 with
  | none => none
  | some ws =>
    let es := segEntries ws
    let used := (es.map Prod.snd).filter (fun g => g.kind != 0)
    if es.all (fun e => bits e.1 63 56 == 0 && e.2.zerosOk) && used.all (fun g => g.okIn x) && segsApart used &&
        (s.farUp || used.all (fun g => g.kind != 3)) then some used else none

/-! ### First loads (R325) -/

/-- A cell as a first load leaves it: as after cell reset, with route tag 0 enabled on channel 0, its field, and its place in a checked
pair (R325, R386, R387, R411). -/
def Cell.firstLoad (y : Cell) (x : FieldCtx) (c : Nat) : Cell :=
  { y.afterReset with
    field := x.field, fieldV := true, tags := [(0, ⟨true, 0, 0⟩)], paired := x.pairs,
    leader := x.pairs && colOf c % 2 == 0, interval := if x.pairs then BitVec.ofNat 16 x.interval else 256 }

/-- The bells of a context start in generation 0 with all latches clear; those that the field had before are free (R150, R325). The
discard counts stay (R153). -/
def State.loadBells (s : State) (x : FieldCtx) : State :=
  let freed := s.bells.map (fun p => (p.1, if p.2.field = some x.field then { Bell.reset with discards := p.2.discards } else p.2))
  { s with
    bells := (List.range 32).foldl (fun m k =>
      if bitAt (rw_ x.bells k) 0 then
        AL.put m k { Bell.reset with
          cfg := rw_ x.bells k, field := some x.field, discards := (AL.get Bell.reset m k).discards }
      else m) freed,
    dues := s.dues.filter (fun d => !((AL.get Bell.reset s.bells (8 * d.die + d.bell)).field == some x.field)) }

/-- The cells of the field's former context that a new one does not hold lie in no field. -/
def State.releaseCells (s : State) (x : FieldCtx) : State :=
  { s with cells := s.cells.map (fun p =>
      (p.1, if p.2.fieldV && p.2.field == x.field && !x.holds p.1 then { p.2 with fieldV := false, field := 0 } else p.2)) }

/-- The scheduler opens the service scope of a context, a root scope in a cell of the field, and keeps it open (Table 17-1; log 37). -/
def State.openService (s : State) (x : FieldCtx) : State :=
  let sc := x.svcScope
  if devOf (homeOf sc) = s.devNum ∧ x.holds (cellOf (homeOf sc)) then
    let tenant := ((List.range 16).find? (fun t => x.tenants.getLsbD t)).getD 0
    s.setScope sc (ScopeRec.opened 0 0 0 (BitVec.ofNat 4 tenant) x.colour true)
  else s

/-- A first load of a context (R325). -/
def State.firstLoad (s : State) (x : FieldCtx) (segs : List Seg) : State :=
  let s1 := (s.releaseCells x).loadBells x
  let s2 := (x.cells.foldl (fun t c => t.modCell c (fun y => y.firstLoad x c)) s1).openService x
  { s2 with fields := AL.put s2.fields x.field ⟨x, segs, 0, [], .running, false, false⟩ }

/-- The segments that a field's context keeps where a table is refused. -/
def State.segsKept (s : State) (f : Nat) : List Seg := match AL.find s.fields f with | some g => g.segs | none => []

/-- The ports of a field forget the last writers of the lines that lie in no segment with logging on any more (R201). -/
def State.keepWriters (s : State) (x : FieldCtx) : State :=
  { s with cells := s.cells.map (fun p =>
      (p.1, if x.holds p.1 then { p.2 with writers := p.2.writers.filter (fun w => s.raceOn (64 * w.1)) } else p.2)) }

/-- SEGMENT_TABLE_LOAD: the table of the field's context is loaded, or refused (R327). -/
def execSegmentTableLoad (f : Nat) (s : State) : Out :=
  .next (match AL.find s.fields f with
    | none => s.refuseMgmt
    | some x =>
      match s.segTable x.ctx with
      | none => s.refuseMgmt
      | some segs => ((s.modField f (fun g => { g with segs := segs })).keepWriters x.ctx).answerMgmt [0])

/-! ### Images (R114, R328) -/

/-- A section of an image: kind, base, and where its bytes stand in the flat numbering. -/
structure Section where
  kind : Nat
  base : Nat
  len  : Nat
  flat : Nat
  deriving DecidableEq, Repr

/-- `n` bytes of memory as a number. -/
def State.numAt (s : State) (a n : Nat) : Nat := leNat (s.mem.bytes a n)

/-- The sections of an image from a flat address on (Table 5-3); none where a record breaks the table. Records out of the order of Table
5-2, a KIND that comes twice and a LENGTH of 0 are taken as they stand: the manual does not say what becomes of an image that has them
(DESIGN CHOICE, log 61). -/
def State.sections (s : State) : Nat → Nat → Option (List Section)
  | 0, _ => some []
  | n + 1, a =>
    let kind := s.numAt a 1
    let len := s.numAt (a + 16) 8
    if 4 < kind ∨ s.numAt (a + 1) 7 ≠ 0 ∨ s.numAt (a + 14) 2 ≠ 0 ∨ s.numAt (a + 24) 8 ≠ 0 then none
    else (State.sections s n (a + 32 + len)).map (fun t => ⟨kind, s.numAt (a + 8) 6, len, a + 32⟩ :: t)

/-- Where the scheduler's copy of a byte at a virtual address goes: into the memory that the segment maps, whatever its
permissions. A byte of a page that is not resident, of a fabric or host segment, or of no segment is not placed: the manual does not say
what becomes of it (DESIGN CHOICE, log 61). -/
def State.imagePlace (s : State) (f : Field) (va : Nat) : Option Nat :=
  match segAt f.segs va with
  | none => none
  | some i =>
    match (f.segs[i]?).map (fun (g : Seg) => g.target va) with
    | some (.sram a) => some a
    | some (.far _) => (s.walk f.ctx.field f.ctx.root va).map (fun l => farAddr (l.pa + (va - l.va)))
    | _ => none

/-- Copy a section to the memory its segments map, a doubleword at a time; what no segment maps is not placed, and the accesses that reach
it fail as others do (R113). -/
def State.copySection (s : State) (f : Field) (x : Section) : State :=
  ((pieces x.len x.base x.len).foldl (fun (acc : State × Nat) p =>
    (match s.imagePlace f p.1 with
      | some a => acc.1.writeFlat a (s.mem.bytes (x.flat + acc.2) p.2)
      | none => acc.1, acc.2 + p.2)) (s, 0)).1

/-- Near scratch of every cell of the field: the `.near` section, and zero elsewhere (R328). -/
def State.copyNear (s : State) (f : Field) (xs : List Section) : State :=
  f.ctx.cells.foldl (fun t c =>
    { t with
      mem := t.mem.block (nearAddr c 0) nearSize (xs.map (fun x => (x.base, s.mem.bytes x.flat x.len))),
      poison := t.poison.filter (fun p => ownerCell p != some c || decide (sliceBase ≤ p)) }) s

/-- IMAGE_LOAD: the sections of an image at a physical address of far memory are placed in a context (R328; log 33). That an image which
breaks Table 5-3, or whose `.near` section passes the end of near scratch, is refused as a whole is the model's choice (DESIGN CHOICE, log
61): the manual does not say what becomes of one. -/
def execImageLoad (f : Nat) (image : Addr) (s : State) : Out :=
  .next (match AL.find s.fields f with
    | none => s.refuseMgmt
    | some x =>
      let a := farAddr image.toNat
      let n := s.numAt (a + 6) 2
      if s.numAt a 4 ≠ 0x494E4C48 ∨ s.numAt (a + 4) 2 ≠ 1 ∨ 5 < n ∨ s.numAt (a + 8) 8 ≠ 0 then s.refuseMgmt
      else
        match s.sections n (a + 16) with
        | none => s.refuseMgmt
        | some xs =>
          let near := xs.filter (fun y => y.kind == 4)
          let far := xs.filter (fun y => y.kind != 4)
          if near.all (fun y => decide (y.base + y.len ≤ nearSize)) then
            ((far.foldl (fun t y => t.copySection x y) s).copyNear x near).answerMgmt [0]
          else s.refuseMgmt)

/-! ### Translations (R330) -/

/-- INVALIDATE: the entries of a field whose pages meet a range leave every agent (R330). -/
def execInvalidate (f : Nat) (lo hi : Addr) (s : State) : Out :=
  let keep := fun (l : Leaf) => !(l.field == f && decide (l.va ≤ hi.toNat) && decide (lo.toNat < l.va + l.size))
  .next { s with agents := s.agents.map (fun p => (p.1, { p.2 with cache := p.2.cache.filter keep })) }

/-! ### Management writes (Tables 17-4, 18-2, 18-6, 18-8, 18-9, 19-4) -/

/-- Queues that a switch of another context of the field has left PAUSED. -/
def State.heldQueues (s : State) (f : Nat) : List Nat := (s.saved.filter (fun v => v.ctx.field == f)).flatMap (fun v => v.queues)

/-- The STATE of a queue of a field that may go on: IDLE, or PAUSED while the field is being switched or is out or an image is being
activated, or RECOVERING while it is recovered; a queue that a switched-out context of the field holds stays PAUSED (R345, R349, R426). -/
def State.idleState (s : State) (q f : Nat) : QueueState :=
  if s.recovering f then .recovering
  else if (s.heldQueues f).contains q || s.firmware.changing then .paused
  else
    match AL.find s.fields f with
    | some x => if x.mode = .switching ∨ x.mode = .out then .paused else .idle
    | none => .idle

/-- QUEUE_REARM: a queue in ERROR goes on (R335). -/
def execQueueRearm (q : Nat) (s : State) : Out :=
  .next (if (s.queue q).state = .error then s.modQueue q (fun e => { e with state := s.idleState q e.field }) else s)

/-- The RW fields of a queue table entry (Table 17-4). -/
def QueueEntry.write (e : QueueEntry) (ws : List Word) : QueueEntry :=
  let w := rw_ ws
  { e with
    log2n := bits (w 0) 52 48, ring := lo48 (w 0), host := BitVec.ofNat 12 (bits (w 2) 59 48), headptr := lo48 (w 2),
    age := (w 3).extractLsb' 32 32, tenant := BitVec.ofNat 4 (bits (w 3) 13 10), field := bits (w 3) 9 4,
    prio := bits (w 3) 2 0, toll := (w 4).extractLsb' 0 32 }

/-- May the scheduler bind a queue so (R323, Table 17-4)? -/
def State.bindOk (s : State) (e : QueueEntry) : Bool :=
  decide (e.log2n ≤ 20) && e.ring.toNat % (64 * 2 ^ e.log2n) == 0 &&
  (match AL.find s.fields e.field with | some f => f.ctx.tenants.getLsbD e.tenant.toNat | none => false)

/-- Write an element of a list of numbers. -/
def setNat (l : List Nat) (n i v : Nat) : List Nat := (List.range n).map (fun k => if k = i then v else (l[k]?).getD 0)

/-- A management write of a table entry or register; none where it is refused. That a value out of range, misaligned or unbindable (LOG2N
of a queue above 20 or of a trace ring above 24, a RING or BASE that is not aligned, FIELD and TENANT outside R323, RES of a port above 512
in all, an index outside its table) refuses the whole write and sets nothing is the model's choice: the manual is silent (DESIGN CHOICE,
log 70). A plug-in image is not written so: only the monitor changes flash (R422). -/
def State.writeTable (s : State) (t : MgmtTarget) (ws : List Word) : Option State :=
  let w := rw_ ws
  match t with
  | .queue q =>
    let e := (s.queue q).write ws
    if decide (q < 8192) && s.bindOk e then
      some (s.modQueue q (fun _ => { e with state := if e.state = .disabled then s.idleState q e.field else e.state }))
    else none
  | .route n =>
    some { s with routes := AL.put s.routes n ⟨w 0, bitAt (w 1) 14, bitAt (w 1) 13, bits (w 1) 11 8, bits (w 1) 5 0⟩ }
  | .peer p =>
    some { s with peers := AL.put s.peers p ⟨bitAt (w 0) 48, (w 0).extractLsb' 40 8, (w 0).extractLsb' 16 24, (w 0).setWidth 16,
      (w 1).setWidth 12, w 3 ++ w 2⟩ }
  | .region f i =>
    if f < 64 ∧ i < 4096 ∧ bits (w 0) 5 0 = 0 then
      let r : Region :=
        { ctxid := (w 0).extractLsb' 48 16, base := lo48 (w 0), check := (w 1).extractLsb' 44 20, length := bits (w 1) 39 0,
          sync := lo48 (w 2), valid := bitAt (w 3) 8, ring := bitAt (w 3) 7, r := bitAt (w 3) 5, w := bitAt (w 3) 6,
          bellen := bitAt (w 3) 4, bell := bits (w 3) 2 0 }
      some { s with regions := AL.put s.regions (4096 * f + i) r }
    else none
  | .portTenant p t =>
    let res := setNat (s.port p).res 16 t (w 0).toNat
    if res.foldl (fun a b => a + b) 0 ≤ 512 then some (s.modPort p (fun r => { r with res := res })) else none
  | .portLink p => some (s.modPort p (fun r => { r with peer := (w 0).setWidth 12, up := bitAt (w 0) 12 }))
  | .traceRing k => if bits (w 0) 4 0 = 0 then some (s.modTrace k (fun t => { t with ring := lo48 (w 0) })) else none
  | .traceCtl k =>
    let v : BitVec 2 := (w 0).extractLsb' 8 2
    if 24 < bits (w 0) 60 56 then none
    else some (s.modTrace k (fun t =>
      { t with
        log2n := BitVec.ofNat 5 (bits (w 0) 60 56), ctxf := bits (w 0) 37 32, tenants := BitVec.ofNat 16 (bits (w 0) 31 16) }.write v))
  | .traceLen k => some (s.modTrace k (fun t => { t with len := (w 0).setWidth 9 }))
  | .counter k n => if n < 64 then some (s.modTrace k (fun t => { t with counters := Regs.set t.counters n (w 0) })) else none
  | .scrubInt => some { s with scrubInt := (w 0).toNat }
  | .tapInt k => some (s.modCluster k (fun c => { c with tapint := (w 0).toNat }))
  | .timeReference => some { s with time := { s.time with reference := (w 0).setWidth 12 } }
  | .deviceNumber => some { s with devNum := (w 0).setWidth 12 }
  | .pluginImage => none
  | .group g => if g < 256 then some { s with groups := AL.put s.groups g ⟨w 0, bitAt (w 1) 1, bitAt (w 1) 0⟩ } else none

/-- STATE of a queue as a number (Table 17-4). -/
def QueueState.code : QueueState → Nat
  | .disabled => 0 | .idle => 1 | .ready => 2 | .waiting => 3 | .parked => 4 | .paused => 5 | .recovering => 6 | .error => 7

/-- A queue table entry as software reads it (Table 17-4). -/
def QueueEntry.words (e : QueueEntry) : List Word :=
  [ word (e.log2n * 2 ^ 48 + e.ring.toNat), hiLo e.tail e.head, word (e.host.toNat * 2 ^ 48 + e.headptr.toNat),
    word (e.age.toNat * 2 ^ 32 + e.state.code * 2 ^ 24 + e.lent * 2 ^ 20 + flag e.lentv * 2 ^ 19 + e.eff * 2 ^ 16 +
      e.tenant.toNat * 2 ^ 10 + e.field * 2 ^ 4 + e.prio),
    hiLo e.tollrun e.toll, word (e.raise * 2 ^ 32 + e.agerun.toNat), word (e.errcode * 2 ^ 48 + e.errpkt.toNat), 0 ]

/-- A route table entry as software reads it (Table 18-2). -/
def Route.words (r : Route) : List Word := [r.minmask, word (flag r.hostn * 2 ^ 14 + flag r.valid * 2 ^ 13 + r.dist * 2 ^ 8 + r.oport)]

/-- A peer table entry as software reads it (Table 18-8). -/
def Peer.words (p : Peer) : List Word :=
  [ word (flag p.valid * 2 ^ 48 + p.ports.toNat * 2 ^ 40 + p.jobid.toNat * 2 ^ 16 + p.ctxid.toNat), p.pid.setWidth 64,
    p.addr.extractLsb' 0 64, p.addr.extractLsb' 64 64 ]

/-- A region table entry as software reads it (Table 18-9). -/
def Region.words (r : Region) : List Word :=
  [ word (r.ctxid.toNat * 2 ^ 48 + r.base.toNat), word (r.check.toNat * 2 ^ 44 + r.length), addrWord r.sync,
    word (flag r.valid * 2 ^ 8 + flag r.ring * 2 ^ 7 + flag r.w * 2 ^ 6 + flag r.r * 2 ^ 5 + flag r.bellen * 2 ^ 4 + r.bell) ]

/-- A multicast group table entry as software reads it (Table 18-6). -/
def GroupEntry.words (g : GroupEntry) : List Word := [g.ports, word (flag g.valid * 2 + flag g.local_)]

/-- The control block of a trace core as software reads it (Table 19-4): PROG reads zero. -/
def TraceCore.words (t : TraceCore) : List Word :=
  [ addrWord t.ring,
    word (t.log2n.toNat * 2 ^ 56 + t.ctxf * 2 ^ 32 + t.tenants.toNat * 2 ^ 16 + t.state.toNat * 2 ^ 8 + t.lderr.toNat),
    t.wr, t.lost, 0, t.len.setWidth 64, 0, 0 ]

/-- A management read of a table entry or register, with what it does: LOST clears in the access that reads a control block; a WO
register reads zero (R3, R390). None where the table has no such entry. -/
def State.readTable (s : State) (t : MgmtTarget) : Option (List Word × State) :=
  match t with
  | .queue q => if q < 8192 then some ((s.queue q).words, s) else none
  | .route n => some ((AL.get Route.reset s.routes n).words, s)
  | .peer p => some ((AL.get Peer.reset s.peers p).words, s)
  | .region f i => if f < 64 ∧ i < 4096 then some ((AL.get Region.reset s.regions (4096 * f + i)).words, s) else none
  | .portTenant p t => some ([word (((s.port p).res[t]?).getD 0)], s)
  | .portLink p => some ([word (flag (s.port p).up * 2 ^ 12 + (s.port p).peer.toNat)], s)
  | .traceRing k => some ([addrWord (s.trace k).ring], s)
  | .traceCtl k => some ((s.trace k).words, s.modTrace k (fun t => { t with lost := 0 }))
  | .traceLen k => some ([(s.trace k).len.setWidth 64], s)
  | .counter k n => if n < 64 then some ([Regs.get (s.trace k).counters n], s) else none
  | .scrubInt => some ([word s.scrubInt], s)
  | .tapInt k => some ([word (s.cluster k).tapint], s)
  | .timeReference => some ([s.time.reference.setWidth 64], s)
  | .deviceNumber => some ([s.devNum.setWidth 64], s)
  | .pluginImage => some ([0], s)
  | .group g => if g < 256 then some ((AL.get ⟨0, false, false⟩ s.groups g).words, s) else none

/-- MANAGEMENT_TABLE_WRITE (R332, R355, R366, R372, R373, R381, R390, R405, R416). A command with no words to write reads (log 62). -/
def execManagementTableWrite (t : MgmtTarget) (ws : List Word) (s : State) : Out :=
  .next (match ws with
    | [] => (match s.readTable t with | some r => r.2.answerMgmt r.1 | none => s.refuseMgmt)
    | _ => (match s.writeTable t ws with | some u => u.answerMgmt [0] | none => s.refuseMgmt))

/-- GROUP_TABLE_WRITE: the rewrite commits at once, for packets accepted after it (R366). -/
def execGroupTableWrite (g : Nat) (ports : Word) (valid local_ : Bool) (s : State) : Out :=
  .next (if g < 256 then { s with groups := AL.put s.groups g ⟨ports, valid, local_⟩ }.answerMgmt [0] else s.refuseMgmt)

/-- RACE_RING_PLACE: the ring of a cell lies at an address of its context (R398). -/
def execRaceRingPlace (c : Nat) (ring : Addr) (s : State) : Out := .next (s.modCell c (fun x => { x with raceRing := ring }))

/-! ### Management reads (R136, R180, R386, R408) -/

/-- A sender table entry as software reads it (Table 19-1). -/
def SenderEntry.words (e : SenderEntry) : List Word :=
  [ word (e.tenant.toNat * 2 ^ 48 + flag e.valid * 2 ^ 47 + flag e.hub * 2 ^ 24 + e.source.toNat),
    word (e.count * 2 ^ 32 + e.discards), word e.transit, word e.wait, word e.run, word (e.skew * 2 ^ 32 + e.maxwait) ]

/-- SENDER_TABLE_READ: the 33 entries as one snapshot, and the table cleared where that is asked (R386). -/
def execSenderTableRead (c : Nat) (clear : Bool) (s : State) : Out :=
  let ws := (List.range 33).flatMap (fun i => (((s.cell c).senders[i]?).getD SenderEntry.free).words)
  .next ((if clear then s.modCell c (fun x => { x with senders := [] }) else s).answerMgmt ws)

/-- A violation log entry as software reads it (Table 9-4). -/
def Violation.words (v : Violation) : List Word :=
  [ addrWord v.va,
    word (v.kind * 2 ^ 56 + classCode v.cls * 2 ^ 54 + v.op * 2 ^ 51 + v.size * 2 ^ 48 + v.source.toNat * 2 ^ 24 + v.time.toNat) ]

/-- The violation log of a unit (R180). -/
def State.violationsOf (s : State) : LogUnit → List Violation
  | .cell c => (s.cell c).violations
  | .memPort c => (s.cell c).portLog
  | .agent a => (s.agent a).log
  | .port p => (s.port p).log
  | .dieEdge k => (s.hubPort k).log
  | .commandProcessor p => (s.cp p).log
  | .traceCore k => (s.trace k).log
  | .transport => s.xportLog
  | .controller _ => []
  | .hub => []

/-- VIOLATION_LOG_READ (R180). -/
def execViolationLogRead (u : LogUnit) (s : State) : Out :=
  .next (s.answerMgmt ((s.violationsOf u).flatMap Violation.words))

/-- The refusal log of a unit: of a cell, above the cells of an external port, and above those of an internal port (R136; log 62). -/
def State.refusalsOf (s : State) (n : Nat) : List RefusalEntry :=
  if n < cellCount then (s.cell n).refusals
  else if n < cellCount + 64 then (s.port (n - cellCount)).refusals
  else (s.hubPort (n - cellCount - 64)).refusals

/-- REFUSAL_LOG_READ: code, handler address, source and scope of each entry (R136). -/
def execRefusalLogRead (c : Nat) (s : State) : Out :=
  .next (s.answerMgmt ((s.refusalsOf c).flatMap (fun e =>
    [word e.code, addrWord e.handler, e.source.setWidth 64, e.scope.setWidth 64])))

/-- An error log entry as software reads it (Table 21-2). -/
def ErrEntry.words (e : ErrEntry) : List Word :=
  [ e.time, word (e.kind * 2 ^ 56 + e.struct_ * 2 ^ 52 + e.location.toNat),
    word (e.source.toNat * 2 ^ 40 + (match e.field with | some f => f * 2 ^ 34 + 2 ^ 33 | none => 0) + e.syndrome.toNat), 0 ]

/-- The key of a unit's error log (R408). -/
def errKeyOf : LogUnit → Nat
  | .cell c => c
  | .memPort c => c
  | .controller k => errKeyController k
  | _ => errKeyHub

/-- ERROR_LOG_READ: the entries, LOSTUE, and the corrected and uncorrectable counter of each structure are read and cleared
(R408). -/
def execErrorLogRead (u : LogUnit) (s : State) : Out :=
  let l := AL.get ErrLog.empty s.errLogs (errKeyOf u)
  .next ({ s with errLogs := AL.del s.errLogs (errKeyOf u) }.answerMgmt
    (l.entries.flatMap ErrEntry.words ++ [word l.lostue] ++
      (List.range 11).flatMap (fun k => [word (AL.get 0 l.corrected k), word (AL.get 0 l.uncorrectable k)])))

end Sys2Proof.Machine
end

