-- ==== Sys2Proof/Machine/Matrix.lean ====
section
/-! DEFINITION. The matrix instructions (spec 13, R295 to R315): planes, scale memory, accumulators, tile operations and gangs. A
tile operation goes pass by pass, `mplane` and `mst` row by row, `mscl` by 64 entries. -/

namespace Sys2Proof.Machine

/-! ### Formats and descriptors (Tables 13-1 to 13-3) -/

/-- The format of an operand: element format, declared planes, plane offset. -/
structure OpFmt where
  fmt : Fmt
  p   : Nat
  off : Nat
  deriving DecidableEq, Repr

/-- Default planes and the declared range (Table 13-1). -/
def matPlanes (f : Fmt) : Option (Nat × Nat × Nat) :=
  match f with
  | .fp32 => some (25, 2, 25) | .fp16 => some (12, 2, 12) | .bf16 => some (9, 2, 9) | .e4m3 => some (5, 2, 5)
  | .e5m2 => some (4, 2, 4) | .int4 => some (4, 2, 4) | .int8 => some (8, 2, 8) | .uint8 => some (9, 2, 9)
  | .es4 => some (4, 4, 4) | _ => none

/-- The format that FMT_A or FMT_B declares, if R296 accepts it. -/
def opFmt (r : BitVec 9) : Option OpFmt :=
  match fmtOf (r.toNat % 16) with
  | none => none
  | some f =>
    match matPlanes f with
    | none => none
    | some (d, lo, hi) =>
      let p := if r.toNat / 16 = 0 then d else r.toNat / 16
      if lo ≤ p ∧ p ≤ hi then some ⟨f, p, if f = .es4 then 9 else 0⟩ else none

/-- Does an operand use scale memory? -/
def OpFmt.scaled (f : OpFmt) : Bool := f.fmt.intSigned.isNone

/-- Are the entries of an operand within scale memory (R299)? -/
def sclOk (f : OpFmt) (off area : Nat) : Bool := !f.scaled || (off % 2 == 0 && decide (off + area ≤ 8192))

/-- A plane tile descriptor (Table 13-2). -/
structure PlaneDesc where
  base   : Addr
  gtag   : Nat
  srccol : Nat
  cls    : MemClass
  hold   : Bool
  frag   : Nat
  b      : Bool
  olist  : Addr
  deriving DecidableEq, Repr

/-- A plane tile descriptor from its 32 bytes, if its zero fields are zero. -/
def planeDescOf (bs : List Byte) : Option PlaneDesc :=
  let w := word (fieldAt bs 8 8)
  if fieldAt bs 6 2 = 0 ∧ bits w 63 24 = 0 ∧ bits w 10 10 = 0 ∧ bits w 9 8 ≠ 3 ∧ bits w 7 4 = 0 ∧ fieldAt bs 0x16 2 = 0 ∧
      fieldAt bs 0x18 8 = 0 then
    some ⟨lo48 (word (fieldAt bs 0 8)), bits w 23 16, bits w 15 11, classOf (bits w 9 8), bitAt w 3, bits w 2 1, bitAt w 0,
      lo48 (word (fieldAt bs 0x10 8))⟩
  else none

/-- Does a B descriptor of a tile operation keep GTAG, SRCCOL and FRAG zero? -/
def PlaneDesc.plainB (d : PlaneDesc) : Bool := d.gtag == 0 && d.srccol == 0 && d.frag == 0

/-- An element tile descriptor (Table 13-3). -/
structure ElemDesc where
  base  : Addr
  rstr  : Int
  cstr  : Int
  scale : Addr
  cls   : MemClass
  deriving DecidableEq, Repr

/-- An element tile descriptor from its 32 bytes, if its zero fields are zero. -/
def elemDescOf (bs : List Byte) : Option ElemDesc :=
  let w := word (fieldAt bs 0x18 8)
  if fieldAt bs 6 2 = 0 ∧ fieldAt bs 0x16 2 = 0 ∧ bits w 63 2 = 0 ∧ bits w 1 0 ≠ 3 then
    some ⟨lo48 (word (fieldAt bs 0 8)), signedNat 32 (fieldAt bs 8 4), signedNat 32 (fieldAt bs 12 4),
      lo48 (word (fieldAt bs 0x10 8)), classOf (bits w 1 0)⟩
  else none

/-- The elements of a tile as a shape: 64 along the inner dimension. -/
def tileShape (d : ElemDesc) (fmt : Fmt) (outers : Nat) (inner outer : Int) : Shape :=
  ⟨d.base, fmt, 2, 0, 0, 0, d.cls, 0, [64, outers], [inner, outer], 0⟩

/-! ### Checks -/

/-- What the checks of descriptors come to. -/
inductive MatCheck (α : Type)
  | ok (x : α)
  | reserved
  | align (va : Addr)
  | straddle (va : Addr) (n : Nat)

/-- The first misaligned address of some, each with its alignment; zero addresses count as aligned. -/
def firstOdd (l : List (Addr × Nat)) : Option Addr := (l.find? (fun x => x.1.toNat % x.2 != 0)).map Prod.fst

/-- The first area of some that lies in more than one region. -/
def firstStraddle (segs : List Seg) (l : List (Addr × Nat)) : Option (Addr × Nat) :=
  l.find? (fun x => !oneRegion segs x.1.toNat x.2)

/-- The checks 3 and 4 of R304. -/
def matPlaces {α : Type} (segs : List Seg) (al : List (Addr × Nat)) (areas : List (Addr × Nat)) (x : α) : MatCheck α :=
  match firstOdd al with
  | some a => .align a
  | none => match firstStraddle segs areas with | some r => .straddle r.1 r.2 | none => .ok x

/-- Go on after the checks, or trap. -/
def MatCheck.go {α : Type} (r : MatCheck α) (c : Ctx) (s : State) (k : α → Issued) : Issued :=
  match r with
  | .ok x => k x
  | .reserved => .trap 0x02 0
  | .align va => .trap 0x08 (addrWord va)
  | .straddle va n =>
    .trapIn (s.logCell c.cell ⟨va, 4, .o, 0, sizeCode n, s.gca c.cell, s.time24⟩) 0x09 (addrWord va)

/-- Read the descriptors once and go on with their bytes, which are kept however long the rest of the instruction waits (R304). -/
def withDescs (c : Ctx) (as : List Addr) (s : State) (k : Pending → State → Issued) : Issued :=
  withRecords c 32 as s fun p s => k p (s.setPend c p)

/-- Wait for the scoreboard of some fragments (R279, R305): stage 7 waits, stage 8 runs. -/
def withScore (c : Ctx) (frags : List Nat) (p : Pending) (s : State) (k : Pending → State → Issued) : Issued :=
  if p.stage = 0 ∨ p.stage = 7 then
    let reach := fun (s : State) =>
      let s1 := s.reachScore c.cell (s.progId c) frags
      let p8 := { p with stage := 8 }
      if s1.admitted c.cell (s.progId c) frags then k p8 (s1.setPend c p8) else Issued.stall (s1.setPend c { p with stage := 7 })
    if p.stage = 7 then cancelCheck c (s.namingOf (.prog (s.progId c))).scope s reach else reach s
  else k p s

/-- The next unit of work of an instruction, or its end, which waits for its writes (R305). -/
def nextUnit (c : Ctx) (p : Pending) (total : Nat) (s : State) (fin : State → State := id) : Issued :=
  let n := p.sent + 1
  if total ≤ n then settled c { p with stage := 15, sent := n } s (fun _ s => .ok (fin s))
  else .stall (s.setPend c { p with stage := 8, sent := n })

/-- Go on with a unit of work at its boundary, unless the program is cancelled (R306). -/
def atUnit (c : Ctx) (s : State) (go : State → Issued) : Issued :=
  cancelCheck c (s.namingOf (.prog (s.progId c))).scope s go

/-- One of the units of an instruction: a boundary, then what it reads and writes, then the next one or the end (R306). -/
def matUnit (c : Ctx) (p : Pending) (s : State) (total : Nat) (m : State → M Pending) (fin : State → State := id) : Issued :=
  let run := fun (s : State) => unitOf c p s (m s) (fun p s => nextUnit c p total s fin)
  if total ≤ p.sent then settled c p s (fun _ s => .ok (fin s))
  else if p.stage = 12 ∨ p.stage = 13 ∨ p.stage = 14 then run s
  else atUnit c s run

/-- A matrix instruction: its body leaves the scoreboard when it ends or traps. -/
def matrixInstr (s : State) (regs : List Nat) (body : Ctx → Prog → State → Issued) : Out :=
  withGroup s fun c =>
    issue s c .no (regs.map (fun (r : Nat) => (r : Int))) [] fun s =>
      match s.prog c with
      | some x => (body c x s).leave s c
      | none => .stall s

/-! ### Scale memory (R299, R308) -/

/-- A scale entry of a cell, by its byte offset. -/
def State.sclAt (s : State) (c off : Nat) : Int := (AL.get 0 (s.cell c).scales (off / 2)).toInt

/-- Write a scale entry; a zero is not listed. -/
def State.setScl (s : State) (c off : Nat) (v : BitVec 16) : State :=
  s.modCell c (fun y => { y with scales := if v = 0 then AL.del y.scales (off / 2) else AL.put y.scales (off / 2) v })

/-- Clear the latch where entries in a range of byte offsets are its own (R307, R308). -/
def State.dropLatch (s : State) (c lo n : Nat) : State :=
  match (s.cell c).latch with
  | some l =>
    let mine := match opFmt l.fmt with | some f => f.scaled | none => false
    if mine = true ∧ lo < l.off + 512 ∧ l.off < lo + n then s.modCell c (fun y => { y with latch := none }) else s
  | none => s

/-- `mscl` (R308), 64 entries at a time. -/
def msclBody (c : Ctx) (a b : Nat) (s : State) : Issued :=
  let v := s.reg c (a : Int)
  let off := bits v 12 0
  let n := bits v 28 16
  let va := lo48 (s.reg c (b : Int))
  let p := s.pendOf c
  if bits v 15 13 ≠ 0 ∨ bits v 30 29 ≠ 0 ∨ bits v 63 32 ≠ 0 ∨ off % 2 = 1 ∨ n = 0 ∨ 8192 < off + 2 * n then .trap 0x02 0
  else if va.toNat % 2 = 1 then .trap 0x08 (addrWord va)
  else
    let lo := 64 * p.sent
    let k := min 64 (n - lo)
    let o := off + 2 * lo
    let at_ : Nat → Nat := fun i => (va.toNat + 2 * (lo + i)) % 2 ^ 48
    matUnit c p s ((n + 63) / 64) fun s =>
      if bitAt v 31 then
        pure { p with writes := (List.range k).map (fun i => .mem (at_ i) (leBytes 2 (intBits 16 (s.sclAt c.cell (o + 2 * i)))) none .o) }
      else do
        let bs ← readVa (s.whoGroup c) (at_ 0) (2 * k) .r
        let t ← M.state
        let t2 := (List.range k).foldl (fun t i => t.setScl c.cell (o + 2 * i) (BitVec.ofNat 16 (leNat ((bs.drop (2 * i)).take 2)))) t
        M.put (t2.dropLatch c.cell o (2 * k))
        pure p

/-- R308. -/
def execMscl (a b : ERegNum) (s : State) : Out :=
  matrixInstr s [a.toNat, b.toNat] (fun c _ s => msclBody c a.toNat b.toNat s)

/-! ### Fragments (R309, R315) -/

/-- Clear a fragment: every container V = 0, X = UNSET. -/
def State.clearFrag (s : State) (c f : Nat) : State :=
  s.modCell c (fun y => { y with acc := y.acc.filter (fun p => p.1 / 2048 != f) })

/-- R309. -/
def execMzero (a : ERegNum) (s : State) : Out :=
  matrixInstr s [a.toNat] (fun c _ s =>
    let v := s.reg c (a.toNat : Int)
    if bits v 63 4 ≠ 0 then .trap 0x02 0
    else
      let fs := (List.range 4).filter (fun f => bitAt v f)
      withScore c fs (s.pendOf c) s fun _ s => .ok (fs.foldl (fun t f => t.clearFrag c.cell f) s))

/-- Align a container for contributions of some exponents (R302): the container, and whether it clamped. -/
def alignAcc (w : Word) (ts : List Int) : Word × Bool :=
  match ts with
  | [] => (w, false)
  | t :: r =>
    let m := r.foldl min t
    match accX w with
    | none => (accMake (some m) 0, false)
    | some x =>
      if m < x then
        let q := clamp40 (accV w * 2 ^ (x - m).toNat)
        (accMake (some m) q.1, q.2)
      else (w, false)

/-- Add units to V of a container, clamped (R74). -/
def addAcc (w : Word) (n : Int) : Word × Bool :=
  let q := clamp40 (accV w + n)
  (accMake (accX w) q.1, q.2)

/-- AS, if something clamped. -/
def asFlag (b : Bool) : Flags := { Flags.none with as := b }

/-- R315. -/
def execMacc (a b : ERegNum) (s : State) : Out :=
  matrixInstr s [a.toNat, b.toNat] (fun c _ s =>
    let va := s.reg c (a.toNat : Int)
    let vb := s.reg c (b.toNat : Int)
    let d := bits va 1 0
    let f := bits vb 1 0
    if bits va 63 2 ≠ 0 ∨ bits vb 63 9 ≠ 0 ∨ bits vb 7 2 ≠ 0 then .trap 0x02 0
    else
      withScore c [d, f].eraseDups (s.pendOf c) s fun _ s =>
        let r := (List.range 2048).foldl (fun (acc : State × Bool) i =>
          let src := acc.1.accAt c.cell f i
          match accX src with
          | none => acc
          | some x =>
            let al := alignAcc (acc.1.accAt c.cell d i) [x]
            let sh := x - (accX al.1).getD x
            let q := addAcc al.1 (accV src * 2 ^ sh.toNat)
            (acc.1.setAcc c.cell d i q.1, acc.2 || al.2 || q.2)) (s, false)
        let s1 := r.1.progRaise c (asFlag r.2)
        .ok (if bitAt vb 8 then s1.clearFrag c.cell f else s1))

/-! ### Planes (R73, R307) -/

/-- Plane alignment of a block of values to `p` planes (R73): integers, block exponent, flags. -/
def planeAlign (f : FloatFmt) (p nbv : Nat) (xs : List Num) : List Int × Int × Flags :=
  let expo := fun (x : Num) => match x with
    | .fin _ m e => some (if 2 ^ f.mbits ≤ m then e + f.mbits else f.emin)
    | _ => none
  let E := (xs.filterMap expo).foldl max f.emin
  let u := E - ((p : Int) - 2)
  let r := xs.map (fun x =>
    match x with
    | .fin s m e =>
      let q := (Mag.dyadic m e).round (if nbv = 2 then 0 else 1) s u 0
      let v : Int := if s then -(q.1 : Int) else q.1
      let big := decide (2 ^ (p - 1) - 1 < v)
      ((if big then 2 ^ (p - 1) - 1 else v), { Flags.none with nx := q.2 || big })
    | _ => (0, Flags.invalid))
  (r.map Prod.fst, u, r.foldl (fun a x => a.or x.2) Flags.none)

/-- What a row or column of elements becomes: its 64 integers, its four block exponents, its outliers (VALUE, k), its flags. -/
structure PlaneRow where
  q     : List Int
  u     : List Int
  outs  : List (Int × Nat)
  flags : Flags
  deriving DecidableEq, Repr

/-- One run of 32 ES4 elements: integers, outliers from element `k0` on, flags. -/
def es4Run (rec : Nat) (k0 : Nat) : Nat → List Nat → List Int × List (Int × Nat) × Flags
  | i, a :: b :: t =>
    let r := es4Run rec k0 (i + 2) t
    let one := fun (own partner k : Nat) =>
      if rec % 256 = 255 then (0, [], Flags.invalid)
      else if own = 8 then
        if partner = 8 then ((0 : Int), ([] : List (Int × Nat)), Flags.invalid)
        else
          match (e4m3Num (rec / 256 % 16 * 16 + partner)).scale 9 with
          | .fin s m e =>
            let v : Int := m * 2 ^ e.toNat / 2 ^ (-e).toNat
            (0, [(if s then -v else v, k)], Flags.none)
          | _ => (0, [], Flags.invalid)
      else if partner = 8 then (0, [], Flags.none)
      else (signedNat 4 own, [], Flags.none)
    let x := one a b (k0 + i)
    let y := one b a (k0 + i + 1)
    (x.1 :: y.1 :: r.1, x.2.1 ++ y.2.1 ++ r.2.1, (x.2.2.or y.2.2).or r.2.2)
  | _, _ => ([], [], Flags.none)

/-- Convert a row or column (R307): its element bits, its two scale records (0 where there are none). -/
def planeRow (f : OpFmt) (ftz : Bool) (nbv : Nat) (hasScale : Bool) (bs : List Nat) (recs : List Nat) : PlaneRow :=
  match f.fmt.float with
  | some x =>
    let bl := (List.range 4).map (fun b =>
      let r := planeAlign x f.p nbv (((bs.drop (16 * b)).take 16).map (decodeNum f.fmt ftz))
      let S := (recs[b / 2]?).getD 0 % 256
      if hasScale then
        if S = 255 then (List.replicate 16 (0 : Int), r.2.1 + S - 127, r.2.2.or Flags.invalid) else (r.1, r.2.1 + S - 127, r.2.2)
      else r)
    ⟨bl.flatMap (fun r => r.1), bl.map (fun r => r.2.1), [], bl.foldl (fun a r => a.or r.2.2) Flags.none⟩
  | none =>
    if f.fmt = .es4 then
      let rs := (List.range 2).map (fun m => es4Run ((recs[m]?).getD 0) (32 * m) 0 ((bs.drop (32 * m)).take 32))
      ⟨rs.flatMap (fun r => r.1), (List.range 4).map (fun b => (((recs[b / 2]?).getD 0 % 256 : Nat) : Int) - 136),
        rs.flatMap (fun r => r.2.1), rs.foldl (fun a r => a.or r.2.2) Flags.none⟩
    else
      let lim : Int := 2 ^ (f.p - 1)
      let r := bs.map (fun b =>
        match decodeNum f.fmt false b with
        | .fin s m _ =>
          let v : Int := if s then -(m : Int) else m
          if v < -lim then (-lim, Flags.overflowed) else if lim - 1 < v then (lim - 1, Flags.overflowed) else (v, Flags.none)
        | _ => (0, Flags.none))
      ⟨r.map Prod.fst, [], [], r.foldl (fun a x => a.or x.2) Flags.none⟩

/-- The doubleword of a plane slot of a row or column: bit k is bit `slot` of q[k]. -/
def planeWord (q : List Int) (slot : Nat) : Nat :=
  (q.zipIdx).foldl (fun a x => a + (intBits 32 x.1 / 2 ^ slot % 2) * 2 ^ x.2) 0

/-- An outlier list entry (Table 13-4). -/
def outlierEntry (v : Int) (y k : Nat) : Nat := intBits 20 v * 2 ^ 12 + y * 64 + k

/-- What `mplane` works on. -/
structure PlaneJob where
  d   : PlaneDesc
  t   : ElemDesc
  f   : OpFmt
  off : Nat
  deriving DecidableEq, Repr

/-- Rows of an A tile or columns of a B tile. -/
def PlaneDesc.outers (d : PlaneDesc) : Nat := if d.b then 64 else 32

/-- The source elements of a job, as a shape. -/
def PlaneJob.shape (j : PlaneJob) : Shape :=
  if j.d.b then tileShape j.t j.f.fmt 64 j.t.rstr j.t.cstr else tileShape j.t j.f.fmt 32 j.t.cstr j.t.rstr

/-- The checks of `mplane` (R304, R307). -/
def mplaneCheck (x : Prog) (segs : List Seg) (bs : List Byte) : MatCheck PlaneJob :=
  match planeDescOf (bs.take 32), elemDescOf (bs.drop 32) with
  | some d, some t =>
    match opFmt (if d.b then x.cr.fmtB else x.cr.fmtA) with
    | none => .reserved
    | some f =>
      let off := (if d.b then x.cr.sclB else x.cr.sclA).toNat
      let area := if d.b then 512 else 256
      let k := if d.b then t.rstr else t.cstr
      let o := if d.b then t.cstr else t.rstr
      let es4 := f.fmt != .es4 || (t.scale != 0 && d.olist != 0 && k == 1 && o % 32 == 0 && t.base.toNat % 16 == 0)
      let int := f.fmt.intSigned.isNone || t.scale == 0
      if sclOk f off area && es4 && int then
        let j : PlaneJob := ⟨d, t, f, off⟩
        let sh := j.shape
        let els := (List.range (64 * d.outers)).map (fun e =>
          (BitVec.ofInt 48 (elemPlace sh.base (sh.index e) sh.bits).1, (sh.bits + 7) / 8))
        matPlaces segs [(d.base, 64), (d.olist, 8), (t.base, max 1 (f.fmt.bits / 8)), (t.scale, 2)]
          ([(d.base, f.p * area)] ++ (if d.olist = 0 then [] else [(d.olist, 8)]) ++ els) j
      else .reserved
  | _, _ => .reserved

/-- Write the block exponents of a row or column (R299, R307). -/
def PlaneJob.entries (j : PlaneJob) (c y : Nat) (r : PlaneRow) (s : State) : State :=
  if j.f.scaled then
    let o := j.off + 8 * y
    ((r.u.zipIdx).foldl (fun t x => t.setScl c (o + 2 * x.2) (BitVec.ofInt 16 x.1)) s).dropLatch c o 8
  else s

/-- The latch does not outlive a write of the planes that it holds (R307, R310). -/
def PlaneJob.unlatch (j : PlaneJob) (c : Nat) (s : State) : State :=
  match (s.cell c).latch with
  | some l => if l.base = j.d.base then s.modCell c (fun y => { y with latch := none }) else s
  | none => s

/-- Read and convert one row or column (R307). -/
def PlaneJob.load (j : PlaneJob) (v : VEnv) (y : Nat) : M PlaneRow := do
  let sh := j.shape
  let bs ← (List.range 64).mapM (fun k => readBits v sh (y * 64 + k))
  let w := { v.who with cls := j.t.cls }
  let recs ← if j.t.scale = 0 then pure [] else (List.range 2).mapM (fun m => do
    let r ← readVa w ((j.t.scale.toNat + 2 * (2 * y + m)) % 2 ^ 48) 2 .r
    pure (leNat r))
  pure (planeRow j.f v.rd.ftz v.nbv (j.t.scale != 0) bs recs)

/-- The whole outlier list lies in one region: how long it is the elements say, so they are looked at before anything is written (R304, R307;
log 11). -/
def PlaneJob.listFits (j : PlaneJob) (v : VEnv) : M Unit := do
  if j.f.fmt = .es4 then
    let ns ← (List.range j.d.outers).mapM (fun y => do
      let r ← j.load v y
      pure r.outs.length)
    let w := v.who.inClass j.d.cls
    straddleStop w j.d.olist.toNat (8 + 4 * ns.foldl (fun a n => a + n) 0) w.opW
  else pure ()

/-- One row or column of `mplane`: its flags and block exponents stand, whatever becomes of its writes (R67, R306); the last one also
writes the outlier list. The list so far, and the writes of the row. -/
def PlaneJob.run (j : PlaneJob) (v : VEnv) (y : Nat) (outs : List Nat) : M (List Nat × List UWrite) := do
  if y = 0 then j.listFits v else pure ()
  let r ← j.load v y
  v.raise r.flags
  let s ← M.state
  M.put (j.unlatch v.who.cell (j.entries v.who.cell y r s))
  let size := if j.d.b then 512 else 256
  let list := outs ++ r.outs.map (fun o => outlierEntry o.1 y o.2)
  let at_ := fun (a : Nat) (bs : List Byte) => UWrite.mem (a % 2 ^ 48 : Nat) bs none j.d.cls
  let planes := (List.range j.f.p).map (fun s => at_ (j.d.base.toNat + size * s + 8 * y) (leBytes 8 (planeWord r.q s)))
  let tail := if y + 1 = j.d.outers ∧ j.d.olist ≠ 0 then
      at_ j.d.olist.toNat (leBytes 8 list.length) ::
        list.zipIdx.map (fun e => at_ (j.d.olist.toNat + 8 + 4 * e.2) (leBytes 4 e.1))
    else []
  pure (list, planes ++ tail)

/-- `mplane` (R307). -/
def mplaneBody (c : Ctx) (x : Prog) (a b : Nat) (s : State) : Issued :=
  withDescs c [lo48 (s.reg c (a : Int)), lo48 (s.reg c (b : Int))] s fun p s =>
    (mplaneCheck x (s.segsOf c.cell) p.data).go c s fun j =>
      matUnit c p s j.d.outers fun s => do
        let r ← j.run (s.venv c x) p.sent p.ids
        pure { p with ids := r.1, writes := r.2 }

/-- R307. -/
def execMplane (a b : ERegNum) (s : State) : Out :=
  matrixInstr s [a.toNat, b.toNat] (fun c x s => mplaneBody c x a.toNat b.toNat s)

/-! ### Reading the operands of a tile operation (R310) -/

/-- Read an outlier list: none where R310 traps RESERVED. -/
def readOutliers (w : Who) (va : Addr) (limit : Nat) (isA : Bool) : M (Option (List (BitVec 32))) := do
  if va = 0 then pure (some [])
  else
    let h ← readVa w va.toNat 8 .r
    let n := leNat h
    if limit < n then pure none
    else
      straddleStop w va.toNat (8 + 4 * n) w.opR
      let bs ← readVa w (va.toNat + 8) (4 * n) .r
      let es := (List.range n).map (fun i => BitVec.ofNat 32 (leNat ((bs.drop (4 * i)).take 4)))
      pure (if isA && es.any (fun e => e.getLsbD 11) then none else some es)

/-- The block exponents of an operand of `n` rows or columns. -/
def State.exponents (s : State) (c : Nat) (f : OpFmt) (off n : Nat) : List Int :=
  (List.range (4 * n)).map (fun i => if f.scaled then s.sclAt c (off + 2 * i) else 0)

/-- The operand A as read. -/
def readA (s : State) (c : Nat) (w : Who) (f : OpFmt) (off : Nat) (d : PlaneDesc) :
    M (Option (List Byte × List Int × List (BitVec 32))) := do
  let w := { w with cls := d.cls }
  let bs ← readVa w d.base.toNat (256 * f.p) .r
  let l ← if f.fmt = .es4 then readOutliers w d.olist 1024 true else pure (some [])
  pure (l.map (fun es => (bs, s.exponents c f off 32, es)))

/-- The operand B as read, from the latch where HOLD finds it there. -/
def readB (s : State) (c : Nat) (w : Who) (f : OpFmt) (code : BitVec 9) (off : Nat) (d : PlaneDesc) : M (Option Latch) := do
  let held := match (s.cell c).latch with
    | some l => if d.hold && l.base == d.base && l.fmt == code && l.off == off then some l else none
    | none => none
  match held with
  | some l => pure (some l)
  | none =>
    let w := { w with cls := d.cls }
    let bs ← readVa w d.base.toNat (512 * f.p) .r
    let l ← if f.fmt = .es4 then readOutliers w d.olist 2048 false else pure (some [])
    pure (l.map (fun es => ⟨d.base, code, off, bs, s.exponents c f off 64, es⟩))

/-- The operands of a tile operation: its descriptors and formats. A gang member that is not the source has no A. -/
structure TileJob where
  a  : PlaneDesc
  b  : PlaneDesc
  fa : Option OpFmt
  fb : OpFmt
  deriving DecidableEq, Repr

/-- The checks of `mmul` and `mgang` (R304, R310, R311); `src` says whether this member reads an A operand. -/
def tileCheck (x : Prog) (segs : List Seg) (bs : List Byte) (src : PlaneDesc → Bool) : MatCheck TileJob :=
  match planeDescOf (bs.take 32), planeDescOf (bs.drop 32) with
  | some a, some b =>
    if a.b || !b.b || !b.plainB then .reserved
    else
      let useA := src a
      match opFmt x.cr.fmtA, opFmt x.cr.fmtB with
      | fa, some fb =>
        if useA && fa.isNone then .reserved
        else
          let f := if useA then fa else none
          let okA := match f with
            | some g => sclOk g x.cr.sclA.toNat 256 && !(g.fmt == .es4 && fb.fmt == .es4)
            | none => true
          if !okA || !sclOk fb x.cr.sclB.toNat 512 then .reserved
          else
            let areaA := match f with
              | some g => [(a.base, 256 * g.p)] ++ (if a.olist ≠ 0 ∧ g.fmt = .es4 then [(a.olist, 8)] else [])
              | none => []
            let areaB := [(b.base, 512 * fb.p)] ++ (if b.olist ≠ 0 ∧ fb.fmt = .es4 then [(b.olist, 8)] else [])
            matPlaces segs [(a.base, 64), (a.olist, 8), (b.base, 64), (b.olist, 8)] (areaA ++ areaB) ⟨a, b, f, fb⟩
      | _, none => .reserved
  | _, _ => .reserved

/-- Read what a tile operation needs: none where R310 traps RESERVED. -/
def TileJob.read (j : TileJob) (s : State) (c : Nat) (x : Prog) (w : Who) : M (Option (MatRun × Latch)) := do
  let ra ← match j.fa with
    | some f => readA s c w f x.cr.sclA.toNat j.a
    | none => pure (some ([], [], []))
  let rb ← readB s c w j.fb x.cr.fmtB x.cr.sclB.toNat j.b
  match ra, rb with
  | some r, some l =>
    let pa := match j.fa with | some f => f.p | none => 0
    let oa := match j.fa with | some f => f.off | none => 0
    let ae := match j.fa with | some f => f.fmt == .es4 | none => false
    pure (some (⟨pa, j.fb.p, oa, j.fb.off, j.a.frag, ae, j.fb.fmt == .es4, r.1, l.bytes, r.2.1, l.exps, r.2.2, l.list,
      j.a.gtag, j.a.srccol⟩, l))
  | _, _ => pure none

/-! ### Passes (R74, R310) -/

/-- The doubleword of a slot. -/
def slotWord (bs : List Byte) (size slot y : Nat) : Nat := leNat ((bs.drop (size * slot + 8 * y)).take 8)

/-- The integer that the planes of an element hold, in units of its plane offset. -/
def planeInt (bs : List Byte) (size p off y k : Nat) : Int :=
  (List.range p).foldl (fun (a : Int) s =>
    let b : Int := (slotWord bs size s y / 2 ^ k % 2 : Nat)
    a + (if s + 1 = p then -(b * 2 ^ (s + off)) else b * 2 ^ (s + off))) 0

/-- Set bits of a 16-bit block. -/
def pop16 (w b : Nat) : Nat := (List.range 16).foldl (fun a i => a + w / 2 ^ (16 * b + i) % 2) 0

/-- The exponents of the K-blocks of an accumulator. -/
def MatRun.t (m : MatRun) (r c b : Nat) : Int := (m.ua[4 * r + b]?).getD 0 + (m.ub[4 * c + b]?).getD 0

/-- Change every container of a fragment; says whether one clamped. -/
def State.eachAcc (s : State) (cell frag : Nat) (f : Nat → Nat → Word → Word × Bool) : State × Bool :=
  (List.range 2048).foldl (fun (acc : State × Bool) i =>
    let q := f (i / 64) (i % 64) (acc.1.accAt cell frag i)
    (acc.1.setAcc cell frag i q.1, acc.2 || q.2)) (s, false)

/-- Align the containers of the fragment, in the cycle of the first pass. -/
def MatRun.align (m : MatRun) (cell : Nat) (s : State) : State × Bool :=
  s.eachAcc cell m.frag (fun r c w => alignAcc w ((List.range 4).map (m.t r c)))

/-- Pass (i, j). -/
def MatRun.pass (m : MatRun) (cell i j : Nat) (s : State) : State × Bool :=
  let w : Int := 2 ^ (i + m.oa + j + m.ob)
  let w := if (i + 1 == m.pa) != (j + 1 == m.pb) then -w else w
  s.eachAcc cell m.frag (fun r c a =>
    let x := (accX a).getD 0
    let both := slotWord m.aBytes 256 i r &&& slotWord m.bBytes 512 j c
    let n := (List.range 4).foldl (fun (n : Int) b => n + (pop16 both b : Int) * 2 ^ (m.t r c b - x).toNat) 0
    addAcc a (w * n))

/-- The side addition of an A outlier. -/
def MatRun.sideA (m : MatRun) (cell : Nat) (e : BitVec 32) (s : State) : State × Bool :=
  let r := e.toNat / 64 % 64
  let k := e.toNat % 64
  s.eachAcc cell m.frag (fun y c a =>
    if y = r then addAcc a (signedNat 20 (e.toNat / 4096) * planeInt m.bBytes 512 m.pb m.ob c k *
      2 ^ (m.t r c (k / 16) - (accX a).getD 0).toNat)
    else (a, false))

/-- The side addition of a B outlier. -/
def MatRun.sideB (m : MatRun) (cell : Nat) (e : BitVec 32) (s : State) : State × Bool :=
  let c := e.toNat / 64 % 64
  let k := e.toNat % 64
  s.eachAcc cell m.frag (fun r y a =>
    if y = c then addAcc a (planeInt m.aBytes 256 m.pa m.oa r k * signedNat 20 (e.toNat / 4096) *
      2 ^ (m.t r c (k / 16) - (accX a).getD 0).toNat)
    else (a, false))

/-- Units of a tile operation: its passes, then its side additions. -/
def MatRun.units (m : MatRun) : Nat := m.pa * m.pb + m.alist.length + m.blist.length

/-- One unit: the first pass aligns. -/
def MatRun.unit (m : MatRun) (cell u : Nat) (s : State) : State × Bool :=
  let n := m.pa * m.pb
  if u < n then
    let q := if u = 0 then m.align cell s else (s, false)
    let r := m.pass cell (u / m.pb) (u % m.pb) q.1
    (r.1, q.2 || r.2)
  else
    match m.alist[u - n]? with
    | some e => m.sideA cell e s
    | none => match m.blist[u - n - m.alist.length]? with | some e => m.sideB cell e s | none => (s, false)

/-- Run units from `p.sent` on, one at a time; a program cancelled before the first one leaves the fragment unchanged (R306). -/
def runTile (c : Ctx) (m : MatRun) (p : Pending) (s : State) : Issued :=
  atUnit c s fun s =>
    let r := m.unit c.cell p.sent s
    nextUnit c p m.units (r.1.progRaise c (asFlag r.2))

/-- `mmul` (R310). It stands at the scoreboard from its start, before its operand reads (R305). -/
def mmulBody (c : Ctx) (x : Prog) (a b : Nat) (s : State) : Issued :=
  withDescs c [lo48 (s.reg c (a : Int)), lo48 (s.reg c (b : Int))] s fun p s =>
    match p.mat with
    | some m => withScore c [m.frag] p s fun p s => runTile c m p s
    | none =>
      (tileCheck x (s.segsOf c.cell) p.data (fun _ => true)).go c s fun j =>
        let s := s.reachScore c.cell (s.progId c) [j.a.frag]
        withMemory c (j.read s c.cell x (s.whoGroup c)) s fun r s1 =>
          match r with
          | none => .trap 0x02 0
          | some (m, l) =>
            let p1 := { p with mat := some m }
            let s2 := (s1.endWait (s1.req c)).modCell c.cell (fun y => { y with latch := some l })
            withScore c [m.frag] p1 (s2.setPend c p1) fun p s => runTile c m p s

/-- R310. -/
def execMmul (a b : ERegNum) (s : State) : Out :=
  matrixInstr s [a.toNat, b.toNat] (fun c x s => mmulBody c x a.toNat b.toNat s)

/-! ### Gangs (R311 to R313) -/

/-- The name of a strip segment: 64 × package strip + field (R148). -/
def State.segmentOf (s : State) (c : Nat) : Nat := 64 * stripOf c + (s.cell c).field

/-- The cells of a strip segment. -/
def State.segmentCells (s : State) (k : Nat) : List Nat :=
  match AL.find s.fields (k % 64) with
  | some f => ((List.range 32).map (fun i => 32 * (k / 64) + i)).filter (fun c =>
      f.ctx.holds c && (s.cell c).fieldV && (s.cell c).field == k % 64)
  | none => []

/-- A gang join. -/
def State.gang (s : State) (k : Nat) : GangJoin := AL.get GangJoin.idle s.gangs k
/-- Replace it. -/
def State.setGang (s : State) (k : Nat) (g : GangJoin) : State :=
  { s with gangs := if g = GangJoin.idle then AL.del s.gangs k else AL.put s.gangs k g }

/-- A member arrives at its join: stage 11 waits there; `ids` holds the address of a refused read. -/
def arriveGang (c : Ctx) (p : Pending) (s : State) (marked : Bool) : Issued :=
  let k := s.segmentOf c.cell
  let g := s.gang k
  .stall ((s.setGang k { g with arrived := g.arrived ++ [(c.cell, marked)] }).setPend c { p with stage := 11 })

/-- A member joins; while a gang of its segment runs it waits for the end of that gang first, and ends if it is cancelled (R312). -/
def joinGang (c : Ctx) (p : Pending) (s : State) : Issued :=
  if (s.gang (s.segmentOf c.cell)).running then
    cancelCheck c (s.namingOf (.prog (s.progId c))).scope s fun s => .stall (s.setPend c p)
  else arriveGang c p s (p.ids ≠ [])

/-- A member that waits at its join: it withdraws where its program is cancelled before the gang runs (R312). -/
def awaitGang (c : Ctx) (sc : BitVec 32) (s : State) : Issued :=
  let k := s.segmentOf c.cell
  let g := s.gang k
  if g.running then .stall s
  else if !s.mayCheck c.cell sc then .stall (s.askUnit c.cell sc)
  else
    let s1 := s.checked c.cell sc
    if s.cancelledAt c.cell sc then cancelProg c (s1.setGang k { g with arrived := g.arrived.filter (fun m => m.1 != c.cell) })
    else .stall s1

/-- `mgang` (R311). It stands at the scoreboard from its start (R305). -/
def mgangBody (c : Ctx) (x : Prog) (a b : Nat) (s : State) : Issued :=
  withDescs c [lo48 (s.reg c (a : Int)), lo48 (s.reg c (b : Int))] s fun p s =>
    if p.stage = 11 then awaitGang c x.naming.scope s
    else
      match p.mat with
      | some m =>
        withScore c [m.frag] p s fun p s =>
          if p.sent = 0 then joinGang c p s else runTile c m p s
      | none =>
        (tileCheck x (s.segsOf c.cell) p.data (fun d => d.srccol == colOf c.cell)).go c s fun j =>
          let blank : MatRun := ⟨0, j.fb.p, 0, j.fb.off, j.a.frag, false, j.fb.fmt == .es4, [], [], [], [], [], [], j.a.gtag,
            j.a.srccol⟩
          let s := s.reachScore c.cell (s.progId c) [j.a.frag]
          let reach := fun (m : MatRun) (refusedAt : List Nat) (s : State) =>
            let p1 := { p with mat := some m, ids := refusedAt }
            withScore c [m.frag] p1 (s.setPend c p1) (fun p s => joinGang c p s)
          match withMemory c (j.read s c.cell x (s.whoGroup c)) s (fun r s1 =>
              match r with
              | none => .trap 0x02 0
              | some (m, l) => reach m [] ((s1.endWait (s1.req c)).modCell c.cell (fun y => { y with latch := some l }))) with
          | .trapIn s1 0x0A va => reach blank [va.toNat] s1
          | r => r

/-- R311. -/
def execMgang (a b : ERegNum) (s : State) : Out :=
  matrixInstr s [a.toNat, b.toNat] (fun c x s => mgangBody c x a.toNat b.toNat s)

/-- The matrix program of a cell that waits at a join, with what it has read. -/
def State.gangMember (s : State) (c : Nat) : Option (Nat × Prog × Pending × MatRun) :=
  match (s.cell c).matrix.run with
  | none => none
  | some p =>
    match AL.find s.progs p with
    | some x =>
      match x.pend with
      | some q => if q.stage = 11 then q.mat.map (fun m => (p, x, q, m)) else none
      | none => none
    | none => none

/-- A member of a gang that does not run traps (R311). -/
def State.gangTrap (s : State) (c : Nat) (site : Site) (marked : Bool) : State :=
  match s.gangMember c with
  | some (p, _, q, _) =>
    (s.leaveScore c p).raiseEngineTrap p (if marked then 0x0A else 0x02) site (word (q.ids.headD 0))
  | none => s

/-- The site of the group at the PC of a program: `mgang` is two halfwords, its prefix word first. -/
def mgangSite (s : State) (c : Nat) (x : Prog) : Site :=
  match (s.fetchHalf c (x.pc + 2).toNat).1 with
  | .ok h => ⟨x.pc, x.pc + 4, 4, [0xF804#16], h⟩
  | _ => ⟨x.pc, x.pc + 4, 4, [0xF804#16], 0⟩

/-- Does a gang of some segment of a strip run (R312)? -/
def State.stripRuns (s : State) (strip : Nat) : Bool := s.gangs.any (fun g => g.1 / 64 == strip && g.2.running)

/-- Does a member find its scope cancelled only from the answer of its home, which has not come (R168)? -/
def State.gangAsks (s : State) (c : Nat) : Option (BitVec 32) :=
  match s.gangMember c with
  | some (_, x, _, _) => if !s.mayCheck c x.naming.scope then some x.naming.scope else none
  | none => none

/-- Has a member's cell been notified of the cancellation of its program's scope? -/
def State.gangGone (s : State) (c : Nat) : Bool :=
  match s.gangMember c with
  | some (_, x, _, _) => s.cancelledAt c x.naming.scope
  | none => false

/-- The program of a gang's member ends (R312). -/
def State.gangEnd (s : State) (c : Nat) : State :=
  match s.gangMember c with
  | some (p, x, _, _) =>
    ((s.checked c x.naming.scope).leaveScore c p).modProg p (fun y => { y with life := .ending, pend := none })
  | none => s

/-- A member that has been cancelled withdraws its arrival, and its program ends with no pass made (R312). -/
def State.gangWithdraws (s : State) (k : Nat) (gone : List Nat) : State :=
  let g := s.gang k
  (gone.foldl State.gangEnd s).setGang k { g with arrived := g.arrived.filter (fun m => !gone.contains m.1) }

/-- GANG_START: every member of a strip segment has arrived and no gang runs on the strip; the gang runs with the source's A operand, or
every member traps (R311, R312). A member that has been cancelled withdraws first. -/
def State.tryGang (s : State) (k : Nat) : Option State :=
  let g := s.gang k
  let ms := s.segmentCells k
  if s.stripRuns (k / 64) || ms.isEmpty || ms.any (fun c => !s.engineGo c) || !ms.all (fun c => g.arrived.any (fun a => a.1 == c)) then none
  else if ms.any (fun c => (s.gangAsks c).isSome) then
    some (ms.foldl (fun t c => match s.gangAsks c with | some sc => t.askUnit c sc | none => t) s)
  else if ms.any s.gangGone then some (s.gangWithdraws k (ms.filter s.gangGone))
  else
    let data : List (Nat × MatRun) := ms.filterMap (fun c => (s.gangMember c).map (fun r => (c, r.2.2.2)))
    let src := match data.head? with
      | some (_, m) => data.find? (fun (d : Nat × MatRun) => colOf d.1 == m.srccol)
      | none => none
    let marked := fun (c : Nat) => g.arrived.any (fun a => a.1 == c && a.2)
    let same := match data.head? with
      | some (_, m) => data.all (fun (d : Nat × MatRun) => d.2.gtag == m.gtag && d.2.srccol == m.srccol && d.2.pb == m.pb)
      | none => false
    match src with
    | some (_, a) =>
      if same && ms.all (fun c => !marked c) && !(a.aes4 && data.any (fun (d : Nat × MatRun) => d.2.bes4)) then
        let join := fun (t : State) (d : Nat × MatRun) =>
          match t.gangMember d.1 with
          | some (p, _, q, m) => t.modProg p (fun y => { y with pend := some { q with
              mat := some { m with pa := a.pa, oa := a.oa, aes4 := a.aes4, aBytes := a.aBytes, ua := a.ua, alist := a.alist } } })
          | none => t
        some ((data.foldl join s).setGang k { g with running := true, pass := 0 })
      else
        some ((ms.foldl (fun (t : State) (c : Nat) => match t.gangMember c with
          | some (_, x, _, _) => t.gangTrap c (mgangSite t c x) (marked c)
          | none => t) s).setGang k GangJoin.idle)
    | none =>
      some ((ms.foldl (fun (t : State) (c : Nat) => match t.gangMember c with
        | some (_, x, _, _) => t.gangTrap c (mgangSite t c x) (marked c)
        | none => t) s).setGang k GangJoin.idle)

/-- GANG_START (R311). -/
def execGangStart (strip : Nat) (s : State) : Out := happen s (s.tryGang strip)


/-- A member makes a pass, unless it is cancelled: then it ends, but a source first broadcasts to the end (R306, R312). -/
def State.gangUnit (s : State) (c pass : Nat) (last : Bool) : State :=
  match s.gangMember c with
  | none => s
  | some (p, x, q, m) =>
    if s.gangGone c then (if colOf c == m.srccol && !last then s.checked c x.naming.scope else s.gangEnd c)
    else
      let r := m.unit c pass (s.checked c x.naming.scope)
      let t := r.1.modProg p (fun y => { y with cr := { y.cr with rmode := y.cr.rmode ||| (asFlag r.2).toWord } })
      if last then t.modProg p (fun y => { y with pend := some { q with stage := 8, sent := pass + 1 } }) else t

/-- GANG_PASS: every member makes the next pass (R311, R313), once the members in overflow mode know of their scopes (R168). A stopped
cluster holds the gang. -/
def State.tryPass (s : State) (k : Nat) : Option State :=
  let g := s.gang k
  let cells := g.arrived.map Prod.fst
  if !g.running || cells.any (fun c => (s.cluster (clusterOf c)).stopped) then none
  else
    let n := (cells.filterMap (fun c => (s.gangMember c).map (fun r => r.2.2.2.pa * r.2.2.2.pb))).headD 0
    let last := decide (n ≤ g.pass + 1)
    let asks := cells.filterMap (fun c => (s.gangAsks c).map (fun sc => (c, sc)))
    if asks ≠ [] then some (asks.foldl (fun t a => t.askUnit a.1 a.2) s)
    else
    let s1 := cells.foldl (fun t c => t.gangUnit c g.pass last) s
    some (s1.setGang k (if last then GangJoin.idle else { g with pass := g.pass + 1 }))

/-- GANG_PASS (R313). -/
def execGangPass (strip : Nat) (s : State) : Out := happen s (s.tryPass strip)

/-! ### `mst` (R314) -/

/-- What `mst` works on. -/
structure StoreJob where
  d    : ElemDesc
  fmt  : Fmt
  frag : Nat
  clr  : Bool
  adj  : Int
  deriving DecidableEq, Repr

/-- The elements of the destination. -/
def StoreJob.shape (j : StoreJob) : Shape := tileShape j.d j.fmt 32 j.d.cstr j.d.rstr

/-- The checks of `mst` (R296, R304, R314). -/
def mstCheck (x : Prog) (segs : List Seg) (bs : List Byte) (v : Word) : MatCheck StoreJob :=
  match elemDescOf bs, fmtOf x.cr.result.toNat with
  | some d, some f =>
    if f = .es4 ∨ f = .e8m0 ∨ d.scale ≠ 0 ∨ bits v 7 2 ≠ 0 ∨ bits v 15 9 ≠ 0 ∨ bits v 63 32 ≠ 0 then .reserved
    else
      let j : StoreJob := ⟨d, f, bits v 1 0, bitAt v 8, signedNat 16 (bits v 31 16)⟩
      let sh := j.shape
      let els := (List.range 2048).map (fun e =>
        (BitVec.ofInt 48 (elemPlace sh.base (sh.index e) sh.bits).1, (sh.bits + 7) / 8))
      matPlaces segs [(d.base, max 1 (f.bits / 8))] els j
  | _, _ => .reserved

/-- The result of a container (R75, R314): its exact value times 2^ADJ. -/
def StoreJob.value (j : StoreJob) (w : Word) : Num :=
  let v := accV w
  .fin (decide (v < 0)) v.natAbs ((accX w).getD 0 + j.adj)

/-- A row of results, rounded with the LFSRs of its columns (R69). -/
def StoreJob.row (j : StoreJob) (v : VEnv) (s : State) (r : Nat) : List (Nat × Nat) × Flags × AL (BitVec 16) :=
  (List.range 64).foldl (fun (acc : List (Nat × Nat) × Flags × AL (BitVec 16)) c =>
    let d := v.draw acc.2.2 c
    let q := j.fmt.ofNum v.rd (j.value (s.accAt v.who.cell j.frag (64 * r + c))) d.1
    (acc.1 ++ [(64 * r + c, q.1)], acc.2.1.or q.2, d.2)) ([], Flags.none, (s.cell v.who.cell).mlfsr)

/-- A row: what it raises and draws stands, whatever becomes of its writes (R67, R306). -/
def StoreJob.writes (j : StoreJob) (v : VEnv) (r : List (Nat × Nat) × Flags × AL (BitVec 16)) : M (List UWrite) := do
  v.raise r.2.1
  let s ← M.state
  M.put (s.modCell v.who.cell (fun y => { y with mlfsr := r.2.2 }))
  pure (resultsOf v j.shape 0 r.1 []).writes

/-- `mst` (R314), row by row; CLR clears the fragment after every write has been performed. -/
def mstBody (c : Ctx) (x : Prog) (a b : Nat) (s : State) : Issued :=
  withDescs c [lo48 (s.reg c (a : Int))] s fun p s =>
    (mstCheck x (s.segsOf c.cell) p.data (s.reg c (b : Int))).go c s fun j =>
      withScore c [j.frag] p s fun p s =>
        matUnit c p s 32 (fun s => do
          let ws ← j.writes (s.venv c x) (j.row (s.venv c x) s p.sent)
          pure { p with writes := ws }) (fun s => if j.clr then s.clearFrag c.cell j.frag else s)

/-- R314. -/
def execMst (a b : ERegNum) (s : State) : Out :=
  matrixInstr s [a.toNat, b.toNat] (fun c x s => mstBody c x a.toNat b.toNat s)

end Sys2Proof.Machine
end

