-- ==== Sys2Proof/Machine/Switch.lean ====
section
/-! DEFINITION. Switching a field's context, its save area, stops and dumps (spec 17, R344 to R346; spec 19, R396, R397). -/

namespace Sys2Proof.Machine

/-! ### Save areas (R346, Table 17-10) -/

/-- Bytes of the field block of a save area. -/
def fieldBlockSize : Nat := 0x10000
/-- Bytes of a cell block. -/
def cellBlockSize : Nat := 0x80000

/-- The 64 bytes of a message: its header and its words (Table 18-4). -/
def Msg.image (m : Msg) : List Byte := wordsBytes ((m.packet 0).header ++ (List.range 4).map (fun i => (m.words[i]?).getD 0))

/-- The state code of a frame slot (Table 17-10); a frame that has issued `done` runs. -/
def FrameLife.code : FrameLife → Nat
  | .free => 0
  | .running => 1
  | .done => 1
  | .parked => 2
  | .frozen => 3

/-- The block of a frame slot: snapshot, PC, state, DSEQ, per-frame control registers, naming fields and holdings (R397; the places
from 0x290 on by log 34). -/
def State.frameBlock (s : State) (c slot : Nat) : List (Nat × List Byte) :=
  let f := s.frame c slot
  let a := s.act f.act
  let ctx : Ctx := ⟨c, .scalar, slot, Site.zero⟩
  let head := [addrWord f.pc, word (f.life.code + 256 * (AL.get 0 (s.cell c).dseq slot).toNat)]
  let crs := (List.range 12).map (fun k => s.crRead ctx (k + 4))
  let name := [a.naming.hdr, a.naming.scopeWord, addrWord a.entry]
  let holds := (a.holdings.take 8).flatMap (fun h => [h.scope.setWidth 64, word h.w])
  [(0, wordsBytes (snapshot f)), (0x280, wordsBytes (head ++ crs ++ name)), (0x320, wordsBytes holds)]

/-- The record of a scope slot (Table 8-1). -/
def ScopeRec.image (r : ScopeRec) : List Byte :=
  let life := match r.life with | .free => 0 | .open => 1 | .closing => 2 | .empty => 3
  wordsBytes ([hiLo r.parent r.claimer, hiLo ((r.kids.head?).getD 0) r.sib, r.issued, r.retd, r.cont] ++ r.cwords.take 4 ++
    [word (r.depth.toNat * 2 ^ 12 + r.tenant.toNat * 2 ^ 8 + flag r.root * 2 ^ 7 + flag r.shld * 2 ^ 5 + flag r.clmd * 2 ^ 4 +
      flag r.canc * 2 ^ 3 + life), 0, 0])

/-- A queued operation as a word: what it is and its number. -/
def QItem.image : QItem → Word
  | .prog p => word p
  | .copy c => word (2 ^ 62 + c)
  | .marker m => word (2 ^ 63 + m)

/-- The block of an engine: e0 to e15, PC, rounding copy and queue. -/
def State.engineBlock (s : State) (c : Nat) (u : EngineUnit) : List Byte :=
  let e := (s.cell c).engine u
  let x := e.run.bind (AL.find s.progs)
  wordsBytes ((List.range 16).map (Regs.get e.e) ++
    [(match x with | some p => addrWord p.pc | none => 0), (match x with | some p => p.cr.rmode | none => 0), word e.queue.length] ++
    e.queue.map QItem.image)

/-- Per-cell control registers, route tags, deficits, cancel list, joins and bell registrations (their places by log 34). -/
def State.cellHead (s : State) (c : Nat) : List (Nat × List Byte) :=
  let x := s.cell c
  let ctx : Ctx := ⟨c, .scalar, 0, Site.zero⟩
  let crs := [0x000, 0x003, 0x010, 0x011, 0x012, 0x013].map (fun k => (8 * k, wordsBytes [s.crRead ctx k]))
  let tags := (List.range 16).map (fun t =>
    let e := AL.get TagEntry.reset x.tags t
    word (e.handler.toNat + e.chan.toNat * 2 ^ 48 + flag e.en * 2 ^ 51))
  let defs := (List.range 16).map (fun t => BitVec.ofInt 64 (AL.get 0 x.deficit t))
  let cancels := word (flag x.overflow * 2 ^ 32 + x.cancels.length)
  let joins := x.joins.vals.zipIdx.map (fun j => (0x900 + 64 * j.2, wordsBytes ([j.1.handler] ++ j.1.words.take 4 ++
    [j.1.naming.hdr, j.1.naming.scopeWord, word j.1.w])))
  let bells := x.bells.flatMap (fun b =>
    match (match b.2.cont with | some m => some m | none => b.2.bare) with
    | some m => [(0xD00 + 64 * b.1, m.image)]
    | none => [])
  crs ++ [(0x200, wordsBytes tags), (0x280, wordsBytes defs), (0x300, wordsBytes [cancels]),
    (0x400, x.cancels.flatMap (fun sc => leBytes 4 sc.toNat))] ++ joins ++ bells

/-- A cell block (Table 17-10): pieces and their offsets; what no piece covers is zero. -/
def State.cellBlock (s : State) (c : Nat) : List (Nat × List Byte) :=
  let x := s.cell c
  s.cellHead c ++
  (List.range 16).flatMap (fun k => (s.frameBlock c k).map (fun p => (0x1000 + 1024 * k + p.1, p.2))) ++
  x.slots.map (fun p => (0x5000 + 128 * p.1, p.2.msg.image ++ leBytes 8 p.2.arrived.toNat ++ leBytes 8 (1 + p.2.order * 256))) ++
  x.scopes.map (fun p => (0x17000 + 96 * p.1, p.2.image)) ++
  [(0x1D000, s.engineBlock c .vector), (0x1E000, s.engineBlock c .matrix), (0x1F000, s.engineBlock c .streamer)] ++
  [(0x20000, wordsBytes ((List.range 8192).map (AL.get accUnset x.acc)))] ++
  x.scales.map (fun p => (0x30000 + 2 * p.1, leBytes 2 p.2.toNat)) ++
  [(0x40000, s.mem.bytes (nearAddr c 0) nearSize)]

/-- The field block: the running state of the field's bells and the partly sent launches of its context's queues (R346; places by log
34). -/
def State.fieldBlock (s : State) (f : Nat) : List (Nat × List Byte) :=
  let bells := s.bells.filter (fun p => p.2.field == some f)
  let held := s.heldQueues f
  let parts := s.launches.vals.filter (fun l => l.field == f && !l.stage.consumed && !held.contains l.queue)
  bells.map (fun p => (256 * p.1, wordsBytes [p.2.cfg, word p.2.ext, p.2.gen.setWidth 64] ++
    leBytes 128 (p.2.latches.foldl (fun n c => n + 2 ^ (c % 1024)) 0))) ++
  parts.zipIdx.map (fun p =>
    let sent := match p.1.stage with | .sending e => e | _ => 0
    (0x4000 + 128 * p.2, wordsBytes (p.1.packet.take 8 ++ [p.1.root.setWidth 64, word sent, word p.1.queue])))

/-- Write the blocks of a field to an area at a physical address of far memory (log 33). -/
def State.writeArea (s : State) (x : FieldCtx) (area : Addr) : State :=
  let a := farAddr area.toNat
  let m1 := s.mem.block a fieldBlockSize (s.fieldBlock x.field)
  let m2 := x.cells.zipIdx.foldl (fun m p =>
    m.block (a + fieldBlockSize + cellBlockSize * p.2) cellBlockSize (s.cellBlock p.1)) m1
  let n := fieldBlockSize + cellBlockSize * x.cells.length
  { s with mem := m2, poison := s.poison.filter (fun p => !(decide (a ≤ p) && decide (p < a + n))) }

/-! ### Stops and dumps (R396, R397) -/

/-- STOP_FIELD (R396). -/
def execStopField (f : Nat) (s : State) : Out := .next (s.stopField f)

/-- RESUME_FIELD: dispatch goes on (R396). -/
def execResumeField (f : Nat) (s : State) : Out :=
  .next (s.modField f (fun x => if x.mode = .stopping then { x with mode := .running } else x))

/-- Is a stop complete: no frame of the field runs, and no engine operation is under way (R396)? -/
def State.stopComplete (s : State) (x : Field) : Bool :=
  x.mode == .stopping &&
  x.ctx.cells.all (fun c =>
    (s.cell c).frames.all (fun p => p.2.life != .running && p.2.life != .done) && (s.cell c).vector.run.isNone &&
      (s.cell c).matrix.run.isNone && (s.cell c).streamer.run.isNone) &&
  s.copies.all (fun p => !(x.ctx.holds p.2.cell && p.2.atHead)) &&
  s.progs.all (fun p => !(x.ctx.holds p.2.cell && (p.2.life == .running || p.2.life == .ending)))

/-- DUMP: the state of a stopped field is written to a dump area; the field's own state does not change (R397). -/
def execDump (f : Nat) (area : Addr) (s : State) : Out :=
  .next (match AL.find s.fields f with
    | none => s.refuseMgmt
    | some x => if s.stopComplete x && area.toNat % fieldBlockSize == 0 then (s.writeArea x.ctx area).answerMgmt [0] else s.refuseMgmt)

/-! ### Switching (R345, Table 17-9) -/

/-- A queue enters PAUSED at a packet boundary: what its processor works on for it is taken up again later; a LAUNCH partly sent
stops between start messages (Table 17-9, step 1). -/
def State.pauseQueue (s : State) (q : Nat) : State :=
  ((s.modQueue q (fun e => { e with state := .paused, waitOk := false })).leaveSlot q).freeCp q

/-- Is a queue one that consumes packets or could? -/
def QueueEntry.active (e : QueueEntry) : Bool :=
  e.state == .idle || e.state == .ready || e.state == .waiting || e.state == .parked

/-- The queues bound to a field enter PAUSED. -/
def State.pauseField (s : State) (f : Nat) : State :=
  (s.queues.filter (fun q => q.2.field == f && q.2.active)).foldl (fun t q => t.pauseQueue q.1) s

/-- CONTEXT_SWITCH: queues pause, and dispatch and stealing stop (Table 17-9, steps 1 and 2). -/
def execContextSwitch (f : Nat) (s : State) : Out :=
  .next (match AL.find s.fields f with
    | some x =>
      if (x.mode = .running ∨ x.mode = .stopping) ∧ x.fenced = false then
        (s.pauseField f).modField f (fun y => { y with mode := .switching, deadline := false })
      else s
    | none => s)

/-- PREEMPT_DEADLINE: running activations stop at their next instruction boundary (Table 17-9, step 3). -/
def execPreemptDeadline (f : Nat) (s : State) : Out :=
  .next (s.modField f (fun x => if x.mode = .switching then { x with deadline := true } else x))

/-- May a frame be saved as it stands? -/
def Frame.settled (f : Frame) (deadline : Bool) : Bool :=
  match f.life with
  | .free => true
  | .running => deadline && f.outst.isEmpty && f.pend.isNone
  | .done => false
  | .parked => true
  | .frozen => match f.trap with | some t => t.stage != .raised | none => false

/-- Is an access one that a parked activation or an engine waits for at a translation agent? -/
def Flight.heldFault (f : Flight) : Bool :=
  f.stage == .faulted && !f.posted && (match f.op with | .store _ => false | _ => true)

/-- The count that the routers and hub ports of a field keep for its context's colour: what they hold on the way from a cell of the field
or to one (R344); what has left the device, or waits at an agent, is in no router. -/
def State.colourCount (s : State) (x : Field) : Nat :=
  let here := fun (g : BitVec 24) (hub : Bool) => !hub && devOf g == s.devNum && x.ctx.holds (cellOf g)
  let to_ := fun (t : Target) => match t with | .sram a => (match ownerCell a with | some c => x.ctx.holds c | none => false) | _ => false
  (s.msgs.filter (fun p => p.2.msg.colour == x.ctx.colour && (here p.2.msg.src p.2.msg.hub || here p.2.msg.dst false))).length +
  (s.ctls.filter (fun p => p.2.colour == x.ctx.colour && (here p.2.src p.2.hub || here p.2.dst false))).length +
  (s.flights.filter (fun p => s.flightColour p.2 == x.ctx.colour && (p.2.stage == .going || p.2.stage == .leaving) &&
    (s.issuedIn x.ctx.holds p.2 || (to_ p.2.target || to_ p.2.second)))).length +
  (s.packets.filter (fun p => p.2.pkt.colour == x.ctx.colour && here p.2.pkt.src p.2.pkt.hub &&
    (match p.2.place with | .egress _ => true | _ => false))).length

/-- Does an engine program stand where a switch may save it: at an instruction boundary, waiting for a page that is not resident, or
before its instruction has begun: for the scoreboards or at the join of a gang, from which it withdraws (Table 17-9, step 4)? -/
def State.progSettled (s : State) (p : Nat) (x : Prog) : Bool :=
  match x.pend with
  | none => true
  | some q =>
    q.stage == 7 || (q.stage == 11 && !(s.gang (s.segmentOf x.cell)).running) ||
    (match s.waitOf (.prog p) with | .page _ => true | .withheld => true | _ => false)

/-- Has the field nothing under way that a switch waits for (Table 17-9, steps 3 to 5)? -/
def State.switchDrained (s : State) (x : Field) : Bool :=
  let inC := x.ctx.holds
  let here := fun (g : BitVec 24) (hub : Bool) => !hub && devOf g == s.devNum && inC (cellOf g)
  x.ctx.cells.all (fun c =>
    let y := s.cell c
    y.frames.all (fun p => p.2.settled x.deadline) && y.sb.isEmpty && y.outq.isEmpty && y.incoming.isEmpty &&
      y.opening.isEmpty) &&
  s.colourCount x == 0 && s.flights.all (fun p => !s.issuedIn inC p.2 || p.2.heldFault) && s.wakes.all (fun p => !here p.2.msg.src p.2.msg.hub) &&
  s.credits.all (fun p => !inC p.2.cell) && s.arrivals.all (fun p => p.2.field != some x.ctx.field) &&
  s.dues.all (fun d => (s.bell d.die d.bell).field != some x.ctx.field) &&
  s.copies.all (fun p => !inC p.2.cell || (p.2.phase == 0 && p.2.credits == 0 && p.2.chunks.all (fun k => k.2.life == .forwarded))) &&
  s.progs.all (fun p => !inC p.2.cell || (p.2.life != .ending && p.2.life != .buffered && (p.2.life != .running || s.progSettled p.1 p.2) &&
    (match p.2.trap with | some t => t.stage != .raised | none => true))) &&
  s.acts.all (fun p => !inC p.2.cell || p.2.slot.isSome || p.2.holdings.isEmpty || !p.2.dead.isEmpty) &&
  s.launches.all (fun p => !(p.2.field == x.ctx.field && (p.2.stage == .linking || p.2.stage == .emptied || p.2.stage == .completing))) &&
  s.queues.all (fun q => !(q.2.field == x.ctx.field && q.2.headDue))

/-- Waiting members of a gang withdraw from their join: they arrive again when they go on (Table 17-9, step 4). -/
def State.withdraw (s : State) (k : Nat) : State :=
  let g := s.gang k
  if g.running then s
  else
    (g.arrived.foldl (fun (t : State) m => match t.gangMember m.1 with
      | some (p, _, q, _) => t.modProg p (fun y => { y with pend := some { q with stage := 8 } })
      | none => t) s).setGang k GangJoin.idle

/-- A cell of a field that has been switched out: as after cell reset, with its sender table (R386). -/
def Cell.emptied (y : Cell) : Cell := { y.afterReset with senders := y.senders }

/-- Save a field's context (Table 17-9, step 6): to its save area, and, for what the manual does not lay out there, beside it. -/
def State.saveField (s : State) (x : Field) : State :=
  let inC := x.ctx.holds
  let s0 := ((s.gangs.filter (fun g => g.1 % 64 == x.ctx.field)).foldl (fun t g => t.withdraw g.1) s).writeArea x.ctx x.ctx.save
  let mineF := fun (p : Nat × PageFault) => p.2.reqs.any (fun r => s0.reqIn inC r.req)
  let v : Saved :=
    { ctx := x.ctx, segs := x.segs, cells := s0.cells.filter (fun p => inC p.1),
      bells := s0.bells.filter (fun p => p.2.field == some x.ctx.field), acts := s0.acts.filter (fun p => inC p.2.cell),
      progs := s0.progs.filter (fun p => inC p.2.cell), copies := s0.copies.filter (fun p => inC p.2.cell),
      markers := s0.markers.filter (fun p => inC p.2.cell), flights := s0.flights.filter (fun p => s0.issuedIn inC p.2),
      gangs := s0.gangs.filter (fun g => g.1 % 64 == x.ctx.field), faults := s0.faults.filter mineF,
      waits := s0.waits.filter (fun w => s0.reqIn inC w.req),
      queues := (s0.queues.filter (fun q => q.2.field == x.ctx.field && (q.2.state == .paused || q.2.state == .error) &&
        !(s0.heldQueues x.ctx.field).contains q.1)).map Prod.fst,
      use := x.trapUse, nextT := x.trapNext }
  { s0 with
    saved := s0.saved ++ [v],
    cells := s0.cells.map (fun p => (p.1, if inC p.1 then p.2.emptied else p.2)),
    acts := s0.acts.filter (fun p => !inC p.2.cell), progs := s0.progs.filter (fun p => !inC p.2.cell),
    copies := s0.copies.filter (fun p => !inC p.2.cell), markers := s0.markers.filter (fun p => !inC p.2.cell),
    flights := s0.flights.filter (fun p => !s0.issuedIn inC p.2),
    gangs := s0.gangs.filter (fun g => g.1 % 64 != x.ctx.field), faults := s0.faults.filter (fun p => !mineF p),
    waits := s0.waits.filter (fun w => !s0.reqIn inC w.req),
    fields := AL.put s0.fields x.ctx.field { x with mode := .out, deadline := false, trapUse := [], trapNext := 0 } }

/-- A state code as it is read back; one that has issued `done` runs (Table 17-10). -/
def FrameLife.ofCode (old : FrameLife) (k : Nat) : FrameLife :=
  if k = old.code then old else match k with | 0 => .free | 1 => .running | 2 => .parked | _ => .frozen

/-- What a frame takes back from its block: registers, index registers, PC, state and control registers. -/
def Frame.restored (f : Frame) (ws : List Word) : Frame :=
  let w := fun (i : Nat) => (ws[i]?).getD 0
  if f.life = .free then f
  else { f with
    g := snapRegs f.size ws, x := snapX ws, pc := lo48 (w 80), life := f.life.ofCode (bits (w 81) 7 0), held := none,
    cr := ⟨w 82, (w 83).setWidth 2, (w 84).setWidth 9, (w 85).setWidth 9, (w 86).setWidth 13, (w 87).setWidth 13, (w 88).setWidth 4⟩ }

/-- What an activation takes back from the block of its frame: its naming fields, its entry and the weights of its holdings. -/
def Act.restored (a : Act) (ws : List Word) : Act :=
  let w := fun (i : Nat) => (ws[i]?).getD 0
  { a with
    naming := { a.naming with hdr := w 94, scope := (w 95).setWidth 32, tenant := (w 95).extractLsb' 32 4 }, entry := lo48 (w 96),
    holdings := a.holdings.zipIdx.map (fun h =>
      if h.2 < 8 then ⟨(w (100 + 2 * h.2)).setWidth 32, (w (101 + 2 * h.2)).toNat⟩ else h.1) }

/-- A message as its 64 bytes read back; what they do not hold stays. -/
def Msg.restored (m : Msg) (ws : List Word) : Msg :=
  let r := (Packet.ofHeader 0 ws).msg
  { r with
    words := r.words.take 4, handler := r.handler ||| (m.handler &&& 31), sent := (m.sent >>> 32 <<< 32) ||| r.sent,
    xferId := m.xferId, flags := m.flags, nack := m.nack, replica := m.replica }

/-- A slot that was not full when its context was saved. -/
def InSlot.empty : InSlot := ⟨Msg.zero, 0, 0, none, none, none, false, false⟩

/-- A slot as it reads back: the message, its arrival and its place in the order (Table 17-10; log 34). -/
def InSlot.restored (q : InSlot) (ws : List Word) : InSlot :=
  let w := fun (i : Nat) => (ws[i]?).getD 0
  { q with msg := q.msg.restored ws, arrived := w 8, order := (w 9).toNat / 256 }

/-- A scope record as its 96 bytes read back (Table 8-1). -/
def ScopeRec.restored (r : ScopeRec) (ws : List Word) : ScopeRec :=
  let w := fun (i : Nat) => (ws[i]?).getD 0
  let f := w 9
  let child := (w 1).extractLsb' 32 32
  { r with
    life := (match bits f 1 0 with | 0 => .free | 1 => .open | 2 => .closing | _ => .empty),
    parent := (w 0).extractLsb' 32 32, claimer := (w 0).setWidth 32,
    kids := if child = 0 then [] else child :: r.kids.filter (fun k => k != child), sib := (w 1).setWidth 32, issued := w 2, retd := w 3,
    cont := w 4, cwords := (ws.drop 5).take 4, depth := f.extractLsb' 12 4, tenant := f.extractLsb' 8 4, root := bitAt f 7,
    shld := bitAt f 5, clmd := bitAt f 4, canc := bitAt f 3 }

/-- A queued operation as its word reads back. -/
def QItem.restored (w : Word) : QItem :=
  if bitAt w 63 then .marker (bits w 61 0) else if bitAt w 62 then .copy (bits w 61 0) else .prog (bits w 61 0)

/-- An engine as its block reads back: its registers and its queue. -/
def Engine.restored (e : Engine) (ws : List Word) : Engine :=
  { e with e := snapRegs 16 ws, queue := ((ws.drop 19).take (min queueSize ((ws[18]?).getD 0).toNat)).map QItem.restored }

/-- Route tags, deficits, cancel list, joins and bell registrations as the head of a cell block reads back. -/
def Cell.headRestored (x : Cell) (ws : List Word) : Cell :=
  let w := fun (i : Nat) => (ws[i]?).getD 0
  let half := fun (i : Nat) => (w (0x80 + i / 2)).extractLsb' (32 * (i % 2)) 32
  { x with
    disagree := (w 0x12).extractLsb' 32 16, raceLost := (w 0x13).extractLsb' 32 32,
    tags := (List.range 16).foldl (fun m t =>
      let v := w (0x40 + t)
      AL.put m t ⟨bitAt v 51, v.extractLsb' 48 3, lo48 v⟩) [],
    deficit := (List.range 16).foldl (fun m t => AL.put m t (w (0x50 + t)).toInt) [],
    overflow := bitAt (w 0x60) 32, cancels := (List.range (min 256 (bits (w 0x60) 31 0))).map half,
    joins := x.joins.zipIdx.map (fun j =>
      let b := 0x120 + 8 * j.2
      (j.1.1, { j.1.2 with
        handler := w b, words := (List.range 4).map (fun i => w (b + 1 + i)),
        naming := { j.1.2.naming with hdr := w (b + 5), scope := (w (b + 6)).setWidth 32, tenant := (w (b + 6)).extractLsb' 32 4 },
        w := (w (b + 7)).toNat })),
    bells := x.bells.map (fun p =>
      let v := (ws.drop (0x1A0 + 8 * p.1)).take 8
      (p.1, match p.2.cont with
        | some m => { p.2 with cont := some (m.restored v) }
        | none => { p.2 with bare := p.2.bare.map (fun m => m.restored v) })) }

/-- `n` doublewords of the saved block of the field's cell number `k`, from an offset. -/
def State.savedWords (s : State) (v : Saved) (k off n : Nat) : List Word :=
  bytesWords n (s.mem.bytes (farAddr v.ctx.save.toNat + fieldBlockSize + cellBlockSize * k + off) (8 * n))

/-- A restored cell: what its block holds is read back from memory, altered or not; what no block holds is as it was saved. Its logs, its
sender table and its place in the repair records are the cell's own (R346; log 34). -/
def State.restoreCell (s : State) (v : Saved) (c k : Nat) : Cell :=
  let now := s.cell c
  let ws := s.savedWords v k
  let old := (AL.get Cell.reset v.cells c).headRestored (ws 0 512)
  let acc := (ws 0x20000 8192).zipIdx.foldl (fun m w => if w.1 = accUnset then m else AL.put m w.2 w.1) []
  let scl := (ws 0x30000 1024).zipIdx.foldl (fun m w => (List.range 4).foldl (fun m i =>
    let b := w.1.extractLsb' (16 * i) 16
    if b = 0 then m else AL.put m (4 * w.2 + i) b) m) []
  { old with
    field := v.ctx.field, fieldV := true, senders := now.senders, violations := now.violations, portLog := now.portLog,
    refusals := now.refusals, raceRing := now.raceRing, service := now.service, removed := now.removed, scan := now.scan,
    placeFree := now.placeFree, icache := [], latch := none, acc := acc, scales := scl,
    frames := old.frames.map (fun p => (p.1, p.2.restored (ws (0x1000 + 1024 * p.1) 128))),
    dseq := (List.range 16).foldl (fun m i =>
      let b := (((ws (0x1000 + 1024 * i + 0x288) 1)[0]?).getD 0).extractLsb' 8 8
      if b = 0 then m else AL.put m i b) [],
    slots := (List.range 520).filterMap (fun i =>
      let w := ws (0x5000 + 128 * i) 10
      if bits ((w[9]?).getD 0) 7 0 = 0 then none else some (i, (AL.get InSlot.empty old.slots i).restored w)),
    scopes := (List.range 256).foldl (fun m i =>
      let r := (AL.get ScopeRec.free old.scopes i).restored (ws (0x17000 + 96 * i) 12)
      if r.life = .free then m else AL.put m i r) [],
    vector := old.vector.restored (ws 0x1D000 64), matrix := old.matrix.restored (ws 0x1E000 64),
    streamer := old.streamer.restored (ws 0x1F000 64) }

/-- The program that an engine runs takes back its PC and its rounding copy. -/
def State.restoreProg (s : State) (v : Saved) (p : Nat) (x : Prog) : Prog :=
  let place := v.ctx.cells.findIdx (fun c => c == x.cell)
  let ws := s.savedWords v place (match x.unit with | .vector => 0x1D000 | .matrix => 0x1E000 | .streamer => 0x1F000) 18
  if ((AL.get Cell.reset v.cells x.cell).engine x.unit).run = some p then
    { x with pc := lo48 ((ws[16]?).getD 0), cr := { x.cr with rmode := (ws[17]?).getD 0 }, held := none }
  else { x with held := none }

/-- A bell takes back its running state from the field block (R346). -/
def State.restoreBell (s : State) (v : Saved) (k : Nat) (b : Bell) : Bell :=
  let a := farAddr v.ctx.save.toNat + 256 * k
  let ws := bytesWords 3 (s.mem.bytes a 24)
  let latched := fun (c : Nat) => (((s.mem.bytes (a + 24) 128)[c % 1024 / 8]?).getD 0).getLsbD (c % 8)
  { b with
    ext := ((ws[1]?).getD 0).toNat, gen := ((ws[2]?).getD 0).setWidth 24,
    latches := b.latches.filter latched ++
      ((List.range 1024).map (fun i => 1024 * (k / 8) + i)).filter (fun c => latched c && !b.latches.contains c) }

/-- The partly sent launches of a context take back their packet, their root, their queue and how far they have come (R346). -/
def State.restoreLaunches (s : State) (v : Saved) : State :=
  let parts := s.launches.filter (fun l => l.2.field == v.ctx.field && !l.2.stage.consumed && v.queues.contains l.2.queue)
  parts.zipIdx.foldl (fun t p =>
    match p.1.2.stage with
    | .sending _ =>
      let ws := bytesWords 11 (s.mem.bytes (farAddr v.ctx.save.toNat + 0x4000 + 128 * p.2) 88)
      t.modLaunch p.1.1 (fun l => { l with
        packet := ws.take 8, root := ((ws[8]?).getD 0).setWidth 32, stage := .sending ((ws[9]?).getD 0).toNat,
        queue := ((ws[10]?).getD 0).toNat })
    | _ => t) s

/-- Restore a saved context (R325, R346), under the record and the segment table that are loaded with it. -/
def State.restoreField (s : State) (x : FieldCtx) (segs : List Seg) (v : Saved) : State :=
  let s1 := ((s.releaseCells x).loadBells x).restoreLaunches v
  let s2 := x.cells.zipIdx.foldl (fun (t : State) p =>
    { t.setCell p.1 (s.restoreCell v p.1 p.2) with
      mem := t.mem.block (nearAddr p.1 0) nearSize
        [(0, s.mem.bytes (farAddr v.ctx.save.toNat + fieldBlockSize + cellBlockSize * p.2 + 0x40000) nearSize)] }) s1
  { s2 with
    saved := s2.saved.filter (fun w => !(w == v)),
    bells := v.bells.foldl (fun m p =>
      let b := AL.get Bell.reset m p.1
      AL.put m p.1 { s.restoreBell v p.1 p.2 with cfg := b.cfg, field := b.field, discards := b.discards }) s2.bells,
    acts := v.acts.foldl (fun m p => AL.put m p.1 (match p.2.slot with
      | some sl => p.2.restored (s.savedWords v (v.ctx.cells.findIdx (fun c => c == p.2.cell)) (0x1000 + 1024 * sl) 128)
      | none => p.2)) s2.acts,
    progs := v.progs.foldl (fun m p => AL.put m p.1 (s.restoreProg v p.1 p.2)) s2.progs,
    copies := v.copies.foldl (fun m p => AL.put m p.1 p.2) s2.copies,
    markers := v.markers.foldl (fun m p => AL.put m p.1 p.2) s2.markers,
    flights := v.flights.foldl (fun m p => AL.put m p.1 p.2) s2.flights,
    gangs := v.gangs.foldl (fun m p => AL.put m p.1 p.2) s2.gangs,
    faults := v.faults.foldl (fun m p => AL.put m p.1 p.2) s2.faults, waits := v.waits ++ s2.waits,
    fields := AL.put s2.fields x.field ⟨x, segs, v.nextT, v.use, .running, false, false⟩ }

/-- The saved context that a record names: that of its field with its save area and its cells. -/
def State.savedFor (s : State) (x : FieldCtx) : Option Saved :=
  s.saved.find? (fun v => v.ctx.field == x.field && v.ctx.save == x.save && v.ctx.cells == x.cells)

/-- Queues leave PAUSED (Table 17-9, step 7). -/
def State.unpause (s : State) (qs : List Nat) : State :=
  qs.foldl (fun t q => t.modQueue q (fun e => if e.state = .paused then { e with state := .idle } else e)) s

/-- The queues of a field that a context brings with it: those that no other saved context of the field holds. -/
def State.queuesOf (s : State) (x : FieldCtx) (v : Option Saved) : List Nat :=
  let others := (s.saved.filter (fun w => w.ctx.field == x.field && some w != v)).flatMap (fun w => w.queues)
  (s.queues.filter (fun q => q.2.field == x.field && !others.contains q.1)).map Prod.fst

/-- A context enters its field: it is restored where it was saved, and otherwise first-loaded; its queues leave PAUSED. A segment
table that is refused leaves the field its former one (R324, R325, R327). -/
def State.enterField (s : State) (x : FieldCtx) : State :=
  let tbl := s.segTable x
  let code : List Word := [if tbl.isSome then 0 else 2]
  let v := s.savedFor x
  let entered := match v with
    | some v => s.restoreField x (tbl.getD v.segs) v
    | none => s.firstLoad x (tbl.getD (s.segsKept x.field))
  (entered.unpause (s.queuesOf x v)).answerMgmt code

/-- Has a field nothing at all in its cells? -/
def State.fieldIdle (s : State) (x : Field) : Bool :=
  s.switchDrained x && x.ctx.cells.all (fun c =>
    (s.cell c).frames.all (fun p => p.2.life == .free) && (s.cell c).slots.isEmpty && (s.cell c).scopes.isEmpty) &&
  s.acts.all (fun p => !x.ctx.holds p.2.cell) && s.progs.all (fun p => !x.ctx.holds p.2.cell) &&
  s.copies.all (fun p => !x.ctx.holds p.2.cell)

/-- SWITCH_DRAIN_COMPLETE: once the field is drained it is saved, and the next context is restored or first loaded; with no record
the field stays switched out (Table 17-9, steps 5 to 7). A record that is refused leaves the switch waiting (R324). -/
def execSwitchDrainComplete (f : Nat) (rec : Addr) (s : State) : Out :=
  .next (match AL.find s.fields f with
    | none => s
    | some x =>
      if x.mode ≠ .switching ∨ !s.switchDrained x then s
      else if rec = 0 then s.saveField x
      else
        match s.hubWords rec 64 with
        | none => s.refuseMgmt
        | some ws =>
          let y := FieldCtx.ofWords ws
          if rec.toNat % 512 = 0 ∧ s.recordOk ws ∧ y.field = f then (s.saveField x).enterField y else s.refuseMgmt)

/-- LOAD_FIELD_CONTEXT: a record at a physical address of far memory is loaded, or refused (R324, R325). A field whose context is in
use keeps it until it is switched (log 33). -/
def execLoadFieldContext (rec : Addr) (s : State) : Out :=
  .next (match s.hubWords rec 64 with
    | none => s.refuseMgmt
    | some ws =>
      let x := FieldCtx.ofWords ws
      let free : Bool := match AL.find s.fields x.field with
        | none => true
        | some y => y.mode == .out || s.fieldIdle y
      if rec.toNat % 512 = 0 ∧ s.recordOk ws ∧ free = true ∧ !AL.has s.recovery x.field then s.enterField x else s.refuseMgmt)

end Sys2Proof.Machine
end

