-- ==== Sys2Proof/Machine/Repair.lean ====
section
/-! DEFINITION. Tap slots and operating bins, the in-field scan test, repair points, scrubbing and die records (spec 21, R404 to R422;
spec 01, R19). What the silicon answers comes with the step, or is a free value (log 13). -/

namespace Sys2Proof.Machine

/-! ### Tap slots and bins (R416, R417) -/

/-- The lanes of a unit that an operation compares: the scalar core is one, the vector sequencer has 64 lanes, the matrix slice 32
output columns (R416). -/
def tapLanes (u : Nat) : Nat := match u with | 0 => 1 | 1 => 64 | 2 => 32 | _ => 0

/-- Mark a cluster marginal, with the lanes of a unit of a cell that failed: it moves to the next bin at once and its cells stop between
activations (R417). What fails in a cluster that is marked already, and has moved for it, is logged alone (log 35). -/
def Cluster.marked (k : Cluster) (c u : Nat) (lanes : List Nat) : Cluster :=
  let j := { k with tapLog := k.tapLog ++ lanes.map (fun l => (c, u, l)) }
  if k.marginal && k.stopped then j
  else { j with marginal := true, stopped := true, bin := if k.bin = 3 then 3 else k.bin + 1 }

/-- The lanes whose results differ from the signatures stored for operation `n` of a unit (R416); the results are
those of the lanes from `lane` on, and a lane without a result matches (log 35). -/
def badLanes (u n lane : Nat) (results : List Word) : List Nat :=
  (List.range (tapLanes u)).filter (fun l =>
    decide (lane ≤ l) && match results[l - lane]? with | some r => r != Config.knownAnswer u l n | none => false)

/-- TAP_INJECT: the next known-answer operation of a unit of a cell, with the results of its lanes from `lane` on. It touches nothing but its
position, unless a result differs from its stored signature (R416). -/
def execTapInject (c u lane : Nat) (results : List Word) (s : State) : Out :=
  .next (if 3 ≤ u then s
    else
      let n := ((s.cell c).tapPos[u]?).getD 0
      let s1 := s.modCell c (fun x => { x with tapPos := setNat x.tapPos 3 u ((n + 1) % 32) })
      let bad := badLanes u n lane results
      if bad.isEmpty then s1 else s1.modCluster (clusterOf c) (fun k => k.marked c u bad))

/-! ### Die records (R420, R422) -/

/-- The key of a die record in the flash. -/
def recKey (die slot : Nat) : Nat := 2 * die + slot

/-- The first `n` bytes, with zeros where there are fewer. -/
def fit (n : Nat) (bs : List Byte) : List Byte := (bs ++ List.replicate (n - bs.length) 0).take n

/-- MAGIC of a die record (Table 21-7). -/
def recMagic : BitVec 32 := 0x524D4C48

/-- The byte of a column: REMOVED, SECOND and PENDING (Table 21-7). -/
def columnByte (k : Column) : Byte :=
  BitVec.ofNat 8 (((k.removed.orElse (fun _ => k.failed)).getD 0x3F) % 64 + 64 * flag k.second + 128 * flag k.failed.isSome)

/-- Bytes 0x000 to 0x07F of a die record, which its signatures cover (Table 21-7). -/
def DieRecord.body (r : DieRecord) : List Byte :=
  wordsBytes [word (r.magic.toNat + 2 ^ 32 * r.version.toNat + 2 ^ 48 * (r.die % 4)), word r.gen] ++
  (List.range 32).map (fun c => columnByte (AL.get Column.whole r.columns c)) ++
  (List.range 16).map (fun b => BitVec.ofNat 8 ((List.range 4).foldl (fun n j => n + (AL.get 0 r.bins (4 * b + j)).toNat * 4 ^ j) 0)) ++
  List.replicate 64 0

/-- The 4 KiB of a die record (Table 21-7). -/
def DieRecord.image (r : DieRecord) : List Byte := fit 4096 (r.body ++ fit 64 r.sigEd ++ fit 3309 r.sigMldsa)

/-- A record with both signatures of the record keys over its first 128 bytes (R420, R427). -/
def DieRecord.signed (r : DieRecord) (k : KeyStore) : DieRecord :=
  { r with sigEd := fit 64 (Config.sign 0 k.recEd r.body), sigMldsa := fit 3309 (Config.sign 1 k.recMl r.body) }

/-- Is a record valid for a die: do MAGIC, VERSION and DIE match and do both signatures verify under the record keys (R420)? A key has
one signature over some bytes (log 14). -/
def DieRecord.valid (r : DieRecord) (die : Nat) (k : KeyStore) : Bool :=
  r.magic == recMagic && r.version == 1 && r.die == die && r.sigEd == (r.signed k).sigEd && r.sigMldsa == (r.signed k).sigMldsa

/-- The factory record, in the write-protected region: every column whole, every cluster in bin 0 (log 12), signed by Umaith (R420). -/
def DieRecord.factory (die : Nat) : DieRecord :=
  let r : DieRecord := ⟨recMagic, 1, die, 0, [], [], [], []⟩
  { r with sigEd := fit 64 (Config.sign 2 [] r.body), sigMldsa := fit 3309 (Config.sign 3 [] r.body) }
/-- A slot into which nothing has been committed. -/
def DieRecord.blank : DieRecord := ⟨0, 0, 0, 0, [], [], [], []⟩

/-- A slot. -/
def State.dieSlot (s : State) (die slot : Nat) : DieRecord := AL.get DieRecord.blank s.dieRecs (recKey die slot)

/-- The record in use: the valid one with the higher GEN, else the factory record (R420). -/
def State.dieRecord (s : State) (die : Nat) : DieRecord :=
  let a := s.dieSlot die 0
  let b := s.dieSlot die 1
  let k := s.firmware.keys
  if a.valid die k && (!b.valid die k || decide (b.gen ≤ a.gen)) then a
  else if b.valid die k then b else DieRecord.factory die

/-- A column of a die. -/
def State.column (s : State) (die col : Nat) : Column := AL.get Column.whole s.columns (32 * die + col)
/-- Change a column. -/
def State.modColumn (s : State) (die col : Nat) (f : Column → Column) : State :=
  { s with columns := AL.put s.columns (32 * die + col) (f (s.column die col)) }

/-- The record of a die as it stands, signed (R420). -/
def State.dieNow (s : State) (die gen : Nat) : DieRecord :=
  DieRecord.signed ⟨recMagic, 1, die, gen, (List.range 32).map (fun c => (c, { s.column die c with reserved := none })),
    (List.range 64).map (fun k => (k, (s.cluster (64 * die + k)).bin)), [], []⟩ s.firmware.keys

/-- A commit writes the slot that holds the lower GEN, with GEN one above the higher (R420). -/
def State.commit (s : State) (die : Nat) : State :=
  let a := (s.dieSlot die 0).gen
  let b := (s.dieSlot die 1).gen
  let slot := if a ≤ b then 0 else 1
  { s with dieRecs := AL.put s.dieRecs (recKey die slot) (s.dieNow die (max a b + 1)) }

/-- The number of a physical cell in the scan-test log. -/
def physKey (die row col : Nat) : Nat := 1056 * die + 32 * row + col

/-- May the monitor commit the record of a die: every cell newly marked removed has failed its scan test, and no bin falls (R422)? -/
def State.commitOk (s : State) (die : Nat) : Bool :=
  let old := s.dieRecord die
  (List.range 32).all (fun c =>
    let now := s.column die c
    let was := AL.get Column.whole old.columns c
    let fine := fun (r : Option Nat) => match r with
      | none => true
      | some row => was.removed == r || was.failed == r || s.firmware.scanFail.contains (physKey die row c)
    fine now.removed && fine now.failed) &&
  (List.range 64).all (fun k => decide ((AL.get 0 old.bins k).toNat ≤ (s.cluster (64 * die + k)).bin.toNat))

/-- Answer of the firmware complex. -/
def State.mgmtSays (s : State) (a : MgmtAnswer) : State := { s with firmware := { s.firmware with answer := a } }

/-- COMMIT_DIE_RECORD: the monitor commits the record of a die, or refuses (R420, R422). -/
def execCommitDieRecord (die : Nat) (s : State) : Out :=
  .next (if s.commitOk die then (s.commit die).mgmtSays .ok else s.mgmtSays .refused)

/-- Have the cells of a stopped cluster finished what they ran (R396, R417)? -/
def State.clusterQuiet (s : State) (k : Nat) : Bool :=
  (s.cluster k).stopped && (clusterCells k).all (fun c =>
    let x := s.cell c
    x.frames.all (fun p => p.2.life != .running && p.2.life != .done) && x.vector.run.isNone && x.matrix.run.isNone &&
      x.streamer.run.isNone)

/-- SWEEP_RESULT: a pass readmits the cluster and commits the bin record; a failure moves it on, or leaves it in bin 3 (R417). -/
def execSweepResult (k : Nat) (pass : Bool) (s : State) : Out :=
  .next (if !s.clusterQuiet k then s
    else if pass then (s.modCluster k (fun y => { y with marginal := false, stopped := false })).commit (k / 64)
    else s.modCluster k (fun y => if y.bin = 3 then { y with stopped := false } else { y with bin := y.bin + 1 }))

/-- REQUALIFICATION: the management controller lowers a bin (R417). -/
def execRequalification (k : Nat) (bin : BitVec 2) (s : State) : Out :=
  .next (if bin.toNat ≤ (s.cluster k).bin.toNat then
      (s.modCluster k (fun y => { y with bin := bin, marginal := false })).commit (k / 64) else s)

/-! ### The in-field scan test (R418, R419) -/

/-- Is a cell drained (R418)? -/
def State.cellDrained (s : State) (c : Nat) : Bool :=
  let x := s.cell c
  x.frames.all (fun p => p.2.life == .free) && x.slots.isEmpty && x.incoming.isEmpty && x.scopes.all (fun p => !p.2.live) &&
  x.vector.items.isEmpty && x.matrix.items.isEmpty && x.streamer.items.isEmpty

/-- SCAN_TEST: a drained cell is taken out of service, and the spare row of its column is reserved for it (Table 21-6, step 1). -/
def execScanTest (c : Nat) (s : State) : Out :=
  .next (if s.cellDrained c ∧ (s.cell c).scan = .none ∧ (s.cell c).service = true then
      (s.modCell c (fun x => { x with scan := .running, service := false })).modColumn (dieOf c) (colOf c) (fun k =>
        { k with reserved := some (rowOf c) })
    else s)

/-- A cell after its test: reset, with the saved blocks restored: control registers, route tags, deficits, cancel list, joins, bell
registrations, engines, accumulators and scale memory (Table 21-6). -/
def Cell.afterScan (y : Cell) : Cell :=
  { y.afterReset with
    tags := y.tags, disagree := y.disagree, raceLost := y.raceLost, interval := y.interval, leader := y.leader, paired := y.paired, deficit := y.deficit,
    cancels := y.cancels, overflow := y.overflow, joins := y.joins, bells := y.bells, vector := y.vector, matrix := y.matrix,
    streamer := y.streamer, acc := y.acc, scales := y.scales, scan := .none, service := true }

/-- A test is over: the cell is as before, and the spare row is free. -/
def State.endScan (s : State) (c : Nat) : State :=
  (s.modCell c Cell.afterScan).modColumn (dieOf c) (colOf c) (fun k => { k with reserved := none })

/-- SCAN_TEST_ABORT: a message for the cell has arrived; the test counts as not made (Table 21-6, step 4). -/
def execScanTestAbort (c : Nat) (s : State) : Out :=
  .next (if (s.cell c).scan = .running ∧ s.msgs.any (fun m => cellOf m.2.msg.dst == c && devOf m.2.msg.dst == s.devNum) = true then
      s.endScan c else s)

/-- A cell is removed for good: it is out of service, and its column awaits its repair point, or has no spare left, and its die is
degraded; its die's record is marked at once (R419). -/
def State.removeCell (s : State) (c : Nat) : State :=
  let die := dieOf c
  let row := s.physRow c
  let col := s.column die (colOf c)
  let full := col.removed.isSome || col.failed.isSome
  let s1 := s.modCell c (fun x => { x with scan := .none, service := false, removed := true })
  let s2 : State := { s1 with
    firmware := { s1.firmware with scanFail := s1.firmware.scanFail ++ [physKey die row (colOf c)] } }
  (if full then
    { s2.modColumn die (colOf c) (fun k => { k with second := true, reserved := none }) with
      degraded := if s.degraded.contains die then s.degraded else s.degraded ++ [die] }
  else s2.modColumn die (colOf c) (fun k => { k with failed := some row, reserved := none })).commit die

/-- SCAN_TEST_RESULT: the signature is compared with the stored one (Table 21-6, steps 3 and 5). -/
def execScanTestResult (c : Nat) (signature : Word) (s : State) : Out :=
  .next (if (s.cell c).scan ≠ .running then s
    else if signature = Config.scanSignature c then s.endScan c
    else s.removeCell c)

/-- Is every field that holds a cell of a column switched out (R419)? -/
def State.columnOut (s : State) (die col : Nat) : Bool :=
  s.fields.all (fun p => p.2.mode == .out || (List.range 32).all (fun r => !p.2.ctx.holds (cellAt die r col)))

/-- REPAIR_POINT: the map of the column leaves the failed row out; memories move with their logical cells, and the logical cell that
sat there is in service on the next row (R19, R419). -/
def execRepairPoint (die col : Nat) (s : State) : Out :=
  .next (match (s.column die col).failed with
    | none => s
    | some f =>
      if (s.column die col).removed.isSome || !s.columnOut die col then s
      else
        let c := cellAt die f col
        let s1 := s.modColumn die col (fun k => { k with removed := some f, failed := none })
        if f < 32 then s1.modCell c (fun x => { x.afterReset with senders := x.senders, service := true, removed := false }) else s1)

/-! ### Scrubbing (R405, R406) -/

/-- Lines of a cell's memories: the slice, then near scratch (R405). -/
def cellLines : Nat := 69632
/-- Lines of a far-memory channel. -/
def channelLines : Nat := farSize / 64 / 64

/-- The flat address of line `n` of a scrubbed memory; far memory is interleaved by pa[13:8] (R329). -/
def scrubLine (u : LogUnit) (n : Nat) : Option (Nat × Nat) :=
  match u with
  | .cell c =>
    let k := n % cellLines
    some (if k < 65536 then sliceAddr c (64 * k) else nearAddr c (64 * (k - 65536)), cellLines)
  | .controller j =>
    let k := n % channelLines
    some (farAddr (k / 4 * 16384 + j * 256 + k % 4 * 64), channelLines)
  | _ => none

/-- What the scrubber does with a line: it skips one that an atomic engine holds hot (R204, R405). -/
def State.scrubAt (s : State) (flat : Nat) : State := if s.isHot flat then s else s.checkLine flat

/-- SCRUB: the scrubber of a memory takes its next line (R405). -/
def execScrub (u : LogUnit) (s : State) : Out :=
  let key := errKeyOf u
  let n := AL.get 0 s.scrubPos key
  .next (match scrubLine u n with
    | none => s
    | some (flat, m) => { s.scrubAt flat with scrubPos := AL.put s.scrubPos key ((n + 1) % m) })

end Sys2Proof.Machine
end

