-- ==== Sys2Proof/Machine/Firmware.lean ====
section
/-! DEFINITION. The firmware complex (spec 21, R421 to R428): updates, activation, boot and attestation. Signatures, digests and the
places of an image's header fields are free (log 14); the steps answer in `Firmware.answer`. -/

namespace Sys2Proof.Machine

/-! ### Components and their banks (R423 to R426) -/

/-- A component. -/
def State.comp (s : State) (c : Nat) : Component := AL.get Component.empty s.firmware.comps c
/-- Change the firmware complex. -/
def State.modFw (s : State) (f : Firmware → Firmware) : State := { s with firmware := f s.firmware }
/-- Change a component. -/
def State.modComp (s : State) (c : Nat) (f : Component → Component) : State :=
  s.modFw (fun w => { w with comps := AL.put w.comps c (f (s.comp c)) })
/-- The active bank. -/
def Component.bank (c : Component) : Bank := if c.active then c.bank1 else c.bank0
/-- The inactive bank. -/
def Component.spare (c : Component) : Bank := if c.active then c.bank0 else c.bank1
/-- Change the inactive bank. -/
def Component.modSpare (c : Component) (f : Bank → Bank) : Component :=
  if c.active then { c with bank0 := f c.bank0 } else { c with bank1 := f c.bank1 }

/-- Is a number that of a component (R423)? -/
def isComponent (c : Nat) : Bool := decide (1 ≤ c) && decide (c ≤ 3)

/-- Does an image verify for a component: do both signatures over header bytes 0x000 to 0x0FF, does the component match, does the
digest of the body, and is the SVN no less than the minimum (R424)? -/
def imageVerifies (comp minSvn : Nat) (bs : List Byte) : Bool :=
  let header := bs.take 4096
  !bs.isEmpty && Config.verifies 0 (header.take 256) (header.drop 256) && Config.verifies 1 (header.take 256) (header.drop 256) &&
  Config.headerField 0 header == comp && Config.verifies 2 header (Config.digest (bs.drop 4096)) &&
  decide (minSvn ≤ Config.headerField 2 header)

/-- Set the stage of an update and answer. -/
def State.updateTo (s : State) (st : UpdateStage) (a : MgmtAnswer) : State :=
  s.modFw (fun w => { w with stage := st, answer := a })

/-- REQUEST_UPDATE: an update in progress refuses it (Table 21-8, stage 1). -/
def execRequestUpdate (s : State) : Out :=
  .next (if s.firmware.stage = .idle then s.updateTo .requested .ok else s.mgmtSays .refused)

/-- PASS_COMPONENT_TABLE: the component is named (Table 21-8, stage 1). While a monitor image waits for its activation, another is
refused (log 73). -/
def execPassComponentTable (comp : Nat) (s : State) : Out :=
  .next (if s.firmware.stage = .requested ∧ isComponent comp = true ∧ ¬(comp = 1 ∧ s.firmware.monitorDue = true) then s.updateTo (.named comp) .ok else s.mgmtSays .refused)

/-- UPDATE_COMPONENT: the image is to be written into the inactive bank (Table 21-8, stage 2). -/
def execUpdateComponent (comp : Nat) (s : State) : Out :=
  .next (if s.firmware.stage = .named comp then
      (s.modComp comp (fun c => c.modSpare (fun _ => Bank.empty))).updateTo (.loading comp) .ok
    else s.mgmtSays .refused)

/-- Put bytes at an offset of an image. -/
def putBytes (bs : List Byte) (off : Nat) (data : List Byte) : List Byte :=
  (bs ++ List.replicate (off - bs.length) 0).take off ++ data ++ bs.drop (off + data.length)

/-- REQUEST_FIRMWARE_DATA: data of the image enter the inactive bank only (Table 21-8, stage 2). -/
def execRequestFirmwareData (off : Nat) (data : List Byte) (s : State) : Out :=
  .next (match s.firmware.stage with
    | .loading comp => (s.modComp comp (fun c => c.modSpare (fun b => { b with bytes := putBytes b.bytes off data }))).mgmtSays .ok
    | _ => s.mgmtSays .refused)

/-- VERIFY_COMPLETE: R424 is applied; a failure marks the inactive bank invalid and ends the update (Table 21-8, stage 3). -/
def execVerifyComplete (s : State) : Out :=
  .next (match s.firmware.stage with
    | .loading comp =>
      let b := (s.comp comp).spare.bytes
      if imageVerifies comp (s.comp comp).minSvn b then
        (s.modComp comp (fun c => c.modSpare (fun k => { k with
          valid := true, version := Config.headerField 1 (b.take 4096), svn := Config.headerField 2 (b.take 4096) }))).updateTo
            (.verified comp) .ok
      else (s.modComp comp (fun c => c.modSpare (fun k => { k with valid := false }))).updateTo .idle .verifyFailed
    | _ => s.mgmtSays .refused)

/-- APPLY_COMPLETE: the inactive bank is marked ready (Table 21-8, stage 4). -/
def execApplyComplete (s : State) : Out :=
  .next (match s.firmware.stage with
    | .verified comp => (s.modComp comp (fun c => c.modSpare (fun k => { k with ready := true }))).updateTo (.applied comp) .ok
    | _ => s.mgmtSays .refused)

/-- The banks of a component change places. -/
def Component.swap (c : Component) : Component := { c with active := !c.active }

/-- What the flash holds of a component after a reset in the middle of its update: the inactive bank is invalid (R425). -/
def Component.interrupted (c : Component) : Component :=
  c.modSpare (fun b => { b with valid := false, ready := false })

/-- The components after a reset of the monitor: an update in stages 2 to 4 is cut off (R425). -/
def Firmware.cut (f : Firmware) : AL Component :=
  let at_ := fun (k : Nat) => AL.put f.comps k (AL.get Component.empty f.comps k).interrupted
  match f.stage with
  | .loading k => at_ k
  | .verified k => at_ k
  | _ => f.comps

/-- The banks of a component at boot: each is verified; where the active one fails, the other is used (R424). -/
def Component.boot (c : Component) (k : Nat) : Component :=
  let ok := fun (b : Bank) => b.valid && imageVerifies k c.minSvn b.bytes
  let b0 := { c.bank0 with valid := ok c.bank0 }
  let b1 := { c.bank1 with valid := ok c.bank1 }
  { c with bank0 := b0, bank1 := b1,
           active := if c.active then b1.valid || !b0.valid else !b0.valid && b1.valid }

/-- The plug-in images as the active plug-in set gives them, in tenant order (R423, R428; log 14). -/
def State.loadPlugins (s : State) : State :=
  s.modFw (fun w => { w with plugins :=
    if (s.comp 3).bank.valid then (List.range 16).map (fun t => (t, Config.pluginImage t (s.comp 3).bank.bytes)) else [] })

/-- The keys that the monitor derives at boot: the seed from the helper data, the identity and record keys from the seed, and the alias
keys from the seed and the measurement of its own image (R427; log 14). -/
def KeyStore.derived (helper monitor : List Byte) : KeyStore :=
  let seed := fit 32 (Config.derive 0 helper)
  let own := seed ++ Config.digest monitor
  ⟨seed, Config.derive 1 seed, Config.derive 2 seed, Config.derive 3 seed, Config.derive 4 seed, Config.derive 5 own,
    Config.derive 6 own⟩

/-- The monitor derives its keys (R427). -/
def State.deriveKeys (s : State) : State :=
  s.modFw (fun w => { w with keys := KeyStore.derived w.helper (s.comp 1).bank.bytes })

/-- Every queue enters PAUSED at a packet boundary, until the change ends (R426). -/
def State.beginChange (s : State) : State :=
  ((s.queues.filter (fun q => q.2.active)).foldl (fun t q => t.pauseQueue q.1) s).modFw (fun w => { w with changing := true })

/-- ACTIVATE_FIRMWARE: a scheduler or plug-in image is activated live; a monitor image waits (R426). -/
def execActivateFirmware (s : State) : Out :=
  .next (match s.firmware.stage with
    | .applied comp =>
      if comp = 1 then (s.modFw (fun w => { w with monitorDue := true })).updateTo .idle .ok
      else
        let t := s.beginChange.modComp comp Component.swap
        (if comp = 3 then t.loadPlugins else t).updateTo .idle .ok
    | _ => s.mgmtSays .refused)

/-- The new image starts, with the tables, fields and contexts as they stand: the queues leave PAUSED, and an expiry that fell during the
change is reported to it (R426). -/
def State.endChange (s : State) : State :=
  if s.firmware.changing then
    let t := s.modFw (fun w => { w with changing := false })
    let u : State := { t with queues := t.queues.map (fun q =>
      (q.1, if q.2.state = .paused then { q.2 with state := t.idleState q.1 q.2.field } else q.2)) }
    (u.nextPlugin 6).nextPlugin 7
  else s

/-- Is this an idle point: does no field hold a running or parked frame (R426)? -/
def State.idlePoint (s : State) : Bool :=
  s.cells.all (fun p => p.2.frames.all (fun q => q.2.life != .running && q.2.life != .done && q.2.life != .parked))

/-- The protection entries that the monitor writes for a hart of the scheduler, which the manual does not give (R421; log 14). -/
def schedulerPmp (k : Nat) : List PmpEntry :=
  (List.range 16).map (fun i =>
    let v := Config.grant (16 + k) (3 * i + 2)
    ⟨Config.grant (16 + k) (3 * i), Config.grant (16 + k) (3 * i + 1), bitAt v 0, bitAt v 1, bitAt v 2⟩)

/-- The control harts start: the monitor in M-mode hands harts 0 to 5 to the scheduler in S-mode and harts 6 and 7 to the plug-ins in U-mode
(R33, R421; the values of their registers by log 12). -/
def bootHarts : AL Hart :=
  (List.range 8).map (fun k => (k,
    if k < 6 then { Hart.reset with mode := HartMode.supervisor, pmp := schedulerPmp k } else { Hart.reset with mode := HartMode.user }))

/-- MONITOR_ACTIVATION: at an idle point the control harts are reset and the new monitor image runs, verified as at every boot, with alias
keys of its own; an update under way is cut off (R424 to R427). -/
def execMonitorActivation (s : State) : Out :=
  .next (if s.firmware.monitorDue ∧ s.idlePoint then
      let s1 := s.modFw (fun w => { w with comps := w.cut, stage := .idle, monitorDue := false })
      ({ s1.modComp 1 (fun c => c.swap.boot 1) with harts := bootHarts }).deriveKeys.mgmtSays .ok
    else s)

/-- RAISE_MIN_SVN: refused while the active image has a lower SVN; a minimum is never lowered (R425). -/
def execRaiseMinSvn (comp svn : Nat) (s : State) : Out :=
  .next (if isComponent comp = true ∧ svn ≤ (s.comp comp).bank.svn ∧ (s.comp comp).minSvn ≤ svn then
      (s.modComp comp (fun c => { c with minSvn := svn })).mgmtSays .ok
    else s.mgmtSays .refused)

/-- PLUGIN_STOP: a plug-in has violated its protection or has run 1,000 µs without yielding. Each decision pending for its tenant takes
its default, which is recover, and the plug-in is restarted from its image (R421). -/
def execPluginStop (tenant : Nat) (s : State) : Out :=
  .next (((s.queues.filter (fun q => q.2.expired && q.2.tenant.toNat == tenant)).foldl
    (fun (t : State) q => (t.tryRecover q.1).getD t) s).yieldPlugin tenant)

/-! ### Boot (R420, R424) -/

/-- The map and the bins of a die from its record (R420): a cell whose removal awaits its repair point is out of service. -/
def State.bootDie (s : State) (die : Nat) : State :=
  let r := s.dieRecord die
  let s1 := (List.range 32).foldl (fun (t : State) col =>
    let k := AL.get Column.whole r.columns col
    let t1 := t.modColumn die col (fun _ => { k with reserved := none })
    match k.failed with
    | some f => if f < 32 then t1.modCell (cellAt die f col) (fun x => { x with service := false, removed := true }) else t1
    | none => t1) s
  let s2 := (List.range 64).foldl (fun (t : State) j => t.modCluster (64 * die + j) (fun y => { y with bin := AL.get 0 r.bins j })) s1
  let bad := r.columns.any (fun p => p.2.second)
  { s2 with degraded := if bad && !s2.degraded.contains die then s2.degraded ++ [die] else s2.degraded }

/-- BOOT: images are verified, the keys are derived, and the core map and the bins are loaded; without a verifying monitor image the module
waits in the boot ROM (R420, R424, R427). -/
def execBoot (s : State) : Out :=
  let s1 := [1, 2, 3].foldl (fun (t : State) k => t.modComp k (fun c => c.boot k)) s
  .next (if (s1.comp 1).bank.valid then
      { (List.range 4).foldl State.bootDie s1.deriveKeys.loadPlugins with harts := bootHarts }.modFw (fun w => { w with booted := true })
    else { s1 with harts := [] }.modFw (fun w => { w with booted := false }))

/-! ### Attestation (R427, R428) -/

/-- Bytes that the manual does not give, over a number (log 14). -/
def secretBytes (about n : Nat) : List Byte := (List.range n).map (Config.secretByte about)

/-- An SHA-384 digest (R428). -/
def sha384 (bs : List Byte) : List Byte := fit 48 (Config.digest bs)

/-- What measurement block `i` measures (R428): 1 the boot ROM, 2 the monitor, 3 the scheduler, 4 the digests of the tenants' plug-in
images in tenant order, 5 the four valid die records, 6 the active SVNs and the minimums. -/
def State.measured (s : State) (i : Nat) : List Byte :=
  match i with
  | 1 => secretBytes 1 4096
  | 2 => (s.comp 1).bank.bytes
  | 3 => (s.comp 2).bank.bytes
  | 4 => (List.range 16).flatMap (fun t => match AL.find s.firmware.plugins t with | some bs => sha384 bs | none => [])
  | 5 => (List.range 4).flatMap (fun d => (s.dieRecord d).image)
  | 6 => wordsBytes ([1, 2, 3].flatMap (fun k => [word (s.comp k).bank.svn, word (s.comp k).minSvn]))
  | _ => []

/-- A measurement block: an SHA-384 digest. -/
def State.block (s : State) (i : Nat) : List Byte := sha384 (s.measured i)

/-- The two signatures of the alias keys over a transcript: Ed25519, and ML-DSA-65 in OpaqueData (R428). -/
def State.signed (s : State) (transcript : List Byte) : List Byte :=
  fit 64 (Config.sign 0 s.firmware.keys.aliasEd transcript) ++ fit 3309 (Config.sign 1 s.firmware.keys.aliasMl transcript)

/-- The certificates of the identity and the alias keys, whose contents the manual does not give (R427; log 14). -/
def State.certificate (s : State) : List Byte :=
  let k := s.firmware.keys
  secretBytes (leNat (k.idEd ++ k.idMl ++ k.aliasEd ++ k.aliasMl)) 1024

/-- An answer of the monitor, which runs once the module has booted. -/
def State.spdm (s : State) (a : MgmtAnswer) : Out := .next (if s.firmware.booted then s.mgmtSays a else s)

/-- GET_VERSION: SPDM 1.3 (R428). -/
def execGetVersion (s : State) : Out := s.spdm (.words [0x13])

/-- GET_CAPABILITIES: digests and certificates, challenge, signed measurements, no sessions (R428): one bit each. -/
def execGetCapabilities (s : State) : Out := s.spdm (.words [0b0111])

/-- NEGOTIATE_ALGORITHMS: EdDSA Ed25519, SHA-384 as hash and as measurement hash (R428), by their sizes. -/
def execNegotiateAlgorithms (s : State) : Out := s.spdm (.words [25519, 384, 384])

/-- GET_DIGESTS: the digest of the certificates (R427, R428). -/
def execGetDigests (s : State) : Out := s.spdm (.bytes (sha384 s.certificate))

/-- GET_CERTIFICATE (R427, R428). -/
def execGetCertificate (s : State) : Out := s.spdm (.bytes s.certificate)

/-- CHALLENGE: a CHALLENGE_AUTH with both signatures over the transcript, which holds the nonce (R428). -/
def execChallenge (nonce : Word) (s : State) : Out := s.spdm (.bytes (s.signed (0 :: wordsBytes [nonce])))

/-- GET_MEASUREMENTS: a block with both signatures over the transcript, which holds it; another index is refused (R428). -/
def execGetMeasurements (index : Nat) (s : State) : Out :=
  if 1 ≤ index ∧ index ≤ 6 then s.spdm (.bytes (s.block index ++ s.signed (1 :: BitVec.ofNat 8 index :: s.block index)))
  else s.spdm .refused

end Sys2Proof.Machine
end

