-- ==== Sys2Proof/Machine/Pairs.lean ====
section
/-! DEFINITION. The chimes of checked pairs (spec 21, R413 to R415). -/

namespace Sys2Proof.Machine

/-- The first slot of a cell whose checked activation has reached a chime and has not sent its fingerprint: everything that the
interval folds has come. -/
def Cell.atChime (x : Cell) : Option (Nat × PairUnit) :=
  x.pairs.find? (fun p => p.2.waiting && p.2.sent.isNone && p.2.trail.all (fun i => !i.isPend))

/-- CHIME: a cell of a pair sends its fingerprint and chime number over the pair link (R413). -/
def State.tryChime (s : State) (c : Nat) : Option State :=
  (s.cell c).atChime.map (fun p => s.modPair c p.1 (fun q => { q with sent := some (fingerprint q.trail) }))

/-- CHIME (R413). -/
def execChime (c : Nat) (s : State) : Out := happen s (s.tryChime c)

/-- A slot of a leader at whose chime both cells have sent: the follower and what both keep. -/
def State.exchanged (s : State) (c : Nat) : Option (Nat × Nat × PairUnit × PairUnit) :=
  match s.follower c with
  | none => none
  | some d =>
    (s.cell c).pairs.findSome? (fun p =>
      match p.2.sent, (s.pairU d p.1).sent with
      | some _, some _ => some (d, p.1, p.2, s.pairU d p.1)
      | _, _ => none)

/-- Does a chime agree (R413, R415)? -/
def chimeAgrees (a b : PairUnit) : Bool := a.sent == b.sent && a.number == b.number && !a.parity && !b.parity

/-- What a cell keeps after an agreement: a new checkpoint, and a forced instruction may issue (R414, R415). -/
def PairUnit.agreed (p : PairUnit) (f : Frame) : PairUnit :=
  { p with
    trail := [], count := 0, number := p.number + 1, waiting := false, passed := true, sent := none,
    check := some ⟨f.g, f.x, f.cr, f.pc⟩, gated := [], issued := 0, vals := [], bad := 0, parity := false }

/-- CHIME_AGREE: the leader releases the held stores in order, each to its place in the store buffer as one comes free, and both cells take
a new checkpoint (Table 21-3; log 20). -/
def State.tryAgree (s : State) (c : Nat) : Option State :=
  match s.exchanged c with
  | none => none
  | some (d, k, a, b) =>
    if chimeAgrees a b then
      let s1 := (s.modPair c k (fun p => p.agreed (s.frame c k))).modPair d k (fun p => p.agreed (s.frame d k))
      some (s1.modCell c (fun x => { x with sb := x.sb ++ a.gated }))
    else none

/-- CHIME_AGREE (R414). -/
def execChimeAgree (c : Nat) (s : State) : Out := happen s (s.tryAgree c)

/-- What a cell keeps after a disagreement. -/
def PairUnit.rolledBack (p : PairUnit) : PairUnit :=
  { p with
    trail := [], count := 0, waiting := false, passed := false, sent := none, gated := [], fed := [], issued := 0,
    vals := [], bad := p.bad + 1, parity := false }

/-- A cell restores its checkpoint and re-issues from its PC (Table 21-3). -/
def State.rollBack (s : State) (c k : Nat) (p : PairUnit) : State :=
  let s1 := s.endWait (.frame c k)
  let s2 := match p.check with
    | none => s1
    | some q => s1.modFrame c k (fun f => { f with
        life := .running, g := q.g, x := q.x, cr := q.cr, pc := q.pc, outst := [], acq := [], acqE := false, mark := none,
        pend := none, trap := none, resume := none, off := false, held := none })
  (s2.modPair c k PairUnit.rolledBack).modCell c (fun x => { x with
    disagree := if x.disagree = 0xFFFF then x.disagree else x.disagree + 1 })

/-- The counts of the held stores that a rollback discards fall again (R109, R415). -/
def State.uncount (s : State) (c k : Nat) (es : List SbEntry) : State :=
  es.foldl (fun t e =>
    if countedStore c e.cls e.kind.target then t.modActOf c k (fun a => a.setCount e.cls (a.count e.cls - 1)) else t) s

/-- CHIME_DISAGREE: held stores are discarded and both cells go back to their checkpoints; three in a row contain the field
(R415). -/
def State.tryDisagree (s : State) (c : Nat) : Option State :=
  match s.exchanged c with
  | none => none
  | some (d, k, a, b) =>
    if chimeAgrees a b then none
    else
      let s1 := ((s.uncount c k a.gated).rollBack c k a).rollBack d k b
      let field := if (s.cell c).fieldV then some (s.cell c).field else none
      some (if 2 ≤ a.bad then
          (s1.logErr c ⟨s.time64, 3, 4, s.cellLocation c 0, s.gca c, field, Config.syndrome s.tick c⟩).contain field
        else s1)

/-- CHIME_DISAGREE (R415). -/
def execChimeDisagree (c : Nat) (s : State) : Out := happen s (s.tryDisagree c)

end Sys2Proof.Machine
end

