-- ==== Sys2Proof/Machine/Power.lean ====
section
/-! DEFINITION. Far memory at start-up and while the module runs, power and thermal limits, power-on reset and loss of supply (spec
21, R425, R429, R430; spec 19, R381). -/

namespace Sys2Proof.Machine

/-! ### Far memory (R429) -/

/-- The channel of a flat address of far memory (R329). -/
def channelOf (flat : Nat) : Nat := (flat - farBase) / 256 % 64

/-- FAR_MEMORY_BRINGUP: each controller loads its geometry and timing set from the configuration area; the channels named have passed their
training and every line of them is zero; the others are logged and reported. It is made before the first field is configured (R429). -/
def execFarMemoryBringup (passed : List Nat) (s : State) : Out :=
  let hit := fun (a : Nat) => decide (farBase ≤ a) && passed.contains (channelOf a)
  let failed := (List.range 64).filter (fun k => !passed.contains k)
  .next (if !s.fields.isEmpty then s
    else
      let s1 : State := { s with
        channels := (List.range 64).map (fun k =>
          let g := AL.get (0, 0) s.firmware.channels k
          (k, ⟨passed.contains k, false, g.1, g.2⟩)),
        mem := s.mem.filter (fun p => !hit p.1), poison := s.poison.filter (fun p => !hit p),
        firmware := { s.firmware with trainFail := failed } }
      s1.mgmtSays (.words (failed.map word)))

/-- ZQ_CALIBRATION: accesses of the channel wait for at most 2 µs, and nothing else changes (R429; log 7). -/
def execZqCalibration (_k : Nat) (s : State) : Out := .next s

/-- DATA_RETRAIN: a channel that fails holds an uncorrectable error in every line from then on (R429). -/
def execDataRetrain (k : Nat) (passed : Bool) (s : State) : Out :=
  let c := AL.get Channel.reset s.channels k
  .next (if c.trained ∧ passed = false then { s with channels := AL.put s.channels k { c with failed := true } } else s)

/-! ### Power and temperature (R430) -/

/-- Is every field stopped? -/
def State.allStopped (s : State) : Bool := s.fields.all (fun p => p.2.mode == .out || s.stopComplete p.2)

/-- THERMAL_SAMPLE: the hottest sensor, in degrees. From 95 the clock is stretched by a step a sample until it reads below 93; at 110
every field is stopped, and then the compute dies are powered down (R430; log 36). -/
def execThermalSample (temp : Int) (s : State) : Out :=
  let hot := decide (95 ≤ temp) || (s.power.hot && decide (93 ≤ temp))
  let closing := s.power.closing || decide (110 ≤ temp)
  let s1 : State := if closing then s.fields.foldl (fun t p => t.stopField p.1) s else s
  .next { s1 with power := { s1.power with
    hot := hot, thermal := if hot then min 15 (s1.power.thermal + 1) else 0, closing := closing,
    mode := if closing && s1.allStopped && s1.power.mode == .on then .hubOnly else s1.power.mode } }

/-- POWER_CAP_SET: from 1,200 W to 2,800 W (R430). -/
def execPowerCapSet (watts : Nat) (s : State) : Out :=
  .next (if 1200 ≤ watts ∧ watts ≤ 2800 then { s with power := { s.power with cap := watts } } else s)

/-- POWER_CAP_WINDOW: the mean power of the last 1 ms; above the cap the clock is stretched by a step, below it by one less (R430;
log 36). -/
def execPowerCapWindow (watts : Nat) (s : State) : Out :=
  .next { s with power := { s.power with
    capped := if s.power.cap < watts then min 15 (s.power.capped + 1) else s.power.capped - 1 } }

/-! ### Power-on reset and loss of supply (R381, R425) -/

/-- The flash over a reset: images, minimums, die records, helper data and the channels' configuration stay; an update in progress is given
up (R425). A commanded reset activates a monitor image that waits (R426), and a loss of supply leaves it waiting (log 73). -/
def State.flashOver (s : State) (commanded : Bool) : Firmware :=
  let f := s.firmware
  let due := f.monitorDue && commanded
  { Firmware.reset with
    helper := f.helper, channels := f.channels, monitorDue := f.monitorDue && !commanded,
    comps := if due then AL.put f.cut 1 (AL.get Component.empty f.cut 1).swap else f.cut }

/-- The module after its supply has returned or gone: all but the flash is as at reset. The model's own numbers go on (log 5). -/
def State.restart (s : State) (m : PowerMode) : State :=
  { State.reset with
    firmware := s.flashOver (m == .on), dieRecs := s.dieRecs, power := { Power.reset with mode := m }, nextId := s.nextId, tick := s.tick,
    agenda := s.agenda }

/-- POWER_ON_RESET: global time is zero, and the module is to boot (R381). -/
def execPowerOnReset (s : State) : Out := .next (s.restart .on)

/-- POWER_LOSS (R425). -/
def execPowerLoss (s : State) : Out := .next (s.restart .off)

end Sys2Proof.Machine
end

