-- ==== Sys2Proof/Machine/Recovery.lean ====
section
/-! DEFINITION. Recovery and containment of a field (spec 17, R349 to R351; spec 20, R401, R402; spec 21, R410), in three moves: the
fence, the cancellation and the reset (steps 1 to 4 of Table 17-11), the error completions (step 5), and the lifting of the fence
(step 6). -/

namespace Sys2Proof.Machine

/-- The outstanding launches of queues bound to a field, apart from those whose home's report was served before step 1 (R349;
Table 17-11, step 5). -/
def State.launchesIn (s : State) (f : Nat) : AL Launch :=
  s.launches.filter (fun l => (s.queue l.2.queue).field == f && l.2.stage != .completing && l.2.stage != .failed)

/-- A queue bound to a field under recovery: its processor is free for others, and a packet at its head is read again. -/
def State.recoverQueue (s : State) (q : Nat) : State :=
  ((((s.endWait (.queue q)).endWait (.wait q)).modQueue q (fun e => { e with
    state := .recovering, packet := none, fenceOn := none, waitOk := false })).leaveSlot q).freeCp q

/-- The command processor that acts for the homes that a recovery resets: that of the expired queue, and of a containment processor 0
(R402; log 67). -/
def State.recoverer (s : State) (r : Recovery) : Sender := ⟨s.cpUnit (match r.queue with | some q => cpOf q | none => 0), true⟩

/-- The scopes homed in a field whose clears a recovery sends, each with the receivers that may still have its entry: the roots that step 2
cancels, and those cancelled before (R167, R402). -/
def State.cancelledIn (s : State) (x : FieldCtx) (roots : List (BitVec 32)) : List (BitVec 32 × List Nat) :=
  let before := x.cells.flatMap (fun c => (s.cell c).scopes.filterMap (fun p =>
    if p.2.canc && !p.2.acks.isEmpty then some (scopeId s.devNum c p.1, p.2.acks) else none))
  before ++ (roots.filter (fun sc => !before.any (fun p => p.1 == sc))).map (fun sc => (sc, s.receivers (cellOf (homeOf sc))))

/-- The root of an outstanding launch is cancelled before its home is reset: notices go to every receiver, and chokes to the
children that live outside the field (R167; Table 17-11, step 2). -/
def State.cancelRoot (s : State) (inC : Nat → Bool) (u : Sender) (sc : BitVec 32) (to_ : List Nat) (kids : List (BitVec 32)) : State :=
  let s1 := s.tellAll .notice sc .none u to_
  (kids.filter (fun k => !(devOf (homeOf k) == s.devNum && inC (cellOf (homeOf k))))).foldl (fun t k =>
    t.postCtl { Ctl.make .choke u.gca (homeOf k) k 0 .none with hub := u.hub }) s1

/-- Steps 1 to 4: the field is fenced, roots cancelled, cells reset, and trap entries freed (Table 17-11, R350). -/
def State.fenceField (s : State) (f : Nat) (x : Field) (r : Recovery) : State :=
  let inC := x.ctx.holds
  let roots := (s.launches.vals.filter (fun l => l.field == f && inC l.home && l.stage != .failed)).map (fun l => l.root)
  let told := s.cancelledIn x.ctx roots
  let s1 := s.wipe inC
  let s2 : State := { s1 with
    arrivals := s1.arrivals.filter (fun p => p.2.field != some f),
    dues := s1.dues.filter (fun d => (s1.bell d.die d.bell).field != some f),
    fields := AL.put s1.fields f { x with
      fenced := true, trapUse := [], deadline := false, mode := if x.mode = .out then .out else .running } }
  let s3 := (s2.queues.filter (fun q => q.2.field == f && (q.2.active || q.2.state == .paused))).foldl
    (fun t q => t.recoverQueue q.1) s2
  let s4 := (told.filter (fun p => roots.contains p.1)).foldl
    (fun t p => t.cancelRoot inC (s.recoverer r) p.1 p.2 (s.scopeRec p.1).kids) s3
  { s4 with recovery := AL.put s4.recovery f { r with step := 1, roots := told } }

/-- The completion code of a launch (Table 17-7; Table 17-11, step 5; R410). -/
def Recovery.codeFor (r : Recovery) (q : Nat) : Nat :=
  if r.code = 4 then 4 else if r.queue = some q then 2 else 3

/-- Step 5 for one launch: it completes with its code, its unit returns to the parent, at once or when the answer to its link comes, and a
launch that was still being sent is consumed; a signal write that waits for a page is made later. -/
def State.failLaunch (s : State) (r : Recovery) (x : Nat) (l : Launch) : State :=
  s.completionError l.queue (.launch x) (r.codeFor l.queue) l.packet l.addr (fun t =>
    let t1 := (t.returnUnit x l).endLaunch x l
    let t2 := if l.stage = .linking then { t1 with launches := AL.put t1.launches x { l with stage := .failed } } else t1
    if l.stage.consumed then t2 else t2.consumePacket l.queue)

/-- A move of a recovery whose code is `code` (R349, R402, R410): steps 1 to 4; then step 5, a launch at a time; then the clears of
the cancelled scopes are sent, which step 6 waits for. -/
def State.recoveryMove (s : State) (f : Nat) (contained : Bool) : Option State :=
  match AL.find s.recovery f, AL.find s.fields f with
  | some r, some x =>
    if (r.code == 4) != contained then none
    else
      match r.step with
      | 0 =>
        match r.queue with
        | some q =>
          if (s.launchesOf q).isEmpty then some { s with recovery := AL.del s.recovery f } else some (s.fenceField f x r)
        | none => some (s.fenceField f x r)
      | 1 =>
        match s.launchesIn f with
        | (k, l) :: _ => some (s.failLaunch r k l)
        | [] =>
          let s1 := r.roots.foldl (fun t p => t.tellAll .clear p.1 .none (s.recoverer r) p.2) s
          let acks := r.roots.flatMap (fun p => p.2.map (fun n => (p.1, n)))
          some { s1 with recovery := AL.put s1.recovery f { r with step := 2, acks := acks } }
      | _ => none
  | _, _ => none

/-- RECOVERY (R349). -/
def execRecovery (f : Nat) (s : State) : Out := happen s (s.recoveryMove f false)

/-- CONTAINMENT (R410). -/
def execContainment (f : Nat) (s : State) : Out := happen s (s.recoveryMove f true)

/-- FENCE_LIFT: every clear is acknowledged: the context is loaded as a first load, the fence is lifted, and the queues go on
(R351, R402). -/
def State.tryLift (s : State) (f : Nat) : Option State :=
  match AL.find s.recovery f, AL.find s.fields f with
  | some r, some x =>
    if r.step ≠ 2 ∨ r.acks ≠ [] then none
    else
      let s1 := (s.firstLoad x.ctx x.segs).modField f (fun y => { y with mode := x.mode })
      let qs := (s1.queues.filter (fun q => q.2.field == f && q.2.state == .recovering)).map Prod.fst
      let held := s1.heldQueues f
      let s2 := qs.foldl (fun t q => t.modQueue q (fun e => { e with
        state := if held.contains q || x.mode == .out then .paused else .idle })) s1
      some { s2 with recovery := AL.del s2.recovery f }
  | _, _ => none

/-- FENCE_LIFT (R351). -/
def execFenceLift (f : Nat) (s : State) : Out := happen s (s.tryLift f)

end Sys2Proof.Machine
end

