-- ==== Sys2Proof/Machine/Scalar.lean ====
section
/-! DEFINITION. Integer arithmetic, logic, immediates, bit fields, division, index registers and addresses (spec 04,
R82 to R86, R99 to R103). An engine runs the same meanings on its own registers (R48). -/

namespace Sys2Proof.Machine

/-- 1 if the condition holds, else 0. -/
def boolWord (b : Bool) : Word := if b then 1 else 0
/-- The shift amount, bits [5:0] (R83). -/
def sh6 (w : Word) : Nat := w.toNat % 64

/-- R82. -/
def execAdd (r : Rel) (d a b : RegNum) (s : State) : Out := alu3 s r d a b (fun x y => x + y)
/-- R82. -/
def execSub (r : Rel) (d a b : RegNum) (s : State) : Out := alu3 s r d a b (fun x y => x - y)
/-- R82. -/
def execAnd (r : Rel) (d a b : RegNum) (s : State) : Out := alu3 s r d a b (fun x y => x &&& y)
/-- R82. -/
def execOr (r : Rel) (d a b : RegNum) (s : State) : Out := alu3 s r d a b (fun x y => x ||| y)
/-- R82. -/
def execXor (r : Rel) (d a b : RegNum) (s : State) : Out := alu3 s r d a b (fun x y => x ^^^ y)
/-- R82: the low 64 bits of the product. -/
def execMul (r : Rel) (d a b : RegNum) (s : State) : Out := alu3 s r d a b (fun x y => x * y)

/-- R83. -/
def execShl (r : Rel) (d a : RegNum) (s : State) : Out := alu2 s r d a (fun x y => x <<< sh6 y)
/-- R83. -/
def execShr (r : Rel) (d a : RegNum) (s : State) : Out := alu2 s r d a (fun x y => x >>> sh6 y)
/-- R83. -/
def execSar (r : Rel) (d a : RegNum) (s : State) : Out := alu2 s r d a (fun x y => x.sshiftRight (sh6 y))
/-- R83. -/
def execRol (r : Rel) (d a : RegNum) (s : State) : Out := alu2 s r d a (fun x y => x.rotateLeft (sh6 y))
/-- R83. -/
def execRor (r : Rel) (d a : RegNum) (s : State) : Out := alu2 s r d a (fun x y => x.rotateRight (sh6 y))
/-- R83. -/
def execAndn (r : Rel) (d a : RegNum) (s : State) : Out := alu2 s r d a (fun x y => x &&& ~~~y)
/-- R83: the smaller, as signed. -/
def execMin (r : Rel) (d a : RegNum) (s : State) : Out := alu2 s r d a (fun x y => if y.toInt < x.toInt then y else x)
/-- R83: the larger, as signed. -/
def execMax (r : Rel) (d a : RegNum) (s : State) : Out := alu2 s r d a (fun x y => if x.toInt < y.toInt then y else x)
/-- R83: the smaller, as unsigned. -/
def execMinu (r : Rel) (d a : RegNum) (s : State) : Out := alu2 s r d a (fun x y => if y.toNat < x.toNat then y else x)
/-- R83: the larger, as unsigned. -/
def execMaxu (r : Rel) (d a : RegNum) (s : State) : Out := alu2 s r d a (fun x y => if x.toNat < y.toNat then y else x)
/-- R83: bits [127:64] of the signed product. -/
def execMulh (r : Rel) (d a : RegNum) (s : State) : Out :=
  alu2 s r d a (fun x y => BitVec.ofInt 64 (x.toInt * y.toInt / 2 ^ 64))
/-- R83: bits [127:64] of the unsigned product. -/
def execMulhu (r : Rel) (d a : RegNum) (s : State) : Out :=
  alu2 s r d a (fun x y => word (x.toNat * y.toNat / 2 ^ 64))
/-- R83. -/
def execSeq (r : Rel) (d a : RegNum) (s : State) : Out := alu2 s r d a (fun x y => boolWord (x == y))
/-- R83. -/
def execSne (r : Rel) (d a : RegNum) (s : State) : Out := alu2 s r d a (fun x y => boolWord (!(x == y)))
/-- R83. -/
def execSlt (r : Rel) (d a : RegNum) (s : State) : Out := alu2 s r d a (fun x y => boolWord (decide (x.toInt < y.toInt)))
/-- R83. -/
def execSltu (r : Rel) (d a : RegNum) (s : State) : Out := alu2 s r d a (fun x y => boolWord (decide (x.toNat < y.toNat)))

/-! ### Unary (Table 4-4) -/

/-- Leading zero bits of the low `n` bits. -/
def leadingZeros (w : Word) : Nat → Nat
  | 0 => 0
  | n + 1 => if w.getLsbD n then 0 else 1 + leadingZeros w n
/-- Trailing zero bits from bit `k` on, `n` bits left. -/
def trailingZeros (w : Word) (k : Nat) : Nat → Nat
  | 0 => 0
  | n + 1 => if w.getLsbD k then 0 else 1 + trailingZeros w (k + 1) n
/-- Set bits among the low `n` bits. -/
def popCount (w : Word) : Nat → Nat
  | 0 => 0
  | n + 1 => flag (w.getLsbD n) + popCount w n
/-- The bytes in the opposite order. -/
def byteSwap (w : Word) : Word := word (leNat (leBytes 8 w.toNat).reverse)

/-- R84. -/
def execMov (r : Rel) (d a : RegNum) (s : State) : Out := alu1 s r d a (fun x => x)
/-- R84. -/
def execNeg (r : Rel) (d a : RegNum) (s : State) : Out := alu1 s r d a (fun x => 0 - x)
/-- R84. -/
def execNot (r : Rel) (d a : RegNum) (s : State) : Out := alu1 s r d a (fun x => ~~~x)
/-- R84. -/
def execClz (r : Rel) (d a : RegNum) (s : State) : Out := alu1 s r d a (fun x => word (leadingZeros x 64))
/-- R84. -/
def execCtz (r : Rel) (d a : RegNum) (s : State) : Out := alu1 s r d a (fun x => word (trailingZeros x 0 64))
/-- R84. -/
def execPopc (r : Rel) (d a : RegNum) (s : State) : Out := alu1 s r d a (fun x => word (popCount x 64))
/-- R84. -/
def execBswap (r : Rel) (d a : RegNum) (s : State) : Out := alu1 s r d a byteSwap

/-! ### Immediates (Table 4-5) -/

/-- A signed immediate of 44 bits at most, as 64 bits (R40). -/
def imm64 (i : BitVec 44) : Word := i.signExtend 64
/-- Sign-extend from bit n. -/
def sextFrom (x : Word) (n : Nat) : Word := (x <<< (63 - n)).sshiftRight (63 - n)
/-- Zero-extend from bit n. -/
def zextFrom (x : Word) (n : Nat) : Word := (x <<< (63 - n)) >>> (63 - n)

/-- R85. -/
def execLi (r : Rel) (d : RegNum) (imm : BitVec 44) (s : State) : Out := aluI s r d (fun _ => imm64 imm)
/-- R85. -/
def execAddi (r : Rel) (d : RegNum) (imm : BitVec 44) (s : State) : Out := aluI s r d (fun x => x + imm64 imm)
/-- R85. -/
def execAndi (r : Rel) (d : RegNum) (imm : BitVec 44) (s : State) : Out := aluI s r d (fun x => x &&& imm64 imm)
/-- R85. -/
def execOri (r : Rel) (d : RegNum) (imm : BitVec 44) (s : State) : Out := aluI s r d (fun x => x ||| imm64 imm)
/-- R85. -/
def execXori (r : Rel) (d : RegNum) (imm : BitVec 44) (s : State) : Out := aluI s r d (fun x => x ^^^ imm64 imm)
/-- R85. -/
def execShli (r : Rel) (d : RegNum) (n : BitVec 6) (s : State) : Out := aluI s r d (fun x => x <<< n.toNat)
/-- R85. -/
def execShri (r : Rel) (d : RegNum) (n : BitVec 6) (s : State) : Out := aluI s r d (fun x => x >>> n.toNat)
/-- R85. -/
def execSari (r : Rel) (d : RegNum) (n : BitVec 6) (s : State) : Out := aluI s r d (fun x => x.sshiftRight n.toNat)
/-- R85. -/
def execSlti (r : Rel) (d : RegNum) (imm : BitVec 44) (s : State) : Out :=
  aluI s r d (fun x => boolWord (decide (x.toInt < (imm64 imm).toInt)))
/-- R85: compared unsigned, the immediate first sign-extended. -/
def execSltui (r : Rel) (d : RegNum) (imm : BitVec 44) (s : State) : Out :=
  aluI s r d (fun x => boolWord (decide (x.toNat < (imm64 imm).toNat)))
/-- R85. -/
def execSext (r : Rel) (d : RegNum) (n : BitVec 6) (s : State) : Out := aluI s r d (fun x => sextFrom x n.toNat)
/-- R85. -/
def execZext (r : Rel) (d : RegNum) (n : BitVec 6) (s : State) : Out := aluI s r d (fun x => zextFrom x n.toNat)

/-! ### Bit fields (R86) -/

/-- R86: sign-extended from the field's top bit; L is `lm1` + 1. -/
def execBext (r : Rel) (d : RegNum) (p lm1 : BitVec 6) (s : State) : Out :=
  aluI s r d (fun x => sextFrom (x >>> p.toNat) lm1.toNat)
/-- The low L bits set, L being `lm1` + 1. -/
def fieldMask (lm1 : BitVec 6) : Word := word (2 ^ (lm1.toNat + 1) - 1)
/-- R86: also reads g[d+1], which R37 checks as an implied register. -/
def execBins (r : Rel) (d : RegNum) (p lm1 : BitVec 6) (s : State) : Out :=
  withGroup s fun c =>
    let D := s.regNo c r d
    issueRW s c .no [D, D + 1] [D] fun s =>
      let m := fieldMask lm1 <<< p.toNat
      .ok (s.setReg c D ((s.reg c D &&& ~~~m) ||| ((s.reg c (D + 1) <<< p.toNat) &&& m)))
/-- R86: zero-extended. -/
def execBextu (r : Rel) (d a : RegNum) (p lm1 : BitVec 6) (s : State) : Out :=
  alu1 s r d a (fun x => zextFrom (x >>> p.toNat) lm1.toNat)

/-! ### Division (R99) -/

/-- R99. -/
def execDiv (r : Rel) (d a b : RegNum) (s : State) : Out :=
  alu3 s r d a b (fun x y => if y = 0 then BitVec.allOnes 64 else BitVec.ofInt 64 (Int.tdiv x.toInt y.toInt))
/-- R99. -/
def execDivu (r : Rel) (d a b : RegNum) (s : State) : Out :=
  alu3 s r d a b (fun x y => if y = 0 then BitVec.allOnes 64 else word (x.toNat / y.toNat))
/-- R99: the remainder takes the sign of the dividend. -/
def execRem (r : Rel) (d a b : RegNum) (s : State) : Out :=
  alu3 s r d a b (fun x y => if y = 0 then x else BitVec.ofInt 64 (Int.tmod x.toInt y.toInt))
/-- R99. -/
def execRemu (r : Rel) (d a b : RegNum) (s : State) : Out :=
  alu3 s r d a b (fun x y => if y = 0 then x else word (x.toNat % y.toNat))

/-! ### Index registers and addresses (R100 to R103) -/

/-- R103. -/
def execLea (r : Rel) (d a : RegNum) (imm : BitVec 44) (s : State) : Out :=
  alu1 s r d a (fun x => x + imm64 imm)
/-- R101: x_k := g[a][15:0]. -/
def execMovxToIndex (r : Rel) (k : BitVec 2) (a : RegNum) (s : State) : Out :=
  withGroup s fun c =>
    let A := s.regNo c r a
    issue s c .no [A] [xNo k] fun s => .ok (s.setX c k ((s.reg c A).setWidth 16))
/-- R101: g[a] := x_k sign-extended. -/
def execMovxFromIndex (r : Rel) (k : BitVec 2) (a : RegNum) (s : State) : Out :=
  withGroup s fun c =>
    let A := s.regNo c r a
    issue s c .no [A] [A] fun s => .ok (s.setReg c A ((s.xreg c k).signExtend 64))
/-- R102: wraps within 16 bits. Its register field is zero and names nothing. -/
def execAddx (_r : Rel) (k : BitVec 2) (imm : BitVec 44) (s : State) : Out :=
  withGroup s fun c =>
    issue s c .no [] [xNo k] fun s => .ok (s.setX c k (s.xreg c k + imm.setWidth 16))

end Sys2Proof.Machine
end

