-- ==== Sys2Proof/Machine/Dispatch.lean ====
section
/-! DEFINITION. The dispatcher: one arm for each constructor of `Instr`, each one direct call of a meaning. -/

namespace Sys2Proof.Machine

/-- What an instruction, or a step that no word encodes, does to the machine. -/
def exec (i : Instr) (s : State) : Host.Outcome State Fault Refusal :=
  match i with
  | .add r d a b => Sys2Proof.Machine.execAdd r d a b s
  | .sub r d a b => Sys2Proof.Machine.execSub r d a b s
  | .and r d a b => Sys2Proof.Machine.execAnd r d a b s
  | .or r d a b => Sys2Proof.Machine.execOr r d a b s
  | .xor r d a b => Sys2Proof.Machine.execXor r d a b s
  | .mul r d a b => Sys2Proof.Machine.execMul r d a b s
  | .shl r d a => Sys2Proof.Machine.execShl r d a s
  | .shr r d a => Sys2Proof.Machine.execShr r d a s
  | .sar r d a => Sys2Proof.Machine.execSar r d a s
  | .rol r d a => Sys2Proof.Machine.execRol r d a s
  | .ror r d a => Sys2Proof.Machine.execRor r d a s
  | .andn r d a => Sys2Proof.Machine.execAndn r d a s
  | .min r d a => Sys2Proof.Machine.execMin r d a s
  | .max r d a => Sys2Proof.Machine.execMax r d a s
  | .minu r d a => Sys2Proof.Machine.execMinu r d a s
  | .maxu r d a => Sys2Proof.Machine.execMaxu r d a s
  | .mulh r d a => Sys2Proof.Machine.execMulh r d a s
  | .mulhu r d a => Sys2Proof.Machine.execMulhu r d a s
  | .seq r d a => Sys2Proof.Machine.execSeq r d a s
  | .sne r d a => Sys2Proof.Machine.execSne r d a s
  | .slt r d a => Sys2Proof.Machine.execSlt r d a s
  | .sltu r d a => Sys2Proof.Machine.execSltu r d a s
  | .mov r d a => Sys2Proof.Machine.execMov r d a s
  | .neg r d a => Sys2Proof.Machine.execNeg r d a s
  | .not r d a => Sys2Proof.Machine.execNot r d a s
  | .clz r d a => Sys2Proof.Machine.execClz r d a s
  | .ctz r d a => Sys2Proof.Machine.execCtz r d a s
  | .popc r d a => Sys2Proof.Machine.execPopc r d a s
  | .bswap r d a => Sys2Proof.Machine.execBswap r d a s
  | .jr r a => Sys2Proof.Machine.execJr r a s
  | .jalr r d a => Sys2Proof.Machine.execJalr r d a s
  | .ret => Sys2Proof.Machine.execRet s
  | .done => Sys2Proof.Machine.execDone s
  | .trap code => Sys2Proof.Machine.execTrap code s
  | .brk code => Sys2Proof.Machine.execBrk code s
  | .nop => Sys2Proof.Machine.execNop s
  | .ifence => Sys2Proof.Machine.execIfence s
  | .rdtime r d => Sys2Proof.Machine.execRdtime r d s
  | .li r d imm => Sys2Proof.Machine.execLi r d imm s
  | .addi r d imm => Sys2Proof.Machine.execAddi r d imm s
  | .andi r d imm => Sys2Proof.Machine.execAndi r d imm s
  | .ori r d imm => Sys2Proof.Machine.execOri r d imm s
  | .xori r d imm => Sys2Proof.Machine.execXori r d imm s
  | .shli r d n => Sys2Proof.Machine.execShli r d n s
  | .shri r d n => Sys2Proof.Machine.execShri r d n s
  | .sari r d n => Sys2Proof.Machine.execSari r d n s
  | .slti r d imm => Sys2Proof.Machine.execSlti r d imm s
  | .sltui r d imm => Sys2Proof.Machine.execSltui r d imm s
  | .sext r d n => Sys2Proof.Machine.execSext r d n s
  | .zext r d n => Sys2Proof.Machine.execZext r d n s
  | .bext r d p lm1 => Sys2Proof.Machine.execBext r d p lm1 s
  | .bins r d p lm1 => Sys2Proof.Machine.execBins r d p lm1 s
  | .ldW r t d n off l => Sys2Proof.Machine.execLdW r t d n off l s
  | .ldD r t d n off l => Sys2Proof.Machine.execLdD r t d n off l s
  | .st r t w v n off => Sys2Proof.Machine.execSt r t w v n off s
  | .beq r a b off => Sys2Proof.Machine.execBeq r a b off s
  | .bne r a b off => Sys2Proof.Machine.execBne r a b off s
  | .blt r a b off => Sys2Proof.Machine.execBlt r a b off s
  | .bge r a b off => Sys2Proof.Machine.execBge r a b off s
  | .bltu r a b off => Sys2Proof.Machine.execBltu r a b off s
  | .bgeu r a b off => Sys2Proof.Machine.execBgeu r a b off s
  | .bz r a off => Sys2Proof.Machine.execBz r a off s
  | .bnz r a off => Sys2Proof.Machine.execBnz r a off s
  | .bltz r a off => Sys2Proof.Machine.execBltz r a off s
  | .bgez r a off => Sys2Proof.Machine.execBgez r a off s
  | .br off => Sys2Proof.Machine.execBr off s
  | .jal off => Sys2Proof.Machine.execJal off s
  | .lp off => Sys2Proof.Machine.execLp off s
  | .ldB r t d n off l => Sys2Proof.Machine.execLdB r t d n off l s
  | .ldBu r t d n off l => Sys2Proof.Machine.execLdBu r t d n off l s
  | .ldH r t d n off l => Sys2Proof.Machine.execLdH r t d n off l s
  | .ldHu r t d n off l => Sys2Proof.Machine.execLdHu r t d n off l s
  | .ldWPage1 r t d n off l => Sys2Proof.Machine.execLdWPage1 r t d n off l s
  | .ldWu r t d n off l => Sys2Proof.Machine.execLdWu r t d n off l s
  | .ldDPage1 r t d n off l => Sys2Proof.Machine.execLdDPage1 r t d n off l s
  | .stPage1 r t w v n off => Sys2Proof.Machine.execStPage1 r t w v n off s
  | .lda r t d n off l => Sys2Proof.Machine.execLda r t d n off l s
  | .stl r t w v n off => Sys2Proof.Machine.execStl r t w v n off s
  | .ldp r t d n off l => Sys2Proof.Machine.execLdp r t d n off l s
  | .stp r t v n off => Sys2Proof.Machine.execStp r t v n off s
  | .pf r t n off => Sys2Proof.Machine.execPf r t n off s
  | .fence m sc => Sys2Proof.Machine.execFence m sc s
  | .fenceAcq m sc => Sys2Proof.Machine.execFenceAcq m sc s
  | .fenceRel m sc => Sys2Proof.Machine.execFenceRel m sc s
  | .aadd r t f a b l => Sys2Proof.Machine.execAadd r t f a b l s
  | .aand r t f a b l => Sys2Proof.Machine.execAand r t f a b l s
  | .aor r t f a b l => Sys2Proof.Machine.execAor r t f a b l s
  | .axor r t f a b l => Sys2Proof.Machine.execAxor r t f a b l s
  | .amin r t f a b l => Sys2Proof.Machine.execAmin r t f a b l s
  | .amax r t f a b l => Sys2Proof.Machine.execAmax r t f a b l s
  | .aminu r t f a b l => Sys2Proof.Machine.execAminu r t f a b l s
  | .amaxu r t f a b l => Sys2Proof.Machine.execAmaxu r t f a b l s
  | .aswap r t f a b l => Sys2Proof.Machine.execAswap r t f a b l s
  | .acas r t f a b l => Sys2Proof.Machine.execAcas r t f a b l s
  | .ainc r t f a b l => Sys2Proof.Machine.execAinc r t f a b l s
  | .adec r t f a b l => Sys2Proof.Machine.execAdec r t f a b l s
  | .afadd r t f a b l => Sys2Proof.Machine.execAfadd r t f a b l s
  | .fcfg r t a b l => Sys2Proof.Machine.execFcfg r t a b l s
  | .fins r t a b l => Sys2Proof.Machine.execFins r t a b l s
  | .fmerge r t a b l => Sys2Proof.Machine.execFmerge r t a b l s
  | .frd r t a b l => Sys2Proof.Machine.execFrd r t a b l s
  | .fclr r t a b l => Sys2Proof.Machine.execFclr r t a b l s
  | .fstat r t a b l => Sys2Proof.Machine.execFstat r t a b l s
  | .snd r t d a b => Sys2Proof.Machine.execSnd r t d a b s
  | .sndm r t d a b => Sys2Proof.Machine.execSndm r t d a b s
  | .sndg r t d a b => Sys2Proof.Machine.execSndg r t d a b s
  | .snds r t d a b => Sys2Proof.Machine.execSnds r t d a b s
  | .tagen r d a => Sys2Proof.Machine.execTagen r d a s
  | .tagdis r d a => Sys2Proof.Machine.execTagdis r d a s
  | .tagrd r d a => Sys2Proof.Machine.execTagrd r d a s
  | .bar r d a => Sys2Proof.Machine.execBar r d a s
  | .barw r d a => Sys2Proof.Machine.execBarw r d a s
  | .sopen r d a => Sys2Proof.Machine.execSopen r d a s
  | .sclose r d a => Sys2Proof.Machine.execSclose r d a s
  | .scancel r d => Sys2Proof.Machine.execScancel r d s
  | .sshield r d => Sys2Proof.Machine.execSshield r d s
  | .sclaim r d => Sys2Proof.Machine.execSclaim r d s
  | .schk r d => Sys2Proof.Machine.execSchk r d s
  | .fork r d a => Sys2Proof.Machine.execFork r d a s
  | .rdv r d a => Sys2Proof.Machine.execRdv r d a s
  | .copy r d a => Sys2Proof.Machine.execCopy r d a s
  | .qfence r d a => Sys2Proof.Machine.execQfence r d a s
  | .nsend r d a => Sys2Proof.Machine.execNsend r d a s
  | .nwrite r d a => Sys2Proof.Machine.execNwrite r d a s
  | .nread r d a => Sys2Proof.Machine.execNread r d a s
  | .ncst r d a => Sys2Proof.Machine.execNcst r d a s
  | .vadd d a b => Sys2Proof.Machine.execVadd d a b s
  | .vsub d a b => Sys2Proof.Machine.execVsub d a b s
  | .vmul d a b => Sys2Proof.Machine.execVmul d a b s
  | .vfma d a b => Sys2Proof.Machine.execVfma d a b s
  | .vfms d a b => Sys2Proof.Machine.execVfms d a b s
  | .vdiv d a b => Sys2Proof.Machine.execVdiv d a b s
  | .vmin d a b => Sys2Proof.Machine.execVmin d a b s
  | .vmax d a b => Sys2Proof.Machine.execVmax d a b s
  | .vand d a b => Sys2Proof.Machine.execVand d a b s
  | .vor d a b => Sys2Proof.Machine.execVor d a b s
  | .vxor d a b => Sys2Proof.Machine.execVxor d a b s
  | .vshl d a b => Sys2Proof.Machine.execVshl d a b s
  | .vshr d a b => Sys2Proof.Machine.execVshr d a b s
  | .vabs d a => Sys2Proof.Machine.execVabs d a s
  | .vneg d a => Sys2Proof.Machine.execVneg d a s
  | .vcvt d a => Sys2Proof.Machine.execVcvt d a s
  | .vexp d a => Sys2Proof.Machine.execVexp d a s
  | .vlog d a => Sys2Proof.Machine.execVlog d a s
  | .vrcp d a => Sys2Proof.Machine.execVrcp d a s
  | .vrsq d a => Sys2Proof.Machine.execVrsq d a s
  | .vsqrt d a => Sys2Proof.Machine.execVsqrt d a s
  | .vtanh d a => Sys2Proof.Machine.execVtanh d a s
  | .vsig d a => Sys2Proof.Machine.execVsig d a s
  | .verf d a => Sys2Proof.Machine.execVerf d a s
  | .vsin d a => Sys2Proof.Machine.execVsin d a s
  | .vcos d a => Sys2Proof.Machine.execVcos d a s
  | .vfill d a => Sys2Proof.Machine.execVfill d a s
  | .vcpy d a => Sys2Proof.Machine.execVcpy d a s
  | .eend => Sys2Proof.Machine.execEend s
  | .vcmpEq d a => Sys2Proof.Machine.execVcmpEq d a s
  | .vcmpNe d a => Sys2Proof.Machine.execVcmpNe d a s
  | .vcmpLt d a => Sys2Proof.Machine.execVcmpLt d a s
  | .vcmpLe d a => Sys2Proof.Machine.execVcmpLe d a s
  | .vcmpGt d a => Sys2Proof.Machine.execVcmpGt d a s
  | .vcmpGe d a => Sys2Proof.Machine.execVcmpGe d a s
  | .vcmpUn d a => Sys2Proof.Machine.execVcmpUn d a s
  | .vcmpOr d a => Sys2Proof.Machine.execVcmpOr d a s
  | .vsel d a => Sys2Proof.Machine.execVsel d a s
  | .vredAdd d a => Sys2Proof.Machine.execVredAdd d a s
  | .vredMul d a => Sys2Proof.Machine.execVredMul d a s
  | .vredMin d a => Sys2Proof.Machine.execVredMin d a s
  | .vredMax d a => Sys2Proof.Machine.execVredMax d a s
  | .vredAnd d a => Sys2Proof.Machine.execVredAnd d a s
  | .vredOr d a => Sys2Proof.Machine.execVredOr d a s
  | .vredXor d a => Sys2Proof.Machine.execVredXor d a s
  | .vscanAdd d a => Sys2Proof.Machine.execVscanAdd d a s
  | .vscanMul d a => Sys2Proof.Machine.execVscanMul d a s
  | .vscanMin d a => Sys2Proof.Machine.execVscanMin d a s
  | .vscanMax d a => Sys2Proof.Machine.execVscanMax d a s
  | .vscanAnd d a => Sys2Proof.Machine.execVscanAnd d a s
  | .vscanOr d a => Sys2Proof.Machine.execVscanOr d a s
  | .vscanXor d a => Sys2Proof.Machine.execVscanXor d a s
  | .vgat d a => Sys2Proof.Machine.execVgat d a s
  | .vsca d a => Sys2Proof.Machine.execVsca d a s
  | .vtop d a => Sys2Proof.Machine.execVtop d a s
  | .mplane a b => Sys2Proof.Machine.execMplane a b s
  | .mscl a b => Sys2Proof.Machine.execMscl a b s
  | .mzero a => Sys2Proof.Machine.execMzero a s
  | .mmul a b => Sys2Proof.Machine.execMmul a b s
  | .mgang a b => Sys2Proof.Machine.execMgang a b s
  | .mst a b => Sys2Proof.Machine.execMst a b s
  | .macc a b => Sys2Proof.Machine.execMacc a b s
  | .eendPage4 => Sys2Proof.Machine.execEendPage4 s
  | .div r d a b => Sys2Proof.Machine.execDiv r d a b s
  | .divu r d a b => Sys2Proof.Machine.execDivu r d a b s
  | .rem r d a b => Sys2Proof.Machine.execRem r d a b s
  | .remu r d a b => Sys2Proof.Machine.execRemu r d a b s
  | .crd r d n => Sys2Proof.Machine.execCrd r d n s
  | .cwr r d n => Sys2Proof.Machine.execCwr r d n s
  | .cset r d n => Sys2Proof.Machine.execCset r d n s
  | .cclr r d n => Sys2Proof.Machine.execCclr r d n s
  | .bextu r d a p lm1 => Sys2Proof.Machine.execBextu r d a p lm1 s
  | .lea r d a imm => Sys2Proof.Machine.execLea r d a imm s
  | .movxToIndex r k a => Sys2Proof.Machine.execMovxToIndex r k a s
  | .movxFromIndex r k a => Sys2Proof.Machine.execMovxFromIndex r k a s
  | .addx r k imm => Sys2Proof.Machine.execAddx r k imm s
  | .tmark r a code => Sys2Proof.Machine.execTmark r a code s
  | .gorivoLdr d n => Sys2Proof.Machine.execGorivoLdr d n s
  | .gorivoLdi d imm => Sys2Proof.Machine.execGorivoLdi d imm s
  | .gorivoLdh d imm => Sys2Proof.Machine.execGorivoLdh d imm s
  | .gorivoAdd d a b => Sys2Proof.Machine.execGorivoAdd d a b s
  | .gorivoSub d a b => Sys2Proof.Machine.execGorivoSub d a b s
  | .gorivoAnd d a b => Sys2Proof.Machine.execGorivoAnd d a b s
  | .gorivoOr d a b => Sys2Proof.Machine.execGorivoOr d a b s
  | .gorivoXor d a b => Sys2Proof.Machine.execGorivoXor d a b s
  | .gorivoShli d a n => Sys2Proof.Machine.execGorivoShli d a n s
  | .gorivoShri d a n => Sys2Proof.Machine.execGorivoShri d a n s
  | .gorivoAndi d a imm => Sys2Proof.Machine.execGorivoAndi d a imm s
  | .gorivoCadd a n => Sys2Proof.Machine.execGorivoCadd a n s
  | .gorivoCset a n => Sys2Proof.Machine.execGorivoCset a n s
  | .gorivoCrd d n => Sys2Proof.Machine.execGorivoCrd d n s
  | .gorivoBeq a b off => Sys2Proof.Machine.execGorivoBeq a b off s
  | .gorivoBne a b off => Sys2Proof.Machine.execGorivoBne a b off s
  | .gorivoBltu a b off => Sys2Proof.Machine.execGorivoBltu a b off s
  | .gorivoBgeu a b off => Sys2Proof.Machine.execGorivoBgeu a b off s
  | .gorivoBr off => Sys2Proof.Machine.execGorivoBr off s
  | .gorivoKeep => Sys2Proof.Machine.execGorivoKeep s
  | .gorivoDrop => Sys2Proof.Machine.execGorivoDrop s
  | .gorivoCount n => Sys2Proof.Machine.execGorivoCount n s
  | .gorivoTrigger m => Sys2Proof.Machine.execGorivoTrigger m s
  | .messageArrival m => Sys2Proof.Machine.execMessageArrival m s
  | .dispatch c => Sys2Proof.Machine.execDispatch c s
  | .retirement c slot => Sys2Proof.Machine.execRetirement c slot s
  | .weightReturnDrain c act => Sys2Proof.Machine.execWeightReturnDrain c act s
  | .stealProbe c => Sys2Proof.Machine.execStealProbe c s
  | .stolenMessageArrival c => Sys2Proof.Machine.execStolenMessageArrival c s
  | .streamerStealProbe c => Sys2Proof.Machine.execStreamerStealProbe c s
  | .loadComplete x => Sys2Proof.Machine.execLoadComplete x s
  | .trapTaken c slot => Sys2Proof.Machine.execTrapTaken c slot s
  | .trapDeferredWrite f => Sys2Proof.Machine.execTrapDeferredWrite f s
  | .engineTrap c u => Sys2Proof.Machine.execEngineTrap c u s
  | .retiredAccessError x => Sys2Proof.Machine.execRetiredAccessError x s
  | .verdictResumeAt c record => Sys2Proof.Machine.execVerdictResumeAt c record s
  | .verdictResumeAfter c record => Sys2Proof.Machine.execVerdictResumeAfter c record s
  | .verdictAbandon c record => Sys2Proof.Machine.execVerdictAbandon c record s
  | .verdictKeep c record => Sys2Proof.Machine.execVerdictKeep c record s
  | .storeBufferSend c => Sys2Proof.Machine.execStoreBufferSend c s
  | .accessPerformed x => Sys2Proof.Machine.execAccessPerformed x s
  | .storeAck x => Sys2Proof.Machine.execStoreAck x s
  | .atomicEngineOp k => Sys2Proof.Machine.execAtomicEngineOp k s
  | .hotLineEvict k => Sys2Proof.Machine.execHotLineEvict k s
  | .frontWriteback k obj => Sys2Proof.Machine.execFrontWriteback k obj s
  | .launchRecordRead c => Sys2Proof.Machine.execLaunchRecordRead c s
  | .engineProgramStart c u => Sys2Proof.Machine.execEngineProgramStart c u s
  | .engineProgramEnd c u => Sys2Proof.Machine.execEngineProgramEnd c u s
  | .rdvContinuation c j => Sys2Proof.Machine.execRdvContinuation c j s
  | .scoreboardGrant c frag => Sys2Proof.Machine.execScoreboardGrant c frag s
  | .gangStart strip => Sys2Proof.Machine.execGangStart strip s
  | .gangPass strip => Sys2Proof.Machine.execGangPass strip s
  | .copyHead c => Sys2Proof.Machine.execCopyHead c s
  | .chunkStart x => Sys2Proof.Machine.execChunkStart x s
  | .chunkForward x chunk => Sys2Proof.Machine.execChunkForward x chunk s
  | .chunkPerformed x chunk => Sys2Proof.Machine.execChunkPerformed x chunk s
  | .chunkRefused x chunk => Sys2Proof.Machine.execChunkRefused x chunk s
  | .copyEnd x => Sys2Proof.Machine.execCopyEnd x s
  | .syncCredit x => Sys2Proof.Machine.execSyncCredit x s
  | .wakeMessage x => Sys2Proof.Machine.execWakeMessage x s
  | .qfenceRelease c marker => Sys2Proof.Machine.execQfenceRelease c marker s
  | .generationClose die bell => Sys2Proof.Machine.execGenerationClose die bell s
  | .bellMessage die bell => Sys2Proof.Machine.execBellMessage die bell s
  | .externalArrival x => Sys2Proof.Machine.execExternalArrival x s
  | .mint x => Sys2Proof.Machine.execMint x s
  | .grant x => Sys2Proof.Machine.execGrant x s
  | .refuse x => Sys2Proof.Machine.execRefuse x s
  | .link x => Sys2Proof.Machine.execLink x s
  | .linkres x => Sys2Proof.Machine.execLinkres x s
  | .unlink x => Sys2Proof.Machine.execUnlink x s
  | .unlinkack x => Sys2Proof.Machine.execUnlinkack x s
  | .notice x => Sys2Proof.Machine.execNotice x s
  | .clear x => Sys2Proof.Machine.execClear x s
  | .clearack x => Sys2Proof.Machine.execClearack x s
  | .close x => Sys2Proof.Machine.execClose x s
  | .cancel x => Sys2Proof.Machine.execCancel x s
  | .choke x => Sys2Proof.Machine.execChoke x s
  | .shield x => Sys2Proof.Machine.execShield x s
  | .claim x => Sys2Proof.Machine.execClaim x s
  | .check x => Sys2Proof.Machine.execCheck x s
  | .climb x => Sys2Proof.Machine.execClimb x s
  | .answer x => Sys2Proof.Machine.execAnswer x s
  | .weightReturn x => Sys2Proof.Machine.execWeightReturn x s
  | .doorbell node queue tail => Sys2Proof.Machine.execDoorbell node queue tail s
  | .packetSelect p => Sys2Proof.Machine.execPacketSelect p s
  | .ageingTick => Sys2Proof.Machine.execAgeingTick s
  | .launch p => Sys2Proof.Machine.execLaunch p s
  | .launchStartMessage p => Sys2Proof.Machine.execLaunchStartMessage p s
  | .launchComplete x => Sys2Proof.Machine.execLaunchComplete x s
  | .nopPacket p => Sys2Proof.Machine.execNopPacket p s
  | .waitPacket p => Sys2Proof.Machine.execWaitPacket p s
  | .waitRecheck q => Sys2Proof.Machine.execWaitRecheck q s
  | .signalPacket p => Sys2Proof.Machine.execSignalPacket p s
  | .fencePacket p => Sys2Proof.Machine.execFencePacket p s
  | .freeSlotReport c => Sys2Proof.Machine.execFreeSlotReport c s
  | .tollExpiry q => Sys2Proof.Machine.execTollExpiry q s
  | .tollExtend q n => Sys2Proof.Machine.execTollExtend q n s
  | .tollRecover q => Sys2Proof.Machine.execTollRecover q s
  | .pluginTimeout q => Sys2Proof.Machine.execPluginTimeout q s
  | .recovery f => Sys2Proof.Machine.execRecovery f s
  | .fenceLift f => Sys2Proof.Machine.execFenceLift f s
  | .containment f => Sys2Proof.Machine.execContainment f s
  | .loadFieldContext rec => Sys2Proof.Machine.execLoadFieldContext rec s
  | .segmentTableLoad f => Sys2Proof.Machine.execSegmentTableLoad f s
  | .imageLoad f image => Sys2Proof.Machine.execImageLoad f image s
  | .contextSwitch f => Sys2Proof.Machine.execContextSwitch f s
  | .preemptDeadline f => Sys2Proof.Machine.execPreemptDeadline f s
  | .switchDrainComplete f rec => Sys2Proof.Machine.execSwitchDrainComplete f rec s
  | .stopField f => Sys2Proof.Machine.execStopField f s
  | .resumeField f => Sys2Proof.Machine.execResumeField f s
  | .dump f area => Sys2Proof.Machine.execDump f area s
  | .invalidate f lo hi => Sys2Proof.Machine.execInvalidate f lo hi s
  | .translationWalk x => Sys2Proof.Machine.execTranslationWalk x s
  | .faultResolve x => Sys2Proof.Machine.execFaultResolve x s
  | .faultRefuse x => Sys2Proof.Machine.execFaultRefuse x s
  | .queueRearm q => Sys2Proof.Machine.execQueueRearm q s
  | .managementTableWrite t ws => Sys2Proof.Machine.execManagementTableWrite t ws s
  | .groupTableWrite g ports valid local_ => Sys2Proof.Machine.execGroupTableWrite g ports valid local_ s
  | .senderTableRead c clear => Sys2Proof.Machine.execSenderTableRead c clear s
  | .violationLogRead u => Sys2Proof.Machine.execViolationLogRead u s
  | .refusalLogRead c => Sys2Proof.Machine.execRefusalLogRead c s
  | .bellDiscardCountRead die bell => Sys2Proof.Machine.execBellDiscardCountRead die bell s
  | .errorLogRead u => Sys2Proof.Machine.execErrorLogRead u s
  | .raceRingPlace c ring => Sys2Proof.Machine.execRaceRingPlace c ring s
  | .traceRecordOffer k => Sys2Proof.Machine.execTraceRecordOffer k s
  | .traceRecordProcess k => Sys2Proof.Machine.execTraceRecordProcess k s
  | .traceStateWrite k v => Sys2Proof.Machine.execTraceStateWrite k v s
  | .prog k addr => Sys2Proof.Machine.execProg k addr s
  | .traceLostRead k => Sys2Proof.Machine.execTraceLostRead k s
  | .frameReceive port fr => Sys2Proof.Machine.execFrameReceive port fr s
  | .packetAccept port => Sys2Proof.Machine.execPacketAccept port s
  | .packetForward x => Sys2Proof.Machine.execPacketForward x s
  | .ackReceived port seq => Sys2Proof.Machine.execAckReceived port seq s
  | .refusalReceived port seq => Sys2Proof.Machine.execRefusalReceived port seq s
  | .corruptReceived port seq => Sys2Proof.Machine.execCorruptReceived port seq s
  | .refusedResend port => Sys2Proof.Machine.execRefusedResend port s
  | .controlFrameSend port => Sys2Proof.Machine.execControlFrameSend port s
  | .controlFrameReceive port fr => Sys2Proof.Machine.execControlFrameReceive port fr s
  | .timeSlew => Sys2Proof.Machine.execTimeSlew s
  | .timeLoad => Sys2Proof.Machine.execTimeLoad s
  | .message x => Sys2Proof.Machine.execMessage x s
  | .load x => Sys2Proof.Machine.execLoad x s
  | .store x => Sys2Proof.Machine.execStore x s
  | .atomic x => Sys2Proof.Machine.execAtomic x s
  | .response x => Sys2Proof.Machine.execResponse x s
  | .nack x => Sys2Proof.Machine.execNack x s
  | .weight x => Sys2Proof.Machine.execWeight x s
  | .builtInHandler m => Sys2Proof.Machine.execBuiltInHandler m s
  | .multicastPacket x => Sys2Proof.Machine.execMulticastPacket x s
  | .transferStart x => Sys2Proof.Machine.execTransferStart x s
  | .transferPacketSend x => Sys2Proof.Machine.execTransferPacketSend x s
  | .transferAck x bytes marked trimmed => Sys2Proof.Machine.execTransferAck x bytes marked trimmed s
  | .transferComplete x => Sys2Proof.Machine.execTransferComplete x s
  | .transferRefused r => Sys2Proof.Machine.execTransferRefused r s
  | .retryLimit x => Sys2Proof.Machine.execRetryLimit x s
  | .rmaWrite p key off data last => Sys2Proof.Machine.execRmaWrite p key off data last s
  | .rmaRead p key off len => Sys2Proof.Machine.execRmaRead p key off len s
  | .send p key msg total off data => Sys2Proof.Machine.execSend p key msg total off data s
  | .taggedSend p key tag msg total off data => Sys2Proof.Machine.execTaggedSend p key tag msg total off data s
  | .chime c => Sys2Proof.Machine.execChime c s
  | .chimeAgree c => Sys2Proof.Machine.execChimeAgree c s
  | .chimeDisagree c => Sys2Proof.Machine.execChimeDisagree c s
  | .tapInject c u lane results => Sys2Proof.Machine.execTapInject c u lane results s
  | .sweepResult k pass => Sys2Proof.Machine.execSweepResult k pass s
  | .requalification k bin => Sys2Proof.Machine.execRequalification k bin s
  | .scanTest c => Sys2Proof.Machine.execScanTest c s
  | .scanTestAbort c => Sys2Proof.Machine.execScanTestAbort c s
  | .scanTestResult c signature => Sys2Proof.Machine.execScanTestResult c signature s
  | .repairPoint die col => Sys2Proof.Machine.execRepairPoint die col s
  | .scrub u => Sys2Proof.Machine.execScrub u s
  | .commitDieRecord die => Sys2Proof.Machine.execCommitDieRecord die s
  | .requestUpdate => Sys2Proof.Machine.execRequestUpdate s
  | .passComponentTable comp => Sys2Proof.Machine.execPassComponentTable comp s
  | .updateComponent comp => Sys2Proof.Machine.execUpdateComponent comp s
  | .requestFirmwareData off data => Sys2Proof.Machine.execRequestFirmwareData off data s
  | .verifyComplete => Sys2Proof.Machine.execVerifyComplete s
  | .applyComplete => Sys2Proof.Machine.execApplyComplete s
  | .activateFirmware => Sys2Proof.Machine.execActivateFirmware s
  | .monitorActivation => Sys2Proof.Machine.execMonitorActivation s
  | .raiseMinSvn comp svn => Sys2Proof.Machine.execRaiseMinSvn comp svn s
  | .pluginStop tenant => Sys2Proof.Machine.execPluginStop tenant s
  | .boot => Sys2Proof.Machine.execBoot s
  | .getVersion => Sys2Proof.Machine.execGetVersion s
  | .getCapabilities => Sys2Proof.Machine.execGetCapabilities s
  | .negotiateAlgorithms => Sys2Proof.Machine.execNegotiateAlgorithms s
  | .getDigests => Sys2Proof.Machine.execGetDigests s
  | .getCertificate => Sys2Proof.Machine.execGetCertificate s
  | .challenge nonce => Sys2Proof.Machine.execChallenge nonce s
  | .getMeasurements index => Sys2Proof.Machine.execGetMeasurements index s
  | .farMemoryBringup passed => Sys2Proof.Machine.execFarMemoryBringup passed s
  | .zqCalibration k => Sys2Proof.Machine.execZqCalibration k s
  | .dataRetrain k passed => Sys2Proof.Machine.execDataRetrain k passed s
  | .thermalSample temp => Sys2Proof.Machine.execThermalSample temp s
  | .powerCapSet watts => Sys2Proof.Machine.execPowerCapSet watts s
  | .powerCapWindow watts => Sys2Proof.Machine.execPowerCapWindow watts s
  | .powerOnReset => Sys2Proof.Machine.execPowerOnReset s
  | .rmaReadResponse x off data => Sys2Proof.Machine.execRmaReadResponse x off data s
  | .powerLoss => Sys2Proof.Machine.execPowerLoss s

end Sys2Proof.Machine
end

