-- ==== Sys2Proof/Machine/Upsets.lean ====
section
/-! DEFINITION. Errors that strike a structure, and what meets them (spec 21, R404, R406 to R409). Registers are looked at where a group
reads them (`issueWith`), memories where their port reads them; here is the rest: accumulators, slots, tables, and the tables of the hub. -/

namespace Sys2Proof.Machine

/-! ### What strikes (R404, Table 21-1) -/

/-- A single error that a code corrects: it is logged (R404, R408). -/
def State.corrected (s : State) (u : Upset) : State :=
  if u.struct_ = 0 ∨ u.struct_ = 1 ∨ u.struct_ = 9 then
    let e := s.scrubEntry 1 u.index
    s.logErr e.1 e.2
  else
    let e := s.upsetEntry 1 u (if u.struct_ = 10 then s.devNum ++ (0 : BitVec 12) else s.gca u.key)
      (if u.struct_ = 10 then none else if (s.cell u.key).fieldV then some (s.cell u.key).field else none)
    s.logErr e.1 e.2

/-- An error strikes: what a code corrects is corrected and logged, as is a link error by its retry; a register has parity alone, so that a
single error of one stays; a word of memory is uncorrectable at its next read (R404). -/
def State.strike (s : State) (u : Upset) : UpsetKind → State
  | .link => if u.struct_ = 9 then (let e := s.scrubEntry 5 u.index; s.logErr e.1 e.2) else s
  | .single =>
    if u.struct_ = 4 ∨ u.struct_ = 5 then { s with upsets := u :: s.upsets } else if u.struct_ ≤ 10 then s.corrected u else s
  | .multiple =>
    let m := memUpset (u.index / 8 * 8)
    if u.struct_ = 0 ∨ u.struct_ = 1 ∨ u.struct_ = 9 then
      { s with poison := s.poison ++ [m.index], upsets := m :: s.upsets }
    else if u.struct_ ≤ 10 then { s with upsets := u :: s.upsets } else s

/-! ### What meets an error (R407) -/

/-- What a move leads to, whatever becomes of its instruction. -/
def outcomeOf (r : Ready) : State :=
  match r with
  | .done t => t
  | .run i t => match exec i t with | .next v => v | .fault _ => t | .refused _ => t

/-- A container of an accumulator fragment or a scale, and the state with its bits inverted. -/
def State.accHeld (s : State) (u : Upset) : Word :=
  if u.struct_ = 2 then AL.get accUnset (s.cell u.key).acc u.index else (AL.get 0 (s.cell u.key).scales u.index).setWidth 64
/-- See `accHeld`. -/
def State.accSet (s : State) (u : Upset) (w : Word) : State :=
  s.modCell u.key (fun x =>
    if u.struct_ = 2 then { x with acc := AL.put x.acc u.index w } else { x with scales := AL.put x.scales u.index (w.setWidth 16) })

/-- A move reads a container or a scale where what it leads to, or what it leaves there other than what it found, depends on what that
held (R407). -/
def State.readsAcc (s : State) (u : Upset) (move : State → State) : Bool :=
  let s2 := s.accSet u (~~~(s.accHeld u))
  let a := move s
  let b := move s2
  a.accSet u 0 != b.accSet u 0 ||
  (a.accHeld u != b.accHeld u && (a.accHeld u != s.accHeld u || b.accHeld u != s2.accHeld u))

/-- The cell and the scope slot whose record a control message is about, where its home is a cell of the device. -/
def State.ctlAt (s : State) (x : Nat) : Option (Nat × Nat) :=
  (AL.find s.ctls x).bind (fun k =>
    if devOf (homeOf k.scope) = s.devNum then some (cellOf (homeOf k.scope), slotOf k.scope) else none)

/-- The control message that a step of the scope port serves. -/
def ctlOf : Instr → Option Nat
  | .mint x | .grant x | .refuse x | .link x | .linkres x | .unlink x | .unlinkack x | .notice x | .clear x | .clearack x
  | .close x | .cancel x | .choke x | .shield x | .claim x | .check x | .climb x | .answer x | .weightReturn x => some x
  | _ => none

/-- The tables of a cell other than its slots and scopes, by number (Table 21-1): its store buffer, its engine queues, its cancel list, its
join table and its route-tag table. -/
def cellTable : Instr → Option (Nat × Nat)
  | .storeBufferSend c => some (c, 0)
  | .engineProgramStart c _ => some (c, 1)
  | .copyHead c => some (c, 1)
  | .qfenceRelease c _ => some (c, 1)
  | .dispatch c => some (c, 2)
  | .rdvContinuation c _ => some (c, 3)
  | _ => none

/-- The table of a cell that an instruction of a frame of it uses: a message looks at the route tags, a rendezvous at the joins. -/
def issueTable : Instr → Option Nat
  | .sndg _ _ _ _ _ => some 4
  | .snds _ _ _ _ _ => some 4
  | .tagrd _ _ _ => some 4
  | .rdv _ _ _ => some 3
  | _ => none

/-- The entry of a table of the hub that a step uses: 0 queue, 1 route, 2 group, 3 peer, 4 region, 5 translation cache (Table 21-1). -/
def State.hubTable (s : State) : Instr → Option (Nat × Nat)
  | .doorbell _ q _ | .waitRecheck q | .tollExpiry q | .queueRearm q => some (0, q)
  | .launch p | .launchStartMessage p | .nopPacket p | .waitPacket p | .signalPacket p | .fencePacket p =>
    (AL.find s.cps p).bind (fun c => c.work.map (fun q => (0, q)))
  | .packetForward x => (AL.find s.packets x).bind (fun p => if p.pkt.mc then none else some (1, (devOf p.pkt.dst).toNat))
  | .multicastPacket x => (AL.find s.packets x).map (fun p => (2, p.pkt.dst.toNat % 256))
  | .transferPacketSend x => (AL.find s.transfers x).map (fun t => (3, t.peer))
  | .rmaWrite p _ _ _ _ | .rmaRead p _ _ _ | .send p _ _ _ _ _ | .taggedSend p _ _ _ _ _ _ => some (3, p.peer)
  | .translationWalk x => (AL.find s.flights x).map (fun f => (5, agentOf f.va.toNat))
  | _ => none

/-- The region table entry that a packet of a peer names (R373). -/
def State.regionUse (s : State) : Instr → Option (Nat × Nat)
  | .rmaWrite p key _ _ _ | .rmaRead p key _ _ | .send p key _ _ _ _ | .taggedSend p key _ _ _ _ _ =>
    (s.fieldByCtx (s.peer p.peer).ctxid).map (fun f => (4, 4096 * f.ctx.field + (key.extractLsb' 0 12).toNat))
  | _ => none

/-- Does a move use what holds an error (R407)? `r` is what it makes ready. -/
def State.meets (s : State) (m : Move) (r : Ready) (u : Upset) : Bool :=
  let i : Option Instr := match m with | .event i => some i | _ => none
  match u.struct_ with
  | 4 => (match i with | some (.trapTaken c sl) => u.key == c && u.index / 64 == sl | _ => false)
  | 5 => (match i with | some (.engineTrap c e) => u.key == c && u.index / 16 == unitIndex e | _ => false)
  | 6 => (match i with | some (.dispatch c) => u.key == c && AL.has (s.cell c).slots u.index | _ => false)
  | 7 => (i.bind ctlOf).bind s.ctlAt == some (u.key, u.index)
  | 8 =>
    i.bind cellTable == some (u.key, u.index / 4096) ||
    (match m, r with
     | .issue c _, .run j _ => u.key == c && issueTable j == some (u.index / 4096)
     | .event (.notice x), _ => u.index / 4096 == 2 && (AL.find s.ctls x).map (fun k => cellOf k.dst) == some u.key
     | .event (.clear x), _ => u.index / 4096 == 2 && (AL.find s.ctls x).map (fun k => cellOf k.dst) == some u.key
     | _, _ => false)
  | 10 => i.bind s.hubTable == some (u.key, u.index) || i.bind s.regionUse == some (u.key, u.index)
  | _ => false

/-- The field that an entry of a hub table is bound to: that of a queue, and of a region; the others serve every field (R409). -/
def State.hubField (s : State) (u : Upset) : Option Nat :=
  match u.key with
  | 0 => some (s.queue u.index).field
  | 4 => some (u.index / 4096)
  | _ => none

/-- The unit of the hub die that uses a table (Table 7-15). -/
def State.hubUser (s : State) (u : Upset) : BitVec 24 :=
  s.devNum ++ (match u.key with
    | 0 => unitCp (u.index % 16)
    | 3 => unitXport
    | 4 => unitXport
    | 5 => unitAgent u.index
    | _ => unitPort 0)

/-- An error is consumed by the move that meets it, which does not happen: in a cell it is a PARITY error of a register and else CONSUMED; in
a table of the hub it contains the field that the entry is bound to, if any (R407 to R409). -/
def State.consumeAt (s : State) (u : Upset) : State :=
  if u.struct_ = 10 then
    let e := s.upsetEntry 3 u (s.hubUser u) (s.hubField u)
    ({ s with upsets := s.upsets.filter (fun v => v != u) }.logErr e.1 e.2).contain (s.hubField u)
  else s.consumeIn (if u.struct_ = 4 ∨ u.struct_ = 5 then 4 else 3) u

/-- Has an entry been written between two states, so that its check bits are new? -/
def State.rewritten (s t : State) (move : State → State) (u : Upset) : Bool :=
  match u.struct_ with
  | 2 => (move (s.accSet u (~~~(s.accHeld u)))).accHeld u == t.accHeld u
  | 3 => (move (s.accSet u (~~~(s.accHeld u)))).accHeld u == t.accHeld u
  | 6 => AL.find (s.cell u.key).slots u.index != AL.find (t.cell u.key).slots u.index
  | 7 => AL.find (s.cell u.key).scopes u.index != AL.find (t.cell u.key).scopes u.index
  | 10 =>
    (match u.key with
    | 0 => AL.find s.queues u.index != AL.find t.queues u.index
    | 1 => AL.find s.routes u.index != AL.find t.routes u.index
    | 2 => AL.find s.groups u.index != AL.find t.groups u.index
    | 3 => AL.find s.peers u.index != AL.find t.peers u.index
    | 4 => AL.find s.regions u.index != AL.find t.regions u.index
    | _ => (s.agent u.index).cache != (t.agent u.index).cache)
  | _ => false

/-- What a move leads to where errors stand: one that it meets is consumed instead, and what it writes anew holds none any more (R407). -/
def State.guarded (s : State) (m : Move) (ready : State → Ready) : Ready :=
  let move := fun (t : State) => outcomeOf (ready t)
  match s.upsets.find? (fun u => s.meets m (ready s) u || ((u.struct_ == 2 || u.struct_ == 3) && s.readsAcc u move)) with
  | some u => .done (s.consumeAt u)
  | none =>
    let gone := s.upsets.filter (s.rewritten (move s) move)
    if gone.isEmpty then ready s else .done ((move s).dropUpsets gone)

end Sys2Proof.Machine
end

