-- ==== Sys2Proof/WellFormed.lean ====
section
/-! DEFINITION. Well-formed instructions: the operands that an encoding admits (spec 02, R40, R46, R47,
Tables 2-3, 2-7; spec 04, R86; spec 19, Table 19-5). A step that no word encodes has no condition. -/

namespace Sys2Proof

/-- A bit field lies within 64 bits: p + L ≤ 64 (R86). -/
def bitFieldOk (p lm1 : BitVec 6) : Bool := decide (p.toNat + lm1.toNat + 1 ≤ 64)

/-- A posted atomic has a lookahead of zero (Table 2-7). -/
def atomOk (f : AtomForm) (l : BitVec 4) : Bool := !f.posted || l == 0#4

/-- Each operand lies in the range that Tables 2-3, 2-7 and 19-5 and R46, R47 and R86 give it. -/
def Instr.operandsOk : Instr → Bool
  | .bext _ _ p l | .bins _ _ p l | .bextu _ _ _ p l => bitFieldOk p l
  | .crd _ _ n | .cwr _ _ n | .cset _ _ n | .cclr _ _ n => decide (n.toNat ≤ lastControlReg)
  | .aadd _ _ f _ _ l | .aand _ _ f _ _ l | .aor _ _ f _ _ l | .axor _ _ f _ _ l | .amin _ _ f _ _ l
  | .amax _ _ f _ _ l | .aminu _ _ f _ _ l | .amaxu _ _ f _ _ l | .aswap _ _ f _ _ l | .acas _ _ f _ _ l
  | .ainc _ _ f _ _ l | .adec _ _ f _ _ l | .afadd _ _ f _ _ l => atomOk f l
  | .vsel _ a => decide (a.toNat + 2 ≤ 15)
  | .vgat _ a | .vsca _ a | .vtop _ a => decide (a.toNat + 1 ≤ 15)
  | .gorivoLdr _ n => decide (n.toNat ≤ 3)
  | .gorivoShli _ _ n | .gorivoShri _ _ n | .gorivoCadd _ n | .gorivoCset _ n | .gorivoCrd _ n
  | .gorivoCount n => decide (n.toNat ≤ 63)
  | _ => true

/-- At most four prefixes stand before a base word (R34): a long immediate leaves no room for others. -/
def Instr.prefixesOk (i : Instr) : Bool :=
  match encodeGroup i with
  | some g => decide (g.words.pfx.length ≤ 4)
  | none => true

/-- A well-formed instruction: its operands and its prefixes are such that its encoding admits them. -/
def Instr.wf (i : Instr) : Bool := i.operandsOk && i.prefixesOk

/-- Does a word encode the instruction? The rows from MESSAGE_ARRIVAL on are steps without one. -/
def Instr.encoded (i : Instr) : Bool := (encodeGroup i).isSome || (encodeGorivo i).isSome

end Sys2Proof
end

