-- ==== Sys2Proof/Machine/Sched.lean ====
section
/-! DEFINITION. Which step comes next (R8; log 5): the head of the agenda, or a free choice among the enabled steps; and which frame
of a cell issues (R144). -/

namespace Sys2Proof.Machine

/-! ### What a move does -/

/-- Is a step one of the compute dies, which are powered down at 110 °C (R430; log 36)? Steps of the hub die, the fabric, the
transport engine, the firmware complex and the power unit go on. -/
def onDies : Instr → Bool
  | .messageArrival _ | .dispatch _ | .retirement _ _ | .weightReturnDrain _ _ | .stealProbe _ | .stolenMessageArrival _
  | .streamerStealProbe _ | .loadComplete _ | .trapTaken _ _ | .engineTrap _ _ | .retiredAccessError _ | .storeBufferSend _
  | .accessPerformed _ | .storeAck _ | .atomicEngineOp _ | .hotLineEvict _ | .frontWriteback _ _ | .launchRecordRead _
  | .engineProgramStart _ _ | .engineProgramEnd _ _ | .rdvContinuation _ _ | .scoreboardGrant _ _ | .gangStart _ | .gangPass _
  | .copyHead _ | .chunkStart _ | .chunkForward _ _ | .chunkPerformed _ _ | .chunkRefused _ _ | .copyEnd _ | .syncCredit _
  | .wakeMessage _ | .qfenceRelease _ _ | .generationClose _ _ | .bellMessage _ _ | .mint _ | .grant _ | .refuse _ | .link _
  | .linkres _ | .unlink _ | .unlinkack _ | .notice _ | .clear _ | .clearack _ | .close _ | .cancel _ | .choke _ | .shield _
  | .claim _ | .check _ | .climb _ | .answer _ | .weightReturn _ | .freeSlotReport _ | .chime _ | .chimeAgree _
  | .chimeDisagree _ | .tapInject _ _ _ _ | .sweepResult _ _ | .scanTest _ | .scanTestAbort _ | .scanTestResult _ _ => true
  | _ => false

/-- Has what a step needs its power (R425, R430)? -/
def State.powered (s : State) (i : Instr) : Bool :=
  match s.power.mode with
  | .on => true
  | .hubOnly => !onDies i
  | .off => decide (i = .powerOnReset)

/-- A nanosecond or more passes: global time, and the cycles of cells in which no frame of a tenant is ready are not told apart; a
message leaves each outbound queue in each nanosecond (R142; log 7); a live activation ends (R426). -/
def State.elapse (s : State) (n : Nat) : State :=
  s.endChange.passTime n |> fun t => { t with cells := t.cells.map (fun p => (p.1, { p.2 with outq := p.2.outq.drop n })) }

/-! ### Choosing what issues (R144) -/

/-- The group that a frame would issue, made ready. -/
def State.readyIssue (s : State) (c slot : Nat) : Ready := if s.power.mode = .on then s.readyFrame c slot else .done s

/-- The state after a frame's move, if it runs to one. -/
def State.issued (s : State) (c slot : Nat) : Option State :=
  match s.readyIssue c slot with
  | .done t => some t
  | .run i t => match exec i t with | .next t' => some t' | _ => none

/-- Would a group of the frame issue now, or trap: is the frame ready (R144)? -/
def State.frameReady (s : State) (c slot : Nat) : Bool :=
  match s.issued c slot with
  | some t => (t.frame c slot).groups != (s.frame c slot).groups || (t.frame c slot).life != (s.frame c slot).life
  | none => true

/-- The tenant of a frame. -/
def State.tenantOf (s : State) (c slot : Nat) : Nat := (s.actOf c slot).naming.tenant.toNat

/-- The ready frames of a cell. -/
def State.readySlots (s : State) (c : Nat) : List Nat :=
  (List.range 16).filter (fun k => (s.frame c k).life == .running && s.frameReady c k)

/-- The deficit weight of a tenant in a cell's field (R144). -/
def State.weightOf (s : State) (c t : Nat) : Int :=
  match s.fieldOf c with | some f => (((f.ctx.weights[t]?).getD 1 : Nat) : Int) | none => 1

/-- The deficit counters after a cycle in which the tenants `ts` are ready, and the tenant chosen (R144). -/
def deficitTurn (w : Nat → Int) (d : AL Int) (ts : List Nat) : AL Int × Option Nat :=
  let kept := ts.foldl (fun m t => AL.put m t (AL.get 0 d t + w t)) []
  match ts with
  | [] => ([], none)
  | t0 :: _ =>
    let best := ts.foldl (fun b t => if AL.get 0 kept b < AL.get 0 kept t then t else b) t0
    let sum := ts.foldl (fun (n : Int) t => n + w t) 0
    (AL.put kept best (AL.get 0 kept best - sum), some best)

/-- Does frame `a` issue before frame `b` of the same tenant: the higher channel, then the earlier dispatched, then the lower slot
(R144)? -/
def State.issuesFirst (s : State) (c a b : Nat) : Bool :=
  let f := s.frame c a
  let g := s.frame c b
  decide (g.chan.toNat < f.chan.toNat) || (f.chan == g.chan && (decide (f.act < g.act) || (f.act == g.act && decide (a < b))))

/-- The deficit counters of a cell after a cycle in which the frames `rs` are ready, and the frame that issues (R144). -/
def State.chooseAmong (s : State) (c : Nat) (rs : List Nat) : AL Int × Option Nat :=
  let ts := (List.range 16).filter (fun t => rs.any (fun k => s.tenantOf c k == t))
  let r := deficitTurn (s.weightOf c) (s.cell c).deficit ts
  (r.1, match r.2 with
    | none => none
    | some u => (rs.filter (fun k => s.tenantOf c k == u)).foldl (fun b k =>
        match b with
        | none => some k
        | some j => if s.issuesFirst c k j then some k else some j) none)

/-- The frames of a cell that are ready in this cycle. Whether a latency of Table 4-1 still holds a frame back is a free choice, since
no cycles are counted (R80, R144; log 7). -/
def State.cycleSlots (s : State) (c : Nat) : List Nat :=
  (s.readySlots c).filter (fun k => Config.pick s.tick (3 + 16 * c + k) % 2 == 0)

/-! ### What a move does -/

/-- A probe for work comes in a cycle in which no frame of the cell is ready (R145). -/
def State.probeDue (s : State) : Instr → Bool
  | .stealProbe c => (s.cycleSlots c).isEmpty
  | _ => true

/-- The number that travels by the internal ports to a step (R367). -/
def pathOf : Instr → Option Nat
  | .messageArrival x | .accessPerformed x | .packetForward x => some x
  | i => ctlOf i

/-- May a step come: is its probe due, and has what it serves its places at the internal ports (R145, R367)? -/
def State.mayCome (s : State) (i : Instr) : Bool :=
  s.powered i && s.probeDue i && (match pathOf i with | some x => s.pathOpen x | none => true)

/-- What a move makes ready where no error stands in its way: an instruction to run or a state. -/
def State.readyMove (s : State) : Move → Ready
  | .issue c slot => s.readyIssue c slot
  | .engine c u => if s.power.mode = .on then s.readyEngine c u else .done s
  | .gorivo k => if s.power.mode = .on then s.readyTrace k else .done s
  | .event i => if s.mayCome i then .run i { s with cur := .none } else .done s
  | .evict c line => .done (s.modCell c (fun x => { x with icache := AL.del x.icache line }))
  | .clock n => .done (s.elapse n)
  | .upset u k => .done (s.strike u k)

/-- What a move makes ready: an instruction to run or a state (R407). -/
def State.ready (s : State) (m : Move) : Ready :=
  if s.upsets.isEmpty then s.readyMove m else s.guarded m (fun t => t.readyMove m)

/-- May a frame move next: it is the one that issues of those ready in this cycle, or it goes on with a group that does not issue
yet? -/
def State.frameTurn (s : State) (c slot : Nat) : Bool :=
  if s.frameReady c slot then (s.chooseAmong c (s.cycleSlots c)).2 == some slot else true

/-- The counters after a cycle: of a cell that chose, as it chose; where time passes, those of a cell in which no frame was ready in a
cycle may have been cleared (R144; log 7). -/
def State.charge (s : State) (m : Move) : State :=
  match m with
  | .issue c slot =>
    if s.frameReady c slot then s.modCell c (fun x => { x with deficit := (s.chooseAmong c (s.cycleSlots c)).1 }) else s
  | .clock _ => { s with cells := s.cells.map (fun p =>
      (p.1, if Config.pick s.tick (3 + 16 * p.1) % 2 == 0 then { p.2 with deficit := [] } else p.2)) }
  | _ => s

/-- The counters where the agenda names the frame that issues: a cycle in which it alone is ready, since a latency holds the others back
(R80, R144; log 5, log 7). -/
def State.chargeGiven (s : State) : State :=
  match s.agenda with
  | .issue c slot :: _ => if s.frameReady c slot then s.modCell c (fun x => { x with deficit := (s.chooseAmong c [slot]).1 }) else s
  | _ => s

/-! ### The step that comes next -/

/-- May a step without a word come next by itself: any that its own rule then lets happen, and any input from outside? Words run
only when they are fetched, a verdict needs the message that gives it (R55, R362), and a program load the address that asks for it
(R393; log 5). -/
def State.freeStep (s : State) : Instr → Bool
  | .verdictResumeAt _ _ | .verdictResumeAfter _ _ | .verdictAbandon _ _ | .verdictKeep _ _ => false
  | .prog k a => (s.trace k).loading == some a
  | i => !i.encoded

/-- May a move come next: a frame that issues is the one its cell chooses (R144). -/
def State.mayMove (s : State) : Move → Bool
  | .issue c slot => s.frameTurn c slot
  | .event i => s.freeStep i
  | _ => true

/-- A freely chosen move (log 5). -/
def freeMove (t : Nat) : Move :=
  match Config.pick t 0 with
  | 0 => .issue (Config.pick t 1) (Config.pick t 2)
  | 1 => .engine (Config.pick t 1) .vector
  | 2 => .engine (Config.pick t 1) .matrix
  | 3 => .gorivo (Config.pick t 1)
  | 4 => .event (Config.event t)
  | 5 => .evict (Config.pick t 1) (Config.pick t 2)
  | 6 => .engine (Config.pick t 1) .streamer
  | 7 => .upset ⟨Config.upset t 0, Config.upset t 1, Config.upset t 2⟩
      (match Config.upset t 3 with | 0 => .single | 1 => .multiple | _ => .link)
  | _ => .clock 1

/-- The next move and the state that has taken it off the agenda: the agenda's head, else a free choice among those that may come; a
nanosecond passes where the chosen one may not (log 5). -/
def State.nextMove (s : State) : Move × State :=
  match s.agenda with
  | m :: t => (m, { s.chargeGiven with agenda := t, tick := s.tick + 1 })
  | [] =>
    let m := if s.mayMove (freeMove s.tick) then freeMove s.tick else .clock 1
    (m, { s.charge m with tick := s.tick + 1 })

end Sys2Proof.Machine
end

