-- ==== Sys2Proof/Machine/Step.lean ====
section
/-! DEFINITION. One step of the module: the next move is taken and what it makes ready runs (R8). -/

namespace Sys2Proof.Machine

/-- One step. -/
def step (s : State) : Out :=
  match s.nextMove.2.ready s.nextMove.1 with
  | .run i s' => exec i s'
  | .done s' => .next s'

/-- The state with the instruction of a table row placed where the next step takes it (log 4). -/
def State.withFetchWord (s : State) (nbits w : Nat) : State := s.placeTableWord nbits w

end Sys2Proof.Machine
end

