-- ==== Sys2Proof/Safety.lean ====
section
/-! DEFINITION. What counts as a safe run, in the terms that claims use: runs, invariants, and the states in which the machine can
stop. -/

namespace Sys2Proof.Machine

/-- `t` is reached from `s` by some steps, each of which answers a next state. -/
inductive Reaches : State → State → Prop
  | refl (s : State) : Reaches s s
  | step {s t u : State} (h : Reaches s t) (hs : Machine.step t = .next u) : Reaches s u

/-- Every step that answers a next state keeps a property. -/
def Keeps (I : State → Prop) : Prop := ∀ s t : State, I s → step s = .next t → I t

/-- The memory is in its canonical form. -/
def State.MemOk (s : State) : Prop := s.mem.wf = true

/-- The head of the agenda is not a word as an event: words run only where they are fetched (log 5). -/
def State.AgendaOk (s : State) : Prop :=
  match s.agenda with
  | .event i :: _ => i.encoded = false
  | _ => True

/-- A machine that no step stops: it answers a next state. -/
def State.Goes (s : State) : Prop := ∃ t : State, step s = .next t

/-! ### The group that executes -/

/-- `c` is the group that executes. -/
def State.At (s : State) (c : Ctx) : Prop := s.cur = .group c.cell c.unit c.slot c.site

/-- Nothing keeps a group from its own effect before its body: no window is used up (R50), the registers it names exist (check 6)
and none is still to be written by an outstanding instruction (check 7) or holds a parity error (R404), and its checked pair lets it go
on (R412 to R414). -/
structure State.Clear (s : State) (c : Ctx) (forced : Forced) (touched : List Int) : Prop where
  window : c.unit = .scalar → windowClosed (s.fr c).outst = false
  exist  : ∀ n ∈ touched, 0 ≤ n ∧ n < (s.regLimit c : Int)
  done   : c.unit = .scalar → ∀ n ∈ touched, ∀ o ∈ (s.fr c).outst, n.toNat ∉ o.dests
  pair   : s.pairGate c forced = .go
  sound  : ∀ n ∈ touched, c.regUpset n ∉ s.upsets

/-- The PC of the frame or of the engine program that the group belongs to. -/
def State.pcAt (s : State) (c : Ctx) : Option Addr :=
  match c.unit with
  | .scalar => some (s.fr c).pc
  | .engine _ => (AL.find s.progs (s.progId c)).map Prog.pc

/-- The PC after the group: the target of a control transfer, else NEXT of a resume-at verdict that waits (R55), else the address
after the base word. -/
def State.pcNext (s : State) (c : Ctx) (target : Option Addr) : Option Addr :=
  match c.unit with
  | .scalar => some (target.getD ((s.fr c).resume.getD c.site.next))
  | .engine _ => (AL.find s.progs (s.progId c)).map (fun p => target.getD (p.resume.getD c.site.next))

/-- Registers but those listed are as before. -/
def KeepsRegs (s t : State) (c : Ctx) (but : List Int) : Prop := ∀ n : Nat, (n : Int) ∉ but → t.reg c n = s.reg c n

/-- What a completed group leaves as it was beside the registers, index registers and control registers of its own unit: memory,
every other frame, engine and program, and every other part of the state. Its frame's windows of older outstanding instructions
shrink by one (R50). -/
structure Completed (s t : State) (c : Ctx) : Prop where
  rest    : { t with cells := s.cells, waits := s.waits, progs := s.progs } = s
  cells   : ∀ k, k ≠ c.cell → t.cell k = s.cell k
  cell    : { t.cell c.cell with
              frames := (s.cell c.cell).frames, pairs := (s.cell c.cell).pairs, vector := (s.cell c.cell).vector,
              matrix := (s.cell c.cell).matrix, streamer := (s.cell c.cell).streamer } = s.cell c.cell
  frames  : ∀ k, k ≠ c.slot ∨ c.unit ≠ .scalar → t.frame c.cell k = s.frame c.cell k
  frame   : { t.fr c with
              g := (s.fr c).g, x := (s.fr c).x, cr := (s.fr c).cr, pc := (s.fr c).pc, resume := (s.fr c).resume,
              off := (s.fr c).off, mark := (s.fr c).mark, pend := (s.fr c).pend, held := (s.fr c).held,
              groups := (s.fr c).groups, outst := (s.fr c).outst } = s.fr c
  windows : c.unit = .scalar → (t.fr c).outst =
              (s.fr c).outst.map (fun o => if o.flight < s.nextId then { o with left := o.left - 1 } else o)
  engines : ∀ u, c.unit ≠ .engine u → (t.cell c.cell).engine u = (s.cell c.cell).engine u
  engine  : ∀ u, { (t.cell c.cell).engine u with e := ((s.cell c.cell).engine u).e } = (s.cell c.cell).engine u
  progs   : ∀ p, c.unit = .scalar ∨ p ≠ s.progId c → AL.find t.progs p = AL.find s.progs p
  pairs   : s.checkedC c = false → (t.cell c.cell).pairs = (s.cell c.cell).pairs

/-- The state in which the fetch of a target has filled the cell's instruction cache and a translation agent's cache. -/
def State.fetched (s : State) (c : Ctx) (icache : AL (List Byte)) (agents : AL Agent) : State :=
  { s with cells := AL.put s.cells c.cell { s.cell c.cell with icache := icache }, agents := agents }

/-- A control transfer finds code at its target (R81): the target is even and its fetch gives a halfword. -/
def State.CanGo (s : State) (c : Ctx) (t : Addr) : Prop :=
  t.toNat % 2 = 0 ∧ ∃ h s2, s.fetchHalf c.cell t.toNat = (.ok h, s2)

/-- The instruction completes with a value in one register, and changes no other register, index register or control register. -/
def Wrote (s : State) (c : Ctx) (i : Instr) (d : Int) (v : Word) : Prop :=
  ∃ t, exec i s = .next t ∧ t.reg c d = v ∧ KeepsRegs s t c [d] ∧ (t.fr c).x = (s.fr c).x ∧ (t.fr c).cr = (s.fr c).cr ∧
    Completed s t c ∧ t.pcAt c = s.pcNext c none

/-- The instruction completes, moves the PC on or to a target, and changes at most the register and the index register given: a
transfer may fill the caches that its target is fetched through. -/
def Went (s : State) (c : Ctx) (i : Instr) (reg : Option (Int × Word)) (x : Option (BitVec 2 × BitVec 16))
    (target : Option Addr) : Prop :=
  ∃ t icache agents, exec i s = .next t ∧
    (∀ p, reg = some p → t.reg c p.1 = p.2) ∧ KeepsRegs s t c (reg.toList.map Prod.fst) ∧
    (∀ k, t.xreg c k = match x with | some p => if p.1 = k then p.2 else s.xreg c k | none => s.xreg c k) ∧
    (t.fr c).cr = (s.fr c).cr ∧
    Completed (if target.isSome then s.fetched c icache agents else s) t c ∧ t.pcAt c = s.pcNext c target

/-- The windows of a frame's outstanding instructions that are older than the group, each one shorter (R50). -/
def State.shrunk (s : State) (c : Ctx) : List Outst :=
  (s.fr c).outst.map (fun o => if o.flight < s.nextId then { o with left := o.left - 1 } else o)

/-- What an instruction of a frame leaves that makes accesses: every byte of memory, every register of every frame and engine, and
all else but the access itself, the packet of one that leaves the device, its store-buffer entry, its count, the log of a refusal, and
its frame's waits. -/
structure Sent (s t : State) (c : Ctx) : Prop where
  rest    : { t with
              cells := s.cells, waits := s.waits, acts := s.acts, flights := s.flights, packets := s.packets,
              hubPaths := s.hubPaths, nextId := s.nextId } = s
  packets : ∀ k, k ≠ s.nextId → AL.find t.packets k = AL.find s.packets k
  cells   : ∀ k, k ≠ c.cell → t.cell k = s.cell k
  cell    : { t.cell c.cell with
              frames := (s.cell c.cell).frames, pairs := (s.cell c.cell).pairs, sb := (s.cell c.cell).sb,
              violations := (s.cell c.cell).violations } = s.cell c.cell
  frames  : ∀ k, k ≠ c.slot → t.frame c.cell k = s.frame c.cell k
  frame   : { t.fr c with
              pc := (s.fr c).pc, resume := (s.fr c).resume, off := (s.fr c).off, mark := (s.fr c).mark,
              pend := (s.fr c).pend, held := (s.fr c).held, groups := (s.fr c).groups, outst := (s.fr c).outst,
              acq := (s.fr c).acq, acqE := (s.fr c).acqE } = s.fr c
  flights : ∀ k, k ≠ s.nextId → AL.find t.flights k = AL.find s.flights k
  acts    : ∀ a, a ≠ (s.fr c).act → AL.find t.acts a = AL.find s.acts a
  pc      : t.pcAt c = s.pcNext c none

/-- The conditions under which a memory instruction issues beside those of `Clear`: the wait of its `pm` (R194) and the acquires of
its frame (R196) are over, and its address is aligned and within one region (checks 8 and 9). -/
structure State.MayAccess (s : State) (c : Ctx) (w : WaitCond) (ea : Addr) (align n : Nat) : Prop where
  wait  : (s.marked c).waitOk c w = true
  acq   : s.acqBlocked c = false
  align : ea.toNat % align = 0
  one   : oneRegion (s.segsOf c.cell) ea.toNat n = true

/-- The page of a store's target is not found non-resident at issue (R193), and the frame waits for no page. -/
structure State.PageKnown (s : State) (c : Ctx) (t : Target) : Prop where
  marked : s.unmarkedPage c t = none
  waits  : ∀ p, s.memWait c ≠ .page p
  refuse : ∀ e, s.memWait c ≠ .refused e

/-- An access of the group stands in flight under the next number. -/
structure InFlight (s t : State) (c : Ctx) (cls : MemClass) (op : MemOp) (ea : Addr) (need : Need) : Prop where
  flight : ∃ f, AL.find t.flights s.nextId = some f ∧ f.issuer = .act (s.fr c).act ∧ f.cell = c.cell ∧ f.cls = cls ∧ f.op = op ∧
             f.va = ea ∧ f.target = s.resolveC c ea need ∧ f.posted = false ∧ f.site = c.site ∧
             (s.checkedC c = false → ∀ k, s.resolveC c ea need = .bad k → f.stage = .answered (.err ⟨k, ea⟩)) ∧
             (s.checkedC c = false → (s.cell c.cell).sb = [] → ∀ a, s.resolveC c ea need = .sram a → f.stage = .going)

/-- A store or posted atomic of the group has entered the store buffer, or the gated buffer of a checked activation, behind what
stood there (R187, R414), and is counted where its class and owner say so (R109, R188). -/
structure Entered (s t : State) (c : Ctx) (cls : MemClass) (hint : BitVec 4) (k : SbKind) : Prop where
  plain   : s.checkedC c = false →
              (t.cell c.cell).sb = (s.cell c.cell).sb ++ [⟨s.nextId, (s.fr c).act, cls, hint, c.site, k, false, 0⟩]
  checked : s.checkedC c = true →
              (t.cell c.cell).sb = (s.cell c.cell).sb ∧ (t.pairU c.cell c.slot).gated =
                (s.pairU c.cell c.slot).gated ++ [⟨s.nextId, (s.fr c).act, cls, hint, c.site, k, false, 0⟩]
  flights : t.flights = s.flights
  count   : ∀ a, AL.find s.acts (s.fr c).act = some a → AL.find t.acts (s.fr c).act = some
              (if countedStore c.cell cls k.target ∧ (s.checkedC c = true → (s.cell c.cell).leader = true)
                then a.setCount cls (a.count cls + 1) else a)

/-- A trap of the group has been raised (R53, R56): its frame or program is frozen with the cause, the site, ADDR_IDX and NEXT, and
all else is as before the instruction. -/
structure Raised (s t : State) (c : Ctx) (cause : Nat) (idx : Word) (next : Addr) : Prop where
  rest   : { t with cells := s.cells, waits := s.waits, progs := s.progs } = s
  cells  : ∀ k, k ≠ c.cell ∨ c.unit ≠ .scalar → { t.cell k with pairs := (s.cell k).pairs } = s.cell k
  cell   : { t.cell c.cell with frames := (s.cell c.cell).frames, pairs := (s.cell c.cell).pairs } = s.cell c.cell
  pairs  : s.checkedC c = false → ∀ k, (t.cell k).pairs = (s.cell k).pairs
  frames : ∀ k, k ≠ c.slot ∨ c.unit ≠ .scalar → t.frame c.cell k = s.frame c.cell k
  frame  : c.unit = .scalar → t.fr c = { s.fr c with
             life := .frozen, trap := some ⟨cause, c.site, idx, next, .raised, s.nextId⟩, pend := none, mark := none,
             held := none, groups := (s.fr c).groups + 1 }
  progs  : ∀ p, c.unit = .scalar ∨ p ≠ s.progId c → AL.find t.progs p = AL.find s.progs p
  prog   : ∀ u, c.unit = .engine u → ∀ p, AL.find s.progs (s.progId c) = some p →
             AL.find t.progs (s.progId c) = some { p with
               life := .frozen, pend := none, held := none, old := [],
               trap := some ⟨cause, c.site, idx, if c.site.pc = 0 then 0 else c.site.next, .raised, s.nextId⟩ }

/-- What an instruction of a frame that creates work or asks for something leaves as it was once it is done, beside what its
statement names: memory and accesses in flight, every other cell and frame, the registers but those listed, and its index and
control registers. The PC moves on, and the windows of older outstanding instructions shrink by one. -/
structure Proceeds (s t : State) (c : Ctx) (but : List Int) : Prop where
  mem     : t.mem = s.mem
  flights : t.flights = s.flights
  cells   : ∀ k, k ≠ c.cell → t.cell k = s.cell k
  frames  : ∀ k, k ≠ c.slot → t.frame c.cell k = s.frame c.cell k
  frame   : { t.fr c with
              g := (s.fr c).g, pc := (s.fr c).pc, resume := (s.fr c).resume, off := (s.fr c).off, mark := (s.fr c).mark,
              pend := (s.fr c).pend, held := (s.fr c).held, groups := (s.fr c).groups, outst := (s.fr c).outst,
              acq := (s.fr c).acq, acqE := (s.fr c).acqE } = s.fr c
  windows : (t.fr c).outst = s.shrunk c
  regs    : KeepsRegs s t c but
  pc      : t.pcAt c = s.pcNext c none

/-! ### Scope ports -/

/-- The control message `q` stands under the number `x`, has the kind `k`, is the next of its pair of units (R157), and no fence stops
it. -/
structure State.Serves (s : State) (x : Nat) (q : Ctl) (k : CtlKind) : Prop where
  there : AL.find s.ctls x = some q
  known : x < s.nextId
  kind  : q.kind = k
  first : s.ctlBehind x q = false
  open_ : s.ctlFenced q = false

/-- What serving the control message `x` leaves: the record of one scope as said; every other record, all else of its home, every
other cell, the other control messages, and all that is neither a control message nor a packet as before. -/
structure ScopeStep (s t : State) (x : Nat) (sc : BitVec 32) (r : ScopeRec) : Prop where
  record : t.scopeRec sc = r
  others : ∀ z : BitVec 32, z.extractLsb' 0 20 ≠ sc.extractLsb' 0 20 → t.scopeRec z = s.scopeRec z
  cells  : ∀ k, k ≠ cellOf (homeOf sc) → t.cell k = s.cell k
  cell   : { t.cell (cellOf (homeOf sc)) with scopes := (s.cell (cellOf (homeOf sc))).scopes } = s.cell (cellOf (homeOf sc))
  gone   : AL.find t.ctls x = none
  ctls   : ∀ y, y < s.nextId → y ≠ x → AL.find t.ctls y = AL.find s.ctls y
  rest   : { t with
             cells := s.cells, ctls := s.ctls, asks := s.asks, packets := s.packets, hubPaths := s.hubPaths,
             nextId := s.nextId } = s

/-- The answer to a control message leaves, under the next number, where its asker is on this device. -/
def Answers (s t : State) (q : Ctl) (k : CtlKind) (v : Word) (other : BitVec 32) : Prop :=
  q.who ≠ .none → devOf (s.replyTo q.who) = s.devNum →
    ∃ colour, AL.find t.ctls s.nextId = some ⟨k, false, q.dst, s.replyTo q.who, q.scope, other, q.who, v, [], .answer, colour⟩

/-- `n` bytes from an address on stand one after the other in SRAM from `a` on, for every use: mapped, not fenced, not poisoned, not in
a segment with race logging, and not in a leader's near scratch. -/
structure State.OpenRun (s : State) (w : Who) (va n a : Nat) : Prop where
  top   : va + n ≤ 2 ^ 48
  sram  : a + n ≤ farBase
  place : ∀ k < n, ∀ need, resolve w.segs w.window (va + k) need = .sram (a + k)
  open_ : ∀ k < n, s.flatFenced (a + k) = false
  clean : s.poisoned a n = false
  race  : ∀ k < n, s.raceOn (a + k) = false
  alone : ∀ k < n, ∀ c, ownerCell (a + k) = some c → s.follower c = none

/-- Such a run in no line that an atomic engine holds. -/
structure State.PlainRun (s : State) (w : Who) (va n a : Nat) : Prop extends s.OpenRun w va n a where
  cold  : ∀ k < n, s.cold ((a + k) / 64) = true

/-! ### Engine programs -/

/-- The records of `n` bytes that some registers name are aligned and read, one after the other, and their reading changes nothing (R272,
R304). -/
def State.RecordsRead (s : State) (c : Ctx) (n : Nat) (regs : List Nat) (bs : List Byte) : Prop :=
  bs.length = n * regs.length ∧
  ∀ p ∈ regs.zipIdx,
    let a := (s.reg c (p.1 : Int)).setWidth 48
    a.toNat % n = 0 ∧ (readVa (s.whoGroup c) a.toNat n .r).exec s = (.ok ((bs.drop (n * p.2)).take n), s)

/-- The program of a group runs one iteration `u` of a vector instruction whose shape records are read, with what the iteration before
handed on: at its first issue from the state in which the records have been read and the free scoreboards entered, later from the state in
which its scope has been found not cancelled. -/
structure State.VectorAt (s : State) (c : Ctx) (x : Prog) (regs : List Nat) (bs : List Byte) (shs : List Shape) (u : Nat)
    (carry : List Int) (b : State) : Prop where
  unit    : c.unit = .engine .vector
  prog    : AL.find s.progs (s.progId c) = some x
  wait    : s.memWait c = .none
  done    : s.writesDone (s.progId c) = true
  shapes  : ((List.range regs.length).map (fun i => (bs.drop (64 * i)).take 64)).mapM
              (fun r => shapeOf r (s.channelOk c)) = some shs
  aligned : ∀ h ∈ shs, h.aligned = true
  stands  :
    (u = 0 ∧ carry = [] ∧ x.pend = none ∧ s.RecordsRead c 64 regs bs ∧
      (∀ f ∈ fragsOf shs, s.score c.cell f = []) ∧
      b = (((s.endWait (s.req c)).reachScore c.cell (s.progId c) (fragsOf shs)).setPend c
        ⟨8, 0, none, bs, 0, [], none, 0, [], [], none⟩)) ∨
    (x.pend = some ⟨8, u, none, bs, 0, [], none, 0, carry, [], none⟩ ∧ bs.length = 64 * regs.length ∧ bs ≠ [] ∧
      ((u = 0 ∧ b = s) ∨
        (0 < u ∧ s.mayCheck c.cell x.naming.scope = true ∧ s.cancelledAt c.cell x.naming.scope = false ∧
          b = s.checked c.cell x.naming.scope)))

/-- The scope of an engine's program is found not cancelled before a unit of work: against the cell's list, or by the answer of its home
in overflow mode (R168, R278, R306). -/
def State.Uncancelled (s : State) (c : Ctx) (x : Prog) : Prop :=
  s.mayCheck c.cell x.naming.scope = true ∧ s.cancelledAt c.cell x.naming.scope = false

/-- The program of a group is at a unit of a matrix instruction with the descriptors that some registers name, which are read at its first
issue (R304); its scope has been found not cancelled (R306). `q` is what it has so far, and `b` the state in which the unit is done. -/
structure State.MatrixAt (s : State) (c : Ctx) (x : Prog) (regs : List Nat) (q : Pending) (b : State) : Prop where
  unit   : c.unit = .engine .matrix
  prog   : AL.find s.progs (s.progId c) = some x
  wait   : s.memWait c = .none
  going  : s.Uncancelled c x
  data   : q.data.length = 32 * regs.length ∧ q.data ≠ []
  whole  : q.writes = [] ∧ q.err = none
  stands :
    (x.pend = none ∧ s.RecordsRead c 32 regs q.data ∧ q = { Pending.zero with data := q.data } ∧
      b = ((s.endWait (s.req c)).setPend c q).checked c.cell x.naming.scope) ∨
    (x.pend = some q ∧ (q.stage = 0 ∨ q.stage = 8) ∧ b = (s.setPend c q).checked c.cell x.naming.scope)

/-- A unit of an engine instruction has been done in a state `m`: the program has raised flags and stands behind the instruction if
that was the last unit, else before the next one; memory, the other cells and all else are as in `m`. -/
structure UnitDone (m t : State) (c : Ctx) (p : Nat) (flags : Flags) (last : Bool) (then_ : Pending) : Prop where
  mem   : t.mem = m.mem
  cells : ∀ k, k ≠ c.cell → t.cell k = m.cell k
  rest  : { t with cells := m.cells, progs := m.progs, waits := m.waits } = m
  other : ∀ q, q ≠ p → AL.find t.progs q = AL.find m.progs q
  prog  : ∀ y, AL.find m.progs p = some y → ∃ z, AL.find t.progs p = some z ∧
            z.cr = { y.cr with rmode := y.cr.rmode ||| flags.toWord } ∧ z.life = y.life ∧ z.w = y.w ∧
            z.pc = (if last then y.resume.getD c.site.next else y.pc) ∧ z.pend = (if last then none else some then_)

/-- One element of one row stands in SRAM at a flat address: its shape has one element, the address is aligned, in one region and
granted, and neither fenced nor poisoned. -/
structure State.ElementAt (s : State) (w : Who) (h : Shape) (need : Need) (flat : Nat) : Prop where
  loc     : h.loc = 0
  bytes   : 8 ≤ h.bits
  one     : 0 < h.ext.length ∧ ∀ n ∈ h.ext, n = 1
  aligned : h.base.toNat % (h.bits / 8) = 0
  region  : oneRegion w.segs h.base.toNat (h.bits / 8) = true
  place   : resolve w.segs w.window h.base.toNat need = .sram flat
  open_   : s.flatFenced flat = false
  clean   : s.poisoned flat (h.bits / 8) = false

/-- The one element of a shape can be read and written where it stands: in SRAM, aligned, granted, in no segment with race logging, beside no
word that a write would cover in part, and not mirrored. -/
structure State.PlainElement (s : State) (w : Who) (h : Shape) (flat : Nat) : Prop where
  read  : s.ElementAt w h .r flat
  write : s.ElementAt w h .w flat
  whole : s.narrowPoison flat (h.bits / 8) = false
  race  : s.raceOn flat = false
  alone : ∀ k, ownerCell flat = some k → s.follower k = none

/-- The exact value of a finite number. -/
def Num.toRat : Num → ℚ
  | .fin s m e => (if s then -1 else 1) * (m : ℚ) * (2 : ℚ) ^ e
  | _ => 0

/-- Is a number finite? -/
def Num.finite : Num → Prop
  | .fin _ _ _ => True
  | _ => False

/-- A step happens, and the state after it is as said. -/
def Happens (s : State) (i : Instr) (q : State → Prop) : Prop := ∃ t, exec i s = .next t ∧ q t

end Sys2Proof.Machine
end

