-- ==== Sys2Proof/Certificates/Slice0/Obligations.lean ====
section
/-! DEFINITION. The statements for the provers: what the instructions and the steps of the machine do, for every state and operand
that meets the conditions a statement names. -/

open Sys2Proof Sys2Proof.Machine

/-- The forms of scalar groups, with the registers that each names, in operand order. -/
def Claims.scalarForms (s : State) (c : Ctx) (r : Rel) (m : Attr) (f : AtomForm) (w : Width) (d a b : RegNum) (imm : BitVec 44)
    (n p l : BitVec 6) (off : BitVec 40) (o10 : BitVec 10) (o46 : BitVec 46) (k : BitVec 2) (q : BitVec 12) (code : BitVec 16)
    (lat : BitVec 4) : List (Instr × List Int) :=
  let D := s.regNo c r d
  let A := s.regNo c r a
  let B := s.regNo c r b
  let with_ := fun (regs : List Int) (is : List Instr) => is.map (fun i => (i, regs))
  with_ [D, A, B] [.add r d a b, .sub r d a b, .and r d a b, .or r d a b, .xor r d a b, .mul r d a b, .div r d a b, .divu r d a b,
    .rem r d a b, .remu r d a b] ++
  with_ [D, A] [.shl r d a, .shr r d a, .sar r d a, .rol r d a, .ror r d a, .andn r d a, .min r d a, .max r d a, .minu r d a,
    .maxu r d a, .mulh r d a, .mulhu r d a, .seq r d a, .sne r d a, .slt r d a, .sltu r d a, .mov r d a, .neg r d a, .not r d a,
    .clz r d a, .ctz r d a, .popc r d a, .bswap r d a, .jalr r d a, .bextu r d a p l, .lea r d a imm] ++
  with_ [D] [.li r d imm, .addi r d imm, .andi r d imm, .ori r d imm, .xori r d imm, .shli r d n, .shri r d n, .sari r d n,
    .slti r d imm, .sltui r d imm, .sext r d n, .zext r d n, .bext r d p l, .rdtime r d, .crd r d q, .cwr r d q, .cset r d q,
    .cclr r d q] ++
  with_ [D, D + 1] [.bins r d p l] ++
  with_ [A] [.jr r a, .tmark r a code, .movxToIndex r k a, .movxFromIndex r k a, .bz r a o46, .bnz r a o46, .bltz r a o46,
    .bgez r a o46] ++
  with_ [A, B] [.beq r a b o10, .bne r a b o10, .blt r a b o10, .bge r a b o10, .bltu r a b o10, .bgeu r a b o10] ++
  with_ [D, A] [.ldB r m d a off lat, .ldBu r m d a off lat, .ldH r m d a off lat, .ldHu r m d a off lat, .ldW r m d a off lat,
    .ldWPage1 r m d a off lat, .ldWu r m d a off lat, .ldD r m d a off lat, .ldDPage1 r m d a off lat, .lda r m d a off lat,
    .st r m w d a off, .stPage1 r m w d a off, .stl r m w d a off] ++
  (if D % 2 = 0 then with_ [D, A, D + 1] [.ldp r m d a off lat, .stp r m d a off] else []) ++
  with_ [A, B] [.aadd r m f a b lat, .aand r m f a b lat, .aor r m f a b lat, .axor r m f a b lat, .amin r m f a b lat,
    .amax r m f a b lat, .aminu r m f a b lat, .amaxu r m f a b lat, .aswap r m f a b lat, .ainc r m f a b lat, .adec r m f a b lat,
    .afadd r m f a b lat, .fmerge r m a b lat, .frd r m a b lat, .fclr r m a b lat] ++
  with_ [A, B, A + 1] [.acas r m f a b lat, .fcfg r m a b lat, .fstat r m a b lat] ++
  with_ [A, B, A + 1, A + 2] [.fins r m a b lat]

/-! ### Scalar arithmetic (spec 04) -/

/-- R82 and R99, the three-address instructions: the word of each, with the high bits of its fields from `pg` and, for the divisions,
behind the `pp` word 0xF805; and the result of Table 4-2 or of the division, from the registers as they were. A quotient is truncated
toward zero, and no case traps or sets a flag. -/
def Obligations.ThreeAddressResults : Prop :=
  (∀ (r : Rel) (d a b : RegNum) (i : Instr) (k : Nat) (pp : Bool),
    (i, k, pp) ∈ [(Instr.add r d a b, 0, false), (.sub r d a b, 1, false), (.and r d a b, 2, false), (.or r d a b, 3, false),
                  (.xor r d a b, 4, false), (.mul r d a b, 5, false), (.div r d a b, 0, true), (.divu r d a b, 1, true),
                  (.rem r d a b, 2, true), (.remu r d a b, 3, true)] →
    ∃ pg : List (BitVec 10), decodeFor .scalar
        ⟨pg.map (Half.ofPfx 1) ++ (if pp then [0xF805#16] else []),
         BitVec.ofNat 16 (k * 0x1000 + d.toNat % 16 * 0x100 + a.toNat % 16 * 0x10 + b.toNat % 16)⟩ = .ok i ∧
      (pg = [] ∨ ∃ v, pg = [v]) ∧ (pg.headD 0).extractLsb' 8 2 = d.extractLsb' 4 2 ∧
      (pg.headD 0).extractLsb' 6 2 = a.extractLsb' 4 2 ∧ (pg.headD 0).extractLsb' 4 2 = b.extractLsb' 4 2) ∧
  (∀ (s : State) (c : Ctx) (r : Rel) (d a b : RegNum), s.At c →
    s.Clear c .no [s.regNo c r d, s.regNo c r a, s.regNo c r b] →
    let D := s.regNo c r d
    let x := s.reg c (s.regNo c r a)
    let y := s.reg c (s.regNo c r b)
    Wrote s c (.add r d a b) D (x + y) ∧ Wrote s c (.sub r d a b) D (x - y) ∧ Wrote s c (.and r d a b) D (x &&& y) ∧
    Wrote s c (.or r d a b) D (x ||| y) ∧ Wrote s c (.xor r d a b) D (x ^^^ y) ∧ Wrote s c (.mul r d a b) D (x * y) ∧
    Wrote s c (.div r d a b) D (if y = 0 then BitVec.allOnes 64 else BitVec.ofInt 64 (x.toInt.tdiv y.toInt)) ∧
    Wrote s c (.divu r d a b) D (if y = 0 then BitVec.allOnes 64 else BitVec.ofNat 64 (x.toNat / y.toNat)) ∧
    Wrote s c (.rem r d a b) D (if y = 0 then x else x - y * BitVec.ofInt 64 (x.toInt.tdiv y.toInt)) ∧
    Wrote s c (.remu r d a b) D (if y = 0 then x else x - y * BitVec.ofNat 64 (x.toNat / y.toNat)))

/-- R83, the two-address group: the result of Table 4-3; a shift amount is bits [5:0] of g[a]. -/
def Obligations.TwoAddressResults : Prop :=
  ∀ (s : State) (c : Ctx) (r : Rel) (d a : RegNum), s.At c → s.Clear c .no [s.regNo c r d, s.regNo c r a] →
    let D := s.regNo c r d
    let x := s.reg c D
    let y := s.reg c (s.regNo c r a)
    let n := (y.extractLsb' 0 6).toNat
    Wrote s c (.shl r d a) D (x <<< n) ∧ Wrote s c (.shr r d a) D (x >>> n) ∧ Wrote s c (.sar r d a) D (x.sshiftRight n) ∧
    Wrote s c (.rol r d a) D (x.rotateLeft n) ∧ Wrote s c (.ror r d a) D (x.rotateRight n) ∧
    Wrote s c (.andn r d a) D (x &&& ~~~y) ∧
    Wrote s c (.min r d a) D (if x.sle y then x else y) ∧ Wrote s c (.max r d a) D (if x.sle y then y else x) ∧
    Wrote s c (.minu r d a) D (if x.ule y then x else y) ∧ Wrote s c (.maxu r d a) D (if x.ule y then y else x) ∧
    Wrote s c (.mulh r d a) D ((x.signExtend 128 * y.signExtend 128).extractLsb' 64 64) ∧
    Wrote s c (.mulhu r d a) D ((x.setWidth 128 * y.setWidth 128).extractLsb' 64 64) ∧
    Wrote s c (.seq r d a) D (if x = y then 1 else 0) ∧ Wrote s c (.sne r d a) D (if x = y then 0 else 1) ∧
    Wrote s c (.slt r d a) D (if x.slt y then 1 else 0) ∧ Wrote s c (.sltu r d a) D (if x.ult y then 1 else 0)

/-- R84, R86 and R103, the unary instructions, `bextu` and `lea`. The counts of `clz`, `ctz` and `popc` and the bytes of `bswap`
are those that `BitCountsAreRight` characterises. -/
def Claims.UnaryResults : Prop :=
  ∀ (s : State) (c : Ctx) (r : Rel) (d a : RegNum) (p l : BitVec 6) (imm : BitVec 44), s.At c →
    s.Clear c .no [s.regNo c r d, s.regNo c r a] →
    let D := s.regNo c r d
    let x := s.reg c (s.regNo c r a)
    Wrote s c (.mov r d a) D x ∧ Wrote s c (.neg r d a) D (-x) ∧ Wrote s c (.not r d a) D (~~~x) ∧
    Wrote s c (.clz r d a) D (BitVec.ofNat 64 (leadingZeros x 64)) ∧
    Wrote s c (.ctz r d a) D (BitVec.ofNat 64 (trailingZeros x 0 64)) ∧
    Wrote s c (.popc r d a) D (BitVec.ofNat 64 (popCount x 64)) ∧ Wrote s c (.bswap r d a) D (byteSwap x) ∧
    Wrote s c (.bextu r d a p l) D (((x >>> p.toNat).setWidth (l.toNat + 1)).setWidth 64) ∧
    Wrote s c (.lea r d a imm) D (x + imm.signExtend 64)

/-- R84: what `clz`, `ctz`, `popc` and `bswap` count and move, bit by bit. -/
def Claims.BitCountsAreRight : Prop :=
  ∀ x : Word,
    (leadingZeros x 64 ≤ 64 ∧ (∀ i < leadingZeros x 64, x.getLsbD (63 - i) = false) ∧
      (leadingZeros x 64 < 64 → x.getLsbD (63 - leadingZeros x 64) = true)) ∧
    (trailingZeros x 0 64 ≤ 64 ∧ (∀ i < trailingZeros x 0 64, x.getLsbD i = false) ∧
      (trailingZeros x 0 64 < 64 → x.getLsbD (trailingZeros x 0 64) = true)) ∧
    popCount x 64 = ((List.range 64).filter (fun i => x.getLsbD i)).length ∧
    (∀ k < 8, (byteSwap x).extractLsb' (8 * k) 8 = x.extractLsb' (8 * (7 - k)) 8)

/-- R85 and R86, the immediate group: the result of Table 4-5; `bext` sign-extends a field from its top bit. -/
def Claims.ImmediateResults : Prop :=
  ∀ (s : State) (c : Ctx) (r : Rel) (d : RegNum) (imm : BitVec 44) (n p l : BitVec 6), s.At c →
    s.Clear c .no [s.regNo c r d] →
    let D := s.regNo c r d
    let x := s.reg c D
    let i := imm.signExtend 64
    Wrote s c (.li r d imm) D i ∧ Wrote s c (.addi r d imm) D (x + i) ∧ Wrote s c (.andi r d imm) D (x &&& i) ∧
    Wrote s c (.ori r d imm) D (x ||| i) ∧ Wrote s c (.xori r d imm) D (x ^^^ i) ∧
    Wrote s c (.shli r d n) D (x <<< n.toNat) ∧ Wrote s c (.shri r d n) D (x >>> n.toNat) ∧
    Wrote s c (.sari r d n) D (x.sshiftRight n.toNat) ∧
    Wrote s c (.slti r d imm) D (if x.slt i then 1 else 0) ∧ Wrote s c (.sltui r d imm) D (if x.ult i then 1 else 0) ∧
    Wrote s c (.sext r d n) D ((x.setWidth (n.toNat + 1)).signExtend 64) ∧
    Wrote s c (.zext r d n) D ((x.setWidth (n.toNat + 1)).setWidth 64) ∧
    Wrote s c (.bext r d p l) D (((x >>> p.toNat).setWidth (l.toNat + 1)).signExtend 64)

/-- R86, `bins`: bits [p+L-1:p] of g[d] become the low L bits of g[d+1] and every other bit stays. -/
def Claims.BitInsert : Prop :=
  ∀ (s : State) (c : Ctx) (r : Rel) (d : RegNum) (p l : BitVec 6), bitFieldOk p l = true → s.At c →
    s.Clear c .no [s.regNo c r d, s.regNo c r d + 1] →
    ∃ v, Wrote s c (.bins r d p l) (s.regNo c r d) v ∧
      ∀ i < 64, v.getLsbD i =
        if p.toNat ≤ i ∧ i ≤ p.toNat + l.toNat then (s.reg c (s.regNo c r d + 1)).getLsbD (i - p.toNat)
        else (s.reg c (s.regNo c r d)).getLsbD i

/-! ### Index registers, transfers of control, system instructions (spec 04) -/

/-- R101 and R102: `movx` both ways and `addx`. They have their effect on a frame; on an engine they do not decode (R48). -/
def Obligations.IndexRegisters : Prop :=
  ∀ (s : State) (c : Ctx) (r : Rel) (k : BitVec 2) (a : RegNum) (imm : BitVec 44), s.At c → c.unit = .scalar →
    (s.Clear c .no [s.regNo c r a] →
      Went s c (.movxToIndex r k a) none (some (k, (s.reg c (s.regNo c r a)).setWidth 16)) none ∧
      Wrote s c (.movxFromIndex r k a) (s.regNo c r a) ((s.xreg c k).signExtend 64)) ∧
    (s.Clear c .no [] → Went s c (.addx r k imm) none (some (k, s.xreg c k + imm.setWidth 16)) none)

/-- R88 and R89: a branch goes to the group's address plus twice its offset if its condition holds, and else goes on. -/
def Claims.Branches : Prop :=
  ∀ (s : State) (c : Ctx) (r : Rel) (a b : RegNum) (o10 : BitVec 10) (o46 : BitVec 46), s.At c →
    (s.Clear c .no [s.regNo c r a, s.regNo c r b] →
      let x := s.reg c (s.regNo c r a)
      let y := s.reg c (s.regNo c r b)
      let t := c.site.pc + BitVec.ofInt 48 (2 * o10.toInt)
      let takes := fun (i : Instr) (q : Prop) => (q → s.CanGo c t → Went s c i none none (some t)) ∧
        (¬ q → Went s c i none none none)
      takes (.beq r a b o10) (x = y) ∧ takes (.bne r a b o10) (x ≠ y) ∧ takes (.blt r a b o10) (x.toInt < y.toInt) ∧
      takes (.bge r a b o10) (y.toInt ≤ x.toInt) ∧ takes (.bltu r a b o10) (x.toNat < y.toNat) ∧
      takes (.bgeu r a b o10) (y.toNat ≤ x.toNat)) ∧
    (s.Clear c .no [s.regNo c r a] →
      let x := s.reg c (s.regNo c r a)
      let t := c.site.pc + BitVec.ofInt 48 (2 * o46.toInt)
      let takes := fun (i : Instr) (q : Prop) => (q → s.CanGo c t → Went s c i none none (some t)) ∧
        (¬ q → Went s c i none none none)
      takes (.bz r a o46) (x = 0) ∧ takes (.bnz r a o46) (x ≠ 0) ∧ takes (.bltz r a o46) (x.toInt < 0) ∧
      takes (.bgez r a o46) (0 ≤ x.toInt))

/-- R90 and R92, the unconditional transfers: `br`, `jal` with its link in register 15, and the indirect jumps, whose target is
bits [47:0] of a register as it was before the link is written. -/
def Claims.Jumps : Prop :=
  ∀ (s : State) (c : Ctx) (r : Rel) (d a : RegNum) (off : BitVec 50), s.At c →
    let t := c.site.pc + BitVec.ofInt 48 (2 * off.toInt)
    let link := c.site.next.setWidth 64
    let A := s.regNo c r a
    let D := s.regNo c r d
    (s.Clear c .no [] → s.CanGo c t → Went s c (.br off) none none (some t)) ∧
    (s.Clear c .no [15] → s.CanGo c t → Went s c (.jal off) (some (15, link)) none (some t)) ∧
    (s.Clear c .no [15] → s.CanGo c ((s.reg c 15).setWidth 48) →
      Went s c .ret none none (some ((s.reg c 15).setWidth 48))) ∧
    (s.Clear c .no [A] → s.CanGo c ((s.reg c A).setWidth 48) →
      Went s c (.jr r a) none none (some ((s.reg c A).setWidth 48))) ∧
    (s.Clear c .no [D, A] → s.CanGo c ((s.reg c A).setWidth 48) →
      Went s c (.jalr r d a) (some (D, link)) none (some ((s.reg c A).setWidth 48)))

/-- R91, the counted loop: on x3 of a frame, on e14 of an engine. A count above 1 falls by one and is taken, a count of 1 falls to
0 and goes on, and a count of 0 or less is left. -/
def Obligations.CountedLoop : Prop :=
  ∀ (s : State) (c : Ctx) (off : BitVec 50), s.At c →
    let t := c.site.pc + BitVec.ofInt 48 (2 * off.toInt)
    (c.unit = .scalar → s.Clear c .no [] →
      let n := s.xreg c 3
      (1 < n.toInt → s.CanGo c t → Went s c (.lp off) none (some (3, n - 1)) (some t)) ∧
      (n.toInt = 1 → Went s c (.lp off) none (some (3, 0)) none) ∧
      (n.toInt ≤ 0 → Went s c (.lp off) none none none)) ∧
    (∀ u, c.unit = .engine u → s.Clear c .no [14] →
      let n := s.reg c 14
      (1 < n.toInt → s.CanGo c t → Went s c (.lp off) (some (14, n - 1)) none (some t)) ∧
      (n.toInt = 1 → Went s c (.lp off) (some (14, 0)) none none) ∧
      (n.toInt ≤ 0 → Went s c (.lp off) none none none))

/-- R95, `nop`: nothing changes but the PC, and it counts as one instruction in a lookahead window. -/
def Obligations.NopOnlyAdvances : Prop :=
  ∀ (s : State) (c : Ctx), s.At c → s.Clear c .no [] → Went s c .nop none none none

/-- R97, `rdtime`: the 64-bit global nanosecond count. -/
def Claims.ReadTime : Prop :=
  ∀ (s : State) (c : Ctx) (r : Rel) (d : RegNum), s.At c → s.Clear c .no [s.regNo c r d] →
    Wrote s c (.rdtime r d) (s.regNo c r d) (BitVec.ofNat 64 s.ns)

/-- R98, `tmark`: a mark record with the code and bits [31:0] of g[a] is offered to the cluster's trace core, and nothing else. -/
def Claims.TraceMark : Prop :=
  ∀ (s : State) (c : Ctx) (r : Rel) (a : RegNum) (code : BitVec 16), s.At c → c.unit = .scalar →
    c.cell < 4096 → c.slot < 16 → s.Clear c .no [s.regNo c r a] →
    Happens s (.tmark r a code) fun t =>
      ∃ rec, (t.trace (clusterOf c.cell)).offered = (s.trace (clusterOf c.cell)).offered ++ [(c.cell, rec)] ∧
        bits rec.w1 31 28 = 3 ∧ bits rec.w1 19 8 = c.cell ∧ bits rec.w1 23 20 = c.slot ∧ bits rec.w2 63 48 = code.toNat ∧
        rec.w0 = BitVec.ofNat 64 s.ns ∧ bits rec.w3 31 0 = (s.reg c (s.regNo c r a)).toNat % 2 ^ 32 ∧
      (∀ j, j ≠ clusterOf c.cell → t.trace j = s.trace j) ∧
      { t.trace (clusterOf c.cell) with offered := (s.trace (clusterOf c.cell)).offered } = s.trace (clusterOf c.cell) ∧
      Completed { s with traces := t.traces } t c ∧ KeepsRegs s t c [] ∧ t.pcAt c = s.pcNext c none

/-- R93, `done`: the activation issues nothing more and its frame stays until it retires; registers, memory and all else stay. -/
def Claims.DoneEndsIssue : Prop :=
  ∀ (s : State) (c : Ctx), s.At c → c.unit = .scalar → s.Clear c .both [] →
    Happens s .done fun t =>
      { t with cells := s.cells } = s ∧ (t.fr c).life = .done ∧ KeepsRegs s t c [] ∧
      { t.fr c with
          life := (s.fr c).life, pc := (s.fr c).pc, resume := (s.fr c).resume, pend := (s.fr c).pend, mark := (s.fr c).mark,
          held := (s.fr c).held, groups := (s.fr c).groups } = s.fr c ∧
      (∀ k, k ≠ c.slot → t.frame c.cell k = s.frame c.cell k) ∧ (∀ k, k ≠ c.cell → t.cell k = s.cell k) ∧
      { t.cell c.cell with frames := (s.cell c.cell).frames, pairs := (s.cell c.cell).pairs } = s.cell c.cell ∧
      (s.checkedC c = false → (t.cell c.cell).pairs = (s.cell c.cell).pairs)

/-- R94, `trap` and `brk`: SOFTWARE and BREAK are raised with the code in ADDR_IDX and NEXT the address after the base word. -/
def Claims.SoftwareTraps : Prop :=
  ∀ (s : State) (c : Ctx) (code : BitVec 8), s.At c → s.Clear c .no [] →
    Happens s (.trap code) (fun t => Raised s t c 0x0B (code.setWidth 64) c.site.next) ∧
    Happens s (.brk code) (fun t => Raised s t c 0x0C (code.setWidth 64) c.site.next)

/-- R96, `ifence`: once the group's stores are performed, the cell's instruction cache is emptied. -/
def Claims.InstructionFence : Prop :=
  ∀ (s : State) (c : Ctx), s.At c → s.Clear c (s.gateForce c) [] → s.storesDone c = true →
    Happens s .ifence fun t => (t.cell c.cell).icache = [] ∧ t.mem = s.mem ∧ KeepsRegs s t c [] ∧
      Completed (s.flushCode c.cell) t c ∧ t.pcAt c = s.pcNext c none

/-- Check 6 of R49 with R37: an instruction of the scalar groups, of those that read or write registers, memory or control registers,
whose first register in operand order that the unit does not have is `n` raises FRAME_BOUND with `n` in ADDR_IDX, and writes nothing. That
ADDR_IDX holds the first of several is the model's choice (log 56). -/
def Claims.FrameBound : Prop :=
  ∀ (s : State) (c : Ctx) (r : Rel) (m : Attr) (f : AtomForm) (w : Width) (d a b : RegNum) (imm : BitVec 44) (k6 p l : BitVec 6)
    (off : BitVec 40) (o10 : BitVec 10) (o46 : BitVec 46) (k : BitVec 2) (q : BitVec 12) (code : BitVec 16) (lat : BitVec 4)
    (i : Instr) (regs pre post : List Int) (n : Int),
    s.At c → (c.unit = .scalar → windowClosed (s.fr c).outst = false) →
    (i, regs) ∈ Claims.scalarForms s c r m f w d a b imm k6 p l off o10 o46 k q code lat →
    regs = pre ++ n :: post → (∀ j ∈ pre, 0 ≤ j ∧ j < (s.regLimit c : Int)) → (n < 0 ∨ (s.regLimit c : Int) ≤ n) →
    Happens s i (fun t => Raised s t c 0x05 (BitVec.ofInt 64 n) c.site.next)

/-- Check 7 of R49 with R50, for the same forms: naming a register that an outstanding instruction has yet to write raises LOOKAHEAD
with its number, the first in operand order of those that qualify (log 56); an instruction waits while a window is used up. -/
def Claims.LookaheadRules : Prop :=
  ∀ (s : State) (c : Ctx) (r : Rel) (m : Attr) (f : AtomForm) (w : Width) (d a b : RegNum) (imm : BitVec 44) (k6 p l : BitVec 6)
    (off : BitVec 40) (o10 : BitVec 10) (o46 : BitVec 46) (k : BitVec 2) (q : BitVec 12) (code : BitVec 16) (lat : BitVec 4)
    (i : Instr) (regs : List Int), s.At c → c.unit = .scalar →
    (i, regs) ∈ Claims.scalarForms s c r m f w d a b imm k6 p l off o10 o46 k q code lat →
    (windowClosed (s.fr c).outst = true → exec i s = .next s) ∧
    (∀ pre n post, windowClosed (s.fr c).outst = false → (∀ j ∈ regs, 0 ≤ j ∧ j < ((s.fr c).size : Int)) →
      regs = pre ++ n :: post → (∀ j ∈ pre, ∀ o ∈ (s.fr c).outst, j.toNat ∉ o.dests) →
      (∃ o ∈ (s.fr c).outst, n.toNat ∈ o.dests) →
      Happens s i (fun t => Raised s t c 0x06 (BitVec.ofInt 64 n) c.site.next))

/-! ### Control registers (spec 04) -/

/-- R104 to R111, `crd`: the value of each control register; DISAGREE of PAIR_CTL and LOST of RACE_CTL are cleared by the read. -/
def Claims.ControlRegisterReads : Prop :=
  ∀ (s : State) (c : Ctx) (r : Rel) (d : RegNum), s.At c → c.unit = .scalar → s.Clear c .no [s.regNo c r d] →
    let D := s.regNo c r d
    let f := s.fr c
    let a := s.actC c
    let x := s.cell c.cell
    let w := fun (n : Nat) => BitVec.ofNat 64 n
    Wrote s c (.crd r d 0x000) D (w (s.devNum.toNat * 2 ^ 12 + c.cell)) ∧ Wrote s c (.crd r d 0x001) D (w f.size) ∧
    Wrote s c (.crd r d 0x002) D (w (a.naming.colour.toNat * 2 ^ 8 + a.naming.tenant.toNat)) ∧
    Wrote s c (.crd r d 0x003) D (w x.field) ∧ Wrote s c (.crd r d 0x004) D f.cr.rmode ∧
    Wrote s c (.crd r d 0x005) D (w f.cr.nbv.toNat) ∧ Wrote s c (.crd r d 0x006) D (w f.cr.fmtA.toNat) ∧
    Wrote s c (.crd r d 0x007) D (w f.cr.fmtB.toNat) ∧ Wrote s c (.crd r d 0x008) D (w f.cr.sclA.toNat) ∧
    Wrote s c (.crd r d 0x009) D (w f.cr.sclB.toNat) ∧ Wrote s c (.crd r d 0x00A) D (w f.cr.result.toNat) ∧
    Wrote s c (.crd r d 0x00B) D (w a.xferId.toNat) ∧ Wrote s c (.crd r d 0x00C) D (w a.cntO) ∧
    Wrote s c (.crd r d 0x00D) D (w a.cntA) ∧ Wrote s c (.crd r d 0x00E) D (w a.cntV) ∧
    Wrote s c (.crd r d 0x00F) D (w a.cntE) ∧
    (∃ v, Wrote s c (.crd r d 0x010) D v ∧ ∀ k < 64, v.getLsbD k = (decide (k < 16) && (AL.get TagEntry.reset x.tags k).en)) ∧
    (∃ v, Wrote s c (.crd r d 0x011) D v ∧ ∀ k < 64, v.getLsbD k = (decide (k < 16) && x.pend k)) ∧
    Happens s (.crd r d 0x012) (fun t => t.reg c D =
        w (x.disagree.toNat * 2 ^ 32 + x.interval.toNat * 2 ^ 16 + (if x.leader then 2 else 0) + (if x.paired then 1 else 0)) ∧
      (t.cell c.cell).disagree = 0 ∧ KeepsRegs s t c [D] ∧
      Completed (s.modCell c.cell (fun y => { y with disagree := 0 })) t c) ∧
    Happens s (.crd r d 0x013) (fun t => t.reg c D =
        w (x.raceLost.toNat * 2 ^ 32 + (if s.raceActive c.cell then 1 else 0)) ∧
      (t.cell c.cell).raceLost = 0 ∧ KeepsRegs s t c [D] ∧
      Completed (s.modCell c.cell (fun y => { y with raceLost := 0 })) t c)

/-- R104 with R65 and R78, `cwr`, `cset` and `cclr`: each read-write field takes g[d], its OR or its AND NOT; NBV of 0 or 3 and
MODE of 5 to 7 leave their field; `cwr RMODE` also clears the flags written as 1; a register without such a field is left. -/
def Claims.ControlRegisterWrites : Prop :=
  ∀ (s : State) (c : Ctx) (r : Rel) (d : RegNum) (n : BitVec 12) (i : Instr) (q : Word → Word → Word),
    s.At c → c.unit = .scalar → s.Clear c .both [s.regNo c r d] →
    (i = .cwr r d n ∧ q = (fun _ v => v)) ∨ (i = .cset r d n ∧ q = (fun x v => x ||| v)) ∨
      (i = .cclr r d n ∧ q = (fun x v => x &&& ~~~v)) →
    let v := s.reg c (s.regNo c r d)
    let old := (s.fr c).cr
    (n ≠ 0x010 → Happens s i fun t =>
      KeepsRegs s t c [] ∧ (t.fr c).x = (s.fr c).x ∧ Completed s t c ∧ t.pcAt c = s.pcNext c none ∧
      let new := (t.fr c).cr
      let nb := (q (old.nbv.setWidth 64) v).extractLsb' 0 2
      new.nbv = (if n = 0x005 ∧ nb ≠ 0 ∧ nb ≠ 3 then nb else old.nbv) ∧
      new.fmtA = (if n = 0x006 then (q (old.fmtA.setWidth 64) v).extractLsb' 0 9 else old.fmtA) ∧
      new.fmtB = (if n = 0x007 then (q (old.fmtB.setWidth 64) v).extractLsb' 0 9 else old.fmtB) ∧
      new.sclA = (if n = 0x008 then (q (old.sclA.setWidth 64) v).extractLsb' 0 13 else old.sclA) ∧
      new.sclB = (if n = 0x009 then (q (old.sclB.setWidth 64) v).extractLsb' 0 13 else old.sclB) ∧
      new.result = (if n = 0x00A then (q (old.result.setWidth 64) v).extractLsb' 0 4 else old.result) ∧
      (n ≠ 0x004 → new.rmode = old.rmode) ∧
      (n = 0x004 →
        let m := q old.rmode v
        new.rmode.extractLsb' 0 3 = (if (m.extractLsb' 0 3).toNat ≤ 4 then m.extractLsb' 0 3 else old.rmode.extractLsb' 0 3) ∧
        new.rmode.extractLsb' 3 2 = m.extractLsb' 3 2 ∧ new.rmode.extractLsb' 48 16 = m.extractLsb' 48 16 ∧
        new.rmode.extractLsb' 8 6 =
          (if i = .cwr r d n then old.rmode.extractLsb' 8 6 &&& ~~~(v.extractLsb' 8 6) else old.rmode.extractLsb' 8 6) ∧
        new.rmode.extractLsb' 5 3 = 0 ∧ new.rmode.extractLsb' 14 34 = 0)) ∧
    (n = 0x010 → Happens s i fun t =>
      KeepsRegs s t c [] ∧ (t.fr c).x = (s.fr c).x ∧ (t.fr c).cr = old ∧ t.pcAt c = s.pcNext c none ∧
      Completed (s.modCell c.cell (fun y => { y with tags := (t.cell c.cell).tags })) t c ∧
      ∀ k < 16,
        let e := AL.get TagEntry.reset (s.cell c.cell).tags k
        AL.get TagEntry.reset (t.cell c.cell).tags k = { e with en := (q ((s.cell c.cell).tagEnable) v).getLsbD k })

/-! ### Memory, atomic and front instructions (spec 10): what each does at its issue -/

/-- R211 and R87, the loads of one register: the access of the width goes in flight, and the frame holds an outstanding instruction
with its destination and window. No register changes yet, and no byte of memory. A load that overlaps stores of the buffer, the youngest of
which does not cover it, waits (R189). -/
def Claims.LoadsIssue : Prop :=
  ∀ (s : State) (c : Ctx) (r : Rel) (m : Attr) (d n : RegNum) (off : BitVec 40) (l : BitVec 4) (i : Instr) (k : Nat) (sg : Bool),
    (i, k, sg) ∈ [(Instr.ldB r m d n off l, 1, true), (.ldBu r m d n off l, 1, false), (.ldH r m d n off l, 2, true),
                  (.ldHu r m d n off l, 2, false), (.ldW r m d n off l, 4, true), (.ldWPage1 r m d n off l, 4, true),
                  (.ldWu r m d n off l, 4, false), (.ldD r m d n off l, 8, true), (.ldDPage1 r m d n off l, 8, true)] →
    s.At c → c.unit = .scalar →
    s.Clear c (if m.wait = .none then .no else s.gateForce c) [s.regNo c r d, s.regNo c r n] →
    let ea := (s.reg c (s.regNo c r n) + off.signExtend 64).setWidth 48
    s.MayAccess c m.wait ea k k → (s.fr c).outst.length < 4 →
    let T := s.resolveC c ea .r
    s.gatedClash c T T k = false →
    (s.partlyBuffered c T T k = true → exec i s = .next (s.marked c)) ∧
    (s.partlyBuffered c T T k = false → Happens s i fun t => Sent s t c ∧ InFlight s t c m.cls (.load k) ea .r ∧
      (t.fr c).outst = s.shrunk c ++ [⟨s.nextId, [(s.regNo c r d).toNat], l.toNat, .int k sg, m.cls, true, c.site⟩])

/-- R214 and R216, `lda` and `ldp`: a doubleword load that the later accesses of the frame wait for, and a load of two doublewords
into an even register and the next. -/
def Claims.AcquireAndPairLoads : Prop :=
  ∀ (s : State) (c : Ctx) (r : Rel) (m : Attr) (d n : RegNum) (off : BitVec 40) (l : BitVec 4), s.At c → c.unit = .scalar →
    let D := s.regNo c r d
    let N := s.regNo c r n
    let ea := (s.reg c N + off.signExtend 64).setWidth 48
    (s.fr c).outst.length < 4 →
    (s.Clear c .both [D, N] → s.MayAccess c m.wait ea 8 8 →
      s.gatedClash c (s.resolveC c ea .r) (s.resolveC c ea .r) 8 = false →
      s.partlyBuffered c (s.resolveC c ea .r) (s.resolveC c ea .r) 8 = false →
      Happens s (.lda r m d n off l) fun t => Sent s t c ∧ InFlight s t c m.cls (.load 8) ea .r ∧
        (t.fr c).outst = s.shrunk c ++ [⟨s.nextId, [D.toNat], l.toNat, .int 8 true, m.cls, true, c.site⟩] ∧
        s.nextId ∈ (t.fr c).acq ∧ ∀ o ∈ (s.fr c).outst, o.plain = true → o.flight ∈ (t.fr c).acq) ∧
    (D % 2 = 0 → s.Clear c (if m.wait = .none then .no else s.gateForce c) [D, N, D + 1] → s.MayAccess c m.wait ea 8 16 →
      s.gatedClash c (s.resolveC c ea .r) (s.resolveC c (ea + 8) .r) 16 = false →
      s.partlyBuffered c (s.resolveC c ea .r) (s.resolveC c (ea + 8) .r) 16 = false →
      Happens s (.ldp r m d n off l) fun t => Sent s t c ∧ InFlight s t c m.cls (.load 16) ea .r ∧
        (t.fr c).outst = s.shrunk c ++ [⟨s.nextId, [D.toNat, (D + 1).toNat], l.toNat, .pair, m.cls, true, c.site⟩])

/-- R213, R215 and R216, the stores: one entry with the low bytes of the register, little-endian, enters the buffer; `stl` first
waits for its release. No register changes, and no byte of memory until the entry is performed. `PageKnown` holds of every address but
one in far memory whose page is found non-resident at issue (R193). -/
def Claims.StoresEnterTheBuffer : Prop :=
  ∀ (s : State) (c : Ctx) (r : Rel) (m : Attr) (w : Width) (v n : RegNum) (off : BitVec 40), s.At c → c.unit = .scalar →
    let V := s.regNo c r v
    let N := s.regNo c r n
    let ea := (s.reg c N + off.signExtend 64).setWidth 48
    let k := match w with | .b => 1 | .h => 2 | .w => 4 | .d => 8
    let e := SbKind.store ea (s.resolveC c ea .w) (s.resolveC c ea .w) (leBytes k (s.reg c V).toNat)
    s.bufferFull c = false → s.PageKnown c (s.resolveC c ea .w) →
    (s.MayAccess c m.wait ea k k → s.countFull c m.cls e = false →
      (s.Clear c (if m.wait = .none then .no else s.gateForce c) [V, N] →
        Happens s (.st r m w v n off) (fun t => Sent s t c ∧ Entered s t c m.cls m.hint e ∧ (t.fr c).outst = s.shrunk c) ∧
        Happens s (.stPage1 r m w v n off)
          (fun t => Sent s t c ∧ Entered s t c m.cls m.hint e ∧ (t.fr c).outst = s.shrunk c)) ∧
      (s.Clear c .both [V, N] → (s.marked c).released c ⟨true, true, true, false⟩ m.scope = true →
        Happens s (.stl r m w v n off)
          (fun t => Sent s t c ∧ Entered s t c m.cls m.hint e ∧ (t.fr c).outst = s.shrunk c))) ∧
    (let e2 := SbKind.store ea (s.resolveC c ea .w) (s.resolveC c (ea + 8) .w)
        (leBytes 8 (s.reg c V).toNat ++ leBytes 8 (s.reg c (V + 1)).toNat);
      V % 2 = 0 → s.Clear c (if m.wait = .none then .no else s.gateForce c) [V, N, V + 1] → s.MayAccess c m.wait ea 8 16 →
      s.countFull c m.cls e2 = false →
      Happens s (.stp r m v n off) (fun t => Sent s t c ∧ Entered s t c m.cls m.hint e2 ∧ (t.fr c).outst = s.shrunk c))

/-- R216, the odd pair; R210 and R211, checks 8 and 9: a misaligned address raises ALIGN, a pair over two regions STRADDLE, which is
logged, with the address in ADDR_IDX; an odd first register of a pair raises FRAME_BOUND. -/
def Claims.BadAddressesTrap : Prop :=
  ∀ (s : State) (c : Ctx) (r : Rel) (m : Attr) (d n : RegNum) (off : BitVec 40) (l : BitVec 4), s.At c → c.unit = .scalar →
    m.wait = .none → s.acqBlocked c = false → (s.fr c).outst.length < 4 →
    let D := s.regNo c r d
    let N := s.regNo c r n
    let ea := (s.reg c N + off.signExtend 64).setWidth 48
    (s.Clear c .no [D, N] → ea.toNat % 8 ≠ 0 →
      Happens s (.ldD r m d n off l) (fun t => Raised s t c 0x08 (ea.setWidth 64) c.site.next) ∧
      (s.bufferFull c = false →
        Happens s (.st r m .d d n off) (fun t => Raised s t c 0x08 (ea.setWidth 64) c.site.next))) ∧
    (s.Clear c .no [D, N, D + 1] → D % 2 = 0 → ea.toNat % 8 = 0 → oneRegion (s.segsOf c.cell) ea.toNat 16 = false →
      Happens s (.ldp r m d n off l) (fun t => Raised (s.logIssue c ea 4 m.cls 0 16) t c 0x09 (ea.setWidth 64) c.site.next) ∧
      (s.bufferFull c = false →
        Happens s (.stp r m d n off)
          (fun t => Raised (s.logIssue c ea 4 m.cls 1 16) t c 0x09 (ea.setWidth 64) c.site.next))) ∧
    (s.Clear c .no [] → (∀ q ∈ [D, N, D + 1], 0 ≤ q ∧ q < (s.regLimit c : Int)) → D % 2 ≠ 0 →
      Happens s (.ldp r m d n off l) (fun t => Raised s t c 0x05 (BitVec.ofInt 64 D) c.site.next) ∧
      Happens s (.stp r m d n off) (fun t => Raised s t c 0x05 (BitVec.ofInt 64 D) c.site.next))

/-- R217, `pf`: the frame goes on, whatever the address; no register and no byte of memory changes. Its register alone is checked
(check 6). -/
def Claims.PrefetchOnlyTranslates : Prop :=
  ∀ (s : State) (c : Ctx) (r : Rel) (m : Attr) (n : RegNum) (off : BitVec 40), s.At c → c.unit = .scalar → s.Clear c .no [] →
    (0 ≤ s.regNo c r n ∧ s.regNo c r n < (s.regLimit c : Int) →
      Happens s (.pf r m n off) fun t => { t with
          cells := s.cells, waits := s.waits, agents := s.agents, faults := s.faults, nextId := s.nextId } = s ∧
        KeepsRegs s t c [] ∧ (t.fr c).outst = s.shrunk c ∧ t.pcAt c = s.pcNext c none) ∧
    (¬ (0 ≤ s.regNo c r n ∧ s.regNo c r n < (s.regLimit c : Int)) →
      Happens s (.pf r m n off) (fun t => Raised s t c 0x05 (BitVec.ofInt 64 (s.regNo c r n)) c.site.next))

/-- R218 with R196, the fences: a release goes on when the conditions of Table 9-8 hold, and waits until then; an acquire makes later
accesses of the frame wait for the outstanding loads of its classes, and for its copies where E is in the mask. -/
def Obligations.FencesOrder : Prop :=
  ∀ (s : State) (c : Ctx) (m : FenceMask) (sc : SyncScope), s.At c → c.unit = .scalar → s.Clear c (fenceForce s c m) [] →
    let held := fun (t : State) => ∀ o ∈ (s.fr c).outst, o.plain = true → maskHas m o.cls = true → o.flight ∈ (t.fr c).acq
    ((s.marked c).released c m sc = true →
      Happens s (.fence m sc) (fun t => Sent s t c ∧ t.flights = s.flights ∧ held t ∧ (t.fr c).outst = s.shrunk c ∧
        (m.e = true → (s.actC c).cntE ≠ 0 → (t.fr c).acqE = true)) ∧
      Happens s (.fenceRel m sc) (fun t => Sent s t c ∧ t.flights = s.flights ∧ (t.fr c).acq = (s.fr c).acq ∧
        (t.fr c).outst = s.shrunk c)) ∧
    ((s.marked c).released c m sc = false →
      Happens s (.fence m sc) (fun t => t = s.marked c) ∧ Happens s (.fenceRel m sc) (fun t => t = s.marked c)) ∧
    (s.Clear c .no [] → Happens s (.fenceAcq m sc) (fun t => Sent s t c ∧ t.flights = s.flights ∧ held t ∧
      (t.fr c).outst = s.shrunk c ∧ (m.e = true → (s.actC c).cntE ≠ 0 → (t.fr c).acqE = true)))

/-- R221 to R224, the atomics: a posted one enters the store buffer with its operands of the width; a returning one goes in flight
and the frame holds it outstanding with g[a] as its destination. -/
def Claims.AtomicsIssue : Prop :=
  ∀ (s : State) (c : Ctx) (r : Rel) (m : Attr) (f : AtomForm) (a b : RegNum) (l : BitVec 4) (i : Instr) (op : AtomOp),
    (i, op) ∈ [(Instr.aadd r m f a b l, AtomOp.add), (.aand r m f a b l, .and), (.aor r m f a b l, .or),
               (.axor r m f a b l, .xor), (.amin r m f a b l, .min), (.amax r m f a b l, .max), (.aminu r m f a b l, .minu),
               (.amaxu r m f a b l, .maxu), (.aswap r m f a b l, .swap), (.acas r m f a b l, .cas), (.ainc r m f a b l, .inc),
               (.adec r m f a b l, .dec), (.afadd r m f a b l, .fadd)] →
    s.At c → c.unit = .scalar →
    let A := s.regNo c r a
    let B := s.regNo c r b
    let ea := (s.reg c B).setWidth 48
    let n := if f.word then 4 else 8
    let narrow := fun (x : Word) => if f.word then (x.setWidth 32).setWidth 64 else x
    let new := if op = .cas then narrow (s.reg c (A + 1)) else 0
    let regs := [A, B] ++ (if op = .cas then [A + 1] else [])
    let signed := op ∉ [.minu, .maxu, .inc, .dec, .fadd]
    s.MayAccess c m.wait ea n n →
    (f.posted = true → s.Clear c (if m.wait = .none then .no else s.gateForce c) regs → s.bufferFull c = false →
      let e := SbKind.atomic ea (s.resolveC c ea .atom) op f.word (narrow (s.reg c A)) new
      s.countFull c m.cls e = false → s.PageKnown c (s.resolveC c ea .atom) →
      Happens s i (fun t => Sent s t c ∧ Entered s t c m.cls m.hint e ∧ (t.fr c).outst = s.shrunk c)) ∧
    (f.posted = false → s.Clear c .both regs → (s.fr c).outst.length < 4 →
      Happens s i fun t => Sent s t c ∧ InFlight s t c m.cls (.atomic op f.word (narrow (s.reg c A)) new) ea .atom ∧
        (t.fr c).outst = s.shrunk c ++ [⟨s.nextId, [A.toNat], l.toNat, .int n signed, m.cls, true, c.site⟩])

/-- R234 to R242, the front instructions: the operation goes in flight to the object's atomic engine with the operands of
Table 10-14, and the frame holds it outstanding with g[a], and g[a+1] for `fstat`, as destinations. -/
def Claims.FrontsIssue : Prop :=
  ∀ (s : State) (c : Ctx) (r : Rel) (m : Attr) (a b : RegNum) (l : BitVec 4) (i : Instr) (op : FrontOp),
    (i, op) ∈ [(Instr.fcfg r m a b l, FrontOp.cfg), (.fins r m a b l, .ins), (.fmerge r m a b l, .merge), (.frd r m a b l, .rd),
               (.fclr r m a b l, .clr), (.fstat r m a b l, .stat)] →
    s.At c → c.unit = .scalar →
    let A := s.regNo c r a
    let B := s.regNo c r b
    let ea := (s.reg c B).setWidth 48
    let more := match op with | .cfg => [A + 1] | .ins => [A + 1, A + 2] | .stat => [A + 1] | _ => []
    let dests := if op = .stat then [A.toNat, (A + 1).toNat] else [A.toNat]
    let o := MemOp.front op (s.reg c A) (if op = .cfg ∨ op = .ins then s.reg c (A + 1) else 0)
      (if op = .ins then s.reg c (A + 2) else 0) (m.hint == 1)
    s.Clear c .both ([A, B] ++ more) → s.MayAccess c m.wait ea 64 64 → (s.fr c).outst.length < 4 →
    (op = .rd → (s.reg c A).toNat % 32 = 0) →
    Happens s i fun t => Sent s t c ∧ InFlight s t c m.cls o ea .atom ∧
      (t.fr c).outst = s.shrunk c ++ [⟨s.nextId, dests, l.toNat, .regs, m.cls, false, c.site⟩]

/-! ### Steps of the memory system (spec 09, 10) -/

/-- R188, STORE_BUFFER_SEND: the first unsent entry of a cell becomes an access in flight; one of class O on the die stays in the
buffer as sent, any other leaves it. No byte of memory changes. Entries leave in order, so those behind the first unsent one are unsent
(R187). -/
def Claims.StoreBufferSends : Prop :=
  ∀ (s : State) (c : Nat) (e : SbEntry) (rest : List SbEntry) (va : Addr) (tg tg2 : Target) (bs : List Byte),
    (s.cell c).sb = e :: rest → e.sent = false → e.flight = 0 → (∀ o ∈ rest, o.sent = false) → e.kind = .store va tg tg2 bs →
    Happens s (.storeBufferSend c) fun t =>
      (t.cell c).sb = (if e.ordered c then { e with sent := true, flight := s.nextId } :: rest else rest) ∧
      (∃ f, AL.find t.flights s.nextId = some f ∧ f.issuer = .act e.act ∧ f.op = .store bs ∧ f.va = va ∧ f.target = tg ∧
        f.second = tg2 ∧ f.cls = e.cls ∧ f.posted = true ∧ f.site = e.site) ∧
      { t with
          cells := s.cells, flights := s.flights, packets := s.packets, hubPaths := s.hubPaths, nextId := s.nextId } = s ∧
      ∀ k, k ≠ c → t.cell k = s.cell k

/-- R182, R183 and R189, ACCESS_PERFORMED: a store on the die writes exactly its bytes; a load takes the bytes that stand there, and
changes none. A line that an engine holds hot is then its most recently used (R204), and nothing else of the engines changes. -/
def Claims.AccessesArePerformed : Prop :=
  ∀ (s : State) (x : Nat) (f : Flight) (a : Nat), AL.find s.flights x = some f → f.stage = .going → f.target = .sram a →
    f.second = .sram a → s.behind x f = false → s.heldByFront f = false → s.flatFenced a = false →
    let engines := fun (t : State) => (s.cold (a / 64) = true → t.atomics = s.atomics) ∧
      ∀ k, t.atomicEngine k = { s.atomicEngine k with
        hot := if a / 64 ∈ (s.atomicEngine k).hot then useLru (s.atomicEngine k).hot (a / 64) 64 else (s.atomicEngine k).hot }
    (∀ bs, f.op = .store bs → bs.length ≤ 8 → s.narrowPoison a bs.length = false → s.raceOn a = false →
      (∀ c, ownerCell a = some c → s.follower c = none) →
      Happens s (.accessPerformed x) fun t =>
        (∀ j, t.mem.get j = if a ≤ j ∧ j < a + bs.length then (bs[j - a]?).getD 0 else s.mem.get j) ∧
        t.flights = AL.put s.flights x { f with stage := .answered (.data []) } ∧ engines t ∧
        { t with mem := s.mem, poison := s.poison, flights := s.flights, atomics := s.atomics } = s) ∧
    (∀ n, f.op = .load n → n ≤ 8 → s.poisoned a n = false →
      forward (s.olderEntries f.cell (s.flightChecked f) f.order) (accessPieces f.target f.second n) = .none →
      Happens s (.accessPerformed x) fun t =>
        t.flights = AL.put s.flights x { f with stage := .answered (.data (s.mem.bytes a n)) } ∧ engines t ∧
        { t with flights := s.flights, atomics := s.atomics } = s)

/-- R189: a load takes its bytes from the youngest older entry that covers them, before memory is asked. -/
def Claims.LoadsForward : Prop :=
  ∀ (s : State) (x : Nat) (f : Flight) (n : Nat) (bs : List Byte), AL.find s.flights x = some f → f.stage = .going →
    f.op = .load n → f.outside = false → s.behind x f = false → s.translated f = true → s.heldByFront f = false →
    forward (s.olderEntries f.cell (s.flightChecked f) f.order) (accessPieces f.target f.second n) = .data bs →
    Happens s (.accessPerformed x) fun t =>
      t.flights = AL.put s.flights x { f with stage := .answered (.data bs) } ∧ { t with flights := s.flights } = s

/-- R187 and R192, STORE_ACK: a performed store of an activation leaves flight, and the buffer with all at its head that awaits nothing
more, and its count falls by one. A refused one of a running frame also raises ACCESS at its own site (R181). -/
def Claims.StoresAreAcknowledged : Prop :=
  ∀ (s : State) (x : Nat) (f : Flight) (a : Nat) (act : Act), AL.find s.flights x = some f → f.posted = true →
    f.issuer = .act a → AL.find s.acts a = some act → s.notFirst x f = false →
    let counted := fun (t : State) => AL.find t.flights x = none ∧
      (t.cell f.cell).sb = leaveInOrder ((s.cell f.cell).sb.filter (fun e => !(e.sent && e.flight == x))) ∧ t.mem = s.mem ∧
      AL.find t.acts a = some (if countedStore f.cell f.cls f.target then act.setCount f.cls (act.count f.cls - 1) else act)
    (∀ bs, f.stage = .answered (.data bs) → Happens s (.storeAck x) fun t => counted t ∧
      { t with flights := s.flights, cells := s.cells, acts := s.acts } = s) ∧
    (∀ e sl, f.stage = .answered (.err e) → act.slot = some sl → act.cell = f.cell → (s.frame f.cell sl).life ≠ .frozen →
      (s.frame f.cell sl).trap = none → (s.frame f.cell sl).pend = none →
      Happens s (.storeAck x) fun t => counted t ∧ (t.frame f.cell sl).life = .frozen ∧
        ∃ tr, (t.frame f.cell sl).trap = some tr ∧ tr.cause = 0x0A ∧ tr.site = f.site ∧ tr.addrIdx = e.va.setWidth 64 ∧
          tr.next = (s.frame f.cell sl).pc ∧ tr.stage = .raised)

/-- R202, R203 and R222, ATOMIC_ENGINE_OP: the one operation that has arrived at an engine reads the old value, leaves the new one in
memory (`AtomicResults` says which), and touches no other byte. A cell has its answer in flight; a unit of the hub die that waits for it has
it at once. The line is hot from then on, unless the hint keeps it out; only where that takes the place of another line is anything checked.
That memory holds the values of a hot line already is the model's reading (log 40). -/
def Claims.AtomicsArePerformed : Prop :=
  ∀ (s : State) (k x : Nat) (f : Flight) (a : Nat) (op : AtomOp) (w : Bool) (opnd new : Word), s.engineReady k = [(x, f)] →
    AL.find s.flights x = some f → f.op = .atomic op w opnd new → f.target = .sram a → s.flatFenced a = false →
    s.poisoned a (if w then 4 else 8) = false → (∀ c, ownerCell a = some c → s.follower c = none) →
    let n := if w then 4 else 8
    let old := BitVec.ofNat 64 (leNat (s.mem.bytes a n))
    let hot := (s.atomicEngine k).hot
    Happens s (.atomicEngineOp k) fun t =>
      (∀ j, t.mem.get j =
        if a ≤ j ∧ j < a + n then ((leBytes n (op.apply w old opnd new).toNat)[j - a]?).getD 0 else s.mem.get j) ∧
      ((∀ q, f.issuer ≠ .line q) → t.waits = s.waits ∧
        t.flights = AL.put s.flights x { f with stage := .answered (.data (leBytes n old.toNat)) }) ∧
      (∀ q, f.issuer = .line q → AL.find t.flights x = none ∧ t.waitOf q = .none ∧
        AL.find (t.linesOf q) (engineKey f.va.toNat) = some (leBytes n old.toNat)) ∧
      (t.atomicEngine k).hot = (if f.hint = 1 ∧ a / 64 ∉ hot then hot else useLru hot (a / 64) 64) ∧
      (t.atomicEngine k).fronts = (s.atomicEngine k).fronts ∧ (∀ j, j ≠ k → t.atomicEngine j = s.atomicEngine j) ∧
      ((a / 64 ∈ hot ∧ hot.length ≤ 64) ∨ (a / 64 ∉ hot ∧ (f.hint = 1 ∨ hot.length < 64)) → t.errLogs = s.errLogs ∧ t.upsets = s.upsets) ∧
      { t with
          mem := s.mem, poison := s.poison, flights := s.flights, atomics := s.atomics, waits := s.waits, errLogs := s.errLogs,
          upsets := s.upsets } = s

/-- R222 and R223: the new value of memory that each atomic makes, on values of its width (Table 10-7), and what the sum of two FP32 words
is: the canonical NaN for a NaN or an invalid sum, an infinity for an infinity or beyond the range, +0 for +0 and −0, and else the value of
the format that is nearest to the exact sum, the even one of two. -/
def Claims.AtomicResults : Prop :=
  (∀ (w : Bool) (m p q : Word), let n := if w then 32 else 64
    m.toNat < 2 ^ n → p.toNat < 2 ^ n → q.toNat < 2 ^ n →
    let r := fun (op : AtomOp) => (op.apply w m p q).toNat
    let sg := fun (v : Nat) => if v < 2 ^ (n - 1) then (v : Int) else (v : Int) - 2 ^ n
    r .add = (m.toNat + p.toNat) % 2 ^ n ∧ r .and = (m &&& p).toNat ∧ r .or = (m ||| p).toNat ∧ r .xor = (m ^^^ p).toNat ∧
    (r .min = m.toNat ∨ r .min = p.toNat) ∧ sg (r .min) = min (sg m.toNat) (sg p.toNat) ∧
    (r .max = m.toNat ∨ r .max = p.toNat) ∧ sg (r .max) = max (sg m.toNat) (sg p.toNat) ∧
    r .minu = min m.toNat p.toNat ∧ r .maxu = max m.toNat p.toNat ∧ r .swap = p.toNat ∧
    r .cas = (if m = p then q.toNat else m.toNat) ∧
    r .inc = (if m.toNat < p.toNat then m.toNat + 1 else m.toNat) ∧
    r .dec = (if p.toNat < m.toNat then m.toNat - 1 else m.toNat) ∧
    (w = true → r .fadd = fp32Add m.toNat p.toNat) ∧
    (w = false → r .fadd % 2 ^ 32 = fp32Add (m.toNat % 2 ^ 32) (p.toNat % 2 ^ 32) ∧
      r .fadd / 2 ^ 32 = fp32Add (m.toNat / 2 ^ 32) (p.toNat / 2 ^ 32))) ∧
  (∀ a < 2 ^ 32, ∀ b < 2 ^ 32,
    let num := decodeFloat fp32 false
    let inf := fun (x : Nat) => x % 2 ^ 31 = 0x7F800000
    let nan := fun (x : Nat) => 0x7F800000 < x % 2 ^ 31
    fp32Add a b < 2 ^ 32 ∧
    (nan a ∨ nan b → fp32Add a b = 0x7FC00000) ∧ (inf a → inf b → a ≠ b → fp32Add a b = 0x7FC00000) ∧
    (inf a → ¬ nan b → (inf b → a = b) → fp32Add a b = a) ∧ (inf b → ¬ nan a → (inf a → a = b) → fp32Add a b = b) ∧
    (¬ nan a → ¬ nan b → ¬ inf a → ¬ inf b →
      let e := (num a).toRat + (num b).toRat
      let r := fp32Add a b
      (a % 2 ^ 31 = 0 → b % 2 ^ 31 = 0 → a ≠ b → r = 0) ∧
      (2 ^ 128 - 2 ^ 103 ≤ e → r = 0x7F800000) ∧ (e ≤ -(2 ^ 128 - 2 ^ 103) → r = 0xFF800000) ∧
      (-(2 ^ 128 - 2 ^ 103) < e → e < 2 ^ 128 - 2 ^ 103 → ¬ inf r ∧ ¬ nan r ∧
        ∀ y < 2 ^ 32, ¬ inf y → ¬ nan y → |(num r).toRat - e| ≤ |(num y).toRat - e| ∧
          (|(num r).toRat - e| = |(num y).toRat - e| → (num r).toRat ≠ (num y).toRat → r % 2 = 0))))

/-- R204 and R233, HOT_LINE_EVICT and FRONT_WRITEBACK: the least recently used hot line is released, and a resident front that a
plain access waits for; memory holds their values already (the model's reading, log 40), and the lines are checked as they are written back
(R405). -/
def Claims.EnginesRelease : Prop :=
  ∀ (s : State) (k : Nat),
    (∀ l rest, (s.atomicEngine k).hot = l :: rest →
      Happens s (.hotLineEvict k) fun t =>
        t = { s.checkLine (64 * l) with atomics := AL.put s.atomics k { s.atomicEngine k with hot := rest } } ∧ t.mem = s.mem) ∧
    (∀ obj r x f a, (s.atomicEngine k).fronts.find? (fun r => r.obj == obj) = some r → (x, f) ∈ s.flights → f.stage = .going →
      f.op.plain = true → a ∈ s.flatsOf f → a / 64 ∈ r.lines →
      Happens s (.frontWriteback k obj) fun t =>
        (∀ o, o ∈ (t.atomicEngine k).fronts ↔ o ∈ (s.atomicEngine k).fronts ∧ o.obj ≠ obj) ∧
        (t.atomicEngine k).hot = (s.atomicEngine k).hot ∧ (∀ j, j ≠ k → t.atomicEngine j = s.atomicEngine j) ∧
        { t with atomics := s.atomics, errLogs := s.errLogs, poison := s.poison, upsets := s.upsets } = s)

/-- R330 and R331, TRANSLATION_WALK, FAULT_RESOLVE and FAULT_REFUSE: a walk begins at the address's agent where one of its 64 is free, and
the access that comes later joins one that is under way; a walk that ends with a leaf caches it, one that finds none raises a page fault
for the accesses that have joined it; a resolved fault lets its access go on, a refused one answers it BOUND at the address refused. -/
def Claims.PagesAreTranslated : Prop :=
  ∀ (s : State) (x : Nat) (f : Flight) (va : Nat) (fd : Field),
    (AL.find s.flights x = some f → f.stage = .going → s.missing f = some va → s.cachedLeaf f.field va = none →
      AL.find s.fields f.field = some fd →
      let g := s.agent (agentOf va)
      let w : Walk := ⟨f.field, va / 65536⟩
      let ended := s.walkDone f.field va (some (.flight x))
      (w ∉ g.walks → g.walks.length < 64 → (∀ y, s.firstMiss g = some y → y = .flight x) →
        Happens s (.translationWalk x) fun t => (t.agent (agentOf va)).walks = g.walks ++ [w] ∧
          (t.agent (agentOf va)).cache = g.cache ∧ { t with agents := s.agents } = s) ∧
      (w ∉ g.walks → 64 ≤ g.walks.length → .flight x ∉ g.waiting →
        Happens s (.translationWalk x) fun t => (t.agent (agentOf va)).waiting = g.waiting ++ [.flight x] ∧
          (t.agent (agentOf va)).walks = g.walks ∧ { t with agents := s.agents } = s) ∧
      (∀ l, w ∈ g.walks → s.walkPoison fd.ctx.root va = none → s.walk f.field fd.ctx.root va = some l →
        Happens s (.translationWalk x) fun t => t = ended.cacheLeaf va l) ∧
      (w ∈ g.walks → s.walkPoison fd.ctx.root va = none → s.walk f.field fd.ctx.root va = none → s.faults = [] →
        s.joined w = [(x, f, va)] →
        Happens s (.translationWalk x) fun t => (∃ size,
          t.faults = [(s.nextId, ⟨f.field, va, f.op.faultOp, [⟨.flight x, va, f.op.faultOp, f.cls, size⟩]⟩)]) ∧
          AL.find t.flights x = some { f with stage := .faulted } ∧ t.mem = s.mem ∧ t.agents = ended.agents)) ∧
    (∀ p op cls size, AL.find s.faults p = some ⟨f.field, va, op, [⟨.flight x, va, op, cls, size⟩]⟩ → va < 2 ^ 48 →
      AL.find s.flights x = some f → f.stage = .faulted → s.runOf (.flight x) = none →
      Happens s (.faultResolve p) (fun t => AL.find t.faults p = none ∧
        AL.find t.flights x = some { f with stage := .going } ∧
        { t with faults := s.faults, flights := s.flights } = s) ∧
      ((∀ q, f.issuer ≠ .line q) → Happens s (.faultRefuse p) (fun t => AL.find t.faults p = none ∧
        AL.find t.flights x = some { f with stage := .answered (.err ⟨2, BitVec.ofNat 48 va⟩) } ∧
        { t with faults := s.faults, flights := s.flights, agents := s.agents, waits := s.waits } = s)))

/-- R50, R212, R216, R222 and R235, LOAD_COMPLETE: the answer of a load or a returning atomic is written to its one register, extended as its
form says, that of a pair to two, and the words of a front operation to its registers in order; the frame holds the instruction outstanding
no more. A refused one writes nothing and raises ACCESS at its own site. -/
def Claims.LoadsComplete : Prop :=
  ∀ (s : State) (x : Nat) (f : Flight) (a sl : Nat) (o : Outst), AL.find s.flights x = some f →
    f.posted = false → f.issuer = .act a → (s.act a).slot = some sl → f.mirror = none →
    (s.frame f.cell sl).outst.find? (fun o => o.flight == x) = some o →
    s.flights.all (fun p => !(p.2.issuer == .atomic x)) = true → (s.frame f.cell sl).life = .running →
    let rest := fun (t : State) => AL.find t.flights x = none ∧ (∀ k, k ≠ sl → t.frame f.cell k = s.frame f.cell k) ∧
      (∀ k, k ≠ f.cell → t.cell k = s.cell k) ∧
      (t.frame f.cell sl).outst = (s.frame f.cell sl).outst.filter (fun p => p.flight != x) ∧
      { t with flights := s.flights, cells := s.cells, waits := s.waits } = s
    let g := (s.frame f.cell sl).g
    let writes := fun (ws : List (Nat × Word)) => Happens s (.loadComplete x) fun t => rest t ∧
      (∀ k, Regs.get (t.frame f.cell sl).g k = ((ws.find? (fun p => p.1 == k)).map Prod.snd).getD (Regs.get g k)) ∧
      (t.frame f.cell sl).life = .running
    (∀ bs n sg d, f.stage = .answered (.data bs) → o.fmt = .int n sg → o.dests = [d] →
      writes [(d, BitVec.ofInt 64 (if sg then signedNat (8 * n) (leNat (bs.take n)) else leNat (bs.take n)))]) ∧
    (∀ bs d e, f.stage = .answered (.data bs) → o.fmt = .pair → o.dests = [d, e] → d ≠ e →
      writes [(d, BitVec.ofNat 64 (leNat (bs.take 8))), (e, BitVec.ofNat 64 (leNat (bs.drop 8)))]) ∧
    (∀ ws, f.stage = .answered (.words ws) → o.fmt = .regs → o.dests.Nodup → ws.length = o.dests.length →
      writes (o.dests.zip ws)) ∧
    (∀ e, f.stage = .answered (.err e) → (s.frame f.cell sl).trap = none → (s.frame f.cell sl).pend = none →
      Happens s (.loadComplete x) fun t => rest t ∧ (t.frame f.cell sl).g = g ∧
        (t.frame f.cell sl).life = .frozen ∧
        ∃ tr, (t.frame f.cell sl).trap = some tr ∧ tr.cause = 0x0A ∧ tr.site = f.site ∧ tr.addrIdx = e.va.setWidth 64)

/-- R181, RETIRED_ACCESS_ERROR: the refusal of a store whose frame is frozen is kept, the first alone; that of a retired activation
has a record of its own, which waits for an entry where the trap area is full; that several stand one behind the other is the
model's reading (log 42). -/
def Claims.LateRefusalsAreKept : Prop :=
  ∀ (s : State) (x : Nat) (f : Flight) (a : Nat) (act : Act) (e : ErrResp), AL.find s.flights x = some f → f.posted = true →
    f.issuer = .act a → f.stage = .answered (.err e) → AL.find s.acts a = some act → s.notFirst x f = false →
    (∀ sl, act.slot = some sl → (s.frame act.cell sl).life = .frozen →
      Happens s (.retiredAccessError x) fun t => AL.find t.flights x = none ∧ t.mem = s.mem ∧
        ∃ b, AL.find t.acts a = some b ∧ b.kept = some (act.kept.getD ⟨f.site, e.va⟩)) ∧
    (∀ fd, act.slot = none → s.fieldOf f.cell = some fd → fd.trapEntry = none →
      Happens s (.retiredAccessError x) fun t => AL.find t.flights x = none ∧ t.mem = s.mem ∧
        ∃ b tr, AL.find t.acts a = some b ∧ b.dead = act.dead ++ [tr] ∧ tr.cause = 0x0A ∧ tr.site = f.site ∧ tr.stage = .deferred)

/-! ### Activations and messages (spec 01, 07) -/

/-- R135, R136, R143, R349 and R419, MESSAGE_ARRIVAL: a message takes the slot that its tenant may have, with the time and its place in the
order of arrival, and waits where there is none. One from a fenced cell is dropped; one for a fenced cell is refused at the hub port with FENCED,
and one for a cell out of service by the cell with code 8: no slot changes, its weight returns and its source hears of it. -/
def Claims.MessagesArrive : Prop :=
  ∀ (s : State) (m : Nat) (f : MsgFlight), AL.find s.msgs m = some f → s.queued m f = false → s.msgBehind m f = false →
    f.msg.handler ≠ doorbellHandler →
    let c := cellOf f.msg.dst
    (s.cell c).scan = .none →
    let refused := fun (code : Nat) (t : State) => AL.find t.msgs m = none ∧ t.mem = s.mem ∧
      (∀ j, (t.cell j).slots = (s.cell j).slots ∧ (t.cell j).frames = (s.cell j).frames) ∧
      (f.msg.w ≠ 0 → devOf (homeOf f.msg.scope) = s.devNum → ∃ q, AL.find t.ctls s.nextId = some q ∧ q.kind = .weightReturn ∧
        q.dst = homeOf f.msg.scope ∧ q.scope = f.msg.scope ∧ q.value = BitVec.ofNat 64 f.msg.w) ∧
      (∀ fd, f.msg.nack = false → f.msg.replica = none → f.msg.hub = false → devOf f.msg.src = s.devNum →
        s.fieldOf (cellOf f.msg.src) = some fd → devOf (homeOf f.msg.scope) = s.devNum →
        ∃ k w, AL.find t.wakes k = some w ∧ w.msg.dst = s.gca fd.ctx.trapCell ∧ w.msg.handler = fd.ctx.trapH ∧ w.msg.nack = true ∧
          w.msg.words = [BitVec.ofNat 64 code, f.msg.handler.setWidth 64,
            BitVec.ofNat 64 (f.msg.elem.toNat * 2 ^ 24 + f.msg.src.toNat), f.msg.scope.setWidth 64]) ∧
      (f.msg.nack = false → f.msg.replica = none → f.msg.hub = false → devOf f.msg.src ≠ s.devNum →
        ∃ k r, AL.find t.packets k = some r ∧ r.pkt.kind = 5 ∧ r.pkt.status = BitVec.ofNat 8 code ∧ r.pkt.dst = f.msg.src)
    (s.sourceFenced f.msg = true → exec (.messageArrival m) s = .next { s with msgs := AL.del s.msgs m }) ∧
    (s.sourceFenced f.msg = false → s.fencedCell c = true → Happens s (.messageArrival m) fun t => refused 3 t ∧ t.cells = s.cells) ∧
    (s.sourceFenced f.msg = false → s.fencedCell c = false → (s.cell c).service = false →
      Happens s (.messageArrival m) fun t => refused 8 t ∧
        (t.cell c).refusals = log8 (s.cell c).refusals ⟨8, f.msg.handler, f.msg.src, f.msg.scope⟩) ∧
    (s.sourceFenced f.msg = false → s.fencedCell c = false → (s.cell c).service = true →
      (s.freeInSlot c f.msg.tenant = none → exec (.messageArrival m) s = .next s) ∧
      (∀ k, s.freeInSlot c f.msg.tenant = some k → s.follower c = none → Happens s (.messageArrival m) fun t =>
        AL.find t.msgs m = none ∧ AL.find (t.cell c).slots k =
          some ⟨f.msg, BitVec.ofNat 64 s.ns, s.nextId, none, none, none, false, !s.reserveRoom c f.msg.tenant⟩ ∧
        (∀ j, j ≠ k → AL.find (t.cell c).slots j = AL.find (s.cell c).slots j) ∧ (∀ j, j ≠ c → t.cell j = s.cell j) ∧
        { t.cell c with slots := (s.cell c).slots } = s.cell c ∧
        { t with msgs := s.msgs, cells := s.cells, nextId := s.nextId } = s))

/-- R135: which slot a message may have. A tenant has RES slots of its own, which its messages take first; the rest are the pool, which
any tenant takes; no slot of a reserve is lent, so that there is a free slot whenever there is room. -/
def Claims.SlotsAreShared : Prop :=
  ∀ (s : State) (c : Nat) (t : BitVec 4),
    let own := ((s.cell c).slots.filter (fun p => decide (p.1 < 512 ∧ p.2.pool = false ∧ p.2.msg.tenant = t))).length
    let pool := ((s.cell c).slots.filter (fun p => decide (p.1 < 512 ∧ p.2.pool = true))).length
    let res := fun (i : Nat) => match s.fieldOf c with | some f => (f.ctx.res[i]?).getD 0 | none => 0
    (s.reserveRoom c t = true ↔ own < res t.toNat) ∧
    (s.poolRoom c = true ↔ pool < 512 - ((List.range 16).map res).sum) ∧
    (∀ k, s.freeInSlot c t = some k → (s.reserveRoom c t = true ∨ s.poolRoom c = true) ∧ k < 512 ∧
      AL.find (s.cell c).slots k = none ∧ ∀ j < k, (AL.find (s.cell c).slots j).isSome = true) ∧
    (s.reserveRoom c t = false → s.poolRoom c = false → s.freeInSlot c t = none) ∧
    (∀ k < 512, AL.find (s.cell c).slots k = none → s.reserveRoom c t = true ∨ s.poolRoom c = true →
      (s.freeInSlot c t).isSome = true)

/-- R27 to R30 and R133, DISPATCH: the chosen message starts an activation in the lowest free frame, with its words in g0 to g3,
its header in g4, its scope word in g5, every other register and index register 0, and the PC behind the descriptor. -/
def Claims.DispatchLoadsAFrame : Prop :=
  ∀ (s s2 : State) (c k : Nat) (p : InSlot) (chan : BitVec 3) (d : Descriptor) (slot : Nat) (w0 w1 w2 w3 : Word),
    s.mayDispatch c = true → s.nextDispatch c = some (k, p, chan) → (s.cell c).overflow = false → p.query = none →
    p.stolen = none → s.notified c p.msg.scope = false → s.follower c = none → p.msg.words = [w0, w1, w2, w3] →
    let h := if p.msg.handler = 0 then (AL.get TagEntry.reset (s.cell c).tags p.msg.tag.toNat).handler else p.msg.handler
    h ≠ 0 → s.readDescriptor c (.input c k) h = (.ok d, s2) → (s.freeFrames c).head? = some slot →
    Happens s (.dispatch c) fun t =>
      let f := t.frame c slot
      f.life = .running ∧ f.size = d.frame ∧ f.pc = h + 32 ∧ f.act = s2.nextId ∧ f.outst = [] ∧ f.trap = none ∧
      (List.range 6).map (Regs.get f.g) = [w0, w1, w2, w3, p.msg.hdr, p.msg.naming.scopeWord] ∧
      (∀ n, 6 ≤ n → Regs.get f.g n = 0) ∧ (∀ i : BitVec 2, AL.get 0 f.x i.toNat = 0) ∧
      f.chan = BitVec.ofNat 3 (max chan.toNat d.chan) ∧ AL.find (t.cell c).slots k = none ∧
      (∀ j, j ≠ slot → t.frame c j = s2.frame c j) ∧ t.mem = s2.mem ∧
      ∃ a, AL.find t.acts s2.nextId = some a ∧ a.cell = c ∧ a.slot = some slot ∧ a.naming = p.msg.naming ∧ a.entry = h ∧
        a.holdings = (if p.msg.w = 0 then [] else [⟨p.msg.scope, p.msg.w⟩])

/-- R28 and R136: a message of a cancelled scope is discarded and its weight returns; one without a handler is refused as NO_HANDLER
and logged. -/
def Claims.DispatchRefuses : Prop :=
  ∀ (s : State) (c k : Nat) (p : InSlot) (chan : BitVec 3), s.mayDispatch c = true → s.nextDispatch c = some (k, p, chan) →
    (s.cell c).overflow = false → p.query = none → p.stolen = none → s.follower c = none →
    (s.notified c p.msg.scope = true → p.msg.w ≠ 0 → devOf (homeOf p.msg.scope) = s.devNum →
      Happens s (.dispatch c) fun t => AL.find (t.cell c).slots k = none ∧ t.mem = s.mem ∧ t.acts = s.acts ∧
        ∃ q, AL.find t.ctls s.nextId = some q ∧ q.kind = .weightReturn ∧ q.dst = homeOf p.msg.scope ∧
          q.scope = p.msg.scope ∧ q.value = BitVec.ofNat 64 p.msg.w) ∧
    (s.notified c p.msg.scope = false → p.msg.handler = 0 →
      (AL.get TagEntry.reset (s.cell c).tags p.msg.tag.toNat).handler = 0 →
      Happens s (.dispatch c) fun t => AL.find (t.cell c).slots k = none ∧ t.mem = s.mem ∧ t.acts = s.acts ∧
        (t.cell c).refusals = log8 (s.cell c).refusals ⟨1, 0, p.msg.src, p.msg.scope⟩)

/-- R27, R160 and R161, RETIREMENT and WEIGHT_RETURN_DRAIN: a frame that has issued `done` and holds nothing outstanding is freed;
its activation returns the weight it holds to the scope's home once its accesses are performed. -/
def Claims.ActivationsRetire : Prop :=
  ∀ (s : State) (c slot : Nat),
    (∀ act, s.mayRetire c slot = true → (s.frame c slot).trap = none → (s.cell c).paired = false →
      AL.find s.acts (s.frame c slot).act = some act →
      Happens s (.retirement c slot) fun t => t.frame c slot = Frame.free ∧
        (∀ k, k ≠ slot → t.frame c k = s.frame c k) ∧ AL.find t.acts (s.frame c slot).act = some { act with slot := none } ∧
        t.mem = s.mem ∧ t.flights = s.flights ∧ (t.cell c).sb = (s.cell c).sb) ∧
    (∀ a act sc w, AL.find s.acts a = some act → act.cell = c → act.slot = none → act.dead = [] →
      s.drained a act = true → act.holdings = [⟨sc, w⟩] → w ≠ 0 → devOf (homeOf sc) = s.devNum →
      Happens s (.weightReturnDrain c a) fun t =>
        (∃ q, AL.find t.ctls s.nextId = some q ∧ q.kind = .weightReturn ∧ q.dst = homeOf sc ∧ q.scope = sc ∧
          q.value = BitVec.ofNat 64 w) ∧
        AL.find t.acts a = (if s.unnamed a act then none else some { act with holdings := [] }) ∧
        { t with ctls := s.ctls, acts := s.acts, progs := s.progs, hubPaths := s.hubPaths, nextId := s.nextId } = s)

/-- R145 and R146, STEAL_PROBE and STOLEN_MESSAGE_ARRIVAL: an idle cell takes a stealable message of its cluster for a frame that it
reserves, and the message then stands in one of the slots of its pool; it takes nothing where there is none, and the message waits where
the pool is full. -/
def Claims.CellsSteal : Prop :=
  ∀ (s : State) (c : Nat),
    (s.probes c = false ∨ s.loot c = [] → exec (.stealProbe c) s = .next s) ∧
    (∀ v k p fs, s.probes c = true → s.loot c = [(v, k, p)] → (s.freeFrames c).head? = some fs → v ≠ c → s.follower v = none →
      Happens s (.stealProbe c) fun t => AL.find (t.cell v).slots k = none ∧
        (∀ j, j ≠ k → AL.find (t.cell v).slots j = AL.find (s.cell v).slots j) ∧
        (t.cell c).incoming = (s.cell c).incoming ++ [{ p with
          chan := some (AL.get TagEntry.reset (s.cell v).tags p.msg.tag.toNat).chan, stolen := some (fs, v), query := none,
          asked := false }] ∧
        (t.cell c).slots = (s.cell c).slots ∧ (∀ j, j ≠ v → j ≠ c → t.cell j = s.cell j) ∧
        { t with cells := s.cells, waits := s.waits } = s) ∧
    (∀ p rest k, (s.cell c).incoming = p :: rest → s.poolRoom c = true →
      (List.range 512).find? (fun k => !AL.has (s.cell c).slots k) = some k →
      Happens s (.stolenMessageArrival c) fun t => (t.cell c).incoming = rest ∧
        AL.find (t.cell c).slots k = some { p with order := s.nextId, pool := true } ∧
        (∀ j, j ≠ k → AL.find (t.cell c).slots j = AL.find (s.cell c).slots j) ∧
        { t.cell c with slots := (s.cell c).slots, incoming := (s.cell c).incoming } = s.cell c ∧
        (∀ j, j ≠ c → t.cell j = s.cell j) ∧ { t with cells := s.cells, nextId := s.nextId } = s) ∧
    ((s.cell c).incoming = [] ∨ s.poolRoom c = false → exec (.stolenMessageArrival c) s = .next s)

/-! ### Traps and verdicts (spec 02) -/

/-- R53 and R326, TRAP_TAKEN: a frozen frame whose outstanding instructions are complete has its record in the entry of the trap
area that is handed out, or waits where no entry is free. -/
def Claims.TrapsAreRecorded : Prop :=
  ∀ (s : State) (c slot : Nat) (tr : Trap) (fd : Field), (s.frame c slot).trap = some tr → (s.frame c slot).life = .frozen →
    tr.stage = .raised → (s.frame c slot).outst = [] → AL.has (s.cell c).pairs slot = false → s.follower c = none →
    s.fieldOf c = some fd →
    (fd.trapEntry = none → Happens s (.trapTaken c slot) fun t =>
      (t.frame c slot).trap = some { tr with stage := .deferred } ∧ { t with cells := s.cells } = s) ∧
    (∀ k s1 ra, fd.trapEntry = some k → s.isWaiting (.frame c slot) = false →
      s.writeTrap c fd k tr 0 slot (s.actOf c slot).naming (some (snapshot (s.frame c slot))) (.frame c slot) = .done s1 ra →
      Happens s (.trapTaken c slot) fun t => ra = fd.ctx.trapBase + BitVec.ofNat 48 (1024 * k) ∧ t.mem = s1.mem ∧
        t.wakes = s1.wakes ∧ (t.frame c slot).life = (s1.frame c slot).life ∧
        (t.frame c slot).trap = (s1.frame c slot).trap.map (fun y => { y with stage := .recorded k ra }))

/-- R326, TRAP_DEFERRED_WRITE: of the traps of a field that wait for an entry, the one raised first is written next. -/
def Claims.DeferredTrapsAreRecorded : Prop :=
  ∀ (s : State) (f c slot : Nat) (tr : Trap) (fd : Field) (k : Nat) (s1 : State) (ra : Addr),
    s.deferredTraps f = [.frame c slot tr] → s.fieldOf c = some fd → fd.trapEntry = some k →
    s.isWaiting (.frame c slot) = false → s.follower c = none →
    s.writeTrap c fd k tr 0 slot (s.actOf c slot).naming (some (snapshot (s.frame c slot))) (.frame c slot) = .done s1 ra →
    Happens s (.trapDeferredWrite f) fun t => t.mem = s1.mem ∧ t.wakes = s1.wakes ∧
      (t.frame c slot).trap = (s1.frame c slot).trap.map (fun y => { y with stage := .recorded k ra })

/-- Table 2-15: where a trap record holds the cause, the unit, the slot, the PC, the page, the number of prefixes, the base word,
ADDR_IDX, the snapshot's address, the header and NEXT. -/
def Claims.TrapRecordLayout : Prop :=
  ∀ (tr : Trap) (unit slot : Nat) (nm : Naming) (snap : Addr), tr.cause < 256 → unit < 4 → slot < 16 → tr.site.page < 16 →
    tr.site.pfx.length ≤ 4 →
    let r := trapRecord tr unit slot nm snap
    let w := fun (i : Nat) => (r[i]?).getD 0
    r.length = 8 ∧ bits (w 0) 63 56 = tr.cause ∧ bits (w 0) 55 54 = unit ∧ bits (w 0) 53 50 = slot ∧
    bits (w 0) 47 0 = tr.site.pc.toNat ∧ bits (w 1) 18 16 = tr.site.pfx.length ∧ bits (w 1) 15 0 = tr.site.base.toNat ∧
    bits (w 1) 22 19 = tr.site.page ∧ (∀ i, ∀ h : i < tr.site.pfx.length, bits (w 2) (16 * i + 15) (16 * i) = (tr.site.pfx[i]).toNat) ∧
    w 3 = tr.addrIdx ∧ w 4 = snap.setWidth 64 ∧ bits (w 5) 31 0 = nm.scope.toNat ∧ bits (w 5) 35 32 = nm.tenant.toNat ∧
    w 6 = nm.hdr ∧ w 7 = tr.next.setWidth 64

/-- R56, ENGINE_TRAP: the trap of the program that an engine runs is recorded, or waits where no entry is free. -/
def Claims.EngineTrapsAreRecorded : Prop :=
  ∀ (s : State) (c : Nat) (u : EngineUnit) (p : Nat) (x : Prog) (tr : Trap) (fd : Field),
    s.progs.find? (fun p => p.2.cell == c && p.2.unit == u &&
      (match p.2.trap with | some t => t.stage == .raised | none => false) && s.writesDone p.1) = some (p, x) →
    AL.find s.progs p = some x → x.trap = some tr → x.cell = c → tr.stage = .raised → s.fieldOf c = some fd →
    (fd.trapEntry = none → Happens s (.engineTrap c u) fun t =>
      AL.find t.progs p = some { x with trap := some { tr with stage := .deferred } } ∧ { t with progs := s.progs } = s) ∧
    (∀ k s1 ra, fd.trapEntry = some k → s.isWaiting (.prog p) = false → x.life ≠ .refused → x.unit = u →
      s.writeTrap c fd k tr (unitCode (.engine u)) 0 x.naming (some (snapshotE ((s.cell c).engine u).e)) (.prog p) = .done s1 ra →
      Happens s (.engineTrap c u) fun t => t.mem = s1.mem ∧ t.wakes = s1.wakes ∧
        ∀ y, AL.find s1.progs p = some y → AL.find t.progs p = some { y with trap := some { tr with stage := .recorded k ra } })

/-- R55 with Table 2-16, the verdicts on a frame: resume at and resume after reload the registers from the snapshot in memory and
free the entry, going on at PC with NEXT to follow or at NEXT; abandon frees the frame and the entry; keep changes nothing. -/
def Obligations.VerdictsOnFrames : Prop :=
  ∀ (s : State) (c slot k : Nat) (ra : Addr) (act : Act), s.holderOf c ra = some (.frame slot k) →
    AL.find s.acts (s.frame c slot).act = some act → act.kept = none → act.checked = false →
    (∀ pc next snap s1, s.waitOf (.frame c slot) = .none →
      (readEntry (s.whoCell c (.frame c slot)) ra).exec s = (.ok (pc, next, snap), s1) → (s1.cell c).pairs = [] →
      (s1.frame c slot).act = (s.frame c slot).act → AL.find s1.acts (s.frame c slot).act = some act →
      pc.toNat % 2 = 0 → next.toNat % 2 = 0 →
      let goes := fun (t : State) (at_ : Addr) (then_ : Option Addr) =>
        (t.frame c slot).life = .running ∧ (t.frame c slot).trap = none ∧ (t.frame c slot).pc = at_ ∧
        (t.frame c slot).resume = then_ ∧ t.mem = s1.mem ∧ (t.frame c slot).size = (s1.frame c slot).size ∧
        (∀ n, n < (s1.frame c slot).size → Regs.get (t.frame c slot).g n = (snap[n]?).getD 0) ∧
        (∀ j, j ≠ slot → t.frame c j = s1.frame c j) ∧
        ∀ f, AL.find s1.fields (s1.cell c).field = some f →
          AL.find t.fields (s1.cell c).field = some { f with trapUse := f.trapUse.filter (fun j => j != k) }
      Happens s (.verdictResumeAt c ra) (fun t => goes t pc (some next)) ∧
      Happens s (.verdictResumeAfter c ra) (fun t => goes t next none)) ∧
    Happens s (.verdictAbandon c ra) (fun t => t.frame c slot = Frame.free ∧ t.mem = s.mem ∧
      (∀ f, AL.find s.fields (s.cell c).field = some f →
        AL.find t.fields (s.cell c).field = some { f with trapUse := f.trapUse.filter (fun j => j != k) }) ∧
      ∃ b, AL.find t.acts (s.frame c slot).act = some b ∧ b.slot = none) ∧
    exec (.verdictKeep c ra) s = .next s

/-! ### Bells (spec 07) -/

/-- R151 to R153: a generation closes when every member has arrived and the external arrivals suffice, its messages are then
written into the members' bell slots, an external arrival is counted or discarded, and reading the discard count clears it. -/
def Claims.BellsRing : Prop :=
  ∀ (s : State) (die b : Nat),
    (let x := s.bell die b
     bitAt x.cfg 0 = true → bellDies x.cfg = [die] → bits x.cfg 63 48 ≤ x.ext →
     (∀ c ∈ bellMembers x.cfg, c ∈ (s.bell (dieOf c) b).latches ∧ AL.has (s.cell c).slots (512 + b) = false) →
     Happens s (.generationClose die b) fun t => (t.bell die b).latches = [] ∧ (t.bell die b).gen = x.gen + 1 ∧
       (t.bell die b).ext = x.ext - bits x.cfg 63 48 ∧
       t.dues = s.dues ++ [⟨die, b, (bellMembers x.cfg).filterMap (s.bellMsg x.cfg x.gen b)⟩] ∧ t.mem = s.mem) ∧
    (∀ d m, s.dues.find? (fun d => d.die == bellRoot (s.bell die b).cfg die && d.bell == b) = some d → d.msgs = [m] → s.follower (cellOf m.dst) = none →
      AL.has (s.cell (cellOf m.dst)).slots (512 + b) = false →
      Happens s (.bellMessage die b) fun t =>
        AL.find (t.cell (cellOf m.dst)).slots (512 + b) = some ⟨m, BitVec.ofNat 64 s.ns, s.nextId, none, none, none, false, !s.reserveRoom (cellOf m.dst) m.tenant⟩ ∧
        t.dues = s.dues.erase d ∧ t.mem = s.mem) ∧
    (∀ n a, AL.find s.arrivals n = some a →
      let y := s.bell a.die a.bell
      Happens s (.externalArrival n) fun t => AL.find t.arrivals n = none ∧ t.mem = s.mem ∧
        (t.bell a.die a.bell).ext =
          y.ext + (if bitAt y.cfg 0 ∧ 0 < bits y.cfg 63 48 ∧ y.field = a.field ∧ a.field.isSome then 1 else 0)) ∧
    Happens s (.bellDiscardCountRead die b) (fun t => t.readout = [(s.bell die b).discards.setWidth 64] ∧
      (t.bell die b).discards = 0 ∧ { t with bells := s.bells, readout := s.readout } = s)

/-! ### Sends, route tags and bells (spec 07) -/

/-- R141: the targets of a send, its scope and its element id; a malformed word gives status 5, an address without an owner 6, an
invalid stage 4. -/
def Claims.SendTargets : Prop :=
  ∀ (s : State) (c : Ctx) (h dest : Word),
    let own := (s.actC c).naming
    let sc := if h.getLsbD 56 then dest.extractLsb' 32 32 else own.scope
    let plan := fun (k : SendKind) => s.planSend c k h dest
    (handlerWordOk h = false → ∀ k, plan k = .inr 5) ∧
    (handlerWordOk h = true →
      (bits dest 31 24 ≠ 0 → plan .one = .inr 5 ∧ plan .stage = .inr 5) ∧
      (bits dest 31 24 = 0 →
        plan .one = (if s.targetOk c.cell (dest.extractLsb' 0 24) then .inl ⟨sc, own.elem, [dest.extractLsb' 0 24]⟩ else .inr 3) ∧
        (s.stageCell c.cell (bits h 55 52) (bits dest 23 0) = none → plan .stage = .inr 4) ∧
        (∀ n, s.stageCell c.cell (bits h 55 52) (bits dest 23 0) = some n →
          plan .stage = (if s.targetOk c.cell (s.gca n) then .inl ⟨sc, dest.extractLsb' 0 24, [s.gca n]⟩ else .inr 3))) ∧
      (bits dest 63 48 ≠ 0 ∨ h.getLsbD 56 = true → plan .addr = .inr 5) ∧
      (bits dest 63 48 = 0 → h.getLsbD 56 = false →
        (s.ownerOf c.cell (bits dest 47 0) = none → plan .addr = .inr 6) ∧
        (∀ n, s.ownerOf c.cell (bits dest 47 0) = some n →
          plan .addr = (if s.targetOk c.cell (s.gca n) then .inl ⟨sc, own.elem, [s.gca n]⟩ else .inr 3))) ∧
      (let r0 := bits dest 19 15
       let c0 := bits dest 14 10
       let hh := bits dest 9 5 + 1
       let ww := bits dest 4 0 + 1
       (bits dest 31 22 ≠ 0 ∨ 32 < r0 + hh ∨ 32 < c0 + ww → plan .many = .inr 5) ∧
       (bits dest 31 22 = 0 → r0 + hh ≤ 32 → c0 + ww ≤ 32 →
         let gs := (List.range (hh * ww)).map (fun j => s.gca (cellAt (bits dest 21 20) (r0 + j / ww) (c0 + j % ww)))
         plan .many = (if gs.all (s.targetOk c.cell) then .inl ⟨sc, own.elem, gs⟩ else .inr 3))))

/-- R140 to R142 and R159, the sends: one message to each target, with the block's words and a share of the sender's weight, enters
the outbound queue in order; no weight is lost, and g[d] is 0. A status of Table 7-9 stands in g[d] where nothing is sent. -/
def Claims.SendsQueueMessages : Prop :=
  ∀ (s : State) (c : Ctx) (r : Rel) (m : Attr) (d a b : RegNum) (i : Instr) (k : SendKind),
    (i, k) ∈ [(Instr.snd r m d a b, SendKind.one), (.sndm r m d a b, .many), (.sndg r m d a b, .addr), (.snds r m d a b, .stage)] →
    s.At c → c.unit = .scalar → s.checkedC c = false →
    let D := s.regNo c r d
    let A := s.regNo c r a
    let B := s.regNo c r b
    s.Clear c .leader [D, A, B, B + 1, B + 2, B + 3, B + 4] → (s.marked c).waitOk c m.wait = true → s.acqBlocked c = false →
    (s.fr c).pend = none →
    let h := s.reg c B
    let own := (s.actC c).naming
    (∀ code, s.planSend c k h (s.reg c A) = .inr code → Wrote s c i D (BitVec.ofNat 64 code)) ∧
    (∀ sc e gs, s.planSend c k h (s.reg c A) = .inl ⟨sc, e, gs⟩ →
      (holdingOf (s.actC c).holdings sc = none → Wrote s c i D 2) ∧
      (∀ hd, holdingOf (s.actC c).holdings sc = some hd → (s.cell c.cell).overflow = false →
        (s.notified c.cell sc = true → Wrote s c i D 1) ∧
        (∀ act, AL.find s.acts (s.fr c).act = some act → s.notified c.cell sc = false → needsMint gs.length hd.w 0 = false →
          (s.cell c.cell).outq.length + gs.length ≤ 16 → (∀ p ∈ s.flights, p.1 < s.nextId) →
          (∀ g ∈ gs, devOf g = s.devNum ∧ (s.marked c).admits c m.cls g = true) →
          Happens s i fun t => ∃ (shares : List Nat) (rest : Nat),
            shares.length = gs.length ∧ (∀ w ∈ shares, 0 < w) ∧ shares.sum + rest = hd.w ∧
            AL.find t.acts (s.fr c).act = some { act with holdings := setHolding act.holdings sc rest } ∧
            (∀ j, ∀ hj : j < gs.length, AL.find t.msgs (s.nextId + j) = some ⟨{ Msg.zero with
              dst := gs[j], handler := h.setWidth 48, words := (List.range 4).map (fun (n : Nat) => s.reg c (B + 1 + (n : Int))),
              elem := e, stage := h.extractLsb' 52 4, tag := h.extractLsb' 48 4, src := s.gca c.cell, scope := sc,
              w := (shares[j]?).getD 0, tenant := own.tenant, colour := s.colourAt c.cell own.colour, cls := m.cls,
              sent := BitVec.ofNat 64 s.ns }, s.gca c.cell⟩) ∧
            (t.cell c.cell).outq = (s.cell c.cell).outq ++ (List.range gs.length).map (fun j => s.nextId + j) ∧
            t.reg c D = 0 ∧ Proceeds s t c [D] ∧
            { t with
                cells := s.cells, waits := s.waits, acts := s.acts, msgs := s.msgs, hubPaths := s.hubPaths,
                nextId := s.nextId } = s)))

/-- R139, the route tags: g[d] takes the entry word of Table 7-6 as it stood, and `tagen` sets the channel, the table handler and
the enable, `tagdis` clears the enable, `tagrd` changes nothing; what homes of scopes have answered for messages that wait is dropped, since a
later dispatch decision checks anew (R168). -/
def Claims.RouteTags : Prop :=
  ∀ (s : State) (c : Ctx) (r : Rel) (d a : RegNum), s.At c → c.unit = .scalar → s.checkedC c = false →
    let D := s.regNo c r d
    let v := s.reg c (s.regNo c r a)
    s.Clear c .leader [D, s.regNo c r a] →
    let n := bits v 3 0
    let e := AL.get TagEntry.reset (s.cell c.cell).tags n
    let does := fun (i : Instr) (new : TagEntry) => Happens s i fun t =>
      bits (t.reg c D) 3 0 = n ∧ bits (t.reg c D) 6 4 = e.chan.toNat ∧ bits (t.reg c D) 55 8 = e.handler.toNat ∧
      (t.reg c D).getLsbD 56 = e.en ∧ (t.reg c D).getLsbD 57 = (s.cell c.cell).pend n ∧
      (∀ k, AL.get TagEntry.reset (t.cell c.cell).tags k = if k = n then new else AL.get TagEntry.reset (s.cell c.cell).tags k) ∧
      KeepsRegs s t c [D] ∧ t.pcAt c = s.pcNext c none ∧
      Completed (s.modCell c.cell (fun x => { x with tags := (t.cell c.cell).tags, slots := (t.cell c.cell).slots })) t c ∧
      ∀ k, AL.find (t.cell c.cell).slots k = (AL.find (s.cell c.cell).slots k).map (fun p =>
        if p.query.isSome then { p with query := none, asked := false } else p)
    does (.tagen r d a) ⟨true, v.extractLsb' 4 3, BitVec.ofNat 48 (32 * bits v 55 13)⟩ ∧
    does (.tagdis r d a) { e with en := false } ∧ does (.tagrd r d a) e

/-- R154, `bar` and `barw`: a member arrives once at a bell of its die and reserves a bare bell with a share of its weight, and a
continuation takes the place of the bare bell, whose weight returns. Numbers above 7, cells that are no member, a second arrival and
a second continuation have the statuses 5, 4, 2 and 3. A generation whose conditions hold already is closed first (R151). -/
def Claims.BellArrivals : Prop :=
  ∀ (s : State) (c : Ctx) (r : Rel) (d a : RegNum) (hd : Holding) (act : Act), s.At c → c.unit = .scalar → s.checkedC c = false →
    (s.fr c).pend = none → AL.find s.acts (s.fr c).act = some act → holdingOf act.holdings act.naming.scope = some hd → 1 < hd.w →
    (s.cell c.cell).overflow = false → s.notified c.cell act.naming.scope = false →
    let D := s.regNo c r d
    let A := s.regNo c r a
    let die := dieOf c.cell
    let sc := act.naming.scope
    let gives := fun (t : State) => AL.find t.acts (s.fr c).act =
      some { act with holdings := setHolding act.holdings sc (hd.w - hd.w / 2) }
    let m : Msg := { Msg.zero with
      dst := s.gca c.cell, src := s.gca c.cell, scope := sc, w := hd.w / 2, tenant := act.naming.tenant,
      colour := s.colourAt c.cell act.naming.colour }
    (s.Clear c .leader [D, A] →
      let b := (s.reg c A).toNat
      (7 < b → Wrote s c (.bar r d a) D 5) ∧
      (∀ u, b ≤ 7 → s.tryClose die b = some u → u.tryClose die b = none → exec (.bar r d a) s = exec (.bar r d a) u) ∧
      (s.tryClose die b = none →
      (b ≤ 7 → s.member c.cell b = false → Wrote s c (.bar r d a) D 4) ∧
      (b ≤ 7 → s.member c.cell b = true → c.cell ∈ (s.bell die b).latches → Wrote s c (.bar r d a) D 2) ∧
      (b ≤ 7 → s.member c.cell b = true → c.cell ∉ (s.bell die b).latches →
        Happens s (.bar r d a) fun t => t.reg c D = 0 ∧ Proceeds s t c [D] ∧
          t.bells = AL.put s.bells (8 * die + b) { s.bell die b with latches := (s.bell die b).latches ++ [c.cell] } ∧
          { t with cells := s.cells, waits := s.waits, acts := s.acts, bells := s.bells } = s ∧
          (((s.cell c.cell).bellReg b).cont.isSome = true → t.acts = s.acts ∧ (t.cell c.cell).bells = (s.cell c.cell).bells) ∧
          (((s.cell c.cell).bellReg b).cont = none → gives t ∧
            (t.cell c.cell).bellReg b = ⟨some { m with words := [0, 0, 0, 0] }, none⟩)))) ∧
    (s.Clear c .leader [D, A, A + 1, A + 2, A + 3, A + 4] →
      let b := (s.reg c D).toNat
      (7 < b → Wrote s c (.barw r d a) D 5) ∧
      (∀ u, b ≤ 7 → s.tryClose die b = some u → u.tryClose die b = none → exec (.barw r d a) s = exec (.barw r d a) u) ∧
      (s.tryClose die b = none →
      (b ≤ 7 → s.member c.cell b = false → Wrote s c (.barw r d a) D 4) ∧
      (b ≤ 7 → s.member c.cell b = true → ((s.cell c.cell).bellReg b).cont.isSome = true → Wrote s c (.barw r d a) D 3) ∧
      (b ≤ 7 → s.member c.cell b = true → ((s.cell c.cell).bellReg b).cont = none →
        Happens s (.barw r d a) fun t => t.reg c D = 0 ∧ Proceeds s t c [D] ∧ gives t ∧ t.bells = s.bells ∧
          (t.cell c.cell).bellReg b = ⟨none, some { m with
            handler := (s.reg c A).setWidth 48, words := (List.range 4).map (fun (n : Nat) => s.reg c (A + 1 + (n : Int))) }⟩ ∧
          (((s.cell c.cell).bellReg b).bare = none → t.ctls = s.ctls) ∧
          (∀ h, ((s.cell c.cell).bellReg b).bare = some h → h.w ≠ 0 → devOf (homeOf h.scope) = s.devNum →
            ∃ q, AL.find t.ctls s.nextId = some q ∧ q.kind = .weightReturn ∧ q.dst = homeOf h.scope ∧ q.scope = h.scope ∧
              q.value = BitVec.ofNat 64 h.w))))

/-! ### Scope instructions (spec 08) -/

/-- R171 to R174, the scope instructions that ask the home of a scope: the request leaves for the home, and when the answer has come
it is written to g[d]. A malformed continuation word has status 5. -/
def Claims.ScopeRequests : Prop :=
  ∀ (s : State) (c : Ctx) (r : Rel) (d a : RegNum), s.At c → c.unit = .scalar → s.checkedC c = false →
    let D := s.regNo c r d
    let A := s.regNo c r a
    let sc : BitVec 32 := (s.reg c D).setWidth 32
    let own := (s.actC c).naming.scope
    let block := [D, A, A + 1, A + 2, A + 3, A + 4]
    let ws := (List.range 5).map (fun (n : Nat) => s.reg c (A + (n : Int)))
    let bad := !handlerWordOk (s.reg c A) || (s.reg c A).getLsbD 56
    let asks := fun (i : Instr) (k : CtlKind) (dst : BitVec 24) (scope other : BitVec 32) (value : Word) (ws : List Word)
        (next : CtlKind) => devOf dst = s.devNum → Happens s i fun t =>
      (∃ colour, AL.find t.ctls s.nextId =
        some ⟨k, false, s.gca c.cell, dst, scope, other, .frame c.cell c.slot, value, ws, next, colour⟩) ∧
      (∃ p, (t.fr c).pend = some p ∧ p.stage = 5 ∧ p.answer = none) ∧ KeepsRegs s t c [] ∧ (t.fr c).pc = (s.fr c).pc ∧
      { t with cells := s.cells, ctls := s.ctls, hubPaths := s.hubPaths, nextId := s.nextId } = s
    let request := fun (i : Instr) (k : CtlKind) (bad : Bool) (ws : List Word) =>
      ((holdingOf (s.actC c).holdings sc).isSome = true → bad = true → Wrote s c i D 5) ∧
      ((holdingOf (s.actC c).holdings sc).isSome = true → bad = false → asks i k (homeOf sc) sc 0 0 ws .answer) ∧
      (holdingOf (s.actC c).holdings sc = none → asks i .climb (homeOf own) own sc (if bad then 256 else 0) ws k)
    (s.Clear c .leader [D] → (s.fr c).pend = none →
      request (.scancel r d) .cancel false [] ∧ request (.sshield r d) .shield false [] ∧ request (.schk r d) .check false [] ∧
      asks (.sclaim r d) .claim (homeOf own) own 0 0 [] .answer) ∧
    (s.Clear c .leader block → (s.fr c).pend = none → request (.sclose r d a) .close bad ws) ∧
    (∀ p v, (s.fr c).pend = some p → p.stage = 5 → p.answer = some v →
      (s.Clear c .leader [D] →
        Wrote s c (.scancel r d) D v ∧ Wrote s c (.sshield r d) D v ∧ Wrote s c (.schk r d) D v ∧
        Wrote s c (.sclaim r d) D v) ∧
      (s.Clear c .leader block → Wrote s c (.sclose r d a) D v))

/-- R174, `sopen`: it asks the parent's home to link the child in the slot that the cell has reserved; when the depth has come, with
which the scope has opened there (`ScopesLink`), the frame holds the 2^40 issued at its opening and g[d] is 2^32 plus its identifier. -/
def Claims.ScopesOpen : Prop :=
  ∀ (s : State) (c : Ctx) (r : Rel) (d a : RegNum) (act : Act), s.At c → c.unit = .scalar → s.checkedC c = false →
    AL.find s.acts (s.fr c).act = some act →
    let D := s.regNo c r d
    let par : BitVec 32 := (s.reg c (s.regNo c r a)).setWidth 32
    s.Clear c .leader [D, s.regNo c r a] →
    ((s.fr c).pend = none →
      (holdingOf act.holdings par = none → Wrote s c (.sopen r d a) D 3) ∧
      (∀ hd, holdingOf act.holdings par = some hd → 8 ≤ act.holdings.length → Wrote s c (.sopen r d a) D 6) ∧
      (∀ hd k, holdingOf act.holdings par = some hd → act.holdings.length < 8 → (s.cell c.cell).overflow = false →
        s.notified c.cell par = false → s.freeScope c.cell = some k → 1 < hd.w → devOf (homeOf par) = s.devNum →
        Happens s (.sopen r d a) fun t =>
          (∃ colour, AL.find t.ctls s.nextId = some ⟨.link, false, s.gca c.cell, homeOf par, par, scopeId s.devNum c.cell k,
            .frame c.cell c.slot, 0, [], .answer, colour⟩) ∧
          (∃ p, (t.fr c).pend = some p ∧ p.stage = 5 ∧ p.sent = k + 1 ∧ p.answer = none) ∧
          (t.cell c.cell).opening = (s.cell c.cell).opening ++ [k] ∧ KeepsRegs s t c [] ∧ t.mem = s.mem)) ∧
    (∀ p k v, (s.fr c).pend = some p → p.stage = 5 → p.sent = k + 1 → p.answer = some v → 2 ≤ v.toNat → k < 256 →
      c.cell < 4096 →
      let id := scopeId s.devNum c.cell k
      Happens s (.sopen r d a) fun t => t.reg c D = BitVec.ofNat 64 (2 ^ 32 + id.toNat) ∧ Proceeds s t c [D] ∧
        AL.find t.acts (s.fr c).act = some { act with holdings := act.holdings ++ [⟨id, 2 ^ 40⟩] } ∧
        (t.cell c.cell).opening = (s.cell c.cell).opening ∧ (t.cell c.cell).scopes = (s.cell c.cell).scopes ∧
        { t with cells := s.cells, waits := s.waits, acts := s.acts } = s)


/-! ### Engine programs, copies and transfers at their issue (spec 11, 18) -/

/-- R249, `fork`: one program for each record, in the order vector, matrix, streamer, each with a share of the own scope's weight,
enters the store buffer as one entry; CNT_E rises by their number, and g[d] is 0. A frame whose handler has no ENGINE bit has status
4, a misaligned record 5, and no record at all 0. -/
def Claims.ForksMakePrograms : Prop :=
  ∀ (s : State) (c : Ctx) (r : Rel) (d a : RegNum) (act : Act), s.At c → c.unit = .scalar → s.checkedC c = false →
    AL.find s.acts (s.fr c).act = some act → (s.fr c).pend = none →
    let D := s.regNo c r d
    let A := s.regNo c r a
    let sc := act.naming.scope
    let recs := [(EngineUnit.vector, (s.reg c A).setWidth 48), (.matrix, (s.reg c (A + 1)).setWidth 48),
      (.streamer, (s.reg c (A + 2)).setWidth 48)].filter (fun x => x.2 != (0 : Addr))
    s.Clear c .leader [D, A, A + 1, A + 2] →
    (act.engine = false → Wrote s c (.fork r d a) D 4) ∧
    (act.engine = true → s.acqBlocked c = false →
      ((∃ x ∈ recs, x.2.toNat % 32 ≠ 0) → Wrote s c (.fork r d a) D 5) ∧
      (recs = [] → Wrote s c (.fork r d a) D 0) ∧
      (recs ≠ [] → (∀ x ∈ recs, x.2.toNat % 32 = 0) →
        (holdingOf act.holdings sc = none → Wrote s c (.fork r d a) D 2) ∧
        (∀ hd, holdingOf act.holdings sc = some hd → (s.cell c.cell).overflow = false →
          (s.notified c.cell sc = true → Wrote s c (.fork r d a) D 1) ∧
          (s.notified c.cell sc = false → needsMint recs.length hd.w 0 = false → (s.cell c.cell).sb.length < 16 →
            act.cntE + recs.length ≤ 0xFFFF →
            Happens s (.fork r d a) fun t => ∃ (shares : List Nat) (rest : Nat),
              let ids := (List.range recs.length).map (fun j => s.nextId + j)
              shares.length = recs.length ∧ (∀ w ∈ shares, 0 < w) ∧ shares.sum + rest = hd.w ∧
              AL.find t.acts (s.fr c).act = some { act with
                holdings := setHolding act.holdings sc rest, cntE := act.cntE + recs.length, forked := act.forked ++ ids } ∧
              (∀ j, ∀ hj : j < recs.length, ∃ x, AL.find t.progs (s.nextId + j) = some x ∧ x.cell = c.cell ∧ x.unit = recs[j].1 ∧
                x.record = recs[j].2 ∧ x.act = (s.fr c).act ∧ x.naming = act.naming ∧ x.w = (shares[j]?).getD 0 ∧
                x.life = .buffered ∧ x.cr.nbv = (s.fr c).cr.nbv ∧
                x.cr.rmode = (s.fr c).cr.rmode &&& ~~~(0x3F00 : Word)) ∧
              (t.cell c.cell).sb = (s.cell c.cell).sb ++
                [⟨s.nextId + recs.length, (s.fr c).act, .o, 0, c.site, .fork ids, false, 0⟩] ∧
              t.reg c D = 0 ∧ Proceeds s t c [D] ∧
              { t with cells := s.cells, waits := s.waits, acts := s.acts, progs := s.progs, nextId := s.nextId } = s))))

/-- R250, `rdv`: the programs that the frame has forked and not joined yet, but for those that have ended, stand in a join of the
cell with the continuation, a share of the weight, and the flags of the ended ones; g[d] is 0. -/
def Claims.RdvJoins : Prop :=
  ∀ (s : State) (c : Ctx) (r : Rel) (d a : RegNum) (act : Act), s.At c → c.unit = .scalar → s.checkedC c = false →
    AL.find s.acts (s.fr c).act = some act → (s.fr c).pend = none → (s.cell c.cell).joins.length < 16 →
    let D := s.regNo c r d
    let A := s.regNo c r a
    let h := s.reg c A
    let sc := act.naming.scope
    s.Clear c .leader [D, A, A + 1, A + 2, A + 3, A + 4] → s.acqBlocked c = false →
    (handlerWordOk h = false ∨ h.getLsbD 56 = true → Wrote s c (.rdv r d a) D 5) ∧
    (handlerWordOk h = true → h.getLsbD 56 = false →
      (holdingOf act.holdings sc = none → Wrote s c (.rdv r d a) D 2) ∧
      (∀ hd, holdingOf act.holdings sc = some hd → 1 < hd.w → (s.cell c.cell).overflow = false →
        (s.notified c.cell sc = true → Wrote s c (.rdv r d a) D 1) ∧
        (s.notified c.cell sc = false →
          Happens s (.rdv r d a) fun t => t.reg c D = 0 ∧ Proceeds s t c [D] ∧
            AL.find t.acts (s.fr c).act = some { act with
              holdings := setHolding act.holdings sc (hd.w - hd.w / 2), forked := [] } ∧
            (∃ j, AL.find (t.cell c.cell).joins s.nextId = some j ∧ j.handler = h ∧ j.naming = act.naming ∧ j.w = hd.w / 2 ∧
              j.words = (List.range 4).map (fun (n : Nat) => s.reg c (A + 1 + (n : Int))) ∧
              j.progs = act.forked.filter (fun p => !s.progEnded p) ∧
              ∀ k < 64, j.flags.getLsbD k =
                (act.forked.filter s.progEnded).any (fun p => (s.progFlags p).getLsbD k)) ∧
            t.progs = s.progs.filter (fun x => !(act.forked.filter s.progEnded).contains x.1) ∧
            { t with cells := s.cells, waits := s.waits, acts := s.acts, progs := s.progs, nextId := s.nextId } = s)))

/-- R254 and R260, `copy`: a block read at an address aligned to 64 that keeps R253 becomes a copy with a share of the weight, its
entry in the store buffer and a place in CNT_E, and g[d] is 2^32 plus its transfer identifier; a malformed block has status 5. In a
streamer program g[d] is written when the copy has ended. -/
def Obligations.CopiesIssue : Prop :=
  ∀ (s : State) (c : Ctx) (r : Rel) (d a : RegNum), s.At c →
    let D := s.regNo c r d
    let A := s.regNo c r a
    let va := (s.reg c A).setWidth 48
    let u := s.marked c
    s.Clear c .leader [D, A] →
    (∀ bs act, c.unit = .scalar → s.checkedC c = false → AL.find s.acts (s.fr c).act = some act → (s.fr c).pend = none →
      va.toNat % 64 = 0 → u.blockHeld c va = false → u.blockWaits c va 256 = false → u.memWait c = .none →
      (readVa (u.whoGroup c) va.toNat 256 .r).exec u = (.ok bs, u) →
      let b := copyBlockOf bs
      let sc := if b.scope = 0 then act.naming.scope else b.scope
      (copyOk bs = false → Wrote s c (.copy r d a) D 5) ∧
      (copyOk bs = true →
        (holdingOf act.holdings sc = none → Wrote s c (.copy r d a) D 2) ∧
        (∀ hd, holdingOf act.holdings sc = some hd →
          (b.sync ≠ 0 → syncSram (s.segsOf c.cell) b.sync.toNat = false → Wrote s c (.copy r d a) D 6) ∧
          (b.sync = 0 ∨ syncSram (s.segsOf c.cell) b.sync.toNat = true → (s.cell c.cell).overflow = false →
            (s.notified c.cell sc = true → Wrote s c (.copy r d a) D 1) ∧
            (s.notified c.cell sc = false → 1 < hd.w → (s.cell c.cell).sb.length < 16 → act.cntE < 0xFFFF →
              let id : BitVec 32 := BitVec.ofNat 12 c.cell ++ (s.cell c.cell).copyCtr
              Happens s (.copy r d a) fun t => t.reg c D = BitVec.ofNat 64 (2 ^ 32 + id.toNat) ∧ Proceeds s t c [D] ∧
                AL.find t.acts (s.fr c).act = some { act with
                  holdings := setHolding act.holdings sc (hd.w - hd.w / 2), cntE := act.cntE + 1 } ∧
                (∃ x, AL.find t.copies s.nextId = some x ∧ x.id = id ∧ x.cell = c.cell ∧ x.issuer = .act (s.fr c).act ∧
                  x.scope = sc ∧ x.w = hd.w / 2 ∧ x.block = b ∧ x.phase = 0 ∧ x.next = 0 ∧ x.chunks = []) ∧
                (t.cell c.cell).sb = (s.cell c.cell).sb ++
                  [⟨s.nextId + 1, (s.fr c).act, .o, 0, c.site, .copy s.nextId, false, 0⟩] ∧
                (t.cell c.cell).copyCtr = (s.cell c.cell).copyCtr + 1 ∧
                { t with cells := s.cells, waits := s.waits, acts := s.acts, copies := s.copies, nextId := s.nextId } = s))))) ∧
    (c.unit = .scalar → s.checkedC c = false → (s.fr c).pend = none → va.toNat % 64 ≠ 0 →
      Happens s (.copy r d a) fun t => Raised s t c 0x08 (va.setWidth 64) c.site.next) ∧
    (∀ x p, c.unit = .engine .streamer → AL.find s.progs (s.progId c) = some x → x.pend = some p → p.data ≠ [] → p.stage = 9 →
      (AL.find s.copies (p.sent - 1) = none → exec (.copy r d a) s = .next s) ∧
      (∀ y, AL.find s.copies (p.sent - 1) = some y → y.phase ≠ 0 → y.refusal = none →
        Wrote s c (.copy r d a) D (BitVec.ofNat 64 (2 ^ 32 + y.id.toNat))))

/-- R266, `qfence`: on a frame a marker enters each named queue once the older entries of the store buffer have left it, and g[d] is
0; in a streamer program it is done when what stood in the named queues has ended. A mask with other bits has status 5. -/
def Claims.QueueFences : Prop :=
  ∀ (s : State) (c : Ctx) (r : Rel) (d a : RegNum), s.At c →
    let D := s.regNo c r d
    let A := s.regNo c r a
    let m := s.reg c A
    s.Clear c .leader [D, A] → (c.unit = .scalar → s.checkedC c = false) →
    (bits m 63 3 ≠ 0 → Wrote s c (.qfence r d a) D 5) ∧
    (c.unit = .scalar → bits m 63 3 = 0 → m ≠ 0 → (s.marked c).olderGone c = true →
      (∀ u ∈ maskUnits m, ((s.cell c.cell).engine u).queue.length < queueSize) →
      Happens s (.qfence r d a) fun t => t.reg c D = 0 ∧ Proceeds s t c [D] ∧
        AL.find t.markers s.nextId = some ⟨c.cell, maskUnits m⟩ ∧
        (∀ u, ((t.cell c.cell).engine u).queue = ((s.cell c.cell).engine u).queue ++
          (if u ∈ maskUnits m then [.marker s.nextId] else [])) ∧
        { t with cells := s.cells, waits := s.waits, markers := s.markers, nextId := s.nextId } = s) ∧
    (c.unit = .scalar → m = 0 → Wrote s c (.qfence r d a) D 0) ∧
    (∀ x, c.unit = .engine .streamer → bits m 63 3 = 0 → AL.find s.progs (s.progId c) = some x →
      (x.mark = none → (∀ u ∈ maskUnits m, u ≠ .streamer → ((s.cell c.cell).engine u).items = []) →
        Wrote s c (.qfence r d a) D 0) ∧
      (∀ l, x.mark = some l → (∀ q ∈ l, s.qAlive c.cell q = false) → Wrote s c (.qfence r d a) D 0))

/-- R377, `nsend`, `nwrite` and `nread`: a descriptor read at an address aligned to 64 that keeps Table 18-10 and names a peer of the
field becomes a transfer of the engine with a share of the weight, and g[d] is 2^32 plus its identifier; else g[d] is a status. -/
def Claims.TransfersIssue : Prop :=
  ∀ (s : State) (c : Ctx) (r : Rel) (d a : RegNum) (i : Instr) (k : XferKind) (bs : List Byte) (act : Act),
    (i, k) ∈ [(Instr.nsend r d a, XferKind.send), (.nwrite r d a, .write), (.nread r d a, .read)] →
    s.At c → c.unit = .scalar → s.checkedC c = false → AL.find s.acts (s.fr c).act = some act → (s.fr c).pend = none →
    let D := s.regNo c r d
    let A := s.regNo c r a
    let va := (s.reg c A).setWidth 48
    let u := s.marked c
    s.Clear c .leader [D, A] → va.toNat % 64 = 0 → u.blockHeld c va = false → u.blockWaits c va 128 = false → u.memWait c = .none →
    (readVa (u.whoGroup c) va.toNat 128 .r).exec u = (.ok bs, u) →
    let x := xferDescOf bs
    let sc := if x.scope = 0 then act.naming.scope else x.scope
    (xferOk k bs = false → Wrote s c i D 5) ∧
    (xferOk k bs = true →
      (holdingOf act.holdings sc = none → Wrote s c i D 2) ∧
      (∀ hd, holdingOf act.holdings sc = some hd →
        (x.sync ≠ 0 → syncSram (s.segsOf c.cell) x.sync.toNat = false → Wrote s c i D 6) ∧
        (x.sync = 0 ∨ syncSram (s.segsOf c.cell) x.sync.toNat = true →
          (s.peerOk c.cell x.peer = false → Wrote s c i D 7) ∧
          (s.peerOk c.cell x.peer = true → (s.cell c.cell).overflow = false →
            (s.notified c.cell sc = true → Wrote s c i D 1) ∧
            (s.notified c.cell sc = false → (s.transfers.filter (fun t => t.2.cell == c.cell)).length < 16 → 1 < hd.w →
              u.olderSent c = true →
              let id : BitVec 32 := BitVec.ofNat 12 c.cell ++ (s.cell c.cell).copyCtr
              Happens s i fun t => t.reg c D = BitVec.ofNat 64 (2 ^ 32 + id.toNat) ∧ Proceeds s t c [D] ∧
                AL.find t.acts (s.fr c).act = some { act with
                  holdings := setHolding act.holdings sc (hd.w - hd.w / 2) } ∧
                (∃ y, AL.find t.transfers s.nextId = some y ∧ y.id = id ∧ y.kind = k ∧ y.cell = c.cell ∧ y.scope = sc ∧
                  y.w = hd.w / 2 ∧ y.laddr = x.laddr ∧ y.length = x.length ∧ y.mode = x.mode ∧ y.peer = x.peer ∧
                  y.roff = x.roff ∧ y.rkey = x.rkey ∧ y.tagged = x.tagged ∧ y.sync = x.sync ∧ y.chand = x.chand ∧
                  y.started = false ∧ y.sent = 0 ∧ y.acked = 0 ∧ y.inAir = 0) ∧
                (t.cell c.cell).copyCtr = (s.cell c.cell).copyCtr + 1 ∧
                { t with cells := s.cells, waits := s.waits, acts := s.acts, transfers := s.transfers,
                         nextId := s.nextId } = s)))))

/-- R380, `ncst`: window, round trip, marked fraction and trimmed count of a delivery context stand in g[d] to g[d+3]; of a context
that the field may not use, all ones and zeros. -/
def Claims.DeliveryContextsAreRead : Prop :=
  ∀ (s : State) (c : Ctx) (r : Rel) (d a : RegNum), s.At c → c.unit = .scalar → s.checkedC c = false →
    let D := s.regNo c r d
    let A := s.regNo c r a
    let v := s.reg c A
    let regs := [D, D + 1, D + 2, D + 3]
    s.Clear c .leader (regs ++ [A]) →
    let gives := fun (w : List Word) => Happens s (.ncst r d a) fun t =>
      regs.map (t.reg c) = w ∧ KeepsRegs s t c regs ∧ Completed s t c ∧ t.pcAt c = s.pcNext c none
    let x := s.deliveryOf (v.toNat % 65536)
    (bits v 63 16 ≠ 0 ∨ s.peerOk c.cell (v.toNat % 65536 / 4) = false → gives [BitVec.allOnes 64, 0, 0, 0]) ∧
    (bits v 63 16 = 0 → s.peerOk c.cell (v.toNat % 65536 / 4) = true → gives [x.cwnd, x.rtt, x.ecn.setWidth 64, x.trimmed])


/-! ### Vector instructions (spec 12) -/

/-- The vector instructions on their registers, with the registers of their shape records and what each does on its shapes. -/
def Claims.vectorInstrs (s : State) (c : Ctx) (d a b : ERegNum) : List (Instr × List Nat × List Nat × (List Shape → Option Plan)) :=
  let three := fun (i : Instr) (p : List Shape → Option Plan) =>
    (i, [d.toNat, a.toNat, b.toNat], [d.toNat, a.toNat, b.toNat], p)
  let two := fun (i : Instr) (p : List Shape → Option Plan) => (i, [d.toNat, a.toNat], [d.toNat, a.toNat], p)
  let pair := fun (i : Instr) (p : List Shape → Option Plan) =>
    (i, [d.toNat, a.toNat, a.toNat + 1], [d.toNat, a.toNat, a.toNat + 1], p)
  [three (.vadd d a b) (binaryPlan addRes), three (.vsub d a b) (binaryPlan subRes), three (.vmul d a b) (binaryPlan mulRes),
   three (.vfma d a b) (fusedPlan false), three (.vfms d a b) (fusedPlan true), three (.vdiv d a b) divPlan,
   three (.vmin d a b) (binaryPlan minRes), three (.vmax d a b) (binaryPlan maxRes),
   three (.vand d a b) (bitwisePlan (· &&& ·)), three (.vor d a b) (bitwisePlan (· ||| ·)),
   three (.vxor d a b) (bitwisePlan (· ^^^ ·)), three (.vshl d a b) (shiftPlan shiftLeft),
   three (.vshr d a b) (shiftPlan shiftRight)] ++
  [two (.vabs d a) (unaryPlan (nan1 Machine.Num.abs)), two (.vneg d a) (unaryPlan (nan1 Machine.Num.opp)), two (.vcvt d a) cvtPlan,
   (.vfill d a, [d.toNat, a.toNat], [d.toNat], fillPlan (s.reg c a.toNat).toNat), two (.vcpy d a) cpyPlan,
   two (.vexp d a) (functionPlan .exp), two (.vlog d a) (functionPlan .log), two (.vrcp d a) (functionPlan .rcp),
   two (.vrsq d a) (functionPlan .rsq), two (.vsqrt d a) (functionPlan .sqrt), two (.vtanh d a) (functionPlan .tanh),
   two (.vsig d a) (functionPlan .sig), two (.verf d a) (functionPlan .erf), two (.vsin d a) (functionPlan .sin),
   two (.vcos d a) (functionPlan .cos)] ++
  [two (.vcmpEq d a) (comparePlan (fun x y => x.eqv y)), two (.vcmpNe d a) (comparePlan (fun x y => !x.eqv y)),
   two (.vcmpLt d a) (comparePlan (fun x y => ordered x y && x.lt y)),
   two (.vcmpLe d a) (comparePlan (fun x y => ordered x y && !y.lt x)),
   two (.vcmpGt d a) (comparePlan (fun x y => ordered x y && y.lt x)),
   two (.vcmpGe d a) (comparePlan (fun x y => ordered x y && !x.lt y)),
   two (.vcmpUn d a) (comparePlan (fun x y => !ordered x y)), two (.vcmpOr d a) (comparePlan ordered),
   (.vsel d a, [d.toNat, a.toNat, a.toNat + 1, a.toNat + 2], [d.toNat, a.toNat, a.toNat + 1, a.toNat + 2], selPlan)] ++
  [two (.vredAdd d a) (redPlan .add), two (.vredMul d a) (redPlan .mul), two (.vredMin d a) (redPlan .min),
   two (.vredMax d a) (redPlan .max), two (.vredAnd d a) (redPlan .and), two (.vredOr d a) (redPlan .or),
   two (.vredXor d a) (redPlan .xor), two (.vscanAdd d a) (scaPlan .add), two (.vscanMul d a) (scaPlan .mul),
   two (.vscanMin d a) (scaPlan .min), two (.vscanMax d a) (scaPlan .max), two (.vscanAnd d a) (scaPlan .and),
   two (.vscanOr d a) (scaPlan .or), two (.vscanXor d a) (scaPlan .xor),
   pair (.vgat d a) vgatPlan, pair (.vsca d a) vscaPlan, pair (.vtop d a) vtopPlan]

/-- Some writes are made one after the other, each on behalf of `who` and followed by `done`. -/
def Claims.Written (who : State → Who) (done : State → State) : List UWrite → State → State → Prop
  | [], a, b => b = a
  | w :: t, a, b => ∃ u, (w.perform (who a)).exec a = (.ok (), u) ∧ Claims.Written who done t (done u) b

/-- The writes of a group's unit of work are made, from the state in which it has been computed. -/
def Claims.UnitWritten (c : Ctx) (ws : List UWrite) (a b : State) : Prop :=
  Claims.Written (fun u => u.whoGroup c) (fun u => u.endWait (u.req c)) ws (a.endWait (a.req c)) b

/-- R272, R274 and R276 to R279, the vector instructions: an iteration whose elements are read and written leaves the memory,
accumulators, LFSRs and flags that it makes (`VectorElements`), and hands on what a row needs; after the last one, when every write has been
performed, the program stands behind the instruction and off the scoreboards, and a single group of channel results leaves as one message. A
misaligned record traps ALIGN, a malformed one RESERVED, and a misaligned shape ALIGN. -/
def Claims.VectorUnits : Prop :=
  ∀ (s : State) (c : Ctx) (d a b : ERegNum) (i : Instr) (touched regs : List Nat) (plan : List Shape → Option Plan) (x : Prog),
    (i, touched, regs, plan) ∈ Claims.vectorInstrs s c d a b → s.At c →
    s.Clear c .no (touched.map (fun (n : Nat) => (n : Int))) →
    let p := s.progId c
    (∀ bs shs u carry m pl o s0 s1, s.VectorAt c x regs bs shs u carry m → plan shs = some pl → u < pl.units →
      (pl.run (m.venv c x) (m.cell c.cell).vlfsr carry u).exec m = (.ok o, s0) → Claims.UnitWritten c o.writes s0 s1 →
      s1.progId c = p →
      let last := decide (pl.units ≤ u + 1)
      (last = true → s1.writesDone p = true) →
      ((∀ h ∈ pl.dests, h.loc ≠ 1) → o.outs = [] →
        Happens s i fun t => UnitDone s1 t c p Flags.none last ⟨8, u + 1, none, bs, 0, [], none, 0, o.carry, [], none⟩ ∧
          (t.cell c.cell).vlfsr = (s1.cell c.cell).vlfsr ∧ (t.cell c.cell).acc = (s1.cell c.cell).acc ∧
          (last = true → ∀ f < 4, ∀ k ∈ t.score c.cell f, k / 2 ≠ p)) ∧
      (∀ h rs y, pl.dests = [h] → h.loc = 1 → o.outs = rs.map (fun v => (0, v)) → rs ≠ [] → rs.length ≤ 256 / h.bits →
        last = true → AL.find s1.progs p = some y → 1 < y.w → (s1.cell c.cell).outq.length < 16 → devOf h.dest = s1.devNum →
        Happens s i fun t =>
          AL.find t.msgs s1.nextId = some ⟨{ Msg.zero with
            dst := h.dest, words := groupWords h.bits rs, elem := BitVec.ofNat 24 (pl.made (u + 1) - rs.length),
            tag := BitVec.ofNat 4 h.tag, src := s1.gca c.cell, scope := y.naming.scope, w := y.w / 2,
            tenant := y.naming.tenant, colour := y.naming.colour, cls := h.cls, sent := BitVec.ofNat 64 s1.ns }, s1.gca c.cell⟩ ∧
          (t.cell c.cell).outq = (s1.cell c.cell).outq ++ [s1.nextId] ∧ t.mem = s1.mem ∧
          ∃ z, AL.find t.progs p = some z ∧ z.w = y.w - y.w / 2 ∧ z.pend = none ∧ z.pc = y.resume.getD c.site.next)) ∧
    (∀ bs, c.unit = .engine .vector → AL.find s.progs p = some x → x.pend = none → s.memWait c = .none →
      (∀ (pre post : List Nat) (r : Nat), regs = pre ++ r :: post → s.RecordsRead c 64 pre bs → (s.reg c (r : Int)).toNat % 64 ≠ 0 →
        Happens s i fun t => Raised (s.leaveScore c.cell p) t c 0x08 (((s.reg c (r : Int)).setWidth 48).setWidth 64) c.site.next) ∧
      (s.RecordsRead c 64 regs bs →
        let shapes := ((List.range regs.length).map (fun k => (bs.drop (64 * k)).take 64)).mapM (fun r => shapeOf r (s.channelOk c))
        (shapes = none → Happens s i fun t => Raised (s.leaveScore c.cell p) t c 0x02 0 c.site.next) ∧
        (∀ shs, shapes = some shs → plan shs = none →
          Happens s i fun t => Raised (s.leaveScore c.cell p) t c 0x02 0 c.site.next) ∧
        (∀ shs pl h, shapes = some shs → plan shs = some pl → shs.find? (fun h => !h.aligned) = some h →
          Happens s i fun t => Raised (s.leaveScore c.cell p) t c 0x08 (h.base.setWidth 64) c.site.next)))

/-- R67, R69, R269, R270, R274 and R282 to R289: what an iteration of one element reads and writes. The values at the source addresses,
decoded by their formats (or their bit patterns), give the result, which is rounded into the destination's format with at most one draw and
stored there; its flags join those of the program, and its draw those of the engine; no other byte changes. -/
def Claims.VectorElements : Prop :=
  ∀ (s : State) (v : VEnv) (d a b : Shape) (fd fa fb : Nat) (fs : AL (BitVec 16)),
    s.ElementAt (v.whoOf d) d .w fd → s.narrowPoison fd (d.bits / 8) = false → s.raceOn fd = false →
    (∀ k, ownerCell fd = some k → s.follower k = none) → s.ElementAt (v.whoOf a) a .r fa → s.ElementAt (v.whoOf b) b .r fb →
    s.cold (fd / 64) = true → s.cold (fa / 64) = true → s.cold (fb / 64) = true →
    let pat := fun (h : Shape) (f : Nat) => leNat (s.mem.bytes f (h.bits / 8))
    let num := fun (h : Shape) (f : Nat) => decodeNum h.fmt v.rd.ftz (pat h f)
    let gives := fun (r : Res) (pl : Plan) =>
      let dr := if r.rounded then v.draw fs 0 else (0, fs)
      let q := d.fmt.finish v.rd r dr.1
      pl.units = 1 ∧ ∀ carry, ∃ ws s1 t, (pl.run v fs carry 0).exec s = (.ok ⟨[], ws, []⟩, s1) ∧ s1.mem = s.mem ∧
        Claims.Written (fun _ => v.who) id ws s1 t ∧
        (∀ j, t.mem.get j = if fd ≤ j ∧ j < fd + d.bits / 8 then ((leBytes (d.bits / 8) q.1)[j - fd]?).getD 0 else s.mem.get j) ∧
        (∀ p x, v.who.issuer = .prog p → AL.find s.progs p = some x →
          AL.find t.progs p = some { x with cr := { x.cr with rmode := x.cr.rmode ||| q.2.toWord } }) ∧
        (∀ k, v.who.issuer ≠ .prog k → AL.find t.progs k = AL.find s.progs k) ∧
        (t.cell v.who.cell).vlfsr = dr.2 ∧ { t.cell v.who.cell with vlfsr := (s.cell v.who.cell).vlfsr } = s.cell v.who.cell ∧
        (∀ k, k ≠ v.who.cell → t.cell k = s.cell k) ∧
        { t with mem := s.mem, poison := s.poison, progs := s.progs, cells := s.cells } = s
    (∀ slow f, gives (f v 0 [num a fa]) (elementPlan d [a] slow f)) ∧
    (∀ slow f, gives (f v 0 [num a fa, num b fb]) (elementPlan d [a, b] slow f)) ∧
    (∀ f, gives (.raw (f v [pat a fa])) (patternPlan d [a] f)) ∧
    (∀ f, gives (.raw (f v [pat a fa, pat b fb])) (patternPlan d [a, b] f))

/-- R282, R283, R287 and R288 with Tables 12-5 to 12-7: what the element functions of the vector instructions give. A NaN operand gives the
NaN, and NV where one signals; sums, products and fused sums of finite values are exact; a quotient and a root are exact but for their one
rounding; the signs of zeros, the infinities and the invalid cases are as the tables say, and so are the cases of the special functions that
they list as exact. -/
def Claims.ElementResults : Prop :=
  (∀ (v : VEnv) (x y : Machine.Num),
    let nan := fun (r : Res) (nv : Bool) => r = .num (.nan false) { Flags.none with nv := nv }
    let inf := fun (r : Res) (neg : Bool) => r = .num (.inf neg) Flags.none
    let value := fun (r : Res) (q : ℚ) => ∃ n, r = .num n Flags.none ∧ n.finite ∧ n.toRat = q
    let zero := fun (r : Res) (neg : Bool) => ∃ n, r = .num n Flags.none ∧ n.finite ∧ n.toRat = 0 ∧ n.neg = neg
    (x.isNan = true ∨ y.isNan = true →
      ∀ r ∈ [addRes v x y, subRes v x y, mulRes v x y, divRes x y, minRes v x y, maxRes v x y], nan r (x.isSnan || y.isSnan)) ∧
    (x.finite → y.finite →
      value (addRes v x y) (x.toRat + y.toRat) ∧ value (subRes v x y) (x.toRat - y.toRat) ∧ value (mulRes v x y) (x.toRat * y.toRat) ∧
      (x.toRat + y.toRat = 0 → zero (addRes v x y) (if x.neg = y.neg then x.neg else v.rd.mode == 3)) ∧
      (x.toRat * y.toRat = 0 → zero (mulRes v x y) (x.neg != y.neg)) ∧
      (∀ z, z.finite → value (fusedRes false v.rd.mode x y z) (x.toRat * y.toRat + z.toRat) ∧
        value (fusedRes true v.rd.mode x y z) (z.toRat - x.toRat * y.toRat)) ∧
      (y.toRat ≠ 0 → x.toRat ≠ 0 → ∃ m, divRes x y = .mag (x.neg != y.neg) m Flags.none ∧ m.sticky = false ∧
        ((m.num : ℚ) / m.den) * (2 : ℚ) ^ m.exp = |x.toRat / y.toRat|) ∧
      (y.toRat ≠ 0 → x.toRat = 0 → zero (divRes x y) (x.neg != y.neg)) ∧
      (y.toRat = 0 → x.toRat = 0 → nan (divRes x y) true) ∧
      (y.toRat = 0 → x.toRat ≠ 0 → divRes x y = .num (.inf (x.neg != y.neg)) { Flags.none with dz := true })) ∧
    (∀ s, x = .inf s →
      (y.finite → inf (addRes v x y) s ∧ inf (addRes v y x) s ∧ inf (subRes v x y) s ∧ inf (divRes x y) (s != y.neg) ∧
        zero (divRes y x) (y.neg != s) ∧ (y.toRat = 0 → nan (mulRes v x y) true ∧ nan (mulRes v y x) true) ∧
        (y.toRat ≠ 0 → inf (mulRes v x y) (s != y.neg) ∧ inf (mulRes v y x) (s != y.neg))) ∧
      (∀ t, y = .inf t → inf (mulRes v x y) (s != t) ∧ nan (divRes x y) true ∧
        (s = t → inf (addRes v x y) s ∧ nan (subRes v x y) true) ∧ (s ≠ t → nan (addRes v x y) true ∧ inf (subRes v x y) s))) ∧
    (x.isNan = false → y.isNan = false →
      (∃ n, minRes v x y = .num n Flags.none ∧ (n = x ∨ n = y) ∧ x.lt n = false ∧ y.lt n = false ∧
        (x.eqv y = true → n.neg = (x.neg || y.neg))) ∧
      (∃ n, maxRes v x y = .num n Flags.none ∧ (n = x ∨ n = y) ∧ n.lt x = false ∧ n.lt y = false ∧
        (x.eqv y = true → n.neg = (x.neg && y.neg)))) ∧
    (x.isNan = true → nan (nan1 Machine.Num.abs x) x.isSnan ∧ nan (nan1 Machine.Num.opp x) x.isSnan) ∧
    (x.finite → value (nan1 Machine.Num.abs x) |x.toRat| ∧ value (nan1 Machine.Num.opp x) (-x.toRat)) ∧
    (∀ f, condRes f x y = .num (if f x y = true then .fin false 1 0 else .fin false 0 0) { Flags.none with nv := x.isSnan || y.isSnan }) ∧
    (x.finite → y.finite → (x.lt y = true ↔ x.toRat < y.toRat) ∧ (x.eqv y = true ↔ x.toRat = y.toRat)) ∧
    (x.isNan = false → (Machine.Num.inf true).lt x = decide (x ≠ .inf true) ∧ x.lt (.inf true) = false ∧
      x.lt (.inf false) = decide (x ≠ .inf false) ∧ (Machine.Num.inf false).lt x = false) ∧
    (x.isNan = true → x.eqv y = false ∧ y.eqv x = false ∧ ordered x y = false ∧ ordered y x = false) ∧
    (x.isNan = false → y.isNan = false → ordered x y = true)) ∧
  (∀ f ∈ [Fmt.int4, Fmt.int8, Fmt.uint8, Fmt.int32, Fmt.int64], ∀ x < 2 ^ f.bits, ∀ k < f.bits,
    shiftLeft f x k < 2 ^ f.bits ∧ shiftRight f x k < 2 ^ f.bits ∧
    ∀ j < f.bits, (shiftLeft f x k).testBit j = (decide (k ≤ j) && x.testBit (j - k)) ∧
      (shiftRight f x k).testBit j = (if j + k < f.bits then x.testBit (j + k) else f.intSigned == some true && x.testBit (f.bits - 1))) ∧
  (∀ (sat : Bool) (n k : Nat),
    let gives := fun (f : Special) (x y : Machine.Num) => f.apply x sat n k = .num y Flags.none
    let invalid := fun (f : Special) (x : Machine.Num) => f.apply x sat n k = .num (.nan false) Flags.invalid
    (∀ (f : Special) (sg : Bool), f.apply (.nan sg) sat n k = .num (.nan false) { Flags.none with nv := sg }) ∧
    (∀ (s : Bool) (e : Int), let z := Machine.Num.fin s 0 e
      gives .exp z .one ∧ gives .log z (.inf true) ∧ gives .sqrt z z ∧ gives .tanh z z ∧ gives .sig z (.fin false 1 (-1)) ∧
      gives .erf z z ∧ gives .sin z z ∧ gives .cos z .one ∧
      ∀ f ∈ [Special.rcp, .rsq], f.apply z sat n k = .num (.inf s) { Flags.none with dz := true }) ∧
    (∀ (s : Bool), let z := Machine.Num.inf s
      gives .exp z (if s then .zero else .inf false) ∧ gives .rcp z (.fin s 0 0) ∧ gives .tanh z (.fin s 1 0) ∧
      gives .sig z (if s then .zero else .one) ∧ gives .erf z (.fin s 1 0) ∧ invalid .sin z ∧ invalid .cos z) ∧
    gives .log (.inf false) (.inf false) ∧ gives .rsq (.inf false) .zero ∧ gives .sqrt (.inf false) (.inf false) ∧
    (∀ f ∈ [Special.log, .rsq, .sqrt], invalid f (.inf true) ∧ ∀ (m : Nat) (e : Int), m ≠ 0 → invalid f (.fin true m e)) ∧
    (∀ (m : Nat) (e : Int), (m : ℚ) * (2 : ℚ) ^ e = 1 → gives .log (.fin false m e) .zero) ∧
    (∀ (s : Bool) (m : Nat) (e : Int), m ≠ 0 → ∃ g, Special.rcp.apply (.fin s m e) sat n k = .mag s g Flags.none ∧ g.sticky = false ∧
      ((g.num : ℚ) / g.den) * (2 : ℚ) ^ g.exp = 1 / ((m : ℚ) * (2 : ℚ) ^ e)) ∧
    (∀ (m : Nat) (e : Int), m ≠ 0 → ∃ g, Special.sqrt.apply (.fin false m e) sat n k = .mag false g Flags.none ∧ g.den = 1 ∧ 2 ^ 100 ≤ g.num ∧
      let u := (2 : ℚ) ^ g.exp
      (g.num * u) ^ 2 ≤ (m : ℚ) * (2 : ℚ) ^ e ∧ (m : ℚ) * (2 : ℚ) ^ e < ((g.num + 1) * u) ^ 2 ∧
      (g.sticky = false ↔ (g.num * u) ^ 2 = (m : ℚ) * (2 : ℚ) ^ e)))

/-- The value that a tree over the lanes from `l` on gives, in `k` levels: the lane of the right half joins where it holds an element (R76). -/
def Claims.treeOf (f : Machine.Num → Machine.Num → Machine.Num) (xs : List Machine.Num) : Nat → Nat → Machine.Num
  | 0, l => (xs[l]?).getD .zero
  | k + 1, l => if l + 2 ^ k < xs.length then f (Claims.treeOf f xs k l) (Claims.treeOf f xs k (l + 2 ^ k)) else Claims.treeOf f xs k l

/-- R76, R77 and R290 to R293, in a mode without draws: a reduction under NBV 2 goes by a tree over each 64 lanes and then from chunk to
chunk, under NBV 1 from element to element; a scan gives the value after each element; integers are exact; a row's elements rank by
value, then by place; a gather takes the element that its index names, or zero bits, and a scatter writes the element where its index
says, or nothing. -/
def Claims.RowResults : Prop :=
  (∀ (v : VEnv) (op : RedOp) (x : Machine.Num) (xs : List Machine.Num) (r : RedRun), v.rd.mode < 4 →
    let f := fun (x y : Machine.Num) => (op.fp32 v.rd x y 0).1
    ((x :: xs).length ≤ 64 → (treeChunk v op (x :: xs) r).1 = Claims.treeOf f (x :: xs) 6 0) ∧
    (v.nbv = 1 → (reduceFloat v op (x :: xs) r).1 = xs.foldl f x) ∧
    (v.nbv = 2 → (reduceFloat v op (x :: xs) r).1 =
      let part := fun (k : Nat) => Claims.treeOf f (((x :: xs).drop (64 * k)).take 64) 6 0
      (List.range ((xs.length) / 64)).foldl (fun acc k => f acc (part (k + 1))) (part 0)) ∧
    (∀ d acc, (scanFloat v op d (x :: xs).length 0 acc (x :: xs) r []).1 = (List.range (x :: xs).length).map (fun k =>
      let y := (xs.take k).foldl f x
      (d.finish v.rd (if y.isNan then .num (.nan false) Flags.none else .num y Flags.none) 0).1))) ∧
  (∀ (v : VEnv) (op : RedOp) (d a : Shape) (z acc : Int) (zs : List Int) (r : RedRun), v.rd.mode < 4 →
    let f := op.int (a.fmt.intSigned == some true) a.bits
    (scanInt v op d a (z :: zs).length 0 acc (z :: zs) r []).1 = (List.range (z :: zs).length).map (fun k =>
      (d.finish v.rd (.num (.ofInt ((zs.take k).foldl f z)) Flags.none) 0).1)) ∧
  (∀ (sg : Bool) (w : Nat) (x y : Int), RedOp.int .add sg w x y = x + y ∧ RedOp.int .mul sg w x y = x * y ∧
    RedOp.int .min sg w x y = min x y ∧ RedOp.int .max sg w x y = max x y) ∧
  (∀ (w x y : Nat), 0 < w → x < 2 ^ w → y < 2 ^ w → ∀ sg : Bool,
    let int := fun (b : Nat) => if sg then signedNat w b else (b : Int)
    RedOp.int .and sg w (int x) (int y) = int (x &&& y) ∧ RedOp.int .or sg w (int x) (int y) = int (x ||| y) ∧
      RedOp.int .xor sg w (int x) (int y) = int (x ^^^ y)) ∧
  (∀ (v : VEnv) (a : Shape) (k : Nat) (row : List Nat),
    let l := topOf v a row.length row
    l.Perm ((row.map (decodeNum a.fmt v.rd.ftz)).zipIdx) ∧ l.Pairwise (fun x y => ranksBefore x y = true) ∧ topOf v a k row = l.take k) ∧
  (∀ (x y : Machine.Num) (j k : Nat), ranksBefore (x, j) (y, k) = true ↔
    (x.isNan = false ∧ y.isNan = true) ∨ (x.isNan = true ∧ y.isNan = true ∧ j < k) ∨
      (x.isNan = false ∧ y.isNan = false ∧ (y.lt x = true ∨ (x.lt y = false ∧ j < k)))) ∧
  (∀ (s : State) (v : VEnv) (d a a1 : Shape) (fs : AL (BitVec 16)) (ib b : Nat), d.loc = 0 → d.count = 1 →
    let i := indexOf a1 ib
    (readOld v a1 (d.same a1) 0).exec s = (.ok ib, s) →
      (0 ≤ i → i < a.count → (readOld v a false i.toNat).exec s = (.ok b, s) →
        ∃ t, ((gatherPlan d a a1).run v fs [] 0).exec s = (.ok ⟨[], d.writeOf 0 b, []⟩, t) ∧ t.mem = s.mem) ∧
      (i < 0 ∨ a.count ≤ i →
        ∃ t, ((gatherPlan d a a1).run v fs [] 0).exec s = (.ok ⟨[], d.writeOf 0 0, []⟩, t) ∧ t.mem = s.mem)) ∧
  (∀ (s : State) (v : VEnv) (d a a1 : Shape) (fs : AL (BitVec 16)) (ib b : Nat), d.loc = 0 → a.count = 1 →
    let i := indexOf a1 ib
    (readBits v a1 0).exec s = (.ok ib, s) → (readBits v a 0).exec s = (.ok b, s) →
      (0 ≤ i → i < d.count → a.meets d i.toNat = false → a1.meets d i.toNat = false →
        ∃ t, ((scatterPlan d a a1).run v fs [] 0).exec s = (.ok ⟨[], d.writeOf i.toNat b, []⟩, t) ∧ t.mem = s.mem) ∧
      (i < 0 ∨ d.count ≤ i →
        ∃ t, ((scatterPlan d a a1).run v fs [] 0).exec s = (.ok ⟨[], [], []⟩, t) ∧ t.mem = s.mem))

/-- R66 and R70 to R72: the sum and the product of two finite values are exact, their order is that of the numbers, and a finite
value of a floating format of Table 3-2 rounds to itself, in every mode, without a flag. -/
def Obligations.ArithmeticIsExact : Prop :=
  (∀ (m : Nat) (x y : Machine.Num), x.finite → y.finite →
    ((Machine.Num.add m x y).1).finite ∧ ((Machine.Num.add m x y).1).toRat = x.toRat + y.toRat ∧ (Machine.Num.add m x y).2 = false ∧
    ((Machine.Num.mul x y).1).finite ∧ ((Machine.Num.mul x y).1).toRat = x.toRat * y.toRat ∧ (Machine.Num.mul x y).2 = false ∧
    (x.lt y = true ↔ x.toRat < y.toRat) ∧ (x.eqv y = true ↔ x.toRat = y.toRat)) ∧
  (∀ (v : Int), (Machine.Num.ofInt v).finite ∧ (Machine.Num.ofInt v).toRat = (v : ℚ)) ∧
  (∀ f ∈ [Fmt.fp32, Fmt.fp16, Fmt.bf16, Fmt.e4m3, Fmt.e5m2], ∀ b < 2 ^ f.bits, (decodeNum f false b).finite →
    ∀ mode sat draw, mode ≤ 4 → draw < 2 ^ 16 → f.ofNum ⟨mode, false, sat⟩ (decodeNum f false b) draw = (b, Flags.none)) ∧
  (∀ f ∈ [Fmt.int4, Fmt.int8, Fmt.uint8, Fmt.int32, Fmt.int64], ∀ b < 2 ^ f.bits,
    ∀ mode sat draw, mode ≤ 4 → draw < 2 ^ 16 → f.ofNum ⟨mode, false, sat⟩ (decodeNum f false b) draw = (b, Flags.none))

/-! ### Matrix instructions (spec 13) -/

/-- R246, `eend`: the program issues nothing more; all else stays. -/
def Claims.EngineProgramsEnd : Prop :=
  ∀ (s : State) (c : Ctx) (x : Prog), s.At c → c.unit ≠ .scalar → s.Clear c .no [] → AL.find s.progs (s.progId c) = some x →
    ∀ i ∈ [Instr.eend, Instr.eendPage4], exec i s = .next { s with
      progs := AL.put s.progs (s.progId c) { x with life := .ending, pend := none, resume := none } }

/-- R309, R315 and R74, `mzero` and `macc` on free fragments: the selected fragments are cleared; every container that is set in the
source is added to the destination's at the smaller exponent of the two, clamped to 40 bits, and a clear bit empties the source. -/
def Claims.AccumulatorsAdd : Prop :=
  ∀ (s : State) (c : Ctx) (a b : ERegNum) (x : Prog), s.At c → c.unit = .engine .matrix →
    AL.find s.progs (s.progId c) = some x → x.pend = none → s.memWait c = .none → (∀ f < 4, s.score c.cell f = []) →
    let p := s.progId c
    let va := s.reg c a.toNat
    let vb := s.reg c b.toNat
    let rest := Pending.zero
    (s.Clear c .no [(a.toNat : Int)] →
      (bits va 63 4 ≠ 0 → Happens s (.mzero a) fun t => Raised (s.leaveScore c.cell p) t c 0x02 0 c.site.next) ∧
      (bits va 63 4 = 0 → Happens s (.mzero a) fun t => UnitDone s t c p Flags.none true rest ∧
        ∀ f < 4, ∀ k < 2048, t.accAt c.cell f k = if va.getLsbD f then accUnset else s.accAt c.cell f k)) ∧
    (s.Clear c .no [(a.toNat : Int), (b.toNat : Int)] →
      (bits va 63 2 ≠ 0 ∨ bits vb 63 9 ≠ 0 ∨ bits vb 7 2 ≠ 0 → Happens s (.macc a b) fun t =>
        Raised (s.leaveScore c.cell p) t c 0x02 0 c.site.next) ∧
      (bits va 63 2 = 0 → bits vb 63 9 = 0 → bits vb 7 2 = 0 →
        let d := bits va 1 0
        let f := bits vb 1 0
        Happens s (.macc a b) fun t => (∃ fl, UnitDone s t c p fl true rest) ∧
          (vb.getLsbD 8 = true → ∀ k < 2048, t.accAt c.cell f k = accUnset) ∧
          (∀ g < 4, g ≠ d → g ≠ f → ∀ k < 2048, t.accAt c.cell g k = s.accAt c.cell g k) ∧
          (vb.getLsbD 8 = false → f ≠ d → ∀ k < 2048, t.accAt c.cell f k = s.accAt c.cell f k) ∧
          (vb.getLsbD 8 = false ∨ f ≠ d → ∀ k < 2048,
            (accX (s.accAt c.cell f k) = none → t.accAt c.cell d k = s.accAt c.cell d k) ∧
            (∀ e, accX (s.accAt c.cell f k) = some e →
              let old := accX (s.accAt c.cell d k)
              let m := match old with | some g => min e g | none => e
              let base := match old with
                | some g => (clamp40 (accV (s.accAt c.cell d k) * 2 ^ (g - m).toNat)).1
                | none => 0
              accX (t.accAt c.cell d k) = some m ∧
              accV (t.accAt c.cell d k) = (clamp40 (base + accV (s.accAt c.cell f k) * 2 ^ (e - m).toNat)).1))))

/-- R308, `mscl`: part `u` of 64 entries moves from memory into scale memory, or from scale memory to memory; after the last part, when every
write has been performed, the program stands behind the instruction. A program of a cancelled scope ends before the part (R306). -/
def Claims.ScalesMove : Prop :=
  ∀ (s : State) (c : Ctx) (a b : ERegNum) (x : Prog) (q : Pending), s.At c → c.unit = .engine .matrix →
    s.Clear c .no [(a.toNat : Int), (b.toNat : Int)] → AL.find s.progs (s.progId c) = some x → s.memWait c = .none →
    q = x.pend.getD Pending.zero → q.stage = 0 ∨ q.stage = 8 → q.writes = [] → q.err = none →
    let p := s.progId c
    let b0 := s.checked c.cell x.naming.scope
    let v := s.reg c a.toNat
    let va := (s.reg c b.toNat).setWidth 48
    let off := bits v 12 0
    let n := bits v 28 16
    let wrong := bits v 15 13 ≠ 0 ∨ bits v 30 29 ≠ 0 ∨ bits v 63 32 ≠ 0 ∨ off % 2 = 1 ∨ n = 0 ∨ 8192 < off + 2 * n
    let lo := 64 * q.sent
    let k := min 64 (n - lo)
    let last := decide ((n + 63) / 64 ≤ q.sent + 1)
    let place := fun (j : Nat) => (va.toNat + 2 * (lo + j)) % 2 ^ 48
    let rest := { q with stage := 8, sent := q.sent + 1 }
    (wrong → Happens s (.mscl a b) fun t => Raised (s.leaveScore c.cell p) t c 0x02 0 c.site.next) ∧
    (¬ wrong → va.toNat % 2 = 1 → Happens s (.mscl a b) fun t =>
      Raised (s.leaveScore c.cell p) t c 0x08 (va.setWidth 64) c.site.next) ∧
    (¬ wrong → va.toNat % 2 = 0 → lo < n → s.mayCheck c.cell x.naming.scope = true → s.cancelledAt c.cell x.naming.scope = true →
      Happens s (.mscl a b) fun t => t.mem = s.mem ∧ (t.cell c.cell).scales = (s.cell c.cell).scales ∧
        ∃ z, AL.find t.progs p = some z ∧ z.life = .ending ∧ z.pend = none) ∧
    (¬ wrong → va.toNat % 2 = 0 → lo < n → s.Uncancelled c x →
      (∀ bs s1, v.getLsbD 31 = false → (readVa (b0.whoGroup c) (place 0) (2 * k) .r).exec b0 = (.ok bs, s1) → s1.progId c = p →
        (last = true → s1.writesDone p = true) →
        Happens s (.mscl a b) fun t => UnitDone s1 t c p Flags.none last rest ∧
          ∀ j, t.sclAt c.cell (2 * j) = if off + 2 * lo ≤ 2 * j ∧ 2 * j < off + 2 * lo + 2 * k then
              signedNat 16 (leNat ((bs.drop (2 * j - (off + 2 * lo))).take 2))
            else s1.sclAt c.cell (2 * j)) ∧
      (∀ s1, v.getLsbD 31 = true →
        Claims.UnitWritten c ((List.range k).map (fun j =>
          .mem (place j : Nat) (leBytes 2 (intBits 16 (s.sclAt c.cell (off + 2 * lo + 2 * j)))) none .o)) b0 s1 → s1.progId c = p →
        (last = true → s1.writesDone p = true) →
        Happens s (.mscl a b) fun t => UnitDone s1 t c p Flags.none last rest ∧
          (t.cell c.cell).scales = (s1.cell c.cell).scales))

/-- R307, `mplane`: a row (or a column of a B tile) is read and converted; the doubleword of each plane slot, of which bit k is that bit of
element k, is written, with the last row the outlier list of an ES4 tile; its block exponents enter scale memory and its flags those of the
program; after the last row the program stands behind the instruction. -/
def Claims.TileRowsMove : Prop :=
  ∀ (s : State) (c : Ctx) (a b : ERegNum) (x : Prog) (q : Pending) (m m1 m2 s1 : State) (j : PlaneJob) (r : PlaneRow), s.At c →
    s.Clear c .no [(a.toNat : Int), (b.toNat : Int)] → s.MatrixAt c x [a.toNat, b.toNat] q m →
    mplaneCheck x (s.segsOf c.cell) q.data = .ok j → q.sent < j.d.outers →
    (if q.sent = 0 then j.listFits (m.venv c x) else pure ()).exec m = (.ok (), m1) →
    (j.load (m.venv c x) q.sent).exec m1 = (.ok r, m2) →
    let p := s.progId c
    let raised := m2.modProg p (fun y => { y with cr := { y.cr with rmode := y.cr.rmode ||| r.flags.toWord } })
    let s0 := j.unlatch c.cell (j.entries c.cell q.sent r raised)
    let size := if j.d.b then 512 else 256
    let at_ := fun (a : Nat) (bs : List Byte) => UWrite.mem (a % 2 ^ 48 : Nat) bs none j.d.cls
    let outs := q.ids ++ r.outs.map (fun o => outlierEntry o.1 q.sent o.2)
    Claims.UnitWritten c
      ((List.range j.f.p).map (fun k => at_ (j.d.base.toNat + size * k + 8 * q.sent) (leBytes 8 (planeWord r.q k))) ++
        (if q.sent + 1 = j.d.outers ∧ j.d.olist ≠ 0 then
          at_ j.d.olist.toNat (leBytes 8 outs.length) ::
            outs.zipIdx.map (fun e => at_ (j.d.olist.toNat + 8 + 4 * e.2) (leBytes 4 e.1))
        else [])) s0 s1 →
    s1.progId c = p → (q.sent + 1 = j.d.outers → s1.writesDone p = true) →
    Happens s (.mplane a b) fun t =>
      UnitDone s1 t c p Flags.none (decide (j.d.outers ≤ q.sent + 1)) { q with stage := 8, sent := q.sent + 1, ids := outs } ∧
      (t.cell c.cell).acc = (s1.cell c.cell).acc ∧ (t.cell c.cell).scales = (s1.cell c.cell).scales ∧
      (j.f.scaled = true → ∀ k < 4, s0.sclAt c.cell (j.off + 8 * q.sent + 2 * k) =
        if r.u.length ≤ k then m2.sclAt c.cell (j.off + 8 * q.sent + 2 * k) else (BitVec.ofInt 16 ((r.u[k]?).getD 0)).toInt)

/-- R67, R75 and R314, `mst`: a row of the fragment is rounded into the result format, each container V at X as V × 2^(X + ADJ) with one draw
under mode 4, and written where the destination's strides say; its flags join the program's. After the last row, when every write has been
performed, CLR clears the fragment. -/
def Claims.TileRowsAreStored : Prop :=
  (∀ (s : State) (c : Ctx) (a b : ERegNum) (x : Prog) (q : Pending) (m s1 : State) (j : StoreJob), s.At c →
    s.Clear c .no [(a.toNat : Int), (b.toNat : Int)] → s.MatrixAt c x [a.toNat] q m →
    mstCheck x (s.segsOf c.cell) q.data (s.reg c b.toNat) = .ok j → q.stage = 8 → q.sent < 32 →
    let p := s.progId c
    let row := j.row (m.venv c x) m q.sent
    let raised := m.modProg p (fun y => { y with cr := { y.cr with rmode := y.cr.rmode ||| row.2.1.toWord } })
    let s0 := raised.modCell c.cell (fun y => { y with mlfsr := row.2.2 })
    Claims.UnitWritten c (row.1.flatMap (fun e => j.shape.writeOf e.1 e.2)) s0 s1 →
    selfMeet (j.fmt.bits / 8) (row.1.map (fun e => (elemPlace j.d.base (j.shape.index e.1) j.fmt.bits).1)) = false ∨ j.fmt.bits = 4 →
    s1.progId c = p → (q.sent = 31 → s1.writesDone p = true) →
    Happens s (.mst a b) fun t =>
      UnitDone s1 t c p Flags.none (decide (q.sent = 31)) { q with stage := 8, sent := q.sent + 1 } ∧
      (t.cell c.cell).mlfsr = (s1.cell c.cell).mlfsr ∧
      ∀ f < 4, ∀ k < 2048, t.accAt c.cell f k = if q.sent = 31 ∧ j.clr = true ∧ f = j.frag then accUnset
        else s1.accAt c.cell f k) ∧
  (∀ (j : StoreJob) (v : VEnv) (s : State) (r : Nat), r < 32 →
    let w := fun (k : Nat) => s.accAt v.who.cell j.frag (64 * r + k)
    (∀ k, (j.value (w k)).finite ∧ (j.value (w k)).toRat = (accV (w k) : ℚ) * (2 : ℚ) ^ ((accX (w k)).getD 0 + j.adj)) ∧
    (v.rd.mode < 4 → (j.row v s r).1 = (List.range 64).map (fun k => (64 * r + k, (j.fmt.ofNum v.rd (j.value (w k)) 0).1)) ∧
      (j.row v s r).2.1 = (List.range 64).foldl (fun f k => f.or (j.fmt.ofNum v.rd (j.value (w k)) 0).2) Flags.none ∧
      (j.row v s r).2.2 = (s.cell v.who.cell).mlfsr) ∧
    (v.rd.mode = 4 →
      let d := fun (k : Nat) => lfsrStep (AL.get 0 (s.cell v.who.cell).mlfsr k)
      (j.row v s r).1 = (List.range 64).map (fun k => (64 * r + k, (j.fmt.ofNum v.rd (j.value (w k)) (d k).toNat).1)) ∧
      ∀ k < 64, AL.find (j.row v s r).2.2 k = some (d k)) ∧
    ∀ k < 64, ∀ e, 8 ≤ j.fmt.bits → j.shape.writeOf (64 * r + k) e =
      [.mem (j.d.base.toNat + (k * j.d.cstr + r * j.d.rstr) * (j.fmt.bits / 8 : Nat)) (leBytes (j.fmt.bits / 8) e) none j.d.cls])

/-- R306 and R310 to R312, `mmul` and `mgang`: with its operands read, a tile operation makes its passes and side additions one by one on the
containers of its fragment (`PassesAdd`); a gang's members arrive at the join of their strip first, and go on behind the passes of the gang. A
program of a cancelled scope ends before the next pass and leaves the fragment as it is. -/
def Claims.TileOperations : Prop :=
  ∀ (s : State) (c : Ctx) (a b : ERegNum) (x : Prog), s.At c → c.unit = .engine .matrix →
    s.Clear c .no [(a.toNat : Int), (b.toNat : Int)] → AL.find s.progs (s.progId c) = some x → s.memWait c = .none →
    let p := s.progId c
    let made := fun (t : State) (r : State) => (∀ f < 4, ∀ k < 2048, t.accAt c.cell f k = r.accAt c.cell f k)
    (∀ q m, x.pend = some q → q.data.length = 64 → q.mat = some m → q.stage = 8 → q.err = none → q.sent < m.units →
      ∀ i, i = .mmul a b ∨ (i = .mgang a b ∧ 0 < q.sent) →
        let b0 := (s.setPend c q).checked c.cell x.naming.scope
        let r := m.unit c.cell q.sent b0
        let last := decide (m.units ≤ q.sent + 1)
        (s.Uncancelled c x → (last = true → s.writesDone p = true) →
          Happens s i fun t => made t r.1 ∧ UnitDone b0 t c p (asFlag r.2) last { q with stage := 8, sent := q.sent + 1 }) ∧
        (s.mayCheck c.cell x.naming.scope = true → s.cancelledAt c.cell x.naming.scope = true →
          Happens s i fun t => made t s ∧ t.mem = s.mem ∧
            ∃ z, AL.find t.progs p = some z ∧ z.life = .ending ∧ z.pend = none)) ∧
    (∀ bs j m l, x.pend = none → (∀ f < 4, s.score c.cell f = []) → s.RecordsRead c 32 [a.toNat, b.toNat] bs →
      let u := ((s.endWait (s.req c)).setPend c { Pending.zero with data := bs }).reachScore c.cell p [j.a.frag]
      (j.read u c.cell x (u.whoGroup c)).exec u = (.ok (some (m, l)), u) → m.frag = j.a.frag → 0 < m.units →
      (tileCheck x (s.segsOf c.cell) bs (fun _ => true) = .ok j → s.Uncancelled c x → (m.units ≤ 1 → s.writesDone p = true) →
        Happens s (.mmul a b) fun t => made t (m.unit c.cell 0 s).1 ∧ (t.cell c.cell).latch = some l ∧
          UnitDone (s.checked c.cell x.naming.scope) t c p (asFlag (m.unit c.cell 0 s).2) (decide (m.units ≤ 1))
            ⟨8, 1, none, bs, 0, [], some m, 0, [], [], none⟩) ∧
      (tileCheck x (s.segsOf c.cell) bs (fun d => d.srccol == colOf c.cell) = .ok j →
        (s.gang (s.segmentOf c.cell)).running = false →
        Happens s (.mgang a b) fun t => t.mem = s.mem ∧ (t.cell c.cell).latch = some l ∧
          (t.gang (s.segmentOf c.cell)).arrived = (s.gang (s.segmentOf c.cell)).arrived ++ [(c.cell, false)] ∧
          ∃ z, AL.find t.progs p = some z ∧ z.pend = some ⟨11, 0, none, bs, 0, [], some m, 0, [], [], none⟩ ∧ z.pc = x.pc))

/-- Only the containers of one fragment of one cell may change, each in its own way: its X and its V, by row and column. -/
def Claims.Contains (s t : State) (cell frag : Nat) (f : Nat → Nat → Word → Option Int × Int) : Prop :=
  (∀ r < 32, ∀ c < 64, let w := s.accAt cell frag (64 * r + c)
    (accX (t.accAt cell frag (64 * r + c)), accV (t.accAt cell frag (64 * r + c))) = f r c w) ∧
  (∀ g < 4, g ≠ frag → ∀ k < 2048, t.accAt cell g k = s.accAt cell g k) ∧
  (∀ k, k ≠ cell → t.cell k = s.cell k) ∧ { t.cell cell with acc := (s.cell cell).acc } = s.cell cell ∧ { t with cells := s.cells } = s

/-- R74, R302 and R310: what the units of a tile operation do to the containers of its fragment, and to nothing else. The first aligns each
with the exponents of its blocks; pass (i, j) adds the weight 2^(i + j + offsets), negative where one slot of the two is a sign, times the
common bits of slot i of its row and slot j of its column in each block at that block's exponent; an outlier adds its value times the integer
of the other operand. Every sum is clamped to 40 bits. -/
def Claims.PassesAdd : Prop :=
  ∀ (s : State) (m : MatRun) (cell : Nat), m.frag < 4 →
    let exps := fun (r c : Nat) => (List.range 4).map (m.t r c)
    let unitOf := fun (r c : Nat) (w : Word) (k : Nat) => (2 : Int) ^ (m.t r c (k / 16) - (accX w).getD 0).toNat
    (∀ r c, (∀ e ∈ exps r c, -(2 ^ 15) < e ∧ e < 2 ^ 15)) →
    Claims.Contains s (m.align cell s).1 cell m.frag (fun r c w =>
      let least := (exps r c).foldl min (m.t r c 0)
      match accX w with
      | none => (some least, 0)
      | some e => (some (min e least), if least < e then (clamp40 (accV w * 2 ^ (e - least).toNat)).1 else accV w)) ∧
    (∀ i j, Claims.Contains s (m.pass cell i j s).1 cell m.frag (fun r c w =>
      let weight := (if (i + 1 = m.pa) ↔ (j + 1 = m.pb) then 1 else -1) * (2 : Int) ^ (i + m.oa + j + m.ob)
      let both := slotWord m.aBytes 256 i r &&& slotWord m.bBytes 512 j c
      (accX w, (clamp40 (accV w + weight * ((List.range 64).map (fun k => if both.testBit k then unitOf r c w k else 0)).sum)).1))) ∧
    (∀ e : BitVec 32,
      let value := signedNat 20 (e.toNat / 4096)
      let k := e.toNat % 64
      let y := e.toNat / 64 % 64
      Claims.Contains s (m.sideA cell e s).1 cell m.frag (fun r c w =>
        (accX w, if r = y then (clamp40 (accV w + value * planeInt m.bBytes 512 m.pb m.ob c k * unitOf r c w k)).1 else accV w)) ∧
      Claims.Contains s (m.sideB cell e s).1 cell m.frag (fun r c w =>
        (accX w, if c = y then (clamp40 (accV w + planeInt m.aBytes 256 m.pa m.oa r k * value * unitOf r c w k)).1 else accV w))) ∧
    (∀ u, m.unit cell u s =
      let n := m.pa * m.pb
      if u < n then
        let q := if u = 0 then m.align cell s else (s, false)
        ((m.pass cell (u / m.pb) (u % m.pb) q.1).1, q.2 || (m.pass cell (u / m.pb) (u % m.pb) q.1).2)
      else (m.alist[u - n]?.map (fun e => m.sideA cell e s)).getD
        ((m.blist[u - n - m.alist.length]?.map (fun e => m.sideB cell e s)).getD (s, false)))

/-- R73, R74 and R307: the planes of a row of integers that fit in them hold these integers, element by element. -/
def Claims.PlanesHoldIntegers : Prop :=
  ∀ (q : List Int) (bs : List Byte) (size p off y : Nat), 0 < p → p ≤ 32 → q.length = 64 →
    (∀ v ∈ q, -(2 ^ (p - 1)) ≤ v ∧ v < 2 ^ (p - 1)) →
    (∀ k < p, (bs.drop (size * k + 8 * y)).take 8 = leBytes 8 (planeWord q k)) →
    ∀ k, ∀ h : k < q.length, planeInt bs size p off y k = q[k] * 2 ^ off

/-- R74 and R310: the passes over all pairs of plane slots, each weighted by the place values of its slots and counting the bits that
both planes have, sum to the inner product of the integers that the planes hold. -/
def Claims.PassesMultiply : Prop :=
  ∀ (as bs : List Byte) (pa pb oa ob r c : Nat), 0 < pa → 0 < pb →
    let pop := fun (w : Nat) => (List.range 64).foldl (fun n k => n + w / 2 ^ k % 2) 0
    let weight := fun (i j : Nat) => (if (i + 1 == pa) != (j + 1 == pb) then -1 else 1) * (2 : Int) ^ (i + oa + j + ob)
    ((List.range pa).map (fun i => ((List.range pb).map (fun j =>
        weight i j * (pop (slotWord as 256 i r &&& slotWord bs 512 j c) : Int))).sum)).sum =
      ((List.range 64).map (fun k => planeInt as 256 pa oa r k * planeInt bs 512 pb ob c k)).sum


/-! ### Trace cores (spec 19) -/

/-- R392, the Gorivo instructions that compute, move, count and branch: one register or counter of the core changes and its PC goes
on by one, or by the offset of a branch that is taken; all else stays. A STATE write that came in its cycle waits for the end of the
record (R390, R395). -/
def Claims.GorivoComputes : Prop :=
  ∀ (s : State) (k : Nat) (d a b : BitVec 4) (n imm o18 : BitVec 18) (o : BitVec 14), s.cur = .trace k → (s.trace k).verdict = .none →
    let t := s.trace k
    let reg := fun (x : BitVec 4) => Regs.get t.f x.toNat
    let ends := fun (i : Instr) (t' : TraceCore) => exec i s = .next { s with
      cur := .none, traces := AL.put s.traces k { t' with
        late := match t.request with | some v => some v | none => t.late, request := none } }
    let sets := fun (i : Instr) (v : Word) => ends i { t with f := Regs.set t.f d.toNat v, pc := t.pc + 1 }
    let counts := fun (i : Instr) (v : Word) => ends i { t with counters := Regs.set t.counters n.toNat v, pc := t.pc + 1 }
    let jumps := fun (i : Instr) (q : Prop) (off : Nat) =>
      (q → ends i { t with pc := t.pc + off }) ∧ (¬ q → ends i { t with pc := t.pc + 1 })
    (n.toNat < 4 → sets (.gorivoLdr d n) ([t.record.w0, t.record.w1, t.record.w2, t.record.w3][n.toNat]?.getD 0)) ∧
    sets (.gorivoLdi d imm) (imm.signExtend 64) ∧ sets (.gorivoLdh d imm) ((reg d <<< 18) ||| imm.setWidth 64) ∧
    sets (.gorivoAdd d a b) (reg a + reg b) ∧ sets (.gorivoSub d a b) (reg a - reg b) ∧
    sets (.gorivoAnd d a b) (reg a &&& reg b) ∧ sets (.gorivoOr d a b) (reg a ||| reg b) ∧
    sets (.gorivoXor d a b) (reg a ^^^ reg b) ∧ sets (.gorivoShli d a n) (reg a <<< n.toNat) ∧
    sets (.gorivoShri d a n) (reg a >>> n.toNat) ∧ sets (.gorivoAndi d a imm) (reg a &&& imm.setWidth 64) ∧
    counts (.gorivoCadd a n) (Regs.get t.counters n.toNat + reg a) ∧ counts (.gorivoCset a n) (reg a) ∧
    sets (.gorivoCrd d n) (Regs.get t.counters n.toNat) ∧
    jumps (.gorivoBeq a b o) (reg a = reg b) o.toNat ∧ jumps (.gorivoBne a b o) (reg a ≠ reg b) o.toNat ∧
    jumps (.gorivoBltu a b o) ((reg a).toNat < (reg b).toNat) o.toNat ∧
    jumps (.gorivoBgeu a b o) ((reg b).toNat ≤ (reg a).toNat) o.toNat ∧ ends (.gorivoBr o18) { t with pc := t.pc + o18.toNat }

/-- R391, R394, R395 and Table 19-6, the verdicts where no STATE write came in their cycle: the record is kept, written to the ring behind
WR, or discarded, STATE becomes what a trigger says, or what a STATE write of an earlier cycle of the record does, and the core is free; HALT
stops the field of the record's cell. -/
def Claims.GorivoVerdicts : Prop :=
  ∀ (s : State) (k : Nat) (n : BitVec 18) (m : BitVec 3), s.cur = .trace k → (s.trace k).verdict = .none →
    (s.trace k).request = none → s.waitOf (.trace k) = .none →
    let t := s.trace k
    let on := t.state = 2
    let start := m.getLsbD 0
    let stop := m.getLsbD 1
    let free := fun (x : TraceCore) (st : BitVec 2) =>
      { x with state := t.late.getD st, request := none, late := none, verdict := .none, busy := false, f := [], pc := 0 }
    let discards := fun (i : Instr) (x : TraceCore) (st : BitVec 2) => Happens s i fun u =>
      u.trace k = free x st ∧ { u with cur := s.cur, waits := s.waits, traces := s.traces, fields := s.fields } = s
    let keeps := fun (i : Instr) (v : Verdict) (st : BitVec 2) => ∀ s1,
      let u := { s with cur := .none, traces := AL.put s.traces k { t with verdict := v } }
      (writeVaWait (u.whoTrace k) ((t.ring.toNat + 32 * (t.wr.toNat % 2 ^ t.log2n.toNat)) % 2 ^ 48)
        (wordsBytes [t.record.w0, t.record.w1, t.record.w2, t.record.w3])).exec u = (.ok (), s1) → s1.trace k = u.trace k →
      Happens s i fun w => w.mem = s1.mem ∧ w.trace k = free { t with wr := t.wr + 1 } st
    (on → keeps .gorivoKeep .keep 2) ∧ (¬ on → discards .gorivoKeep t t.state) ∧ discards .gorivoDrop t t.state ∧
    discards (.gorivoCount n) { t with counters := Regs.set t.counters n.toNat (Regs.get t.counters n.toNat + 1) } t.state ∧
    (start = false → stop = false → discards (.gorivoTrigger m) t t.state) ∧
    (on → start = true ∨ stop = true → keeps (.gorivoTrigger m) (.trigger m) (if stop then 3 else 2)) ∧
    (t.state = 1 → start = true → keeps (.gorivoTrigger m) (.trigger m) (if stop then 3 else 2)) ∧
    (t.state = 1 → start = false → stop = true → discards (.gorivoTrigger m) t 3) ∧
    (t.state = 0 ∨ t.state = 3 → discards (.gorivoTrigger m) t t.state) ∧
    (t.state = 0 ∨ t.state = 3 → m.getLsbD 2 = true → (s.cell t.rcell).fieldV = true → ∀ fd,
      AL.find s.fields (s.cell t.rcell).field = some fd → fd.mode = .running → Happens s (.gorivoTrigger m) fun u =>
        AL.find u.fields (s.cell t.rcell).field = some { fd with mode := .stopping })

/-- R389 to R393, the steps of a trace core: it takes, loses or passes over a record; it runs its program to the verdict on the next
record; a STATE write waits for a running program; LOST is cleared when read; a program is loaded, checked word by word, or refused. -/
def Claims.TraceCoresWork : Prop :=
  ∀ (s : State) (k : Nat),
    let t := s.trace k
    let becomes := fun (i : Instr) (t' : TraceCore) => exec i s = .next { s with traces := AL.put s.traces k t' }
    (∀ c r q, t.offered = (c, r) :: q →
      let x := { t with offered := q }
      Happens s (.traceRecordOffer k) fun u => { u with traces := s.traces } = s ∧
        (t.state = 0 ∨ t.loaded = false ∨ t.tenants.getLsbD (bits r.w1 27 24) = false → u.trace k = x) ∧
        (t.state ≠ 0 → t.loaded = true → t.tenants.getLsbD (bits r.w1 27 24) = true →
          u.trace k = if t.inq.length < 64 then { x with inq := t.inq ++ [(c, r)] } else { x with lost := t.lost + 1 })) ∧
    (∀ c r q, t.busy = false → t.inq = (c, r) :: q → t.request = none →
      let x := TraceCore.runAll t.store.length
        { t with inq := q, record := r, rcell := c, f := [], pc := 0, verdict := .none, busy := true }
      x.verdict = .drop → x.request = none → Happens s (.traceRecordProcess k) fun u =>
        u.trace k = { x with
          state := x.late.getD x.state, request := none, late := none, verdict := .none, busy := false, f := [], pc := 0 } ∧
        { u with waits := s.waits, traces := s.traces } = s) ∧
    (∀ v, (t.busy = false → becomes (.traceStateWrite k v) { t with state := v }) ∧
      (t.busy = true → t.verdict = .none → becomes (.traceStateWrite k v) { t with request := some v, late := none }) ∧
      (t.busy = true → t.verdict ≠ .none → becomes (.traceStateWrite k v) { t with late := some v })) ∧
    (exec (.traceLostRead k) s = .next { s with traces := AL.put s.traces k { t with lost := 0 }, readout := [t.lost] }) ∧
    (∀ addr bs s2, t.loading = none → t.busy = false → 1 ≤ t.len.toNat → t.len.toNat ≤ 256 → s.waitOf (.trace k) = .none →
      let s1 := { s with traces := AL.put s.traces k { t with counters := [], store := [], loading := some addr } }
      (readVa (s1.whoTrace k) addr.toNat (4 * t.len.toNat) .r).exec s1 = (.ok bs, s2) → s2.trace k = s1.trace k →
      let ws := (List.range t.len.toNat).map (fun j => BitVec.ofNat 32 (leNat ((bs.drop (4 * j)).take 4)))
      let x := { t with counters := [], loading := none }
      Happens s (.prog k addr) fun u => u.mem = s2.mem ∧
        (loaderResult ws = 0 → u.trace k = { x with store := ws, loaded := true, lderr := 0 }) ∧
        (loaderResult ws ≠ 0 → u.trace k = { x with
          store := [], loaded := false, lderr := BitVec.ofNat 8 (loaderResult ws), state := 0 }))


/-! ### Steps of the scope ports (spec 08) -/

/-- R159 and R163, MINT, GRANT, REFUSE and WEIGHT_RETURN: a live scope that is not cancelled issues 2^20 more weight, which joins
the asker's holding; a refused asker goes on with that answer; a returned weight is counted. -/
def Claims.WeightMoves : Prop :=
  ∀ (s : State) (x : Nat) (q : Ctl),
    let r := s.scopeRec q.scope
    (s.Serves x q .mint → r.live = true → r.canc = false → Happens s (.mint x) fun t =>
      ScopeStep s t x q.scope { r with issued := r.issued + 2 ^ 20 } ∧ Answers s t q .grant (2 ^ 20) 0) ∧
    (s.Serves x q .mint → r.live = false ∨ r.canc = true → Happens s (.mint x) fun t =>
      ScopeStep s t x q.scope r ∧ Answers s t q .refuse 0 0) ∧
    (∀ c slot a p, q.who = .frame c slot → AL.find s.acts (s.frame c slot).act = some a → (s.frame c slot).pend = some p →
      (s.Serves x q .grant → Happens s (.grant x) fun t =>
        AL.find t.acts (s.frame c slot).act = some { a with
          holdings := a.holdings.map (fun h => if h.scope = q.scope then { h with w := h.w + q.value.toNat } else h) } ∧
        t.frame c slot = { s.frame c slot with pend := some { p with answer := some 1 } } ∧
        AL.find t.ctls x = none ∧ { t with cells := s.cells, acts := s.acts, ctls := s.ctls } = s) ∧
      (s.Serves x q .refuse → Happens s (.refuse x) fun t =>
        t.frame c slot = { s.frame c slot with pend := some { p with answer := some 0 } } ∧
        AL.find t.ctls x = none ∧ { t with cells := s.cells, ctls := s.ctls } = s)) ∧
    (s.Serves x q .weightReturn → r.live = true → ¬ (r.life = .closing ∧ r.retd + q.value = r.issued) →
      Happens s (.weightReturn x) fun t => ScopeStep s t x q.scope { r with retd := r.retd + q.value } ∧ t.nextId = s.nextId)

/-- R165 and R168, the emptying of a closing scope: when all its weight has returned, its continuation goes to its home in the parent scope
with one unit of the parent's weight and, as its element, bit 0 for a cancelled and bit 1 for a winning scope; the home unlinks it from its
parent, and a cancelled one is cleared at every receiver of its notice, whose acknowledgements its slot waits for; a root reports to its
launch. -/
def Claims.ScopesEmpty : Prop :=
  ∀ (s : State) (x : Nat) (q : Ctl),
    let r := s.scopeRec q.scope
    s.Serves x q .weightReturn → r.life = .closing → r.retd + q.value = r.issued →
    let clears := fun (t : State) => ∀ k ∈ r.acks, k ≤ 4096 → ∃ n m, s.nextId ≤ n ∧ AL.find t.ctls n = some m ∧ m.kind = .clear ∧
      m.scope = q.scope ∧ m.value = BitVec.ofNat 64 k ∧ m.src = homeOf q.scope ∧ m.hub = false ∧
      m.dst = (if k < 4096 then s.gca k else s.devNum ++ (0x020 : BitVec 12))
    (r.root = false → devOf (homeOf r.parent) = s.devNum → Happens s (.weightReturn x) fun t =>
      t.scopeRec q.scope = { r with life := .empty, retd := r.issued, unlinked := false } ∧
      AL.find t.msgs s.nextId = some ⟨{ Msg.zero with
        dst := homeOf q.scope, handler := r.cont.setWidth 48, words := r.cwords,
        elem := BitVec.ofNat 24 ((if r.canc then 1 else 0) + (if r.won then 2 else 0)),
        stage := r.cont.extractLsb' 52 4, tag := r.cont.extractLsb' 48 4, src := homeOf q.scope, scope := r.parent, w := 1,
        tenant := r.tenant, colour := r.colour, sent := BitVec.ofNat 64 s.ns }, homeOf q.scope⟩ ∧
      (∃ n colour, AL.find t.ctls n =
        some ⟨.unlink, false, homeOf q.scope, homeOf r.parent, r.parent, q.scope, .scope q.scope, 0, [], .answer, colour⟩) ∧
      clears t ∧ t.launches = s.launches ∧ t.mem = s.mem ∧ t.acts = s.acts) ∧
    (r.root = true → r.parent = 0 → Happens s (.weightReturn x) fun t =>
      t.scopeRec q.scope = (if r.acks = [] then ScopeRec.free else { r with life := .empty, retd := r.issued, unlinked := true }) ∧
      clears t ∧ t.msgs = s.msgs ∧ t.mem = s.mem ∧ t.acts = s.acts ∧
      (∀ k l, (k, l) ∈ s.launches → l.root = q.scope → (k, { l with stage := .emptied }) ∈ t.launches))

/-- R165, R174 and R337, LINK, LINKRES, UNLINK and UNLINKACK: a live parent takes a child at the head of its list and answers its depth
plus 3, one at depth 15 refuses, as does a cancelled one; a granted link opens the record in the reserved slot, or lets the launch of a root
go on; an emptied child leaves the list, the next older sibling follows the one before it, and its slot is freed once the unlink and every
clear are acknowledged. -/
def Claims.ScopesLink : Prop :=
  ∀ (s : State) (x : Nat) (q : Ctl),
    let r := s.scopeRec q.scope
    (s.Serves x q .link →
      (r.live = true → r.canc = false → (r.depth ≠ 15 ∨ q.value = 1) → Happens s (.link x) fun t =>
        ScopeStep s t x q.scope { r with kids := q.other :: r.kids, issued := if q.value = 1 then r.issued + 1 else r.issued } ∧
        Answers s t q .linkres (BitVec.ofNat 64 (r.depth.toNat + 3)) (r.kids.headD 0)) ∧
      (r.live = false ∨ r.canc = true → Happens s (.link x) fun t =>
        ScopeStep s t x q.scope r ∧ Answers s t q .linkres 0 0) ∧
      (r.live = true → r.canc = false → r.depth = 15 → q.value ≠ 1 → Happens s (.link x) fun t =>
        ScopeStep s t x q.scope r ∧ Answers s t q .linkres 1 0)) ∧
    (s.Serves x q .linkres → ∀ c slot p, q.who = .frame c slot → (s.frame c slot).pend = some p → Happens s (.linkres x) fun t =>
      t.frame c slot = { s.frame c slot with pend := some { p with answer := some q.value } } ∧
      (q.value.toNat < 2 → ∀ k, k ≠ c → t.cell k = s.cell k) ∧
      (2 ≤ q.value.toNat → c < 4096 → p.sent ≤ 256 → let nm := (s.actOf c slot).naming
        t.scopeRec (scopeId s.devNum c (p.sent - 1)) =
            ScopeRec.opened q.scope q.other (q.value.toNat - 2) nm.tenant nm.colour false ∧
          (t.cell c).opening = (s.cell c).opening.filter (fun j => j != p.sent - 1)) ∧
      AL.find t.ctls x = none ∧ { t with cells := s.cells, ctls := s.ctls } = s) ∧
    (s.Serves x q .linkres → ∀ k l root, q.who = .scope root → s.launches.find? (fun p => p.2.root == root &&
        (p.2.stage == .linking || p.2.stage == .failed)) = some (k, l) → l.stage = .linking → s.homeHere root = false →
      Happens s (.linkres x) fun t => AL.find t.launches k = some { l with
          stage := .sending 0, linked := decide (2 ≤ q.value.toNat), dropped := decide (q.value.toNat < 2) } ∧
        AL.find t.ctls x = none ∧ { t with launches := s.launches, ctls := s.ctls } = s) ∧
    (s.Serves x q .unlink → r.life ≠ .free →
      let after := { r with kids := r.kids.filter (fun k => k != q.other) }
      let before := (r.kids.takeWhile (fun k => k != q.other)).getLast?
      ((∀ b, before = some b → s.homeHere b = false) → Happens s (.unlink x) fun t =>
        ScopeStep s t x q.scope after ∧ Answers s t q .unlinkack 0 q.other) ∧
      (∀ b young old, r.kids = young ++ b :: q.other :: old → q.other ∉ young → b ≠ q.other → s.homeHere b = true →
        (s.scopeRec b).life ≠ .free → b.extractLsb' 0 20 ≠ q.scope.extractLsb' 0 20 → Happens s (.unlink x) fun t =>
          t.scopeRec q.scope = after ∧ t.scopeRec b = { s.scopeRec b with sib := old.headD 0 } ∧ Answers s t q .unlinkack 0 q.other ∧
          AL.find t.ctls x = none ∧ { t with
            cells := s.cells, ctls := s.ctls, asks := s.asks, packets := s.packets, hubPaths := s.hubPaths, nextId := s.nextId } = s)) ∧
    (s.Serves x q .unlinkack → ∀ sc, q.who = .scope sc → (s.scopeRec sc).life = .empty →
      Happens s (.unlinkack x) fun t => ScopeStep s t x sc
        (if (s.scopeRec sc).acks = [] then ScopeRec.free else { s.scopeRec sc with unlinked := true }))

/-- R167 and R168, CANCEL and CHOKE: a live scope that is not cancelled becomes so and keeps to whom it gives notice: every cell of the device,
the transport engine, and the devices that its home's context names in windows; each child is choked; a choke stops at a shield. -/
def Claims.ScopesAreCancelled : Prop :=
  ∀ (s : State) (x : Nat) (q : Ctl),
    let r := s.scopeRec q.scope
    let home := cellOf (homeOf q.scope)
    let cancels := fun (t : State) =>
      (∃ to_, t.scopeRec q.scope = { r with canc := true, acks := to_ } ∧ ∀ k, k ∈ to_ ↔ k ≤ 4096 ∨
        ∃ g ∈ s.segsOf home, g.kind = 4 ∧ k = 8192 + bits g.kf 11 0) ∧
      (∀ k, k ≤ 4096 → ∃ n m, s.nextId ≤ n ∧ AL.find t.ctls n = some m ∧ m.kind = .notice ∧ m.scope = q.scope ∧
        m.value = BitVec.ofNat 64 k ∧ m.src = homeOf q.scope ∧ m.dst = (if k < 4096 then s.gca k else s.devNum ++ (0x020 : BitVec 12))) ∧
      (∀ g ∈ s.segsOf home, g.kind = 4 → bits g.kf 11 0 ≠ s.devNum.toNat →
        ∃ n p, s.nextId ≤ n ∧ AL.find t.packets n = some p ∧ p.pkt.kind = 7 ∧ p.pkt.op = 8 ∧ p.pkt.scope = q.scope ∧
          devOf p.pkt.dst = BitVec.ofNat 12 (bits g.kf 11 0)) ∧
      (∀ z ∈ r.kids, devOf (homeOf z) = s.devNum →
        ∃ n m, s.nextId ≤ n ∧ AL.find t.ctls n = some m ∧ m.kind = .choke ∧ m.scope = z ∧ m.dst = homeOf z) ∧
      (∀ z : BitVec 32, z.extractLsb' 0 20 ≠ q.scope.extractLsb' 0 20 → t.scopeRec z = s.scopeRec z) ∧
      t.mem = s.mem ∧ t.acts = s.acts ∧ t.msgs = s.msgs
    (s.Serves x q .cancel →
      (r.live = true → r.canc = false → Happens s (.cancel x) fun t => cancels t ∧
        (q.who ≠ .none → devOf (s.replyTo q.who) = s.devNum →
          ∃ n m, s.nextId ≤ n ∧ AL.find t.ctls n = some m ∧ m.kind = .answer ∧ m.value = 0 ∧ m.who = q.who)) ∧
      (r.live = false ∨ r.canc = true → Happens s (.cancel x) fun t => ScopeStep s t x q.scope r ∧ Answers s t q .answer 2 0)) ∧
    (s.Serves x q .choke →
      (r.live = true → r.canc = false → r.shld = false → Happens s (.choke x) cancels) ∧
      (r.live = false ∨ r.canc = true ∨ r.shld = true → Happens s (.choke x) fun t =>
        ScopeStep s t x q.scope r ∧ t.nextId = s.nextId))

/-- R168 and R351, NOTICE, CLEAR and CLEARACK: a notice enters a cell's cancel list, or with 256 entries sets its overflow mode; at the transport
engine it enters that list; one to a device goes on to its cells and its transport engine. A clear takes the entry out, and with room
again the cell leaves overflow mode, and is acknowledged by the unit it went to; a receiver that still holds work of the scope leaves it
waiting. The home takes the acknowledgement off its list. -/
def Claims.NoticesAndClears : Prop :=
  ∀ (s : State) (x : Nat) (q : Ctl),
    let n := q.value.toNat
    let y := s.cell n
    let acks := fun (t : State) (src : BitVec 24) (hub : Bool) => ∃ m, AL.find t.ctls s.nextId = some m ∧ m.kind = .clearack ∧
      m.scope = q.scope ∧ m.value = q.value ∧ m.src = src ∧ m.hub = hub ∧ m.dst = homeOf q.scope
    (n < 4096 →
      (s.Serves x q .notice → Happens s (.notice x) fun t =>
        (t.cell n).cancels = (if q.scope ∈ y.cancels ∨ 256 ≤ y.cancels.length then y.cancels else y.cancels ++ [q.scope]) ∧
        (t.cell n).overflow = (y.overflow || (!(y.cancels.contains q.scope) && decide (256 ≤ y.cancels.length))) ∧
        { t.cell n with cancels := y.cancels, overflow := y.overflow } = y ∧
        (∀ k, k ≠ n → t.cell k = s.cell k) ∧ AL.find t.ctls x = none ∧ { t with cells := s.cells, ctls := s.ctls } = s) ∧
      (s.Serves x q .clear → s.cellHolds q.scope n = true → exec (.clear x) s = .next s) ∧
      (s.Serves x q .clear → s.cellHolds q.scope n = false → devOf (homeOf q.scope) = s.devNum → Happens s (.clear x) fun t =>
        (∀ z, z ∈ (t.cell n).cancels ↔ z ∈ y.cancels ∧ z ≠ q.scope) ∧
        (t.cell n).overflow = (y.overflow && decide (256 ≤ (t.cell n).cancels.length)) ∧
        { t.cell n with cancels := y.cancels, overflow := y.overflow, unitAsks := y.unitAsks } = y ∧
        (∀ k, k ≠ n → t.cell k = s.cell k) ∧ acks t q.dst false ∧
        { t with cells := s.cells, ctls := s.ctls, hubPaths := s.hubPaths, nextId := s.nextId } = s)) ∧
    (n = 4096 →
      (s.Serves x q .notice → Happens s (.notice x) fun t =>
        (∀ z, z ∈ t.xportCancels ↔ z ∈ s.xportCancels ∨ z = q.scope) ∧ AL.find t.ctls x = none ∧
        { t with xportCancels := s.xportCancels, ctls := s.ctls } = s) ∧
      (s.Serves x q .clear → (∀ p ∈ s.transfers, s.below q.scope 15 p.2.scope = false) →
        (∀ p ∈ s.wakes, p.2.xfer.isSome = true → s.below q.scope 15 p.2.msg.scope = false) → devOf (homeOf q.scope) = s.devNum →
        Happens s (.clear x) fun t =>
        (∀ z, z ∈ t.xportCancels ↔ z ∈ s.xportCancels ∧ z ≠ q.scope) ∧ acks t q.dst true ∧
        { t with xportCancels := s.xportCancels, ctls := s.ctls, hubPaths := s.hubPaths, nextId := s.nextId } = s)) ∧
    (8192 ≤ n →
      (s.Serves x q .notice → Happens s (.notice x) fun t =>
        (∀ k, k ≤ 4096 → ∃ j m, s.nextId ≤ j ∧ AL.find t.ctls j = some m ∧ m.kind = .notice ∧ m.scope = q.scope ∧
          m.value = BitVec.ofNat 64 k ∧ m.src = q.src ∧ m.dst = (if k < 4096 then s.gca k else s.devNum ++ (0x020 : BitVec 12))) ∧
        t.cells = s.cells ∧ t.xportCancels = s.xportCancels ∧ t.mem = s.mem) ∧
      (s.Serves x q .clear → s.holdsWork q.scope = false →
        (∀ p ∈ s.ctls, p.2.kind ≠ .notice ∨ p.2.scope ≠ q.scope) → devOf (homeOf q.scope) ≠ s.devNum → Happens s (.clear x) fun t =>
          (∀ k, (t.cell k).cancels = (s.cell k).cancels.filter (fun z => z != q.scope)) ∧
          t.xportCancels = s.xportCancels.filter (fun z => z != q.scope) ∧ t.mem = s.mem ∧
          ∃ p, AL.find t.packets s.nextId = some p ∧ p.pkt.kind = 7 ∧ p.pkt.op = 0x0A ∧ p.pkt.scope = q.scope ∧
            p.pkt.dst = homeOf q.scope ∧ p.pkt.src = s.devNum ++ (0x021 : BitVec 12))) ∧
    (AL.find s.ctls x = some q → x < s.nextId → q.kind = .clearack → s.ctlBehind x q = false →
      s.fencedGca (homeOf q.scope) = false → (s.scopeRec q.scope).life = .empty →
      Happens s (.clearack x) fun t =>
        let r := s.scopeRec q.scope
        let left := r.acks.filter (fun k => k != n)
        ScopeStep s t x q.scope (if r.unlinked = true ∧ left = [] then ScopeRec.free else { r with acks := left }))

/-- R165, R170, R172 and R174, CLOSE, SHIELD, CLAIM, CHECK (and a cell's query in overflow mode, R168), CLIMB and ANSWER at the home of a scope: the changes of the record and the
statuses of Tables 8-4 to 8-6; a request for authority climbs towards the root; the answer to a claim of the parent is noted by the
child's home and passed on. -/
def Obligations.RequestsAreServed : Prop :=
  ∀ (s : State) (x : Nat) (q : Ctl),
    let r := s.scopeRec q.scope
    let tells := fun (i : Instr) (r2 : ScopeRec) (v : Word) => Happens s i fun t =>
      ScopeStep s t x q.scope r2 ∧ Answers s t q .answer v 0
    let sends := fun (i : Instr) (m : Ctl) => devOf m.dst = s.devNum → Happens s i fun t =>
      ScopeStep s t x q.scope r ∧ ∃ colour, AL.find t.ctls s.nextId = some { m with colour := colour }
    (s.Serves x q .close →
      (q.value = 1 → tells (.close x) r 5) ∧
      (q.value ≠ 1 → r.life = .open →
        tells (.close x) { r with life := .closing, cont := q.words.headD 0, cwords := q.words.drop 1 } 0) ∧
      (q.value ≠ 1 → r.life ≠ .open → tells (.close x) r 2)) ∧
    (s.Serves x q .shield →
      (r.live = true → r.shld = false → tells (.shield x) { r with shld := true } 0) ∧
      (r.live = false ∨ r.shld = true → tells (.shield x) r 2)) ∧
    (s.Serves x q .claim →
      (q.value = 0 → r.root = true ∨ r.canc = true ∨ r.live = false → tells (.claim x) r 0) ∧
      (q.value = 0 → r.root = false → r.canc = false → r.live = true →
        sends (.claim x) { q with
          hub := false, src := homeOf q.scope, dst := homeOf r.parent, scope := r.parent, other := q.scope,
          who := .via q.scope q.who, value := 1 }) ∧
      (q.value ≠ 0 → r.clmd = true ∨ r.canc = true ∨ r.live = false → tells (.claim x) r 0) ∧
      (q.value ≠ 0 → r.clmd = false → r.canc = false → r.live = true → Happens s (.claim x) fun t =>
        t.scopeRec q.scope = { r with clmd := true, claimer := q.other } ∧
        (∀ z ∈ r.kids, z ≠ q.other → devOf (homeOf z) = s.devNum →
          ∃ n m, s.nextId ≤ n ∧ AL.find t.ctls n = some m ∧ m.kind = .cancel ∧ m.scope = z ∧ m.dst = homeOf z) ∧
        (q.who ≠ .none → devOf (s.replyTo q.who) = s.devNum →
          ∃ n m, s.nextId ≤ n ∧ AL.find t.ctls n = some m ∧ m.kind = .answer ∧ m.value = 1 ∧ m.who = q.who) ∧
        t.mem = s.mem ∧ t.acts = s.acts)) ∧
    (s.Serves x q .check →
      ∃ v, tells (.check x) r v ∧ bits v 63 32 = (if r.clmd then r.claimer.toNat else 0) ∧ bits v 19 16 = r.depth.toNat ∧
        v.getLsbD 11 = r.root ∧ v.getLsbD 10 = r.shld ∧ v.getLsbD 9 = r.clmd ∧ v.getLsbD 8 = r.canc ∧
        bits v 7 6 = (match r.life with | .free => 0 | .open => 1 | .closing => 2 | .empty => 3)) ∧
    (s.Serves x q .query → tells (.check x) r (if r.canc then 1 else 0)) ∧
    (s.Serves x q .climb →
      let found : Ctl := { q with
        kind := q.then_, dst := homeOf q.other, scope := q.other, other := 0, value := BitVec.ofNat 64 (q.value.toNat / 256 % 2) }
      (q.scope = q.other → sends (.climb x) found) ∧
      (q.scope ≠ q.other → r.root = true ∨ r.live = false ∨ 15 < q.value.toNat % 256 → tells (.climb x) r 3) ∧
      (q.scope ≠ q.other → r.root = false → r.live = true → q.value.toNat % 256 ≤ 15 →
        sends (.climb x) (if r.parent = q.other then found
          else { q with dst := homeOf r.parent, scope := r.parent, value := q.value + 1 }))) ∧
    (s.Serves x q .answer → ∀ c slot p, q.who = .frame c slot → (s.frame c slot).pend = some p → Happens s (.answer x) fun t =>
      t.frame c slot = { s.frame c slot with pend := some { p with answer := some q.value } } ∧
      AL.find t.ctls x = none ∧ { t with cells := s.cells, ctls := s.ctls } = s) ∧
    (s.Serves x q .answer → ∀ c sc, q.who = .unit c sc → (s.cell c).overflow = true → AL.has (s.cell c).unitAsks sc.toNat = true →
      Happens s (.answer x) fun t => t.unitAnswer c sc = some (q.value != 0) ∧
        AL.find t.ctls x = none ∧ { t with cells := s.cells, ctls := s.ctls } = s) ∧
    (s.Serves x q .answer → ∀ sc w, q.who = .via sc w → w ≠ .none → devOf (s.replyTo w) = s.devNum →
      Happens s (.answer x) fun t =>
        let r := s.scopeRec sc
        ScopeStep s t x sc (if q.value = 1 ∧ r.live = true then { r with won := true } else r) ∧
        ∃ colour, AL.find t.ctls s.nextId =
          some ⟨.answer, false, homeOf sc, s.replyTo w, q.scope, 0, w, q.value, [], .answer, colour⟩)


/-! ### Steps of the engines and the copies (spec 11, 12, 13) -/

/-- R168, R245 and R246, LAUNCH_RECORD_READ, ENGINE_PROGRAM_START and ENGINE_PROGRAM_END: a fork leaves the store buffer and its program
queues with the code address and arguments of its record, or is refused; the program at the head of an idle engine's queue starts
with its record in e0, its arguments in e1 to e3, and every other register 0, unless its scope is cancelled, which in overflow mode its
home is asked; a drained program returns its weight, CNT_E falls, and its joins take its flags. -/
def Claims.ProgramsRun : Prop :=
  ∀ (s : State) (c p : Nat) (x : Prog), AL.find s.progs p = some x → x.cell = c →
    (∀ e rest ws s1, (s.cell c).sb = e :: rest → e.kind = .fork [p] → x.life = .buffered →
      ((s.cell c).engine x.unit).queue.length < 16 → s.waitOf (.prog p) = .none →
      (readWords (s.whoCell c (.prog p)) x.record.toNat 4 .r).exec s = (.ok ws, s1) → AL.find s1.progs p = some x →
      Happens s (.launchRecordRead c) fun t => t.mem = s1.mem ∧ (t.cell c).sb = rest ∧
        ((t.cell c).engine x.unit).queue = ((s1.cell c).engine x.unit).queue ++ [.prog p] ∧
        (bits (ws.headD 0) 63 48 = 0 →
          AL.find t.progs p = some { x with life := .queued, code := (ws.headD 0).setWidth 48, args := ws.drop 1 }) ∧
        (bits (ws.headD 0) 63 48 ≠ 0 → ∃ tr, AL.find t.progs p = some { x with life := .refused, trap := some tr } ∧
          tr.cause = 0x0A ∧ tr.addrIdx = x.record.setWidth 64)) ∧
    (∀ rest a1 a2 a3, s.engineStarts c = true → ((s.cell c).engine x.unit).run = none →
      ((s.cell c).engine x.unit).queue = .prog p :: rest → x.life = .queued → x.args = [a1, a2, a3] →
      (s.mayCheck c x.naming.scope = true → s.cancelledAt c x.naming.scope = false → Happens s (.engineProgramStart c x.unit) fun t =>
        let e := (t.cell c).engine x.unit
        e.run = some p ∧ e.queue = rest ∧ (List.range 4).map (Regs.get e.e) = [x.record.setWidth 64, a1, a2, a3] ∧
        (∀ n, 4 ≤ n → Regs.get e.e n = 0) ∧ AL.find t.progs p = some { x with life := .running, pc := x.code } ∧
        (∀ k, k ≠ c → t.cell k = s.cell k) ∧ { t with cells := s.cells, progs := s.progs, upsets := s.upsets } = s) ∧
      (s.mayCheck c x.naming.scope = true → s.cancelledAt c x.naming.scope = true → Happens s (.engineProgramStart c x.unit) fun t =>
        ((t.cell c).engine x.unit) = { (s.cell c).engine x.unit with queue := rest } ∧
        AL.find t.progs p = some { x with life := .ending } ∧ { t with cells := s.cells, progs := s.progs } = s) ∧
      (s.mayCheck c x.naming.scope = false → AL.has (s.cell c).unitAsks x.naming.scope.toNat = false →
        devOf (homeOf x.naming.scope) = s.devNum → Happens s (.engineProgramStart c x.unit) fun t =>
          AL.find (t.cell c).unitAsks x.naming.scope.toNat = some none ∧
          (∃ q, AL.find t.ctls s.nextId = some q ∧ q.kind = .query ∧ q.scope = x.naming.scope ∧ q.dst = homeOf x.naming.scope) ∧
          { t with cells := s.cells, ctls := s.ctls, hubPaths := s.hubPaths, nextId := s.nextId } = s)) ∧
    (∀ a, x.life = .ending →
      s.progs.find? (fun q => q.2.cell == c && q.2.unit == x.unit && q.2.life == .ending && s.progDrained q.1) = some (p, x) →
      AL.find s.acts x.act = some a → x.w ≠ 0 → devOf (homeOf x.naming.scope) = s.devNum →
      Happens s (.engineProgramEnd c x.unit) fun t =>
        AL.find t.acts x.act = some { a with cntE := a.cntE - 1 } ∧
        (∃ q, AL.find t.ctls s.nextId = some q ∧ q.kind = .weightReturn ∧ q.dst = homeOf x.naming.scope ∧
          q.scope = x.naming.scope ∧ q.value = BitVec.ofNat 64 x.w) ∧
        AL.find t.progs p = (if p ∈ a.forked ∧ a.slot ≠ none then some { x with life := .ended, w := 0, trap := none } else none) ∧
        (t.cell c).engine x.unit = { (s.cell c).engine x.unit with
          run := if ((s.cell c).engine x.unit).run = some p then none else ((s.cell c).engine x.unit).run }) ∧
    (∀ j y, x.life = .ending →
      s.progs.find? (fun q => q.2.cell == c && q.2.unit == x.unit && q.2.life == .ending && s.progDrained q.1) = some (p, x) →
      AL.find (s.cell c).joins j = some y → p ∈ y.progs →
      Happens s (.engineProgramEnd c x.unit) fun t => AL.find (t.cell c).joins j = some { y with
        progs := y.progs.filter (fun k => k != p), flags := y.flags ||| (x.cr.rmode &&& 0x3F00) } ∧ t.mem = s.mem)

/-- R250 and R266, RDV_CONTINUATION and QFENCE_RELEASE: when the programs of a join have ended, its continuation goes to the cell
itself with the join's weight and flags; a marker leaves its queues when it heads every one of them and their engines are idle. -/
def Claims.JoinsAndMarkersRelease : Prop :=
  ∀ (s : State) (c : Nat),
    (∀ j y, AL.find (s.cell c).joins j = some y → y.progs = [] → Happens s (.rdvContinuation c j) fun t =>
      AL.find (t.cell c).joins j = none ∧
      AL.find t.msgs s.nextId = some ⟨{ Msg.zero with
        dst := s.gca c, handler := y.handler.setWidth 48, words := y.words, elem := y.naming.hdr.extractLsb' 40 24,
        stage := y.handler.extractLsb' 52 4, tag := y.handler.extractLsb' 48 4, src := s.gca c, scope := y.naming.scope, w := y.w,
        tenant := y.naming.tenant, colour := y.naming.colour, sent := BitVec.ofNat 64 s.ns, flags := y.flags }, s.gca c⟩ ∧
      { t with cells := s.cells, msgs := s.msgs, hubPaths := s.hubPaths, nextId := s.nextId } = s) ∧
    (∀ k us, AL.find s.markers k = some ⟨c, us⟩ → us.Nodup →
      (∀ u ∈ us, ((s.cell c).engine u).run = none ∧ ((s.cell c).engine u).queue.head? = some (.marker k)) →
      Happens s (.qfenceRelease c k) fun t => AL.find t.markers k = none ∧
        (∀ u, (t.cell c).engine u = { (s.cell c).engine u with
          queue := if u ∈ us then ((s.cell c).engine u).queue.tail else ((s.cell c).engine u).queue }) ∧
        { t with cells := s.cells, markers := s.markers } = s)

/-- R292, R311 to R313, SCOREBOARD_GRANT, GANG_START and GANG_PASS: the program that has waited longest takes a free fragment; a gang
whose members have all arrived and agree runs, where none runs on its strip, on the A operand of its source, and each pass is made on every member's own
containers; after the last the members go on with their side additions. A member whose program is cancelled before the gang runs withdraws and
makes no pass. -/
def Claims.FragmentsAndGangs : Prop :=
  ∀ (s : State),
    (∀ c f n rest, s.score c f = n :: rest → n % 2 = 0 → Happens s (.scoreboardGrant c f) fun t =>
      t.score c f = (n + 1) :: rest ∧ (∀ g, g ≠ f → t.score c g = s.score c g) ∧ { t with cells := s.cells } = s) ∧
    (∀ k src p0 x0 q0 m0, let g := s.gang k
      s.segmentCells k ≠ [] → s.stripRuns (k / 64) = false →
      (∀ c ∈ s.segmentCells k, s.engineGo c = true ∧ (c, false) ∈ g.arrived ∧ (c, true) ∉ g.arrived ∧ s.gangAsks c = none ∧
        s.gangGone c = false) →
      src ∈ s.segmentCells k → s.gangMember src = some (p0, x0, q0, m0) → colOf src = m0.srccol → m0.aes4 = false →
      (∀ c ∈ s.segmentCells k, ∃ p x q m, s.gangMember c = some (p, x, q, m) ∧ m.gtag = m0.gtag ∧ m.srccol = m0.srccol ∧
        m.pb = m0.pb) →
      Happens s (.gangStart k) fun t => (t.gang k).running = true ∧ (t.gang k).pass = 0 ∧ (t.gang k).arrived = g.arrived ∧
        (∀ c ∈ s.segmentCells k, ∀ p x q m, s.gangMember c = some (p, x, q, m) → ∃ y r, t.gangMember c = some (p, y, r,
          { m with pa := m0.pa, oa := m0.oa, aes4 := m0.aes4, aBytes := m0.aBytes, ua := m0.ua, alist := m0.alist })) ∧
        { t with progs := s.progs, gangs := s.gangs } = s) ∧
    (∀ k c p x q m, let g := s.gang k
      s.stripRuns (k / 64) = false → (s.segmentCells k).Nodup → c ∈ s.segmentCells k →
      (∀ d ∈ s.segmentCells k, s.engineGo d = true ∧ s.gangAsks d = none ∧ (∃ b, (d, b) ∈ g.arrived)) →
      (∀ d ∈ s.segmentCells k, d ≠ c → s.gangGone d = false) → s.gangMember c = some (p, x, q, m) →
      s.cancelledAt c x.naming.scope = true → Happens s (.gangStart k) fun t =>
        AL.find t.progs p = some { x with life := .ending, pend := none } ∧ (t.gang k).running = false ∧
        (∀ d, d ∈ (t.gang k).arrived ↔ d ∈ g.arrived ∧ d.1 ≠ c) ∧ (∀ r, r ≠ p → AL.find t.progs r = AL.find s.progs r) ∧
        t.mem = s.mem) ∧
    (∀ k n, let g := s.gang k
      g.running = true → (g.arrived.map Prod.fst).Nodup → g.arrived ≠ [] →
      (∀ a ∈ g.arrived, (s.cluster (clusterOf a.1)).stopped = false ∧ s.engineGo a.1 = true ∧
        ∃ p x q m, s.gangMember a.1 = some (p, x, q, m) ∧ m.pa * m.pb = n ∧
          s.mayCheck a.1 x.naming.scope = true ∧ s.cancelledAt a.1 x.naming.scope = false) →
      (∀ a ∈ g.arrived, ∀ b ∈ g.arrived, (s.cell a.1).matrix.run = (s.cell b.1).matrix.run → a.1 = b.1) →
      Happens s (.gangPass k) fun t =>
        (∀ a ∈ g.arrived, ∀ p x q m, s.gangMember a.1 = some (p, x, q, m) →
          (∀ f < 4, ∀ e < 2048, t.accAt a.1 f e = (m.unit a.1 g.pass s).1.accAt a.1 f e) ∧
          (n ≤ g.pass + 1 → ∃ y, AL.find t.progs p = some y ∧ y.pend = some { q with stage := 8, sent := g.pass + 1 })) ∧
        t.gang k = (if n ≤ g.pass + 1 then GangJoin.idle else { g with pass := g.pass + 1 }) ∧ t.mem = s.mem)

/-- R147, R168 and R257, COPY_HEAD, CHUNK_START, CHUNK_FORWARD and STREAMER_STEAL_PROBE: a copy at the head of its queue is given to its
lead, which starts its chunks in ascending order or gives a chunk to the streamer that owns its source; a cancelled scope starts no
further chunk, which in overflow mode its home is asked; an idle streamer takes the last chunk of the current copy with the most left, and
performs it as the streamer it took it from. -/
def Claims.ChunksStart : Prop :=
  ∀ (s : State) (x : Nat) (y : CopyRun), AL.find s.copies x = some y →
    let becomes := fun (i : Instr) (u : State) (z : CopyRun) => exec i s = .next { u with copies := AL.put s.copies x z }
    (∀ c rest, (s.cell c).streamer.queue = .copy x :: rest → (s.cell c).streamer.run = none → y.atHead = false →
      s.engineStarts c = true → becomes (.copyHead c) s { y with atHead := true, lead := s.leadOf c y.block }) ∧
    (y.mayStart = true → s.engineGo y.lead = true → s.guestChunk y.lead = false →
      (s.mayCheck y.lead y.scope = false → exec (.chunkStart x) s = .next (s.askUnit y.lead y.scope)) ∧
      (s.mayCheck y.lead y.scope = true → s.cancelledAt y.lead y.scope = true →
        becomes (.chunkStart x) (s.checked y.lead y.scope) { y with stopped := 1 }) ∧
      (s.mayCheck y.lead y.scope = true → s.cancelledAt y.lead y.scope = false → s.forwardTo y y.next = none →
        becomes (.chunkStart x) (s.checked y.lead y.scope) { y with
          next := y.next + 1, chunks := AL.put y.chunks y.next ⟨y.lead, y.lead, .started⟩ }) ∧
      (∀ c, AL.find y.chunks y.next = none → s.forwardTo y y.next = some c → becomes (.chunkForward x y.next) s { y with
        next := y.next + 1, chunks := AL.put y.chunks y.next ⟨c, c, .forwarded⟩ })) ∧
    (∀ k c v, AL.find y.chunks k = some ⟨c, v, .forwarded⟩ → s.engineGo c = true →
      (y.stopped ≠ 0 → becomes (.chunkForward x k) s { y with chunks := AL.del y.chunks k }) ∧
      (y.stopped = 0 → s.mayCheck c y.scope = true → s.cancelledAt c y.scope = false →
        becomes (.chunkForward x k) (s.checked c y.scope) { y with chunks := AL.put y.chunks k ⟨c, v, .started⟩ })) ∧
    (∀ c v, let fits := fun (q : CopyRun) => q.stopped = 0 ∧ q.next + 2 ≤ q.top ∧ ∃ a, q.issuer = .act a
      let near := fun (v : Nat) => v ∈ clusterCells (clusterOf c) ∧ v ≠ c ∧ (s.cell v).fieldV = true ∧
          (s.cell v).field = (s.cell c).field
      (s.cell c).streamer.run = none → (s.cell c).streamer.queue = [] → s.guestChunk c = false → s.engineStarts c = true →
      (s.cell c).fieldV = true → near v → s.currentCopy v = some (x, y) → fits y →
      (∀ u q, near u → u ≠ v → s.currentCopy u = some q → fits q.2 → q.2.top - q.2.next < y.top - y.next) →
      becomes (.streamerStealProbe c) s { y with
        top := y.top - 1, chunks := AL.put y.chunks (y.top - 1) ⟨c, y.lead, .forwarded⟩ })

/-- R255 and R262, CHUNK_PERFORMED: the element of a chunk of one is copied from its source to a destination that does not overlap it,
byte for byte, and no other byte changes; the chunk is done, and its bytes go to the copy's sync word. -/
def Claims.ChunksArePerformed : Prop :=
  ∀ (s : State) (x k c v : Nat) (y : CopyRun) (va vb a b m : Nat), AL.find s.copies x = some y →
    AL.find y.chunks k = some ⟨c, v, .started⟩ → s.waitOf (.chunk x k) = .none → s.chunkAway x k = false →
    y.block.conv = false → m ∈ [1, 2, 4, 8] → esizeBits y.block.esize = 8 * m →
    let e := k * y.block.perChunk
    min y.block.perChunk (y.block.count - e) = 1 →
    (elemPlace y.block.src (elemIndex (y.block.ext.take y.block.ndim) y.block.sstr e) (8 * m)).1 = (va : Int) →
    (elemPlace y.block.dst (elemIndex (y.block.ext.take y.block.ndim) y.block.dstr e) (8 * m)).1 = (vb : Int) →
    va < 2 ^ 48 → vb < 2 ^ 48 → va % m = 0 → vb % m = 0 → va + m ≤ vb ∨ vb + m ≤ va →
    resolve (s.segsOf y.cell) (some y.cell) va .r = .sram a → resolve (s.segsOf y.cell) (some y.cell) vb .w = .sram b →
    s.flatFenced a = false → s.poisoned a m = false → s.flatFenced b = false → s.narrowPoison b m = false →
    s.raceOn b = false → (∀ n, ownerCell b = some n → s.follower n = none) → s.cold (a / 64) = true → s.cold (b / 64) = true →
    Happens s (.chunkPerformed x k) fun t =>
      (∀ j, t.mem.get j = if b ≤ j ∧ j < b + m then s.mem.get (a + (j - b)) else s.mem.get j) ∧
      (∃ z, AL.find t.copies x = some z ∧ AL.find z.chunks k = none ∧ z.flags = y.flags ∧ z.stopped = y.stopped ∧
        z.credits = y.credits + (if y.block.sync = 0 then 0 else 1)) ∧
      (y.block.sync ≠ 0 → AL.find t.credits s.nextId =
        some ⟨some x, v, y.field, y.block.sync, m, false, y.scope, .none, y.naming, y.id⟩) ∧
      { t with mem := s.mem, poison := s.poison, copies := s.copies, waits := s.waits, credits := s.credits,
               nextId := s.nextId } = s

/-- R258 and R259, CHUNK_REFUSED: a refused chunk ends the copy's starting, the first refusal is kept, the flags of the elements that were
converted stand, and the frame of a running activation
takes ACCESS at the copy's own site. -/
def Claims.ChunksAreRefused : Prop :=
  ∀ (s s1 : State) (x k c v : Nat) (y y1 : CopyRun) (e : ErrResp), AL.find s.copies x = some y →
    AL.find y.chunks k = some ⟨c, v, .started⟩ → s.runChunk x k y ⟨c, v, .started⟩ = .refused e s1 → y.refusal = none →
    AL.find s1.copies x = some y1 → y1.refusal = none → Happens s (.chunkRefused x k) fun t =>
      (∃ z, AL.find t.copies x = some z ∧ AL.find z.chunks k = none ∧ z.stopped = 2 ∧ z.refusal = some e ∧ z.flags = y1.flags) ∧
      (∀ a act sl, y.issuer = .act a → s1.runningSlot a = some sl → AL.find s1.acts a = some act →
        (s1.frame y.cell sl).trap = none → (s1.frame y.cell sl).pend = none → t.mem = s1.mem ∧
        (t.frame y.cell sl).life = .frozen ∧ ∃ tr, (t.frame y.cell sl).trap = some tr ∧ tr.cause = 0x0A ∧ tr.site = y.site ∧
          tr.addrIdx = e.va.setWidth 64 ∧ tr.stage = .raised) ∧
      (∀ p, y.issuer = .prog p → { t with copies := s1.copies } = s1)

/-- R264 and R265, COPY_END: once every started chunk is performed and credited, the bell arrival and the completion message are
made and the copy leaves its queue; when the message has gone CNT_E falls; when all is acknowledged, and a program that waited for
the copy goes on, the weight returns. -/
def Claims.CopiesEnd : Prop :=
  ∀ (s : State) (x : Nat) (y : CopyRun), AL.find s.copies x = some y →
    (∀ z ∈ s.flights, ∀ k, z.2.issuer ≠ .copy x k) →
    (y.phase = 0 → y.quiet = true → y.credits = 0 → Happens s (.copyEnd x) fun t =>
      AL.find t.copies x = some { y with phase := 1 } ∧
      (∀ q, q ∈ (t.cell y.cell).streamer.queue ↔ q ∈ (s.cell y.cell).streamer.queue ∧ q ≠ .copy x) ∧
      (y.block.bellen = true → ∃ n, s.nextId ≤ n ∧
        AL.find t.arrivals n = some ⟨dieOf y.cell, y.block.bell, some y.field⟩) ∧
      (y.block.bellen = false → t.arrivals = s.arrivals) ∧
      (y.block.chand ≠ 0 → ∃ n d, s.nextId ≤ n ∧ AL.find t.wakes n = some d ∧ d.copy = some x ∧ d.last = true ∧
        d.service = false ∧ d.msg.dst = s.gca y.cell ∧ d.msg.handler = y.block.chand.setWidth 48 ∧
        d.msg.words = y.block.cwords ∧ d.msg.elem = BitVec.ofNat 24 y.stopped ∧ d.msg.scope = y.scope ∧
        d.msg.xferId = y.id ∧ d.msg.flags = y.flags) ∧
      (y.block.chand = 0 → t.wakes = s.wakes) ∧ t.mem = s.mem ∧ t.acts = s.acts) ∧
    (∀ a act, y.phase = 1 → y.issuer = .act a → AL.find s.acts a = some act →
      (∀ w ∈ s.wakes, ¬ (w.2.copy = some x ∧ w.2.last = true)) → Happens s (.copyEnd x) fun t =>
        AL.find t.copies x = some { y with phase := 2 } ∧ AL.find t.acts a = some { act with cntE := act.cntE - 1 } ∧
        { t with copies := s.copies, acts := s.acts } = s) ∧
    (2 ≤ y.phase → (∀ w ∈ s.wakes, w.2.copy ≠ some x) → (∀ p, y.issuer = .prog p → s.awaited x (some p) = false) → y.w ≠ 0 →
      devOf (homeOf y.scope) = s.devNum →
      Happens s (.copyEnd x) fun t => AL.find t.copies x = none ∧
        (∃ q, AL.find t.ctls s.nextId = some q ∧ q.kind = .weightReturn ∧ q.dst = homeOf y.scope ∧ q.scope = y.scope ∧
          q.value = BitVec.ofNat 64 y.w) ∧
        { t with copies := s.copies, ctls := s.ctls, hubPaths := s.hubPaths, nextId := s.nextId } = s)

/-- R203 and R261 to R263, SYNC_CREDIT and ATOMIC_ENGINE_OP: the bytes go to the engine that serves the sync word, which in one operation
adds them to the count and, for every completed target, takes the count down by the target and the generation up by one; when it has
answered, a word with WAKE set has sent one wake for each generation, in ascending order, to the cell that owns it. -/
def Claims.SyncWordsCount : Prop :=
  (∀ (s : State) (x a : Nat) (k : Credit), AL.find s.credits x = some k → s.waitOf (.credit x) = .none →
    AL.find (s.linesOf (.credit x)) (engineKey k.sync.toNat) = none →
    resolve (s.whoCredit x k).segs (s.whoCredit x k).window k.sync.toNat .atom = .sram a → Happens s (.syncCredit x) fun t =>
      (∃ f, AL.find t.flights s.nextId = some f ∧ f.issuer = .line (.credit x) ∧ f.op = .credit k.bytes ∧ f.va = k.sync ∧
        f.target = .sram a ∧ f.stage = .going ∧ f.field = k.field) ∧
      t.waitOf (.credit x) = .flight s.nextId ∧
      { t with flights := s.flights, nextId := s.nextId, waits := s.waits, hubPaths := s.hubPaths } = s) ∧
  (∀ (s : State) (e x y a n : Nat) (f : Flight), s.engineReady e = [(x, f)] → AL.find s.flights x = some f → f.op = .credit n →
    f.issuer = .line (.credit y) → f.target = .sram a → s.flatFenced a = false → s.poisoned a 16 = false →
    (∀ c, ownerCell a = some c → s.follower c = none) →
    let target := leNat (s.mem.bytes a 4)
    let sum := leNat (s.mem.bytes (a + 4) 4) + n
    let gen := leNat (s.mem.bytes (a + 8) 4)
    let new := if target = 0 then target + sum % 2 ^ 32 * 2 ^ 32 + gen * 2 ^ 64
      else target + sum % target * 2 ^ 32 + (gen + sum / target) % 2 ^ 32 * 2 ^ 64
    Happens s (.atomicEngineOp e) fun t =>
      (∀ j, t.mem.get j = if a ≤ j ∧ j < a + 12 then ((leBytes 12 new)[j - a]?).getD 0 else s.mem.get j) ∧
      AL.find t.flights x = none ∧ t.waitOf (.credit y) = .none ∧
      AL.find (t.linesOf (.credit y)) (engineKey f.va.toNat) = some (s.mem.bytes a 16) ∧
      { t with
          mem := s.mem, poison := s.poison, flights := s.flights, atomics := s.atomics, waits := s.waits, errLogs := s.errLogs,
          upsets := s.upsets } = s) ∧
  (∀ (s : State) (x y a : Nat) (k : Credit) (z : CopyRun) (bs : List Byte), AL.find s.credits x = some k → k.copy = some y →
    k.hub = false → AL.find s.copies y = some z → s.waitOf (.credit x) = .none →
    AL.find (s.linesOf (.credit x)) (engineKey k.sync.toNat) = some bs → bs.length = 16 →
    resolve (s.whoCredit x k).segs (s.whoCredit x k).window k.sync.toNat .r = .sram a →
    let target := leNat (bs.take 4)
    let sum := leNat ((bs.drop 4).take 4) + k.bytes
    let gen := leNat ((bs.drop 8).take 4)
    let w1 := BitVec.ofNat 64 (leNat (bs.drop 8))
    let gens := if target = 0 then 0 else sum / target
    Happens s (.syncCredit x) fun t =>
      (w1.getLsbD 36 = false ∨ gens = 0 → t.wakes = s.wakes) ∧
      (w1.getLsbD 36 = true → ∀ i < gens, ∃ d, AL.find t.wakes (s.nextId + i) = some d ∧ d.copy = some y ∧
        d.msg.dst = s.gca ((ownerCell a).getD k.cell) ∧ d.msg.tag = BitVec.ofNat 4 (bits w1 35 32) ∧
        d.msg.words = [k.sync.setWidth 64, BitVec.ofNat 64 ((gen + i + 1) % 2 ^ 32), k.ident.setWidth 64, 0] ∧
        d.msg.scope = k.scope ∧ d.service = false) ∧
      AL.find t.credits x = none ∧ AL.find t.copies y = some { z with credits := z.credits - 1 } ∧
      { t with credits := s.credits, wakes := s.wakes, copies := s.copies, waits := s.waits, nextId := s.nextId } = s)

/-- R263, R264 and R326, WAKE_MESSAGE: the first waiting message of a copy takes half of its weight and is sent; with a weight of 1
left a mint is asked for; a message of a field's service scope is sent with 2^20 when its mint is granted. -/
def Claims.WakesAreSent : Prop :=
  ∀ (s : State) (x : Nat) (d : WakeDue), AL.find s.wakes x = some d →
    (d.service = true → d.granted = true →
      (∀ p ∈ s.wakes, p.1 < x → p.2.service = true → p.2.msg.dst = d.msg.dst → p.2.msg.words.head? ≠ d.msg.words.head?) → Happens s (.wakeMessage x) fun t => AL.find t.wakes x = none ∧
      AL.find t.msgs s.nextId = some ⟨{ d.msg with w := 2 ^ 20 }, d.msg.src⟩ ∧
      { t with wakes := s.wakes, msgs := s.msgs, hubPaths := s.hubPaths, nextId := s.nextId } = s) ∧
    (∀ y z, d.service = false → d.copy = some y → d.prog = none → d.xfer = none → AL.find s.copies y = some z →
      (∀ p ∈ s.wakes, p.1 < x → p.2.service = true ∨ p.2.copy ≠ d.copy ∨ p.2.xfer ≠ d.xfer) →
      let w := z.w + (if d.granted then 2 ^ 20 else 0)
      (1 < w → Happens s (.wakeMessage x) fun t => AL.find t.wakes x = none ∧
        AL.find t.msgs s.nextId = some ⟨{ d.msg with w := w / 2, sent := BitVec.ofNat 64 s.ns }, d.msg.src⟩ ∧
        AL.find t.copies y = some { z with w := w - w / 2 } ∧
        { t with wakes := s.wakes, msgs := s.msgs, copies := s.copies, hubPaths := s.hubPaths, nextId := s.nextId } = s) ∧
      (w ≤ 1 → d.asked = false → devOf (homeOf d.msg.scope) = s.devNum → Happens s (.wakeMessage x) fun t =>
        AL.find t.wakes x = some { d with asked := true } ∧
        (∃ colour, AL.find t.ctls s.nextId =
          some ⟨.mint, d.msg.hub, d.msg.src, homeOf d.msg.scope, d.msg.scope, 0, .wake x, 0, [], .answer, colour⟩) ∧
        { t with wakes := s.wakes, ctls := s.ctls, hubPaths := s.hubPaths, nextId := s.nextId } = s))


/-! ### Steps of the fabric (spec 18, 19) -/

/-- R353, R355 and R356, PACKET_FORWARD: a packet leaves on the port that was chosen for it, a class-O one on its route's, as one frame for
each flit, with the port's next sequence numbers, the CTXID in the first, SOP on the first, EOP on the last, its hop count as the
virtual channel and a good CRC, and every frame stands in the replay buffer, in its turn after what the port sends first; where the port
has no room the packet keeps it. A replica leaves by the port of its branch, and with the last one the packet that it was made of gives its
places back. A message of this device without a route returns its weight. -/
def Claims.PacketsAreForwarded : Prop :=
  ∀ (s : State) (x : Nat) (r : PacketRun), AL.find s.packets x = some r → s.packetQueued x r.pkt = false →
    s.packetBehind x r = false →
    let p := r.pkt
    let e := s.route (devOf p.dst).toNat
    (r.place = .egress none ∨ ∃ q, r.place = .transit q) →
    let takes := fun (o v : Nat) =>
      r.route = some (true, o, v) ∨ (r.route = none ∧ e.valid = true ∧ p.cls = .o ∧ o = e.oport ∧ v = 0)
    (∀ o v, takes o v → p.hop < 9 → s.portRoom o p.tenant { p with vrand := v }.flits.length = false →
      r.route = none → exec (.packetForward x) s = .next { s with
        packets := AL.put s.packets x { r with route := some (true, o, v) } }) ∧
    (∀ o v, takes o v → p.hop < 9 → (∀ a ∈ (s.port o).acks, a.1 < 4) → s.portTurn x p.hop o = true →
      s.portRoom o p.tenant { p with vrand := v }.flits.length = true →
      (1 ≤ p.kind → p.kind ≤ 3 → devOf p.src = s.devNum → ∀ q ∈ s.flights, BitVec.ofNat 24 q.1 = p.elem → q.2.stage ≠ .leaving) →
      Happens s (.packetForward x) fun t =>
        let old := s.port o
        let new := (t.port o).replay.drop old.replay.length
        let fs := { p with vrand := v }.flits
        AL.find t.packets x = none ∧ (t.port o).replay = old.replay ++ new ∧
        (t.port o).out = new.map SentFrame.frame ∧ new.map (fun f => f.frame.flit) = fs ∧
        (t.port o).sendSeq = old.sendSeq + BitVec.ofNat 12 fs.length ∧
        (∀ i, ∀ h : i < new.length,
          let f := new[i].frame
          linkSeq f = old.sendSeq + BitVec.ofNat 12 i ∧ linkVc f = p.hop ∧ linkSop f = decide (i = 0) ∧
          linkEop f = decide (i + 1 = fs.length) ∧ linkGood f = true ∧ (i = 0 → linkCtxid f = p.ctxid)) ∧
        (∀ k, k ≠ o → t.port k = s.port k) ∧
        { t with packets := s.packets, ports := s.ports, waits := s.waits } = s) ∧
    (r.route = none → e.valid = false → p.mc = false → p.kind = 0 → devOf p.src = s.devNum → p.hub = true → p.w ≠ 0 →
      devOf (homeOf p.scope) = s.devNum → Happens s (.packetForward x) fun t => AL.find t.packets x = none ∧
        (∃ q, AL.find t.ctls s.nextId = some q ∧ q.kind = .weightReturn ∧ q.dst = homeOf p.scope ∧ q.scope = p.scope ∧
          q.value = BitVec.ofNat 64 p.w) ∧ t.mem = s.mem ∧ t.ports = s.ports)

/-- R365, R367 and R368, PACKET_FORWARD of a replica: it is sent by the port of its branch as it stands, in its turn; when the last replica
of a packet has left, that packet's places are free. -/
def Claims.ReplicasLeave : Prop :=
  ∀ (s : State) (x y o : Nat) (r : PacketRun), AL.find s.packets x = some r → r.place = .egress (some o) → r.of_ = some y → x ≠ y →
    s.packetQueued x r.pkt = false → s.packetBehind x r = false → s.portTurn x r.pkt.hop o = true → r.pkt.hop < 9 →
    s.portRoom o r.pkt.tenant r.pkt.flits.length = true → (∀ a ∈ (s.port o).acks, a.1 < 4) → r.pkt.kind = 0 →
    Happens s (.packetForward x) fun t =>
      (t.port o).out.map LinkFrame.flit = r.pkt.flits ∧
      (t.port o).sendSeq = (s.port o).sendSeq + BitVec.ofNat 12 r.pkt.flits.length ∧ AL.find t.packets x = none ∧
      ((∃ z q, z ≠ x ∧ (z, q) ∈ s.packets ∧ q.of_ = some y) → AL.find t.packets y = AL.find s.packets y) ∧
      ((∀ z q, (z, q) ∈ s.packets → z ≠ x → q.of_ ≠ some y) → AL.find t.packets y = none) ∧
      { t with packets := s.packets, ports := s.ports, waits := s.waits } = s

/-- R368, ACK_RECEIVED, REFUSAL_RECEIVED, CORRUPT_RECEIVED and REFUSED_RESEND: the frames up to an acknowledged one leave the replay
buffer; those of a refused packet, up to the one with EOP, wait to be sent again and stay among those in flight; from a corrupt one on all are sent once more; and after 64 ns a refused
packet is sent with new sequence numbers. -/
def Claims.FramesAreAcknowledged : Prop :=
  ∀ (s : State) (k : Nat) (seq : BitVec 12) (pre post : List SentFrame) (f : SentFrame),
    let p := s.port k
    let only := fun (i : Instr) (q : Port) => Happens s i fun t =>
      t.port k = q ∧ (∀ j, j ≠ k → t.port j = s.port j) ∧ { t with ports := s.ports } = s
    (p.replay = pre ++ f :: post → f.seq = seq → (∀ g ∈ pre, g.seq ≠ seq) →
      only (.ackReceived k seq) { p with replay := post } ∧
      only (.corruptReceived k seq) { p with out := (f :: post).map SentFrame.frame } ∧
      (∀ mid e rest, f :: post = mid ++ e :: rest → linkEop e.frame = true → (∀ g ∈ mid, linkEop g.frame = false) →
        (∀ x ∈ p.refused, ∀ g ∈ x.frames, g.seq ≠ seq) →
        only (.refusalReceived k seq) { p with refused := p.refused ++ [⟨mid ++ [e], s.ns⟩] })) ∧
    (∀ since rest, p.refused = [⟨f :: rest, since⟩] → since + 64 ≤ s.ns → p.replay.length + (rest.length + 1) ≤ 256 →
      (∀ a ∈ p.acks, a.1 < 4) → f.vc < 9 →
      Happens s (.refusedResend k) fun t =>
        let q := t.port k
        q.refused = [] ∧ q.sendSeq = p.sendSeq + BitVec.ofNat 12 (rest.length + 1) ∧
        q.out.map LinkFrame.flit = (f :: rest).map (fun g => g.frame.flit) ∧ q.out = (q.replay.drop p.replay.length).map SentFrame.frame ∧
        (∀ i, ∀ h : i < q.out.length, linkSeq q.out[i] = p.sendSeq + BitVec.ofNat 12 i ∧ linkVc q.out[i] = f.vc ∧
          linkGood q.out[i] = true) ∧
        (∀ j, j ≠ k → t.port j = s.port j) ∧ { t with ports := s.ports } = s)

/-- R353 and R368, FRAME_RECEIVE and CONTROL_FRAME_RECEIVE: a frame with a wrong CRC is dropped and the expected number asked for; one out
of sequence is dropped; the first frame of a packet waits for its acceptance; a control frame brings the peer's free places and its
time, and with an echo the link's delay. -/
def Claims.FramesArrive : Prop :=
  ∀ (s : State) (k : Nat) (fr : LinkFrame),
    let p := s.port k
    let only := fun (i : Instr) (q : Port → Prop) => Happens s i fun t =>
      q (t.port k) ∧ (∀ j, j ≠ k → t.port j = s.port j) ∧ { t with ports := s.ports } = s
    (linkGood fr = false →
      only (.frameReceive k fr) (fun q => q = { p with acks := p.acks ++ [(3, p.recvSeq)] }) ∧
      only (.controlFrameReceive k fr) (fun q => q = { p with acks := p.acks ++ [(3, p.recvSeq)] })) ∧
    (linkGood fr = true → linkAckKind fr = 0 → linkVc fr ≠ 15 →
      (linkSeq fr ≠ p.recvSeq → exec (.frameReceive k fr) s = .next s) ∧
      (linkSeq fr = p.recvSeq → linkSop fr = true →
        only (.frameReceive k fr) (fun q => q = { p with recvSeq := p.recvSeq + 1, waiting := p.waiting ++ [fr] }))) ∧
    (linkGood fr = true → linkAckKind fr = 0 → linkVc fr = 15 → fr.flit.length = 8 →
      let num := fun (o n : Nat) => leNat ((controlBytes fr).drop o |>.take n)
      ∀ i ∈ [Instr.frameReceive k fr, .controlFrameReceive k fr], only i fun q =>
        q.peerFree = (List.range 9).map (fun j => 8 * num j 1) ∧ q.peerTx.toNat = num 16 8 ∧ q.peerAt = s.ns ∧
        q.peerDist.toNat = num 36 2 ∧ q.peerRef.toNat = num 38 2 ∧
        (num 24 8 = 0 → q.delay = p.delay ∧ q.offsets = p.offsets) ∧
        (num 24 8 ≠ 0 → q.delay = ((s.ns : Int) - num 24 8 - num 32 4) / 2 ∧
          (p.offsets.length < 16 → q.offsets = p.offsets ++ [(num 16 8 : Int) + q.delay - s.ns])) ∧
        q.replay = p.replay ∧ q.recvSeq = p.recvSeq ∧ q.acks = p.acks ∧ q.waiting = p.waiting)

/-- R360 and R367, PACKET_ACCEPT: a packet of one frame for which its port has places is accepted and acknowledged; well formed and
for this device, it is to be served here, with its hop count one higher. Without places it is refused whole. -/
def Claims.PacketsAreAccepted : Prop :=
  ∀ (s : State) (k : Nat) (f : LinkFrame),
    let r := s.port k
    let h := Packet.ofHeader (linkCtxid f) f.flit
    let p := Packet.ofFlits (linkCtxid f) [f.flit]
    r.waiting = [f] → linkSop f = true → linkEop f = true → (h.cls = .o ∨ h.mc = true → r.blocked = []) → bits (f.flit.headD 0) 59 57 = 0 →
    (∀ part, s.placePart k h.tenant (linkVc f) 1 = some part → p.ok [f.flit] = true → p.mc = false → devOf p.dst = s.devNum →
      p.kind ≠ 7 → Happens s (.packetAccept k) fun t =>
        AL.find t.packets s.nextId =
          some ⟨{ p with hop := p.hop + 1 }, .served (some k), 1, part, linkVc f, [], s.groups, none, none⟩ ∧
        t.port k = { r with waiting := [], acks := r.acks ++ [(1, r.recvSeq - 1)] } ∧
        (∀ j, j ≠ k → t.port j = s.port j) ∧
        { t with ports := s.ports, packets := s.packets, nextId := s.nextId } = s) ∧
    (s.placePart k h.tenant (linkVc f) 1 = none → Happens s (.packetAccept k) fun t =>
      t.port k = { r with
        waiting := [], acks := r.acks ++ [(2, linkSeq f), (1, r.recvSeq - 1)], drops := r.drops + (if h.mc then 1 else 0),
        blocked := if h.cls = .o ∨ h.mc = true then [(h.src, f.flit)] else r.blocked } ∧
      (∀ j, j ≠ k → t.port j = s.port j) ∧ { t with ports := s.ports } = s)

/-- R353 and R382, CONTROL_FRAME_SEND, TIME_SLEW and TIME_LOAD: a control frame carries the free places, the time, the peer's last time
and how long it was held; the correction of a device that is not the reference is the mean of its parent port's offsets; the
start-up load never turns the count back. -/
def Claims.TimeIsAligned : Prop :=
  ∀ (s : State) (k : Nat),
    (let r := s.port k
     s.ns < 2 ^ 64 → s.ns - r.peerAt < 2 ^ 32 → (∀ a ∈ r.acks, a.1 < 4) →
     Happens s (.controlFrameSend k) fun t => ∃ fr, (t.port k).out = [fr] ∧ linkVc fr = 15 ∧ linkGood fr = true ∧
       (let num := fun (o n : Nat) => leNat ((controlBytes fr).drop o |>.take n)
        num 16 8 = s.ns ∧ num 24 8 = r.peerTx.toNat ∧ num 32 4 = (if r.peerTx = 0 then 0 else s.ns - r.peerAt) ∧
        num 38 2 = s.time.reference.toNat ∧ ∀ j < 9, num j 1 = s.freeReport k j) ∧
       (t.port k).acks = r.acks.tail ∧ (t.port k).replay = r.replay ∧ (∀ j, j ≠ k → t.port j = s.port j) ∧
       { t with ports := s.ports } = s) ∧
    (s.time.reference = s.devNum → exec .timeSlew s = .next { s with time := { s.time with slew := 0 } }) ∧
    (∀ q, s.time.reference ≠ s.devNum → s.timeParent = some q → exec .timeSlew s = .next { s with time := { s.time with
      slew := if (s.port q).offsets = [] then 0 else ((s.port q).offsets.sum).tdiv (s.port q).offsets.length } }) ∧
    (∀ q, s.time.loaded = false → s.fields = [] → s.timeParent = some q → exec .timeLoad s = .next { s with
      ns := max s.ns ((s.port q).peerTx.toNat + (s.port q).delay).toNat, time := { s.time with loaded := true } }) ∧
    (s.time.loaded = true ∨ s.fields ≠ [] → exec .timeLoad s = .next s)

/-- R354, R358, R359, R361 and R363, MESSAGE, WEIGHT, NACK and RESPONSE: a message whose CTXID, field and tenant are known goes on to its cell,
and another is answered with a NACK that holds its header; a weight return goes to its scope's home; a NACK returns the weight of
the message it refuses, and is passed to the trap handler of its source's field; a response answers the access that echoes its
identifier. -/
def Claims.PacketsAreServed : Prop :=
  ∀ (s : State) (x : Nat) (r : PacketRun) (port : Option Nat), AL.find s.packets x = some r → r.place = .served port →
    r.pkt.mc = false → s.servedBehind x r.pkt = false → x < s.nextId →
    let p := r.pkt
    (p.kind = 0 → isBuiltIn p.handler = false → (s.route (devOf p.src).toNat).hostn = false →
      (∀ f, s.fieldByCtx p.ctxid = some f → f.ctx.holds (cellOf p.dst) = true → f.ctx.tenants.getLsbD p.tenant.toNat = true →
        Happens s (.message x) fun t => AL.find t.packets x = none ∧ AL.find t.msgs x = some ⟨{ Msg.zero with
          dst := p.dst, handler := p.handler, words := p.words, elem := p.elem, stage := p.stage, tag := p.tag, hub := p.hub,
          src := p.src, scope := p.scope, w := p.w, tenant := p.tenant, colour := p.colour, cls := p.cls,
          sent := p.time.setWidth 64 }, p.src⟩ ∧
          { t with packets := s.packets, msgs := s.msgs, waits := s.waits, hubPaths := s.hubPaths } = s) ∧
      (s.fieldByCtx p.ctxid = none → devOf p.src ≠ s.devNum → Happens s (.message x) fun t => AL.find t.packets x = none ∧
        (∃ q, AL.find t.packets s.nextId = some q ∧ q.pkt.kind = 5 ∧ q.pkt.status = 6 ∧ q.pkt.dst = p.src ∧
          q.pkt.words = p.header ∧ q.place = .egress none) ∧ t.msgs = s.msgs ∧ t.mem = s.mem)) ∧
    (p.kind = 6 → Happens s (.weight x) fun t => AL.find t.packets x = none ∧
      AL.find t.ctls x = some ⟨.weightReturn, p.hub, p.src, p.dst, p.scope, 0, .none, p.addr.setWidth 64, [], .answer, p.colour⟩ ∧
      { t with packets := s.packets, ctls := s.ctls, waits := s.waits, hubPaths := s.hubPaths } = s) ∧
    (p.kind = 5 →
      let m := Packet.ofHeader 0 p.words
      (m.kind = 0 → m.w ≠ 0 → devOf (homeOf m.scope) = s.devNum → m.hub = true → Happens s (.nack x) fun t =>
        AL.find t.packets x = none ∧ (∃ q, AL.find t.ctls s.nextId = some q ∧ q.kind = .weightReturn ∧ q.dst = homeOf m.scope ∧
          q.scope = m.scope ∧ q.value = BitVec.ofNat 64 m.w) ∧ t.mem = s.mem ∧ t.msgs = s.msgs) ∧
      (∀ f, m.kind ≠ 0 → m.hub = false → s.fieldOf (cellOf m.src) = some f → Happens s (.nack x) fun t =>
        AL.find t.packets x = none ∧ (∃ d, AL.find t.wakes s.nextId = some d ∧ d.service = true ∧
          d.msg.dst = s.gca f.ctx.trapCell ∧ d.msg.handler = f.ctx.trapH ∧
          d.msg.words = nackWords p.status.toNat m.handler m.src m.elem m.scope) ∧ t.mem = s.mem ∧ t.msgs = s.msgs)) ∧
    (∀ y f a, p.kind = 4 → s.flightByRid p.elem = some (y, f) → AL.find s.flights y = some f → f.issuer = .act a →
      f.posted = false →
      (p.status ≠ 0 → Happens s (.response x) fun t => AL.find t.packets x = none ∧
        AL.find t.flights y = some { f with stage := .answered (.err ⟨p.status.toNat, f.va⟩) } ∧
        { t with packets := s.packets, flights := s.flights, waits := s.waits } = s) ∧
      (∀ n, p.status = 0 → f.op = .load n → n ≤ 8 → Happens s (.response x) fun t => AL.find t.packets x = none ∧
        AL.find t.flights y = some { f with stage := .answered (.data (leBytes n (p.words.headD 0).toNat)) } ∧
        { t with packets := s.packets, flights := s.flights, waits := s.waits } = s))

/-- R202, R203 and R361, LOAD, STORE and ATOMIC of another device: done on the bytes at the address in the context that the CTXID names, an
atomic operation in its turn at the engine that serves the address, and answered with a RESPONSE of status 0 that echoes the identifier;
an unknown CTXID is answered with WINDOW. -/
def Claims.RemoteAccessesAreServed : Prop :=
  ∀ (s : State) (x n a : Nat) (r : PacketRun) (port : Option Nat), AL.find s.packets x = some r → r.place = .served port →
    r.pkt.mc = false → s.servedBehind x r.pkt = false → s.waitOf (.packet x) = .none → x < s.nextId →
    let p := r.pkt
    devOf p.src ≠ s.devNum →
    let answers := fun (t : State) (src : BitVec 24) (status : BitVec 8) (ws : List Word) => AL.find t.packets x = none ∧
      AL.find t.packets s.nextId = some ⟨{ Packet.zero with
        kind := 4, cls := p.cls, colour := p.colour, tenant := p.tenant, dst := p.src, src := src, hub := true, elem := p.elem,
        status := status, time := BitVec.ofNat 32 s.ns, words := ws }, .egress none, 0, 0, 0, [], [], none, none⟩
    (s.fieldByCtx p.ctxid = none → let refuses := fun (t : State) => answers t (s.portUnit (port.getD 0)) 7 [] ∧ t.mem = s.mem
      (p.kind = 1 → Happens s (.load x) refuses) ∧ (p.kind = 2 → Happens s (.store x) refuses) ∧
      (p.kind = 3 → Happens s (.atomic x) refuses)) ∧
    (∀ f, s.fieldByCtx p.ctxid = some f → f.ctx.tenants.getLsbD p.tenant.toNat = true → f.ctx.holds (cellOf p.dst) = true →
      onceOnly f.segs p.addr.toNat = false →      n ∈ [1, 2, 4, 8] → p.addr.toNat % n = 0 → oneRegion f.segs p.addr.toNat n = true →
      (∀ need ∈ [Need.r, .w, .atom], resolve f.segs none p.addr.toNat need = .sram a) → s.flatFenced a = false →
      s.poisoned a n = false → s.raceOn a = false → s.cold (a / 64) = true → (∀ c, ownerCell a = some c → s.follower c = none) →
      let old := leNat (s.mem.bytes a n)
      let src := s.responder x p (some f) port
      (p.kind = 1 → 2 ^ p.op.toNat = n → Happens s (.load x) fun t => answers t src 0 [BitVec.ofNat 64 old, 0, 0, 0] ∧
        { t with packets := s.packets, waits := s.waits, nextId := s.nextId } = s) ∧
      (p.kind = 2 → p.storeLength = n → p.words ≠ [] → Happens s (.store x) fun t => answers t src 0 [] ∧
        (∀ j, t.mem.get j = if a ≤ j ∧ j < a + n then ((leBytes n (p.words.headD 0).toNat)[j - a]?).getD 0 else s.mem.get j) ∧
        { t with mem := s.mem, poison := s.poison, packets := s.packets, waits := s.waits, nextId := s.nextId } = s) ∧
      (∀ op w b c, p.kind = 3 → p.atomOp = some (.atomic op w b c) → n = (if w then 4 else 8) →
        let line := AL.find (s.linesOf (.packet x)) (engineKey p.addr.toNat)
        (line = none → Happens s (.atomic x) fun t =>
          (∃ g, AL.find t.flights s.nextId = some g ∧ g.issuer = .line (.packet x) ∧ g.op = .atomic op w b c ∧ g.target = .sram a ∧
            g.cls = p.cls ∧ g.stage = .going) ∧
          t.waitOf (.packet x) = .flight s.nextId ∧ t.mem = s.mem ∧ t.packets = s.packets) ∧
        (∀ bs, line = some bs → Happens s (.atomic x) fun t => answers t src 0 [BitVec.ofNat 64 (leNat bs)] ∧
          { t with packets := s.packets, waits := s.waits, nextId := s.nextId } = s)))

/-- R364, R365 and R367, MULTICAST_PACKET: a branch that forwards makes a replica for its port with the branch's own tree; one that delivers
makes a copy for the destination's cell on this device; one that names a group makes a replica for each of its ports, and a copy where the
group delivers here. The packet keeps its places until its replicas have left. -/
def Claims.MulticastReplicates : Prop :=
  ∀ (s : State) (x : Nat) (r : PacketRun) (port : Option Nat), AL.find s.packets x = some r → r.place = .served port →
    r.pkt.mc = true → s.servedBehind x r.pkt = false → r.pkt.hop < 9 → x < s.nextId → ∀ (b : Byte) (tree : List Byte),
    r.pkt.tree = b :: tree →
    let rest := fun (t : State) => AL.find t.packets x = some { r with place := .held port } ∧
      { t with packets := s.packets, nextId := s.nextId } = s
    let copy : PacketRun :=
      ⟨{ r.pkt with tree := [], dst := s.devNum ++ r.pkt.dst.setWidth 12 }, .served port, 0, 0, 0, [], [], none, some x⟩
    (∀ q sub, treeBranches tree = [.forward q sub] → Happens s (.multicastPacket x) fun t => rest t ∧
      AL.find t.packets s.nextId =
        some ⟨{ r.pkt with tree := BitVec.ofNat 8 sub.length :: sub }, .egress (some q), 0, 0, 0, [], [], none, some x⟩) ∧
    (treeBranches tree = [.deliver] → Happens s (.multicastPacket x) fun t => rest t ∧ AL.find t.packets s.nextId = some copy) ∧
    (∀ g ports here, treeBranches tree = [.group g] → AL.find r.groups g = some ⟨ports, true, here⟩ → ports ≠ 0 →
      Happens s (.multicastPacket x) fun t =>
        let n := ((List.range 64).filter (fun q => ports.getLsbD q)).length
        rest t ∧ (∀ q < 64, ports.getLsbD q = true → ∃ k, s.nextId ≤ k ∧ AL.find t.packets k =
          some ⟨{ r.pkt with tree := [3, 1, 0x80, BitVec.ofNat 8 g] }, .egress (some q), 0, 0, 0, [], [], none, some x⟩) ∧
        t.nextId = s.nextId + n + (if here then 1 else 0) ∧
        (here = true → AL.find t.packets (s.nextId + n) = some copy))


/-! ### Steps of the command processors (spec 17) -/

/-- R333, R335 and R362, DOORBELL and BUILT_IN_HANDLER: the queue's own node moves its TAIL forward by up to the ring's size; a step back
changes nothing, one beyond the ring stops the queue with OVERRUN, and another node is answered with a NACK. A message to the
front end's doorbell does the same and returns its weight; one in a slot of a cell to an address without a handler is refused with
NO_HANDLER. -/
def Claims.DoorbellsRing : Prop :=
  ∀ (s : State),
    (∀ node q tail, let e := s.queue q
      let n := BitVec.ofNat 12 node
      let t := BitVec.ofNat 32 tail
      (n = e.host → e.state ≠ .disabled →
        ((t - e.tail).toNat < 2 ^ 31 → (t - e.head).toNat ≤ 2 ^ e.log2n → Happens s (.doorbell node q tail) fun u =>
          u.queue q = { e with tail := t } ∧ (∀ k, k ≠ q → u.queue k = s.queue k) ∧ { u with queues := s.queues } = s) ∧
        (2 ^ 31 ≤ (t - e.tail).toNat → exec (.doorbell node q tail) s = .next s) ∧
        ((t - e.tail).toNat < 2 ^ 31 → 2 ^ e.log2n < (t - e.head).toNat → Happens s (.doorbell node q tail) fun u =>
          (u.queue q).state = .error ∧ (u.queue q).errcode = 0x11 ∧ (u.queue q).tail = e.tail ∧ (u.queue q).head = e.head ∧
          q ∉ (u.cp (cpOf q)).slots ∧ { u with queues := s.queues, cps := s.cps } = s)) ∧
      (n ≠ e.host ∨ e.state = .disabled → Happens s (.doorbell node q tail) fun u =>
        (∃ r, AL.find u.packets s.nextId = some r ∧ r.pkt.kind = 5 ∧ r.pkt.dst = n ++ (0 : BitVec 12)) ∧
        { u with packets := s.packets, nextId := s.nextId } = s)) ∧
    (∀ m f w0 w1 rest, AL.find s.msgs m = some f → s.queued m f = false → s.msgBehind m f = false →
      s.sourceFenced f.msg = false → f.msg.words = w0 :: w1 :: rest → f.msg.w ≠ 0 → devOf (homeOf f.msg.scope) = s.devNum →
      let weight := fun (u : State) => ∃ c, AL.find u.ctls s.nextId = some c ∧ c.kind = .weightReturn ∧
        c.dst = homeOf f.msg.scope ∧ c.scope = f.msg.scope ∧ c.value = BitVec.ofNat 64 f.msg.w
      let q := bits w0 12 0
      let e := s.queue q
      let t : BitVec 32 := w1.setWidth 32
      (f.msg.handler = 0xFFFFFFFFFFE0 → devOf f.msg.src = e.host → e.state ≠ .disabled →
        (t - e.tail).toNat < 2 ^ 31 → (t - e.head).toNat ≤ 2 ^ e.log2n → Happens s (.builtInHandler m) fun u =>
          AL.find u.msgs m = none ∧ u.queue q = { e with tail := t } ∧ weight u ∧ u.mem = s.mem)) ∧
    (∀ m c k (q : InSlot), AL.find s.msgs m = none → s.builtInSlot m = some (c, k, q) → q.msg.handler ≠ 0xFFFFFFFFFFC0 →
      s.follower c = none → q.msg.w ≠ 0 → devOf (homeOf q.msg.scope) = s.devNum → Happens s (.builtInHandler m) fun u =>
        AL.find (u.cell c).slots k = none ∧ u.mem = s.mem ∧
        (u.cell c).refusals = log8 (s.cell c).refusals ⟨1, q.msg.handler, q.msg.src, q.msg.scope⟩ ∧
        ∃ x, AL.find u.ctls s.nextId = some x ∧ x.kind = .weightReturn ∧ x.dst = homeOf q.msg.scope ∧ x.scope = q.msg.scope ∧
          x.value = BitVec.ofNat 64 q.msg.w)

/-- R341, PACKET_SELECT: of the queues in a processor's slots whose packets may be processed, where BARRIER, WAIT and FENCE hold none back, the
one with the highest EFF, then the
largest AGERUN, then the lowest number is taken, and its RAISE and AGERUN return to 0; a malformed packet stops its queue with
BADPACKET. -/
def Claims.QueuesAreChosen : Prop :=
  ∀ (s : State) (p q : Nat) (e : QueueEntry) (ws : List Word), (s.cp p).work = none → s.competing p = [] →
    (∀ k ∈ s.queues, (s.queue k.1).headDue = false) → AL.find s.queues q = some e → q ∈ (s.cp p).slots →
    (∀ k ∈ (s.cp p).slots, ((s.queue k).state = .ready → (s.queue k).packet ≠ none) ∧ s.reachHead k = s) → s.mayProcess q e = true →
    e.packet = some ws → cpOf q = p →
    (∀ k ∈ s.queues, k.1 ∈ (s.cp p).slots → s.mayProcess k.1 k.2 = true → k = (q, e) ∨ k.2.eff < e.eff ∨
      (k.2.eff = e.eff ∧ (k.2.agerun.toNat < e.agerun.toNat ∨ (k.2.agerun = e.agerun ∧ q < k.1)))) →
    let taken : QueueEntry := { e with raise := 0, agerun := 0, taken := true }
    (hostPacketOk ws = true → Happens s (.packetSelect p) fun t => t.queue q = taken ∧ (t.cp p).work = some q ∧
      (t.cp p).slots = (s.cp p).slots ∧ { t with queues := s.queues, cps := s.cps } = s) ∧
    (hostPacketOk ws = false → Happens s (.packetSelect p) fun t => (t.queue q).state = .error ∧ (t.queue q).errcode = 0x10 ∧
      (t.queue q).errpkt = e.headAddr ∧ (t.queue q).head = e.head ∧ (t.cp p).work = none ∧ q ∉ (t.cp p).slots ∧
      { t with queues := s.queues, cps := s.cps } = s)

/-- R334, R339 to R341, NOP_PACKET, WAIT_PACKET, WAIT_RECHECK, SIGNAL_PACKET, FENCE_PACKET and PACKET_SELECT: a NOP, a WAIT whose comparison
has held, a SIGNAL once its word has been written or added to at the atomic engine that serves it, and a FENCE whose launches have
completed consume their packet; a queue that reaches a WAIT that does not hold is WAITING and compares again, and one that reaches a
FENCE notes the launches that it waits for. -/
def Claims.PacketsAreConsumed : Prop :=
  ∀ (s : State) (p q : Nat) (e : QueueEntry) (w0 w1 w2 : Word) (ws : List Word), s.queue q = e → cpOf q = p →
    e.packet = some (w0 :: w1 :: w2 :: ws) → s.waitOf (.queue q) = .none → s.waitOf (.wait q) = .none →
    let kind := bits w0 7 0
    let va := bits w1 47 0
    let consumed := fun (u t : State) => t.queue q = { e with
        head := e.head + 1, packet := none, fenceOn := none, waitOk := false, headDue := e.headptr != 0,
        state := if e.head + 1 = e.tail then .idle else .ready } ∧
      (t.cp p).work = none ∧ (e.head + 1 = e.tail → q ∉ (t.cp p).slots) ∧ (∀ k, k ≠ q → t.queue k = s.queue k) ∧
      { t with queues := s.queues, cps := s.cps, waits := s.waits } = { u with queues := s.queues, cps := s.cps, waits := s.waits }
    ((s.cp p).work = some q → e.state = .ready →
      (kind = 0 → Happens s (.nopPacket p) (consumed s)) ∧
      (∀ u, kind = 3 → u.queues = s.queues → u.cps = s.cps →
        w0.getLsbD 9 = false → (writeVaWait (s.whoQueue q (.queue q)) va (leBytes 8 w2.toNat)).exec s = (.ok (), u) →
          Happens s (.signalPacket p) (consumed u)) ∧
      (kind = 3 → w0.getLsbD 9 = true → let line := AL.find (s.linesOf (.queue q)) (engineKey va)
        (∀ bs, line = some bs → Happens s (.signalPacket p) (consumed s)) ∧
        (∀ a, line = none → resolve (s.whoQueue q (.queue q)).segs none va .atom = .sram a → Happens s (.signalPacket p) fun t =>
          (∃ f, AL.find t.flights s.nextId = some f ∧ f.issuer = .line (.queue q) ∧ f.op = .atomic .add false w2 0 ∧
            f.target = .sram a ∧ f.stage = .going) ∧
          t.waitOf (.queue q) = .flight s.nextId ∧ t.queues = s.queues ∧ t.cps = s.cps ∧ t.mem = s.mem)) ∧
      (∀ l, kind = 4 → e.fenceOn = some l → (∀ x ∈ l, s.openLaunch x = false) → Happens s (.fencePacket p) (consumed s)) ∧
      (kind = 2 → e.waitOk = true → Happens s (.waitPacket p) (consumed s))) ∧
    (let reaches := (s.cp p).work = none ∧ s.competing p = [] ∧ (∀ k ∈ s.queues, (s.queue k.1).headDue = false) ∧
       (s.cp p).slots = [q] ∧ AL.find s.queues q = some e ∧ e.state = .ready ∧ hostPacketOk (w0 :: w1 :: w2 :: ws) = true
     (let l := (fenceQueues (w0 :: w1 :: w2 :: ws)).flatMap s.consumedLaunches
      reaches → kind = 4 → e.fenceOn = none → (∃ x ∈ l, s.openLaunch x = true) → Happens s (.packetSelect p) fun t =>
        t.queue q = { e with fenceOn := some l } ∧ { t with queues := s.queues } = s) ∧
    (∀ v, kind = 2 → w0.getLsbD 12 = false → (readWord (s.whoQueue q (.wait q)) va .r).exec s = (.ok v, s) →
      let holds := match bits w0 11 9 with
        | 0 => v = w2 | 1 => v ≠ w2 | 2 => v.toInt < w2.toInt | 3 => w2.toInt ≤ v.toInt | 4 => v.toNat < w2.toNat
        | _ => w2.toNat ≤ v.toNat
      let becomes := fun (u : QueueEntry) (t : State) => t.queue q = u ∧ (∀ k, k ≠ q → t.queue k = s.queue k) ∧ t.mem = s.mem
      (reaches → e.waitOk = false → w0.getLsbD 8 = false →
        (holds → Happens s (.packetSelect p) fun t => (t.cp p).work = some q ∧
          becomes { e with waitOk := true, raise := 0, agerun := 0, taken := true } t) ∧
        (¬ holds → Happens s (.packetSelect p) (becomes { e with state := .waiting }))) ∧
      (e.state = .waiting →
        (holds → Happens s (.waitRecheck q) (becomes { e with state := .ready, waitOk := true })) ∧
        (¬ holds → Happens s (.waitRecheck q) (becomes e)))))

/-- R335 to R337, LAUNCH: a packet that R335 accepts opens a root scope with 2^40 of weight in the home of its first element, and with a
parent asks for its link first; a COUNT above 2^24 completes with the code COUNT. -/
def Claims.LaunchesOpen : Prop :=
  ∀ (s : State) (p q : Nat) (e : QueueEntry) (ws : List Word) (f : Field), (s.cp p).work = some q → s.queue q = e →
    e.packet = some ws → bits (pw ws 0) 7 0 = 1 → s.launchAt p = none → AL.find s.fields e.field = some f →
    let w6 := pw ws 6
    let count := bits w6 24 0
    (∀ h k, count ≤ 2 ^ 24 → s.launchHome f ws count = some h → h < 4096 → s.freeScope h = some k → k < 256 →
      let root := scopeId s.devNum h k
      let parent := w6.extractLsb' 32 32
      let opened := fun (t : State) (par : BitVec 32) (st : LaunchStage) =>
        (let r := t.scopeRec root
         r.life = .open ∧ r.parent = par ∧ r.issued = 2 ^ 40 ∧ r.retd = 0 ∧ r.kids = [] ∧ r.depth = 0 ∧ r.tenant = e.tenant ∧
         r.colour = f.ctx.colour ∧ r.root = true ∧ r.canc = false ∧ r.shld = false ∧ r.clmd = false) ∧
        AL.find t.launches s.nextId = some ⟨q, p, e.field, ws, e.headAddr, count, h, root, st, false, false⟩ ∧
        t.queues = s.queues ∧ t.cps = s.cps ∧ t.mem = s.mem ∧ t.msgs = s.msgs
      (w6.getLsbD 29 = false → Happens s (.launch p) fun t => opened t 0 (.sending 0) ∧ t.ctls = s.ctls) ∧
      (w6.getLsbD 29 = true → devOf (homeOf parent) = s.devNum → Happens s (.launch p) fun t => opened t parent .linking ∧
        ∃ n colour, AL.find t.ctls n =
          some ⟨.link, true, s.cpUnit p, homeOf parent, parent, root, .scope root, 1, [], .answer, colour⟩)) ∧
    (2 ^ 24 < count → sigAddr ws = 0 → cpOf q = p → Happens s (.launch p) fun t => (t.queue q).errcode = 0x01 ∧
      (t.queue q).errpkt = e.headAddr ∧ (t.queue q).head = e.head + 1 ∧ (t.cp p).work = none ∧ t.launches = s.launches ∧
      t.mem = s.mem)

/-- R336 and R337, LAUNCH_START_MESSAGE and FREE_SLOT_REPORT: each element's message carries the packet's words, its number and 2^15 of
the root's weight to its cell; after the last the root is closed, the rest of its weight returns, and the packet is consumed. -/
def Claims.LaunchesSend : Prop :=
  ∀ (s : State),
    (∀ (p x n c : Nat) (l : Launch) (f : Field), s.launchAt p = some (x, l) → AL.find s.launches x = some l → l.stage = .sending n →
      AL.find s.fields l.field = some f → (s.queue l.queue).state ≠ .paused → (s.queue l.queue).state ≠ .recovering →
      l.dropped = false → n < l.count → (if n = 0 then some l.home else s.elementCell f l.packet n) = some c →
      let sent := fun (t : State) => AL.find t.msgs s.nextId = some ⟨{ Msg.zero with
          dst := s.gca c, handler := BitVec.ofNat 48 (bits (pw l.packet 0) 63 16), words := (l.packet.drop 1).take 4,
          elem := BitVec.ofNat 24 n, hub := true, src := s.cpUnit l.cp, scope := l.root, w := 2 ^ 15,
          tenant := (s.queue l.queue).tenant, colour := f.ctx.colour, sent := BitVec.ofNat 64 s.ns }, s.cpUnit l.cp⟩ ∧
        (t.cell c).placeFree = (s.cell c).placeFree - (if bits (pw l.packet 6) 28 27 = 2 then 1 else 0) ∧ t.mem = s.mem
      (n + 1 < l.count → Happens s (.launchStartMessage p) fun t => sent t ∧
        AL.find t.launches x = some { l with stage := .sending (n + 1) } ∧
        { t with msgs := s.msgs, cells := s.cells, launches := s.launches, hubPaths := s.hubPaths, nextId := s.nextId } = s) ∧
      (n + 1 = l.count → l.count < 2 ^ 25 → devOf (homeOf l.root) = s.devNum → (s.scopeRec l.root).live = true →
        Happens s (.launchStartMessage p) fun t => sent t ∧ AL.find t.launches x = some { l with stage := .outstanding } ∧
          t.scopeRec l.root = { s.scopeRec l.root with life := .closing } ∧
          (∃ m, AL.find t.ctls (s.nextId + 1) = some m ∧ m.kind = .weightReturn ∧ m.scope = l.root ∧ m.dst = homeOf l.root ∧
            m.value = BitVec.ofNat 64 (2 ^ 40 - l.count * 2 ^ 15)) ∧
          (t.queue l.queue).head = (s.queue l.queue).head + 1)) ∧
    (∀ c, Happens s (.freeSlotReport c) fun t => (t.cell c).placeFree = (s.freeFrames c).length ∧
      { t.cell c with placeFree := (s.cell c).placeFree } = s.cell c ∧ (∀ k, k ≠ c → t.cell k = s.cell k) ∧
      { t with cells := s.cells } = s)

/-- R338, LAUNCH_COMPLETE: once its root has emptied, and no recovery of its field is under way, a launch completes: its signal word takes
SIGVAL, a linked parent gets back the unit that the link issued, and the root is unlinked there; a signal that had to wait is written
then. -/
def Claims.LaunchesComplete : Prop :=
  ∀ (s : State) (x : Nat) (l : Launch), AL.find s.launches x = some l → s.waitOf (.launch x) = .none →
    let signals := fun (r : State) => ∀ u, sigAddr l.packet ≠ 0 →
      (writeVaWait (r.whoQueue l.queue (.launch x)) (sigAddr l.packet)
        (leBytes 8 (bits (pw l.packet 5) 63 48 * 65536 + bits (pw l.packet 7) 63 48))).exec r = (.ok (), u) →
      Happens s (.launchComplete x) fun t => AL.find t.launches x = none ∧ t.mem = u.mem
    (l.stage = .completing → signals s) ∧
    (l.stage = .emptied → s.recovering l.field = false → l.linked = false →
      (sigAddr l.packet = 0 → Happens s (.launchComplete x) fun t => AL.find t.launches x = none ∧
        { t with launches := s.launches, queues := s.queues } = s ∧ ∀ k, k ≠ l.queue → t.queue k = s.queue k) ∧
      signals { s with launches := AL.put s.launches x { l with stage := .completing } }) ∧
    (let parent := (pw l.packet 6).extractLsb' 32 32
     l.stage = .emptied → s.recovering l.field = false → l.linked = true → sigAddr l.packet = 0 → devOf (homeOf parent) = s.devNum → Happens s (.launchComplete x) fun t =>
       AL.find t.launches x = none ∧
       (∃ m, AL.find t.ctls s.nextId = some m ∧ m.kind = .weightReturn ∧ m.scope = parent ∧ m.value = 1) ∧
       (∃ m, AL.find t.ctls (s.nextId + 1) = some m ∧ m.kind = .unlink ∧ m.scope = parent ∧ m.other = l.root) ∧ t.mem = s.mem)

/-- R341, R342, R348 and R421, AGEING_TICK, TOLL_EXPIRY, TOLL_EXTEND, TOLL_RECOVER and PLUGIN_TIMEOUT: a microsecond ages every READY queue that
was not served and every PARKED one, raises a level when AGE is reached, and counts the toll of outstanding launches; a timer that has
reached TOLL expires, and its tenant's plug-in runs on its hart, unless the management firmware is being changed; the plug-in's answer, with
which it yields, or its silence for 1,000 microseconds, extends the toll or begins the recovery. Which hart a tenant's plug-in has is the
model's choice (log 14). -/
def Claims.QueuesAgeAndExpire : Prop :=
  ∀ (s : State),
    ((∀ q ∈ s.queues, s.unsatisfied q.1 q.2 = none) → Happens s .ageingTick fun t =>
      { t with queues := s.queues, harts := s.harts } = s ∧
      (∀ k h, AL.find s.harts k = some h → AL.find t.harts k = some { h with plug := h.plug.map (fun p => (p.1, p.2 + 1)) }) ∧
      ∀ q e, AL.find s.queues q = some e → ∃ u, AL.find t.queues q = some u ∧
        (let ages := (e.state = .ready ∧ e.taken = false) ∨ e.state = .parked
         (¬ ages → u.agerun = e.agerun ∧ u.raise = e.raise) ∧
         (ages → (e.age = 0 ∨ (e.agerun + 1).toNat < e.age.toNat) → u.agerun = e.agerun + 1 ∧ u.raise = e.raise) ∧
         (ages → e.age ≠ 0 → e.age.toNat ≤ (e.agerun + 1).toNat → u.agerun = 0 ∧ u.raise = min (e.raise + 1) (7 - e.prio)) ∧
         u.eff = e.prio + u.raise ∧ u.taken = false ∧ u.head = e.head ∧ u.tail = e.tail ∧ u.state = e.state ∧
         u.asked = (if e.expired = false then 0 else if s.firmware.changing then e.asked else e.asked + 1) ∧
         u.tollrun = (if s.launchesOf q = [] then 0 else if s.tollCounts q e then e.tollrun + 1 else e.tollrun))) ∧
    (∀ q, let e := s.queue q
      let tenant := e.tenant.toNat
      let k := 6 + tenant % 2
      let becomes := fun (i : Instr) (u : QueueEntry) (r : AL Recovery) (w : AL Hart → Prop) => Happens s i fun t => t.queue q = u ∧
        (∀ k, k ≠ q → t.queue k = s.queue k) ∧ t.recovery = r ∧ w t.harts ∧ (∀ j, j ≠ k → AL.find t.harts j = AL.find s.harts j) ∧
        { t with queues := s.queues, recovery := s.recovery, harts := s.harts } = s
      let alone := ∀ j ∈ s.queues, j.1 ≠ q → j.2.expired = false
      let yields := fun (w : AL Hart) => ∀ h, AL.find s.harts k = some h → alone →
        AL.find w k = some (if h.plug.map Prod.fst = some tenant then { h with pmp := List.replicate 16 PmpEntry.empty, plug := none } else h)
      let busy := s.firmware.changing
      (e.toll ≠ 0 → e.toll.toNat ≤ e.tollrun.toNat → e.expired = false → AL.has s.recovery e.field = false →
        s.launchesOf q ≠ [] → becomes (.tollExpiry q) { e with expired := true, asked := 0 } s.recovery fun w =>
          (busy = true → w = s.harts) ∧
          (∀ h, busy = false → AL.find s.harts k = some h → h.plug = none → alone → AL.find w k = some { Hart.reset with
            mode := .user, pc := Config.grant tenant 6, pmp := plugPmp tenant, plug := some (tenant, 0) })) ∧
      (e.expired = true → busy = false →
        let quiet : QueueEntry := { e with expired := false, asked := 0 }
        (∀ n, becomes (.tollExtend q n) { quiet with toll := e.toll + BitVec.ofNat 32 n } s.recovery yields) ∧
        (s.launchesOf q ≠ [] → AL.has s.recovery e.field = false →
          becomes (.tollRecover q) quiet (AL.put s.recovery e.field ⟨2, some q, 0, [], []⟩) yields ∧
          (1000 ≤ e.asked.toNat →
            becomes (.pluginTimeout q) quiet (AL.put s.recovery e.field ⟨2, some q, 0, [], []⟩) (fun w => w = s.harts)))))


/-! ### Steps of the scheduler (spec 17, 19, 20) -/

/-- R323 to R325 and R329, LOAD_FIELD_CONTEXT: a record that is accepted for a field that has none makes a running field with the
segments of its table; each of its cells lies in the field with no frame, no message and route tag 0 enabled, its service scope is
open, and the queues bound to it leave PAUSED. A record that is refused changes nothing. -/
def Claims.ContextsAreLoaded : Prop :=
  ∀ (s : State) (rec : Addr),
    (∀ ws segs, s.hubWords rec 64 = some ws →
      let x := FieldCtx.ofWords ws
      rec.toNat % 512 = 0 → s.recordOk ws = true → AL.find s.fields x.field = none → AL.has s.recovery x.field = false →
      s.saved = [] → s.segTable x = some segs → Happens s (.loadFieldContext rec) fun t => t.readout = [0] ∧
        AL.find t.fields x.field = some ⟨x, segs, 0, [], .running, false, false⟩ ∧
        (∀ f, f ≠ x.field → AL.find t.fields f = AL.find s.fields f) ∧
        (∀ c ∈ x.cells, let y := t.cell c
          y.fieldV = true ∧ y.field = x.field ∧ y.frames = [] ∧ y.slots = [] ∧ y.sb = [] ∧ y.tags = [(0, ⟨true, 0, 0⟩)] ∧
          y.cancels = [] ∧ y.paired = x.pairs ∧ y.leader = (x.pairs && decide (c % 2 = 0)) ∧
          y.violations = (s.cell c).violations) ∧
        (devOf (homeOf x.svcScope) = s.devNum → x.holds (cellOf (homeOf x.svcScope)) = true →
          let r := t.scopeRec x.svcScope
          r.life = .open ∧ r.root = true ∧ r.issued = 2 ^ 40 ∧ r.retd = 0 ∧ r.colour = x.colour) ∧
        (∀ q e, AL.find s.queues q = some e → e.field = x.field → e.state = .paused → (t.queue q).state = .idle) ∧
        t.mem = s.mem ∧ t.acts = s.acts) ∧
    (s.hubWords rec 64 = none ∨ (∃ ws, s.hubWords rec 64 = some ws ∧ s.recordOk ws = false) ∨ rec.toNat % 512 ≠ 0 →
      exec (.loadFieldContext rec) s = .next { s with readout := [1] })

/-- R201 and R327, SEGMENT_TABLE_LOAD: an accepted table replaces the field's segments, and the ports of the field forget the last
writers of the lines that lie in no segment with race logging on any more; a refused one changes nothing. The segments of an accepted table are
aligned to 256 bytes, lie between 0x1000000 and 2^48, and do not overlap; one in SRAM lies in cells of the field. -/
def Claims.SegmentTablesAreChecked : Prop :=
  (∀ (s : State) (f : Nat) (x : Field), AL.find s.fields f = some x →
    (∀ segs, s.segTable x.ctx = some segs → Happens s (.segmentTableLoad f) fun t => t.readout = [0] ∧
      t.fields = AL.put s.fields f { x with segs := segs } ∧ (∀ c, x.ctx.holds c = false → t.cell c = s.cell c) ∧
      (∀ c w, x.ctx.holds c = true → (w ∈ (t.cell c).writers ↔ w ∈ (s.cell c).writers ∧ t.raceOn (64 * w.1) = true)) ∧
      (∀ c, { t.cell c with writers := (s.cell c).writers } = s.cell c) ∧
      { t with readout := s.readout, fields := s.fields, cells := s.cells } = s) ∧
    (s.segTable x.ctx = none → exec (.segmentTableLoad f) s = .next { s with readout := [1] })) ∧
  (∀ (s : State) (x : FieldCtx) (segs : List Seg), s.segTable x = some segs →
    (∀ g ∈ segs, g.base % 256 = 0 ∧ g.len % 256 = 0 ∧ 0 < g.len ∧ 0x1000000 ≤ g.base ∧ g.base + g.len ≤ 2 ^ 48 ∧
      1 ≤ g.kind ∧ g.kind ≤ 5 ∧
      (g.kind = 1 → x.holds (bits g.kf 11 0) = true ∧
        bits g.kf 37 16 + g.len ≤ (if g.kf.getLsbD 12 then 0x40000 else 0x400000))) ∧
    segs.Pairwise (fun g h => g.base + g.len ≤ h.base ∨ h.base + h.len ≤ g.base))

/-- R114 and R328, IMAGE_LOAD: an image with one section of a doubleword of code or data puts its bytes into the slice memory that its
segment maps, and near scratch of every cell of the field reads zero; one with a wrong magic number is refused. -/
def Claims.ImagesAreLoaded : Prop :=
  ∀ (s : State) (f : Nat) (image : Addr) (x : Field), AL.find s.fields f = some x →
    let a := farAddr image.toNat
    let num := fun (o n : Nat) => leNat (s.mem.bytes (a + o) n)
    (num 0 4 ≠ 0x494E4C48 → exec (.imageLoad f image) s = .next { s with readout := [1] }) ∧
    (∀ b, num 0 4 = 0x494E4C48 → num 4 2 = 1 → num 6 2 = 1 → num 8 8 = 0 → num 16 1 < 4 → num 17 7 = 0 → num 30 2 = 0 →
      num 32 8 = 8 → num 40 8 = 0 → num 24 6 % 8 = 0 → s.imagePlace x (num 24 6) = some b → sliceBase ≤ b →
      (∀ c ∈ x.ctx.cells, c < 4096) → Happens s (.imageLoad f image) fun t => t.readout = [0] ∧
        (∀ j, (b ≤ j ∧ j < b + 8 → t.mem.get j = s.mem.get (a + 48 + (j - b))) ∧
          (∀ c ∈ x.ctx.cells, nearAddr c 0 ≤ j → j < nearAddr c 0 + 0x40000 → t.mem.get j = 0) ∧
          (¬ (b ≤ j ∧ j < b + 8) → (∀ c ∈ x.ctx.cells, ¬ (nearAddr c 0 ≤ j ∧ j < nearAddr c 0 + 0x40000)) →
            t.mem.get j = s.mem.get j)) ∧
        { t with mem := s.mem, poison := s.poison, readout := s.readout } = s)

/-- R345 and R396, Table 17-9, CONTEXT_SWITCH, PREEMPT_DEADLINE, STOP_FIELD and RESUME_FIELD: the modes of a field; a switch pauses the
queues bound to it. -/
def Claims.FieldsStopAndSwitch : Prop :=
  ∀ (s : State) (f : Nat) (x : Field), AL.find s.fields f = some x →
    let becomes := fun (i : Instr) (y : Field) => exec i s = .next { s with fields := AL.put s.fields f y }
    becomes (.stopField f) (if x.mode = .running then { x with mode := .stopping } else x) ∧
    becomes (.resumeField f) (if x.mode = .stopping then { x with mode := .running } else x) ∧
    becomes (.preemptDeadline f) (if x.mode = .switching then { x with deadline := true } else x) ∧
    (x.mode = .running ∨ x.mode = .stopping → x.fenced = false → Happens s (.contextSwitch f) fun t =>
      t.fields = AL.put s.fields f { x with mode := .switching, deadline := false } ∧
      (∀ q e, AL.find s.queues q = some e → e.field = f → e.active = true →
        t.queue q = { e with state := .paused, waitOk := false }) ∧
      (∀ q, (∀ e, (q, e) ∈ s.queues → e.field ≠ f ∨ e.active = false) → t.queue q = s.queue q) ∧
      { t with fields := s.fields, queues := s.queues, cps := s.cps } = s)

/-- R345, R346, R396 and R397, SWITCH_DRAIN_COMPLETE and DUMP: a drained field without a next context is saved and left, its cells empty;
a stopped field is written to the dump area and changes in nothing. No other memory changes. -/
def Claims.FieldsAreSaved : Prop :=
  ∀ (s : State) (f : Nat) (x : Field), AL.find s.fields f = some x → x.ctx.field = f →
    let size := 0x10000 + 0x80000 * x.ctx.cells.length
    (∀ j area, ¬ (farAddr area.toNat ≤ j ∧ j < farAddr area.toNat + size) →
      (∀ c ∈ x.ctx.cells, (∀ p ∈ (s.cell c).slots, p.1 < 520) ∧ (∀ p ∈ (s.cell c).scopes, p.1 < 256) ∧
        (∀ p ∈ (s.cell c).scales, p.1 < 4096) ∧ (∀ p ∈ (s.cell c).bells, p.1 < 8) ∧ (s.cell c).joins.length ≤ 16 ∧
        (s.cell c).cancels.length ≤ 256 ∧ ∀ u, ((s.cell c).engine u).queue.length ≤ 16) →
      (∀ p ∈ s.bells, p.1 < 32) → s.launches = [] →
      (s.stopComplete x = true → area.toNat % 0x10000 = 0 → Happens s (.dump f area) fun t => t.readout = [0] ∧
        t.mem.get j = s.mem.get j ∧ { t with mem := s.mem, poison := s.poison, readout := s.readout } = s) ∧
      (area = x.ctx.save → x.mode = .switching → s.switchDrained x = true → s.gangs = [] →
        Happens s (.switchDrainComplete f 0) fun t => t.mem.get j = s.mem.get j)) ∧
    (s.stopComplete x = false → ∀ area, exec (.dump f area) s = .next { s with readout := [1] }) ∧
    (x.mode = .switching → s.switchDrained x = true → s.gangs = [] → Happens s (.switchDrainComplete f 0) fun t =>
      AL.find t.fields f = some { x with mode := .out, deadline := false, trapUse := [], trapNext := 0 } ∧
      (∃ v, t.saved = s.saved ++ [v] ∧ v.ctx = x.ctx ∧ v.segs = x.segs ∧ v.use = x.trapUse ∧ v.nextT = x.trapNext ∧
        v.acts = s.acts.filter (fun p => x.ctx.holds p.2.cell)) ∧
      (∀ c, x.ctx.holds c = true → (t.cell c).frames = [] ∧ (t.cell c).slots = [] ∧ (t.cell c).scopes = [] ∧
        (t.cell c).senders = (s.cell c).senders) ∧
      (∀ c, x.ctx.holds c = false → t.cell c = s.cell c) ∧ t.acts = s.acts.filter (fun p => !x.ctx.holds p.2.cell))

/-- R349 to R351 and R410, RECOVERY, CONTAINMENT and FENCE_LIFT: a recovery fences the field, resets its cells and frees its trap entries;
its launches then complete with their code; then every receiver that may hold an entry of a cancelled scope owes the acknowledgement of a clear;
when every clear is acknowledged the context is loaded anew, the fence is lifted and
the queues go on. -/
def Claims.FieldsRecover : Prop :=
  ∀ (s : State) (f : Nat) (x : Field) (r : Recovery), AL.find s.fields f = some x → AL.find s.recovery f = some r →
    x.ctx.field = f →
    let i := if r.code = 4 then Instr.containment f else .recovery f
    (r.step = 0 → r.queue = none ∨ (∃ q, r.queue = some q ∧ s.launchesOf q ≠ []) → Happens s i fun t =>
      (∃ y, AL.find t.fields f = some y ∧ y.fenced = true ∧ y.trapUse = [] ∧ y.ctx = x.ctx ∧ y.segs = x.segs) ∧
      (∃ z, AL.find t.recovery f = some z ∧ z.step = 1 ∧ z.code = r.code ∧ z.queue = r.queue) ∧
      (∀ c, x.ctx.holds c = true → (t.cell c).frames = [] ∧ (t.cell c).slots = [] ∧ (t.cell c).scopes = [] ∧
        (t.cell c).violations = (s.cell c).violations) ∧
      (∀ c, x.ctx.holds c = false → t.cell c = s.cell c) ∧ (∀ p ∈ t.acts, x.ctx.holds p.2.cell = false) ∧ t.mem = s.mem) ∧
    (∀ k l rest, r.step = 1 → s.launchesIn f = (k, l) :: rest → AL.find s.launches k = some l → l.linked = false →
      sigAddr l.packet = 0 → l.stage = .outstanding → Happens s i fun t => AL.find t.launches k = none ∧
        (t.queue l.queue).errcode = (if r.code = 4 then 4 else if r.queue = some l.queue then 2 else 3) ∧
        (t.queue l.queue).errpkt = l.addr ∧ t.mem = s.mem) ∧
    (r.step = 1 → s.launchesIn f = [] → r.roots = [] → exec i s = .next { s with
      recovery := AL.put s.recovery f { r with step := 2, acks := [] } }) ∧
    (r.step = 1 → s.launchesIn f = [] → Happens s i fun t => ∃ z, AL.find t.recovery f = some z ∧ z.step = 2 ∧
      (∀ sc n, (sc, n) ∈ z.acks ↔ ∃ p ∈ r.roots, p.1 = sc ∧ n ∈ p.2) ∧ t.cells = s.cells ∧ t.mem = s.mem) ∧
    (r.step = 2 → r.acks = [] → Happens s (.fenceLift f) fun t =>
      AL.find t.fields f = some ⟨x.ctx, x.segs, 0, [], x.mode, false, false⟩ ∧ AL.find t.recovery f = none ∧
      (∀ q e, AL.find s.queues q = some e → e.field = f → e.state = .recovering → s.saved = [] → x.mode ≠ .out →
        (t.queue q).state = .idle) ∧
      (∀ c ∈ x.ctx.cells, (t.cell c).fieldV = true ∧ (t.cell c).field = f ∧ (t.cell c).frames = []) ∧ t.mem = s.mem)

/-- R330, R332, R335, R355, R366, R372, R373, R381, R398 and R405, the management writes: each table entry and register takes the fields
that the words give it; a write that is refused changes nothing. -/
def Claims.TablesAreWritten : Prop :=
  ∀ (s : State) (w0 w1 w2 w3 w4 : Word),
    let ws := [w0, w1, w2, w3, w4]
    let makes := fun (i : Instr) (t : State) => exec i s = .next { t with readout := [0] }
    (∀ q, q < 8192 → let e := s.queue q
      let f := bits w3 9 4
      (∀ x, bits w0 52 48 ≤ 20 → bits w0 47 0 % (64 * 2 ^ bits w0 52 48) = 0 → AL.find s.fields f = some x →
        x.ctx.tenants.getLsbD (bits w3 13 10) = true → Happens s (.managementTableWrite (.queue q) ws) fun t =>
          t.queue q = { e with
            log2n := bits w0 52 48, ring := w0.setWidth 48, host := w2.extractLsb' 48 12, headptr := w2.setWidth 48,
            age := w3.extractLsb' 32 32, tenant := w3.extractLsb' 10 4, field := f, prio := bits w3 2 0,
            toll := w4.extractLsb' 0 32, state := if e.state = .disabled then s.idleState q f else e.state } ∧
          t.readout = [0] ∧ (∀ k, k ≠ q → t.queue k = s.queue k) ∧
          { t with queues := s.queues, readout := s.readout } = s) ∧
      (AL.find s.fields f = none → exec (.managementTableWrite (.queue q) ws) s = .next { s with readout := [1] })) ∧
    (∀ n, makes (.managementTableWrite (.route n) ws) { s with
      routes := AL.put s.routes n ⟨w0, w1.getLsbD 14, w1.getLsbD 13, bits w1 11 8, bits w1 5 0⟩ }) ∧
    (∀ p, makes (.managementTableWrite (.peer p) ws) { s with
      peers := AL.put s.peers p ⟨w0.getLsbD 48, w0.extractLsb' 40 8, w0.extractLsb' 16 24, w0.setWidth 16, w1.setWidth 12, w3 ++ w2⟩ }) ∧
    (∀ f i, f < 64 → i < 4096 → bits w0 5 0 = 0 → Happens s (.managementTableWrite (.region f i) ws) fun t => ∃ r,
      t.regions = AL.put s.regions (4096 * f + i) r ∧ r.ctxid = w0.extractLsb' 48 16 ∧ r.base = w0.setWidth 48 ∧
      r.check = w1.extractLsb' 44 20 ∧ r.length = bits w1 39 0 ∧ r.sync = w2.setWidth 48 ∧ r.valid = w3.getLsbD 8 ∧
      r.w = w3.getLsbD 6 ∧ r.r = w3.getLsbD 5 ∧ t.readout = [0] ∧
      { t with regions := s.regions, readout := s.readout } = s) ∧
    makes (.managementTableWrite .timeReference ws) { s with time := { s.time with reference := w0.setWidth 12 } } ∧
    makes (.managementTableWrite .deviceNumber ws) { s with devNum := w0.setWidth 12 } ∧
    makes (.managementTableWrite .scrubInt ws) { s with scrubInt := w0.toNat } ∧
    (∀ g, g < 256 → makes (.managementTableWrite (.group g) ws) { s with
      groups := AL.put s.groups g ⟨w0, w1.getLsbD 1, w1.getLsbD 0⟩ }) ∧
    (∀ g v l, g < 256 → makes (.groupTableWrite g w0 v l) { s with groups := AL.put s.groups g ⟨w0, v, l⟩ }) ∧
    (∀ g v l, 256 ≤ g → exec (.groupTableWrite g w0 v l) s = .next { s with readout := [1] }) ∧
    (∀ c a, exec (.raceRingPlace c a) s = .next { s with cells := AL.put s.cells c { s.cell c with raceRing := a } }) ∧
    (∀ q, Happens s (.queueRearm q) fun t => (∀ k, t.queue k = (if k = q ∧ (s.queue q).state = .error then
      { s.queue k with state := s.idleState q (s.queue q).field } else s.queue k)) ∧ { t with queues := s.queues } = s) ∧
    (∀ f lo hi, Happens s (.invalidate f lo hi) fun t => { t with agents := s.agents } = s ∧
      ∀ a x, AL.find s.agents a = some x → ∃ y, AL.find t.agents a = some y ∧ y.log = x.log ∧
        ∀ l, l ∈ y.cache ↔ l ∈ x.cache ∧ ¬ (l.field = f ∧ l.va ≤ hi.toNat ∧ lo.toNat < l.va + l.size))

/-- R3 with Tables 17-4, 18-2, 18-6, 18-8, 18-9 and 19-4, the management reads (a management write with no words, log 62): a queue,
route, group, peer or region entry, a register, and a trace core's control block with each field at its bits, which change nothing; but
LOST clears in the access that reads it, and PROG, which is write-only, reads zero. -/
def Claims.TablesAreRead : Prop :=
  ∀ (s : State),
    let reads := fun (m : MgmtTarget) (p : (Nat → Word) → Prop) => Happens s (.managementTableWrite m []) fun t =>
      p (fun i => (t.readout[i]?).getD 0) ∧ { t with readout := s.readout } = s
    (∀ q, q < 8192 → let e := s.queue q
      e.log2n < 32 → e.prio < 8 → e.field < 64 → e.eff < 8 → e.lent < 8 → e.raise < 8 → e.errcode < 256 → reads (.queue q) fun w =>
        bits (w 0) 52 48 = e.log2n ∧ bits (w 0) 47 0 = e.ring.toNat ∧ bits (w 1) 63 32 = e.tail.toNat ∧
        bits (w 1) 31 0 = e.head.toNat ∧ bits (w 2) 59 48 = e.host.toNat ∧ bits (w 2) 47 0 = e.headptr.toNat ∧
        bits (w 3) 63 32 = e.age.toNat ∧ bits (w 3) 27 24 = e.state.code ∧ bits (w 3) 22 20 = e.lent ∧ (w 3).getLsbD 19 = e.lentv ∧
        bits (w 3) 18 16 = e.eff ∧ bits (w 3) 13 10 = e.tenant.toNat ∧ bits (w 3) 9 4 = e.field ∧ bits (w 3) 2 0 = e.prio ∧
        bits (w 4) 63 32 = e.tollrun.toNat ∧ bits (w 4) 31 0 = e.toll.toNat ∧ bits (w 5) 34 32 = e.raise ∧
        bits (w 5) 31 0 = e.agerun.toNat ∧ bits (w 6) 55 48 = e.errcode ∧ bits (w 6) 47 0 = e.errpkt.toNat ∧ w 7 = 0) ∧
    (∀ n, let r := s.route n
      r.dist < 16 → r.oport < 64 → reads (.route n) fun w => w 0 = r.minmask ∧ (w 1).getLsbD 14 = r.hostn ∧
        (w 1).getLsbD 13 = r.valid ∧ bits (w 1) 11 8 = r.dist ∧ bits (w 1) 5 0 = r.oport) ∧
    (∀ g e, g < 256 → AL.find s.groups g = some e → reads (.group g) fun w =>
      w 0 = e.ports ∧ (w 1).getLsbD 1 = e.valid ∧ (w 1).getLsbD 0 = e.local_) ∧
    (∀ p, let r := s.peer p
      reads (.peer p) fun w => (w 0).getLsbD 48 = r.valid ∧ (w 0).extractLsb' 40 8 = r.ports ∧ (w 0).extractLsb' 16 24 = r.jobid ∧
        (w 0).setWidth 16 = r.ctxid ∧ (w 1).setWidth 12 = r.pid ∧ w 3 ++ w 2 = r.addr) ∧
    (∀ f i, f < 64 → i < 4096 → let r := AL.get Region.reset s.regions (4096 * f + i)
      r.length < 2 ^ 40 → r.bell < 8 → reads (.region f i) fun w => (w 0).extractLsb' 48 16 = r.ctxid ∧ (w 0).setWidth 48 = r.base ∧
        (w 1).extractLsb' 44 20 = r.check ∧ bits (w 1) 39 0 = r.length ∧ (w 2).setWidth 48 = r.sync ∧ (w 3).getLsbD 8 = r.valid ∧
        (w 3).getLsbD 7 = r.ring ∧ (w 3).getLsbD 6 = r.w ∧ (w 3).getLsbD 5 = r.r ∧ (w 3).getLsbD 4 = r.bellen ∧
        bits (w 3) 2 0 = r.bell) ∧
    (∀ k, let r := s.trace k
      r.ctxf < 64 → Happens s (.managementTableWrite (.traceCtl k) []) fun t => let w := fun i => (t.readout[i]?).getD 0
        w 0 = r.ring.setWidth 64 ∧ (w 1).extractLsb' 56 5 = r.log2n ∧ bits (w 1) 37 32 = r.ctxf ∧ (w 1).extractLsb' 16 16 = r.tenants ∧
        (w 1).extractLsb' 8 2 = r.state ∧ (w 1).setWidth 8 = r.lderr ∧ w 2 = r.wr ∧ w 3 = r.lost ∧ w 4 = 0 ∧
        w 5 = r.len.setWidth 64 ∧ t.trace k = { r with lost := 0 } ∧ (∀ j, j ≠ k → t.trace j = s.trace j) ∧
        { t with traces := s.traces, readout := s.readout } = s) ∧
    (∀ k n, n < 64 → reads (.counter k n) fun w => w 0 = Regs.get (s.trace k).counters n) ∧
    reads .timeReference (fun w => w 0 = s.time.reference.setWidth 64) ∧ reads .deviceNumber (fun w => w 0 = s.devNum.setWidth 64)

/-- R136, R180, R386 and R408, the management reads of logs: those of the cells, of the external and of the internal ports, and the
sender table as they stand, a sender table cleared where that is asked, and an error log that the read clears. -/
def Claims.LogsAreRead : Prop :=
  ∀ (s : State) (c : Nat),
    (∀ clear, Happens s (.senderTableRead c clear) fun t => t.readout.length = 198 ∧
      (∀ i e, (s.cell c).senders[i]? = some e → i < 33 → (t.readout.drop (6 * i)).take 6 = e.words) ∧
      (t.cell c).senders = (if clear then [] else (s.cell c).senders) ∧ t.mem = s.mem) ∧
    (∀ e : SenderEntry, e.count < 2 ^ 32 → e.discards < 2 ^ 32 →
      let w := fun (i : Nat) => (e.words[i]?).getD 0
      bits (w 0) 51 48 = e.tenant.toNat ∧ (w 0).getLsbD 47 = e.valid ∧ (w 0).getLsbD 24 = e.hub ∧
      bits (w 0) 23 0 = e.source.toNat ∧ bits (w 1) 63 32 = e.count ∧ bits (w 1) 31 0 = e.discards) ∧
    (∀ u, exec (.violationLogRead u) s = .next { s with readout := (s.violationsOf u).flatMap Violation.words }) ∧
    (∀ v : Violation, v.kind < 256 → v.op < 8 → v.size < 8 →
      let w := fun (i : Nat) => (v.words[i]?).getD 0
      w 0 = v.va.setWidth 64 ∧ bits (w 1) 63 56 = v.kind ∧ bits (w 1) 55 54 = classCode v.cls ∧ bits (w 1) 53 51 = v.op ∧
      bits (w 1) 50 48 = v.size ∧ bits (w 1) 47 24 = v.source.toNat ∧ bits (w 1) 23 0 = v.time.toNat) ∧
    (let entries := fun (l : List RefusalEntry) => l.flatMap (fun e =>
       [BitVec.ofNat 64 e.code, e.handler.setWidth 64, e.source.setWidth 64, e.scope.setWidth 64])
     (c < 4096 → exec (.refusalLogRead c) s = .next { s with readout := entries (s.cell c).refusals }) ∧
     (∀ p, p < 64 → exec (.refusalLogRead (4096 + p)) s = .next { s with readout := entries (s.port p).refusals }) ∧
     (∀ k, exec (.refusalLogRead (4160 + k)) s = .next { s with readout := entries (s.hubPort k).refusals })) ∧
    (∀ u, Happens s (.errorLogRead u) fun t => AL.find t.errLogs (errKeyOf u) = none ∧
      (∃ rest, t.readout = (AL.get ErrLog.empty s.errLogs (errKeyOf u)).entries.flatMap ErrEntry.words ++
        BitVec.ofNat 64 (AL.get ErrLog.empty s.errLogs (errKeyOf u)).lostue :: rest) ∧
      { t with errLogs := s.errLogs, readout := s.readout } = s)


/-! ### Steps of the transport engine (spec 18) -/

/-- R371, R377 and R379, TRANSFER_START and TRANSFER_PACKET_SEND: transfers of a cell start in their order; a packet of at most 4,096
bytes, with the bytes from LADDR on, its operation, key, offset or tag and the peer's job identifier, is given to a port of the peer, and its
bytes are in the air; a cancelled scope stops the transfer before it. -/
def Claims.TransfersRun : Prop :=
  ∀ (s : State) (x : Nat) (t : Transfer), AL.find s.transfers x = some t →
    let becomes := fun (i : Instr) (u : Transfer) => Happens s i fun v =>
      v.transfers = AL.put s.transfers x u ∧ { v with transfers := s.transfers } = s
    (t.started = false → (∀ p ∈ s.transfers, p.2.cell = t.cell → p.2.started = false → x ≤ p.1) →
      becomes (.transferStart x) { t with started := true }) ∧
    (t.started = true → t.outcome = 0 → t.sent < t.length → s.isWaiting (.transfer x) = false →
      (t.scope ∈ s.xportCancels → becomes (.transferPacketSend x) { t with outcome := 1 }) ∧
      (t.scope ∉ s.xportCancels →
        let n := min 4096 (t.length - t.sent)
        let sends := fun (data : List Byte) => Happens s (.transferPacketSend x) fun v => ∃ k,
          v.transfers = AL.put s.transfers x { t with sent := t.sent + n, inAir := t.inAir + n, port := k } ∧
          v.ether = s.ether ++ [{
            port := k, xfer := x, peer := t.peer, mode := t.mode, jobid := (s.peer t.peer).jobid, kind := t.kind,
            tag := if t.tagged then some t.roff else none, key := t.rkey,
            off := if t.kind = .send then t.sent else t.roff.toNat + t.sent, total := if t.kind = .read then n else t.length,
            data := data }] ∧
          ((s.peer t.peer).ports ≠ 0 → (s.peer t.peer).ports.getLsbD k = true ∧
            (t.mode = 1 → ∀ j < k, (s.peer t.peer).ports.getLsbD j = false)) ∧
          { v with transfers := s.transfers, waits := s.waits, ether := s.ether } = s
        (t.kind = .read → sends []) ∧
        (∀ a, t.kind ≠ .read → s.waitOf (.transfer x) = .none → s.PlainRun (s.whoTransfer x t) (t.laddr.toNat + t.sent) n a →
          sends (s.mem.bytes a n))))

/-- R378 and R380, TRANSFER_ACK: the delivery context of the transfer's peer and mode moves its marked fraction by a sixteenth of the
distance and counts a trimmed packet; the acknowledged bytes leave the air and are credited to SYNC. Of a trimmed packet none are. -/
def Claims.TransfersAreAcknowledged : Prop :=
  ∀ (s : State) (x bytes : Nat) (marked trimmed : Bool) (t : Transfer), AL.find s.transfers x = some t →
    Happens s (.transferAck x bytes marked trimmed) fun v =>
      let d := 4 * t.peer + t.mode
      let old := s.deliveryOf d
      let n := if trimmed = true ∨ t.kind = .read then 0 else min bytes t.inAir
      (∃ y, v.delivery = AL.put s.delivery d y ∧ y.cwnd ≠ BitVec.allOnes 64 ∧
        y.ecn.toNat = (if marked then old.ecn.toNat + (65535 - old.ecn.toNat) / 16 else old.ecn.toNat - old.ecn.toNat / 16) ∧
        y.trimmed = old.trimmed + (if trimmed then 1 else 0) ∧ y.next = old.next ∧ y.held = old.held) ∧
      v.transfers = AL.put s.transfers x { t with acked := t.acked + n, inAir := t.inAir - n } ∧
      (t.sync = 0 ∨ n = 0 → v.credits = s.credits) ∧
      (t.sync ≠ 0 → n ≠ 0 → v.credits =
        AL.put s.credits s.nextId ⟨none, t.cell, t.field, t.sync, n, true, t.scope, .wake x, t.naming, 0⟩) ∧
      { v with delivery := s.delivery, transfers := s.transfers, credits := s.credits, nextId := s.nextId } = s

/-- R378, RMA_READ_RESPONSE: the data of an `nread` is placed at LADDR plus its offset, byte for byte, and credited. -/
def Claims.ReadDataIsPlaced : Prop :=
  ∀ (s : State) (x off a : Nat) (data : List Byte) (t : Transfer), AL.find s.transfers x = some t → t.kind = .read →
    data.length ≤ t.inAir → off + data.length ≤ t.length → s.waitOf (.transfer x) = .none →
    s.PlainRun (s.whoTransfer x t) (t.laddr.toNat + off) data.length a →
    Happens s (.rmaReadResponse x off data) fun v =>
      (∀ j, v.mem.get j = if a ≤ j ∧ j < a + data.length then (data[j - a]?).getD 0 else s.mem.get j) ∧
      v.transfers = AL.put s.transfers x { t with acked := t.acked + data.length, inAir := t.inAir - data.length } ∧
      (t.sync = 0 ∨ data = [] → v.credits = s.credits) ∧
      (t.sync ≠ 0 → data ≠ [] → v.credits =
        AL.put s.credits s.nextId ⟨none, t.cell, t.field, t.sync, data.length, true, t.scope, .wake x, t.naming, 0⟩) ∧
      { v with
        mem := s.mem, poison := s.poison, transfers := s.transfers, waits := s.waits, credits := s.credits,
        nextId := s.nextId } = s

/-- R378 with the order of R264, TRANSFER_COMPLETE: first the bell arrival and the completion message with the outcome in ELEM; the
transfer's weight returns to its scope's home once its delivery context holds nothing of it. -/
def Claims.TransfersComplete : Prop :=
  ∀ (s : State) (x : Nat) (t : Transfer), AL.find s.transfers x = some t → (∀ f ∈ s.flights, f.2.issuer ≠ .transfer x) →
    (t.ended = false → t.started = true → (t.outcome ≠ 0 → t.inAir = 0) →
      (t.outcome = 0 → if t.mode = 2 then t.length ≤ t.sent else t.length ≤ t.acked) →
      (∀ k ∈ s.credits, ¬ (k.2.holder = .wake x ∧ k.2.copy = none ∧ k.2.hub = true)) →
      Happens s (.transferComplete x) fun v => v.transfers = AL.put s.transfers x { t with ended := true } ∧
        (t.bellen = false → v.arrivals = s.arrivals) ∧
        (t.bellen = true → v.arrivals = AL.put s.arrivals s.nextId ⟨dieOf t.cell, t.bell, some t.field⟩) ∧
        (t.chand = 0 → v.wakes = s.wakes) ∧
        (t.chand ≠ 0 → ∃ n d, v.wakes = AL.put s.wakes n d ∧ d.last = true ∧ d.xfer = some x ∧
          d.msg.handler = t.chand.setWidth 48 ∧ d.msg.words = t.cwords ∧ d.msg.elem = BitVec.ofNat 24 t.outcome ∧
          d.msg.scope = t.scope ∧ d.msg.dst = s.gca t.cell ∧ d.msg.xferId = t.id) ∧
        { v with transfers := s.transfers, arrivals := s.arrivals, wakes := s.wakes, nextId := s.nextId } = s) ∧
    (t.ended = true → t.inAir = 0 → (∀ w ∈ s.wakes, w.2.xfer ≠ some x) → t.w ≠ 0 → devOf (homeOf t.scope) = s.devNum →
      Happens s (.transferComplete x) fun v => AL.find v.transfers x = none ∧
        (∃ q, AL.find v.ctls s.nextId = some q ∧ q.kind = .weightReturn ∧ q.dst = homeOf t.scope ∧ q.scope = t.scope ∧
          q.value = BitVec.ofNat 64 t.w) ∧
        { v with
          transfers := s.transfers, waits := s.waits, ctls := s.ctls, hubPaths := s.hubPaths, nextId := s.nextId } = s)

/-- R378 and R379, TRANSFER_REFUSED and RETRY_LIMIT: a refusal by the target and exhausted retries end a transfer with outcome 2 and are
logged; under UUD the packets in the air are given up and nothing is logged. The kind in the log entry is the model's (log 29). -/
def Claims.TransfersFail : Prop :=
  ∀ (s : State) (x : Nat) (t : Transfer), AL.find s.transfers x = some t → t.inAir ≠ 0 →
    let bad := if t.outcome = 0 then 2 else t.outcome
    let logged := log8 s.xportLog ⟨t.laddr, 7, t.cls, 6, 5, s.gca t.cell, s.time24⟩
    (∀ bytes, exec (.transferRefused ⟨x, bytes⟩) s = .next { s with
      xportLog := logged, transfers := AL.put s.transfers x { t with outcome := bad, inAir := t.inAir - bytes } }) ∧
    (t.mode ≠ 2 → exec (.retryLimit x) s = .next { s with
      xportLog := logged, transfers := AL.put s.transfers x { t with outcome := bad, inAir := 0 } }) ∧
    (t.mode = 2 → exec (.retryLimit x) s = .next { s with transfers := AL.put s.transfers x { t with inAir := 0 } })

/-- R372 to R374, RMA_WRITE, RMA_READ, SEND and TAGGED_SEND: where the peer is valid and the region's key, context and permission
hold, a write is placed at BASE plus its offset, a read gives the bytes there, and a message that comes in one packet gets a record
of its length, its tag and its peer in the ring, behind WR, which moves past it, and past a pad record where the record would not fit before
the end. A region that does not hold places nothing. Under ROD the packet is the next of its order, and the one after it is then expected. -/
def Obligations.PeersReachRegions : Prop :=
  ∀ (s : State) (peer mode seq : Nat) (key : BitVec 32) (off a : Nat) (data : List Byte) (f : Field) (r : Region),
    (s.peer peer).valid = true → s.fieldByCtx (s.peer peer).ctxid = some f →
    AL.get Region.reset s.regions (4096 * f.ctx.field + key.toNat % 4096) = r → mode < 3 →
    let c := 4 * peer + mode
    let x := s.deliveryOf c
    (mode = 1 → seq = x.next) → x.held = none → s.waitOf (.arrival c) = .none →
    let holds := r.valid = true ∧ r.check = key.extractLsb' 12 20 ∧ r.ctxid = (s.peer peer).ctxid
    let fits := off + data.length ≤ r.length
    let done := fun (v : State) => v.delivery = (if mode = 1 then AL.put s.delivery c { x with next := x.next + 1, held := none } else s.delivery)
    let credited := fun (v : State) =>
      (r.sync = 0 ∨ data = [] → v.credits = s.credits) ∧
      (r.sync ≠ 0 → data ≠ [] → v.credits = AL.put s.credits s.nextId
        ⟨none, f.ctx.cells.headD 0, f.ctx.field, r.sync, data.length, true, 0, .none, Naming.zero, 0⟩)
    let rung := fun (v : State) (last : Bool) =>
      (last = false ∨ r.bellen = false → v.arrivals = s.arrivals) ∧
      (last = true → r.bellen = true → ∃ n d, v.arrivals = AL.put s.arrivals n ⟨d, r.bell, some f.ctx.field⟩)
    let rest := fun (v : State) => done v ∧ { v with
      mem := s.mem, poison := s.poison, credits := s.credits, arrivals := s.arrivals, nextId := s.nextId, delivery := s.delivery,
      waits := s.waits } = s
    let refuses := fun (i : Instr) => Happens s i fun v => done v ∧ { v with delivery := s.delivery, waits := s.waits } = s
    (∀ last, holds → r.w = true → fits → s.PlainRun (s.whoRegion c f) (r.base.toNat + off) data.length a →
      Happens s (.rmaWrite ⟨peer, mode, seq⟩ key off data last) fun v =>
        (∀ j, v.mem.get j = if a ≤ j ∧ j < a + data.length then (data[j - a]?).getD 0 else s.mem.get j) ∧
        credited v ∧ rung v last ∧ rest v) ∧
    (∀ n, holds → r.r = true → off + n ≤ r.length → s.PlainRun (s.whoRegion c f) (r.base.toNat + off) n a →
      Happens s (.rmaRead ⟨peer, mode, seq⟩ key off n) fun v => v.readout.length = (n + 7) / 8 ∧
        (∀ k < n, ((v.readout[k / 8]?).getD 0).extractLsb' (8 * (k % 8)) 8 = s.mem.get (a + k)) ∧ done v ∧
        { v with readout := s.readout, delivery := s.delivery, waits := s.waits } = s) ∧
    (∀ last, ¬ holds ∨ r.w = false ∨ ¬ fits → refuses (.rmaWrite ⟨peer, mode, seq⟩ key off data last)) ∧
    (∀ n, ¬ holds ∨ r.r = false ∨ r.length < off + n → refuses (.rmaRead ⟨peer, mode, seq⟩ key off n)) ∧
    (∀ msg tag total, ¬ holds ∨ r.w = false ∨ r.ring = false ∨ r.length ≤ 64 ∨ total < off + data.length →
      refuses (.send ⟨peer, mode, seq⟩ key msg total off data) ∧ refuses (.taggedSend ⟨peer, mode, seq⟩ key tag msg total off data)) ∧
    (∀ (msg : Nat) (tag : Word) (i : Instr), (i = .send ⟨peer, mode, seq⟩ key msg data.length 0 data ∧ tag = 0) ∨
        i = .taggedSend ⟨peer, mode, seq⟩ key tag msg data.length 0 data →
      holds → r.w = true → r.ring = true → 64 < r.length → r.base.toNat % 8 = 0 →
      s.PlainRun (s.whoRegion c f) r.base.toNat r.length a →
      (∀ j ∈ s.inbound, ¬ (j.peer = peer ∧ j.key = key ∧ j.msg = msg)) →
      let cap := r.length - 64
      let wr := BitVec.ofNat 64 (leNat (s.mem.bytes a 8))
      let rd := BitVec.ofNat 64 (leNat (s.mem.bytes (a + 8) 8))
      let size := 32 + (data.length + 31) / 32 * 32
      let pos := wr.toNat % cap
      let pad := if cap < pos + size then cap - pos else 0
      let b := a + 64 + (if pad = 0 then pos else 0)
      (pad ≠ 0 → 4 ≤ pad ∧ size ≤ pos) → (wr - rd).toNat + size ≤ cap → data.length < 2 ^ 32 → peer < 2 ^ 64 →
      Happens s i fun v =>
        v.mem.bytes a 8 = leBytes 8 (wr.toNat + pad + size) ∧ v.mem.bytes b 4 = leBytes 4 data.length ∧
        v.mem.bytes (b + 8) 8 = leBytes 8 tag.toNat ∧ v.mem.bytes (b + 16) 8 = leBytes 8 peer ∧
        v.mem.bytes (b + 32) data.length = data ∧ (pad ≠ 0 → v.mem.bytes (a + 64 + pos) 4 = leBytes 4 0xFFFFFFFF) ∧
        (∀ j, ¬ (a ≤ j ∧ j < a + 8) → ¬ (b ≤ j ∧ j < b + size) → ¬ (pad ≠ 0 ∧ a + 64 + pos ≤ j ∧ j < a + 68 + pos) →
          v.mem.get j = s.mem.get j) ∧
        credited v ∧ rung v true ∧ rest v)


/-! ### Checked pairs, tap slots, tests and repair (spec 21) -/

/-- R413, CHIME: a cell whose checked activation has reached a chime sends the fingerprint of its interval, which folds each register
write and each store in program order; nothing else changes. The number under which x0 to x3 are folded is the model's (log 72). -/
def Claims.FingerprintsAreSent : Prop :=
  (∀ (s : State) (c k : Nat) (p : PairUnit), AL.find (s.cell c).pairs k = some p →
    (s.cell c).pairs.find? (fun q => q.2.waiting && q.2.sent.isNone && q.2.trail.all (fun i => !i.isPend)) = some (k, p) →
    exec (.chime c) s = .next { s with cells := AL.put s.cells c { s.cell c with
      pairs := AL.put (s.cell c).pairs k { p with sent := some (fingerprint p.trail) } } }) ∧
  fingerprint [] = 0 ∧
  (∀ (t : List FpItem) (i : Nat) (v d : Word) (ea : Addr),
    fingerprint (t ++ [.reg i v]) = (fingerprint t).rotateLeft 7 ^^^ v ^^^ (BitVec.ofNat 64 i <<< 56) ∧
    fingerprint (t ++ [.store ea d]) = ((fingerprint t).rotateLeft 7 ^^^ ea.setWidth 64).rotateLeft 7 ^^^ d)

/-- R413 to R415 with Table 21-3, CHIME_AGREE and CHIME_DISAGREE: where fingerprint and chime number are equal and no parity error was
consumed, the leader's held stores pass to its store buffer in order and both cells take a checkpoint; else the held stores are
discarded, both cells restore the checkpoint and DISAGREE rises in both, and a third disagreement in a row contains the field. -/
def Claims.ChimesAreDecided : Prop :=
  ∀ (s : State) (c k : Nat) (a b : PairUnit) (u v : Word), (s.cell c).paired = true → (s.cell c).leader = true →
    (s.cell c).pairs = [(k, a)] → AL.find (s.cell (c + 1)).pairs k = some b → a.sent = some u → b.sent = some v →
    let agree := u = v ∧ a.number = b.number ∧ a.parity = false ∧ b.parity = false
    (agree → Happens s (.chimeAgree c) fun t =>
      (t.cell c).sb = (s.cell c).sb ++ a.gated ∧ (t.cell (c + 1)).sb = (s.cell (c + 1)).sb ∧
      (∀ d old, (d = c ∧ old = a) ∨ (d = c + 1 ∧ old = b) →
        let p := t.pairU d k
        let f := s.frame d k
        p.number = old.number + 1 ∧ p.trail = [] ∧ p.gated = [] ∧ p.count = 0 ∧ p.waiting = false ∧ p.sent = none ∧
        p.bad = 0 ∧ p.check = some ⟨f.g, f.x, f.cr, f.pc⟩ ∧
        { t.cell d with pairs := (s.cell d).pairs, sb := (s.cell d).sb } = s.cell d) ∧
      (∀ d, d ≠ c → d ≠ c + 1 → t.cell d = s.cell d) ∧ { t with cells := s.cells } = s) ∧
    (¬ agree → ∀ qa qb, a.check = some qa → b.check = some qb → Happens s (.chimeDisagree c) fun t =>
      (t.cell c).sb = (s.cell c).sb ∧ (t.cell (c + 1)).sb = (s.cell (c + 1)).sb ∧
      (∀ d old q, (d = c ∧ old = a ∧ q = qa) ∨ (d = c + 1 ∧ old = b ∧ q = qb) →
        let p := t.pairU d k
        let f := t.frame d k
        p.gated = [] ∧ p.trail = [] ∧ p.number = old.number ∧ p.bad = old.bad + 1 ∧ p.sent = none ∧
        f.g = q.g ∧ f.x = q.x ∧ f.cr = q.cr ∧ f.pc = q.pc ∧ f.life = .running ∧ f.outst = [] ∧
        (t.cell d).disagree.toNat = min 0xFFFF ((s.cell d).disagree.toNat + 1) ∧
        ∀ j, j ≠ k → t.frame d j = s.frame d j) ∧
      (∀ d, d ≠ c → d ≠ c + 1 → t.cell d = s.cell d) ∧ t.mem = s.mem ∧ t.flights = s.flights ∧
      (a.bad < 2 → t.recovery = s.recovery ∧ t.errLogs = s.errLogs) ∧
      (2 ≤ a.bad → (∃ e, AL.get ErrLog.empty t.errLogs c = (AL.get ErrLog.empty s.errLogs c).log e ∧ e.kind = 3 ∧
          e.struct_ = 4 ∧ e.source = s.gca c) ∧
        ((s.cell c).fieldV = true → AL.has s.fields (s.cell c).field = true → AL.find s.recovery (s.cell c).field = none →
          AL.find t.recovery (s.cell c).field = some ⟨4, none, 0, [], []⟩)))

/-- R420, a commit: the slot with the lower GEN takes the columns and the bins of the die as they stand, with GEN one above the
higher, signed so that it is valid; the other slot and all else stay. -/
def Claims.Committed (u t : State) (die : Nat) : Prop :=
  let g := fun (i : Nat) => (AL.get DieRecord.blank u.dieRecs (2 * die + i)).gen
  ∃ r : DieRecord, t = { u with dieRecs := AL.put u.dieRecs (2 * die + (if g 0 ≤ g 1 then 0 else 1)) r } ∧
    r.gen = max (g 0) (g 1) + 1 ∧ r.valid die u.firmware.keys = true ∧ r.magic = 0x524D4C48 ∧ r.version = 1 ∧ r.die = die ∧
    (∀ j < 64, AL.get 0 r.bins j = (u.cluster (64 * die + j)).bin) ∧
    (∀ c < 32, AL.get Column.whole r.columns c = { u.column die c with reserved := none })

/-- R416, R417 and R422, TAP_INJECT, SWEEP_RESULT and REQUALIFICATION: an injected operation touches nothing but its position where every
lane matches its signature, and else marks the cluster, logs each lane that does not and moves the cluster to the next bin, once for a marking;
a passed sweep of a cluster at rest readmits it and commits its bin, a failed one moves it on, or leaves it in bin 3; a requalification alone
lowers a bin. That a lane without a result matches, and that a cluster marked already moves no further, is the model's (log 35). -/
def Claims.BinsMove : Prop :=
  ∀ (s : State) (c u lane k : Nat) (vs : List Word) (bin : BitVec 2),
    (u < 3 →
      let n := ((s.cell c).tapPos[u]?).getD 0
      let j := clusterOf c
      let y := s.cluster j
      let bad := (List.range (if u = 0 then 1 else if u = 1 then 64 else 32)).filter (fun l =>
        decide (lane ≤ l) && match vs[l - lane]? with | some v => v != Config.knownAnswer u l n | none => false)
      let logged := { y with tapLog := y.tapLog ++ bad.map (fun l => (c, u, l)) }
      Happens s (.tapInject c u lane vs) fun t =>
        (t.cell c).tapPos[u]? = some ((n + 1) % 32) ∧ { t.cell c with tapPos := (s.cell c).tapPos } = s.cell c ∧
        (∀ d, d ≠ c → t.cell d = s.cell d) ∧ (bad = [] → t.clusters = s.clusters) ∧
        (bad ≠ [] → t.clusters = AL.put s.clusters j (if y.marginal = true ∧ y.stopped = true then logged else
          { logged with marginal := true, stopped := true, bin := if y.bin = 3 then 3 else y.bin + 1 })) ∧
        { t with cells := s.cells, clusters := s.clusters } = s) ∧
    (let y := s.cluster k
     (s.clusterQuiet k = false → ∀ pass, exec (.sweepResult k pass) s = .next s) ∧
     (s.clusterQuiet k = true →
       Happens s (.sweepResult k true) (fun t => Claims.Committed
         { s with clusters := AL.put s.clusters k { y with marginal := false, stopped := false } } t (k / 64)) ∧
       exec (.sweepResult k false) s = .next { s with
         clusters := AL.put s.clusters k (if y.bin = 3 then { y with stopped := false } else { y with bin := y.bin + 1 }) }) ∧
     (bin.toNat ≤ y.bin.toNat → Happens s (.requalification k bin) fun t => Claims.Committed
       { s with clusters := AL.put s.clusters k { y with bin := bin, marginal := false } } t (k / 64)) ∧
     (y.bin.toNat < bin.toNat → exec (.requalification k bin) s = .next s))

/-- R420 and R422, COMMIT_DIE_RECORD: the monitor commits a die record unless it marks a cell removed whose scan test has not failed,
or lowers a bin, against the record in use, which is the valid one with the higher GEN, else the factory record; a record is valid where MAGIC,
VERSION, DIE and both signatures hold. That a key has one signature over some bytes is the model's (log 14). -/
def Claims.DieRecordsAreCommitted : Prop :=
  ∀ (s : State) (die : Nat),
    (let old := s.dieRecord die
     let fine := fun (c row : Nat) => (AL.get Column.whole old.columns c).removed = some row ∨
       (AL.get Column.whole old.columns c).failed = some row ∨ 1056 * die + 32 * row + c ∈ s.firmware.scanFail
     let may := (∀ c < 32, ∀ row, (s.column die c).removed = some row ∨ (s.column die c).failed = some row → fine c row) ∧
       ∀ j < 64, (AL.get 0 old.bins j).toNat ≤ (s.cluster (64 * die + j)).bin.toNat
     (may → Happens s (.commitDieRecord die) fun t => t.firmware.answer = .ok ∧
       ∃ m, Claims.Committed s m die ∧ { t with firmware := s.firmware } = m) ∧
     (¬ may → exec (.commitDieRecord die) s = .next { s with firmware := { s.firmware with answer := .refused } })) ∧
    (let a := AL.get DieRecord.blank s.dieRecs (2 * die)
     let b := AL.get DieRecord.blank s.dieRecs (2 * die + 1)
     let ok := fun (r : DieRecord) => r.valid die s.firmware.keys = true
     (ok a → (ok b → b.gen ≤ a.gen) → s.dieRecord die = a) ∧ (ok b → (ok a → a.gen < b.gen) → s.dieRecord die = b) ∧
     (¬ ok a → ¬ ok b → s.dieRecord die = DieRecord.factory die) ∧
     (∀ r : DieRecord, ok r ↔ r.magic = 0x524D4C48 ∧ r.version = 1 ∧ r.die = die ∧
       r.sigEd = fit 64 (Config.sign 0 s.firmware.keys.recEd r.body) ∧ r.sigMldsa = fit 3309 (Config.sign 1 s.firmware.keys.recMl r.body)) ∧
     ∀ r : DieRecord, r.gen < 2 ^ 64 → r.image.length = 4096 ∧ (r.image.drop 128).take 64 = fit 64 r.sigEd ∧
       leNat (r.image.take 4) = r.magic.toNat ∧ leNat ((r.image.drop 4).take 2) = r.version.toNat ∧
       leNat ((r.image.drop 8).take 8) = r.gen)

/-- R418 and R419 with Table 21-6, SCAN_TEST, SCAN_TEST_ABORT and SCAN_TEST_RESULT: a drained cell leaves service and the spare row of
its column is reserved; a message for it, or its stored signature, gives it back with its saved state; another signature removes it, its
die's record is marked, and its column awaits its repair point, or the die is degraded. -/
def Claims.CellsAreTested : Prop :=
  ∀ (s : State) (c : Nat),
    let x := s.cell c
    let col := s.column (dieOf c) (colOf c)
    let restored := fun (t : State) =>
      let y := t.cell c
      y.scan = .none ∧ y.service = true ∧ y.frames = [] ∧ y.slots = [] ∧ y.sb = [] ∧ y.tags = x.tags ∧ y.cancels = x.cancels ∧
      y.joins = x.joins ∧ y.deficit = x.deficit ∧ y.bells = x.bells ∧ y.vector = x.vector ∧ y.matrix = x.matrix ∧
      y.streamer = x.streamer ∧ y.acc = x.acc ∧ y.scales = x.scales ∧ y.refusals = x.refusals ∧ y.violations = x.violations ∧
      (∀ d, d ≠ c → t.cell d = s.cell d) ∧ t.column (dieOf c) (colOf c) = { col with reserved := none } ∧
      { t with cells := s.cells, columns := s.columns } = s
    (s.cellDrained c = true → x.scan = .none → x.service = true → Happens s (.scanTest c) fun t =>
      t.cell c = { x with scan := .running, service := false } ∧ (∀ d, d ≠ c → t.cell d = s.cell d) ∧
      t.column (dieOf c) (colOf c) = { col with reserved := some (rowOf c) } ∧
      { t with cells := s.cells, columns := s.columns } = s) ∧
    (s.cellDrained c = false ∨ x.service = false → exec (.scanTest c) s = .next s) ∧
    (x.scan = .running →
      (∀ m ∈ s.msgs, cellOf m.2.msg.dst = c → devOf m.2.msg.dst = s.devNum → Happens s (.scanTestAbort c) restored) ∧
      Happens s (.scanTestResult c (Config.scanSignature c)) restored ∧
      (∀ sig, sig ≠ Config.scanSignature c → Happens s (.scanTestResult c sig) fun t =>
        t.cell c = { x with scan := .none, service := false, removed := true } ∧ (∀ d, d ≠ c → t.cell d = s.cell d) ∧
        1056 * dieOf c + 32 * s.physRow c + colOf c ∈ t.firmware.scanFail ∧ t.mem = s.mem ∧
        Claims.Committed { t with dieRecs := s.dieRecs } t (dieOf c) ∧
        (col.removed = none → col.failed = none →
          t.column (dieOf c) (colOf c) = { col with failed := some (s.physRow c), reserved := none } ∧ t.degraded = s.degraded) ∧
        (col.removed ≠ none ∨ col.failed ≠ none →
          t.column (dieOf c) (colOf c) = { col with second := true, reserved := none } ∧ dieOf c ∈ t.degraded)))

/-- R19 and R419, REPAIR_POINT: once every field with a cell of the column is switched out, the map leaves the failed row out and the
logical cell that sat there is in service again; a column whose spare is in use gets none. No byte of memory changes. -/
def Claims.ColumnsAreRepaired : Prop :=
  ∀ (s : State) (die col f : Nat), (s.column die col).failed = some f →
    let out := ∀ p ∈ s.fields, p.2.mode = .out ∨ ∀ r < 32, p.2.ctx.holds (cellAt die r col) = false
    ((s.column die col).removed = none → out → Happens s (.repairPoint die col) fun t =>
      t.column die col = { s.column die col with removed := some f, failed := none } ∧
      (f < 32 → (t.cell (cellAt die f col)).service = true ∧ (t.cell (cellAt die f col)).removed = false ∧
        (t.cell (cellAt die f col)).frames = []) ∧
      (∀ d, d ≠ cellAt die f col ∨ 32 ≤ f → t.cell d = s.cell d) ∧ { t with cells := s.cells, columns := s.columns } = s) ∧
    ((s.column die col).removed ≠ none ∨ ¬ out → exec (.repairPoint die col) s = .next s)

/-- R405, R406 and R408, SCRUB: the scrubber takes its next line of 64 bytes and its position moves on, over the 69,632 lines of a cell; each
uncorrectable doubleword that it finds is poisoned and logged LATENT, and each corrected one logged; a doubleword that was struck is found; no
value changes. A line that is held hot is skipped. What the scrub finds beside that is a free value. -/
def Claims.ScrubbersGoOn : Prop :=
  ∀ (s : State) (c : Nat), c < 4096 →
    let n := AL.get 0 s.scrubPos c
    let k := n % 69632
    let off := if k < 65536 then 64 * k else 64 * (k - 65536)
    let line := if k < 65536 then sliceAddr c off else nearAddr c off
    let log := fun (u : State) (j : Nat) => AL.get ErrLog.empty u.errLogs j
    Happens s (.scrub (.cell c)) fun t =>
      t.scrubPos = AL.put s.scrubPos c ((n + 1) % 69632) ∧
      (s.isHot line = true → t.poison = s.poison ∧ t.errLogs = s.errLogs ∧ t.upsets = s.upsets) ∧
      (s.isHot line = false → ∃ es : List ErrEntry, es.length ≤ 8 ∧ log t c = es.foldl ErrLog.log (log s c) ∧
        (∀ j, j ≠ c → log t j = log s j) ∧ (∀ e ∈ es, (e.kind = 1 ∨ e.kind = 2) ∧ e.source = s.gca c) ∧
        (let found := fun (j : Nat) => ∃ e ∈ es, e.kind = 2 ∧ e.location.toNat % 2 ^ 33 = off + 8 * j
         (∀ w, w ∈ t.poison → w ∈ s.poison ∨ ∃ j < 8, w = line + 8 * j ∧ found j) ∧ (∀ w ∈ s.poison, w ∈ t.poison) ∧
         (∀ j < 8, memUpset (line + 8 * j) ∈ s.upsets → line + 8 * j ∈ s.poison → found j ∧ memUpset (line + 8 * j) ∉ t.upsets))) ∧
      { t with scrubPos := s.scrubPos, poison := s.poison, errLogs := s.errLogs, upsets := s.upsets } = s

/-- R404 and R407 to R409: what becomes of an error that strikes, and of one that is met. A single error of a coded structure is corrected and
logged; a register has parity alone, and keeps it; a doubleword of memory with more is uncorrectable; what a cell meets in a structure of its
own is logged, as PARITY in a register and else as CONSUMED, contains the cell's field, and what met it does not happen; a hub table contains the
field of its entry. When errors strike, and where a table counts as used, is the model's (log 13). -/
def Claims.ErrorsAreMet : Prop :=
  ∀ (s : State) (u : Upset),
    (u.struct_ ≤ 10 → u.struct_ ≠ 4 → u.struct_ ≠ 5 → ∃ k e, s.strike u .single = s.logErr k e ∧ e.kind = 1) ∧
    (u.struct_ = 4 ∨ u.struct_ = 5 → s.strike u .single = { s with upsets := u :: s.upsets }) ∧
    (u.struct_ = 0 ∨ u.struct_ = 1 ∨ u.struct_ = 9 →
      let t := s.strike u .multiple
      t.poison = s.poison ++ [u.index / 8 * 8] ∧ { t with poison := s.poison, upsets := s.upsets } = s) ∧
    (u.struct_ = 9 → let e := s.scrubEntry 5 u.index; s.strike u .link = s.logErr e.1 e.2 ∧ e.2.kind = 5) ∧
    (2 ≤ u.struct_ → u.struct_ ≤ 8 →
      let t := s.consumeAt u
      (∃ e, AL.get ErrLog.empty t.errLogs u.key = (AL.get ErrLog.empty s.errLogs u.key).log e ∧ e.struct_ = u.struct_ ∧
        e.kind = (if u.struct_ = 4 ∨ u.struct_ = 5 then 4 else 3) ∧ e.source = s.gca u.key) ∧ u ∉ t.upsets ∧
      ((s.cell u.key).fieldV = true → AL.has s.fields (s.cell u.key).field = true → AL.find s.recovery (s.cell u.key).field = none →
        AL.find t.recovery (s.cell u.key).field = some ⟨4, none, 0, [], []⟩ ∧
        { t with upsets := s.upsets, errLogs := s.errLogs, recovery := s.recovery } = s)) ∧
    (∀ f, u.struct_ = 10 → s.hubField u = some f → AL.has s.fields f = true → AL.find s.recovery f = none →
      let t := s.consumeAt u
      AL.find t.recovery f = some ⟨4, none, 0, [], []⟩ ∧ u ∉ t.upsets ∧
        { t with upsets := s.upsets, errLogs := s.errLogs, recovery := s.recovery } = s) ∧
    (∀ (m : Move) (ready : State → Ready),
      (s.upsets = [] → s.guarded m ready = ready s) ∧
      (s.upsets = [u] → s.meets m (ready s) u = true → s.guarded m ready = .done (s.consumeAt u)))


/-! ### The firmware complex, far memory, power and reset (spec 21) -/

/-- R423 and R424 with Table 21-8, the stages of an update: each command is taken in its own stage alone and is else refused; an image
is written into the inactive bank only, and verifies only if every check of R424 holds. That a monitor image is refused while another
waits is log 73. -/
def Claims.UpdatesAreStaged : Prop :=
  ∀ (s : State) (c off : Nat) (data : List Byte),
    let w := s.firmware
    let k := s.comp c
    let becomes := fun (i : Instr) (v : Firmware) => exec i s = .next { s with firmware := v }
    let refuses := fun (i : Instr) => becomes i { w with answer := .refused }
    let to_ := fun (b : Bank) => AL.put w.comps c (if k.active then { k with bank0 := b } else { k with bank1 := b })
    let b := if k.active then k.bank0 else k.bank1
    (w.stage = .idle → becomes .requestUpdate { w with stage := .requested, answer := .ok }) ∧
    (w.stage ≠ .idle → refuses .requestUpdate) ∧
    (w.stage = .requested → 1 ≤ c → c ≤ 3 → c ≠ 1 ∨ w.monitorDue = false →
      becomes (.passComponentTable c) { w with stage := .named c, answer := .ok }) ∧
    (w.stage ≠ .requested ∨ c = 0 ∨ 3 < c ∨ (c = 1 ∧ w.monitorDue = true) → refuses (.passComponentTable c)) ∧
    (w.stage = .named c →
      becomes (.updateComponent c) { w with comps := to_ Bank.empty, stage := .loading c, answer := .ok }) ∧
    (w.stage ≠ .named c → refuses (.updateComponent c)) ∧
    (w.stage = .loading c →
      (∃ bs, becomes (.requestFirmwareData off data) { w with comps := to_ { b with bytes := bs }, answer := .ok } ∧
        (∀ j < data.length, bs[off + j]? = data[j]?) ∧
        ∀ j < b.bytes.length, j < off ∨ off + data.length ≤ j → bs[j]? = b.bytes[j]?) ∧
      (let header := b.bytes.take 4096
       let ok := b.bytes ≠ [] ∧ Config.verifies 0 (header.take 256) (header.drop 256) = true ∧
         Config.verifies 1 (header.take 256) (header.drop 256) = true ∧ Config.headerField 0 header = c ∧
         Config.verifies 2 header (Config.digest (b.bytes.drop 4096)) = true ∧ k.minSvn ≤ Config.headerField 2 header
       (ok → becomes .verifyComplete { w with
         comps := to_ { b with valid := true, version := Config.headerField 1 header, svn := Config.headerField 2 header },
         stage := .verified c, answer := .ok }) ∧
       (¬ ok → becomes .verifyComplete { w with
         comps := to_ { b with valid := false }, stage := .idle, answer := .verifyFailed }))) ∧
    ((∀ d, w.stage ≠ .loading d) → refuses (.requestFirmwareData off data) ∧ refuses .verifyComplete) ∧
    (w.stage = .verified c →
      becomes .applyComplete { w with comps := to_ { b with ready := true }, stage := .applied c, answer := .ok }) ∧
    ((∀ d, w.stage ≠ .verified d) → refuses .applyComplete)

/-- The flash's banks of a component after a reset, which cuts off an update in stages 2 to 4 (R425). -/
def Claims.CutOff (w : Firmware) (k : Nat) (x : Component) : Component :=
  if w.stage = .loading k ∨ w.stage = .verified k then
    let bad := fun (b : Bank) => { b with valid := false, ready := false }
    if x.active then { x with bank0 := bad x.bank0 } else { x with bank1 := bad x.bank1 }
  else x

/-- What the boot of component `k` makes of its banks: each is verified, and where the active one fails, the other is used (R424). -/
def Claims.Boots (k : Nat) (x y : Component) : Prop :=
  let ok := fun (b : Bank) => b.valid && imageVerifies k x.minSvn b.bytes
  y.bank0 = { x.bank0 with valid := ok x.bank0 } ∧ y.bank1 = { x.bank1 with valid := ok x.bank1 } ∧ y.minSvn = x.minSvn ∧
  y.active = (if ok (if x.active then x.bank1 else x.bank0) || !ok (if x.active then x.bank0 else x.bank1) then x.active
    else !x.active)

/-- R425 and R426, ACTIVATE_FIRMWARE, MONITOR_ACTIVATION and RAISE_MIN_SVN: a scheduler or plug-in image is activated live, with every
queue in PAUSED from then until time passes and all else as it stands; a monitor image waits for an idle point, at which the control harts
are reset, the image is verified and its keys are derived, and an update under way is cut off; a minimum rises to at most the SVN of the
active image and never falls. -/
def Claims.ImagesAreActivated : Prop :=
  ∀ (s : State) (c n : Nat),
    let w := s.firmware
    let k := s.comp c
    let swapped := { k with active := !k.active }
    let idle := ∀ p ∈ s.cells, ∀ q ∈ p.2.frames, q.2.life = .free ∨ q.2.life = .frozen
    (w.stage = .applied 1 → exec .activateFirmware s = .next { s with
      firmware := { w with monitorDue := true, stage := .idle, answer := .ok } }) ∧
    (w.stage = .applied c → c ≠ 1 → Happens s .activateFirmware fun t =>
      t.firmware = { w with
        comps := AL.put w.comps c swapped, stage := .idle, answer := .ok, changing := true, plugins := t.firmware.plugins } ∧
      (c ≠ 3 → t.firmware.plugins = w.plugins) ∧
      (c = 3 → swapped.bank.valid = true →
        ∀ x < 16, AL.find t.firmware.plugins x = some (Config.pluginImage x swapped.bank.bytes)) ∧
      (c = 3 → swapped.bank.valid = false → t.firmware.plugins = []) ∧
      (∀ q e, AL.find s.queues q = some e → e.state ∈ [QueueState.idle, .ready, .waiting, .parked] →
        t.queue q = { e with state := .paused, waitOk := false }) ∧
      (∀ q, (∀ e, (q, e) ∈ s.queues → e.state ∉ [QueueState.idle, .ready, .waiting, .parked]) → t.queue q = s.queue q) ∧
      { t with firmware := s.firmware, queues := s.queues, cps := s.cps } = s) ∧
    (w.changing = true →
      let t := s.elapse n
      t.firmware = { w with changing := false } ∧
      ∀ q e, AL.find s.queues q = some e → t.queue q =
        if e.state = .paused then { e with state := { s with firmware := { w with changing := false } }.idleState q e.field } else e) ∧
    ((∀ d, w.stage ≠ .applied d) → exec .activateFirmware s = .next { s with firmware := { w with answer := .refused } }) ∧
    (w.monitorDue = true → idle → Happens s .monitorActivation fun t =>
      t.harts = bootHarts ∧
      (∀ d, d ≠ 1 → t.comp d = Claims.CutOff w d (s.comp d)) ∧
      (let x := Claims.CutOff w 1 (s.comp 1)
       Claims.Boots 1 { x with active := !x.active } (t.comp 1)) ∧
      t.firmware = { w with
        comps := t.firmware.comps, keys := KeyStore.derived w.helper (t.comp 1).bank.bytes, stage := .idle, monitorDue := false,
        answer := .ok } ∧
      { t with harts := s.harts, firmware := s.firmware } = s) ∧
    (w.monitorDue = false ∨ ¬ idle → exec .monitorActivation s = .next s) ∧
    (let may := 1 ≤ c ∧ c ≤ 3 ∧ n ≤ (if k.active then k.bank1 else k.bank0).svn ∧ k.minSvn ≤ n
     (may → exec (.raiseMinSvn c n) s = .next { s with
       firmware := { w with comps := AL.put w.comps c { k with minSvn := n }, answer := .ok } }) ∧
     (¬ may → exec (.raiseMinSvn c n) s = .next { s with firmware := { w with answer := .refused } }))

/-- R348 and R421, PLUGIN_STOP: every decision that is pending for the tenant takes its default: the queue's timer has run out no
longer, and its field is recovered where launches of the queue are outstanding. The hart of the plug-in, if it runs there, keeps no grant
of it, and takes up the plug-in of another tenant whose decision waits. While an image is activated, decisions wait for it (R426). -/
def Claims.PluginsStop : Prop :=
  ∀ (s : State) (tenant : Nat), Happens s (.pluginStop tenant) fun t =>
    (s.firmware.changing = true → t.queues = s.queues ∧ t.recovery = s.recovery) ∧
    (∀ q e, s.firmware.changing = false → AL.find s.queues q = some e → e.expired = true → e.tenant.toNat = tenant →
      t.queue q = { e with expired := false, asked := 0 } ∧
      ((∃ l ∈ s.launches, l.2.queue = q) → AL.find s.recovery e.field = none →
        ∃ j, AL.find t.recovery e.field = some ⟨2, some j, 0, [], []⟩)) ∧
    (∀ q, (∀ e, (q, e) ∈ s.queues → e.expired = false ∨ e.tenant.toNat ≠ tenant) → t.queue q = s.queue q) ∧
    (∀ f r, AL.find s.recovery f = some r → AL.find t.recovery f = some r) ∧
    (∀ k, k ≠ 6 + tenant % 2 → AL.find t.harts k = AL.find s.harts k) ∧
    (∀ h, AL.find s.harts (6 + tenant % 2) = some h →
      ((∀ n, h.plug ≠ some (tenant, n)) → t.harts = s.harts) ∧
      (∀ n, h.plug = some (tenant, n) →
        ((∀ q ∈ t.queues, q.2.expired = true → q.2.tenant.toNat % 2 ≠ tenant % 2) →
          AL.find t.harts (6 + tenant % 2) = some { h with pmp := List.replicate 16 PmpEntry.empty, plug := none }) ∧
        ((∃ q ∈ t.queues, q.2.expired = true ∧ q.2.tenant.toNat % 2 = tenant % 2) →
          ∃ q ∈ t.queues, q.2.expired = true ∧ q.2.tenant.toNat % 2 = tenant % 2 ∧
            ∃ g, AL.find t.harts (6 + tenant % 2) = some g ∧ g.mode = .user ∧ g.plug = some (q.2.tenant.toNat, 0)))) ∧
    { t with queues := s.queues, recovery := s.recovery, harts := s.harts } = s

/-- R420, R424 and R427, BOOT: each bank is verified again and one that fails is skipped for the other; with a verifying monitor image the
keys are derived, the plug-ins loaded, and the map and the bins are loaded from the record of each die; without one the module waits
and nothing is loaded. -/
def Claims.ModulesBoot : Prop :=
  ∀ (s : State), Happens s .boot fun t =>
    (∀ k ∈ [1, 2, 3], Claims.Boots k (s.comp k) (t.comp k)) ∧
    (let y := t.comp 1
     let boots := (if y.active then y.bank1 else y.bank0).valid
     let r := { t with firmware := { s.firmware with keys := t.firmware.keys } }
     t.firmware.booted = boots ∧
     (boots = false → t.harts = [] ∧ t.firmware = { s.firmware with comps := t.firmware.comps, booted := false } ∧
       { t with firmware := s.firmware, harts := s.harts } = s) ∧
     (boots = true → t.harts = bootHarts ∧
       t.firmware = { s.firmware with
         comps := t.firmware.comps, booted := true, keys := KeyStore.derived s.firmware.helper y.bank.bytes,
         plugins := t.firmware.plugins } ∧
       ((t.comp 3).bank.valid = true →
         ∀ x < 16, AL.find t.firmware.plugins x = some (Config.pluginImage x (t.comp 3).bank.bytes)) ∧
       ((t.comp 3).bank.valid = false → t.firmware.plugins = []) ∧
       (∀ d < 4, (∀ c < 32, t.column d c = { AL.get Column.whole (r.dieRecord d).columns c with reserved := none } ∧
           ∀ f < 32, (AL.get Column.whole (r.dieRecord d).columns c).failed = some f →
             (t.cell (cellAt d f c)).service = false) ∧
         (∀ j < 64, (t.cluster (64 * d + j)).bin = AL.get 0 (r.dieRecord d).bins j) ∧
         ((∃ p ∈ (r.dieRecord d).columns, p.2.second = true) → d ∈ t.degraded)) ∧
       { t with firmware := s.firmware, cells := s.cells, columns := s.columns, clusters := s.clusters,
                degraded := s.degraded, harts := s.harts } = s))

/-- R427 and R428, the SPDM responder: what each request is answered once the module has booted. A challenge and a measurement carry
an Ed25519 and an ML-DSA-65 signature; there are six measurement blocks of 48 bytes: of the monitor, the scheduler, the plug-ins' digests
in the order of the tenants, the valid die records and the SVNs with the minimums. -/
def Claims.TheResponderAnswers : Prop :=
  (∀ (s : State) (nonce : Word) (i : Nat),
    let tells := fun (q : Instr) (p : MgmtAnswer → Prop) =>
      (s.firmware.booted = true → ∃ a, p a ∧ exec q s = .next { s with firmware := { s.firmware with answer := a } }) ∧
      (s.firmware.booted = false → exec q s = .next s)
    tells .getVersion (fun a => a = .words [0x13]) ∧
    tells .getCapabilities (fun a => a = .words [0b0111]) ∧
    tells .negotiateAlgorithms (fun a => a = .words [25519, 384, 384]) ∧
    tells .getDigests (fun a => ∃ bs, a = .bytes bs ∧ bs.length = 48) ∧
    tells .getCertificate (fun a => ∃ bs, a = .bytes bs ∧ bs ≠ []) ∧
    tells (.challenge nonce) (fun a => ∃ bs, a = .bytes bs ∧ bs.length = 64 + 3309) ∧
    (1 ≤ i → i ≤ 6 → tells (.getMeasurements i) (fun a => ∃ bs, a = .bytes bs ∧ bs.length = 48 + (64 + 3309) ∧
      bs.take 48 = s.block i)) ∧
    (i = 0 ∨ 6 < i → tells (.getMeasurements i) (fun a => a = .refused))) ∧
  (∀ (s : State),
    let hash := fun (bs : List Byte) => fit 48 (Config.digest bs)
    let svns := [1, 2, 3].flatMap (fun k => [BitVec.ofNat 64 (s.comp k).bank.svn, BitVec.ofNat 64 (s.comp k).minSvn])
    s.block 2 = hash (s.comp 1).bank.bytes ∧ s.block 3 = hash (s.comp 2).bank.bytes ∧
    s.block 4 = hash (((List.range 16).filterMap (fun t => AL.find s.firmware.plugins t)).flatMap hash) ∧
    s.block 5 = hash ((List.range 4).flatMap (fun d => (s.dieRecord d).image)) ∧ s.block 6 = hash (wordsBytes svns)) ∧
  (∀ (s t : State), t.block 1 = s.block 1)

/-- R429, FAR_MEMORY_BRINGUP, ZQ_CALIBRATION and DATA_RETRAIN: before the first field is configured, every byte of a channel that has
passed its training reads zero, each channel has its geometry and timing set, and the channels that failed are logged and reported; recalibration changes nothing; a channel that fails a retraining holds an
uncorrectable error in every line. -/
def Claims.FarMemoryIsBroughtUp : Prop :=
  ∀ (s : State) (passed : List Nat) (k : Nat),
    (s.fields = [] → Happens s (.farMemoryBringup passed) fun t =>
      let failed := (List.range 64).filter (fun j => j ∉ passed)
      (∀ a, farBase ≤ a → (a - farBase) / 256 % 64 ∈ passed → t.mem.get a = 0 ∧ a ∉ t.poison) ∧
      (∀ a, a < farBase ∨ (a - farBase) / 256 % 64 ∉ passed → t.mem.get a = s.mem.get a) ∧
      (∀ j < 64, let g := AL.get (0, 0) s.firmware.channels j
        AL.get Channel.reset t.channels j = ⟨passed.contains j, false, g.1, g.2⟩) ∧
      t.firmware = { s.firmware with trainFail := failed, answer := .words (failed.map (BitVec.ofNat 64)) } ∧
      { t with mem := s.mem, poison := s.poison, channels := s.channels, firmware := s.firmware } = s) ∧
    (s.fields ≠ [] → exec (.farMemoryBringup passed) s = .next s) ∧
    exec (.zqCalibration k) s = .next s ∧
    (let c := AL.get Channel.reset s.channels k
     exec (.dataRetrain k true) s = .next s ∧
     (c.trained = true → k < 64 → Happens s (.dataRetrain k false) fun t =>
       t.channels = AL.put s.channels k { c with failed := true } ∧
       (∀ a n, farBase ≤ a → (a - farBase) / 256 % 64 = k → t.poisoned a n = true) ∧ { t with channels := s.channels } = s) ∧
     (c.trained = false → exec (.dataRetrain k false) s = .next s))

/-- R430, THERMAL_SAMPLE, POWER_CAP_SET and POWER_CAP_WINDOW: from 95 degrees the clock is stretched step by step until a sample reads
below 93; at 110 every running field is stopped, and once all are, the compute dies lose their power; a cap from 1,200 W to 2,800 W
is taken. One step a sample, and one a window, are the model's choice (log 36). -/
def Claims.PowerIsLimited : Prop :=
  ∀ (s : State) (temp : Int) (watts : Nat),
    (Happens s (.thermalSample temp) fun t =>
      let p := s.power
      let q := t.power
      (95 ≤ temp → q.hot = true) ∧ (temp < 93 → q.hot = false) ∧ (93 ≤ temp → temp < 95 → q.hot = p.hot) ∧
      q.thermal = (if q.hot then min 15 (p.thermal + 1) else 0) ∧ q.cap = p.cap ∧ q.capped = p.capped ∧
      (p.closing = false → temp < 110 → t.fields = s.fields ∧ q.closing = false ∧ q.mode = p.mode) ∧
      (p.closing = true ∨ 110 ≤ temp → q.closing = true ∧
        (∀ f x, AL.find s.fields f = some x → AL.find t.fields f = some (if x.mode = .running then { x with mode := .stopping } else x)) ∧
        (p.mode = .on → (q.mode = .hubOnly ↔ ∀ e ∈ t.fields, e.2.mode = .out ∨ t.stopComplete e.2 = true))) ∧
      { t with fields := s.fields, power := s.power } = s) ∧
    (1200 ≤ watts → watts ≤ 2800 → exec (.powerCapSet watts) s = .next { s with power := { s.power with cap := watts } }) ∧
    (watts < 1200 ∨ 2800 < watts → exec (.powerCapSet watts) s = .next s) ∧
    exec (.powerCapWindow watts) s = .next { s with power := { s.power with
      capped := if s.power.cap < watts then min 15 (s.power.capped + 1) else s.power.capped - 1 } }

/-- R381, R425 and R426, POWER_ON_RESET and POWER_LOSS: all but the flash is as at reset, with global time zero. The flash keeps the active
banks, the minimums, the die records, the helper data and the channels' configuration; an update that is under way is given up, and the
inactive bank that it has written is invalid. A commanded reset activates a monitor image that waits. That the model's own numbers go on
is log 5, and that a loss of supply leaves such an image waiting is log 73. -/
def Claims.ResetKeepsTheFlash : Prop :=
  ∀ (s : State) (i : Instr) (m : PowerMode), (i = .powerOnReset ∧ m = .on) ∨ (i = .powerLoss ∧ m = .off) →
    Happens s i fun t =>
      let w := s.firmware
      { t with firmware := State.reset.firmware, dieRecs := State.reset.dieRecs, power := State.reset.power,
               nextId := State.reset.nextId, tick := State.reset.tick, agenda := State.reset.agenda } = State.reset ∧
      t.ns = 0 ∧ t.dieRecs = s.dieRecs ∧ t.power = { Power.reset with mode := m } ∧ t.nextId = s.nextId ∧ t.tick = s.tick ∧
      t.agenda = s.agenda ∧
      t.firmware = { Firmware.reset with
        comps := t.firmware.comps, helper := w.helper, channels := w.channels, monitorDue := w.monitorDue && decide (m = .off) } ∧
      ∀ k,
        let x := Claims.CutOff w k (s.comp k)
        t.comp k = if k = 1 ∧ w.monitorDue = true ∧ m = .on then { x with active := !x.active } else x


/-! ### The machine as a whole (spec 01, 02, 07, 09) -/

/-- Decoding reads back what the encoder writes, for every well-formed instruction and every operand: as a group on its own, among the
halfwords of a program, and for a unit that executes it; and a Gorivo word. -/
def Obligations.DecodeOfEncode : Prop :=
  ∀ i : Instr, i.wf = true →
    (∀ g, encodeGroup i = some g → decodeWords g.words = .ok i ∧ (∃ u, decodeFor u g.words = .ok i) ∧
      ∀ rest, takeGroup (encode i ++ rest) = some g.words) ∧
    (∀ w, encodeGorivo i = some w → decodeGorivo w = .ok i)

/-- What decodes is an instruction with a word whose operands lie in the ranges of Tables 2-3, 2-7 and 19-5 (R46, R47, R86); a unit
decodes no more than the pages that Table 2-11 gives it (R48). -/
def Claims.DecodedIsWellFormed : Prop :=
  (∀ ws i, decodeWords ws = .ok i → i.operandsOk = true ∧ (encodeGroup i).isSome = true) ∧
  (∀ w i, decodeGorivo w = .ok i → i.operandsOk = true ∧ (encodeGorivo i).isSome = true) ∧
  (∀ u ws i, decodeFor u ws = .ok i → decodeWords ws = .ok i) ∧
  (∀ ws i, decodeFor .scalar ws = .ok i → pageOf ws.pfx ∈ [0, 1, 2, 5]) ∧
  (∀ ws i, decodeFor (.engine .vector) ws = .ok i → pageOf ws.pfx ∈ [0, 3, 5]) ∧
  (∀ ws i, decodeFor (.engine .matrix) ws = .ok i → pageOf ws.pfx ∈ [0, 4, 5]) ∧
  (∀ ws i, decodeFor (.engine .streamer) ws = .ok i → pageOf ws.pfx ∈ [0, 2, 3, 5])

/-- Words written out from R82, R83, R85, R86, R88, R91, R93, R99, R101 and R392: each decodes to its instruction. The third is from
the listing of R85, the fifth the worked example of R86, the sixth, seventh and ninth are from the listing of R103. -/
def Claims.WordsDecode : Prop :=
  decodeWords ⟨[], 0x0123#16⟩ = .ok (.add none 1 2 3) ∧
  decodeWords ⟨[], 0x6A45#16⟩ = .ok (.mulh none 4 5) ∧
  decodeWords ⟨[0xF123#16, 0xF115#16, 0xF278#16], 0x8019#16⟩ = .ok (.li none 1 0x123456789#44) ∧
  decodeWords ⟨[0xF3FC#16], 0xC120#16⟩ = .ok (.beq none 1 2 (-4)) ∧
  decodeWords ⟨[0xF00C#16], 0x8C28#16⟩ = .ok (.bext none 2 8 3) ∧
  decodeWords ⟨[0xF438#16], 0x0110#16⟩ = .ok (.add (some 0) 1 1 48) ∧
  decodeWords ⟨[], 0xEBFC#16⟩ = .ok (.lp (-4)) ∧
  decodeWords ⟨[0xF805#16], 0x0321#16⟩ = .ok (.div none 3 2 1) ∧
  decodeWords ⟨[0xF805#16], 0x7340#16⟩ = .ok (.movxToIndex none 3 4) ∧
  decodeWords ⟨[], 0x7A00#16⟩ = .ok .done ∧
  decodeGorivo 0x10448000#32 = .ok (.gorivoAdd 1 1 2)

/-- R39 and R49, fetching: a group that lies in one line of an executable segment in SRAM is fetched as its words stand in code memory,
two bytes each with the low one first; the line then stands in the cell's instruction cache. -/
def Claims.GroupsAreFetched : Prop :=
  ∀ (s : State) (c i a : Nat) (pc : Addr) (ws : GroupWords), ws.pfx.length ≤ 4 → (∀ h ∈ ws.pfx, Half.isPfx h = true) →
    Half.isPfx ws.base = false → pc.toNat % 2 = 0 → pc.toNat % 64 + 2 * (ws.pfx.length + 1) ≤ 64 →
    let line := pc.toNat / 64
    (∀ k ≤ ws.pfx.length, regionOf (s.segsOf c) (pc.toNat + 2 * k) = .seg i) →
    AL.find (s.cell c).icache line = none → resolve (s.segsOf c) none (line * 64) .x = .sram a →
    s.flatFenced a = false → s.poisoned a 64 = false →
    (∀ k, ∀ h : k < (ws.pfx ++ [ws.base]).length,
      BitVec.ofNat 16 (leNat (s.mem.bytes (a + pc.toNat % 64 + 2 * k) 2)) = (ws.pfx ++ [ws.base])[k]) →
    s.fetchGroup c pc 6 [] pc = .ok ws (pc + BitVec.ofNat 48 (2 * (ws.pfx.length + 1)))
      { s with cells := AL.put s.cells c ((s.cell c).fillLine s.tick line (s.mem.bytes a 64)) } ∧
    AL.find ((s.cell c).fillLine s.tick line (s.mem.bytes a 64)).icache line = some (s.mem.bytes a 64)

/-- The group at a PC as the unit of cell `c` that holds `held` in its fetch buffer takes it, in `s`: the held one of that PC, or else
the one that is fetched, which leaves `s2` (R39, R96). -/
def Claims.TakesGroup (s : State) (c : Nat) (pc : Addr) (held : Option Site) (st : Site) (s2 : State) : Prop :=
  (held = some st ∧ st.pc = pc ∧ s2 = s) ∨
  ((∀ old, held = some old → old.pc ≠ pc) ∧ ∃ ws next, s.fetchGroup c pc 6 [] pc = .ok ws next s2 ∧
    st = ⟨pc, next, pageOf ws.pfx, ws.pfx, ws.base⟩)

/-- A step runs the instruction that it decodes: a frame that may issue, an engine that runs a program, and a trace core run exec of
the instruction whose words stand at their PC (R39, R48, R246, R392), with the group noted and held in the fetch buffer until it has
issued (R96); a step without a word is exec of it (R8). A group that does not decode raises the trap of the first check that fails, at the
address of its first halfword, for a frame as for an engine (R49, R53, R56). The state it runs in is the one without the move at the head
of the agenda, the cell's deficit counters charged for a frame that issues (R144), an engine's scope found not cancelled (R168). -/
def Obligations.StepRunsTheInstruction : Prop :=
  ∀ (s : State) (rest : List Move), s.upsets = [] →
    let u := { s.chargeGiven with agenda := rest, tick := s.tick + 1 }
    (s.power.mode = .on →
      (∀ c slot, s.agenda = .issue c slot :: rest →
        let f := s.frame c slot
        f.life = .running → f.off = false → (f.pend = none → (s.actOf c slot).kept = none) →
        u.waitOf (.frame c slot) ≠ .withheld → u.preempted c slot = false →
        f.pc.toNat % 2 = 0 → ∀ st s2, Claims.TakesGroup u c f.pc f.held st s2 →
        (∀ i, decodeFor .scalar ⟨st.pfx, st.base⟩ = .ok i →
          step s = exec i { s2.hold ⟨c, .scalar, slot, st⟩ st with cur := .group c .scalar slot st }) ∧
        (∀ cause, decodeFor .scalar ⟨st.pfx, st.base⟩ = .bad cause → ∃ t, step s = .next t ∧
          (t.frame c slot).life = .frozen ∧ (t.frame c slot).g = (s2.frame c slot).g ∧ t.mem = s2.mem ∧
          ∃ tr, (t.frame c slot).trap = some tr ∧ tr.cause = causeCode cause ∧ tr.site.pc = f.pc ∧ tr.stage = .raised)) ∧
      (∀ c v p x, s.agenda = .engine c v :: rest → ((s.cell c).engine v).run = some p → AL.find s.progs p = some x →
        x.life = .running → x.off = false → u.waitOf (.prog p) ≠ .withheld →
        (x.pend = none → u.engineGo c = true ∧ u.mayCheck c x.naming.scope = true ∧ u.cancelledAt c x.naming.scope = false ∧
          u.writesDone p = true) →
        x.pc.toNat % 2 = 0 → ∀ st s2,
        Claims.TakesGroup (if x.pend = none then u.checked c x.naming.scope else u) c x.pc x.held st s2 →
        (∀ i, decodeFor (.engine v) ⟨st.pfx, st.base⟩ = .ok i →
          step s = exec i { s2.hold ⟨c, .engine v, 0, st⟩ st with cur := .group c (.engine v) 0 st }) ∧
        (∀ cause, decodeFor (.engine v) ⟨st.pfx, st.base⟩ = .bad cause → ∃ t z tr, step s = .next t ∧
          AL.find t.progs p = some z ∧ z.life = .frozen ∧ z.w = x.w ∧ t.mem = s2.mem ∧
          z.trap = some tr ∧ tr.cause = causeCode cause ∧ tr.site.pc = x.pc ∧ tr.stage = .raised)) ∧
      (∀ k w i, s.agenda = .gorivo k :: rest → (s.trace k).busy = true → (s.trace k).verdict = .none →
        (s.trace k).store[(s.trace k).pc]? = some w → decodeGorivo w = .ok i →
        step s = exec i { u with cur := .trace k })) ∧
    (∀ i, s.agenda = .event i :: rest → u.mayCome i = true → step s = exec i { u with cur := .none })

/-- No step stops: wherever the head of the agenda is not a word as an event, the machine answers a next state. That the agenda or a free
choice names the step that comes next (R8 leaves the order of steps open) is log 5 and log 6, and the steps that only the model has are
log 55. -/
def Obligations.NoStepStops : Prop := ∀ s : State, s.AgendaOk → s.Goes

/-- Every step keeps the canonical form of the memory. -/
def Obligations.StepsKeepTheMemoryCanonical : Prop := Keeps State.MemOk

/-- What power-on reset leaves by Table 4-20, R137, R328, R337, R350, R381, R390, R405, R416 and Tables 17-4, 18-2, 18-8, 18-9, 19-4;
the memory is in its canonical form. That near scratch and far memory read 0 at reset is log 2, which R328 says of the first load of a
context and R429 of the bring-up of far memory. -/
def Claims.ResetLeaves : Prop :=
  let s := State.reset
  s.MemOk ∧ s.ns = 0 ∧ s.scrubInt = 65536 ∧ (∀ a, a < sliceBase ∨ farBase ≤ a → s.mem.get a = 0) ∧
  (∀ c, (s.cell c).frames = [] ∧ (s.cell c).slots = [] ∧ (s.cell c).sb = [] ∧ (s.cell c).cancels = [] ∧
    (s.cell c).overflow = false ∧ (s.cell c).interval = 256 ∧ (s.cell c).violations = [] ∧ (s.cell c).fieldV = false) ∧
  (∀ c k, s.frame c k = Frame.free ∧ AL.get TagEntry.reset (s.cell c).tags k = ⟨false, 0, 0⟩) ∧
  (∀ q, (s.queue q).state = .disabled ∧ (s.queue q).head = 0 ∧ (s.queue q).tail = 0) ∧
  (∀ n, (s.route n).valid = false ∧ (s.peer n).valid = false ∧ (AL.get Region.reset s.regions n).valid = false) ∧
  (∀ k, (s.trace k).state = 0 ∧ (s.trace k).wr = 0 ∧ (s.cluster k).tapint = 1024 ∧ (s.cluster k).marginal = false)

/-- R381: while no correction is due, time passes nanosecond by nanosecond; nothing else happens in it but that the messages that wait
in the outbound queues of the cells leave them, where no activation of firmware ends with it (R426). -/
def Claims.TimePasses : Prop :=
  ∀ (s : State) (n : Nat) (rest : List Move), s.upsets = [] → s.agenda = .clock n :: rest → s.time.slew = 0 → ∃ t,
    step s = .next t ∧ t.ns = s.ns + n ∧ (∀ c, t.cell c = { s.cell c with outq := (s.cell c).outq.drop n }) ∧
    (s.firmware.changing = false →
      { t with ns := s.ns, time := s.time, cells := s.cells, agenda := s.agenda, tick := s.tick } = s)

/-- R144: of the tenants with a ready frame, each deficit counter rises by its weight; the largest is chosen, of equal ones the lowest,
and falls by the sum of the weights; a tenant without a ready frame has none. Of the chosen tenant's ready frames the one with the
highest channel issues, then the earliest dispatched, then the lowest slot. Which of the frames that could run a latency of Table 4-1
still holds back in a cycle is a free choice of the model (log 7): the rule holds for every list of ready frames. -/
def Claims.IssueIsFair : Prop :=
  (∀ (w : Nat → Int) (d : AL Int) (ts : List Nat), ts ≠ [] → ts.Pairwise (fun a b => a < b) →
    let r := deficitTurn w d ts
    let up := fun (t : Nat) => AL.get 0 d t + w t
    ∃ u ∈ ts, r.2 = some u ∧ (∀ t ∈ ts, up t ≤ up u) ∧ (∀ t ∈ ts, t < u → up t < up u) ∧
      ∀ t, AL.get 0 r.1 t = if t ∈ ts then up t - (if t = u then (ts.map w).sum else 0) else 0) ∧
  (∀ (s : State) (c k : Nat) (rs : List Nat), (s.chooseAmong c rs).2 = some k → k ∈ rs ∧
    ∀ j ∈ rs, j ≠ k → s.tenantOf c j = s.tenantOf c k →
      let f := s.frame c k
      let g := s.frame c j
      g.chan.toNat < f.chan.toNat ∨ (f.chan = g.chan ∧ (f.act < g.act ∨ (f.act = g.act ∧ k < j)))) ∧
  (∀ (s : State) (c k : Nat), s.agenda = [] → s.nextMove.1 ≠ .issue c k ∨ s.frameReady c k = false ∨
    ∃ rs, (∀ j ∈ rs, j ∈ s.readySlots c) ∧ (s.chooseAmong c rs).2 = some k ∧
      (s.nextMove.2.cell c).deficit = (s.chooseAmong c rs).1)


/-! ### Where the instructions of the engines, the trace cores and the system group complete -/

/-- The system instructions complete: `rdtime` with the count in its register and the PC moved on, `tmark` with its record offered,
`done` with its frame done, and `ifence`, once the cell's stores are performed, with the instruction cache empty (R93, R96 to R98). -/
def Claims.SystemInstructionsComplete : Prop :=
  ∀ (s : State) (c : Ctx) (r : Rel) (d : RegNum) (code : BitVec 16), s.At c →
    (s.Clear c .no [s.regNo c r d] → Happens s (.rdtime r d) fun t =>
      t.reg c (s.regNo c r d) = BitVec.ofNat 64 s.ns ∧ t.pcAt c = s.pcNext c none) ∧
    (c.unit = .scalar → s.Clear c .no [s.regNo c r d] → Happens s (.tmark r d code) fun t =>
      (t.trace (clusterOf c.cell)).offered.length = (s.trace (clusterOf c.cell)).offered.length + 1 ∧ t.pcAt c = s.pcNext c none) ∧
    (c.unit = .scalar → s.Clear c .both [] → Happens s .done fun t => (t.fr c).life = .done) ∧
    (s.Clear c (s.gateForce c) [] → s.storesDone c = true → Happens s .ifence fun t =>
      (t.cell c.cell).icache = [] ∧ t.pcAt c = s.pcNext c none)

/-- The program of a group stands behind its instruction: off the scoreboards, with nothing of the instruction left, at the address after
it (or where a verdict has let it go on). -/
def Claims.Behind (s t : State) (c : Ctx) (x : Prog) : Prop :=
  (∃ z, AL.find t.progs (s.progId c) = some z ∧ z.life = x.life ∧ z.pend = none ∧ z.pc = x.resume.getD c.site.next) ∧
  ∀ f < 4, ∀ k ∈ t.score c.cell f, k / 2 ≠ s.progId c

/-- Every element of a shape can be read and written where it stands: an accumulator of the cell, or bytes of SRAM in one region
(`State.PlainRun`). -/
def Claims.ElementsPlain (s : State) (w : Who) (h : Shape) (es : List Nat) : Prop :=
  h.loc = 2 ∨ (h.loc = 0 ∧ h.fmt ≠ .es4 ∧ ∀ e ∈ es,
    let p := (elemPlace h.base (h.index e) h.bits).1
    let n := (h.bits + 7) / 8
    0 ≤ p ∧ oneRegion w.segs p.toNat n = true ∧ ∃ f, s.PlainRun w p.toNat n f)

/-- Records of 64 bytes at addresses aligned to them stand in SRAM, and hold the bytes `bs`. -/
def Claims.RecordsPlain (s : State) (w : Who) (as : List Addr) (bs : List Byte) : Prop :=
  bs.length = 64 * as.length ∧ ∀ k a, as[k]? = some a → a.toNat % 64 = 0 ∧
    ∃ f, s.PlainRun w a.toNat 64 f ∧ (bs.drop (64 * k)).take 64 = s.mem.bytes f 64

/-- R274 to R279: the vector instructions complete. `vadd`, `vsub`, `vmul`, `vfma`, `vfms`, `vdiv`, `vmin`, `vmax`, `vand`, `vor`, `vxor`, `vshl`,
`vshr`, `vabs`, `vneg`, `vcvt`, `vfill`, `vcpy`, `vexp`, `vlog`, `vrcp`, `vrsq`, `vsqrt`, `vtanh`, `vsig`, `verf`, `vsin`, `vcos`, the eight `vcmp`, `vsel`, the
seven `vred`, the seven `vscan`, `vgat`, `vsca` and `vtop`, on well-formed records whose elements stand in SRAM or are accumulators, with
their fragments free: an iteration is done, and with the last one the instruction. -/
def Claims.VectorInstructionsComplete : Prop :=
  ∀ (s : State) (c : Ctx) (d a b : ERegNum) (i : Instr) (touched regs : List Nat) (plan : List Shape → Option Plan) (x : Prog)
    (bs : List Byte) (shs : List Shape) (pl : Plan) (u : Nat) (carry : List Int),
    (i, touched, regs, plan) ∈ Claims.vectorInstrs s c d a b → s.At c → c.unit = .engine .vector →
    s.Clear c .no (touched.map (fun (n : Nat) => (n : Int))) → AL.find s.progs (s.progId c) = some x → s.memWait c = .none →
    s.writesDone (s.progId c) = true →
    (x.pend = none ∧ u = 0 ∧ carry = [] ∧ (∀ f ∈ fragsOf shs, s.score c.cell f = []) ∧
        Claims.RecordsPlain s (s.whoGroup c) (regs.map (fun (r : Nat) => (s.reg c (r : Int)).setWidth 48)) bs ∨
      x.pend = some ⟨8, u, none, bs, 0, [], none, 0, carry, [], none⟩ ∧ bs.length = 64 * regs.length ∧
        (0 < u → s.Uncancelled c x)) →
    ((List.range regs.length).map (fun k => (bs.drop (64 * k)).take 64)).mapM (fun r => shapeOf r (s.channelOk c)) = some shs →
    (∀ h ∈ shs, h.aligned = true) → plan shs = some pl →
    (∀ h ∈ shs, Claims.ElementsPlain s (s.whoGroup c) h (List.range (h.count + carry.length))) → u < pl.units →
    Happens s i fun t =>
      (pl.units ≤ u + 1 → Claims.Behind s t c x) ∧
      (u + 1 < pl.units → ∃ z next, AL.find t.progs (s.progId c) = some z ∧ z.life = x.life ∧ z.pc = x.pc ∧
        z.pend = some ⟨8, u + 1, none, bs, 0, [], none, 0, next, [], none⟩)

/-- R305 to R315: the matrix instructions complete, where the writes of the program are performed and its scope is not cancelled. `mzero` and
`macc` on free fragments; the last part of `mscl`, the last row of `mplane` and of `mst` on bytes of SRAM; the last pass or side
addition of `mmul` and `mgang`. -/
def Claims.MatrixInstructionsComplete : Prop :=
  ∀ (s : State) (c : Ctx) (a b : ERegNum) (x : Prog), s.At c → c.unit = .engine .matrix →
    s.Clear c .no [(a.toNat : Int), (b.toNat : Int)] → AL.find s.progs (s.progId c) = some x → s.memWait c = .none →
    s.writesDone (s.progId c) = true → s.Uncancelled c x →
    let va := s.reg c a.toNat
    let vb := s.reg c b.toNat
    let w := s.whoGroup c
    let completes := fun (i : Instr) => Happens s i fun t => Claims.Behind s t c x
    (x.pend = none → (∀ f < 4, s.score c.cell f = []) →
      (bits va 63 4 = 0 → completes (.mzero a)) ∧
      (bits va 63 2 = 0 → bits vb 63 9 = 0 → bits vb 7 2 = 0 → completes (.macc a b))) ∧
    (∀ q f, q = x.pend.getD Pending.zero → (q.stage = 0 ∨ q.stage = 8) → q.writes = [] → q.err = none →
      let off := bits va 12 0
      let n := bits va 28 16
      let lo := 64 * q.sent
      bits va 15 13 = 0 → bits va 30 29 = 0 → bits va 63 32 = 0 → off % 2 = 0 → off + 2 * n ≤ 8192 → vb.toNat % 2 = 0 →
      lo < n → n ≤ lo + 64 → s.PlainRun w ((vb.toNat % 2 ^ 48 + 2 * lo) % 2 ^ 48) (2 * (n - lo)) f → completes (.mscl a b)) ∧
    (∀ q, x.pend = some q → q.err = none →
      (∀ j (f : Nat → Nat) g n, q.data.length = 64 → q.stage = 8 ∨ q.stage = 0 →
        mplaneCheck x (s.segsOf c.cell) q.data = .ok j → j.d.outers ≤ q.sent + 1 → q.sent < j.d.outers →
        Claims.ElementsPlain s w j.shape ((List.range 64).map (fun k => q.sent * 64 + k)) → j.t.scale = 0 →
        (∀ p < j.f.p, s.PlainRun w ((j.d.base.toNat + (if j.d.b then 512 else 256) * p + 8 * q.sent) % 2 ^ 48) 8 (f p)) →
        n = 8 + 4 * q.ids.length → (j.d.olist ≠ 0 → oneRegion w.segs j.d.olist.toNat n = true ∧ s.PlainRun w j.d.olist.toNat n g) →
        completes (.mplane a b)) ∧
      (∀ j, q.data.length = 32 → mstCheck x (s.segsOf c.cell) q.data vb = .ok j → q.stage = 8 → q.sent = 31 →
        Claims.ElementsPlain s w j.shape ((List.range 64).map (fun k => 64 * q.sent + k)) → completes (.mst a b)) ∧
      (∀ m, q.data.length = 64 → q.mat = some m → q.stage = 8 → m.units ≤ q.sent + 1 →
        completes (.mmul a b) ∧ (0 < q.sent → completes (.mgang a b))))

/-- R391 to R395: the Gorivo instructions complete. Those that compute, count and branch leave the core at a further instruction of the same
record; a verdict, where a record that is kept finds its place of the ring in SRAM, leaves the core free. -/
def Claims.GorivoInstructionsComplete : Prop :=
  ∀ (s : State) (k f : Nat) (d a b : BitVec 4) (n imm o18 : BitVec 18) (o : BitVec 14) (m : BitVec 3),
    s.cur = .trace k → (s.trace k).verdict = .none → (s.trace k).request = none → s.waitOf (.trace k) = .none →
    let t := s.trace k
    (n.toNat < 4 → ∀ i ∈ [Instr.gorivoLdr d n, .gorivoLdi d imm, .gorivoLdh d imm, .gorivoAdd d a b, .gorivoSub d a b, .gorivoAnd d a b,
        .gorivoOr d a b, .gorivoXor d a b, .gorivoShli d a n, .gorivoShri d a n, .gorivoAndi d a imm, .gorivoCadd a n, .gorivoCset a n,
        .gorivoCrd d n, .gorivoBeq a b o, .gorivoBne a b o, .gorivoBltu a b o, .gorivoBgeu a b o, .gorivoBr o18],
      Happens s i fun u => (u.trace k).busy = t.busy ∧ (u.trace k).record = t.record ∧
        ∃ step ∈ [1, o.toNat, o18.toNat], (u.trace k).pc = t.pc + step) ∧
    (s.PlainRun (s.whoTrace k) ((t.ring.toNat + 32 * (t.wr.toNat % 2 ^ t.log2n.toNat)) % 2 ^ 48) 32 f →
      ∀ i ∈ [Instr.gorivoKeep, .gorivoDrop, .gorivoCount n, .gorivoTrigger m],
        Happens s i fun u => (u.trace k).busy = false ∧ (u.trace k).verdict = .none ∧
          ((u.trace k).wr = t.wr ∨ (u.trace k).wr = t.wr + 1))


/-! ### Front operations (spec 10) -/

/-- A key by its value (R228): signed, or an FP32 value by its sign and magnitude, with −0 and +0 equal. -/
def Claims.keyVal (kind : Nat) (x : BitVec 32) : Int :=
  if kind = 2 then (if x.msb then -((x.toNat % 2 ^ 31 : Nat) : Int) else ((x.toNat % 2 ^ 31 : Nat) : Int)) else x.toInt

/-- Is a key an FP32 NaN? -/
def Claims.keyNan (x : BitVec 32) : Prop := 0x7F800000 < x.toNat % 2 ^ 31

/-- R228: which tuples are invalid, when one dominates another, and when two are equal, by the values of the keys and the direction of
each; payloads take no part. -/
def Claims.FrontsCompare : Prop :=
  ∀ (f : Front) (t u : Tuple),
    let kind := f.config.toNat / 4 % 4
    let n := f.config.toNat % 4 + 1
    let v := fun (x : Tuple) (i : Nat) => Claims.keyVal kind (x.at_ i)
    let better := fun (i : Nat) (a b : Int) => if f.config.getLsbD (4 + i) then b < a else a < b
    (f.invalid t = true ↔ kind = 2 ∧ ∃ i < n, Claims.keyNan (t.at_ i)) ∧
    (kind < 3 → (kind = 2 → ∀ i < n, ¬ Claims.keyNan (t.at_ i) ∧ ¬ Claims.keyNan (u.at_ i)) →
      (f.dominates t u = true ↔ (∀ i < n, better i (v t i) (v u i) ∨ v t i = v u i) ∧ ∃ i < n, better i (v t i) (v u i)) ∧
      (f.equal t u = true ↔ ∀ i < n, v t i = v u i))

/-- R229 and R230: what the insertion of a tuple makes of a front: an invalid, dominated or equal tuple is discarded; else the tuples that
it dominates go and it is appended, or, where the front is full, its policy decides: reject, evict the worst on key WKEY, flag, or spill. -/
def Claims.FrontsInsert : Prop :=
  ∀ (f : Front) (t : Tuple), f.count = f.slots.length → f.slots.length ≤ f.config.toNat / 2 ^ 8 % 2 ^ 6 + 1 →
    let q := f.insert t
    let cap := f.config.toNat / 2 ^ 8 % 2 ^ 6 + 1
    let policy := f.config.toNat / 2 ^ 16 % 4
    let k := f.config.toNat / 2 ^ 18 % 4
    let thrown := fun (g : Front) (outcome : Nat) (ovf : Bool) =>
      q = ⟨{ g with discards := g.discards + 1 }, outcome, 0, 0, ovf, false⟩
    (f.invalid t = true → thrown f 6 false) ∧
    (∀ (i : Nat) (u : Tuple), f.invalid t = false → f.slots[i]? = some u →
      (∀ j < i, ∀ v : Tuple, f.slots[j]? = some v → f.dominates v t = false ∧ f.equal v t = false) →
      (f.dominates u t = true → thrown f 1 false) ∧ (f.dominates u t = false → f.equal u t = true → thrown f 2 false)) ∧
    (f.invalid t = false → (∀ u ∈ f.slots, f.dominates u t = false ∧ f.equal u t = false) →
      let keep := f.slots.filter (fun u => !f.dominates t u)
      let ev := f.slots.length - keep.length
      let full := { f with ovfn := min (f.ovfn + 1) (2 ^ 32 - 1) }
      (keep.length < cap → q = ⟨{ f with
        slots := keep ++ [t], count := keep.length + 1, inserts := f.inserts + 1, evicts := f.evicts + BitVec.ofNat 64 ev },
        0, keep.length, ev, false, false⟩) ∧
      (keep.length = cap →
        (policy = 0 → thrown full 3 true) ∧ (policy = 2 → thrown { full with ovf := true } 3 true) ∧
        (policy = 3 → q = ⟨full, 4, 0, 0, true, true⟩) ∧
        (policy = 1 → f.config.toNat / 4 % 4 < 3 → (f.config.toNat / 4 % 4 = 2 → ∀ u ∈ t :: f.slots, ¬ Claims.keyNan (u.at_ k)) →
          let v := fun (u : Tuple) => Claims.keyVal (f.config.toNat / 4 % 4) (u.at_ k)
          let worst := fun (u : Tuple) => ∀ y ∈ t :: f.slots, if f.config.getLsbD (4 + k) then v u ≤ v y else v y ≤ v u
          (worst t → thrown full 3 true) ∧
          (¬ worst t → ∃ (i : Nat) (u : Tuple), f.slots[i]? = some u ∧ worst u ∧ (∀ (j : Nat) (y : Tuple), i < j → f.slots[j]? = some y → ¬ worst y) ∧
            q = ⟨{ full with slots := f.slots.eraseIdx i ++ [t], inserts := f.inserts + 1, evicts := f.evicts + 1 },
              0, cap - 1, 1, true, false⟩))))

/-- A tuple as a front keeps it (R227): under KIND 0 a key is its low 16 bits, sign-extended, and keys above KEYSM1 are zero. -/
def Claims.kept (f : Front) (keys : List (BitVec 32)) (payload : BitVec 32) : Tuple :=
  ⟨(List.range 4).map (fun i =>
    let y := (keys[i]?).getD 0
    if f.config.toNat % 4 < i then 0 else if f.config.toNat / 4 % 4 = 0 then (y.setWidth 16).signExtend 32 else y), payload⟩

/-- The header of a front stands at a flat address (Tables 10-9 and 10-11). -/
def Claims.HeaderAt (s : State) (a : Nat) (f : Front) : Prop :=
  let w := fun (i : Nat) => leNat (s.mem.bytes (a + 8 * i) 8)
  f.config.toNat = w 0 ∧ f.ring.toNat = w 1 % 2 ^ 48 ∧ f.ovfn = w 2 / 2 ^ 32 ∧ f.lostf = (w 2).testBit 9 ∧ f.ovf = (w 2).testBit 8 ∧
  f.count = w 2 % 2 ^ 7 ∧ f.inserts.toNat = w 3 ∧ f.evicts.toNat = w 4 ∧ f.discards.toNat = w 5

/-- A tuple record stands at a flat address (Table 10-12). -/
def Claims.RecordAt (s : State) (a : Nat) (u : Tuple) : Prop :=
  (∀ j < 4, leNat (s.mem.bytes (a + 4 * j) 4) = (u.at_ j).toNat) ∧ leNat (s.mem.bytes (a + 16) 4) = u.payload.toNat ∧
  leNat (s.mem.bytes (a + 20) 12) = 0

/-- A front stands at a flat address with its tuples (R226, R227). -/
def Claims.FrontAt (s : State) (a : Nat) (f : Front) : Prop :=
  Claims.HeaderAt s a f ∧ f.slots.length = f.count ∧ ∀ i u, f.slots[i]? = some u →
    let word := fun (j : Nat) => BitVec.ofNat 32 (leNat (s.mem.bytes (a + 64 + 32 * i + 4 * j) 4))
    u = Claims.kept f ((List.range 4).map word) (word 4)

/-- A front is not VALID or malformed (R236). -/
def Claims.BadFront (f : Front) : Prop :=
  let c := f.config.toNat
  c / 2 ^ 31 % 2 = 0 ∨ c / 2 ^ 32 ≠ 0 ∨ c / 2 ^ 20 % 2 ^ 11 ≠ 0 ∨ c / 2 ^ 14 % 4 ≠ 0 ∨ c / 4 % 4 = 3 ∨
  c / 2 ^ 8 % 2 ^ 6 + 1 < f.count ∨ c / 16 % 16 / 2 ^ (c % 4 + 1) ≠ 0

/-- No resident front but the one at `obj` has a line among `n` bytes from `a` on. -/
def Claims.Apart (s : State) (obj a n : Nat) : Prop :=
  ∀ p ∈ s.atomics, ∀ r ∈ p.2.fronts, r.obj ≠ obj → ∀ j < n, (a + j) / 64 ∉ r.lines

/-- The result word of a front instruction (Table 10-15). -/
def Claims.resultWord (outcome : Nat) (ovf : Bool) (slot evicted count nins ndisc : Nat) : Word :=
  BitVec.ofNat 64 (outcome + (if ovf then 2 ^ 4 else 0) + slot * 2 ^ 8 + evicted * 2 ^ 16 + count * 2 ^ 24 + nins * 2 ^ 32 +
    ndisc * 2 ^ 40)

/-- R227 and R231 to R242, ATOMIC_ENGINE_OP on a front operation whose object of `n` bytes stands in SRAM: what each of `fcfg`, `fins`,
`fmerge`, `frd`, `fclr` and `fstat` answers (Tables 10-15 and 10-16), what it leaves of the front and of the spill ring, and that it
changes no other byte. `fmerge` is said for a destination that does not spill. -/
def Claims.FrontOperations : Prop :=
  ∀ (s : State) (k x : Nat) (f : Flight) (op : FrontOp) (a0 a1 a2 : Word) (nohot : Bool) (obj : Nat) (d : Front),
    s.engineReady k = [(x, f)] → AL.find s.flights x = some f → f.op = .front op a0 a1 a2 nohot → (∀ q, f.issuer ≠ .line q) →
    s.waitOf (.flight x) = .none → s.runOf (.flight x) = none → f.target = .sram obj → obj % 64 = 0 → f.va.toNat % 64 = 0 →
    Claims.HeaderAt s obj d →
    let w := s.whoFlight x f
    let size := 64 + 32 * (d.config.toNat / 2 ^ 8 % 2 ^ 6 + 1)
    let plain := fun (va n a : Nat) => s.OpenRun w va n a ∧ Claims.Apart s obj a n
    let ends := fun (ws : List Word) (p : State → Prop) => Happens s (.atomicEngineOp k) fun t =>
      t.flights = AL.put s.flights x { f with stage := .answered (.words ws) } ∧ (t.atomicEngine k).fronts.length ≤ max 32 ((s.atomicEngine k).fronts.length) ∧
      p t ∧
      { t with mem := s.mem, poison := s.poison, flights := s.flights, atomics := s.atomics, waits := s.waits,
               errLogs := s.errLogs, upsets := s.upsets } = s
    let result := Claims.resultWord
    let only := fun (t : State) (a n : Nat) => ∀ j, j < a ∨ a + n ≤ j → t.mem.get j = s.mem.get j
    let apart := fun (a m b n : Nat) => a + m ≤ b ∨ b + n ≤ a
    plain f.va.toNat 64 obj →
    (op = .stat → ends [BitVec.ofNat 64 (leNat (s.mem.bytes (obj + 16) 8)), d.config] fun t => t.mem = s.mem) ∧
    (op = .clr →
      (d.config.getLsbD 31 = false → ends [7] fun t => t.mem = s.mem) ∧
      (d.config.getLsbD 31 = true → ends [result 0 false 0 0 d.count 0 0] fun t => only t obj 64 ∧
        Claims.HeaderAt t obj ⟨d.config, d.ring, 0, false, false, 0, 0, 0, 0, []⟩)) ∧
    (op = .cfg →
      let c := a0.toNat
      let ring := a1.toNat % 2 ^ 48
      let policy := c / 2 ^ 16 % 4
      let bad := c / 2 ^ 32 ≠ 0 ∨ c / 2 ^ 20 % 2 ^ 11 ≠ 0 ∨ c / 2 ^ 14 % 4 ≠ 0 ∨ c / 4 % 4 = 3 ∨ c / 16 % 16 / 2 ^ (c % 4 + 1) ≠ 0 ∨
        (policy = 1 ∧ c % 4 < c / 2 ^ 18 % 4) ∨ (policy = 3 ∧ (ring = 0 ∨ ring % 32 ≠ 0))
      (bad → ends [8] fun t => t.mem = s.mem) ∧
      (¬ bad → ends [0] fun t => only t obj 64 ∧
        Claims.HeaderAt t obj
          ⟨a0 ||| 0x80000000#64, if policy = 3 then BitVec.ofNat 64 ring else 0, 0, false, false, 0, 0, 0, 0, []⟩)) ∧
    (op = .ins ∨ op = .rd → Claims.BadFront d → ends [7] fun t => t.mem = s.mem) ∧
    (plain f.va.toNat size obj → ¬ Claims.BadFront d → Claims.FrontAt s obj d →
      (∀ ta, op = .rd → a0.toNat % 32 = 0 → ta % 32 = 0 → plain (a0.toNat % 2 ^ 48) (32 * d.count) ta →
        ends [result 0 false 0 0 d.count 0 0] fun t => only t ta (32 * d.count) ∧
          ∀ i u, d.slots[i]? = some u → Claims.RecordAt t (ta + 32 * i) u) ∧
      (op = .ins →
        let u := Claims.kept d [a0.extractLsb' 0 32, a0.extractLsb' 32 32, a1.extractLsb' 0 32, a1.extractLsb' 32 32]
          (a2.extractLsb' 0 32)
        let q := d.insert u
        (q.spill = false → ends [result q.outcome q.ovf q.slot q.evicted q.front.count 0 0] fun t => only t obj size ∧
          Claims.FrontAt t obj q.front) ∧
        (∀ rh, q.spill = true → d.ring.toNat % 32 = 0 → rh % 32 = 0 → plain d.ring.toNat 32 rh → apart rh 32 obj size →
          let hd := fun (i : Nat) => leNat (s.mem.bytes (rh + 8 * i) 8)
          let log2n := hd 0 / 2 ^ 56
          let used := (hd 1 + 2 ^ 64 - hd 2) % 2 ^ 64
          let lost := { q.front with lostf := true, discards := q.front.discards + 1 }
          (24 < log2n → ends [result 5 true 0 0 d.count 0 0] fun t => only t obj size ∧ Claims.FrontAt t obj lost) ∧
          (log2n ≤ 24 → 2 ^ log2n ≤ used → ends [result 5 true 0 0 d.count 0 0] fun t => Claims.FrontAt t obj lost ∧
            leNat (t.mem.bytes (rh + 24) 8) = (hd 3 + 1) % 2 ^ 64 ∧
            ∀ j, j < obj ∨ obj + size ≤ j → j < rh + 24 ∨ rh + 32 ≤ j → t.mem.get j = s.mem.get j) ∧
          (∀ re, log2n ≤ 24 → used < 2 ^ log2n →
            let va := (hd 0 % 2 ^ 48 + 32 * (hd 1 % 2 ^ log2n)) % 2 ^ 48
            va % 32 = 0 → re % 32 = 0 → plain va 32 re → apart re 32 obj size → apart re 32 rh 32 →
            ends [result 4 true 0 0 d.count 0 0] fun t => Claims.FrontAt t obj q.front ∧ Claims.RecordAt t re u ∧
              leNat (t.mem.bytes (rh + 8) 8) = (hd 1 + 1) % 2 ^ 64 ∧
              ∀ j, j < obj ∨ obj + size ≤ j → j < rh + 8 ∨ rh + 16 ≤ j → j < re ∨ re + 32 ≤ j → t.mem.get j = s.mem.get j))) ∧
      (∀ (e : Front) (sa : Nat), op = .merge → ¬ Claims.BadFront e → Claims.FrontAt s sa e →
        s.OpenRun w (a0.toNat % 2 ^ 48) (64 + 32 * (e.config.toNat / 2 ^ 8 % 2 ^ 6 + 1)) sa →
        let same := d.config.toNat % 16 = e.config.toNat % 16 ∧ d.config.toNat / 16 % 16 = e.config.toNat / 16 % 16
        let m := e.slots.foldl (fun (g : Front × Nat × Nat × Nat × Bool) u =>
          let q := g.1.insert (Claims.kept d u.keys u.payload)
          (q.front, g.2.1 + (if q.outcome = 0 then 1 else 0), g.2.2.1 + (if q.outcome = 0 then 0 else 1),
            g.2.2.2.1 + q.evicted, g.2.2.2.2 || q.ovf)) (d, 0, 0, 0, false)
        (¬ same → ends [8] fun t => t.mem = s.mem) ∧
        (same → d.config.toNat / 2 ^ 16 % 4 ≠ 3 →
          ends [result 0 m.2.2.2.2 0 m.2.2.2.1 m.1.count m.2.1 m.2.2.1] fun t => only t obj size ∧ Claims.FrontAt t obj m.1))) ∧
    (∀ (e : Front) (sa : Nat), op = .merge → Claims.HeaderAt s sa e → Claims.BadFront d ∨ Claims.BadFront e →
      plain f.va.toNat size obj → s.OpenRun w (a0.toNat % 2 ^ 48) (64 + 32 * (e.config.toNat / 2 ^ 8 % 2 ^ 6 + 1)) sa →
      ends [7] fun t => t.mem = s.mem)


/-! ### Where launches are placed (spec 17) -/

/-- R336 and R337: the cell of each element of a LAUNCH. PLACE 0 gives the owner of DATA + 256e, which lies in an SRAM segment; PLACE 1 the
cell e mod (h × w) of the rectangle, row by row; PLACE 2 the cell of the field with the most free frame slots by the distributor's
counts, the lowest on a tie, of those that may be given work (R411, R418). The home is the cell of element 0, also where COUNT is 0, and then
with PLACE 2 the field's first cell. A target or a home outside the field fails the launch with PLACEMENT. -/
def Claims.ElementsArePlaced : Prop :=
  ∀ (s : State) (f : Field) (ws : List Word) (e c count : Nat),
    let place := (pw ws 6).toNat / 2 ^ 27 % 4
    let data := (pw ws 5).toNat % 2 ^ 48
    let d := (pw ws 5).toNat
    let may := fun (b : Nat) => b ∈ f.ctx.cells ∧ ¬((s.cell b).paired = true ∧ (s.cell b).leader = false)
    let free := fun (b : Nat) => may b ∧ (s.cell b).service = true ∧ (s.cell b).scan = .none
    let owned := fun (va b : Nat) => ∃ (i : Nat) (g : Seg) (a : Nat), segAt f.segs va = some i ∧ f.segs[i]? = some g ∧
      g.target va = .sram a ∧
      ((a < sliceBase ∧ b * nearSize ≤ a ∧ a < (b + 1) * nearSize) ∨
        (sliceBase ≤ a ∧ a < farBase ∧ sliceBase + b * sliceSize ≤ a ∧ a < sliceBase + (b + 1) * sliceSize))
    (place = 0 → (s.elementCell f ws e = some c ↔ owned (data + 256 * e) c)) ∧
    (place = 1 → let h := d / 32 % 32 + 1
      let w := d % 32 + 1
      let k := e % (h * w)
      s.elementCell f ws e = some (1024 * (d / 2 ^ 20 % 4) + 32 * (d / 2 ^ 15 % 32 + k / w) + (d / 2 ^ 10 % 32 + k % w))) ∧
    (place = 2 → (s.elementCell f ws e = some c ↔ free c ∧ ∀ b, free b →
      (s.cell b).placeFree ≤ (s.cell c).placeFree ∧ ((s.cell b).placeFree = (s.cell c).placeFree → c ≤ b))) ∧
    (∀ h, s.launchHome f ws count = some h →
      (place = 2 ∧ count = 0 → f.ctx.cells.head? = some h) ∧ (place < 2 ∨ 0 < count → s.elementCell f ws 0 = some h) ∧
      (place = 0 → segAt f.segs data = segAt f.segs (data + 256 * (count - 1)) ∧
        ∀ n < min count 1024, ∃ b, s.elementCell f ws n = some b ∧ may b) ∧
      (place = 1 → ∀ n < count, ∃ b, s.elementCell f ws n = some b ∧ may b)) ∧
    (∀ (p q : Nat) (x : QueueEntry), (s.cp p).work = some q → s.queue q = x → x.packet = some ws →
      (pw ws 0).toNat % 256 = 1 → s.launchAt p = none → count = (pw ws 6).toNat % 2 ^ 25 → count ≤ 2 ^ 24 →
      AL.find s.fields x.field = some f → place < 2 → s.launchHome f ws count = none → sigAddr ws = 0 → cpOf q = p →
      Happens s (.launch p) fun t => (t.queue q).errcode = 0x06 ∧ (t.queue q).errpkt = x.headAddr ∧
        (t.queue q).head = x.head + 1 ∧ (t.cp p).work = none ∧ t.launches = s.launches ∧ t.mem = s.mem)

/-! ### The statements that join several claims -/

/-- Words written out from the tables decode to their instructions. -/
def Obligations.WordsDecode : Prop :=
  Claims.WordsDecode

/-- What decodes is well-formed and belongs to its unit; a group is fetched as it stands in code memory. -/
def Obligations.GroupsDecode : Prop :=
  Claims.DecodedIsWellFormed ∧ Claims.GroupsAreFetched

/-- What reset leaves, and that the memory is then in its canonical form. -/
def Obligations.ResetLeaves : Prop :=
  Claims.ResetLeaves

/-- The deficit counters choose the tenant and the frame that issues; time passes. -/
def Obligations.IssueIsFair : Prop :=
  Claims.IssueIsFair ∧ Claims.TimePasses

/-- The unary instructions, bextu and lea; what the bit counts count. -/
def Obligations.UnaryResults : Prop :=
  Claims.UnaryResults ∧ Claims.BitCountsAreRight

/-- The immediate group and the bit fields. -/
def Obligations.ImmediateResults : Prop :=
  Claims.ImmediateResults ∧ Claims.BitInsert

/-- Branches, links and indirect jumps; where rdtime, tmark, done and ifence complete. -/
def Obligations.BranchesAndJumps : Prop :=
  Claims.Branches ∧ Claims.Jumps ∧ Claims.SystemInstructionsComplete

/-- rdtime, tmark, done and ifence, and where they complete. -/
def Obligations.SystemInstructions : Prop :=
  Claims.ReadTime ∧ Claims.TraceMark ∧ Claims.DoneEndsIssue ∧ Claims.InstructionFence ∧ Claims.SystemInstructionsComplete

/-- trap and brk, FRAME_BOUND and LOOKAHEAD. -/
def Obligations.IssueTraps : Prop :=
  Claims.SoftwareTraps ∧ Claims.FrameBound ∧ Claims.LookaheadRules

/-- Reading and writing the control registers. -/
def Obligations.ControlRegisters : Prop :=
  Claims.ControlRegisterReads ∧ Claims.ControlRegisterWrites

/-- What loads and prefetches do at their issue. -/
def Obligations.LoadsIssue : Prop :=
  Claims.LoadsIssue ∧ Claims.AcquireAndPairLoads ∧ Claims.PrefetchOnlyTranslates

/-- What stores do at their issue, and where an address traps. -/
def Obligations.StoresIssue : Prop :=
  Claims.StoresEnterTheBuffer ∧ Claims.BadAddressesTrap

/-- What atomics and front instructions do at their issue. -/
def Obligations.AtomicsAndFrontsIssue : Prop :=
  Claims.AtomicsIssue ∧ Claims.FrontsIssue

/-- Sending, performing and forwarding of plain accesses. -/
def Obligations.AccessesArePerformed : Prop :=
  Claims.StoreBufferSends ∧ Claims.AccessesArePerformed ∧ Claims.LoadsForward

/-- Acknowledged and refused stores. -/
def Obligations.StoresAreAcknowledged : Prop :=
  Claims.StoresAreAcknowledged ∧ Claims.LateRefusalsAreKept

/-- The atomic engines: atomics, fronts and what they hold. -/
def Obligations.AtomicsArePerformed : Prop :=
  Claims.AtomicsArePerformed ∧ Claims.AtomicResults ∧ Claims.EnginesRelease ∧ Claims.FrontsCompare ∧ Claims.FrontsInsert ∧
  Claims.FrontOperations

/-- Translation, page faults and the completion of loads. -/
def Obligations.LoadsComplete : Prop :=
  Claims.PagesAreTranslated ∧ Claims.LoadsComplete

/-- Messages arrive, and idle cells steal. -/
def Obligations.MessagesArrive : Prop :=
  Claims.MessagesArrive ∧ Claims.SlotsAreShared ∧ Claims.CellsSteal

/-- Dispatch, its refusals, and retirement. -/
def Obligations.DispatchLoadsAFrame : Prop :=
  Claims.DispatchLoadsAFrame ∧ Claims.DispatchRefuses ∧ Claims.ActivationsRetire

/-- Traps of frames and engines are recorded, with the layout of the record. -/
def Obligations.TrapsAreRecorded : Prop :=
  Claims.TrapsAreRecorded ∧ Claims.DeferredTrapsAreRecorded ∧ Claims.EngineTrapsAreRecorded ∧ Claims.TrapRecordLayout

/-- Bells, bell arrivals and route tags. -/
def Obligations.BellsRing : Prop :=
  Claims.BellsRing ∧ Claims.BellArrivals ∧ Claims.RouteTags

/-- The sends. -/
def Obligations.SendsQueueMessages : Prop :=
  Claims.SendTargets ∧ Claims.SendsQueueMessages

/-- The scope instructions. -/
def Obligations.ScopeInstructions : Prop :=
  Claims.ScopeRequests ∧ Claims.ScopesOpen

/-- Minting, weight returns and the emptying of scopes. -/
def Obligations.WeightMoves : Prop :=
  Claims.WeightMoves ∧ Claims.ScopesEmpty

/-- Links, cancellation, notices and clears of scopes. -/
def Obligations.ScopesAreCancelled : Prop :=
  Claims.ScopesLink ∧ Claims.ScopesAreCancelled ∧ Claims.NoticesAndClears

/-- fork, rdv and qfence. -/
def Obligations.ForksMakePrograms : Prop :=
  Claims.ForksMakePrograms ∧ Claims.RdvJoins ∧ Claims.QueueFences

/-- The life of engine programs, joins and markers. -/
def Obligations.ProgramsRun : Prop :=
  Claims.ProgramsRun ∧ Claims.EngineProgramsEnd ∧ Claims.JoinsAndMarkersRelease

/-- The chunks of a copy. -/
def Obligations.CopiesRun : Prop :=
  Claims.ChunksStart ∧ Claims.ChunksArePerformed ∧ Claims.ChunksAreRefused

/-- The end of copies, sync words and wakes. -/
def Obligations.CopiesEnd : Prop :=
  Claims.CopiesEnd ∧ Claims.SyncWordsCount ∧ Claims.WakesAreSent

/-- The vector instructions by units and elements, and where each of the 54 completes. -/
def Obligations.VectorInstructions : Prop :=
  Claims.VectorUnits ∧ Claims.VectorElements ∧ Claims.ElementResults ∧ Claims.RowResults ∧ Claims.VectorInstructionsComplete

/-- Accumulators and scale memory. -/
def Obligations.AccumulatorsAdd : Prop :=
  Claims.AccumulatorsAdd ∧ Claims.ScalesMove

/-- Tile rows and tile operations, and where each matrix instruction completes. -/
def Obligations.TileOperations : Prop :=
  Claims.TileRowsMove ∧ Claims.TileRowsAreStored ∧ Claims.PlanesHoldIntegers ∧ Claims.TileOperations ∧
  Claims.MatrixInstructionsComplete

/-- Passes of tile products, scoreboards and gangs. -/
def Obligations.PassesMultiply : Prop :=
  Claims.PassesMultiply ∧ Claims.PassesAdd ∧ Claims.FragmentsAndGangs

/-- Gorivo and the trace cores, and where each Gorivo instruction completes. -/
def Obligations.TraceCoresWork : Prop :=
  Claims.GorivoComputes ∧ Claims.GorivoVerdicts ∧ Claims.TraceCoresWork ∧ Claims.GorivoInstructionsComplete

/-- Frames and packets of the fabric ports, and the alignment of time. -/
def Obligations.FabricPackets : Prop :=
  Claims.PacketsAreForwarded ∧ Claims.ReplicasLeave ∧ Claims.FramesAreAcknowledged ∧ Claims.FramesArrive ∧
  Claims.PacketsAreAccepted ∧ Claims.TimeIsAligned

/-- Packets served on this device. -/
def Obligations.PacketsAreServed : Prop :=
  Claims.PacketsAreServed ∧ Claims.RemoteAccessesAreServed ∧ Claims.MulticastReplicates

/-- Doorbells, the choice of a queue, its packets, ageing and toll timers. -/
def Obligations.QueuesAreServed : Prop :=
  Claims.DoorbellsRing ∧ Claims.QueuesAreChosen ∧ Claims.PacketsAreConsumed ∧ Claims.QueuesAgeAndExpire

/-- Launches from their packet to their completion. -/
def Obligations.LaunchesRun : Prop :=
  Claims.LaunchesOpen ∧ Claims.ElementsArePlaced ∧ Claims.LaunchesSend ∧ Claims.LaunchesComplete

/-- Field contexts, segment tables and images. -/
def Obligations.ContextsAreLoaded : Prop :=
  Claims.ContextsAreLoaded ∧ Claims.SegmentTablesAreChecked ∧ Claims.ImagesAreLoaded

/-- Stopping, switching, saving and recovering a field. -/
def Obligations.FieldsStopAndSwitch : Prop :=
  Claims.FieldsStopAndSwitch ∧ Claims.FieldsAreSaved ∧ Claims.FieldsRecover

/-- The management writes and reads. -/
def Obligations.ManagementReadsAndWrites : Prop :=
  Claims.TablesAreWritten ∧ Claims.TablesAreRead ∧ Claims.LogsAreRead

/-- The transfer instructions and the life of a transfer. -/
def Obligations.TransfersRun : Prop :=
  Claims.TransfersIssue ∧ Claims.DeliveryContextsAreRead ∧ Claims.TransfersRun ∧ Claims.TransfersAreAcknowledged ∧
  Claims.ReadDataIsPlaced ∧ Claims.TransfersComplete ∧ Claims.TransfersFail

/-- Fingerprints and chimes of checked pairs. -/
def Obligations.PairsAreChecked : Prop :=
  Claims.FingerprintsAreSent ∧ Claims.ChimesAreDecided

/-- Bins, scan tests, repair, die records and scrubbing. -/
def Obligations.CellsAreTested : Prop :=
  Claims.BinsMove ∧ Claims.DieRecordsAreCommitted ∧ Claims.CellsAreTested ∧ Claims.ColumnsAreRepaired ∧ Claims.ScrubbersGoOn ∧
  Claims.ErrorsAreMet

/-- Firmware, attestation, far memory, power and reset. -/
def Obligations.FirmwareAndPower : Prop :=
  Claims.UpdatesAreStaged ∧ Claims.ImagesAreActivated ∧ Claims.PluginsStop ∧ Claims.ModulesBoot ∧ Claims.TheResponderAnswers ∧
  Claims.FarMemoryIsBroughtUp ∧ Claims.PowerIsLimited ∧ Claims.ResetKeepsTheFlash
end

