-- ==== Sys2Proof/Laws/Exec.lean ====
section
/-! SUPPORT. The dispatcher runs the meaning of its arm: one lemma for each constructor. -/

namespace Sys2Proof.Machine

@[simp] theorem exec_add (r : Rel) (d a b : RegNum) (s : State) : exec (.add r d a b) s = execAdd r d a b s := rfl
@[simp] theorem exec_sub (r : Rel) (d a b : RegNum) (s : State) : exec (.sub r d a b) s = execSub r d a b s := rfl
@[simp] theorem exec_and (r : Rel) (d a b : RegNum) (s : State) : exec (.and r d a b) s = execAnd r d a b s := rfl
@[simp] theorem exec_or (r : Rel) (d a b : RegNum) (s : State) : exec (.or r d a b) s = execOr r d a b s := rfl
@[simp] theorem exec_xor (r : Rel) (d a b : RegNum) (s : State) : exec (.xor r d a b) s = execXor r d a b s := rfl
@[simp] theorem exec_mul (r : Rel) (d a b : RegNum) (s : State) : exec (.mul r d a b) s = execMul r d a b s := rfl
@[simp] theorem exec_shl (r : Rel) (d a : RegNum) (s : State) : exec (.shl r d a) s = execShl r d a s := rfl
@[simp] theorem exec_shr (r : Rel) (d a : RegNum) (s : State) : exec (.shr r d a) s = execShr r d a s := rfl
@[simp] theorem exec_sar (r : Rel) (d a : RegNum) (s : State) : exec (.sar r d a) s = execSar r d a s := rfl
@[simp] theorem exec_rol (r : Rel) (d a : RegNum) (s : State) : exec (.rol r d a) s = execRol r d a s := rfl
@[simp] theorem exec_ror (r : Rel) (d a : RegNum) (s : State) : exec (.ror r d a) s = execRor r d a s := rfl
@[simp] theorem exec_andn (r : Rel) (d a : RegNum) (s : State) : exec (.andn r d a) s = execAndn r d a s := rfl
@[simp] theorem exec_min (r : Rel) (d a : RegNum) (s : State) : exec (.min r d a) s = execMin r d a s := rfl
@[simp] theorem exec_max (r : Rel) (d a : RegNum) (s : State) : exec (.max r d a) s = execMax r d a s := rfl
@[simp] theorem exec_minu (r : Rel) (d a : RegNum) (s : State) : exec (.minu r d a) s = execMinu r d a s := rfl
@[simp] theorem exec_maxu (r : Rel) (d a : RegNum) (s : State) : exec (.maxu r d a) s = execMaxu r d a s := rfl
@[simp] theorem exec_mulh (r : Rel) (d a : RegNum) (s : State) : exec (.mulh r d a) s = execMulh r d a s := rfl
@[simp] theorem exec_mulhu (r : Rel) (d a : RegNum) (s : State) : exec (.mulhu r d a) s = execMulhu r d a s := rfl
@[simp] theorem exec_seq (r : Rel) (d a : RegNum) (s : State) : exec (.seq r d a) s = execSeq r d a s := rfl
@[simp] theorem exec_sne (r : Rel) (d a : RegNum) (s : State) : exec (.sne r d a) s = execSne r d a s := rfl
@[simp] theorem exec_slt (r : Rel) (d a : RegNum) (s : State) : exec (.slt r d a) s = execSlt r d a s := rfl
@[simp] theorem exec_sltu (r : Rel) (d a : RegNum) (s : State) : exec (.sltu r d a) s = execSltu r d a s := rfl
@[simp] theorem exec_mov (r : Rel) (d a : RegNum) (s : State) : exec (.mov r d a) s = execMov r d a s := rfl
@[simp] theorem exec_neg (r : Rel) (d a : RegNum) (s : State) : exec (.neg r d a) s = execNeg r d a s := rfl
@[simp] theorem exec_not (r : Rel) (d a : RegNum) (s : State) : exec (.not r d a) s = execNot r d a s := rfl
@[simp] theorem exec_clz (r : Rel) (d a : RegNum) (s : State) : exec (.clz r d a) s = execClz r d a s := rfl
@[simp] theorem exec_ctz (r : Rel) (d a : RegNum) (s : State) : exec (.ctz r d a) s = execCtz r d a s := rfl
@[simp] theorem exec_popc (r : Rel) (d a : RegNum) (s : State) : exec (.popc r d a) s = execPopc r d a s := rfl
@[simp] theorem exec_bswap (r : Rel) (d a : RegNum) (s : State) : exec (.bswap r d a) s = execBswap r d a s := rfl
@[simp] theorem exec_jr (r : Rel) (a : RegNum) (s : State) : exec (.jr r a) s = execJr r a s := rfl
@[simp] theorem exec_jalr (r : Rel) (d a : RegNum) (s : State) : exec (.jalr r d a) s = execJalr r d a s := rfl
@[simp] theorem exec_ret (s : State) : exec (.ret) s = execRet s := rfl
@[simp] theorem exec_done (s : State) : exec (.done) s = execDone s := rfl
@[simp] theorem exec_trap (code : BitVec 8) (s : State) : exec (.trap code) s = execTrap code s := rfl
@[simp] theorem exec_brk (code : BitVec 8) (s : State) : exec (.brk code) s = execBrk code s := rfl
@[simp] theorem exec_nop (s : State) : exec (.nop) s = execNop s := rfl
@[simp] theorem exec_ifence (s : State) : exec (.ifence) s = execIfence s := rfl
@[simp] theorem exec_rdtime (r : Rel) (d : RegNum) (s : State) : exec (.rdtime r d) s = execRdtime r d s := rfl
@[simp] theorem exec_li (r : Rel) (d : RegNum) (imm : BitVec 44) (s : State) : exec (.li r d imm) s = execLi r d imm s := rfl
@[simp] theorem exec_addi (r : Rel) (d : RegNum) (imm : BitVec 44) (s : State) : exec (.addi r d imm) s = execAddi r d imm s := rfl
@[simp] theorem exec_andi (r : Rel) (d : RegNum) (imm : BitVec 44) (s : State) : exec (.andi r d imm) s = execAndi r d imm s := rfl
@[simp] theorem exec_ori (r : Rel) (d : RegNum) (imm : BitVec 44) (s : State) : exec (.ori r d imm) s = execOri r d imm s := rfl
@[simp] theorem exec_xori (r : Rel) (d : RegNum) (imm : BitVec 44) (s : State) : exec (.xori r d imm) s = execXori r d imm s := rfl
@[simp] theorem exec_shli (r : Rel) (d : RegNum) (n : BitVec 6) (s : State) : exec (.shli r d n) s = execShli r d n s := rfl
@[simp] theorem exec_shri (r : Rel) (d : RegNum) (n : BitVec 6) (s : State) : exec (.shri r d n) s = execShri r d n s := rfl
@[simp] theorem exec_sari (r : Rel) (d : RegNum) (n : BitVec 6) (s : State) : exec (.sari r d n) s = execSari r d n s := rfl
@[simp] theorem exec_slti (r : Rel) (d : RegNum) (imm : BitVec 44) (s : State) : exec (.slti r d imm) s = execSlti r d imm s := rfl
@[simp] theorem exec_sltui (r : Rel) (d : RegNum) (imm : BitVec 44) (s : State) : exec (.sltui r d imm) s = execSltui r d imm s := rfl
@[simp] theorem exec_sext (r : Rel) (d : RegNum) (n : BitVec 6) (s : State) : exec (.sext r d n) s = execSext r d n s := rfl
@[simp] theorem exec_zext (r : Rel) (d : RegNum) (n : BitVec 6) (s : State) : exec (.zext r d n) s = execZext r d n s := rfl
@[simp] theorem exec_bext (r : Rel) (d : RegNum) (p lm1 : BitVec 6) (s : State) : exec (.bext r d p lm1) s = execBext r d p lm1 s := rfl
@[simp] theorem exec_bins (r : Rel) (d : RegNum) (p lm1 : BitVec 6) (s : State) : exec (.bins r d p lm1) s = execBins r d p lm1 s := rfl
@[simp] theorem exec_ldW (r : Rel) (t : Attr) (d n : RegNum) (off : BitVec 40) (l : BitVec 4) (s : State) : exec (.ldW r t d n off l) s = execLdW r t d n off l s := rfl
@[simp] theorem exec_ldD (r : Rel) (t : Attr) (d n : RegNum) (off : BitVec 40) (l : BitVec 4) (s : State) : exec (.ldD r t d n off l) s = execLdD r t d n off l s := rfl
@[simp] theorem exec_st (r : Rel) (t : Attr) (w : Width) (v n : RegNum) (off : BitVec 40) (s : State) : exec (.st r t w v n off) s = execSt r t w v n off s := rfl
@[simp] theorem exec_beq (r : Rel) (a b : RegNum) (off : BitVec 10) (s : State) : exec (.beq r a b off) s = execBeq r a b off s := rfl
@[simp] theorem exec_bne (r : Rel) (a b : RegNum) (off : BitVec 10) (s : State) : exec (.bne r a b off) s = execBne r a b off s := rfl
@[simp] theorem exec_blt (r : Rel) (a b : RegNum) (off : BitVec 10) (s : State) : exec (.blt r a b off) s = execBlt r a b off s := rfl
@[simp] theorem exec_bge (r : Rel) (a b : RegNum) (off : BitVec 10) (s : State) : exec (.bge r a b off) s = execBge r a b off s := rfl
@[simp] theorem exec_bltu (r : Rel) (a b : RegNum) (off : BitVec 10) (s : State) : exec (.bltu r a b off) s = execBltu r a b off s := rfl
@[simp] theorem exec_bgeu (r : Rel) (a b : RegNum) (off : BitVec 10) (s : State) : exec (.bgeu r a b off) s = execBgeu r a b off s := rfl
@[simp] theorem exec_bz (r : Rel) (a : RegNum) (off : BitVec 46) (s : State) : exec (.bz r a off) s = execBz r a off s := rfl
@[simp] theorem exec_bnz (r : Rel) (a : RegNum) (off : BitVec 46) (s : State) : exec (.bnz r a off) s = execBnz r a off s := rfl
@[simp] theorem exec_bltz (r : Rel) (a : RegNum) (off : BitVec 46) (s : State) : exec (.bltz r a off) s = execBltz r a off s := rfl
@[simp] theorem exec_bgez (r : Rel) (a : RegNum) (off : BitVec 46) (s : State) : exec (.bgez r a off) s = execBgez r a off s := rfl
@[simp] theorem exec_br (off : BitVec 50) (s : State) : exec (.br off) s = execBr off s := rfl
@[simp] theorem exec_jal (off : BitVec 50) (s : State) : exec (.jal off) s = execJal off s := rfl
@[simp] theorem exec_lp (off : BitVec 50) (s : State) : exec (.lp off) s = execLp off s := rfl
@[simp] theorem exec_ldB (r : Rel) (t : Attr) (d n : RegNum) (off : BitVec 40) (l : BitVec 4) (s : State) : exec (.ldB r t d n off l) s = execLdB r t d n off l s := rfl
@[simp] theorem exec_ldBu (r : Rel) (t : Attr) (d n : RegNum) (off : BitVec 40) (l : BitVec 4) (s : State) : exec (.ldBu r t d n off l) s = execLdBu r t d n off l s := rfl
@[simp] theorem exec_ldH (r : Rel) (t : Attr) (d n : RegNum) (off : BitVec 40) (l : BitVec 4) (s : State) : exec (.ldH r t d n off l) s = execLdH r t d n off l s := rfl
@[simp] theorem exec_ldHu (r : Rel) (t : Attr) (d n : RegNum) (off : BitVec 40) (l : BitVec 4) (s : State) : exec (.ldHu r t d n off l) s = execLdHu r t d n off l s := rfl
@[simp] theorem exec_ldWPage1 (r : Rel) (t : Attr) (d n : RegNum) (off : BitVec 40) (l : BitVec 4) (s : State) : exec (.ldWPage1 r t d n off l) s = execLdWPage1 r t d n off l s := rfl
@[simp] theorem exec_ldWu (r : Rel) (t : Attr) (d n : RegNum) (off : BitVec 40) (l : BitVec 4) (s : State) : exec (.ldWu r t d n off l) s = execLdWu r t d n off l s := rfl
@[simp] theorem exec_ldDPage1 (r : Rel) (t : Attr) (d n : RegNum) (off : BitVec 40) (l : BitVec 4) (s : State) : exec (.ldDPage1 r t d n off l) s = execLdDPage1 r t d n off l s := rfl
@[simp] theorem exec_stPage1 (r : Rel) (t : Attr) (w : Width) (v n : RegNum) (off : BitVec 40) (s : State) : exec (.stPage1 r t w v n off) s = execStPage1 r t w v n off s := rfl
@[simp] theorem exec_lda (r : Rel) (t : Attr) (d n : RegNum) (off : BitVec 40) (l : BitVec 4) (s : State) : exec (.lda r t d n off l) s = execLda r t d n off l s := rfl
@[simp] theorem exec_stl (r : Rel) (t : Attr) (w : Width) (v n : RegNum) (off : BitVec 40) (s : State) : exec (.stl r t w v n off) s = execStl r t w v n off s := rfl
@[simp] theorem exec_ldp (r : Rel) (t : Attr) (d n : RegNum) (off : BitVec 40) (l : BitVec 4) (s : State) : exec (.ldp r t d n off l) s = execLdp r t d n off l s := rfl
@[simp] theorem exec_stp (r : Rel) (t : Attr) (v n : RegNum) (off : BitVec 40) (s : State) : exec (.stp r t v n off) s = execStp r t v n off s := rfl
@[simp] theorem exec_pf (r : Rel) (t : Attr) (n : RegNum) (off : BitVec 40) (s : State) : exec (.pf r t n off) s = execPf r t n off s := rfl
@[simp] theorem exec_fence (m : FenceMask) (sc : SyncScope) (s : State) : exec (.fence m sc) s = execFence m sc s := rfl
@[simp] theorem exec_fenceAcq (m : FenceMask) (sc : SyncScope) (s : State) : exec (.fenceAcq m sc) s = execFenceAcq m sc s := rfl
@[simp] theorem exec_fenceRel (m : FenceMask) (sc : SyncScope) (s : State) : exec (.fenceRel m sc) s = execFenceRel m sc s := rfl
@[simp] theorem exec_aadd (r : Rel) (t : Attr) (f : AtomForm) (a b : RegNum) (l : BitVec 4) (s : State) : exec (.aadd r t f a b l) s = execAadd r t f a b l s := rfl
@[simp] theorem exec_aand (r : Rel) (t : Attr) (f : AtomForm) (a b : RegNum) (l : BitVec 4) (s : State) : exec (.aand r t f a b l) s = execAand r t f a b l s := rfl
@[simp] theorem exec_aor (r : Rel) (t : Attr) (f : AtomForm) (a b : RegNum) (l : BitVec 4) (s : State) : exec (.aor r t f a b l) s = execAor r t f a b l s := rfl
@[simp] theorem exec_axor (r : Rel) (t : Attr) (f : AtomForm) (a b : RegNum) (l : BitVec 4) (s : State) : exec (.axor r t f a b l) s = execAxor r t f a b l s := rfl
@[simp] theorem exec_amin (r : Rel) (t : Attr) (f : AtomForm) (a b : RegNum) (l : BitVec 4) (s : State) : exec (.amin r t f a b l) s = execAmin r t f a b l s := rfl
@[simp] theorem exec_amax (r : Rel) (t : Attr) (f : AtomForm) (a b : RegNum) (l : BitVec 4) (s : State) : exec (.amax r t f a b l) s = execAmax r t f a b l s := rfl
@[simp] theorem exec_aminu (r : Rel) (t : Attr) (f : AtomForm) (a b : RegNum) (l : BitVec 4) (s : State) : exec (.aminu r t f a b l) s = execAminu r t f a b l s := rfl
@[simp] theorem exec_amaxu (r : Rel) (t : Attr) (f : AtomForm) (a b : RegNum) (l : BitVec 4) (s : State) : exec (.amaxu r t f a b l) s = execAmaxu r t f a b l s := rfl
@[simp] theorem exec_aswap (r : Rel) (t : Attr) (f : AtomForm) (a b : RegNum) (l : BitVec 4) (s : State) : exec (.aswap r t f a b l) s = execAswap r t f a b l s := rfl
@[simp] theorem exec_acas (r : Rel) (t : Attr) (f : AtomForm) (a b : RegNum) (l : BitVec 4) (s : State) : exec (.acas r t f a b l) s = execAcas r t f a b l s := rfl
@[simp] theorem exec_ainc (r : Rel) (t : Attr) (f : AtomForm) (a b : RegNum) (l : BitVec 4) (s : State) : exec (.ainc r t f a b l) s = execAinc r t f a b l s := rfl
@[simp] theorem exec_adec (r : Rel) (t : Attr) (f : AtomForm) (a b : RegNum) (l : BitVec 4) (s : State) : exec (.adec r t f a b l) s = execAdec r t f a b l s := rfl
@[simp] theorem exec_afadd (r : Rel) (t : Attr) (f : AtomForm) (a b : RegNum) (l : BitVec 4) (s : State) : exec (.afadd r t f a b l) s = execAfadd r t f a b l s := rfl
@[simp] theorem exec_fcfg (r : Rel) (t : Attr) (a b : RegNum) (l : BitVec 4) (s : State) : exec (.fcfg r t a b l) s = execFcfg r t a b l s := rfl
@[simp] theorem exec_fins (r : Rel) (t : Attr) (a b : RegNum) (l : BitVec 4) (s : State) : exec (.fins r t a b l) s = execFins r t a b l s := rfl
@[simp] theorem exec_fmerge (r : Rel) (t : Attr) (a b : RegNum) (l : BitVec 4) (s : State) : exec (.fmerge r t a b l) s = execFmerge r t a b l s := rfl
@[simp] theorem exec_frd (r : Rel) (t : Attr) (a b : RegNum) (l : BitVec 4) (s : State) : exec (.frd r t a b l) s = execFrd r t a b l s := rfl
@[simp] theorem exec_fclr (r : Rel) (t : Attr) (a b : RegNum) (l : BitVec 4) (s : State) : exec (.fclr r t a b l) s = execFclr r t a b l s := rfl
@[simp] theorem exec_fstat (r : Rel) (t : Attr) (a b : RegNum) (l : BitVec 4) (s : State) : exec (.fstat r t a b l) s = execFstat r t a b l s := rfl
@[simp] theorem exec_snd (r : Rel) (t : Attr) (d a b : RegNum) (s : State) : exec (.snd r t d a b) s = execSnd r t d a b s := rfl
@[simp] theorem exec_sndm (r : Rel) (t : Attr) (d a b : RegNum) (s : State) : exec (.sndm r t d a b) s = execSndm r t d a b s := rfl
@[simp] theorem exec_sndg (r : Rel) (t : Attr) (d a b : RegNum) (s : State) : exec (.sndg r t d a b) s = execSndg r t d a b s := rfl
@[simp] theorem exec_snds (r : Rel) (t : Attr) (d a b : RegNum) (s : State) : exec (.snds r t d a b) s = execSnds r t d a b s := rfl
@[simp] theorem exec_tagen (r : Rel) (d a : RegNum) (s : State) : exec (.tagen r d a) s = execTagen r d a s := rfl
@[simp] theorem exec_tagdis (r : Rel) (d a : RegNum) (s : State) : exec (.tagdis r d a) s = execTagdis r d a s := rfl
@[simp] theorem exec_tagrd (r : Rel) (d a : RegNum) (s : State) : exec (.tagrd r d a) s = execTagrd r d a s := rfl
@[simp] theorem exec_bar (r : Rel) (d a : RegNum) (s : State) : exec (.bar r d a) s = execBar r d a s := rfl
@[simp] theorem exec_barw (r : Rel) (d a : RegNum) (s : State) : exec (.barw r d a) s = execBarw r d a s := rfl
@[simp] theorem exec_sopen (r : Rel) (d a : RegNum) (s : State) : exec (.sopen r d a) s = execSopen r d a s := rfl
@[simp] theorem exec_sclose (r : Rel) (d a : RegNum) (s : State) : exec (.sclose r d a) s = execSclose r d a s := rfl
@[simp] theorem exec_scancel (r : Rel) (d : RegNum) (s : State) : exec (.scancel r d) s = execScancel r d s := rfl
@[simp] theorem exec_sshield (r : Rel) (d : RegNum) (s : State) : exec (.sshield r d) s = execSshield r d s := rfl
@[simp] theorem exec_sclaim (r : Rel) (d : RegNum) (s : State) : exec (.sclaim r d) s = execSclaim r d s := rfl
@[simp] theorem exec_schk (r : Rel) (d : RegNum) (s : State) : exec (.schk r d) s = execSchk r d s := rfl
@[simp] theorem exec_fork (r : Rel) (d a : RegNum) (s : State) : exec (.fork r d a) s = execFork r d a s := rfl
@[simp] theorem exec_rdv (r : Rel) (d a : RegNum) (s : State) : exec (.rdv r d a) s = execRdv r d a s := rfl
@[simp] theorem exec_copy (r : Rel) (d a : RegNum) (s : State) : exec (.copy r d a) s = execCopy r d a s := rfl
@[simp] theorem exec_qfence (r : Rel) (d a : RegNum) (s : State) : exec (.qfence r d a) s = execQfence r d a s := rfl
@[simp] theorem exec_nsend (r : Rel) (d a : RegNum) (s : State) : exec (.nsend r d a) s = execNsend r d a s := rfl
@[simp] theorem exec_nwrite (r : Rel) (d a : RegNum) (s : State) : exec (.nwrite r d a) s = execNwrite r d a s := rfl
@[simp] theorem exec_nread (r : Rel) (d a : RegNum) (s : State) : exec (.nread r d a) s = execNread r d a s := rfl
@[simp] theorem exec_ncst (r : Rel) (d a : RegNum) (s : State) : exec (.ncst r d a) s = execNcst r d a s := rfl
@[simp] theorem exec_vadd (d a b : ERegNum) (s : State) : exec (.vadd d a b) s = execVadd d a b s := rfl
@[simp] theorem exec_vsub (d a b : ERegNum) (s : State) : exec (.vsub d a b) s = execVsub d a b s := rfl
@[simp] theorem exec_vmul (d a b : ERegNum) (s : State) : exec (.vmul d a b) s = execVmul d a b s := rfl
@[simp] theorem exec_vfma (d a b : ERegNum) (s : State) : exec (.vfma d a b) s = execVfma d a b s := rfl
@[simp] theorem exec_vfms (d a b : ERegNum) (s : State) : exec (.vfms d a b) s = execVfms d a b s := rfl
@[simp] theorem exec_vdiv (d a b : ERegNum) (s : State) : exec (.vdiv d a b) s = execVdiv d a b s := rfl
@[simp] theorem exec_vmin (d a b : ERegNum) (s : State) : exec (.vmin d a b) s = execVmin d a b s := rfl
@[simp] theorem exec_vmax (d a b : ERegNum) (s : State) : exec (.vmax d a b) s = execVmax d a b s := rfl
@[simp] theorem exec_vand (d a b : ERegNum) (s : State) : exec (.vand d a b) s = execVand d a b s := rfl
@[simp] theorem exec_vor (d a b : ERegNum) (s : State) : exec (.vor d a b) s = execVor d a b s := rfl
@[simp] theorem exec_vxor (d a b : ERegNum) (s : State) : exec (.vxor d a b) s = execVxor d a b s := rfl
@[simp] theorem exec_vshl (d a b : ERegNum) (s : State) : exec (.vshl d a b) s = execVshl d a b s := rfl
@[simp] theorem exec_vshr (d a b : ERegNum) (s : State) : exec (.vshr d a b) s = execVshr d a b s := rfl
@[simp] theorem exec_vabs (d a : ERegNum) (s : State) : exec (.vabs d a) s = execVabs d a s := rfl
@[simp] theorem exec_vneg (d a : ERegNum) (s : State) : exec (.vneg d a) s = execVneg d a s := rfl
@[simp] theorem exec_vcvt (d a : ERegNum) (s : State) : exec (.vcvt d a) s = execVcvt d a s := rfl
@[simp] theorem exec_vexp (d a : ERegNum) (s : State) : exec (.vexp d a) s = execVexp d a s := rfl
@[simp] theorem exec_vlog (d a : ERegNum) (s : State) : exec (.vlog d a) s = execVlog d a s := rfl
@[simp] theorem exec_vrcp (d a : ERegNum) (s : State) : exec (.vrcp d a) s = execVrcp d a s := rfl
@[simp] theorem exec_vrsq (d a : ERegNum) (s : State) : exec (.vrsq d a) s = execVrsq d a s := rfl
@[simp] theorem exec_vsqrt (d a : ERegNum) (s : State) : exec (.vsqrt d a) s = execVsqrt d a s := rfl
@[simp] theorem exec_vtanh (d a : ERegNum) (s : State) : exec (.vtanh d a) s = execVtanh d a s := rfl
@[simp] theorem exec_vsig (d a : ERegNum) (s : State) : exec (.vsig d a) s = execVsig d a s := rfl
@[simp] theorem exec_verf (d a : ERegNum) (s : State) : exec (.verf d a) s = execVerf d a s := rfl
@[simp] theorem exec_vsin (d a : ERegNum) (s : State) : exec (.vsin d a) s = execVsin d a s := rfl
@[simp] theorem exec_vcos (d a : ERegNum) (s : State) : exec (.vcos d a) s = execVcos d a s := rfl
@[simp] theorem exec_vfill (d a : ERegNum) (s : State) : exec (.vfill d a) s = execVfill d a s := rfl
@[simp] theorem exec_vcpy (d a : ERegNum) (s : State) : exec (.vcpy d a) s = execVcpy d a s := rfl
@[simp] theorem exec_eend (s : State) : exec (.eend) s = execEend s := rfl
@[simp] theorem exec_vcmpEq (d a : ERegNum) (s : State) : exec (.vcmpEq d a) s = execVcmpEq d a s := rfl
@[simp] theorem exec_vcmpNe (d a : ERegNum) (s : State) : exec (.vcmpNe d a) s = execVcmpNe d a s := rfl
@[simp] theorem exec_vcmpLt (d a : ERegNum) (s : State) : exec (.vcmpLt d a) s = execVcmpLt d a s := rfl
@[simp] theorem exec_vcmpLe (d a : ERegNum) (s : State) : exec (.vcmpLe d a) s = execVcmpLe d a s := rfl
@[simp] theorem exec_vcmpGt (d a : ERegNum) (s : State) : exec (.vcmpGt d a) s = execVcmpGt d a s := rfl
@[simp] theorem exec_vcmpGe (d a : ERegNum) (s : State) : exec (.vcmpGe d a) s = execVcmpGe d a s := rfl
@[simp] theorem exec_vcmpUn (d a : ERegNum) (s : State) : exec (.vcmpUn d a) s = execVcmpUn d a s := rfl
@[simp] theorem exec_vcmpOr (d a : ERegNum) (s : State) : exec (.vcmpOr d a) s = execVcmpOr d a s := rfl
@[simp] theorem exec_vsel (d a : ERegNum) (s : State) : exec (.vsel d a) s = execVsel d a s := rfl
@[simp] theorem exec_vredAdd (d a : ERegNum) (s : State) : exec (.vredAdd d a) s = execVredAdd d a s := rfl
@[simp] theorem exec_vredMul (d a : ERegNum) (s : State) : exec (.vredMul d a) s = execVredMul d a s := rfl
@[simp] theorem exec_vredMin (d a : ERegNum) (s : State) : exec (.vredMin d a) s = execVredMin d a s := rfl
@[simp] theorem exec_vredMax (d a : ERegNum) (s : State) : exec (.vredMax d a) s = execVredMax d a s := rfl
@[simp] theorem exec_vredAnd (d a : ERegNum) (s : State) : exec (.vredAnd d a) s = execVredAnd d a s := rfl
@[simp] theorem exec_vredOr (d a : ERegNum) (s : State) : exec (.vredOr d a) s = execVredOr d a s := rfl
@[simp] theorem exec_vredXor (d a : ERegNum) (s : State) : exec (.vredXor d a) s = execVredXor d a s := rfl
@[simp] theorem exec_vscanAdd (d a : ERegNum) (s : State) : exec (.vscanAdd d a) s = execVscanAdd d a s := rfl
@[simp] theorem exec_vscanMul (d a : ERegNum) (s : State) : exec (.vscanMul d a) s = execVscanMul d a s := rfl
@[simp] theorem exec_vscanMin (d a : ERegNum) (s : State) : exec (.vscanMin d a) s = execVscanMin d a s := rfl
@[simp] theorem exec_vscanMax (d a : ERegNum) (s : State) : exec (.vscanMax d a) s = execVscanMax d a s := rfl
@[simp] theorem exec_vscanAnd (d a : ERegNum) (s : State) : exec (.vscanAnd d a) s = execVscanAnd d a s := rfl
@[simp] theorem exec_vscanOr (d a : ERegNum) (s : State) : exec (.vscanOr d a) s = execVscanOr d a s := rfl
@[simp] theorem exec_vscanXor (d a : ERegNum) (s : State) : exec (.vscanXor d a) s = execVscanXor d a s := rfl
@[simp] theorem exec_vgat (d a : ERegNum) (s : State) : exec (.vgat d a) s = execVgat d a s := rfl
@[simp] theorem exec_vsca (d a : ERegNum) (s : State) : exec (.vsca d a) s = execVsca d a s := rfl
@[simp] theorem exec_vtop (d a : ERegNum) (s : State) : exec (.vtop d a) s = execVtop d a s := rfl
@[simp] theorem exec_mplane (a b : ERegNum) (s : State) : exec (.mplane a b) s = execMplane a b s := rfl
@[simp] theorem exec_mscl (a b : ERegNum) (s : State) : exec (.mscl a b) s = execMscl a b s := rfl
@[simp] theorem exec_mzero (a : ERegNum) (s : State) : exec (.mzero a) s = execMzero a s := rfl
@[simp] theorem exec_mmul (a b : ERegNum) (s : State) : exec (.mmul a b) s = execMmul a b s := rfl
@[simp] theorem exec_mgang (a b : ERegNum) (s : State) : exec (.mgang a b) s = execMgang a b s := rfl
@[simp] theorem exec_mst (a b : ERegNum) (s : State) : exec (.mst a b) s = execMst a b s := rfl
@[simp] theorem exec_macc (a b : ERegNum) (s : State) : exec (.macc a b) s = execMacc a b s := rfl
@[simp] theorem exec_eendPage4 (s : State) : exec (.eendPage4) s = execEendPage4 s := rfl
@[simp] theorem exec_div (r : Rel) (d a b : RegNum) (s : State) : exec (.div r d a b) s = execDiv r d a b s := rfl
@[simp] theorem exec_divu (r : Rel) (d a b : RegNum) (s : State) : exec (.divu r d a b) s = execDivu r d a b s := rfl
@[simp] theorem exec_rem (r : Rel) (d a b : RegNum) (s : State) : exec (.rem r d a b) s = execRem r d a b s := rfl
@[simp] theorem exec_remu (r : Rel) (d a b : RegNum) (s : State) : exec (.remu r d a b) s = execRemu r d a b s := rfl
@[simp] theorem exec_crd (r : Rel) (d : RegNum) (n : BitVec 12) (s : State) : exec (.crd r d n) s = execCrd r d n s := rfl
@[simp] theorem exec_cwr (r : Rel) (d : RegNum) (n : BitVec 12) (s : State) : exec (.cwr r d n) s = execCwr r d n s := rfl
@[simp] theorem exec_cset (r : Rel) (d : RegNum) (n : BitVec 12) (s : State) : exec (.cset r d n) s = execCset r d n s := rfl
@[simp] theorem exec_cclr (r : Rel) (d : RegNum) (n : BitVec 12) (s : State) : exec (.cclr r d n) s = execCclr r d n s := rfl
@[simp] theorem exec_bextu (r : Rel) (d a : RegNum) (p lm1 : BitVec 6) (s : State) : exec (.bextu r d a p lm1) s = execBextu r d a p lm1 s := rfl
@[simp] theorem exec_lea (r : Rel) (d a : RegNum) (imm : BitVec 44) (s : State) : exec (.lea r d a imm) s = execLea r d a imm s := rfl
@[simp] theorem exec_movxToIndex (r : Rel) (k : BitVec 2) (a : RegNum) (s : State) : exec (.movxToIndex r k a) s = execMovxToIndex r k a s := rfl
@[simp] theorem exec_movxFromIndex (r : Rel) (k : BitVec 2) (a : RegNum) (s : State) : exec (.movxFromIndex r k a) s = execMovxFromIndex r k a s := rfl
@[simp] theorem exec_addx (r : Rel) (k : BitVec 2) (imm : BitVec 44) (s : State) : exec (.addx r k imm) s = execAddx r k imm s := rfl
@[simp] theorem exec_tmark (r : Rel) (a : RegNum) (code : BitVec 16) (s : State) : exec (.tmark r a code) s = execTmark r a code s := rfl
@[simp] theorem exec_gorivoLdr (d : BitVec 4) (n : BitVec 18) (s : State) : exec (.gorivoLdr d n) s = execGorivoLdr d n s := rfl
@[simp] theorem exec_gorivoLdi (d : BitVec 4) (imm : BitVec 18) (s : State) : exec (.gorivoLdi d imm) s = execGorivoLdi d imm s := rfl
@[simp] theorem exec_gorivoLdh (d : BitVec 4) (imm : BitVec 18) (s : State) : exec (.gorivoLdh d imm) s = execGorivoLdh d imm s := rfl
@[simp] theorem exec_gorivoAdd (d a b : BitVec 4) (s : State) : exec (.gorivoAdd d a b) s = execGorivoAdd d a b s := rfl
@[simp] theorem exec_gorivoSub (d a b : BitVec 4) (s : State) : exec (.gorivoSub d a b) s = execGorivoSub d a b s := rfl
@[simp] theorem exec_gorivoAnd (d a b : BitVec 4) (s : State) : exec (.gorivoAnd d a b) s = execGorivoAnd d a b s := rfl
@[simp] theorem exec_gorivoOr (d a b : BitVec 4) (s : State) : exec (.gorivoOr d a b) s = execGorivoOr d a b s := rfl
@[simp] theorem exec_gorivoXor (d a b : BitVec 4) (s : State) : exec (.gorivoXor d a b) s = execGorivoXor d a b s := rfl
@[simp] theorem exec_gorivoShli (d a : BitVec 4) (n : BitVec 18) (s : State) : exec (.gorivoShli d a n) s = execGorivoShli d a n s := rfl
@[simp] theorem exec_gorivoShri (d a : BitVec 4) (n : BitVec 18) (s : State) : exec (.gorivoShri d a n) s = execGorivoShri d a n s := rfl
@[simp] theorem exec_gorivoAndi (d a : BitVec 4) (imm : BitVec 18) (s : State) : exec (.gorivoAndi d a imm) s = execGorivoAndi d a imm s := rfl
@[simp] theorem exec_gorivoCadd (a : BitVec 4) (n : BitVec 18) (s : State) : exec (.gorivoCadd a n) s = execGorivoCadd a n s := rfl
@[simp] theorem exec_gorivoCset (a : BitVec 4) (n : BitVec 18) (s : State) : exec (.gorivoCset a n) s = execGorivoCset a n s := rfl
@[simp] theorem exec_gorivoCrd (d : BitVec 4) (n : BitVec 18) (s : State) : exec (.gorivoCrd d n) s = execGorivoCrd d n s := rfl
@[simp] theorem exec_gorivoBeq (a b : BitVec 4) (off : BitVec 14) (s : State) : exec (.gorivoBeq a b off) s = execGorivoBeq a b off s := rfl
@[simp] theorem exec_gorivoBne (a b : BitVec 4) (off : BitVec 14) (s : State) : exec (.gorivoBne a b off) s = execGorivoBne a b off s := rfl
@[simp] theorem exec_gorivoBltu (a b : BitVec 4) (off : BitVec 14) (s : State) : exec (.gorivoBltu a b off) s = execGorivoBltu a b off s := rfl
@[simp] theorem exec_gorivoBgeu (a b : BitVec 4) (off : BitVec 14) (s : State) : exec (.gorivoBgeu a b off) s = execGorivoBgeu a b off s := rfl
@[simp] theorem exec_gorivoBr (off : BitVec 18) (s : State) : exec (.gorivoBr off) s = execGorivoBr off s := rfl
@[simp] theorem exec_gorivoKeep (s : State) : exec (.gorivoKeep) s = execGorivoKeep s := rfl
@[simp] theorem exec_gorivoDrop (s : State) : exec (.gorivoDrop) s = execGorivoDrop s := rfl
@[simp] theorem exec_gorivoCount (n : BitVec 18) (s : State) : exec (.gorivoCount n) s = execGorivoCount n s := rfl
@[simp] theorem exec_gorivoTrigger (m : BitVec 3) (s : State) : exec (.gorivoTrigger m) s = execGorivoTrigger m s := rfl
@[simp] theorem exec_messageArrival (m : Nat) (s : State) : exec (.messageArrival m) s = execMessageArrival m s := rfl
@[simp] theorem exec_dispatch (c : Nat) (s : State) : exec (.dispatch c) s = execDispatch c s := rfl
@[simp] theorem exec_retirement (c slot : Nat) (s : State) : exec (.retirement c slot) s = execRetirement c slot s := rfl
@[simp] theorem exec_weightReturnDrain (c act : Nat) (s : State) : exec (.weightReturnDrain c act) s = execWeightReturnDrain c act s := rfl
@[simp] theorem exec_stealProbe (c : Nat) (s : State) : exec (.stealProbe c) s = execStealProbe c s := rfl
@[simp] theorem exec_stolenMessageArrival (c : Nat) (s : State) : exec (.stolenMessageArrival c) s = execStolenMessageArrival c s := rfl
@[simp] theorem exec_streamerStealProbe (c : Nat) (s : State) : exec (.streamerStealProbe c) s = execStreamerStealProbe c s := rfl
@[simp] theorem exec_loadComplete (x : Nat) (s : State) : exec (.loadComplete x) s = execLoadComplete x s := rfl
@[simp] theorem exec_trapTaken (c slot : Nat) (s : State) : exec (.trapTaken c slot) s = execTrapTaken c slot s := rfl
@[simp] theorem exec_trapDeferredWrite (f : Nat) (s : State) : exec (.trapDeferredWrite f) s = execTrapDeferredWrite f s := rfl
@[simp] theorem exec_engineTrap (c : Nat) (u : EngineUnit) (s : State) : exec (.engineTrap c u) s = execEngineTrap c u s := rfl
@[simp] theorem exec_retiredAccessError (x : Nat) (s : State) : exec (.retiredAccessError x) s = execRetiredAccessError x s := rfl
@[simp] theorem exec_verdictResumeAt (c : Nat) (record : Addr) (s : State) : exec (.verdictResumeAt c record) s = execVerdictResumeAt c record s := rfl
@[simp] theorem exec_verdictResumeAfter (c : Nat) (record : Addr) (s : State) : exec (.verdictResumeAfter c record) s = execVerdictResumeAfter c record s := rfl
@[simp] theorem exec_verdictAbandon (c : Nat) (record : Addr) (s : State) : exec (.verdictAbandon c record) s = execVerdictAbandon c record s := rfl
@[simp] theorem exec_verdictKeep (c : Nat) (record : Addr) (s : State) : exec (.verdictKeep c record) s = execVerdictKeep c record s := rfl
@[simp] theorem exec_storeBufferSend (c : Nat) (s : State) : exec (.storeBufferSend c) s = execStoreBufferSend c s := rfl
@[simp] theorem exec_accessPerformed (x : Nat) (s : State) : exec (.accessPerformed x) s = execAccessPerformed x s := rfl
@[simp] theorem exec_storeAck (x : Nat) (s : State) : exec (.storeAck x) s = execStoreAck x s := rfl
@[simp] theorem exec_atomicEngineOp (k : Nat) (s : State) : exec (.atomicEngineOp k) s = execAtomicEngineOp k s := rfl
@[simp] theorem exec_hotLineEvict (k : Nat) (s : State) : exec (.hotLineEvict k) s = execHotLineEvict k s := rfl
@[simp] theorem exec_frontWriteback (k : Nat) (obj : Nat) (s : State) : exec (.frontWriteback k obj) s = execFrontWriteback k obj s := rfl
@[simp] theorem exec_launchRecordRead (c : Nat) (s : State) : exec (.launchRecordRead c) s = execLaunchRecordRead c s := rfl
@[simp] theorem exec_engineProgramStart (c : Nat) (u : EngineUnit) (s : State) : exec (.engineProgramStart c u) s = execEngineProgramStart c u s := rfl
@[simp] theorem exec_engineProgramEnd (c : Nat) (u : EngineUnit) (s : State) : exec (.engineProgramEnd c u) s = execEngineProgramEnd c u s := rfl
@[simp] theorem exec_rdvContinuation (c j : Nat) (s : State) : exec (.rdvContinuation c j) s = execRdvContinuation c j s := rfl
@[simp] theorem exec_scoreboardGrant (c frag : Nat) (s : State) : exec (.scoreboardGrant c frag) s = execScoreboardGrant c frag s := rfl
@[simp] theorem exec_gangStart (strip : Nat) (s : State) : exec (.gangStart strip) s = execGangStart strip s := rfl
@[simp] theorem exec_gangPass (strip : Nat) (s : State) : exec (.gangPass strip) s = execGangPass strip s := rfl
@[simp] theorem exec_copyHead (c : Nat) (s : State) : exec (.copyHead c) s = execCopyHead c s := rfl
@[simp] theorem exec_chunkStart (x : Nat) (s : State) : exec (.chunkStart x) s = execChunkStart x s := rfl
@[simp] theorem exec_chunkForward (x chunk : Nat) (s : State) : exec (.chunkForward x chunk) s = execChunkForward x chunk s := rfl
@[simp] theorem exec_chunkPerformed (x chunk : Nat) (s : State) : exec (.chunkPerformed x chunk) s = execChunkPerformed x chunk s := rfl
@[simp] theorem exec_chunkRefused (x chunk : Nat) (s : State) : exec (.chunkRefused x chunk) s = execChunkRefused x chunk s := rfl
@[simp] theorem exec_copyEnd (x : Nat) (s : State) : exec (.copyEnd x) s = execCopyEnd x s := rfl
@[simp] theorem exec_syncCredit (x : Nat) (s : State) : exec (.syncCredit x) s = execSyncCredit x s := rfl
@[simp] theorem exec_wakeMessage (x : Nat) (s : State) : exec (.wakeMessage x) s = execWakeMessage x s := rfl
@[simp] theorem exec_qfenceRelease (c marker : Nat) (s : State) : exec (.qfenceRelease c marker) s = execQfenceRelease c marker s := rfl
@[simp] theorem exec_generationClose (die bell : Nat) (s : State) : exec (.generationClose die bell) s = execGenerationClose die bell s := rfl
@[simp] theorem exec_bellMessage (die bell : Nat) (s : State) : exec (.bellMessage die bell) s = execBellMessage die bell s := rfl
@[simp] theorem exec_externalArrival (x : Nat) (s : State) : exec (.externalArrival x) s = execExternalArrival x s := rfl
@[simp] theorem exec_mint (x : Nat) (s : State) : exec (.mint x) s = execMint x s := rfl
@[simp] theorem exec_grant (x : Nat) (s : State) : exec (.grant x) s = execGrant x s := rfl
@[simp] theorem exec_refuse (x : Nat) (s : State) : exec (.refuse x) s = execRefuse x s := rfl
@[simp] theorem exec_link (x : Nat) (s : State) : exec (.link x) s = execLink x s := rfl
@[simp] theorem exec_linkres (x : Nat) (s : State) : exec (.linkres x) s = execLinkres x s := rfl
@[simp] theorem exec_unlink (x : Nat) (s : State) : exec (.unlink x) s = execUnlink x s := rfl
@[simp] theorem exec_unlinkack (x : Nat) (s : State) : exec (.unlinkack x) s = execUnlinkack x s := rfl
@[simp] theorem exec_notice (x : Nat) (s : State) : exec (.notice x) s = execNotice x s := rfl
@[simp] theorem exec_clear (x : Nat) (s : State) : exec (.clear x) s = execClear x s := rfl
@[simp] theorem exec_clearack (x : Nat) (s : State) : exec (.clearack x) s = execClearack x s := rfl
@[simp] theorem exec_close (x : Nat) (s : State) : exec (.close x) s = execClose x s := rfl
@[simp] theorem exec_cancel (x : Nat) (s : State) : exec (.cancel x) s = execCancel x s := rfl
@[simp] theorem exec_choke (x : Nat) (s : State) : exec (.choke x) s = execChoke x s := rfl
@[simp] theorem exec_shield (x : Nat) (s : State) : exec (.shield x) s = execShield x s := rfl
@[simp] theorem exec_claim (x : Nat) (s : State) : exec (.claim x) s = execClaim x s := rfl
@[simp] theorem exec_check (x : Nat) (s : State) : exec (.check x) s = execCheck x s := rfl
@[simp] theorem exec_climb (x : Nat) (s : State) : exec (.climb x) s = execClimb x s := rfl
@[simp] theorem exec_answer (x : Nat) (s : State) : exec (.answer x) s = execAnswer x s := rfl
@[simp] theorem exec_weightReturn (x : Nat) (s : State) : exec (.weightReturn x) s = execWeightReturn x s := rfl
@[simp] theorem exec_doorbell (node queue tail : Nat) (s : State) : exec (.doorbell node queue tail) s = execDoorbell node queue tail s := rfl
@[simp] theorem exec_packetSelect (p : Nat) (s : State) : exec (.packetSelect p) s = execPacketSelect p s := rfl
@[simp] theorem exec_ageingTick (s : State) : exec (.ageingTick) s = execAgeingTick s := rfl
@[simp] theorem exec_launch (p : Nat) (s : State) : exec (.launch p) s = execLaunch p s := rfl
@[simp] theorem exec_launchStartMessage (p : Nat) (s : State) : exec (.launchStartMessage p) s = execLaunchStartMessage p s := rfl
@[simp] theorem exec_launchComplete (x : Nat) (s : State) : exec (.launchComplete x) s = execLaunchComplete x s := rfl
@[simp] theorem exec_nopPacket (p : Nat) (s : State) : exec (.nopPacket p) s = execNopPacket p s := rfl
@[simp] theorem exec_waitPacket (p : Nat) (s : State) : exec (.waitPacket p) s = execWaitPacket p s := rfl
@[simp] theorem exec_waitRecheck (q : Nat) (s : State) : exec (.waitRecheck q) s = execWaitRecheck q s := rfl
@[simp] theorem exec_signalPacket (p : Nat) (s : State) : exec (.signalPacket p) s = execSignalPacket p s := rfl
@[simp] theorem exec_fencePacket (p : Nat) (s : State) : exec (.fencePacket p) s = execFencePacket p s := rfl
@[simp] theorem exec_freeSlotReport (c : Nat) (s : State) : exec (.freeSlotReport c) s = execFreeSlotReport c s := rfl
@[simp] theorem exec_tollExpiry (q : Nat) (s : State) : exec (.tollExpiry q) s = execTollExpiry q s := rfl
@[simp] theorem exec_tollExtend (q n : Nat) (s : State) : exec (.tollExtend q n) s = execTollExtend q n s := rfl
@[simp] theorem exec_tollRecover (q : Nat) (s : State) : exec (.tollRecover q) s = execTollRecover q s := rfl
@[simp] theorem exec_pluginTimeout (q : Nat) (s : State) : exec (.pluginTimeout q) s = execPluginTimeout q s := rfl
@[simp] theorem exec_recovery (f : Nat) (s : State) : exec (.recovery f) s = execRecovery f s := rfl
@[simp] theorem exec_fenceLift (f : Nat) (s : State) : exec (.fenceLift f) s = execFenceLift f s := rfl
@[simp] theorem exec_containment (f : Nat) (s : State) : exec (.containment f) s = execContainment f s := rfl
@[simp] theorem exec_loadFieldContext (rec : Addr) (s : State) : exec (.loadFieldContext rec) s = execLoadFieldContext rec s := rfl
@[simp] theorem exec_segmentTableLoad (f : Nat) (s : State) : exec (.segmentTableLoad f) s = execSegmentTableLoad f s := rfl
@[simp] theorem exec_imageLoad (f : Nat) (image : Addr) (s : State) : exec (.imageLoad f image) s = execImageLoad f image s := rfl
@[simp] theorem exec_contextSwitch (f : Nat) (s : State) : exec (.contextSwitch f) s = execContextSwitch f s := rfl
@[simp] theorem exec_preemptDeadline (f : Nat) (s : State) : exec (.preemptDeadline f) s = execPreemptDeadline f s := rfl
@[simp] theorem exec_switchDrainComplete (f : Nat) (rec : Addr) (s : State) : exec (.switchDrainComplete f rec) s = execSwitchDrainComplete f rec s := rfl
@[simp] theorem exec_stopField (f : Nat) (s : State) : exec (.stopField f) s = execStopField f s := rfl
@[simp] theorem exec_resumeField (f : Nat) (s : State) : exec (.resumeField f) s = execResumeField f s := rfl
@[simp] theorem exec_dump (f : Nat) (area : Addr) (s : State) : exec (.dump f area) s = execDump f area s := rfl
@[simp] theorem exec_invalidate (f : Nat) (lo hi : Addr) (s : State) : exec (.invalidate f lo hi) s = execInvalidate f lo hi s := rfl
@[simp] theorem exec_translationWalk (x : Nat) (s : State) : exec (.translationWalk x) s = execTranslationWalk x s := rfl
@[simp] theorem exec_faultResolve (x : Nat) (s : State) : exec (.faultResolve x) s = execFaultResolve x s := rfl
@[simp] theorem exec_faultRefuse (x : Nat) (s : State) : exec (.faultRefuse x) s = execFaultRefuse x s := rfl
@[simp] theorem exec_queueRearm (q : Nat) (s : State) : exec (.queueRearm q) s = execQueueRearm q s := rfl
@[simp] theorem exec_managementTableWrite (t : MgmtTarget) (ws : List Word) (s : State) : exec (.managementTableWrite t ws) s = execManagementTableWrite t ws s := rfl
@[simp] theorem exec_groupTableWrite (g : Nat) (ports : Word) (valid local_ : Bool) (s : State) : exec (.groupTableWrite g ports valid local_) s = execGroupTableWrite g ports valid local_ s := rfl
@[simp] theorem exec_senderTableRead (c : Nat) (clear : Bool) (s : State) : exec (.senderTableRead c clear) s = execSenderTableRead c clear s := rfl
@[simp] theorem exec_violationLogRead (u : LogUnit) (s : State) : exec (.violationLogRead u) s = execViolationLogRead u s := rfl
@[simp] theorem exec_refusalLogRead (c : Nat) (s : State) : exec (.refusalLogRead c) s = execRefusalLogRead c s := rfl
@[simp] theorem exec_bellDiscardCountRead (die bell : Nat) (s : State) : exec (.bellDiscardCountRead die bell) s = execBellDiscardCountRead die bell s := rfl
@[simp] theorem exec_errorLogRead (u : LogUnit) (s : State) : exec (.errorLogRead u) s = execErrorLogRead u s := rfl
@[simp] theorem exec_raceRingPlace (c : Nat) (ring : Addr) (s : State) : exec (.raceRingPlace c ring) s = execRaceRingPlace c ring s := rfl
@[simp] theorem exec_traceRecordOffer (k : Nat) (s : State) : exec (.traceRecordOffer k) s = execTraceRecordOffer k s := rfl
@[simp] theorem exec_traceRecordProcess (k : Nat) (s : State) : exec (.traceRecordProcess k) s = execTraceRecordProcess k s := rfl
@[simp] theorem exec_traceStateWrite (k : Nat) (v : BitVec 2) (s : State) : exec (.traceStateWrite k v) s = execTraceStateWrite k v s := rfl
@[simp] theorem exec_prog (k : Nat) (addr : Addr) (s : State) : exec (.prog k addr) s = execProg k addr s := rfl
@[simp] theorem exec_traceLostRead (k : Nat) (s : State) : exec (.traceLostRead k) s = execTraceLostRead k s := rfl
@[simp] theorem exec_frameReceive (port : Nat) (fr : LinkFrame) (s : State) : exec (.frameReceive port fr) s = execFrameReceive port fr s := rfl
@[simp] theorem exec_packetAccept (port : Nat) (s : State) : exec (.packetAccept port) s = execPacketAccept port s := rfl
@[simp] theorem exec_packetForward (x : Nat) (s : State) : exec (.packetForward x) s = execPacketForward x s := rfl
@[simp] theorem exec_ackReceived (port : Nat) (seq : BitVec 12) (s : State) : exec (.ackReceived port seq) s = execAckReceived port seq s := rfl
@[simp] theorem exec_refusalReceived (port : Nat) (seq : BitVec 12) (s : State) : exec (.refusalReceived port seq) s = execRefusalReceived port seq s := rfl
@[simp] theorem exec_corruptReceived (port : Nat) (seq : BitVec 12) (s : State) : exec (.corruptReceived port seq) s = execCorruptReceived port seq s := rfl
@[simp] theorem exec_refusedResend (port : Nat) (s : State) : exec (.refusedResend port) s = execRefusedResend port s := rfl
@[simp] theorem exec_controlFrameSend (port : Nat) (s : State) : exec (.controlFrameSend port) s = execControlFrameSend port s := rfl
@[simp] theorem exec_controlFrameReceive (port : Nat) (fr : LinkFrame) (s : State) : exec (.controlFrameReceive port fr) s = execControlFrameReceive port fr s := rfl
@[simp] theorem exec_timeSlew (s : State) : exec (.timeSlew) s = execTimeSlew s := rfl
@[simp] theorem exec_timeLoad (s : State) : exec (.timeLoad) s = execTimeLoad s := rfl
@[simp] theorem exec_message (x : Nat) (s : State) : exec (.message x) s = execMessage x s := rfl
@[simp] theorem exec_load (x : Nat) (s : State) : exec (.load x) s = execLoad x s := rfl
@[simp] theorem exec_store (x : Nat) (s : State) : exec (.store x) s = execStore x s := rfl
@[simp] theorem exec_atomic (x : Nat) (s : State) : exec (.atomic x) s = execAtomic x s := rfl
@[simp] theorem exec_response (x : Nat) (s : State) : exec (.response x) s = execResponse x s := rfl
@[simp] theorem exec_nack (x : Nat) (s : State) : exec (.nack x) s = execNack x s := rfl
@[simp] theorem exec_weight (x : Nat) (s : State) : exec (.weight x) s = execWeight x s := rfl
@[simp] theorem exec_builtInHandler (m : Nat) (s : State) : exec (.builtInHandler m) s = execBuiltInHandler m s := rfl
@[simp] theorem exec_multicastPacket (x : Nat) (s : State) : exec (.multicastPacket x) s = execMulticastPacket x s := rfl
@[simp] theorem exec_transferStart (x : Nat) (s : State) : exec (.transferStart x) s = execTransferStart x s := rfl
@[simp] theorem exec_transferPacketSend (x : Nat) (s : State) : exec (.transferPacketSend x) s = execTransferPacketSend x s := rfl
@[simp] theorem exec_transferAck (x bytes : Nat) (marked trimmed : Bool) (s : State) : exec (.transferAck x bytes marked trimmed) s = execTransferAck x bytes marked trimmed s := rfl
@[simp] theorem exec_transferComplete (x : Nat) (s : State) : exec (.transferComplete x) s = execTransferComplete x s := rfl
@[simp] theorem exec_transferRefused (r : RefusedBytes) (s : State) : exec (.transferRefused r) s = execTransferRefused r s := rfl
@[simp] theorem exec_retryLimit (x : Nat) (s : State) : exec (.retryLimit x) s = execRetryLimit x s := rfl
@[simp] theorem exec_rmaWrite (p : PeerPacket) (key : BitVec 32) (off : Nat) (data : List Byte) (last : Bool) (s : State) : exec (.rmaWrite p key off data last) s = execRmaWrite p key off data last s := rfl
@[simp] theorem exec_rmaRead (p : PeerPacket) (key : BitVec 32) (off len : Nat) (s : State) : exec (.rmaRead p key off len) s = execRmaRead p key off len s := rfl
@[simp] theorem exec_send (p : PeerPacket) (key : BitVec 32) (msg total off : Nat) (data : List Byte) (s : State) : exec (.send p key msg total off data) s = execSend p key msg total off data s := rfl
@[simp] theorem exec_taggedSend (p : PeerPacket) (key : BitVec 32) (tag : Word) (msg total off : Nat) (data : List Byte) (s : State) : exec (.taggedSend p key tag msg total off data) s = execTaggedSend p key tag msg total off data s := rfl
@[simp] theorem exec_chime (c : Nat) (s : State) : exec (.chime c) s = execChime c s := rfl
@[simp] theorem exec_chimeAgree (c : Nat) (s : State) : exec (.chimeAgree c) s = execChimeAgree c s := rfl
@[simp] theorem exec_chimeDisagree (c : Nat) (s : State) : exec (.chimeDisagree c) s = execChimeDisagree c s := rfl
@[simp] theorem exec_tapInject (c : Nat) (u lane : Nat) (results : List Word) (s : State) : exec (.tapInject c u lane results) s = execTapInject c u lane results s := rfl
@[simp] theorem exec_sweepResult (k : Nat) (pass : Bool) (s : State) : exec (.sweepResult k pass) s = execSweepResult k pass s := rfl
@[simp] theorem exec_requalification (k : Nat) (bin : BitVec 2) (s : State) : exec (.requalification k bin) s = execRequalification k bin s := rfl
@[simp] theorem exec_scanTest (c : Nat) (s : State) : exec (.scanTest c) s = execScanTest c s := rfl
@[simp] theorem exec_scanTestAbort (c : Nat) (s : State) : exec (.scanTestAbort c) s = execScanTestAbort c s := rfl
@[simp] theorem exec_scanTestResult (c : Nat) (signature : Word) (s : State) : exec (.scanTestResult c signature) s = execScanTestResult c signature s := rfl
@[simp] theorem exec_repairPoint (die col : Nat) (s : State) : exec (.repairPoint die col) s = execRepairPoint die col s := rfl
@[simp] theorem exec_scrub (u : LogUnit) (s : State) : exec (.scrub u) s = execScrub u s := rfl
@[simp] theorem exec_commitDieRecord (die : Nat) (s : State) : exec (.commitDieRecord die) s = execCommitDieRecord die s := rfl
@[simp] theorem exec_requestUpdate (s : State) : exec (.requestUpdate) s = execRequestUpdate s := rfl
@[simp] theorem exec_passComponentTable (comp : Nat) (s : State) : exec (.passComponentTable comp) s = execPassComponentTable comp s := rfl
@[simp] theorem exec_updateComponent (comp : Nat) (s : State) : exec (.updateComponent comp) s = execUpdateComponent comp s := rfl
@[simp] theorem exec_requestFirmwareData (off : Nat) (data : List Byte) (s : State) : exec (.requestFirmwareData off data) s = execRequestFirmwareData off data s := rfl
@[simp] theorem exec_verifyComplete (s : State) : exec (.verifyComplete) s = execVerifyComplete s := rfl
@[simp] theorem exec_applyComplete (s : State) : exec (.applyComplete) s = execApplyComplete s := rfl
@[simp] theorem exec_activateFirmware (s : State) : exec (.activateFirmware) s = execActivateFirmware s := rfl
@[simp] theorem exec_monitorActivation (s : State) : exec (.monitorActivation) s = execMonitorActivation s := rfl
@[simp] theorem exec_raiseMinSvn (comp svn : Nat) (s : State) : exec (.raiseMinSvn comp svn) s = execRaiseMinSvn comp svn s := rfl
@[simp] theorem exec_pluginStop (tenant : Nat) (s : State) : exec (.pluginStop tenant) s = execPluginStop tenant s := rfl
@[simp] theorem exec_boot (s : State) : exec (.boot) s = execBoot s := rfl
@[simp] theorem exec_getVersion (s : State) : exec (.getVersion) s = execGetVersion s := rfl
@[simp] theorem exec_getCapabilities (s : State) : exec (.getCapabilities) s = execGetCapabilities s := rfl
@[simp] theorem exec_negotiateAlgorithms (s : State) : exec (.negotiateAlgorithms) s = execNegotiateAlgorithms s := rfl
@[simp] theorem exec_getDigests (s : State) : exec (.getDigests) s = execGetDigests s := rfl
@[simp] theorem exec_getCertificate (s : State) : exec (.getCertificate) s = execGetCertificate s := rfl
@[simp] theorem exec_challenge (nonce : Word) (s : State) : exec (.challenge nonce) s = execChallenge nonce s := rfl
@[simp] theorem exec_getMeasurements (index : Nat) (s : State) : exec (.getMeasurements index) s = execGetMeasurements index s := rfl
@[simp] theorem exec_farMemoryBringup (passed : List Nat) (s : State) : exec (.farMemoryBringup passed) s = execFarMemoryBringup passed s := rfl
@[simp] theorem exec_zqCalibration (k : Nat) (s : State) : exec (.zqCalibration k) s = execZqCalibration k s := rfl
@[simp] theorem exec_dataRetrain (k : Nat) (passed : Bool) (s : State) : exec (.dataRetrain k passed) s = execDataRetrain k passed s := rfl
@[simp] theorem exec_thermalSample (temp : Int) (s : State) : exec (.thermalSample temp) s = execThermalSample temp s := rfl
@[simp] theorem exec_powerCapSet (watts : Nat) (s : State) : exec (.powerCapSet watts) s = execPowerCapSet watts s := rfl
@[simp] theorem exec_powerCapWindow (watts : Nat) (s : State) : exec (.powerCapWindow watts) s = execPowerCapWindow watts s := rfl
@[simp] theorem exec_powerOnReset (s : State) : exec (.powerOnReset) s = execPowerOnReset s := rfl
@[simp] theorem exec_rmaReadResponse (x off : Nat) (data : List Byte) (s : State) : exec (.rmaReadResponse x off data) s = execRmaReadResponse x off data s := rfl
@[simp] theorem exec_powerLoss (s : State) : exec (.powerLoss) s = execPowerLoss s := rfl

end Sys2Proof.Machine
end

