-- ==== Sys2Proof/Laws/Fabric.lean ====
section
/-! SUPPORT. What a sealed frame says: its fields are those it was made of, and its CRC is right (R353). -/

namespace Sys2Proof.Machine

/-- The sideband of a frame before its CRC. -/
theorem linkSeal_side (flit : List Word) (ctxid seq vc : Nat) (sop eop : Bool) (ack : Nat × BitVec 12) :
    ∃ K : Nat, K = ctxid * 2 ^ 32 + seq * 2 ^ 20 + vc * 2 ^ 16 + flag sop * 2 ^ 15 + flag eop * 2 ^ 14 + ack.2.toNat * 2 ^ 2 + ack.1 ∧
      (linkSeal flit ctxid seq vc sop eop ack).side =
        BitVec.ofNat 64 (K * 2 ^ 16) ||| (linkCrc ⟨flit, BitVec.ofNat 64 (K * 2 ^ 16)⟩).setWidth 64 := by
  refine ⟨_, rfl, ?_⟩
  have h : ctxid * 2 ^ 48 + seq * 2 ^ 36 + vc * 2 ^ 32 + flag sop * 2 ^ 31 + flag eop * 2 ^ 30 + ack.2.toNat * 2 ^ 18 + ack.1 * 2 ^ 16 =
      (ctxid * 2 ^ 32 + seq * 2 ^ 20 + vc * 2 ^ 16 + flag sop * 2 ^ 15 + flag eop * 2 ^ 14 + ack.2.toNat * 2 ^ 2 + ack.1) * 2 ^ 16 := by
    ring
  simp only [linkSeal, word, h]

/-- Bits from 16 on of a multiple of 2^16 with a low half put in. -/
theorem or_low_toNat (K : Nat) (c : BitVec 16) :
    (BitVec.ofNat 64 (K * 2 ^ 16) ||| c.setWidth 64).toNat = K % 2 ^ 48 * 2 ^ 16 + c.toNat := by
  have h : (BitVec.ofNat 64 (K * 2 ^ 16)).toNat = K % 2 ^ 48 * 2 ^ 16 := by
    rw [BitVec.toNat_ofNat]
    omega
  have hc : c.toNat < 2 ^ 16 := c.isLt
  rw [BitVec.toNat_or, h, BitVec.toNat_setWidth, Nat.mod_eq_of_lt (by omega : c.toNat < 2 ^ 64), Nat.mul_comm,
    ← Nat.two_pow_add_eq_or_of_lt hc]

/-- Fields of a sealed frame from bit 16 on are those of its sideband without the CRC. -/
theorem linkSeal_bits (flit : List Word) (ctxid seq vc : Nat) (sop eop : Bool) (ack : Nat × BitVec 12) :
    (linkSeal flit ctxid seq vc sop eop ack).side.toNat / 2 ^ 16 =
      (ctxid * 2 ^ 32 + seq * 2 ^ 20 + vc * 2 ^ 16 + flag sop * 2 ^ 15 + flag eop * 2 ^ 14 + ack.2.toNat * 2 ^ 2 + ack.1) % 2 ^ 48 := by
  obtain ⟨K, rfl, h⟩ := linkSeal_side flit ctxid seq vc sop eop ack
  rw [h, or_low_toNat]
  have := (linkCrc ⟨flit, BitVec.ofNat 64 ((ctxid * 2 ^ 32 + seq * 2 ^ 20 + vc * 2 ^ 16 + flag sop * 2 ^ 15 + flag eop * 2 ^ 14 +
    ack.2.toNat * 2 ^ 2 + ack.1) * 2 ^ 16)⟩).isLt
  omega

/-- The bytes that a CRC covers do not hold the CRC. -/
theorem leBytes_drop_two (n : Nat) : (leBytes 8 n).drop 2 = leBytes 6 (n / 2 ^ 16) := by
  simp [leBytes, Nat.div_div_eq_div_mul]

/-- A sealed frame on a virtual channel that exists is good. -/
theorem linkGood_linkSeal (flit : List Word) (ctxid seq vc : Nat) (sop eop : Bool) (ack : Nat × BitVec 12)
    (hs : seq < 2 ^ 12) (hv : vc < 9 ∨ vc = 15) (ha : ack.1 < 4) :
    linkGood (linkSeal flit ctxid seq vc sop eop ack) = true ∧ linkVc (linkSeal flit ctxid seq vc sop eop ack) = vc ∧
    linkSeq (linkSeal flit ctxid seq vc sop eop ack) = BitVec.ofNat 12 seq ∧
    linkCtxid (linkSeal flit ctxid seq vc sop eop ack) = BitVec.ofNat 16 ctxid ∧
    linkSop (linkSeal flit ctxid seq vc sop eop ack) = sop ∧ linkEop (linkSeal flit ctxid seq vc sop eop ack) = eop ∧
    linkAckSeq (linkSeal flit ctxid seq vc sop eop ack) = ack.2 ∧ linkAckKind (linkSeal flit ctxid seq vc sop eop ack) = ack.1 := by
  have hT := linkSeal_bits flit ctxid seq vc sop eop ack
  have h1 : flag sop ≤ 1 := by cases sop <;> decide
  have h2 : flag eop ≤ 1 := by cases eop <;> decide
  have h3 := ack.2.isLt
  have hvc : linkVc (linkSeal flit ctxid seq vc sop eop ack) = vc := by
    simp only [linkVc, bits]
    omega
  refine ⟨?_, hvc, ?_, ?_, ?_, ?_, ?_, ?_⟩
  · have hcrc : linkCrc (linkSeal flit ctxid seq vc sop eop ack) = (linkSeal flit ctxid seq vc sop eop ack).side.extractLsb' 0 16 := by
      obtain ⟨K, hK, h⟩ := linkSeal_side flit ctxid seq vc sop eop ack
      have hf : (linkSeal flit ctxid seq vc sop eop ack).flit = flit := rfl
      have hlow : (linkSeal flit ctxid seq vc sop eop ack).side.extractLsb' 0 16 = linkCrc ⟨flit, BitVec.ofNat 64 (K * 2 ^ 16)⟩ := by
        rw [h]
        apply BitVec.eq_of_toNat_eq
        rw [BitVec.extractLsb'_toNat, or_low_toNat]
        have := (linkCrc ⟨flit, BitVec.ofNat 64 (K * 2 ^ 16)⟩).isLt
        omega
      rw [hlow]
      simp only [linkCrc, hf, leBytes_drop_two, hT, BitVec.toNat_ofNat]
      have : K * 2 ^ 16 % 2 ^ 64 / 2 ^ 16 = K % 2 ^ 48 := by omega
      rw [this, hK]
    have hr : (9 ≤ vc ∧ vc ≤ 14) = False := by
      simp only [eq_iff_iff, iff_false]
      omega
    simp only [linkGood, hcrc, hvc, beq_self_eq_true, Bool.true_and]
    by_cases h9 : 9 ≤ vc <;> by_cases h14 : vc ≤ 14 <;> simp_all
  · apply BitVec.eq_of_toNat_eq
    rw [linkSeq, BitVec.extractLsb'_toNat, BitVec.toNat_ofNat]
    omega
  · apply BitVec.eq_of_toNat_eq
    rw [linkCtxid, BitVec.extractLsb'_toNat, BitVec.toNat_ofNat]
    omega
  · rw [linkSop, bitAt, BitVec.getLsbD, Nat.testBit_eq_decide_div_mod_eq]
    cases sop <;> cases eop <;> simp [flag] at hT ⊢ <;> omega
  · rw [linkEop, bitAt, BitVec.getLsbD, Nat.testBit_eq_decide_div_mod_eq]
    cases sop <;> cases eop <;> simp [flag] at hT ⊢ <;> omega
  · apply BitVec.eq_of_toNat_eq
    rw [linkAckSeq, BitVec.extractLsb'_toNat]
    omega
  · simp only [linkAckKind, bits]
    omega

end Sys2Proof.Machine
end

