-- ==== Sys2Proof/Laws/Memory.lean ====
section
/-! SUPPORT. Laws of sparse tables and of memory: read after write, and that every memory operation keeps the canonical form. -/

namespace Sys2Proof.Machine

/-! ### Sparse tables -/

@[simp] theorem AL.find_nil {α : Type} (k : Nat) : AL.find ([] : AL α) k = none := rfl

theorem AL.find_put {α : Type} (l : AL α) (k j : Nat) (v : α) :
    AL.find (AL.put l k v) j = if k = j then some v else AL.find l j := by
  induction l with
  | nil => simp [AL.put, AL.find]
  | cons p t ih =>
    obtain ⟨i, x⟩ := p
    simp only [AL.put]
    split
    · simp [AL.find]
    · split
      · next h => subst h; simp only [AL.find]; split <;> rfl
      · simp only [AL.find, ih]
        by_cases hk : k = j
        · subst hk; simp; omega
        · simp [hk]

@[simp] theorem AL.find_put_same {α : Type} (l : AL α) (k : Nat) (v : α) : AL.find (AL.put l k v) k = some v := by
  simp [AL.find_put]

theorem AL.find_put_ne {α : Type} (l : AL α) {k j : Nat} (v : α) (h : k ≠ j) :
    AL.find (AL.put l k v) j = AL.find l j := by
  simp [AL.find_put, h]

theorem AL.find_del {α : Type} (l : AL α) (k j : Nat) : AL.find (AL.del l k) j = if k = j then none else AL.find l j := by
  induction l with
  | nil => simp [AL.del]
  | cons p t ih =>
    obtain ⟨i, x⟩ := p
    simp only [AL.del, List.filter_cons] at ih ⊢
    by_cases hi : i = k
    · subst hi
      simp only [bne_self_eq_false, Bool.false_eq_true, if_false, ih, AL.find]
      split <;> rfl
    · have : (i != k) = true := by simp [hi]
      simp only [this, if_true, AL.find, ih]
      by_cases hk : k = j
      · subst hk; simp [hi]
      · simp [hk]

@[simp] theorem AL.find_del_same {α : Type} (l : AL α) (k : Nat) : AL.find (AL.del l k) k = none := by
  simp [AL.find_del]

theorem AL.get_put {α : Type} (d : α) (l : AL α) (k j : Nat) (v : α) :
    AL.get d (AL.put l k v) j = if k = j then v else AL.get d l j := by
  simp only [AL.get, AL.find_put]; split <;> rfl

@[simp] theorem AL.get_put_same {α : Type} (d : α) (l : AL α) (k : Nat) (v : α) : AL.get d (AL.put l k v) k = v := by
  simp [AL.get_put]

theorem AL.get_put_ne {α : Type} (d : α) (l : AL α) {k j : Nat} (v : α) (h : k ≠ j) :
    AL.get d (AL.put l k v) j = AL.get d l j := by
  simp [AL.get_put, h]

theorem AL.get_del {α : Type} (d : α) (l : AL α) (k j : Nat) :
    AL.get d (AL.del l k) j = if k = j then d else AL.get d l j := by
  simp only [AL.get, AL.find_del]; split <;> rfl

theorem AL.get_of_find {α : Type} {d v : α} {l : AL α} {k : Nat} (h : AL.find l k = some v) : AL.get d l k = v := by
  simp [AL.get, h]

/-- Reading a register after a write. -/
theorem Regs.get_set (r : Regs) (k j : Nat) (v : Word) :
    Regs.get (Regs.set r k v) j = if k = j then v else Regs.get r j := by
  simp only [Regs.get, Regs.set]
  split
  · next h => rw [AL.get_del]; split <;> simp [h]
  · exact AL.get_put ..

@[simp] theorem Regs.get_set_same (r : Regs) (k : Nat) (v : Word) : Regs.get (Regs.set r k v) k = v := by
  simp [Regs.get_set]

theorem Regs.get_set_ne (r : Regs) {k j : Nat} (v : Word) (h : k ≠ j) :
    Regs.get (Regs.set r k v) j = Regs.get r j := by
  simp [Regs.get_set, h]

/-! ### The canonical form -/

theorem Memory.wfFrom_weaken {m : Memory} {lo lo' : Nat} (h : lo' ≤ lo) (hm : m.wfFrom lo = true) :
    m.wfFrom lo' = true := by
  cases m with
  | nil => rfl
  | cons p t =>
    obtain ⟨a, b⟩ := p
    simp only [Memory.wfFrom, Bool.and_eq_true, decide_eq_true_eq] at hm ⊢
    exact ⟨⟨by omega, hm.1.2⟩, hm.2⟩

/-- Dropping entries keeps the form. -/
theorem Memory.wfFrom_filter {m : Memory} {lo : Nat} (f : Host.Cell → Bool) (h : m.wfFrom lo = true) :
    Memory.wfFrom lo (m.filter f) = true := by
  induction m generalizing lo with
  | nil => rfl
  | cons p t ih =>
    obtain ⟨a, b⟩ := p
    simp only [Memory.wfFrom, Bool.and_eq_true, decide_eq_true_eq] at h
    simp only [List.filter_cons]
    split
    · simp only [Memory.wfFrom, Bool.and_eq_true, decide_eq_true_eq]
      exact ⟨h.1, ih h.2⟩
    · exact Memory.wfFrom_weaken (by omega) (ih h.2)

theorem Memory.wf_filter {m : Memory} (f : Host.Cell → Bool) (h : m.wf = true) : Memory.wf (m.filter f) = true :=
  Memory.wfFrom_filter f h

theorem Memory.wfFrom_insert {m : Memory} {lo a : Nat} {b : Byte} (h : m.wfFrom lo = true) (ha : lo ≤ a)
    (hb : b ≠ Memory.unlisted) (hn : ∀ p ∈ m, p.1 ≠ a) : (Memory.insert m a b).wfFrom lo = true := by
  induction m generalizing lo with
  | nil => simp [Memory.insert, Memory.wfFrom, ha, hb]
  | cons p t ih =>
    obtain ⟨j, x⟩ := p
    simp only [Memory.wfFrom, Bool.and_eq_true, decide_eq_true_eq] at h
    simp only [Memory.insert]
    have hj := hn (j, x) (by simp)
    split
    · simp only [Memory.wfFrom, Bool.and_eq_true, decide_eq_true_eq]
      exact ⟨⟨ha, by simp [hb]⟩, ⟨by omega, h.1.2⟩, h.2⟩
    · simp only [Memory.wfFrom, Bool.and_eq_true, decide_eq_true_eq]
      exact ⟨h.1, ih h.2 (by simp at hj; omega) (fun p hp => hn p (by simp [hp]))⟩

/-- A byte write keeps the form. -/
theorem Memory.wf_set {m : Memory} (a : Nat) (b : Byte) (h : m.wf = true) : (m.set a b).wf = true := by
  simp only [Memory.set]
  split
  · exact Memory.wf_filter _ h
  · next hb => exact Memory.wfFrom_insert (Memory.wf_filter _ h) (by omega) hb (by simp)

/-- Writing bytes keeps the form. -/
theorem Memory.wf_setBytes {m : Memory} (a : Nat) (bs : List Byte) (h : m.wf = true) : (m.setBytes a bs).wf = true := by
  induction bs generalizing m a with
  | nil => exact h
  | cons b t ih => exact ih (a + 1) (Memory.wf_set a b h)

/-- Zeroing bytes keeps the form. -/
theorem Memory.wf_clear {m : Memory} (a n : Nat) (h : m.wf = true) : (m.clear a n).wf = true :=
  Memory.wf_filter _ h

/-- Zeroing a block and writing pieces into it keeps the form. -/
theorem Memory.wf_block {m : Memory} (a n : Nat) (ps : List (Nat × List Byte)) (h : m.wf = true) :
    (m.block a n ps).wf = true := by
  simp only [Memory.block]
  have : ∀ m : Memory, m.wf = true → (ps.foldl (fun t p => Memory.setBytes t (a + p.1) p.2) m).wf = true := by
    induction ps with
    | nil => intro m h; exact h
    | cons p t ih => intro m h; exact ih _ (Memory.wf_setBytes _ _ h)
  exact this _ (Memory.wf_clear a n h)

/-! ### Reading after writing -/

theorem Memory.find_filter (m : Memory) (f : Nat → Bool) (j : Nat) :
    AL.find (m.filter (fun p => f p.1)) j = if f j then AL.find m j else none := by
  induction m with
  | nil => simp
  | cons p t ih =>
    obtain ⟨i, x⟩ := p
    simp only [List.filter_cons]
    by_cases hi : i = j
    · subst hi
      by_cases hf : f i <;> simp_all [AL.find]
    · by_cases hf : f i <;> simp [hf, AL.find, hi, ih]

theorem Memory.find_insert (m : Memory) (a j : Nat) (b : Byte) (h : ∀ p ∈ m, p.1 ≠ a) :
    AL.find (Memory.insert m a b) j = if a = j then some b else AL.find m j := by
  induction m with
  | nil => simp [Memory.insert, AL.find]
  | cons p t ih =>
    obtain ⟨i, x⟩ := p
    have hi : i ≠ a := h (i, x) (by simp)
    simp only [Memory.insert]
    split
    · simp [AL.find]
    · simp only [AL.find, ih (fun p hp => h p (by simp [hp]))]
      by_cases hj : a = j
      · subst hj; simp [hi]
      · simp [hj]

/-- A byte reads as what was last written to it, and a write leaves every other byte alone. -/
theorem Memory.get_set (m : Memory) (a j : Nat) (b : Byte) : (m.set a b).get j = if a = j then b else m.get j := by
  have hf := Memory.find_filter m (fun i => i != a) j
  simp only [Memory.get, AL.get, Memory.set] at hf ⊢
  split
  · next hb =>
    rw [hf]
    by_cases hj : a = j
    · subst hj; simp [hb]
    · have : (j != a) = true := by simp; omega
      simp [this, hj]
  · rw [Memory.find_insert _ _ _ _ (by simp), hf]
    by_cases hj : a = j
    · simp [hj]
    · have : (j != a) = true := by simp; omega
      simp [this, hj]

/-- Bytes read back, and bytes outside stay. -/
theorem Memory.get_setBytes (m : Memory) (a : Nat) (bs : List Byte) (j : Nat) :
    (m.setBytes a bs).get j = if a ≤ j then (bs[j - a]?).getD (m.get j) else m.get j := by
  induction bs generalizing m a with
  | nil => simp [Memory.setBytes]
  | cons b t ih =>
    simp only [Memory.setBytes, ih, Memory.get_set]
    rcases Nat.lt_trichotomy j a with h | h | h
    · have h1 : ¬ a + 1 ≤ j := by omega
      have h2 : ¬ a ≤ j := by omega
      have h3 : a ≠ j := by omega
      simp [h1, h2, h3]
    · subst h; simp
    · have h1 : a + 1 ≤ j := by omega
      have h2 : a ≤ j := by omega
      have h3 : a ≠ j := by omega
      have h4 : j - a = (j - (a + 1)) + 1 := by omega
      simp [h1, h2, h3, h4]

theorem Memory.get_setBytes_outside {m : Memory} {a j : Nat} {bs : List Byte} (h : j < a ∨ a + bs.length ≤ j) :
    (m.setBytes a bs).get j = m.get j := by
  rw [Memory.get_setBytes]
  split
  · rw [List.getElem?_eq_none (by omega)]; rfl
  · rfl

theorem Memory.bytes_length (m : Memory) (a n : Nat) : (m.bytes a n).length = n := by
  induction n generalizing a with
  | zero => rfl
  | succ n ih => simp [Memory.bytes, ih]

end Sys2Proof.Machine
end

