-- ==== Sys2Proof/Laws/State.lean ====
section
/-! SUPPORT. What each update of the state leaves: one lemma for each field that an update does not touch. -/

namespace Sys2Proof.Machine

@[simp] theorem State.setCell_devNum (s : State) (c : Nat) (x : Cell) : (s.setCell c x).devNum = s.devNum := rfl
@[simp] theorem State.setCell_ns (s : State) (c : Nat) (x : Cell) : (s.setCell c x).ns = s.ns := rfl
@[simp] theorem State.setCell_mem (s : State) (c : Nat) (x : Cell) : (s.setCell c x).mem = s.mem := rfl
@[simp] theorem State.setCell_poison (s : State) (c : Nat) (x : Cell) : (s.setCell c x).poison = s.poison := rfl
@[simp] theorem State.setCell_upsets (s : State) (c : Nat) (x : Cell) : (s.setCell c x).upsets = s.upsets := rfl
@[simp] theorem State.setCell_acts (s : State) (c : Nat) (x : Cell) : (s.setCell c x).acts = s.acts := rfl
@[simp] theorem State.setCell_progs (s : State) (c : Nat) (x : Cell) : (s.setCell c x).progs = s.progs := rfl
@[simp] theorem State.setCell_copies (s : State) (c : Nat) (x : Cell) : (s.setCell c x).copies = s.copies := rfl
@[simp] theorem State.setCell_markers (s : State) (c : Nat) (x : Cell) : (s.setCell c x).markers = s.markers := rfl
@[simp] theorem State.setCell_flights (s : State) (c : Nat) (x : Cell) : (s.setCell c x).flights = s.flights := rfl
@[simp] theorem State.setCell_msgs (s : State) (c : Nat) (x : Cell) : (s.setCell c x).msgs = s.msgs := rfl
@[simp] theorem State.setCell_ctls (s : State) (c : Nat) (x : Cell) : (s.setCell c x).ctls = s.ctls := rfl
@[simp] theorem State.setCell_asks (s : State) (c : Nat) (x : Cell) : (s.setCell c x).asks = s.asks := rfl
@[simp] theorem State.setCell_credits (s : State) (c : Nat) (x : Cell) : (s.setCell c x).credits = s.credits := rfl
@[simp] theorem State.setCell_wakes (s : State) (c : Nat) (x : Cell) : (s.setCell c x).wakes = s.wakes := rfl
@[simp] theorem State.setCell_arrivals (s : State) (c : Nat) (x : Cell) : (s.setCell c x).arrivals = s.arrivals := rfl
@[simp] theorem State.setCell_hubPaths (s : State) (c : Nat) (x : Cell) : (s.setCell c x).hubPaths = s.hubPaths := rfl
@[simp] theorem State.setCell_bells (s : State) (c : Nat) (x : Cell) : (s.setCell c x).bells = s.bells := rfl
@[simp] theorem State.setCell_dues (s : State) (c : Nat) (x : Cell) : (s.setCell c x).dues = s.dues := rfl
@[simp] theorem State.setCell_gangs (s : State) (c : Nat) (x : Cell) : (s.setCell c x).gangs = s.gangs := rfl
@[simp] theorem State.setCell_atomics (s : State) (c : Nat) (x : Cell) : (s.setCell c x).atomics = s.atomics := rfl
@[simp] theorem State.setCell_fields (s : State) (c : Nat) (x : Cell) : (s.setCell c x).fields = s.fields := rfl
@[simp] theorem State.setCell_saved (s : State) (c : Nat) (x : Cell) : (s.setCell c x).saved = s.saved := rfl
@[simp] theorem State.setCell_queues (s : State) (c : Nat) (x : Cell) : (s.setCell c x).queues = s.queues := rfl
@[simp] theorem State.setCell_cps (s : State) (c : Nat) (x : Cell) : (s.setCell c x).cps = s.cps := rfl
@[simp] theorem State.setCell_launches (s : State) (c : Nat) (x : Cell) : (s.setCell c x).launches = s.launches := rfl
@[simp] theorem State.setCell_agents (s : State) (c : Nat) (x : Cell) : (s.setCell c x).agents = s.agents := rfl
@[simp] theorem State.setCell_faults (s : State) (c : Nat) (x : Cell) : (s.setCell c x).faults = s.faults := rfl
@[simp] theorem State.setCell_waits (s : State) (c : Nat) (x : Cell) : (s.setCell c x).waits = s.waits := rfl
@[simp] theorem State.setCell_recovery (s : State) (c : Nat) (x : Cell) : (s.setCell c x).recovery = s.recovery := rfl
@[simp] theorem State.setCell_ports (s : State) (c : Nat) (x : Cell) : (s.setCell c x).ports = s.ports := rfl
@[simp] theorem State.setCell_routes (s : State) (c : Nat) (x : Cell) : (s.setCell c x).routes = s.routes := rfl
@[simp] theorem State.setCell_groups (s : State) (c : Nat) (x : Cell) : (s.setCell c x).groups = s.groups := rfl
@[simp] theorem State.setCell_packets (s : State) (c : Nat) (x : Cell) : (s.setCell c x).packets = s.packets := rfl
@[simp] theorem State.setCell_hubPorts (s : State) (c : Nat) (x : Cell) : (s.setCell c x).hubPorts = s.hubPorts := rfl
@[simp] theorem State.setCell_peers (s : State) (c : Nat) (x : Cell) : (s.setCell c x).peers = s.peers := rfl
@[simp] theorem State.setCell_regions (s : State) (c : Nat) (x : Cell) : (s.setCell c x).regions = s.regions := rfl
@[simp] theorem State.setCell_delivery (s : State) (c : Nat) (x : Cell) : (s.setCell c x).delivery = s.delivery := rfl
@[simp] theorem State.setCell_transfers (s : State) (c : Nat) (x : Cell) : (s.setCell c x).transfers = s.transfers := rfl
@[simp] theorem State.setCell_inbound (s : State) (c : Nat) (x : Cell) : (s.setCell c x).inbound = s.inbound := rfl
@[simp] theorem State.setCell_ether (s : State) (c : Nat) (x : Cell) : (s.setCell c x).ether = s.ether := rfl
@[simp] theorem State.setCell_xportLog (s : State) (c : Nat) (x : Cell) : (s.setCell c x).xportLog = s.xportLog := rfl
@[simp] theorem State.setCell_xportCancels (s : State) (c : Nat) (x : Cell) : (s.setCell c x).xportCancels = s.xportCancels := rfl
@[simp] theorem State.setCell_traces (s : State) (c : Nat) (x : Cell) : (s.setCell c x).traces = s.traces := rfl
@[simp] theorem State.setCell_clusters (s : State) (c : Nat) (x : Cell) : (s.setCell c x).clusters = s.clusters := rfl
@[simp] theorem State.setCell_columns (s : State) (c : Nat) (x : Cell) : (s.setCell c x).columns = s.columns := rfl
@[simp] theorem State.setCell_degraded (s : State) (c : Nat) (x : Cell) : (s.setCell c x).degraded = s.degraded := rfl
@[simp] theorem State.setCell_dieRecs (s : State) (c : Nat) (x : Cell) : (s.setCell c x).dieRecs = s.dieRecs := rfl
@[simp] theorem State.setCell_errLogs (s : State) (c : Nat) (x : Cell) : (s.setCell c x).errLogs = s.errLogs := rfl
@[simp] theorem State.setCell_scrubInt (s : State) (c : Nat) (x : Cell) : (s.setCell c x).scrubInt = s.scrubInt := rfl
@[simp] theorem State.setCell_scrubPos (s : State) (c : Nat) (x : Cell) : (s.setCell c x).scrubPos = s.scrubPos := rfl
@[simp] theorem State.setCell_channels (s : State) (c : Nat) (x : Cell) : (s.setCell c x).channels = s.channels := rfl
@[simp] theorem State.setCell_harts (s : State) (c : Nat) (x : Cell) : (s.setCell c x).harts = s.harts := rfl
@[simp] theorem State.setCell_firmware (s : State) (c : Nat) (x : Cell) : (s.setCell c x).firmware = s.firmware := rfl
@[simp] theorem State.setCell_power (s : State) (c : Nat) (x : Cell) : (s.setCell c x).power = s.power := rfl
@[simp] theorem State.setCell_time (s : State) (c : Nat) (x : Cell) : (s.setCell c x).time = s.time := rfl
@[simp] theorem State.setCell_nextId (s : State) (c : Nat) (x : Cell) : (s.setCell c x).nextId = s.nextId := rfl
@[simp] theorem State.setCell_tick (s : State) (c : Nat) (x : Cell) : (s.setCell c x).tick = s.tick := rfl
@[simp] theorem State.setCell_agenda (s : State) (c : Nat) (x : Cell) : (s.setCell c x).agenda = s.agenda := rfl
@[simp] theorem State.setCell_cur (s : State) (c : Nat) (x : Cell) : (s.setCell c x).cur = s.cur := rfl
@[simp] theorem State.setCell_readout (s : State) (c : Nat) (x : Cell) : (s.setCell c x).readout = s.readout := rfl

@[simp] theorem State.modCell_devNum (s : State) (c : Nat) (f : Cell → Cell) : (s.modCell c f).devNum = s.devNum := rfl
@[simp] theorem State.modCell_ns (s : State) (c : Nat) (f : Cell → Cell) : (s.modCell c f).ns = s.ns := rfl
@[simp] theorem State.modCell_mem (s : State) (c : Nat) (f : Cell → Cell) : (s.modCell c f).mem = s.mem := rfl
@[simp] theorem State.modCell_poison (s : State) (c : Nat) (f : Cell → Cell) : (s.modCell c f).poison = s.poison := rfl
@[simp] theorem State.modCell_upsets (s : State) (c : Nat) (f : Cell → Cell) : (s.modCell c f).upsets = s.upsets := rfl
@[simp] theorem State.modCell_acts (s : State) (c : Nat) (f : Cell → Cell) : (s.modCell c f).acts = s.acts := rfl
@[simp] theorem State.modCell_progs (s : State) (c : Nat) (f : Cell → Cell) : (s.modCell c f).progs = s.progs := rfl
@[simp] theorem State.modCell_copies (s : State) (c : Nat) (f : Cell → Cell) : (s.modCell c f).copies = s.copies := rfl
@[simp] theorem State.modCell_markers (s : State) (c : Nat) (f : Cell → Cell) : (s.modCell c f).markers = s.markers := rfl
@[simp] theorem State.modCell_flights (s : State) (c : Nat) (f : Cell → Cell) : (s.modCell c f).flights = s.flights := rfl
@[simp] theorem State.modCell_msgs (s : State) (c : Nat) (f : Cell → Cell) : (s.modCell c f).msgs = s.msgs := rfl
@[simp] theorem State.modCell_ctls (s : State) (c : Nat) (f : Cell → Cell) : (s.modCell c f).ctls = s.ctls := rfl
@[simp] theorem State.modCell_asks (s : State) (c : Nat) (f : Cell → Cell) : (s.modCell c f).asks = s.asks := rfl
@[simp] theorem State.modCell_credits (s : State) (c : Nat) (f : Cell → Cell) : (s.modCell c f).credits = s.credits := rfl
@[simp] theorem State.modCell_wakes (s : State) (c : Nat) (f : Cell → Cell) : (s.modCell c f).wakes = s.wakes := rfl
@[simp] theorem State.modCell_arrivals (s : State) (c : Nat) (f : Cell → Cell) : (s.modCell c f).arrivals = s.arrivals := rfl
@[simp] theorem State.modCell_hubPaths (s : State) (c : Nat) (f : Cell → Cell) : (s.modCell c f).hubPaths = s.hubPaths := rfl
@[simp] theorem State.modCell_bells (s : State) (c : Nat) (f : Cell → Cell) : (s.modCell c f).bells = s.bells := rfl
@[simp] theorem State.modCell_dues (s : State) (c : Nat) (f : Cell → Cell) : (s.modCell c f).dues = s.dues := rfl
@[simp] theorem State.modCell_gangs (s : State) (c : Nat) (f : Cell → Cell) : (s.modCell c f).gangs = s.gangs := rfl
@[simp] theorem State.modCell_atomics (s : State) (c : Nat) (f : Cell → Cell) : (s.modCell c f).atomics = s.atomics := rfl
@[simp] theorem State.modCell_fields (s : State) (c : Nat) (f : Cell → Cell) : (s.modCell c f).fields = s.fields := rfl
@[simp] theorem State.modCell_saved (s : State) (c : Nat) (f : Cell → Cell) : (s.modCell c f).saved = s.saved := rfl
@[simp] theorem State.modCell_queues (s : State) (c : Nat) (f : Cell → Cell) : (s.modCell c f).queues = s.queues := rfl
@[simp] theorem State.modCell_cps (s : State) (c : Nat) (f : Cell → Cell) : (s.modCell c f).cps = s.cps := rfl
@[simp] theorem State.modCell_launches (s : State) (c : Nat) (f : Cell → Cell) : (s.modCell c f).launches = s.launches := rfl
@[simp] theorem State.modCell_agents (s : State) (c : Nat) (f : Cell → Cell) : (s.modCell c f).agents = s.agents := rfl
@[simp] theorem State.modCell_faults (s : State) (c : Nat) (f : Cell → Cell) : (s.modCell c f).faults = s.faults := rfl
@[simp] theorem State.modCell_waits (s : State) (c : Nat) (f : Cell → Cell) : (s.modCell c f).waits = s.waits := rfl
@[simp] theorem State.modCell_recovery (s : State) (c : Nat) (f : Cell → Cell) : (s.modCell c f).recovery = s.recovery := rfl
@[simp] theorem State.modCell_ports (s : State) (c : Nat) (f : Cell → Cell) : (s.modCell c f).ports = s.ports := rfl
@[simp] theorem State.modCell_routes (s : State) (c : Nat) (f : Cell → Cell) : (s.modCell c f).routes = s.routes := rfl
@[simp] theorem State.modCell_groups (s : State) (c : Nat) (f : Cell → Cell) : (s.modCell c f).groups = s.groups := rfl
@[simp] theorem State.modCell_packets (s : State) (c : Nat) (f : Cell → Cell) : (s.modCell c f).packets = s.packets := rfl
@[simp] theorem State.modCell_hubPorts (s : State) (c : Nat) (f : Cell → Cell) : (s.modCell c f).hubPorts = s.hubPorts := rfl
@[simp] theorem State.modCell_peers (s : State) (c : Nat) (f : Cell → Cell) : (s.modCell c f).peers = s.peers := rfl
@[simp] theorem State.modCell_regions (s : State) (c : Nat) (f : Cell → Cell) : (s.modCell c f).regions = s.regions := rfl
@[simp] theorem State.modCell_delivery (s : State) (c : Nat) (f : Cell → Cell) : (s.modCell c f).delivery = s.delivery := rfl
@[simp] theorem State.modCell_transfers (s : State) (c : Nat) (f : Cell → Cell) : (s.modCell c f).transfers = s.transfers := rfl
@[simp] theorem State.modCell_inbound (s : State) (c : Nat) (f : Cell → Cell) : (s.modCell c f).inbound = s.inbound := rfl
@[simp] theorem State.modCell_ether (s : State) (c : Nat) (f : Cell → Cell) : (s.modCell c f).ether = s.ether := rfl
@[simp] theorem State.modCell_xportLog (s : State) (c : Nat) (f : Cell → Cell) : (s.modCell c f).xportLog = s.xportLog := rfl
@[simp] theorem State.modCell_xportCancels (s : State) (c : Nat) (f : Cell → Cell) : (s.modCell c f).xportCancels = s.xportCancels := rfl
@[simp] theorem State.modCell_traces (s : State) (c : Nat) (f : Cell → Cell) : (s.modCell c f).traces = s.traces := rfl
@[simp] theorem State.modCell_clusters (s : State) (c : Nat) (f : Cell → Cell) : (s.modCell c f).clusters = s.clusters := rfl
@[simp] theorem State.modCell_columns (s : State) (c : Nat) (f : Cell → Cell) : (s.modCell c f).columns = s.columns := rfl
@[simp] theorem State.modCell_degraded (s : State) (c : Nat) (f : Cell → Cell) : (s.modCell c f).degraded = s.degraded := rfl
@[simp] theorem State.modCell_dieRecs (s : State) (c : Nat) (f : Cell → Cell) : (s.modCell c f).dieRecs = s.dieRecs := rfl
@[simp] theorem State.modCell_errLogs (s : State) (c : Nat) (f : Cell → Cell) : (s.modCell c f).errLogs = s.errLogs := rfl
@[simp] theorem State.modCell_scrubInt (s : State) (c : Nat) (f : Cell → Cell) : (s.modCell c f).scrubInt = s.scrubInt := rfl
@[simp] theorem State.modCell_scrubPos (s : State) (c : Nat) (f : Cell → Cell) : (s.modCell c f).scrubPos = s.scrubPos := rfl
@[simp] theorem State.modCell_channels (s : State) (c : Nat) (f : Cell → Cell) : (s.modCell c f).channels = s.channels := rfl
@[simp] theorem State.modCell_harts (s : State) (c : Nat) (f : Cell → Cell) : (s.modCell c f).harts = s.harts := rfl
@[simp] theorem State.modCell_firmware (s : State) (c : Nat) (f : Cell → Cell) : (s.modCell c f).firmware = s.firmware := rfl
@[simp] theorem State.modCell_power (s : State) (c : Nat) (f : Cell → Cell) : (s.modCell c f).power = s.power := rfl
@[simp] theorem State.modCell_time (s : State) (c : Nat) (f : Cell → Cell) : (s.modCell c f).time = s.time := rfl
@[simp] theorem State.modCell_nextId (s : State) (c : Nat) (f : Cell → Cell) : (s.modCell c f).nextId = s.nextId := rfl
@[simp] theorem State.modCell_tick (s : State) (c : Nat) (f : Cell → Cell) : (s.modCell c f).tick = s.tick := rfl
@[simp] theorem State.modCell_agenda (s : State) (c : Nat) (f : Cell → Cell) : (s.modCell c f).agenda = s.agenda := rfl
@[simp] theorem State.modCell_cur (s : State) (c : Nat) (f : Cell → Cell) : (s.modCell c f).cur = s.cur := rfl
@[simp] theorem State.modCell_readout (s : State) (c : Nat) (f : Cell → Cell) : (s.modCell c f).readout = s.readout := rfl

@[simp] theorem State.setFrame_devNum (s : State) (c k : Nat) (f : Frame) : (s.setFrame c k f).devNum = s.devNum := rfl
@[simp] theorem State.setFrame_ns (s : State) (c k : Nat) (f : Frame) : (s.setFrame c k f).ns = s.ns := rfl
@[simp] theorem State.setFrame_mem (s : State) (c k : Nat) (f : Frame) : (s.setFrame c k f).mem = s.mem := rfl
@[simp] theorem State.setFrame_poison (s : State) (c k : Nat) (f : Frame) : (s.setFrame c k f).poison = s.poison := rfl
@[simp] theorem State.setFrame_upsets (s : State) (c k : Nat) (f : Frame) : (s.setFrame c k f).upsets = s.upsets := rfl
@[simp] theorem State.setFrame_acts (s : State) (c k : Nat) (f : Frame) : (s.setFrame c k f).acts = s.acts := rfl
@[simp] theorem State.setFrame_progs (s : State) (c k : Nat) (f : Frame) : (s.setFrame c k f).progs = s.progs := rfl
@[simp] theorem State.setFrame_copies (s : State) (c k : Nat) (f : Frame) : (s.setFrame c k f).copies = s.copies := rfl
@[simp] theorem State.setFrame_markers (s : State) (c k : Nat) (f : Frame) : (s.setFrame c k f).markers = s.markers := rfl
@[simp] theorem State.setFrame_flights (s : State) (c k : Nat) (f : Frame) : (s.setFrame c k f).flights = s.flights := rfl
@[simp] theorem State.setFrame_msgs (s : State) (c k : Nat) (f : Frame) : (s.setFrame c k f).msgs = s.msgs := rfl
@[simp] theorem State.setFrame_ctls (s : State) (c k : Nat) (f : Frame) : (s.setFrame c k f).ctls = s.ctls := rfl
@[simp] theorem State.setFrame_asks (s : State) (c k : Nat) (f : Frame) : (s.setFrame c k f).asks = s.asks := rfl
@[simp] theorem State.setFrame_credits (s : State) (c k : Nat) (f : Frame) : (s.setFrame c k f).credits = s.credits := rfl
@[simp] theorem State.setFrame_wakes (s : State) (c k : Nat) (f : Frame) : (s.setFrame c k f).wakes = s.wakes := rfl
@[simp] theorem State.setFrame_arrivals (s : State) (c k : Nat) (f : Frame) : (s.setFrame c k f).arrivals = s.arrivals := rfl
@[simp] theorem State.setFrame_hubPaths (s : State) (c k : Nat) (f : Frame) : (s.setFrame c k f).hubPaths = s.hubPaths := rfl
@[simp] theorem State.setFrame_bells (s : State) (c k : Nat) (f : Frame) : (s.setFrame c k f).bells = s.bells := rfl
@[simp] theorem State.setFrame_dues (s : State) (c k : Nat) (f : Frame) : (s.setFrame c k f).dues = s.dues := rfl
@[simp] theorem State.setFrame_gangs (s : State) (c k : Nat) (f : Frame) : (s.setFrame c k f).gangs = s.gangs := rfl
@[simp] theorem State.setFrame_atomics (s : State) (c k : Nat) (f : Frame) : (s.setFrame c k f).atomics = s.atomics := rfl
@[simp] theorem State.setFrame_fields (s : State) (c k : Nat) (f : Frame) : (s.setFrame c k f).fields = s.fields := rfl
@[simp] theorem State.setFrame_saved (s : State) (c k : Nat) (f : Frame) : (s.setFrame c k f).saved = s.saved := rfl
@[simp] theorem State.setFrame_queues (s : State) (c k : Nat) (f : Frame) : (s.setFrame c k f).queues = s.queues := rfl
@[simp] theorem State.setFrame_cps (s : State) (c k : Nat) (f : Frame) : (s.setFrame c k f).cps = s.cps := rfl
@[simp] theorem State.setFrame_launches (s : State) (c k : Nat) (f : Frame) : (s.setFrame c k f).launches = s.launches := rfl
@[simp] theorem State.setFrame_agents (s : State) (c k : Nat) (f : Frame) : (s.setFrame c k f).agents = s.agents := rfl
@[simp] theorem State.setFrame_faults (s : State) (c k : Nat) (f : Frame) : (s.setFrame c k f).faults = s.faults := rfl
@[simp] theorem State.setFrame_waits (s : State) (c k : Nat) (f : Frame) : (s.setFrame c k f).waits = s.waits := rfl
@[simp] theorem State.setFrame_recovery (s : State) (c k : Nat) (f : Frame) : (s.setFrame c k f).recovery = s.recovery := rfl
@[simp] theorem State.setFrame_ports (s : State) (c k : Nat) (f : Frame) : (s.setFrame c k f).ports = s.ports := rfl
@[simp] theorem State.setFrame_routes (s : State) (c k : Nat) (f : Frame) : (s.setFrame c k f).routes = s.routes := rfl
@[simp] theorem State.setFrame_groups (s : State) (c k : Nat) (f : Frame) : (s.setFrame c k f).groups = s.groups := rfl
@[simp] theorem State.setFrame_packets (s : State) (c k : Nat) (f : Frame) : (s.setFrame c k f).packets = s.packets := rfl
@[simp] theorem State.setFrame_hubPorts (s : State) (c k : Nat) (f : Frame) : (s.setFrame c k f).hubPorts = s.hubPorts := rfl
@[simp] theorem State.setFrame_peers (s : State) (c k : Nat) (f : Frame) : (s.setFrame c k f).peers = s.peers := rfl
@[simp] theorem State.setFrame_regions (s : State) (c k : Nat) (f : Frame) : (s.setFrame c k f).regions = s.regions := rfl
@[simp] theorem State.setFrame_delivery (s : State) (c k : Nat) (f : Frame) : (s.setFrame c k f).delivery = s.delivery := rfl
@[simp] theorem State.setFrame_transfers (s : State) (c k : Nat) (f : Frame) : (s.setFrame c k f).transfers = s.transfers := rfl
@[simp] theorem State.setFrame_inbound (s : State) (c k : Nat) (f : Frame) : (s.setFrame c k f).inbound = s.inbound := rfl
@[simp] theorem State.setFrame_ether (s : State) (c k : Nat) (f : Frame) : (s.setFrame c k f).ether = s.ether := rfl
@[simp] theorem State.setFrame_xportLog (s : State) (c k : Nat) (f : Frame) : (s.setFrame c k f).xportLog = s.xportLog := rfl
@[simp] theorem State.setFrame_xportCancels (s : State) (c k : Nat) (f : Frame) : (s.setFrame c k f).xportCancels = s.xportCancels := rfl
@[simp] theorem State.setFrame_traces (s : State) (c k : Nat) (f : Frame) : (s.setFrame c k f).traces = s.traces := rfl
@[simp] theorem State.setFrame_clusters (s : State) (c k : Nat) (f : Frame) : (s.setFrame c k f).clusters = s.clusters := rfl
@[simp] theorem State.setFrame_columns (s : State) (c k : Nat) (f : Frame) : (s.setFrame c k f).columns = s.columns := rfl
@[simp] theorem State.setFrame_degraded (s : State) (c k : Nat) (f : Frame) : (s.setFrame c k f).degraded = s.degraded := rfl
@[simp] theorem State.setFrame_dieRecs (s : State) (c k : Nat) (f : Frame) : (s.setFrame c k f).dieRecs = s.dieRecs := rfl
@[simp] theorem State.setFrame_errLogs (s : State) (c k : Nat) (f : Frame) : (s.setFrame c k f).errLogs = s.errLogs := rfl
@[simp] theorem State.setFrame_scrubInt (s : State) (c k : Nat) (f : Frame) : (s.setFrame c k f).scrubInt = s.scrubInt := rfl
@[simp] theorem State.setFrame_scrubPos (s : State) (c k : Nat) (f : Frame) : (s.setFrame c k f).scrubPos = s.scrubPos := rfl
@[simp] theorem State.setFrame_channels (s : State) (c k : Nat) (f : Frame) : (s.setFrame c k f).channels = s.channels := rfl
@[simp] theorem State.setFrame_harts (s : State) (c k : Nat) (f : Frame) : (s.setFrame c k f).harts = s.harts := rfl
@[simp] theorem State.setFrame_firmware (s : State) (c k : Nat) (f : Frame) : (s.setFrame c k f).firmware = s.firmware := rfl
@[simp] theorem State.setFrame_power (s : State) (c k : Nat) (f : Frame) : (s.setFrame c k f).power = s.power := rfl
@[simp] theorem State.setFrame_time (s : State) (c k : Nat) (f : Frame) : (s.setFrame c k f).time = s.time := rfl
@[simp] theorem State.setFrame_nextId (s : State) (c k : Nat) (f : Frame) : (s.setFrame c k f).nextId = s.nextId := rfl
@[simp] theorem State.setFrame_tick (s : State) (c k : Nat) (f : Frame) : (s.setFrame c k f).tick = s.tick := rfl
@[simp] theorem State.setFrame_agenda (s : State) (c k : Nat) (f : Frame) : (s.setFrame c k f).agenda = s.agenda := rfl
@[simp] theorem State.setFrame_cur (s : State) (c k : Nat) (f : Frame) : (s.setFrame c k f).cur = s.cur := rfl
@[simp] theorem State.setFrame_readout (s : State) (c k : Nat) (f : Frame) : (s.setFrame c k f).readout = s.readout := rfl

@[simp] theorem State.modFrame_devNum (s : State) (c k : Nat) (f : Frame → Frame) : (s.modFrame c k f).devNum = s.devNum := rfl
@[simp] theorem State.modFrame_ns (s : State) (c k : Nat) (f : Frame → Frame) : (s.modFrame c k f).ns = s.ns := rfl
@[simp] theorem State.modFrame_mem (s : State) (c k : Nat) (f : Frame → Frame) : (s.modFrame c k f).mem = s.mem := rfl
@[simp] theorem State.modFrame_poison (s : State) (c k : Nat) (f : Frame → Frame) : (s.modFrame c k f).poison = s.poison := rfl
@[simp] theorem State.modFrame_upsets (s : State) (c k : Nat) (f : Frame → Frame) : (s.modFrame c k f).upsets = s.upsets := rfl
@[simp] theorem State.modFrame_acts (s : State) (c k : Nat) (f : Frame → Frame) : (s.modFrame c k f).acts = s.acts := rfl
@[simp] theorem State.modFrame_progs (s : State) (c k : Nat) (f : Frame → Frame) : (s.modFrame c k f).progs = s.progs := rfl
@[simp] theorem State.modFrame_copies (s : State) (c k : Nat) (f : Frame → Frame) : (s.modFrame c k f).copies = s.copies := rfl
@[simp] theorem State.modFrame_markers (s : State) (c k : Nat) (f : Frame → Frame) : (s.modFrame c k f).markers = s.markers := rfl
@[simp] theorem State.modFrame_flights (s : State) (c k : Nat) (f : Frame → Frame) : (s.modFrame c k f).flights = s.flights := rfl
@[simp] theorem State.modFrame_msgs (s : State) (c k : Nat) (f : Frame → Frame) : (s.modFrame c k f).msgs = s.msgs := rfl
@[simp] theorem State.modFrame_ctls (s : State) (c k : Nat) (f : Frame → Frame) : (s.modFrame c k f).ctls = s.ctls := rfl
@[simp] theorem State.modFrame_asks (s : State) (c k : Nat) (f : Frame → Frame) : (s.modFrame c k f).asks = s.asks := rfl
@[simp] theorem State.modFrame_credits (s : State) (c k : Nat) (f : Frame → Frame) : (s.modFrame c k f).credits = s.credits := rfl
@[simp] theorem State.modFrame_wakes (s : State) (c k : Nat) (f : Frame → Frame) : (s.modFrame c k f).wakes = s.wakes := rfl
@[simp] theorem State.modFrame_arrivals (s : State) (c k : Nat) (f : Frame → Frame) : (s.modFrame c k f).arrivals = s.arrivals := rfl
@[simp] theorem State.modFrame_hubPaths (s : State) (c k : Nat) (f : Frame → Frame) : (s.modFrame c k f).hubPaths = s.hubPaths := rfl
@[simp] theorem State.modFrame_bells (s : State) (c k : Nat) (f : Frame → Frame) : (s.modFrame c k f).bells = s.bells := rfl
@[simp] theorem State.modFrame_dues (s : State) (c k : Nat) (f : Frame → Frame) : (s.modFrame c k f).dues = s.dues := rfl
@[simp] theorem State.modFrame_gangs (s : State) (c k : Nat) (f : Frame → Frame) : (s.modFrame c k f).gangs = s.gangs := rfl
@[simp] theorem State.modFrame_atomics (s : State) (c k : Nat) (f : Frame → Frame) : (s.modFrame c k f).atomics = s.atomics := rfl
@[simp] theorem State.modFrame_fields (s : State) (c k : Nat) (f : Frame → Frame) : (s.modFrame c k f).fields = s.fields := rfl
@[simp] theorem State.modFrame_saved (s : State) (c k : Nat) (f : Frame → Frame) : (s.modFrame c k f).saved = s.saved := rfl
@[simp] theorem State.modFrame_queues (s : State) (c k : Nat) (f : Frame → Frame) : (s.modFrame c k f).queues = s.queues := rfl
@[simp] theorem State.modFrame_cps (s : State) (c k : Nat) (f : Frame → Frame) : (s.modFrame c k f).cps = s.cps := rfl
@[simp] theorem State.modFrame_launches (s : State) (c k : Nat) (f : Frame → Frame) : (s.modFrame c k f).launches = s.launches := rfl
@[simp] theorem State.modFrame_agents (s : State) (c k : Nat) (f : Frame → Frame) : (s.modFrame c k f).agents = s.agents := rfl
@[simp] theorem State.modFrame_faults (s : State) (c k : Nat) (f : Frame → Frame) : (s.modFrame c k f).faults = s.faults := rfl
@[simp] theorem State.modFrame_waits (s : State) (c k : Nat) (f : Frame → Frame) : (s.modFrame c k f).waits = s.waits := rfl
@[simp] theorem State.modFrame_recovery (s : State) (c k : Nat) (f : Frame → Frame) : (s.modFrame c k f).recovery = s.recovery := rfl
@[simp] theorem State.modFrame_ports (s : State) (c k : Nat) (f : Frame → Frame) : (s.modFrame c k f).ports = s.ports := rfl
@[simp] theorem State.modFrame_routes (s : State) (c k : Nat) (f : Frame → Frame) : (s.modFrame c k f).routes = s.routes := rfl
@[simp] theorem State.modFrame_groups (s : State) (c k : Nat) (f : Frame → Frame) : (s.modFrame c k f).groups = s.groups := rfl
@[simp] theorem State.modFrame_packets (s : State) (c k : Nat) (f : Frame → Frame) : (s.modFrame c k f).packets = s.packets := rfl
@[simp] theorem State.modFrame_hubPorts (s : State) (c k : Nat) (f : Frame → Frame) : (s.modFrame c k f).hubPorts = s.hubPorts := rfl
@[simp] theorem State.modFrame_peers (s : State) (c k : Nat) (f : Frame → Frame) : (s.modFrame c k f).peers = s.peers := rfl
@[simp] theorem State.modFrame_regions (s : State) (c k : Nat) (f : Frame → Frame) : (s.modFrame c k f).regions = s.regions := rfl
@[simp] theorem State.modFrame_delivery (s : State) (c k : Nat) (f : Frame → Frame) : (s.modFrame c k f).delivery = s.delivery := rfl
@[simp] theorem State.modFrame_transfers (s : State) (c k : Nat) (f : Frame → Frame) : (s.modFrame c k f).transfers = s.transfers := rfl
@[simp] theorem State.modFrame_inbound (s : State) (c k : Nat) (f : Frame → Frame) : (s.modFrame c k f).inbound = s.inbound := rfl
@[simp] theorem State.modFrame_ether (s : State) (c k : Nat) (f : Frame → Frame) : (s.modFrame c k f).ether = s.ether := rfl
@[simp] theorem State.modFrame_xportLog (s : State) (c k : Nat) (f : Frame → Frame) : (s.modFrame c k f).xportLog = s.xportLog := rfl
@[simp] theorem State.modFrame_xportCancels (s : State) (c k : Nat) (f : Frame → Frame) : (s.modFrame c k f).xportCancels = s.xportCancels := rfl
@[simp] theorem State.modFrame_traces (s : State) (c k : Nat) (f : Frame → Frame) : (s.modFrame c k f).traces = s.traces := rfl
@[simp] theorem State.modFrame_clusters (s : State) (c k : Nat) (f : Frame → Frame) : (s.modFrame c k f).clusters = s.clusters := rfl
@[simp] theorem State.modFrame_columns (s : State) (c k : Nat) (f : Frame → Frame) : (s.modFrame c k f).columns = s.columns := rfl
@[simp] theorem State.modFrame_degraded (s : State) (c k : Nat) (f : Frame → Frame) : (s.modFrame c k f).degraded = s.degraded := rfl
@[simp] theorem State.modFrame_dieRecs (s : State) (c k : Nat) (f : Frame → Frame) : (s.modFrame c k f).dieRecs = s.dieRecs := rfl
@[simp] theorem State.modFrame_errLogs (s : State) (c k : Nat) (f : Frame → Frame) : (s.modFrame c k f).errLogs = s.errLogs := rfl
@[simp] theorem State.modFrame_scrubInt (s : State) (c k : Nat) (f : Frame → Frame) : (s.modFrame c k f).scrubInt = s.scrubInt := rfl
@[simp] theorem State.modFrame_scrubPos (s : State) (c k : Nat) (f : Frame → Frame) : (s.modFrame c k f).scrubPos = s.scrubPos := rfl
@[simp] theorem State.modFrame_channels (s : State) (c k : Nat) (f : Frame → Frame) : (s.modFrame c k f).channels = s.channels := rfl
@[simp] theorem State.modFrame_harts (s : State) (c k : Nat) (f : Frame → Frame) : (s.modFrame c k f).harts = s.harts := rfl
@[simp] theorem State.modFrame_firmware (s : State) (c k : Nat) (f : Frame → Frame) : (s.modFrame c k f).firmware = s.firmware := rfl
@[simp] theorem State.modFrame_power (s : State) (c k : Nat) (f : Frame → Frame) : (s.modFrame c k f).power = s.power := rfl
@[simp] theorem State.modFrame_time (s : State) (c k : Nat) (f : Frame → Frame) : (s.modFrame c k f).time = s.time := rfl
@[simp] theorem State.modFrame_nextId (s : State) (c k : Nat) (f : Frame → Frame) : (s.modFrame c k f).nextId = s.nextId := rfl
@[simp] theorem State.modFrame_tick (s : State) (c k : Nat) (f : Frame → Frame) : (s.modFrame c k f).tick = s.tick := rfl
@[simp] theorem State.modFrame_agenda (s : State) (c k : Nat) (f : Frame → Frame) : (s.modFrame c k f).agenda = s.agenda := rfl
@[simp] theorem State.modFrame_cur (s : State) (c k : Nat) (f : Frame → Frame) : (s.modFrame c k f).cur = s.cur := rfl
@[simp] theorem State.modFrame_readout (s : State) (c k : Nat) (f : Frame → Frame) : (s.modFrame c k f).readout = s.readout := rfl

@[simp] theorem State.modFr_devNum (s : State) (c : Ctx) (f : Frame → Frame) : (s.modFr c f).devNum = s.devNum := rfl
@[simp] theorem State.modFr_ns (s : State) (c : Ctx) (f : Frame → Frame) : (s.modFr c f).ns = s.ns := rfl
@[simp] theorem State.modFr_mem (s : State) (c : Ctx) (f : Frame → Frame) : (s.modFr c f).mem = s.mem := rfl
@[simp] theorem State.modFr_poison (s : State) (c : Ctx) (f : Frame → Frame) : (s.modFr c f).poison = s.poison := rfl
@[simp] theorem State.modFr_upsets (s : State) (c : Ctx) (f : Frame → Frame) : (s.modFr c f).upsets = s.upsets := rfl
@[simp] theorem State.modFr_acts (s : State) (c : Ctx) (f : Frame → Frame) : (s.modFr c f).acts = s.acts := rfl
@[simp] theorem State.modFr_progs (s : State) (c : Ctx) (f : Frame → Frame) : (s.modFr c f).progs = s.progs := rfl
@[simp] theorem State.modFr_copies (s : State) (c : Ctx) (f : Frame → Frame) : (s.modFr c f).copies = s.copies := rfl
@[simp] theorem State.modFr_markers (s : State) (c : Ctx) (f : Frame → Frame) : (s.modFr c f).markers = s.markers := rfl
@[simp] theorem State.modFr_flights (s : State) (c : Ctx) (f : Frame → Frame) : (s.modFr c f).flights = s.flights := rfl
@[simp] theorem State.modFr_msgs (s : State) (c : Ctx) (f : Frame → Frame) : (s.modFr c f).msgs = s.msgs := rfl
@[simp] theorem State.modFr_ctls (s : State) (c : Ctx) (f : Frame → Frame) : (s.modFr c f).ctls = s.ctls := rfl
@[simp] theorem State.modFr_asks (s : State) (c : Ctx) (f : Frame → Frame) : (s.modFr c f).asks = s.asks := rfl
@[simp] theorem State.modFr_credits (s : State) (c : Ctx) (f : Frame → Frame) : (s.modFr c f).credits = s.credits := rfl
@[simp] theorem State.modFr_wakes (s : State) (c : Ctx) (f : Frame → Frame) : (s.modFr c f).wakes = s.wakes := rfl
@[simp] theorem State.modFr_arrivals (s : State) (c : Ctx) (f : Frame → Frame) : (s.modFr c f).arrivals = s.arrivals := rfl
@[simp] theorem State.modFr_hubPaths (s : State) (c : Ctx) (f : Frame → Frame) : (s.modFr c f).hubPaths = s.hubPaths := rfl
@[simp] theorem State.modFr_bells (s : State) (c : Ctx) (f : Frame → Frame) : (s.modFr c f).bells = s.bells := rfl
@[simp] theorem State.modFr_dues (s : State) (c : Ctx) (f : Frame → Frame) : (s.modFr c f).dues = s.dues := rfl
@[simp] theorem State.modFr_gangs (s : State) (c : Ctx) (f : Frame → Frame) : (s.modFr c f).gangs = s.gangs := rfl
@[simp] theorem State.modFr_atomics (s : State) (c : Ctx) (f : Frame → Frame) : (s.modFr c f).atomics = s.atomics := rfl
@[simp] theorem State.modFr_fields (s : State) (c : Ctx) (f : Frame → Frame) : (s.modFr c f).fields = s.fields := rfl
@[simp] theorem State.modFr_saved (s : State) (c : Ctx) (f : Frame → Frame) : (s.modFr c f).saved = s.saved := rfl
@[simp] theorem State.modFr_queues (s : State) (c : Ctx) (f : Frame → Frame) : (s.modFr c f).queues = s.queues := rfl
@[simp] theorem State.modFr_cps (s : State) (c : Ctx) (f : Frame → Frame) : (s.modFr c f).cps = s.cps := rfl
@[simp] theorem State.modFr_launches (s : State) (c : Ctx) (f : Frame → Frame) : (s.modFr c f).launches = s.launches := rfl
@[simp] theorem State.modFr_agents (s : State) (c : Ctx) (f : Frame → Frame) : (s.modFr c f).agents = s.agents := rfl
@[simp] theorem State.modFr_faults (s : State) (c : Ctx) (f : Frame → Frame) : (s.modFr c f).faults = s.faults := rfl
@[simp] theorem State.modFr_waits (s : State) (c : Ctx) (f : Frame → Frame) : (s.modFr c f).waits = s.waits := rfl
@[simp] theorem State.modFr_recovery (s : State) (c : Ctx) (f : Frame → Frame) : (s.modFr c f).recovery = s.recovery := rfl
@[simp] theorem State.modFr_ports (s : State) (c : Ctx) (f : Frame → Frame) : (s.modFr c f).ports = s.ports := rfl
@[simp] theorem State.modFr_routes (s : State) (c : Ctx) (f : Frame → Frame) : (s.modFr c f).routes = s.routes := rfl
@[simp] theorem State.modFr_groups (s : State) (c : Ctx) (f : Frame → Frame) : (s.modFr c f).groups = s.groups := rfl
@[simp] theorem State.modFr_packets (s : State) (c : Ctx) (f : Frame → Frame) : (s.modFr c f).packets = s.packets := rfl
@[simp] theorem State.modFr_hubPorts (s : State) (c : Ctx) (f : Frame → Frame) : (s.modFr c f).hubPorts = s.hubPorts := rfl
@[simp] theorem State.modFr_peers (s : State) (c : Ctx) (f : Frame → Frame) : (s.modFr c f).peers = s.peers := rfl
@[simp] theorem State.modFr_regions (s : State) (c : Ctx) (f : Frame → Frame) : (s.modFr c f).regions = s.regions := rfl
@[simp] theorem State.modFr_delivery (s : State) (c : Ctx) (f : Frame → Frame) : (s.modFr c f).delivery = s.delivery := rfl
@[simp] theorem State.modFr_transfers (s : State) (c : Ctx) (f : Frame → Frame) : (s.modFr c f).transfers = s.transfers := rfl
@[simp] theorem State.modFr_inbound (s : State) (c : Ctx) (f : Frame → Frame) : (s.modFr c f).inbound = s.inbound := rfl
@[simp] theorem State.modFr_ether (s : State) (c : Ctx) (f : Frame → Frame) : (s.modFr c f).ether = s.ether := rfl
@[simp] theorem State.modFr_xportLog (s : State) (c : Ctx) (f : Frame → Frame) : (s.modFr c f).xportLog = s.xportLog := rfl
@[simp] theorem State.modFr_xportCancels (s : State) (c : Ctx) (f : Frame → Frame) : (s.modFr c f).xportCancels = s.xportCancels := rfl
@[simp] theorem State.modFr_traces (s : State) (c : Ctx) (f : Frame → Frame) : (s.modFr c f).traces = s.traces := rfl
@[simp] theorem State.modFr_clusters (s : State) (c : Ctx) (f : Frame → Frame) : (s.modFr c f).clusters = s.clusters := rfl
@[simp] theorem State.modFr_columns (s : State) (c : Ctx) (f : Frame → Frame) : (s.modFr c f).columns = s.columns := rfl
@[simp] theorem State.modFr_degraded (s : State) (c : Ctx) (f : Frame → Frame) : (s.modFr c f).degraded = s.degraded := rfl
@[simp] theorem State.modFr_dieRecs (s : State) (c : Ctx) (f : Frame → Frame) : (s.modFr c f).dieRecs = s.dieRecs := rfl
@[simp] theorem State.modFr_errLogs (s : State) (c : Ctx) (f : Frame → Frame) : (s.modFr c f).errLogs = s.errLogs := rfl
@[simp] theorem State.modFr_scrubInt (s : State) (c : Ctx) (f : Frame → Frame) : (s.modFr c f).scrubInt = s.scrubInt := rfl
@[simp] theorem State.modFr_scrubPos (s : State) (c : Ctx) (f : Frame → Frame) : (s.modFr c f).scrubPos = s.scrubPos := rfl
@[simp] theorem State.modFr_channels (s : State) (c : Ctx) (f : Frame → Frame) : (s.modFr c f).channels = s.channels := rfl
@[simp] theorem State.modFr_harts (s : State) (c : Ctx) (f : Frame → Frame) : (s.modFr c f).harts = s.harts := rfl
@[simp] theorem State.modFr_firmware (s : State) (c : Ctx) (f : Frame → Frame) : (s.modFr c f).firmware = s.firmware := rfl
@[simp] theorem State.modFr_power (s : State) (c : Ctx) (f : Frame → Frame) : (s.modFr c f).power = s.power := rfl
@[simp] theorem State.modFr_time (s : State) (c : Ctx) (f : Frame → Frame) : (s.modFr c f).time = s.time := rfl
@[simp] theorem State.modFr_nextId (s : State) (c : Ctx) (f : Frame → Frame) : (s.modFr c f).nextId = s.nextId := rfl
@[simp] theorem State.modFr_tick (s : State) (c : Ctx) (f : Frame → Frame) : (s.modFr c f).tick = s.tick := rfl
@[simp] theorem State.modFr_agenda (s : State) (c : Ctx) (f : Frame → Frame) : (s.modFr c f).agenda = s.agenda := rfl
@[simp] theorem State.modFr_cur (s : State) (c : Ctx) (f : Frame → Frame) : (s.modFr c f).cur = s.cur := rfl
@[simp] theorem State.modFr_readout (s : State) (c : Ctx) (f : Frame → Frame) : (s.modFr c f).readout = s.readout := rfl

@[simp] theorem State.modEngine_devNum (s : State) (c : Nat) (u : EngineUnit) (f : Engine → Engine) : (s.modEngine c u f).devNum = s.devNum := rfl
@[simp] theorem State.modEngine_ns (s : State) (c : Nat) (u : EngineUnit) (f : Engine → Engine) : (s.modEngine c u f).ns = s.ns := rfl
@[simp] theorem State.modEngine_mem (s : State) (c : Nat) (u : EngineUnit) (f : Engine → Engine) : (s.modEngine c u f).mem = s.mem := rfl
@[simp] theorem State.modEngine_poison (s : State) (c : Nat) (u : EngineUnit) (f : Engine → Engine) : (s.modEngine c u f).poison = s.poison := rfl
@[simp] theorem State.modEngine_upsets (s : State) (c : Nat) (u : EngineUnit) (f : Engine → Engine) : (s.modEngine c u f).upsets = s.upsets := rfl
@[simp] theorem State.modEngine_acts (s : State) (c : Nat) (u : EngineUnit) (f : Engine → Engine) : (s.modEngine c u f).acts = s.acts := rfl
@[simp] theorem State.modEngine_progs (s : State) (c : Nat) (u : EngineUnit) (f : Engine → Engine) : (s.modEngine c u f).progs = s.progs := rfl
@[simp] theorem State.modEngine_copies (s : State) (c : Nat) (u : EngineUnit) (f : Engine → Engine) : (s.modEngine c u f).copies = s.copies := rfl
@[simp] theorem State.modEngine_markers (s : State) (c : Nat) (u : EngineUnit) (f : Engine → Engine) : (s.modEngine c u f).markers = s.markers := rfl
@[simp] theorem State.modEngine_flights (s : State) (c : Nat) (u : EngineUnit) (f : Engine → Engine) : (s.modEngine c u f).flights = s.flights := rfl
@[simp] theorem State.modEngine_msgs (s : State) (c : Nat) (u : EngineUnit) (f : Engine → Engine) : (s.modEngine c u f).msgs = s.msgs := rfl
@[simp] theorem State.modEngine_ctls (s : State) (c : Nat) (u : EngineUnit) (f : Engine → Engine) : (s.modEngine c u f).ctls = s.ctls := rfl
@[simp] theorem State.modEngine_asks (s : State) (c : Nat) (u : EngineUnit) (f : Engine → Engine) : (s.modEngine c u f).asks = s.asks := rfl
@[simp] theorem State.modEngine_credits (s : State) (c : Nat) (u : EngineUnit) (f : Engine → Engine) : (s.modEngine c u f).credits = s.credits := rfl
@[simp] theorem State.modEngine_wakes (s : State) (c : Nat) (u : EngineUnit) (f : Engine → Engine) : (s.modEngine c u f).wakes = s.wakes := rfl
@[simp] theorem State.modEngine_arrivals (s : State) (c : Nat) (u : EngineUnit) (f : Engine → Engine) : (s.modEngine c u f).arrivals = s.arrivals := rfl
@[simp] theorem State.modEngine_hubPaths (s : State) (c : Nat) (u : EngineUnit) (f : Engine → Engine) : (s.modEngine c u f).hubPaths = s.hubPaths := rfl
@[simp] theorem State.modEngine_bells (s : State) (c : Nat) (u : EngineUnit) (f : Engine → Engine) : (s.modEngine c u f).bells = s.bells := rfl
@[simp] theorem State.modEngine_dues (s : State) (c : Nat) (u : EngineUnit) (f : Engine → Engine) : (s.modEngine c u f).dues = s.dues := rfl
@[simp] theorem State.modEngine_gangs (s : State) (c : Nat) (u : EngineUnit) (f : Engine → Engine) : (s.modEngine c u f).gangs = s.gangs := rfl
@[simp] theorem State.modEngine_atomics (s : State) (c : Nat) (u : EngineUnit) (f : Engine → Engine) : (s.modEngine c u f).atomics = s.atomics := rfl
@[simp] theorem State.modEngine_fields (s : State) (c : Nat) (u : EngineUnit) (f : Engine → Engine) : (s.modEngine c u f).fields = s.fields := rfl
@[simp] theorem State.modEngine_saved (s : State) (c : Nat) (u : EngineUnit) (f : Engine → Engine) : (s.modEngine c u f).saved = s.saved := rfl
@[simp] theorem State.modEngine_queues (s : State) (c : Nat) (u : EngineUnit) (f : Engine → Engine) : (s.modEngine c u f).queues = s.queues := rfl
@[simp] theorem State.modEngine_cps (s : State) (c : Nat) (u : EngineUnit) (f : Engine → Engine) : (s.modEngine c u f).cps = s.cps := rfl
@[simp] theorem State.modEngine_launches (s : State) (c : Nat) (u : EngineUnit) (f : Engine → Engine) : (s.modEngine c u f).launches = s.launches := rfl
@[simp] theorem State.modEngine_agents (s : State) (c : Nat) (u : EngineUnit) (f : Engine → Engine) : (s.modEngine c u f).agents = s.agents := rfl
@[simp] theorem State.modEngine_faults (s : State) (c : Nat) (u : EngineUnit) (f : Engine → Engine) : (s.modEngine c u f).faults = s.faults := rfl
@[simp] theorem State.modEngine_waits (s : State) (c : Nat) (u : EngineUnit) (f : Engine → Engine) : (s.modEngine c u f).waits = s.waits := rfl
@[simp] theorem State.modEngine_recovery (s : State) (c : Nat) (u : EngineUnit) (f : Engine → Engine) : (s.modEngine c u f).recovery = s.recovery := rfl
@[simp] theorem State.modEngine_ports (s : State) (c : Nat) (u : EngineUnit) (f : Engine → Engine) : (s.modEngine c u f).ports = s.ports := rfl
@[simp] theorem State.modEngine_routes (s : State) (c : Nat) (u : EngineUnit) (f : Engine → Engine) : (s.modEngine c u f).routes = s.routes := rfl
@[simp] theorem State.modEngine_groups (s : State) (c : Nat) (u : EngineUnit) (f : Engine → Engine) : (s.modEngine c u f).groups = s.groups := rfl
@[simp] theorem State.modEngine_packets (s : State) (c : Nat) (u : EngineUnit) (f : Engine → Engine) : (s.modEngine c u f).packets = s.packets := rfl
@[simp] theorem State.modEngine_hubPorts (s : State) (c : Nat) (u : EngineUnit) (f : Engine → Engine) : (s.modEngine c u f).hubPorts = s.hubPorts := rfl
@[simp] theorem State.modEngine_peers (s : State) (c : Nat) (u : EngineUnit) (f : Engine → Engine) : (s.modEngine c u f).peers = s.peers := rfl
@[simp] theorem State.modEngine_regions (s : State) (c : Nat) (u : EngineUnit) (f : Engine → Engine) : (s.modEngine c u f).regions = s.regions := rfl
@[simp] theorem State.modEngine_delivery (s : State) (c : Nat) (u : EngineUnit) (f : Engine → Engine) : (s.modEngine c u f).delivery = s.delivery := rfl
@[simp] theorem State.modEngine_transfers (s : State) (c : Nat) (u : EngineUnit) (f : Engine → Engine) : (s.modEngine c u f).transfers = s.transfers := rfl
@[simp] theorem State.modEngine_inbound (s : State) (c : Nat) (u : EngineUnit) (f : Engine → Engine) : (s.modEngine c u f).inbound = s.inbound := rfl
@[simp] theorem State.modEngine_ether (s : State) (c : Nat) (u : EngineUnit) (f : Engine → Engine) : (s.modEngine c u f).ether = s.ether := rfl
@[simp] theorem State.modEngine_xportLog (s : State) (c : Nat) (u : EngineUnit) (f : Engine → Engine) : (s.modEngine c u f).xportLog = s.xportLog := rfl
@[simp] theorem State.modEngine_xportCancels (s : State) (c : Nat) (u : EngineUnit) (f : Engine → Engine) : (s.modEngine c u f).xportCancels = s.xportCancels := rfl
@[simp] theorem State.modEngine_traces (s : State) (c : Nat) (u : EngineUnit) (f : Engine → Engine) : (s.modEngine c u f).traces = s.traces := rfl
@[simp] theorem State.modEngine_clusters (s : State) (c : Nat) (u : EngineUnit) (f : Engine → Engine) : (s.modEngine c u f).clusters = s.clusters := rfl
@[simp] theorem State.modEngine_columns (s : State) (c : Nat) (u : EngineUnit) (f : Engine → Engine) : (s.modEngine c u f).columns = s.columns := rfl
@[simp] theorem State.modEngine_degraded (s : State) (c : Nat) (u : EngineUnit) (f : Engine → Engine) : (s.modEngine c u f).degraded = s.degraded := rfl
@[simp] theorem State.modEngine_dieRecs (s : State) (c : Nat) (u : EngineUnit) (f : Engine → Engine) : (s.modEngine c u f).dieRecs = s.dieRecs := rfl
@[simp] theorem State.modEngine_errLogs (s : State) (c : Nat) (u : EngineUnit) (f : Engine → Engine) : (s.modEngine c u f).errLogs = s.errLogs := rfl
@[simp] theorem State.modEngine_scrubInt (s : State) (c : Nat) (u : EngineUnit) (f : Engine → Engine) : (s.modEngine c u f).scrubInt = s.scrubInt := rfl
@[simp] theorem State.modEngine_scrubPos (s : State) (c : Nat) (u : EngineUnit) (f : Engine → Engine) : (s.modEngine c u f).scrubPos = s.scrubPos := rfl
@[simp] theorem State.modEngine_channels (s : State) (c : Nat) (u : EngineUnit) (f : Engine → Engine) : (s.modEngine c u f).channels = s.channels := rfl
@[simp] theorem State.modEngine_harts (s : State) (c : Nat) (u : EngineUnit) (f : Engine → Engine) : (s.modEngine c u f).harts = s.harts := rfl
@[simp] theorem State.modEngine_firmware (s : State) (c : Nat) (u : EngineUnit) (f : Engine → Engine) : (s.modEngine c u f).firmware = s.firmware := rfl
@[simp] theorem State.modEngine_power (s : State) (c : Nat) (u : EngineUnit) (f : Engine → Engine) : (s.modEngine c u f).power = s.power := rfl
@[simp] theorem State.modEngine_time (s : State) (c : Nat) (u : EngineUnit) (f : Engine → Engine) : (s.modEngine c u f).time = s.time := rfl
@[simp] theorem State.modEngine_nextId (s : State) (c : Nat) (u : EngineUnit) (f : Engine → Engine) : (s.modEngine c u f).nextId = s.nextId := rfl
@[simp] theorem State.modEngine_tick (s : State) (c : Nat) (u : EngineUnit) (f : Engine → Engine) : (s.modEngine c u f).tick = s.tick := rfl
@[simp] theorem State.modEngine_agenda (s : State) (c : Nat) (u : EngineUnit) (f : Engine → Engine) : (s.modEngine c u f).agenda = s.agenda := rfl
@[simp] theorem State.modEngine_cur (s : State) (c : Nat) (u : EngineUnit) (f : Engine → Engine) : (s.modEngine c u f).cur = s.cur := rfl
@[simp] theorem State.modEngine_readout (s : State) (c : Nat) (u : EngineUnit) (f : Engine → Engine) : (s.modEngine c u f).readout = s.readout := rfl

@[simp] theorem State.setReg_devNum (s : State) (c : Ctx) (n : Int) (v : Word) : (s.setReg c n v).devNum = s.devNum := by cases h : c.unit <;> simp [State.setReg, h]
@[simp] theorem State.setReg_ns (s : State) (c : Ctx) (n : Int) (v : Word) : (s.setReg c n v).ns = s.ns := by cases h : c.unit <;> simp [State.setReg, h]
@[simp] theorem State.setReg_mem (s : State) (c : Ctx) (n : Int) (v : Word) : (s.setReg c n v).mem = s.mem := by cases h : c.unit <;> simp [State.setReg, h]
@[simp] theorem State.setReg_poison (s : State) (c : Ctx) (n : Int) (v : Word) : (s.setReg c n v).poison = s.poison := by cases h : c.unit <;> simp [State.setReg, h]
@[simp] theorem State.setReg_upsets (s : State) (c : Ctx) (n : Int) (v : Word) : (s.setReg c n v).upsets = s.upsets := by cases h : c.unit <;> simp [State.setReg, h]
@[simp] theorem State.setReg_acts (s : State) (c : Ctx) (n : Int) (v : Word) : (s.setReg c n v).acts = s.acts := by cases h : c.unit <;> simp [State.setReg, h]
@[simp] theorem State.setReg_progs (s : State) (c : Ctx) (n : Int) (v : Word) : (s.setReg c n v).progs = s.progs := by cases h : c.unit <;> simp [State.setReg, h]
@[simp] theorem State.setReg_copies (s : State) (c : Ctx) (n : Int) (v : Word) : (s.setReg c n v).copies = s.copies := by cases h : c.unit <;> simp [State.setReg, h]
@[simp] theorem State.setReg_markers (s : State) (c : Ctx) (n : Int) (v : Word) : (s.setReg c n v).markers = s.markers := by cases h : c.unit <;> simp [State.setReg, h]
@[simp] theorem State.setReg_flights (s : State) (c : Ctx) (n : Int) (v : Word) : (s.setReg c n v).flights = s.flights := by cases h : c.unit <;> simp [State.setReg, h]
@[simp] theorem State.setReg_msgs (s : State) (c : Ctx) (n : Int) (v : Word) : (s.setReg c n v).msgs = s.msgs := by cases h : c.unit <;> simp [State.setReg, h]
@[simp] theorem State.setReg_ctls (s : State) (c : Ctx) (n : Int) (v : Word) : (s.setReg c n v).ctls = s.ctls := by cases h : c.unit <;> simp [State.setReg, h]
@[simp] theorem State.setReg_asks (s : State) (c : Ctx) (n : Int) (v : Word) : (s.setReg c n v).asks = s.asks := by cases h : c.unit <;> simp [State.setReg, h]
@[simp] theorem State.setReg_credits (s : State) (c : Ctx) (n : Int) (v : Word) : (s.setReg c n v).credits = s.credits := by cases h : c.unit <;> simp [State.setReg, h]
@[simp] theorem State.setReg_wakes (s : State) (c : Ctx) (n : Int) (v : Word) : (s.setReg c n v).wakes = s.wakes := by cases h : c.unit <;> simp [State.setReg, h]
@[simp] theorem State.setReg_arrivals (s : State) (c : Ctx) (n : Int) (v : Word) : (s.setReg c n v).arrivals = s.arrivals := by cases h : c.unit <;> simp [State.setReg, h]
@[simp] theorem State.setReg_hubPaths (s : State) (c : Ctx) (n : Int) (v : Word) : (s.setReg c n v).hubPaths = s.hubPaths := by cases h : c.unit <;> simp [State.setReg, h]
@[simp] theorem State.setReg_bells (s : State) (c : Ctx) (n : Int) (v : Word) : (s.setReg c n v).bells = s.bells := by cases h : c.unit <;> simp [State.setReg, h]
@[simp] theorem State.setReg_dues (s : State) (c : Ctx) (n : Int) (v : Word) : (s.setReg c n v).dues = s.dues := by cases h : c.unit <;> simp [State.setReg, h]
@[simp] theorem State.setReg_gangs (s : State) (c : Ctx) (n : Int) (v : Word) : (s.setReg c n v).gangs = s.gangs := by cases h : c.unit <;> simp [State.setReg, h]
@[simp] theorem State.setReg_atomics (s : State) (c : Ctx) (n : Int) (v : Word) : (s.setReg c n v).atomics = s.atomics := by cases h : c.unit <;> simp [State.setReg, h]
@[simp] theorem State.setReg_fields (s : State) (c : Ctx) (n : Int) (v : Word) : (s.setReg c n v).fields = s.fields := by cases h : c.unit <;> simp [State.setReg, h]
@[simp] theorem State.setReg_saved (s : State) (c : Ctx) (n : Int) (v : Word) : (s.setReg c n v).saved = s.saved := by cases h : c.unit <;> simp [State.setReg, h]
@[simp] theorem State.setReg_queues (s : State) (c : Ctx) (n : Int) (v : Word) : (s.setReg c n v).queues = s.queues := by cases h : c.unit <;> simp [State.setReg, h]
@[simp] theorem State.setReg_cps (s : State) (c : Ctx) (n : Int) (v : Word) : (s.setReg c n v).cps = s.cps := by cases h : c.unit <;> simp [State.setReg, h]
@[simp] theorem State.setReg_launches (s : State) (c : Ctx) (n : Int) (v : Word) : (s.setReg c n v).launches = s.launches := by cases h : c.unit <;> simp [State.setReg, h]
@[simp] theorem State.setReg_agents (s : State) (c : Ctx) (n : Int) (v : Word) : (s.setReg c n v).agents = s.agents := by cases h : c.unit <;> simp [State.setReg, h]
@[simp] theorem State.setReg_faults (s : State) (c : Ctx) (n : Int) (v : Word) : (s.setReg c n v).faults = s.faults := by cases h : c.unit <;> simp [State.setReg, h]
@[simp] theorem State.setReg_waits (s : State) (c : Ctx) (n : Int) (v : Word) : (s.setReg c n v).waits = s.waits := by cases h : c.unit <;> simp [State.setReg, h]
@[simp] theorem State.setReg_recovery (s : State) (c : Ctx) (n : Int) (v : Word) : (s.setReg c n v).recovery = s.recovery := by cases h : c.unit <;> simp [State.setReg, h]
@[simp] theorem State.setReg_ports (s : State) (c : Ctx) (n : Int) (v : Word) : (s.setReg c n v).ports = s.ports := by cases h : c.unit <;> simp [State.setReg, h]
@[simp] theorem State.setReg_routes (s : State) (c : Ctx) (n : Int) (v : Word) : (s.setReg c n v).routes = s.routes := by cases h : c.unit <;> simp [State.setReg, h]
@[simp] theorem State.setReg_groups (s : State) (c : Ctx) (n : Int) (v : Word) : (s.setReg c n v).groups = s.groups := by cases h : c.unit <;> simp [State.setReg, h]
@[simp] theorem State.setReg_packets (s : State) (c : Ctx) (n : Int) (v : Word) : (s.setReg c n v).packets = s.packets := by cases h : c.unit <;> simp [State.setReg, h]
@[simp] theorem State.setReg_hubPorts (s : State) (c : Ctx) (n : Int) (v : Word) : (s.setReg c n v).hubPorts = s.hubPorts := by cases h : c.unit <;> simp [State.setReg, h]
@[simp] theorem State.setReg_peers (s : State) (c : Ctx) (n : Int) (v : Word) : (s.setReg c n v).peers = s.peers := by cases h : c.unit <;> simp [State.setReg, h]
@[simp] theorem State.setReg_regions (s : State) (c : Ctx) (n : Int) (v : Word) : (s.setReg c n v).regions = s.regions := by cases h : c.unit <;> simp [State.setReg, h]
@[simp] theorem State.setReg_delivery (s : State) (c : Ctx) (n : Int) (v : Word) : (s.setReg c n v).delivery = s.delivery := by cases h : c.unit <;> simp [State.setReg, h]
@[simp] theorem State.setReg_transfers (s : State) (c : Ctx) (n : Int) (v : Word) : (s.setReg c n v).transfers = s.transfers := by cases h : c.unit <;> simp [State.setReg, h]
@[simp] theorem State.setReg_inbound (s : State) (c : Ctx) (n : Int) (v : Word) : (s.setReg c n v).inbound = s.inbound := by cases h : c.unit <;> simp [State.setReg, h]
@[simp] theorem State.setReg_ether (s : State) (c : Ctx) (n : Int) (v : Word) : (s.setReg c n v).ether = s.ether := by cases h : c.unit <;> simp [State.setReg, h]
@[simp] theorem State.setReg_xportLog (s : State) (c : Ctx) (n : Int) (v : Word) : (s.setReg c n v).xportLog = s.xportLog := by cases h : c.unit <;> simp [State.setReg, h]
@[simp] theorem State.setReg_xportCancels (s : State) (c : Ctx) (n : Int) (v : Word) : (s.setReg c n v).xportCancels = s.xportCancels := by cases h : c.unit <;> simp [State.setReg, h]
@[simp] theorem State.setReg_traces (s : State) (c : Ctx) (n : Int) (v : Word) : (s.setReg c n v).traces = s.traces := by cases h : c.unit <;> simp [State.setReg, h]
@[simp] theorem State.setReg_clusters (s : State) (c : Ctx) (n : Int) (v : Word) : (s.setReg c n v).clusters = s.clusters := by cases h : c.unit <;> simp [State.setReg, h]
@[simp] theorem State.setReg_columns (s : State) (c : Ctx) (n : Int) (v : Word) : (s.setReg c n v).columns = s.columns := by cases h : c.unit <;> simp [State.setReg, h]
@[simp] theorem State.setReg_degraded (s : State) (c : Ctx) (n : Int) (v : Word) : (s.setReg c n v).degraded = s.degraded := by cases h : c.unit <;> simp [State.setReg, h]
@[simp] theorem State.setReg_dieRecs (s : State) (c : Ctx) (n : Int) (v : Word) : (s.setReg c n v).dieRecs = s.dieRecs := by cases h : c.unit <;> simp [State.setReg, h]
@[simp] theorem State.setReg_errLogs (s : State) (c : Ctx) (n : Int) (v : Word) : (s.setReg c n v).errLogs = s.errLogs := by cases h : c.unit <;> simp [State.setReg, h]
@[simp] theorem State.setReg_scrubInt (s : State) (c : Ctx) (n : Int) (v : Word) : (s.setReg c n v).scrubInt = s.scrubInt := by cases h : c.unit <;> simp [State.setReg, h]
@[simp] theorem State.setReg_scrubPos (s : State) (c : Ctx) (n : Int) (v : Word) : (s.setReg c n v).scrubPos = s.scrubPos := by cases h : c.unit <;> simp [State.setReg, h]
@[simp] theorem State.setReg_channels (s : State) (c : Ctx) (n : Int) (v : Word) : (s.setReg c n v).channels = s.channels := by cases h : c.unit <;> simp [State.setReg, h]
@[simp] theorem State.setReg_harts (s : State) (c : Ctx) (n : Int) (v : Word) : (s.setReg c n v).harts = s.harts := by cases h : c.unit <;> simp [State.setReg, h]
@[simp] theorem State.setReg_firmware (s : State) (c : Ctx) (n : Int) (v : Word) : (s.setReg c n v).firmware = s.firmware := by cases h : c.unit <;> simp [State.setReg, h]
@[simp] theorem State.setReg_power (s : State) (c : Ctx) (n : Int) (v : Word) : (s.setReg c n v).power = s.power := by cases h : c.unit <;> simp [State.setReg, h]
@[simp] theorem State.setReg_time (s : State) (c : Ctx) (n : Int) (v : Word) : (s.setReg c n v).time = s.time := by cases h : c.unit <;> simp [State.setReg, h]
@[simp] theorem State.setReg_nextId (s : State) (c : Ctx) (n : Int) (v : Word) : (s.setReg c n v).nextId = s.nextId := by cases h : c.unit <;> simp [State.setReg, h]
@[simp] theorem State.setReg_tick (s : State) (c : Ctx) (n : Int) (v : Word) : (s.setReg c n v).tick = s.tick := by cases h : c.unit <;> simp [State.setReg, h]
@[simp] theorem State.setReg_agenda (s : State) (c : Ctx) (n : Int) (v : Word) : (s.setReg c n v).agenda = s.agenda := by cases h : c.unit <;> simp [State.setReg, h]
@[simp] theorem State.setReg_cur (s : State) (c : Ctx) (n : Int) (v : Word) : (s.setReg c n v).cur = s.cur := by cases h : c.unit <;> simp [State.setReg, h]
@[simp] theorem State.setReg_readout (s : State) (c : Ctx) (n : Int) (v : Word) : (s.setReg c n v).readout = s.readout := by cases h : c.unit <;> simp [State.setReg, h]

@[simp] theorem State.setX_devNum (s : State) (c : Ctx) (k : BitVec 2) (v : BitVec 16) : (s.setX c k v).devNum = s.devNum := rfl
@[simp] theorem State.setX_ns (s : State) (c : Ctx) (k : BitVec 2) (v : BitVec 16) : (s.setX c k v).ns = s.ns := rfl
@[simp] theorem State.setX_mem (s : State) (c : Ctx) (k : BitVec 2) (v : BitVec 16) : (s.setX c k v).mem = s.mem := rfl
@[simp] theorem State.setX_poison (s : State) (c : Ctx) (k : BitVec 2) (v : BitVec 16) : (s.setX c k v).poison = s.poison := rfl
@[simp] theorem State.setX_upsets (s : State) (c : Ctx) (k : BitVec 2) (v : BitVec 16) : (s.setX c k v).upsets = s.upsets := rfl
@[simp] theorem State.setX_acts (s : State) (c : Ctx) (k : BitVec 2) (v : BitVec 16) : (s.setX c k v).acts = s.acts := rfl
@[simp] theorem State.setX_progs (s : State) (c : Ctx) (k : BitVec 2) (v : BitVec 16) : (s.setX c k v).progs = s.progs := rfl
@[simp] theorem State.setX_copies (s : State) (c : Ctx) (k : BitVec 2) (v : BitVec 16) : (s.setX c k v).copies = s.copies := rfl
@[simp] theorem State.setX_markers (s : State) (c : Ctx) (k : BitVec 2) (v : BitVec 16) : (s.setX c k v).markers = s.markers := rfl
@[simp] theorem State.setX_flights (s : State) (c : Ctx) (k : BitVec 2) (v : BitVec 16) : (s.setX c k v).flights = s.flights := rfl
@[simp] theorem State.setX_msgs (s : State) (c : Ctx) (k : BitVec 2) (v : BitVec 16) : (s.setX c k v).msgs = s.msgs := rfl
@[simp] theorem State.setX_ctls (s : State) (c : Ctx) (k : BitVec 2) (v : BitVec 16) : (s.setX c k v).ctls = s.ctls := rfl
@[simp] theorem State.setX_asks (s : State) (c : Ctx) (k : BitVec 2) (v : BitVec 16) : (s.setX c k v).asks = s.asks := rfl
@[simp] theorem State.setX_credits (s : State) (c : Ctx) (k : BitVec 2) (v : BitVec 16) : (s.setX c k v).credits = s.credits := rfl
@[simp] theorem State.setX_wakes (s : State) (c : Ctx) (k : BitVec 2) (v : BitVec 16) : (s.setX c k v).wakes = s.wakes := rfl
@[simp] theorem State.setX_arrivals (s : State) (c : Ctx) (k : BitVec 2) (v : BitVec 16) : (s.setX c k v).arrivals = s.arrivals := rfl
@[simp] theorem State.setX_hubPaths (s : State) (c : Ctx) (k : BitVec 2) (v : BitVec 16) : (s.setX c k v).hubPaths = s.hubPaths := rfl
@[simp] theorem State.setX_bells (s : State) (c : Ctx) (k : BitVec 2) (v : BitVec 16) : (s.setX c k v).bells = s.bells := rfl
@[simp] theorem State.setX_dues (s : State) (c : Ctx) (k : BitVec 2) (v : BitVec 16) : (s.setX c k v).dues = s.dues := rfl
@[simp] theorem State.setX_gangs (s : State) (c : Ctx) (k : BitVec 2) (v : BitVec 16) : (s.setX c k v).gangs = s.gangs := rfl
@[simp] theorem State.setX_atomics (s : State) (c : Ctx) (k : BitVec 2) (v : BitVec 16) : (s.setX c k v).atomics = s.atomics := rfl
@[simp] theorem State.setX_fields (s : State) (c : Ctx) (k : BitVec 2) (v : BitVec 16) : (s.setX c k v).fields = s.fields := rfl
@[simp] theorem State.setX_saved (s : State) (c : Ctx) (k : BitVec 2) (v : BitVec 16) : (s.setX c k v).saved = s.saved := rfl
@[simp] theorem State.setX_queues (s : State) (c : Ctx) (k : BitVec 2) (v : BitVec 16) : (s.setX c k v).queues = s.queues := rfl
@[simp] theorem State.setX_cps (s : State) (c : Ctx) (k : BitVec 2) (v : BitVec 16) : (s.setX c k v).cps = s.cps := rfl
@[simp] theorem State.setX_launches (s : State) (c : Ctx) (k : BitVec 2) (v : BitVec 16) : (s.setX c k v).launches = s.launches := rfl
@[simp] theorem State.setX_agents (s : State) (c : Ctx) (k : BitVec 2) (v : BitVec 16) : (s.setX c k v).agents = s.agents := rfl
@[simp] theorem State.setX_faults (s : State) (c : Ctx) (k : BitVec 2) (v : BitVec 16) : (s.setX c k v).faults = s.faults := rfl
@[simp] theorem State.setX_waits (s : State) (c : Ctx) (k : BitVec 2) (v : BitVec 16) : (s.setX c k v).waits = s.waits := rfl
@[simp] theorem State.setX_recovery (s : State) (c : Ctx) (k : BitVec 2) (v : BitVec 16) : (s.setX c k v).recovery = s.recovery := rfl
@[simp] theorem State.setX_ports (s : State) (c : Ctx) (k : BitVec 2) (v : BitVec 16) : (s.setX c k v).ports = s.ports := rfl
@[simp] theorem State.setX_routes (s : State) (c : Ctx) (k : BitVec 2) (v : BitVec 16) : (s.setX c k v).routes = s.routes := rfl
@[simp] theorem State.setX_groups (s : State) (c : Ctx) (k : BitVec 2) (v : BitVec 16) : (s.setX c k v).groups = s.groups := rfl
@[simp] theorem State.setX_packets (s : State) (c : Ctx) (k : BitVec 2) (v : BitVec 16) : (s.setX c k v).packets = s.packets := rfl
@[simp] theorem State.setX_hubPorts (s : State) (c : Ctx) (k : BitVec 2) (v : BitVec 16) : (s.setX c k v).hubPorts = s.hubPorts := rfl
@[simp] theorem State.setX_peers (s : State) (c : Ctx) (k : BitVec 2) (v : BitVec 16) : (s.setX c k v).peers = s.peers := rfl
@[simp] theorem State.setX_regions (s : State) (c : Ctx) (k : BitVec 2) (v : BitVec 16) : (s.setX c k v).regions = s.regions := rfl
@[simp] theorem State.setX_delivery (s : State) (c : Ctx) (k : BitVec 2) (v : BitVec 16) : (s.setX c k v).delivery = s.delivery := rfl
@[simp] theorem State.setX_transfers (s : State) (c : Ctx) (k : BitVec 2) (v : BitVec 16) : (s.setX c k v).transfers = s.transfers := rfl
@[simp] theorem State.setX_inbound (s : State) (c : Ctx) (k : BitVec 2) (v : BitVec 16) : (s.setX c k v).inbound = s.inbound := rfl
@[simp] theorem State.setX_ether (s : State) (c : Ctx) (k : BitVec 2) (v : BitVec 16) : (s.setX c k v).ether = s.ether := rfl
@[simp] theorem State.setX_xportLog (s : State) (c : Ctx) (k : BitVec 2) (v : BitVec 16) : (s.setX c k v).xportLog = s.xportLog := rfl
@[simp] theorem State.setX_xportCancels (s : State) (c : Ctx) (k : BitVec 2) (v : BitVec 16) : (s.setX c k v).xportCancels = s.xportCancels := rfl
@[simp] theorem State.setX_traces (s : State) (c : Ctx) (k : BitVec 2) (v : BitVec 16) : (s.setX c k v).traces = s.traces := rfl
@[simp] theorem State.setX_clusters (s : State) (c : Ctx) (k : BitVec 2) (v : BitVec 16) : (s.setX c k v).clusters = s.clusters := rfl
@[simp] theorem State.setX_columns (s : State) (c : Ctx) (k : BitVec 2) (v : BitVec 16) : (s.setX c k v).columns = s.columns := rfl
@[simp] theorem State.setX_degraded (s : State) (c : Ctx) (k : BitVec 2) (v : BitVec 16) : (s.setX c k v).degraded = s.degraded := rfl
@[simp] theorem State.setX_dieRecs (s : State) (c : Ctx) (k : BitVec 2) (v : BitVec 16) : (s.setX c k v).dieRecs = s.dieRecs := rfl
@[simp] theorem State.setX_errLogs (s : State) (c : Ctx) (k : BitVec 2) (v : BitVec 16) : (s.setX c k v).errLogs = s.errLogs := rfl
@[simp] theorem State.setX_scrubInt (s : State) (c : Ctx) (k : BitVec 2) (v : BitVec 16) : (s.setX c k v).scrubInt = s.scrubInt := rfl
@[simp] theorem State.setX_scrubPos (s : State) (c : Ctx) (k : BitVec 2) (v : BitVec 16) : (s.setX c k v).scrubPos = s.scrubPos := rfl
@[simp] theorem State.setX_channels (s : State) (c : Ctx) (k : BitVec 2) (v : BitVec 16) : (s.setX c k v).channels = s.channels := rfl
@[simp] theorem State.setX_harts (s : State) (c : Ctx) (k : BitVec 2) (v : BitVec 16) : (s.setX c k v).harts = s.harts := rfl
@[simp] theorem State.setX_firmware (s : State) (c : Ctx) (k : BitVec 2) (v : BitVec 16) : (s.setX c k v).firmware = s.firmware := rfl
@[simp] theorem State.setX_power (s : State) (c : Ctx) (k : BitVec 2) (v : BitVec 16) : (s.setX c k v).power = s.power := rfl
@[simp] theorem State.setX_time (s : State) (c : Ctx) (k : BitVec 2) (v : BitVec 16) : (s.setX c k v).time = s.time := rfl
@[simp] theorem State.setX_nextId (s : State) (c : Ctx) (k : BitVec 2) (v : BitVec 16) : (s.setX c k v).nextId = s.nextId := rfl
@[simp] theorem State.setX_tick (s : State) (c : Ctx) (k : BitVec 2) (v : BitVec 16) : (s.setX c k v).tick = s.tick := rfl
@[simp] theorem State.setX_agenda (s : State) (c : Ctx) (k : BitVec 2) (v : BitVec 16) : (s.setX c k v).agenda = s.agenda := rfl
@[simp] theorem State.setX_cur (s : State) (c : Ctx) (k : BitVec 2) (v : BitVec 16) : (s.setX c k v).cur = s.cur := rfl
@[simp] theorem State.setX_readout (s : State) (c : Ctx) (k : BitVec 2) (v : BitVec 16) : (s.setX c k v).readout = s.readout := rfl

@[simp] theorem State.modPair_devNum (s : State) (c k : Nat) (f : PairUnit → PairUnit) : (s.modPair c k f).devNum = s.devNum := rfl
@[simp] theorem State.modPair_ns (s : State) (c k : Nat) (f : PairUnit → PairUnit) : (s.modPair c k f).ns = s.ns := rfl
@[simp] theorem State.modPair_mem (s : State) (c k : Nat) (f : PairUnit → PairUnit) : (s.modPair c k f).mem = s.mem := rfl
@[simp] theorem State.modPair_poison (s : State) (c k : Nat) (f : PairUnit → PairUnit) : (s.modPair c k f).poison = s.poison := rfl
@[simp] theorem State.modPair_upsets (s : State) (c k : Nat) (f : PairUnit → PairUnit) : (s.modPair c k f).upsets = s.upsets := rfl
@[simp] theorem State.modPair_acts (s : State) (c k : Nat) (f : PairUnit → PairUnit) : (s.modPair c k f).acts = s.acts := rfl
@[simp] theorem State.modPair_progs (s : State) (c k : Nat) (f : PairUnit → PairUnit) : (s.modPair c k f).progs = s.progs := rfl
@[simp] theorem State.modPair_copies (s : State) (c k : Nat) (f : PairUnit → PairUnit) : (s.modPair c k f).copies = s.copies := rfl
@[simp] theorem State.modPair_markers (s : State) (c k : Nat) (f : PairUnit → PairUnit) : (s.modPair c k f).markers = s.markers := rfl
@[simp] theorem State.modPair_flights (s : State) (c k : Nat) (f : PairUnit → PairUnit) : (s.modPair c k f).flights = s.flights := rfl
@[simp] theorem State.modPair_msgs (s : State) (c k : Nat) (f : PairUnit → PairUnit) : (s.modPair c k f).msgs = s.msgs := rfl
@[simp] theorem State.modPair_ctls (s : State) (c k : Nat) (f : PairUnit → PairUnit) : (s.modPair c k f).ctls = s.ctls := rfl
@[simp] theorem State.modPair_asks (s : State) (c k : Nat) (f : PairUnit → PairUnit) : (s.modPair c k f).asks = s.asks := rfl
@[simp] theorem State.modPair_credits (s : State) (c k : Nat) (f : PairUnit → PairUnit) : (s.modPair c k f).credits = s.credits := rfl
@[simp] theorem State.modPair_wakes (s : State) (c k : Nat) (f : PairUnit → PairUnit) : (s.modPair c k f).wakes = s.wakes := rfl
@[simp] theorem State.modPair_arrivals (s : State) (c k : Nat) (f : PairUnit → PairUnit) : (s.modPair c k f).arrivals = s.arrivals := rfl
@[simp] theorem State.modPair_hubPaths (s : State) (c k : Nat) (f : PairUnit → PairUnit) : (s.modPair c k f).hubPaths = s.hubPaths := rfl
@[simp] theorem State.modPair_bells (s : State) (c k : Nat) (f : PairUnit → PairUnit) : (s.modPair c k f).bells = s.bells := rfl
@[simp] theorem State.modPair_dues (s : State) (c k : Nat) (f : PairUnit → PairUnit) : (s.modPair c k f).dues = s.dues := rfl
@[simp] theorem State.modPair_gangs (s : State) (c k : Nat) (f : PairUnit → PairUnit) : (s.modPair c k f).gangs = s.gangs := rfl
@[simp] theorem State.modPair_atomics (s : State) (c k : Nat) (f : PairUnit → PairUnit) : (s.modPair c k f).atomics = s.atomics := rfl
@[simp] theorem State.modPair_fields (s : State) (c k : Nat) (f : PairUnit → PairUnit) : (s.modPair c k f).fields = s.fields := rfl
@[simp] theorem State.modPair_saved (s : State) (c k : Nat) (f : PairUnit → PairUnit) : (s.modPair c k f).saved = s.saved := rfl
@[simp] theorem State.modPair_queues (s : State) (c k : Nat) (f : PairUnit → PairUnit) : (s.modPair c k f).queues = s.queues := rfl
@[simp] theorem State.modPair_cps (s : State) (c k : Nat) (f : PairUnit → PairUnit) : (s.modPair c k f).cps = s.cps := rfl
@[simp] theorem State.modPair_launches (s : State) (c k : Nat) (f : PairUnit → PairUnit) : (s.modPair c k f).launches = s.launches := rfl
@[simp] theorem State.modPair_agents (s : State) (c k : Nat) (f : PairUnit → PairUnit) : (s.modPair c k f).agents = s.agents := rfl
@[simp] theorem State.modPair_faults (s : State) (c k : Nat) (f : PairUnit → PairUnit) : (s.modPair c k f).faults = s.faults := rfl
@[simp] theorem State.modPair_waits (s : State) (c k : Nat) (f : PairUnit → PairUnit) : (s.modPair c k f).waits = s.waits := rfl
@[simp] theorem State.modPair_recovery (s : State) (c k : Nat) (f : PairUnit → PairUnit) : (s.modPair c k f).recovery = s.recovery := rfl
@[simp] theorem State.modPair_ports (s : State) (c k : Nat) (f : PairUnit → PairUnit) : (s.modPair c k f).ports = s.ports := rfl
@[simp] theorem State.modPair_routes (s : State) (c k : Nat) (f : PairUnit → PairUnit) : (s.modPair c k f).routes = s.routes := rfl
@[simp] theorem State.modPair_groups (s : State) (c k : Nat) (f : PairUnit → PairUnit) : (s.modPair c k f).groups = s.groups := rfl
@[simp] theorem State.modPair_packets (s : State) (c k : Nat) (f : PairUnit → PairUnit) : (s.modPair c k f).packets = s.packets := rfl
@[simp] theorem State.modPair_hubPorts (s : State) (c k : Nat) (f : PairUnit → PairUnit) : (s.modPair c k f).hubPorts = s.hubPorts := rfl
@[simp] theorem State.modPair_peers (s : State) (c k : Nat) (f : PairUnit → PairUnit) : (s.modPair c k f).peers = s.peers := rfl
@[simp] theorem State.modPair_regions (s : State) (c k : Nat) (f : PairUnit → PairUnit) : (s.modPair c k f).regions = s.regions := rfl
@[simp] theorem State.modPair_delivery (s : State) (c k : Nat) (f : PairUnit → PairUnit) : (s.modPair c k f).delivery = s.delivery := rfl
@[simp] theorem State.modPair_transfers (s : State) (c k : Nat) (f : PairUnit → PairUnit) : (s.modPair c k f).transfers = s.transfers := rfl
@[simp] theorem State.modPair_inbound (s : State) (c k : Nat) (f : PairUnit → PairUnit) : (s.modPair c k f).inbound = s.inbound := rfl
@[simp] theorem State.modPair_ether (s : State) (c k : Nat) (f : PairUnit → PairUnit) : (s.modPair c k f).ether = s.ether := rfl
@[simp] theorem State.modPair_xportLog (s : State) (c k : Nat) (f : PairUnit → PairUnit) : (s.modPair c k f).xportLog = s.xportLog := rfl
@[simp] theorem State.modPair_xportCancels (s : State) (c k : Nat) (f : PairUnit → PairUnit) : (s.modPair c k f).xportCancels = s.xportCancels := rfl
@[simp] theorem State.modPair_traces (s : State) (c k : Nat) (f : PairUnit → PairUnit) : (s.modPair c k f).traces = s.traces := rfl
@[simp] theorem State.modPair_clusters (s : State) (c k : Nat) (f : PairUnit → PairUnit) : (s.modPair c k f).clusters = s.clusters := rfl
@[simp] theorem State.modPair_columns (s : State) (c k : Nat) (f : PairUnit → PairUnit) : (s.modPair c k f).columns = s.columns := rfl
@[simp] theorem State.modPair_degraded (s : State) (c k : Nat) (f : PairUnit → PairUnit) : (s.modPair c k f).degraded = s.degraded := rfl
@[simp] theorem State.modPair_dieRecs (s : State) (c k : Nat) (f : PairUnit → PairUnit) : (s.modPair c k f).dieRecs = s.dieRecs := rfl
@[simp] theorem State.modPair_errLogs (s : State) (c k : Nat) (f : PairUnit → PairUnit) : (s.modPair c k f).errLogs = s.errLogs := rfl
@[simp] theorem State.modPair_scrubInt (s : State) (c k : Nat) (f : PairUnit → PairUnit) : (s.modPair c k f).scrubInt = s.scrubInt := rfl
@[simp] theorem State.modPair_scrubPos (s : State) (c k : Nat) (f : PairUnit → PairUnit) : (s.modPair c k f).scrubPos = s.scrubPos := rfl
@[simp] theorem State.modPair_channels (s : State) (c k : Nat) (f : PairUnit → PairUnit) : (s.modPair c k f).channels = s.channels := rfl
@[simp] theorem State.modPair_harts (s : State) (c k : Nat) (f : PairUnit → PairUnit) : (s.modPair c k f).harts = s.harts := rfl
@[simp] theorem State.modPair_firmware (s : State) (c k : Nat) (f : PairUnit → PairUnit) : (s.modPair c k f).firmware = s.firmware := rfl
@[simp] theorem State.modPair_power (s : State) (c k : Nat) (f : PairUnit → PairUnit) : (s.modPair c k f).power = s.power := rfl
@[simp] theorem State.modPair_time (s : State) (c k : Nat) (f : PairUnit → PairUnit) : (s.modPair c k f).time = s.time := rfl
@[simp] theorem State.modPair_nextId (s : State) (c k : Nat) (f : PairUnit → PairUnit) : (s.modPair c k f).nextId = s.nextId := rfl
@[simp] theorem State.modPair_tick (s : State) (c k : Nat) (f : PairUnit → PairUnit) : (s.modPair c k f).tick = s.tick := rfl
@[simp] theorem State.modPair_agenda (s : State) (c k : Nat) (f : PairUnit → PairUnit) : (s.modPair c k f).agenda = s.agenda := rfl
@[simp] theorem State.modPair_cur (s : State) (c k : Nat) (f : PairUnit → PairUnit) : (s.modPair c k f).cur = s.cur := rfl
@[simp] theorem State.modPair_readout (s : State) (c k : Nat) (f : PairUnit → PairUnit) : (s.modPair c k f).readout = s.readout := rfl

@[simp] theorem State.pairRetire_devNum (s : State) (c : Ctx) (ds : List Nat) (x : Option Nat) : (s.pairRetire c ds x).devNum = s.devNum := by simp only [State.pairRetire]; split <;> simp
@[simp] theorem State.pairRetire_ns (s : State) (c : Ctx) (ds : List Nat) (x : Option Nat) : (s.pairRetire c ds x).ns = s.ns := by simp only [State.pairRetire]; split <;> simp
@[simp] theorem State.pairRetire_mem (s : State) (c : Ctx) (ds : List Nat) (x : Option Nat) : (s.pairRetire c ds x).mem = s.mem := by simp only [State.pairRetire]; split <;> simp
@[simp] theorem State.pairRetire_poison (s : State) (c : Ctx) (ds : List Nat) (x : Option Nat) : (s.pairRetire c ds x).poison = s.poison := by simp only [State.pairRetire]; split <;> simp
@[simp] theorem State.pairRetire_upsets (s : State) (c : Ctx) (ds : List Nat) (x : Option Nat) : (s.pairRetire c ds x).upsets = s.upsets := by simp only [State.pairRetire]; split <;> simp
@[simp] theorem State.pairRetire_acts (s : State) (c : Ctx) (ds : List Nat) (x : Option Nat) : (s.pairRetire c ds x).acts = s.acts := by simp only [State.pairRetire]; split <;> simp
@[simp] theorem State.pairRetire_progs (s : State) (c : Ctx) (ds : List Nat) (x : Option Nat) : (s.pairRetire c ds x).progs = s.progs := by simp only [State.pairRetire]; split <;> simp
@[simp] theorem State.pairRetire_copies (s : State) (c : Ctx) (ds : List Nat) (x : Option Nat) : (s.pairRetire c ds x).copies = s.copies := by simp only [State.pairRetire]; split <;> simp
@[simp] theorem State.pairRetire_markers (s : State) (c : Ctx) (ds : List Nat) (x : Option Nat) : (s.pairRetire c ds x).markers = s.markers := by simp only [State.pairRetire]; split <;> simp
@[simp] theorem State.pairRetire_flights (s : State) (c : Ctx) (ds : List Nat) (x : Option Nat) : (s.pairRetire c ds x).flights = s.flights := by simp only [State.pairRetire]; split <;> simp
@[simp] theorem State.pairRetire_msgs (s : State) (c : Ctx) (ds : List Nat) (x : Option Nat) : (s.pairRetire c ds x).msgs = s.msgs := by simp only [State.pairRetire]; split <;> simp
@[simp] theorem State.pairRetire_ctls (s : State) (c : Ctx) (ds : List Nat) (x : Option Nat) : (s.pairRetire c ds x).ctls = s.ctls := by simp only [State.pairRetire]; split <;> simp
@[simp] theorem State.pairRetire_asks (s : State) (c : Ctx) (ds : List Nat) (x : Option Nat) : (s.pairRetire c ds x).asks = s.asks := by simp only [State.pairRetire]; split <;> simp
@[simp] theorem State.pairRetire_credits (s : State) (c : Ctx) (ds : List Nat) (x : Option Nat) : (s.pairRetire c ds x).credits = s.credits := by simp only [State.pairRetire]; split <;> simp
@[simp] theorem State.pairRetire_wakes (s : State) (c : Ctx) (ds : List Nat) (x : Option Nat) : (s.pairRetire c ds x).wakes = s.wakes := by simp only [State.pairRetire]; split <;> simp
@[simp] theorem State.pairRetire_arrivals (s : State) (c : Ctx) (ds : List Nat) (x : Option Nat) : (s.pairRetire c ds x).arrivals = s.arrivals := by simp only [State.pairRetire]; split <;> simp
@[simp] theorem State.pairRetire_hubPaths (s : State) (c : Ctx) (ds : List Nat) (x : Option Nat) : (s.pairRetire c ds x).hubPaths = s.hubPaths := by simp only [State.pairRetire]; split <;> simp
@[simp] theorem State.pairRetire_bells (s : State) (c : Ctx) (ds : List Nat) (x : Option Nat) : (s.pairRetire c ds x).bells = s.bells := by simp only [State.pairRetire]; split <;> simp
@[simp] theorem State.pairRetire_dues (s : State) (c : Ctx) (ds : List Nat) (x : Option Nat) : (s.pairRetire c ds x).dues = s.dues := by simp only [State.pairRetire]; split <;> simp
@[simp] theorem State.pairRetire_gangs (s : State) (c : Ctx) (ds : List Nat) (x : Option Nat) : (s.pairRetire c ds x).gangs = s.gangs := by simp only [State.pairRetire]; split <;> simp
@[simp] theorem State.pairRetire_atomics (s : State) (c : Ctx) (ds : List Nat) (x : Option Nat) : (s.pairRetire c ds x).atomics = s.atomics := by simp only [State.pairRetire]; split <;> simp
@[simp] theorem State.pairRetire_fields (s : State) (c : Ctx) (ds : List Nat) (x : Option Nat) : (s.pairRetire c ds x).fields = s.fields := by simp only [State.pairRetire]; split <;> simp
@[simp] theorem State.pairRetire_saved (s : State) (c : Ctx) (ds : List Nat) (x : Option Nat) : (s.pairRetire c ds x).saved = s.saved := by simp only [State.pairRetire]; split <;> simp
@[simp] theorem State.pairRetire_queues (s : State) (c : Ctx) (ds : List Nat) (x : Option Nat) : (s.pairRetire c ds x).queues = s.queues := by simp only [State.pairRetire]; split <;> simp
@[simp] theorem State.pairRetire_cps (s : State) (c : Ctx) (ds : List Nat) (x : Option Nat) : (s.pairRetire c ds x).cps = s.cps := by simp only [State.pairRetire]; split <;> simp
@[simp] theorem State.pairRetire_launches (s : State) (c : Ctx) (ds : List Nat) (x : Option Nat) : (s.pairRetire c ds x).launches = s.launches := by simp only [State.pairRetire]; split <;> simp
@[simp] theorem State.pairRetire_agents (s : State) (c : Ctx) (ds : List Nat) (x : Option Nat) : (s.pairRetire c ds x).agents = s.agents := by simp only [State.pairRetire]; split <;> simp
@[simp] theorem State.pairRetire_faults (s : State) (c : Ctx) (ds : List Nat) (x : Option Nat) : (s.pairRetire c ds x).faults = s.faults := by simp only [State.pairRetire]; split <;> simp
@[simp] theorem State.pairRetire_waits (s : State) (c : Ctx) (ds : List Nat) (x : Option Nat) : (s.pairRetire c ds x).waits = s.waits := by simp only [State.pairRetire]; split <;> simp
@[simp] theorem State.pairRetire_recovery (s : State) (c : Ctx) (ds : List Nat) (x : Option Nat) : (s.pairRetire c ds x).recovery = s.recovery := by simp only [State.pairRetire]; split <;> simp
@[simp] theorem State.pairRetire_ports (s : State) (c : Ctx) (ds : List Nat) (x : Option Nat) : (s.pairRetire c ds x).ports = s.ports := by simp only [State.pairRetire]; split <;> simp
@[simp] theorem State.pairRetire_routes (s : State) (c : Ctx) (ds : List Nat) (x : Option Nat) : (s.pairRetire c ds x).routes = s.routes := by simp only [State.pairRetire]; split <;> simp
@[simp] theorem State.pairRetire_groups (s : State) (c : Ctx) (ds : List Nat) (x : Option Nat) : (s.pairRetire c ds x).groups = s.groups := by simp only [State.pairRetire]; split <;> simp
@[simp] theorem State.pairRetire_packets (s : State) (c : Ctx) (ds : List Nat) (x : Option Nat) : (s.pairRetire c ds x).packets = s.packets := by simp only [State.pairRetire]; split <;> simp
@[simp] theorem State.pairRetire_hubPorts (s : State) (c : Ctx) (ds : List Nat) (x : Option Nat) : (s.pairRetire c ds x).hubPorts = s.hubPorts := by simp only [State.pairRetire]; split <;> simp
@[simp] theorem State.pairRetire_peers (s : State) (c : Ctx) (ds : List Nat) (x : Option Nat) : (s.pairRetire c ds x).peers = s.peers := by simp only [State.pairRetire]; split <;> simp
@[simp] theorem State.pairRetire_regions (s : State) (c : Ctx) (ds : List Nat) (x : Option Nat) : (s.pairRetire c ds x).regions = s.regions := by simp only [State.pairRetire]; split <;> simp
@[simp] theorem State.pairRetire_delivery (s : State) (c : Ctx) (ds : List Nat) (x : Option Nat) : (s.pairRetire c ds x).delivery = s.delivery := by simp only [State.pairRetire]; split <;> simp
@[simp] theorem State.pairRetire_transfers (s : State) (c : Ctx) (ds : List Nat) (x : Option Nat) : (s.pairRetire c ds x).transfers = s.transfers := by simp only [State.pairRetire]; split <;> simp
@[simp] theorem State.pairRetire_inbound (s : State) (c : Ctx) (ds : List Nat) (x : Option Nat) : (s.pairRetire c ds x).inbound = s.inbound := by simp only [State.pairRetire]; split <;> simp
@[simp] theorem State.pairRetire_ether (s : State) (c : Ctx) (ds : List Nat) (x : Option Nat) : (s.pairRetire c ds x).ether = s.ether := by simp only [State.pairRetire]; split <;> simp
@[simp] theorem State.pairRetire_xportLog (s : State) (c : Ctx) (ds : List Nat) (x : Option Nat) : (s.pairRetire c ds x).xportLog = s.xportLog := by simp only [State.pairRetire]; split <;> simp
@[simp] theorem State.pairRetire_xportCancels (s : State) (c : Ctx) (ds : List Nat) (x : Option Nat) : (s.pairRetire c ds x).xportCancels = s.xportCancels := by simp only [State.pairRetire]; split <;> simp
@[simp] theorem State.pairRetire_traces (s : State) (c : Ctx) (ds : List Nat) (x : Option Nat) : (s.pairRetire c ds x).traces = s.traces := by simp only [State.pairRetire]; split <;> simp
@[simp] theorem State.pairRetire_clusters (s : State) (c : Ctx) (ds : List Nat) (x : Option Nat) : (s.pairRetire c ds x).clusters = s.clusters := by simp only [State.pairRetire]; split <;> simp
@[simp] theorem State.pairRetire_columns (s : State) (c : Ctx) (ds : List Nat) (x : Option Nat) : (s.pairRetire c ds x).columns = s.columns := by simp only [State.pairRetire]; split <;> simp
@[simp] theorem State.pairRetire_degraded (s : State) (c : Ctx) (ds : List Nat) (x : Option Nat) : (s.pairRetire c ds x).degraded = s.degraded := by simp only [State.pairRetire]; split <;> simp
@[simp] theorem State.pairRetire_dieRecs (s : State) (c : Ctx) (ds : List Nat) (x : Option Nat) : (s.pairRetire c ds x).dieRecs = s.dieRecs := by simp only [State.pairRetire]; split <;> simp
@[simp] theorem State.pairRetire_errLogs (s : State) (c : Ctx) (ds : List Nat) (x : Option Nat) : (s.pairRetire c ds x).errLogs = s.errLogs := by simp only [State.pairRetire]; split <;> simp
@[simp] theorem State.pairRetire_scrubInt (s : State) (c : Ctx) (ds : List Nat) (x : Option Nat) : (s.pairRetire c ds x).scrubInt = s.scrubInt := by simp only [State.pairRetire]; split <;> simp
@[simp] theorem State.pairRetire_scrubPos (s : State) (c : Ctx) (ds : List Nat) (x : Option Nat) : (s.pairRetire c ds x).scrubPos = s.scrubPos := by simp only [State.pairRetire]; split <;> simp
@[simp] theorem State.pairRetire_channels (s : State) (c : Ctx) (ds : List Nat) (x : Option Nat) : (s.pairRetire c ds x).channels = s.channels := by simp only [State.pairRetire]; split <;> simp
@[simp] theorem State.pairRetire_harts (s : State) (c : Ctx) (ds : List Nat) (x : Option Nat) : (s.pairRetire c ds x).harts = s.harts := by simp only [State.pairRetire]; split <;> simp
@[simp] theorem State.pairRetire_firmware (s : State) (c : Ctx) (ds : List Nat) (x : Option Nat) : (s.pairRetire c ds x).firmware = s.firmware := by simp only [State.pairRetire]; split <;> simp
@[simp] theorem State.pairRetire_power (s : State) (c : Ctx) (ds : List Nat) (x : Option Nat) : (s.pairRetire c ds x).power = s.power := by simp only [State.pairRetire]; split <;> simp
@[simp] theorem State.pairRetire_time (s : State) (c : Ctx) (ds : List Nat) (x : Option Nat) : (s.pairRetire c ds x).time = s.time := by simp only [State.pairRetire]; split <;> simp
@[simp] theorem State.pairRetire_nextId (s : State) (c : Ctx) (ds : List Nat) (x : Option Nat) : (s.pairRetire c ds x).nextId = s.nextId := by simp only [State.pairRetire]; split <;> simp
@[simp] theorem State.pairRetire_tick (s : State) (c : Ctx) (ds : List Nat) (x : Option Nat) : (s.pairRetire c ds x).tick = s.tick := by simp only [State.pairRetire]; split <;> simp
@[simp] theorem State.pairRetire_agenda (s : State) (c : Ctx) (ds : List Nat) (x : Option Nat) : (s.pairRetire c ds x).agenda = s.agenda := by simp only [State.pairRetire]; split <;> simp
@[simp] theorem State.pairRetire_cur (s : State) (c : Ctx) (ds : List Nat) (x : Option Nat) : (s.pairRetire c ds x).cur = s.cur := by simp only [State.pairRetire]; split <;> simp
@[simp] theorem State.pairRetire_readout (s : State) (c : Ctx) (ds : List Nat) (x : Option Nat) : (s.pairRetire c ds x).readout = s.readout := by simp only [State.pairRetire]; split <;> simp

@[simp] theorem State.pairStore_devNum (s : State) (c : Ctx) (a : Addr) (v : Word) : (s.pairStore c a v).devNum = s.devNum := by simp only [State.pairStore]; split <;> simp
@[simp] theorem State.pairStore_ns (s : State) (c : Ctx) (a : Addr) (v : Word) : (s.pairStore c a v).ns = s.ns := by simp only [State.pairStore]; split <;> simp
@[simp] theorem State.pairStore_mem (s : State) (c : Ctx) (a : Addr) (v : Word) : (s.pairStore c a v).mem = s.mem := by simp only [State.pairStore]; split <;> simp
@[simp] theorem State.pairStore_poison (s : State) (c : Ctx) (a : Addr) (v : Word) : (s.pairStore c a v).poison = s.poison := by simp only [State.pairStore]; split <;> simp
@[simp] theorem State.pairStore_upsets (s : State) (c : Ctx) (a : Addr) (v : Word) : (s.pairStore c a v).upsets = s.upsets := by simp only [State.pairStore]; split <;> simp
@[simp] theorem State.pairStore_acts (s : State) (c : Ctx) (a : Addr) (v : Word) : (s.pairStore c a v).acts = s.acts := by simp only [State.pairStore]; split <;> simp
@[simp] theorem State.pairStore_progs (s : State) (c : Ctx) (a : Addr) (v : Word) : (s.pairStore c a v).progs = s.progs := by simp only [State.pairStore]; split <;> simp
@[simp] theorem State.pairStore_copies (s : State) (c : Ctx) (a : Addr) (v : Word) : (s.pairStore c a v).copies = s.copies := by simp only [State.pairStore]; split <;> simp
@[simp] theorem State.pairStore_markers (s : State) (c : Ctx) (a : Addr) (v : Word) : (s.pairStore c a v).markers = s.markers := by simp only [State.pairStore]; split <;> simp
@[simp] theorem State.pairStore_flights (s : State) (c : Ctx) (a : Addr) (v : Word) : (s.pairStore c a v).flights = s.flights := by simp only [State.pairStore]; split <;> simp
@[simp] theorem State.pairStore_msgs (s : State) (c : Ctx) (a : Addr) (v : Word) : (s.pairStore c a v).msgs = s.msgs := by simp only [State.pairStore]; split <;> simp
@[simp] theorem State.pairStore_ctls (s : State) (c : Ctx) (a : Addr) (v : Word) : (s.pairStore c a v).ctls = s.ctls := by simp only [State.pairStore]; split <;> simp
@[simp] theorem State.pairStore_asks (s : State) (c : Ctx) (a : Addr) (v : Word) : (s.pairStore c a v).asks = s.asks := by simp only [State.pairStore]; split <;> simp
@[simp] theorem State.pairStore_credits (s : State) (c : Ctx) (a : Addr) (v : Word) : (s.pairStore c a v).credits = s.credits := by simp only [State.pairStore]; split <;> simp
@[simp] theorem State.pairStore_wakes (s : State) (c : Ctx) (a : Addr) (v : Word) : (s.pairStore c a v).wakes = s.wakes := by simp only [State.pairStore]; split <;> simp
@[simp] theorem State.pairStore_arrivals (s : State) (c : Ctx) (a : Addr) (v : Word) : (s.pairStore c a v).arrivals = s.arrivals := by simp only [State.pairStore]; split <;> simp
@[simp] theorem State.pairStore_hubPaths (s : State) (c : Ctx) (a : Addr) (v : Word) : (s.pairStore c a v).hubPaths = s.hubPaths := by simp only [State.pairStore]; split <;> simp
@[simp] theorem State.pairStore_bells (s : State) (c : Ctx) (a : Addr) (v : Word) : (s.pairStore c a v).bells = s.bells := by simp only [State.pairStore]; split <;> simp
@[simp] theorem State.pairStore_dues (s : State) (c : Ctx) (a : Addr) (v : Word) : (s.pairStore c a v).dues = s.dues := by simp only [State.pairStore]; split <;> simp
@[simp] theorem State.pairStore_gangs (s : State) (c : Ctx) (a : Addr) (v : Word) : (s.pairStore c a v).gangs = s.gangs := by simp only [State.pairStore]; split <;> simp
@[simp] theorem State.pairStore_atomics (s : State) (c : Ctx) (a : Addr) (v : Word) : (s.pairStore c a v).atomics = s.atomics := by simp only [State.pairStore]; split <;> simp
@[simp] theorem State.pairStore_fields (s : State) (c : Ctx) (a : Addr) (v : Word) : (s.pairStore c a v).fields = s.fields := by simp only [State.pairStore]; split <;> simp
@[simp] theorem State.pairStore_saved (s : State) (c : Ctx) (a : Addr) (v : Word) : (s.pairStore c a v).saved = s.saved := by simp only [State.pairStore]; split <;> simp
@[simp] theorem State.pairStore_queues (s : State) (c : Ctx) (a : Addr) (v : Word) : (s.pairStore c a v).queues = s.queues := by simp only [State.pairStore]; split <;> simp
@[simp] theorem State.pairStore_cps (s : State) (c : Ctx) (a : Addr) (v : Word) : (s.pairStore c a v).cps = s.cps := by simp only [State.pairStore]; split <;> simp
@[simp] theorem State.pairStore_launches (s : State) (c : Ctx) (a : Addr) (v : Word) : (s.pairStore c a v).launches = s.launches := by simp only [State.pairStore]; split <;> simp
@[simp] theorem State.pairStore_agents (s : State) (c : Ctx) (a : Addr) (v : Word) : (s.pairStore c a v).agents = s.agents := by simp only [State.pairStore]; split <;> simp
@[simp] theorem State.pairStore_faults (s : State) (c : Ctx) (a : Addr) (v : Word) : (s.pairStore c a v).faults = s.faults := by simp only [State.pairStore]; split <;> simp
@[simp] theorem State.pairStore_waits (s : State) (c : Ctx) (a : Addr) (v : Word) : (s.pairStore c a v).waits = s.waits := by simp only [State.pairStore]; split <;> simp
@[simp] theorem State.pairStore_recovery (s : State) (c : Ctx) (a : Addr) (v : Word) : (s.pairStore c a v).recovery = s.recovery := by simp only [State.pairStore]; split <;> simp
@[simp] theorem State.pairStore_ports (s : State) (c : Ctx) (a : Addr) (v : Word) : (s.pairStore c a v).ports = s.ports := by simp only [State.pairStore]; split <;> simp
@[simp] theorem State.pairStore_routes (s : State) (c : Ctx) (a : Addr) (v : Word) : (s.pairStore c a v).routes = s.routes := by simp only [State.pairStore]; split <;> simp
@[simp] theorem State.pairStore_groups (s : State) (c : Ctx) (a : Addr) (v : Word) : (s.pairStore c a v).groups = s.groups := by simp only [State.pairStore]; split <;> simp
@[simp] theorem State.pairStore_packets (s : State) (c : Ctx) (a : Addr) (v : Word) : (s.pairStore c a v).packets = s.packets := by simp only [State.pairStore]; split <;> simp
@[simp] theorem State.pairStore_hubPorts (s : State) (c : Ctx) (a : Addr) (v : Word) : (s.pairStore c a v).hubPorts = s.hubPorts := by simp only [State.pairStore]; split <;> simp
@[simp] theorem State.pairStore_peers (s : State) (c : Ctx) (a : Addr) (v : Word) : (s.pairStore c a v).peers = s.peers := by simp only [State.pairStore]; split <;> simp
@[simp] theorem State.pairStore_regions (s : State) (c : Ctx) (a : Addr) (v : Word) : (s.pairStore c a v).regions = s.regions := by simp only [State.pairStore]; split <;> simp
@[simp] theorem State.pairStore_delivery (s : State) (c : Ctx) (a : Addr) (v : Word) : (s.pairStore c a v).delivery = s.delivery := by simp only [State.pairStore]; split <;> simp
@[simp] theorem State.pairStore_transfers (s : State) (c : Ctx) (a : Addr) (v : Word) : (s.pairStore c a v).transfers = s.transfers := by simp only [State.pairStore]; split <;> simp
@[simp] theorem State.pairStore_inbound (s : State) (c : Ctx) (a : Addr) (v : Word) : (s.pairStore c a v).inbound = s.inbound := by simp only [State.pairStore]; split <;> simp
@[simp] theorem State.pairStore_ether (s : State) (c : Ctx) (a : Addr) (v : Word) : (s.pairStore c a v).ether = s.ether := by simp only [State.pairStore]; split <;> simp
@[simp] theorem State.pairStore_xportLog (s : State) (c : Ctx) (a : Addr) (v : Word) : (s.pairStore c a v).xportLog = s.xportLog := by simp only [State.pairStore]; split <;> simp
@[simp] theorem State.pairStore_xportCancels (s : State) (c : Ctx) (a : Addr) (v : Word) : (s.pairStore c a v).xportCancels = s.xportCancels := by simp only [State.pairStore]; split <;> simp
@[simp] theorem State.pairStore_traces (s : State) (c : Ctx) (a : Addr) (v : Word) : (s.pairStore c a v).traces = s.traces := by simp only [State.pairStore]; split <;> simp
@[simp] theorem State.pairStore_clusters (s : State) (c : Ctx) (a : Addr) (v : Word) : (s.pairStore c a v).clusters = s.clusters := by simp only [State.pairStore]; split <;> simp
@[simp] theorem State.pairStore_columns (s : State) (c : Ctx) (a : Addr) (v : Word) : (s.pairStore c a v).columns = s.columns := by simp only [State.pairStore]; split <;> simp
@[simp] theorem State.pairStore_degraded (s : State) (c : Ctx) (a : Addr) (v : Word) : (s.pairStore c a v).degraded = s.degraded := by simp only [State.pairStore]; split <;> simp
@[simp] theorem State.pairStore_dieRecs (s : State) (c : Ctx) (a : Addr) (v : Word) : (s.pairStore c a v).dieRecs = s.dieRecs := by simp only [State.pairStore]; split <;> simp
@[simp] theorem State.pairStore_errLogs (s : State) (c : Ctx) (a : Addr) (v : Word) : (s.pairStore c a v).errLogs = s.errLogs := by simp only [State.pairStore]; split <;> simp
@[simp] theorem State.pairStore_scrubInt (s : State) (c : Ctx) (a : Addr) (v : Word) : (s.pairStore c a v).scrubInt = s.scrubInt := by simp only [State.pairStore]; split <;> simp
@[simp] theorem State.pairStore_scrubPos (s : State) (c : Ctx) (a : Addr) (v : Word) : (s.pairStore c a v).scrubPos = s.scrubPos := by simp only [State.pairStore]; split <;> simp
@[simp] theorem State.pairStore_channels (s : State) (c : Ctx) (a : Addr) (v : Word) : (s.pairStore c a v).channels = s.channels := by simp only [State.pairStore]; split <;> simp
@[simp] theorem State.pairStore_harts (s : State) (c : Ctx) (a : Addr) (v : Word) : (s.pairStore c a v).harts = s.harts := by simp only [State.pairStore]; split <;> simp
@[simp] theorem State.pairStore_firmware (s : State) (c : Ctx) (a : Addr) (v : Word) : (s.pairStore c a v).firmware = s.firmware := by simp only [State.pairStore]; split <;> simp
@[simp] theorem State.pairStore_power (s : State) (c : Ctx) (a : Addr) (v : Word) : (s.pairStore c a v).power = s.power := by simp only [State.pairStore]; split <;> simp
@[simp] theorem State.pairStore_time (s : State) (c : Ctx) (a : Addr) (v : Word) : (s.pairStore c a v).time = s.time := by simp only [State.pairStore]; split <;> simp
@[simp] theorem State.pairStore_nextId (s : State) (c : Ctx) (a : Addr) (v : Word) : (s.pairStore c a v).nextId = s.nextId := by simp only [State.pairStore]; split <;> simp
@[simp] theorem State.pairStore_tick (s : State) (c : Ctx) (a : Addr) (v : Word) : (s.pairStore c a v).tick = s.tick := by simp only [State.pairStore]; split <;> simp
@[simp] theorem State.pairStore_agenda (s : State) (c : Ctx) (a : Addr) (v : Word) : (s.pairStore c a v).agenda = s.agenda := by simp only [State.pairStore]; split <;> simp
@[simp] theorem State.pairStore_cur (s : State) (c : Ctx) (a : Addr) (v : Word) : (s.pairStore c a v).cur = s.cur := by simp only [State.pairStore]; split <;> simp
@[simp] theorem State.pairStore_readout (s : State) (c : Ctx) (a : Addr) (v : Word) : (s.pairStore c a v).readout = s.readout := by simp only [State.pairStore]; split <;> simp

@[simp] theorem State.modAct_devNum (s : State) (a : Nat) (f : Act → Act) : (s.modAct a f).devNum = s.devNum := by simp only [State.modAct]; split <;> rfl
@[simp] theorem State.modAct_ns (s : State) (a : Nat) (f : Act → Act) : (s.modAct a f).ns = s.ns := by simp only [State.modAct]; split <;> rfl
@[simp] theorem State.modAct_mem (s : State) (a : Nat) (f : Act → Act) : (s.modAct a f).mem = s.mem := by simp only [State.modAct]; split <;> rfl
@[simp] theorem State.modAct_poison (s : State) (a : Nat) (f : Act → Act) : (s.modAct a f).poison = s.poison := by simp only [State.modAct]; split <;> rfl
@[simp] theorem State.modAct_upsets (s : State) (a : Nat) (f : Act → Act) : (s.modAct a f).upsets = s.upsets := by simp only [State.modAct]; split <;> rfl
@[simp] theorem State.modAct_cells (s : State) (a : Nat) (f : Act → Act) : (s.modAct a f).cells = s.cells := by simp only [State.modAct]; split <;> rfl
@[simp] theorem State.modAct_progs (s : State) (a : Nat) (f : Act → Act) : (s.modAct a f).progs = s.progs := by simp only [State.modAct]; split <;> rfl
@[simp] theorem State.modAct_copies (s : State) (a : Nat) (f : Act → Act) : (s.modAct a f).copies = s.copies := by simp only [State.modAct]; split <;> rfl
@[simp] theorem State.modAct_markers (s : State) (a : Nat) (f : Act → Act) : (s.modAct a f).markers = s.markers := by simp only [State.modAct]; split <;> rfl
@[simp] theorem State.modAct_flights (s : State) (a : Nat) (f : Act → Act) : (s.modAct a f).flights = s.flights := by simp only [State.modAct]; split <;> rfl
@[simp] theorem State.modAct_msgs (s : State) (a : Nat) (f : Act → Act) : (s.modAct a f).msgs = s.msgs := by simp only [State.modAct]; split <;> rfl
@[simp] theorem State.modAct_ctls (s : State) (a : Nat) (f : Act → Act) : (s.modAct a f).ctls = s.ctls := by simp only [State.modAct]; split <;> rfl
@[simp] theorem State.modAct_asks (s : State) (a : Nat) (f : Act → Act) : (s.modAct a f).asks = s.asks := by simp only [State.modAct]; split <;> rfl
@[simp] theorem State.modAct_credits (s : State) (a : Nat) (f : Act → Act) : (s.modAct a f).credits = s.credits := by simp only [State.modAct]; split <;> rfl
@[simp] theorem State.modAct_wakes (s : State) (a : Nat) (f : Act → Act) : (s.modAct a f).wakes = s.wakes := by simp only [State.modAct]; split <;> rfl
@[simp] theorem State.modAct_arrivals (s : State) (a : Nat) (f : Act → Act) : (s.modAct a f).arrivals = s.arrivals := by simp only [State.modAct]; split <;> rfl
@[simp] theorem State.modAct_hubPaths (s : State) (a : Nat) (f : Act → Act) : (s.modAct a f).hubPaths = s.hubPaths := by simp only [State.modAct]; split <;> rfl
@[simp] theorem State.modAct_bells (s : State) (a : Nat) (f : Act → Act) : (s.modAct a f).bells = s.bells := by simp only [State.modAct]; split <;> rfl
@[simp] theorem State.modAct_dues (s : State) (a : Nat) (f : Act → Act) : (s.modAct a f).dues = s.dues := by simp only [State.modAct]; split <;> rfl
@[simp] theorem State.modAct_gangs (s : State) (a : Nat) (f : Act → Act) : (s.modAct a f).gangs = s.gangs := by simp only [State.modAct]; split <;> rfl
@[simp] theorem State.modAct_atomics (s : State) (a : Nat) (f : Act → Act) : (s.modAct a f).atomics = s.atomics := by simp only [State.modAct]; split <;> rfl
@[simp] theorem State.modAct_fields (s : State) (a : Nat) (f : Act → Act) : (s.modAct a f).fields = s.fields := by simp only [State.modAct]; split <;> rfl
@[simp] theorem State.modAct_saved (s : State) (a : Nat) (f : Act → Act) : (s.modAct a f).saved = s.saved := by simp only [State.modAct]; split <;> rfl
@[simp] theorem State.modAct_queues (s : State) (a : Nat) (f : Act → Act) : (s.modAct a f).queues = s.queues := by simp only [State.modAct]; split <;> rfl
@[simp] theorem State.modAct_cps (s : State) (a : Nat) (f : Act → Act) : (s.modAct a f).cps = s.cps := by simp only [State.modAct]; split <;> rfl
@[simp] theorem State.modAct_launches (s : State) (a : Nat) (f : Act → Act) : (s.modAct a f).launches = s.launches := by simp only [State.modAct]; split <;> rfl
@[simp] theorem State.modAct_agents (s : State) (a : Nat) (f : Act → Act) : (s.modAct a f).agents = s.agents := by simp only [State.modAct]; split <;> rfl
@[simp] theorem State.modAct_faults (s : State) (a : Nat) (f : Act → Act) : (s.modAct a f).faults = s.faults := by simp only [State.modAct]; split <;> rfl
@[simp] theorem State.modAct_waits (s : State) (a : Nat) (f : Act → Act) : (s.modAct a f).waits = s.waits := by simp only [State.modAct]; split <;> rfl
@[simp] theorem State.modAct_recovery (s : State) (a : Nat) (f : Act → Act) : (s.modAct a f).recovery = s.recovery := by simp only [State.modAct]; split <;> rfl
@[simp] theorem State.modAct_ports (s : State) (a : Nat) (f : Act → Act) : (s.modAct a f).ports = s.ports := by simp only [State.modAct]; split <;> rfl
@[simp] theorem State.modAct_routes (s : State) (a : Nat) (f : Act → Act) : (s.modAct a f).routes = s.routes := by simp only [State.modAct]; split <;> rfl
@[simp] theorem State.modAct_groups (s : State) (a : Nat) (f : Act → Act) : (s.modAct a f).groups = s.groups := by simp only [State.modAct]; split <;> rfl
@[simp] theorem State.modAct_packets (s : State) (a : Nat) (f : Act → Act) : (s.modAct a f).packets = s.packets := by simp only [State.modAct]; split <;> rfl
@[simp] theorem State.modAct_hubPorts (s : State) (a : Nat) (f : Act → Act) : (s.modAct a f).hubPorts = s.hubPorts := by simp only [State.modAct]; split <;> rfl
@[simp] theorem State.modAct_peers (s : State) (a : Nat) (f : Act → Act) : (s.modAct a f).peers = s.peers := by simp only [State.modAct]; split <;> rfl
@[simp] theorem State.modAct_regions (s : State) (a : Nat) (f : Act → Act) : (s.modAct a f).regions = s.regions := by simp only [State.modAct]; split <;> rfl
@[simp] theorem State.modAct_delivery (s : State) (a : Nat) (f : Act → Act) : (s.modAct a f).delivery = s.delivery := by simp only [State.modAct]; split <;> rfl
@[simp] theorem State.modAct_transfers (s : State) (a : Nat) (f : Act → Act) : (s.modAct a f).transfers = s.transfers := by simp only [State.modAct]; split <;> rfl
@[simp] theorem State.modAct_inbound (s : State) (a : Nat) (f : Act → Act) : (s.modAct a f).inbound = s.inbound := by simp only [State.modAct]; split <;> rfl
@[simp] theorem State.modAct_ether (s : State) (a : Nat) (f : Act → Act) : (s.modAct a f).ether = s.ether := by simp only [State.modAct]; split <;> rfl
@[simp] theorem State.modAct_xportLog (s : State) (a : Nat) (f : Act → Act) : (s.modAct a f).xportLog = s.xportLog := by simp only [State.modAct]; split <;> rfl
@[simp] theorem State.modAct_xportCancels (s : State) (a : Nat) (f : Act → Act) : (s.modAct a f).xportCancels = s.xportCancels := by simp only [State.modAct]; split <;> rfl
@[simp] theorem State.modAct_traces (s : State) (a : Nat) (f : Act → Act) : (s.modAct a f).traces = s.traces := by simp only [State.modAct]; split <;> rfl
@[simp] theorem State.modAct_clusters (s : State) (a : Nat) (f : Act → Act) : (s.modAct a f).clusters = s.clusters := by simp only [State.modAct]; split <;> rfl
@[simp] theorem State.modAct_columns (s : State) (a : Nat) (f : Act → Act) : (s.modAct a f).columns = s.columns := by simp only [State.modAct]; split <;> rfl
@[simp] theorem State.modAct_degraded (s : State) (a : Nat) (f : Act → Act) : (s.modAct a f).degraded = s.degraded := by simp only [State.modAct]; split <;> rfl
@[simp] theorem State.modAct_dieRecs (s : State) (a : Nat) (f : Act → Act) : (s.modAct a f).dieRecs = s.dieRecs := by simp only [State.modAct]; split <;> rfl
@[simp] theorem State.modAct_errLogs (s : State) (a : Nat) (f : Act → Act) : (s.modAct a f).errLogs = s.errLogs := by simp only [State.modAct]; split <;> rfl
@[simp] theorem State.modAct_scrubInt (s : State) (a : Nat) (f : Act → Act) : (s.modAct a f).scrubInt = s.scrubInt := by simp only [State.modAct]; split <;> rfl
@[simp] theorem State.modAct_scrubPos (s : State) (a : Nat) (f : Act → Act) : (s.modAct a f).scrubPos = s.scrubPos := by simp only [State.modAct]; split <;> rfl
@[simp] theorem State.modAct_channels (s : State) (a : Nat) (f : Act → Act) : (s.modAct a f).channels = s.channels := by simp only [State.modAct]; split <;> rfl
@[simp] theorem State.modAct_harts (s : State) (a : Nat) (f : Act → Act) : (s.modAct a f).harts = s.harts := by simp only [State.modAct]; split <;> rfl
@[simp] theorem State.modAct_firmware (s : State) (a : Nat) (f : Act → Act) : (s.modAct a f).firmware = s.firmware := by simp only [State.modAct]; split <;> rfl
@[simp] theorem State.modAct_power (s : State) (a : Nat) (f : Act → Act) : (s.modAct a f).power = s.power := by simp only [State.modAct]; split <;> rfl
@[simp] theorem State.modAct_time (s : State) (a : Nat) (f : Act → Act) : (s.modAct a f).time = s.time := by simp only [State.modAct]; split <;> rfl
@[simp] theorem State.modAct_nextId (s : State) (a : Nat) (f : Act → Act) : (s.modAct a f).nextId = s.nextId := by simp only [State.modAct]; split <;> rfl
@[simp] theorem State.modAct_tick (s : State) (a : Nat) (f : Act → Act) : (s.modAct a f).tick = s.tick := by simp only [State.modAct]; split <;> rfl
@[simp] theorem State.modAct_agenda (s : State) (a : Nat) (f : Act → Act) : (s.modAct a f).agenda = s.agenda := by simp only [State.modAct]; split <;> rfl
@[simp] theorem State.modAct_cur (s : State) (a : Nat) (f : Act → Act) : (s.modAct a f).cur = s.cur := by simp only [State.modAct]; split <;> rfl
@[simp] theorem State.modAct_readout (s : State) (a : Nat) (f : Act → Act) : (s.modAct a f).readout = s.readout := by simp only [State.modAct]; split <;> rfl

@[simp] theorem State.modProg_devNum (s : State) (p : Nat) (f : Prog → Prog) : (s.modProg p f).devNum = s.devNum := by simp only [State.modProg]; split <;> rfl
@[simp] theorem State.modProg_ns (s : State) (p : Nat) (f : Prog → Prog) : (s.modProg p f).ns = s.ns := by simp only [State.modProg]; split <;> rfl
@[simp] theorem State.modProg_mem (s : State) (p : Nat) (f : Prog → Prog) : (s.modProg p f).mem = s.mem := by simp only [State.modProg]; split <;> rfl
@[simp] theorem State.modProg_poison (s : State) (p : Nat) (f : Prog → Prog) : (s.modProg p f).poison = s.poison := by simp only [State.modProg]; split <;> rfl
@[simp] theorem State.modProg_upsets (s : State) (p : Nat) (f : Prog → Prog) : (s.modProg p f).upsets = s.upsets := by simp only [State.modProg]; split <;> rfl
@[simp] theorem State.modProg_cells (s : State) (p : Nat) (f : Prog → Prog) : (s.modProg p f).cells = s.cells := by simp only [State.modProg]; split <;> rfl
@[simp] theorem State.modProg_acts (s : State) (p : Nat) (f : Prog → Prog) : (s.modProg p f).acts = s.acts := by simp only [State.modProg]; split <;> rfl
@[simp] theorem State.modProg_copies (s : State) (p : Nat) (f : Prog → Prog) : (s.modProg p f).copies = s.copies := by simp only [State.modProg]; split <;> rfl
@[simp] theorem State.modProg_markers (s : State) (p : Nat) (f : Prog → Prog) : (s.modProg p f).markers = s.markers := by simp only [State.modProg]; split <;> rfl
@[simp] theorem State.modProg_flights (s : State) (p : Nat) (f : Prog → Prog) : (s.modProg p f).flights = s.flights := by simp only [State.modProg]; split <;> rfl
@[simp] theorem State.modProg_msgs (s : State) (p : Nat) (f : Prog → Prog) : (s.modProg p f).msgs = s.msgs := by simp only [State.modProg]; split <;> rfl
@[simp] theorem State.modProg_ctls (s : State) (p : Nat) (f : Prog → Prog) : (s.modProg p f).ctls = s.ctls := by simp only [State.modProg]; split <;> rfl
@[simp] theorem State.modProg_asks (s : State) (p : Nat) (f : Prog → Prog) : (s.modProg p f).asks = s.asks := by simp only [State.modProg]; split <;> rfl
@[simp] theorem State.modProg_credits (s : State) (p : Nat) (f : Prog → Prog) : (s.modProg p f).credits = s.credits := by simp only [State.modProg]; split <;> rfl
@[simp] theorem State.modProg_wakes (s : State) (p : Nat) (f : Prog → Prog) : (s.modProg p f).wakes = s.wakes := by simp only [State.modProg]; split <;> rfl
@[simp] theorem State.modProg_arrivals (s : State) (p : Nat) (f : Prog → Prog) : (s.modProg p f).arrivals = s.arrivals := by simp only [State.modProg]; split <;> rfl
@[simp] theorem State.modProg_hubPaths (s : State) (p : Nat) (f : Prog → Prog) : (s.modProg p f).hubPaths = s.hubPaths := by simp only [State.modProg]; split <;> rfl
@[simp] theorem State.modProg_bells (s : State) (p : Nat) (f : Prog → Prog) : (s.modProg p f).bells = s.bells := by simp only [State.modProg]; split <;> rfl
@[simp] theorem State.modProg_dues (s : State) (p : Nat) (f : Prog → Prog) : (s.modProg p f).dues = s.dues := by simp only [State.modProg]; split <;> rfl
@[simp] theorem State.modProg_gangs (s : State) (p : Nat) (f : Prog → Prog) : (s.modProg p f).gangs = s.gangs := by simp only [State.modProg]; split <;> rfl
@[simp] theorem State.modProg_atomics (s : State) (p : Nat) (f : Prog → Prog) : (s.modProg p f).atomics = s.atomics := by simp only [State.modProg]; split <;> rfl
@[simp] theorem State.modProg_fields (s : State) (p : Nat) (f : Prog → Prog) : (s.modProg p f).fields = s.fields := by simp only [State.modProg]; split <;> rfl
@[simp] theorem State.modProg_saved (s : State) (p : Nat) (f : Prog → Prog) : (s.modProg p f).saved = s.saved := by simp only [State.modProg]; split <;> rfl
@[simp] theorem State.modProg_queues (s : State) (p : Nat) (f : Prog → Prog) : (s.modProg p f).queues = s.queues := by simp only [State.modProg]; split <;> rfl
@[simp] theorem State.modProg_cps (s : State) (p : Nat) (f : Prog → Prog) : (s.modProg p f).cps = s.cps := by simp only [State.modProg]; split <;> rfl
@[simp] theorem State.modProg_launches (s : State) (p : Nat) (f : Prog → Prog) : (s.modProg p f).launches = s.launches := by simp only [State.modProg]; split <;> rfl
@[simp] theorem State.modProg_agents (s : State) (p : Nat) (f : Prog → Prog) : (s.modProg p f).agents = s.agents := by simp only [State.modProg]; split <;> rfl
@[simp] theorem State.modProg_faults (s : State) (p : Nat) (f : Prog → Prog) : (s.modProg p f).faults = s.faults := by simp only [State.modProg]; split <;> rfl
@[simp] theorem State.modProg_waits (s : State) (p : Nat) (f : Prog → Prog) : (s.modProg p f).waits = s.waits := by simp only [State.modProg]; split <;> rfl
@[simp] theorem State.modProg_recovery (s : State) (p : Nat) (f : Prog → Prog) : (s.modProg p f).recovery = s.recovery := by simp only [State.modProg]; split <;> rfl
@[simp] theorem State.modProg_ports (s : State) (p : Nat) (f : Prog → Prog) : (s.modProg p f).ports = s.ports := by simp only [State.modProg]; split <;> rfl
@[simp] theorem State.modProg_routes (s : State) (p : Nat) (f : Prog → Prog) : (s.modProg p f).routes = s.routes := by simp only [State.modProg]; split <;> rfl
@[simp] theorem State.modProg_groups (s : State) (p : Nat) (f : Prog → Prog) : (s.modProg p f).groups = s.groups := by simp only [State.modProg]; split <;> rfl
@[simp] theorem State.modProg_packets (s : State) (p : Nat) (f : Prog → Prog) : (s.modProg p f).packets = s.packets := by simp only [State.modProg]; split <;> rfl
@[simp] theorem State.modProg_hubPorts (s : State) (p : Nat) (f : Prog → Prog) : (s.modProg p f).hubPorts = s.hubPorts := by simp only [State.modProg]; split <;> rfl
@[simp] theorem State.modProg_peers (s : State) (p : Nat) (f : Prog → Prog) : (s.modProg p f).peers = s.peers := by simp only [State.modProg]; split <;> rfl
@[simp] theorem State.modProg_regions (s : State) (p : Nat) (f : Prog → Prog) : (s.modProg p f).regions = s.regions := by simp only [State.modProg]; split <;> rfl
@[simp] theorem State.modProg_delivery (s : State) (p : Nat) (f : Prog → Prog) : (s.modProg p f).delivery = s.delivery := by simp only [State.modProg]; split <;> rfl
@[simp] theorem State.modProg_transfers (s : State) (p : Nat) (f : Prog → Prog) : (s.modProg p f).transfers = s.transfers := by simp only [State.modProg]; split <;> rfl
@[simp] theorem State.modProg_inbound (s : State) (p : Nat) (f : Prog → Prog) : (s.modProg p f).inbound = s.inbound := by simp only [State.modProg]; split <;> rfl
@[simp] theorem State.modProg_ether (s : State) (p : Nat) (f : Prog → Prog) : (s.modProg p f).ether = s.ether := by simp only [State.modProg]; split <;> rfl
@[simp] theorem State.modProg_xportLog (s : State) (p : Nat) (f : Prog → Prog) : (s.modProg p f).xportLog = s.xportLog := by simp only [State.modProg]; split <;> rfl
@[simp] theorem State.modProg_xportCancels (s : State) (p : Nat) (f : Prog → Prog) : (s.modProg p f).xportCancels = s.xportCancels := by simp only [State.modProg]; split <;> rfl
@[simp] theorem State.modProg_traces (s : State) (p : Nat) (f : Prog → Prog) : (s.modProg p f).traces = s.traces := by simp only [State.modProg]; split <;> rfl
@[simp] theorem State.modProg_clusters (s : State) (p : Nat) (f : Prog → Prog) : (s.modProg p f).clusters = s.clusters := by simp only [State.modProg]; split <;> rfl
@[simp] theorem State.modProg_columns (s : State) (p : Nat) (f : Prog → Prog) : (s.modProg p f).columns = s.columns := by simp only [State.modProg]; split <;> rfl
@[simp] theorem State.modProg_degraded (s : State) (p : Nat) (f : Prog → Prog) : (s.modProg p f).degraded = s.degraded := by simp only [State.modProg]; split <;> rfl
@[simp] theorem State.modProg_dieRecs (s : State) (p : Nat) (f : Prog → Prog) : (s.modProg p f).dieRecs = s.dieRecs := by simp only [State.modProg]; split <;> rfl
@[simp] theorem State.modProg_errLogs (s : State) (p : Nat) (f : Prog → Prog) : (s.modProg p f).errLogs = s.errLogs := by simp only [State.modProg]; split <;> rfl
@[simp] theorem State.modProg_scrubInt (s : State) (p : Nat) (f : Prog → Prog) : (s.modProg p f).scrubInt = s.scrubInt := by simp only [State.modProg]; split <;> rfl
@[simp] theorem State.modProg_scrubPos (s : State) (p : Nat) (f : Prog → Prog) : (s.modProg p f).scrubPos = s.scrubPos := by simp only [State.modProg]; split <;> rfl
@[simp] theorem State.modProg_channels (s : State) (p : Nat) (f : Prog → Prog) : (s.modProg p f).channels = s.channels := by simp only [State.modProg]; split <;> rfl
@[simp] theorem State.modProg_harts (s : State) (p : Nat) (f : Prog → Prog) : (s.modProg p f).harts = s.harts := by simp only [State.modProg]; split <;> rfl
@[simp] theorem State.modProg_firmware (s : State) (p : Nat) (f : Prog → Prog) : (s.modProg p f).firmware = s.firmware := by simp only [State.modProg]; split <;> rfl
@[simp] theorem State.modProg_power (s : State) (p : Nat) (f : Prog → Prog) : (s.modProg p f).power = s.power := by simp only [State.modProg]; split <;> rfl
@[simp] theorem State.modProg_time (s : State) (p : Nat) (f : Prog → Prog) : (s.modProg p f).time = s.time := by simp only [State.modProg]; split <;> rfl
@[simp] theorem State.modProg_nextId (s : State) (p : Nat) (f : Prog → Prog) : (s.modProg p f).nextId = s.nextId := by simp only [State.modProg]; split <;> rfl
@[simp] theorem State.modProg_tick (s : State) (p : Nat) (f : Prog → Prog) : (s.modProg p f).tick = s.tick := by simp only [State.modProg]; split <;> rfl
@[simp] theorem State.modProg_agenda (s : State) (p : Nat) (f : Prog → Prog) : (s.modProg p f).agenda = s.agenda := by simp only [State.modProg]; split <;> rfl
@[simp] theorem State.modProg_cur (s : State) (p : Nat) (f : Prog → Prog) : (s.modProg p f).cur = s.cur := by simp only [State.modProg]; split <;> rfl
@[simp] theorem State.modProg_readout (s : State) (p : Nat) (f : Prog → Prog) : (s.modProg p f).readout = s.readout := by simp only [State.modProg]; split <;> rfl

@[simp] theorem State.modCopy_devNum (s : State) (x : Nat) (f : CopyRun → CopyRun) : (s.modCopy x f).devNum = s.devNum := by simp only [State.modCopy]; split <;> rfl
@[simp] theorem State.modCopy_ns (s : State) (x : Nat) (f : CopyRun → CopyRun) : (s.modCopy x f).ns = s.ns := by simp only [State.modCopy]; split <;> rfl
@[simp] theorem State.modCopy_mem (s : State) (x : Nat) (f : CopyRun → CopyRun) : (s.modCopy x f).mem = s.mem := by simp only [State.modCopy]; split <;> rfl
@[simp] theorem State.modCopy_poison (s : State) (x : Nat) (f : CopyRun → CopyRun) : (s.modCopy x f).poison = s.poison := by simp only [State.modCopy]; split <;> rfl
@[simp] theorem State.modCopy_upsets (s : State) (x : Nat) (f : CopyRun → CopyRun) : (s.modCopy x f).upsets = s.upsets := by simp only [State.modCopy]; split <;> rfl
@[simp] theorem State.modCopy_cells (s : State) (x : Nat) (f : CopyRun → CopyRun) : (s.modCopy x f).cells = s.cells := by simp only [State.modCopy]; split <;> rfl
@[simp] theorem State.modCopy_acts (s : State) (x : Nat) (f : CopyRun → CopyRun) : (s.modCopy x f).acts = s.acts := by simp only [State.modCopy]; split <;> rfl
@[simp] theorem State.modCopy_progs (s : State) (x : Nat) (f : CopyRun → CopyRun) : (s.modCopy x f).progs = s.progs := by simp only [State.modCopy]; split <;> rfl
@[simp] theorem State.modCopy_markers (s : State) (x : Nat) (f : CopyRun → CopyRun) : (s.modCopy x f).markers = s.markers := by simp only [State.modCopy]; split <;> rfl
@[simp] theorem State.modCopy_flights (s : State) (x : Nat) (f : CopyRun → CopyRun) : (s.modCopy x f).flights = s.flights := by simp only [State.modCopy]; split <;> rfl
@[simp] theorem State.modCopy_msgs (s : State) (x : Nat) (f : CopyRun → CopyRun) : (s.modCopy x f).msgs = s.msgs := by simp only [State.modCopy]; split <;> rfl
@[simp] theorem State.modCopy_ctls (s : State) (x : Nat) (f : CopyRun → CopyRun) : (s.modCopy x f).ctls = s.ctls := by simp only [State.modCopy]; split <;> rfl
@[simp] theorem State.modCopy_asks (s : State) (x : Nat) (f : CopyRun → CopyRun) : (s.modCopy x f).asks = s.asks := by simp only [State.modCopy]; split <;> rfl
@[simp] theorem State.modCopy_credits (s : State) (x : Nat) (f : CopyRun → CopyRun) : (s.modCopy x f).credits = s.credits := by simp only [State.modCopy]; split <;> rfl
@[simp] theorem State.modCopy_wakes (s : State) (x : Nat) (f : CopyRun → CopyRun) : (s.modCopy x f).wakes = s.wakes := by simp only [State.modCopy]; split <;> rfl
@[simp] theorem State.modCopy_arrivals (s : State) (x : Nat) (f : CopyRun → CopyRun) : (s.modCopy x f).arrivals = s.arrivals := by simp only [State.modCopy]; split <;> rfl
@[simp] theorem State.modCopy_hubPaths (s : State) (x : Nat) (f : CopyRun → CopyRun) : (s.modCopy x f).hubPaths = s.hubPaths := by simp only [State.modCopy]; split <;> rfl
@[simp] theorem State.modCopy_bells (s : State) (x : Nat) (f : CopyRun → CopyRun) : (s.modCopy x f).bells = s.bells := by simp only [State.modCopy]; split <;> rfl
@[simp] theorem State.modCopy_dues (s : State) (x : Nat) (f : CopyRun → CopyRun) : (s.modCopy x f).dues = s.dues := by simp only [State.modCopy]; split <;> rfl
@[simp] theorem State.modCopy_gangs (s : State) (x : Nat) (f : CopyRun → CopyRun) : (s.modCopy x f).gangs = s.gangs := by simp only [State.modCopy]; split <;> rfl
@[simp] theorem State.modCopy_atomics (s : State) (x : Nat) (f : CopyRun → CopyRun) : (s.modCopy x f).atomics = s.atomics := by simp only [State.modCopy]; split <;> rfl
@[simp] theorem State.modCopy_fields (s : State) (x : Nat) (f : CopyRun → CopyRun) : (s.modCopy x f).fields = s.fields := by simp only [State.modCopy]; split <;> rfl
@[simp] theorem State.modCopy_saved (s : State) (x : Nat) (f : CopyRun → CopyRun) : (s.modCopy x f).saved = s.saved := by simp only [State.modCopy]; split <;> rfl
@[simp] theorem State.modCopy_queues (s : State) (x : Nat) (f : CopyRun → CopyRun) : (s.modCopy x f).queues = s.queues := by simp only [State.modCopy]; split <;> rfl
@[simp] theorem State.modCopy_cps (s : State) (x : Nat) (f : CopyRun → CopyRun) : (s.modCopy x f).cps = s.cps := by simp only [State.modCopy]; split <;> rfl
@[simp] theorem State.modCopy_launches (s : State) (x : Nat) (f : CopyRun → CopyRun) : (s.modCopy x f).launches = s.launches := by simp only [State.modCopy]; split <;> rfl
@[simp] theorem State.modCopy_agents (s : State) (x : Nat) (f : CopyRun → CopyRun) : (s.modCopy x f).agents = s.agents := by simp only [State.modCopy]; split <;> rfl
@[simp] theorem State.modCopy_faults (s : State) (x : Nat) (f : CopyRun → CopyRun) : (s.modCopy x f).faults = s.faults := by simp only [State.modCopy]; split <;> rfl
@[simp] theorem State.modCopy_waits (s : State) (x : Nat) (f : CopyRun → CopyRun) : (s.modCopy x f).waits = s.waits := by simp only [State.modCopy]; split <;> rfl
@[simp] theorem State.modCopy_recovery (s : State) (x : Nat) (f : CopyRun → CopyRun) : (s.modCopy x f).recovery = s.recovery := by simp only [State.modCopy]; split <;> rfl
@[simp] theorem State.modCopy_ports (s : State) (x : Nat) (f : CopyRun → CopyRun) : (s.modCopy x f).ports = s.ports := by simp only [State.modCopy]; split <;> rfl
@[simp] theorem State.modCopy_routes (s : State) (x : Nat) (f : CopyRun → CopyRun) : (s.modCopy x f).routes = s.routes := by simp only [State.modCopy]; split <;> rfl
@[simp] theorem State.modCopy_groups (s : State) (x : Nat) (f : CopyRun → CopyRun) : (s.modCopy x f).groups = s.groups := by simp only [State.modCopy]; split <;> rfl
@[simp] theorem State.modCopy_packets (s : State) (x : Nat) (f : CopyRun → CopyRun) : (s.modCopy x f).packets = s.packets := by simp only [State.modCopy]; split <;> rfl
@[simp] theorem State.modCopy_hubPorts (s : State) (x : Nat) (f : CopyRun → CopyRun) : (s.modCopy x f).hubPorts = s.hubPorts := by simp only [State.modCopy]; split <;> rfl
@[simp] theorem State.modCopy_peers (s : State) (x : Nat) (f : CopyRun → CopyRun) : (s.modCopy x f).peers = s.peers := by simp only [State.modCopy]; split <;> rfl
@[simp] theorem State.modCopy_regions (s : State) (x : Nat) (f : CopyRun → CopyRun) : (s.modCopy x f).regions = s.regions := by simp only [State.modCopy]; split <;> rfl
@[simp] theorem State.modCopy_delivery (s : State) (x : Nat) (f : CopyRun → CopyRun) : (s.modCopy x f).delivery = s.delivery := by simp only [State.modCopy]; split <;> rfl
@[simp] theorem State.modCopy_transfers (s : State) (x : Nat) (f : CopyRun → CopyRun) : (s.modCopy x f).transfers = s.transfers := by simp only [State.modCopy]; split <;> rfl
@[simp] theorem State.modCopy_inbound (s : State) (x : Nat) (f : CopyRun → CopyRun) : (s.modCopy x f).inbound = s.inbound := by simp only [State.modCopy]; split <;> rfl
@[simp] theorem State.modCopy_ether (s : State) (x : Nat) (f : CopyRun → CopyRun) : (s.modCopy x f).ether = s.ether := by simp only [State.modCopy]; split <;> rfl
@[simp] theorem State.modCopy_xportLog (s : State) (x : Nat) (f : CopyRun → CopyRun) : (s.modCopy x f).xportLog = s.xportLog := by simp only [State.modCopy]; split <;> rfl
@[simp] theorem State.modCopy_xportCancels (s : State) (x : Nat) (f : CopyRun → CopyRun) : (s.modCopy x f).xportCancels = s.xportCancels := by simp only [State.modCopy]; split <;> rfl
@[simp] theorem State.modCopy_traces (s : State) (x : Nat) (f : CopyRun → CopyRun) : (s.modCopy x f).traces = s.traces := by simp only [State.modCopy]; split <;> rfl
@[simp] theorem State.modCopy_clusters (s : State) (x : Nat) (f : CopyRun → CopyRun) : (s.modCopy x f).clusters = s.clusters := by simp only [State.modCopy]; split <;> rfl
@[simp] theorem State.modCopy_columns (s : State) (x : Nat) (f : CopyRun → CopyRun) : (s.modCopy x f).columns = s.columns := by simp only [State.modCopy]; split <;> rfl
@[simp] theorem State.modCopy_degraded (s : State) (x : Nat) (f : CopyRun → CopyRun) : (s.modCopy x f).degraded = s.degraded := by simp only [State.modCopy]; split <;> rfl
@[simp] theorem State.modCopy_dieRecs (s : State) (x : Nat) (f : CopyRun → CopyRun) : (s.modCopy x f).dieRecs = s.dieRecs := by simp only [State.modCopy]; split <;> rfl
@[simp] theorem State.modCopy_errLogs (s : State) (x : Nat) (f : CopyRun → CopyRun) : (s.modCopy x f).errLogs = s.errLogs := by simp only [State.modCopy]; split <;> rfl
@[simp] theorem State.modCopy_scrubInt (s : State) (x : Nat) (f : CopyRun → CopyRun) : (s.modCopy x f).scrubInt = s.scrubInt := by simp only [State.modCopy]; split <;> rfl
@[simp] theorem State.modCopy_scrubPos (s : State) (x : Nat) (f : CopyRun → CopyRun) : (s.modCopy x f).scrubPos = s.scrubPos := by simp only [State.modCopy]; split <;> rfl
@[simp] theorem State.modCopy_channels (s : State) (x : Nat) (f : CopyRun → CopyRun) : (s.modCopy x f).channels = s.channels := by simp only [State.modCopy]; split <;> rfl
@[simp] theorem State.modCopy_harts (s : State) (x : Nat) (f : CopyRun → CopyRun) : (s.modCopy x f).harts = s.harts := by simp only [State.modCopy]; split <;> rfl
@[simp] theorem State.modCopy_firmware (s : State) (x : Nat) (f : CopyRun → CopyRun) : (s.modCopy x f).firmware = s.firmware := by simp only [State.modCopy]; split <;> rfl
@[simp] theorem State.modCopy_power (s : State) (x : Nat) (f : CopyRun → CopyRun) : (s.modCopy x f).power = s.power := by simp only [State.modCopy]; split <;> rfl
@[simp] theorem State.modCopy_time (s : State) (x : Nat) (f : CopyRun → CopyRun) : (s.modCopy x f).time = s.time := by simp only [State.modCopy]; split <;> rfl
@[simp] theorem State.modCopy_nextId (s : State) (x : Nat) (f : CopyRun → CopyRun) : (s.modCopy x f).nextId = s.nextId := by simp only [State.modCopy]; split <;> rfl
@[simp] theorem State.modCopy_tick (s : State) (x : Nat) (f : CopyRun → CopyRun) : (s.modCopy x f).tick = s.tick := by simp only [State.modCopy]; split <;> rfl
@[simp] theorem State.modCopy_agenda (s : State) (x : Nat) (f : CopyRun → CopyRun) : (s.modCopy x f).agenda = s.agenda := by simp only [State.modCopy]; split <;> rfl
@[simp] theorem State.modCopy_cur (s : State) (x : Nat) (f : CopyRun → CopyRun) : (s.modCopy x f).cur = s.cur := by simp only [State.modCopy]; split <;> rfl
@[simp] theorem State.modCopy_readout (s : State) (x : Nat) (f : CopyRun → CopyRun) : (s.modCopy x f).readout = s.readout := by simp only [State.modCopy]; split <;> rfl

@[simp] theorem State.modFlight_devNum (s : State) (x : Nat) (f : Flight → Flight) : (s.modFlight x f).devNum = s.devNum := by simp only [State.modFlight]; split <;> rfl
@[simp] theorem State.modFlight_ns (s : State) (x : Nat) (f : Flight → Flight) : (s.modFlight x f).ns = s.ns := by simp only [State.modFlight]; split <;> rfl
@[simp] theorem State.modFlight_mem (s : State) (x : Nat) (f : Flight → Flight) : (s.modFlight x f).mem = s.mem := by simp only [State.modFlight]; split <;> rfl
@[simp] theorem State.modFlight_poison (s : State) (x : Nat) (f : Flight → Flight) : (s.modFlight x f).poison = s.poison := by simp only [State.modFlight]; split <;> rfl
@[simp] theorem State.modFlight_upsets (s : State) (x : Nat) (f : Flight → Flight) : (s.modFlight x f).upsets = s.upsets := by simp only [State.modFlight]; split <;> rfl
@[simp] theorem State.modFlight_cells (s : State) (x : Nat) (f : Flight → Flight) : (s.modFlight x f).cells = s.cells := by simp only [State.modFlight]; split <;> rfl
@[simp] theorem State.modFlight_acts (s : State) (x : Nat) (f : Flight → Flight) : (s.modFlight x f).acts = s.acts := by simp only [State.modFlight]; split <;> rfl
@[simp] theorem State.modFlight_progs (s : State) (x : Nat) (f : Flight → Flight) : (s.modFlight x f).progs = s.progs := by simp only [State.modFlight]; split <;> rfl
@[simp] theorem State.modFlight_copies (s : State) (x : Nat) (f : Flight → Flight) : (s.modFlight x f).copies = s.copies := by simp only [State.modFlight]; split <;> rfl
@[simp] theorem State.modFlight_markers (s : State) (x : Nat) (f : Flight → Flight) : (s.modFlight x f).markers = s.markers := by simp only [State.modFlight]; split <;> rfl
@[simp] theorem State.modFlight_msgs (s : State) (x : Nat) (f : Flight → Flight) : (s.modFlight x f).msgs = s.msgs := by simp only [State.modFlight]; split <;> rfl
@[simp] theorem State.modFlight_ctls (s : State) (x : Nat) (f : Flight → Flight) : (s.modFlight x f).ctls = s.ctls := by simp only [State.modFlight]; split <;> rfl
@[simp] theorem State.modFlight_asks (s : State) (x : Nat) (f : Flight → Flight) : (s.modFlight x f).asks = s.asks := by simp only [State.modFlight]; split <;> rfl
@[simp] theorem State.modFlight_credits (s : State) (x : Nat) (f : Flight → Flight) : (s.modFlight x f).credits = s.credits := by simp only [State.modFlight]; split <;> rfl
@[simp] theorem State.modFlight_wakes (s : State) (x : Nat) (f : Flight → Flight) : (s.modFlight x f).wakes = s.wakes := by simp only [State.modFlight]; split <;> rfl
@[simp] theorem State.modFlight_arrivals (s : State) (x : Nat) (f : Flight → Flight) : (s.modFlight x f).arrivals = s.arrivals := by simp only [State.modFlight]; split <;> rfl
@[simp] theorem State.modFlight_hubPaths (s : State) (x : Nat) (f : Flight → Flight) : (s.modFlight x f).hubPaths = s.hubPaths := by simp only [State.modFlight]; split <;> rfl
@[simp] theorem State.modFlight_bells (s : State) (x : Nat) (f : Flight → Flight) : (s.modFlight x f).bells = s.bells := by simp only [State.modFlight]; split <;> rfl
@[simp] theorem State.modFlight_dues (s : State) (x : Nat) (f : Flight → Flight) : (s.modFlight x f).dues = s.dues := by simp only [State.modFlight]; split <;> rfl
@[simp] theorem State.modFlight_gangs (s : State) (x : Nat) (f : Flight → Flight) : (s.modFlight x f).gangs = s.gangs := by simp only [State.modFlight]; split <;> rfl
@[simp] theorem State.modFlight_atomics (s : State) (x : Nat) (f : Flight → Flight) : (s.modFlight x f).atomics = s.atomics := by simp only [State.modFlight]; split <;> rfl
@[simp] theorem State.modFlight_fields (s : State) (x : Nat) (f : Flight → Flight) : (s.modFlight x f).fields = s.fields := by simp only [State.modFlight]; split <;> rfl
@[simp] theorem State.modFlight_saved (s : State) (x : Nat) (f : Flight → Flight) : (s.modFlight x f).saved = s.saved := by simp only [State.modFlight]; split <;> rfl
@[simp] theorem State.modFlight_queues (s : State) (x : Nat) (f : Flight → Flight) : (s.modFlight x f).queues = s.queues := by simp only [State.modFlight]; split <;> rfl
@[simp] theorem State.modFlight_cps (s : State) (x : Nat) (f : Flight → Flight) : (s.modFlight x f).cps = s.cps := by simp only [State.modFlight]; split <;> rfl
@[simp] theorem State.modFlight_launches (s : State) (x : Nat) (f : Flight → Flight) : (s.modFlight x f).launches = s.launches := by simp only [State.modFlight]; split <;> rfl
@[simp] theorem State.modFlight_agents (s : State) (x : Nat) (f : Flight → Flight) : (s.modFlight x f).agents = s.agents := by simp only [State.modFlight]; split <;> rfl
@[simp] theorem State.modFlight_faults (s : State) (x : Nat) (f : Flight → Flight) : (s.modFlight x f).faults = s.faults := by simp only [State.modFlight]; split <;> rfl
@[simp] theorem State.modFlight_waits (s : State) (x : Nat) (f : Flight → Flight) : (s.modFlight x f).waits = s.waits := by simp only [State.modFlight]; split <;> rfl
@[simp] theorem State.modFlight_recovery (s : State) (x : Nat) (f : Flight → Flight) : (s.modFlight x f).recovery = s.recovery := by simp only [State.modFlight]; split <;> rfl
@[simp] theorem State.modFlight_ports (s : State) (x : Nat) (f : Flight → Flight) : (s.modFlight x f).ports = s.ports := by simp only [State.modFlight]; split <;> rfl
@[simp] theorem State.modFlight_routes (s : State) (x : Nat) (f : Flight → Flight) : (s.modFlight x f).routes = s.routes := by simp only [State.modFlight]; split <;> rfl
@[simp] theorem State.modFlight_groups (s : State) (x : Nat) (f : Flight → Flight) : (s.modFlight x f).groups = s.groups := by simp only [State.modFlight]; split <;> rfl
@[simp] theorem State.modFlight_packets (s : State) (x : Nat) (f : Flight → Flight) : (s.modFlight x f).packets = s.packets := by simp only [State.modFlight]; split <;> rfl
@[simp] theorem State.modFlight_hubPorts (s : State) (x : Nat) (f : Flight → Flight) : (s.modFlight x f).hubPorts = s.hubPorts := by simp only [State.modFlight]; split <;> rfl
@[simp] theorem State.modFlight_peers (s : State) (x : Nat) (f : Flight → Flight) : (s.modFlight x f).peers = s.peers := by simp only [State.modFlight]; split <;> rfl
@[simp] theorem State.modFlight_regions (s : State) (x : Nat) (f : Flight → Flight) : (s.modFlight x f).regions = s.regions := by simp only [State.modFlight]; split <;> rfl
@[simp] theorem State.modFlight_delivery (s : State) (x : Nat) (f : Flight → Flight) : (s.modFlight x f).delivery = s.delivery := by simp only [State.modFlight]; split <;> rfl
@[simp] theorem State.modFlight_transfers (s : State) (x : Nat) (f : Flight → Flight) : (s.modFlight x f).transfers = s.transfers := by simp only [State.modFlight]; split <;> rfl
@[simp] theorem State.modFlight_inbound (s : State) (x : Nat) (f : Flight → Flight) : (s.modFlight x f).inbound = s.inbound := by simp only [State.modFlight]; split <;> rfl
@[simp] theorem State.modFlight_ether (s : State) (x : Nat) (f : Flight → Flight) : (s.modFlight x f).ether = s.ether := by simp only [State.modFlight]; split <;> rfl
@[simp] theorem State.modFlight_xportLog (s : State) (x : Nat) (f : Flight → Flight) : (s.modFlight x f).xportLog = s.xportLog := by simp only [State.modFlight]; split <;> rfl
@[simp] theorem State.modFlight_xportCancels (s : State) (x : Nat) (f : Flight → Flight) : (s.modFlight x f).xportCancels = s.xportCancels := by simp only [State.modFlight]; split <;> rfl
@[simp] theorem State.modFlight_traces (s : State) (x : Nat) (f : Flight → Flight) : (s.modFlight x f).traces = s.traces := by simp only [State.modFlight]; split <;> rfl
@[simp] theorem State.modFlight_clusters (s : State) (x : Nat) (f : Flight → Flight) : (s.modFlight x f).clusters = s.clusters := by simp only [State.modFlight]; split <;> rfl
@[simp] theorem State.modFlight_columns (s : State) (x : Nat) (f : Flight → Flight) : (s.modFlight x f).columns = s.columns := by simp only [State.modFlight]; split <;> rfl
@[simp] theorem State.modFlight_degraded (s : State) (x : Nat) (f : Flight → Flight) : (s.modFlight x f).degraded = s.degraded := by simp only [State.modFlight]; split <;> rfl
@[simp] theorem State.modFlight_dieRecs (s : State) (x : Nat) (f : Flight → Flight) : (s.modFlight x f).dieRecs = s.dieRecs := by simp only [State.modFlight]; split <;> rfl
@[simp] theorem State.modFlight_errLogs (s : State) (x : Nat) (f : Flight → Flight) : (s.modFlight x f).errLogs = s.errLogs := by simp only [State.modFlight]; split <;> rfl
@[simp] theorem State.modFlight_scrubInt (s : State) (x : Nat) (f : Flight → Flight) : (s.modFlight x f).scrubInt = s.scrubInt := by simp only [State.modFlight]; split <;> rfl
@[simp] theorem State.modFlight_scrubPos (s : State) (x : Nat) (f : Flight → Flight) : (s.modFlight x f).scrubPos = s.scrubPos := by simp only [State.modFlight]; split <;> rfl
@[simp] theorem State.modFlight_channels (s : State) (x : Nat) (f : Flight → Flight) : (s.modFlight x f).channels = s.channels := by simp only [State.modFlight]; split <;> rfl
@[simp] theorem State.modFlight_harts (s : State) (x : Nat) (f : Flight → Flight) : (s.modFlight x f).harts = s.harts := by simp only [State.modFlight]; split <;> rfl
@[simp] theorem State.modFlight_firmware (s : State) (x : Nat) (f : Flight → Flight) : (s.modFlight x f).firmware = s.firmware := by simp only [State.modFlight]; split <;> rfl
@[simp] theorem State.modFlight_power (s : State) (x : Nat) (f : Flight → Flight) : (s.modFlight x f).power = s.power := by simp only [State.modFlight]; split <;> rfl
@[simp] theorem State.modFlight_time (s : State) (x : Nat) (f : Flight → Flight) : (s.modFlight x f).time = s.time := by simp only [State.modFlight]; split <;> rfl
@[simp] theorem State.modFlight_nextId (s : State) (x : Nat) (f : Flight → Flight) : (s.modFlight x f).nextId = s.nextId := by simp only [State.modFlight]; split <;> rfl
@[simp] theorem State.modFlight_tick (s : State) (x : Nat) (f : Flight → Flight) : (s.modFlight x f).tick = s.tick := by simp only [State.modFlight]; split <;> rfl
@[simp] theorem State.modFlight_agenda (s : State) (x : Nat) (f : Flight → Flight) : (s.modFlight x f).agenda = s.agenda := by simp only [State.modFlight]; split <;> rfl
@[simp] theorem State.modFlight_cur (s : State) (x : Nat) (f : Flight → Flight) : (s.modFlight x f).cur = s.cur := by simp only [State.modFlight]; split <;> rfl
@[simp] theorem State.modFlight_readout (s : State) (x : Nat) (f : Flight → Flight) : (s.modFlight x f).readout = s.readout := by simp only [State.modFlight]; split <;> rfl

@[simp] theorem State.modField_devNum (s : State) (n : Nat) (f : Field → Field) : (s.modField n f).devNum = s.devNum := by simp only [State.modField]; split <;> rfl
@[simp] theorem State.modField_ns (s : State) (n : Nat) (f : Field → Field) : (s.modField n f).ns = s.ns := by simp only [State.modField]; split <;> rfl
@[simp] theorem State.modField_mem (s : State) (n : Nat) (f : Field → Field) : (s.modField n f).mem = s.mem := by simp only [State.modField]; split <;> rfl
@[simp] theorem State.modField_poison (s : State) (n : Nat) (f : Field → Field) : (s.modField n f).poison = s.poison := by simp only [State.modField]; split <;> rfl
@[simp] theorem State.modField_upsets (s : State) (n : Nat) (f : Field → Field) : (s.modField n f).upsets = s.upsets := by simp only [State.modField]; split <;> rfl
@[simp] theorem State.modField_cells (s : State) (n : Nat) (f : Field → Field) : (s.modField n f).cells = s.cells := by simp only [State.modField]; split <;> rfl
@[simp] theorem State.modField_acts (s : State) (n : Nat) (f : Field → Field) : (s.modField n f).acts = s.acts := by simp only [State.modField]; split <;> rfl
@[simp] theorem State.modField_progs (s : State) (n : Nat) (f : Field → Field) : (s.modField n f).progs = s.progs := by simp only [State.modField]; split <;> rfl
@[simp] theorem State.modField_copies (s : State) (n : Nat) (f : Field → Field) : (s.modField n f).copies = s.copies := by simp only [State.modField]; split <;> rfl
@[simp] theorem State.modField_markers (s : State) (n : Nat) (f : Field → Field) : (s.modField n f).markers = s.markers := by simp only [State.modField]; split <;> rfl
@[simp] theorem State.modField_flights (s : State) (n : Nat) (f : Field → Field) : (s.modField n f).flights = s.flights := by simp only [State.modField]; split <;> rfl
@[simp] theorem State.modField_msgs (s : State) (n : Nat) (f : Field → Field) : (s.modField n f).msgs = s.msgs := by simp only [State.modField]; split <;> rfl
@[simp] theorem State.modField_ctls (s : State) (n : Nat) (f : Field → Field) : (s.modField n f).ctls = s.ctls := by simp only [State.modField]; split <;> rfl
@[simp] theorem State.modField_asks (s : State) (n : Nat) (f : Field → Field) : (s.modField n f).asks = s.asks := by simp only [State.modField]; split <;> rfl
@[simp] theorem State.modField_credits (s : State) (n : Nat) (f : Field → Field) : (s.modField n f).credits = s.credits := by simp only [State.modField]; split <;> rfl
@[simp] theorem State.modField_wakes (s : State) (n : Nat) (f : Field → Field) : (s.modField n f).wakes = s.wakes := by simp only [State.modField]; split <;> rfl
@[simp] theorem State.modField_arrivals (s : State) (n : Nat) (f : Field → Field) : (s.modField n f).arrivals = s.arrivals := by simp only [State.modField]; split <;> rfl
@[simp] theorem State.modField_hubPaths (s : State) (n : Nat) (f : Field → Field) : (s.modField n f).hubPaths = s.hubPaths := by simp only [State.modField]; split <;> rfl
@[simp] theorem State.modField_bells (s : State) (n : Nat) (f : Field → Field) : (s.modField n f).bells = s.bells := by simp only [State.modField]; split <;> rfl
@[simp] theorem State.modField_dues (s : State) (n : Nat) (f : Field → Field) : (s.modField n f).dues = s.dues := by simp only [State.modField]; split <;> rfl
@[simp] theorem State.modField_gangs (s : State) (n : Nat) (f : Field → Field) : (s.modField n f).gangs = s.gangs := by simp only [State.modField]; split <;> rfl
@[simp] theorem State.modField_atomics (s : State) (n : Nat) (f : Field → Field) : (s.modField n f).atomics = s.atomics := by simp only [State.modField]; split <;> rfl
@[simp] theorem State.modField_saved (s : State) (n : Nat) (f : Field → Field) : (s.modField n f).saved = s.saved := by simp only [State.modField]; split <;> rfl
@[simp] theorem State.modField_queues (s : State) (n : Nat) (f : Field → Field) : (s.modField n f).queues = s.queues := by simp only [State.modField]; split <;> rfl
@[simp] theorem State.modField_cps (s : State) (n : Nat) (f : Field → Field) : (s.modField n f).cps = s.cps := by simp only [State.modField]; split <;> rfl
@[simp] theorem State.modField_launches (s : State) (n : Nat) (f : Field → Field) : (s.modField n f).launches = s.launches := by simp only [State.modField]; split <;> rfl
@[simp] theorem State.modField_agents (s : State) (n : Nat) (f : Field → Field) : (s.modField n f).agents = s.agents := by simp only [State.modField]; split <;> rfl
@[simp] theorem State.modField_faults (s : State) (n : Nat) (f : Field → Field) : (s.modField n f).faults = s.faults := by simp only [State.modField]; split <;> rfl
@[simp] theorem State.modField_waits (s : State) (n : Nat) (f : Field → Field) : (s.modField n f).waits = s.waits := by simp only [State.modField]; split <;> rfl
@[simp] theorem State.modField_recovery (s : State) (n : Nat) (f : Field → Field) : (s.modField n f).recovery = s.recovery := by simp only [State.modField]; split <;> rfl
@[simp] theorem State.modField_ports (s : State) (n : Nat) (f : Field → Field) : (s.modField n f).ports = s.ports := by simp only [State.modField]; split <;> rfl
@[simp] theorem State.modField_routes (s : State) (n : Nat) (f : Field → Field) : (s.modField n f).routes = s.routes := by simp only [State.modField]; split <;> rfl
@[simp] theorem State.modField_groups (s : State) (n : Nat) (f : Field → Field) : (s.modField n f).groups = s.groups := by simp only [State.modField]; split <;> rfl
@[simp] theorem State.modField_packets (s : State) (n : Nat) (f : Field → Field) : (s.modField n f).packets = s.packets := by simp only [State.modField]; split <;> rfl
@[simp] theorem State.modField_hubPorts (s : State) (n : Nat) (f : Field → Field) : (s.modField n f).hubPorts = s.hubPorts := by simp only [State.modField]; split <;> rfl
@[simp] theorem State.modField_peers (s : State) (n : Nat) (f : Field → Field) : (s.modField n f).peers = s.peers := by simp only [State.modField]; split <;> rfl
@[simp] theorem State.modField_regions (s : State) (n : Nat) (f : Field → Field) : (s.modField n f).regions = s.regions := by simp only [State.modField]; split <;> rfl
@[simp] theorem State.modField_delivery (s : State) (n : Nat) (f : Field → Field) : (s.modField n f).delivery = s.delivery := by simp only [State.modField]; split <;> rfl
@[simp] theorem State.modField_transfers (s : State) (n : Nat) (f : Field → Field) : (s.modField n f).transfers = s.transfers := by simp only [State.modField]; split <;> rfl
@[simp] theorem State.modField_inbound (s : State) (n : Nat) (f : Field → Field) : (s.modField n f).inbound = s.inbound := by simp only [State.modField]; split <;> rfl
@[simp] theorem State.modField_ether (s : State) (n : Nat) (f : Field → Field) : (s.modField n f).ether = s.ether := by simp only [State.modField]; split <;> rfl
@[simp] theorem State.modField_xportLog (s : State) (n : Nat) (f : Field → Field) : (s.modField n f).xportLog = s.xportLog := by simp only [State.modField]; split <;> rfl
@[simp] theorem State.modField_xportCancels (s : State) (n : Nat) (f : Field → Field) : (s.modField n f).xportCancels = s.xportCancels := by simp only [State.modField]; split <;> rfl
@[simp] theorem State.modField_traces (s : State) (n : Nat) (f : Field → Field) : (s.modField n f).traces = s.traces := by simp only [State.modField]; split <;> rfl
@[simp] theorem State.modField_clusters (s : State) (n : Nat) (f : Field → Field) : (s.modField n f).clusters = s.clusters := by simp only [State.modField]; split <;> rfl
@[simp] theorem State.modField_columns (s : State) (n : Nat) (f : Field → Field) : (s.modField n f).columns = s.columns := by simp only [State.modField]; split <;> rfl
@[simp] theorem State.modField_degraded (s : State) (n : Nat) (f : Field → Field) : (s.modField n f).degraded = s.degraded := by simp only [State.modField]; split <;> rfl
@[simp] theorem State.modField_dieRecs (s : State) (n : Nat) (f : Field → Field) : (s.modField n f).dieRecs = s.dieRecs := by simp only [State.modField]; split <;> rfl
@[simp] theorem State.modField_errLogs (s : State) (n : Nat) (f : Field → Field) : (s.modField n f).errLogs = s.errLogs := by simp only [State.modField]; split <;> rfl
@[simp] theorem State.modField_scrubInt (s : State) (n : Nat) (f : Field → Field) : (s.modField n f).scrubInt = s.scrubInt := by simp only [State.modField]; split <;> rfl
@[simp] theorem State.modField_scrubPos (s : State) (n : Nat) (f : Field → Field) : (s.modField n f).scrubPos = s.scrubPos := by simp only [State.modField]; split <;> rfl
@[simp] theorem State.modField_channels (s : State) (n : Nat) (f : Field → Field) : (s.modField n f).channels = s.channels := by simp only [State.modField]; split <;> rfl
@[simp] theorem State.modField_harts (s : State) (n : Nat) (f : Field → Field) : (s.modField n f).harts = s.harts := by simp only [State.modField]; split <;> rfl
@[simp] theorem State.modField_firmware (s : State) (n : Nat) (f : Field → Field) : (s.modField n f).firmware = s.firmware := by simp only [State.modField]; split <;> rfl
@[simp] theorem State.modField_power (s : State) (n : Nat) (f : Field → Field) : (s.modField n f).power = s.power := by simp only [State.modField]; split <;> rfl
@[simp] theorem State.modField_time (s : State) (n : Nat) (f : Field → Field) : (s.modField n f).time = s.time := by simp only [State.modField]; split <;> rfl
@[simp] theorem State.modField_nextId (s : State) (n : Nat) (f : Field → Field) : (s.modField n f).nextId = s.nextId := by simp only [State.modField]; split <;> rfl
@[simp] theorem State.modField_tick (s : State) (n : Nat) (f : Field → Field) : (s.modField n f).tick = s.tick := by simp only [State.modField]; split <;> rfl
@[simp] theorem State.modField_agenda (s : State) (n : Nat) (f : Field → Field) : (s.modField n f).agenda = s.agenda := by simp only [State.modField]; split <;> rfl
@[simp] theorem State.modField_cur (s : State) (n : Nat) (f : Field → Field) : (s.modField n f).cur = s.cur := by simp only [State.modField]; split <;> rfl
@[simp] theorem State.modField_readout (s : State) (n : Nat) (f : Field → Field) : (s.modField n f).readout = s.readout := by simp only [State.modField]; split <;> rfl

@[simp] theorem State.modTrace_devNum (s : State) (k : Nat) (f : TraceCore → TraceCore) : (s.modTrace k f).devNum = s.devNum := rfl
@[simp] theorem State.modTrace_ns (s : State) (k : Nat) (f : TraceCore → TraceCore) : (s.modTrace k f).ns = s.ns := rfl
@[simp] theorem State.modTrace_mem (s : State) (k : Nat) (f : TraceCore → TraceCore) : (s.modTrace k f).mem = s.mem := rfl
@[simp] theorem State.modTrace_poison (s : State) (k : Nat) (f : TraceCore → TraceCore) : (s.modTrace k f).poison = s.poison := rfl
@[simp] theorem State.modTrace_upsets (s : State) (k : Nat) (f : TraceCore → TraceCore) : (s.modTrace k f).upsets = s.upsets := rfl
@[simp] theorem State.modTrace_cells (s : State) (k : Nat) (f : TraceCore → TraceCore) : (s.modTrace k f).cells = s.cells := rfl
@[simp] theorem State.modTrace_acts (s : State) (k : Nat) (f : TraceCore → TraceCore) : (s.modTrace k f).acts = s.acts := rfl
@[simp] theorem State.modTrace_progs (s : State) (k : Nat) (f : TraceCore → TraceCore) : (s.modTrace k f).progs = s.progs := rfl
@[simp] theorem State.modTrace_copies (s : State) (k : Nat) (f : TraceCore → TraceCore) : (s.modTrace k f).copies = s.copies := rfl
@[simp] theorem State.modTrace_markers (s : State) (k : Nat) (f : TraceCore → TraceCore) : (s.modTrace k f).markers = s.markers := rfl
@[simp] theorem State.modTrace_flights (s : State) (k : Nat) (f : TraceCore → TraceCore) : (s.modTrace k f).flights = s.flights := rfl
@[simp] theorem State.modTrace_msgs (s : State) (k : Nat) (f : TraceCore → TraceCore) : (s.modTrace k f).msgs = s.msgs := rfl
@[simp] theorem State.modTrace_ctls (s : State) (k : Nat) (f : TraceCore → TraceCore) : (s.modTrace k f).ctls = s.ctls := rfl
@[simp] theorem State.modTrace_asks (s : State) (k : Nat) (f : TraceCore → TraceCore) : (s.modTrace k f).asks = s.asks := rfl
@[simp] theorem State.modTrace_credits (s : State) (k : Nat) (f : TraceCore → TraceCore) : (s.modTrace k f).credits = s.credits := rfl
@[simp] theorem State.modTrace_wakes (s : State) (k : Nat) (f : TraceCore → TraceCore) : (s.modTrace k f).wakes = s.wakes := rfl
@[simp] theorem State.modTrace_arrivals (s : State) (k : Nat) (f : TraceCore → TraceCore) : (s.modTrace k f).arrivals = s.arrivals := rfl
@[simp] theorem State.modTrace_hubPaths (s : State) (k : Nat) (f : TraceCore → TraceCore) : (s.modTrace k f).hubPaths = s.hubPaths := rfl
@[simp] theorem State.modTrace_bells (s : State) (k : Nat) (f : TraceCore → TraceCore) : (s.modTrace k f).bells = s.bells := rfl
@[simp] theorem State.modTrace_dues (s : State) (k : Nat) (f : TraceCore → TraceCore) : (s.modTrace k f).dues = s.dues := rfl
@[simp] theorem State.modTrace_gangs (s : State) (k : Nat) (f : TraceCore → TraceCore) : (s.modTrace k f).gangs = s.gangs := rfl
@[simp] theorem State.modTrace_atomics (s : State) (k : Nat) (f : TraceCore → TraceCore) : (s.modTrace k f).atomics = s.atomics := rfl
@[simp] theorem State.modTrace_fields (s : State) (k : Nat) (f : TraceCore → TraceCore) : (s.modTrace k f).fields = s.fields := rfl
@[simp] theorem State.modTrace_saved (s : State) (k : Nat) (f : TraceCore → TraceCore) : (s.modTrace k f).saved = s.saved := rfl
@[simp] theorem State.modTrace_queues (s : State) (k : Nat) (f : TraceCore → TraceCore) : (s.modTrace k f).queues = s.queues := rfl
@[simp] theorem State.modTrace_cps (s : State) (k : Nat) (f : TraceCore → TraceCore) : (s.modTrace k f).cps = s.cps := rfl
@[simp] theorem State.modTrace_launches (s : State) (k : Nat) (f : TraceCore → TraceCore) : (s.modTrace k f).launches = s.launches := rfl
@[simp] theorem State.modTrace_agents (s : State) (k : Nat) (f : TraceCore → TraceCore) : (s.modTrace k f).agents = s.agents := rfl
@[simp] theorem State.modTrace_faults (s : State) (k : Nat) (f : TraceCore → TraceCore) : (s.modTrace k f).faults = s.faults := rfl
@[simp] theorem State.modTrace_waits (s : State) (k : Nat) (f : TraceCore → TraceCore) : (s.modTrace k f).waits = s.waits := rfl
@[simp] theorem State.modTrace_recovery (s : State) (k : Nat) (f : TraceCore → TraceCore) : (s.modTrace k f).recovery = s.recovery := rfl
@[simp] theorem State.modTrace_ports (s : State) (k : Nat) (f : TraceCore → TraceCore) : (s.modTrace k f).ports = s.ports := rfl
@[simp] theorem State.modTrace_routes (s : State) (k : Nat) (f : TraceCore → TraceCore) : (s.modTrace k f).routes = s.routes := rfl
@[simp] theorem State.modTrace_groups (s : State) (k : Nat) (f : TraceCore → TraceCore) : (s.modTrace k f).groups = s.groups := rfl
@[simp] theorem State.modTrace_packets (s : State) (k : Nat) (f : TraceCore → TraceCore) : (s.modTrace k f).packets = s.packets := rfl
@[simp] theorem State.modTrace_hubPorts (s : State) (k : Nat) (f : TraceCore → TraceCore) : (s.modTrace k f).hubPorts = s.hubPorts := rfl
@[simp] theorem State.modTrace_peers (s : State) (k : Nat) (f : TraceCore → TraceCore) : (s.modTrace k f).peers = s.peers := rfl
@[simp] theorem State.modTrace_regions (s : State) (k : Nat) (f : TraceCore → TraceCore) : (s.modTrace k f).regions = s.regions := rfl
@[simp] theorem State.modTrace_delivery (s : State) (k : Nat) (f : TraceCore → TraceCore) : (s.modTrace k f).delivery = s.delivery := rfl
@[simp] theorem State.modTrace_transfers (s : State) (k : Nat) (f : TraceCore → TraceCore) : (s.modTrace k f).transfers = s.transfers := rfl
@[simp] theorem State.modTrace_inbound (s : State) (k : Nat) (f : TraceCore → TraceCore) : (s.modTrace k f).inbound = s.inbound := rfl
@[simp] theorem State.modTrace_ether (s : State) (k : Nat) (f : TraceCore → TraceCore) : (s.modTrace k f).ether = s.ether := rfl
@[simp] theorem State.modTrace_xportLog (s : State) (k : Nat) (f : TraceCore → TraceCore) : (s.modTrace k f).xportLog = s.xportLog := rfl
@[simp] theorem State.modTrace_xportCancels (s : State) (k : Nat) (f : TraceCore → TraceCore) : (s.modTrace k f).xportCancels = s.xportCancels := rfl
@[simp] theorem State.modTrace_clusters (s : State) (k : Nat) (f : TraceCore → TraceCore) : (s.modTrace k f).clusters = s.clusters := rfl
@[simp] theorem State.modTrace_columns (s : State) (k : Nat) (f : TraceCore → TraceCore) : (s.modTrace k f).columns = s.columns := rfl
@[simp] theorem State.modTrace_degraded (s : State) (k : Nat) (f : TraceCore → TraceCore) : (s.modTrace k f).degraded = s.degraded := rfl
@[simp] theorem State.modTrace_dieRecs (s : State) (k : Nat) (f : TraceCore → TraceCore) : (s.modTrace k f).dieRecs = s.dieRecs := rfl
@[simp] theorem State.modTrace_errLogs (s : State) (k : Nat) (f : TraceCore → TraceCore) : (s.modTrace k f).errLogs = s.errLogs := rfl
@[simp] theorem State.modTrace_scrubInt (s : State) (k : Nat) (f : TraceCore → TraceCore) : (s.modTrace k f).scrubInt = s.scrubInt := rfl
@[simp] theorem State.modTrace_scrubPos (s : State) (k : Nat) (f : TraceCore → TraceCore) : (s.modTrace k f).scrubPos = s.scrubPos := rfl
@[simp] theorem State.modTrace_channels (s : State) (k : Nat) (f : TraceCore → TraceCore) : (s.modTrace k f).channels = s.channels := rfl
@[simp] theorem State.modTrace_harts (s : State) (k : Nat) (f : TraceCore → TraceCore) : (s.modTrace k f).harts = s.harts := rfl
@[simp] theorem State.modTrace_firmware (s : State) (k : Nat) (f : TraceCore → TraceCore) : (s.modTrace k f).firmware = s.firmware := rfl
@[simp] theorem State.modTrace_power (s : State) (k : Nat) (f : TraceCore → TraceCore) : (s.modTrace k f).power = s.power := rfl
@[simp] theorem State.modTrace_time (s : State) (k : Nat) (f : TraceCore → TraceCore) : (s.modTrace k f).time = s.time := rfl
@[simp] theorem State.modTrace_nextId (s : State) (k : Nat) (f : TraceCore → TraceCore) : (s.modTrace k f).nextId = s.nextId := rfl
@[simp] theorem State.modTrace_tick (s : State) (k : Nat) (f : TraceCore → TraceCore) : (s.modTrace k f).tick = s.tick := rfl
@[simp] theorem State.modTrace_agenda (s : State) (k : Nat) (f : TraceCore → TraceCore) : (s.modTrace k f).agenda = s.agenda := rfl
@[simp] theorem State.modTrace_cur (s : State) (k : Nat) (f : TraceCore → TraceCore) : (s.modTrace k f).cur = s.cur := rfl
@[simp] theorem State.modTrace_readout (s : State) (k : Nat) (f : TraceCore → TraceCore) : (s.modTrace k f).readout = s.readout := rfl

@[simp] theorem State.modCluster_devNum (s : State) (k : Nat) (f : Cluster → Cluster) : (s.modCluster k f).devNum = s.devNum := rfl
@[simp] theorem State.modCluster_ns (s : State) (k : Nat) (f : Cluster → Cluster) : (s.modCluster k f).ns = s.ns := rfl
@[simp] theorem State.modCluster_mem (s : State) (k : Nat) (f : Cluster → Cluster) : (s.modCluster k f).mem = s.mem := rfl
@[simp] theorem State.modCluster_poison (s : State) (k : Nat) (f : Cluster → Cluster) : (s.modCluster k f).poison = s.poison := rfl
@[simp] theorem State.modCluster_upsets (s : State) (k : Nat) (f : Cluster → Cluster) : (s.modCluster k f).upsets = s.upsets := rfl
@[simp] theorem State.modCluster_cells (s : State) (k : Nat) (f : Cluster → Cluster) : (s.modCluster k f).cells = s.cells := rfl
@[simp] theorem State.modCluster_acts (s : State) (k : Nat) (f : Cluster → Cluster) : (s.modCluster k f).acts = s.acts := rfl
@[simp] theorem State.modCluster_progs (s : State) (k : Nat) (f : Cluster → Cluster) : (s.modCluster k f).progs = s.progs := rfl
@[simp] theorem State.modCluster_copies (s : State) (k : Nat) (f : Cluster → Cluster) : (s.modCluster k f).copies = s.copies := rfl
@[simp] theorem State.modCluster_markers (s : State) (k : Nat) (f : Cluster → Cluster) : (s.modCluster k f).markers = s.markers := rfl
@[simp] theorem State.modCluster_flights (s : State) (k : Nat) (f : Cluster → Cluster) : (s.modCluster k f).flights = s.flights := rfl
@[simp] theorem State.modCluster_msgs (s : State) (k : Nat) (f : Cluster → Cluster) : (s.modCluster k f).msgs = s.msgs := rfl
@[simp] theorem State.modCluster_ctls (s : State) (k : Nat) (f : Cluster → Cluster) : (s.modCluster k f).ctls = s.ctls := rfl
@[simp] theorem State.modCluster_asks (s : State) (k : Nat) (f : Cluster → Cluster) : (s.modCluster k f).asks = s.asks := rfl
@[simp] theorem State.modCluster_credits (s : State) (k : Nat) (f : Cluster → Cluster) : (s.modCluster k f).credits = s.credits := rfl
@[simp] theorem State.modCluster_wakes (s : State) (k : Nat) (f : Cluster → Cluster) : (s.modCluster k f).wakes = s.wakes := rfl
@[simp] theorem State.modCluster_arrivals (s : State) (k : Nat) (f : Cluster → Cluster) : (s.modCluster k f).arrivals = s.arrivals := rfl
@[simp] theorem State.modCluster_hubPaths (s : State) (k : Nat) (f : Cluster → Cluster) : (s.modCluster k f).hubPaths = s.hubPaths := rfl
@[simp] theorem State.modCluster_bells (s : State) (k : Nat) (f : Cluster → Cluster) : (s.modCluster k f).bells = s.bells := rfl
@[simp] theorem State.modCluster_dues (s : State) (k : Nat) (f : Cluster → Cluster) : (s.modCluster k f).dues = s.dues := rfl
@[simp] theorem State.modCluster_gangs (s : State) (k : Nat) (f : Cluster → Cluster) : (s.modCluster k f).gangs = s.gangs := rfl
@[simp] theorem State.modCluster_atomics (s : State) (k : Nat) (f : Cluster → Cluster) : (s.modCluster k f).atomics = s.atomics := rfl
@[simp] theorem State.modCluster_fields (s : State) (k : Nat) (f : Cluster → Cluster) : (s.modCluster k f).fields = s.fields := rfl
@[simp] theorem State.modCluster_saved (s : State) (k : Nat) (f : Cluster → Cluster) : (s.modCluster k f).saved = s.saved := rfl
@[simp] theorem State.modCluster_queues (s : State) (k : Nat) (f : Cluster → Cluster) : (s.modCluster k f).queues = s.queues := rfl
@[simp] theorem State.modCluster_cps (s : State) (k : Nat) (f : Cluster → Cluster) : (s.modCluster k f).cps = s.cps := rfl
@[simp] theorem State.modCluster_launches (s : State) (k : Nat) (f : Cluster → Cluster) : (s.modCluster k f).launches = s.launches := rfl
@[simp] theorem State.modCluster_agents (s : State) (k : Nat) (f : Cluster → Cluster) : (s.modCluster k f).agents = s.agents := rfl
@[simp] theorem State.modCluster_faults (s : State) (k : Nat) (f : Cluster → Cluster) : (s.modCluster k f).faults = s.faults := rfl
@[simp] theorem State.modCluster_waits (s : State) (k : Nat) (f : Cluster → Cluster) : (s.modCluster k f).waits = s.waits := rfl
@[simp] theorem State.modCluster_recovery (s : State) (k : Nat) (f : Cluster → Cluster) : (s.modCluster k f).recovery = s.recovery := rfl
@[simp] theorem State.modCluster_ports (s : State) (k : Nat) (f : Cluster → Cluster) : (s.modCluster k f).ports = s.ports := rfl
@[simp] theorem State.modCluster_routes (s : State) (k : Nat) (f : Cluster → Cluster) : (s.modCluster k f).routes = s.routes := rfl
@[simp] theorem State.modCluster_groups (s : State) (k : Nat) (f : Cluster → Cluster) : (s.modCluster k f).groups = s.groups := rfl
@[simp] theorem State.modCluster_packets (s : State) (k : Nat) (f : Cluster → Cluster) : (s.modCluster k f).packets = s.packets := rfl
@[simp] theorem State.modCluster_hubPorts (s : State) (k : Nat) (f : Cluster → Cluster) : (s.modCluster k f).hubPorts = s.hubPorts := rfl
@[simp] theorem State.modCluster_peers (s : State) (k : Nat) (f : Cluster → Cluster) : (s.modCluster k f).peers = s.peers := rfl
@[simp] theorem State.modCluster_regions (s : State) (k : Nat) (f : Cluster → Cluster) : (s.modCluster k f).regions = s.regions := rfl
@[simp] theorem State.modCluster_delivery (s : State) (k : Nat) (f : Cluster → Cluster) : (s.modCluster k f).delivery = s.delivery := rfl
@[simp] theorem State.modCluster_transfers (s : State) (k : Nat) (f : Cluster → Cluster) : (s.modCluster k f).transfers = s.transfers := rfl
@[simp] theorem State.modCluster_inbound (s : State) (k : Nat) (f : Cluster → Cluster) : (s.modCluster k f).inbound = s.inbound := rfl
@[simp] theorem State.modCluster_ether (s : State) (k : Nat) (f : Cluster → Cluster) : (s.modCluster k f).ether = s.ether := rfl
@[simp] theorem State.modCluster_xportLog (s : State) (k : Nat) (f : Cluster → Cluster) : (s.modCluster k f).xportLog = s.xportLog := rfl
@[simp] theorem State.modCluster_xportCancels (s : State) (k : Nat) (f : Cluster → Cluster) : (s.modCluster k f).xportCancels = s.xportCancels := rfl
@[simp] theorem State.modCluster_traces (s : State) (k : Nat) (f : Cluster → Cluster) : (s.modCluster k f).traces = s.traces := rfl
@[simp] theorem State.modCluster_columns (s : State) (k : Nat) (f : Cluster → Cluster) : (s.modCluster k f).columns = s.columns := rfl
@[simp] theorem State.modCluster_degraded (s : State) (k : Nat) (f : Cluster → Cluster) : (s.modCluster k f).degraded = s.degraded := rfl
@[simp] theorem State.modCluster_dieRecs (s : State) (k : Nat) (f : Cluster → Cluster) : (s.modCluster k f).dieRecs = s.dieRecs := rfl
@[simp] theorem State.modCluster_errLogs (s : State) (k : Nat) (f : Cluster → Cluster) : (s.modCluster k f).errLogs = s.errLogs := rfl
@[simp] theorem State.modCluster_scrubInt (s : State) (k : Nat) (f : Cluster → Cluster) : (s.modCluster k f).scrubInt = s.scrubInt := rfl
@[simp] theorem State.modCluster_scrubPos (s : State) (k : Nat) (f : Cluster → Cluster) : (s.modCluster k f).scrubPos = s.scrubPos := rfl
@[simp] theorem State.modCluster_channels (s : State) (k : Nat) (f : Cluster → Cluster) : (s.modCluster k f).channels = s.channels := rfl
@[simp] theorem State.modCluster_harts (s : State) (k : Nat) (f : Cluster → Cluster) : (s.modCluster k f).harts = s.harts := rfl
@[simp] theorem State.modCluster_firmware (s : State) (k : Nat) (f : Cluster → Cluster) : (s.modCluster k f).firmware = s.firmware := rfl
@[simp] theorem State.modCluster_power (s : State) (k : Nat) (f : Cluster → Cluster) : (s.modCluster k f).power = s.power := rfl
@[simp] theorem State.modCluster_time (s : State) (k : Nat) (f : Cluster → Cluster) : (s.modCluster k f).time = s.time := rfl
@[simp] theorem State.modCluster_nextId (s : State) (k : Nat) (f : Cluster → Cluster) : (s.modCluster k f).nextId = s.nextId := rfl
@[simp] theorem State.modCluster_tick (s : State) (k : Nat) (f : Cluster → Cluster) : (s.modCluster k f).tick = s.tick := rfl
@[simp] theorem State.modCluster_agenda (s : State) (k : Nat) (f : Cluster → Cluster) : (s.modCluster k f).agenda = s.agenda := rfl
@[simp] theorem State.modCluster_cur (s : State) (k : Nat) (f : Cluster → Cluster) : (s.modCluster k f).cur = s.cur := rfl
@[simp] theorem State.modCluster_readout (s : State) (k : Nat) (f : Cluster → Cluster) : (s.modCluster k f).readout = s.readout := rfl

@[simp] theorem State.modQueue_devNum (s : State) (q : Nat) (f : QueueEntry → QueueEntry) : (s.modQueue q f).devNum = s.devNum := rfl
@[simp] theorem State.modQueue_ns (s : State) (q : Nat) (f : QueueEntry → QueueEntry) : (s.modQueue q f).ns = s.ns := rfl
@[simp] theorem State.modQueue_mem (s : State) (q : Nat) (f : QueueEntry → QueueEntry) : (s.modQueue q f).mem = s.mem := rfl
@[simp] theorem State.modQueue_poison (s : State) (q : Nat) (f : QueueEntry → QueueEntry) : (s.modQueue q f).poison = s.poison := rfl
@[simp] theorem State.modQueue_upsets (s : State) (q : Nat) (f : QueueEntry → QueueEntry) : (s.modQueue q f).upsets = s.upsets := rfl
@[simp] theorem State.modQueue_cells (s : State) (q : Nat) (f : QueueEntry → QueueEntry) : (s.modQueue q f).cells = s.cells := rfl
@[simp] theorem State.modQueue_acts (s : State) (q : Nat) (f : QueueEntry → QueueEntry) : (s.modQueue q f).acts = s.acts := rfl
@[simp] theorem State.modQueue_progs (s : State) (q : Nat) (f : QueueEntry → QueueEntry) : (s.modQueue q f).progs = s.progs := rfl
@[simp] theorem State.modQueue_copies (s : State) (q : Nat) (f : QueueEntry → QueueEntry) : (s.modQueue q f).copies = s.copies := rfl
@[simp] theorem State.modQueue_markers (s : State) (q : Nat) (f : QueueEntry → QueueEntry) : (s.modQueue q f).markers = s.markers := rfl
@[simp] theorem State.modQueue_flights (s : State) (q : Nat) (f : QueueEntry → QueueEntry) : (s.modQueue q f).flights = s.flights := rfl
@[simp] theorem State.modQueue_msgs (s : State) (q : Nat) (f : QueueEntry → QueueEntry) : (s.modQueue q f).msgs = s.msgs := rfl
@[simp] theorem State.modQueue_ctls (s : State) (q : Nat) (f : QueueEntry → QueueEntry) : (s.modQueue q f).ctls = s.ctls := rfl
@[simp] theorem State.modQueue_asks (s : State) (q : Nat) (f : QueueEntry → QueueEntry) : (s.modQueue q f).asks = s.asks := rfl
@[simp] theorem State.modQueue_credits (s : State) (q : Nat) (f : QueueEntry → QueueEntry) : (s.modQueue q f).credits = s.credits := rfl
@[simp] theorem State.modQueue_wakes (s : State) (q : Nat) (f : QueueEntry → QueueEntry) : (s.modQueue q f).wakes = s.wakes := rfl
@[simp] theorem State.modQueue_arrivals (s : State) (q : Nat) (f : QueueEntry → QueueEntry) : (s.modQueue q f).arrivals = s.arrivals := rfl
@[simp] theorem State.modQueue_hubPaths (s : State) (q : Nat) (f : QueueEntry → QueueEntry) : (s.modQueue q f).hubPaths = s.hubPaths := rfl
@[simp] theorem State.modQueue_bells (s : State) (q : Nat) (f : QueueEntry → QueueEntry) : (s.modQueue q f).bells = s.bells := rfl
@[simp] theorem State.modQueue_dues (s : State) (q : Nat) (f : QueueEntry → QueueEntry) : (s.modQueue q f).dues = s.dues := rfl
@[simp] theorem State.modQueue_gangs (s : State) (q : Nat) (f : QueueEntry → QueueEntry) : (s.modQueue q f).gangs = s.gangs := rfl
@[simp] theorem State.modQueue_atomics (s : State) (q : Nat) (f : QueueEntry → QueueEntry) : (s.modQueue q f).atomics = s.atomics := rfl
@[simp] theorem State.modQueue_fields (s : State) (q : Nat) (f : QueueEntry → QueueEntry) : (s.modQueue q f).fields = s.fields := rfl
@[simp] theorem State.modQueue_saved (s : State) (q : Nat) (f : QueueEntry → QueueEntry) : (s.modQueue q f).saved = s.saved := rfl
@[simp] theorem State.modQueue_cps (s : State) (q : Nat) (f : QueueEntry → QueueEntry) : (s.modQueue q f).cps = s.cps := rfl
@[simp] theorem State.modQueue_launches (s : State) (q : Nat) (f : QueueEntry → QueueEntry) : (s.modQueue q f).launches = s.launches := rfl
@[simp] theorem State.modQueue_agents (s : State) (q : Nat) (f : QueueEntry → QueueEntry) : (s.modQueue q f).agents = s.agents := rfl
@[simp] theorem State.modQueue_faults (s : State) (q : Nat) (f : QueueEntry → QueueEntry) : (s.modQueue q f).faults = s.faults := rfl
@[simp] theorem State.modQueue_waits (s : State) (q : Nat) (f : QueueEntry → QueueEntry) : (s.modQueue q f).waits = s.waits := rfl
@[simp] theorem State.modQueue_recovery (s : State) (q : Nat) (f : QueueEntry → QueueEntry) : (s.modQueue q f).recovery = s.recovery := rfl
@[simp] theorem State.modQueue_ports (s : State) (q : Nat) (f : QueueEntry → QueueEntry) : (s.modQueue q f).ports = s.ports := rfl
@[simp] theorem State.modQueue_routes (s : State) (q : Nat) (f : QueueEntry → QueueEntry) : (s.modQueue q f).routes = s.routes := rfl
@[simp] theorem State.modQueue_groups (s : State) (q : Nat) (f : QueueEntry → QueueEntry) : (s.modQueue q f).groups = s.groups := rfl
@[simp] theorem State.modQueue_packets (s : State) (q : Nat) (f : QueueEntry → QueueEntry) : (s.modQueue q f).packets = s.packets := rfl
@[simp] theorem State.modQueue_hubPorts (s : State) (q : Nat) (f : QueueEntry → QueueEntry) : (s.modQueue q f).hubPorts = s.hubPorts := rfl
@[simp] theorem State.modQueue_peers (s : State) (q : Nat) (f : QueueEntry → QueueEntry) : (s.modQueue q f).peers = s.peers := rfl
@[simp] theorem State.modQueue_regions (s : State) (q : Nat) (f : QueueEntry → QueueEntry) : (s.modQueue q f).regions = s.regions := rfl
@[simp] theorem State.modQueue_delivery (s : State) (q : Nat) (f : QueueEntry → QueueEntry) : (s.modQueue q f).delivery = s.delivery := rfl
@[simp] theorem State.modQueue_transfers (s : State) (q : Nat) (f : QueueEntry → QueueEntry) : (s.modQueue q f).transfers = s.transfers := rfl
@[simp] theorem State.modQueue_inbound (s : State) (q : Nat) (f : QueueEntry → QueueEntry) : (s.modQueue q f).inbound = s.inbound := rfl
@[simp] theorem State.modQueue_ether (s : State) (q : Nat) (f : QueueEntry → QueueEntry) : (s.modQueue q f).ether = s.ether := rfl
@[simp] theorem State.modQueue_xportLog (s : State) (q : Nat) (f : QueueEntry → QueueEntry) : (s.modQueue q f).xportLog = s.xportLog := rfl
@[simp] theorem State.modQueue_xportCancels (s : State) (q : Nat) (f : QueueEntry → QueueEntry) : (s.modQueue q f).xportCancels = s.xportCancels := rfl
@[simp] theorem State.modQueue_traces (s : State) (q : Nat) (f : QueueEntry → QueueEntry) : (s.modQueue q f).traces = s.traces := rfl
@[simp] theorem State.modQueue_clusters (s : State) (q : Nat) (f : QueueEntry → QueueEntry) : (s.modQueue q f).clusters = s.clusters := rfl
@[simp] theorem State.modQueue_columns (s : State) (q : Nat) (f : QueueEntry → QueueEntry) : (s.modQueue q f).columns = s.columns := rfl
@[simp] theorem State.modQueue_degraded (s : State) (q : Nat) (f : QueueEntry → QueueEntry) : (s.modQueue q f).degraded = s.degraded := rfl
@[simp] theorem State.modQueue_dieRecs (s : State) (q : Nat) (f : QueueEntry → QueueEntry) : (s.modQueue q f).dieRecs = s.dieRecs := rfl
@[simp] theorem State.modQueue_errLogs (s : State) (q : Nat) (f : QueueEntry → QueueEntry) : (s.modQueue q f).errLogs = s.errLogs := rfl
@[simp] theorem State.modQueue_scrubInt (s : State) (q : Nat) (f : QueueEntry → QueueEntry) : (s.modQueue q f).scrubInt = s.scrubInt := rfl
@[simp] theorem State.modQueue_scrubPos (s : State) (q : Nat) (f : QueueEntry → QueueEntry) : (s.modQueue q f).scrubPos = s.scrubPos := rfl
@[simp] theorem State.modQueue_channels (s : State) (q : Nat) (f : QueueEntry → QueueEntry) : (s.modQueue q f).channels = s.channels := rfl
@[simp] theorem State.modQueue_harts (s : State) (q : Nat) (f : QueueEntry → QueueEntry) : (s.modQueue q f).harts = s.harts := rfl
@[simp] theorem State.modQueue_firmware (s : State) (q : Nat) (f : QueueEntry → QueueEntry) : (s.modQueue q f).firmware = s.firmware := rfl
@[simp] theorem State.modQueue_power (s : State) (q : Nat) (f : QueueEntry → QueueEntry) : (s.modQueue q f).power = s.power := rfl
@[simp] theorem State.modQueue_time (s : State) (q : Nat) (f : QueueEntry → QueueEntry) : (s.modQueue q f).time = s.time := rfl
@[simp] theorem State.modQueue_nextId (s : State) (q : Nat) (f : QueueEntry → QueueEntry) : (s.modQueue q f).nextId = s.nextId := rfl
@[simp] theorem State.modQueue_tick (s : State) (q : Nat) (f : QueueEntry → QueueEntry) : (s.modQueue q f).tick = s.tick := rfl
@[simp] theorem State.modQueue_agenda (s : State) (q : Nat) (f : QueueEntry → QueueEntry) : (s.modQueue q f).agenda = s.agenda := rfl
@[simp] theorem State.modQueue_cur (s : State) (q : Nat) (f : QueueEntry → QueueEntry) : (s.modQueue q f).cur = s.cur := rfl
@[simp] theorem State.modQueue_readout (s : State) (q : Nat) (f : QueueEntry → QueueEntry) : (s.modQueue q f).readout = s.readout := rfl

@[simp] theorem State.modPort_devNum (s : State) (p : Nat) (f : Port → Port) : (s.modPort p f).devNum = s.devNum := rfl
@[simp] theorem State.modPort_ns (s : State) (p : Nat) (f : Port → Port) : (s.modPort p f).ns = s.ns := rfl
@[simp] theorem State.modPort_mem (s : State) (p : Nat) (f : Port → Port) : (s.modPort p f).mem = s.mem := rfl
@[simp] theorem State.modPort_poison (s : State) (p : Nat) (f : Port → Port) : (s.modPort p f).poison = s.poison := rfl
@[simp] theorem State.modPort_upsets (s : State) (p : Nat) (f : Port → Port) : (s.modPort p f).upsets = s.upsets := rfl
@[simp] theorem State.modPort_cells (s : State) (p : Nat) (f : Port → Port) : (s.modPort p f).cells = s.cells := rfl
@[simp] theorem State.modPort_acts (s : State) (p : Nat) (f : Port → Port) : (s.modPort p f).acts = s.acts := rfl
@[simp] theorem State.modPort_progs (s : State) (p : Nat) (f : Port → Port) : (s.modPort p f).progs = s.progs := rfl
@[simp] theorem State.modPort_copies (s : State) (p : Nat) (f : Port → Port) : (s.modPort p f).copies = s.copies := rfl
@[simp] theorem State.modPort_markers (s : State) (p : Nat) (f : Port → Port) : (s.modPort p f).markers = s.markers := rfl
@[simp] theorem State.modPort_flights (s : State) (p : Nat) (f : Port → Port) : (s.modPort p f).flights = s.flights := rfl
@[simp] theorem State.modPort_msgs (s : State) (p : Nat) (f : Port → Port) : (s.modPort p f).msgs = s.msgs := rfl
@[simp] theorem State.modPort_ctls (s : State) (p : Nat) (f : Port → Port) : (s.modPort p f).ctls = s.ctls := rfl
@[simp] theorem State.modPort_asks (s : State) (p : Nat) (f : Port → Port) : (s.modPort p f).asks = s.asks := rfl
@[simp] theorem State.modPort_credits (s : State) (p : Nat) (f : Port → Port) : (s.modPort p f).credits = s.credits := rfl
@[simp] theorem State.modPort_wakes (s : State) (p : Nat) (f : Port → Port) : (s.modPort p f).wakes = s.wakes := rfl
@[simp] theorem State.modPort_arrivals (s : State) (p : Nat) (f : Port → Port) : (s.modPort p f).arrivals = s.arrivals := rfl
@[simp] theorem State.modPort_hubPaths (s : State) (p : Nat) (f : Port → Port) : (s.modPort p f).hubPaths = s.hubPaths := rfl
@[simp] theorem State.modPort_bells (s : State) (p : Nat) (f : Port → Port) : (s.modPort p f).bells = s.bells := rfl
@[simp] theorem State.modPort_dues (s : State) (p : Nat) (f : Port → Port) : (s.modPort p f).dues = s.dues := rfl
@[simp] theorem State.modPort_gangs (s : State) (p : Nat) (f : Port → Port) : (s.modPort p f).gangs = s.gangs := rfl
@[simp] theorem State.modPort_atomics (s : State) (p : Nat) (f : Port → Port) : (s.modPort p f).atomics = s.atomics := rfl
@[simp] theorem State.modPort_fields (s : State) (p : Nat) (f : Port → Port) : (s.modPort p f).fields = s.fields := rfl
@[simp] theorem State.modPort_saved (s : State) (p : Nat) (f : Port → Port) : (s.modPort p f).saved = s.saved := rfl
@[simp] theorem State.modPort_queues (s : State) (p : Nat) (f : Port → Port) : (s.modPort p f).queues = s.queues := rfl
@[simp] theorem State.modPort_cps (s : State) (p : Nat) (f : Port → Port) : (s.modPort p f).cps = s.cps := rfl
@[simp] theorem State.modPort_launches (s : State) (p : Nat) (f : Port → Port) : (s.modPort p f).launches = s.launches := rfl
@[simp] theorem State.modPort_agents (s : State) (p : Nat) (f : Port → Port) : (s.modPort p f).agents = s.agents := rfl
@[simp] theorem State.modPort_faults (s : State) (p : Nat) (f : Port → Port) : (s.modPort p f).faults = s.faults := rfl
@[simp] theorem State.modPort_waits (s : State) (p : Nat) (f : Port → Port) : (s.modPort p f).waits = s.waits := rfl
@[simp] theorem State.modPort_recovery (s : State) (p : Nat) (f : Port → Port) : (s.modPort p f).recovery = s.recovery := rfl
@[simp] theorem State.modPort_routes (s : State) (p : Nat) (f : Port → Port) : (s.modPort p f).routes = s.routes := rfl
@[simp] theorem State.modPort_groups (s : State) (p : Nat) (f : Port → Port) : (s.modPort p f).groups = s.groups := rfl
@[simp] theorem State.modPort_packets (s : State) (p : Nat) (f : Port → Port) : (s.modPort p f).packets = s.packets := rfl
@[simp] theorem State.modPort_hubPorts (s : State) (p : Nat) (f : Port → Port) : (s.modPort p f).hubPorts = s.hubPorts := rfl
@[simp] theorem State.modPort_peers (s : State) (p : Nat) (f : Port → Port) : (s.modPort p f).peers = s.peers := rfl
@[simp] theorem State.modPort_regions (s : State) (p : Nat) (f : Port → Port) : (s.modPort p f).regions = s.regions := rfl
@[simp] theorem State.modPort_delivery (s : State) (p : Nat) (f : Port → Port) : (s.modPort p f).delivery = s.delivery := rfl
@[simp] theorem State.modPort_transfers (s : State) (p : Nat) (f : Port → Port) : (s.modPort p f).transfers = s.transfers := rfl
@[simp] theorem State.modPort_inbound (s : State) (p : Nat) (f : Port → Port) : (s.modPort p f).inbound = s.inbound := rfl
@[simp] theorem State.modPort_ether (s : State) (p : Nat) (f : Port → Port) : (s.modPort p f).ether = s.ether := rfl
@[simp] theorem State.modPort_xportLog (s : State) (p : Nat) (f : Port → Port) : (s.modPort p f).xportLog = s.xportLog := rfl
@[simp] theorem State.modPort_xportCancels (s : State) (p : Nat) (f : Port → Port) : (s.modPort p f).xportCancels = s.xportCancels := rfl
@[simp] theorem State.modPort_traces (s : State) (p : Nat) (f : Port → Port) : (s.modPort p f).traces = s.traces := rfl
@[simp] theorem State.modPort_clusters (s : State) (p : Nat) (f : Port → Port) : (s.modPort p f).clusters = s.clusters := rfl
@[simp] theorem State.modPort_columns (s : State) (p : Nat) (f : Port → Port) : (s.modPort p f).columns = s.columns := rfl
@[simp] theorem State.modPort_degraded (s : State) (p : Nat) (f : Port → Port) : (s.modPort p f).degraded = s.degraded := rfl
@[simp] theorem State.modPort_dieRecs (s : State) (p : Nat) (f : Port → Port) : (s.modPort p f).dieRecs = s.dieRecs := rfl
@[simp] theorem State.modPort_errLogs (s : State) (p : Nat) (f : Port → Port) : (s.modPort p f).errLogs = s.errLogs := rfl
@[simp] theorem State.modPort_scrubInt (s : State) (p : Nat) (f : Port → Port) : (s.modPort p f).scrubInt = s.scrubInt := rfl
@[simp] theorem State.modPort_scrubPos (s : State) (p : Nat) (f : Port → Port) : (s.modPort p f).scrubPos = s.scrubPos := rfl
@[simp] theorem State.modPort_channels (s : State) (p : Nat) (f : Port → Port) : (s.modPort p f).channels = s.channels := rfl
@[simp] theorem State.modPort_harts (s : State) (p : Nat) (f : Port → Port) : (s.modPort p f).harts = s.harts := rfl
@[simp] theorem State.modPort_firmware (s : State) (p : Nat) (f : Port → Port) : (s.modPort p f).firmware = s.firmware := rfl
@[simp] theorem State.modPort_power (s : State) (p : Nat) (f : Port → Port) : (s.modPort p f).power = s.power := rfl
@[simp] theorem State.modPort_time (s : State) (p : Nat) (f : Port → Port) : (s.modPort p f).time = s.time := rfl
@[simp] theorem State.modPort_nextId (s : State) (p : Nat) (f : Port → Port) : (s.modPort p f).nextId = s.nextId := rfl
@[simp] theorem State.modPort_tick (s : State) (p : Nat) (f : Port → Port) : (s.modPort p f).tick = s.tick := rfl
@[simp] theorem State.modPort_agenda (s : State) (p : Nat) (f : Port → Port) : (s.modPort p f).agenda = s.agenda := rfl
@[simp] theorem State.modPort_cur (s : State) (p : Nat) (f : Port → Port) : (s.modPort p f).cur = s.cur := rfl
@[simp] theorem State.modPort_readout (s : State) (p : Nat) (f : Port → Port) : (s.modPort p f).readout = s.readout := rfl

@[simp] theorem State.modBell_devNum (s : State) (d b : Nat) (f : Bell → Bell) : (s.modBell d b f).devNum = s.devNum := rfl
@[simp] theorem State.modBell_ns (s : State) (d b : Nat) (f : Bell → Bell) : (s.modBell d b f).ns = s.ns := rfl
@[simp] theorem State.modBell_mem (s : State) (d b : Nat) (f : Bell → Bell) : (s.modBell d b f).mem = s.mem := rfl
@[simp] theorem State.modBell_poison (s : State) (d b : Nat) (f : Bell → Bell) : (s.modBell d b f).poison = s.poison := rfl
@[simp] theorem State.modBell_upsets (s : State) (d b : Nat) (f : Bell → Bell) : (s.modBell d b f).upsets = s.upsets := rfl
@[simp] theorem State.modBell_cells (s : State) (d b : Nat) (f : Bell → Bell) : (s.modBell d b f).cells = s.cells := rfl
@[simp] theorem State.modBell_acts (s : State) (d b : Nat) (f : Bell → Bell) : (s.modBell d b f).acts = s.acts := rfl
@[simp] theorem State.modBell_progs (s : State) (d b : Nat) (f : Bell → Bell) : (s.modBell d b f).progs = s.progs := rfl
@[simp] theorem State.modBell_copies (s : State) (d b : Nat) (f : Bell → Bell) : (s.modBell d b f).copies = s.copies := rfl
@[simp] theorem State.modBell_markers (s : State) (d b : Nat) (f : Bell → Bell) : (s.modBell d b f).markers = s.markers := rfl
@[simp] theorem State.modBell_flights (s : State) (d b : Nat) (f : Bell → Bell) : (s.modBell d b f).flights = s.flights := rfl
@[simp] theorem State.modBell_msgs (s : State) (d b : Nat) (f : Bell → Bell) : (s.modBell d b f).msgs = s.msgs := rfl
@[simp] theorem State.modBell_ctls (s : State) (d b : Nat) (f : Bell → Bell) : (s.modBell d b f).ctls = s.ctls := rfl
@[simp] theorem State.modBell_asks (s : State) (d b : Nat) (f : Bell → Bell) : (s.modBell d b f).asks = s.asks := rfl
@[simp] theorem State.modBell_credits (s : State) (d b : Nat) (f : Bell → Bell) : (s.modBell d b f).credits = s.credits := rfl
@[simp] theorem State.modBell_wakes (s : State) (d b : Nat) (f : Bell → Bell) : (s.modBell d b f).wakes = s.wakes := rfl
@[simp] theorem State.modBell_arrivals (s : State) (d b : Nat) (f : Bell → Bell) : (s.modBell d b f).arrivals = s.arrivals := rfl
@[simp] theorem State.modBell_hubPaths (s : State) (d b : Nat) (f : Bell → Bell) : (s.modBell d b f).hubPaths = s.hubPaths := rfl
@[simp] theorem State.modBell_dues (s : State) (d b : Nat) (f : Bell → Bell) : (s.modBell d b f).dues = s.dues := rfl
@[simp] theorem State.modBell_gangs (s : State) (d b : Nat) (f : Bell → Bell) : (s.modBell d b f).gangs = s.gangs := rfl
@[simp] theorem State.modBell_atomics (s : State) (d b : Nat) (f : Bell → Bell) : (s.modBell d b f).atomics = s.atomics := rfl
@[simp] theorem State.modBell_fields (s : State) (d b : Nat) (f : Bell → Bell) : (s.modBell d b f).fields = s.fields := rfl
@[simp] theorem State.modBell_saved (s : State) (d b : Nat) (f : Bell → Bell) : (s.modBell d b f).saved = s.saved := rfl
@[simp] theorem State.modBell_queues (s : State) (d b : Nat) (f : Bell → Bell) : (s.modBell d b f).queues = s.queues := rfl
@[simp] theorem State.modBell_cps (s : State) (d b : Nat) (f : Bell → Bell) : (s.modBell d b f).cps = s.cps := rfl
@[simp] theorem State.modBell_launches (s : State) (d b : Nat) (f : Bell → Bell) : (s.modBell d b f).launches = s.launches := rfl
@[simp] theorem State.modBell_agents (s : State) (d b : Nat) (f : Bell → Bell) : (s.modBell d b f).agents = s.agents := rfl
@[simp] theorem State.modBell_faults (s : State) (d b : Nat) (f : Bell → Bell) : (s.modBell d b f).faults = s.faults := rfl
@[simp] theorem State.modBell_waits (s : State) (d b : Nat) (f : Bell → Bell) : (s.modBell d b f).waits = s.waits := rfl
@[simp] theorem State.modBell_recovery (s : State) (d b : Nat) (f : Bell → Bell) : (s.modBell d b f).recovery = s.recovery := rfl
@[simp] theorem State.modBell_ports (s : State) (d b : Nat) (f : Bell → Bell) : (s.modBell d b f).ports = s.ports := rfl
@[simp] theorem State.modBell_routes (s : State) (d b : Nat) (f : Bell → Bell) : (s.modBell d b f).routes = s.routes := rfl
@[simp] theorem State.modBell_groups (s : State) (d b : Nat) (f : Bell → Bell) : (s.modBell d b f).groups = s.groups := rfl
@[simp] theorem State.modBell_packets (s : State) (d b : Nat) (f : Bell → Bell) : (s.modBell d b f).packets = s.packets := rfl
@[simp] theorem State.modBell_hubPorts (s : State) (d b : Nat) (f : Bell → Bell) : (s.modBell d b f).hubPorts = s.hubPorts := rfl
@[simp] theorem State.modBell_peers (s : State) (d b : Nat) (f : Bell → Bell) : (s.modBell d b f).peers = s.peers := rfl
@[simp] theorem State.modBell_regions (s : State) (d b : Nat) (f : Bell → Bell) : (s.modBell d b f).regions = s.regions := rfl
@[simp] theorem State.modBell_delivery (s : State) (d b : Nat) (f : Bell → Bell) : (s.modBell d b f).delivery = s.delivery := rfl
@[simp] theorem State.modBell_transfers (s : State) (d b : Nat) (f : Bell → Bell) : (s.modBell d b f).transfers = s.transfers := rfl
@[simp] theorem State.modBell_inbound (s : State) (d b : Nat) (f : Bell → Bell) : (s.modBell d b f).inbound = s.inbound := rfl
@[simp] theorem State.modBell_ether (s : State) (d b : Nat) (f : Bell → Bell) : (s.modBell d b f).ether = s.ether := rfl
@[simp] theorem State.modBell_xportLog (s : State) (d b : Nat) (f : Bell → Bell) : (s.modBell d b f).xportLog = s.xportLog := rfl
@[simp] theorem State.modBell_xportCancels (s : State) (d b : Nat) (f : Bell → Bell) : (s.modBell d b f).xportCancels = s.xportCancels := rfl
@[simp] theorem State.modBell_traces (s : State) (d b : Nat) (f : Bell → Bell) : (s.modBell d b f).traces = s.traces := rfl
@[simp] theorem State.modBell_clusters (s : State) (d b : Nat) (f : Bell → Bell) : (s.modBell d b f).clusters = s.clusters := rfl
@[simp] theorem State.modBell_columns (s : State) (d b : Nat) (f : Bell → Bell) : (s.modBell d b f).columns = s.columns := rfl
@[simp] theorem State.modBell_degraded (s : State) (d b : Nat) (f : Bell → Bell) : (s.modBell d b f).degraded = s.degraded := rfl
@[simp] theorem State.modBell_dieRecs (s : State) (d b : Nat) (f : Bell → Bell) : (s.modBell d b f).dieRecs = s.dieRecs := rfl
@[simp] theorem State.modBell_errLogs (s : State) (d b : Nat) (f : Bell → Bell) : (s.modBell d b f).errLogs = s.errLogs := rfl
@[simp] theorem State.modBell_scrubInt (s : State) (d b : Nat) (f : Bell → Bell) : (s.modBell d b f).scrubInt = s.scrubInt := rfl
@[simp] theorem State.modBell_scrubPos (s : State) (d b : Nat) (f : Bell → Bell) : (s.modBell d b f).scrubPos = s.scrubPos := rfl
@[simp] theorem State.modBell_channels (s : State) (d b : Nat) (f : Bell → Bell) : (s.modBell d b f).channels = s.channels := rfl
@[simp] theorem State.modBell_harts (s : State) (d b : Nat) (f : Bell → Bell) : (s.modBell d b f).harts = s.harts := rfl
@[simp] theorem State.modBell_firmware (s : State) (d b : Nat) (f : Bell → Bell) : (s.modBell d b f).firmware = s.firmware := rfl
@[simp] theorem State.modBell_power (s : State) (d b : Nat) (f : Bell → Bell) : (s.modBell d b f).power = s.power := rfl
@[simp] theorem State.modBell_time (s : State) (d b : Nat) (f : Bell → Bell) : (s.modBell d b f).time = s.time := rfl
@[simp] theorem State.modBell_nextId (s : State) (d b : Nat) (f : Bell → Bell) : (s.modBell d b f).nextId = s.nextId := rfl
@[simp] theorem State.modBell_tick (s : State) (d b : Nat) (f : Bell → Bell) : (s.modBell d b f).tick = s.tick := rfl
@[simp] theorem State.modBell_agenda (s : State) (d b : Nat) (f : Bell → Bell) : (s.modBell d b f).agenda = s.agenda := rfl
@[simp] theorem State.modBell_cur (s : State) (d b : Nat) (f : Bell → Bell) : (s.modBell d b f).cur = s.cur := rfl
@[simp] theorem State.modBell_readout (s : State) (d b : Nat) (f : Bell → Bell) : (s.modBell d b f).readout = s.readout := rfl

@[simp] theorem State.endWait_devNum (s : State) (r : FaultReq) : (s.endWait r).devNum = s.devNum := rfl
@[simp] theorem State.endWait_ns (s : State) (r : FaultReq) : (s.endWait r).ns = s.ns := rfl
@[simp] theorem State.endWait_mem (s : State) (r : FaultReq) : (s.endWait r).mem = s.mem := rfl
@[simp] theorem State.endWait_poison (s : State) (r : FaultReq) : (s.endWait r).poison = s.poison := rfl
@[simp] theorem State.endWait_upsets (s : State) (r : FaultReq) : (s.endWait r).upsets = s.upsets := rfl
@[simp] theorem State.endWait_cells (s : State) (r : FaultReq) : (s.endWait r).cells = s.cells := rfl
@[simp] theorem State.endWait_acts (s : State) (r : FaultReq) : (s.endWait r).acts = s.acts := rfl
@[simp] theorem State.endWait_progs (s : State) (r : FaultReq) : (s.endWait r).progs = s.progs := rfl
@[simp] theorem State.endWait_copies (s : State) (r : FaultReq) : (s.endWait r).copies = s.copies := rfl
@[simp] theorem State.endWait_markers (s : State) (r : FaultReq) : (s.endWait r).markers = s.markers := rfl
@[simp] theorem State.endWait_flights (s : State) (r : FaultReq) : (s.endWait r).flights = s.flights := rfl
@[simp] theorem State.endWait_msgs (s : State) (r : FaultReq) : (s.endWait r).msgs = s.msgs := rfl
@[simp] theorem State.endWait_ctls (s : State) (r : FaultReq) : (s.endWait r).ctls = s.ctls := rfl
@[simp] theorem State.endWait_asks (s : State) (r : FaultReq) : (s.endWait r).asks = s.asks := rfl
@[simp] theorem State.endWait_credits (s : State) (r : FaultReq) : (s.endWait r).credits = s.credits := rfl
@[simp] theorem State.endWait_wakes (s : State) (r : FaultReq) : (s.endWait r).wakes = s.wakes := rfl
@[simp] theorem State.endWait_arrivals (s : State) (r : FaultReq) : (s.endWait r).arrivals = s.arrivals := rfl
@[simp] theorem State.endWait_hubPaths (s : State) (r : FaultReq) : (s.endWait r).hubPaths = s.hubPaths := rfl
@[simp] theorem State.endWait_bells (s : State) (r : FaultReq) : (s.endWait r).bells = s.bells := rfl
@[simp] theorem State.endWait_dues (s : State) (r : FaultReq) : (s.endWait r).dues = s.dues := rfl
@[simp] theorem State.endWait_gangs (s : State) (r : FaultReq) : (s.endWait r).gangs = s.gangs := rfl
@[simp] theorem State.endWait_atomics (s : State) (r : FaultReq) : (s.endWait r).atomics = s.atomics := rfl
@[simp] theorem State.endWait_fields (s : State) (r : FaultReq) : (s.endWait r).fields = s.fields := rfl
@[simp] theorem State.endWait_saved (s : State) (r : FaultReq) : (s.endWait r).saved = s.saved := rfl
@[simp] theorem State.endWait_queues (s : State) (r : FaultReq) : (s.endWait r).queues = s.queues := rfl
@[simp] theorem State.endWait_cps (s : State) (r : FaultReq) : (s.endWait r).cps = s.cps := rfl
@[simp] theorem State.endWait_launches (s : State) (r : FaultReq) : (s.endWait r).launches = s.launches := rfl
@[simp] theorem State.endWait_agents (s : State) (r : FaultReq) : (s.endWait r).agents = s.agents := rfl
@[simp] theorem State.endWait_faults (s : State) (r : FaultReq) : (s.endWait r).faults = s.faults := rfl
@[simp] theorem State.endWait_recovery (s : State) (r : FaultReq) : (s.endWait r).recovery = s.recovery := rfl
@[simp] theorem State.endWait_ports (s : State) (r : FaultReq) : (s.endWait r).ports = s.ports := rfl
@[simp] theorem State.endWait_routes (s : State) (r : FaultReq) : (s.endWait r).routes = s.routes := rfl
@[simp] theorem State.endWait_groups (s : State) (r : FaultReq) : (s.endWait r).groups = s.groups := rfl
@[simp] theorem State.endWait_packets (s : State) (r : FaultReq) : (s.endWait r).packets = s.packets := rfl
@[simp] theorem State.endWait_hubPorts (s : State) (r : FaultReq) : (s.endWait r).hubPorts = s.hubPorts := rfl
@[simp] theorem State.endWait_peers (s : State) (r : FaultReq) : (s.endWait r).peers = s.peers := rfl
@[simp] theorem State.endWait_regions (s : State) (r : FaultReq) : (s.endWait r).regions = s.regions := rfl
@[simp] theorem State.endWait_delivery (s : State) (r : FaultReq) : (s.endWait r).delivery = s.delivery := rfl
@[simp] theorem State.endWait_transfers (s : State) (r : FaultReq) : (s.endWait r).transfers = s.transfers := rfl
@[simp] theorem State.endWait_inbound (s : State) (r : FaultReq) : (s.endWait r).inbound = s.inbound := rfl
@[simp] theorem State.endWait_ether (s : State) (r : FaultReq) : (s.endWait r).ether = s.ether := rfl
@[simp] theorem State.endWait_xportLog (s : State) (r : FaultReq) : (s.endWait r).xportLog = s.xportLog := rfl
@[simp] theorem State.endWait_xportCancels (s : State) (r : FaultReq) : (s.endWait r).xportCancels = s.xportCancels := rfl
@[simp] theorem State.endWait_traces (s : State) (r : FaultReq) : (s.endWait r).traces = s.traces := rfl
@[simp] theorem State.endWait_clusters (s : State) (r : FaultReq) : (s.endWait r).clusters = s.clusters := rfl
@[simp] theorem State.endWait_columns (s : State) (r : FaultReq) : (s.endWait r).columns = s.columns := rfl
@[simp] theorem State.endWait_degraded (s : State) (r : FaultReq) : (s.endWait r).degraded = s.degraded := rfl
@[simp] theorem State.endWait_dieRecs (s : State) (r : FaultReq) : (s.endWait r).dieRecs = s.dieRecs := rfl
@[simp] theorem State.endWait_errLogs (s : State) (r : FaultReq) : (s.endWait r).errLogs = s.errLogs := rfl
@[simp] theorem State.endWait_scrubInt (s : State) (r : FaultReq) : (s.endWait r).scrubInt = s.scrubInt := rfl
@[simp] theorem State.endWait_scrubPos (s : State) (r : FaultReq) : (s.endWait r).scrubPos = s.scrubPos := rfl
@[simp] theorem State.endWait_channels (s : State) (r : FaultReq) : (s.endWait r).channels = s.channels := rfl
@[simp] theorem State.endWait_harts (s : State) (r : FaultReq) : (s.endWait r).harts = s.harts := rfl
@[simp] theorem State.endWait_firmware (s : State) (r : FaultReq) : (s.endWait r).firmware = s.firmware := rfl
@[simp] theorem State.endWait_power (s : State) (r : FaultReq) : (s.endWait r).power = s.power := rfl
@[simp] theorem State.endWait_time (s : State) (r : FaultReq) : (s.endWait r).time = s.time := rfl
@[simp] theorem State.endWait_nextId (s : State) (r : FaultReq) : (s.endWait r).nextId = s.nextId := rfl
@[simp] theorem State.endWait_tick (s : State) (r : FaultReq) : (s.endWait r).tick = s.tick := rfl
@[simp] theorem State.endWait_agenda (s : State) (r : FaultReq) : (s.endWait r).agenda = s.agenda := rfl
@[simp] theorem State.endWait_cur (s : State) (r : FaultReq) : (s.endWait r).cur = s.cur := rfl
@[simp] theorem State.endWait_readout (s : State) (r : FaultReq) : (s.endWait r).readout = s.readout := rfl

@[simp] theorem State.setWait_devNum (s : State) (r : FaultReq) (m : MemWait) : (s.setWait r m).devNum = s.devNum := rfl
@[simp] theorem State.setWait_ns (s : State) (r : FaultReq) (m : MemWait) : (s.setWait r m).ns = s.ns := rfl
@[simp] theorem State.setWait_mem (s : State) (r : FaultReq) (m : MemWait) : (s.setWait r m).mem = s.mem := rfl
@[simp] theorem State.setWait_poison (s : State) (r : FaultReq) (m : MemWait) : (s.setWait r m).poison = s.poison := rfl
@[simp] theorem State.setWait_upsets (s : State) (r : FaultReq) (m : MemWait) : (s.setWait r m).upsets = s.upsets := rfl
@[simp] theorem State.setWait_cells (s : State) (r : FaultReq) (m : MemWait) : (s.setWait r m).cells = s.cells := rfl
@[simp] theorem State.setWait_acts (s : State) (r : FaultReq) (m : MemWait) : (s.setWait r m).acts = s.acts := rfl
@[simp] theorem State.setWait_progs (s : State) (r : FaultReq) (m : MemWait) : (s.setWait r m).progs = s.progs := rfl
@[simp] theorem State.setWait_copies (s : State) (r : FaultReq) (m : MemWait) : (s.setWait r m).copies = s.copies := rfl
@[simp] theorem State.setWait_markers (s : State) (r : FaultReq) (m : MemWait) : (s.setWait r m).markers = s.markers := rfl
@[simp] theorem State.setWait_flights (s : State) (r : FaultReq) (m : MemWait) : (s.setWait r m).flights = s.flights := rfl
@[simp] theorem State.setWait_msgs (s : State) (r : FaultReq) (m : MemWait) : (s.setWait r m).msgs = s.msgs := rfl
@[simp] theorem State.setWait_ctls (s : State) (r : FaultReq) (m : MemWait) : (s.setWait r m).ctls = s.ctls := rfl
@[simp] theorem State.setWait_asks (s : State) (r : FaultReq) (m : MemWait) : (s.setWait r m).asks = s.asks := rfl
@[simp] theorem State.setWait_credits (s : State) (r : FaultReq) (m : MemWait) : (s.setWait r m).credits = s.credits := rfl
@[simp] theorem State.setWait_wakes (s : State) (r : FaultReq) (m : MemWait) : (s.setWait r m).wakes = s.wakes := rfl
@[simp] theorem State.setWait_arrivals (s : State) (r : FaultReq) (m : MemWait) : (s.setWait r m).arrivals = s.arrivals := rfl
@[simp] theorem State.setWait_hubPaths (s : State) (r : FaultReq) (m : MemWait) : (s.setWait r m).hubPaths = s.hubPaths := rfl
@[simp] theorem State.setWait_bells (s : State) (r : FaultReq) (m : MemWait) : (s.setWait r m).bells = s.bells := rfl
@[simp] theorem State.setWait_dues (s : State) (r : FaultReq) (m : MemWait) : (s.setWait r m).dues = s.dues := rfl
@[simp] theorem State.setWait_gangs (s : State) (r : FaultReq) (m : MemWait) : (s.setWait r m).gangs = s.gangs := rfl
@[simp] theorem State.setWait_atomics (s : State) (r : FaultReq) (m : MemWait) : (s.setWait r m).atomics = s.atomics := rfl
@[simp] theorem State.setWait_fields (s : State) (r : FaultReq) (m : MemWait) : (s.setWait r m).fields = s.fields := rfl
@[simp] theorem State.setWait_saved (s : State) (r : FaultReq) (m : MemWait) : (s.setWait r m).saved = s.saved := rfl
@[simp] theorem State.setWait_queues (s : State) (r : FaultReq) (m : MemWait) : (s.setWait r m).queues = s.queues := rfl
@[simp] theorem State.setWait_cps (s : State) (r : FaultReq) (m : MemWait) : (s.setWait r m).cps = s.cps := rfl
@[simp] theorem State.setWait_launches (s : State) (r : FaultReq) (m : MemWait) : (s.setWait r m).launches = s.launches := rfl
@[simp] theorem State.setWait_agents (s : State) (r : FaultReq) (m : MemWait) : (s.setWait r m).agents = s.agents := rfl
@[simp] theorem State.setWait_faults (s : State) (r : FaultReq) (m : MemWait) : (s.setWait r m).faults = s.faults := rfl
@[simp] theorem State.setWait_recovery (s : State) (r : FaultReq) (m : MemWait) : (s.setWait r m).recovery = s.recovery := rfl
@[simp] theorem State.setWait_ports (s : State) (r : FaultReq) (m : MemWait) : (s.setWait r m).ports = s.ports := rfl
@[simp] theorem State.setWait_routes (s : State) (r : FaultReq) (m : MemWait) : (s.setWait r m).routes = s.routes := rfl
@[simp] theorem State.setWait_groups (s : State) (r : FaultReq) (m : MemWait) : (s.setWait r m).groups = s.groups := rfl
@[simp] theorem State.setWait_packets (s : State) (r : FaultReq) (m : MemWait) : (s.setWait r m).packets = s.packets := rfl
@[simp] theorem State.setWait_hubPorts (s : State) (r : FaultReq) (m : MemWait) : (s.setWait r m).hubPorts = s.hubPorts := rfl
@[simp] theorem State.setWait_peers (s : State) (r : FaultReq) (m : MemWait) : (s.setWait r m).peers = s.peers := rfl
@[simp] theorem State.setWait_regions (s : State) (r : FaultReq) (m : MemWait) : (s.setWait r m).regions = s.regions := rfl
@[simp] theorem State.setWait_delivery (s : State) (r : FaultReq) (m : MemWait) : (s.setWait r m).delivery = s.delivery := rfl
@[simp] theorem State.setWait_transfers (s : State) (r : FaultReq) (m : MemWait) : (s.setWait r m).transfers = s.transfers := rfl
@[simp] theorem State.setWait_inbound (s : State) (r : FaultReq) (m : MemWait) : (s.setWait r m).inbound = s.inbound := rfl
@[simp] theorem State.setWait_ether (s : State) (r : FaultReq) (m : MemWait) : (s.setWait r m).ether = s.ether := rfl
@[simp] theorem State.setWait_xportLog (s : State) (r : FaultReq) (m : MemWait) : (s.setWait r m).xportLog = s.xportLog := rfl
@[simp] theorem State.setWait_xportCancels (s : State) (r : FaultReq) (m : MemWait) : (s.setWait r m).xportCancels = s.xportCancels := rfl
@[simp] theorem State.setWait_traces (s : State) (r : FaultReq) (m : MemWait) : (s.setWait r m).traces = s.traces := rfl
@[simp] theorem State.setWait_clusters (s : State) (r : FaultReq) (m : MemWait) : (s.setWait r m).clusters = s.clusters := rfl
@[simp] theorem State.setWait_columns (s : State) (r : FaultReq) (m : MemWait) : (s.setWait r m).columns = s.columns := rfl
@[simp] theorem State.setWait_degraded (s : State) (r : FaultReq) (m : MemWait) : (s.setWait r m).degraded = s.degraded := rfl
@[simp] theorem State.setWait_dieRecs (s : State) (r : FaultReq) (m : MemWait) : (s.setWait r m).dieRecs = s.dieRecs := rfl
@[simp] theorem State.setWait_errLogs (s : State) (r : FaultReq) (m : MemWait) : (s.setWait r m).errLogs = s.errLogs := rfl
@[simp] theorem State.setWait_scrubInt (s : State) (r : FaultReq) (m : MemWait) : (s.setWait r m).scrubInt = s.scrubInt := rfl
@[simp] theorem State.setWait_scrubPos (s : State) (r : FaultReq) (m : MemWait) : (s.setWait r m).scrubPos = s.scrubPos := rfl
@[simp] theorem State.setWait_channels (s : State) (r : FaultReq) (m : MemWait) : (s.setWait r m).channels = s.channels := rfl
@[simp] theorem State.setWait_harts (s : State) (r : FaultReq) (m : MemWait) : (s.setWait r m).harts = s.harts := rfl
@[simp] theorem State.setWait_firmware (s : State) (r : FaultReq) (m : MemWait) : (s.setWait r m).firmware = s.firmware := rfl
@[simp] theorem State.setWait_power (s : State) (r : FaultReq) (m : MemWait) : (s.setWait r m).power = s.power := rfl
@[simp] theorem State.setWait_time (s : State) (r : FaultReq) (m : MemWait) : (s.setWait r m).time = s.time := rfl
@[simp] theorem State.setWait_nextId (s : State) (r : FaultReq) (m : MemWait) : (s.setWait r m).nextId = s.nextId := rfl
@[simp] theorem State.setWait_tick (s : State) (r : FaultReq) (m : MemWait) : (s.setWait r m).tick = s.tick := rfl
@[simp] theorem State.setWait_agenda (s : State) (r : FaultReq) (m : MemWait) : (s.setWait r m).agenda = s.agenda := rfl
@[simp] theorem State.setWait_cur (s : State) (r : FaultReq) (m : MemWait) : (s.setWait r m).cur = s.cur := rfl
@[simp] theorem State.setWait_readout (s : State) (r : FaultReq) (m : MemWait) : (s.setWait r m).readout = s.readout := rfl

@[simp] theorem State.logCell_devNum (s : State) (c : Nat) (v : Violation) : (s.logCell c v).devNum = s.devNum := rfl
@[simp] theorem State.logCell_ns (s : State) (c : Nat) (v : Violation) : (s.logCell c v).ns = s.ns := rfl
@[simp] theorem State.logCell_mem (s : State) (c : Nat) (v : Violation) : (s.logCell c v).mem = s.mem := rfl
@[simp] theorem State.logCell_poison (s : State) (c : Nat) (v : Violation) : (s.logCell c v).poison = s.poison := rfl
@[simp] theorem State.logCell_upsets (s : State) (c : Nat) (v : Violation) : (s.logCell c v).upsets = s.upsets := rfl
@[simp] theorem State.logCell_acts (s : State) (c : Nat) (v : Violation) : (s.logCell c v).acts = s.acts := rfl
@[simp] theorem State.logCell_progs (s : State) (c : Nat) (v : Violation) : (s.logCell c v).progs = s.progs := rfl
@[simp] theorem State.logCell_copies (s : State) (c : Nat) (v : Violation) : (s.logCell c v).copies = s.copies := rfl
@[simp] theorem State.logCell_markers (s : State) (c : Nat) (v : Violation) : (s.logCell c v).markers = s.markers := rfl
@[simp] theorem State.logCell_flights (s : State) (c : Nat) (v : Violation) : (s.logCell c v).flights = s.flights := rfl
@[simp] theorem State.logCell_msgs (s : State) (c : Nat) (v : Violation) : (s.logCell c v).msgs = s.msgs := rfl
@[simp] theorem State.logCell_ctls (s : State) (c : Nat) (v : Violation) : (s.logCell c v).ctls = s.ctls := rfl
@[simp] theorem State.logCell_asks (s : State) (c : Nat) (v : Violation) : (s.logCell c v).asks = s.asks := rfl
@[simp] theorem State.logCell_credits (s : State) (c : Nat) (v : Violation) : (s.logCell c v).credits = s.credits := rfl
@[simp] theorem State.logCell_wakes (s : State) (c : Nat) (v : Violation) : (s.logCell c v).wakes = s.wakes := rfl
@[simp] theorem State.logCell_arrivals (s : State) (c : Nat) (v : Violation) : (s.logCell c v).arrivals = s.arrivals := rfl
@[simp] theorem State.logCell_hubPaths (s : State) (c : Nat) (v : Violation) : (s.logCell c v).hubPaths = s.hubPaths := rfl
@[simp] theorem State.logCell_bells (s : State) (c : Nat) (v : Violation) : (s.logCell c v).bells = s.bells := rfl
@[simp] theorem State.logCell_dues (s : State) (c : Nat) (v : Violation) : (s.logCell c v).dues = s.dues := rfl
@[simp] theorem State.logCell_gangs (s : State) (c : Nat) (v : Violation) : (s.logCell c v).gangs = s.gangs := rfl
@[simp] theorem State.logCell_atomics (s : State) (c : Nat) (v : Violation) : (s.logCell c v).atomics = s.atomics := rfl
@[simp] theorem State.logCell_fields (s : State) (c : Nat) (v : Violation) : (s.logCell c v).fields = s.fields := rfl
@[simp] theorem State.logCell_saved (s : State) (c : Nat) (v : Violation) : (s.logCell c v).saved = s.saved := rfl
@[simp] theorem State.logCell_queues (s : State) (c : Nat) (v : Violation) : (s.logCell c v).queues = s.queues := rfl
@[simp] theorem State.logCell_cps (s : State) (c : Nat) (v : Violation) : (s.logCell c v).cps = s.cps := rfl
@[simp] theorem State.logCell_launches (s : State) (c : Nat) (v : Violation) : (s.logCell c v).launches = s.launches := rfl
@[simp] theorem State.logCell_agents (s : State) (c : Nat) (v : Violation) : (s.logCell c v).agents = s.agents := rfl
@[simp] theorem State.logCell_faults (s : State) (c : Nat) (v : Violation) : (s.logCell c v).faults = s.faults := rfl
@[simp] theorem State.logCell_waits (s : State) (c : Nat) (v : Violation) : (s.logCell c v).waits = s.waits := rfl
@[simp] theorem State.logCell_recovery (s : State) (c : Nat) (v : Violation) : (s.logCell c v).recovery = s.recovery := rfl
@[simp] theorem State.logCell_ports (s : State) (c : Nat) (v : Violation) : (s.logCell c v).ports = s.ports := rfl
@[simp] theorem State.logCell_routes (s : State) (c : Nat) (v : Violation) : (s.logCell c v).routes = s.routes := rfl
@[simp] theorem State.logCell_groups (s : State) (c : Nat) (v : Violation) : (s.logCell c v).groups = s.groups := rfl
@[simp] theorem State.logCell_packets (s : State) (c : Nat) (v : Violation) : (s.logCell c v).packets = s.packets := rfl
@[simp] theorem State.logCell_hubPorts (s : State) (c : Nat) (v : Violation) : (s.logCell c v).hubPorts = s.hubPorts := rfl
@[simp] theorem State.logCell_peers (s : State) (c : Nat) (v : Violation) : (s.logCell c v).peers = s.peers := rfl
@[simp] theorem State.logCell_regions (s : State) (c : Nat) (v : Violation) : (s.logCell c v).regions = s.regions := rfl
@[simp] theorem State.logCell_delivery (s : State) (c : Nat) (v : Violation) : (s.logCell c v).delivery = s.delivery := rfl
@[simp] theorem State.logCell_transfers (s : State) (c : Nat) (v : Violation) : (s.logCell c v).transfers = s.transfers := rfl
@[simp] theorem State.logCell_inbound (s : State) (c : Nat) (v : Violation) : (s.logCell c v).inbound = s.inbound := rfl
@[simp] theorem State.logCell_ether (s : State) (c : Nat) (v : Violation) : (s.logCell c v).ether = s.ether := rfl
@[simp] theorem State.logCell_xportLog (s : State) (c : Nat) (v : Violation) : (s.logCell c v).xportLog = s.xportLog := rfl
@[simp] theorem State.logCell_xportCancels (s : State) (c : Nat) (v : Violation) : (s.logCell c v).xportCancels = s.xportCancels := rfl
@[simp] theorem State.logCell_traces (s : State) (c : Nat) (v : Violation) : (s.logCell c v).traces = s.traces := rfl
@[simp] theorem State.logCell_clusters (s : State) (c : Nat) (v : Violation) : (s.logCell c v).clusters = s.clusters := rfl
@[simp] theorem State.logCell_columns (s : State) (c : Nat) (v : Violation) : (s.logCell c v).columns = s.columns := rfl
@[simp] theorem State.logCell_degraded (s : State) (c : Nat) (v : Violation) : (s.logCell c v).degraded = s.degraded := rfl
@[simp] theorem State.logCell_dieRecs (s : State) (c : Nat) (v : Violation) : (s.logCell c v).dieRecs = s.dieRecs := rfl
@[simp] theorem State.logCell_errLogs (s : State) (c : Nat) (v : Violation) : (s.logCell c v).errLogs = s.errLogs := rfl
@[simp] theorem State.logCell_scrubInt (s : State) (c : Nat) (v : Violation) : (s.logCell c v).scrubInt = s.scrubInt := rfl
@[simp] theorem State.logCell_scrubPos (s : State) (c : Nat) (v : Violation) : (s.logCell c v).scrubPos = s.scrubPos := rfl
@[simp] theorem State.logCell_channels (s : State) (c : Nat) (v : Violation) : (s.logCell c v).channels = s.channels := rfl
@[simp] theorem State.logCell_harts (s : State) (c : Nat) (v : Violation) : (s.logCell c v).harts = s.harts := rfl
@[simp] theorem State.logCell_firmware (s : State) (c : Nat) (v : Violation) : (s.logCell c v).firmware = s.firmware := rfl
@[simp] theorem State.logCell_power (s : State) (c : Nat) (v : Violation) : (s.logCell c v).power = s.power := rfl
@[simp] theorem State.logCell_time (s : State) (c : Nat) (v : Violation) : (s.logCell c v).time = s.time := rfl
@[simp] theorem State.logCell_nextId (s : State) (c : Nat) (v : Violation) : (s.logCell c v).nextId = s.nextId := rfl
@[simp] theorem State.logCell_tick (s : State) (c : Nat) (v : Violation) : (s.logCell c v).tick = s.tick := rfl
@[simp] theorem State.logCell_agenda (s : State) (c : Nat) (v : Violation) : (s.logCell c v).agenda = s.agenda := rfl
@[simp] theorem State.logCell_cur (s : State) (c : Nat) (v : Violation) : (s.logCell c v).cur = s.cur := rfl
@[simp] theorem State.logCell_readout (s : State) (c : Nat) (v : Violation) : (s.logCell c v).readout = s.readout := rfl

@[simp] theorem State.post_devNum (s : State) (m : Msg) : (s.post m).devNum = s.devNum := rfl
@[simp] theorem State.post_ns (s : State) (m : Msg) : (s.post m).ns = s.ns := rfl
@[simp] theorem State.post_mem (s : State) (m : Msg) : (s.post m).mem = s.mem := rfl
@[simp] theorem State.post_poison (s : State) (m : Msg) : (s.post m).poison = s.poison := rfl
@[simp] theorem State.post_upsets (s : State) (m : Msg) : (s.post m).upsets = s.upsets := rfl
@[simp] theorem State.post_cells (s : State) (m : Msg) : (s.post m).cells = s.cells := rfl
@[simp] theorem State.post_acts (s : State) (m : Msg) : (s.post m).acts = s.acts := rfl
@[simp] theorem State.post_progs (s : State) (m : Msg) : (s.post m).progs = s.progs := rfl
@[simp] theorem State.post_copies (s : State) (m : Msg) : (s.post m).copies = s.copies := rfl
@[simp] theorem State.post_markers (s : State) (m : Msg) : (s.post m).markers = s.markers := rfl
@[simp] theorem State.post_flights (s : State) (m : Msg) : (s.post m).flights = s.flights := rfl
@[simp] theorem State.post_ctls (s : State) (m : Msg) : (s.post m).ctls = s.ctls := rfl
@[simp] theorem State.post_asks (s : State) (m : Msg) : (s.post m).asks = s.asks := rfl
@[simp] theorem State.post_credits (s : State) (m : Msg) : (s.post m).credits = s.credits := rfl
@[simp] theorem State.post_wakes (s : State) (m : Msg) : (s.post m).wakes = s.wakes := rfl
@[simp] theorem State.post_arrivals (s : State) (m : Msg) : (s.post m).arrivals = s.arrivals := rfl
@[simp] theorem State.post_bells (s : State) (m : Msg) : (s.post m).bells = s.bells := rfl
@[simp] theorem State.post_dues (s : State) (m : Msg) : (s.post m).dues = s.dues := rfl
@[simp] theorem State.post_gangs (s : State) (m : Msg) : (s.post m).gangs = s.gangs := rfl
@[simp] theorem State.post_atomics (s : State) (m : Msg) : (s.post m).atomics = s.atomics := rfl
@[simp] theorem State.post_fields (s : State) (m : Msg) : (s.post m).fields = s.fields := rfl
@[simp] theorem State.post_saved (s : State) (m : Msg) : (s.post m).saved = s.saved := rfl
@[simp] theorem State.post_queues (s : State) (m : Msg) : (s.post m).queues = s.queues := rfl
@[simp] theorem State.post_cps (s : State) (m : Msg) : (s.post m).cps = s.cps := rfl
@[simp] theorem State.post_launches (s : State) (m : Msg) : (s.post m).launches = s.launches := rfl
@[simp] theorem State.post_agents (s : State) (m : Msg) : (s.post m).agents = s.agents := rfl
@[simp] theorem State.post_faults (s : State) (m : Msg) : (s.post m).faults = s.faults := rfl
@[simp] theorem State.post_waits (s : State) (m : Msg) : (s.post m).waits = s.waits := rfl
@[simp] theorem State.post_recovery (s : State) (m : Msg) : (s.post m).recovery = s.recovery := rfl
@[simp] theorem State.post_ports (s : State) (m : Msg) : (s.post m).ports = s.ports := rfl
@[simp] theorem State.post_routes (s : State) (m : Msg) : (s.post m).routes = s.routes := rfl
@[simp] theorem State.post_groups (s : State) (m : Msg) : (s.post m).groups = s.groups := rfl
@[simp] theorem State.post_packets (s : State) (m : Msg) : (s.post m).packets = s.packets := rfl
@[simp] theorem State.post_hubPorts (s : State) (m : Msg) : (s.post m).hubPorts = s.hubPorts := rfl
@[simp] theorem State.post_peers (s : State) (m : Msg) : (s.post m).peers = s.peers := rfl
@[simp] theorem State.post_regions (s : State) (m : Msg) : (s.post m).regions = s.regions := rfl
@[simp] theorem State.post_delivery (s : State) (m : Msg) : (s.post m).delivery = s.delivery := rfl
@[simp] theorem State.post_transfers (s : State) (m : Msg) : (s.post m).transfers = s.transfers := rfl
@[simp] theorem State.post_inbound (s : State) (m : Msg) : (s.post m).inbound = s.inbound := rfl
@[simp] theorem State.post_ether (s : State) (m : Msg) : (s.post m).ether = s.ether := rfl
@[simp] theorem State.post_xportLog (s : State) (m : Msg) : (s.post m).xportLog = s.xportLog := rfl
@[simp] theorem State.post_xportCancels (s : State) (m : Msg) : (s.post m).xportCancels = s.xportCancels := rfl
@[simp] theorem State.post_traces (s : State) (m : Msg) : (s.post m).traces = s.traces := rfl
@[simp] theorem State.post_clusters (s : State) (m : Msg) : (s.post m).clusters = s.clusters := rfl
@[simp] theorem State.post_columns (s : State) (m : Msg) : (s.post m).columns = s.columns := rfl
@[simp] theorem State.post_degraded (s : State) (m : Msg) : (s.post m).degraded = s.degraded := rfl
@[simp] theorem State.post_dieRecs (s : State) (m : Msg) : (s.post m).dieRecs = s.dieRecs := rfl
@[simp] theorem State.post_errLogs (s : State) (m : Msg) : (s.post m).errLogs = s.errLogs := rfl
@[simp] theorem State.post_scrubInt (s : State) (m : Msg) : (s.post m).scrubInt = s.scrubInt := rfl
@[simp] theorem State.post_scrubPos (s : State) (m : Msg) : (s.post m).scrubPos = s.scrubPos := rfl
@[simp] theorem State.post_channels (s : State) (m : Msg) : (s.post m).channels = s.channels := rfl
@[simp] theorem State.post_harts (s : State) (m : Msg) : (s.post m).harts = s.harts := rfl
@[simp] theorem State.post_firmware (s : State) (m : Msg) : (s.post m).firmware = s.firmware := rfl
@[simp] theorem State.post_power (s : State) (m : Msg) : (s.post m).power = s.power := rfl
@[simp] theorem State.post_time (s : State) (m : Msg) : (s.post m).time = s.time := rfl
@[simp] theorem State.post_tick (s : State) (m : Msg) : (s.post m).tick = s.tick := rfl
@[simp] theorem State.post_agenda (s : State) (m : Msg) : (s.post m).agenda = s.agenda := rfl
@[simp] theorem State.post_cur (s : State) (m : Msg) : (s.post m).cur = s.cur := rfl
@[simp] theorem State.post_readout (s : State) (m : Msg) : (s.post m).readout = s.readout := rfl

@[simp] theorem State.raiseTrap_devNum (s : State) (c k n : Nat) (p : Site) (x : Word) (a : Addr) : (s.raiseTrap c k n p x a).devNum = s.devNum := rfl
@[simp] theorem State.raiseTrap_ns (s : State) (c k n : Nat) (p : Site) (x : Word) (a : Addr) : (s.raiseTrap c k n p x a).ns = s.ns := rfl
@[simp] theorem State.raiseTrap_mem (s : State) (c k n : Nat) (p : Site) (x : Word) (a : Addr) : (s.raiseTrap c k n p x a).mem = s.mem := rfl
@[simp] theorem State.raiseTrap_poison (s : State) (c k n : Nat) (p : Site) (x : Word) (a : Addr) : (s.raiseTrap c k n p x a).poison = s.poison := rfl
@[simp] theorem State.raiseTrap_upsets (s : State) (c k n : Nat) (p : Site) (x : Word) (a : Addr) : (s.raiseTrap c k n p x a).upsets = s.upsets := rfl
@[simp] theorem State.raiseTrap_acts (s : State) (c k n : Nat) (p : Site) (x : Word) (a : Addr) : (s.raiseTrap c k n p x a).acts = s.acts := rfl
@[simp] theorem State.raiseTrap_progs (s : State) (c k n : Nat) (p : Site) (x : Word) (a : Addr) : (s.raiseTrap c k n p x a).progs = s.progs := rfl
@[simp] theorem State.raiseTrap_copies (s : State) (c k n : Nat) (p : Site) (x : Word) (a : Addr) : (s.raiseTrap c k n p x a).copies = s.copies := rfl
@[simp] theorem State.raiseTrap_markers (s : State) (c k n : Nat) (p : Site) (x : Word) (a : Addr) : (s.raiseTrap c k n p x a).markers = s.markers := rfl
@[simp] theorem State.raiseTrap_flights (s : State) (c k n : Nat) (p : Site) (x : Word) (a : Addr) : (s.raiseTrap c k n p x a).flights = s.flights := rfl
@[simp] theorem State.raiseTrap_msgs (s : State) (c k n : Nat) (p : Site) (x : Word) (a : Addr) : (s.raiseTrap c k n p x a).msgs = s.msgs := rfl
@[simp] theorem State.raiseTrap_ctls (s : State) (c k n : Nat) (p : Site) (x : Word) (a : Addr) : (s.raiseTrap c k n p x a).ctls = s.ctls := rfl
@[simp] theorem State.raiseTrap_asks (s : State) (c k n : Nat) (p : Site) (x : Word) (a : Addr) : (s.raiseTrap c k n p x a).asks = s.asks := rfl
@[simp] theorem State.raiseTrap_credits (s : State) (c k n : Nat) (p : Site) (x : Word) (a : Addr) : (s.raiseTrap c k n p x a).credits = s.credits := rfl
@[simp] theorem State.raiseTrap_wakes (s : State) (c k n : Nat) (p : Site) (x : Word) (a : Addr) : (s.raiseTrap c k n p x a).wakes = s.wakes := rfl
@[simp] theorem State.raiseTrap_arrivals (s : State) (c k n : Nat) (p : Site) (x : Word) (a : Addr) : (s.raiseTrap c k n p x a).arrivals = s.arrivals := rfl
@[simp] theorem State.raiseTrap_hubPaths (s : State) (c k n : Nat) (p : Site) (x : Word) (a : Addr) : (s.raiseTrap c k n p x a).hubPaths = s.hubPaths := rfl
@[simp] theorem State.raiseTrap_bells (s : State) (c k n : Nat) (p : Site) (x : Word) (a : Addr) : (s.raiseTrap c k n p x a).bells = s.bells := rfl
@[simp] theorem State.raiseTrap_dues (s : State) (c k n : Nat) (p : Site) (x : Word) (a : Addr) : (s.raiseTrap c k n p x a).dues = s.dues := rfl
@[simp] theorem State.raiseTrap_gangs (s : State) (c k n : Nat) (p : Site) (x : Word) (a : Addr) : (s.raiseTrap c k n p x a).gangs = s.gangs := rfl
@[simp] theorem State.raiseTrap_atomics (s : State) (c k n : Nat) (p : Site) (x : Word) (a : Addr) : (s.raiseTrap c k n p x a).atomics = s.atomics := rfl
@[simp] theorem State.raiseTrap_fields (s : State) (c k n : Nat) (p : Site) (x : Word) (a : Addr) : (s.raiseTrap c k n p x a).fields = s.fields := rfl
@[simp] theorem State.raiseTrap_saved (s : State) (c k n : Nat) (p : Site) (x : Word) (a : Addr) : (s.raiseTrap c k n p x a).saved = s.saved := rfl
@[simp] theorem State.raiseTrap_queues (s : State) (c k n : Nat) (p : Site) (x : Word) (a : Addr) : (s.raiseTrap c k n p x a).queues = s.queues := rfl
@[simp] theorem State.raiseTrap_cps (s : State) (c k n : Nat) (p : Site) (x : Word) (a : Addr) : (s.raiseTrap c k n p x a).cps = s.cps := rfl
@[simp] theorem State.raiseTrap_launches (s : State) (c k n : Nat) (p : Site) (x : Word) (a : Addr) : (s.raiseTrap c k n p x a).launches = s.launches := rfl
@[simp] theorem State.raiseTrap_agents (s : State) (c k n : Nat) (p : Site) (x : Word) (a : Addr) : (s.raiseTrap c k n p x a).agents = s.agents := rfl
@[simp] theorem State.raiseTrap_faults (s : State) (c k n : Nat) (p : Site) (x : Word) (a : Addr) : (s.raiseTrap c k n p x a).faults = s.faults := rfl
@[simp] theorem State.raiseTrap_recovery (s : State) (c k n : Nat) (p : Site) (x : Word) (a : Addr) : (s.raiseTrap c k n p x a).recovery = s.recovery := rfl
@[simp] theorem State.raiseTrap_ports (s : State) (c k n : Nat) (p : Site) (x : Word) (a : Addr) : (s.raiseTrap c k n p x a).ports = s.ports := rfl
@[simp] theorem State.raiseTrap_routes (s : State) (c k n : Nat) (p : Site) (x : Word) (a : Addr) : (s.raiseTrap c k n p x a).routes = s.routes := rfl
@[simp] theorem State.raiseTrap_groups (s : State) (c k n : Nat) (p : Site) (x : Word) (a : Addr) : (s.raiseTrap c k n p x a).groups = s.groups := rfl
@[simp] theorem State.raiseTrap_packets (s : State) (c k n : Nat) (p : Site) (x : Word) (a : Addr) : (s.raiseTrap c k n p x a).packets = s.packets := rfl
@[simp] theorem State.raiseTrap_hubPorts (s : State) (c k n : Nat) (p : Site) (x : Word) (a : Addr) : (s.raiseTrap c k n p x a).hubPorts = s.hubPorts := rfl
@[simp] theorem State.raiseTrap_peers (s : State) (c k n : Nat) (p : Site) (x : Word) (a : Addr) : (s.raiseTrap c k n p x a).peers = s.peers := rfl
@[simp] theorem State.raiseTrap_regions (s : State) (c k n : Nat) (p : Site) (x : Word) (a : Addr) : (s.raiseTrap c k n p x a).regions = s.regions := rfl
@[simp] theorem State.raiseTrap_delivery (s : State) (c k n : Nat) (p : Site) (x : Word) (a : Addr) : (s.raiseTrap c k n p x a).delivery = s.delivery := rfl
@[simp] theorem State.raiseTrap_transfers (s : State) (c k n : Nat) (p : Site) (x : Word) (a : Addr) : (s.raiseTrap c k n p x a).transfers = s.transfers := rfl
@[simp] theorem State.raiseTrap_inbound (s : State) (c k n : Nat) (p : Site) (x : Word) (a : Addr) : (s.raiseTrap c k n p x a).inbound = s.inbound := rfl
@[simp] theorem State.raiseTrap_ether (s : State) (c k n : Nat) (p : Site) (x : Word) (a : Addr) : (s.raiseTrap c k n p x a).ether = s.ether := rfl
@[simp] theorem State.raiseTrap_xportLog (s : State) (c k n : Nat) (p : Site) (x : Word) (a : Addr) : (s.raiseTrap c k n p x a).xportLog = s.xportLog := rfl
@[simp] theorem State.raiseTrap_xportCancels (s : State) (c k n : Nat) (p : Site) (x : Word) (a : Addr) : (s.raiseTrap c k n p x a).xportCancels = s.xportCancels := rfl
@[simp] theorem State.raiseTrap_traces (s : State) (c k n : Nat) (p : Site) (x : Word) (a : Addr) : (s.raiseTrap c k n p x a).traces = s.traces := rfl
@[simp] theorem State.raiseTrap_clusters (s : State) (c k n : Nat) (p : Site) (x : Word) (a : Addr) : (s.raiseTrap c k n p x a).clusters = s.clusters := rfl
@[simp] theorem State.raiseTrap_columns (s : State) (c k n : Nat) (p : Site) (x : Word) (a : Addr) : (s.raiseTrap c k n p x a).columns = s.columns := rfl
@[simp] theorem State.raiseTrap_degraded (s : State) (c k n : Nat) (p : Site) (x : Word) (a : Addr) : (s.raiseTrap c k n p x a).degraded = s.degraded := rfl
@[simp] theorem State.raiseTrap_dieRecs (s : State) (c k n : Nat) (p : Site) (x : Word) (a : Addr) : (s.raiseTrap c k n p x a).dieRecs = s.dieRecs := rfl
@[simp] theorem State.raiseTrap_errLogs (s : State) (c k n : Nat) (p : Site) (x : Word) (a : Addr) : (s.raiseTrap c k n p x a).errLogs = s.errLogs := rfl
@[simp] theorem State.raiseTrap_scrubInt (s : State) (c k n : Nat) (p : Site) (x : Word) (a : Addr) : (s.raiseTrap c k n p x a).scrubInt = s.scrubInt := rfl
@[simp] theorem State.raiseTrap_scrubPos (s : State) (c k n : Nat) (p : Site) (x : Word) (a : Addr) : (s.raiseTrap c k n p x a).scrubPos = s.scrubPos := rfl
@[simp] theorem State.raiseTrap_channels (s : State) (c k n : Nat) (p : Site) (x : Word) (a : Addr) : (s.raiseTrap c k n p x a).channels = s.channels := rfl
@[simp] theorem State.raiseTrap_harts (s : State) (c k n : Nat) (p : Site) (x : Word) (a : Addr) : (s.raiseTrap c k n p x a).harts = s.harts := rfl
@[simp] theorem State.raiseTrap_firmware (s : State) (c k n : Nat) (p : Site) (x : Word) (a : Addr) : (s.raiseTrap c k n p x a).firmware = s.firmware := rfl
@[simp] theorem State.raiseTrap_power (s : State) (c k n : Nat) (p : Site) (x : Word) (a : Addr) : (s.raiseTrap c k n p x a).power = s.power := rfl
@[simp] theorem State.raiseTrap_time (s : State) (c k n : Nat) (p : Site) (x : Word) (a : Addr) : (s.raiseTrap c k n p x a).time = s.time := rfl
@[simp] theorem State.raiseTrap_nextId (s : State) (c k n : Nat) (p : Site) (x : Word) (a : Addr) : (s.raiseTrap c k n p x a).nextId = s.nextId := rfl
@[simp] theorem State.raiseTrap_tick (s : State) (c k n : Nat) (p : Site) (x : Word) (a : Addr) : (s.raiseTrap c k n p x a).tick = s.tick := rfl
@[simp] theorem State.raiseTrap_agenda (s : State) (c k n : Nat) (p : Site) (x : Word) (a : Addr) : (s.raiseTrap c k n p x a).agenda = s.agenda := rfl
@[simp] theorem State.raiseTrap_cur (s : State) (c k n : Nat) (p : Site) (x : Word) (a : Addr) : (s.raiseTrap c k n p x a).cur = s.cur := rfl
@[simp] theorem State.raiseTrap_readout (s : State) (c k n : Nat) (p : Site) (x : Word) (a : Addr) : (s.raiseTrap c k n p x a).readout = s.readout := rfl

@[simp] theorem State.advance_devNum (s : State) (c : Ctx) (n : Nat) (a : Option Addr) : (s.advance c n a).devNum = s.devNum := by simp only [State.advance]; split <;> simp
@[simp] theorem State.advance_ns (s : State) (c : Ctx) (n : Nat) (a : Option Addr) : (s.advance c n a).ns = s.ns := by simp only [State.advance]; split <;> simp
@[simp] theorem State.advance_mem (s : State) (c : Ctx) (n : Nat) (a : Option Addr) : (s.advance c n a).mem = s.mem := by simp only [State.advance]; split <;> simp
@[simp] theorem State.advance_poison (s : State) (c : Ctx) (n : Nat) (a : Option Addr) : (s.advance c n a).poison = s.poison := by simp only [State.advance]; split <;> simp
@[simp] theorem State.advance_upsets (s : State) (c : Ctx) (n : Nat) (a : Option Addr) : (s.advance c n a).upsets = s.upsets := by simp only [State.advance]; split <;> simp
@[simp] theorem State.advance_acts (s : State) (c : Ctx) (n : Nat) (a : Option Addr) : (s.advance c n a).acts = s.acts := by simp only [State.advance]; split <;> simp
@[simp] theorem State.advance_copies (s : State) (c : Ctx) (n : Nat) (a : Option Addr) : (s.advance c n a).copies = s.copies := by simp only [State.advance]; split <;> simp
@[simp] theorem State.advance_markers (s : State) (c : Ctx) (n : Nat) (a : Option Addr) : (s.advance c n a).markers = s.markers := by simp only [State.advance]; split <;> simp
@[simp] theorem State.advance_flights (s : State) (c : Ctx) (n : Nat) (a : Option Addr) : (s.advance c n a).flights = s.flights := by simp only [State.advance]; split <;> simp
@[simp] theorem State.advance_msgs (s : State) (c : Ctx) (n : Nat) (a : Option Addr) : (s.advance c n a).msgs = s.msgs := by simp only [State.advance]; split <;> simp
@[simp] theorem State.advance_ctls (s : State) (c : Ctx) (n : Nat) (a : Option Addr) : (s.advance c n a).ctls = s.ctls := by simp only [State.advance]; split <;> simp
@[simp] theorem State.advance_asks (s : State) (c : Ctx) (n : Nat) (a : Option Addr) : (s.advance c n a).asks = s.asks := by simp only [State.advance]; split <;> simp
@[simp] theorem State.advance_credits (s : State) (c : Ctx) (n : Nat) (a : Option Addr) : (s.advance c n a).credits = s.credits := by simp only [State.advance]; split <;> simp
@[simp] theorem State.advance_wakes (s : State) (c : Ctx) (n : Nat) (a : Option Addr) : (s.advance c n a).wakes = s.wakes := by simp only [State.advance]; split <;> simp
@[simp] theorem State.advance_arrivals (s : State) (c : Ctx) (n : Nat) (a : Option Addr) : (s.advance c n a).arrivals = s.arrivals := by simp only [State.advance]; split <;> simp
@[simp] theorem State.advance_hubPaths (s : State) (c : Ctx) (n : Nat) (a : Option Addr) : (s.advance c n a).hubPaths = s.hubPaths := by simp only [State.advance]; split <;> simp
@[simp] theorem State.advance_bells (s : State) (c : Ctx) (n : Nat) (a : Option Addr) : (s.advance c n a).bells = s.bells := by simp only [State.advance]; split <;> simp
@[simp] theorem State.advance_dues (s : State) (c : Ctx) (n : Nat) (a : Option Addr) : (s.advance c n a).dues = s.dues := by simp only [State.advance]; split <;> simp
@[simp] theorem State.advance_gangs (s : State) (c : Ctx) (n : Nat) (a : Option Addr) : (s.advance c n a).gangs = s.gangs := by simp only [State.advance]; split <;> simp
@[simp] theorem State.advance_atomics (s : State) (c : Ctx) (n : Nat) (a : Option Addr) : (s.advance c n a).atomics = s.atomics := by simp only [State.advance]; split <;> simp
@[simp] theorem State.advance_fields (s : State) (c : Ctx) (n : Nat) (a : Option Addr) : (s.advance c n a).fields = s.fields := by simp only [State.advance]; split <;> simp
@[simp] theorem State.advance_saved (s : State) (c : Ctx) (n : Nat) (a : Option Addr) : (s.advance c n a).saved = s.saved := by simp only [State.advance]; split <;> simp
@[simp] theorem State.advance_queues (s : State) (c : Ctx) (n : Nat) (a : Option Addr) : (s.advance c n a).queues = s.queues := by simp only [State.advance]; split <;> simp
@[simp] theorem State.advance_cps (s : State) (c : Ctx) (n : Nat) (a : Option Addr) : (s.advance c n a).cps = s.cps := by simp only [State.advance]; split <;> simp
@[simp] theorem State.advance_launches (s : State) (c : Ctx) (n : Nat) (a : Option Addr) : (s.advance c n a).launches = s.launches := by simp only [State.advance]; split <;> simp
@[simp] theorem State.advance_agents (s : State) (c : Ctx) (n : Nat) (a : Option Addr) : (s.advance c n a).agents = s.agents := by simp only [State.advance]; split <;> simp
@[simp] theorem State.advance_faults (s : State) (c : Ctx) (n : Nat) (a : Option Addr) : (s.advance c n a).faults = s.faults := by simp only [State.advance]; split <;> simp
@[simp] theorem State.advance_recovery (s : State) (c : Ctx) (n : Nat) (a : Option Addr) : (s.advance c n a).recovery = s.recovery := by simp only [State.advance]; split <;> simp
@[simp] theorem State.advance_ports (s : State) (c : Ctx) (n : Nat) (a : Option Addr) : (s.advance c n a).ports = s.ports := by simp only [State.advance]; split <;> simp
@[simp] theorem State.advance_routes (s : State) (c : Ctx) (n : Nat) (a : Option Addr) : (s.advance c n a).routes = s.routes := by simp only [State.advance]; split <;> simp
@[simp] theorem State.advance_groups (s : State) (c : Ctx) (n : Nat) (a : Option Addr) : (s.advance c n a).groups = s.groups := by simp only [State.advance]; split <;> simp
@[simp] theorem State.advance_packets (s : State) (c : Ctx) (n : Nat) (a : Option Addr) : (s.advance c n a).packets = s.packets := by simp only [State.advance]; split <;> simp
@[simp] theorem State.advance_hubPorts (s : State) (c : Ctx) (n : Nat) (a : Option Addr) : (s.advance c n a).hubPorts = s.hubPorts := by simp only [State.advance]; split <;> simp
@[simp] theorem State.advance_peers (s : State) (c : Ctx) (n : Nat) (a : Option Addr) : (s.advance c n a).peers = s.peers := by simp only [State.advance]; split <;> simp
@[simp] theorem State.advance_regions (s : State) (c : Ctx) (n : Nat) (a : Option Addr) : (s.advance c n a).regions = s.regions := by simp only [State.advance]; split <;> simp
@[simp] theorem State.advance_delivery (s : State) (c : Ctx) (n : Nat) (a : Option Addr) : (s.advance c n a).delivery = s.delivery := by simp only [State.advance]; split <;> simp
@[simp] theorem State.advance_transfers (s : State) (c : Ctx) (n : Nat) (a : Option Addr) : (s.advance c n a).transfers = s.transfers := by simp only [State.advance]; split <;> simp
@[simp] theorem State.advance_inbound (s : State) (c : Ctx) (n : Nat) (a : Option Addr) : (s.advance c n a).inbound = s.inbound := by simp only [State.advance]; split <;> simp
@[simp] theorem State.advance_ether (s : State) (c : Ctx) (n : Nat) (a : Option Addr) : (s.advance c n a).ether = s.ether := by simp only [State.advance]; split <;> simp
@[simp] theorem State.advance_xportLog (s : State) (c : Ctx) (n : Nat) (a : Option Addr) : (s.advance c n a).xportLog = s.xportLog := by simp only [State.advance]; split <;> simp
@[simp] theorem State.advance_xportCancels (s : State) (c : Ctx) (n : Nat) (a : Option Addr) : (s.advance c n a).xportCancels = s.xportCancels := by simp only [State.advance]; split <;> simp
@[simp] theorem State.advance_traces (s : State) (c : Ctx) (n : Nat) (a : Option Addr) : (s.advance c n a).traces = s.traces := by simp only [State.advance]; split <;> simp
@[simp] theorem State.advance_clusters (s : State) (c : Ctx) (n : Nat) (a : Option Addr) : (s.advance c n a).clusters = s.clusters := by simp only [State.advance]; split <;> simp
@[simp] theorem State.advance_columns (s : State) (c : Ctx) (n : Nat) (a : Option Addr) : (s.advance c n a).columns = s.columns := by simp only [State.advance]; split <;> simp
@[simp] theorem State.advance_degraded (s : State) (c : Ctx) (n : Nat) (a : Option Addr) : (s.advance c n a).degraded = s.degraded := by simp only [State.advance]; split <;> simp
@[simp] theorem State.advance_dieRecs (s : State) (c : Ctx) (n : Nat) (a : Option Addr) : (s.advance c n a).dieRecs = s.dieRecs := by simp only [State.advance]; split <;> simp
@[simp] theorem State.advance_errLogs (s : State) (c : Ctx) (n : Nat) (a : Option Addr) : (s.advance c n a).errLogs = s.errLogs := by simp only [State.advance]; split <;> simp
@[simp] theorem State.advance_scrubInt (s : State) (c : Ctx) (n : Nat) (a : Option Addr) : (s.advance c n a).scrubInt = s.scrubInt := by simp only [State.advance]; split <;> simp
@[simp] theorem State.advance_scrubPos (s : State) (c : Ctx) (n : Nat) (a : Option Addr) : (s.advance c n a).scrubPos = s.scrubPos := by simp only [State.advance]; split <;> simp
@[simp] theorem State.advance_channels (s : State) (c : Ctx) (n : Nat) (a : Option Addr) : (s.advance c n a).channels = s.channels := by simp only [State.advance]; split <;> simp
@[simp] theorem State.advance_harts (s : State) (c : Ctx) (n : Nat) (a : Option Addr) : (s.advance c n a).harts = s.harts := by simp only [State.advance]; split <;> simp
@[simp] theorem State.advance_firmware (s : State) (c : Ctx) (n : Nat) (a : Option Addr) : (s.advance c n a).firmware = s.firmware := by simp only [State.advance]; split <;> simp
@[simp] theorem State.advance_power (s : State) (c : Ctx) (n : Nat) (a : Option Addr) : (s.advance c n a).power = s.power := by simp only [State.advance]; split <;> simp
@[simp] theorem State.advance_time (s : State) (c : Ctx) (n : Nat) (a : Option Addr) : (s.advance c n a).time = s.time := by simp only [State.advance]; split <;> simp
@[simp] theorem State.advance_nextId (s : State) (c : Ctx) (n : Nat) (a : Option Addr) : (s.advance c n a).nextId = s.nextId := by simp only [State.advance]; split <;> simp
@[simp] theorem State.advance_tick (s : State) (c : Ctx) (n : Nat) (a : Option Addr) : (s.advance c n a).tick = s.tick := by simp only [State.advance]; split <;> simp
@[simp] theorem State.advance_agenda (s : State) (c : Ctx) (n : Nat) (a : Option Addr) : (s.advance c n a).agenda = s.agenda := by simp only [State.advance]; split <;> simp
@[simp] theorem State.advance_cur (s : State) (c : Ctx) (n : Nat) (a : Option Addr) : (s.advance c n a).cur = s.cur := by simp only [State.advance]; split <;> simp
@[simp] theorem State.advance_readout (s : State) (c : Ctx) (n : Nat) (a : Option Addr) : (s.advance c n a).readout = s.readout := by simp only [State.advance]; split <;> simp

end Sys2Proof.Machine
end

