-- ==== Sys2Proof/Laws/Issue.lean ====
section
/-! SUPPORT. What the operations do through which every instruction group issues: reading parts after an update, the register
checks, the end of a group, and the shapes of scalar instructions. -/

namespace Sys2Proof.Machine

/-! ### Parts after an update -/

theorem State.cell_setCell (s : State) (c k : Nat) (x : Cell) : (s.setCell c x).cell k = if c = k then x else s.cell k := by
  simp only [State.cell, State.setCell, AL.get_put]

@[simp] theorem State.cell_setCell_same (s : State) (c : Nat) (x : Cell) : (s.setCell c x).cell c = x := by
  simp [State.cell_setCell]

theorem State.cell_modCell (s : State) (c k : Nat) (f : Cell → Cell) :
    (s.modCell c f).cell k = if c = k then f (s.cell c) else s.cell k := by
  simp only [State.modCell, State.cell_setCell]

@[simp] theorem State.cell_modCell_same (s : State) (c : Nat) (f : Cell → Cell) : (s.modCell c f).cell c = f (s.cell c) := by
  simp [State.cell_modCell]

theorem State.frame_setFrame (s : State) (c k c' k' : Nat) (f : Frame) :
    (s.setFrame c k f).frame c' k' = if c = c' ∧ k = k' then f else s.frame c' k' := by
  simp only [State.frame, State.setFrame, State.cell_modCell]
  by_cases h : c = c'
  · subst h; simp [AL.get_put]
  · simp [h]

@[simp] theorem State.frame_setFrame_same (s : State) (c k : Nat) (f : Frame) : (s.setFrame c k f).frame c k = f := by
  simp [State.frame_setFrame]

theorem State.frame_modFrame (s : State) (c k c' k' : Nat) (f : Frame → Frame) :
    (s.modFrame c k f).frame c' k' = if c = c' ∧ k = k' then f (s.frame c k) else s.frame c' k' := by
  simp only [State.modFrame, State.frame_setFrame]

@[simp] theorem State.fr_modFr (s : State) (c : Ctx) (f : Frame → Frame) : (s.modFr c f).fr c = f (s.fr c) := by
  simp [State.fr, State.modFr, State.frame_modFrame]

theorem State.cell_setFrame (s : State) (c k c' : Nat) (f : Frame) :
    (s.setFrame c k f).cell c' =
      if c = c' then { s.cell c with frames := AL.put (s.cell c).frames k f } else s.cell c' := by
  simp only [State.setFrame, State.cell_modCell]

theorem State.cell_modFr (s : State) (c : Ctx) (f : Frame → Frame) (k : Nat) :
    (s.modFr c f).cell k =
      if c.cell = k then { s.cell c.cell with frames := AL.put (s.cell c.cell).frames c.slot (f (s.fr c)) }
      else s.cell k := by
  simp only [State.modFr, State.modFrame, State.cell_setFrame, State.fr]

theorem State.cell_modEngine (s : State) (c k : Nat) (u : EngineUnit) (f : Engine → Engine) :
    (s.modEngine c u f).cell k = if c = k then (s.cell c).setEngine u (f ((s.cell c).engine u)) else s.cell k := by
  simp only [State.modEngine, State.cell_modCell]

@[simp] theorem Cell.engine_setEngine_same (x : Cell) (u : EngineUnit) (e : Engine) : (x.setEngine u e).engine u = e := by
  cases u <;> rfl

theorem Cell.engine_setEngine (x : Cell) (u v : EngineUnit) (e : Engine) :
    (x.setEngine u e).engine v = if u = v then e else x.engine v := by
  cases u <;> cases v <;> rfl

@[simp] theorem Cell.setEngine_frames (x : Cell) (u : EngineUnit) (e : Engine) : (x.setEngine u e).frames = x.frames := by
  cases u <;> rfl

@[simp] theorem Cell.setEngine_pairs (x : Cell) (u : EngineUnit) (e : Engine) : (x.setEngine u e).pairs = x.pairs := by
  cases u <;> rfl

/-! ### Registers -/

theorem State.reg_setReg (s : State) (c : Ctx) {m n : Int} (hm : 0 ≤ m) (hn : 0 ≤ n) (v : Word) :
    (s.setReg c m v).reg c n = if m = n then v else s.reg c n := by
  have e : m.toNat = n.toNat ↔ m = n := by omega
  cases h : c.unit with
  | scalar => simp [State.reg, State.setReg, h, Regs.get_set, e]
  | engine u => simp [State.reg, State.setReg, h, State.cell_modEngine, Regs.get_set, e]

/-! ### The group that executes -/

theorem withGroup_at {s : State} {c : Ctx} (h : s.At c) (k : Ctx → Out) : withGroup s k = k c := by
  simp only [State.At] at h; simp only [withGroup, h]

/-- Issuing always answers a next state. -/
theorem issueWith_next (s : State) (c : Ctx) (forced : Forced) (touched reads dests : List Int) (body : State → Issued) :
    ∃ t, issueWith s c forced touched reads dests body = .next t := by
  simp only [issueWith]
  repeat' split
  all_goals exact ⟨_, rfl⟩

/-- See `issueWith_next`. -/
theorem issue_next (s : State) (c : Ctx) (forced : Forced) (touched dests : List Int) (body : State → Issued) :
    ∃ t, issue s c forced touched dests body = .next t := issueWith_next ..

theorem unitWindow {s : State} {c : Ctx} (h : c.unit = .scalar → windowClosed (s.fr c).outst = false) :
    (c.unit == .scalar && windowClosed (s.fr c).outst) = false := by
  cases hu : c.unit with
  | scalar => simp [h hu]
  | engine u => rfl

/-- A group that nothing keeps back has the effect of its body. -/
theorem issueWith_clear {s : State} {c : Ctx} {forced : Forced} {touched reads : List Int} (h : s.Clear c forced touched)
    (hr : ∀ n ∈ reads, n ∈ touched) (dests : List Int) (body : State → Issued) :
    issueWith s c forced touched reads dests body =
      .next (State.feed s (finish s c (dests.map Int.toNat) (body s)) c forced (dests.map Int.toNat) (body s).completes) := by
  have h2 : outOfBounds (s.regLimit c) touched = none := by
    simp only [outOfBounds, List.find?_eq_none]
    intro n hn
    have := h.exist n hn
    simp; omega
  have h3 : (if c.unit == .scalar then pendingHit (s.fr c).outst touched else none) = none := by
    split
    · next hu =>
      simp only [pendingHit, List.find?_eq_none]
      intro n hn
      simp only [List.any_eq_true, Bool.and_eq_true, not_exists, not_and]
      intro o ho _ hc
      exact h.done (by simpa using hu) n hn o ho (by simpa using hc)
    · rfl
  have h4 : reads.find? (fun n => s.upsets.contains (c.regUpset n)) = none := by
    simp only [List.find?_eq_none]
    intro n hn
    simp [h.sound n (hr n hn)]
  have h5 : (touched.map c.regUpset).filter s.upsets.contains = [] := by
    simp only [List.filter_eq_nil_iff, List.mem_map]
    rintro u ⟨n, hn, rfl⟩
    simp [h.sound n hn]
  simp only [issueWith, unitWindow h.window, h2, h3, h.pair, h4, h5]
  rfl

/-- See `issueWith_clear`. -/
theorem issue_clear {s : State} {c : Ctx} {forced : Forced} {touched : List Int} (h : s.Clear c forced touched)
    (dests : List Int) (body : State → Issued) :
    issue s c forced touched dests body =
      .next (State.feed s (finish s c (dests.map Int.toNat) (body s)) c forced (dests.map Int.toNat) (body s).completes) :=
  issueWith_clear h (fun _ hn => (List.mem_filter.mp hn).1) dests body

/-- See `issueWith_clear`. -/
theorem issueRW_clear {s : State} {c : Ctx} {forced : Forced} {touched : List Int} (h : s.Clear c forced touched)
    (dests : List Int) (body : State → Issued) :
    issueRW s c forced touched dests body =
      .next (State.feed s (finish s c (dests.map Int.toNat) (body s)) c forced (dests.map Int.toNat) (body s).completes) :=
  issueWith_clear h (fun _ hn => hn) dests body

/-- The first register that does not exist traps REGISTER with its number (check 6). -/
theorem issueWith_outOfBounds {s : State} {c : Ctx} {forced : Forced} {touched : List Int} {n : Int}
    (hw : c.unit = .scalar → windowClosed (s.fr c).outst = false)
    (hn : outOfBounds (s.regLimit c) touched = some n) (reads dests : List Int) (body : State → Issued) :
    issueWith s c forced touched reads dests body = .next (s.trapGroup c 0x05 (BitVec.ofInt 64 n) c.site.next) := by
  simp only [issueWith, unitWindow hw, hn]
  rfl

@[simp] theorem State.feed_no (s t : State) (c : Ctx) (ds : List Nat) (b : Bool) : State.feed s t c .no ds b = t := by
  simp [State.feed]

@[simp] theorem State.feed_both (s t : State) (c : Ctx) (ds : List Nat) (b : Bool) : State.feed s t c .both ds b = t := by
  simp [State.feed]

/-! ### The end of a group -/

theorem State.checkedC_engine {s : State} {c : Ctx} {u : EngineUnit} (h : c.unit = .engine u) : s.checkedC c = false := by
  simp [State.checkedC, h]

/-- A change of the pair's record leaves frames, engines and everything else. -/
theorem State.modPair_cell (s : State) (c k k' : Nat) (f : PairUnit → PairUnit) :
    ∃ ps, (s.modPair c k f).cell k' = { s.cell k' with pairs := ps } ∧ (k' ≠ c → ps = (s.cell k').pairs) := by
  simp only [State.modPair, State.cell_modCell]
  by_cases h : c = k'
  · subst h
    simp only [if_true]
    split
    · exact ⟨_, rfl, by simp⟩
    · exact ⟨_, rfl, by simp⟩
  · simp only [h, if_false]; exact ⟨_, rfl, fun _ => rfl⟩

theorem State.pairRetire_cell (s : State) (c : Ctx) (ds : List Nat) (x : Option Nat) (k : Nat) :
    ∃ ps, (s.pairRetire c ds x).cell k = { s.cell k with pairs := ps } ∧
      (k ≠ c.cell ∨ s.checkedC c = false → ps = (s.cell k).pairs) := by
  simp only [State.pairRetire]
  split
  · next h =>
    obtain ⟨ps, h1, h2⟩ := State.modPair_cell s c.cell c.slot k _
    exact ⟨ps, h1, fun h' => h2 (by simp_all)⟩
  · exact ⟨_, rfl, fun _ => rfl⟩

theorem State.pairRetire_frame (s : State) (c : Ctx) (ds : List Nat) (x : Option Nat) (k j : Nat) :
    (s.pairRetire c ds x).frame k j = s.frame k j := by
  obtain ⟨ps, h, -⟩ := State.pairRetire_cell s c ds x k
  simp [State.frame, h]

theorem State.pairRetire_engine (s : State) (c : Ctx) (ds : List Nat) (x : Option Nat) (k : Nat) (u : EngineUnit) :
    ((s.pairRetire c ds x).cell k).engine u = (s.cell k).engine u := by
  obtain ⟨ps, h, -⟩ := State.pairRetire_cell s c ds x k
  rw [h]; cases u <;> rfl

theorem State.modProg_rest (s : State) (p : Nat) (f : Prog → Prog) : ∃ ps, s.modProg p f = { s with progs := ps } := by
  simp only [State.modProg]
  split
  · exact ⟨_, rfl⟩
  · exact ⟨_, rfl⟩

theorem State.pairRetire_rest (s : State) (c : Ctx) (ds : List Nat) (x : Option Nat) :
    ∃ cs, s.pairRetire c ds x = { s with cells := cs } := by
  simp only [State.pairRetire]
  split
  · exact ⟨_, rfl⟩
  · exact ⟨_, rfl⟩

/-- `t` differs from `s` at most in the registers, index registers and control registers of the group's unit. -/
structure RegChange (s t : State) (c : Ctx) : Prop where
  rest   : ∃ cs, t = { s with cells := cs }
  cells  : ∀ k, k ≠ c.cell → t.cell k = s.cell k
  scalar : c.unit = .scalar → ∃ fs, t.cell c.cell = { s.cell c.cell with frames := fs }
  frames : ∀ k, k ≠ c.slot ∨ c.unit ≠ .scalar → t.frame c.cell k = s.frame c.cell k
  frame  : ∃ g x r, t.fr c = { s.fr c with g := g, x := x, cr := r }
  engine : ∀ u, c.unit = .engine u →
             ∃ e, t.cell c.cell = (s.cell c.cell).setEngine u { (s.cell c.cell).engine u with e := e }

theorem RegChange.refl (s : State) (c : Ctx) : RegChange s s c where
  rest := ⟨_, rfl⟩
  cells := fun _ _ => rfl
  scalar := fun _ => ⟨_, rfl⟩
  frames := fun _ _ => rfl
  frame := ⟨_, _, _, rfl⟩
  engine := fun u _ => ⟨((s.cell c.cell).engine u).e, by cases u <;> rfl⟩

theorem RegChange.modFr {s : State} {c : Ctx} (h : c.unit = .scalar) (f : Frame → Frame)
    (hf : ∀ y : Frame, ∃ g x r, f y = { y with g := g, x := x, cr := r }) : RegChange s (s.modFr c f) c where
  rest := ⟨_, rfl⟩
  cells := fun k hk => by simp [State.cell_modFr, Ne.symm hk]
  scalar := fun _ => ⟨AL.put (s.cell c.cell).frames c.slot (f (s.fr c)), by rw [State.cell_modFr, if_pos rfl]⟩
  frames := fun k hk => by
    have : ¬ c.slot = k := fun e => by simp_all
    simp [State.modFr, State.frame_modFrame, this]
  frame := by rw [State.fr_modFr]; exact hf _
  engine := fun u hu => by simp [h] at hu

theorem RegChange.setReg (s : State) (c : Ctx) (d : Int) (v : Word) : RegChange s (s.setReg c d v) c := by
  cases h : c.unit with
  | scalar => simp only [State.setReg, h]; exact RegChange.modFr h _ (fun _ => ⟨_, _, _, rfl⟩)
  | engine u =>
    simp only [State.setReg, h]
    exact {
      rest := ⟨_, rfl⟩
      cells := fun k hk => by simp [State.cell_modEngine, Ne.symm hk]
      scalar := fun hs => by simp [h] at hs
      frames := fun k _ => by
        simp only [State.frame, State.cell_modEngine, if_true, Cell.setEngine_frames]
      frame := ⟨_, _, _, by simp only [State.fr, State.frame, State.cell_modEngine, if_true, Cell.setEngine_frames]; rfl⟩
      engine := fun v hv => by
        obtain rfl : u = v := by rw [h] at hv; exact ExecUnit.engine.inj hv
        exact ⟨_, by simp only [State.cell_modEngine, if_true]; rfl⟩ }

/-- A group that has changed only its own registers completes: the rest is as it was, and the PC moves on. -/
theorem completed_of {s t : State} {c : Ctx} (h : RegChange s t c) (target : Option Addr) (ds : List Nat) :
    let u := (t.advance c s.nextId target).pairRetire c ds none
    Completed s u c ∧ (∀ n, u.reg c n = t.reg c n) ∧ (u.fr c).x = (t.fr c).x ∧ (u.fr c).cr = (t.fr c).cr ∧
      u.pcAt c = s.pcNext c target := by
  intro u
  have hcell : ∀ k, ∃ ps, u.cell k = { (t.advance c s.nextId target).cell k with pairs := ps } ∧
      (k ≠ c.cell ∨ (t.advance c s.nextId target).checkedC c = false →
        ps = ((t.advance c s.nextId target).cell k).pairs) := fun k => State.pairRetire_cell _ c ds none k
  have hfr : ∀ k j, u.frame k j = (t.advance c s.nextId target).frame k j :=
    fun k j => State.pairRetire_frame _ c ds none k j
  have hrest : ∃ cs, u = { t.advance c s.nextId target with cells := cs } := State.pairRetire_rest _ c ds none
  obtain ⟨cs, hcs⟩ := h.rest
  obtain ⟨g, x, r, hf⟩ := h.frame
  cases hu : c.unit with
  | scalar =>
    obtain ⟨fs, hfs⟩ := h.scalar hu
    simp only [State.advance, hu] at hcell hfr hrest
    have hF : u.fr c = _ := hfr c.cell c.slot
    change u.fr c = ((t.endWait (t.req c)).modFr c _).fr c at hF
    rw [State.fr_modFr] at hF
    have hfrt : (t.endWait (t.req c)).fr c = t.fr c := rfl
    rw [hfrt] at hF
    have ec : ∀ f : Frame → Frame, ((t.endWait (t.req c)).modFr c f).checkedC c = s.checkedC c := by
      intro f
      simp only [State.checkedC, State.cell_modFr, if_true]
      change (c.unit == .scalar && AL.has (t.cell c.cell).pairs c.slot) = _
      rw [hfs]
    have e1 : ∀ k, (t.endWait (t.req c)).cell k = t.cell k := fun _ => rfl
    refine ⟨⟨?_, ?_, ?_, ?_, ?_, ?_, ?_, ?_, ?_, ?_⟩, ?_, ?_, ?_, ?_⟩
    · obtain ⟨ks, hks⟩ := hrest
      rw [hks, hcs]; rfl
    · intro k hk
      obtain ⟨ps, h1, h2⟩ := hcell k
      have hk' : ¬ c.cell = k := fun e => hk e.symm
      simp only [State.cell_modFr, hk', if_false] at h1 h2
      rw [h1, h2 (.inl hk)]
      exact h.cells k hk
    · obtain ⟨ps, h1, -⟩ := hcell c.cell
      simp only [State.cell_modFr, if_true] at h1
      rw [h1, e1, hfs]
    · intro k hk
      have hk' : ¬ c.slot = k := fun e => by simp_all
      rw [hfr]
      simp only [State.modFr, State.frame_modFrame, hk', and_false, if_false]
      exact h.frames k hk
    · rw [hF, hf]
    · intro _
      rw [hF, hf]
    · intro v _
      obtain ⟨ps, h1, -⟩ := hcell c.cell
      simp only [State.cell_modFr, if_true] at h1
      rw [h1, e1, hfs]; cases v <;> rfl
    · intro v
      obtain ⟨ps, h1, -⟩ := hcell c.cell
      simp only [State.cell_modFr, if_true] at h1
      rw [h1, e1, hfs]; cases v <;> rfl
    · intro p _
      obtain ⟨ks, hks⟩ := hrest
      rw [hks, hcs]; rfl
    · intro hc
      obtain ⟨ps, h1, h2⟩ := hcell c.cell
      rw [ec] at h2
      simp only [State.cell_modFr, if_true] at h1 h2
      rw [h1, h2 (.inr hc), e1, hfs]
    · intro n
      simp only [State.reg, hu]
      rw [hF]
    · rw [hF]
    · rw [hF]
    · simp only [State.pcAt, State.pcNext, hu]
      rw [hF, hf]
  | engine w =>
    obtain ⟨e, he⟩ := h.engine w hu
    simp only [State.advance, hu] at hcell hfr hrest
    have e1 : ∀ f k, ((t.endWait (t.req c)).modProg ((t.endWait (t.req c)).progId c) f).cell k = t.cell k := by
      intro f k; simp [State.cell]
    have e2 : ∀ f k j, ((t.endWait (t.req c)).modProg ((t.endWait (t.req c)).progId c) f).frame k j = t.frame k j := by
      intro f k j; simp only [State.frame, e1]
    have hF : u.fr c = t.fr c := by
      simp only [State.fr]; rw [hfr, e2]
    have hk : ∀ k, u.cell k = t.cell k := by
      intro k
      obtain ⟨ps, h1, h2⟩ := hcell k
      rw [h1, h2 (.inr (State.checkedC_engine hu)), e1]
    have hp : t.progId c = s.progId c := by
      simp only [State.progId, hu, he, Cell.engine_setEngine_same]
    have hps : t.progs = s.progs := by rw [hcs]
    obtain ⟨ks, hks⟩ := hrest
    have hup : ∀ p, AL.find u.progs p = if s.progId c = p then (AL.find s.progs p).map (fun q => { q with
        pc := target.getD (q.resume.getD c.site.next), resume := none,
        off := target.isNone && q.resume.isNone && t.endsSegment c, mark := none, pend := none,
        held := none, copy := none, old := [] }) else AL.find s.progs p := by
      intro p
      rw [hks]
      change AL.find ((t.endWait (t.req c)).modProg (t.progId c) _).progs p = _
      simp only [State.modProg]
      change AL.find (match AL.find t.progs (t.progId c) with | some x => _ | none => _ : State).progs p = _
      rw [hp, hps]
      split
      · next q hq =>
        change AL.find (AL.put t.progs _ _) p = _
        rw [AL.find_put, hps]
        split
        · next e => subst e; rw [hq]; rfl
        · rfl
      · next hq =>
        change AL.find t.progs p = _
        rw [hps]
        split
        · next e => subst e; rw [hq]; rfl
        · rfl
    refine ⟨⟨?_, ?_, ?_, ?_, ?_, ?_, ?_, ?_, ?_, ?_⟩, ?_, ?_, ?_, ?_⟩
    · rw [hks]
      obtain ⟨ps, hm⟩ := State.modProg_rest (t.endWait (t.req c)) ((t.endWait (t.req c)).progId c) (fun p => { p with
        pc := target.getD (p.resume.getD c.site.next), resume := none,
        off := target.isNone && p.resume.isNone && (t.endWait (t.req c)).endsSegment c, mark := none, pend := none,
        held := none, copy := none, old := [] })
      rw [hm, hcs]; rfl
    · intro k hn; rw [hk]; exact h.cells k hn
    · rw [hk, he]; cases w <;> rfl
    · intro k _
      simp only [State.frame, hk]
      exact h.frames k (.inr (by simp [hu]))
    · rw [hF, hf]
    · intro hs; rw [hu] at hs; cases hs
    · intro v hv
      rw [hk, he, Cell.engine_setEngine]
      split
      · next e => subst e; exact absurd hu hv
      · rfl
    · intro v
      rw [hk, he, Cell.engine_setEngine]
      split
      · next e => subst e; rfl
      · rfl
    · intro p hn
      rw [hup, if_neg]
      intro he'
      rcases hn with hn | hn
      · rw [hu] at hn; cases hn
      · exact hn he'.symm
    · intro _
      rw [hk, he, Cell.setEngine_pairs]
    · intro n
      simp only [State.reg, hu, hk]
    · rw [hF]
    · rw [hF]
    · have : u.progId c = s.progId c := by rw [← hp]; simp only [State.progId, hu, hk]
      simp only [State.pcAt, State.pcNext, hu, this, hup, if_true, Option.map_map]
      rfl

/-! ### Shapes of scalar instructions -/

/-- An instruction whose body writes one register completes with the value. -/
theorem wrote_of_setReg {s : State} {c : Ctx} {i : Instr} {touched : List Int} {d : Int} {v : Word}
    {reads : List Int} {body : State → Issued} (hi : exec i s = issueWith s c .no touched reads [d] body)
    (hr : ∀ n ∈ reads, n ∈ touched) (hc : s.Clear c .no touched) (hd : d ∈ touched) (hb : body s = .ok (s.setReg c d v)) : Wrote s c i d v := by
  obtain ⟨h1, h2, h3, h4, h5⟩ := completed_of (RegChange.setReg s c d v) none [d.toNat]
  have hd0 := (hc.exist d hd).1
  refine ⟨_, by rw [hi, issueWith_clear hc hr, hb, State.feed_no]; rfl, ?_, ?_, ?_, ?_, h1, h5⟩
  · refine (h2 d).trans ?_
    rw [State.reg_setReg s c hd0 hd0, if_pos rfl]
  · intro n hn
    refine (h2 n).trans ?_
    rw [State.reg_setReg s c hd0 (by omega), if_neg (fun e => hn (by simp [e]))]
  · refine h3.trans ?_
    cases hu : c.unit with
    | scalar => simp [State.setReg, hu]
    | engine u => simp [State.setReg, hu, State.fr, State.frame, State.cell_modEngine]
  · refine h4.trans ?_
    cases hu : c.unit with
    | scalar => simp [State.setReg, hu]
    | engine u => simp [State.setReg, hu, State.fr, State.frame, State.cell_modEngine]

/-- Format A. -/
theorem alu3_wrote {s : State} {c : Ctx} {i : Instr} {r : Rel} {d a b : RegNum} {f : Word → Word → Word} (ha : s.At c)
    (hi : exec i s = alu3 s r d a b f) (hc : s.Clear c .no [s.regNo c r d, s.regNo c r a, s.regNo c r b]) :
    Wrote s c i (s.regNo c r d) (f (s.reg c (s.regNo c r a)) (s.reg c (s.regNo c r b))) :=
  wrote_of_setReg (by rw [hi, alu3, withGroup_at ha]; rfl) (fun _ hn => (List.mem_filter.mp hn).1) hc (by simp) rfl

/-- The two-address group. -/
theorem alu2_wrote {s : State} {c : Ctx} {i : Instr} {r : Rel} {d a : RegNum} {f : Word → Word → Word} (ha : s.At c)
    (hi : exec i s = alu2 s r d a f) (hc : s.Clear c .no [s.regNo c r d, s.regNo c r a]) :
    Wrote s c i (s.regNo c r d) (f (s.reg c (s.regNo c r d)) (s.reg c (s.regNo c r a))) :=
  wrote_of_setReg (by rw [hi, alu2, withGroup_at ha]; rfl) (fun _ hn => hn) hc (by simp) rfl

/-- The unary group. -/
theorem alu1_wrote {s : State} {c : Ctx} {i : Instr} {r : Rel} {d a : RegNum} {f : Word → Word} (ha : s.At c)
    (hi : exec i s = alu1 s r d a f) (hc : s.Clear c .no [s.regNo c r d, s.regNo c r a]) :
    Wrote s c i (s.regNo c r d) (f (s.reg c (s.regNo c r a))) :=
  wrote_of_setReg (by rw [hi, alu1, withGroup_at ha]; rfl) (fun _ hn => (List.mem_filter.mp hn).1) hc (by simp) rfl

/-- The immediate group. -/
theorem aluI_wrote {s : State} {c : Ctx} {i : Instr} {r : Rel} {d : RegNum} {f : Word → Word} (ha : s.At c)
    (hi : exec i s = aluI s r d f) (hc : s.Clear c .no [s.regNo c r d]) :
    Wrote s c i (s.regNo c r d) (f (s.reg c (s.regNo c r d))) :=
  wrote_of_setReg (by rw [hi, aluI, withGroup_at ha]; rfl) (fun _ hn => hn) hc (by simp) rfl

/-! ### Transfers of control -/

theorem AL.get_put_noop (x : AL (BitVec 16)) (k j : Nat) (v : BitVec 16) :
    AL.get 0 (AL.put x k v) j = if k = j then v else AL.get 0 x j := AL.get_put ..

theorem State.xreg_setX (s : State) (c : Ctx) (k j : BitVec 2) (v : BitVec 16) :
    (s.setX c k v).xreg c j = if k = j then v else s.xreg c j := by
  have e : k.toNat = j.toNat ↔ k = j := by rw [← BitVec.toNat_inj]
  simp [State.xreg, State.setX, AL.get_put, e]

/-- An instruction that changes at most its own registers and goes on. -/
theorem went_on {s t : State} {c : Ctx} {i : Instr} {forced : Forced} {touched dests : List Int} {body : State → Issued}
    {reg : Option (Int × Word)} {x : Option (BitVec 2 × BitVec 16)} {reads : List Int}
    (hi : exec i s = issueWith s c forced touched reads dests body) (hr : ∀ n ∈ reads, n ∈ touched)
    (hc : s.Clear c forced touched) (hf : forced ≠ .leader) (hb : body s = .ok t) (ht : RegChange s t c)
    (hreg : ∀ p, reg = some p → t.reg c p.1 = p.2) (hk : KeepsRegs s t c (reg.toList.map Prod.fst))
    (hx : ∀ k, t.xreg c k = match x with | some p => if p.1 = k then p.2 else s.xreg c k | none => s.xreg c k)
    (hcr : (t.fr c).cr = (s.fr c).cr) : Went s c i reg x none := by
  obtain ⟨h1, h2, h3, h4, h5⟩ := completed_of ht none (dests.map Int.toNat)
  refine ⟨_, [], [], by rw [hi, issueWith_clear hc hr, hb]; cases forced <;> simp at hf ⊢ <;> rfl, ?_, ?_, ?_, ?_, ?_, h5⟩
  · intro p hp; exact (h2 p.1).trans (hreg p hp)
  · intro n hn; exact (h2 n).trans (hk n hn)
  · intro k; refine Eq.trans ?_ (hx k); simp only [State.xreg, h3]
  · exact h4.trans hcr
  · exact h1

/-- An instruction that changes at most its own registers and goes to a target with code. -/
theorem went_to {s t : State} {c : Ctx} {i : Instr} {touched dests : List Int} {body : State → Issued} {target : Addr}
    {reg : Option (Int × Word)} {x : Option (BitVec 2 × BitVec 16)} {reads : List Int}
    (hi : exec i s = issueWith s c .no touched reads dests body) (hr : ∀ n ∈ reads, n ∈ touched)
    (hc : s.Clear c .no touched) (hgo : s.CanGo c target) (hb : body s = .jump t target) (ht : RegChange s t c)
    (hreg : ∀ p, reg = some p → t.reg c p.1 = p.2) (hk : KeepsRegs s t c (reg.toList.map Prod.fst))
    (hx : ∀ k, t.xreg c k = match x with | some p => if p.1 = k then p.2 else s.xreg c k | none => s.xreg c k)
    (hcr : (t.fr c).cr = (s.fr c).cr) : Went s c i reg x (some target) := by
  obtain ⟨hev, hw, s2, hfe⟩ := hgo
  have hck : s.checkTarget c target = .ok s2 := by simp only [State.checkTarget, hfe]
  obtain ⟨cs, hcs⟩ := ht.rest
  let t' : State := { t with
    cells := AL.put t.cells c.cell { t.cell c.cell with icache := (s2.cell c.cell).icache }, agents := s2.agents }
  have hcell : ∀ k, t'.cell k = if c.cell = k then { t.cell c.cell with icache := (s2.cell c.cell).icache } else t.cell k :=
    fun k => AL.get_put ..
  have hcell0 : ∀ k, (s.fetched c (s2.cell c.cell).icache s2.agents).cell k =
      if c.cell = k then { s.cell c.cell with icache := (s2.cell c.cell).icache } else s.cell k := fun k => AL.get_put ..
  have hfr : ∀ k j, t'.frame k j = t.frame k j := by
    intro k j; simp only [State.frame, hcell]; split
    · next e => subst e; rfl
    · rfl
  have hfr0 : ∀ k j, (s.fetched c (s2.cell c.cell).icache s2.agents).frame k j = s.frame k j := by
    intro k j; simp only [State.frame, hcell0]; split
    · next e => subst e; rfl
    · rfl
  have hch : RegChange (s.fetched c (s2.cell c.cell).icache s2.agents) t' c := {
    rest := ⟨t'.cells, by simp only [t', hcs]; rfl⟩
    cells := fun k hk => by
      have hk' : ¬ c.cell = k := fun e => hk e.symm
      rw [hcell, hcell0, if_neg hk', if_neg hk', ht.cells k hk]
    scalar := fun hs => by
      obtain ⟨fs, h⟩ := ht.scalar hs
      exact ⟨fs, by rw [hcell, hcell0, if_pos rfl, if_pos rfl, h]⟩
    frames := fun k hk => by rw [hfr, hfr0]; exact ht.frames k hk
    frame := by
      obtain ⟨g, x, r, h⟩ := ht.frame
      exact ⟨g, x, r, by simp only [State.fr, hfr, hfr0] at h ⊢; exact h⟩
    engine := fun u hu => by
      obtain ⟨e, h⟩ := ht.engine u hu
      exact ⟨e, by rw [hcell, hcell0, if_pos rfl, if_pos rfl, h]; cases u <;> rfl⟩ }
  obtain ⟨h1, h2, h3, h4, h5⟩ := completed_of hch (some target) (dests.map Int.toNat)
  have hreg' : ∀ n, t'.reg c n = t.reg c n := by
    intro n
    cases hu : c.unit with
    | scalar => simp only [State.reg, hu, State.fr, hfr]
    | engine u => simp only [State.reg, hu, hcell, if_pos]; cases u <;> rfl
  refine ⟨_, (s2.cell c.cell).icache, s2.agents, ?_, ?_, ?_, ?_, ?_, h1, ?_⟩
  · rw [hi, issueWith_clear hc hr, hb, State.feed_no]
    have : ¬ target.toNat % 2 = 1 := by omega
    simp only [finish, this, if_false, hck]
    rfl
  · intro p hp; exact (h2 p.1).trans ((hreg' p.1).trans (hreg p hp))
  · intro n hn; exact (h2 n).trans ((hreg' n).trans (hk n hn))
  · intro k
    refine Eq.trans ?_ (hx k)
    exact congrArg (fun x => AL.get 0 x k.toNat) (h3.trans (by simp only [State.fr, hfr]))
  · refine h4.trans (Eq.trans ?_ hcr); simp only [State.fr, hfr]
  · refine h5.trans ?_
    cases hu : c.unit with
    | scalar => simp only [State.pcNext, hu, Option.getD_some]
    | engine u =>
      have : (s.fetched c (s2.cell c.cell).icache s2.agents).progId c = s.progId c := by
        simp only [State.progId, hu, hcell0, if_pos]; cases u <;> rfl
      simp only [State.pcNext, hu, this]; rfl

end Sys2Proof.Machine
end

