-- ==== Sys2Proof/Laws/PerInstr.lean ====
section
/-! SUPPORT. Per-instruction laws: the page on which each instruction's word stands (Tables 2-4 to 2-10, 12-3, 13-6). -/

namespace Sys2Proof.Laws

/-- The page of the words of a row of the opcode table; Gorivo words and the steps that no word encodes stand on none. -/
def rowPage : Instr → Option (BitVec 4)
  | .add .. | .sub .. | .and .. | .or .. | .xor .. | .mul .. | .shl .. | .shr .. | .sar .. | .rol .. | .ror .. | .andn ..
  | .min .. | .max .. | .minu .. | .maxu .. | .mulh .. | .mulhu .. | .seq .. | .sne .. | .slt .. | .sltu .. | .mov ..
  | .neg .. | .not .. | .clz .. | .ctz .. | .popc .. | .bswap .. | .jr .. | .jalr .. | .ret | .done | .trap .. | .brk ..
  | .nop | .ifence | .rdtime .. | .li .. | .addi .. | .andi .. | .ori .. | .xori .. | .shli .. | .shri .. | .sari ..
  | .slti .. | .sltui .. | .sext .. | .zext .. | .bext .. | .bins .. | .ldW .. | .ldD .. | .st .. | .beq .. | .bne ..
  | .blt .. | .bge .. | .bltu .. | .bgeu .. | .bz .. | .bnz .. | .bltz .. | .bgez .. | .br .. | .jal .. | .lp .. => some 0
  | .ldB .. | .ldBu .. | .ldH .. | .ldHu .. | .ldWPage1 .. | .ldWu .. | .ldDPage1 .. | .stPage1 .. | .lda .. | .stl ..
  | .ldp .. | .stp .. | .pf .. | .fence .. | .fenceAcq .. | .fenceRel .. | .aadd .. | .aand .. | .aor .. | .axor ..
  | .amin .. | .amax .. | .aminu .. | .amaxu .. | .aswap .. | .acas .. | .ainc .. | .adec .. | .afadd .. | .fcfg ..
  | .fins .. | .fmerge .. | .frd .. | .fclr .. | .fstat .. => some 1
  | .snd .. | .sndm .. | .sndg .. | .snds .. | .tagen .. | .tagdis .. | .tagrd .. | .bar .. | .barw .. | .sopen ..
  | .sclose .. | .scancel .. | .sshield .. | .sclaim .. | .schk .. | .fork .. | .rdv .. | .copy .. | .qfence .. | .nsend ..
  | .nwrite .. | .nread .. | .ncst .. => some 2
  | .vadd .. | .vsub .. | .vmul .. | .vfma .. | .vfms .. | .vdiv .. | .vmin .. | .vmax .. | .vand .. | .vor .. | .vxor ..
  | .vshl .. | .vshr .. | .vabs .. | .vneg .. | .vcvt .. | .vexp .. | .vlog .. | .vrcp .. | .vrsq .. | .vsqrt .. | .vtanh ..
  | .vsig .. | .verf .. | .vsin .. | .vcos .. | .vfill .. | .vcpy .. | .eend | .vcmpEq .. | .vcmpNe .. | .vcmpLt ..
  | .vcmpLe .. | .vcmpGt .. | .vcmpGe .. | .vcmpUn .. | .vcmpOr .. | .vsel .. | .vredAdd .. | .vredMul .. | .vredMin ..
  | .vredMax .. | .vredAnd .. | .vredOr .. | .vredXor .. | .vscanAdd .. | .vscanMul .. | .vscanMin .. | .vscanMax ..
  | .vscanAnd .. | .vscanOr .. | .vscanXor .. | .vgat .. | .vsca .. | .vtop .. => some 3
  | .mplane .. | .mscl .. | .mzero .. | .mmul .. | .mgang .. | .mst .. | .macc .. | .eendPage4 => some 4
  | .div .. | .divu .. | .rem .. | .remu .. | .crd .. | .cwr .. | .cset .. | .cclr .. | .bextu .. | .lea ..
  | .movxToIndex .. | .movxFromIndex .. | .addx .. | .tmark .. => some 5
  | _ => none

/-- The encoding of an instruction selects the page of its row, and Gorivo words are those of Table 19-5 alone. -/
def Page.Statement (i : Instr) : Prop := (encodeGroup i).map Group.page = rowPage i ∧ ((encodeGorivo i).isSome = true → rowPage i = none)

theorem Page.add r d a b : Page.Statement (.add r d a b) := ⟨rfl, nofun⟩
theorem Page.sub r d a b : Page.Statement (.sub r d a b) := ⟨rfl, nofun⟩
theorem Page.and r d a b : Page.Statement (.and r d a b) := ⟨rfl, nofun⟩
theorem Page.or r d a b : Page.Statement (.or r d a b) := ⟨rfl, nofun⟩
theorem Page.xor r d a b : Page.Statement (.xor r d a b) := ⟨rfl, nofun⟩
theorem Page.mul r d a b : Page.Statement (.mul r d a b) := ⟨rfl, nofun⟩
theorem Page.shl r d a : Page.Statement (.shl r d a) := ⟨rfl, nofun⟩
theorem Page.shr r d a : Page.Statement (.shr r d a) := ⟨rfl, nofun⟩
theorem Page.sar r d a : Page.Statement (.sar r d a) := ⟨rfl, nofun⟩
theorem Page.rol r d a : Page.Statement (.rol r d a) := ⟨rfl, nofun⟩
theorem Page.ror r d a : Page.Statement (.ror r d a) := ⟨rfl, nofun⟩
theorem Page.andn r d a : Page.Statement (.andn r d a) := ⟨rfl, nofun⟩
theorem Page.min r d a : Page.Statement (.min r d a) := ⟨rfl, nofun⟩
theorem Page.max r d a : Page.Statement (.max r d a) := ⟨rfl, nofun⟩
theorem Page.minu r d a : Page.Statement (.minu r d a) := ⟨rfl, nofun⟩
theorem Page.maxu r d a : Page.Statement (.maxu r d a) := ⟨rfl, nofun⟩
theorem Page.mulh r d a : Page.Statement (.mulh r d a) := ⟨rfl, nofun⟩
theorem Page.mulhu r d a : Page.Statement (.mulhu r d a) := ⟨rfl, nofun⟩
theorem Page.seq r d a : Page.Statement (.seq r d a) := ⟨rfl, nofun⟩
theorem Page.sne r d a : Page.Statement (.sne r d a) := ⟨rfl, nofun⟩
theorem Page.slt r d a : Page.Statement (.slt r d a) := ⟨rfl, nofun⟩
theorem Page.sltu r d a : Page.Statement (.sltu r d a) := ⟨rfl, nofun⟩
theorem Page.mov r d a : Page.Statement (.mov r d a) := ⟨rfl, nofun⟩
theorem Page.neg r d a : Page.Statement (.neg r d a) := ⟨rfl, nofun⟩
theorem Page.not r d a : Page.Statement (.not r d a) := ⟨rfl, nofun⟩
theorem Page.clz r d a : Page.Statement (.clz r d a) := ⟨rfl, nofun⟩
theorem Page.ctz r d a : Page.Statement (.ctz r d a) := ⟨rfl, nofun⟩
theorem Page.popc r d a : Page.Statement (.popc r d a) := ⟨rfl, nofun⟩
theorem Page.bswap r d a : Page.Statement (.bswap r d a) := ⟨rfl, nofun⟩
theorem Page.jr r a : Page.Statement (.jr r a) := ⟨rfl, nofun⟩
theorem Page.jalr r d a : Page.Statement (.jalr r d a) := ⟨rfl, nofun⟩
theorem Page.ret : Page.Statement .ret := ⟨rfl, nofun⟩
theorem Page.done : Page.Statement .done := ⟨rfl, nofun⟩
theorem Page.trap code : Page.Statement (.trap code) := ⟨rfl, nofun⟩
theorem Page.brk code : Page.Statement (.brk code) := ⟨rfl, nofun⟩
theorem Page.nop : Page.Statement .nop := ⟨rfl, nofun⟩
theorem Page.ifence : Page.Statement .ifence := ⟨rfl, nofun⟩
theorem Page.rdtime r d : Page.Statement (.rdtime r d) := ⟨rfl, nofun⟩
theorem Page.li r d imm : Page.Statement (.li r d imm) := ⟨rfl, nofun⟩
theorem Page.addi r d imm : Page.Statement (.addi r d imm) := ⟨rfl, nofun⟩
theorem Page.andi r d imm : Page.Statement (.andi r d imm) := ⟨rfl, nofun⟩
theorem Page.ori r d imm : Page.Statement (.ori r d imm) := ⟨rfl, nofun⟩
theorem Page.xori r d imm : Page.Statement (.xori r d imm) := ⟨rfl, nofun⟩
theorem Page.shli r d n : Page.Statement (.shli r d n) := ⟨rfl, nofun⟩
theorem Page.shri r d n : Page.Statement (.shri r d n) := ⟨rfl, nofun⟩
theorem Page.sari r d n : Page.Statement (.sari r d n) := ⟨rfl, nofun⟩
theorem Page.slti r d imm : Page.Statement (.slti r d imm) := ⟨rfl, nofun⟩
theorem Page.sltui r d imm : Page.Statement (.sltui r d imm) := ⟨rfl, nofun⟩
theorem Page.sext r d n : Page.Statement (.sext r d n) := ⟨rfl, nofun⟩
theorem Page.zext r d n : Page.Statement (.zext r d n) := ⟨rfl, nofun⟩
theorem Page.bext r d p lm1 : Page.Statement (.bext r d p lm1) := ⟨rfl, nofun⟩
theorem Page.bins r d p lm1 : Page.Statement (.bins r d p lm1) := ⟨rfl, nofun⟩
theorem Page.ldW r t d n off l : Page.Statement (.ldW r t d n off l) := ⟨rfl, nofun⟩
theorem Page.ldD r t d n off l : Page.Statement (.ldD r t d n off l) := ⟨rfl, nofun⟩
theorem Page.st r t w v n off : Page.Statement (.st r t w v n off) := ⟨rfl, nofun⟩
theorem Page.beq r a b off : Page.Statement (.beq r a b off) := ⟨rfl, nofun⟩
theorem Page.bne r a b off : Page.Statement (.bne r a b off) := ⟨rfl, nofun⟩
theorem Page.blt r a b off : Page.Statement (.blt r a b off) := ⟨rfl, nofun⟩
theorem Page.bge r a b off : Page.Statement (.bge r a b off) := ⟨rfl, nofun⟩
theorem Page.bltu r a b off : Page.Statement (.bltu r a b off) := ⟨rfl, nofun⟩
theorem Page.bgeu r a b off : Page.Statement (.bgeu r a b off) := ⟨rfl, nofun⟩
theorem Page.bz r a off : Page.Statement (.bz r a off) := ⟨rfl, nofun⟩
theorem Page.bnz r a off : Page.Statement (.bnz r a off) := ⟨rfl, nofun⟩
theorem Page.bltz r a off : Page.Statement (.bltz r a off) := ⟨rfl, nofun⟩
theorem Page.bgez r a off : Page.Statement (.bgez r a off) := ⟨rfl, nofun⟩
theorem Page.br off : Page.Statement (.br off) := ⟨rfl, nofun⟩
theorem Page.jal off : Page.Statement (.jal off) := ⟨rfl, nofun⟩
theorem Page.lp off : Page.Statement (.lp off) := ⟨rfl, nofun⟩
theorem Page.ldB r t d n off l : Page.Statement (.ldB r t d n off l) := ⟨rfl, nofun⟩
theorem Page.ldBu r t d n off l : Page.Statement (.ldBu r t d n off l) := ⟨rfl, nofun⟩
theorem Page.ldH r t d n off l : Page.Statement (.ldH r t d n off l) := ⟨rfl, nofun⟩
theorem Page.ldHu r t d n off l : Page.Statement (.ldHu r t d n off l) := ⟨rfl, nofun⟩
theorem Page.ldWPage1 r t d n off l : Page.Statement (.ldWPage1 r t d n off l) := ⟨rfl, nofun⟩
theorem Page.ldWu r t d n off l : Page.Statement (.ldWu r t d n off l) := ⟨rfl, nofun⟩
theorem Page.ldDPage1 r t d n off l : Page.Statement (.ldDPage1 r t d n off l) := ⟨rfl, nofun⟩
theorem Page.stPage1 r t w v n off : Page.Statement (.stPage1 r t w v n off) := ⟨rfl, nofun⟩
theorem Page.lda r t d n off l : Page.Statement (.lda r t d n off l) := ⟨rfl, nofun⟩
theorem Page.stl r t w v n off : Page.Statement (.stl r t w v n off) := ⟨rfl, nofun⟩
theorem Page.ldp r t d n off l : Page.Statement (.ldp r t d n off l) := ⟨rfl, nofun⟩
theorem Page.stp r t v n off : Page.Statement (.stp r t v n off) := ⟨rfl, nofun⟩
theorem Page.pf r t n off : Page.Statement (.pf r t n off) := ⟨rfl, nofun⟩
theorem Page.fence m sc : Page.Statement (.fence m sc) := ⟨rfl, nofun⟩
theorem Page.fenceAcq m sc : Page.Statement (.fenceAcq m sc) := ⟨rfl, nofun⟩
theorem Page.fenceRel m sc : Page.Statement (.fenceRel m sc) := ⟨rfl, nofun⟩
theorem Page.aadd r t f a b l : Page.Statement (.aadd r t f a b l) := ⟨rfl, nofun⟩
theorem Page.aand r t f a b l : Page.Statement (.aand r t f a b l) := ⟨rfl, nofun⟩
theorem Page.aor r t f a b l : Page.Statement (.aor r t f a b l) := ⟨rfl, nofun⟩
theorem Page.axor r t f a b l : Page.Statement (.axor r t f a b l) := ⟨rfl, nofun⟩
theorem Page.amin r t f a b l : Page.Statement (.amin r t f a b l) := ⟨rfl, nofun⟩
theorem Page.amax r t f a b l : Page.Statement (.amax r t f a b l) := ⟨rfl, nofun⟩
theorem Page.aminu r t f a b l : Page.Statement (.aminu r t f a b l) := ⟨rfl, nofun⟩
theorem Page.amaxu r t f a b l : Page.Statement (.amaxu r t f a b l) := ⟨rfl, nofun⟩
theorem Page.aswap r t f a b l : Page.Statement (.aswap r t f a b l) := ⟨rfl, nofun⟩
theorem Page.acas r t f a b l : Page.Statement (.acas r t f a b l) := ⟨rfl, nofun⟩
theorem Page.ainc r t f a b l : Page.Statement (.ainc r t f a b l) := ⟨rfl, nofun⟩
theorem Page.adec r t f a b l : Page.Statement (.adec r t f a b l) := ⟨rfl, nofun⟩
theorem Page.afadd r t f a b l : Page.Statement (.afadd r t f a b l) := ⟨rfl, nofun⟩
theorem Page.fcfg r t a b l : Page.Statement (.fcfg r t a b l) := ⟨rfl, nofun⟩
theorem Page.fins r t a b l : Page.Statement (.fins r t a b l) := ⟨rfl, nofun⟩
theorem Page.fmerge r t a b l : Page.Statement (.fmerge r t a b l) := ⟨rfl, nofun⟩
theorem Page.frd r t a b l : Page.Statement (.frd r t a b l) := ⟨rfl, nofun⟩
theorem Page.fclr r t a b l : Page.Statement (.fclr r t a b l) := ⟨rfl, nofun⟩
theorem Page.fstat r t a b l : Page.Statement (.fstat r t a b l) := ⟨rfl, nofun⟩
theorem Page.snd r t d a b : Page.Statement (.snd r t d a b) := ⟨rfl, nofun⟩
theorem Page.sndm r t d a b : Page.Statement (.sndm r t d a b) := ⟨rfl, nofun⟩
theorem Page.sndg r t d a b : Page.Statement (.sndg r t d a b) := ⟨rfl, nofun⟩
theorem Page.snds r t d a b : Page.Statement (.snds r t d a b) := ⟨rfl, nofun⟩
theorem Page.tagen r d a : Page.Statement (.tagen r d a) := ⟨rfl, nofun⟩
theorem Page.tagdis r d a : Page.Statement (.tagdis r d a) := ⟨rfl, nofun⟩
theorem Page.tagrd r d a : Page.Statement (.tagrd r d a) := ⟨rfl, nofun⟩
theorem Page.bar r d a : Page.Statement (.bar r d a) := ⟨rfl, nofun⟩
theorem Page.barw r d a : Page.Statement (.barw r d a) := ⟨rfl, nofun⟩
theorem Page.sopen r d a : Page.Statement (.sopen r d a) := ⟨rfl, nofun⟩
theorem Page.sclose r d a : Page.Statement (.sclose r d a) := ⟨rfl, nofun⟩
theorem Page.scancel r d : Page.Statement (.scancel r d) := ⟨rfl, nofun⟩
theorem Page.sshield r d : Page.Statement (.sshield r d) := ⟨rfl, nofun⟩
theorem Page.sclaim r d : Page.Statement (.sclaim r d) := ⟨rfl, nofun⟩
theorem Page.schk r d : Page.Statement (.schk r d) := ⟨rfl, nofun⟩
theorem Page.fork r d a : Page.Statement (.fork r d a) := ⟨rfl, nofun⟩
theorem Page.rdv r d a : Page.Statement (.rdv r d a) := ⟨rfl, nofun⟩
theorem Page.copy r d a : Page.Statement (.copy r d a) := ⟨rfl, nofun⟩
theorem Page.qfence r d a : Page.Statement (.qfence r d a) := ⟨rfl, nofun⟩
theorem Page.nsend r d a : Page.Statement (.nsend r d a) := ⟨rfl, nofun⟩
theorem Page.nwrite r d a : Page.Statement (.nwrite r d a) := ⟨rfl, nofun⟩
theorem Page.nread r d a : Page.Statement (.nread r d a) := ⟨rfl, nofun⟩
theorem Page.ncst r d a : Page.Statement (.ncst r d a) := ⟨rfl, nofun⟩
theorem Page.vadd d a b : Page.Statement (.vadd d a b) := ⟨rfl, nofun⟩
theorem Page.vsub d a b : Page.Statement (.vsub d a b) := ⟨rfl, nofun⟩
theorem Page.vmul d a b : Page.Statement (.vmul d a b) := ⟨rfl, nofun⟩
theorem Page.vfma d a b : Page.Statement (.vfma d a b) := ⟨rfl, nofun⟩
theorem Page.vfms d a b : Page.Statement (.vfms d a b) := ⟨rfl, nofun⟩
theorem Page.vdiv d a b : Page.Statement (.vdiv d a b) := ⟨rfl, nofun⟩
theorem Page.vmin d a b : Page.Statement (.vmin d a b) := ⟨rfl, nofun⟩
theorem Page.vmax d a b : Page.Statement (.vmax d a b) := ⟨rfl, nofun⟩
theorem Page.vand d a b : Page.Statement (.vand d a b) := ⟨rfl, nofun⟩
theorem Page.vor d a b : Page.Statement (.vor d a b) := ⟨rfl, nofun⟩
theorem Page.vxor d a b : Page.Statement (.vxor d a b) := ⟨rfl, nofun⟩
theorem Page.vshl d a b : Page.Statement (.vshl d a b) := ⟨rfl, nofun⟩
theorem Page.vshr d a b : Page.Statement (.vshr d a b) := ⟨rfl, nofun⟩
theorem Page.vabs d a : Page.Statement (.vabs d a) := ⟨rfl, nofun⟩
theorem Page.vneg d a : Page.Statement (.vneg d a) := ⟨rfl, nofun⟩
theorem Page.vcvt d a : Page.Statement (.vcvt d a) := ⟨rfl, nofun⟩
theorem Page.vexp d a : Page.Statement (.vexp d a) := ⟨rfl, nofun⟩
theorem Page.vlog d a : Page.Statement (.vlog d a) := ⟨rfl, nofun⟩
theorem Page.vrcp d a : Page.Statement (.vrcp d a) := ⟨rfl, nofun⟩
theorem Page.vrsq d a : Page.Statement (.vrsq d a) := ⟨rfl, nofun⟩
theorem Page.vsqrt d a : Page.Statement (.vsqrt d a) := ⟨rfl, nofun⟩
theorem Page.vtanh d a : Page.Statement (.vtanh d a) := ⟨rfl, nofun⟩
theorem Page.vsig d a : Page.Statement (.vsig d a) := ⟨rfl, nofun⟩
theorem Page.verf d a : Page.Statement (.verf d a) := ⟨rfl, nofun⟩
theorem Page.vsin d a : Page.Statement (.vsin d a) := ⟨rfl, nofun⟩
theorem Page.vcos d a : Page.Statement (.vcos d a) := ⟨rfl, nofun⟩
theorem Page.vfill d a : Page.Statement (.vfill d a) := ⟨rfl, nofun⟩
theorem Page.vcpy d a : Page.Statement (.vcpy d a) := ⟨rfl, nofun⟩
theorem Page.eend : Page.Statement .eend := ⟨rfl, nofun⟩
theorem Page.vcmpEq d a : Page.Statement (.vcmpEq d a) := ⟨rfl, nofun⟩
theorem Page.vcmpNe d a : Page.Statement (.vcmpNe d a) := ⟨rfl, nofun⟩
theorem Page.vcmpLt d a : Page.Statement (.vcmpLt d a) := ⟨rfl, nofun⟩
theorem Page.vcmpLe d a : Page.Statement (.vcmpLe d a) := ⟨rfl, nofun⟩
theorem Page.vcmpGt d a : Page.Statement (.vcmpGt d a) := ⟨rfl, nofun⟩
theorem Page.vcmpGe d a : Page.Statement (.vcmpGe d a) := ⟨rfl, nofun⟩
theorem Page.vcmpUn d a : Page.Statement (.vcmpUn d a) := ⟨rfl, nofun⟩
theorem Page.vcmpOr d a : Page.Statement (.vcmpOr d a) := ⟨rfl, nofun⟩
theorem Page.vsel d a : Page.Statement (.vsel d a) := ⟨rfl, nofun⟩
theorem Page.vredAdd d a : Page.Statement (.vredAdd d a) := ⟨rfl, nofun⟩
theorem Page.vredMul d a : Page.Statement (.vredMul d a) := ⟨rfl, nofun⟩
theorem Page.vredMin d a : Page.Statement (.vredMin d a) := ⟨rfl, nofun⟩
theorem Page.vredMax d a : Page.Statement (.vredMax d a) := ⟨rfl, nofun⟩
theorem Page.vredAnd d a : Page.Statement (.vredAnd d a) := ⟨rfl, nofun⟩
theorem Page.vredOr d a : Page.Statement (.vredOr d a) := ⟨rfl, nofun⟩
theorem Page.vredXor d a : Page.Statement (.vredXor d a) := ⟨rfl, nofun⟩
theorem Page.vscanAdd d a : Page.Statement (.vscanAdd d a) := ⟨rfl, nofun⟩
theorem Page.vscanMul d a : Page.Statement (.vscanMul d a) := ⟨rfl, nofun⟩
theorem Page.vscanMin d a : Page.Statement (.vscanMin d a) := ⟨rfl, nofun⟩
theorem Page.vscanMax d a : Page.Statement (.vscanMax d a) := ⟨rfl, nofun⟩
theorem Page.vscanAnd d a : Page.Statement (.vscanAnd d a) := ⟨rfl, nofun⟩
theorem Page.vscanOr d a : Page.Statement (.vscanOr d a) := ⟨rfl, nofun⟩
theorem Page.vscanXor d a : Page.Statement (.vscanXor d a) := ⟨rfl, nofun⟩
theorem Page.vgat d a : Page.Statement (.vgat d a) := ⟨rfl, nofun⟩
theorem Page.vsca d a : Page.Statement (.vsca d a) := ⟨rfl, nofun⟩
theorem Page.vtop d a : Page.Statement (.vtop d a) := ⟨rfl, nofun⟩
theorem Page.mplane a b : Page.Statement (.mplane a b) := ⟨rfl, nofun⟩
theorem Page.mscl a b : Page.Statement (.mscl a b) := ⟨rfl, nofun⟩
theorem Page.mzero a : Page.Statement (.mzero a) := ⟨rfl, nofun⟩
theorem Page.mmul a b : Page.Statement (.mmul a b) := ⟨rfl, nofun⟩
theorem Page.mgang a b : Page.Statement (.mgang a b) := ⟨rfl, nofun⟩
theorem Page.mst a b : Page.Statement (.mst a b) := ⟨rfl, nofun⟩
theorem Page.macc a b : Page.Statement (.macc a b) := ⟨rfl, nofun⟩
theorem Page.eendPage4 : Page.Statement .eendPage4 := ⟨rfl, nofun⟩
theorem Page.div r d a b : Page.Statement (.div r d a b) := ⟨rfl, nofun⟩
theorem Page.divu r d a b : Page.Statement (.divu r d a b) := ⟨rfl, nofun⟩
theorem Page.rem r d a b : Page.Statement (.rem r d a b) := ⟨rfl, nofun⟩
theorem Page.remu r d a b : Page.Statement (.remu r d a b) := ⟨rfl, nofun⟩
theorem Page.crd r d n : Page.Statement (.crd r d n) := ⟨rfl, nofun⟩
theorem Page.cwr r d n : Page.Statement (.cwr r d n) := ⟨rfl, nofun⟩
theorem Page.cset r d n : Page.Statement (.cset r d n) := ⟨rfl, nofun⟩
theorem Page.cclr r d n : Page.Statement (.cclr r d n) := ⟨rfl, nofun⟩
theorem Page.bextu r d a p lm1 : Page.Statement (.bextu r d a p lm1) := ⟨rfl, nofun⟩
theorem Page.lea r d a imm : Page.Statement (.lea r d a imm) := ⟨rfl, nofun⟩
theorem Page.movxToIndex r k a : Page.Statement (.movxToIndex r k a) := ⟨rfl, nofun⟩
theorem Page.movxFromIndex r k a : Page.Statement (.movxFromIndex r k a) := ⟨rfl, nofun⟩
theorem Page.addx r k imm : Page.Statement (.addx r k imm) := ⟨rfl, nofun⟩
theorem Page.tmark r a code : Page.Statement (.tmark r a code) := ⟨rfl, nofun⟩
theorem Page.gorivoLdr d n : Page.Statement (.gorivoLdr d n) := ⟨rfl, fun _ => rfl⟩
theorem Page.gorivoLdi d imm : Page.Statement (.gorivoLdi d imm) := ⟨rfl, fun _ => rfl⟩
theorem Page.gorivoLdh d imm : Page.Statement (.gorivoLdh d imm) := ⟨rfl, fun _ => rfl⟩
theorem Page.gorivoAdd d a b : Page.Statement (.gorivoAdd d a b) := ⟨rfl, fun _ => rfl⟩
theorem Page.gorivoSub d a b : Page.Statement (.gorivoSub d a b) := ⟨rfl, fun _ => rfl⟩
theorem Page.gorivoAnd d a b : Page.Statement (.gorivoAnd d a b) := ⟨rfl, fun _ => rfl⟩
theorem Page.gorivoOr d a b : Page.Statement (.gorivoOr d a b) := ⟨rfl, fun _ => rfl⟩
theorem Page.gorivoXor d a b : Page.Statement (.gorivoXor d a b) := ⟨rfl, fun _ => rfl⟩
theorem Page.gorivoShli d a n : Page.Statement (.gorivoShli d a n) := ⟨rfl, fun _ => rfl⟩
theorem Page.gorivoShri d a n : Page.Statement (.gorivoShri d a n) := ⟨rfl, fun _ => rfl⟩
theorem Page.gorivoAndi d a imm : Page.Statement (.gorivoAndi d a imm) := ⟨rfl, fun _ => rfl⟩
theorem Page.gorivoCadd a n : Page.Statement (.gorivoCadd a n) := ⟨rfl, fun _ => rfl⟩
theorem Page.gorivoCset a n : Page.Statement (.gorivoCset a n) := ⟨rfl, fun _ => rfl⟩
theorem Page.gorivoCrd d n : Page.Statement (.gorivoCrd d n) := ⟨rfl, fun _ => rfl⟩
theorem Page.gorivoBeq a b off : Page.Statement (.gorivoBeq a b off) := ⟨rfl, fun _ => rfl⟩
theorem Page.gorivoBne a b off : Page.Statement (.gorivoBne a b off) := ⟨rfl, fun _ => rfl⟩
theorem Page.gorivoBltu a b off : Page.Statement (.gorivoBltu a b off) := ⟨rfl, fun _ => rfl⟩
theorem Page.gorivoBgeu a b off : Page.Statement (.gorivoBgeu a b off) := ⟨rfl, fun _ => rfl⟩
theorem Page.gorivoBr off : Page.Statement (.gorivoBr off) := ⟨rfl, fun _ => rfl⟩
theorem Page.gorivoKeep : Page.Statement .gorivoKeep := ⟨rfl, fun _ => rfl⟩
theorem Page.gorivoDrop : Page.Statement .gorivoDrop := ⟨rfl, fun _ => rfl⟩
theorem Page.gorivoCount n : Page.Statement (.gorivoCount n) := ⟨rfl, fun _ => rfl⟩
theorem Page.gorivoTrigger m : Page.Statement (.gorivoTrigger m) := ⟨rfl, fun _ => rfl⟩
theorem Page.messageArrival m : Page.Statement (.messageArrival m) := ⟨rfl, fun _ => rfl⟩
theorem Page.dispatch c : Page.Statement (.dispatch c) := ⟨rfl, fun _ => rfl⟩
theorem Page.retirement c slot : Page.Statement (.retirement c slot) := ⟨rfl, fun _ => rfl⟩
theorem Page.weightReturnDrain c act : Page.Statement (.weightReturnDrain c act) := ⟨rfl, fun _ => rfl⟩
theorem Page.stealProbe c : Page.Statement (.stealProbe c) := ⟨rfl, fun _ => rfl⟩
theorem Page.stolenMessageArrival c : Page.Statement (.stolenMessageArrival c) := ⟨rfl, fun _ => rfl⟩
theorem Page.streamerStealProbe c : Page.Statement (.streamerStealProbe c) := ⟨rfl, fun _ => rfl⟩
theorem Page.loadComplete x : Page.Statement (.loadComplete x) := ⟨rfl, fun _ => rfl⟩
theorem Page.trapTaken c slot : Page.Statement (.trapTaken c slot) := ⟨rfl, fun _ => rfl⟩
theorem Page.trapDeferredWrite f : Page.Statement (.trapDeferredWrite f) := ⟨rfl, fun _ => rfl⟩
theorem Page.engineTrap c u : Page.Statement (.engineTrap c u) := ⟨rfl, fun _ => rfl⟩
theorem Page.retiredAccessError x : Page.Statement (.retiredAccessError x) := ⟨rfl, fun _ => rfl⟩
theorem Page.verdictResumeAt c record : Page.Statement (.verdictResumeAt c record) := ⟨rfl, fun _ => rfl⟩
theorem Page.verdictResumeAfter c record : Page.Statement (.verdictResumeAfter c record) := ⟨rfl, fun _ => rfl⟩
theorem Page.verdictAbandon c record : Page.Statement (.verdictAbandon c record) := ⟨rfl, fun _ => rfl⟩
theorem Page.verdictKeep c record : Page.Statement (.verdictKeep c record) := ⟨rfl, fun _ => rfl⟩
theorem Page.storeBufferSend c : Page.Statement (.storeBufferSend c) := ⟨rfl, fun _ => rfl⟩
theorem Page.accessPerformed x : Page.Statement (.accessPerformed x) := ⟨rfl, fun _ => rfl⟩
theorem Page.storeAck x : Page.Statement (.storeAck x) := ⟨rfl, fun _ => rfl⟩
theorem Page.atomicEngineOp k : Page.Statement (.atomicEngineOp k) := ⟨rfl, fun _ => rfl⟩
theorem Page.hotLineEvict k : Page.Statement (.hotLineEvict k) := ⟨rfl, fun _ => rfl⟩
theorem Page.frontWriteback k obj : Page.Statement (.frontWriteback k obj) := ⟨rfl, fun _ => rfl⟩
theorem Page.launchRecordRead c : Page.Statement (.launchRecordRead c) := ⟨rfl, fun _ => rfl⟩
theorem Page.engineProgramStart c u : Page.Statement (.engineProgramStart c u) := ⟨rfl, fun _ => rfl⟩
theorem Page.engineProgramEnd c u : Page.Statement (.engineProgramEnd c u) := ⟨rfl, fun _ => rfl⟩
theorem Page.rdvContinuation c j : Page.Statement (.rdvContinuation c j) := ⟨rfl, fun _ => rfl⟩
theorem Page.scoreboardGrant c frag : Page.Statement (.scoreboardGrant c frag) := ⟨rfl, fun _ => rfl⟩
theorem Page.gangStart strip : Page.Statement (.gangStart strip) := ⟨rfl, fun _ => rfl⟩
theorem Page.gangPass strip : Page.Statement (.gangPass strip) := ⟨rfl, fun _ => rfl⟩
theorem Page.copyHead c : Page.Statement (.copyHead c) := ⟨rfl, fun _ => rfl⟩
theorem Page.chunkStart x : Page.Statement (.chunkStart x) := ⟨rfl, fun _ => rfl⟩
theorem Page.chunkForward x chunk : Page.Statement (.chunkForward x chunk) := ⟨rfl, fun _ => rfl⟩
theorem Page.chunkPerformed x chunk : Page.Statement (.chunkPerformed x chunk) := ⟨rfl, fun _ => rfl⟩
theorem Page.chunkRefused x chunk : Page.Statement (.chunkRefused x chunk) := ⟨rfl, fun _ => rfl⟩
theorem Page.copyEnd x : Page.Statement (.copyEnd x) := ⟨rfl, fun _ => rfl⟩
theorem Page.syncCredit x : Page.Statement (.syncCredit x) := ⟨rfl, fun _ => rfl⟩
theorem Page.wakeMessage x : Page.Statement (.wakeMessage x) := ⟨rfl, fun _ => rfl⟩
theorem Page.qfenceRelease c marker : Page.Statement (.qfenceRelease c marker) := ⟨rfl, fun _ => rfl⟩
theorem Page.generationClose die bell : Page.Statement (.generationClose die bell) := ⟨rfl, fun _ => rfl⟩
theorem Page.bellMessage die bell : Page.Statement (.bellMessage die bell) := ⟨rfl, fun _ => rfl⟩
theorem Page.externalArrival x : Page.Statement (.externalArrival x) := ⟨rfl, fun _ => rfl⟩
theorem Page.mint x : Page.Statement (.mint x) := ⟨rfl, fun _ => rfl⟩
theorem Page.grant x : Page.Statement (.grant x) := ⟨rfl, fun _ => rfl⟩
theorem Page.refuse x : Page.Statement (.refuse x) := ⟨rfl, fun _ => rfl⟩
theorem Page.link x : Page.Statement (.link x) := ⟨rfl, fun _ => rfl⟩
theorem Page.linkres x : Page.Statement (.linkres x) := ⟨rfl, fun _ => rfl⟩
theorem Page.unlink x : Page.Statement (.unlink x) := ⟨rfl, fun _ => rfl⟩
theorem Page.unlinkack x : Page.Statement (.unlinkack x) := ⟨rfl, fun _ => rfl⟩
theorem Page.notice x : Page.Statement (.notice x) := ⟨rfl, fun _ => rfl⟩
theorem Page.clear x : Page.Statement (.clear x) := ⟨rfl, fun _ => rfl⟩
theorem Page.clearack x : Page.Statement (.clearack x) := ⟨rfl, fun _ => rfl⟩
theorem Page.close x : Page.Statement (.close x) := ⟨rfl, fun _ => rfl⟩
theorem Page.cancel x : Page.Statement (.cancel x) := ⟨rfl, fun _ => rfl⟩
theorem Page.choke x : Page.Statement (.choke x) := ⟨rfl, fun _ => rfl⟩
theorem Page.shield x : Page.Statement (.shield x) := ⟨rfl, fun _ => rfl⟩
theorem Page.claim x : Page.Statement (.claim x) := ⟨rfl, fun _ => rfl⟩
theorem Page.check x : Page.Statement (.check x) := ⟨rfl, fun _ => rfl⟩
theorem Page.climb x : Page.Statement (.climb x) := ⟨rfl, fun _ => rfl⟩
theorem Page.answer x : Page.Statement (.answer x) := ⟨rfl, fun _ => rfl⟩
theorem Page.weightReturn x : Page.Statement (.weightReturn x) := ⟨rfl, fun _ => rfl⟩
theorem Page.doorbell node queue tail : Page.Statement (.doorbell node queue tail) := ⟨rfl, fun _ => rfl⟩
theorem Page.packetSelect p : Page.Statement (.packetSelect p) := ⟨rfl, fun _ => rfl⟩
theorem Page.ageingTick : Page.Statement .ageingTick := ⟨rfl, fun _ => rfl⟩
theorem Page.launch p : Page.Statement (.launch p) := ⟨rfl, fun _ => rfl⟩
theorem Page.launchStartMessage p : Page.Statement (.launchStartMessage p) := ⟨rfl, fun _ => rfl⟩
theorem Page.launchComplete x : Page.Statement (.launchComplete x) := ⟨rfl, fun _ => rfl⟩
theorem Page.nopPacket p : Page.Statement (.nopPacket p) := ⟨rfl, fun _ => rfl⟩
theorem Page.waitPacket p : Page.Statement (.waitPacket p) := ⟨rfl, fun _ => rfl⟩
theorem Page.waitRecheck q : Page.Statement (.waitRecheck q) := ⟨rfl, fun _ => rfl⟩
theorem Page.signalPacket p : Page.Statement (.signalPacket p) := ⟨rfl, fun _ => rfl⟩
theorem Page.fencePacket p : Page.Statement (.fencePacket p) := ⟨rfl, fun _ => rfl⟩
theorem Page.freeSlotReport c : Page.Statement (.freeSlotReport c) := ⟨rfl, fun _ => rfl⟩
theorem Page.tollExpiry q : Page.Statement (.tollExpiry q) := ⟨rfl, fun _ => rfl⟩
theorem Page.tollExtend q n : Page.Statement (.tollExtend q n) := ⟨rfl, fun _ => rfl⟩
theorem Page.tollRecover q : Page.Statement (.tollRecover q) := ⟨rfl, fun _ => rfl⟩
theorem Page.pluginTimeout q : Page.Statement (.pluginTimeout q) := ⟨rfl, fun _ => rfl⟩
theorem Page.recovery f : Page.Statement (.recovery f) := ⟨rfl, fun _ => rfl⟩
theorem Page.fenceLift f : Page.Statement (.fenceLift f) := ⟨rfl, fun _ => rfl⟩
theorem Page.containment f : Page.Statement (.containment f) := ⟨rfl, fun _ => rfl⟩
theorem Page.loadFieldContext rec : Page.Statement (.loadFieldContext rec) := ⟨rfl, fun _ => rfl⟩
theorem Page.segmentTableLoad f : Page.Statement (.segmentTableLoad f) := ⟨rfl, fun _ => rfl⟩
theorem Page.imageLoad f image : Page.Statement (.imageLoad f image) := ⟨rfl, fun _ => rfl⟩
theorem Page.contextSwitch f : Page.Statement (.contextSwitch f) := ⟨rfl, fun _ => rfl⟩
theorem Page.preemptDeadline f : Page.Statement (.preemptDeadline f) := ⟨rfl, fun _ => rfl⟩
theorem Page.switchDrainComplete f rec : Page.Statement (.switchDrainComplete f rec) := ⟨rfl, fun _ => rfl⟩
theorem Page.stopField f : Page.Statement (.stopField f) := ⟨rfl, fun _ => rfl⟩
theorem Page.resumeField f : Page.Statement (.resumeField f) := ⟨rfl, fun _ => rfl⟩
theorem Page.dump f area : Page.Statement (.dump f area) := ⟨rfl, fun _ => rfl⟩
theorem Page.invalidate f lo hi : Page.Statement (.invalidate f lo hi) := ⟨rfl, fun _ => rfl⟩
theorem Page.translationWalk x : Page.Statement (.translationWalk x) := ⟨rfl, fun _ => rfl⟩
theorem Page.faultResolve x : Page.Statement (.faultResolve x) := ⟨rfl, fun _ => rfl⟩
theorem Page.faultRefuse x : Page.Statement (.faultRefuse x) := ⟨rfl, fun _ => rfl⟩
theorem Page.queueRearm q : Page.Statement (.queueRearm q) := ⟨rfl, fun _ => rfl⟩
theorem Page.managementTableWrite t ws : Page.Statement (.managementTableWrite t ws) := ⟨rfl, fun _ => rfl⟩
theorem Page.groupTableWrite g ports valid local_ : Page.Statement (.groupTableWrite g ports valid local_) := ⟨rfl, fun _ => rfl⟩
theorem Page.senderTableRead c clear : Page.Statement (.senderTableRead c clear) := ⟨rfl, fun _ => rfl⟩
theorem Page.violationLogRead u : Page.Statement (.violationLogRead u) := ⟨rfl, fun _ => rfl⟩
theorem Page.refusalLogRead c : Page.Statement (.refusalLogRead c) := ⟨rfl, fun _ => rfl⟩
theorem Page.bellDiscardCountRead die bell : Page.Statement (.bellDiscardCountRead die bell) := ⟨rfl, fun _ => rfl⟩
theorem Page.errorLogRead u : Page.Statement (.errorLogRead u) := ⟨rfl, fun _ => rfl⟩
theorem Page.raceRingPlace c ring : Page.Statement (.raceRingPlace c ring) := ⟨rfl, fun _ => rfl⟩
theorem Page.traceRecordOffer k : Page.Statement (.traceRecordOffer k) := ⟨rfl, fun _ => rfl⟩
theorem Page.traceRecordProcess k : Page.Statement (.traceRecordProcess k) := ⟨rfl, fun _ => rfl⟩
theorem Page.traceStateWrite k v : Page.Statement (.traceStateWrite k v) := ⟨rfl, fun _ => rfl⟩
theorem Page.prog k addr : Page.Statement (.prog k addr) := ⟨rfl, fun _ => rfl⟩
theorem Page.traceLostRead k : Page.Statement (.traceLostRead k) := ⟨rfl, fun _ => rfl⟩
theorem Page.frameReceive port fr : Page.Statement (.frameReceive port fr) := ⟨rfl, fun _ => rfl⟩
theorem Page.packetAccept port : Page.Statement (.packetAccept port) := ⟨rfl, fun _ => rfl⟩
theorem Page.packetForward x : Page.Statement (.packetForward x) := ⟨rfl, fun _ => rfl⟩
theorem Page.ackReceived port seq : Page.Statement (.ackReceived port seq) := ⟨rfl, fun _ => rfl⟩
theorem Page.refusalReceived port seq : Page.Statement (.refusalReceived port seq) := ⟨rfl, fun _ => rfl⟩
theorem Page.corruptReceived port seq : Page.Statement (.corruptReceived port seq) := ⟨rfl, fun _ => rfl⟩
theorem Page.refusedResend port : Page.Statement (.refusedResend port) := ⟨rfl, fun _ => rfl⟩
theorem Page.controlFrameSend port : Page.Statement (.controlFrameSend port) := ⟨rfl, fun _ => rfl⟩
theorem Page.controlFrameReceive port fr : Page.Statement (.controlFrameReceive port fr) := ⟨rfl, fun _ => rfl⟩
theorem Page.timeSlew : Page.Statement .timeSlew := ⟨rfl, fun _ => rfl⟩
theorem Page.timeLoad : Page.Statement .timeLoad := ⟨rfl, fun _ => rfl⟩
theorem Page.message x : Page.Statement (.message x) := ⟨rfl, fun _ => rfl⟩
theorem Page.load x : Page.Statement (.load x) := ⟨rfl, fun _ => rfl⟩
theorem Page.store x : Page.Statement (.store x) := ⟨rfl, fun _ => rfl⟩
theorem Page.atomic x : Page.Statement (.atomic x) := ⟨rfl, fun _ => rfl⟩
theorem Page.response x : Page.Statement (.response x) := ⟨rfl, fun _ => rfl⟩
theorem Page.nack x : Page.Statement (.nack x) := ⟨rfl, fun _ => rfl⟩
theorem Page.weight x : Page.Statement (.weight x) := ⟨rfl, fun _ => rfl⟩
theorem Page.builtInHandler m : Page.Statement (.builtInHandler m) := ⟨rfl, fun _ => rfl⟩
theorem Page.multicastPacket x : Page.Statement (.multicastPacket x) := ⟨rfl, fun _ => rfl⟩
theorem Page.transferStart x : Page.Statement (.transferStart x) := ⟨rfl, fun _ => rfl⟩
theorem Page.transferPacketSend x : Page.Statement (.transferPacketSend x) := ⟨rfl, fun _ => rfl⟩
theorem Page.transferAck x bytes marked trimmed : Page.Statement (.transferAck x bytes marked trimmed) := ⟨rfl, fun _ => rfl⟩
theorem Page.transferComplete x : Page.Statement (.transferComplete x) := ⟨rfl, fun _ => rfl⟩
theorem Page.transferRefused r : Page.Statement (.transferRefused r) := ⟨rfl, fun _ => rfl⟩
theorem Page.retryLimit x : Page.Statement (.retryLimit x) := ⟨rfl, fun _ => rfl⟩
theorem Page.rmaWrite p key off data last : Page.Statement (.rmaWrite p key off data last) := ⟨rfl, fun _ => rfl⟩
theorem Page.rmaRead p key off len : Page.Statement (.rmaRead p key off len) := ⟨rfl, fun _ => rfl⟩
theorem Page.send p key msg total off data : Page.Statement (.send p key msg total off data) := ⟨rfl, fun _ => rfl⟩
theorem Page.taggedSend p key tag msg total off data : Page.Statement (.taggedSend p key tag msg total off data) := ⟨rfl, fun _ => rfl⟩
theorem Page.chime c : Page.Statement (.chime c) := ⟨rfl, fun _ => rfl⟩
theorem Page.chimeAgree c : Page.Statement (.chimeAgree c) := ⟨rfl, fun _ => rfl⟩
theorem Page.chimeDisagree c : Page.Statement (.chimeDisagree c) := ⟨rfl, fun _ => rfl⟩
theorem Page.tapInject c u lane results : Page.Statement (.tapInject c u lane results) := ⟨rfl, fun _ => rfl⟩
theorem Page.sweepResult k pass : Page.Statement (.sweepResult k pass) := ⟨rfl, fun _ => rfl⟩
theorem Page.requalification k bin : Page.Statement (.requalification k bin) := ⟨rfl, fun _ => rfl⟩
theorem Page.scanTest c : Page.Statement (.scanTest c) := ⟨rfl, fun _ => rfl⟩
theorem Page.scanTestAbort c : Page.Statement (.scanTestAbort c) := ⟨rfl, fun _ => rfl⟩
theorem Page.scanTestResult c signature : Page.Statement (.scanTestResult c signature) := ⟨rfl, fun _ => rfl⟩
theorem Page.repairPoint die col : Page.Statement (.repairPoint die col) := ⟨rfl, fun _ => rfl⟩
theorem Page.scrub u : Page.Statement (.scrub u) := ⟨rfl, fun _ => rfl⟩
theorem Page.commitDieRecord die : Page.Statement (.commitDieRecord die) := ⟨rfl, fun _ => rfl⟩
theorem Page.requestUpdate : Page.Statement .requestUpdate := ⟨rfl, fun _ => rfl⟩
theorem Page.passComponentTable comp : Page.Statement (.passComponentTable comp) := ⟨rfl, fun _ => rfl⟩
theorem Page.updateComponent comp : Page.Statement (.updateComponent comp) := ⟨rfl, fun _ => rfl⟩
theorem Page.requestFirmwareData off data : Page.Statement (.requestFirmwareData off data) := ⟨rfl, fun _ => rfl⟩
theorem Page.verifyComplete : Page.Statement .verifyComplete := ⟨rfl, fun _ => rfl⟩
theorem Page.applyComplete : Page.Statement .applyComplete := ⟨rfl, fun _ => rfl⟩
theorem Page.activateFirmware : Page.Statement .activateFirmware := ⟨rfl, fun _ => rfl⟩
theorem Page.monitorActivation : Page.Statement .monitorActivation := ⟨rfl, fun _ => rfl⟩
theorem Page.raiseMinSvn comp svn : Page.Statement (.raiseMinSvn comp svn) := ⟨rfl, fun _ => rfl⟩
theorem Page.pluginStop tenant : Page.Statement (.pluginStop tenant) := ⟨rfl, fun _ => rfl⟩
theorem Page.boot : Page.Statement .boot := ⟨rfl, fun _ => rfl⟩
theorem Page.getVersion : Page.Statement .getVersion := ⟨rfl, fun _ => rfl⟩
theorem Page.getCapabilities : Page.Statement .getCapabilities := ⟨rfl, fun _ => rfl⟩
theorem Page.negotiateAlgorithms : Page.Statement .negotiateAlgorithms := ⟨rfl, fun _ => rfl⟩
theorem Page.getDigests : Page.Statement .getDigests := ⟨rfl, fun _ => rfl⟩
theorem Page.getCertificate : Page.Statement .getCertificate := ⟨rfl, fun _ => rfl⟩
theorem Page.challenge nonce : Page.Statement (.challenge nonce) := ⟨rfl, fun _ => rfl⟩
theorem Page.getMeasurements index : Page.Statement (.getMeasurements index) := ⟨rfl, fun _ => rfl⟩
theorem Page.farMemoryBringup passed : Page.Statement (.farMemoryBringup passed) := ⟨rfl, fun _ => rfl⟩
theorem Page.zqCalibration k : Page.Statement (.zqCalibration k) := ⟨rfl, fun _ => rfl⟩
theorem Page.dataRetrain k passed : Page.Statement (.dataRetrain k passed) := ⟨rfl, fun _ => rfl⟩
theorem Page.thermalSample temp : Page.Statement (.thermalSample temp) := ⟨rfl, fun _ => rfl⟩
theorem Page.powerCapSet watts : Page.Statement (.powerCapSet watts) := ⟨rfl, fun _ => rfl⟩
theorem Page.powerCapWindow watts : Page.Statement (.powerCapWindow watts) := ⟨rfl, fun _ => rfl⟩
theorem Page.powerOnReset : Page.Statement .powerOnReset := ⟨rfl, fun _ => rfl⟩
theorem Page.rmaReadResponse x off data : Page.Statement (.rmaReadResponse x off data) := ⟨rfl, fun _ => rfl⟩
theorem Page.powerLoss : Page.Statement .powerLoss := ⟨rfl, fun _ => rfl⟩

end Sys2Proof.Laws
end

