-- ==== Sys2Proof/Tests/Slice0.lean ====
section
/-! SUPPORT. Tests: an ill-formed term for each check of well-formedness, words written out from the encodings of the spec, and for
each statement that has hypotheses a state and operands that meet them, clause by clause. -/

namespace Sys2Proof.Tests

-- One theorem after the other: together they would take more threads than the check allows.
set_option Elab.async false

open Sys2Proof.Machine

/-! ### Small states -/

/-- The context of a field of one cell. -/
def tctx : FieldCtx := { FieldCtx.zero with ctxid := 7, tenants := 0xFFFF, trapBase := 0x1010000 }
/-- A segment that maps the slice of cell 0. -/
def tseg : Seg := ⟨0x1000000, sliceSize, true, true, true, true, 1, false, 0, 0⟩
/-- A field of cell 0. -/
def tfield : Field := ⟨tctx, [tseg], 0, [], .running, false, false⟩
/-- A running frame with some registers. -/
def tframe (g : Regs) : Frame := { Frame.free with life := .running, act := 1, size := 64, g := g, pc := 0x1000000 }
/-- The site of a group of one word at the start of the segment. -/
def tsite : Site := ⟨0x1000000, 0x1000002, 0, [], 0⟩
/-- Frame 0 of cell 0. -/
def tc : Ctx := ⟨0, .scalar, 0, tsite⟩
/-- Cell 0 with one frame. -/
def tcell (f : Frame) : Cell := { Cell.reset with fieldV := true, frames := [(0, f)] }
/-- A state in which cell 0 is as given and its frame 0 executes. -/
def tof (x : Cell) : State :=
  { State.reset with
    fields := [(0, tfield)], cells := [(0, x)], acts := [(1, { Act.zero with slot := some 0 })], nextId := 2,
    cur := .group 0 .scalar 0 tsite }
/-- A state in which frame 0 of cell 0 executes, with some registers. -/
def ts (g : Regs) : State := tof (tcell (tframe g))
/-- A running engine program. -/
def tprog : Prog :=
  ⟨0, .vector, 1, Naming.zero, 0, 0, 0x1000000, [], 1, FrameCr.reset, .running, 0x1000000, none, none, none, none, none, false, 0, 0, none, []⟩
/-- The vector sequencer of cell 0. -/
def te : Ctx := ⟨0, .engine .vector, 0, tsite⟩
/-- A state in which the vector sequencer of cell 0 executes, with some registers. -/
def tse (g : Regs) : State :=
  { tof { Cell.reset with fieldV := true, vector := ⟨g, [], some 1⟩ } with
    progs := [(1, tprog)], cur := .group 0 (.engine .vector) 0 tsite }

/-- A computation that ends without a stop ends with a value and a state. -/
theorem ran {α : Type} {p : Except Stop α × State} (h : (match p.1 with | .ok _ => true | .error _ => false) = true) :
    ∃ o t, p = (.ok o, t) := by
  obtain ⟨x, t⟩ := p
  cases x with
  | error e => cases h
  | ok o => exact ⟨o, t, rfl⟩
/-- It ends without a stop, and its value and state are as said. -/
def okAnd {α : Type} (p : Except Stop α × State) (f : α → State → Bool) : Bool :=
  match p.1 with | .ok o => f o p.2 | .error _ => false

/-- A frame of 64 registers that holds nothing outstanding is clear. -/
theorem ts_clear (g : Regs) (k : Forced) (rs : List Int) (h : ∀ n ∈ rs, 0 ≤ n ∧ n < 64) : (ts g).Clear tc k rs :=
  ⟨fun _ => rfl, h, fun _ _ _ _ ho => absurd ho (List.not_mem_nil), rfl, fun _ _ hu => absurd hu (List.not_mem_nil)⟩
/-- An engine with sixteen registers is clear. -/
theorem tse_clear (g : Regs) (k : Forced) (rs : List Int) (h : ∀ n ∈ rs, 0 ≤ n ∧ n < 16) : (tse g).Clear te k rs :=
  ⟨fun h => absurd h (by decide), h, fun h => absurd h (by decide), rfl, fun _ _ hu => absurd hu (List.not_mem_nil)⟩
/-- Code stands at the start of the segment. -/
theorem ts_canGo (g : Regs) : (ts g).CanGo tc 0x1000000 := ⟨by decide, _, _, rfl⟩
/-- Code stands there for an engine. -/
theorem tse_canGo (g : Regs) : (tse g).CanGo te 0x1000000 := ⟨by decide, _, _, rfl⟩
/-- The segment of cell 0 is a region of its own. -/
theorem tseg_region (k : Nat) (h : k < sliceSize) : regionOf [tseg] (0x1000000 + k) = .seg 0 := by
  have hz : tseg.base = 0x1000000 := rfl
  have hl : tseg.len = sliceSize := rfl
  have hs : segAt [tseg] (0x1000000 + k) = some 0 := by simp [segAt, hz, hl, h]
  rw [regionOf, if_neg (by omega), if_neg (by omega), hs]
/-- Cell 0 owns its slice. -/
theorem tseg_owner (k : Nat) (h : k < sliceSize) : ownerCell (sliceAddr 0 0 + k) = some 0 := by
  have ha : sliceAddr 0 0 = sliceBase := by decide
  have hb : sliceBase + sliceSize < farBase := by decide
  rw [ownerCell, if_neg (by omega), if_pos (by omega), ha, Nat.add_sub_cancel_left, Nat.div_eq_of_lt h]
/-- The segment grants everything there. -/
theorem tseg_resolve (w : Option Nat) (need : Need) (k : Nat) (h : k < sliceSize) :
    resolve [tseg] w (0x1000000 + k) need = .sram (sliceAddr 0 0 + k) := by
  have hg : tseg.grants need = true := by cases need <;> rfl
  have ht : tseg.target (0x1000000 + k) = .sram (sliceAddr 0 (0 + (0x1000000 + k - 0x1000000))) := rfl
  rw [Nat.add_sub_cancel_left, Nat.zero_add] at ht
  simp [resolve, tseg_region k h, hg, ht, sliceAddr]
/-- A run of bytes of the slice lies in one region. -/
theorem tseg_one (k n : Nat) (h : k + n ≤ sliceSize) (hn : 0 < n) : oneRegion [tseg] (0x1000000 + k) n = true := by
  rw [oneRegion, show 0x1000000 + k + n - 1 = 0x1000000 + (k + n - 1) by omega, tseg_region k (by omega), tseg_region _ (by omega)]
  rfl
/-- Bytes of the slice of cell 0 stand in a plain run. -/
theorem plain_at {s : State} {w : Who} (hs : w.segs = [tseg]) (hg : s.segsOf 0 = [tseg]) (hf : s.fencedCell 0 = false)
    (hp : s.poison = []) (hl : s.follower 0 = none) (ha : s.atomics = []) (o n : Nat) (h : o + n ≤ sliceSize) :
    s.PlainRun w (0x1000000 + o) n (sliceAddr 0 0 + o) := by
  have hb : sliceAddr 0 0 + sliceSize < farBase := by decide
  have hz : sliceSize < 2 ^ 23 := by decide
  have own : ∀ k < n, ownerCell (sliceAddr 0 0 + o + k) = some 0 := fun k hk => by
    rw [Nat.add_assoc]; exact tseg_owner (o + k) (by omega)
  refine ⟨⟨by omega, by omega, fun k hk need => ?_, fun k hk => ?_, by simp [State.poisoned, hp]; omega, fun k hk => ?_,
    fun k hk c hc => ?_⟩, fun k hk => by simp [State.cold, ha]⟩
  · rw [hs, Nat.add_assoc, Nat.add_assoc]; exact tseg_resolve _ _ _ (by omega)
  · simp [State.flatFenced, own k hk, hf]
  · simp [State.raceOn, own k hk, hg, tseg]
  · rw [own k hk] at hc
    cases hc
    exact hl

/-! ### Witnesses: scalar instructions -/

theorem test_witness_ThreeAddressResults :
    ((Instr.remu none 63 0 15, 3, true) ∈ [(Instr.add none 63 0 15, 0, false), (.remu none 63 0 15, 3, true)]) ∧
    (ts []).At tc ∧ (ts []).Clear tc .no [63, 0, 15] := ⟨by decide, rfl, ts_clear _ _ _ (by decide)⟩
theorem test_witness_TwoAddressResults : (ts []).At tc ∧ (ts []).Clear tc .no [0, 63] := ⟨rfl, ts_clear _ _ _ (by decide)⟩
theorem test_witness_UnaryResults : (tse []).At te ∧ (tse []).Clear te .no [0, 15] := ⟨rfl, tse_clear _ _ _ (by decide)⟩
theorem test_witness_ImmediateResults : (ts []).At tc ∧ (ts []).Clear tc .no [63] := ⟨rfl, ts_clear _ _ _ (by decide)⟩
theorem test_witness_BitInsert : bitFieldOk 63 0 = true ∧ bitFieldOk 0 63 = true ∧ (ts []).At tc ∧ (ts []).Clear tc .no [62, 63] :=
  ⟨by decide, by decide, rfl, ts_clear _ _ _ (by decide)⟩
theorem test_witness_IndexRegisters : (ts []).At tc ∧ (ts []).Clear tc .no [63] ∧ (ts []).Clear tc .no [] :=
  ⟨rfl, ts_clear _ _ _ (by decide), ts_clear _ _ _ (by decide)⟩
theorem test_witness_Branches :
    let s := ts [(1, 5), (2, 7), (3, -1)]
    s.At tc ∧ s.Clear tc .no [1, 2] ∧ s.Clear tc .no [0] ∧ s.CanGo tc 0x1000000 ∧ s.reg tc 1 ≠ s.reg tc 2 ∧
    (s.reg tc 3).toInt < (s.reg tc 1).toInt ∧ (s.reg tc 1).toNat < (s.reg tc 3).toNat ∧ s.reg tc 0 = 0 ∧ s.reg tc 1 ≠ 0 ∧
    (s.reg tc 3).toInt < 0 ∧ 0 ≤ (s.reg tc 0).toInt :=
  ⟨rfl, ts_clear _ _ _ (by decide), ts_clear _ _ _ (by decide), ts_canGo _, by decide, by decide, by decide, by decide, by decide,
   by decide, by decide⟩
theorem test_witness_Jumps :
    let s := ts [(15, 0x1000000), (4, 0x1000000)]
    s.At tc ∧ s.Clear tc .no [15] ∧ s.Clear tc .no [63, 4] ∧ s.Clear tc .no [] ∧ s.CanGo tc ((s.reg tc 15).setWidth 48) ∧
    s.CanGo tc ((s.reg tc 4).setWidth 48) ∧ s.CanGo tc (tsite.pc + BitVec.ofInt 48 (2 * (0 : BitVec 50).toInt)) :=
  ⟨rfl, ts_clear _ _ _ (by decide), ts_clear _ _ _ (by decide), ts_clear _ _ _ (by decide), ts_canGo _, ts_canGo _, ts_canGo _⟩
/-- A frame with a value in x3. -/
def tx3 (n : BitVec 16) : State := tof (tcell { tframe [] with x := [(3, n)] })
theorem test_witness_CountedLoop :
    (∀ n ∈ [2, 1, 0, -1], (tx3 n).At tc ∧ (tx3 n).Clear tc .no [] ∧ (tx3 n).CanGo tc 0x1000000) ∧
    (1 < ((tx3 2).xreg tc 3).toInt ∧ ((tx3 1).xreg tc 3).toInt = 1 ∧ ((tx3 0).xreg tc 3).toInt ≤ 0) ∧
    (∀ n : Word, (tse [(14, n)]).At te ∧ (tse [(14, n)]).Clear te .no [14] ∧ (tse [(14, n)]).CanGo te 0x1000000) ∧
    (1 < ((tse [(14, 2)]).reg te 14).toInt ∧ ((tse [(14, 1)]).reg te 14).toInt = 1 ∧ ((tse []).reg te 14).toInt ≤ 0) := by
  refine ⟨fun n _ => ⟨rfl, ⟨fun _ => rfl, by simp, fun _ _ h => by simp at h, rfl, by simp⟩, by decide, _, _, rfl⟩, by decide, ?_, by decide⟩
  exact fun n => ⟨rfl, tse_clear _ _ _ (by decide), tse_canGo _⟩
theorem test_witness_NopOnlyAdvances : ((ts []).At tc ∧ (ts []).Clear tc .no []) ∧ (tse []).At te ∧ (tse []).Clear te .no [] :=
  ⟨⟨rfl, ts_clear _ _ _ (by decide)⟩, rfl, tse_clear _ _ _ (by decide)⟩
theorem test_witness_SystemInstructions :
    (ts []).At tc ∧ (ts []).Clear tc .no [63] ∧ (ts []).Clear tc .both [] ∧ (ts []).Clear tc ((ts []).gateForce tc) [] ∧
    (ts []).storesDone tc = true ∧ tc.cell < 4096 ∧ tc.slot < 16 :=
  ⟨rfl, ts_clear _ _ _ (by decide), ts_clear _ _ _ (by decide), ts_clear _ _ _ (by decide), by decide, by decide, by decide⟩
theorem test_witness_SoftwareTraps : (ts []).At tc ∧ (ts []).Clear tc .no [] := ⟨rfl, ts_clear _ _ _ (by decide)⟩
/-- A frame of sixteen registers. -/
def t16 : State := tof (tcell { tframe [] with size := 16 })
theorem test_witness_FrameBound :
    t16.At tc ∧ windowClosed (t16.fr tc).outst = false ∧
    (Instr.add none 0 16 1, [0, 16, 1]) ∈ Claims.scalarForms t16 tc none Attr.default ⟨false, false⟩ .b 0 16 1 0 0 0 0 0 0 0 0 0 0 0 ∧
    ([0, 16, 1] : List Int) = [0] ++ 16 :: [1] ∧ (∀ m ∈ [(0 : Int)], 0 ≤ m ∧ m < (t16.regLimit tc : Int)) ∧
    (t16.regLimit tc : Int) ≤ 16 :=
  ⟨rfl, rfl, by simp [Claims.scalarForms, State.regNo], rfl, by decide, by decide⟩
/-- An outstanding load of g5 with some instructions left in its window. -/
def tout (left : Nat) : Outst := ⟨1, [5], left, .int 8 true, .o, true, tsite⟩
/-- A frame that holds it. -/
def touts (left : Nat) : State := tof (tcell { tframe [] with outst := [tout left] })
theorem test_witness_LookaheadRules :
    (touts 0).At tc ∧ windowClosed ((touts 0).fr tc).outst = true ∧ (touts 1).At tc ∧
    windowClosed ((touts 1).fr tc).outst = false ∧ (∀ m ∈ [(5 : Int), 0, 63], 0 ≤ m ∧ m < (((touts 1).fr tc).size : Int)) ∧
    (Instr.add none 0 5 63, [0, 5, 63]) ∈
      Claims.scalarForms (touts 1) tc none Attr.default ⟨false, false⟩ .b 0 5 63 0 0 0 0 0 0 0 0 0 0 0 ∧
    ([0, 5, 63] : List Int) = [0] ++ 5 :: [63] ∧ (∀ j ∈ [(0 : Int)], ∀ o ∈ ((touts 1).fr tc).outst, j.toNat ∉ o.dests) ∧
    ∃ o ∈ ((touts 1).fr tc).outst, 5 ∈ o.dests :=
  ⟨rfl, by decide, rfl, by decide, by decide, by simp [Claims.scalarForms, State.regNo], rfl, by decide, by decide⟩
theorem test_witness_ControlRegisters :
    (ts []).At tc ∧ tc.unit = .scalar ∧ (ts []).Clear tc .no [63] ∧ (ts []).Clear tc .both [63] :=
  ⟨rfl, rfl, ts_clear _ _ _ (by decide), ts_clear _ _ _ (by decide)⟩

/-! ### Witnesses: memory instructions and steps of the memory system -/

/-- The last doubleword of the slice. -/
def tlast : Addr := 0x13FFFF8
/-- Memory attributes that wait for nothing. -/
def tattr : Attr := Attr.default
/-- A frame whose g1 holds the address of the last doubleword. -/
def tl : State := ts [(1, 0x13FFFF8)]
theorem test_witness_LoadsIssue :
    tl.At tc ∧ tl.Clear tc (if tattr.wait = .none then .no else tl.gateForce tc) [63, 1] ∧ tl.MayAccess tc .none tlast 8 8 ∧
    (tl.fr tc).outst.length < 4 ∧ tl.gatedClash tc (tl.resolveC tc tlast .r) (tl.resolveC tc tlast .r) 8 = false :=
  ⟨rfl, ts_clear _ _ _ (by decide), ⟨by decide, by decide, by decide, by decide⟩, by decide, by decide⟩
theorem test_witness_AcquireAndPairLoads :
    let s := ts [(1, 0x13FFFF0)]
    s.At tc ∧ (s.fr tc).outst.length < 4 ∧ s.Clear tc .both [62, 1] ∧ s.MayAccess tc .none 0x13FFFF0 8 8 ∧
    s.gatedClash tc (s.resolveC tc 0x13FFFF0 .r) (s.resolveC tc 0x13FFFF0 .r) 8 = false ∧ (62 : Int) % 2 = 0 ∧
    s.Clear tc .no [62, 1, 63] ∧ s.MayAccess tc .none 0x13FFFF0 8 16 ∧
    s.gatedClash tc (s.resolveC tc 0x13FFFF0 .r) (s.resolveC tc 0x13FFFF8 .r) 16 = false :=
  ⟨rfl, by decide, ts_clear _ _ _ (by decide), ⟨by decide, by decide, by decide, by decide⟩, by decide, by decide,
   ts_clear _ _ _ (by decide), ⟨by decide, by decide, by decide, by decide⟩, by decide⟩
theorem test_witness_StoresEnterTheBuffer :
    let s := ts [(1, 0x13FFFF0)]
    let e := SbKind.store 0x13FFFF0 (s.resolveC tc 0x13FFFF0 .w) (s.resolveC tc 0x13FFFF0 .w) (leBytes 8 0)
    let e2 := SbKind.store 0x13FFFF0 (s.resolveC tc 0x13FFFF0 .w) (s.resolveC tc 0x13FFFF8 .w) (leBytes 8 0 ++ leBytes 8 0)
    s.At tc ∧ s.bufferFull tc = false ∧ s.MayAccess tc .none 0x13FFFF0 8 8 ∧ s.countFull tc .o e = false ∧
    s.Clear tc .no [62, 1] ∧ s.Clear tc .both [62, 1] ∧ (s.marked tc).released tc ⟨true, true, true, false⟩ .system = true ∧
    s.Clear tc .no [62, 1, 63] ∧ s.MayAccess tc .none 0x13FFFF0 8 16 ∧ s.countFull tc .o e2 = false ∧
    s.PageKnown tc (s.resolveC tc 0x13FFFF0 .w) ∧ s.PageKnown tc (s.resolveC tc 0x13FFFF8 .w) :=
  ⟨rfl, by decide, ⟨by decide, by decide, by decide, by decide⟩, by decide, ts_clear _ _ _ (by decide), ts_clear _ _ _ (by decide),
   by decide, ts_clear _ _ _ (by decide), ⟨by decide, by decide, by decide, by decide⟩, by decide, ⟨rfl, nofun, nofun⟩,
   ⟨rfl, nofun, nofun⟩⟩
theorem test_witness_BadAddressesTrap :
    let s := ts [(1, 0x13FFFFC), (2, 0x13FFFF8)]
    s.At tc ∧ s.acqBlocked tc = false ∧ (s.fr tc).outst.length < 4 ∧ s.Clear tc .no [0, 1] ∧ s.Clear tc .no [0, 2, 1] ∧
    (s.reg tc 1).toNat % 8 ≠ 0 ∧ (s.reg tc 2).toNat % 8 = 0 ∧ oneRegion (s.segsOf tc.cell) 0x13FFFF8 16 = false ∧
    s.Clear tc .no [] ∧ (∀ q ∈ [(61 : Int), 1, 62], 0 ≤ q ∧ q < (s.regLimit tc : Int)) ∧ (61 : Int) % 2 ≠ 0 ∧
    s.bufferFull tc = false :=
  ⟨rfl, by decide, by decide, ts_clear _ _ _ (by decide), ts_clear _ _ _ (by decide), by decide, by decide, by decide,
   ts_clear _ _ _ (by decide), by decide, by decide, by decide⟩
theorem test_witness_PrefetchOnlyTranslates :
    t16.At tc ∧ t16.Clear tc .no [] ∧ (0 ≤ t16.regNo tc none 15 ∧ t16.regNo tc none 15 < (t16.regLimit tc : Int)) ∧
    ¬ (0 ≤ t16.regNo tc none 16 ∧ t16.regNo tc none 16 < (t16.regLimit tc : Int)) :=
  ⟨rfl, ⟨fun _ => rfl, by simp, fun _ _ h => by simp at h, rfl, by simp⟩, by decide, by decide⟩
/-- A frame of an activation with one class-A store in flight. -/
def tcnt : State := { ts [] with acts := [(1, { Act.zero with slot := some 0, cntA := 1 })] }
theorem test_witness_FencesOrder :
    (ts []).At tc ∧ (ts []).Clear tc (fenceForce (ts []) tc ⟨true, true, true, true⟩) [] ∧
    ((ts []).marked tc).released tc ⟨true, true, true, true⟩ .system = true ∧ tcnt.At tc ∧
    tcnt.Clear tc (fenceForce tcnt tc ⟨false, true, false, false⟩) [] ∧
    (tcnt.marked tc).released tc ⟨false, true, false, false⟩ .cell = false :=
  ⟨rfl, ts_clear _ _ _ (by decide), by decide, rfl, ⟨fun _ => rfl, by simp, fun _ _ h => by simp at h, rfl, by simp⟩, by decide⟩
theorem test_witness_AtomicsIssue :
    let s := ts [(2, 0x13FFFF8)]
    let e := SbKind.atomic 0x13FFFF8 (s.resolveC tc 0x13FFFF8 .atom) .cas false 0 0
    s.At tc ∧ s.MayAccess tc .none 0x13FFFF8 8 8 ∧ s.Clear tc .no [62, 2, 63] ∧ s.bufferFull tc = false ∧
    s.countFull tc .o e = false ∧ s.Clear tc .both [62, 2, 63] ∧ (s.fr tc).outst.length < 4 ∧
    s.PageKnown tc (s.resolveC tc 0x13FFFF8 .atom) :=
  ⟨rfl, ⟨by decide, by decide, by decide, by decide⟩, ts_clear _ _ _ (by decide), by decide, by decide, ts_clear _ _ _ (by decide),
   by decide, ⟨rfl, nofun, nofun⟩⟩
theorem test_witness_FrontsIssue :
    let s := ts [(2, 0x13FFFC0), (61, 32)]
    s.At tc ∧ s.Clear tc .both [61, 2, 62, 63] ∧ s.MayAccess tc .none 0x13FFFC0 64 64 ∧ (s.fr tc).outst.length < 4 ∧
    (s.reg tc 61).toNat % 32 = 0 :=
  ⟨rfl, ts_clear _ _ _ (by decide), ⟨by decide, by decide, by decide, by decide⟩, by decide, by decide⟩

/-- A doubleword store to the slice of cell 0. -/
def tstore : SbKind := .store 0x1000000 (.sram (sliceAddr 0 0)) (.sram (sliceAddr 0 0)) (leBytes 8 7)
/-- Its entry. -/
def tsb : SbEntry := ⟨1, 1, .o, 0, tsite, tstore, false, 0⟩
/-- A state with that entry in the store buffer. -/
def tsbs : State := tof { tcell (tframe []) with sb := [tsb] }
theorem test_witness_StoreBufferSends : (tsbs.cell 0).sb = tsb :: [] ∧ tsb.sent = false ∧ tsb.flight = 0 ∧
    tsb.kind = .store 0x1000000 (.sram (sliceAddr 0 0)) (.sram (sliceAddr 0 0)) (leBytes 8 7) := ⟨rfl, rfl, rfl, rfl⟩
/-- An access of activation 1 to the last doubleword of the slice of cell 0. -/
def tflight (op : MemOp) (st : FlightStage) (posted : Bool) : Flight :=
  ⟨.act 1, 0, 0, .o, op, tlast, .sram (sliceAddr 0 0x3FFFF8), .sram (sliceAddr 0 0x3FFFF8), posted, 0, tsite, none, 1, st⟩
/-- A state with one access in flight. -/
def tfs (f : Flight) : State := { ts [] with flights := [(1, f)] }
theorem test_witness_AccessesArePerformed :
    (let f := tflight (.store (leBytes 8 7)) .going true
     let s := tfs f
     AL.find s.flights 1 = some f ∧ s.behind 1 f = false ∧ s.heldByFront f = false ∧ s.flatFenced (sliceAddr 0 0x3FFFF8) = false ∧
     s.narrowPoison (sliceAddr 0 0x3FFFF8) 8 = false ∧ s.raceOn (sliceAddr 0 0x3FFFF8) = false ∧
     ∀ c, ownerCell (sliceAddr 0 0x3FFFF8) = some c → s.follower c = none) ∧
    (let f := tflight (.load 8) .going false
     let s := tfs f
     AL.find s.flights 1 = some f ∧ s.behind 1 f = false ∧ s.heldByFront f = false ∧ s.poisoned (sliceAddr 0 0x3FFFF8) 8 = false ∧
     forward (s.olderEntries f.cell (s.flightChecked f) f.order) (accessPieces f.target f.second 8) = .none) := by
  refine ⟨⟨rfl, by decide, by decide, by decide, by decide, by decide, ?_⟩, rfl, by decide, by decide, by decide, by decide⟩
  intro c h; cases h; rfl
theorem test_witness_LoadsForward :
    let f : Flight := ⟨.act 1, 0, 0, .o, .load 8, 0x1000000, .sram (sliceAddr 0 0), .sram (sliceAddr 0 0), false, 0, tsite, none, 2, .going⟩
    let s := { tsbs with flights := [(2, f)] }
    AL.find s.flights 2 = some f ∧ s.behind 2 f = false ∧ s.translated f = true ∧ s.heldByFront f = false ∧
    forward (s.olderEntries f.cell (s.flightChecked f) f.order) (accessPieces f.target f.second 8) = .data (leBytes 8 7) :=
  ⟨rfl, by decide, by decide, by decide, by decide⟩
theorem test_witness_StoresAreAcknowledged :
    (let f := tflight (.store (leBytes 8 7)) (.answered (.data [])) true
     AL.find (tfs f).flights 1 = some f ∧ AL.find (tfs f).acts 1 = some { Act.zero with slot := some 0 } ∧ (tfs f).notFirst 1 f = false) ∧
    (let f := tflight (.store (leBytes 8 7)) (.answered (.err ⟨1, tlast⟩)) true
     AL.find (tfs f).flights 1 = some f ∧ ((tfs f).frame 0 0).life ≠ .frozen ∧ ((tfs f).frame 0 0).trap = none ∧
     ((tfs f).frame 0 0).pend = none) :=
  ⟨⟨rfl, rfl, by decide⟩, rfl, by decide, rfl, rfl⟩
theorem test_witness_AtomicsArePerformed :
    let f := tflight (.atomic .add false 1 0) .going false
    let s := tfs f
    s.engineReady 0 = [(1, f)] ∧ AL.find s.flights 1 = some f ∧ s.flatFenced (sliceAddr 0 0x3FFFF8) = false ∧
    s.poisoned (sliceAddr 0 0x3FFFF8) 8 = false ∧ (∀ c, ownerCell (sliceAddr 0 0x3FFFF8) = some c → s.follower c = none) ∧
    (∀ q, f.issuer ≠ .line q) ∧
    (let g := { f with issuer := .line (.prog 1) }
     ({ s with flights := [(1, g)] } : State).engineReady 0 = [(1, g)]) := by
  refine ⟨by decide, rfl, by decide, by decide, ?_, nofun, by decide⟩
  intro c h; cases h; rfl
theorem test_witness_EnginesRelease :
    (({ ts [] with atomics := [(0, ⟨[5], [], []⟩)] } : State).atomicEngine 0).hot = 5 :: [] ∧
    (let f := tflight (.load 8) .going false
     let r : Resident := ⟨sliceAddr 0 0x3FFFC0, [sliceAddr 0 0x3FFFC0 / 64]⟩
     let s := { tfs f with atomics := [(0, ⟨[], [r], []⟩)] }
     (s.atomicEngine 0).fronts.find? (fun q => q.obj == sliceAddr 0 0x3FFFC0) = some r ∧ (1, f) ∈ s.flights ∧ f.stage = .going ∧
     f.op.plain = true ∧ sliceAddr 0 0x3FFFF8 ∈ s.flatsOf f ∧ sliceAddr 0 0x3FFFF8 / 64 ∈ r.lines) :=
  ⟨rfl, by decide, by decide, rfl, by decide, by decide, by decide⟩

/-! ### Witnesses: pages, completions, messages, traps, bells -/

/-- A segment of far memory. -/
def tfar : Seg := ⟨0x4000000, 0x10000, true, true, false, true, 3, false, 0, 0⟩
/-- A state with an access to far memory, a field whose tables stand at an address, and some memory. -/
def tpg (st : FlightStage) (m : Memory) (fs : AL PageFault) : State :=
  { ts [] with
    fields := [(0, ⟨{ tctx with root := 0x2000 }, [tseg, tfar], 0, [], .running, false, false⟩)], mem := m, faults := fs,
    flights := [(1, { tflight (.load 8) st false with va := 0x4000000, target := .far 0x4000000, second := .far 0x4000000 })] }
/-- Tables with one leaf of 2 MiB for the first page of that segment. -/
def ttables : Memory := (Memory.setBytes [] (farAddr 0x2000) (leBytes 8 0x40001)).setBytes (farAddr 0x40100) (leBytes 8 0x20007D)
/-- The agent of that page with some walks under way. -/
def tpgw (m : Memory) (ws : List Walk) : State := { tpg .going m [] with agents := [(agentOf 0x4000000, ⟨[], ws, [], []⟩)] }
theorem test_witness_PagesAreTranslated :
    (let f := { tflight (.load 8) .going false with va := 0x4000000, target := .far 0x4000000, second := .far 0x4000000 }
     let s := tpg .going [] []
     AL.find s.flights 1 = some f ∧ s.missing f = some 0x4000000 ∧ s.cachedLeaf f.field 0x4000000 = none ∧
     s.walk f.field 0x2000 0x4000000 = none ∧ s.faults = [] ∧
     (tpg .going ttables []).walk f.field 0x2000 0x4000000 = some ⟨0, 0x4000000, 2 ^ 21, 0x200000, 15⟩) ∧
    (let w : Walk := ⟨0, 0x4000000 / 65536⟩
     let f := { tflight (.load 8) .going false with va := 0x4000000, target := .far 0x4000000, second := .far 0x4000000 }
     let g := fun (s : State) => s.agent (agentOf 0x4000000)
     (w ∉ (g (tpgw [] [])).walks ∧ (g (tpgw [] [])).walks.length < 64 ∧ (tpgw [] []).firstMiss (g (tpgw [] [])) = none) ∧
     (let s := tpgw [] (List.replicate 64 ⟨9, 9⟩)
      w ∉ (g s).walks ∧ 64 ≤ (g s).walks.length ∧ .flight 1 ∉ (g s).waiting) ∧
     (w ∈ (g (tpgw ttables [w])).walks ∧ (tpgw ttables [w]).walkPoison 0x2000 0x4000000 = none ∧
       (tpgw ttables [w]).walk 0 0x2000 0x4000000 = some ⟨0, 0x4000000, 2 ^ 21, 0x200000, 15⟩) ∧
     (w ∈ (g (tpgw [] [w])).walks ∧ (tpgw [] [w]).walkPoison 0x2000 0x4000000 = none ∧ (tpgw [] [w]).walk 0 0x2000 0x4000000 = none ∧
       (tpgw [] [w]).joined w = [(1, f, 0x4000000)])) ∧
    (let f := { tflight (.load 8) .faulted false with va := 0x4000000, target := .far 0x4000000, second := .far 0x4000000 }
     let s := tpg .faulted [] [(2, ⟨0, 0x4000000, f.op.faultOp, [⟨.flight 1, 0x4000000, f.op.faultOp, .o, 3⟩]⟩)]
     AL.find s.faults 2 = some ⟨f.field, 0x4000000, f.op.faultOp, [⟨.flight 1, 0x4000000, f.op.faultOp, .o, 3⟩]⟩ ∧ AL.find s.flights 1 = some f ∧
     s.runOf (.flight 1) = none ∧ ∀ q, f.issuer ≠ .line q) :=
  ⟨⟨rfl, by decide, by decide, by decide, rfl, by decide +kernel⟩,
   ⟨⟨by decide, by decide, by decide⟩, ⟨by decide, by decide, by decide⟩, ⟨by decide, by decide +kernel, by decide +kernel⟩, by decide,
    by decide +kernel, by decide, by decide⟩, rfl, rfl, rfl, nofun⟩
/-- A frame with an outstanding instruction of one format into some registers. -/
def tld (fmt : LoadFmt) (ds : List Nat) (st : FlightStage) : State :=
  { tof (tcell { tframe [] with outst := [{ tout 3 with fmt := fmt, dests := ds }] }) with
    flights := [(1, tflight (.load 8) st false)] }
theorem test_witness_LoadsComplete :
    (∀ p ∈ [(LoadFmt.int 8 true, [5], FlightStage.answered (.data (leBytes 8 7))), (.pair, [4, 5], .answered (.data (leBytes 16 7))),
        (.regs, [4, 5], .answered (.words [0, 1])), (.int 8 true, [5], .answered (.err ⟨1, tlast⟩))],
      let s := tld p.1 p.2.1 p.2.2
      AL.find s.flights 1 = some (tflight (.load 8) p.2.2 false) ∧ (s.act 1).slot = some 0 ∧
      (s.frame 0 0).outst.find? (fun o => o.flight == 1) = some { tout 3 with fmt := p.1, dests := p.2.1 } ∧
      s.flights.all (fun p => !(p.2.issuer == .atomic 1)) = true ∧ (s.frame 0 0).life = .running ∧
      (s.frame 0 0).trap = none ∧ (s.frame 0 0).pend = none) ∧
    (4 ≠ 5 ∧ [4, 5].Nodup ∧ ([0, 1] : List Word).length = [4, 5].length) := by
  refine ⟨fun p h => ?_, by decide, by decide, rfl⟩
  simp only [List.mem_cons, List.not_mem_nil, or_false] at h
  rcases h with rfl | rfl | rfl | rfl <;> exact ⟨rfl, rfl, rfl, by decide, rfl, rfl, rfl⟩
theorem test_witness_LateRefusalsAreKept :
    let f := tflight (.store (leBytes 8 7)) (.answered (.err ⟨1, tlast⟩)) true
    (let s := { tof (tcell { tframe [] with life := .frozen }) with flights := [(1, f)] }
     AL.find s.flights 1 = some f ∧ AL.find s.acts 1 = some { Act.zero with slot := some 0 } ∧ (s.frame 0 0).life = .frozen ∧ s.notFirst 1 f = false) ∧
    (let s := { ts [] with
       flights := [(1, f)], acts := [(1, Act.zero)],
       fields := [(0, { tfield with trapUse := List.range 16 })] }
     AL.find s.flights 1 = some f ∧ AL.find s.acts 1 = some Act.zero ∧ s.fieldOf 0 = some { tfield with trapUse := List.range 16 } ∧
     ({ tfield with trapUse := List.range 16 } : Field).trapEntry = none) :=
  ⟨⟨rfl, rfl, rfl, by decide⟩, rfl, rfl, rfl, by decide⟩

/-- A message to cell 0 for a handler, with a weight. -/
def tmsg (h : Addr) (w : Nat) : Msg := { Msg.zero with handler := h, words := [1, 2, 3, 4], scope := 5, w := w, src := 0 }
/-- It stands in slot 0. -/
def tslot (h : Addr) (w : Nat) : InSlot := ⟨tmsg h w, 0, 1, some 2, none, none, false, false⟩
theorem test_witness_MessagesArrive :
    let f : MsgFlight := ⟨tmsg 0x1000000 1, 0⟩
    let s := { tof { Cell.reset with fieldV := true } with msgs := [(1, f)] }
    AL.find s.msgs 1 = some f ∧ s.queued 1 f = false ∧ s.msgBehind 1 f = false ∧ f.msg.handler ≠ doorbellHandler ∧
    (s.cell 0).scan = .none ∧ s.sourceFenced f.msg = false ∧ s.fencedCell 0 = false ∧ (s.cell 0).service = true ∧
    s.follower 0 = none ∧ s.freeInSlot 0 f.msg.tenant = some 0 := by
  refine ⟨rfl, by decide, by decide, by decide, rfl, by decide, by decide, rfl, rfl, by decide +kernel⟩
/-- A message to cell 0 from a unit, with weight in a scope whose home is there; cell 0 in service or not, its field fenced or not, and cell
1 in another field. -/
def tarr (src : BitVec 24) (fence svc : Bool) (slots : AL InSlot) : State :=
  { tof Cell.reset with
    cells := [(0, { Cell.reset with fieldV := true, service := svc, slots := slots }), (1, { Cell.reset with fieldV := true, field := 1 })],
    fields := [(0, { tfield with fenced := fence }), (1, tfield)], msgs := [(1, ⟨{ tmsg 0x1000000 1 with src := src }, src⟩)] }
theorem test_witness_MessagesAreRefused :
    (∀ a ∈ [(0x000001 : BitVec 24), 0x001000], ∀ b ∈ [(true, true), (false, false)],
      let s := tarr a b.1 b.2 []
      let f : MsgFlight := ⟨{ tmsg 0x1000000 1 with src := a }, a⟩
      AL.find s.msgs 1 = some f ∧ s.queued 1 f = false ∧ s.msgBehind 1 f = false ∧ f.msg.handler ≠ doorbellHandler ∧
      (s.cell 0).scan = .none ∧ s.sourceFenced f.msg = false ∧ s.fencedCell 0 = b.1 ∧ (s.cell 0).service = b.2 ∧
      f.msg.nack = false ∧ f.msg.replica = none ∧ f.msg.hub = false ∧ f.msg.w ≠ 0 ∧ devOf (homeOf f.msg.scope) = s.devNum) ∧
    devOf (0x000001 : BitVec 24) = (tarr 1 true true []).devNum ∧ devOf (0x001000 : BitVec 24) ≠ (tarr 1 true true []).devNum ∧
    (tarr 1 true true []).fieldOf (cellOf 1) = some tfield ∧
    (tarr 0 true true []).sourceFenced { tmsg 0x1000000 1 with src := 0 } = true := by
  refine ⟨fun a ha b hb => ?_, by decide⟩
  simp only [List.mem_cons, List.not_mem_nil, or_false] at ha hb
  rcases ha with rfl | rfl <;> rcases hb with rfl | rfl <;>
    exact ⟨rfl, by decide, by decide, by decide, rfl, by decide, by decide, rfl, rfl, rfl, rfl, by decide, by decide⟩
theorem test_witness_MessagesWait :
    (tarr 1 false true ((List.range 512).map (fun k => (k, { tslot 0 1 with pool := true })))).freeInSlot 0 0 = none := by decide +kernel
/-- A cell with one message in its input buffer. -/
def tdisp (p : InSlot) (m : Memory) (cancels : List (BitVec 32)) : State :=
  { tof { Cell.reset with fieldV := true, slots := [(0, p)], cancels := cancels, tags := [(0, ⟨true, 2, 0⟩)] } with mem := m, cur := .none }
/-- A descriptor of a mobile handler with a frame of 16 registers, at the start of the slice. -/
def tdesc : Memory := Memory.setBytes [] (sliceAddr 0 0) (leBytes 8 0x31048445348)
theorem test_witness_DispatchLoadsAFrame :
    let s := tdisp (tslot 0x1000000 1) tdesc []
    s.mayDispatch 0 = true ∧ (∃ ch, s.nextDispatch 0 = some (0, tslot 0x1000000 1, ch)) ∧ (s.cell 0).overflow = false ∧
    (tslot 0x1000000 1).query = none ∧ (tslot 0x1000000 1).stolen = none ∧
    s.notified 0 5 = false ∧ s.follower 0 = none ∧ (tslot 0x1000000 1).msg.words = [1, 2, 3, 4] ∧
    (∃ d, s.readDescriptor 0 (.input 0 0) 0x1000000 = (.ok d, s)) ∧ (s.freeFrames 0).head? = some 0 :=
  ⟨by decide +kernel, ⟨_, rfl⟩, rfl, rfl, rfl, by decide, rfl, rfl, ⟨_, rfl⟩, by decide +kernel⟩
theorem test_witness_DispatchRefuses :
    (let s := tdisp (tslot 0x1000000 1) [] [5]
     s.mayDispatch 0 = true ∧ (∃ ch, s.nextDispatch 0 = some (0, tslot 0x1000000 1, ch)) ∧ (s.cell 0).overflow = false ∧
     s.follower 0 = none ∧ s.notified 0 5 = true ∧ devOf (homeOf 5) = s.devNum) ∧
    (let s := tdisp (tslot 0 0) [] []
     s.mayDispatch 0 = true ∧ (∃ ch, s.nextDispatch 0 = some (0, tslot 0 0, ch)) ∧ s.notified 0 5 = false ∧
     (AL.get TagEntry.reset (s.cell 0).tags 0).handler = 0) :=
  ⟨⟨by decide +kernel, ⟨_, rfl⟩, rfl, rfl, by decide, by decide⟩, by decide +kernel, ⟨_, rfl⟩, by decide, by decide⟩
/-- A frame that has issued `done`. -/
def tdone : State := tof (tcell { tframe [] with life := .done })
theorem test_witness_ActivationsRetire :
    (tdone.mayRetire 0 0 = true ∧ (tdone.frame 0 0).trap = none ∧ (tdone.cell 0).paired = false ∧
      AL.find tdone.acts 1 = some { Act.zero with slot := some 0 }) ∧
    (let a := { Act.zero with holdings := [⟨5, 3⟩] }
     let s := { tof Cell.reset with acts := [(1, a)] }
     AL.find s.acts 1 = some a ∧ a.dead = [] ∧ s.drained 1 a = true ∧ devOf (homeOf 5) = s.devNum) :=
  ⟨⟨by decide, rfl, rfl, rfl⟩, rfl, rfl, by decide, by decide⟩
/-- Two cells of a cluster; every frame of the second runs, and it holds a message for a mobile handler. -/
def tsteal (inc : List InSlot) : State :=
  { tof Cell.reset with
    cells := [(0, { Cell.reset with fieldV := true, incoming := inc }),
              (1, { Cell.reset with fieldV := true, slots := [(0, tslot 0x1000000 1)], tags := [(0, ⟨true, 3, 0⟩)],
                                    frames := (List.range 16).map (fun k => (k, tframe [])) })],
    fields := [(0, { tfield with ctx := { tctx with w := 2 } })], mem := tdesc }

/-- A frozen frame with a trap. -/
def ttrap (st : TrapStage) : Trap := ⟨0x08, tsite, 0x1000001, 0x1000002, st, 1⟩
/-- A state with that frame, in a field with some entries of its trap area in use. -/
def ttr (st : TrapStage) (use : List Nat) : State :=
  { tof (tcell { tframe [] with life := .frozen, trap := some (ttrap st) }) with fields := [(0, { tfield with trapUse := use })] }
/-- A trap record that is written is written to some state. -/
theorem written {x : TrapWrite} (h : (match x with | .done _ _ => true | .wait _ => false) = true) : ∃ s ra, x = .done s ra := by
  cases x with
  | done s ra => exact ⟨s, ra, rfl⟩
  | wait s => cases h
theorem test_witness_TrapsAreRecorded :
    (let s := ttr .raised (List.range 16)
     (s.frame 0 0).trap = some (ttrap .raised) ∧ (s.frame 0 0).life = .frozen ∧ (s.frame 0 0).outst = [] ∧
     AL.has (s.cell 0).pairs 0 = false ∧ s.follower 0 = none ∧ s.fieldOf 0 = some { tfield with trapUse := List.range 16 } ∧
     ({ tfield with trapUse := List.range 16 } : Field).trapEntry = none) ∧
    (let s := ttr .raised []
     s.fieldOf 0 = some tfield ∧ tfield.trapEntry = some 0 ∧ s.isWaiting (.frame 0 0) = false ∧
     ∃ s1 ra, s.writeTrap 0 tfield 0 (ttrap .raised) 0 0 (s.actOf 0 0).naming (some (snapshot (s.frame 0 0))) (.frame 0 0) =
       .done s1 ra) :=
  ⟨⟨rfl, rfl, rfl, rfl, rfl, rfl, by decide⟩, rfl, by decide, by decide, written (by decide +kernel)⟩
theorem test_witness_DeferredTrapsAreRecorded :
    let s := ttr .deferred []
    s.deferredTraps 0 = [.frame 0 0 (ttrap .deferred)] ∧ s.fieldOf 0 = some tfield ∧ tfield.trapEntry = some 0 ∧
    ∃ s1 ra, s.writeTrap 0 tfield 0 (ttrap .deferred) 0 0 (s.actOf 0 0).naming (some (snapshot (s.frame 0 0))) (.frame 0 0) =
      .done s1 ra := ⟨rfl, rfl, by decide, written (by decide +kernel)⟩
theorem test_witness_TrapRecordLayout :
    (ttrap .raised).cause < 256 ∧ tsite.page < 16 ∧ ({ tsite with pfx := [0, 0, 0, 0] } : Site).pfx.length ≤ 4 := by decide
/-- A state whose vector program has raised a trap. -/
def tetr (use : List Nat) : State :=
  { tse [] with progs := [(1, { tprog with life := .frozen, trap := some (ttrap .raised) })],
                fields := [(0, { tfield with trapUse := use })] }
theorem test_witness_EngineTrapsAreRecorded :
    (let s := tetr (List.range 16)
     let x : Prog := { tprog with life := .frozen, trap := some (ttrap .raised) }
     s.progs.find? (fun p => p.2.cell == 0 && p.2.unit == .vector &&
       (match p.2.trap with | some t => t.stage == .raised | none => false) && s.writesDone p.1) = some (1, x) ∧
     s.fieldOf 0 = some { tfield with trapUse := List.range 16 }) ∧
    (let s := tetr []
     s.isWaiting (.prog 1) = false ∧ tprog.life ≠ .refused ∧ tprog.unit = .vector ∧
     ∃ s1 ra, s.writeTrap 0 tfield 0 (ttrap .raised) (unitCode (.engine .vector)) 0 Naming.zero
       (some (snapshotE ((s.cell 0).engine .vector).e)) (.prog 1) = .done s1 ra) :=
  ⟨⟨rfl, rfl⟩, by decide, by decide, rfl, written (by decide +kernel)⟩
/-- A frame whose trap has been recorded in entry 0. -/
def tvd : State := ttr (.recorded 0 0x1010000) [0]
theorem test_witness_VerdictsOnFrames :
    tvd.holderOf 0 0x1010000 = some (.frame 0 0) ∧ AL.find tvd.acts 1 = some { Act.zero with slot := some 0 } ∧
    ({ Act.zero with slot := some 0 } : Act).kept = none ∧ ({ Act.zero with slot := some 0 } : Act).checked = false ∧
    tvd.waitOf (.frame 0 0) = .none ∧ (tvd.cell 0).pairs = [] ∧
    ∃ snap, (readEntry (tvd.whoCell 0 (.frame 0 0)) 0x1010000).exec tvd = (.ok (0, 0, snap), tvd) :=
  ⟨by decide, rfl, rfl, rfl, rfl, rfl, List.replicate 80 0, by decide +kernel⟩
/-- A die whose bell 0 has cell 0 as its only member, which has arrived. -/
def tbell : State :=
  { ts [] with
    bells := [(0, ⟨0x10000000001, some 0, [0], 0, 0, 0⟩)], arrivals := [(1, ⟨0, 0, some 0⟩)],
    dues := [⟨0, 1, [Msg.zero]⟩] }
theorem test_witness_BellsRing :
    bitAt (tbell.bell 0 0).cfg 0 = true ∧ bellDies (tbell.bell 0 0).cfg = [0] ∧
    bits (tbell.bell 0 0).cfg 63 48 ≤ (tbell.bell 0 0).ext ∧
    (∀ c ∈ bellMembers (tbell.bell 0 0).cfg, c ∈ (tbell.bell (dieOf c) 0).latches ∧ AL.has (tbell.cell c).slots 512 = false) ∧
    tbell.dues.find? (fun d => d.die == bellRoot (tbell.bell 0 1).cfg 0 && d.bell == 1) = some ⟨0, 1, [Msg.zero]⟩ ∧ tbell.follower 0 = none ∧
    AL.has (tbell.cell (cellOf Msg.zero.dst)).slots (512 + 1) = false ∧
    AL.find tbell.arrivals 1 = some ⟨0, 0, some 0⟩ :=
  ⟨by decide, by decide, by decide, by decide, by decide, rfl, by decide, rfl⟩
theorem test_witness_CellsSteal :
    (let s := tsteal []
     s.probes 0 = true ∧ (∃ p, s.loot 0 = [(1, 0, p)]) ∧ (s.freeFrames 0).head? = some 0 ∧ 1 ≠ 0 ∧ s.follower 1 = none) ∧
    (let s := tsteal [tslot 0 1]
     (s.cell 0).incoming = tslot 0 1 :: [] ∧ s.poolRoom 0 = true ∧ (List.range 512).find? (fun k => !AL.has (s.cell 0).slots k) = some 0) :=
  ⟨⟨by decide +kernel, ⟨_, rfl⟩, by decide +kernel, by decide, rfl⟩, rfl, by decide +kernel, by decide +kernel⟩

/-! ### Witnesses: sends, tags, bells and scopes -/

/-- A frame of an activation that holds weight in scope 0. -/
def th (g : Regs) (w : Nat) (x : Cell) : State :=
  { tof { x with frames := [(0, tframe g)], fieldV := true } with
    acts := [(1, { Act.zero with slot := some 0, holdings := [⟨0, w⟩] })],
    bells := [(0, ⟨0x10000000001, some 0, [], 0, 0, 0⟩), (1, ⟨0x1010000000001, some 0, [0], 0, 0, 0⟩),
      (3, ⟨0x10000000001, some 0, [0], 0, 0, 0⟩)] }
/-- It is clear. -/
theorem th_clear (g : Regs) (w : Nat) (x : Cell) (hx : AL.has x.pairs 0 = false) (k : Forced) (rs : List Int)
    (h : ∀ n ∈ rs, 0 ≤ n ∧ n < 64) : (th g w x).Clear tc k rs :=
  ⟨fun _ => rfl, h, fun _ _ _ _ ho => absurd ho (List.not_mem_nil), by
    have hc : (th g w x).checkedC tc = false := by
      have : (th g w x).checkedC tc = AL.has x.pairs 0 := rfl
      rw [this, hx]
    simp [State.pairGate, hc], fun _ _ hu => absurd hu (List.not_mem_nil)⟩
/-- A cell at reset is clear. -/
theorem thr_clear (g : Regs) (w : Nat) (k : Forced) (rs : List Int) (h : ∀ n ∈ rs, 0 ≤ n ∧ n < 64) :
    (th g w Cell.reset).Clear tc k rs := th_clear g w _ rfl k rs h
theorem test_witness_SendTargets :
    handlerWordOk 0x1000001 = false ∧ handlerWordOk 0x1000000 = true ∧ handlerWordOk 0x0100000001000000 = true ∧
    bits 0xFF000000 31 24 ≠ 0 ∧ (th [] 8 Cell.reset).targetOk 0 0 = true ∧ (th [] 8 Cell.reset).targetOk 0 1 = false ∧
    (th [] 8 Cell.reset).stageCell 0 0 0 = none ∧ (th [] 8 Cell.reset).ownerOf 0 0x13FFFFF = some 0 ∧
    (th [] 8 Cell.reset).ownerOf 0 0xFFFFFFFFFFFF = none ∧
    ({ th [] 8 Cell.reset with fields := [(0, { tfield with ctx := { tctx with stages := [1] } })] } : State).stageCell 0 0 0
      = some 0 := by
  decide +kernel
/-- Registers of a send to cell 0: destination in g1, block in g2 to g6. -/
def tsnd : Regs := [(2, 0x1000000), (3, 1), (4, 2), (5, 3), (6, 4)]
theorem test_witness_SendsQueueMessages :
    (let s := th tsnd 8 Cell.reset
     s.At tc ∧ s.checkedC tc = false ∧ s.Clear tc .leader [63, 1, 2, 3, 4, 5, 6] ∧ (s.marked tc).waitOk tc tattr.wait = true ∧
     s.acqBlocked tc = false ∧ (s.fr tc).pend = none ∧ s.planSend tc .one (s.reg tc 2) (s.reg tc 1) = .inl ⟨0, 0, [0]⟩ ∧
     s.planSend tc .one (s.reg tc 3) (s.reg tc 1) = .inr 5 ∧ holdingOf (s.actC tc).holdings 0 = some ⟨0, 8⟩ ∧
     (s.cell 0).overflow = false ∧ AL.find s.acts (s.fr tc).act ≠ none ∧ s.notified 0 0 = false ∧ needsMint 1 8 0 = false ∧
     (s.cell 0).outq.length + 1 ≤ 16 ∧ s.flights = [] ∧ devOf 0 = s.devNum ∧ (s.marked tc).admits tc .o 0 = true) ∧
    (th [] 8 { Cell.reset with cancels := [0] }).notified 0 0 = true ∧
    holdingOf ((ts []).actC tc).holdings ((ts []).actC tc).naming.scope = none :=
  ⟨⟨rfl, rfl, thr_clear _ _ _ _ (by decide), by decide, by decide, rfl, by decide +kernel, by decide +kernel, by decide, rfl,
    by decide, by decide, by decide, by decide, rfl, by decide, by decide⟩, by decide, by decide⟩
theorem test_witness_RouteTags :
    (th [] 8 Cell.reset).At tc ∧ (th [] 8 Cell.reset).checkedC tc = false ∧ (th [] 8 Cell.reset).Clear tc .leader [63, 0] :=
  ⟨rfl, rfl, thr_clear _ _ _ _ (by decide)⟩
/-- A cell with a bare bell of weight 3 and a continuation in bell 0. -/
def tbells : Cell := { Cell.reset with bells := [(0, ⟨some { Msg.zero with w := 3 }, none⟩), (1, ⟨none, some Msg.zero⟩)] }
theorem test_witness_BellArrivals :
    (let s := th [(1, 8)] 8 Cell.reset
     s.At tc ∧ s.checkedC tc = false ∧ (s.fr tc).pend = none ∧ holdingOf (s.actC tc).holdings 0 = some ⟨0, 8⟩ ∧
     (s.cell 0).overflow = false ∧ s.notified 0 0 = false ∧ s.Clear tc .leader [63, 1] ∧ s.Clear tc .leader [63, 1, 2, 3, 4, 5] ∧
     7 < (s.reg tc 1).toNat ∧ (s.reg tc 0).toNat ≤ 7 ∧ s.member 0 0 = true ∧ s.member 0 2 = false ∧ 0 ∉ (s.bell 0 0).latches ∧
     0 ∈ (s.bell 0 1).latches ∧ s.tryClose 0 0 = none ∧ s.tryClose 0 1 = none ∧ s.tryClose 0 2 = none ∧
     (∃ u, s.tryClose 0 3 = some u) ∧ (∀ u ∈ s.tryClose 0 3, u.tryClose 0 3 = none) ∧ ((s.cell 0).bellReg 0).cont = none ∧ ((s.cell 0).bellReg 0).bare = none) ∧
    (let s := th [] 8 tbells
     s.tryClose 0 0 = none ∧ s.tryClose 0 1 = none ∧ ((s.cell 0).bellReg 1).cont.isSome = true ∧ ((s.cell 0).bellReg 0).bare = some { Msg.zero with w := 3 } ∧
     devOf (homeOf 0) = s.devNum) :=
  ⟨⟨rfl, rfl, rfl, by decide, rfl, by decide, thr_clear _ _ _ _ (by decide), thr_clear _ _ _ _ (by decide), by decide, by decide,
    by decide, by decide, by decide, by decide, by decide, by decide, by decide, ⟨_, rfl⟩, by decide, rfl, rfl⟩, by decide, by decide,
   by decide, rfl, by decide⟩
/-- A frame that waits for the answer of a scope's home, which has come. -/
def tans (st : Nat) (sent : Nat) (v : Word) : State :=
  tof { Cell.reset with
    fieldV := true, scopes := [(0, { ScopeRec.free with life := .open })],
    frames := [(0, { tframe [] with pend := some ⟨st, sent, some v, [], 0, [], none, 0, [], [], none⟩ })] }
/-- It is clear. -/
theorem tans_clear (st sent : Nat) (v : Word) (k : Forced) (rs : List Int) (h : ∀ n ∈ rs, 0 ≤ n ∧ n < 64) :
    (tans st sent v).Clear tc k rs := ⟨fun _ => rfl, h, fun _ _ _ _ ho => absurd ho (List.not_mem_nil), rfl, fun _ _ hu => absurd hu (List.not_mem_nil)⟩
theorem test_witness_ScopeRequests :
    (let s := th [(1, 1), (63, 5)] 8 Cell.reset
     s.At tc ∧ s.checkedC tc = false ∧ s.Clear tc .leader [63] ∧ s.Clear tc .leader [63, 1, 2, 3, 4, 5] ∧ (s.fr tc).pend = none ∧
     (holdingOf (s.actC tc).holdings 0).isSome = true ∧ holdingOf (s.actC tc).holdings 5 = none ∧
     handlerWordOk (s.reg tc 1) = false ∧ handlerWordOk (s.reg tc 2) = true ∧ devOf (homeOf 0) = s.devNum) ∧
    (let s := tans 5 0 1
     s.At tc ∧ s.checkedC tc = false ∧ (∃ p, (s.fr tc).pend = some p ∧ p.stage = 5 ∧ p.answer = some 1) ∧
     s.Clear tc .leader [63] ∧ s.Clear tc .leader [63, 1, 2, 3, 4, 5]) :=
  ⟨⟨rfl, rfl, thr_clear _ _ _ _ (by decide), thr_clear _ _ _ _ (by decide), rfl, by decide, by decide, by decide, by decide,
    by decide⟩, rfl, rfl, ⟨_, rfl, rfl, rfl⟩, tans_clear _ _ _ _ _ (by decide), tans_clear _ _ _ _ _ (by decide)⟩
theorem test_witness_ScopesOpen :
    (let s := th [(1, 5)] 8 Cell.reset
     s.At tc ∧ s.checkedC tc = false ∧ s.Clear tc .leader [63, 0] ∧ (s.fr tc).pend = none ∧
     holdingOf (s.actC tc).holdings 5 = none ∧ holdingOf (s.actC tc).holdings 0 = some ⟨0, 8⟩ ∧ (s.cell 0).overflow = false ∧
     s.notified 0 0 = false ∧ (∃ k, s.freeScope 0 = some k) ∧ devOf (homeOf 0) = s.devNum) ∧
    8 ≤ ((List.range 8).map (fun k => (⟨BitVec.ofNat 32 k, 2⟩ : Holding))).length ∧
    (let s := tans 5 1 9
     s.At tc ∧ (∃ p, (s.fr tc).pend = some p ∧ p.stage = 5 ∧ p.sent = 0 + 1 ∧ p.answer = some 9) ∧ s.Clear tc .leader [63, 0]) :=
  ⟨⟨rfl, rfl, thr_clear _ _ _ _ (by decide), rfl, by decide, by decide, rfl, by decide, ⟨_, rfl⟩, by decide⟩, by decide, rfl,
   ⟨_, rfl, rfl, rfl, rfl⟩, tans_clear _ _ _ _ _ (by decide)⟩

/-! ### Witnesses: engine programs, copies and transfers at their issue -/

/-- A frame whose activation has the ENGINE bit and a weight, in a state with some memory. -/
def tf (g : Regs) (m : Memory) (forked : List Nat) : State :=
  { th g 8 Cell.reset with
    acts := [(1, { Act.zero with slot := some 0, holdings := [⟨0, 8⟩], engine := true, forked := forked })], mem := m }
/-- It is clear. -/
theorem tf_clear (g : Regs) (m : Memory) (l : List Nat) (k : Forced) (rs : List Int) (h : ∀ n ∈ rs, 0 ≤ n ∧ n < 64) :
    (tf g m l).Clear tc k rs := ⟨fun _ => rfl, h, fun _ _ _ _ ho => absurd ho (List.not_mem_nil), rfl, fun _ _ hu => absurd hu (List.not_mem_nil)⟩
theorem test_witness_ForksMakePrograms :
    (let s := tf [(1, 32), (2, 64), (5, 1)] [] []
     s.At tc ∧ s.checkedC tc = false ∧ (∃ a, AL.find s.acts (s.fr tc).act = some a ∧ a.engine = true) ∧ (s.fr tc).pend = none ∧
     s.Clear tc .leader [63, 1, 2, 3] ∧ s.Clear tc .leader [63, 5, 6, 7] ∧ (s.reg tc 1).toNat % 32 = 0 ∧ s.reg tc 1 ≠ 0 ∧
     (s.reg tc 5).toNat % 32 ≠ 0 ∧ s.reg tc 6 = 0 ∧ holdingOf (s.actC tc).holdings 0 = some ⟨0, 8⟩ ∧ (s.cell 0).overflow = false ∧
     s.notified 0 0 = false ∧ needsMint 2 8 0 = false ∧ (s.cell 0).sb.length < 16 ∧ (s.actC tc).cntE + 2 ≤ 0xFFFF ∧
     s.acqBlocked tc = false) ∧
    ((ts []).actC tc).engine = false :=
  ⟨⟨rfl, rfl, ⟨_, rfl, rfl⟩, rfl, tf_clear _ _ _ _ _ (by decide), tf_clear _ _ _ _ _ (by decide), by decide, by decide, by decide,
    by decide, by decide, rfl, by decide, by decide, by decide, by decide, by decide⟩, rfl⟩
theorem test_witness_RdvJoins :
    let s := tf [(1, 0x1000000), (2, 1)] [] [5]
    s.At tc ∧ s.checkedC tc = false ∧ AL.find s.acts (s.fr tc).act ≠ none ∧ (s.fr tc).pend = none ∧ (s.cell 0).joins.length < 16 ∧
    s.Clear tc .leader [63, 1, 2, 3, 4, 5] ∧ handlerWordOk (s.reg tc 1) = true ∧ (s.reg tc 1).getLsbD 56 = false ∧
    handlerWordOk (s.reg tc 2) = false ∧ holdingOf (s.actC tc).holdings 0 = some ⟨0, 8⟩ ∧ (s.cell 0).overflow = false ∧
    s.notified 0 0 = false ∧ s.acqBlocked tc = false :=
  ⟨rfl, rfl, by decide, rfl, by decide, tf_clear _ _ _ _ _ (by decide), by decide, by decide, by decide, by decide, rfl, by decide, by decide⟩
/-- A block of one dimension with two elements of four bits. -/
def tblock : List Byte :=
  leBytes 16 0 ++ leBytes 8 0x10000001 ++ leBytes 56 0 ++ leBytes 4 2 ++ leBytes 44 0 ++ leBytes 5 0 ++ leBytes 5 1 ++ leBytes 118 0
/-- It stands at the start of the slice. -/
def tblocked (bs : List Byte) : State := tf [(1, 0x1000000)] (Memory.setBytes [] (sliceAddr 0 0) bs) []
theorem test_witness_CopiesIssue :
    (let s := tblocked tblock
     let u := s.marked tc
     s.At tc ∧ s.Clear tc .leader [63, 1] ∧ s.checkedC tc = false ∧ (s.fr tc).pend = none ∧ u.blockWaits tc 0x1000000 256 = false ∧
     u.blockHeld tc 0x1000000 = false ∧ u.memWait tc = .none ∧ (readVa (u.whoGroup tc) 0x1000000 256 .r).exec u = (.ok tblock, u) ∧ copyOk tblock = true ∧
     (copyBlockOf tblock).sync = 0 ∧ (copyBlockOf tblock).scope = 0 ∧ (s.cell 0).sb.length < 16 ∧ (s.actC tc).cntE < 0xFFFF ∧
     syncSram (s.segsOf 0) 0x900000 = false ∧ (s.reg tc 1).toNat % 64 = 0) ∧
    copyOk (List.replicate 256 0) = false ∧
    (let s := tse []
     let x : Prog := { tprog with unit := .streamer, pend := some ⟨9, 1, none, [0], 5, [], none, 0, [], [], none⟩ }
     let u : State := { s with progs := [(1, x)] }
     (∃ p, x.pend = some p ∧ p.data ≠ [] ∧ p.stage = 9 ∧ AL.find u.copies (p.sent - 1) = none)) :=
  ⟨⟨rfl, tf_clear _ _ _ _ _ (by decide), rfl, rfl, by decide +kernel, by decide, by decide, by decide +kernel, by decide +kernel,
    by decide +kernel, by decide +kernel, by decide, by decide, by decide, by decide⟩, by decide +kernel, _, rfl, by decide, rfl, rfl⟩
theorem test_witness_QueueFences :
    (let s := tf [(1, 7), (2, 8)] [] []
     s.At tc ∧ s.Clear tc .leader [63, 1] ∧ s.checkedC tc = false ∧ bits (s.reg tc 2) 63 3 ≠ 0 ∧ bits (s.reg tc 1) 63 3 = 0 ∧
     s.reg tc 1 ≠ 0 ∧ s.reg tc 3 = 0 ∧ (s.marked tc).olderGone tc = true ∧
     ∀ u ∈ maskUnits (s.reg tc 1), ((s.cell 0).engine u).queue.length < queueSize) ∧
    (let e : Ctx := ⟨0, .engine .streamer, 0, tsite⟩
     let s : State := { tof { Cell.reset with fieldV := true, streamer := ⟨[(1, 3)], [], some 1⟩ } with
       progs := [(1, { tprog with unit := .streamer })], cur := .group 0 (.engine .streamer) 0 tsite }
     s.At e ∧ bits (s.reg e 1) 63 3 = 0 ∧ AL.find s.progs (s.progId e) = some { tprog with unit := .streamer } ∧
     (∀ u ∈ maskUnits (s.reg e 1), u ≠ .streamer → ((s.cell 0).engine u).items = []) ∧
     ∀ q ∈ [QItem.marker 1], s.qAlive 0 q = false) :=
  ⟨⟨rfl, tf_clear _ _ _ _ _ (by decide), rfl, by decide, by decide, by decide, by decide, by decide, by decide⟩, rfl, by decide,
   rfl, by decide, by decide⟩
/-- Peers keep no group back. -/
theorem peers_clear {s : State} {c : Ctx} {k : Forced} {rs : List Int} (h : s.Clear c k rs) (l : AL Peer)
    (hp : ({ s with peers := l } : State).pairGate c k = .go) : ({ s with peers := l } : State).Clear c k rs :=
  ⟨h.window, h.exist, h.done, hp, h.sound⟩
/-- A descriptor of one byte to peer 0. -/
def txfer : List Byte := leBytes 8 0x1000000 ++ leBytes 4 1 ++ leBytes 116 0
theorem test_witness_TransfersIssue :
    (let s : State := { tblocked txfer with peers := [(0, ⟨true, 1, 0, 7, 0, 0⟩)] }
     let u := s.marked tc
     s.At tc ∧ s.checkedC tc = false ∧ AL.find s.acts (s.fr tc).act ≠ none ∧ (s.fr tc).pend = none ∧ s.Clear tc .leader [63, 1] ∧
     (s.reg tc 1).toNat % 64 = 0 ∧ u.blockWaits tc 0x1000000 128 = false ∧ u.blockHeld tc 0x1000000 = false ∧ u.memWait tc = .none ∧
     (readVa (u.whoGroup tc) 0x1000000 128 .r).exec u = (.ok txfer, u) ∧
     (∀ k ∈ [XferKind.send, .write, .read], xferOk k txfer = true) ∧ (xferDescOf txfer).sync = 0 ∧ s.peerOk 0 0 = true ∧
     s.peerOk 0 1 = false ∧ u.olderSent tc = true ∧ (s.transfers.filter (fun t => t.2.cell == 0)).length < 16) ∧
    xferOk .send (List.replicate 128 0) = false :=
  ⟨⟨rfl, rfl, by decide, rfl, peers_clear (tf_clear _ _ _ _ _ (by decide)) _ rfl, by decide, by decide +kernel, by decide, by decide, by decide +kernel, by decide +kernel, by decide +kernel, by decide,
    by decide, by decide, by decide⟩, by decide +kernel⟩
theorem test_witness_DeliveryContextsAreRead :
    let s : State := { ts [(1, 0x10000), (2, 4)] with peers := [(0, ⟨true, 1, 0, 7, 0, 0⟩)] }
    s.At tc ∧ s.checkedC tc = false ∧ s.Clear tc .leader ([60, 61, 62, 63] ++ [1]) ∧ s.Clear tc .leader ([60, 61, 62, 63] ++ [2]) ∧
    s.peerOk 0 0 = true ∧ bits (s.reg tc 1) 63 16 ≠ 0 ∧ bits (s.reg tc 2) 63 16 = 0 ∧
    s.peerOk 0 ((s.reg tc 2).toNat % 65536 / 4) = false ∧ (s.fr tc).outst = [] ∧ (63 : Int) < s.regLimit tc :=
  ⟨rfl, rfl, peers_clear (ts_clear _ _ _ (by decide)) _ rfl, peers_clear (ts_clear _ _ _ (by decide)) _ rfl, by decide, by decide, by decide, by decide, rfl, by decide⟩

/-! ### Witnesses: vector and matrix instructions -/

/-- The record of a shape of one element of a format, with its BASE, the rest of its control word and its stride. -/
def trec (base : Nat) (ctrl : Nat) (str : Nat) : List Byte :=
  leBytes 8 base ++ leBytes 8 ctrl ++ leBytes 2 1 ++ leBytes 6 0 ++ leBytes 4 str ++ leBytes 36 0
/-- A vector program whose registers hold the address of a record that stands at the start of the slice. -/
def tv (bs : List Byte) : State :=
  { tse ((List.range 16).map (fun k => (k, 0x1000000))) with
    mem := Memory.setBytes [] (sliceAddr 0 0) bs,
    fields := [(0, { tfield with ctx := { tctx with h := 1, w := 1 } })], progs := [(1, { tprog with w := 8 })] }
/-- One FP32 element. -/
def tvr : List Byte := trec 0x1000040 0 0
/-- Its shape. -/
def tvs : Shape := ⟨0x1000040, .fp32, 1, 0, 0, 0, .o, 0, [1], [0], 0⟩
/-- The program before an iteration of an instruction with three records. -/
def tvp (bs : List Byte) (u : Nat) : Prog :=
  { tprog with pend := some ⟨8, u, none, bs ++ bs ++ bs, 0, [], none, 0, [], [], none⟩, w := 8 }
/-- A state in which it executes. -/
def tvm (bs : List Byte) (u : Nat) : State := { tv bs with progs := [(1, tvp bs u)] }
/-- Sixty-five FP32 elements, and their shape. -/
def tvr65 : List Byte := leBytes 8 0x1000040 ++ leBytes 8 0 ++ leBytes 2 65 ++ leBytes 6 0 ++ leBytes 4 1 ++ leBytes 36 0
def tvs65 : Shape := ⟨0x1000040, .fp32, 1, 0, 0, 0, .o, 0, [65], [1], 0⟩
/-- It is clear. -/
theorem tv_clear {s : State} (rs : List Int) (h : ∀ n ∈ rs, 0 ≤ n ∧ n < 16) (hp : s.pairGate te .no = .go) (hu : s.upsets = []) :
    s.Clear te .no rs :=
  ⟨fun h => absurd h (by decide), h, fun h => absurd h (by decide), hp, fun _ _ hm => by rw [hu] at hm; exact absurd hm List.not_mem_nil⟩
/-- The writes of a unit of work are made one after the other. -/
def writesGo (who : State → Who) (done : State → State) : List UWrite → State → Option State
  | [], a => some a
  | w :: t, a => match (w.perform (who a)).exec a with | (.ok _, u) => writesGo who done t (done u) | _ => none
/-- They stand then as the claims say. -/
theorem writesGo_written {who : State → Who} {done : State → State} (ws : List UWrite) :
    ∀ (a b : State), writesGo who done ws a = some b → Claims.Written who done ws a b := by
  induction ws with
  | nil => intro a b h; exact (Option.some.inj h).symm
  | cons w t ih =>
    intro a b h
    simp only [writesGo] at h
    split at h
    · rename_i o u hw
      exact ⟨u, hw, ih _ _ h⟩
    · cases h
/-- A unit of work runs, its writes are made, and what comes is as said. -/
def tunit (c : Ctx) (r : Except Stop UnitOut × State) (f : UnitOut → State → Bool) : Bool :=
  match r with
  | (.ok o, s0) =>
    match writesGo (fun u => u.whoGroup c) (fun u => u.endWait (u.req c)) o.writes (s0.endWait (s0.req c)) with
    | some s1 => f o s1
    | none => false
  | _ => false
theorem tunit_ok {c : Ctx} {r : Except Stop UnitOut × State} {f : UnitOut → State → Bool} (h : tunit c r f = true) :
    ∃ o s0 s1, r = (.ok o, s0) ∧ Claims.UnitWritten c o.writes s0 s1 ∧ f o s1 = true := by
  unfold tunit at h
  split at h
  · next o s0 =>
    split at h
    · next s1 hw => exact ⟨o, s0, s1, rfl, writesGo_written _ _ _ hw, h⟩
    · cases h
  · cases h
/-- The program still executes, and its writes are performed. -/
def tends (s : State) (c : Ctx) (t : State) : Bool := t.progId c == s.progId c && t.writesDone (s.progId c)
/-- Records are read. -/
theorem records_read {s : State} {c : Ctx} {n : Nat} {regs : List Nat} {bs : List Byte} (hb : bs.length = n * regs.length)
    (h : (regs.zipIdx.all fun p =>
      let a := (s.reg c (p.1 : Int)).setWidth 48
      a.toNat % n == 0 && decide ((readVa (s.whoGroup c) a.toNat n .r).exec s = (.ok ((bs.drop (n * p.2)).take n), s))) = true) :
    s.RecordsRead c n regs bs := by
  refine ⟨hb, fun p hp => ?_⟩
  have := List.all_eq_true.mp h p hp
  simp only [Bool.and_eq_true, beq_iff_eq, decide_eq_true_eq] at this
  exact this
theorem test_witness_VectorUnits :
    (let s := tvm tvr 0
     s.At te ∧ s.Clear te .no [1, 1, 1] ∧ s.VectorAt te (tvp tvr 0) [1, 1, 1] (tvr ++ tvr ++ tvr) [tvs, tvs, tvs] 0 [] s ∧
     ∃ pl, binaryPlan addRes [tvs, tvs, tvs] = some pl ∧ pl.units = 0 + 1 ∧ (∀ h ∈ pl.dests, h.loc ≠ 1) ∧
       ∃ o s0 s1, (pl.run (s.venv te (tvp tvr 0)) (s.cell 0).vlfsr [] 0).exec s = (.ok o, s0) ∧ Claims.UnitWritten te o.writes s0 s1 ∧
         (tends s te s1 && o.outs.isEmpty) = true) ∧
    (let s := tv tvr
     ∃ m, s.VectorAt te { tprog with w := 8 } [1, 1, 1] (tvr ++ tvr ++ tvr) [tvs, tvs, tvs] 0 [] m) ∧
    (let s := tvm tvr65 1
     let m := s.checked 0 0
     s.VectorAt te (tvp tvr65 1) [1, 1, 1] (tvr65 ++ tvr65 ++ tvr65) [tvs65, tvs65, tvs65] 1 [] m ∧
     ∃ pl, binaryPlan addRes [tvs65, tvs65, tvs65] = some pl ∧ pl.units = 1 + 1 ∧
       ∃ o s0 s1, (pl.run (m.venv te (tvp tvr65 1)) (m.cell 0).vlfsr [] 1).exec m = (.ok o, s0) ∧ Claims.UnitWritten te o.writes s0 s1 ∧
         (tends s te s1 && o.outs.isEmpty) = true) ∧
    (let s := tv tvr
     te.unit = .engine .vector ∧ AL.find s.progs (s.progId te) = some { tprog with w := 8 } ∧ s.memWait te = .none ∧
     s.RecordsRead te 64 [1, 1] (tvr ++ tvr)) ∧
    (let s : State := { tv tvr with cells := [(0, { Cell.reset with fieldV := true, vector := ⟨[(1, 0x1000000), (2, 0x1000001)], [], some 1⟩ })] }
     s.RecordsRead te 64 [1, 1] (tvr ++ tvr) ∧ (s.reg te 2).toNat % 64 ≠ 0 ∧ [1, 1, 2] = [1, 1] ++ 2 :: []) ∧
    shapeOf (trec 0x1000040 15 0) (fun _ => true) = none ∧ binaryPlan addRes [tvs] = none ∧
    ({ tvs with base := 0x1000042 } : Shape).aligned = false ∧
    shapeOf (trec 0 0x40 0) ((tv []).channelOk te) = some { tvs with base := 0, loc := 1 } ∧
    (∃ pl, unaryPlan (nan1 Machine.Num.abs) [{ tvs with base := 0, loc := 1 }, tvs] = some pl ∧ pl.dests = [{ tvs with base := 0, loc := 1 }] ∧
      pl.units = 0 + 1 ∧
      let s := tv tvr
      ∃ o s0 s1, (pl.run (s.venv te { tprog with w := 8 }) [] [] 0).exec s = (.ok o, s0) ∧ Claims.UnitWritten te o.writes s0 s1 ∧
        (tends s te s1 && o.outs.map Prod.fst == [0] && decide ((s1.cell 0).outq.length < 16) && decide (o.outs.length ≤ 256 / 32) &&
          AL.find s1.progs 1 == some { tprog with w := 8 }) = true) ∧
    devOf 0 = (tv []).devNum := by
  refine ⟨⟨rfl, tv_clear _ (by decide +kernel) rfl rfl,
      ⟨rfl, rfl, by decide +kernel, by decide +kernel, by decide +kernel, by decide +kernel, .inr ⟨rfl, by decide +kernel, by decide +kernel, .inl ⟨rfl, rfl⟩⟩⟩,
      _, rfl, by decide +kernel, by decide +kernel, tunit_ok (by decide +kernel)⟩,
    ⟨_, rfl, rfl, by decide +kernel, by decide +kernel, by decide +kernel, by decide +kernel,
      .inl ⟨rfl, rfl, rfl, records_read (by decide +kernel) (by decide +kernel), by decide +kernel, rfl⟩⟩,
    ⟨⟨rfl, rfl, by decide +kernel, by decide +kernel, by decide +kernel, by decide +kernel,
        .inr ⟨rfl, by decide +kernel, by decide +kernel, .inr ⟨by decide +kernel, by decide +kernel, by decide +kernel, rfl⟩⟩⟩,
      _, rfl, by decide +kernel, tunit_ok (by decide +kernel)⟩,
    ⟨rfl, rfl, by decide +kernel, records_read (by decide +kernel) (by decide +kernel)⟩,
    ⟨records_read (by decide +kernel) (by decide +kernel), by decide +kernel, rfl⟩,
    by decide +kernel, rfl, by decide +kernel, by decide +kernel, ⟨_, rfl, rfl, by decide +kernel, tunit_ok (by decide +kernel)⟩, by decide⟩
theorem test_witness_VectorElements :
    let s := tv tvr
    let v := s.venv te tprog
    let f := sliceAddr 0 0x40
    s.ElementAt (v.whoOf tvs) tvs .w f ∧ s.ElementAt (v.whoOf tvs) tvs .r f ∧ s.narrowPoison f (tvs.bits / 8) = false ∧
    s.raceOn f = false ∧ s.cold (f / 64) = true ∧ ∀ k, ownerCell f = some k → s.follower k = none := by
  refine ⟨⟨rfl, by decide, by decide, by decide, by decide, by decide, by decide, by decide⟩,
    ⟨rfl, by decide, by decide, by decide, by decide, by decide, by decide, by decide⟩, by decide, by decide, by decide, ?_⟩
  intro k h; cases h; rfl
theorem test_witness_ArithmeticIsExact :
    (Num.ofInt 3).finite ∧ (decodeNum .fp32 false 0x3F800000).finite ∧ 0x3F800000 < 2 ^ Fmt.fp32.bits ∧ 15 < 2 ^ Fmt.int4.bits ∧
    (4 ≤ 4) ∧ 65535 < 2 ^ 16 := ⟨trivial, trivial, by decide, by decide, by decide, by decide⟩
theorem test_witness_EngineProgramsEnd :
    (tse []).At te ∧ te.unit ≠ .scalar ∧ (tse []).Clear te .no [] ∧ AL.find (tse []).progs ((tse []).progId te) = some tprog :=
  ⟨rfl, by decide, tse_clear _ _ _ (by decide), rfl⟩
/-- The matrix sequencer of cell 0. -/
def tme : Ctx := ⟨0, .engine .matrix, 0, tsite⟩
/-- A matrix program with some registers, formats INT8, and what it has read. -/
def tmp (pend : Option Pending) : Prog :=
  { tprog with unit := .matrix, pend := pend, cr := { FrameCr.reset with fmtA := 6, fmtB := 6, result := 8 } }
/-- A state in which it executes. -/
def tm (g : Regs) (pend : Option Pending) (m : Memory) : State :=
  { tof { Cell.reset with fieldV := true, matrix := ⟨g, [], some 1⟩ } with
    progs := [(1, tmp pend)], cur := .group 0 (.engine .matrix) 0 tsite, mem := m }
/-- It is clear. -/
theorem tm_clear (g : Regs) (pend : Option Pending) (m : Memory) (k : Forced) (rs : List Int) (h : ∀ n ∈ rs, 0 ≤ n ∧ n < 16) :
    (tm g pend m).Clear tme k rs := ⟨fun h => absurd h (by decide), h, fun h => absurd h (by decide), rfl, fun _ _ hu => absurd hu (List.not_mem_nil)⟩
theorem test_witness_AccumulatorsAdd :
    let s := tm [(1, 16), (2, 3), (3, 0x102)] none []
    s.At tme ∧ AL.find s.progs (s.progId tme) = some (tmp none) ∧ (tmp none).pend = none ∧ s.memWait tme = .none ∧
    (∀ f < 4, s.score 0 f = []) ∧ s.Clear tme .no [1] ∧ s.Clear tme .no [2, 3] ∧ bits (s.reg tme 1) 63 4 ≠ 0 ∧
    bits (s.reg tme 2) 63 2 = 0 ∧ bits (s.reg tme 3) 63 9 = 0 ∧ bits (s.reg tme 3) 7 2 = 0 ∧ (s.reg tme 3).getLsbD 8 = true ∧
    bits (s.reg tme 1) 63 2 ≠ 0 :=
  ⟨rfl, rfl, rfl, by decide, by decide, tm_clear _ _ _ _ _ (by decide), tm_clear _ _ _ _ _ (by decide), by decide, by decide,
   by decide, by decide, by decide, by decide⟩
theorem test_witness_ScalesMove :
    (let s := tm [(1, 0x10000), (2, 0x1000000), (3, 0x1000001), (4, 0x80010000)] none []
     let b0 := s.checked 0 (tmp none).naming.scope
     s.At tme ∧ s.Clear tme .no [1, 2] ∧ AL.find s.progs (s.progId tme) = some (tmp none) ∧ s.memWait tme = .none ∧
     (let q := (tmp none).pend.getD Pending.zero
      q.stage = 0 ∧ q.writes = [] ∧ q.err = none ∧ 64 * q.sent < 1 ∧ (1 + 63) / 64 ≤ q.sent + 1) ∧
     bits (s.reg tme 1) 28 16 = 1 ∧ (s.reg tme 1).getLsbD 31 = false ∧ (s.reg tme 4).getLsbD 31 = true ∧
     bits (s.reg tme 0) 28 16 = 0 ∧ (s.reg tme 3).toNat % 2 = 1 ∧ s.Uncancelled tme (tmp none) ∧
     (readVa (b0.whoGroup tme) 0x1000000 2 .r).exec b0 = (.ok [0, 0], b0) ∧ b0.progId tme = s.progId tme ∧
     b0.writesDone (s.progId tme) = true ∧
     ∃ s1, Claims.UnitWritten tme ((List.range 1).map (fun j =>
         .mem (((0x1000000 + 2 * (0 + j)) % 2 ^ 48 : Nat) : Int) (leBytes 2 (intBits 16 (s.sclAt 0 (0 + 2 * 0 + 2 * j)))) none .o)) b0 s1 ∧
       tends s tme s1 = true) ∧
    (let s : State := { tm [(1, 0x10000), (2, 0x1000000)] none [] with
       cells := [(0, { Cell.reset with fieldV := true, matrix := ⟨[(1, 0x10000), (2, 0x1000000)], [], some 1⟩, cancels := [0] })] }
     s.mayCheck 0 (tmp none).naming.scope = true ∧ s.cancelledAt 0 (tmp none).naming.scope = true) := by
  refine ⟨⟨rfl, tm_clear _ _ _ _ _ (by decide), rfl, by decide, ⟨rfl, rfl, rfl, by decide, by decide⟩, by decide, by decide, by decide,
    by decide, by decide, ⟨by decide, by decide⟩, by decide +kernel, rfl, by decide, ?_⟩, by decide, by decide⟩
  refine ⟨_, writesGo_written _ _ _ (Option.eq_some_of_isSome ?_), ?_⟩ <;> decide +kernel
/-- The bytes of a plane tile descriptor of A and of an element tile descriptor at 0x1000000. -/
def tplane : List Byte := leBytes 8 0x1000000 ++ leBytes 24 0
/-- Those of an element tile with rows of 64 elements. -/
def telem : List Byte := leBytes 8 0x1000000 ++ leBytes 4 64 ++ leBytes 4 1 ++ leBytes 16 0
/-- Those of a descriptor of B. -/
def tplaneB : List Byte := leBytes 8 0x1002000 ++ leBytes 24 1
/-- What has been read of them. -/
def tq (st : Nat) (bs : List Byte) (m : Option MatRun) : Pending := ⟨st, 0, none, bs, 0, [], m, 0, [], [], none⟩
/-- A check passes with a result that is as said. -/
def also {α : Type} (r : MatCheck α) (f : α → Bool) : Bool := match r with | .ok j => f j | _ => false
/-- A check that passes. -/
def passes {α : Type} : MatCheck α → Bool | .ok _ => true | _ => false
/-- Its result. -/
theorem passed {α : Type} {r : MatCheck α} (h : passes r = true) : ∃ j, r = .ok j := by
  cases r with
  | ok j => exact ⟨j, rfl⟩
  | _ => cases h
/-- A check that passes with a job. -/
theorem checked {α : Type} [DecidableEq α] {r : MatCheck α} {j : α} (h : also r (fun k => k == j) = true) : r = .ok j := by
  cases r with
  | ok k => rw [eq_of_beq (show (k == j) = true from h)]
  | _ => cases h
/-- At the last row of a tile of planes. -/
def tlastRow : Pending := { tq 0 (tplane ++ tplane) none with sent := 31 }
/-- The job of `tplane ++ tplane`. -/
def tjob : PlaneJob := ⟨⟨0x1000000, 0, 0, .o, false, 0, false, 0⟩, ⟨0x1000000, 0, 0, 0, .o⟩, ⟨.int8, 8, 0⟩, 0⟩
/-- That of `telem`. -/
def tstoreJob : StoreJob := ⟨⟨0x1000000, 64, 1, 0, .o⟩, .int32, 0, false, 0⟩
/-- The tile of planes passes its checks, and the tile of elements does. -/
theorem tplane_job : mplaneCheck (tmp (some tlastRow)) [tseg] (tplane ++ tplane) = .ok tjob := checked (by decide +kernel)
theorem telem_job (p : Option Pending) : mstCheck (tmp p) [tseg] telem 0 = .ok tstoreJob :=
  checked (show also (mstCheck (tmp none) [tseg] telem 0) (fun k => k == tstoreJob) = true by decide +kernel)
/-- A row of a tile of planes runs, and its writes are made, as the claim says it. -/
theorem row_moves {s m : State} {c : Ctx} {x : Prog} {q : Pending} {j : PlaneJob} (f : State → Bool)
    (h : (match (if q.sent = 0 then j.listFits (m.venv c x) else pure ()).exec m with
      | (.ok _, m1) =>
        match (j.load (m.venv c x) q.sent).exec m1 with
        | (.ok r, m2) =>
          let raised := m2.modProg (s.progId c) (fun y => { y with cr := { y.cr with rmode := y.cr.rmode ||| r.flags.toWord } })
          let s0 := j.unlatch c.cell (j.entries c.cell q.sent r raised)
          let at_ := fun (a : Nat) (bs : List Byte) => UWrite.mem (a % 2 ^ 48 : Nat) bs none j.d.cls
          let outs := q.ids ++ r.outs.map (fun o => outlierEntry o.1 q.sent o.2)
          match writesGo (fun u => u.whoGroup c) (fun u => u.endWait (u.req c))
            ((List.range j.f.p).map (fun k => at_ (j.d.base.toNat + (if j.d.b then 512 else 256) * k + 8 * q.sent)
                (leBytes 8 (planeWord r.q k))) ++
              (if q.sent + 1 = j.d.outers ∧ j.d.olist ≠ 0 then
                at_ j.d.olist.toNat (leBytes 8 outs.length) ::
                  outs.zipIdx.map (fun e => at_ (j.d.olist.toNat + 8 + 4 * e.2) (leBytes 4 e.1))
              else [])) (s0.endWait (s0.req c)) with
          | some s1 => f s1
          | none => false
        | _ => false
      | _ => false) = true) :
    ∃ m1 r m2 s1, (if q.sent = 0 then j.listFits (m.venv c x) else pure ()).exec m = (.ok (), m1) ∧
      (j.load (m.venv c x) q.sent).exec m1 = (.ok r, m2) ∧
      (let raised := m2.modProg (s.progId c) (fun y => { y with cr := { y.cr with rmode := y.cr.rmode ||| r.flags.toWord } })
       let s0 := j.unlatch c.cell (j.entries c.cell q.sent r raised)
       let at_ := fun (a : Nat) (bs : List Byte) => UWrite.mem (a % 2 ^ 48 : Nat) bs none j.d.cls
       let outs := q.ids ++ r.outs.map (fun o => outlierEntry o.1 q.sent o.2)
       Claims.UnitWritten c
         ((List.range j.f.p).map (fun k => at_ (j.d.base.toNat + (if j.d.b then 512 else 256) * k + 8 * q.sent)
             (leBytes 8 (planeWord r.q k))) ++
           (if q.sent + 1 = j.d.outers ∧ j.d.olist ≠ 0 then
             at_ j.d.olist.toNat (leBytes 8 outs.length) ::
               outs.zipIdx.map (fun e => at_ (j.d.olist.toNat + 8 + 4 * e.2) (leBytes 4 e.1))
           else [])) s0 s1) ∧ f s1 = true := by
  split at h
  · next o m1 h1 =>
    split at h
    · next r m2 h2 =>
      simp only at h
      split at h
      · next s1 h3 => exact ⟨m1, r, m2, s1, h1, h2, writesGo_written _ _ _ h3, h⟩
      · cases h
    · cases h
  · cases h
/-- Descriptors of planes and elements stand at the start of the slice, and the registers name them. -/
def tmd (bs : List Byte) : State := tm [(1, 0x1000000), (2, 0x1000020)] none (Memory.setBytes [] (sliceAddr 0 0) bs)
theorem test_witness_TileRowsMove :
    (let q := tlastRow
     let s := tm [] (some q) []
     let m := (s.setPend tme q).checked 0 0
     s.At tme ∧ s.Clear tme .no [1, 2] ∧ s.MatrixAt tme (tmp (some q)) [1, 2] q m ∧
     mplaneCheck (tmp (some q)) (s.segsOf 0) q.data = .ok tjob ∧ q.sent < tjob.d.outers ∧ q.sent + 1 = tjob.d.outers ∧
     ∃ m1 r m2 s1, (if q.sent = 0 then tjob.listFits (m.venv tme (tmp (some q))) else pure ()).exec m = (.ok (), m1) ∧
       (tjob.load (m.venv tme (tmp (some q))) q.sent).exec m1 = (.ok r, m2) ∧
       (let raised := m2.modProg (s.progId tme) (fun y => { y with cr := { y.cr with rmode := y.cr.rmode ||| r.flags.toWord } })
        let s0 := tjob.unlatch 0 (tjob.entries 0 q.sent r raised)
        let at_ := fun (a : Nat) (bs : List Byte) => UWrite.mem (a % 2 ^ 48 : Nat) bs none tjob.d.cls
        let outs := q.ids ++ r.outs.map (fun o => outlierEntry o.1 q.sent o.2)
        Claims.UnitWritten tme
          ((List.range tjob.f.p).map (fun k => at_ (tjob.d.base.toNat + (if tjob.d.b then 512 else 256) * k + 8 * q.sent)
              (leBytes 8 (planeWord r.q k))) ++
            (if q.sent + 1 = tjob.d.outers ∧ tjob.d.olist ≠ 0 then
              at_ tjob.d.olist.toNat (leBytes 8 outs.length) ::
                outs.zipIdx.map (fun e => at_ (tjob.d.olist.toNat + 8 + 4 * e.2) (leBytes 4 e.1))
            else [])) s0 s1) ∧ tends s tme s1 = true) ∧
    (let s := tmd (tplane ++ tplane)
     ∃ m, s.MatrixAt tme (tmp none) [1, 2] { Pending.zero with data := tplane ++ tplane } m) :=
  ⟨⟨rfl, tm_clear _ _ _ _ _ (by decide),
     ⟨rfl, rfl, by decide, ⟨by decide, by decide⟩, ⟨by decide +kernel, by decide +kernel⟩, ⟨rfl, rfl⟩, .inr ⟨rfl, .inl rfl, rfl⟩⟩,
     tplane_job, by decide, by decide, row_moves _ (by decide +kernel)⟩,
   _, rfl, rfl, by decide, ⟨by decide, by decide⟩, ⟨by decide +kernel, by decide +kernel⟩, ⟨rfl, rfl⟩,
   .inl ⟨rfl, records_read (by decide +kernel) (by decide +kernel), rfl, rfl⟩⟩
/-- A row of results is written. -/
theorem row_stored {m : State} {c : Ctx} {j : StoreJob} {row : List (Nat × Nat) × Flags × AL (BitVec 16)} {p : Nat} (f : State → Bool)
    (h : (let raised := m.modProg p (fun y => { y with cr := { y.cr with rmode := y.cr.rmode ||| row.2.1.toWord } })
          let s0 := raised.modCell c.cell (fun y => { y with mlfsr := row.2.2 })
          match writesGo (fun u => u.whoGroup c) (fun u => u.endWait (u.req c)) (row.1.flatMap (fun e => j.shape.writeOf e.1 e.2))
            (s0.endWait (s0.req c)) with
          | some s1 => f s1
          | none => false) = true) :
    ∃ s1, (let raised := m.modProg p (fun y => { y with cr := { y.cr with rmode := y.cr.rmode ||| row.2.1.toWord } })
           let s0 := raised.modCell c.cell (fun y => { y with mlfsr := row.2.2 })
           Claims.UnitWritten c (row.1.flatMap (fun e => j.shape.writeOf e.1 e.2)) s0 s1) ∧ f s1 = true := by
  simp only at h
  split at h
  · next s1 h3 => exact ⟨s1, writesGo_written _ _ _ h3, h⟩
  · cases h
theorem test_witness_TileRowsAreStored :
    ∀ n ∈ [0, 31],
     let q : Pending := { tq 8 telem none with sent := n }
     let x := tmp (some q)
     let s := tm [] (some q) []
     let m := (s.setPend tme q).checked 0 0
     let row := tstoreJob.row (m.venv tme x) m n
     s.At tme ∧ s.Clear tme .no [1, 2] ∧ s.MatrixAt tme x [1] q m ∧ mstCheck x (s.segsOf 0) q.data (s.reg tme 2) = .ok tstoreJob ∧
     q.stage = 8 ∧ q.sent < 32 ∧
     selfMeet (tstoreJob.fmt.bits / 8) (row.1.map (fun e => (elemPlace tstoreJob.d.base (tstoreJob.shape.index e.1) tstoreJob.fmt.bits).1)) =
       false ∧
     ∃ s1, (let raised := m.modProg (s.progId tme) (fun y => { y with cr := { y.cr with rmode := y.cr.rmode ||| row.2.1.toWord } })
            let s0 := raised.modCell 0 (fun y => { y with mlfsr := row.2.2 })
            Claims.UnitWritten tme (row.1.flatMap (fun e => tstoreJob.shape.writeOf e.1 e.2)) s0 s1) ∧ tends s tme s1 = true := by
  intro n hn
  simp only [List.mem_cons, List.not_mem_nil, or_false] at hn
  rcases hn with rfl | rfl <;>
    exact ⟨rfl, tm_clear _ _ _ _ _ (by decide),
      ⟨rfl, rfl, by decide, ⟨by decide, by decide⟩, ⟨by decide +kernel, by decide +kernel⟩, ⟨rfl, rfl⟩, .inr ⟨rfl, .inr rfl, rfl⟩⟩,
      telem_job _, rfl, by decide, by decide +kernel, row_stored _ (by decide +kernel)⟩
/-- A store with draws, of a format that draws. -/
theorem test_witness_StoredRowsRound : ∃ v : VEnv, v.rd.mode < 4 ∧ ∃ w : VEnv, w.rd.mode = 4 ∧ 8 ≤ tstoreJob.fmt.bits :=
  ⟨{ (tm [] none []).venv tme (tmp none) with rd := ⟨0, false, false⟩ }, by decide,
   { (tm [] none []).venv tme (tmp none) with rd := ⟨4, false, false⟩ }, rfl, by decide⟩
/-- Operands of a tile operation. -/
def trun : MatRun := ⟨2, 2, 0, 0, 0, false, false, [], [], [], [], [], [], 0, 0⟩
theorem test_witness_TileOperations :
    (∀ n ∈ [0, 3], let q : Pending := { tq 8 (tplane ++ tplaneB) (some trun) with sent := n }
     let s := tm [] (some q) []
     s.At tme ∧ s.Clear tme .no [1, 2] ∧ AL.find s.progs (s.progId tme) = some (tmp (some q)) ∧ s.memWait tme = .none ∧
     q.data.length = 64 ∧ q.mat = some trun ∧ q.stage = 8 ∧ q.err = none ∧ q.sent < trun.units ∧ s.Uncancelled tme (tmp (some q)) ∧
     s.writesDone (s.progId tme) = true) ∧
    (let q := tq 8 (tplane ++ tplaneB) (some trun)
     let s : State := { tm [] (some q) [] with cells := [(0, { Cell.reset with fieldV := true, matrix := ⟨[], [], some 1⟩, cancels := [0] })] }
     s.mayCheck 0 (tmp (some q)).naming.scope = true ∧ s.cancelledAt 0 (tmp (some q)).naming.scope = true) ∧
    (let s := tmd (tplane ++ tplaneB)
     (tmp none).pend = none ∧ (∀ f < 4, s.score 0 f = []) ∧ s.RecordsRead tme 32 [1, 2] (tplane ++ tplaneB) ∧
     s.Uncancelled tme (tmp none) ∧ s.writesDone (s.progId tme) = true ∧
     (∀ src ∈ [fun _ => true, fun (d : PlaneDesc) => d.srccol == colOf 0],
       also (tileCheck (tmp none) (s.segsOf 0) (tplane ++ tplaneB) src) (fun j =>
         let u := ((s.endWait (s.req tme)).setPend tme { Pending.zero with data := tplane ++ tplaneB }).reachScore 0 (s.progId tme) [j.a.frag]
         okAnd ((j.read u 0 (tmp none) (u.whoGroup tme)).exec u) (fun o t => t == u &&
           (match o with | some (m, _) => decide (m.frag = j.a.frag ∧ 0 < m.units) | none => false))) = true) ∧
     (s.gang (s.segmentOf 0)).running = false) := by
  refine ⟨fun n hn => ?_, ⟨by decide, by decide⟩,
    rfl, by decide, records_read (by decide +kernel) (by decide +kernel), ⟨by decide, by decide⟩, by decide, fun src hs => ?_, by decide⟩
  · simp only [List.mem_cons, List.not_mem_nil, or_false] at hn
    rcases hn with rfl | rfl <;>
      exact ⟨rfl, tm_clear _ _ _ _ _ (by decide), rfl, by decide, by decide +kernel, rfl, rfl, rfl, by decide, ⟨by decide, by decide⟩, by decide⟩
  · simp only [List.mem_cons, List.not_mem_nil, or_false] at hs
    rcases hs with rfl | rfl <;> decide +kernel
theorem test_witness_PassesAdd : trun.frag < 4 ∧ ∀ r < 32, ∀ c < 64, ∀ e ∈ (List.range 4).map (trun.t r c), -(2 ^ 15) < e ∧ e < 2 ^ 15 := by
  decide +kernel
theorem test_witness_PlanesHoldIntegers :
    ∃ q : List Int, ∃ bs : List Byte, q.length = 64 ∧ (∀ v ∈ q, -(2 ^ (2 - 1)) ≤ v ∧ v < 2 ^ (2 - 1)) ∧
      ∀ k < 2, (bs.drop (8 * k + 8 * 0)).take 8 = leBytes 8 (planeWord q k) :=
  ⟨(List.range 64).map (fun k => if k % 2 = 0 then (-2 : Int) else 1), leBytes 8 0xAAAAAAAAAAAAAAAA ++ leBytes 8 0x5555555555555555,
   by decide, by decide, by decide +kernel⟩
theorem test_witness_PassesMultiply : 0 < 25 ∧ 0 < 2 := by decide
/-- Elements in the slice of cell 0 stand in plain runs. -/
theorem elements_at {s : State} {w : Who} {h : Shape} {es : List Nat} (hs : w.segs = [tseg]) (hg : s.segsOf 0 = [tseg])
    (hf : s.fencedCell 0 = false) (hp : s.poison = []) (hl : s.follower 0 = none) (ha : s.atomics = []) (hb : 0 < (h.bits + 7) / 8) (hm : h.fmt ≠ .es4)
    (hz : h.loc = 0)
    (ho : ∀ e ∈ es, 0x1000000 ≤ (elemPlace h.base (h.index e) h.bits).1 ∧
      (elemPlace h.base (h.index e) h.bits).1 + ((h.bits + 7) / 8 : Nat) ≤ 0x1000000 + sliceSize) : Claims.ElementsPlain s w h es := by
  refine .inr ⟨hz, hm, fun e he => ?_⟩
  obtain ⟨h1, h2⟩ := ho e he
  obtain ⟨o, ho⟩ : ∃ o : Nat, (elemPlace h.base (h.index e) h.bits).1 = ((0x1000000 + o : Nat) : Int) :=
    ⟨((elemPlace h.base (h.index e) h.bits).1 - 0x1000000).toNat, by omega⟩
  simp only [ho, Int.toNat_natCast, hs] at h2 ⊢
  exact ⟨by omega, tseg_one o _ (by omega) hb, _, plain_at hs hg hf hp hl ha o _ (by omega)⟩
theorem test_witness_VectorInstructionsComplete :
    (let s := tv tvr
     let as : List Addr := [0x1000000, 0x1000000, 0x1000000]
     s.At te ∧ s.Clear te .no [1, 1, 1] ∧ AL.find s.progs (s.progId te) = some { tprog with w := 8 } ∧ s.memWait te = .none ∧
     s.writesDone (s.progId te) = true ∧
     (∀ f ∈ fragsOf [tvs, tvs, tvs], s.score 0 f = []) ∧ [1, 1, 1].map (fun (r : Nat) => (s.reg te (r : Int)).setWidth 48) = as ∧
     Claims.RecordsPlain s (s.whoGroup te) as (tvr ++ tvr ++ tvr) ∧ Claims.ElementsPlain s (s.whoGroup te) tvs [0] ∧
     ∃ pl, binaryPlan addRes [tvs, tvs, tvs] = some pl ∧ pl.units = 1) ∧
    (∀ u ∈ [0, 1], let s := tvm tvr65 u
     s.At te ∧ s.Clear te .no [1, 1, 1] ∧ AL.find s.progs (s.progId te) = some (tvp tvr65 u) ∧ s.memWait te = .none ∧
     s.writesDone (s.progId te) = true ∧ (tvr65 ++ tvr65 ++ tvr65).length = 64 * 3 ∧ s.Uncancelled te (tvp tvr65 u) ∧
     ((List.range 3).map (fun k => ((tvr65 ++ tvr65 ++ tvr65).drop (64 * k)).take 64)).mapM (fun r => shapeOf r (s.channelOk te)) =
       some [tvs65, tvs65, tvs65] ∧ tvs65.aligned = true ∧
     Claims.ElementsPlain s (s.whoGroup te) tvs65 (List.range 65) ∧
     ∃ pl, binaryPlan addRes [tvs65, tvs65, tvs65] = some pl ∧ pl.units = 2) := by
  refine ⟨⟨rfl, tv_clear _ (by decide) rfl rfl, rfl, by decide, by decide, by decide, by decide, ?_, ?_,
    _, rfl, by decide⟩, fun u hu => ?_⟩
  · refine ⟨by decide +kernel, fun k a h => ?_⟩
    have hk : k < 3 := by simpa using (List.getElem?_eq_some_iff.mp h).1
    have ha : a = 0x1000000 := by interval_cases k <;> exact (Option.some.inj h).symm
    subst ha
    refine ⟨by decide, _, plain_at rfl rfl rfl rfl rfl rfl 0 64 (by decide), ?_⟩
    interval_cases k <;> decide +kernel
  · refine elements_at rfl rfl rfl rfl rfl rfl (by decide) (by decide) rfl ?_
    decide +kernel
  · simp only [List.mem_cons, List.not_mem_nil, or_false] at hu
    rcases hu with rfl | rfl <;>
      refine ⟨rfl, tv_clear _ (by decide) rfl rfl, rfl, by decide, by decide, by decide +kernel, ⟨by decide, by decide⟩, by decide +kernel,
        by decide, elements_at rfl rfl rfl rfl rfl rfl (by decide) (by decide) rfl (by decide +kernel), _, rfl, by decide⟩
theorem test_witness_MatrixInstructionsComplete :
    (let s := tm [(1, 1), (2, 0x10000), (3, 0x1000000), (4, 2)] none []
     s.At tme ∧ s.Clear tme .no [1, 2] ∧ s.Clear tme .no [2, 3] ∧ AL.find s.progs (s.progId tme) = some (tmp none) ∧ s.memWait tme = .none ∧
     s.writesDone (s.progId tme) = true ∧ s.Uncancelled tme (tmp none) ∧ (∀ f < 4, s.score 0 f = []) ∧ bits (s.reg tme 1) 63 4 = 0 ∧ bits (s.reg tme 1) 63 2 = 0 ∧ bits (s.reg tme 4) 63 9 = 0 ∧
     bits (s.reg tme 4) 7 2 = 0 ∧ (tmp none).pend.getD Pending.zero = Pending.zero ∧ bits (s.reg tme 2) 12 0 = 0 ∧
     bits (s.reg tme 2) 28 16 = 1 ∧ bits (s.reg tme 2) 15 13 = 0 ∧ bits (s.reg tme 2) 30 29 = 0 ∧ bits (s.reg tme 2) 63 32 = 0 ∧
     (s.reg tme 3).toNat % 2 = 0 ∧ s.PlainRun (s.whoGroup tme) (((s.reg tme 3).toNat % 2 ^ 48 + 2 * (64 * 0)) % 2 ^ 48) 2 (sliceAddr 0 0)) ∧
    (let q := tlastRow
     let s := tm [] (some q) []
     s.writesDone (s.progId tme) = true ∧ s.Uncancelled tme (tmp (some q)) ∧ q.data.length = 64 ∧ q.err = none ∧ q.stage = 0 ∧
     ∃ j, mplaneCheck (tmp (some q)) (s.segsOf 0) q.data = .ok j ∧ j.d.outers = 31 + 1 ∧ j.t.scale = 0 ∧
       Claims.ElementsPlain s (s.whoGroup tme) j.shape ((List.range 64).map (fun k => 31 * 64 + k)) ∧ j.d.olist = 0 ∧
       ∀ p < j.f.p, ∃ f, s.PlainRun (s.whoGroup tme) ((j.d.base.toNat + (if j.d.b then 512 else 256) * p + 8 * 31) % 2 ^ 48) 8 f) ∧
    (let q : Pending := { tq 8 telem none with sent := 31 }
     let s := tm [] (some q) []
     s.writesDone (s.progId tme) = true ∧ s.Uncancelled tme (tmp (some q)) ∧ q.data.length = 32 ∧ q.stage = 8 ∧ ∃ j, mstCheck (tmp (some q)) (s.segsOf 0) q.data (s.reg tme 2) = .ok j ∧
       Claims.ElementsPlain s (s.whoGroup tme) j.shape ((List.range 64).map (fun k => 64 * 31 + k))) ∧
    (let q := tq 8 (tplane ++ tplaneB) (some { trun with pa := 1, pb := 2 })
     (tmp (some q)).pend = some q ∧ q.data.length = 64 ∧ q.err = none ∧ q.stage = 8 ∧ ({ trun with pa := 1, pb := 1 } : MatRun).units ≤ 0 + 1) := by
  refine ⟨⟨rfl, tm_clear _ _ _ _ _ (by decide), tm_clear _ _ _ _ _ (by decide), rfl, by decide, by decide, ⟨by decide, by decide⟩, by decide, by decide,
    by decide, by decide, by decide, rfl, by decide, by decide, by decide, by decide, by decide, by decide, plain_at rfl rfl rfl rfl rfl rfl 0 2 (by decide)⟩,
    ⟨by decide, ⟨by decide, by decide⟩, by decide +kernel, rfl, rfl, _, tplane_job, by decide, rfl, ?_, rfl, ?_⟩,
    ⟨by decide, ⟨by decide, by decide⟩, by decide +kernel, rfl, _, telem_job _, ?_⟩, rfl, by decide +kernel, rfl, rfl, by decide⟩
  · refine elements_at rfl rfl rfl rfl rfl rfl (by decide) (by decide) rfl ?_
    decide +kernel
  · intro p hp
    have hp : p < 8 := hp
    have h : (tjob.d.base.toNat + (if tjob.d.b then 512 else 256) * p + 8 * 31) % 2 ^ 48 = 0x1000000 + (256 * p + 248) := by
      simp [tjob]; omega
    refine ⟨sliceAddr 0 0 + (256 * p + 248), ?_⟩
    rw [h]
    exact plain_at rfl rfl rfl rfl rfl rfl _ 8 (by simp [sliceSize]; omega)
  · refine elements_at rfl rfl rfl rfl rfl rfl (by decide) (by decide) rfl ?_
    decide +kernel

/-! ### Witnesses: trace cores and scope ports -/

/-- A trace core in a state of its control block, on a record. -/
def ttc (st : BitVec 2) : TraceCore :=
  { TraceCore.reset with state := st, ring := 0x1000000, tenants := 0xFFFF, len := 1, loaded := true, store := [0], busy := true }
/-- A state in which it executes. -/
def tt (x : TraceCore) : State := { ts [] with traces := [(0, x)], cur := .trace 0 }
theorem test_witness_GorivoComputes : (tt (ttc 2)).cur = .trace 0 ∧ ((tt (ttc 2)).trace 0).verdict = .none := ⟨rfl, rfl⟩
theorem test_witness_GorivoVerdicts :
    (let s := tt (ttc 2)
     s.cur = .trace 0 ∧ (s.trace 0).verdict = .none ∧ (s.trace 0).request = none ∧ s.waitOf (.trace 0) = .none ∧ (s.trace 0).state = 2 ∧
     (let u : State := { s with cur := .none, traces := AL.put s.traces 0 { s.trace 0 with verdict := .keep } }
      okAnd ((writeVaWait (u.whoTrace 0) 0x1000000 (wordsBytes [0, 0, 0, 0])).exec u) (fun _ t => t.trace 0 == u.trace 0) = true) ∧
     (let u : State := { s with cur := .none, traces := AL.put s.traces 0 { s.trace 0 with verdict := .trigger 3 } }
      okAnd ((writeVaWait (u.whoTrace 0) 0x1000000 (wordsBytes [0, 0, 0, 0])).exec u) (fun _ t => t.trace 0 == u.trace 0) = true)) ∧
    (∀ st ∈ [(0 : BitVec 2), 1, 3], ((tt (ttc st)).trace 0).state = st ∧ (tt (ttc st)).cur = .trace 0) ∧
    (let s := tt (ttc 0)
     (s.cell (s.trace 0).rcell).fieldV = true ∧ AL.find s.fields (s.cell (s.trace 0).rcell).field = some tfield ∧
     tfield.mode = .running) :=
  ⟨⟨rfl, rfl, rfl, by decide, rfl, by decide +kernel, by decide +kernel⟩, by decide, rfl, rfl, rfl⟩
/-- A program that drops every record. -/
def tdrop : BitVec 32 := 21 <<< 26
theorem test_witness_TraceCoresWork :
    (let x := { ttc 2 with busy := false, offered := [(0, ⟨0, 0, 0, 0⟩)], inq := [(0, ⟨0, 0, 0, 0⟩)] }
     let s := tt x
     (s.trace 0).offered = (0, ⟨0, 0, 0, 0⟩) :: [] ∧ (s.trace 0).busy = false ∧ (s.trace 0).inq = (0, ⟨0, 0, 0, 0⟩) :: [] ∧
     (s.trace 0).request = none ∧ (s.trace 0).loading = none ∧ 1 ≤ (s.trace 0).len.toNat ∧ (s.trace 0).len.toNat ≤ 256 ∧
     s.waitOf (.trace 0) = .none ∧ (s.trace 0).tenants.getLsbD 0 = true ∧
     (let s1 : State := { s with traces := AL.put s.traces 0 { x with counters := [], store := [], loading := some 0x1000000 } }
      okAnd ((readVa (s1.whoTrace 0) 0x1000000 4 .r).exec s1) (fun _ t => t.trace 0 == s1.trace 0) = true)) ∧
    (ttc 0).state = 0 ∧ (ttc 2).busy = true :=
  ⟨⟨rfl, rfl, rfl, rfl, rfl, by decide, by decide, by decide, by decide, by decide +kernel⟩, rfl, rfl⟩

theorem test_witness_GorivoInstructionsComplete :
    let s := tt (ttc 2)
    s.cur = .trace 0 ∧ (s.trace 0).verdict = .none ∧ (s.trace 0).request = none ∧ s.waitOf (.trace 0) = .none ∧ (3 : BitVec 18).toNat < 4 ∧
    s.PlainRun (s.whoTrace 0) (((s.trace 0).ring.toNat + 32 * ((s.trace 0).wr.toNat % 2 ^ (s.trace 0).log2n.toNat)) % 2 ^ 48) 32
      (sliceAddr 0 0) :=
  ⟨rfl, rfl, rfl, by decide, by decide, plain_at rfl rfl rfl rfl rfl rfl 0 32 (by decide)⟩

/-- A state with one control message to cell 0 and one scope record there. -/
def tctl (q : Ctl) (r : ScopeRec) : State :=
  { tof { Cell.reset with fieldV := true, scopes := [(0, r)], frames := [(0, { tframe [] with pend := some ⟨5, 0, none, [], 0, [], none, 0, [], [], none⟩ })] } with
    ctls := [(1, q)], acts := [(1, { Act.zero with slot := some 0, holdings := [⟨0, 8⟩] })] }
/-- A control message of a kind from the frame to the home of scope 0. -/
def tctlq (k : CtlKind) (value : Word) (other : BitVec 32) : Ctl := ⟨k, false, 0, 0, 0, other, .frame 0 0, value, [1, 2, 3, 4, 5], .answer, 0⟩
/-- An open scope. -/
def topen : ScopeRec := { ScopeRec.free with life := .open }
/-- It is served. -/
theorem tctl_serves (k : CtlKind) (v : Word) (o : BitVec 32) (r : ScopeRec) :
    (tctl (tctlq k v o) r).Serves 1 (tctlq k v o) k := by
  have h : (tctl (tctlq k v o) r).fencedGca 0 = false := rfl
  refine ⟨rfl, Nat.lt_add_one 1, rfl, rfl, ?_⟩
  cases k <;> simp [State.ctlFenced, tctlq] <;> first | exact h | exact ⟨h, fun _ => h⟩
theorem test_witness_WeightMoves :
    (tctl (tctlq .mint 0 0) topen).Serves 1 (tctlq .mint 0 0) .mint ∧ (tctl (tctlq .mint 0 0) topen).scopeRec 0 = topen ∧
    topen.live = true ∧ topen.canc = false ∧ ScopeRec.free.live = false ∧ devOf (homeOf 0) = 0 ∧
    (tctl (tctlq .grant 0 0) topen).Serves 1 (tctlq .grant 0 0) .grant ∧
    (tctl (tctlq .refuse 0 0) topen).Serves 1 (tctlq .refuse 0 0) .refuse ∧
    AL.find (tctl (tctlq .grant 0 0) topen).acts ((tctl (tctlq .grant 0 0) topen).frame 0 0).act ≠ none ∧
    ((tctl (tctlq .grant 0 0) topen).frame 0 0).pend ≠ none ∧
    (tctl (tctlq .weightReturn 1 0) topen).Serves 1 (tctlq .weightReturn 1 0) .weightReturn ∧
    ¬ (topen.life = .closing ∧ topen.retd + 1 = topen.issued) :=
  ⟨tctl_serves _ _ _ _, rfl, rfl, rfl, rfl, by decide, tctl_serves _ _ _ _, tctl_serves _ _ _ _, by decide, by decide,
   tctl_serves _ _ _ _, by decide⟩
/-- A closing scope to which one unit is still to return. -/
def tclosing (root : Bool) (parent : BitVec 32) : ScopeRec :=
  { ScopeRec.free with life := .closing, issued := 1, root := root, parent := parent }
theorem test_witness_ScopesEmpty :
    (let s := tctl (tctlq .weightReturn 1 0) (tclosing false 5)
     s.Serves 1 (tctlq .weightReturn 1 0) .weightReturn ∧ (s.scopeRec 0).life = .closing ∧ (s.scopeRec 0).retd + 1 = (s.scopeRec 0).issued ∧
     (s.scopeRec 0).canc = false ∧ (s.scopeRec 0).root = false ∧ devOf (homeOf (s.scopeRec 0).parent) = s.devNum) ∧
    (tclosing true 0).root = true ∧ (tclosing true 0).parent = 0 :=
  ⟨⟨tctl_serves _ _ _ _, rfl, by decide, rfl, rfl, by decide⟩, rfl, rfl⟩
/-- The acknowledgement of an unlink to scope 0. -/
def tunlinked : Ctl := ⟨.unlinkack, false, 0, 0, 0, 0, .scope 0, 0, [], .answer, 0⟩
theorem test_witness_ScopesLink :
    (∀ k ∈ [CtlKind.link, .linkres, .unlink, .unlinkack], (tctl (tctlq k 0 5) topen).Serves 1 (tctlq k 0 5) k) ∧
    topen.live = true ∧ topen.canc = false ∧ topen.depth ≠ 15 ∧ ({ topen with depth := 15 } : ScopeRec).depth = 15 ∧
    (0 : Word) ≠ 1 ∧ ScopeRec.free.live = false ∧ ((tctl (tctlq .linkres 0 0) topen).frame 0 0).pend ≠ none ∧
    2 ≤ (2 : Word).toNat ∧ (0 : Word).toNat < 2 ∧ (tctl (tctlq .linkres 2 5) topen).Serves 1 (tctlq .linkres 2 5) .linkres ∧
    (∀ b, b ∈ topen.kids.takeWhile (fun k => k != 5) → (tctl (tctlq .unlink 0 5) topen).homeHere b = false) ∧
    (tctl tunlinked { topen with life := .empty }).Serves 1 tunlinked .unlinkack ∧
    ((tctl tunlinked { topen with life := .empty }).scopeRec 0).life = .empty := by
  refine ⟨fun _ _ => tctl_serves _ _ _ _, rfl, rfl, by decide, rfl, by decide, rfl, by decide, by decide, by decide, tctl_serves _ _ _ _, ?_, ⟨rfl, by decide, rfl, rfl, rfl⟩, rfl⟩
  intro b hb
  have h : topen.kids.takeWhile (fun k => k != 5) = [] := rfl
  rw [h] at hb
  exact absurd hb List.not_mem_nil
theorem test_witness_ScopesAreCancelled :
    (∀ k ∈ [CtlKind.cancel, .choke], (tctl (tctlq k 0 0) topen).Serves 1 (tctlq k 0 0) k) ∧ topen.live = true ∧ topen.canc = false ∧
    topen.shld = false ∧ ({ topen with shld := true } : ScopeRec).shld = true ∧ ScopeRec.free.live = false :=
  ⟨fun _ _ => tctl_serves _ _ _ _, rfl, rfl, rfl, rfl, rfl⟩
theorem test_witness_NoticesAndClears :
    (∀ k ∈ [CtlKind.notice, .clear], (tctl (tctlq k 0 0) topen).Serves 1 (tctlq k 0 0) k) ∧ (0 : Word).toNat < 4096 ∧
    (4095 : Word).toNat < 4096 ∧ (tctl (tctlq .notice 4095 0) topen).Serves 1 (tctlq .notice 4095 0) .notice ∧
    devOf (homeOf 0) = (tctl (tctlq .clear 0 0) topen).devNum ∧
    (let s := tctl (tctlq .clearack 0 0) { topen with life := .empty, acks := [0], unlinked := true }
     AL.find s.ctls 1 = some (tctlq .clearack 0 0) ∧ 1 < s.nextId ∧ s.ctlBehind 1 (tctlq .clearack 0 0) = false ∧
     s.fencedGca (homeOf 0) = false ∧ (s.scopeRec 0).life = .empty) :=
  ⟨fun _ _ => tctl_serves _ _ _ _, by decide, by decide, ⟨rfl, by decide, rfl, rfl, rfl⟩, by decide, rfl, by decide, rfl, rfl, rfl⟩
theorem test_witness_RequestsAreServed :
    (∀ k ∈ [CtlKind.close, .shield, .claim, .check, .climb, .answer], ∀ v : Word, (tctl (tctlq k v 5) topen).Serves 1 (tctlq k v 5) k) ∧
    topen.life = .open ∧ (tclosing false 0).life ≠ .open ∧ topen.live = true ∧ topen.shld = false ∧ topen.root = false ∧ topen.canc = false ∧
    topen.clmd = false ∧ ({ topen with clmd := true } : ScopeRec).clmd = true ∧ (tclosing true 0).root = true ∧
    devOf (homeOf topen.parent) = (tctl (tctlq .climb 0 5) topen).devNum ∧ (0 : Word).toNat % 256 ≤ 15 ∧ 15 < (16 : Word).toNat % 256 ∧
    (tctlq .climb 0 0).scope = (tctlq .climb 0 0).other ∧ (tctlq .climb 0 5).scope ≠ (tctlq .climb 0 5).other ∧
    ((tctl (tctlq .answer 0 0) topen).frame 0 0).pend ≠ none ∧
    (let q : Ctl := { tctlq .answer 1 0 with who := .via 0 (.frame 0 0) }
     (tctl q topen).Serves 1 q .answer ∧ devOf ((tctl q topen).replyTo (.frame 0 0)) = (tctl q topen).devNum) :=
  ⟨fun _ _ v => tctl_serves _ _ _ _, rfl, by decide, rfl, rfl, rfl, rfl, rfl, rfl, rfl, by decide, by decide, by decide, rfl, by decide,
   by decide, ⟨rfl, by decide, rfl, rfl, rfl⟩, by decide⟩

/-! ### Witnesses: engines and copies -/

/-- A state of cell 0 with a program 2 and what its vector sequencer and store buffer hold. -/
def tpr (x : Prog) (sb : List SbEntry) (q : List QItem) (cancels : List (BitVec 32)) : State :=
  { tof { Cell.reset with
      fieldV := true, sb := sb, vector := ⟨[], q, none⟩, cancels := cancels,
      joins := [(9, ⟨0x1000000, [1, 2, 3, 4], Naming.zero, 3, [2], 0⟩), (10, ⟨0x1000000, [1, 2, 3, 4], Naming.zero, 3, [], 0⟩)] } with
    progs := [(2, x)], nextId := 11, acts := [(1, { Act.zero with slot := some 0, cntE := 1, forked := [2] })] }
/-- A program of a life. -/
def tpx (l : ProgLife) : Prog := { tprog with life := l, record := 0x1000040, args := [1, 2, 3], w := 5 }
/-- The entry of its fork. -/
def tpe : SbEntry := ⟨3, 1, .o, 0, tsite, .fork [2], false, 0⟩
theorem test_witness_ProgramsRun :
    (let s := tpr (tpx .buffered) [tpe] [] []
     AL.find s.progs 2 = some (tpx .buffered) ∧ (tpx .buffered).cell = 0 ∧ (s.cell 0).sb = tpe :: [] ∧ tpe.kind = .fork [2] ∧
     (tpx .buffered).life = .buffered ∧ ((s.cell 0).engine .vector).queue.length < 16 ∧ s.waitOf (.prog 2) = .none ∧
     okAnd ((readWords (s.whoCell 0 (.prog 2)) 0x1000040 4 .r).exec s)
       (fun o t => o == [0, 0, 0, 0] && AL.find t.progs 2 == some (tpx .buffered)) = true) ∧
    (let s := tpr (tpx .queued) [] [.prog 2] []
     s.engineStarts 0 = true ∧ ((s.cell 0).engine .vector).run = none ∧ ((s.cell 0).engine .vector).queue = .prog 2 :: [] ∧
     (tpx .queued).life = .queued ∧ (tpx .queued).args = [1, 2, 3] ∧ s.Uncancelled te (tpx .queued)) ∧
    (let s := tpr (tpx .queued) [] [.prog 2] [0]
     s.mayCheck 0 (tpx .queued).naming.scope = true ∧ s.cancelledAt 0 (tpx .queued).naming.scope = true) ∧
    (let s := (tpr (tpx .queued) [] [.prog 2] []).modCell 0 (fun x => { x with overflow := true })
     s.mayCheck 0 (tpx .queued).naming.scope = false ∧ AL.has (s.cell 0).unitAsks (tpx .queued).naming.scope.toNat = false ∧
     s.engineStarts 0 = true ∧ ((s.cell 0).engine .vector).queue = .prog 2 :: [] ∧
     devOf (homeOf (tpx .queued).naming.scope) = s.devNum) ∧
    (let s := tpr (tpx .ending) [] [] []
     (tpx .ending).life = .ending ∧
     s.progs.find? (fun q => q.2.cell == 0 && q.2.unit == .vector && q.2.life == .ending && s.progDrained q.1) = some (2, tpx .ending) ∧
     AL.find s.acts (tpx .ending).act ≠ none ∧ (tpx .ending).w ≠ 0 ∧ devOf (homeOf (tpx .ending).naming.scope) = s.devNum ∧
     ∃ y, AL.find (s.cell 0).joins 9 = some y ∧ 2 ∈ y.progs) :=
  ⟨⟨rfl, rfl, rfl, rfl, rfl, by decide, by decide, by decide +kernel⟩, ⟨by decide, rfl, rfl, rfl, rfl, by decide, by decide⟩, ⟨by decide, by decide⟩,
   ⟨by decide, by decide, by decide, rfl, by decide⟩, rfl, by decide, by decide, by decide, by decide, _, rfl, by decide⟩
theorem test_witness_JoinsAndMarkersRelease :
    (∃ y, AL.find ((tpr (tpx .ending) [] [] []).cell 0).joins 10 = some y ∧ y.progs = []) ∧
    (let s : State := { tpr (tpx .ending) [] [.marker 4] [] with markers := [(4, ⟨0, [.vector]⟩)] }
     AL.find s.markers 4 = some ⟨0, [.vector]⟩ ∧ [EngineUnit.vector].Nodup ∧
     ∀ u ∈ [EngineUnit.vector], ((s.cell 0).engine u).run = none ∧ ((s.cell 0).engine u).queue.head? = some (.marker 4)) :=
  ⟨⟨_, rfl, rfl⟩, rfl, by decide, by decide⟩
/-- Operands of a gang of two planes by one. -/
def tgrun : MatRun := ⟨2, 1, 0, 0, 0, false, false, [], [], [], [], [], [], 0, 0⟩
/-- A strip of one cell whose gang member waits at its join. -/
def tgang (running : Bool) : State :=
  { tof { Cell.reset with fieldV := true, matrix := ⟨[], [], some 2⟩, accOwner := [(0, [4, 6])] } with
    fields := [(0, { tfield with ctx := { tctx with h := 1, w := 1 } })], gangs := [(0, ⟨[(0, false)], running, 0⟩)],
    progs := [(2, { tprog with unit := .matrix, pend := some ⟨11, 0, none, [], 0, [], some tgrun, 0, [], [], none⟩ })], nextId := 3 }
theorem test_witness_FragmentsAndGangs :
    (tgang false).score 0 0 = 4 :: [6] ∧ 4 % 2 = 0 ∧
    (let s := tgang false
     s.segmentCells 0 = [0] ∧ s.stripRuns (0 / 64) = false ∧ s.engineGo 0 = true ∧ s.gangAsks 0 = none ∧ s.gangGone 0 = false ∧ (0, false) ∈ (s.gang 0).arrived ∧
     (0, true) ∉ (s.gang 0).arrived ∧
     (∃ p x q, s.gangMember 0 = some (p, x, q, tgrun) ∧ s.mayCheck 0 x.naming.scope = true ∧ s.cancelledAt 0 x.naming.scope = false) ∧ colOf 0 = tgrun.srccol ∧
     tgrun.aes4 = false) ∧
    (let s := (tgang false).modCell 0 (fun x => { x with cancels := [0] })
     s.segmentCells 0 = [0] ∧ s.stripRuns (0 / 64) = false ∧ s.engineGo 0 = true ∧ s.gangAsks 0 = none ∧ (0, false) ∈ (s.gang 0).arrived ∧
     ∃ p x q, s.gangMember 0 = some (p, x, q, tgrun) ∧ s.cancelledAt 0 x.naming.scope = true) ∧
    ((tgang true).gang 0).running = true ∧ (((tgang true).gang 0).arrived.map Prod.fst).Nodup ∧ ((tgang true).gang 0).arrived ≠ [] ∧
    (tgang true).engineGo 0 = true ∧
    (∃ p x q, (tgang true).gangMember 0 = some (p, x, q, tgrun) ∧ tgrun.pa * tgrun.pb = 2 ∧
      (tgang true).mayCheck 0 x.naming.scope = true ∧ (tgang true).cancelledAt 0 x.naming.scope = false) ∧
    ((tgang true).cluster (clusterOf 0)).stopped = false :=
  ⟨by decide, by decide, ⟨by decide +kernel, by decide, by decide, by decide, by decide, by decide, by decide, ⟨_, _, _, rfl, by decide, by decide⟩, by decide, rfl⟩,
   ⟨by decide +kernel, by decide, by decide, by decide, by decide, _, _, _, rfl, by decide⟩,
   by decide, by decide, by decide, by decide, ⟨_, _, _, rfl, by decide, by decide, by decide⟩, by decide⟩
/-- A copy block of one dimension with byte elements, with a completion message and a bell. -/
def tcb (sync : Addr) : CopyBlock :=
  { src := 0x1000000, dst := 0x1001000, total := 0, bellen := true, chunk := 8, relsc := .cell, cls := .o, ftz := false, sat := false,
    rmode := 0, dfmt := 0, sfmt := 0, conv := false, esize := 1, ndim := 1, bell := 0, scope := 0, chand := 0x1000000,
    cwords := [1, 2, 3, 4], sync := sync, ext := [257], sstr := [1], dstr := [1] }
/-- A copy of activation 1. -/
def tcy (head : Bool) (next : Nat) (chunks : AL Chunk) (phase w : Nat) (sync : Addr) : CopyRun :=
  { id := 5, cell := 0, issuer := .act 1, naming := Naming.zero, field := 0, scope := 0, w := w, block := tcb sync, site := tsite,
    atHead := head, lead := 0, next := next, top := 2, chunks := chunks, flags := 0, stopped := 0, refusal := none, errs := [],
    credits := 0, phase := phase }
/-- A state with that copy. -/
def tcp (y : CopyRun) (cancels : List (BitVec 32)) : State :=
  { tof { tcell (tframe []) with streamer := ⟨[], [.copy 2], none⟩, cancels := cancels } with
    copies := [(2, y)], nextId := 3, acts := [(1, { Act.zero with slot := some 0, cntE := 1 })] }
theorem test_witness_ChunksStart :
    (let s := tcp (tcy false 0 [] 0 5 0) []
     AL.find s.copies 2 = some (tcy false 0 [] 0 5 0) ∧ (s.cell 0).streamer.queue = .copy 2 :: [] ∧ (s.cell 0).streamer.run = none ∧
     (tcy false 0 [] 0 5 0).atHead = false ∧ s.engineStarts 0 = true) ∧
    (let y := tcy true 0 [] 0 5 0
     let s := tcp y []
     y.mayStart = true ∧ s.engineGo 0 = true ∧ s.guestChunk 0 = false ∧ s.mayCheck 0 y.scope = true ∧ s.cancelledAt 0 y.scope = false ∧ s.forwardTo y y.next = none ∧
     (tcp y [0]).mayCheck 0 y.scope = true ∧ (tcp y [0]).cancelledAt 0 y.scope = true ∧
     (s.modCell 0 (fun x => { x with overflow := true })).mayCheck 0 y.scope = false) ∧
    (let y := tcy true 1 [(0, ⟨0, 0, .forwarded⟩)] 0 5 0
     AL.find y.chunks 0 = some ⟨0, 0, .forwarded⟩ ∧ y.stopped = 0 ∧ ({ y with stopped := 1 } : CopyRun).stopped ≠ 0 ∧
     (tcp y []).engineGo 0 = true ∧ (tcp y []).mayCheck 0 y.scope = true ∧ (tcp y []).cancelledAt 0 y.scope = false) ∧
    (let y := tcy true 0 [] 0 5 0
     let s : State := { tcp y [] with fields := [(0, { tfield with segs := [{ tseg with kind := 2, kf := 0x80 }] })] }
     AL.find y.chunks 0 = none ∧ ∃ c, s.forwardTo y y.next = some c) ∧
    (let y := tcy true 0 [] 0 5 0
     let s : State := { tcp y [] with cells := [(0, { Cell.reset with fieldV := true }), (1, { Cell.reset with fieldV := true })] }
     (s.cell 1).streamer.run = none ∧ (s.cell 1).streamer.queue = [] ∧ s.guestChunk 1 = false ∧ s.engineGo 1 = true ∧
     (s.cell 1).fieldV = true ∧ 0 ∈ clusterCells (clusterOf 1) ∧ (s.cell 0).field = (s.cell 1).field ∧
     s.currentCopy 0 = some (2, y) ∧ y.stopped = 0 ∧ y.next + 2 ≤ y.top ∧ y.issuer = .act 1 ∧
     ∀ u ∈ clusterCells (clusterOf 1), u ≠ 0 → s.currentCopy u = none) :=
  ⟨⟨rfl, rfl, rfl, rfl, by decide⟩, ⟨by decide, by decide, by decide, by decide, by decide, by decide, by decide, by decide, by decide⟩, ⟨rfl, rfl, by decide, by decide, by decide, by decide⟩,
   ⟨rfl, 1, by decide +kernel⟩,
   rfl, rfl, by decide, by decide, rfl, by decide, rfl, by decide, rfl, by decide, rfl, by decide⟩
theorem test_witness_ChunksArePerformed :
    let y := tcy true 2 [(1, ⟨0, 0, .started⟩)] 0 5 0
    let s := tcp y []
    let e := 1 * y.block.perChunk
    AL.find s.copies 2 = some y ∧ AL.find y.chunks 1 = some ⟨0, 0, .started⟩ ∧ s.waitOf (.chunk 2 1) = .none ∧ s.chunkAway 2 1 = false ∧
    y.block.conv = false ∧ esizeBits y.block.esize = 8 * 1 ∧ min y.block.perChunk (y.block.count - e) = 1 ∧
    (elemPlace y.block.src (elemIndex (y.block.ext.take y.block.ndim) y.block.sstr e) 8).1 = 0x1000100 ∧
    (elemPlace y.block.dst (elemIndex (y.block.ext.take y.block.ndim) y.block.dstr e) 8).1 = 0x1001100 ∧
    resolve (s.segsOf 0) (some 0) 0x1000100 .r = .sram (sliceAddr 0 0x100) ∧
    resolve (s.segsOf 0) (some 0) 0x1001100 .w = .sram (sliceAddr 0 0x1100) ∧ s.flatFenced (sliceAddr 0 0x100) = false ∧
    s.poisoned (sliceAddr 0 0x100) 1 = false ∧ s.flatFenced (sliceAddr 0 0x1100) = false ∧
    s.narrowPoison (sliceAddr 0 0x1100) 1 = false ∧ s.raceOn (sliceAddr 0 0x1100) = false ∧ s.cold (sliceAddr 0 0x100 / 64) = true ∧
    s.cold (sliceAddr 0 0x1100 / 64) = true ∧ ∀ n, ownerCell (sliceAddr 0 0x1100) = some n → s.follower n = none := by
  refine ⟨rfl, rfl, by decide, by decide, rfl, by decide, by decide +kernel, by decide, by decide, by decide, by decide, by decide,
    by decide, by decide, by decide, by decide, by decide, by decide, ?_⟩
  intro n h; cases h; rfl
/-- A chunk is refused. -/
theorem refusedChunk {r : ChunkRun} (h : (match r with | .refused _ _ => true | _ => false) = true) : ∃ e s, r = .refused e s := by
  cases r with
  | refused e s => exact ⟨e, s, rfl⟩
  | _ => cases h
theorem test_witness_ChunksAreRefused :
    let y := { tcy true 1 [(0, ⟨0, 0, .started⟩)] 0 5 0 with block := { tcb 0 with src := 0xFFFF0000, ext := [1] } }
    let s := tcp y []
    AL.find s.copies 2 = some y ∧ AL.find y.chunks 0 = some ⟨0, 0, .started⟩ ∧ y.refusal = none ∧
    (∃ e s1, s.runChunk 2 0 y ⟨0, 0, .started⟩ = .refused e s1) ∧
    (match s.runChunk 2 0 y ⟨0, 0, .started⟩ with
     | .refused _ s1 => (match AL.find s1.copies 2 with | some z => z.refusal == none | none => false) && s1.runningSlot 1 == some 0 && (s1.frame 0 0).trap == none &&
         (AL.find s1.acts 1).isSome
     | _ => false) = true :=
  ⟨rfl, rfl, rfl, refusedChunk (by decide +kernel), by decide +kernel⟩
theorem test_witness_CopiesEnd :
    (let y := tcy true 2 [] 0 5 0
     let s := tcp y []
     AL.find s.copies 2 = some y ∧ s.flights = [] ∧ y.phase = 0 ∧ y.quiet = true ∧ y.credits = 0 ∧ y.block.bellen = true ∧
     y.block.chand ≠ 0) ∧
    (let y := tcy true 2 [] 1 5 0
     y.phase = 1 ∧ y.issuer = .act 1 ∧ AL.find (tcp y []).acts 1 ≠ none ∧ (tcp y []).wakes = []) ∧
    (let y := tcy true 2 [] 2 5 0
     2 ≤ y.phase ∧ (∀ p, y.issuer = .prog p → (tcp y []).awaited 2 (some p) = false) ∧ y.w ≠ 0 ∧
     devOf (homeOf y.scope) = (tcp y []).devNum) ∧
    ({ tcb 0 with bellen := false, chand := 0 } : CopyBlock).chand = 0 :=
  ⟨⟨rfl, rfl, rfl, by decide, rfl, rfl, by decide⟩, ⟨rfl, rfl, by decide, rfl⟩, ⟨by decide, nofun, by decide, by decide⟩, rfl⟩
/-- A credit to a sync word at the start of the slice. -/
def tcr : Credit := ⟨some 2, 0, 0, 0x1000000, 8, false, 0, .none, Naming.zero, 5⟩
/-- A segment with every permission. -/
def tsegAll : Seg := ⟨0x1000000, sliceSize, true, true, true, true, 1, false, 0, 0⟩
/-- A state with that credit, whose request to the engine waits for an answer or has it. -/
def tcs (fs : AL Flight) (ws : List WaitRec) (m : Memory) : State :=
  { tcp (tcy true 2 [] 0 5 0x1000000) [] with credits := [(2, tcr)], flights := fs, waits := ws, mem := m }
/-- The credit at the engine. -/
def tcf : Flight := { tflight (.credit 8) .going false with
  issuer := .line (.credit 2), va := 0x1000000, target := .sram (sliceAddr 0 0), second := .sram (sliceAddr 0 0) }
theorem test_witness_SyncWordsCount :
    (let s := tcs [] [] []
     AL.find s.credits 2 = some tcr ∧ s.waitOf (.credit 2) = .none ∧ AL.find (s.linesOf (.credit 2)) (engineKey 0x1000000) = none ∧
     resolve (s.whoCredit 2 tcr).segs (s.whoCredit 2 tcr).window 0x1000000 .atom = .sram (sliceAddr 0 0)) ∧
    (let s := tcs [(3, tcf)] [] []
     s.engineReady 0 = [(3, tcf)] ∧ AL.find s.flights 3 = some tcf ∧ tcf.op = .credit 8 ∧ tcf.issuer = .line (.credit 2) ∧
     tcf.target = .sram (sliceAddr 0 0) ∧ s.flatFenced (sliceAddr 0 0) = false ∧ s.poisoned (sliceAddr 0 0) 16 = false ∧
     ∀ c, ownerCell (sliceAddr 0 0) = some c → s.follower c = none) ∧
    (∀ w1 : Bool, let bs := leBytes 8 8 ++ leBytes 8 (if w1 then 0x1000000000 else 0)
     let s := tcs [] [⟨.credit 2, .none, [(engineKey 0x1000000, bs)], [], none⟩] []
     tcr.copy = some 2 ∧ tcr.hub = false ∧ AL.find s.copies 2 = some (tcy true 2 [] 0 5 0x1000000) ∧ s.waitOf (.credit 2) = .none ∧
     AL.find (s.linesOf (.credit 2)) (engineKey 0x1000000) = some bs ∧ bs.length = 16 ∧
     resolve (s.whoCredit 2 tcr).segs (s.whoCredit 2 tcr).window 0x1000000 .r = .sram (sliceAddr 0 0) ∧
     (BitVec.ofNat 64 (leNat (bs.drop 8))).getLsbD 36 = w1 ∧
     leNat (bs.take 4) ≠ 0 ∧ 0 < (leNat ((bs.drop 4).take 4) + tcr.bytes) / leNat (bs.take 4)) := by
  refine ⟨⟨rfl, by decide, by decide, by decide⟩, ⟨by decide, rfl, rfl, rfl, rfl, by decide, by decide, ?_⟩, fun w1 => ?_⟩
  · intro c h; cases h; rfl
  · cases w1 <;> exact ⟨rfl, rfl, rfl, by decide, by decide, by decide, by decide, by decide, by decide, by decide⟩
/-- A message that waits to be sent. -/
def twk (service granted : Bool) : WakeDue := ⟨Msg.zero, some 2, none, none, service, false, granted, false⟩
theorem test_witness_WakesAreSent :
    (let s : State := { tcp (tcy true 2 [] 1 5 0) [] with wakes := [(1, twk true true)] }
     AL.find s.wakes 1 = some (twk true true) ∧ (twk true true).service = true ∧ (twk true true).granted = true) ∧
    (∀ w ∈ [5, 1], let s : State := { tcp (tcy true 2 [] 1 w 0) [] with wakes := [(1, twk false false)] }
      AL.find s.wakes 1 = some (twk false false) ∧ (twk false false).service = false ∧ (twk false false).copy = some 2 ∧
      (twk false false).prog = none ∧ (twk false false).xfer = none ∧ AL.find s.copies 2 = some (tcy true 2 [] 1 w 0) ∧
      (∀ p ∈ s.wakes, ¬ p.1 < 1) ∧ (twk false false).asked = false ∧ devOf (homeOf (twk false false).msg.scope) = s.devNum) ∧
    1 < (tcy true 2 [] 1 5 0).w ∧ (tcy true 2 [] 1 1 0).w ≤ 1 := by
  refine ⟨⟨rfl, rfl, rfl⟩, fun w _ => ⟨rfl, rfl, rfl, rfl, rfl, rfl, ?_, rfl, rfl⟩, by decide, by decide⟩
  intro p hp
  have : p = (1, twk false false) := by simpa using hp
  subst this
  decide

/-! ### Witnesses: the fabric -/

/-- A packet from the hub of this device to device 1. -/
def tpk (kind : Nat) : Packet := { Packet.zero with kind := kind, dst := 0x1000, hub := true, w := 3, words := [0, 0, 0, 0] }
/-- A state with one packet at a place, and port 0 up. -/
def tpkt (p : Packet) (place : PacketPlace) (routes : AL Route) : State :=
  { ts [] with packets := [(1, ⟨p, place, 1, 0, 0, [], [], none, none⟩)], routes := routes, ports := [(0, { Port.reset with up := true })], cur := .none }
theorem test_witness_PacketsAreForwarded :
    (let s := tpkt (tpk 0) (.egress none) [(1, ⟨1, false, true, 1, 0⟩)]
     AL.find s.packets 1 = some ⟨tpk 0, .egress none, 1, 0, 0, [], [], none, none⟩ ∧ s.packetQueued 1 (tpk 0) = false ∧
     s.packetBehind 1 ⟨tpk 0, .egress none, 1, 0, 0, [], [], none, none⟩ = false ∧ (s.route (devOf (tpk 0).dst).toNat).valid = true ∧
     (s.route (devOf (tpk 0).dst).toNat).oport = 0 ∧ (tpk 0).cls = .o ∧ (tpk 0).hop < 9 ∧
     (∀ a ∈ (s.port 0).acks, a.1 < 4) ∧ s.portTurn 1 (tpk 0).hop 0 = true ∧ s.portRoom 0 (tpk 0).tenant { tpk 0 with vrand := 0 }.flits.length = true ∧ s.flights = [] ∧
     ({ s with ports := [] } : State).portRoom 0 (tpk 0).tenant { tpk 0 with vrand := 0 }.flits.length = false) ∧
    (let r : PacketRun := ⟨tpk 0, .egress none, 1, 0, 0, [], [], some (true, 0, 5), none⟩
     let s : State := { tpkt (tpk 0) (.egress none) [] with packets := [(1, r)] }
     s.packetBehind 1 r = false ∧ s.portTurn 1 (tpk 0).hop 0 = true ∧ s.portRoom 0 (tpk 0).tenant { tpk 0 with vrand := 5 }.flits.length = true) ∧
    (let s := tpkt (tpk 0) (.egress none) []
     (s.route (devOf (tpk 0).dst).toNat).valid = false ∧ (tpk 0).mc = false ∧ devOf (tpk 0).src = s.devNum ∧ (tpk 0).hub = true ∧
     (tpk 0).w ≠ 0 ∧ devOf (homeOf (tpk 0).scope) = s.devNum) :=
  ⟨⟨rfl, by decide, by decide, by decide, by decide, rfl, by decide, by decide, by decide, by decide, rfl, by decide⟩, ⟨by decide, by decide, by decide⟩,
   by decide, rfl, by decide, rfl, by decide, by decide⟩
/-- Replicas of a packet that is held until they have left. -/
def trepl (more : AL PacketRun) : State :=
  { tpkt (tpk 0) (.egress none) [] with
    packets := [(1, ⟨tpk 0, .egress (some 0), 0, 0, 0, [], [], none, some 2⟩), (2, ⟨tpk 0, .held (some 3), 1, 0, 0, [], [], none, none⟩)] ++ more }
theorem test_witness_ReplicasLeave :
    (∀ more ∈ [[], [(3, (⟨tpk 0, .egress (some 1), 0, 0, 0, [], [], none, some 2⟩ : PacketRun))]], let s := trepl more
     let r : PacketRun := ⟨tpk 0, .egress (some 0), 0, 0, 0, [], [], none, some 2⟩
     AL.find s.packets 1 = some r ∧ 1 ≠ 2 ∧ s.packetQueued 1 r.pkt = false ∧ s.packetBehind 1 r = false ∧
     s.portTurn 1 r.pkt.hop 0 = true ∧ r.pkt.hop < 9 ∧ s.portRoom 0 r.pkt.tenant r.pkt.flits.length = true ∧
     (∀ a ∈ (s.port 0).acks, a.1 < 4) ∧ r.pkt.kind = 0) := by
  intro more h
  simp only [List.mem_cons, List.not_mem_nil, or_false] at h
  rcases h with rfl | rfl <;>
    exact ⟨rfl, by decide, by decide, by decide, by decide, by decide, by decide, by decide, rfl⟩
/-- A frame on virtual channel 0 with a good CRC. -/
def tfr (flit : List Word) (vc : Nat) : LinkFrame := linkSeal flit 7 0 vc true true (0, 0)
/-- It was sent. -/
def tsf : SentFrame := ⟨0, tfr (List.replicate 8 0) 0, 0, 0, 0, 1⟩
theorem test_witness_FramesAreAcknowledged :
    (let s : State := { ts [] with ports := [(0, { Port.reset with up := true, replay := [tsf] })] }
     (s.port 0).replay = [] ++ tsf :: [] ∧ tsf.seq = 0 ∧ [tsf] = [] ++ tsf :: [] ∧ linkEop tsf.frame = true ∧ (s.port 0).refused = []) ∧
    (let s : State := { ts [] with ns := 64, ports := [(0, { Port.reset with up := true, refused := [⟨[tsf], 0⟩] })] }
     (s.port 0).refused = [⟨[tsf], 0⟩] ∧ 0 + 64 ≤ s.ns ∧ (s.port 0).replay.length + (0 + 1) ≤ 256 ∧ (s.port 0).acks = [] ∧ tsf.vc < 9) :=
  ⟨⟨rfl, rfl, rfl, (linkGood_linkSeal (List.replicate 8 0) 7 0 0 true true (0, 0) (by decide) (.inl (by decide)) (by decide)).2.2.2.2.2.1,
    rfl⟩, rfl, by decide, by decide, rfl, by decide⟩
/-- It is a good frame of virtual channel 0. -/
theorem tfr_good (flit : List Word) (vc : Nat) (h : vc < 9 ∨ vc = 15) :
    linkGood (tfr flit vc) = true ∧ linkVc (tfr flit vc) = vc ∧ linkSeq (tfr flit vc) = 0 ∧ linkCtxid (tfr flit vc) = 7 ∧
    linkSop (tfr flit vc) = true ∧ linkEop (tfr flit vc) = true ∧ linkAckSeq (tfr flit vc) = 0 ∧ linkAckKind (tfr flit vc) = 0 :=
  linkGood_linkSeal flit 7 0 vc true true (0, 0) (by decide) h (by decide)
theorem test_witness_FramesArrive :
    (∃ side : Word, linkGood ⟨List.replicate 8 0, side⟩ = false) ∧
    (let f := tfr (List.replicate 8 0) 0
     linkGood f = true ∧ linkAckKind f = 0 ∧ linkVc f ≠ 15 ∧ linkSop f = true ∧ linkSeq f = Port.reset.recvSeq ∧
     linkSeq f ≠ ({ Port.reset with recvSeq := 1 } : Port).recvSeq) ∧
    (let f := tfr (List.replicate 8 1) 15
     linkGood f = true ∧ linkAckKind f = 0 ∧ linkVc f = 15 ∧ f.flit.length = 8 ∧
     leNat ((controlBytes f).drop 24 |>.take 8) ≠ 0) ∧
    leNat ((controlBytes (tfr (List.replicate 8 0) 15)).drop 24 |>.take 8) = 0 := by
  refine ⟨⟨0x900000000, by simp [linkGood, linkVc, bits]⟩, ?_, ?_, by decide +kernel⟩
  · obtain ⟨h1, h2, h3, -, h5, -, -, h8⟩ := tfr_good (List.replicate 8 0) 0 (.inl (by decide))
    exact ⟨h1, h8, by rw [h2]; decide, h5, h3, by rw [h3]; decide⟩
  · obtain ⟨h1, h2, -, -, -, -, -, h8⟩ := tfr_good (List.replicate 8 1) 15 (.inr rfl)
    exact ⟨h1, h8, h2, rfl, by decide +kernel⟩
/-- The flit of a packet to this device. -/
def tflit : List Word := ({ tpk 0 with dst := 0 } : Packet).flits.headD []
theorem test_witness_PacketsAreAccepted :
    let f := tfr tflit 0
    let s : State := { ts [] with ports := [(0, { Port.reset with up := true, waiting := [f] })] }
    let p := Packet.ofFlits (linkCtxid f) [f.flit]
    (s.port 0).waiting = [f] ∧ linkSop f = true ∧ linkEop f = true ∧ (s.port 0).blocked = [] ∧ bits (f.flit.headD 0) 59 57 = 0 ∧
    (s.placePart 0 (Packet.ofHeader (linkCtxid f) f.flit).tenant (linkVc f) 1).isSome = true ∧ p.ok [f.flit] = true ∧
    p.mc = false ∧ devOf p.dst = s.devNum ∧ p.kind ≠ 7 := by
  obtain ⟨-, h2, -, h4, h5, h6, -, -⟩ := tfr_good tflit 0 (.inl (by decide))
  refine ⟨rfl, h5, h6, rfl, by decide +kernel, ?_, ?_, ?_, ?_, ?_⟩ <;> rw [h4]
  · rw [h2]; decide +kernel
  · decide +kernel
  · decide +kernel
  · decide +kernel
  · decide +kernel
theorem test_witness_TimeIsAligned :
    (let s := tpkt (tpk 0) (.egress none) []
     s.ns < 2 ^ 64 ∧ s.ns - (s.port 0).peerAt < 2 ^ 32 ∧ (s.port 0).acks = [] ∧ s.time.reference = s.devNum ∧ s.time.loaded = false) ∧
    (let s : State := { State.reset with
       time := ⟨1, 0, 0, false⟩, ports := [(3, { Port.reset with up := true, peerDist := 0, peerRef := 1, offsets := [4, 6] })] }
     s.time.reference ≠ s.devNum ∧ s.timeParent = some 3 ∧ s.time.loaded = false ∧ s.fields = []) :=
  ⟨⟨by decide, by decide, rfl, rfl, rfl⟩, by decide, by decide +kernel, rfl, rfl⟩
/-- The state of a packet that is to be served, in a field that is a rectangle of one cell. -/
def tserve (p : Packet) : State :=
  { tpkt p (.served none) [] with fields := [(0, { tfield with segs := [tseg], ctx := { tctx with h := 1, w := 1 } })] }
/-- A packet from device 1 to cell 0 with the CTXID of the field. -/
def tin (kind : Nat) : Packet := { tpk kind with src := 0x1000, dst := 0, ctxid := 7, elem := 1, addr := 0x1000000, op := 0 }
theorem test_witness_PacketsAreServed :
    (let s := tserve (tin 0)
     AL.find s.packets 1 = some ⟨tin 0, .served none, 1, 0, 0, [], [], none, none⟩ ∧ (tin 0).mc = false ∧ s.servedBehind 1 (tin 0) = false ∧
     1 < s.nextId ∧ (tin 0).kind = 0 ∧ isBuiltIn (tin 0).handler = false ∧
     (s.route (devOf (tin 0).src).toNat).hostn = false ∧
     (∃ f, s.fieldByCtx (tin 0).ctxid = some f ∧ f.ctx.holds (cellOf (tin 0).dst) = true ∧
       f.ctx.tenants.getLsbD (tin 0).tenant.toNat = true) ∧ s.fieldByCtx 8 = none ∧ devOf (tin 0).src ≠ s.devNum) ∧
    (tin 6).kind = 6 ∧
    (let p := { tin 5 with words := (tpk 0).header }
     (Packet.ofHeader 0 p.words).kind = 0 ∧ (Packet.ofHeader 0 p.words).w ≠ 0 ∧ (Packet.ofHeader 0 p.words).hub = true ∧
     devOf (homeOf (Packet.ofHeader 0 p.words).scope) = 0) ∧
    (let m := Packet.ofHeader 0 { tpk 6 with hub := false }.header
     m.kind ≠ 0 ∧ m.hub = false ∧ ∃ f, (tserve (tin 5)).fieldOf (cellOf m.src) = some f) ∧
    (let f := tflight (.load 8) .away false
     let s : State := { tserve (tin 4) with flights := [(1, f)] }
     s.flightByRid (tin 4).elem = some (1, f) ∧ AL.find s.flights 1 = some f ∧ f.issuer = .act 1 ∧ f.posted = false ∧
     (tin 4).status = 0 ∧ f.op = .load 8 ∧ ({ tin 4 with status := 2 } : Packet).status ≠ 0) :=
  ⟨⟨rfl, rfl, by decide, by decide, rfl, by decide, rfl, ⟨_, rfl, by decide, by decide⟩, by decide, by decide⟩, rfl,
   ⟨by decide, by decide, by decide, by decide⟩, ⟨by decide, by decide, _, rfl⟩, by decide, rfl, rfl, rfl, rfl, rfl, by decide⟩
theorem test_witness_RemoteAccessesAreServed :
    (∀ k ∈ [1, 2, 3], let s := tserve (tin k)
      AL.find s.packets 1 = some ⟨tin k, .served none, 1, 0, 0, [], [], none, none⟩ ∧ (tin k).mc = false ∧ s.servedBehind 1 (tin k) = false ∧
      s.waitOf (.packet 1) = .none ∧ 1 < s.nextId ∧ devOf (tin k).src ≠ s.devNum ∧ s.fieldByCtx (tin k).ctxid ≠ none) ∧
    (let s := tserve (tin 1)
     s.fieldByCtx 9 = none ∧
     ∃ f, s.fieldByCtx 7 = some f ∧ f.ctx.tenants.getLsbD (tin 1).tenant.toNat = true ∧ f.ctx.holds (cellOf (tin 1).dst) = true ∧ onceOnly f.segs 0x1000000 = false ∧
      (∀ n ∈ [1, 8], oneRegion f.segs 0x1000000 n = true ∧ 0x1000000 % n = 0 ∧ s.poisoned (sliceAddr 0 0) n = false) ∧
      (∀ need ∈ [Need.r, .w, .atom], resolve f.segs none 0x1000000 need = .sram (sliceAddr 0 0)) ∧
      s.flatFenced (sliceAddr 0 0) = false ∧ s.raceOn (sliceAddr 0 0) = false ∧ s.cold (sliceAddr 0 0 / 64) = true ∧
      (∀ c, ownerCell (sliceAddr 0 0) = some c → s.follower c = none)) ∧
    2 ^ (tin 1).op.toNat = 1 ∧ (tin 2).storeLength = 1 ∧ (tin 2).words ≠ [] ∧ (tin 3).atomOp = some (.atomic .add false 0 0) ∧
    AL.find ((tserve (tin 3)).linesOf (.packet 1)) (engineKey 0x1000000) = none ∧
    (∃ bs, AL.find (({ tserve (tin 3) with waits := [⟨.packet 1, .none, [(engineKey 0x1000000, [0])], [], none⟩] } : State).linesOf (.packet 1))
      (engineKey 0x1000000) = some bs) := by
  refine ⟨by decide, ⟨by decide, _, rfl, by decide, by decide, by decide, by decide, by decide, by decide, by decide, by decide, ?_⟩,
    by decide, by decide, by decide, rfl, by decide, _, rfl⟩
  intro c h; cases h; rfl
/-- A multicast packet with a tree. -/
def tmc (tree : List Byte) : Packet := { tin 0 with mc := true, tree := BitVec.ofNat 8 tree.length :: tree }
theorem test_witness_MulticastReplicates :
    (let s := tserve (tmc [1, 0x40, 0])
     AL.find s.packets 1 = some ⟨tmc [1, 0x40, 0], .served none, 1, 0, 0, [], [], none, none⟩ ∧ (tmc [1, 0x40, 0]).mc = true ∧
     s.servedBehind 1 (tmc [1, 0x40, 0]) = false ∧ (tmc [1, 0x40, 0]).hop < 9 ∧ 1 < s.nextId) ∧
    treeBranches [1, 0x40, 0] = [.deliver] ∧ treeBranches [1, 63, 3, 1, 0x40, 0] = [.forward 63 [1, 0x40, 0]] ∧
    treeBranches [1, 0x80, 255] = [.group 255] ∧
    (let r : PacketRun := ⟨tmc [1, 0x80, 255], .served none, 1, 0, 0, [], [(255, ⟨0x8000000000000001, true, false⟩)], none, none⟩
     let s : State := { tserve (tmc [1, 0x80, 255]) with packets := [(1, r)] }
     AL.find s.packets 1 = some r ∧ s.servedBehind 1 r.pkt = false ∧
     AL.find r.groups 255 = some ⟨0x8000000000000001, true, false⟩) :=
  ⟨⟨rfl, rfl, by decide, by decide, by decide⟩, by decide, by decide, by decide, rfl, by decide, rfl⟩

/-! ### Witnesses: the command processors -/

/-- A queue of 16 packets with its ring at the start of the slice, bound to host 5. -/
def tqe (st : QueueState) (pkt : Option (List Word)) : QueueEntry :=
  { QueueEntry.reset with
    log2n := 4, ring := 0x1000000, tail := 2, head := 1, host := 5, state := st, packet := pkt, age := 1, toll := 1, tollrun := 1 }
/-- A state with that queue as queue 0. -/
def tqs (st : QueueState) (pkt : Option (List Word)) (work : Option Nat) : State :=
  { tof Cell.reset with
    cur := .none, queues := [(0, tqe st pkt)], cps := [(0, ⟨[0], work, []⟩)],
    fields := [(0, { tfield with ctx := { tctx with h := 1, w := 1 } })] }
/-- A message to a built-in handler. -/
def tbi (h : Addr) : MsgFlight := ⟨{ Msg.zero with handler := h, src := 0x5000, words := [0, 3, 0, 0], w := 1 }, 0x5000⟩
/-- A state with that message. -/
def tbs (h : Addr) : State := { tqs .ready none none with msgs := [(1, tbi h)] }
theorem test_witness_DoorbellsRing :
    (let s := tqs .ready none none
     BitVec.ofNat 12 5 = (s.queue 0).host ∧ (s.queue 0).state ≠ .disabled ∧ BitVec.ofNat 12 6 ≠ (s.queue 0).host ∧
     ((3 : BitVec 32) - (s.queue 0).tail).toNat < 2 ^ 31 ∧ ((3 : BitVec 32) - (s.queue 0).head).toNat ≤ 2 ^ (s.queue 0).log2n ∧
     2 ^ 31 ≤ ((1 : BitVec 32) - (s.queue 0).tail).toNat ∧ ((18 : BitVec 32) - (s.queue 0).tail).toNat < 2 ^ 31 ∧
     2 ^ (s.queue 0).log2n < ((18 : BitVec 32) - (s.queue 0).head).toNat) ∧
    (∀ h : Addr, AL.find (tbs h).msgs 1 = some (tbi h) ∧ (tbs h).msgBehind 1 (tbi h) = false ∧
     (tbi h).msg.words = 0 :: 3 :: [0, 0] ∧ (tbi h).msg.w ≠ 0) ∧
    (let h : Addr := 0xFFFFFFFFFFE0
     (tbs h).queued 1 (tbi h) = false ∧ (tbs h).sourceFenced (tbi h).msg = false ∧ devOf (homeOf (tbi h).msg.scope) = (tbs h).devNum ∧
     devOf (tbi h).msg.src = ((tbs h).queue 0).host) ∧
    (let q : InSlot := ⟨(tbi 0xFFFFFFFFFFA0).msg, 0, 4, none, none, none, false, false⟩
     let s : State := { ts [] with cells := [(0, { Cell.reset with slots := [(0, q)] })] }
     AL.find s.msgs 4 = none ∧ s.builtInSlot 4 = some (0, 0, q) ∧ q.msg.handler ≠ 0xFFFFFFFFFFC0 ∧ s.follower 0 = none ∧ q.msg.w ≠ 0 ∧
     devOf (homeOf q.msg.scope) = s.devNum) :=
  ⟨by decide, fun _ => ⟨rfl, by simp [State.msgBehind, State.accessBefore, tbs, tbi, tqs, tof, State.reset], rfl, Nat.one_ne_zero⟩,
   by decide, by decide⟩
/-- A NOP packet. -/
def tnop : List Word := [0, 0, 0, 0, 0, 0, 0, 0]
theorem test_witness_QueuesAreChosen :
    (∀ ws ∈ [tnop, [9]], let s := tqs .ready (some ws) none
     (s.cp 0).work = none ∧ s.competing 0 = [] ∧ (∀ k ∈ s.queues, (s.queue k.1).headDue = false) ∧
     AL.find s.queues 0 = some (tqe .ready (some ws)) ∧ 0 ∈ (s.cp 0).slots ∧
     (∀ k ∈ (s.cp 0).slots, ((s.queue k).state = .ready → (s.queue k).packet ≠ none) ∧ s.reachHead k = s) ∧
     s.mayProcess 0 (tqe .ready (some ws)) = true ∧ cpOf 0 = 0 ∧ (∀ k ∈ s.queues, k = (0, tqe .ready (some ws)))) ∧
    hostPacketOk tnop = true ∧ hostPacketOk [9] = false := by decide
/-- A packet of a kind that names the start of the slice. -/
def tpkw (w0 : Word) : List Word := [w0, 0x1000000, 0, 0, 0, 0, 0, 0]
/-- Queue 0 with a ready packet that has come to its head in the only slot of processor 0. -/
def tqr (w0 : Word) : State := tqs .ready (some (tpkw w0)) none
/-- A FENCE packet for queue 0, its other words zero. -/
def tpkf : List Word := [0x10004, 0, 0, 0, 0, 0, 0, 0]
/-- Queue 0 with that packet ready. -/
def tqrf : State := tqs .ready (some tpkf) none
/-- Its launch 7 is outstanding. -/
def tqf (s : State) : State := { s with launches := [(7, ⟨0, 0, 0, [], 0, 1, 0, 0, .outstanding, false, false⟩)] }
theorem test_witness_PacketsAreConsumed :
    (∀ k : Word, let s := tqs .ready (some (tpkw k)) (some 0)
     s.queue 0 = tqe .ready (some (tpkw k)) ∧ cpOf 0 = 0 ∧ s.waitOf (.queue 0) = .none ∧ s.waitOf (.wait 0) = .none ∧
     (s.cp 0).work = some 0 ∧ (s.queue 0).state = .ready ∧ (s.queue 0).fenceOn = none) ∧
    (∀ k ∈ [(0 : Word), 3, 4, 2], bits k 7 0 = k.toNat) ∧
    (let s := tqs .ready (some (tpkw 3)) (some 0)
     okAnd ((writeVaWait (s.whoQueue 0 (.queue 0)) 0x1000000 (leBytes 8 0)).exec s) (fun _ u => u.queues == s.queues && u.cps == s.cps) = true ∧
     AL.find (s.linesOf (.queue 0)) (engineKey 0x1000000) = none ∧
     resolve (s.whoQueue 0 (.queue 0)).segs none 0x1000000 .atom = .sram (sliceAddr 0 0)) ∧
    (let s : State := { tqs .ready (some (tpkw 3)) (some 0) with waits := [⟨.queue 0, .none, [(engineKey 0x1000000, [0])], [], none⟩] }
     AL.find (s.linesOf (.queue 0)) (engineKey 0x1000000) = some [0] ∧ s.waitOf (.queue 0) = .none) ∧
    (let s := tqf { tqs .ready none (some 0) with queues := [(0, { tqe .ready (some (tpkw 4)) with fenceOn := some [] })] }
     (s.queue 0).fenceOn = some [] ∧ (s.queue 0).state = .ready) ∧
    (let s : State := { tqs .ready none (some 0) with queues := [(0, { tqe .ready (some (tpkw 2)) with waitOk := true })] }
     (s.queue 0).waitOk = true ∧ (s.queue 0).state = .ready) ∧
    (∀ s ∈ [tqf (tqr 2), tqf tqrf], (s.cp 0).work = none ∧ s.competing 0 = [] ∧
     (∀ k ∈ s.queues, (s.queue k.1).headDue = false) ∧ (s.cp 0).slots = [0] ∧ (s.queue 0).waitOk = false ∧ (s.queue 0).state = .ready) ∧
    AL.find (tqr 2).queues 0 = some (tqe .ready (some (tpkw 2))) ∧
    AL.find tqrf.queues 0 = some (tqe .ready (some tpkf)) ∧ (2 : Word).getLsbD 8 = false ∧
    hostPacketOk (tpkw 2) = true ∧ hostPacketOk tpkf = true ∧ (512 : Word).getLsbD 9 = true ∧
    (2 : Word).getLsbD 12 = false ∧
    (let s := tqf tqrf
     (fenceQueues tpkf).flatMap s.consumedLaunches = [7] ∧ s.openLaunch 7 = true) ∧
    (∀ s ∈ [tqr 2, tqs .waiting (some (tpkw 2)) none],
     okAnd ((readWord (s.whoQueue 0 (.wait 0)) 0x1000000 .r).exec s) (fun v u => v == 0 && u == s) = true ∧
     s.waitOf (.queue 0) = .none ∧ s.waitOf (.wait 0) = .none) :=
  ⟨fun _ => ⟨rfl, rfl, rfl, rfl, rfl, rfl, rfl⟩, by simp [bits], by decide +kernel, by decide +kernel, ⟨rfl, rfl⟩, ⟨rfl, rfl⟩,
   by decide +kernel, rfl, rfl, by decide, by decide +kernel, by decide +kernel, by decide, by decide, by decide +kernel,
   by decide +kernel⟩
/-- A launch of some elements placed in a rectangle of one cell, with a parent bit. -/
def tlp (count parent : Nat) : List Word := [0x1, 0, 0, 0, 0, 0, BitVec.ofNat 64 (count + 2 ^ 27 + parent * 2 ^ 29), 0]
theorem test_witness_LaunchesOpen :
    (∀ par ∈ [0, 1], let ws := tlp 1 par
     let s := tqs .ready (some ws) (some 0)
     (s.cp 0).work = some 0 ∧ s.queue 0 = tqe .ready (some ws) ∧ bits (pw ws 0) 7 0 = 1 ∧ s.launchAt 0 = none ∧
     (AL.find s.fields 0).isSome = true ∧ bits (pw ws 6) 24 0 ≤ 2 ^ 24 ∧ s.freeScope 0 = some 0 ∧
     (pw ws 6).getLsbD 29 = (par == 1) ∧ devOf (homeOf ((pw ws 6).extractLsb' 32 32)) = s.devNum ∧
     s.launchHome { tfield with ctx := { tctx with h := 1, w := 1 } } ws 1 = some 0) ∧
    2 ^ 24 < bits (pw (tlp 0x1000001 0) 6) 24 0 ∧ sigAddr (tlp 0x1000001 0) = 0 := by
  decide +kernel
/-- A launch of queue 0 at a stage. -/
def tlaunch (count : Nat) (st : LaunchStage) (linked : Bool) : Launch := ⟨0, 0, 0, tlp count 0, 0x1000000, count, 0, 0, st, linked, false⟩
/-- A state with it and its root. -/
def tls (l : Launch) : State :=
  { tqs .ready (some l.packet) (some 0) with launches := [(1, l)], cells := [(0, { Cell.reset with scopes := [(0, topen)] })] }
theorem test_witness_LaunchesSend :
    (∀ n ∈ [1, 2], let l := tlaunch 2 (.sending (2 - n)) false
     let s := tls l
     s.launchAt 0 = some (1, l) ∧ AL.find s.launches 1 = some l ∧ l.stage = .sending (2 - n) ∧ (AL.find s.fields l.field).isSome = true ∧
     (s.queue l.queue).state ≠ .paused ∧ (s.queue l.queue).state ≠ .recovering ∧ l.dropped = false ∧ 2 - n < l.count ∧
     (s.elementCell { tfield with ctx := { tctx with h := 1, w := 1 } } l.packet 1).isSome = true ∧
     devOf (homeOf l.root) = s.devNum ∧ (s.scopeRec l.root).live = true) := by
  decide +kernel
theorem test_witness_LaunchesComplete :
    (∀ b ∈ [false, true], ∀ st ∈ [LaunchStage.emptied, .completing], let l := tlaunch 1 st b
     AL.find (tls l).launches 1 = some l ∧ l.stage = st ∧ (tls l).waitOf (.launch 1) = .none ∧ l.linked = b ∧
     (tls l).recovering l.field = false ∧ sigAddr l.packet = 0 ∧
     devOf (homeOf ((pw l.packet 6).extractLsb' 32 32)) = (tls l).devNum) ∧
    sigAddr [0, 0, 0, 0, 0, 0, 0, 0x1000000] ≠ 0 ∧
    (∀ st ∈ [LaunchStage.emptied, .completing], let s := tls (tlaunch 1 st false)
     okAnd ((writeVaWait (s.whoQueue 0 (.launch 1)) 0x1000000 (leBytes 8 0)).exec s) (fun _ _ => true) = true) := by
  decide +kernel
theorem test_witness_QueuesAgeAndExpire :
    (let s := tls (tlaunch 1 .outstanding false)
     (∀ q ∈ s.queues, s.unsatisfied q.1 q.2 = none) ∧ (s.queue 0).state = .ready ∧ (s.queue 0).taken = false ∧ (s.queue 0).age ≠ 0 ∧
     (s.queue 0).age.toNat ≤ ((s.queue 0).agerun + 1).toNat ∧ (s.queue 0).toll ≠ 0 ∧ (s.queue 0).toll.toNat ≤ (s.queue 0).tollrun.toNat ∧
     (s.queue 0).expired = false ∧ AL.has s.recovery (s.queue 0).field = false ∧ s.launchesOf 0 ≠ []) ∧
    (let s : State := { tls (tlaunch 1 .outstanding false) with queues := [(0, { tqe .ready none with expired := true, asked := 1000 })] }
     (s.queue 0).expired = true ∧ s.launchesOf 0 ≠ [] ∧ AL.has s.recovery (s.queue 0).field = false ∧ 1000 ≤ (s.queue 0).asked.toNat) ∧
    (∀ g ∈ [none, some (0, 5)], let s : State := { tls (tlaunch 1 .outstanding false) with harts := [(6, { Hart.reset with plug := g })] }
     s.firmware.changing = false ∧ (s.queue 0).tenant.toNat = 0 ∧ AL.find s.harts 6 = some { Hart.reset with plug := g } ∧
     ∀ j ∈ s.queues, j.1 ≠ 0 → j.2.expired = false) := by
  decide

/-! ### Witnesses: the scheduler -/

/-- A context of cell 0 alone. -/
def tfx : FieldCtx := { tctx with h := 1, w := 1 }
/-- A field of cell 0 alone in a mode. -/
def tfm (m : FieldMode) : Field := ⟨tfx, [tseg], 0, [], m, false, false⟩
/-- A state with it. -/
def tfd (m : FieldMode) : State :=
  { State.reset with fields := [(0, tfm m)], cells := [(0, { Cell.reset with fieldV := true })], queues := [(0, tqe .ready none)] }
theorem test_witness_ContextsAreLoaded :
    (State.reset.hubWords 0 64).isSome = true ∧
    (∀ ws, State.reset.hubWords 0 64 = some ws → ws = List.replicate 64 0) ∧ State.reset.recordOk (List.replicate 64 0) = true ∧
    State.reset.fields = [] ∧ State.reset.recovery = [] ∧ State.reset.saved = [] ∧
    (State.reset.segTable (FieldCtx.ofWords (List.replicate 64 0))).isSome = true ∧ (0 : Addr).toNat % 512 = 0 ∧
    devOf (homeOf (FieldCtx.ofWords (List.replicate 64 0)).svcScope) = State.reset.devNum ∧
    (FieldCtx.ofWords (List.replicate 64 0)).holds (cellOf (homeOf (FieldCtx.ofWords (List.replicate 64 0)).svcScope)) = true ∧
    State.reset.recordOk (List.replicate 64 128) = false ∧ (4 : Addr).toNat % 512 ≠ 0 ∧
    ({ State.reset with poison := [farAddr 0] } : State).hubWords 0 64 = none := by
  have h : State.reset.hubWords 0 64 = some (List.replicate 64 0) := by decide +kernel
  refine ⟨by rw [h]; rfl, ?_, by decide +kernel, rfl, rfl, rfl, by decide +kernel, by decide, by decide +kernel, by decide +kernel,
    by decide +kernel, by decide, by decide +kernel⟩
  intro ws hw
  rw [h] at hw
  exact (Option.some.inj hw).symm
theorem test_witness_SegmentTablesAreChecked :
    AL.find (tfd .running).fields 0 = some (tfm .running) ∧ ((tfd .running).segTable tfx).isSome = true ∧
    ({ tfd .running with poison := [farAddr 0] } : State).segTable tfx = none ∧
    (let s : State := { tfd .running with mem := Memory.setBytes [] (farAddr 0) (leBytes 8 0x12000001000000 ++ leBytes 8 0x100) }
     ∃ segs, s.segTable { tfx with field := 0 } = some segs) ∧
    (∀ g ∈ (tfm .running).segs, g.race = false) ∧
    (let s : State := { tfd .running with fields := [(0, { tfm .running with segs := [{ tseg with race := true }] })] }
     s.segTable tfx = some [] ∧ ∃ g ∈ [{ tseg with race := true }], g.race = true) :=
  ⟨rfl, by decide +kernel, by decide +kernel, ⟨⟨0x1000000, 0x100, false, true, false, false, 1, false, 0, 0⟩ :: [], by decide +kernel⟩,
   by decide, by decide +kernel, _, .head _, rfl⟩
/-- An image of one section of a doubleword for the start of the slice. -/
def timage : List Byte :=
  leBytes 4 0x494E4C48 ++ leBytes 2 1 ++ leBytes 2 1 ++ leBytes 8 0 ++ leBytes 8 0 ++ leBytes 8 0x1000000 ++ leBytes 8 8 ++ leBytes 8 0 ++
    leBytes 8 77
theorem test_witness_ImagesAreLoaded :
    (let s : State := { tfd .running with mem := Memory.setBytes [] (farAddr 0) timage }
     let num := fun (o n : Nat) => leNat (s.mem.bytes (farAddr 0 + o) n)
     num 0 4 = 0x494E4C48 ∧ num 4 2 = 1 ∧ num 6 2 = 1 ∧ num 8 8 = 0 ∧ num 16 1 < 4 ∧ num 17 7 = 0 ∧ num 30 2 = 0 ∧ num 32 8 = 8 ∧
     num 40 8 = 0 ∧ num 24 6 % 8 = 0 ∧ s.imagePlace (tfm .running) (num 24 6) = some (sliceAddr 0 0) ∧ sliceBase ≤ sliceAddr 0 0 ∧
     ∀ c ∈ tfx.cells, c < 4096) ∧
    leNat ((tfd .running).mem.bytes (farAddr 0) 4) ≠ 0x494E4C48 := by
  decide +kernel
theorem test_witness_FieldsStopAndSwitch :
    (∀ m : FieldMode, AL.find (tfd m).fields 0 = some (tfm m) ∧ (tfm m).mode = m ∧ (tfm m).fenced = false) ∧
    AL.find (tfd .running).queues 0 = some (tqe .ready none) ∧ (tqe .ready none).field = 0 ∧ (tqe .ready none).active = true :=
  ⟨fun _ => ⟨rfl, rfl, rfl⟩, rfl, rfl, rfl⟩
theorem test_witness_FieldsAreSaved :
    (let s := tfd .stopping
     AL.find s.fields 0 = some (tfm .stopping) ∧ (tfm .stopping).ctx.field = 0 ∧ s.stopComplete (tfm .stopping) = true ∧
     (0 : Addr).toNat % 0x10000 = 0 ∧ s.bells = [] ∧ s.launches = [] ∧
     (∀ c ∈ tfx.cells, (s.cell c).slots = [] ∧ (s.cell c).scopes = [] ∧ (s.cell c).scales = [] ∧ (s.cell c).bells = [] ∧
       (s.cell c).joins = [] ∧ (s.cell c).cancels = [] ∧ ∀ u, ((s.cell c).engine u).queue = [])) ∧
    (tfd .running).stopComplete (tfm .running) = false ∧
    (let s := tfd .switching
     (tfm .switching).mode = .switching ∧ s.switchDrained (tfm .switching) = true ∧ s.gangs = []) ∧ tfx.holds 0 = true ∧
    tfx.holds 1 = false := by
  refine ⟨⟨rfl, rfl, by decide +kernel, by decide, rfl, rfl, ?_⟩, by decide +kernel, ⟨rfl, by decide +kernel, rfl⟩, by decide, by decide⟩
  intro c hc
  have h : tfx.cells = [0] := by decide
  rw [h] at hc
  have : c = 0 := by simpa using hc
  subst this
  exact ⟨rfl, rfl, rfl, rfl, rfl, rfl, fun u => by cases u <;> rfl⟩
/-- A field under recovery at a step. -/
def trec_ (code step : Nat) : State :=
  { tls (tlaunch 1 .outstanding false) with recovery := [(0, ⟨code, some 0, step, [], []⟩)], fields := [(0, tfm .running)] }
theorem test_witness_FieldsRecover :
    (∀ code : Nat, AL.find (trec_ code 0).fields 0 = some (tfm .running) ∧ AL.find (trec_ code 0).recovery 0 = some ⟨code, some 0, 0, [], []⟩) ∧
    (tfm .running).ctx.field = 0 ∧ (trec_ 2 0).launchesOf 0 ≠ [] ∧
    (trec_ 2 1).launchesIn 0 = [(1, tlaunch 1 .outstanding false)] ∧
    AL.find (trec_ 2 1).launches 1 = some (tlaunch 1 .outstanding false) ∧ (tlaunch 1 .outstanding false).linked = false ∧
    sigAddr (tlaunch 1 .outstanding false).packet = 0 ∧ (tlaunch 1 .outstanding false).stage = .outstanding ∧
    ({ trec_ 4 1 with launches := [] } : State).launchesIn 0 = [] ∧ (trec_ 2 2).saved = [] ∧ (tfm .running).mode ≠ .out :=
  ⟨fun _ => ⟨rfl, rfl⟩, rfl, by decide, by decide, rfl, rfl, by decide, rfl, by decide, rfl, by decide⟩
theorem test_witness_TablesAreWritten :
    (8191 < 8192 ∧ bits 0 52 48 ≤ 20 ∧ bits 0 47 0 % (64 * 2 ^ bits 0 52 48) = 0 ∧ AL.find (tfd .running).fields (bits 0 9 4) = some (tfm .running) ∧
     tfx.tenants.getLsbD (bits 0 13 10) = true ∧ AL.find (tfd .running).fields (bits 16 9 4) = none) ∧
    63 < 64 ∧ 4095 < 4096 ∧ 255 < 256 ∧ 256 ≤ 256 ∧
    AL.find ({ tfd .running with agents := [(0, ⟨[⟨0, 0, 1, 0, 0⟩], [], [], []⟩)] } : State).agents 0 = some ⟨[⟨0, 0, 1, 0, 0⟩], [], [], []⟩ := by
  decide
theorem test_witness_TablesAreRead :
    (let e := (tfd .running).queue 0
     0 < 8192 ∧ e.log2n < 32 ∧ e.prio < 8 ∧ e.field < 64 ∧ e.eff < 8 ∧ e.lent < 8 ∧ e.raise < 8 ∧ e.errcode < 256) ∧
    Route.reset.dist < 16 ∧ Route.reset.oport < 64 ∧ Region.reset.length < 2 ^ 40 ∧ Region.reset.bell < 8 ∧
    (State.reset.trace 0).ctxf < 64 ∧ AL.find ([(255, ⟨5, true, false⟩)] : AL GroupEntry) 255 = some ⟨5, true, false⟩ := by decide
theorem test_witness_LogsAreRead :
    ([SenderEntry.free] : List SenderEntry)[0]? = some SenderEntry.free ∧ 0 < 33 ∧ SenderEntry.free.count < 2 ^ 32 ∧
    SenderEntry.free.discards < 2 ^ 32 ∧ (⟨0, 255, .v, 7, 7, 0, 0⟩ : Violation).kind < 256 ∧ (⟨0, 255, .v, 7, 7, 0, 0⟩ : Violation).op < 8 ∧
    (⟨0, 255, .v, 7, 7, 0, 0⟩ : Violation).size < 8 ∧ 4095 < 4096 ∧ 63 < 64 := by decide

/-! ### Witnesses: the transport engine -/

/-- A transfer of cell 0 between a part of its slice and peer 0. -/
def txf (k : XferKind) (mode sent inAir : Nat) (started ended : Bool) (outcome : Nat) : Transfer :=
  { id := 1, kind := k, cell := 0, act := 1, naming := Naming.zero, field := 0, scope := 0, w := 5, site := tsite, laddr := 0x1000000,
    length := 16, mode := mode, peer := 0, cls := .o, bell := 0, bellen := true, relsc := .cell, tagged := false, roff := 0, rkey := 0,
    chand := 0x1000000, cwords := [1, 2, 3, 4], sync := 0, started := started, sent := sent, acked := 16, inAir := inAir, port := 0,
    outcome := outcome, ended := ended }
/-- A state with it, and with region 0 of field 0 as a ring of 64 bytes. -/
def txs (t : Transfer) (cancels : List (BitVec 32)) : State :=
  { tfd .running with
    transfers := [(1, t)], xportCancels := cancels, peers := [(0, ⟨true, 6, 0, 7, 0, 0⟩)],
    regions := [(0, ⟨7, 0x1000000, 0, 128, 0, true, true, true, true, true, 0⟩)] }
/-- Bytes from the start of the slice of cell 0 on stand in a plain run. -/
theorem txs_plain (t : Transfer) (c : List (BitVec 32)) (w : Who) (hs : w.segs = [tseg]) (o n : Nat)
    (h : o + n ≤ sliceSize) : (txs t c).PlainRun w (0x1000000 + o) n (sliceAddr 0 0 + o) := plain_at hs rfl rfl rfl rfl rfl o n h
theorem test_witness_TransfersRun :
    (let t := txf .write 0 0 0 false false 0
     AL.find (txs t []).transfers 1 = some t ∧ t.started = false ∧ ∀ p ∈ (txs t []).transfers, p.2.cell = t.cell → p.2.started = false → 1 ≤ p.1) ∧
    (let t := txf .write 1 0 0 true false 0
     let s := txs t []
     t.started = true ∧ t.outcome = 0 ∧ t.sent < t.length ∧ s.isWaiting (.transfer 1) = false ∧ t.scope ∉ s.xportCancels ∧
     t.scope ∈ (txs t [0]).xportCancels ∧ s.waitOf (.transfer 1) = .none ∧ (s.peer t.peer).ports ≠ 0 ∧
     ∃ a, s.PlainRun (s.whoTransfer 1 t) (t.laddr.toNat + t.sent) (min 4096 (t.length - t.sent)) a) := by
  refine ⟨⟨rfl, rfl, by decide⟩, rfl, rfl, by decide, by decide, by decide, by decide, by decide, by decide, ?_⟩
  exact ⟨_, txs_plain _ _ _ rfl 0 16 (by decide)⟩
theorem test_witness_TransfersAreAcknowledged :
    AL.find (txs (txf .write 0 16 16 true false 0) []).transfers 1 = some (txf .write 0 16 16 true false 0) := rfl
theorem test_witness_ReadDataIsPlaced :
    let t := txf .read 0 16 16 true false 0
    let s := txs t []
    AL.find s.transfers 1 = some t ∧ t.kind = .read ∧ [1, 2, 3].length ≤ t.inAir ∧ 13 + [1, 2, 3].length ≤ t.length ∧
    s.waitOf (.transfer 1) = .none ∧ ∃ a, s.PlainRun (s.whoTransfer 1 t) (t.laddr.toNat + 13) ([1, 2, 3] : List Byte).length a :=
  ⟨rfl, rfl, by decide, by decide, by decide, _, txs_plain _ _ _ rfl 13 3 (by decide)⟩
theorem test_witness_TransfersComplete :
    (let t := txf .write 0 16 0 true false 0
     let s := txs t []
     AL.find s.transfers 1 = some t ∧ s.flights = [] ∧ t.ended = false ∧ t.started = true ∧ t.outcome = 0 ∧ t.inAir = 0 ∧ t.mode ≠ 2 ∧
     t.length ≤ t.acked ∧ s.credits = [] ∧ t.bellen = true ∧ t.chand ≠ 0) ∧
    (let t := txf .write 0 16 0 true true 0
     let s := txs t []
     t.ended = true ∧ t.inAir = 0 ∧ s.wakes = [] ∧ t.w ≠ 0 ∧ devOf (homeOf t.scope) = s.devNum) := by decide
theorem test_witness_TransfersFail :
    ∀ mode : Nat, (txf .write mode 16 16 true false 0).inAir ≠ 0 ∧ (txf .write mode 16 16 true false 0).mode = mode :=
  fun _ => ⟨(by decide : 16 ≠ 0), rfl⟩
/-- A state whose ring has some WR and RD, in a region of a length. -/
def tring (len wr rd : Nat) : State :=
  { txs (txf .write 0 16 0 true true 0) [] with
    regions := [(0, ⟨7, 0x1000000, 0, len, 0, true, true, true, true, true, 0⟩)],
    mem := (Memory.setBytes [] (sliceAddr 0 0) (leBytes 8 wr)).setBytes (sliceAddr 0 0 + 8) (leBytes 8 rd) }
theorem tring_plain (len wr rd : Nat) (w : Who) (hs : w.segs = [tseg]) (o n : Nat) (h : o + n ≤ sliceSize) :
    (tring len wr rd).PlainRun w (0x1000000 + o) n (sliceAddr 0 0 + o) := plain_at hs rfl rfl rfl rfl rfl o n h
theorem test_witness_PeersReachRegions :
    (∀ mode < 3, let s := txs (txf .write 0 16 0 true true 0) []
     (s.peer 0).valid = true ∧ s.fieldByCtx (s.peer 0).ctxid = some (tfm .running) ∧ (s.deliveryOf (4 * 0 + mode)).next = 0 ∧
     (s.deliveryOf (4 * 0 + mode)).held = none ∧ s.waitOf (.arrival (4 * 0 + mode)) = .none) ∧
    (let s := txs (txf .write 0 16 0 true true 0) []
     AL.get Region.reset s.regions (4096 * tfx.field + (0 : BitVec 32).toNat % 4096) =
       ⟨7, 0x1000000, 0, 128, 0, true, true, true, true, true, 0⟩ ∧
     (0 : BitVec 20) = (0 : BitVec 32).extractLsb' 12 20 ∧ (s.peer 0).ctxid = 7 ∧ 120 + ([1, 2] : List Byte).length ≤ 128 ∧
     s.PlainRun (s.whoRegion 0 (tfm .running)) (0x1000000 + 120) 2 (sliceAddr 0 0 + 120) ∧ (1 : BitVec 20) ≠ (0 : BitVec 32).extractLsb' 12 20) ∧
    (∀ p ∈ [(128, 0, 0), (192, 96, 96)], let s := tring p.1 p.2.1 p.2.2
     AL.get Region.reset s.regions (4096 * tfx.field + (0 : BitVec 32).toNat % 4096) =
       ⟨7, 0x1000000, 0, p.1, 0, true, true, true, true, true, 0⟩ ∧
     s.PlainRun (s.whoRegion 0 (tfm .running)) (0x1000000 + 0) p.1 (sliceAddr 0 0 + 0) ∧ s.inbound = [] ∧ 64 < p.1 ∧ 0x1000000 % 8 = 0 ∧
     leNat (s.mem.bytes (sliceAddr 0 0) 8) = p.2.1 ∧ leNat (s.mem.bytes (sliceAddr 0 0 + 8) 8) = p.2.2 ∧
     (let cap := p.1 - 64
      let size := 32 + (([1, 2] : List Byte).length + 31) / 32 * 32
      let pos := p.2.1 % cap
      let pad := if cap < pos + size then cap - pos else 0
      (pad ≠ 0 → 4 ≤ pad ∧ size ≤ pos) ∧ (BitVec.ofNat 64 p.2.1 - BitVec.ofNat 64 p.2.2).toNat + size ≤ cap)) := by
  refine ⟨by decide, ⟨by decide, by decide, by decide, by decide, txs_plain _ _ _ rfl 120 2 (by decide), by decide⟩, fun p hp => ?_⟩
  simp only [List.mem_cons, List.not_mem_nil, or_false] at hp
  rcases hp with rfl | rfl <;>
    exact ⟨by decide, tring_plain _ _ _ _ rfl 0 _ (by decide), rfl, by decide, by decide, by decide +kernel, by decide +kernel, by decide⟩

/-! ### Witnesses: pairs, repair, firmware and power -/

/-- A checked activation that waits at a chime with a fingerprint. -/
def tpu (v : Option Word) (bad : Nat) : PairUnit :=
  { PairUnit.idle with waiting := true, sent := v, bad := bad, check := some ⟨[], [], FrameCr.reset, 0x1000000⟩, gated := [tsb] }
/-- A checked pair whose cells have sent fingerprints. -/
def tpairs (u v : Option Word) (bad : Nat) : State :=
  { tfd .running with
    cells := [(0, { Cell.reset with fieldV := true, paired := true, leader := true, pairs := [(0, tpu u bad)], frames := [(0, tframe [])] }),
              (1, { Cell.reset with fieldV := true, paired := true, pairs := [(0, tpu v bad)], frames := [(0, tframe [])] })] }
theorem test_witness_FingerprintsAreSent :
    let s := tpairs none none 0
    AL.find (s.cell 0).pairs 0 = some (tpu none 0) ∧
    (s.cell 0).pairs.find? (fun q => q.2.waiting && q.2.sent.isNone && q.2.trail.all (fun i => !i.isPend)) = some (0, tpu none 0) ∧
    63 < 64 := ⟨rfl, rfl, by decide⟩
theorem test_witness_ChimesAreDecided :
    (∀ (u v : Word) (bad : Nat), let s := tpairs (some u) (some v) bad
     (s.cell 0).paired = true ∧ (s.cell 0).leader = true ∧ (s.cell 0).pairs = [(0, tpu (some u) bad)] ∧
     AL.find (s.cell (0 + 1)).pairs 0 = some (tpu (some v) bad) ∧ (tpu (some u) bad).sent = some u ∧
     (tpu (some u) bad).number = (tpu (some v) bad).number ∧ (tpu (some u) bad).parity = false ∧ (tpu (some u) bad).bad = bad ∧
     (tpu (some u) bad).check = some ⟨[], [], FrameCr.reset, 0x1000000⟩) ∧ (1 : Word) ≠ 2 ∧ 1 < 2 ∧ 2 ≤ 2 ∧
    (let s := tpairs (some 1) (some 2) 2
     (s.cell 0).fieldV = true ∧ AL.has s.fields (s.cell 0).field = true ∧ AL.find s.recovery (s.cell 0).field = none) :=
  ⟨fun _ _ _ => ⟨rfl, rfl, rfl, rfl, rfl, rfl, rfl, rfl, rfl⟩, by decide, by decide, by decide, rfl, by decide, rfl⟩
/-- Every value has another. -/
theorem other (w : Word) : ∃ v : Word, v ≠ w := by
  by_cases h : w = 0
  · exact ⟨1, by rw [h]; decide⟩
  · exact ⟨0, fun e => h e.symm⟩
theorem test_witness_BinsMove :
    (2 < 3) ∧
    (let bad := fun (vs : List Word) => (List.range (if 2 = 0 then 1 else if 2 = 1 then 64 else 32)).filter (fun l =>
       decide (0 ≤ l) && match vs[l - 0]? with | some v => v != Config.knownAnswer 2 l 0 | none => false)
     bad [] = [] ∧ ∃ vs, bad vs ≠ []) ∧ ({ State.reset with clusters := [(0, { Cluster.reset with stopped := true })] } : State).clusterQuiet 0 = true ∧
    State.reset.clusterQuiet 0 = false ∧
    (0 : BitVec 2).toNat ≤ (State.reset.cluster 0).bin.toNat ∧ (State.reset.cluster 0).bin.toNat < (1 : BitVec 2).toNat :=
  ⟨by decide, ⟨by decide, by
    obtain ⟨v, h⟩ := other (Config.knownAnswer 2 0 0)
    exact ⟨[v], fun e => by
      have := List.filter_eq_nil_iff.1 e 0 (by decide)
      simp [h] at this⟩⟩, by decide +kernel, by decide +kernel, by decide, by decide⟩
/-- A signed record of die 0. -/
def tdr (gen : Nat) : DieRecord := DieRecord.signed ⟨recMagic, 1, 0, gen, [], [], [], []⟩ State.reset.firmware.keys
theorem tdr_ok (gen : Nat) : (tdr gen).valid 0 State.reset.firmware.keys = true := by
  simp [DieRecord.valid, tdr, DieRecord.signed, DieRecord.body]
/-- A state in which a column of die 0 leaves its row 3 out against the record in use. -/
def trow : State := { State.reset with columns := [(0, { Column.whole with removed := some 3 })] }
theorem test_witness_DieRecordsAreCommitted :
    (let s := State.reset
     (∀ c < 32, (s.column 0 c).removed = none ∧ (s.column 0 c).failed = none) ∧
     ∀ j < 64, (AL.get 0 (s.dieRecord 0).bins j).toNat ≤ (s.cluster (64 * 0 + j)).bin.toNat) ∧
    (let s := trow
     (s.column 0 0).removed = some 3 ∧ (AL.get Column.whole (s.dieRecord 0).columns 0).removed ≠ some 3 ∧
     (AL.get Column.whole (s.dieRecord 0).columns 0).failed ≠ some 3 ∧ 1056 * 0 + 32 * 3 + 0 ∉ s.firmware.scanFail) ∧
    (∀ n : Nat, let s : State := { State.reset with dieRecs := [(0, tdr n), (1, tdr 1)] }
     (AL.get DieRecord.blank s.dieRecs 0).valid 0 s.firmware.keys = true ∧ (AL.get DieRecord.blank s.dieRecs 1).gen = 1 ∧
     (AL.get DieRecord.blank s.dieRecs 1).valid 0 s.firmware.keys = true ∧ (AL.get DieRecord.blank s.dieRecs 0).gen = n) ∧
    DieRecord.blank.valid 0 State.reset.firmware.keys = false ∧ (tdr 0).gen < 2 ^ 64 :=
  ⟨by decide +kernel, by decide +kernel, fun n => ⟨tdr_ok n, rfl, tdr_ok 1, rfl⟩, rfl, by decide⟩
/-- A cell under test, with or without a spare row in its column. -/
def tscan (col : Column) : State :=
  { tfd .running with cells := [(0, { Cell.reset with fieldV := true, scan := .running, service := false })], columns := [(0, col)] }
theorem test_witness_CellsAreTested :
    ((tfd .running).cellDrained 0 = true ∧ ((tfd .running).cell 0).scan = .none ∧ ((tfd .running).cell 0).service = true) ∧
    (ts []).cellDrained 0 = false ∧ ((tscan Column.whole).cell 0).scan = .running ∧
    (let s : State := { tscan Column.whole with msgs := [(1, tbi 0)] }
     ∃ m ∈ s.msgs, cellOf m.2.msg.dst = 0 ∧ devOf m.2.msg.dst = s.devNum) ∧
    (∃ sig, sig ≠ Config.scanSignature 0) ∧ ((tscan Column.whole).column (dieOf 0) (colOf 0)).removed = none ∧
    ((tscan Column.whole).column (dieOf 0) (colOf 0)).failed = none ∧
    ((tscan { Column.whole with removed := some 1 }).column (dieOf 0) (colOf 0)).removed ≠ none :=
  ⟨⟨by decide +kernel, rfl, rfl⟩, by decide +kernel, rfl, ⟨(1, tbi 0), by decide, by decide, by decide⟩, other _, by decide, by decide,
   by decide⟩
theorem test_witness_ColumnsAreRepaired :
    (let s : State := { State.reset with columns := [(0, { Column.whole with failed := some 3 })] }
     (s.column 0 0).failed = some 3 ∧ (s.column 0 0).removed = none ∧ s.fields = []) ∧
    (let s : State := { State.reset with columns := [(0, { Column.whole with failed := some 3, removed := some 4 })] }
     (s.column 0 0).failed = some 3 ∧ (s.column 0 0).removed ≠ none) := by decide
theorem test_witness_ScrubbersGoOn : 4095 < 4096 ∧ ({ ts [] with atomics := [(0, ⟨[sliceAddr 0 0 / 64], [], []⟩)] } : State).isHot (sliceAddr 0 0) = true := by
  decide +kernel
/-- A firmware complex in a stage of an update. -/
def tfw (st : UpdateStage) : State := { State.reset with firmware := { Firmware.reset with stage := st, monitorDue := true, booted := true } }
theorem test_witness_UpdatesAreStaged :
    (∀ st ∈ [UpdateStage.idle, .requested, .named 1, .loading 1, .verified 1, .applied 1], (tfw st).firmware.stage = st) ∧ 1 ≤ 3 ∧
    (0 : Nat) = 0 ∧ 3 < 4 ∧ 0 < ([1] : List Byte).length := by
  refine ⟨fun st _ => rfl, by decide, rfl, by decide, by decide⟩
theorem test_witness_ImagesAreActivated :
    (∀ c : Nat, (tfw (.applied c)).firmware.stage = .applied c) ∧ (2 : Nat) ≠ 1 ∧ (tfw .idle).firmware.monitorDue = true ∧
    (∀ p ∈ (tfw .idle).cells, ∀ q ∈ p.2.frames, q.2.life = .free ∨ q.2.life = .frozen) ∧ State.reset.firmware.monitorDue = false ∧
    (0 ≤ ((State.reset.comp 1).bank1).svn ∧ (State.reset.comp 1).minSvn ≤ 0) ∧
    (tqe .ready none).state ∈ [QueueState.idle, .ready, .waiting, .parked] :=
  ⟨fun _ => rfl, by decide, rfl, by decide, rfl, by decide, by decide⟩
theorem test_witness_PluginsStop :
    let s : State := { tls (tlaunch 1 .outstanding false) with queues := [(0, { tqe .ready none with expired := true })] }
    AL.find s.queues 0 = some { tqe .ready none with expired := true } ∧ (tqe .ready none).tenant.toNat = 0 ∧
    (∃ l ∈ s.launches, l.2.queue = 0) ∧ AL.find s.recovery (tqe .ready none).field = none :=
  ⟨rfl, by decide, ⟨(1, tlaunch 1 .outstanding false), by decide, rfl⟩, rfl⟩
theorem test_witness_ModulesBoot :
    (State.reset.dieRecord 0).columns = [] ∧ ∃ p ∈ ([(0, { Column.whole with second := true })] : AL Column), p.2.second = true :=
  ⟨by decide, (0, { Column.whole with second := true }), by decide, rfl⟩
theorem test_witness_TheResponderAnswers :
    (tfw .idle).firmware.booted = true ∧ State.reset.firmware.booted = false ∧ 1 ≤ 6 ∧ 6 < 7 ∧
    (tfw .idle).firmware.comps = State.reset.firmware.comps ∧ (tfw .idle).firmware.plugins = State.reset.firmware.plugins ∧
    (tfw .idle).dieRecs = State.reset.dieRecs := by decide
theorem test_witness_FarMemoryIsBroughtUp :
    State.reset.fields = [] ∧ (tfd .running).fields ≠ [] ∧ (farBase ≤ farAddr 255 ∧ (farAddr 255 - farBase) / 256 % 64 ∈ [0, 63]) ∧
    AL.get Channel.reset ({ State.reset with channels := [(63, ⟨true, false, 0, 0⟩)] } : State).channels 63 = ⟨true, false, 0, 0⟩ ∧ 63 < 64 ∧
    (AL.get Channel.reset State.reset.channels 0).trained = false := by decide
theorem test_witness_PowerIsLimited :
    (tfd .running).power.closing = false ∧ (tfd .running).power.mode = .on ∧ (95 ≤ (95 : Int) ∧ (95 : Int) < 110) ∧ (92 : Int) < 93 ∧
    (93 ≤ (94 : Int) ∧ (94 : Int) < 95) ∧ AL.find (tfd .running).fields 0 = some (tfm .running) ∧ 1200 ≤ 1200 ∧ 2800 ≤ 2800 ∧ 1199 < 1200 ∧
    2800 < 2801 := ⟨rfl, rfl, by decide, by decide, by decide, rfl, by decide, by decide, by decide, by decide⟩
theorem test_witness_ResetKeepsTheFlash :
    ((Instr.powerOnReset = .powerOnReset ∧ PowerMode.on = .on) ∨ (Instr.powerOnReset = .powerLoss ∧ PowerMode.on = .off)) ∧
    (tfw (.loading 2)).firmware.stage = .loading 2 ∧ (tfw .idle).firmware.stage ≠ .loading 2 ∧ (tfw .idle).firmware.stage ≠ .verified 2 :=
  ⟨.inl ⟨rfl, rfl⟩, rfl, by decide, by decide⟩

/-! ### Witnesses: the machine as a whole -/

theorem test_witness_DecodeOfEncode :
    (∃ g, encodeGroup (Instr.add (some 0) 1 1 48) = some g) ∧ (∃ w, encodeGorivo (Instr.gorivoAdd 1 1 2) = some w) ∧
    (Instr.add (some 0) 1 1 48).wf = true ∧ (Instr.gorivoAdd 1 1 2).wf = true :=
  ⟨⟨_, rfl⟩, ⟨_, rfl⟩, by decide, by decide⟩
theorem test_witness_DecodedIsWellFormed :
    decodeWords ⟨[], 0x0123⟩ = .ok (.add none 1 2 3) ∧ decodeGorivo 0x10448000 = .ok (.gorivoAdd 1 1 2) ∧
    (∀ u ∈ [ExecUnit.scalar, .engine .vector, .engine .matrix, .engine .streamer],
      decodeFor u ⟨[], 0x0123⟩ = .ok (.add none 1 2 3)) := by decide
/-- Halfwords at the start of the slice of cell 0. -/
def tcode (hs : List Half) : Memory := Memory.setBytes [] (sliceAddr 0 0) (hs.flatMap (fun h => leBytes 2 h.toNat))
/-- A frame of cell 0 with a group of two halfwords. -/
def tgrp : State := { ts [] with mem := tcode [0xF438, 0x0110] }
/-- That group. -/
def tws : GroupWords := ⟨[0xF438], 0x0110⟩
theorem test_witness_GroupsAreFetched :
    tws.pfx.length ≤ 4 ∧ (∀ h ∈ tws.pfx, Half.isPfx h = true) ∧ Half.isPfx tws.base = false ∧
    (0x1000000#48).toNat % 2 = 0 ∧ (0x1000000#48).toNat % 64 + 2 * (tws.pfx.length + 1) ≤ 64 ∧
    (∀ k ≤ tws.pfx.length, regionOf (tgrp.segsOf 0) ((0x1000000#48).toNat + 2 * k) = .seg 0) ∧
    AL.find (tgrp.cell 0).icache ((0x1000000#48).toNat / 64) = none ∧
    resolve (tgrp.segsOf 0) none ((0x1000000#48).toNat / 64 * 64) .x = .sram (sliceAddr 0 0) ∧
    tgrp.flatFenced (sliceAddr 0 0) = false ∧ tgrp.poisoned (sliceAddr 0 0) 64 = false ∧
    (∀ k, ∀ h : k < (tws.pfx ++ [tws.base]).length,
      BitVec.ofNat 16 (leNat (tgrp.mem.bytes (sliceAddr 0 0 + (0x1000000#48).toNat % 64 + 2 * k) 2)) =
        (tws.pfx ++ [tws.base])[k]) :=
  ⟨by decide, List.all_eq_true.mp (by decide : tws.pfx.all Half.isPfx = true), by decide, by decide, by decide, by decide,
   by decide, by decide, by decide, by decide, by decide +kernel⟩
/-- A state with a move at the head of the agenda. -/
def tmove (s : State) (m : Move) : State := { s with agenda := [m], cur := .none }
/-- A frame of a cell with code at its PC. -/
def tissue (hs : List Half) : State := { tmove (ts []) (.issue 0 0) with mem := tcode hs }
/-- The site of one halfword at the start of the slice. -/
def tst (h : Half) : Site := ⟨0x1000000, 0x1000002, 0, [], h⟩
/-- A unit of cell 0 with nothing in its fetch buffer takes a group of one halfword from there. -/
theorem takes {s s2 : State} {h : Half} (hs : s.fetchGroup 0 0x1000000 6 [] 0x1000000 = .ok ⟨[], h⟩ 0x1000002 s2) :
    Claims.TakesGroup s 0 0x1000000 none (tst h) s2 := .inr ⟨nofun, ⟨[], h⟩, 0x1000002, hs, rfl⟩
theorem test_witness_StepRuns_frame :
    let s := tissue [0x0123]
    let u := { s.chargeGiven with agenda := [], tick := s.tick + 1 }
    s.upsets = [] ∧ s.power.mode = .on ∧ (s.frame 0 0).life = .running ∧ (s.frame 0 0).off = false ∧ (s.actOf 0 0).kept = none ∧
    u.waitOf (.frame 0 0) ≠ .withheld ∧
    u.preempted 0 0 = false ∧ (s.frame 0 0).pc.toNat % 2 = 0 ∧ decodeFor .scalar ⟨[], 0x0123⟩ = .ok (.add none 1 2 3) ∧
    (∃ s2, Claims.TakesGroup u 0 (s.frame 0 0).pc (s.frame 0 0).held (tst 0x0123) s2) ∧
    ∃ s2, Claims.TakesGroup u 0 (s.frame 0 0).pc (some (tst 0x0123)) (tst 0x0123) s2 :=
  ⟨rfl, rfl, rfl, rfl, rfl, by decide, by decide, by decide, by decide, ⟨_, takes rfl⟩, _, .inl ⟨rfl, rfl, rfl⟩⟩
theorem test_witness_StepRuns_bad :
    let s := tissue [0x7710]
    let u := { s.chargeGiven with agenda := [], tick := s.tick + 1 }
    (∃ s2, Claims.TakesGroup u 0 (s.frame 0 0).pc (s.frame 0 0).held (tst 0x7710) s2) ∧ ∃ c, decodeFor .scalar ⟨[], 0x7710⟩ = .bad c :=
  ⟨⟨_, takes rfl⟩, _, rfl⟩
theorem test_witness_StepRuns_engine :
    let s : State := { tmove (tse []) (.engine 0 .vector) with mem := tcode [0x0123] }
    let u := { s.chargeGiven with agenda := [], tick := s.tick + 1 }
    s.power.mode = .on ∧ ((s.cell 0).engine .vector).run = some 1 ∧ AL.find s.progs 1 = some tprog ∧ tprog.life = .running ∧
    tprog.off = false ∧ u.engineGo 0 = true ∧ u.waitOf (.prog 1) ≠ .withheld ∧ u.mayCheck 0 tprog.naming.scope = true ∧
    u.cancelledAt 0 tprog.naming.scope = false ∧ u.writesDone 1 = true ∧ tprog.pc.toNat % 2 = 0 ∧ tprog.pend = none ∧
    decodeFor (.engine .vector) ⟨[], 0x0123⟩ = .ok (.add none 1 2 3) ∧ (∃ c, decodeFor (.engine .vector) ⟨[], 0x7710⟩ = .bad c) ∧
    ∃ s2, Claims.TakesGroup (u.checked 0 tprog.naming.scope) 0 tprog.pc tprog.held (tst 0x0123) s2 :=
  ⟨rfl, rfl, rfl, rfl, rfl, by decide, by decide, by decide, by decide, by decide, by decide, rfl, by decide, ⟨_, rfl⟩, _, takes rfl⟩
theorem test_witness_StepRuns_trace_and_event :
    (let s : State := { State.reset with
       agenda := [.gorivo 0], traces := [(0, { State.reset.trace 0 with state := 1, busy := true, store := [0x10448000] })] }
     s.power.mode = .on ∧ (s.trace 0).busy = true ∧ (s.trace 0).verdict = .none ∧
     (s.trace 0).store[(s.trace 0).pc]? = some 0x10448000 ∧ decodeGorivo 0x10448000 = .ok (.gorivoAdd 1 1 2)) ∧
    (let s : State := { State.reset with agenda := [.event (.powerOnReset)] }
     s.upsets = [] ∧ s.mayCome .powerOnReset = true ∧ (Instr.powerOnReset).encoded = false) := by
  decide
theorem test_witness_NoStepStops : State.reset.AgendaOk ∧ ({ State.reset with agenda := [.event .powerOnReset] } : State).AgendaOk :=
  ⟨trivial, rfl⟩
theorem test_witness_StepsKeepTheMemoryCanonical : State.reset.MemOk ∧ ({ ts [] with mem := tcode [0x0123] } : State).MemOk :=
  ⟨rfl, by unfold State.MemOk; decide⟩
theorem test_witness_TimePasses :
    let s : State := { State.reset with agenda := [.clock 5] }
    s.upsets = [] ∧ s.time.slew = 0 ∧ s.firmware.changing = false := ⟨rfl, rfl, rfl⟩
/-- Two ready frames of one tenant, the second on a higher channel. -/
def ttwo : State :=
  { tof { Cell.reset with fieldV := true, frames := [(0, tframe []), (1, { tframe [] with act := 2, chan := 3 })] } with
    acts := [(1, { Act.zero with slot := some 0 }), (2, { Act.zero with slot := some 1 })], mem := tcode [0x0123], cur := .none }
theorem test_witness_IssueIsFair :
    ([2, 5].Pairwise (fun (a b : Nat) => a < b)) ∧ (ttwo.chooseAmong 0 [0, 1]).2 = some 1 ∧
    ttwo.tenantOf 0 0 = ttwo.tenantOf 0 1 ∧ ttwo.agenda = [] ∧ ttwo.readySlots 0 = [0, 1] := by
  refine ⟨by decide, ?_, by decide, rfl, ?_⟩ <;> decide +kernel

/-! ### Well-formedness: an ill-formed instruction for each check, which the check refuses -/

theorem test_wf_refuses_bit_fields : ∀ i ∈ [Instr.bext none 1 8 56, .bins none 1 63 1, .bextu none 1 2 1 63], i.wf = false := by
  decide
theorem test_wf_refuses_control_registers :
    ∀ i ∈ [Instr.crd none 1 0x14, .cwr none 1 0x14, .cset none 1 0x14, .cclr none 1 0xFFF], i.wf = false := by decide
theorem test_wf_refuses_lookahead_of_posted_atomics :
    ∀ i ∈ [Instr.aadd none .default ⟨true, false⟩ 1 2 1, .aand none .default ⟨true, false⟩ 1 2 1, .aor none .default ⟨true, true⟩ 1 2 2,
      .axor none .default ⟨true, false⟩ 1 2 15, .amin none .default ⟨true, false⟩ 1 2 1, .amax none .default ⟨true, false⟩ 1 2 1,
      .aminu none .default ⟨true, false⟩ 1 2 1, .amaxu none .default ⟨true, false⟩ 1 2 1, .aswap none .default ⟨true, false⟩ 1 2 1,
      .acas none .default ⟨true, false⟩ 1 2 1, .ainc none .default ⟨true, false⟩ 1 2 1, .adec none .default ⟨true, false⟩ 1 2 1,
      .afadd none .default ⟨true, false⟩ 1 2 1], i.wf = false := by decide
theorem test_wf_refuses_engine_register_runs :
    ∀ i ∈ [Instr.vsel 1 14, .vgat 1 15, .vsca 1 15, .vtop 1 15], i.wf = false := by decide
theorem test_wf_refuses_gorivo_numbers :
    ∀ i ∈ [Instr.gorivoLdr 1 4, .gorivoShli 1 2 64, .gorivoShri 1 2 64, .gorivoCadd 1 64, .gorivoCset 1 64, .gorivoCrd 1 64,
      .gorivoCount 64], i.wf = false := by decide
theorem test_wf_refuses_a_fifth_prefix :
    ∀ i ∈ [Instr.li (some 0) 1 0x12345678901#44, .addi none 17 0x12345678901#44, .lea none 1 2 0x12345678901#44,
      .ldW none ⟨.a, .none, .device, 0⟩ 17 2 0x1234567890#40 0], i.wf = false ∧ i.operandsOk = true := by decide
theorem test_wf_admits_the_bounds :
    ∀ i ∈ [Instr.bext none 1 8 55, .crd none 1 0x13, .aadd none .default ⟨true, false⟩ 1 2 0, .vsel 1 13, .vgat 1 14, .gorivoLdr 1 3,
      .gorivoShli 1 2 63, .li none 1 0x12345678901#44], i.wf = true := by decide

/-! ### Words written out from the encodings of the spec: one for each instruction -/

/-- Words of R82, R83. -/
def words_of_arithmetic_of_page_0 : List (GroupWords × Instr) := [
    (⟨[], 0x0123⟩, .add none 1 2 3), (⟨[], 0x1123⟩, .sub none 1 2 3), (⟨[], 0x2123⟩, .and none 1 2 3),
    (⟨[], 0x3123⟩, .or none 1 2 3), (⟨[], 0x4123⟩, .xor none 1 2 3), (⟨[], 0x5123⟩, .mul none 1 2 3),
    (⟨[], 0x6012⟩, .shl none 1 2), (⟨[], 0x6112⟩, .shr none 1 2), (⟨[], 0x6212⟩, .sar none 1 2), (⟨[], 0x6312⟩, .rol none 1 2),
    (⟨[], 0x6412⟩, .ror none 1 2), (⟨[], 0x6512⟩, .andn none 1 2), (⟨[], 0x6612⟩, .min none 1 2), (⟨[], 0x6712⟩, .max none 1 2),
    (⟨[], 0x6812⟩, .minu none 1 2), (⟨[], 0x6912⟩, .maxu none 1 2), (⟨[], 0x6A12⟩, .mulh none 1 2),
    (⟨[], 0x6B12⟩, .mulhu none 1 2), (⟨[], 0x6C12⟩, .seq none 1 2), (⟨[], 0x6D12⟩, .sne none 1 2),
    (⟨[], 0x6E12⟩, .slt none 1 2), (⟨[], 0x6F12⟩, .sltu none 1 2)]
theorem test_decode_arithmetic_of_page_0 :
    words_of_arithmetic_of_page_0.all (fun p => decodeWords p.1 == .ok p.2) = true := by decide
/-- Words of R84, R92 to R97. -/
def words_of_unary_and_control_words : List (GroupWords × Instr) := [
    (⟨[], 0x7012⟩, .mov none 1 2), (⟨[], 0x7112⟩, .neg none 1 2), (⟨[], 0x7212⟩, .not none 1 2), (⟨[], 0x7312⟩, .clz none 1 2),
    (⟨[], 0x7412⟩, .ctz none 1 2), (⟨[], 0x7512⟩, .popc none 1 2), (⟨[], 0x7612⟩, .bswap none 1 2), (⟨[], 0x7702⟩, .jr none 2),
    (⟨[], 0x7812⟩, .jalr none 1 2), (⟨[], 0x7900⟩, .ret), (⟨[], 0x7A00⟩, .done), (⟨[], 0x7B5A⟩, .trap 90),
    (⟨[], 0x7C5A⟩, .brk 90), (⟨[], 0x7D00⟩, .nop), (⟨[], 0x7E00⟩, .ifence), (⟨[], 0x7F10⟩, .rdtime none 1)]
theorem test_decode_unary_and_control_words :
    words_of_unary_and_control_words.all (fun p => decodeWords p.1 == .ok p.2) = true := by decide
/-- Words of R85 to R87. -/
def words_of_immediates_and_plain_accesses : List (GroupWords × Instr) := [
    (⟨[0xF002], 0x801D⟩, .li none 1 45), (⟨[0xF002], 0x811D⟩, .addi none 1 45), (⟨[0xF002], 0x821D⟩, .andi none 1 45),
    (⟨[0xF002], 0x831D⟩, .ori none 1 45), (⟨[0xF002], 0x841D⟩, .xori none 1 45), (⟨[0xF002], 0x851D⟩, .shli none 1 45),
    (⟨[0xF002], 0x861D⟩, .shri none 1 45), (⟨[0xF002], 0x871D⟩, .sari none 1 45), (⟨[0xF002], 0x881D⟩, .slti none 1 45),
    (⟨[0xF002], 0x891D⟩, .sltui none 1 45), (⟨[0xF002], 0x8A1D⟩, .sext none 1 45), (⟨[0xF002], 0x8B1D⟩, .zext none 1 45),
    (⟨[0xF00C], 0x8C18⟩, .bext none 1 8 3), (⟨[0xF00C], 0x8D18⟩, .bins none 1 8 3),
    (⟨[0xF008], 0x9125⟩, .ldW none .default 1 2 8 5), (⟨[0xF008], 0xA125⟩, .ldD none .default 1 2 8 5),
    (⟨[0xF008], 0xB121⟩, .st none .default .h 1 2 8)]
theorem test_decode_immediates_and_plain_accesses :
    words_of_immediates_and_plain_accesses.all (fun p => decodeWords p.1 == .ok p.2) = true := by decide
/-- Words of R88 to R91. -/
def words_of_branches : List (GroupWords × Instr) := [
    (⟨[0xF3FC], 0xC230⟩, .beq none 2 3 (-4)), (⟨[0xF3FC], 0xC231⟩, .bne none 2 3 (-4)), (⟨[0xF3FC], 0xC232⟩, .blt none 2 3 (-4)),
    (⟨[0xF3FC], 0xC233⟩, .bge none 2 3 (-4)), (⟨[0xF3FC], 0xC234⟩, .bltu none 2 3 (-4)),
    (⟨[0xF3FC], 0xC235⟩, .bgeu none 2 3 (-4)), (⟨[], 0xD3C2⟩, .bz none 2 (-4)), (⟨[], 0xD7C2⟩, .bnz none 2 (-4)),
    (⟨[], 0xDBC2⟩, .bltz none 2 (-4)), (⟨[], 0xDFC2⟩, .bgez none 2 (-4)), (⟨[], 0xE3FC⟩, .br (-4)), (⟨[], 0xE7FC⟩, .jal (-4)),
    (⟨[], 0xEBFC⟩, .lp (-4))]
theorem test_decode_branches :
    words_of_branches.all (fun p => decodeWords p.1 == .ok p.2) = true := by decide
/-- Words of Table 2-6. -/
def words_of_accesses_and_fences_of_page_1 : List (GroupWords × Instr) := [
    (⟨[0xF801, 0xF008], 0x0125⟩, .ldB none .default 1 2 8 5), (⟨[0xF801, 0xF008], 0x1125⟩, .ldBu none .default 1 2 8 5),
    (⟨[0xF801, 0xF008], 0x2125⟩, .ldH none .default 1 2 8 5), (⟨[0xF801, 0xF008], 0x3125⟩, .ldHu none .default 1 2 8 5),
    (⟨[0xF801, 0xF008], 0x4125⟩, .ldWPage1 none .default 1 2 8 5), (⟨[0xF801, 0xF008], 0x5125⟩, .ldWu none .default 1 2 8 5),
    (⟨[0xF801, 0xF008], 0x6125⟩, .ldDPage1 none .default 1 2 8 5),
    (⟨[0xF801, 0xF008], 0x7121⟩, .stPage1 none .default .h 1 2 8), (⟨[0xF801, 0xF008], 0x8125⟩, .lda none .default 1 2 8 5),
    (⟨[0xF801, 0xF008], 0x9121⟩, .stl none .default .h 1 2 8), (⟨[0xF801, 0xF008], 0xA125⟩, .ldp none .default 1 2 8 5),
    (⟨[0xF801, 0xF008], 0xB120⟩, .stp none .default 1 2 8), (⟨[0xF801, 0xF008], 0xE020⟩, .pf none .default 2 8),
    (⟨[0xF801], 0xE1AA⟩, .fence ⟨true, false, true, false⟩ .device),
    (⟨[0xF801], 0xE1A2⟩, .fenceAcq ⟨true, false, true, false⟩ .device),
    (⟨[0xF801], 0xE1A6⟩, .fenceRel ⟨true, false, true, false⟩ .device)]
theorem test_decode_accesses_and_fences_of_page_1 :
    words_of_accesses_and_fences_of_page_1.all (fun p => decodeWords p.1 == .ok p.2) = true := by decide
/-- Words of Tables 2-7, 2-8. -/
def words_of_atomics_and_fronts : List (GroupWords × Instr) := [
    (⟨[0xF801, 0xF000], 0xC235⟩, .aadd none .default ⟨false, false⟩ 2 3 5),
    (⟨[0xF801, 0xF031], 0xC230⟩, .aand none .default ⟨true, true⟩ 2 3 0),
    (⟨[0xF801, 0xF002], 0xC235⟩, .aor none .default ⟨false, false⟩ 2 3 5),
    (⟨[0xF801, 0xF013], 0xC230⟩, .axor none .default ⟨true, false⟩ 2 3 0),
    (⟨[0xF801, 0xF024], 0xC235⟩, .amin none .default ⟨false, true⟩ 2 3 5),
    (⟨[0xF801, 0xF015], 0xC230⟩, .amax none .default ⟨true, false⟩ 2 3 0),
    (⟨[0xF801, 0xF006], 0xC235⟩, .aminu none .default ⟨false, false⟩ 2 3 5),
    (⟨[0xF801, 0xF037], 0xC230⟩, .amaxu none .default ⟨true, true⟩ 2 3 0),
    (⟨[0xF801, 0xF008], 0xC235⟩, .aswap none .default ⟨false, false⟩ 2 3 5),
    (⟨[0xF801, 0xF019], 0xC230⟩, .acas none .default ⟨true, false⟩ 2 3 0),
    (⟨[0xF801, 0xF02A], 0xC235⟩, .ainc none .default ⟨false, true⟩ 2 3 5),
    (⟨[0xF801, 0xF01B], 0xC230⟩, .adec none .default ⟨true, false⟩ 2 3 0),
    (⟨[0xF801, 0xF00C], 0xC235⟩, .afadd none .default ⟨false, false⟩ 2 3 5),
    (⟨[0xF801, 0xF000], 0xD235⟩, .fcfg none .default 2 3 5), (⟨[0xF801, 0xF001], 0xD235⟩, .fins none .default 2 3 5),
    (⟨[0xF801, 0xF002], 0xD235⟩, .fmerge none .default 2 3 5), (⟨[0xF801, 0xF003], 0xD235⟩, .frd none .default 2 3 5),
    (⟨[0xF801, 0xF004], 0xD235⟩, .fclr none .default 2 3 5), (⟨[0xF801, 0xF005], 0xD235⟩, .fstat none .default 2 3 5)]
theorem test_decode_atomics_and_fronts :
    words_of_atomics_and_fronts.all (fun p => decodeWords p.1 == .ok p.2) = true := by decide
/-- Words of Table 2-9. -/
def words_of_page_2 : List (GroupWords × Instr) := [
    (⟨[0xF802], 0x0123⟩, .snd none .default 1 2 3), (⟨[0xF802], 0x1123⟩, .sndm none .default 1 2 3),
    (⟨[0xF802], 0x2123⟩, .sndg none .default 1 2 3), (⟨[0xF802], 0x3123⟩, .snds none .default 1 2 3),
    (⟨[0xF802], 0x4012⟩, .tagen none 1 2), (⟨[0xF802], 0x4112⟩, .tagdis none 1 2), (⟨[0xF802], 0x4212⟩, .tagrd none 1 2),
    (⟨[0xF802], 0x5012⟩, .bar none 1 2), (⟨[0xF802], 0x5112⟩, .barw none 1 2), (⟨[0xF802], 0x6012⟩, .sopen none 1 2),
    (⟨[0xF802], 0x6112⟩, .sclose none 1 2), (⟨[0xF802], 0x6210⟩, .scancel none 1), (⟨[0xF802], 0x6310⟩, .sshield none 1),
    (⟨[0xF802], 0x6410⟩, .sclaim none 1), (⟨[0xF802], 0x6510⟩, .schk none 1), (⟨[0xF802], 0x7012⟩, .fork none 1 2),
    (⟨[0xF802], 0x7112⟩, .rdv none 1 2), (⟨[0xF802], 0x7212⟩, .copy none 1 2), (⟨[0xF802], 0x7312⟩, .qfence none 1 2),
    (⟨[0xF802], 0x8012⟩, .nsend none 1 2), (⟨[0xF802], 0x8112⟩, .nwrite none 1 2), (⟨[0xF802], 0x8212⟩, .nread none 1 2),
    (⟨[0xF802], 0x8312⟩, .ncst none 1 2)]
theorem test_decode_page_2 :
    words_of_page_2.all (fun p => decodeWords p.1 == .ok p.2) = true := by decide
/-- Words of Table 12-3. -/
def words_of_vector_words : List (GroupWords × Instr) := [
    (⟨[0xF803], 0x0123⟩, .vadd 1 2 3), (⟨[0xF803], 0x1123⟩, .vsub 1 2 3), (⟨[0xF803], 0x2123⟩, .vmul 1 2 3),
    (⟨[0xF803], 0x3123⟩, .vfma 1 2 3), (⟨[0xF803], 0x4123⟩, .vfms 1 2 3), (⟨[0xF803], 0x5123⟩, .vdiv 1 2 3),
    (⟨[0xF803], 0x6123⟩, .vmin 1 2 3), (⟨[0xF803], 0x7123⟩, .vmax 1 2 3), (⟨[0xF803], 0x8123⟩, .vand 1 2 3),
    (⟨[0xF803], 0x9123⟩, .vor 1 2 3), (⟨[0xF803], 0xA123⟩, .vxor 1 2 3), (⟨[0xF803], 0xB123⟩, .vshl 1 2 3),
    (⟨[0xF803], 0xC123⟩, .vshr 1 2 3), (⟨[0xF803], 0xD012⟩, .vabs 1 2), (⟨[0xF803], 0xD112⟩, .vneg 1 2),
    (⟨[0xF803], 0xD212⟩, .vcvt 1 2), (⟨[0xF803], 0xD312⟩, .vexp 1 2), (⟨[0xF803], 0xD412⟩, .vlog 1 2),
    (⟨[0xF803], 0xD512⟩, .vrcp 1 2), (⟨[0xF803], 0xD612⟩, .vrsq 1 2), (⟨[0xF803], 0xD712⟩, .vsqrt 1 2),
    (⟨[0xF803], 0xD812⟩, .vtanh 1 2), (⟨[0xF803], 0xD912⟩, .vsig 1 2), (⟨[0xF803], 0xDA12⟩, .verf 1 2),
    (⟨[0xF803], 0xDB12⟩, .vsin 1 2), (⟨[0xF803], 0xDC12⟩, .vcos 1 2), (⟨[0xF803], 0xDD12⟩, .vfill 1 2),
    (⟨[0xF803], 0xDE12⟩, .vcpy 1 2), (⟨[0xF803], 0xDF00⟩, .eend)]
theorem test_decode_vector_words :
    words_of_vector_words.all (fun p => decodeWords p.1 == .ok p.2) = true := by decide
/-- Words of Table 12-3. -/
def words_of_vector_words_with_selectors : List (GroupWords × Instr) := [
    (⟨[0xF803, 0xF000], 0xE012⟩, .vcmpEq 1 2), (⟨[0xF803, 0xF001], 0xE012⟩, .vcmpNe 1 2),
    (⟨[0xF803, 0xF002], 0xE012⟩, .vcmpLt 1 2), (⟨[0xF803, 0xF003], 0xE012⟩, .vcmpLe 1 2),
    (⟨[0xF803, 0xF004], 0xE012⟩, .vcmpGt 1 2), (⟨[0xF803, 0xF005], 0xE012⟩, .vcmpGe 1 2),
    (⟨[0xF803, 0xF006], 0xE012⟩, .vcmpUn 1 2), (⟨[0xF803, 0xF007], 0xE012⟩, .vcmpOr 1 2), (⟨[0xF803], 0xE112⟩, .vsel 1 2),
    (⟨[0xF803, 0xF000], 0xE212⟩, .vredAdd 1 2), (⟨[0xF803, 0xF001], 0xE212⟩, .vredMul 1 2),
    (⟨[0xF803, 0xF002], 0xE212⟩, .vredMin 1 2), (⟨[0xF803, 0xF003], 0xE212⟩, .vredMax 1 2),
    (⟨[0xF803, 0xF004], 0xE212⟩, .vredAnd 1 2), (⟨[0xF803, 0xF005], 0xE212⟩, .vredOr 1 2),
    (⟨[0xF803, 0xF006], 0xE212⟩, .vredXor 1 2), (⟨[0xF803, 0xF000], 0xE312⟩, .vscanAdd 1 2),
    (⟨[0xF803, 0xF001], 0xE312⟩, .vscanMul 1 2), (⟨[0xF803, 0xF002], 0xE312⟩, .vscanMin 1 2),
    (⟨[0xF803, 0xF003], 0xE312⟩, .vscanMax 1 2), (⟨[0xF803, 0xF004], 0xE312⟩, .vscanAnd 1 2),
    (⟨[0xF803, 0xF005], 0xE312⟩, .vscanOr 1 2), (⟨[0xF803, 0xF006], 0xE312⟩, .vscanXor 1 2), (⟨[0xF803], 0xE412⟩, .vgat 1 2),
    (⟨[0xF803], 0xE512⟩, .vsca 1 2), (⟨[0xF803], 0xE612⟩, .vtop 1 2)]
theorem test_decode_vector_words_with_selectors :
    words_of_vector_words_with_selectors.all (fun p => decodeWords p.1 == .ok p.2) = true := by decide
/-- Words of Table 13-6. -/
def words_of_matrix_words : List (GroupWords × Instr) := [
    (⟨[0xF804], 0x0023⟩, .mplane 2 3), (⟨[0xF804], 0x0123⟩, .mscl 2 3), (⟨[0xF804], 0x0220⟩, .mzero 2),
    (⟨[0xF804], 0x0323⟩, .mmul 2 3), (⟨[0xF804], 0x0423⟩, .mgang 2 3), (⟨[0xF804], 0x0523⟩, .mst 2 3),
    (⟨[0xF804], 0x0623⟩, .macc 2 3), (⟨[0xF804], 0x0700⟩, .eendPage4)]
theorem test_decode_matrix_words :
    words_of_matrix_words.all (fun p => decodeWords p.1 == .ok p.2) = true := by decide
/-- Words of Table 2-10. -/
def words_of_page_5 : List (GroupWords × Instr) := [
    (⟨[0xF805], 0x0123⟩, .div none 1 2 3), (⟨[0xF805], 0x1123⟩, .divu none 1 2 3), (⟨[0xF805], 0x2123⟩, .rem none 1 2 3),
    (⟨[0xF805], 0x3123⟩, .remu none 1 2 3), (⟨[0xF805], 0x4013⟩, .crd none 1 3), (⟨[0xF805], 0x4113⟩, .cwr none 1 3),
    (⟨[0xF805], 0x4213⟩, .cset none 1 3), (⟨[0xF805], 0x4313⟩, .cclr none 1 3),
    (⟨[0xF805, 0xF00C], 0x5128⟩, .bextu none 1 2 8 3), (⟨[0xF805, 0xF002], 0x612D⟩, .lea none 1 2 45),
    (⟨[0xF805], 0x7120⟩, .movxToIndex none 1 2), (⟨[0xF805], 0x7520⟩, .movxFromIndex none 1 2),
    (⟨[0xF805, 0xF002], 0x810D⟩, .addx none 1 45), (⟨[0xF805, 0xF002], 0x902D⟩, .tmark none 2 45)]
theorem test_decode_page_5 :
    words_of_page_5.all (fun p => decodeWords p.1 == .ok p.2) = true := by decide
/-- Words of Table 19-5. -/
def words_of_gorivo_words : List (BitVec 32 × Instr) := [
    (0x04400003, .gorivoLdr 1 3), (0x08402345, .gorivoLdi 1 9029), (0x0C402345, .gorivoLdh 1 9029),
    (0x1048C000, .gorivoAdd 1 2 3), (0x1448C000, .gorivoSub 1 2 3), (0x1848C000, .gorivoAnd 1 2 3),
    (0x1C48C000, .gorivoOr 1 2 3), (0x2048C000, .gorivoXor 1 2 3), (0x24480002, .gorivoShli 1 2 2),
    (0x28480002, .gorivoShri 1 2 2), (0x2C482345, .gorivoAndi 1 2 9029), (0x30080002, .gorivoCadd 2 2),
    (0x34080002, .gorivoCset 2 2), (0x38400002, .gorivoCrd 1 2), (0x4008FFFC, .gorivoBeq 2 3 (-4)),
    (0x4408FFFC, .gorivoBne 2 3 (-4)), (0x4808FFFC, .gorivoBltu 2 3 (-4)), (0x4C08FFFC, .gorivoBgeu 2 3 (-4)),
    (0x5003FFFC, .gorivoBr (-4)), (0x80000000, .gorivoKeep), (0x84000000, .gorivoDrop), (0x88000002, .gorivoCount 2),
    (0x8C000005, .gorivoTrigger 5)]
theorem test_decode_gorivo_words :
    words_of_gorivo_words.all (fun p => decodeGorivo p.1 == .ok p.2) = true := by decide

/-! ### One step each, with results worked out by hand from the spec -/

/-- The machine answers a next state of which `f` holds. -/
def goes (o : Out) (f : State → Bool) : Bool := match o with | .next t => f t | _ => false
/-- An instruction of frame 0 of cell 0 with g1, g2, g3 as given leaves `v` in g1. -/
def leaves (i : Instr) (x y z v : Word) : Bool := goes (exec i (ts [(1, x), (2, y), (3, z)])) (fun t => t.reg tc 1 == v)

/-- R82: sums wrap modulo 2^64. -/
theorem test_add_wraps : leaves (.add none 1 2 3) 7 0xFFFFFFFFFFFFFFFF 1 0 = true := by decide
/-- R83: the high half of (-1) × 2 is -1, and unsigned it is 1. -/
theorem test_mulh : leaves (.mulh none 1 2) 0xFFFFFFFFFFFFFFFF 2 0 0xFFFFFFFFFFFFFFFF = true ∧
    leaves (.mulhu none 1 2) 0xFFFFFFFFFFFFFFFF 2 0 1 = true := by decide
/-- R83: only bits [5:0] of the amount count. -/
theorem test_sar_amount : leaves (.sar none 1 2) 0x8000000000000000 0x1C4 0 0xF800000000000000 = true := by decide
/-- R83: signed and unsigned order differ. -/
theorem test_slt : leaves (.slt none 1 2) 0xFFFFFFFFFFFFFFFF 0 0 1 = true ∧ leaves (.sltu none 1 2) 0xFFFFFFFFFFFFFFFF 0 0 0 = true := by
  decide
/-- R84: the byte order is reversed. -/
theorem test_bswap : leaves (.bswap none 1 2) 0 0x0102030405060708 0 0x0807060504030201 = true := by decide
/-- R85: the immediate is sign-extended. -/
theorem test_addi_negative : leaves (.addi none 1 (-3)) 1 0 0 0xFFFFFFFFFFFFFFFE = true := by decide
/-- R86: a field of 4 bits at 8 whose top bit is set. -/
theorem test_bext_signs : leaves (.bext none 1 8 3) 0xF00 0 0 0xFFFFFFFFFFFFFFFF = true := by decide
/-- R86: the low bits of g[d+1] go to the position. -/
theorem test_bins : leaves (.bins none 1 8 3) 0xFFFF 0x5 0 0xF5FF = true := by decide
/-- R99: the quotient is truncated toward zero, and the rest has the sign of the dividend. -/
theorem test_div_truncates : leaves (.div none 1 2 3) 0 0xFFFFFFFFFFFFFFF9 2 0xFFFFFFFFFFFFFFFD = true ∧
    leaves (.rem none 1 2 3) 0 0xFFFFFFFFFFFFFFF9 2 0xFFFFFFFFFFFFFFFF = true := by decide
/-- R92: the jump goes to the old register, and the return address is written. -/
theorem test_jalr_same_register : goes (exec (.jalr none 1 1) (ts [(1, 0x1000040)]))
    (fun t => t.reg tc 1 == 0x1000002 && t.pcAt tc == some 0x1000040) = true := by decide
/-- R88: the target is the address of the group plus twice the offset. -/
theorem test_beq_taken : goes (exec (.beq none 1 2 8) (ts [(1, 5), (2, 5)])) (fun t => t.pcAt tc == some 0x1000010) = true := by decide
/-- R102: an index register wraps within 16 bits. -/
theorem test_addx_wraps : goes (exec (.addx none 0 1) (tof (tcell { tframe [] with x := [(0, 0x7FFF)] })))
    (fun t => AL.get 0 (t.fr tc).x 0 == 0x8000) = true := by decide
/-- R94: the code stands in ADDR_IDX and the cause is SOFTWARE. -/
theorem test_trap_code : goes (exec (.trap 0x5A) (ts []))
    (fun t => match (t.fr tc).trap with | some x => x.addrIdx == 0x5A && x.site.pc == 0x1000000 | none => false) = true := by decide
/-- R2: a store writes the low byte at the lowest address. -/
theorem test_store_is_little_endian :
    goes (exec (.st none .default .h 1 2 0) (ts [(1, 0xABCD), (2, 0x1000010)]))
      (fun t => match (t.cell 0).sb with
        | [e] => (match e.kind with | .store va _ _ d => va == 0x1000010 && d == [0xCD, 0xAB] | _ => false)
        | _ => false) = true := by decide

/-! ### Witnesses: further clauses on scopes, fronts, results and errors -/

theorem test_witness_TraceCoresWork_drop :
    let t : TraceCore := { ttc 2 with busy := false, store := [tdrop], inq := [(0, ⟨0, 0, 0, 0⟩)] }
    let x := TraceCore.runAll t.store.length
      { t with inq := [], record := ⟨0, 0, 0, 0⟩, rcell := 0, f := [], pc := 0, verdict := .none, busy := true }
    t.request = none ∧ x.verdict = .drop ∧ x.request = none ∧
    (let y : TraceCore := { ttc 2 with verdict := .drop }
     y.busy = true ∧ y.verdict ≠ .none) ∧ (ttc 2).verdict = .none := by decide
/-- A control message of a kind from no frame to the home of scope 0. -/
def tcq (k : CtlKind) (value : Word) (other : BitVec 32) (w : Waiter) : Ctl := ⟨k, false, 0, 0, 0, other, w, value, [], .answer, 0⟩
theorem test_witness_ScopesEmpty_marked :
    (let r := { tclosing true 0 with acks := [0, 4096], canc := true }
     let s : State := { tctl (tctlq .weightReturn 1 0) r with launches := [(1, { tlaunch 1 .outstanding false with root := 0 })] }
     s.Serves 1 (tctlq .weightReturn 1 0) .weightReturn ∧ (s.scopeRec 0).life = .closing ∧
     (s.scopeRec 0).retd + 1 = (s.scopeRec 0).issued ∧ (s.scopeRec 0).root = true ∧ (s.scopeRec 0).parent = 0 ∧
     (∀ k ∈ r.acks, k ≤ 4096) ∧ (1, { tlaunch 1 .outstanding false with root := 0 }) ∈ s.launches) ∧
    (let s := tctl (tctlq .weightReturn 1 0) { tclosing false 5 with acks := [0, 4096], canc := true }
     s.Serves 1 (tctlq .weightReturn 1 0) .weightReturn ∧ devOf (homeOf (s.scopeRec 0).parent) = s.devNum ∧
     4096 ∈ (s.scopeRec 0).acks) :=
  ⟨⟨⟨rfl, by decide, rfl, by decide, by decide⟩, rfl, by decide, rfl, rfl, by decide, .head _⟩, tctl_serves _ _ _ _, by decide, by decide⟩
theorem test_witness_ScopesLink_launch :
    (let q := tcq .linkres 3 5 (.scope 0x100000)
     let l := { tlaunch 1 .linking false with root := 0x100000 }
     let s : State := { tctl q topen with launches := [(1, l)] }
     s.Serves 1 q .linkres ∧ s.homeHere 0x100000 = false ∧ s.launches.find? (fun p => p.2.root == 0x100000 && (p.2.stage == .linking || p.2.stage == .failed)) = some (1, l) ∧
     l.stage = .linking) ∧
    (let q := tctlq .unlink 0 5
     let s := (tctl q { topen with kids := [1, 5, 6] }).modCell 0 (fun x => { x with scopes := [(0, { topen with kids := [1, 5, 6] }), (1, topen)] })
     s.Serves 1 q .unlink ∧ (s.scopeRec 0).kids = [] ++ 1 :: 5 :: [6] ∧ (5 : BitVec 32) ∉ ([] : List (BitVec 32)) ∧ (1 : BitVec 32) ≠ 5 ∧
     s.homeHere 1 = true ∧ (s.scopeRec 1).life ≠ .free ∧ (1 : BitVec 32).extractLsb' 0 20 ≠ (0 : BitVec 32).extractLsb' 0 20) :=
  ⟨⟨⟨rfl, by decide, rfl, by decide, by decide⟩, by decide, by decide, rfl⟩, ⟨rfl, by decide, rfl, by decide, by decide⟩, by decide, by decide,
   by decide, by decide, by decide, by decide⟩

theorem test_witness_ScopesAreCancelled_more :
    (let q := tctlq .cancel 0 0
     let g : Seg := { tseg with base := 0x2000000, kind := 4, kf := 5 }
     let s : State := { tctl q { topen with kids := [1] } with fields := [(0, { tfield with segs := [tseg, g] })] }
     s.Serves 1 q .cancel ∧ (s.scopeRec 0).live = true ∧ (s.scopeRec 0).canc = false ∧ g ∈ s.segsOf (cellOf (homeOf 0)) ∧ g.kind = 4 ∧
     bits g.kf 11 0 ≠ s.devNum.toNat ∧ (1 : BitVec 32) ∈ (s.scopeRec 0).kids ∧ devOf (homeOf 1) = s.devNum ∧ q.who ≠ .none ∧
     devOf (s.replyTo q.who) = s.devNum) ∧
    ({ topen with canc := true } : ScopeRec).canc = true :=
  ⟨⟨⟨rfl, by decide, rfl, by decide, by decide⟩, rfl, rfl, by decide, rfl, by decide, by decide, by decide, by decide, by decide⟩, rfl⟩
theorem test_witness_NoticesAndClears_more :
    (let q := tctlq .clear 0 0
     (tctl q topen).cellHolds 0 0 = true ∧ q.scope = 0) ∧
    (let q : Ctl := { tctlq .clear 0 0 with scope := 0x105 }
     let s := tctl q topen
     s.Serves 1 q .clear ∧ s.cellHolds q.scope 0 = false ∧ devOf (homeOf q.scope) = s.devNum) ∧
    (∀ k ∈ [CtlKind.notice, .clear], (tctl (tctlq k 4096 0) topen).Serves 1 (tctlq k 4096 0) k) ∧
    (let s := tctl (tctlq .clear 4096 0) topen
     (∀ p ∈ s.transfers, s.below 0 15 p.2.scope = false) ∧ devOf (homeOf 0) = s.devNum) ∧
    (∀ k ∈ [CtlKind.notice, .clear], (tctl (tctlq k 8192 0) topen).Serves 1 (tctlq k 8192 0) k) ∧ 8192 ≤ (8192 : Word).toNat ∧
    (let q : Ctl := { tctlq .clear 8193 0 with scope := 0x100000 }
     let s := tctl q topen
     s.Serves 1 q .clear ∧ s.holdsWork q.scope = false ∧ (∀ p ∈ s.ctls, p.2.kind ≠ .notice ∨ p.2.scope ≠ q.scope) ∧
     devOf (homeOf q.scope) ≠ s.devNum) :=
  ⟨⟨by decide, rfl⟩, ⟨⟨rfl, by decide, rfl, by decide, by decide⟩, by decide, by decide⟩, fun _ _ => tctl_serves _ _ _ _,
   ⟨by decide, by decide⟩, fun _ _ => tctl_serves _ _ _ _, by decide, ⟨rfl, by decide, rfl, by decide, by decide⟩, by decide, by decide, by decide⟩
theorem test_witness_RequestsAreServed_more :
    (tctl (tctlq .query 0 5) topen).Serves 1 (tctlq .query 0 5) .query ∧
    (let q := tcq .answer 1 0 (.unit 0 0)
     let s := (tctl q topen).modCell 0 (fun x => { x with overflow := true, unitAsks := [(0, none)] })
     s.Serves 1 q .answer ∧ (s.cell 0).overflow = true ∧ AL.has (s.cell 0).unitAsks (0 : BitVec 32).toNat = true) :=
  ⟨tctl_serves _ _ _ _, ⟨rfl, by decide, rfl, by decide, by decide⟩, rfl, by decide⟩
theorem test_witness_FieldsRecover_more :
    (let s : State := { trec_ 2 1 with launches := [], recovery := [(0, ⟨2, none, 1, [(0x105, [4096])], []⟩)] }
     AL.find s.recovery 0 = some ⟨2, none, 1, [(0x105, [4096])], []⟩ ∧ s.launchesIn 0 = []) ∧
    AL.find (trec_ 2 2).fields 0 = some (tfm .running) := by decide
theorem test_witness_SlotsAreShared :
    (ts []).freeInSlot 0 0 = some 0 ∧ (ts []).poolRoom 0 = true ∧ (ts []).reserveRoom 0 0 = false ∧
    (let s : State := { ts [] with fields := [(0, { tfield with ctx := { tctx with res := [512] } })] }
     s.reserveRoom 0 1 = false ∧ s.poolRoom 0 = false) := by decide +kernel
/-- A tuple. -/
def ttup (a b : BitVec 32) : Tuple := ⟨[a, b, 0, 0], 9⟩
/-- A front of two keys and one slot with a policy that holds some tuples. -/
def tfront (policy : Nat) (us : List Tuple) : Front :=
  ⟨BitVec.ofNat 64 (0x80000001 + policy * 2 ^ 16), 0x1001000, 0, false, false, us.length, 0, 0, 0, us⟩
theorem test_witness_FrontsCompare :
    bits (tfront 0 []).config 3 2 < 3 ∧ (∃ t : Tuple, ∃ i < 2, Claims.keyNan (t.at_ i)) ∧
    (∀ i < 2, ¬ Claims.keyNan ((ttup 1 2).at_ i)) ∧ (∃ t u, (tfront 0 []).dominates t u = true) ∧
    ∃ f : Front, f.config.toNat / 4 % 4 = 2 ∧ ∃ t, f.invalid t = true := by
  refine ⟨by decide, ⟨ttup 0x7FC00000 0, 0, by decide, by unfold Claims.keyNan; decide⟩, by unfold Claims.keyNan; decide, ⟨ttup 1 1, ttup 2 2, by decide⟩,
    { tfront 0 [] with config := 0x80000009 }, by decide, ttup 0x7FC00000 0, by decide⟩
theorem test_witness_FrontsInsert :
    (∀ policy < 4, let f := tfront policy [ttup 5 1]
     f.count = f.slots.length ∧ f.slots.length ≤ f.config.toNat / 2 ^ 8 % 2 ^ 6 + 1 ∧ f.config.toNat / 2 ^ 16 % 4 = policy ∧
     f.invalid (ttup 1 5) = false ∧ (∀ u ∈ f.slots, f.dominates u (ttup 1 5) = false ∧ f.equal u (ttup 1 5) = false) ∧
     (f.slots.filter (fun u => !f.dominates (ttup 1 5) u)).length = f.config.toNat / 2 ^ 8 % 2 ^ 6 + 1) ∧
    (let f := tfront 0 [ttup 5 1]
     f.slots[0]? = some (ttup 5 1) ∧ f.dominates (ttup 5 1) (ttup 6 2) = true ∧
     f.dominates (ttup 5 1) (ttup 5 1) = false ∧ f.equal (ttup 5 1) (ttup 5 1) = true ∧
     (∀ u ∈ f.slots, f.dominates u (ttup 1 1) = false ∧ f.equal u (ttup 1 1) = false) ∧
     (f.slots.filter (fun u => !f.dominates (ttup 1 1) u)).length < 1) ∧
    (let f := tfront 1 [ttup 5 1]
     let v := fun (u : Tuple) => Claims.keyVal 0 (u.at_ 0)
     (∀ y ∈ ttup 6 0 :: f.slots, v y ≤ v (ttup 6 0)) ∧ ¬ (∀ y ∈ ttup 1 5 :: f.slots, v y ≤ v (ttup 1 5))) := by
  decide
/-- A front operation on the object at the start of the slice of cell 0. -/
def tff (op : FrontOp) (a0 a1 a2 : Word) : Flight :=
  ⟨.act 1, 0, 0, .o, .front op a0 a1 a2 false, 0x1000000, .sram (sliceAddr 0 0), .sram (sliceAddr 0 0), false, 0, tsite, none, 1, .going⟩
/-- A state with it and a memory. -/
def tfo (op : FrontOp) (a0 a1 a2 : Word) (m : Memory) : State := { tfs (tff op a0 a1 a2) with mem := m }
/-- Words of 64 bits at an offset of the slice. -/
def twords (m : Memory) (o : Nat) (ws : List Nat) : Memory := Memory.setBytes m (sliceAddr 0 o) (ws.flatMap (leBytes 8))
/-- That front in memory, with one tuple (5, 1) or none. -/
def tfmem (policy : Nat) (full : Bool) : Memory :=
  twords (twords [] 0 [0x80000001 + policy * 2 ^ 16, 0x1001000, if full then 1 else 0]) 64 (if full then [5 + 2 ^ 32, 0, 9] else [])
theorem test_witness_FrontOperations :
    (∀ op a0 a1 a2 m, let s := tfo op a0 a1 a2 m
     let f := tff op a0 a1 a2
     s.engineReady 0 = [(1, f)] ∧ AL.find s.flights 1 = some f ∧ f.op = .front op a0 a1 a2 false ∧ (∀ q, f.issuer ≠ .line q) ∧
     s.waitOf (.flight 1) = .none ∧ s.runOf (.flight 1) = none ∧ f.target = .sram (sliceAddr 0 0) ∧ sliceAddr 0 0 % 64 = 0 ∧
     f.va.toNat % 64 = 0 ∧
     ∀ o n, o + n ≤ sliceSize → s.OpenRun (s.whoFlight 1 f) (0x1000000 + o) n (sliceAddr 0 0 + o) ∧ Claims.Apart s (sliceAddr 0 0) (sliceAddr 0 0 + o) n) :=
  fun op a0 a1 a2 m => ⟨by cases op <;> rfl, rfl, rfl, nofun, rfl, rfl, rfl, by decide,
    show (0x1000000#48).toNat % 64 = 0 by decide, fun o n h => ⟨(plain_at rfl rfl rfl rfl rfl rfl o n h).toOpenRun, fun _ h => absurd h (List.not_mem_nil)⟩⟩
/-- A front with its tuples stands where the memory says. -/
theorem front_at {s : State} {a : Nat} {f : Front} (hh : Claims.HeaderAt s a f) (hl : f.slots.length = f.count)
    (ht : ∀ i, (h : i < f.slots.length) →
      let word := fun (j : Nat) => BitVec.ofNat 32 (leNat (s.mem.bytes (a + 64 + 32 * i + 4 * j) 4))
      f.slots[i] = Claims.kept f ((List.range 4).map word) (word 4)) : Claims.FrontAt s a f :=
  ⟨hh, hl, fun i u hu => by
    obtain ⟨h, rfl⟩ := List.getElem?_eq_some_iff.1 hu
    exact ht i h⟩
theorem test_witness_FrontOperations_fronts :
    (∀ policy < 4, Claims.FrontAt (tfo .ins 0 0 0 (tfmem policy true)) (sliceAddr 0 0) (tfront policy [ttup 5 1]) ∧
      ¬ Claims.BadFront (tfront policy [ttup 5 1])) ∧
    (let s := tfo .stat 0 0 0 []
     Claims.HeaderAt s (sliceAddr 0 0) ⟨0, 0, 0, false, false, 0, 0, 0, 0, []⟩) ∧
    Claims.BadFront ⟨0, 0, 0, false, false, 0, 0, 0, 0, []⟩ ∧ (tfront 0 []).config.getLsbD 31 = true ∧ (0 : Word).getLsbD 31 = false ∧
    ((2 ^ 14 : Word).toNat / 2 ^ 14 % 4 ≠ 0) ∧ ((tfront 0 []).config.toNat % 2 ^ 31 / 2 ^ 14 % 4 = 0) ∧
    (let f := tfront 0 [ttup 5 1]
     (f.insert (Claims.kept f [6, 2, 0, 0] 9)).spill = false) ∧
    (let f := tfront 3 [ttup 5 1]
     (f.insert (Claims.kept f [1, 5, 0, 0] 9)).spill = true ∧ f.ring.toNat % 32 = 0) := by
  have hh : ∀ policy < 4, Claims.HeaderAt (tfo .ins 0 0 0 (tfmem policy true)) (sliceAddr 0 0) (tfront policy [ttup 5 1]) := by
    unfold Claims.HeaderAt; decide +kernel
  have ht : ∀ policy < 4, ∀ i, (h : i < (tfront policy [ttup 5 1]).slots.length) →
      let word := fun (j : Nat) =>
        BitVec.ofNat 32 (leNat ((tfo .ins 0 0 0 (tfmem policy true)).mem.bytes (sliceAddr 0 0 + 64 + 32 * i + 4 * j) 4))
      (tfront policy [ttup 5 1]).slots[i] = Claims.kept (tfront policy [ttup 5 1]) ((List.range 4).map word) (word 4) := by decide +kernel
  have hb : ∀ policy < 4, ¬ Claims.BadFront (tfront policy [ttup 5 1]) := by unfold Claims.BadFront; decide
  exact ⟨fun p h => ⟨front_at (hh p h) rfl (ht p h), hb p h⟩, by unfold Claims.HeaderAt; decide +kernel, .inl (by decide), by decide, by decide,
    by decide, by decide, by decide, by decide, by decide⟩
/-- The spill ring at its place with a size and a write counter. -/
def tfring (log2n wr : Nat) : State := tfo .ins 0 0 0 (twords (tfmem 3 true) 0x1000 [0x1002000 + log2n * 2 ^ 56, wr])
theorem test_witness_FrontOperations_rings :
    (let hd := fun (s : State) (i : Nat) => leNat (s.mem.bytes (sliceAddr 0 0x1000 + 8 * i) 8)
     24 < hd (tfring 25 0) 0 / 2 ^ 56 ∧
     (hd (tfring 1 2) 0 / 2 ^ 56 ≤ 24 ∧ 2 ^ (hd (tfring 1 2) 0 / 2 ^ 56) ≤ (hd (tfring 1 2) 1 + 2 ^ 64 - hd (tfring 1 2) 2) % 2 ^ 64) ∧
     (hd (tfring 1 1) 0 / 2 ^ 56 ≤ 24 ∧ (hd (tfring 1 1) 1 + 2 ^ 64 - hd (tfring 1 1) 2) % 2 ^ 64 < 2 ^ (hd (tfring 1 1) 0 / 2 ^ 56) ∧
      (hd (tfring 1 1) 0 % 2 ^ 48 + 32 * (hd (tfring 1 1) 1 % 2 ^ (hd (tfring 1 1) 0 / 2 ^ 56))) % 2 ^ 48 = 0x1000000 + 0x2020)) ∧
    sliceAddr 0 0x1000 = sliceAddr 0 0 + 0x1000 ∧ (tfront 3 []).ring.toNat = 0x1000000 + 0x1000 ∧ sliceAddr 0 0 % 32 = 0 ∧ sliceAddr 0 0x1000 % 32 = 0 ∧
    sliceAddr 0 0x2020 % 32 = 0 ∧ 0x1002020 % 32 = 0 ∧ sliceAddr 0 0 + 96 ≤ sliceAddr 0 0x1000 ∧ sliceAddr 0 0x1000 + 32 ≤ sliceAddr 0 0x2020 := by
  decide +kernel
theorem test_witness_FrontOperations_merges :
    (let d := tfront 0 [ttup 5 1]
     let e : Front := { d with config := 0x80000000 }
     d.config.toNat / 2 ^ 16 % 4 ≠ 3 ∧ ¬ (d.config.toNat % 16 = e.config.toNat % 16) ∧ ¬ Claims.BadFront e ∧
     64 + 32 * (d.config.toNat / 2 ^ 8 % 2 ^ 6 + 1) = 96) := by
  unfold Claims.BadFront; decide
/-- The words of a LAUNCH with a PLACE and a DATA. -/
def tpl (place data count : Nat) : List Word := [1, 0, 0, 0, 0, BitVec.ofNat 64 data, BitVec.ofNat 64 (place * 2 ^ 27 + count)]
theorem test_witness_ElementsArePlaced :
    (∀ place < 3, (pw (tpl place 0x1000000 1) 6).toNat / 2 ^ 27 % 4 = place) ∧
    (tfd .running).elementCell (tfm .running) (tpl 0 0x1000000 1) 0 = some 0 ∧ (tfd .running).launchHome (tfm .running) (tpl 0 0x1000000 1) 1 = some 0 ∧
    (tfd .running).launchHome (tfm .running) (tpl 1 0 1) 1 = some 0 ∧
    (tfd .running).elementCell (tfm .running) (tpl 2 0 1) 0 = some 0 ∧ (tfd .running).launchHome (tfm .running) (tpl 2 0 0) 0 = some 0 ∧
    (let s : State := { tfd .running with queues := [(0, tqe .ready (some (tpl 1 1024 1)))], cps := [(0, ⟨[], some 0, []⟩)] }
     (s.cp 0).work = some 0 ∧ (s.queue 0).packet = some (tpl 1 1024 1) ∧ (pw (tpl 1 1024 1) 0).toNat % 256 = 1 ∧ s.launchAt 0 = none ∧
     (pw (tpl 1 1024 1) 6).toNat % 2 ^ 25 = 1 ∧ AL.find s.fields (s.queue 0).field = some (tfm .running) ∧
     s.launchHome (tfm .running) (tpl 1 1024 1) 1 = none ∧ sigAddr (tpl 1 1024 1) = 0 ∧ cpOf 0 = 0) := by
  decide +kernel
theorem test_witness_ErrorsAreMet :
    (∀ k ≤ 10, (⟨k, 0, 0⟩ : Upset).struct_ = k) ∧
    (let s := tfd .running
     (s.cell 0).fieldV = true ∧ AL.has s.fields (s.cell 0).field = true ∧ AL.find s.recovery (s.cell 0).field = none ∧
     (∃ u : Upset, u.struct_ = 10 ∧ s.hubField u = some 0)) ∧
    (∀ u : Upset, (State.reset).upsets = [] ∧ ({ State.reset with upsets := [u] } : State).upsets = [u]) ∧
    (let u : Upset := ⟨4, 0, 0⟩
     (State.reset).meets (.event (.trapTaken 0 0)) (.done State.reset) u = true) :=
  ⟨fun _ _ => rfl, ⟨rfl, by decide, rfl, ⟨⟨10, 0, 0⟩, rfl, by decide⟩⟩, fun _ => ⟨rfl, rfl⟩, by decide⟩
theorem test_witness_AtomicResults :
    (5 : Word).toNat < 2 ^ 32 ∧ 0x7F800000 < 0x7FC00000 % 2 ^ 31 ∧ 0x7F800000 % 2 ^ 31 = 0x7F800000 ∧ 0xFF800000 % 2 ^ 31 = 0x7F800000 ∧
    (0x80000000 % 2 ^ 31 = 0 ∧ 0x80000000 ≠ 0) ∧
    (2 ^ 128 - 2 ^ 103 ≤ (decodeFloat fp32 false 0x7F7FFFFF).toRat + (decodeFloat fp32 false 0x7F7FFFFF).toRat) ∧
    (decodeFloat fp32 false 0xFF7FFFFF).toRat + (decodeFloat fp32 false 0xFF7FFFFF).toRat ≤ -(2 ^ 128 - 2 ^ 103) ∧
    (decodeFloat fp32 false 0x3F800000).toRat + (decodeFloat fp32 false 0x3F800000).toRat < 2 ^ 128 - 2 ^ 103 := by decide +kernel
theorem test_witness_ElementResults :
    (Machine.Num.nan true).isNan = true ∧ (Machine.Num.fin false 3 0).finite ∧ (Machine.Num.fin false 3 0).toRat ≠ 0 ∧
    (Machine.Num.fin true 0 0).toRat = 0 ∧ (Machine.Num.fin false 3 0).isNan = false ∧ (Machine.Num.inf true).isNan = false ∧
    (3 : Nat) < 2 ^ Fmt.int4.bits ∧ ((1 : Nat) : ℚ) * (2 : ℚ) ^ (0 : Int) = 1 := by
  refine ⟨rfl, ?_, by decide +kernel, by decide +kernel, rfl, rfl, by decide, by norm_num⟩
  unfold Machine.Num.finite; decide
/-- A rounding of a mode. -/
def trd (mode : Nat) : VEnv := { who := (tv []).whoGroup te, rd := { mode := mode, sat := false, ftz := false }, nbv := 1, tick := 0 }
/-- A source of indices or data in the slice of cell 0. -/
def tix (base : Addr) (count : Nat) : Shape := ⟨base, .int32, count, 0, 0, 0, .o, 0, [count], [1], 0⟩
theorem test_witness_RowResults :
    (trd 0).rd.mode < 4 ∧ (trd 0).nbv = 1 ∧ ({ trd 0 with nbv := 2 } : VEnv).nbv = 2 ∧ ([.nan false] : List Machine.Num).length ≤ 64 ∧
    (let d := tix 0x1000000 1
     let a := tix 0x1000040 4
     let a1 := tix 0x1000080 1
     d.loc = 0 ∧ d.count = 1 ∧ a1.count = 1 ∧ indexOf a1 0 = 0 ∧ 0 < a.count ∧ indexOf a1 0xFFFFFFFF < 0 ∧
     a.meets d 0 = false ∧ a1.meets d 0 = false ∧
     (readOld (trd 0) a1 (d.same a1) 0).exec (tv []) = (.ok 0, tv []) ∧ (readOld (trd 0) a false 0).exec (tv []) = (.ok 0, tv []) ∧
     (readBits (trd 0) a1 0).exec (tv []) = (.ok 0, tv []) ∧ (readBits (trd 0) a 0).exec (tv []) = (.ok 0, tv [])) :=
  ⟨by decide, rfl, rfl, by decide, rfl, rfl, rfl, by decide, by decide, by decide, by decide +kernel, by decide +kernel, by rfl, by rfl, by rfl, by rfl⟩

end Sys2Proof.Tests
end

/-! # The canonical form of the memory, steps that never stop, and what a step runs

Every operation of the model either leaves the memory or writes it through `Memory.setBytes`, `Memory.block` or a filter, each of which
keeps its canonical form. The lemmas say so once for each operation, in the order of the model's files; the arms of the dispatcher then
follow by their kind. The last part follows the move at the head of the agenda to the instruction that it runs. -/

namespace Sys2Proof.Machine

/-! ## Operations that leave the memory -/

theorem foldl_mem {β : Type} {f : State → β → State} (h : ∀ t x, (f t x).mem = t.mem) (l : List β) (s : State) :
    (l.foldl f s).mem = s.mem := by
  induction l generalizing s with
  | nil => rfl
  | cons x l ih => rw [List.foldl_cons, ih, h]

@[simp] theorem ite_mem (p : Prop) [Decidable p] (s t : State) : (if p then s else t).mem = if p then s.mem else t.mem :=
  apply_ite State.mem p s t

theorem getD_mem {o : Option State} {s : State} (h : ∀ t ∈ o, t.mem = s.mem) : (o.getD s).mem = s.mem := by
  cases o with
  | none => rfl
  | some t => exact h t rfl

/-! #### Machine/Routes -/

@[simp] theorem State.takePath_mem (s : State) (x : Nat) (p : Option HubPath) : (s.takePath x p).mem = s.mem := rfl

/-! #### Machine/Ops -/

@[simp] theorem State.modActOf_mem (s : State) (c slot : Nat) (f : Act → Act) : (s.modActOf c slot f).mem = s.mem := by
  simp [State.modActOf]

@[simp] theorem State.modHubPort_mem (s : State) (k : Nat) (f : HubPort → HubPort) : (s.modHubPort k f).mem = s.mem := rfl
@[simp] theorem State.modAgent_mem (s : State) (a : Nat) (f : Agent → Agent) : (s.modAgent a f).mem = s.mem := rfl
@[simp] theorem State.logPort_mem (s : State) (c : Nat) (v : Violation) : (s.logPort c v).mem = s.mem := rfl
@[simp] theorem State.logAgent_mem (s : State) (a : Nat) (v : Violation) : (s.logAgent a v).mem = s.mem := rfl

@[simp] theorem State.logAt_mem (s : State) (u : LogUnit) (v : Violation) : (s.logAt u v).mem = s.mem := by
  unfold State.logAt
  split <;> rfl

@[simp] theorem State.cacheLeaf_mem (s : State) (va : Nat) (l : Leaf) : (s.cacheLeaf va l).mem = s.mem := rfl
@[simp] theorem State.walkDone_mem (s : State) (field va : Nat) (r : Option FaultReq) : (s.walkDone field va r).mem = s.mem := rfl

@[simp] theorem State.translate_mem (s : State) (field va : Nat) (need : Need) (r : Option FaultReq) :
    (s.translate field va need r).2.mem = s.mem := by
  unfold State.translate
  (repeat' split) <;> simp

@[simp] theorem State.setRun_mem (s : State) (r : FaultReq) (x : FrontRun) : (s.setRun r x).mem = s.mem := rfl
@[simp] theorem State.waitWalk_mem (s : State) (r : FaultReq) (va : Nat) : (s.waitWalk r va).mem = s.mem := rfl

@[simp] theorem State.gotLine_mem (s : State) (r : FaultReq) (line : Nat) (bs : List Byte) : (s.gotLine r line bs).mem = s.mem :=
  rfl

@[simp] theorem State.gotWrite_mem (s : State) (r : FaultReq) (va : Nat) : (s.gotWrite r va).mem = s.mem := rfl
@[simp] theorem State.sendPacketAs_mem (s : State) (x : Nat) (p : Packet) : (s.sendPacketAs x p).mem = s.mem := rfl
@[simp] theorem State.sendPacket_mem (s : State) (p : Packet) : (s.sendPacket p).mem = s.mem := rfl

@[simp] theorem State.postCtl_mem (s : State) (m : Ctl) : (s.postCtl m).mem = s.mem := by
  simp only [State.postCtl]
  (repeat' split) <;> simp

@[simp] theorem State.returnWeight_mem (s : State) (src : BitVec 24) (sc : BitVec 32) (w : Nat) (hub : Bool) :
    (s.returnWeight src sc w hub).mem = s.mem := by
  simp [State.returnWeight]

@[simp] theorem State.askMint_mem (s : State) (src : BitVec 24) (sc : BitVec 32) (who : Waiter) (hub : Bool) :
    (s.askMint src sc who hub).mem = s.mem := by
  simp [State.askMint]

@[simp] theorem State.askUnit_mem (s : State) (c : Nat) (sc : BitVec 32) : (s.askUnit c sc).mem = s.mem := by simp [State.askUnit]
@[simp] theorem State.checked_mem (s : State) (c : Nat) (sc : BitVec 32) : (s.checked c sc).mem = s.mem := by simp [State.checked]

@[simp] theorem State.offer_mem (s : State) (c kind : Nat) (nm : Naming) (entry : Addr) (slot : Nat) (dseq : BitVec 8)
    (code aux : Nat) : (s.offer c kind nm entry slot dseq code aux).mem = s.mem := rfl

@[simp] theorem State.offerSlot_mem (s : State) (c slot kind code aux : Nat) : (s.offerSlot c slot kind code aux).mem = s.mem := rfl

@[simp] theorem State.sendService_mem (s : State) (f : Field) (src : BitVec 24) (hub : Bool) (words : List Word) (nack : Bool) :
    (s.sendService f src hub words nack).mem = s.mem := by
  simp [State.sendService]

@[simp] theorem State.raiseEngineTrap_mem (s : State) (p cause : Nat) (site : Site) (addrIdx : Word) :
    (s.raiseEngineTrap p cause site addrIdx).mem = s.mem := by
  simp [State.raiseEngineTrap]

@[simp] theorem State.codeLine_mem (s : State) (c field : Nat) (segs : List Seg) (va : Nat) :
    (s.codeLine c field segs va).2.mem = s.mem := by
  have htr := s.translate_mem field va .x none
  unfold State.codeLine
  split
  · split
    · simp
    · split <;> rfl
  · split
    · split <;> simp_all
    all_goals simp_all
  all_goals rfl

@[simp] theorem State.fetchLine_mem (s : State) (c va : Nat) : (s.fetchLine c va).2.mem = s.mem := by
  have hcl := s.codeLine_mem c (s.cell c).field (s.segsOf c) (va / 64 * 64)
  simp only [State.fetchLine]
  split
  · rfl
  · rfl
  · split
    · simp_all
    · exact hcl

@[simp] theorem State.fetchHalf_mem (s : State) (c va : Nat) : (s.fetchHalf c va).2.mem = s.mem := by
  have hfl := s.fetchLine_mem c va
  simp only [State.fetchHalf]
  split <;> simp_all

@[simp] theorem State.staleLines_mem (s : State) (c : Nat) (p : Nat → Bool) : (s.staleLines c p).mem = s.mem := rfl
@[simp] theorem State.flushCode_mem (s : State) (c : Nat) : (s.flushCode c).mem = s.mem := rfl
@[simp] theorem State.logErr_mem (s : State) (key : Nat) (e : ErrEntry) : (s.logErr key e).mem = s.mem := rfl
@[simp] theorem State.wipe_mem (s : State) (inC : Nat → Bool) : (s.wipe inC).mem = s.mem := rfl

@[simp] theorem State.contain_mem (s : State) (field : Option Nat) : (s.contain field).mem = s.mem := by
  unfold State.contain
  (repeat' split) <;> simp

@[simp] theorem State.withhold_mem (s : State) (c : Nat) (r : FaultReq) : (s.withhold c r).mem = s.mem := by simp [State.withhold]

@[simp] theorem State.consume_mem (s : State) (flat : Nat) (source_ : BitVec 24) (field agent : Option Nat) :
    (s.consume flat source_ field agent).mem = s.mem := by
  unfold State.consume
  (repeat' split) <;> simp

@[simp] theorem State.consumeIn_mem (s : State) (kind : Nat) (u : Upset) : (s.consumeIn kind u).mem = s.mem := by
  simp [State.consumeIn]

@[simp] theorem State.launchFlight_mem (s : State) (f : Flight) : (s.launchFlight f).1.mem = s.mem := by simp [State.launchFlight]

@[simp] theorem State.askRemote_mem (s : State) (r : FaultReq) (cell field : Nat) (cls : MemClass) (op : MemOp) (va : Addr)
    (t : Target) : (s.askRemote r cell field cls op va t).1.mem = s.mem := rfl

@[simp] theorem State.pageFault_mem (s : State) (field va op : Nat) (q : FaultReq) (cls : MemClass) (size : Nat) :
    (s.pageFault field va op q cls size).1.mem = s.mem := by
  unfold State.pageFault
  split <;> rfl

/-! #### Machine/Operands -/

@[simp] theorem State.modActC_mem (s : State) (c : Ctx) (f : Act → Act) : (s.modActC c f).mem = s.mem := by simp [State.modActC]

@[simp] theorem State.trapGroup_mem (s : State) (c : Ctx) (cause : Nat) (idx : Word) (next : Addr) :
    (s.trapGroup c cause idx next).mem = s.mem := by
  unfold State.trapGroup
  split <;> simp

@[simp] theorem State.waitPage_mem (s : State) (c : Ctx) (va op : Nat) (cls : MemClass) (size : Nat) :
    (s.waitPage c va op cls size).mem = s.mem := by
  unfold State.waitPage
  split <;> simp

@[simp] theorem State.askLine_mem (s : State) (c : Ctx) (t : Target) (line : Nat) : (s.askLine c t line).mem = s.mem := rfl

@[simp] theorem State.withholdGroup_mem (s : State) (c : Ctx) (flat : Nat) (agent : Option Nat) :
    (s.withholdGroup c flat agent).mem = s.mem := by
  simp [State.withholdGroup]

@[simp] theorem State.dropUpsets_mem (s : State) (l : List Upset) : (s.dropUpsets l).mem = s.mem := rfl
@[simp] theorem State.consumeReg_mem (s : State) (c : Ctx) (n : Int) : (s.consumeReg c n).mem = s.mem := by simp [State.consumeReg]

/-! #### Machine/Memory -/

@[simp] theorem State.readTarget_mem (s : State) (field : Nat) (t : Target) (n : Nat) (need : Need) (v : Nat → Violation) :
    (s.readTarget field t n need v).2.mem = s.mem := by
  simp only [State.readTarget]
  (repeat' split) <;> simp

@[simp] theorem State.latent_mem (s : State) (w : Nat) : (s.latent w).mem = s.mem := rfl
@[simp] theorem State.checkWord_mem (s : State) (code w : Nat) : (s.checkWord code w).mem = s.mem := by simp [State.checkWord]
@[simp] theorem State.checkLine_mem (s : State) (flat : Nat) : (s.checkLine flat).mem = s.mem := foldl_mem (by simp) _ _
@[simp] theorem State.writtenBack_mem (s : State) (lines : List Nat) : (s.writtenBack lines).mem = s.mem := foldl_mem (by simp) _ _

@[simp] theorem State.plainAt_mem (s : State) (keep : Resident → Bool) (a : Nat) : (s.plainAt keep a).mem = s.mem := by
  simp [State.plainAt]

@[simp] theorem State.plainTo_mem (s : State) (keep : Resident → Bool) (field : Nat) (t : Target) :
    (s.plainTo keep field t).mem = s.mem := by
  unfold State.plainTo
  split <;> simp

@[simp] theorem State.stopFor_mem (s : State) (r : FaultReq) (cell field : Nat) (x : Stop) :
    (s.stopFor r cell field x).mem = s.mem := by
  unfold State.stopFor
  split <;> simp

/-! #### Machine/Access -/

@[simp] theorem State.marked_mem (s : State) (c : Ctx) : (s.marked c).mem = s.mem := rfl
@[simp] theorem State.acqDone_mem (s : State) (c : Ctx) : (s.acqDone c).mem = s.mem := rfl
@[simp] theorem State.acquire_mem (s : State) (c : Ctx) (m : FenceMask) : (s.acquire c m).mem = s.mem := rfl

@[simp] theorem State.enter_mem (s : State) (c : Ctx) (cls : MemClass) (hint : BitVec 4) (k : SbKind) :
    (s.enter c cls hint k).mem = s.mem := by
  simp [State.enter]

@[simp] theorem State.logIssue_mem (s : State) (c : Ctx) (va : Addr) (kind : Nat) (cls : MemClass) (op n : Nat) :
    (s.logIssue c va kind cls op n).mem = s.mem := rfl

@[simp] theorem State.access_mem (s : State) (c : Ctx) (t : Attr) (lead : Bool) (op : MemOp) (ea : Addr) (n : Nat) (need : Need) :
    (s.access c t lead op ea n need).1.mem = s.mem := by
  simp only [State.access]
  (repeat' split) <;> simp

@[simp] theorem State.addOutst_mem (s : State) (c : Ctx) (o : Outst) : (s.addOutst c o).mem = s.mem := rfl

@[simp] theorem State.prefetch_mem (s : State) (c : Ctx) (hint : BitVec 4) (ea : Nat) : (s.prefetch c hint ea).mem = s.mem := by
  have htr := s.translate_mem (s.cell c.cell).field ea .r none
  unfold State.prefetch
  dsimp only
  (repeat' split) <;> simp_all

/-! #### Machine/Flags -/

@[simp] theorem State.crClear_mem (s : State) (c : Ctx) (n : Nat) : (s.crClear c n).mem = s.mem := by
  unfold State.crClear
  split <;> rfl

@[simp] theorem State.modCr_mem (s : State) (c : Ctx) (f : FrameCr → FrameCr) : (s.modCr c f).mem = s.mem := rfl
@[simp] theorem State.setTagEnable_mem (s : State) (c : Nat) (v : Word) : (s.setTagEnable c v).mem = s.mem := rfl

@[simp] theorem State.crWrite_mem (s : State) (c : Ctx) (n : Nat) (v : Word) (rm mix : Word → Word → Word) :
    (s.crWrite c n v rm mix).mem = s.mem := by
  unfold State.crWrite
  split <;> rfl

/-! #### Machine/MemEvents -/

theorem State.sendEntry_mem (s : State) (c : Nat) : ∀ s1 ∈ s.sendEntry c, s1.mem = s.mem := by
  simp only [State.sendEntry]
  (repeat' split) <;> simp

theorem State.settle_mem (s : State) (f : Flight) (va : Addr) (r : PortAnswer) : ∀ p1 ∈ s.settle f va r, p1.2.mem = s.mem := by
  unfold State.settle
  split <;> simp

@[simp] theorem State.plainDone_mem (s : State) (f : Flight) : (s.plainDone f).mem = s.mem := by simp [State.plainDone]

theorem State.portLoad_mem (s : State) (f : Flight) (n : Nat) : ∀ p1 ∈ s.portLoad f n, p1.2.mem = s.mem := by
  unfold State.portLoad
  dsimp only
  (repeat' split) <;> intro r hr <;> simpa using State.settle_mem _ _ _ _ r hr

theorem State.depart_mem (s : State) (x : Nat) (f : Flight) : ∀ s1 ∈ s.depart x f, s1.mem = s.mem := by
  unfold State.depart
  simp

@[simp] theorem State.parkFor_mem (s : State) (f : Flight) : (s.parkFor f).mem = s.mem := by
  unfold State.parkFor
  (repeat' split) <;> simp

@[simp] theorem State.faultFlight_mem (s : State) (x : Nat) (f : Flight) (va : Nat) : (s.faultFlight x f va).mem = s.mem := by
  simp [State.faultFlight]

@[simp] theorem State.endWalk_mem (s : State) (x : Nat) (f : Flight) (va : Nat) : (s.endWalk x f va).mem = s.mem := by
  have htr := s.translate_mem f.field va .r (some (.flight x))
  unfold State.endWalk
  dsimp only
  split
  · simp_all [foldl_mem]
  · simp_all
  · simp_all

theorem State.walkFor_mem (s : State) (x : Nat) : ∀ s1 ∈ s.walkFor x, s1.mem = s.mem := by
  simp only [State.walkFor]
  (repeat' split) <;> simp

@[simp] theorem State.resumeReq_mem (s : State) (r : FaultReq) : (s.resumeReq r).mem = s.mem := by
  unfold State.resumeReq
  split <;> simp

@[simp] theorem State.answerLine_mem (s : State) (x : Nat) (f : Flight) (q : FaultReq) (r : Resp) :
    (s.answerLine x f q r).mem = s.mem := by
  unfold State.answerLine
  split <;> rfl

@[simp] theorem State.engineAnswer_mem (s : State) (x : Nat) : (s.engineAnswer x).mem = s.mem := by
  unfold State.engineAnswer
  (repeat' split) <;> simp

@[simp] theorem State.touchLine_mem (s : State) (k line : Nat) (nohot : Bool) : (s.touchLine k line nohot).mem = s.mem := by
  simp [State.touchLine]

@[simp] theorem State.touchFront_mem (s : State) (k : Nat) (r : Resident) (nohot : Bool) :
    (s.touchFront k r nohot).mem = s.mem := by
  simp [State.touchFront]

@[simp] theorem State.stopEngine_mem (s : State) (x : Nat) (f : Flight) (e : Stop) : (s.stopEngine x f e).mem = s.mem := by
  unfold State.stopEngine
  split <;> simp

theorem State.tryEvictLine_mem (s : State) (k : Nat) : ∀ s1 ∈ s.tryEvictLine k, s1.mem = s.mem := by
  simp only [State.tryEvictLine]
  (repeat' split) <;> simp

theorem State.tryFrontBack_mem (s : State) (k obj : Nat) : ∀ s1 ∈ s.tryFrontBack k obj, s1.mem = s.mem := by
  simp only [State.tryFrontBack]
  (repeat' split) <;> simp

@[simp] theorem State.accessTrap_mem (s : State) (c sl : Nat) (site : Site) (va : Addr) (order : Nat) :
    (s.accessTrap c sl site va order).mem = s.mem := by
  simp [State.accessTrap]

@[simp] theorem State.countDown_mem (s : State) (x : Nat) (f : Flight) : (s.countDown x f).mem = s.mem := by
  unfold State.countDown
  (repeat' split) <;> simp

theorem State.tryAck_mem (s : State) (x : Nat) : ∀ s1 ∈ s.tryAck x, s1.mem = s.mem := by
  unfold State.tryAck
  (repeat' split) <;> simp

@[simp] theorem State.setDead_mem (s : State) (a : Nat) (t : Trap) (st : TrapStage) : (s.setDead a t st).mem = s.mem := by
  simp [State.setDead]

@[simp] theorem State.deadRecorded_mem (s : State) (a : Nat) (x : Act) (t : Trap) (k : Nat) (ra : Addr) :
    (s.deadRecorded a x t k ra).mem = s.mem := by
  simp [State.deadRecorded]

@[simp] theorem State.mirrorAnswer_mem (s : State) (f : Flight) (sl : Nat) (r : Resp) : (s.mirrorAnswer f sl r).mem = s.mem := by
  unfold State.mirrorAnswer
  (repeat' split) <;> simp

theorem State.tryComplete_mem (s : State) (x : Nat) : ∀ s1 ∈ s.tryComplete x, s1.mem = s.mem := by
  unfold State.tryComplete
  (repeat' split) <;> simp

/-! #### Machine/Messages -/

@[simp] theorem State.countReplica_mem (s : State) (m : Msg) : (s.countReplica m).mem = s.mem := by
  unfold State.countReplica
  split <;> rfl

@[simp] theorem State.nack_mem (s : State) (m : Msg) (code : Nat) (src : BitVec 24) (hub : Bool) (fld : Option Field) :
    (s.nack m code src hub fld).mem = s.mem := by
  unfold State.nack
  (repeat' split) <;> simp

@[simp] theorem State.logRefusal_mem (s : State) (c code : Nat) (m : Msg) : (s.logRefusal c code m).mem = s.mem := rfl

@[simp] theorem State.logPortRefusal_mem (s : State) (q code : Nat) (handler : Addr) (src : BitVec 24) (sc : BitVec 32) :
    (s.logPortRefusal q code handler src sc).mem = s.mem := rfl

@[simp] theorem State.sendMsg_mem (s : State) (c : Nat) (m : Msg) : (s.sendMsg c m).mem = s.mem := by
  unfold State.sendMsg
  (repeat' split) <;> simp

@[simp] theorem State.mirrorSlots_mem (s : State) (c : Nat) : (s.mirrorSlots c).mem = s.mem := by
  unfold State.mirrorSlots
  split <;> rfl

@[simp] theorem State.putSlot_mem (s : State) (c k : Nat) (m : Msg) (order : Nat) : (s.putSlot c k m order).mem = s.mem := by
  simp [State.putSlot]

@[simp] theorem State.countDrop_mem (s : State) (k : Nat) : (s.countDrop k).mem = s.mem := rfl
@[simp] theorem State.logHubRefusal_mem (s : State) (k code : Nat) (m : Msg) : (s.logHubRefusal k code m).mem = s.mem := rfl

@[simp] theorem State.refuseFenced_mem (s : State) (x c : Nat) (m : Msg) : (s.refuseFenced x c m).mem = s.mem := by
  simp [State.refuseFenced]

@[simp] theorem State.refuseService_mem (s : State) (c : Nat) (m : Msg) : (s.refuseService c m).mem = s.mem := by
  simp [State.refuseService]

theorem State.tryArrive_mem (s : State) (m : Nat) : ∀ s1 ∈ s.tryArrive m, s1.mem = s.mem := by
  simp only [State.tryArrive]
  (repeat' split) <;> simp

@[simp] theorem State.account_mem (s : State) (c : Nat) (nm : Naming) (sent arrived dispd : BitVec 64) (discard : Bool) :
    (s.account c nm sent arrived dispd discard).mem = s.mem := rfl

@[simp] theorem State.readDescriptor_mem (s : State) (c : Nat) (req : FaultReq) (h : Addr) :
    (s.readDescriptor c req h).2.mem = s.mem := by
  have hcl := s.codeLine_mem c (s.cell c).field (s.segsOf c) (h.toNat / 64 * 64)
  simp only [State.readDescriptor]
  split
  · rfl
  · split
    · rfl
    · rfl
    · split <;> simp_all

@[simp] theorem State.dropSlot_mem (s : State) (c k : Nat) : (s.dropSlot c k).mem = s.mem := by simp [State.dropSlot]
@[simp] theorem State.offerMsg_mem (s : State) (c : Nat) (m : Msg) (kind aux : Nat) : (s.offerMsg c m kind aux).mem = s.mem := rfl

@[simp] theorem State.discardSlot_mem (s : State) (c k : Nat) (p : InSlot) : (s.discardSlot c k p).mem = s.mem := by
  simp [State.discardSlot]

@[simp] theorem State.refuseSlot_mem (s : State) (c k : Nat) (p : InSlot) (code : Nat) : (s.refuseSlot c k p code).mem = s.mem := by
  simp [State.refuseSlot]

@[simp] theorem State.startAct_mem (s : State) (c k : Nat) (p : InSlot) (h : Addr) (d : Descriptor) (chan : BitVec 3) (slot : Nat) :
    (s.startAct c k p h d chan slot).mem = s.mem := by
  unfold State.startAct
  (repeat' split) <;> simp

theorem State.tryDispatch_mem (s : State) (c : Nat) : ∀ s1 ∈ s.tryDispatch c, s1.mem = s.mem := by
  have hrd : ∀ {k h r t}, s.readDescriptor c (.input c k) h = (r, t) → t.mem = s.mem := by
    intro k h r t e
    simpa [e] using s.readDescriptor_mem c (.input c k) h
  unfold State.tryDispatch
  split
  · simp
  split
  · simp
  dsimp only
  (repeat' split) <;> try simp
  all_goals simp [hrd ‹_›]

@[simp] theorem State.freeFrame_mem (s : State) (c slot : Nat) : (s.freeFrame c slot).mem = s.mem := by
  unfold State.freeFrame
  split <;> simp

theorem State.tryRetire_mem (s : State) (c slot : Nat) : ∀ s1 ∈ s.tryRetire c slot, s1.mem = s.mem := by
  simp only [State.tryRetire]
  (repeat' split) <;> simp

theorem State.tryDrain_mem (s : State) (c a : Nat) : ∀ s1 ∈ s.tryDrain c a, s1.mem = s.mem := by
  unfold State.tryDrain
  dsimp only
  (repeat' split) <;> simp [foldl_mem]

theorem State.trySteal_mem (s : State) (c : Nat) : ∀ s1 ∈ s.trySteal c, s1.mem = s.mem := by
  simp only [State.trySteal]
  (repeat' split) <;> simp

theorem State.tryStolen_mem (s : State) (c : Nat) : ∀ s1 ∈ s.tryStolen c, s1.mem = s.mem := by
  unfold State.tryStolen
  split <;> simp

/-! #### Machine/Send -/

@[simp] theorem State.setPend_mem (s : State) (c : Ctx) (p : Pending) : (s.setPend c p).mem = s.mem := by
  unfold State.setPend
  split <;> simp

@[simp] theorem State.split_mem (s : State) (c : Ctx) (sc : BitVec 32) : (s.split c sc).2.mem = s.mem := by simp [State.split]

@[simp] theorem State.splitMinted_mem (s : State) (c : Ctx) (sc : BitVec 32) (m : Nat) :
    (s.splitMinted c sc m).2.2.mem = s.mem := by
  simp [State.splitMinted]

@[simp] theorem State.modBellReg_mem (s : State) (c b : Nat) (f : BellReg → BellReg) : (s.modBellReg c b f).mem = s.mem := rfl

@[simp] theorem State.takeExternal_mem (s : State) (b : Nat) (l : List Nat) (n : Nat) : (s.takeExternal b l n).mem = s.mem := by
  induction l generalizing s n with
  | nil => rfl
  | cons d t ih => exact ih _ _

theorem State.tryClose_mem (s : State) (die b : Nat) : ∀ s1 ∈ s.tryClose die b, s1.mem = s.mem := by
  unfold State.tryClose
  dsimp only
  split
  · rintro _ ⟨⟩
    dsimp only
    rw [foldl_mem, State.takeExternal_mem, foldl_mem] <;> simp
  · simp

@[simp] theorem State.closeDue_mem (s : State) (die b : Nat) : (s.closeDue die b).mem = s.mem := by
  unfold State.closeDue
  split
  · exact getD_mem (s.tryClose_mem die b)
  · rfl

/-! #### Machine/Traps -/

@[simp] theorem State.frameTrapTo_mem (s : State) (c slot : Nat) (st : TrapStage) : (s.frameTrapTo c slot st).mem = s.mem := by
  unfold State.frameTrapTo
  split <;> simp

@[simp] theorem State.freeEntry_mem (s : State) (c k : Nat) : (s.freeEntry c k).mem = s.mem := by simp [State.freeEntry]
@[simp] theorem State.dropCode_mem (s : State) (c : Nat) (pc next : Addr) : (s.dropCode c pc next).mem = s.mem := rfl

@[simp] theorem State.resumeFrame_mem (s : State) (c slot : Nat) (after : Bool) (pc next : Addr) (snap : List Word) :
    (s.resumeFrame c slot after pc next snap).mem = s.mem := by
  simp only [State.resumeFrame]
  (repeat' split) <;> simp

@[simp] theorem State.resumeProg_mem (s : State) (p : Nat) (x : Prog) (after : Bool) (pc next : Addr) (snap : List Word) :
    (s.resumeProg p x after pc next snap).mem = s.mem := by
  simp [State.resumeProg]

/-! #### Machine/Scope -/

@[simp] theorem State.setScope_mem (s : State) (sc : BitVec 32) (r : ScopeRec) : (s.setScope sc r).mem = s.mem := rfl

@[simp] theorem State.reply_mem (s : State) (c : Ctl) (k : CtlKind) (value : Word) (other : BitVec 32) :
    (s.reply c k value other).mem = s.mem := by
  simp [State.reply]

@[simp] theorem State.fenceDrop_mem (s : State) (x c : Nat) : (s.fenceDrop x c).mem = s.mem := rfl

theorem State.serve_mem (s : State) (x : Nat) (kinds : List CtlKind) (f : Ctl → State → Option State)
    (hf : ∀ c t, ∀ s1 ∈ f c t, s1.mem = t.mem) : ∀ s1 ∈ s.serve x kinds f, s1.mem = s.mem := by
  unfold State.serve
  split
  · simp
  · split
    · simp
    · dsimp only
      split
      · simp
      · exact hf _ _

theorem State.serveMint_mem (s : State) (x : Nat) : ∀ s1 ∈ s.serveMint x, s1.mem = s.mem := by
  unfold State.serveMint
  refine State.serve_mem _ _ _ _ fun c t => ?_
  dsimp only
  (repeat' split) <;> simp

@[simp] theorem State.answerTo_mem (s : State) (w : Waiter) (v : Word) : (s.answerTo w v).mem = s.mem := by
  unfold State.answerTo
  split <;> simp

@[simp] theorem State.grantTo_mem (s : State) (w : Waiter) (sc : BitVec 32) (n : Nat) : (s.grantTo w sc n).mem = s.mem := by
  unfold State.grantTo
  (repeat' split) <;> simp

theorem State.serveGrant_mem (s : State) (x : Nat) : ∀ s1 ∈ s.serveGrant x, s1.mem = s.mem := by
  unfold State.serveGrant
  exact State.serve_mem _ _ _ _ fun c t => by simp

theorem State.serveRefuse_mem (s : State) (x : Nat) : ∀ s1 ∈ s.serveRefuse x, s1.mem = s.mem := by
  unfold State.serveRefuse
  refine State.serve_mem _ _ _ _ fun c t => ?_
  dsimp only
  (repeat' split) <;> simp

@[simp] theorem State.tellOne_mem (s : State) (k : CtlKind) (sc : BitVec 32) (who : Waiter) (u : Sender) (n : Nat) :
    (s.tellOne k sc who u n).mem = s.mem := by
  simp [State.tellOne]

@[simp] theorem State.tellAll_mem (s : State) (k : CtlKind) (sc : BitVec 32) (who : Waiter) (u : Sender) (to_ : List Nat) :
    (s.tellAll k sc who u to_).mem = s.mem := foldl_mem (by simp) _ _

@[simp] theorem State.cancelHere_mem (s : State) (sc : BitVec 32) : (s.cancelHere sc).mem = s.mem := by
  unfold State.cancelHere
  simp [foldl_mem]

theorem State.serveCancel_mem (s : State) (x : Nat) : ∀ s1 ∈ s.serveCancel x, s1.mem = s.mem := by
  unfold State.serveCancel
  refine State.serve_mem _ _ _ _ fun c t => ?_
  dsimp only
  (repeat' split) <;> simp

theorem State.serveChoke_mem (s : State) (x : Nat) : ∀ s1 ∈ s.serveChoke x, s1.mem = s.mem := by
  unfold State.serveChoke
  refine State.serve_mem _ _ _ _ fun c t => ?_
  dsimp only
  (repeat' split) <;> simp

theorem State.serveNotice_mem (s : State) (x : Nat) : ∀ s1 ∈ s.serveNotice x, s1.mem = s.mem := by
  unfold State.serveNotice
  refine State.serve_mem _ _ _ _ fun c t => ?_
  dsimp only
  (repeat' split) <;> simp

theorem State.serveClear_mem (s : State) (x : Nat) : ∀ s1 ∈ s.serveClear x, s1.mem = s.mem := by
  unfold State.serveClear
  refine State.serve_mem _ _ _ _ fun c t => ?_
  dsimp only
  (repeat' split) <;> simp

@[simp] theorem State.tryFree_mem (s : State) (sc : BitVec 32) : (s.tryFree sc).mem = s.mem := by simp [State.tryFree]

theorem State.serveClearack_mem (s : State) (x : Nat) : ∀ s1 ∈ s.serveClearack x, s1.mem = s.mem := by
  unfold State.serveClearack
  refine State.serve_mem _ _ _ _ fun c t => ?_
  dsimp only
  (repeat' split) <;> simp

@[simp] theorem State.emptyScope_mem (s : State) (sc : BitVec 32) (r : ScopeRec) : (s.emptyScope sc r).mem = s.mem := by
  simp [State.emptyScope]

theorem State.serveReturn_mem (s : State) (x : Nat) : ∀ s1 ∈ s.serveReturn x, s1.mem = s.mem := by
  unfold State.serveReturn
  refine State.serve_mem _ _ _ _ fun c t => ?_
  dsimp only
  (repeat' split) <;> simp

theorem State.serveLink_mem (s : State) (x : Nat) : ∀ s1 ∈ s.serveLink x, s1.mem = s.mem := by
  unfold State.serveLink
  refine State.serve_mem _ _ _ _ fun c t => ?_
  dsimp only
  (repeat' split) <;> simp

@[simp] theorem State.openChild_mem (s : State) (cell slot : Nat) (par sib : BitVec 32) (depth : Nat) :
    (s.openChild cell slot par sib depth).mem = s.mem := by
  unfold State.openChild
  split <;> rfl

@[simp] theorem State.unlinkRoot_mem (s : State) (cp : BitVec 24) (parent root : BitVec 32) :
    (s.unlinkRoot cp parent root).mem = s.mem := by
  simp [State.unlinkRoot]

@[simp] theorem State.answerLink_mem (s : State) (root parent sib : BitVec 32) (granted : Bool) :
    (s.answerLink root parent sib granted).mem = s.mem := by
  unfold State.answerLink
  split <;> simp

theorem State.serveLinkres_mem (s : State) (x : Nat) : ∀ s1 ∈ s.serveLinkres x, s1.mem = s.mem := by
  unfold State.serveLinkres
  refine State.serve_mem _ _ _ _ fun c t => ?_
  dsimp only
  (repeat' split) <;> simp

theorem State.serveUnlink_mem (s : State) (x : Nat) : ∀ s1 ∈ s.serveUnlink x, s1.mem = s.mem := by
  unfold State.serveUnlink
  refine State.serve_mem _ _ _ _ fun c t => ?_
  dsimp only
  (repeat' split) <;> simp

theorem State.serveUnlinkack_mem (s : State) (x : Nat) : ∀ s1 ∈ s.serveUnlinkack x, s1.mem = s.mem := by
  unfold State.serveUnlinkack
  refine State.serve_mem _ _ _ _ fun c t => ?_
  dsimp only
  (repeat' split) <;> simp

theorem State.serveClose_mem (s : State) (x : Nat) : ∀ s1 ∈ s.serveClose x, s1.mem = s.mem := by
  unfold State.serveClose
  refine State.serve_mem _ _ _ _ fun c t => ?_
  dsimp only
  (repeat' split) <;> simp

theorem State.serveShield_mem (s : State) (x : Nat) : ∀ s1 ∈ s.serveShield x, s1.mem = s.mem := by
  unfold State.serveShield
  refine State.serve_mem _ _ _ _ fun c t => ?_
  dsimp only
  (repeat' split) <;> simp

theorem State.serveClaim_mem (s : State) (x : Nat) : ∀ s1 ∈ s.serveClaim x, s1.mem = s.mem := by
  unfold State.serveClaim
  refine State.serve_mem _ _ _ _ fun c t => ?_
  dsimp only
  (repeat' split) <;> simp [foldl_mem]

theorem State.serveCheck_mem (s : State) (x : Nat) : ∀ s1 ∈ s.serveCheck x, s1.mem = s.mem := by
  unfold State.serveCheck
  refine State.serve_mem _ _ _ _ fun c t => ?_
  dsimp only
  (repeat' split) <;> simp

theorem State.serveClimb_mem (s : State) (x : Nat) : ∀ s1 ∈ s.serveClimb x, s1.mem = s.mem := by
  unfold State.serveClimb
  refine State.serve_mem _ _ _ _ fun c t => ?_
  dsimp only
  (repeat' split) <;> simp

theorem State.serveAnswer_mem (s : State) (x : Nat) : ∀ s1 ∈ s.serveAnswer x, s1.mem = s.mem := by
  unfold State.serveAnswer
  refine State.serve_mem _ _ _ _ fun c t => ?_
  dsimp only
  (repeat' split) <;> simp

/-! #### Machine/Bells -/

theorem State.tryBell_mem (s : State) (die b : Nat) : ∀ s1 ∈ s.tryBell die b, s1.mem = s.mem := by
  unfold State.tryBell
  (repeat' split) <;> simp [foldl_mem]

theorem State.tryExternal_mem (s : State) (x : Nat) : ∀ s1 ∈ s.tryExternal x, s1.mem = s.mem := by
  simp only [State.tryExternal]
  (repeat' split) <;> simp

@[simp] theorem State.postArrival_mem (s : State) (die bell : Nat) (field : Option Nat) :
    (s.postArrival die bell field).mem = s.mem := rfl

/-! #### Machine/Engine -/

theorem State.tryRdv_mem (s : State) (c j : Nat) : ∀ s1 ∈ s.tryRdv c j, s1.mem = s.mem := by
  unfold State.tryRdv
  split <;> simp

theorem State.tryQfence_mem (s : State) (c k : Nat) : ∀ s1 ∈ s.tryQfence c k, s1.mem = s.mem := by
  unfold State.tryQfence
  split
  · simp
  · dsimp only
    split
    · rintro _ ⟨⟩
      exact foldl_mem (by simp) _ _
    · simp

@[simp] theorem State.refuseRecord_mem (s : State) (p : Nat) : (s.refuseRecord p).mem = s.mem := by simp [State.refuseRecord]

theorem State.tryStart_mem (s : State) (c : Nat) (u : EngineUnit) : ∀ s1 ∈ s.tryStart c u, s1.mem = s.mem := by
  simp only [State.tryStart]
  (repeat' split) <;> simp

theorem State.tryEnd_mem (s : State) (c : Nat) (u : EngineUnit) : ∀ s1 ∈ s.tryEnd c u, s1.mem = s.mem := by
  unfold State.tryEnd
  split <;> simp

/-! #### Machine/Copy -/

@[simp] theorem State.addCopy_mem (s : State) (c : Nat) (x : CopyRun) : (s.addCopy c x).mem = s.mem := rfl

theorem State.tryHead_mem (s : State) (c : Nat) : ∀ s1 ∈ s.tryHead c, s1.mem = s.mem := by
  simp only [State.tryHead]
  (repeat' split) <;> simp

theorem State.tryChunk_mem (s : State) (x : Nat) : ∀ s1 ∈ s.tryChunk x, s1.mem = s.mem := by
  unfold State.tryChunk
  (repeat' split) <;> simp

theorem State.tryForward_mem (s : State) (x k : Nat) : ∀ s1 ∈ s.tryForward x k, s1.mem = s.mem := by
  unfold State.tryForward
  (repeat' split) <;> simp

@[simp] theorem State.postCredit_mem (s : State) (k : Credit) : (s.postCredit k).mem = s.mem := rfl

@[simp] theorem State.chunkCredit_mem (s : State) (x : Nat) (y : CopyRun) (perf k : Nat) :
    (s.chunkCredit x y perf k).mem = s.mem := by
  simp [State.chunkCredit]

@[simp] theorem State.endChunk_mem (s : State) (x k : Nat) (y : CopyRun) (perf : Nat) : (s.endChunk x k y perf).mem = s.mem := by
  simp [State.endChunk]

theorem State.tryStreamerSteal_mem (s : State) (c : Nat) : ∀ s1 ∈ s.tryStreamerSteal c, s1.mem = s.mem := by
  unfold State.tryStreamerSteal
  dsimp only
  split
  · simp
  · simp only [Option.map]
    split <;> simp

@[simp] theorem State.postWake_mem (s : State) (d : WakeDue) : (s.postWake d).mem = s.mem := rfl

@[simp] theorem State.postGen_mem (s : State) (k : Credit) (owner tag gen : Nat) : (s.postGen k owner tag gen).mem = s.mem := by
  unfold State.postGen
  (repeat' split) <;> simp

@[simp] theorem State.creditWakes_mem (s : State) (k : Credit) (owner : Nat) (bs : List Byte) :
    (s.creditWakes k owner bs).mem = s.mem := by
  unfold State.creditWakes
  dsimp only
  split
  · exact foldl_mem (by simp) _ _
  · rfl

@[simp] theorem State.endCredit_mem (s : State) (x : Nat) (k : Credit) : (s.endCredit x k).mem = s.mem := by
  unfold State.endCredit
  split <;> simp

@[simp] theorem State.setWakeWeight_mem (s : State) (d : WakeDue) (w : Nat) : (s.setWakeWeight d w).mem = s.mem := by
  unfold State.setWakeWeight
  (repeat' split) <;> simp

theorem State.tryWake_mem (s : State) (x : Nat) : ∀ s1 ∈ s.tryWake x, s1.mem = s.mem := by
  simp only [State.tryWake]
  (repeat' split) <;> simp

theorem State.tryCopyEnd_mem (s : State) (x : Nat) : ∀ s1 ∈ s.tryCopyEnd x, s1.mem = s.mem := by
  simp only [State.tryCopyEnd]
  (repeat' split) <;> simp

/-! #### Machine/Fetch -/

@[simp] theorem State.hold_mem (s : State) (c : Ctx) (st : Site) : (s.hold c st).mem = s.mem := by
  unfold State.hold
  split <;> simp

@[simp] theorem State.trapKept_mem (s : State) (cell slot : Nat) (k : KeptRefusal) (next : Addr) :
    (s.trapKept cell slot k next).mem = s.mem := by
  simp [State.trapKept]

@[simp] theorem State.beginTrace_mem (s : State) (k : Nat) : (s.beginTrace k).mem = s.mem := by
  simp only [State.beginTrace]
  (repeat' split) <;> simp

/-! #### Machine/Trace -/

@[simp] theorem State.stopField_mem (s : State) (f : Nat) : (s.stopField f).mem = s.mem := by simp [State.stopField]
@[simp] theorem State.endTrace_mem (s : State) (k : Nat) (st : BitVec 2) : (s.endTrace k st).mem = s.mem := by simp [State.endTrace]

theorem State.tryOffer_mem (s : State) (k : Nat) : ∀ s1 ∈ s.tryOffer k, s1.mem = s.mem := by
  simp only [State.tryOffer]
  (repeat' split) <;> simp

@[simp] theorem State.loaded_mem (s : State) (k : Nat) (ws : List (BitVec 32)) (code : Nat) : (s.loaded k ws code).mem = s.mem :=
  rfl

/-! #### Machine/Shapes -/

@[simp] theorem State.setAcc_mem (s : State) (c frag idx : Nat) (w : Word) : (s.setAcc c frag idx w).mem = s.mem := rfl

/-! #### Machine/Vector -/

@[simp] theorem State.setScore_mem (s : State) (c frag : Nat) (l : List Nat) : (s.setScore c frag l).mem = s.mem := rfl

@[simp] theorem State.reachScore_mem (s : State) (c p : Nat) (frags : List Nat) : (s.reachScore c p frags).mem = s.mem :=
  foldl_mem (fun t f => by dsimp only; split <;> simp) _ _

@[simp] theorem State.leaveScore_mem (s : State) (c p : Nat) : (s.leaveScore c p).mem = s.mem := rfl

theorem State.tryScore_mem (s : State) (c frag : Nat) : ∀ s1 ∈ s.tryScore c frag, s1.mem = s.mem := by
  unfold State.tryScore
  split <;> simp

@[simp] theorem State.progRaise_mem (s : State) (c : Ctx) (f : Flags) : (s.progRaise c f).mem = s.mem := by simp [State.progRaise]

/-! #### Machine/Fabric -/

@[simp] theorem State.setPacket_mem (s : State) (x : Nat) (r : PacketRun) : (s.setPacket x r).mem = s.mem := rfl
@[simp] theorem State.dropPacket_mem (s : State) (x : Nat) : (s.dropPacket x).mem = s.mem := rfl

@[simp] theorem State.lineCame_mem (s : State) (f : Flight) (r : FaultReq) (bs : List Byte) : (s.lineCame f r bs).mem = s.mem := by
  unfold State.lineCame
  split <;> simp

@[simp] theorem State.programRefused_mem (s : State) (p : Nat) (e : ErrResp) : (s.programRefused p e).mem = s.mem := by
  simp [State.programRefused]

@[simp] theorem State.lineAnswer_mem (s : State) (x : Nat) (f : Flight) (q : FaultReq) (r : Resp) :
    (s.lineAnswer x f q r).mem = s.mem := by
  unfold State.lineAnswer
  split <;> simp

@[simp] theorem State.countReplicaAt_mem (s : State) (port : Option Nat) : (s.countReplicaAt port).mem = s.mem := by
  unfold State.countReplicaAt
  split <;> rfl

@[simp] theorem State.nackCame_mem (s : State) (p : Packet) (code : Nat) (src : BitVec 24) :
    (s.nackCame p code src).mem = s.mem := by
  unfold State.nackCame
  (repeat' split) <;> simp

@[simp] theorem State.sendFlits_mem (s : State) (p x : Nat) (ctxid : BitVec 16) (vc : Nat) (tenant : BitVec 4) (src : BitVec 24)
    (fs : List (List Word)) : (s.sendFlits p x ctxid vc tenant src fs).mem = s.mem := rfl

@[simp] theorem State.leaveDevice_mem (s : State) (p : Packet) : (s.leaveDevice p).mem = s.mem := by
  simp only [State.leaveDevice]
  (repeat' split) <;> simp

theorem State.egress_mem (s : State) (x : Nat) (p : Packet) (port : Nat) : ∀ s1 ∈ s.egress x p port, s1.mem = s.mem := by
  unfold State.egress
  simp

@[simp] theorem State.takeAck_mem (s : State) (port : Nat) (fr : LinkFrame) : (s.takeAck port fr).mem = s.mem := by
  unfold State.takeAck
  split <;> rfl

theorem State.tryResend_mem (s : State) (port : Nat) : ∀ s1 ∈ s.tryResend port, s1.mem = s.mem := by
  simp only [State.tryResend]
  (repeat' split) <;> simp

@[simp] theorem State.packetCtl_mem (s : State) (p : Packet) : (s.packetCtl p).1.mem = s.mem := by
  simp only [State.packetCtl]
  (repeat' split) <;> simp

@[simp] theorem State.enterCtl_mem (s : State) (x : Nat) (c : Ctl) : (s.enterCtl x c).mem = s.mem := rfl
@[simp] theorem State.enterMsg_mem (s : State) (x : Nat) (m : Msg) : (s.enterMsg x m).mem = s.mem := rfl
@[simp] theorem State.takeControl_mem (s : State) (port : Nat) (fr : LinkFrame) : (s.takeControl port fr).mem = s.mem := rfl
@[simp] theorem State.sendControl_mem (s : State) (p : Nat) : (s.sendControl p).mem = s.mem := rfl

@[simp] theorem State.slewTime_mem (s : State) : (s.slewTime).mem = s.mem := by
  unfold State.slewTime
  (repeat' split) <;> simp

@[simp] theorem State.loadTime_mem (s : State) : (s.loadTime).mem = s.mem := by
  unfold State.loadTime
  (repeat' split) <;> simp

@[simp] theorem State.passTime_mem (n : Nat) (s : State) : (State.passTime n s).mem = s.mem := by
  induction n generalizing s with
  | zero => rfl
  | succ n ih =>
    simp only [State.passTime, ih]
    split
    · rfl
    · split <;> rfl

theorem State.tryNack_mem (s : State) (x : Nat) : ∀ s1 ∈ s.tryNack x, s1.mem = s.mem := by
  unfold State.tryNack
  split <;> simp

theorem State.tryWeight_mem (s : State) (x : Nat) : ∀ s1 ∈ s.tryWeight x, s1.mem = s.mem := by
  unfold State.tryWeight
  split
  · simp
  next r _ _ =>
  have hp := (s.dropPacket x).packetCtl_mem r.pkt
  split <;> simp_all

@[simp] theorem State.replica_mem (s : State) (x : Nat) (p : Packet) (port : Nat) (sub : List Byte) :
    (s.replica x p port sub).mem = s.mem := by
  simp [State.replica]

@[simp] theorem State.localCopy_mem (s : State) (x : Nat) (p : Packet) (port : Option Nat) :
    (s.localCopy x p port).mem = s.mem := rfl

@[simp] theorem State.branch_mem (s : State) (x : Nat) (p : Packet) (groups : AL GroupEntry) (port : Option Nat) (x0 : Branch) :
    (s.branch x p groups port x0).mem = s.mem := by
  unfold State.branch
  (repeat' split) <;> simp [foldl_mem]

theorem State.tryMulticast_mem (s : State) (x : Nat) : ∀ s1 ∈ s.tryMulticast x, s1.mem = s.mem := by
  unfold State.tryMulticast
  (repeat' split) <;> simp [foldl_mem]

/-! #### Machine/Queues -/

@[simp] theorem State.modCp_mem (s : State) (p : Nat) (f : Cp → Cp) : (s.modCp p f).mem = s.mem := rfl
@[simp] theorem State.leaveSlot_mem (s : State) (q : Nat) : (s.leaveSlot q).mem = s.mem := rfl
@[simp] theorem State.parkQueue_mem (s : State) (q : Nat) : (s.parkQueue q).mem = s.mem := rfl
@[simp] theorem State.queueCode_mem (s : State) (q code : Nat) (pkt : Addr) : (s.queueCode q code pkt).mem = s.mem := rfl
@[simp] theorem State.freeCp_mem (s : State) (q : Nat) : (s.freeCp q).mem = s.mem := rfl
@[simp] theorem State.queueError_mem (s : State) (q code : Nat) (pkt : Addr) : (s.queueError q code pkt).mem = s.mem := rfl
@[simp] theorem State.consumePacket_mem (s : State) (q : Nat) : (s.consumePacket q).mem = s.mem := by simp [State.consumePacket]

theorem State.ring_mem (s : State) (node : BitVec 12) (q : Nat) (t : BitVec 32) : ∀ s1 ∈ s.ring node q t, s1.mem = s.mem := by
  unfold State.ring
  dsimp only
  (repeat' split) <;> simp

theorem State.serveDoorbell_mem (s : State) (m : Nat) (f : MsgFlight) : ∀ s1 ∈ s.serveDoorbell m f, s1.mem = s.mem := by
  unfold State.serveDoorbell
  dsimp only
  split
  · simp
  split
  · simp
  split
  · next t ht => simpa using State.ring_mem _ _ _ _ t ht
  · simp

@[simp] theorem State.fillSlots_mem (p n : Nat) (s : State) : (State.fillSlots p n s).mem = s.mem := by
  induction n generalizing s with
  | zero => rfl
  | succ n ih =>
    simp only [State.fillSlots]
    split
    · rfl
    · split
      · rfl
      · rw [ih]; simp

@[simp] theorem State.lend_mem (s : State) (lv : Nat) (ws : List Word) : (s.lend lv ws).mem = s.mem := by simp [State.lend]

@[simp] theorem State.modLaunch_mem (s : State) (x : Nat) (f : Launch → Launch) : (s.modLaunch x f).mem = s.mem := by
  unfold State.modLaunch
  split <;> rfl

@[simp] theorem State.launchSent_mem (s : State) (x : Nat) (l : Launch) : (s.launchSent x l).mem = s.mem := by
  simp [State.launchSent]

@[simp] theorem State.endLaunch_mem (s : State) (x : Nat) (l : Launch) : (s.endLaunch x l).mem = s.mem := by simp [State.endLaunch]

@[simp] theorem State.returnUnit_mem (s : State) (x : Nat) (l : Launch) : (s.returnUnit x l).mem = s.mem := by
  simp [State.returnUnit]

theorem State.tryWait_mem (s : State) (p : Nat) : ∀ s1 ∈ s.tryWait p, s1.mem = s.mem := by
  unfold State.tryWait
  split <;> simp

theorem State.tryFence_mem (s : State) (p : Nat) : ∀ s1 ∈ s.tryFence p, s1.mem = s.mem := by
  unfold State.tryFence
  split <;> simp

@[simp] theorem State.relend_mem (n : Nat) (s : State) : (State.relend n s).mem = s.mem := by
  induction n generalizing s with
  | zero => rfl
  | succ n ih =>
    rw [State.relend, ih]
    refine foldl_mem (fun t q => ?_) _ _
    split
    · split <;> simp
    · rfl

@[simp] theorem State.runPlugin_mem (s : State) (tenant : Nat) : (s.runPlugin tenant).mem = s.mem := rfl

@[simp] theorem State.nextPlugin_mem (s : State) (k : Nat) : (s.nextPlugin k).mem = s.mem := by
  unfold State.nextPlugin
  (repeat' split) <;> simp

@[simp] theorem State.yieldPlugin_mem (s : State) (tenant : Nat) : (s.yieldPlugin tenant).mem = s.mem := by
  simp only [State.yieldPlugin]
  (repeat' split) <;> simp

theorem State.tryExpiry_mem (s : State) (q : Nat) : ∀ s1 ∈ s.tryExpiry q, s1.mem = s.mem := by
  simp only [State.tryExpiry]
  (repeat' split) <;> simp

theorem State.tryExtend_mem (s : State) (q n : Nat) : ∀ s1 ∈ s.tryExtend q n, s1.mem = s.mem := by
  unfold State.tryExtend
  simp

theorem State.tryRecover_mem (s : State) (q : Nat) : ∀ s1 ∈ s.tryRecover q, s1.mem = s.mem := by
  simp only [State.tryRecover]
  (repeat' split) <;> simp

theorem State.tryPluginTimeout_mem (s : State) (q : Nat) : ∀ s1 ∈ s.tryPluginTimeout q, s1.mem = s.mem := by
  unfold State.tryPluginTimeout
  split
  · exact s.tryRecover_mem q
  · simp

/-! #### Machine/Transport -/

@[simp] theorem State.modTransfer_mem (s : State) (x : Nat) (f : Transfer → Transfer) : (s.modTransfer x f).mem = s.mem := by
  unfold State.modTransfer
  split <;> rfl

theorem State.tryXferStart_mem (s : State) (x : Nat) : ∀ s1 ∈ s.tryXferStart x, s1.mem = s.mem := by
  unfold State.tryXferStart
  split <;> simp

@[simp] theorem State.etherSend_mem (s : State) (x n : Nat) (p : EtherPacket) : (s.etherSend x n p).mem = s.mem := by
  simp [State.etherSend]

@[simp] theorem State.creditTransfer_mem (s : State) (x n : Nat) (t : Transfer) : (s.creditTransfer x n t).mem = s.mem := by
  simp [State.creditTransfer]

theorem State.tryXferAck_mem (s : State) (x bytes : Nat) (marked trimmed : Bool) :
    ∀ s1 ∈ s.tryXferAck x bytes marked trimmed, s1.mem = s.mem := by
  unfold State.tryXferAck
  split <;> simp

theorem State.tryXferEnd_mem (s : State) (x : Nat) : ∀ s1 ∈ s.tryXferEnd x, s1.mem = s.mem := by
  simp only [State.tryXferEnd]
  (repeat' split) <;> simp

@[simp] theorem State.logXfer_mem (s : State) (t : Transfer) : (s.logXfer t).mem = s.mem := rfl

theorem State.tryXferRefused_mem (s : State) (x bytes : Nat) : ∀ s1 ∈ s.tryXferRefused x bytes, s1.mem = s.mem := by
  unfold State.tryXferRefused
  split <;> simp

theorem State.tryRetry_mem (s : State) (x : Nat) : ∀ s1 ∈ s.tryRetry x, s1.mem = s.mem := by
  unfold State.tryRetry
  (repeat' split) <;> simp

@[simp] theorem State.arrivalDone_mem (s : State) (c : Nat) : (s.arrivalDone c).mem = s.mem := by simp [State.arrivalDone]

@[simp] theorem State.holdArrival_mem (s : State) (c : Nat) (a : Arrival) (stage : Nat) :
    (s.holdArrival c a stage).mem = s.mem := rfl

@[simp] theorem State.creditRegion_mem (s : State) (f : Field) (r : Region) (n : Nat) : (s.creditRegion f r n).mem = s.mem := by
  simp [State.creditRegion]

@[simp] theorem State.arrivalBell_mem (s : State) (f : Field) (r : Region) : (s.arrivalBell f r).mem = s.mem := by
  simp [State.arrivalBell]

/-! #### Machine/Fields -/

@[simp] theorem State.answerMgmt_mem (s : State) (ws : List Word) : (s.answerMgmt ws).mem = s.mem := rfl
@[simp] theorem State.refuseMgmt_mem (s : State) : (s.refuseMgmt).mem = s.mem := rfl
@[simp] theorem State.loadBells_mem (s : State) (x : FieldCtx) : (s.loadBells x).mem = s.mem := rfl
@[simp] theorem State.releaseCells_mem (s : State) (x : FieldCtx) : (s.releaseCells x).mem = s.mem := rfl
@[simp] theorem State.openService_mem (s : State) (x : FieldCtx) : (s.openService x).mem = s.mem := by simp [State.openService]

@[simp] theorem State.firstLoad_mem (s : State) (x : FieldCtx) (segs : List Seg) : (s.firstLoad x segs).mem = s.mem := by
  simp only [State.firstLoad, State.openService_mem]
  rw [foldl_mem]
  · simp
  · exact fun _ _ => rfl

@[simp] theorem State.keepWriters_mem (s : State) (x : FieldCtx) : (s.keepWriters x).mem = s.mem := rfl

theorem State.writeTable_mem (s : State) (t : MgmtTarget) (ws : List Word) : ∀ s1 ∈ s.writeTable t ws, s1.mem = s.mem := by
  unfold State.writeTable
  dsimp only
  (repeat' split) <;> simp

theorem State.readTable_mem (s : State) (t : MgmtTarget) : ∀ p1 ∈ s.readTable t, p1.2.mem = s.mem := by
  unfold State.readTable
  split <;> simp

/-! #### Machine/Matrix -/

@[simp] theorem State.setScl_mem (s : State) (c off : Nat) (v : BitVec 16) : (s.setScl c off v).mem = s.mem := rfl

@[simp] theorem State.dropLatch_mem (s : State) (c lo n : Nat) : (s.dropLatch c lo n).mem = s.mem := by
  unfold State.dropLatch
  split <;> simp

@[simp] theorem State.clearFrag_mem (s : State) (c f : Nat) : (s.clearFrag c f).mem = s.mem := rfl

@[simp] theorem PlaneJob.entries_mem (j : PlaneJob) (c y : Nat) (r : PlaneRow) (s : State) :
    (PlaneJob.entries j c y r s).mem = s.mem := by
  unfold PlaneJob.entries
  split
  · simp only [State.dropLatch_mem]
    exact foldl_mem (by simp) _ _
  · rfl

@[simp] theorem PlaneJob.unlatch_mem (j : PlaneJob) (c : Nat) (s : State) : (PlaneJob.unlatch j c s).mem = s.mem := by
  unfold PlaneJob.unlatch
  split <;> simp

@[simp] theorem State.eachAcc_mem (s : State) (cell frag : Nat) (f : Nat → Nat → Word → Word × Bool) :
    (s.eachAcc cell frag f).1.mem = s.mem := by
  unfold State.eachAcc
  induction List.range 2048 using List.reverseRecOn with
  | nil => rfl
  | append_singleton l i ih => simp [ih]

@[simp] theorem MatRun.align_mem (m : MatRun) (cell : Nat) (s : State) : (MatRun.align m cell s).1.mem = s.mem := by
  unfold MatRun.align
  exact s.eachAcc_mem _ _ _

@[simp] theorem MatRun.pass_mem (m : MatRun) (cell i j : Nat) (s : State) : (MatRun.pass m cell i j s).1.mem = s.mem := by
  simp only [MatRun.pass, State.eachAcc_mem]

@[simp] theorem MatRun.sideA_mem (m : MatRun) (cell : Nat) (e : BitVec 32) (s : State) :
    (MatRun.sideA m cell e s).1.mem = s.mem := by
  simp only [MatRun.sideA, State.eachAcc_mem]

@[simp] theorem MatRun.sideB_mem (m : MatRun) (cell : Nat) (e : BitVec 32) (s : State) :
    (MatRun.sideB m cell e s).1.mem = s.mem := by
  simp only [MatRun.sideB, State.eachAcc_mem]

@[simp] theorem MatRun.unit_mem (m : MatRun) (cell u : Nat) (s : State) : (MatRun.unit m cell u s).1.mem = s.mem := by
  unfold MatRun.unit
  dsimp only
  split
  · simp only [MatRun.pass_mem]
    split <;> simp
  · split
    · simp
    · split <;> simp

@[simp] theorem State.setGang_mem (s : State) (k : Nat) (g : GangJoin) : (s.setGang k g).mem = s.mem := rfl

@[simp] theorem State.gangTrap_mem (s : State) (c : Nat) (site : Site) (marked : Bool) :
    (s.gangTrap c site marked).mem = s.mem := by
  unfold State.gangTrap
  split <;> simp

@[simp] theorem State.gangEnd_mem (s : State) (c : Nat) : (s.gangEnd c).mem = s.mem := by
  unfold State.gangEnd
  split <;> simp

@[simp] theorem State.gangWithdraws_mem (s : State) (k : Nat) (gone : List Nat) : (s.gangWithdraws k gone).mem = s.mem := by
  unfold State.gangWithdraws
  simp [foldl_mem]

theorem State.tryGang_mem (s : State) (k : Nat) : ∀ s1 ∈ s.tryGang k, s1.mem = s.mem := by
  unfold State.tryGang
  dsimp only
  (repeat' split) <;> rintro _ ⟨⟩
  · exact foldl_mem (fun t c => by split <;> simp) _ _
  · simp
  · simp only [State.setGang_mem]
    exact foldl_mem (fun t d => by split <;> simp) _ _
  all_goals
    simp only [State.setGang_mem]
    exact foldl_mem (fun t d => by split <;> simp) _ _

@[simp] theorem State.gangUnit_mem (s : State) (c pass : Nat) (last : Bool) : (s.gangUnit c pass last).mem = s.mem := by
  unfold State.gangUnit
  split <;> simp

theorem State.tryPass_mem (s : State) (k : Nat) : ∀ s1 ∈ s.tryPass k, s1.mem = s.mem := by
  unfold State.tryPass
  dsimp only
  (repeat' split) <;> simp [foldl_mem]

/-! #### Machine/Switch -/

@[simp] theorem State.pauseQueue_mem (s : State) (q : Nat) : (s.pauseQueue q).mem = s.mem := rfl
@[simp] theorem State.pauseField_mem (s : State) (f : Nat) : (s.pauseField f).mem = s.mem := foldl_mem (fun _ _ => by simp) _ _

@[simp] theorem State.withdraw_mem (s : State) (k : Nat) : (s.withdraw k).mem = s.mem := by
  unfold State.withdraw
  dsimp only
  split
  · rfl
  · rw [State.setGang_mem]
    refine foldl_mem (fun t m => ?_) _ _
    split <;> simp

@[simp] theorem State.restoreLaunches_mem (s : State) (v : Saved) : (s.restoreLaunches v).mem = s.mem := by
  unfold State.restoreLaunches
  refine foldl_mem (fun t p => ?_) _ _
  split <;> simp

@[simp] theorem State.unpause_mem (s : State) (qs : List Nat) : (s.unpause qs).mem = s.mem := by
  unfold State.unpause
  exact foldl_mem (fun _ _ => by simp) _ _

/-! #### Machine/Repair -/

@[simp] theorem State.modColumn_mem (s : State) (die col : Nat) (f : Column → Column) : (s.modColumn die col f).mem = s.mem := rfl
@[simp] theorem State.commit_mem (s : State) (die : Nat) : (s.commit die).mem = s.mem := rfl
@[simp] theorem State.mgmtSays_mem (s : State) (a : MgmtAnswer) : (s.mgmtSays a).mem = s.mem := rfl
@[simp] theorem State.endScan_mem (s : State) (c : Nat) : (s.endScan c).mem = s.mem := rfl
@[simp] theorem State.removeCell_mem (s : State) (c : Nat) : (s.removeCell c).mem = s.mem := by simp [State.removeCell]
@[simp] theorem State.scrubAt_mem (s : State) (flat : Nat) : (s.scrubAt flat).mem = s.mem := by simp [State.scrubAt]

/-! #### Machine/Firmware -/

@[simp] theorem State.modFw_mem (s : State) (f : Firmware → Firmware) : (s.modFw f).mem = s.mem := rfl
@[simp] theorem State.modComp_mem (s : State) (c : Nat) (f : Component → Component) : (s.modComp c f).mem = s.mem := rfl
@[simp] theorem State.updateTo_mem (s : State) (st : UpdateStage) (a : MgmtAnswer) : (s.updateTo st a).mem = s.mem := rfl
@[simp] theorem State.loadPlugins_mem (s : State) : (s.loadPlugins).mem = s.mem := rfl
@[simp] theorem State.deriveKeys_mem (s : State) : (s.deriveKeys).mem = s.mem := rfl

@[simp] theorem State.beginChange_mem (s : State) : (s.beginChange).mem = s.mem := by
  unfold State.beginChange
  simp only [State.modFw_mem]
  exact foldl_mem (fun _ _ => by simp) _ _

@[simp] theorem State.endChange_mem (s : State) : (s.endChange).mem = s.mem := by simp [State.endChange]

@[simp] theorem State.bootDie_mem (s : State) (die : Nat) : (s.bootDie die).mem = s.mem := by
  unfold State.bootDie
  dsimp only
  rw [foldl_mem, foldl_mem]
  · intro t col
    split
    · split <;> simp
    · simp
  · simp

/-! #### Machine/Pairs -/

theorem State.tryChime_mem (s : State) (c : Nat) : ∀ s1 ∈ s.tryChime c, s1.mem = s.mem := by
  unfold State.tryChime
  cases (s.cell c).atChime <;> simp

theorem State.tryAgree_mem (s : State) (c : Nat) : ∀ s1 ∈ s.tryAgree c, s1.mem = s.mem := by
  unfold State.tryAgree
  split <;> simp

@[simp] theorem State.rollBack_mem (s : State) (c k : Nat) (p : PairUnit) : (s.rollBack c k p).mem = s.mem := by
  unfold State.rollBack
  split <;> rfl

@[simp] theorem State.uncount_mem (s : State) (c k : Nat) (es : List SbEntry) : (s.uncount c k es).mem = s.mem :=
  foldl_mem (fun t e => by split <;> simp) _ _

theorem State.tryDisagree_mem (s : State) (c : Nat) : ∀ s1 ∈ s.tryDisagree c, s1.mem = s.mem := by
  unfold State.tryDisagree
  split <;> simp

/-! #### Machine/Recovery -/

@[simp] theorem State.recoverQueue_mem (s : State) (q : Nat) : (s.recoverQueue q).mem = s.mem := by
  unfold State.recoverQueue
  simp

@[simp] theorem State.cancelRoot_mem (s : State) (inC : Nat → Bool) (u : Sender) (sc : BitVec 32) (to_ : List Nat)
    (kids : List (BitVec 32)) : (s.cancelRoot inC u sc to_ kids).mem = s.mem := by
  unfold State.cancelRoot
  simp [foldl_mem]

@[simp] theorem State.fenceField_mem (s : State) (f : Nat) (x : Field) (r : Recovery) : (s.fenceField f x r).mem = s.mem := by
  unfold State.fenceField
  simp [foldl_mem]

theorem State.tryLift_mem (s : State) (f : Nat) : ∀ s1 ∈ s.tryLift f, s1.mem = s.mem := by
  unfold State.tryLift
  split
  · split
    · simp
    · rintro _ ⟨⟩
      dsimp only
      rw [foldl_mem fun _ _ => by simp]
      simp
  · simp

/-! #### Machine/Upsets -/

@[simp] theorem State.corrected_mem (s : State) (u : Upset) : (s.corrected u).mem = s.mem := by simp [State.corrected]

@[simp] theorem State.strike_mem (s : State) (u : Upset) (x0 : UpsetKind) : (s.strike u x0).mem = s.mem := by
  unfold State.strike
  split <;> simp

@[simp] theorem State.accSet_mem (s : State) (u : Upset) (w : Word) : (s.accSet u w).mem = s.mem := rfl
@[simp] theorem State.consumeAt_mem (s : State) (u : Upset) : (s.consumeAt u).mem = s.mem := by simp [State.consumeAt]

/-! #### Machine/Sched -/

@[simp] theorem State.elapse_mem (s : State) (n : Nat) : (s.elapse n).mem = s.mem := by simp [State.elapse]
/-! ## Operations that keep its canonical form -/

/-! ### Where the operations answer more than a state -/

/-- Every state that the body of an instruction answers has a memory in its canonical form. -/
def Issued.MemOk : Issued → Prop
  | .stall s | .ok s | .out s _ | .jump s _ | .trapIn s _ _ | .halt s => s.mem.wf = true
  | .trap _ _ => True

@[simp] theorem Issued.memOk_stall (s : State) : (Issued.stall s).MemOk ↔ s.mem.wf = true := Iff.rfl
@[simp] theorem Issued.memOk_ok (s : State) : (Issued.ok s).MemOk ↔ s.mem.wf = true := Iff.rfl
@[simp] theorem Issued.memOk_out (s : State) (x : Nat) : (Issued.out s x).MemOk ↔ s.mem.wf = true := Iff.rfl
@[simp] theorem Issued.memOk_jump (s : State) (a : Addr) : (Issued.jump s a).MemOk ↔ s.mem.wf = true := Iff.rfl
@[simp] theorem Issued.memOk_trap (k : Nat) (v : Word) : (Issued.trap k v).MemOk := trivial
@[simp] theorem Issued.memOk_trapIn (s : State) (k : Nat) (v : Word) : (Issued.trapIn s k v).MemOk ↔ s.mem.wf = true := Iff.rfl
@[simp] theorem Issued.memOk_halt (s : State) : (Issued.halt s).MemOk ↔ s.mem.wf = true := Iff.rfl

/-- A computation keeps the canonical form, whether it ends or stops. -/
def M.KeepsMem {α : Type} (m : M α) : Prop := ∀ s : State, s.mem.wf = true → (m.exec s).2.mem.wf = true

theorem M.exec_bind {α β : Type} (m : M α) (f : α → M β) (s : State) :
    (m >>= f).exec s = match m.exec s with | (.ok a, t) => (f a).exec t | (.error e, t) => (.error e, t) := by
  simp only [M.exec, ExceptT.run_bind, StateT.run_bind]
  rcases (StateT.run (ExceptT.run m) s) with ⟨_ | _, _⟩ <;> rfl

theorem M.keepsMem_pure {α : Type} (a : α) : (pure a : M α).KeepsMem := fun _ h => h
theorem M.keepsMem_stop {α : Type} (x : Stop) : (M.stop x : M α).KeepsMem := fun _ h => h
theorem M.keepsMem_put {s : State} (h : s.mem.wf = true) : (M.put s).KeepsMem := fun _ _ => h

theorem M.KeepsMem.bind {α β : Type} {m : M α} {f : α → M β} (hm : m.KeepsMem) (hf : ∀ a, (f a).KeepsMem) :
    (m >>= f).KeepsMem := by
  intro s h
  have hs := hm s h
  rw [M.exec_bind]
  split <;> rename_i e <;> rw [e] at hs
  · exact hf _ _ hs
  · exact hs

/-- Reading the state: what follows may count on the canonical form of what was read. -/
theorem M.keepsMem_state {β : Type} {f : State → M β} (hf : ∀ s : State, s.mem.wf = true → (f s).KeepsMem) :
    (M.state >>= f).KeepsMem := by
  intro s h
  rw [M.exec_bind]
  exact hf s h s h

theorem M.keepsMem_foldlM {α β : Type} {f : β → α → M β} (hf : ∀ b a, (f b a).KeepsMem) (l : List α) (b : β) :
    (l.foldlM f b).KeepsMem := by
  induction l generalizing b with
  | nil => exact M.keepsMem_pure b
  | cons a l ih => rw [List.foldlM_cons]; exact (hf b a).bind ih

theorem M.keepsMem_forM {α : Type} {f : α → M PUnit} (hf : ∀ a, (f a).KeepsMem) (l : List α) : (l.forM f).KeepsMem := by
  induction l with
  | nil => exact M.keepsMem_pure _
  | cons a l ih => exact (hf a).bind fun _ => ih

theorem M.keepsMem_mapM {α β : Type} {f : α → M β} (hf : ∀ a, (f a).KeepsMem) (l : List α) : (l.mapM f).KeepsMem := by
  induction l with
  | nil => rw [List.mapM_nil]; exact M.keepsMem_pure _
  | cons a l ih =>
    rw [List.mapM_cons]
    exact (hf a).bind fun _ => ih.bind fun _ => M.keepsMem_pure _

/-! ### Memory that is written -/

theorem State.writeFlat_wf {s : State} (h : s.mem.wf = true) (a : Nat) (bs : List Byte) : (s.writeFlat a bs).mem.wf = true := by
  unfold State.writeFlat
  dsimp only
  split
  · exact Memory.wf_setBytes _ _ (Memory.wf_setBytes _ _ h)
  · exact Memory.wf_setBytes _ _ h

theorem State.appendRace_wf {s : State} (h : s.mem.wf = true) (c : Nat) (rec : List Word) :
    (s.appendRace c rec).mem.wf = true := by
  unfold State.appendRace
  dsimp only
  split
  · exact h
  · split
    · simpa using h
    · split
      · exact h
      · split
        · exact h
        · exact State.writeFlat_wf (State.writeFlat_wf h _ _) _ _

theorem State.noteLine_wf {s : State} (h : s.mem.wf = true) (c line flat : Nat) (by_ : RaceBy) (code : Nat) :
    (s.noteLine c line flat by_ code).mem.wf = true := by
  unfold State.noteLine
  dsimp only
  split
  · exact h
  · split
    · exact h
    · rw [State.modCell_mem]
      exact State.appendRace_wf h _ _

theorem State.noteStore_wf {s : State} (h : s.mem.wf = true) (flat code : Nat) (by_ : RaceBy) :
    (s.noteStore flat code by_).mem.wf = true := by
  unfold State.noteStore
  split
  · split
    · exact h
    · exact State.noteLine_wf h _ _ _ _ _
  · exact h

theorem State.writeTarget_wf {s : State} (h : s.mem.wf = true) (field : Nat) (t : Target) (bs : List Byte) (by_ : Option RaceBy)
    (v : Nat → Violation) : (s.writeTarget field t bs by_ v).2.mem.wf = true := by
  unfold State.writeTarget
  split
  · split
    · exact h
    · split
      · exact h
      · apply State.writeFlat_wf
        split
        · exact State.noteStore_wf h _ _ _
        · exact h
  · split
    · exact h
    · split
      · dsimp only
        split
        · exact h
        · exact State.writeFlat_wf h _ _
      · simpa using h
  · exact h
  · exact h

/-! ### Computations over memory -/

theorem ensureLeaf_keepsMem (w : Who) (va op n : Nat) : (ensureLeaf w va op n).KeepsMem := by
  refine M.keepsMem_state fun s h => ?_
  have ht : (s.translate w.field va .r (some w.req)).2.mem.wf = true := by rwa [State.translate_mem]
  split <;> rename_i e <;> rw [e] at ht
  · exact (M.keepsMem_put ht).bind fun _ => M.keepsMem_stop _
  · exact M.keepsMem_stop _
  · exact M.keepsMem_stop _
  · exact M.keepsMem_put ht

theorem useAnswer_keepsMem (w : Who) (t : Target) {r : PortAnswer × State} (h : r.2.mem.wf = true) (va op n : Nat) (write : Bool) :
    (useAnswer w t r va op n write).KeepsMem := by
  unfold useAnswer
  split
  · refine (M.keepsMem_put ?_).bind fun _ => M.keepsMem_pure _
    rwa [State.plainTo_mem]
  · refine (M.keepsMem_put h).bind fun _ => ?_
    split <;> exact M.keepsMem_stop _

theorem readPiece_keepsMem (w : Who) (va n : Nat) (need : Need) : (readPiece w va n need).KeepsMem := by
  refine M.keepsMem_state fun s h => ?_
  split
  · exact (M.keepsMem_put (by rwa [State.logAt_mem])).bind fun _ => M.keepsMem_stop _
  · exact useAnswer_keepsMem _ _ (by rwa [State.readTarget_mem]) _ _ _ _
  · exact (ensureLeaf_keepsMem _ _ _ _).bind fun _ => M.keepsMem_state fun u hu =>
      useAnswer_keepsMem _ _ (by rwa [State.readTarget_mem]) _ _ _ _
  · split
    · exact M.keepsMem_stop _
    · split
      · exact M.keepsMem_pure _
      · exact M.keepsMem_stop _

theorem writePiece_keepsMem (w : Who) (va : Nat) (bs : List Byte) : (writePiece w va bs).KeepsMem := by
  refine M.keepsMem_state fun s h => ?_
  dsimp only
  split
  · exact (M.keepsMem_put (by rwa [State.logAt_mem])).bind fun _ => M.keepsMem_stop _
  · exact (useAnswer_keepsMem _ _ (State.writeTarget_wf h _ _ _ _ _) _ _ _ _).bind fun _ => M.keepsMem_pure _
  · exact (ensureLeaf_keepsMem _ _ _ _).bind fun _ => M.keepsMem_state fun u hu =>
      (useAnswer_keepsMem _ _ (State.writeTarget_wf hu _ _ _ _ _) _ _ _ _).bind fun _ => M.keepsMem_pure _
  · exact M.keepsMem_put (by simpa using h)

theorem readVa_keepsMem (w : Who) (va n : Nat) (need : Need) : (readVa w va n need).KeepsMem :=
  M.keepsMem_foldlM (fun _ _ => (readPiece_keepsMem _ _ _ _).bind fun _ => M.keepsMem_pure _) _ _

theorem writeVaM_keepsMem (w : Who) (va : Nat) (bs : List Byte) : (writeVaM w va bs).KeepsMem :=
  (M.keepsMem_foldlM (fun _ _ => (writePiece_keepsMem _ _ _).bind fun _ => M.keepsMem_pure _) _ _).bind
    fun _ => M.keepsMem_pure _

theorem writeVaWait_keepsMem (w : Who) (va : Nat) (bs : List Byte) : (writeVaWait w va bs).KeepsMem := by
  refine (M.keepsMem_foldlM (fun rest p => ?_) _ _).bind fun _ => M.keepsMem_pure _
  split
  · split
    · exact M.keepsMem_pure _
    · exact (M.keepsMem_stop _).bind fun _ => M.keepsMem_pure _
  · split
    · exact M.keepsMem_pure _
    · exact (M.keepsMem_stop _).bind fun _ => M.keepsMem_pure _
  · exact (writePiece_keepsMem _ _ _).bind fun _ => M.keepsMem_pure _

theorem engineOp_keepsMem (w : Who) (va n : Nat) (need : Need) (op : MemOp) : (engineOp w va n need op).KeepsMem := by
  refine M.keepsMem_state fun s h => ?_
  split
  · exact M.keepsMem_pure _
  · exact (M.keepsMem_put (by rwa [State.logAt_mem])).bind fun _ => M.keepsMem_stop _
  · exact M.keepsMem_stop _

theorem readWord_keepsMem (w : Who) (va : Nat) (need : Need) : (readWord w va need).KeepsMem :=
  (readVa_keepsMem _ _ _ _).bind fun _ => M.keepsMem_pure _

theorem readWords_keepsMem (w : Who) (va n : Nat) (need : Need) : (readWords w va n need).KeepsMem :=
  (readVa_keepsMem _ _ _ _).bind fun _ => M.keepsMem_pure _

/-! ### Issuing a group -/

/-- The state of what a control transfer finds at its target. -/
@[simp] def TargetCheck.state : TargetCheck → State
  | .ok s | .wait s | .bad s => s

theorem State.checkTarget_mem (s : State) (c : Ctx) (t : Addr) : (s.checkTarget c t).state.mem = s.mem := by
  have hf := s.fetchHalf_mem c.cell t.toNat
  unfold State.checkTarget
  dsimp only
  split <;> rename_i e <;> rw [e] at hf
  · exact hf
  · simpa using hf
  · exact hf
  · split
    · exact hf
    · rfl
    · simpa using hf
  · simpa using hf
  · simpa using hf
  · split
    · exact hf
    · rfl
    · simpa using hf

/-- The end of a group keeps the canonical form if its body does. -/
theorem finish_wf {s0 : State} (h0 : s0.mem.wf = true) (c : Ctx) (dests : List Nat) {r : Issued} (hr : r.MemOk) :
    (finish s0 c dests r).mem.wf = true := by
  cases r with
  | jump s t =>
    have hc := s0.checkTarget_mem c t
    simp only [finish]
    split
    · simpa using h0
    · split <;> rename_i e <;> rw [e] at hc
      · simpa using hr
      · rw [TargetCheck.state] at hc
        rwa [hc]
      · rw [TargetCheck.state] at hc
        rwa [State.trapGroup_mem, hc]
  | trap k v => simpa [finish] using h0
  | stall s => simpa [finish] using hr
  | ok s => simpa [finish] using hr
  | out s x => simpa [finish] using hr
  | trapIn s k v => simpa [finish] using hr
  | halt s => simpa [finish] using hr

theorem State.takeFed_wf {s : State} (h : s.mem.wf = true) (c : Ctx) (dests : List Nat) (r : Fed) :
    (s.takeFed c dests r).mem.wf = true := by
  unfold State.takeFed
  dsimp only
  split
  · refine finish_wf (by simpa using h) _ _ ?_
    rw [Issued.memOk_ok, foldl_mem]
    · simpa using h
    · intro t w
      split <;> simp
  · simpa using h

@[simp] theorem State.feed_mem (s0 s : State) (c : Ctx) (forced : Forced) (dests : List Nat) (done : Bool) :
    (State.feed s0 s c forced dests done).mem = s.mem := by
  unfold State.feed
  dsimp only
  split
  · split
    · split <;> simp
    · split
      · split <;> simp
      · rfl
  · rfl

/-- What the pair lets a group do leaves the memory alone. -/
theorem State.pairGate_stall_mem {s t : State} {c : Ctx} {forced : Forced} (h : s.pairGate c forced = .stall t) : t.mem = s.mem := by
  unfold State.pairGate at h
  dsimp only at h
  split at h
  · split at h
    · cases h; rfl
    · split at h
      · cases h
      · split at h
        · split at h
          · cases h
          · split at h <;> cases h
            rfl
        · cases h; simp
  · cases h

/-- An outcome whose next state, if it answers one, has a memory in its canonical form. -/
def Out.MemOk (o : Out) : Prop := ∀ t : State, o = .next t → t.mem.wf = true

theorem Out.memOk_next {s : State} (h : s.mem.wf = true) : Out.MemOk (.next s) := by
  rintro _ ⟨⟩
  exact h

theorem Out.memOk_fault (r : Fault) : Out.MemOk (.fault r) := by
  intro t e
  cases e

/-- A group keeps the canonical form if its body does. -/
theorem issueWith_memOk {s : State} (h : s.mem.wf = true) (c : Ctx) (forced : Forced) (touched reads dests : List Int)
    {body : State → Issued} (hb : ∀ t : State, t.mem.wf = true → (body t).MemOk) :
    Out.MemOk (issueWith s c forced touched reads dests body) := by
  unfold issueWith
  dsimp only
  split
  · exact Out.memOk_next h
  split
  · exact Out.memOk_next (by simpa using h)
  split
  · exact Out.memOk_next (by simpa using h)
  split
  next t e => exact Out.memOk_next (by rwa [State.pairGate_stall_mem e])
  next r e => exact Out.memOk_next (State.takeFed_wf h _ _ _)
  next e =>
    split
    · exact Out.memOk_next (by simpa using h)
    · have h0 : (if ((touched.map c.regUpset).filter s.upsets.contains).isEmpty || !(body s).completes then s
          else s.dropUpsets ((touched.map c.regUpset).filter s.upsets.contains)).mem.wf = true := by
        split <;> simpa using h
      refine Out.memOk_next ?_
      rw [State.feed_mem]
      exact finish_wf h0 _ _ (hb _ h0)

theorem withGroup_memOk {s : State} {k : Ctx → Out} (hk : ∀ c, Out.MemOk (k c)) : Out.MemOk (withGroup s k) := by
  unfold withGroup
  split
  · exact hk _
  · exact Out.memOk_fault _

theorem alu3_memOk {s : State} (h : s.mem.wf = true) (r : Rel) (d a b : RegNum) (f : Word → Word → Word) :
    Out.MemOk (alu3 s r d a b f) :=
  withGroup_memOk fun _ => issueWith_memOk h _ _ _ _ _ fun _ ht => by simpa using ht
theorem alu2_memOk {s : State} (h : s.mem.wf = true) (r : Rel) (d a : RegNum) (f : Word → Word → Word) :
    Out.MemOk (alu2 s r d a f) :=
  withGroup_memOk fun _ => issueWith_memOk h _ _ _ _ _ fun _ ht => by simpa using ht
theorem alu1_memOk {s : State} (h : s.mem.wf = true) (r : Rel) (d a : RegNum) (f : Word → Word) :
    Out.MemOk (alu1 s r d a f) :=
  withGroup_memOk fun _ => issueWith_memOk h _ _ _ _ _ fun _ ht => by simpa using ht
theorem aluI_memOk {s : State} (h : s.mem.wf = true) (r : Rel) (d : RegNum) (f : Word → Word) : Out.MemOk (aluI s r d f) :=
  withGroup_memOk fun _ => issueWith_memOk h _ _ _ _ _ fun _ ht => by simpa using ht

/-! ### Memory instructions at issue -/

theorem State.checkData_memOk {s : State} (h : s.mem.wf = true) (c : Ctx) (ea : Addr) (align n : Nat) (cls : MemClass) (op : Nat) :
    ∀ r ∈ s.checkData c ea align n cls op, r.MemOk := by
  unfold State.checkData
  split <;> simp [h]

theorem oddPair_memOk (n : Int) : ∀ r ∈ oddPair n, r.MemOk := by
  unfold oddPair
  split <;> simp

theorem State.parkStore_memOk {s : State} (h : s.mem.wf = true) (c : Ctx) (t : Target) (op : Nat) (cls : MemClass) (size : Nat)
    {go : Issued} (hg : go.MemOk) : (s.parkStore c t op cls size go).MemOk := by
  unfold State.parkStore
  split
  · simp
  · simpa using h
  · split
    · simpa using h
    · exact hg

theorem storeBody_memOk {s : State} (h : s.mem.wf = true) (c : Ctx) (t : Attr) (rel : Bool) (base : Int) (off : BitVec 40)
    (align : Nat) (regs : List Int) (n : Nat) : (storeBody c t rel base off align regs n s).MemOk := by
  have hm : (s.marked c).mem.wf = true := by simpa using h
  simp only [storeBody]
  split
  · exact hm
  split
  · exact hm
  split
  · exact hm
  split
  next r e => exact State.checkData_memOk hm _ _ _ _ _ _ r e
  next e => (repeat' split) <;> simp [State.parkStore_memOk, h]

theorem loadBody_memOk {s : State} (h : s.mem.wf = true) (c : Ctx) (t : Attr) (acq : Bool) (base : Int) (off : BitVec 40)
    (align n : Nat) (fmt : LoadFmt) (dests : List Int) (l : BitVec 4) :
    (loadBody c t acq base off align n fmt dests l s).MemOk := by
  have hm : (s.marked c).mem.wf = true := by simpa using h
  simp only [loadBody]
  split
  · exact hm
  split
  next r e => exact State.checkData_memOk hm _ _ _ _ _ _ r e
  next e => (repeat' split) <;> simp [h]

theorem fenceBody_memOk {s : State} (h : s.mem.wf = true) (c : Ctx) (m : FenceMask) (sc : SyncScope) (rel acq : Bool) :
    (fenceBody c m sc rel acq s).MemOk := by
  simp only [fenceBody]
  split
  · simpa using h
  · split <;> simpa using h

theorem postedBody_memOk {s : State} (h : s.mem.wf = true) (c : Ctx) (t : Attr) (op : AtomOp) (w : Bool) (a b : Int) :
    (postedBody c t op w a b s).MemOk := by
  have hm : (s.marked c).mem.wf = true := by simpa using h
  simp only [postedBody]
  split
  · exact hm
  split
  · exact hm
  split
  next r e => exact State.checkData_memOk hm _ _ _ _ _ _ r e
  next e => (repeat' split) <;> simp [State.parkStore_memOk, h]

theorem returningBody_memOk {s : State} (h : s.mem.wf = true) (c : Ctx) (t : Attr) (op : AtomOp) (w : Bool) (a b : Int)
    (l : BitVec 4) : (returningBody c t op w a b l s).MemOk := by
  have hm : (s.marked c).mem.wf = true := by simpa using h
  simp only [returningBody]
  split
  · exact hm
  split
  next r e => exact State.checkData_memOk hm _ _ _ _ _ _ r e
  next e => simpa using h

theorem frontBody_memOk {s : State} (h : s.mem.wf = true) (c : Ctx) (t : Attr) (op : FrontOp) (a b : Int) (dests : List Int)
    (l : BitVec 4) : (frontBody c t op a b dests l s).MemOk := by
  have hm : (s.marked c).mem.wf = true := by simpa using h
  simp only [frontBody]
  split
  · exact hm
  split
  next r e => exact State.checkData_memOk hm _ _ _ _ _ _ r e
  next e =>
    split
    · simp
    · simpa using h

/-! ### Fronts and accesses at their owners -/

/-- The state that a computation leaves, whether it has ended or stopped. -/
theorem M.KeepsMem.of_exec {α : Type} {m : M α} (hm : m.KeepsMem) {s t : State} {r : Except Stop α} (h : s.mem.wf = true)
    (e : m.exec s = (r, t)) : t.mem.wf = true := by
  have := hm s h
  rwa [e] at this

theorem Front.offer_keepsMem (w : Who) (f : Front) (t : Tuple) (r : Spilling) : (f.offer w t r).KeepsMem := by
  unfold Front.offer
  dsimp only
  split
  · split
    · exact M.keepsMem_pure _
    · exact (readWords_keepsMem _ _ _ _).bind fun _ => M.keepsMem_pure _
  · exact M.keepsMem_pure _

theorem loadFront_keepsMem (w : Who) (va : Nat) (need : Need) : (loadFront w va need).KeepsMem := by
  refine (readVa_keepsMem _ _ _ _).bind fun bs => ?_
  dsimp only
  split
  · exact M.keepsMem_pure _
  · exact (readVa_keepsMem _ _ _ _).bind fun _ => M.keepsMem_pure _

theorem frontCfg_keepsMem (w : Who) (va : Nat) (c r : Word) : (frontCfg w va c r).KeepsMem := by
  refine (readVa_keepsMem _ _ _ _).bind fun _ => ?_
  split <;> exact M.keepsMem_pure _

theorem frontIns_keepsMem (w : Who) (va : Nat) (a0 a1 a2 : Word) : (frontIns w va a0 a1 a2).KeepsMem := by
  refine (loadFront_keepsMem _ _ _).bind fun f => ?_
  split
  · exact M.keepsMem_pure _
  · exact (f.offer_keepsMem _ _ _).bind fun _ => M.keepsMem_pure _

theorem frontMerge_keepsMem (w : Who) (src dst : Nat) : (frontMerge w src dst).KeepsMem := by
  refine (loadFront_keepsMem _ _ _).bind fun f => (loadFront_keepsMem _ _ _).bind fun d => ?_
  split
  · exact M.keepsMem_pure _
  split
  · exact M.keepsMem_pure _
  · exact (M.keepsMem_foldlM (fun acc t => (acc.front.offer_keepsMem _ _ _).bind fun _ => M.keepsMem_pure _) _ _).bind
      fun _ => M.keepsMem_pure _

theorem frontRd_keepsMem (w : Who) (va to_ : Nat) : (frontRd w va to_).KeepsMem := by
  refine (loadFront_keepsMem _ _ _).bind fun f => ?_
  split <;> exact M.keepsMem_pure _

theorem frontClr_keepsMem (w : Who) (va : Nat) : (frontClr w va).KeepsMem := by
  refine (readVa_keepsMem _ _ _ _).bind fun bs => ?_
  dsimp only
  split <;> exact M.keepsMem_pure _

theorem frontStat_keepsMem (w : Who) (va : Nat) : (frontStat w va).KeepsMem :=
  (readVa_keepsMem _ _ _ _).bind fun _ => M.keepsMem_pure _

theorem FrontOp.plan_keepsMem (op : FrontOp) (w : Who) (va : Nat) (a0 a1 a2 : Word) : (op.plan w va a0 a1 a2).KeepsMem := by
  cases op with
  | cfg => exact frontCfg_keepsMem _ _ _ _
  | ins => exact frontIns_keepsMem _ _ _ _ _
  | merge => exact frontMerge_keepsMem _ _ _
  | rd => exact frontRd_keepsMem _ _ _
  | clr => exact frontClr_keepsMem _ _
  | stat => exact frontStat_keepsMem _ _

theorem State.settle_wf {s : State} (h : s.mem.wf = true) (f : Flight) (va : Addr) (r : PortAnswer) :
    ∀ p ∈ s.settle f va r, p.2.mem.wf = true := by
  intro p hp
  rwa [State.settle_mem s f va r p hp]

theorem State.portStore_wf {s : State} (h : s.mem.wf = true) (f : Flight) (bs : List Byte) :
    ∀ p ∈ s.portStore f bs, p.2.mem.wf = true := by
  unfold State.portStore
  dsimp only
  have h1 := State.writeTarget_wf h f.field f.target (bs.take 8) (some (s.raceBy f)) (s.violationOf f f.va)
  split
  · split
    · exact State.settle_wf h1 _ _ _
    · have h2 := fun by_ => State.writeTarget_wf h1 f.field f.second (bs.drop 8) by_ (s.violationOf f (f.va + 8))
      split <;> exact State.settle_wf (h2 _) _ _ _
  · exact State.settle_wf h1 _ _ _

theorem State.portLoad_wf {s : State} (h : s.mem.wf = true) (f : Flight) (n : Nat) :
    ∀ p ∈ s.portLoad f n, p.2.mem.wf = true := by
  intro p hp
  rwa [State.portLoad_mem s f n p hp]

theorem State.performAccess_wf {s : State} (h : s.mem.wf = true) (x : Nat) : ∀ t ∈ s.performAccess x, t.mem.wf = true := by
  unfold State.performAccess
  split
  · simp
  next f _ =>
    split
    · intro t ht
      rwa [State.depart_mem _ _ _ t ht]
    split
    · dsimp only
      split
      next bs _ =>
        intro t ht
        obtain ⟨p, hp, ht⟩ := Option.bind_eq_some_iff.mp ht
        cases ht
        simpa using State.portStore_wf h _ _ p hp
      · split
        · simpa using h
        · simp
        · intro t ht
          obtain ⟨p, hp, ht⟩ := Option.bind_eq_some_iff.mp ht
          cases ht
          simpa using State.portLoad_wf h _ _ p hp
      · simp
    · simp

theorem State.undoFront_wf {s : State} (h : s.mem.wf = true) (u : List (Nat × List Byte × List Byte)) :
    (s.undoFront u).mem.wf = true := by
  induction u with
  | nil => exact h
  | cons p u ih =>
    unfold State.undoFront at ih ⊢
    rw [List.foldr_cons]
    split
    · exact State.writeFlat_wf ih _ _
    · exact ih

theorem State.failFlight_wf {s : State} (h : s.mem.wf = true) (x : Nat) (e : ErrResp) : (s.failFlight x e).mem.wf = true := by
  unfold State.failFlight
  dsimp only
  split
  · simpa using State.undoFront_wf h _
  · simpa using h

theorem State.refuseReq_wf {s : State} (h : s.mem.wf = true) (b : FaultBy) : (s.refuseReq b).mem.wf = true := by
  unfold State.refuseReq
  dsimp only
  split
  · split
    · exact State.failFlight_wf (by simpa using h) _ _
    · exact h
  · split <;> simpa using h

theorem State.creditAt_wf {s : State} (h : s.mem.wf = true) (a n : Nat) : (s.creditAt a n).2.mem.wf = true :=
  State.writeFlat_wf h _ _

theorem State.writeFront_wf {s : State} (h : s.mem.wf = true) (x : Nat) (f : Flight) (u : List (Nat × List Byte × List Byte))
    (ws : List FrontWrite) : (s.writeFront x f u ws).2.2.2.mem.wf = true := by
  induction ws generalizing s u with
  | nil => exact h
  | cons p rest ih =>
    simp only [State.writeFront]
    have away : ∀ r, (if (s.wroteOf (.flight x)).contains p.va then State.writeFront (s.setRun (.flight x) ⟨rest, u, []⟩) x f u rest
        else (p :: rest, u, some r, s)).2.2.2.mem.wf = true := by
      intro r
      split
      · exact ih (by simpa using h) _
      · exact h
    split
    · exact away _
    · exact away _
    · split
      next e => exact ih ((writePiece_keepsMem _ _ _).of_exec h e) _
      next e => exact (writePiece_keepsMem _ _ _).of_exec h e

theorem State.frontRun_wf {s : State} (h : s.mem.wf = true) (x : Nat) (f : Flight) (op : FrontOp) (a0 a1 a2 : Word) :
    (s.frontRun x f op a0 a1 a2).2.mem.wf = true := by
  unfold State.frontRun
  split
  · exact h
  · exact op.plan_keepsMem _ _ _ _ _ _ h

theorem State.performFront_wf {s : State} (h : s.mem.wf = true) (k x : Nat) (f : Flight) (op : FrontOp) (a0 a1 a2 : Word)
    (nohot : Bool) : (s.performFront k x f op a0 a1 a2 nohot).mem.wf = true := by
  have hr := State.frontRun_wf h x f op a0 a1 a2
  unfold State.performFront
  split
  · exact State.failFlight_wf h _ _
  · split <;> rename_i e <;> rw [e] at hr
    · exact State.failFlight_wf hr _ _
    · simpa using hr
    · simpa using h
    · have hw := fun u ws => State.writeFront_wf hr x f u ws
      split <;> rename_i e <;> replace hw := e ▸ hw _ _
      · dsimp only
        split <;> simpa using hw
      · exact State.failFlight_wf (by simpa using hw) _ _
      · simpa using hw

theorem State.atomicAt_wf {s : State} (h : s.mem.wf = true) (a : Nat) (op : AtomOp) (w : Bool) (opnd new : Word) :
    (s.atomicAt a op w opnd new).2.mem.wf = true := State.writeFlat_wf h _ _

theorem State.performAtomic_wf {s : State} (h : s.mem.wf = true) (k x : Nat) (f : Flight) : (s.performAtomic k x f).mem.wf = true := by
  have hr : ∀ n v, (s.readTarget f.field f.target n .atom v).2.mem.wf = true := fun n v => by rwa [State.readTarget_mem]
  have settled : ∀ n v o, (match (s.readTarget f.field f.target n .atom v).2.settle f f.va o with
      | some (st, t) => t.modFlight x (fun g => { g with stage := st }) | none => s).mem.wf = true := by
    intro n v o
    split
    next e => simpa using State.settle_wf (hr n v) f f.va o _ e
    · exact h
  unfold State.performAtomic
  dsimp only
  split
  · split
    · split
      · simpa using State.atomicAt_wf (hr _ _) _ _ _ _ _
      · exact h
    · exact settled _ _ _
  · split
    · simpa using State.creditAt_wf (hr _ _) _ _
    · exact h
    · exact settled _ _ _
  · exact State.performFront_wf h _ _ _ _ _ _ _ _
  · exact h

theorem State.tryAtomic_wf {s : State} (h : s.mem.wf = true) (k : Nat) : ∀ t ∈ s.tryAtomic k, t.mem.wf = true := by
  unfold State.tryAtomic
  dsimp only
  split
  · simp
  · intro t ht
    obtain ⟨f, -, rfl⟩ := Option.map_eq_some_iff.mp ht
    rw [State.engineAnswer_mem]
    exact State.performAtomic_wf (by simpa using h) _ _ _

/-! ### Trap records and verdicts -/

/-- The state of a trap record that has been written or waits. -/
@[simp] def TrapWrite.state : TrapWrite → State
  | .done s _ | .wait s => s

theorem State.writeTrap_wf {s : State} (h : s.mem.wf = true) (c : Nat) (f : Field) (k : Nat) (t : Trap) (unit slot : Nat)
    (nm : Naming) (snap : Option (List Word)) (req : FaultReq) :
    (s.writeTrap c f k t unit slot nm snap req).state.mem.wf = true := by
  unfold State.writeTrap
  dsimp only
  split
  · simpa using h
  · split
    next e => simpa using (writeVaM_keepsMem _ _ _).of_exec h e
    · simpa using h
    next e => simpa using (writeVaM_keepsMem _ _ _).of_exec h e
    · simpa using h
    next e => simpa using (writeVaM_keepsMem _ _ _).of_exec h e

theorem State.writeTrap_done_wf {s u : State} (h : s.mem.wf = true) {c : Nat} {f : Field} {k : Nat} {t : Trap} {unit slot : Nat}
    {nm : Naming} {snap : Option (List Word)} {req : FaultReq} {ra : Addr}
    (e : s.writeTrap c f k t unit slot nm snap req = .done u ra) : u.mem.wf = true := by
  simpa [e] using State.writeTrap_wf h c f k t unit slot nm snap req

theorem State.writeTrap_wait_wf {s u : State} (h : s.mem.wf = true) {c : Nat} {f : Field} {k : Nat} {t : Trap} {unit slot : Nat}
    {nm : Naming} {snap : Option (List Word)} {req : FaultReq}
    (e : s.writeTrap c f k t unit slot nm snap req = .wait u) : u.mem.wf = true := by
  simpa [e] using State.writeTrap_wf h c f k t unit slot nm snap req

theorem State.deadRecord_wf {s : State} (h : s.mem.wf = true) (a : Nat) (f : Flight) (va : Addr) :
    (s.deadRecord a f va).mem.wf = true := by
  unfold State.deadRecord
  dsimp only
  split
  · exact h
  split
  · simpa using h
  split
  · simpa using h
  · split
    next e => simpa using State.writeTrap_done_wf (by simpa using h) e
    next e => exact State.writeTrap_wait_wf (by simpa using h) e

theorem State.tryRetiredError_wf {s : State} (h : s.mem.wf = true) (x : Nat) : ∀ t ∈ s.tryRetiredError x, t.mem.wf = true := by
  unfold State.tryRetiredError
  (repeat' split) <;> simp [h, State.deadRecord_wf]

theorem State.recordFrame_wf {s : State} (h : s.mem.wf = true) (c slot : Nat) (t : Trap) :
    ∀ u ∈ s.recordFrame c slot t, u.mem.wf = true := by
  unfold State.recordFrame
  split
  · simp
  split
  · split <;> simp [h]
  · dsimp only
    split
    · simp
    · split
      next e => simpa using State.writeTrap_done_wf h e
      next e => simpa using State.writeTrap_wait_wf h e

theorem State.tryTrap_wf {s : State} (h : s.mem.wf = true) (c slot : Nat) : ∀ t ∈ s.tryTrap c slot, t.mem.wf = true := by
  unfold State.tryTrap
  dsimp only
  split
  · simp
  split
  · simp
  split
  · split <;> simp [h]
  split
  · simp
  · exact State.recordFrame_wf h _ _ _

theorem State.recordProg_wf {s : State} (h : s.mem.wf = true) (p : Nat) (x : Prog) (t : Trap) :
    ∀ u ∈ s.recordProg p x t, u.mem.wf = true := by
  unfold State.recordProg
  split
  · simp
  dsimp only
  split
  · split <;> simp [h]
  · split
    · simp
    · split
      next e => simpa using State.writeTrap_done_wf h e
      next e => simpa using State.writeTrap_wait_wf h e

theorem State.tryEngineTrap_wf {s : State} (h : s.mem.wf = true) (c : Nat) (u : EngineUnit) :
    ∀ t ∈ s.tryEngineTrap c u, t.mem.wf = true := by
  unfold State.tryEngineTrap
  split
  · simp
  · split
    · exact State.recordProg_wf h _ _ _
    · simp

theorem State.tryDeferred_wf {s : State} (h : s.mem.wf = true) (f : Nat) : ∀ t ∈ s.tryDeferred f, t.mem.wf = true := by
  unfold State.tryDeferred
  dsimp only
  split
  · exact State.recordFrame_wf h _ _ _
  · exact State.recordProg_wf h _ _ _
  · split
    · simp
    split
    · simp
    split
    · simp
    · split
      next e => simpa using State.writeTrap_done_wf h e
      next e => simpa using State.writeTrap_wait_wf h e
  · simp

/-- The state of a verdict. -/
@[simp] def VerdictResult.state : VerdictResult → State
  | .done s | .bad s | .wait s => s

theorem readEntry_keepsMem (w : Who) (ra : Addr) : (readEntry w ra).KeepsMem :=
  (readWords_keepsMem _ _ _ _).bind fun _ => (readWords_keepsMem _ _ _ _).bind fun _ => M.keepsMem_pure _

theorem State.resumeWith_wf {s : State} (h : s.mem.wf = true) (c : Nat) (req : FaultReq) (ra : Addr) (k : Nat)
    {go : State → Addr → Addr → List Word → State} (hg : ∀ t pc nx sn, (go t pc nx sn).mem = t.mem) :
    (s.resumeWith c req ra k go).state.mem.wf = true := by
  unfold State.resumeWith
  split
  · simpa using h
  split
  · exact h
  split
  next e => simpa [hg] using (readEntry_keepsMem _ _).of_exec h e
  next e => simpa using (readEntry_keepsMem _ _).of_exec h e
  · simpa using h

theorem State.verdict_wf {s : State} (h : s.mem.wf = true) (c : Nat) (ra : Addr) (code : Nat) :
    (s.verdict c ra code).state.mem.wf = true := by
  unfold State.verdict
  split
  · exact State.resumeWith_wf h _ _ _ _ (by simp)
  · exact State.resumeWith_wf h _ _ _ _ (by simp)
  · simpa using h
  · exact h
  · split
    · exact h
    · exact State.resumeWith_wf h _ _ _ _ (by simp)
  · split
    · exact h
    · exact State.resumeWith_wf h _ _ _ _ (by simp)
  · simpa using h
  · split <;> exact h
  · simpa using h
  · exact h

theorem State.tryVerdict_wf {s : State} (h : s.mem.wf = true) (c : Nat) (ra : Addr) (code : Nat) :
    ∀ t ∈ s.tryVerdict c ra code, t.mem.wf = true := by
  have hv := State.verdict_wf h c ra code
  unfold State.tryVerdict
  split <;> rename_i e <;> rw [e] at hv <;> simpa using hv

/-! ### Messages, bells and scopes at issue -/

theorem status_memOk {s : State} (h : s.mem.wf = true) (c : Ctx) (d : Int) (code : Nat) : (status s c d code).MemOk := by
  simpa [status] using h

theorem cancelPoint_memOk {s : State} (h : s.mem.wf = true) (c : Ctx) (sc : BitVec 32) (p : Pending) {stop : State → Issued}
    {go : Pending → State → Issued} (hs : (stop s).MemOk) (hg : ∀ p, (go p s).MemOk) : (cancelPoint c sc p s stop go).MemOk := by
  unfold cancelPoint
  split
  · split
    · simpa using h
    · split
      · exact hs
      · exact hg _
  split
  · split
    · exact h
    · split
      · exact hg _
      · exact hs
  · exact hg _

theorem mintPoint_memOk {s : State} (h : s.mem.wf = true) (c : Ctx) (sc : BitVec 32) (n : Nat) (p : Pending)
    {stop : State → Issued} {go : Pending → State → Issued} (hs : (stop s).MemOk) (hg : ∀ p, (go p s).MemOk) :
    (mintPoint c sc n p s stop go).MemOk := by
  simp only [mintPoint]
  split
  · split
    · simpa using h
    · exact hg _
  split
  · split
    · exact h
    · split
      · exact hs
      · split
        · simpa using h
        · exact hg _
  · exact hg _

theorem queueSends_memOk {s : State} (h : s.mem.wf = true) (c : Ctx) (cls : MemClass) (w : Word) (ws : List Word) (d : Int)
    (p : SendPlan) (pend : Pending) (ts : List (BitVec 24)) : (queueSends c cls w ws d p pend ts s).MemOk := by
  induction ts generalizing s pend with
  | nil => exact status_memOk h _ _ _
  | cons g ts ih =>
    simp only [queueSends]
    generalize (if pend.sent = 0 then (if p.targets.length ≤ outQueueSize then p.targets.length else 1) else 1) = need
    split
    · simpa using h
    · exact ih (by simpa using h) _

theorem sendBody_memOk {s : State} (h : s.mem.wf = true) (c : Ctx) (t : Attr) (k : SendKind) (d a b : Int) :
    (sendBody c t k d a b s).MemOk := by
  have hm : (s.marked c).mem.wf = true := by simpa using h
  simp only [sendBody]
  split
  · exact hm
  split
  · exact status_memOk hm _ _ _
  split
  · exact status_memOk hm _ _ _
  · refine cancelPoint_memOk hm _ _ _ (status_memOk hm _ _ _) fun p => ?_
    refine mintPoint_memOk hm _ _ _ _ (status_memOk hm _ _ _) fun p => ?_
    exact queueSends_memOk (by simpa using h) _ _ _ _ _ _ _ _

theorem barBody_memOk {s : State} (h : s.mem.wf = true) (c : Ctx) (d a : Int) : (barBody c d a s).MemOk := by
  have hd : ∀ die b, (s.closeDue die b).mem.wf = true := fun die b => by simpa using h
  simp only [barBody]
  split
  · exact status_memOk (hd _ _) _ _ _
  split
  · exact status_memOk (hd _ _) _ _ _
  split
  · exact status_memOk (hd _ _) _ _ _
  · refine cancelPoint_memOk (hd _ _) _ _ _ (status_memOk (by simpa using h) _ _ _) fun p => ?_
    split
    · exact status_memOk (by simpa using h) _ _ _
    split
    · exact status_memOk (by simpa using h) _ _ _
    · exact mintPoint_memOk (hd _ _) _ _ _ _ (status_memOk (by simpa using h) _ _ _) fun p => status_memOk (by simpa using h) _ _ _

theorem barwBody_memOk {s : State} (h : s.mem.wf = true) (c : Ctx) (d a : Int) : (barwBody c d a s).MemOk := by
  have hd : ∀ die b, (s.closeDue die b).mem.wf = true := fun die b => by simpa using h
  simp only [barwBody]
  split
  · exact status_memOk (hd _ _) _ _ _
  split
  · exact status_memOk (hd _ _) _ _ _
  split
  · exact status_memOk (hd _ _) _ _ _
  · refine cancelPoint_memOk (hd _ _) _ _ _ (status_memOk (hd _ _) _ _ _) fun p => ?_
    split
    · exact status_memOk (hd _ _) _ _ _
    · refine mintPoint_memOk (hd _ _) _ _ _ _ (status_memOk (hd _ _) _ _ _) fun p => status_memOk ?_ _ _ _
      split <;> simpa using h

theorem State.ask_memOk {s : State} (h : s.mem.wf = true) (c : Ctx) (p : Pending) (stage : Nat) (m : Ctl) :
    (s.ask c p stage m).MemOk := by
  simpa [State.ask] using h

theorem sopenBody_memOk {s : State} (h : s.mem.wf = true) (c : Ctx) (d a : Int) : (sopenBody c d a s).MemOk := by
  simp only [sopenBody]
  split
  · exact status_memOk h _ _ _
  split
  · exact status_memOk h _ _ _
  · refine cancelPoint_memOk h _ _ _ (status_memOk h _ _ _) fun p => ?_
    split
    · exact status_memOk h _ _ _
    next k new _ =>
      have ho : (if new = true then s.modCell c.cell (fun x => { x with opening := x.opening ++ [k] }) else s).mem.wf = true := by
        split <;> simpa using h
      refine mintPoint_memOk ho _ _ _ _ (status_memOk (by simpa using ho) _ _ _) fun p => ?_
      split
      · exact State.ask_memOk (by simpa using ho) _ _ _ _
      split
      · exact ho
      split
      · exact status_memOk (by simpa using ho) _ _ _
      split
      · exact status_memOk (by simpa using ho) _ _ _
      · simpa using ho

theorem scopeRequest_memOk {s : State} (h : s.mem.wf = true) (c : Ctx) (d : Int) (k : CtlKind) (bad : Bool) (ws : List Word) :
    (scopeRequest c d k bad ws s).MemOk := by
  simp only [scopeRequest]
  split
  · split
    · split
      · exact status_memOk h _ _ _
      · exact State.ask_memOk h _ _ _ _
    · exact State.ask_memOk h _ _ _ _
  · split
    · exact h
    · simpa using h

/-! ### Records and blocks at issue -/

theorem refusalTrap_memOk {s : State} (h : s.mem.wf = true) (e : ErrResp) : (refusalTrap s e).MemOk := h

theorem State.groupWaits_wf {s s1 : State} (h : s.mem.wf = true) (h1 : s1.mem.wf = true) (c : Ctx) (x : Stop) :
    (s.groupWaits c x s1).mem.wf = true := by
  unfold State.groupWaits
  split <;> simpa

theorem withMemoryKeep_memOk {α : Type} {s : State} (h : s.mem.wf = true) (c : Ctx) {keep : State → State}
    (hk : ∀ t, (keep t).mem = t.mem) {m : M α} (hm : m.KeepsMem) {go : α → State → Issued}
    (hg : ∀ x t, t.mem.wf = true → (go x t).MemOk) : (withMemoryKeep c keep m s go).MemOk := by
  have hw : (match m.exec s with
      | (.ok x, s1) => go x s1
      | (.error (.refused e), s1) => refusalTrap s1 e
      | (.error x, s1) => .stall (keep (s.groupWaits c x s1))).MemOk := by
    split
    next e => exact hg _ _ (hm.of_exec h e)
    next e => exact refusalTrap_memOk (hm.of_exec h e) _
    next e => rw [Issued.memOk_stall, hk]; exact State.groupWaits_wf h (hm.of_exec h e) _ _
  unfold withMemoryKeep
  split
  · exact refusalTrap_memOk (by simpa using h) _
  · exact h
  · exact h
  · exact h
  · exact hw
  · exact hw

theorem withMemory_memOk {α : Type} {s : State} (h : s.mem.wf = true) (c : Ctx) {m : M α} (hm : m.KeepsMem)
    {go : α → State → Issued} (hg : ∀ x t, t.mem.wf = true → (go x t).MemOk) : (withMemory c m s go).MemOk :=
  withMemoryKeep_memOk h c (fun _ => rfl) hm hg

theorem readEach_memOk {s : State} (h : s.mem.wf = true) (c : Ctx) (n : Nat) {go : Pending → State → Issued}
    (hg : ∀ p t, t.mem.wf = true → (go p t).MemOk) (as : List Addr) (p : Pending) : (readEach c n go as p s).MemOk := by
  induction as generalizing s p with
  | nil => exact hg _ _ (by simpa using h)
  | cons a as ih =>
    simp only [readEach]
    split
    · simp
    · exact withMemoryKeep_memOk h _ (by simp) (readVa_keepsMem _ _ _ _) fun _ _ ht => ih ht _

theorem withRecords_memOk {s : State} (h : s.mem.wf = true) (c : Ctx) (n : Nat) (as : List Addr) {go : Pending → State → Issued}
    (hg : ∀ p t, t.mem.wf = true → (go p t).MemOk) : (withRecords c n as s go).MemOk := by
  simp only [withRecords]
  split
  · exact hg _ _ h
  · exact readEach_memOk h _ _ hg _ _

theorem withBlock_memOk {s : State} (h : s.mem.wf = true) (c : Ctx) (va : Addr) (n : Nat) (p : Pending)
    {go : Pending → State → Issued} (hg : ∀ p t, t.mem.wf = true → (go p t).MemOk) : (withBlock c va n p s go).MemOk := by
  unfold withBlock
  split
  · exact hg _ _ h
  split
  · simp
  split
  · exact h
  · exact withMemory_memOk h _ (readVa_keepsMem _ _ _ _) fun _ t ht => hg _ t ht

/-! ### Engine programs and copies at issue -/

theorem forkEnter_memOk {s : State} (h : s.mem.wf = true) (c : Ctx) (d : Int) (p : Pending) : (forkEnter c d p s).MemOk := by
  simp only [forkEnter]
  split
  · simpa using h
  · exact status_memOk (by simpa using h) _ _ _

theorem forkShares_memOk {s : State} (h : s.mem.wf = true) (c : Ctx) (d : Int) (ts : List (EngineUnit × Addr)) (p : Pending) :
    (forkShares c d ts p s).MemOk := by
  induction ts generalizing s p with
  | nil => exact forkEnter_memOk h _ _ _
  | cons t ts ih =>
    simp only [forkShares]
    split
    · split
      · split
        · exact h
        · exact status_memOk (by simpa using h) _ _ _
      · simpa using h
    · exact ih (by simpa using h) _

theorem forkBody_memOk {s : State} (h : s.mem.wf = true) (c : Ctx) (d a : Int) : (forkBody c d a s).MemOk := by
  have hm : (s.marked c).mem.wf = true := by simpa using h
  simp only [forkBody]
  split
  · exact status_memOk hm _ _ _
  split
  · exact hm
  split
  · exact status_memOk hm _ _ _
  split
  · exact status_memOk hm _ _ _
  split
  · exact status_memOk hm _ _ _
  · exact cancelPoint_memOk hm _ _ _ (status_memOk hm _ _ _) fun p => forkShares_memOk (by simpa using h) _ _ _ _

theorem rdvBody_memOk {s : State} (h : s.mem.wf = true) (c : Ctx) (d a : Int) : (rdvBody c d a s).MemOk := by
  have hm : (s.marked c).mem.wf = true := by simpa using h
  simp only [rdvBody]
  split
  · exact hm
  split
  · exact status_memOk hm _ _ _
  split
  · exact status_memOk hm _ _ _
  · refine cancelPoint_memOk hm _ _ _ (status_memOk hm _ _ _) fun p => ?_
    refine mintPoint_memOk hm _ _ _ _ (status_memOk hm _ _ _) fun p => ?_
    split
    · simpa using h
    · exact status_memOk (by simpa using h) _ _ _

theorem qfenceScalar_memOk {s : State} (h : s.mem.wf = true) (c : Ctx) (d a : Int) : (qfenceScalar c d a s).MemOk := by
  have hm : (s.marked c).mem.wf = true := by simpa using h
  simp only [qfenceScalar]
  split
  · exact status_memOk hm _ _ _
  split
  · exact status_memOk hm _ _ _
  split
  · exact hm
  · refine status_memOk ?_ _ _ _
    rw [foldl_mem]
    · exact hm
    · simp

theorem qfenceProg_memOk {s : State} (h : s.mem.wf = true) (c : Ctx) (d a : Int) : (qfenceProg c d a s).MemOk := by
  simp only [qfenceProg]
  split
  · exact status_memOk h _ _ _
  split
  · exact h
  · split <;> split
    · exact status_memOk (by simpa using h) _ _ _
    · simpa using h
    · exact status_memOk (by simpa using h) _ _ _
    · simpa using h

theorem eendBody_memOk {s : State} (h : s.mem.wf = true) (c : Ctx) : (eendBody c s).MemOk := by
  simpa [eendBody] using h

theorem copyScalar_memOk {s : State} (h : s.mem.wf = true) (c : Ctx) (d a : Int) : (copyScalar c d a s).MemOk := by
  unfold copyScalar
  refine withBlock_memOk (by simpa using h) _ _ _ _ fun p t ht => ?_
  dsimp only
  generalize (if (copyBlockOf p.data).scope = 0 then (t.actC c).naming.scope else (copyBlockOf p.data).scope) = sc
  split
  · exact status_memOk ht _ _ _
  split
  · exact status_memOk ht _ _ _
  split
  · exact status_memOk ht _ _ _
  · refine cancelPoint_memOk ht _ _ _ (status_memOk ht _ _ _) fun p => ?_
    refine mintPoint_memOk ht _ _ _ _ (status_memOk ht _ _ _) fun p => ?_
    split
    · simpa using ht
    · simpa using ht

theorem copyProg_memOk {s : State} (h : s.mem.wf = true) (c : Ctx) (d a : Int) : (copyProg c d a s).MemOk := by
  unfold copyProg
  refine withBlock_memOk h _ _ _ _ fun p t ht => ?_
  dsimp only
  split
  · split
    · exact ht
    split
    · exact ht
    split
    · exact refusalTrap_memOk (by simpa using ht) _
    · simpa using ht
  split
  · exact status_memOk ht _ _ _
  split
  · exact status_memOk ht _ _ _
  split
  · exact status_memOk ht _ _ _
  split
  · simpa using ht
  split
  · exact status_memOk (by simpa using ht) _ _ _
  · simpa using ht

/-! ### Records of programs, and copies -/

theorem State.readRecords_wf (c : Nat) (ps : List Nat) {s : State} (h : s.mem.wf = true) :
    (State.readRecords c ps s).2.mem.wf = true := by
  induction ps generalizing s with
  | nil => exact h
  | cons p ps ih =>
    unfold State.readRecords
    dsimp only
    split
    · exact ih h
    split
    · exact ih h
    split
    · exact h
    split
    · exact ih (by simpa using h)
    split
    · next e =>
      have hr := (readWords_keepsMem _ _ _ _).of_exec h e
      exact ih (by split <;> simpa using hr)
    · next e => exact ih (by simpa using (readWords_keepsMem _ _ _ _).of_exec h e)
    · next e =>
      dsimp only
      split
      · simpa using (readWords_keepsMem _ _ _ _).of_exec h e
      · simpa using h

theorem State.tryRecords_wf {s : State} (h : s.mem.wf = true) (c : Nat) : ∀ t ∈ s.tryRecords c, t.mem.wf = true := by
  unfold State.tryRecords
  split
  · next p ps e =>
    dsimp only
    split
    · have hr := State.readRecords_wf c (by assumption) h
      split <;> rename_i e <;> rw [e] at hr
      · simp only [Option.mem_some_iff, forall_eq']
        rw [foldl_mem (by simp)]
        simpa using hr
      · simpa using hr
    · simp
  · simp

theorem boundStop_keepsMem (w : Who) (va : Int) (op : Nat) : (boundStop w va op).KeepsMem := by
  unfold boundStop
  dsimp only
  split
  · refine M.keepsMem_state fun s h => ?_
    exact (M.keepsMem_put (by simpa using h)).bind fun _ => M.keepsMem_stop _
  · exact M.keepsMem_pure _

theorem readElem_keepsMem (w : Who) (b : CopyBlock) (e : Nat) : (readElem w b e).KeepsMem := by
  unfold readElem
  exact (boundStop_keepsMem _ _ _).bind fun _ => (readVa_keepsMem _ _ _ _).bind fun _ => M.keepsMem_pure _

theorem writeUnit_keepsMem (w : Who) (b : CopyBlock) (e : Nat) (vs : List Nat) : (writeUnit w b e vs).KeepsMem := by
  unfold writeUnit
  exact (boundStop_keepsMem _ _ _).bind fun _ => writeVaM_keepsMem _ _ _

theorem raiseCopy_keepsMem (x : Nat) (f : Flags) : (raiseCopy x f).KeepsMem :=
  M.keepsMem_state fun s h => M.keepsMem_put (by simpa using h)

theorem moveChunk_keepsMem (w : Who) (x : Nat) (y : CopyRun) (k occasion : Nat) : (moveChunk w x y k occasion).KeepsMem := by
  have read (l : List Nat) (g : Nat → Nat) : (l.mapM fun j => readElem w y.block (g j)).KeepsMem :=
    M.keepsMem_mapM (fun _ => readElem_keepsMem _ _ _) _
  have tail (e : Nat) (vs : List Nat) (rs : List (Nat × Flags)) (f : Flags) :
      (writeUnit w y.block e (rs.map Prod.fst) >>= fun _ => raiseCopy x f).KeepsMem :=
    (writeUnit_keepsMem _ _ _ _).bind fun _ => raiseCopy_keepsMem _ _
  unfold moveChunk
  dsimp only
  refine (M.keepsMem_mapM (fun e => ?_) _).bind fun early => M.keepsMem_forM (fun e => ?_) _
  · split
    · exact (read _ _).bind fun _ => M.keepsMem_pure _
    · exact M.keepsMem_pure _
  · split
    · exact (M.keepsMem_pure _).bind fun _ => tail _ [] _ _
    · exact (read _ _).bind fun _ => tail _ [] _ _

/-- Every state that a chunk's move comes to has a memory in its canonical form. -/
def ChunkRun.MemOk : ChunkRun → Prop
  | .none => True
  | .moved s | .refused _ s | .wait s => s.mem.wf = true

theorem State.runChunk_memOk {s : State} (h : s.mem.wf = true) (x k : Nat) (y : CopyRun) (q : Chunk) :
    (s.runChunk x k y q).MemOk := by
  unfold State.runChunk
  dsimp only
  split
  · exact (by simpa using h : (s.endWait _).mem.wf = true)
  · trivial
  · trivial
  · trivial
  split
  all_goals
    next e =>
    have hm := (moveChunk_keepsMem _ _ _ _ _).of_exec h e
    simp [ChunkRun.MemOk, h, hm]

theorem State.runChunk_moved_wf {s s1 : State} (h : s.mem.wf = true) {x k : Nat} {y : CopyRun} {q : Chunk}
    (e : s.runChunk x k y q = .moved s1) : s1.mem.wf = true := by
  have hr := State.runChunk_memOk h x k y q
  rwa [e] at hr

theorem State.runChunk_wait_wf {s s1 : State} (h : s.mem.wf = true) {x k : Nat} {y : CopyRun} {q : Chunk}
    (e : s.runChunk x k y q = .wait s1) : s1.mem.wf = true := by
  have hr := State.runChunk_memOk h x k y q
  rwa [e] at hr

theorem State.runChunk_refused_wf {s s1 : State} (h : s.mem.wf = true) {x k : Nat} {y : CopyRun} {q : Chunk} {r : ErrResp}
    (e : s.runChunk x k y q = .refused r s1) : s1.mem.wf = true := by
  have hr := State.runChunk_memOk h x k y q
  rwa [e] at hr

theorem State.tryPerformed_wf {s : State} (h : s.mem.wf = true) (x k : Nat) : ∀ t ∈ s.tryPerformed x k, t.mem.wf = true := by
  unfold State.tryPerformed
  split
  · simp
  split
  · split
    · next e =>
      have hm := State.runChunk_moved_wf h e
      simp [hm]
    · next e =>
      have hm := State.runChunk_wait_wf h e
      simp [hm]
    · simp
  · split <;> simp [h]
  · simp

theorem State.reportRefusal_wf {s : State} (h : s.mem.wf = true) (y : CopyRun) (e : ErrResp) :
    (s.reportRefusal y e).mem.wf = true := by
  unfold State.reportRefusal
  split
  · exact h
  split
  · simpa using h
  · simpa using h
  · exact State.deadRecord_wf h _ _ _

theorem State.failChunk_wf {s : State} (h : s.mem.wf = true) (x k : Nat) (y : CopyRun) (e : ErrResp) :
    (s.failChunk x k y e).mem.wf = true := by
  unfold State.failChunk
  dsimp only
  split
  · simpa using h
  · exact State.reportRefusal_wf (by simpa using h) _ _

theorem State.tryRefused_wf {s : State} (h : s.mem.wf = true) (x k : Nat) : ∀ t ∈ s.tryRefused x k, t.mem.wf = true := by
  unfold State.tryRefused
  split
  · simp
  split
  · split
    · next e => simp [State.failChunk_wf (State.runChunk_refused_wf h e)]
    · simp
  · split
    · split <;> simp [State.failChunk_wf h]
    · simp
  · simp

theorem State.tryCredit_wf {s : State} (h : s.mem.wf = true) (x : Nat) : ∀ t ∈ s.tryCredit x, t.mem.wf = true := by
  unfold State.tryCredit
  split
  · simp
  dsimp only
  split
  · simp [h]
  · simp
  · simp
  · simp
  split
  all_goals
    next e =>
    have hm := (engineOp_keepsMem _ _ _ _ _).of_exec h e
    simp [hm]

/-! ### Fetch, and what is ready to run -/

/-- The state that a fetch of a group leaves. -/
def GroupFetch.state : GroupFetch → State
  | .ok _ _ s | .trap _ _ _ s | .refused _ s | .notResident _ s | .busy _ s | .poison _ _ s | .away _ _ s => s

theorem State.fetchGroup_mem (c : Nat) (pc : Addr) (n : Nat) (s : State) (pfx : List Half) (va : Addr) :
    (s.fetchGroup c pc n pfx va).state.mem = s.mem := by
  induction n generalizing s pfx va with
  | zero => rfl
  | succ n ih =>
    unfold State.fetchGroup
    split
    · rfl
    have hf := s.fetchHalf_mem c va.toNat
    split <;> rename_i e <;> rw [e] at hf
    · split
      · split
        · exact hf
        · exact (ih _ _ _).trans hf
      · exact hf
    · split <;> exact hf
    all_goals exact hf

/-- Whatever is ready to run leaves a memory in its canonical form. -/
def Ready.MemOk : Ready → Prop
  | .run _ s | .done s => s.mem.wf = true

theorem State.decodeGroup_memOk {s : State} (h : s.mem.wf = true) (cell : Nat) (unit : ExecUnit) (slot : Nat) (st : Site) :
    (s.decodeGroup cell unit slot st).MemOk := by
  unfold State.decodeGroup
  split
  · simpa [Ready.MemOk] using h
  · simpa [Ready.MemOk] using h

theorem State.readyGroup_memOk {s : State} (h : s.mem.wf = true) (cell : Nat) (unit : ExecUnit) (slot : Nat) (pc : Addr)
    (off : Bool) : (s.readyGroup cell unit slot pc off).MemOk := by
  unfold State.readyGroup
  dsimp only
  split
  · simpa [Ready.MemOk] using h
  split
  · simpa [Ready.MemOk] using h
  split
  · exact State.decodeGroup_memOk h _ _ _ _
  have hf := State.fetchGroup_mem cell pc 6 s [] pc
  split <;> rename_i e <;> rw [e] at hf <;> simp only [GroupFetch.state] at hf
  · exact State.decodeGroup_memOk (by rwa [hf]) _ _ _ _
  · simpa [Ready.MemOk, hf] using h
  · simpa [Ready.MemOk, hf] using h
  · split <;> simpa [Ready.MemOk, hf] using h
  · simpa [Ready.MemOk, hf] using h
  · simpa [Ready.MemOk, hf] using h
  · split <;> simpa [Ready.MemOk, hf] using h

theorem State.readyFrame_memOk {s : State} (h : s.mem.wf = true) (cell slot : Nat) : (s.readyFrame cell slot).MemOk := by
  unfold State.readyFrame
  dsimp only
  split
  · split <;> simpa [Ready.MemOk] using h
  split
  · exact State.readyGroup_memOk h _ _ _ _ _
  · exact h

theorem State.readyEngine_memOk {s : State} (h : s.mem.wf = true) (cell : Nat) (u : EngineUnit) :
    (s.readyEngine cell u).MemOk := by
  unfold State.readyEngine
  split
  · exact h
  split
  · split
    · exact h
    split
    · simpa [Ready.MemOk] using h
    split
    · simpa [Ready.MemOk] using h
    split
    · exact h
    · exact State.readyGroup_memOk (by simpa using h) _ _ _ _ _
  · exact h

theorem State.readyTrace_memOk {s : State} (h : s.mem.wf = true) (k : Nat) : (s.readyTrace k).MemOk := by
  unfold State.readyTrace
  dsimp only
  (repeat' split) <;> simpa [Ready.MemOk] using h

theorem State.settleTrace_wf {s : State} (h : s.mem.wf = true) (k : Nat) : (s.settleTrace k).mem.wf = true := by
  unfold State.settleTrace
  dsimp only
  split
  · exact h
  split
  · simpa using h
  split
  · exact h
  split
  · simpa using h
  split
  all_goals
    next e =>
    have hm := (writeVaWait_keepsMem _ _ _).of_exec h e
    simp [hm, h]

theorem State.tryTrace_wf {s : State} (h : s.mem.wf = true) (k : Nat) : ∀ t ∈ s.tryTrace k, t.mem.wf = true := by
  unfold State.tryTrace
  dsimp only
  split
  · simp
  · simp [State.settleTrace_wf, h]

theorem State.loadProgram_wf {s : State} (h : s.mem.wf = true) (k : Nat) (addr : Addr) :
    (s.loadProgram k addr).mem.wf = true := by
  unfold State.loadProgram
  dsimp only
  generalize hs : (if (s.trace k).loading.isSome then s else _) = s1
  have h1 : s1.mem.wf = true := by
    rw [← hs]
    split
    · exact h
    · split <;> simpa using h
  split
  · simpa using h1
  split
  · exact h1
  split
  · simpa using h1
  split
  all_goals
    next e =>
    have hm := (readVa_keepsMem _ _ _ _).of_exec h1 e
    simp [hm, h1]

/-! ### Elements of shapes -/

theorem straddleStop_keepsMem (w : Who) (va n op : Nat) : (straddleStop w va n op).KeepsMem := by
  unfold straddleStop
  split
  · exact M.keepsMem_pure _
  · refine M.keepsMem_state fun s h => ?_
    exact (M.keepsMem_put (by simpa using h)).bind fun _ => M.keepsMem_stop _

theorem readBits_keepsMem (v : VEnv) (sh : Shape) (e : Nat) : (readBits v sh e).KeepsMem := by
  unfold readBits
  split
  · exact M.keepsMem_state fun s h => M.keepsMem_pure _
  · exact (boundStop_keepsMem _ _ _).bind fun _ => (straddleStop_keepsMem _ _ _ _).bind fun _ =>
      (readVa_keepsMem _ _ _ _).bind fun _ => M.keepsMem_pure _

theorem keepAt_keepsMem (v : VEnv) (key x : Nat) : (keepAt v key x).KeepsMem := by
  unfold keepAt
  split
  · exact M.keepsMem_state fun s h => M.keepsMem_put (by simpa using h)
  · exact M.keepsMem_pure _

theorem keepOld_keepsMem (v : VEnv) (sh : Shape) (e : Nat) : (keepOld v sh e).KeepsMem := by
  refine M.keepsMem_state fun s h => ?_
  split
  · exact keepAt_keepsMem _ _ _
  split
  · refine M.keepsMem_forM (fun i => ?_) _
    split
    · exact keepAt_keepsMem _ _ _
    · exact M.keepsMem_pure _
  · exact M.keepsMem_pure _

theorem readOld_keepsMem (v : VEnv) (sh : Shape) (always : Bool) (e : Nat) : (readOld v sh always e).KeepsMem := by
  refine (readBits_keepsMem _ _ _).bind fun x => M.keepsMem_state fun s h => ?_
  dsimp only
  (repeat' split) <;> exact M.keepsMem_pure _

theorem UWrite.perform_keepsMem (w : Who) (u : UWrite) : (u.perform w).KeepsMem := by
  cases u with
  | acc frag i v => exact M.keepsMem_state fun s h => M.keepsMem_put (by simpa using h)
  | mem va bs nib cls =>
    refine (boundStop_keepsMem _ _ _).bind fun _ => (straddleStop_keepsMem _ _ _ _).bind fun _ => ?_
    split
    · exact writeVaM_keepsMem _ _ _
    · exact (readVa_keepsMem _ _ _ _).bind fun _ => writeVaM_keepsMem _ _ _

theorem readScale_keepsMem (v : VEnv) (sh : Shape) (e : Nat) : (readScale v sh e).KeepsMem :=
  (readVa_keepsMem _ _ _ _).bind fun _ => M.keepsMem_pure _

theorem readNum_keepsMem (v : VEnv) (sh : Shape) (e : Nat) : (readNum v sh e).KeepsMem := by
  unfold readNum
  split
  · exact (readBits_keepsMem _ _ _).bind fun _ => (readBits_keepsMem _ _ _).bind fun _ =>
      (readScale_keepsMem _ _ _).bind fun _ => M.keepsMem_pure _
  · exact (readBits_keepsMem _ _ _).bind fun _ => M.keepsMem_pure _

/-! ### Vector instructions -/

theorem cancelProg_memOk {s : State} (h : s.mem.wf = true) (c : Ctx) : (cancelProg c s).MemOk := by
  simpa [cancelProg] using h

theorem Issued.leave_memOk {r : Issued} (hr : r.MemOk) {s0 : State} (h : s0.mem.wf = true) (c : Ctx) : (r.leave s0 c).MemOk := by
  unfold Issued.leave
  split <;> simp_all

/-- Whatever goes on from a state whose memory is canonical answers such a state. -/
def GoesOn (go : Pending → State → Issued) : Prop := ∀ p t, t.mem.wf = true → (go p t).MemOk

theorem doWrites_memOk (c : Ctx) {go : Pending → State → Issued} (hg : GoesOn go) (ws : List UWrite) (p : Pending) {s : State}
    (h : s.mem.wf = true) : (doWrites c go ws p s).MemOk := by
  induction ws generalizing p s with
  | nil => exact hg _ _ h
  | cons w ws ih =>
    unfold doWrites
    split
    all_goals
      rename_i e
      have hm := (w.perform_keepsMem _).of_exec h e
    · exact ih _ (by simpa using hm)
    · exact ih _ (by simpa using hm)
    · simpa using State.groupWaits_wf h hm _ _

theorem moreWrites_memOk {s : State} (h : s.mem.wf = true) (c : Ctx) (p : Pending) {go : Pending → State → Issued}
    (hg : GoesOn go) : (moreWrites c p s go).MemOk := by
  unfold moreWrites
  split
  · exact doWrites_memOk c hg _ _ (by simpa using h)
  · exact h
  · exact h
  · exact h
  · exact doWrites_memOk c hg _ _ h

theorem settled_memOk {s : State} (h : s.mem.wf = true) (c : Ctx) (p : Pending) {go : Pending → State → Issued}
    (hg : GoesOn go) : (settled c p s go).MemOk := by
  unfold settled
  split
  · simpa using h
  split
  · exact refusalTrap_memOk h _
  · exact hg _ _ h

theorem unitOf_memOk {s : State} (h : s.mem.wf = true) (c : Ctx) (p : Pending) {m : M Pending} (hm : m.KeepsMem)
    {next : Pending → State → Issued} (hg : GoesOn next) : (unitOf c p s m next).MemOk := by
  have done : GoesOn fun p s => if p.err.isSome then settled c p s next else next p s := by
    intro p t ht
    dsimp only
    split
    · exact settled_memOk ht c p hg
    · exact hg _ _ ht
  unfold unitOf
  dsimp only
  split
  · exact moreWrites_memOk h c p done
  split
  · exact settled_memOk h c p hg
  · exact withMemoryKeep_memOk h c (by simp) hm fun q t ht => doWrites_memOk c done _ _ (by simpa using ht)

theorem VEnv.raise_keepsMem (v : VEnv) (f : Flags) : (v.raise f).KeepsMem := by
  unfold VEnv.raise
  split
  · exact M.keepsMem_state fun s h => M.keepsMem_put (by simpa using h)
  · exact M.keepsMem_pure _

theorem VEnv.commit_keepsMem (v : VEnv) (f : Flags) (fs : AL (BitVec 16)) : (v.commit f fs).KeepsMem :=
  (v.raise_keepsMem f).bind fun _ => M.keepsMem_state fun s h => M.keepsMem_put (by simpa using h)

theorem sendGroups_memOk (c : Ctx) (dests : List Shape) (done : Nat) (last : Bool) (n : Nat) (p : Pending) {s : State}
    (h : s.mem.wf = true) {go : Pending → State → Issued} (hg : GoesOn go) :
    (sendGroups c dests done last n p s go).MemOk := by
  induction n generalizing p s with
  | zero => simpa [sendGroups] using h
  | succ n ih =>
    unfold sendGroups
    dsimp only
    split
    · split
      · simpa using h
      split
      · split
        · split
          · split
            · exact cancelProg_memOk h c
            · simpa using h
          · exact h
        · simpa using h
      · exact ih _ (by simpa using h)
    · exact hg _ _ h

theorem cancelCheck_memOk {s : State} (h : s.mem.wf = true) (c : Ctx) (sc : BitVec 32) {go : State → Issued}
    (hg : ∀ t : State, t.mem.wf = true → (go t).MemOk) : (cancelCheck c sc s go).MemOk := by
  unfold cancelCheck
  split
  · simpa using h
  split
  · exact cancelProg_memOk (by simpa using h) c
  · exact hg _ (by simpa using h)

/-- Each unit of a plan keeps the canonical form of the memory. -/
def Plan.KeepsMem (pl : Plan) : Prop := ∀ v fs carry u, (pl.run v fs carry u).KeepsMem

theorem runUnits_memOk {s : State} (h : s.mem.wf = true) (c : Ctx) {pl : Plan} (hp : pl.KeepsMem) (p : Pending) :
    (runUnits c pl p s).MemOk := by
  have last (p : Pending) {t : State} (ht : t.mem.wf = true) :
      (settled c { p with stage := 15 } t (fun _ s => .ok s)).MemOk := settled_memOk ht c _ fun _ _ ht => ht
  unfold runUnits
  dsimp only
  split
  · exact h
  next x e =>
  split
  · exact last p h
  have send (p : Pending) {t : State} (ht : t.mem.wf = true) :
      (sendGroups c pl.dests (pl.made (p.sent + 1)) (decide (pl.units ≤ p.sent + 1)) 2000 p t fun q u =>
        if pl.units ≤ p.sent + 1 then settled c { { q with sent := p.sent + 1 } with stage := 15 } u (fun _ s => .ok s)
        else .stall (u.setPend c { q with stage := 8, sent := p.sent + 1 })).MemOk := by
    refine sendGroups_memOk c _ _ _ _ _ ht fun q u hu => ?_
    dsimp only
    split
    · exact last { q with sent := p.sent + 1 } hu
    · simpa using hu
  split
  · exact send p h
  have run {t : State} (ht : t.mem.wf = true) := unitOf_memOk ht c p
    ((hp (t.venv c x) (t.cell c.cell).vlfsr p.carry p.sent).bind fun o => M.keepsMem_pure { p with
      carry := o.carry, writes := o.writes, ids := p.ids ++ o.outs.map (fun v => 2 * v.2 + v.1) })
    fun p u hu => send { p with stage := 9 } hu
  split
  · exact cancelCheck_memOk h c _ fun t ht => run ht
  · exact run h

/-- Each plan that the shapes may give keeps the canonical form of the memory. -/
def PlansKeepMem (plan : List Shape → Option Plan) : Prop := ∀ shs pl, plan shs = some pl → pl.KeepsMem

theorem vectorBody_memOk {s : State} (h : s.mem.wf = true) (c : Ctx) (regs : List Int) {plan : List Shape → Option Plan}
    (hp : PlansKeepMem plan) : (vectorBody c regs plan s).MemOk := by
  unfold vectorBody
  dsimp only
  refine Issued.leave_memOk (withRecords_memOk h c _ _ fun p t ht => ?_) h c
  split
  · trivial
  split
  · trivial
  next pl e =>
  have hk := hp _ _ e
  split
  · trivial
  have reach (fr : List Nat) {u : State} (hu : u.mem.wf = true) :
      (if (u.reachScore c.cell (u.progId c) fr).admitted c.cell (u.progId c) fr then
          runUnits c pl { p with stage := 8 } ((u.reachScore c.cell (u.progId c) fr).setPend c { p with stage := 8 })
        else .stall ((u.reachScore c.cell (u.progId c) fr).setPend c { p with stage := 7 })).MemOk := by
    split
    · exact runUnits_memOk (by simpa using hu) c hk _
    · simpa using hu
  split
  · split
    · exact reach _ ht
    · exact cancelCheck_memOk ht c _ fun u hu => reach _ hu
  · exact runUnits_memOk ht c hk _

/-! ### Plans -/

theorem plan2_keepsMem {k : Shape → Shape → Option Plan} (h : ∀ d a pl, k d a = some pl → pl.KeepsMem) :
    PlansKeepMem (plan2 k) := by
  intro shs pl e
  unfold plan2 at e
  split at e
  · exact h _ _ _ e
  · cases e

theorem plan3_keepsMem {k : Shape → Shape → Shape → Option Plan} (h : ∀ d a b pl, k d a b = some pl → pl.KeepsMem) :
    PlansKeepMem (plan3 k) := by
  intro shs pl e
  unfold plan3 at e
  split at e
  · exact h _ _ _ _ e
  · cases e

theorem plan4_keepsMem {k : Shape → Shape → Shape → Shape → Option Plan}
    (h : ∀ d a b x pl, k d a b x = some pl → pl.KeepsMem) : PlansKeepMem (plan4 k) := by
  intro shs pl e
  unfold plan4 at e
  split at e
  · exact h _ _ _ _ _ e
  · cases e

theorem onlyIf_keepsMem {b : Bool} {p pl : Plan} (h : p.KeepsMem) (e : onlyIf b p = some pl) : pl.KeepsMem := by
  unfold onlyIf at e
  split at e
  · cases e
    exact h
  · cases e

/-- An iteration that has read commits what it raises and answers its results. -/
theorem commit_pure_keepsMem (v : VEnv) (f : Flags) (fs : AL (BitVec 16)) (o : UnitOut) :
    (v.commit f fs >>= fun _ => pure o).KeepsMem :=
  (v.commit_keepsMem f fs).bind fun _ => M.keepsMem_pure o

theorem elementPlan_keepsMem (d : Shape) (srcs : List Shape) (slow : Bool) (f : VEnv → Nat → List Num → Res) :
    (elementPlan d srcs slow f).KeepsMem := fun v _ _ _ =>
  (M.keepsMem_mapM (fun _ => (M.keepsMem_mapM (fun _ => readNum_keepsMem v _ _) _).bind fun _ => M.keepsMem_pure _) _).bind
    fun _ => commit_pure_keepsMem v _ _ _

theorem patternPlan_keepsMem (d : Shape) (srcs : List Shape) (f : VEnv → List Nat → Nat) :
    (patternPlan d srcs f).KeepsMem := fun v _ _ _ =>
  (M.keepsMem_mapM (fun _ => (M.keepsMem_mapM (fun _ => readBits_keepsMem v _ _) _).bind fun _ => M.keepsMem_pure _) _).bind
    fun _ => commit_pure_keepsMem v _ _ _

theorem toEs4Plan_keepsMem (d a : Shape) : (toEs4Plan d a).KeepsMem := fun v _ _ _ =>
  (M.keepsMem_mapM (fun _ => (M.keepsMem_mapM (fun _ => readNum_keepsMem v _ _) _).bind fun _ =>
    (readScale_keepsMem v _ _).bind fun _ => M.keepsMem_pure _) _).bind fun _ => commit_pure_keepsMem v _ _ _

theorem copyEs4Plan_keepsMem (d a : Shape) : (copyEs4Plan d a).KeepsMem := fun v _ _ _ =>
  (M.keepsMem_mapM (fun _ => (readBits_keepsMem v _ _).bind fun _ => M.keepsMem_pure _) _).bind fun _ =>
    (M.keepsMem_mapM (fun _ => (readScale_keepsMem v _ _).bind fun _ => M.keepsMem_pure _) _).bind fun _ => M.keepsMem_pure _

theorem specialPlan_keepsMem (f : Special) (d a : Shape) : (specialPlan f d a).KeepsMem := fun v _ _ _ =>
  (M.keepsMem_mapM (fun _ => (readNum_keepsMem v _ _).bind fun _ => M.keepsMem_pure _) _).bind
    fun _ => commit_pure_keepsMem v _ _ _

theorem readElems_keepsMem (v : VEnv) (d a : Shape) (es : List Nat) : (readElems v d a es).KeepsMem :=
  M.keepsMem_mapM (fun _ => readOld_keepsMem _ _ _ _) _

theorem VEnv.forget_keepsMem (v : VEnv) : v.forget.KeepsMem := by
  unfold VEnv.forget
  split
  · exact M.keepsMem_state fun s h => M.keepsMem_put (by simpa using h)
  · exact M.keepsMem_pure _

theorem writeOver_keepsMem (v : VEnv) (d : Shape) (rs : List (Nat × Nat)) (carry : List Int) :
    (writeOver v d rs carry).KeepsMem :=
  (M.keepsMem_forM (fun _ => keepOld_keepsMem _ _ _) _).bind fun _ => M.keepsMem_pure _

theorem reducePlan_keepsMem (op : RedOp) (d a : Shape) : (reducePlan op d a).KeepsMem := fun v _ _ _ =>
  (readElems_keepsMem v d a _).bind fun _ => (v.commit_keepsMem _ _).bind fun _ => writeOver_keepsMem v d _ _

theorem scanPlan_keepsMem (op : RedOp) (d a : Shape) : (scanPlan op d a).KeepsMem := by
  unfold scanPlan Plan.KeepsMem
  dsimp only
  intro v fs carry u
  refine (readElems_keepsMem v d a _).bind fun _ => (v.commit_keepsMem _ _).bind fun _ => ?_
  split
  · exact v.forget_keepsMem.bind fun _ => writeOver_keepsMem v d _ _
  · exact writeOver_keepsMem v d _ _

theorem gatherPlan_keepsMem (d a a1 : Shape) : (gatherPlan d a a1).KeepsMem := by
  intro v fs carry u
  refine (M.keepsMem_mapM (fun e => ?_) _).bind fun _ => (v.commit_keepsMem _ _).bind fun _ => writeOver_keepsMem v d _ _
  refine (readOld_keepsMem v _ _ _).bind fun _ => ?_
  dsimp only
  split
  · exact (readOld_keepsMem v _ _ _).bind fun _ => M.keepsMem_pure _
  · exact M.keepsMem_pure _

theorem scatterPlan_keepsMem (d a a1 : Shape) : (scatterPlan d a a1).KeepsMem := fun v _ _ _ =>
  (M.keepsMem_mapM (fun _ => (readBits_keepsMem v _ _).bind fun _ => (readBits_keepsMem v _ _).bind fun _ =>
    M.keepsMem_pure _) _).bind fun _ => commit_pure_keepsMem v _ _ _

theorem topPlan_keepsMem (d a j : Shape) : (topPlan d a j).KeepsMem := fun v _ _ _ =>
  (M.keepsMem_mapM (fun _ => readBits_keepsMem v _ _) _).bind fun _ => commit_pure_keepsMem v _ _ _

theorem binaryPlan_keepsMem (f : VEnv → Num → Num → Res) : PlansKeepMem (binaryPlan f) :=
  plan3_keepsMem fun _ _ _ _ => onlyIf_keepsMem (elementPlan_keepsMem _ _ _ _)

theorem fusedPlan_keepsMem (neg : Bool) : PlansKeepMem (fusedPlan neg) :=
  plan3_keepsMem fun _ _ _ _ => onlyIf_keepsMem (elementPlan_keepsMem _ _ _ _)

theorem divPlan_keepsMem : PlansKeepMem divPlan :=
  plan3_keepsMem fun _ _ _ _ => onlyIf_keepsMem (elementPlan_keepsMem _ _ _ _)

theorem bitwisePlan_keepsMem (f : Nat → Nat → Nat) : PlansKeepMem (bitwisePlan f) :=
  plan3_keepsMem fun _ _ _ _ => onlyIf_keepsMem (patternPlan_keepsMem _ _ _)

theorem shiftPlan_keepsMem (f : Fmt → Nat → Nat → Nat) : PlansKeepMem (shiftPlan f) :=
  plan3_keepsMem fun _ _ _ _ => onlyIf_keepsMem (patternPlan_keepsMem _ _ _)

theorem unaryPlan_keepsMem (f : Num → Res) : PlansKeepMem (unaryPlan f) :=
  plan2_keepsMem fun _ _ _ => onlyIf_keepsMem (elementPlan_keepsMem _ _ _ _)

theorem cvtPlan_keepsMem : PlansKeepMem cvtPlan := by
  refine plan2_keepsMem fun d a pl => onlyIf_keepsMem ?_
  split
  · exact toEs4Plan_keepsMem _ _
  · exact elementPlan_keepsMem _ _ _ _

theorem fillPlan_keepsMem (x : Nat) : PlansKeepMem (fillPlan x) := by
  intro shs pl e
  unfold fillPlan at e
  split at e
  · exact onlyIf_keepsMem (patternPlan_keepsMem _ _ _) e
  · cases e

theorem cpyPlan_keepsMem : PlansKeepMem cpyPlan := by
  refine plan2_keepsMem fun d a pl => onlyIf_keepsMem ?_
  split
  · exact copyEs4Plan_keepsMem _ _
  · exact patternPlan_keepsMem _ _ _

theorem functionPlan_keepsMem (f : Special) : PlansKeepMem (functionPlan f) :=
  plan2_keepsMem fun _ _ _ => onlyIf_keepsMem (specialPlan_keepsMem _ _ _)

theorem comparePlan_keepsMem (f : Num → Num → Bool) : PlansKeepMem (comparePlan f) :=
  plan2_keepsMem fun _ _ _ => onlyIf_keepsMem (elementPlan_keepsMem _ _ _ _)

theorem selPlan_keepsMem : PlansKeepMem selPlan :=
  plan4_keepsMem fun _ _ _ _ _ => onlyIf_keepsMem (patternPlan_keepsMem _ _ _)

theorem redPlan_keepsMem (op : RedOp) : PlansKeepMem (redPlan op) :=
  plan2_keepsMem fun _ _ _ => onlyIf_keepsMem (reducePlan_keepsMem _ _ _)

theorem scaPlan_keepsMem (op : RedOp) : PlansKeepMem (scaPlan op) :=
  plan2_keepsMem fun _ _ _ => onlyIf_keepsMem (scanPlan_keepsMem _ _ _)

theorem vgatPlan_keepsMem : PlansKeepMem vgatPlan :=
  plan3_keepsMem fun _ _ _ _ => onlyIf_keepsMem (gatherPlan_keepsMem _ _ _)

theorem vscaPlan_keepsMem : PlansKeepMem vscaPlan :=
  plan3_keepsMem fun _ _ _ _ => onlyIf_keepsMem (scatterPlan_keepsMem _ _ _)

theorem vtopPlan_keepsMem : PlansKeepMem vtopPlan :=
  plan3_keepsMem fun _ _ _ _ => onlyIf_keepsMem (topPlan_keepsMem _ _ _)

/-! ### Packets -/

theorem State.postedRefused_wf {s : State} (h : s.mem.wf = true) (x : Nat) (f : Flight) (a : Nat) (e : ErrResp) :
    (s.postedRefused x f a e).mem.wf = true := by
  unfold State.postedRefused
  dsimp only
  split
  · simpa using h
  split
  · simpa using h
  · exact State.deadRecord_wf (by simpa using h) _ _ _

theorem State.transferRefusal_wf {s : State} (h : s.mem.wf = true) (x : Nat) (e : ErrResp) :
    (s.transferRefusal x e).mem.wf = true := by
  unfold State.transferRefusal
  split
  · exact h
  dsimp only
  split
  · exact h
  split
  · simpa using h
  · simpa using h
  · exact State.deadRecord_wf (by exact h) _ _ _

theorem State.answerFlight_wf {s : State} (h : s.mem.wf = true) (x : Nat) (f : Flight) (r : Resp) :
    (s.answerFlight x f r).mem.wf = true := by
  unfold State.answerFlight
  dsimp only
  split
  · split
    · exact State.postedRefused_wf h _ _ _ _
    · simpa using h
  · split <;> simpa using h
  · simpa using h
  · simpa using h
  · simpa using h
  · exact State.transferRefusal_wf (by exact h) _ _
  · exact h

theorem State.failRid_wf {s : State} (h : s.mem.wf = true) (rid : BitVec 24) (e : Nat)
    {done : State → Nat → Flight → ErrResp → State} (hd : ∀ x f r, (done s x f r).mem.wf = true) :
    (s.failRid rid e done).mem.wf = true := by
  unfold State.failRid
  split
  · exact hd _ _ _
  · exact h

theorem State.respond_wf {s : State} (h : s.mem.wf = true) (p : Packet) (src : BitVec 24) (status : Nat) (words : List Word)
    (data : List Byte) : (s.respond p src status words data).mem.wf = true := by
  unfold State.respond
  split
  · exact h
  split
  · exact State.failRid_wf h _ _ fun x f r => State.answerFlight_wf h _ _ _
  · simpa using h

theorem State.refusePacket_wf {s : State} (h : s.mem.wf = true) (p : Packet) (code : Nat) (port : Option Nat) :
    (s.refusePacket p code port).mem.wf = true := by
  unfold State.refusePacket
  dsimp only
  split
  · simpa using h
  split
  · split <;> split <;> simpa using h
  split
  · exact State.respond_wf (by simpa using h) _ _ _ _ _
  split
  · simpa using h
  · simpa using h

theorem State.tryForwardPacket_wf {s : State} (h : s.mem.wf = true) (x : Nat) :
    ∀ t ∈ s.tryForwardPacket x, t.mem.wf = true := by
  unfold State.tryForwardPacket
  split
  · simp
  next r e =>
  dsimp only
  split
  · simp
  have egress (p : Packet) (q : Nat) : ∀ t ∈ s.egress x p q, t.mem.wf = true := fun t ht => by
    rwa [State.egress_mem _ _ _ _ t ht]
  have go (c : Bool × Nat × Nat) (refuser : Option Nat) : ∀ t ∈
      (if !c.1 then some ((s.dropPacket x).refusePacket r.pkt 7 refuser)
        else if 9 ≤ r.pkt.hop then some ((s.dropPacket x).refusePacket r.pkt 5 refuser)
        else
          match s.egress x { r.pkt with vrand := c.2.2 } c.2.1 with
          | some t => some t
          | none => if r.route.isNone then some (s.setPacket x { r with route := some c }) else none),
      t.mem.wf = true := by
    split
    · simp [State.refusePacket_wf, h]
    split
    · simp [State.refusePacket_wf, h]
    split
    · next e => simpa using egress _ _ _ e
    · split <;> simp [h]
  split
  · exact egress _ _
  · exact go _ _
  · exact go _ _
  · simp

theorem State.packetCame_wf {s : State} (h : s.mem.wf = true) (x : Nat) (r : PacketRun) (port : Nat) :
    (s.packetCame x r port).mem.wf = true := by
  unfold State.packetCame
  dsimp only
  split
  · exact State.refusePacket_wf (by simpa using h) _ _ _
  split
  · simpa using h
  split
  · simpa using h
  split
  · have hm := (s.dropPacket x).packetCtl_mem (Packet.ofFlits r.pkt.ctxid r.frames)
    split <;> rename_i e <;> rw [e] at hm
    · simp_all
    · exact State.refusePacket_wf (by simp_all) _ _ _
  · simpa using h

theorem State.moreFrames_wf {s : State} (h : s.mem.wf = true) (x : Nat) (fs : List LinkFrame) (port : Nat) :
    (s.moreFrames x fs port).mem.wf = true := by
  unfold State.moreFrames
  split
  · exact h
  dsimp only
  split
  · exact State.packetCame_wf (by simpa using h) _ _ _
  · simpa using h

theorem State.tryAccept_wf {s : State} (h : s.mem.wf = true) (port : Nat) : ∀ t ∈ s.tryAccept port, t.mem.wf = true := by
  unfold State.tryAccept
  dsimp only
  split
  · simp
  (repeat' split) <;> simp [State.moreFrames_wf, h]

theorem State.takeFrame_wf {s : State} (h : s.mem.wf = true) (port : Nat) (fr : LinkFrame) :
    (s.takeFrame port fr).mem.wf = true := by
  unfold State.takeFrame
  dsimp only
  split
  · simpa using h
  split
  · simpa using h
  split
  · exact State.moreFrames_wf (by simpa using h) _ _ _
  · simpa using h

theorem State.receiveFrame_wf {s : State} (h : s.mem.wf = true) (port : Nat) (fr : LinkFrame) :
    (s.receiveFrame port fr).mem.wf = true := by
  unfold State.receiveFrame
  dsimp only
  split
  · simpa using h
  split
  · simpa using h
  split
  · simpa using h
  · exact State.takeFrame_wf (by simpa using h) _ _

theorem State.tryMessage_wf {s : State} (h : s.mem.wf = true) (x : Nat) : ∀ t ∈ s.tryMessage x, t.mem.wf = true := by
  unfold State.tryMessage
  split
  · simp
  dsimp only
  (repeat' split) <;> simp [State.refusePacket_wf, h]

theorem State.servePacket_wf {s : State} (h : s.mem.wf = true) (x kind n : Nat)
    {act : Who → Packet → M (List Word × List Byte)} (ha : ∀ w p, (act w p).KeepsMem) :
    ∀ t ∈ s.servePacket x kind n act, t.mem.wf = true := by
  unfold State.servePacket
  split
  · simp
  next r port e =>
  dsimp only
  split
  · simp
  have refuse {t : State} (ht : t.mem.wf = true) (src : BitVec 24) (k : Nat) :
      ∀ u ∈ some (if r.pkt.mc then (t.dropPacket x).countReplicaAt port else (t.dropPacket x).respond r.pkt src k [] []),
        u.mem.wf = true := by
    split <;> simp [State.respond_wf, ht]
  split
  · exact refuse (by simpa using h) _ _
  split
  · exact refuse (by simpa using h) _ _
  split
  · exact refuse (by simpa using h) _ _
  split
  · exact refuse h _ _
  split
  all_goals
    rename_i e
    have hm := (ha _ _).of_exec h e
  · simp [State.respond_wf, hm]
  · exact refuse hm _ _
  · exact refuse hm _ _
  · simp [hm]
  · simp [h]

theorem State.tryLoad_wf {s : State} (h : s.mem.wf = true) (x : Nat) : ∀ t ∈ s.tryLoad x, t.mem.wf = true := by
  unfold State.tryLoad
  refine State.servePacket_wf h _ _ _ fun w p => ?_
  exact (readVa_keepsMem _ _ _ _).bind fun _ => M.keepsMem_pure _

theorem State.tryStore_wf {s : State} (h : s.mem.wf = true) (x : Nat) : ∀ t ∈ s.tryStore x, t.mem.wf = true := by
  unfold State.tryStore
  refine State.servePacket_wf h _ _ _ fun w p => ?_
  exact (writeVaM_keepsMem _ _ _).bind fun _ => M.keepsMem_pure _

theorem atomicPacket_keepsMem (w : Who) (p : Packet) : (atomicPacket w p).KeepsMem := by
  unfold atomicPacket
  split
  · exact (engineOp_keepsMem _ _ _ _ _).bind fun _ => M.keepsMem_pure _
  · exact (engineOp_keepsMem _ _ _ _ _).bind fun _ => M.keepsMem_pure _
  · exact M.keepsMem_pure _

theorem State.tryAtomicPacket_wf {s : State} (h : s.mem.wf = true) (x : Nat) :
    ∀ t ∈ s.tryAtomicPacket x, t.mem.wf = true := State.servePacket_wf h _ _ _ atomicPacket_keepsMem

theorem State.tryResponse_wf {s : State} (h : s.mem.wf = true) (x : Nat) : ∀ t ∈ s.tryResponse x, t.mem.wf = true := by
  unfold State.tryResponse
  split
  · simp
  dsimp only
  split <;> simp [State.answerFlight_wf, h]

/-! ### Queues of the host -/

/-- A fold keeps the canonical form if each of its steps does. -/
theorem foldl_wf {α : Type} {f : State → α → State} (hf : ∀ (s : State) a, s.mem.wf = true → (f s a).mem.wf = true) (l : List α)
    {s : State} (h : s.mem.wf = true) : (l.foldl f s).mem.wf = true := by
  induction l generalizing s with
  | nil => exact h
  | cons a l ih => exact ih (hf s a h)

/-- The state that an access of a command processor leaves has a memory in its canonical form. -/
def QueueMem.MemOk {α : Type} : QueueMem α → Prop
  | .done _ s | .refused s | .page s | .wait s => s.mem.wf = true

theorem State.queueMem_memOk {α : Type} {s : State} (h : s.mem.wf = true) (q : Nat) (req : FaultReq) {m : M α}
    (hm : m.KeepsMem) : (s.queueMem q req m).MemOk := by
  unfold State.queueMem
  split
  · simpa [QueueMem.MemOk] using h
  · exact h
  · exact h
  · exact h
  split
  all_goals
    rename_i e
    have ht := hm.of_exec h e
    simp [QueueMem.MemOk, ht, h]

theorem State.serveBuiltIn_wf {s : State} (h : s.mem.wf = true) (c k : Nat) (q : InSlot) :
    (s.serveBuiltIn c k q).mem.wf = true := by
  unfold State.serveBuiltIn
  dsimp only
  split
  · have hv := State.verdict_wf h c (lo48 ((q.msg.words[0]?).getD 0))
      (if bits ((q.msg.words[0]?).getD 0) 63 48 = 0 then ((q.msg.words[1]?).getD 0).toNat else 4)
    split <;> rename_i e <;> rw [e] at hv <;> simpa using hv
  · simpa using h

theorem State.tryBuiltIn_wf {s : State} (h : s.mem.wf = true) (m : Nat) : ∀ t ∈ s.tryBuiltIn m, t.mem.wf = true := by
  unfold State.tryBuiltIn
  split
  · exact fun t ht => by rwa [State.serveDoorbell_mem _ _ _ t ht]
  · intro t ht
    obtain ⟨r, -, rfl⟩ := Option.map_eq_some_iff.1 ht
    exact State.serveBuiltIn_wf h _ _ _

theorem State.flushHead_wf {s : State} (h : s.mem.wf = true) (q : Nat) : (s.flushHead q).mem.wf = true := by
  unfold State.flushHead
  dsimp only
  split
  · exact h
  have hm := State.queueMem_memOk h q (.queue q)
    (writeVaWait_keepsMem (s.whoQueue q (.queue q)) (s.queue q).headptr.toNat (leBytes 8 (s.queue q).head.toNat))
  split <;> rename_i e <;> rw [e] at hm <;> simpa [QueueMem.MemOk] using hm

theorem State.readHead_wf {s : State} (h : s.mem.wf = true) (q : Nat) : (s.readHead q).mem.wf = true := by
  unfold State.readHead
  dsimp only
  split
  · exact h
  split
  · simpa using h
  have hm := State.queueMem_memOk h q (.queue q) (readWords_keepsMem (s.whoQueue q (.queue q)) (s.queue q).headAddr.toNat 8 .r)
  split <;> rename_i e <;> rw [e] at hm <;> simpa [QueueMem.MemOk] using hm

theorem State.compareWait_wf {s : State} (h : s.mem.wf = true) (q : Nat) (ws : List Word) :
    (s.compareWait q ws).mem.wf = true := by
  unfold State.compareWait
  have hm := State.queueMem_memOk h q (.wait q) (readWord_keepsMem (s.whoQueue q (.wait q)) (bits (pw ws 1) 47 0) .r)
  split <;> rename_i e <;> rw [e] at hm
  · split <;> simpa [QueueMem.MemOk] using hm
  all_goals simpa [QueueMem.MemOk] using hm

theorem State.reachHead_wf {s : State} (h : s.mem.wf = true) (q : Nat) : (s.reachHead q).mem.wf = true := by
  unfold State.reachHead
  dsimp only
  split
  · split
    · exact h
    split
    · split
      · exact State.compareWait_wf h _ _
      · exact h
    · split <;> simpa using h
    · exact h
  · exact h

theorem State.tryPick_wf {s : State} (h : s.mem.wf = true) (p : Nat) : ∀ t ∈ s.tryPick p, t.mem.wf = true := by
  unfold State.tryPick
  dsimp only
  have h1 := foldl_wf (fun s q h => State.flushHead_wf h q) ((s.queues.filter (fun q => cpOf q.1 == p)).map Prod.fst)
    (s := State.fillSlots p 64 s) (by simpa using h)
  generalize List.foldl State.flushHead _ _ = s1 at h1 ⊢
  have h2 := foldl_wf (f := fun t q => (t.readHead q).reachHead q) (fun s q h => State.reachHead_wf (State.readHead_wf h q) q)
    (s1.cp p).slots h1
  generalize List.foldl _ _ _ = s2 at h2 ⊢
  (repeat' split) <;> simp [h2]

theorem State.signal_wf {s : State} (h : s.mem.wf = true) (q : Nat) (req : FaultReq) (pkt : Addr) {m : M Unit} (hm : m.KeepsMem)
    {go : State → State} (hg : ∀ t : State, (go t).mem = t.mem) : (s.signal q req pkt m go).mem.wf = true := by
  unfold State.signal
  have hq := State.queueMem_memOk h q req hm
  split <;> rename_i e <;> rw [e] at hq <;> simpa [QueueMem.MemOk, hg] using hq

theorem State.completionError_wf {s : State} (h : s.mem.wf = true) (q : Nat) (req : FaultReq) (code : Nat) (ws : List Word)
    (pkt : Addr) {go : State → State} (hg : ∀ t : State, (go t).mem = t.mem) :
    (s.completionError q req code ws pkt go).mem.wf = true := by
  unfold State.completionError
  dsimp only
  split
  · simpa [hg] using h
  · exact State.signal_wf (by simpa using h) _ _ _ (writeVaWait_keepsMem _ _ _) hg

theorem State.tryLaunch_wf {s : State} (h : s.mem.wf = true) (p : Nat) : ∀ t ∈ s.tryLaunch p, t.mem.wf = true := by
  unfold State.tryLaunch
  split
  · simp
  next q e ws _ =>
  dsimp only
  have fail (code : Nat) : ∀ t ∈ some (s.completionError q (.queue q) code ws e.headAddr fun t => t.consumePacket q),
      t.mem.wf = true := by
    simpa using State.completionError_wf h q (.queue q) code ws e.headAddr (by simp)
  split
  · simp
  split
  · exact fail _
  split
  · exact fail _
  split
  · split
    · simp
    · exact fail _
  split
  · simp
  split <;> simp [h]

theorem State.tryStartMsg_wf {s : State} (h : s.mem.wf = true) (p : Nat) : ∀ t ∈ s.tryStartMsg p, t.mem.wf = true := by
  unfold State.tryStartMsg
  split
  · next x l _ =>
    dsimp only
    split
    · split
      · simp
      split
      · simpa using State.completionError_wf h l.queue (.launch x) 5 l.packet l.addr (by simp)
      split
      · simp [h]
      split
      · simp
      · split <;> simp [h]
    · simp
  · simp

theorem State.writeSignal_wf {s : State} (h : s.mem.wf = true) (x : Nat) (l : Launch) : (s.writeSignal x l).mem.wf = true := by
  unfold State.writeSignal
  split
  · simpa using h
  · exact State.signal_wf h _ _ _ (writeVaWait_keepsMem _ _ _) (by simp)

theorem State.tryLaunchEnd_wf {s : State} (h : s.mem.wf = true) (x : Nat) : ∀ t ∈ s.tryLaunchEnd x, t.mem.wf = true := by
  unfold State.tryLaunchEnd
  split
  · simp
  (repeat' split) <;> simp [State.writeSignal_wf, h]

theorem State.tryRecheck_wf {s : State} (h : s.mem.wf = true) (q : Nat) : ∀ t ∈ s.tryRecheck q, t.mem.wf = true := by
  unfold State.tryRecheck
  split <;> simp [State.compareWait_wf, h]

theorem addWord_keepsMem (w : Who) (va : Nat) (v : Word) : (addWord w va v).KeepsMem :=
  (engineOp_keepsMem _ _ _ _ _).bind fun _ => M.keepsMem_pure _

theorem State.trySignal_wf {s : State} (h : s.mem.wf = true) (p : Nat) : ∀ t ∈ s.trySignal p, t.mem.wf = true := by
  intro t ht
  obtain ⟨r, -, rfl⟩ := Option.map_eq_some_iff.1 ht
  refine State.signal_wf h _ _ _ ?_ (by simp)
  split
  · exact addWord_keepsMem _ _ _
  · exact writeVaWait_keepsMem _ _ _

/-! ### Transfers -/

theorem transferBody_memOk {s : State} (h : s.mem.wf = true) (k : XferKind) (c : Ctx) (d a : Int) :
    (transferBody k c d a s).MemOk := by
  unfold transferBody
  dsimp only
  refine withBlock_memOk (by simpa using h) _ _ _ _ fun p t ht => ?_
  generalize (if (xferDescOf p.data).scope = 0 then (t.actC c).naming.scope else (xferDescOf p.data).scope) = sc
  split
  · exact status_memOk ht _ _ _
  split
  · exact status_memOk ht _ _ _
  split
  · exact status_memOk ht _ _ _
  split
  · exact status_memOk ht _ _ _
  refine cancelPoint_memOk ht _ _ _ (status_memOk ht _ _ _) fun p => ?_
  split
  · simpa using ht
  refine mintPoint_memOk ht _ _ _ _ (status_memOk ht _ _ _) fun p => ?_
  split
  · simpa using ht
  · simpa using ht

theorem ncstBody_memOk {s : State} (h : s.mem.wf = true) (c : Ctx) (d a : Int) : (ncstBody c d a s).MemOk := by
  unfold ncstBody
  dsimp only
  split <;> simpa using h

theorem State.tryXferSend_wf {s : State} (h : s.mem.wf = true) (x : Nat) : ∀ t ∈ s.tryXferSend x, t.mem.wf = true := by
  unfold State.tryXferSend
  split
  · simp
  dsimp only
  split
  · simp
  split
  · simp [h]
  split
  · simp [h]
  split
  · simp [State.transferRefusal_wf, h]
  split
  all_goals
    rename_i e
    have hm := (readVa_keepsMem _ _ _ _).of_exec h e
    simp [State.transferRefusal_wf, hm, h]

theorem State.tryReadData_wf {s : State} (h : s.mem.wf = true) (x off : Nat) (data : List Byte) :
    ∀ t ∈ s.tryReadData x off data, t.mem.wf = true := by
  unfold State.tryReadData
  split
  · simp
  dsimp only
  split
  · simp
  split
  · simp [State.transferRefusal_wf, h]
  split
  all_goals
    rename_i e
    have hm := (writeVaWait_keepsMem _ _ _).of_exec h e
    simp [State.transferRefusal_wf, hm, h]

theorem State.arrive_wf {α : Type} {s : State} (h : s.mem.wf = true) (c : Nat) (a : Arrival) (stage : Nat) (f : Field) {m : M α}
    (hm : m.KeepsMem) {go : α → State → State} (hg : ∀ x t, t.mem.wf = true → (go x t).mem.wf = true) :
    (s.arrive c a stage f m go).mem.wf = true := by
  unfold State.arrive
  split
  all_goals
    rename_i e
    have ht := hm.of_exec h e
  · exact hg _ _ (by simpa using ht)
  all_goals simp [ht, h]

theorem M.keepsMem_ite {α : Type} {p : Prop} [Decidable p] {m n : M α} (hm : m.KeepsMem) (hn : n.KeepsMem) :
    (if p then m else n).KeepsMem := by
  split
  · exact hm
  · exact hn

theorem reserveRecord_keepsMem (w : Who) (r : Region) (peer : Nat) (tag : Word) (total : Nat) :
    (reserveRecord w r peer tag total).KeepsMem := by
  have tail (va vb : Nat) (bs ds : List Byte) (o : Option Nat) :
      (writeVaWait w va bs >>= fun _ => writeVaWait w vb ds >>= fun _ => pure o).KeepsMem :=
    (writeVaWait_keepsMem _ _ _).bind fun _ => (writeVaWait_keepsMem _ _ _).bind fun _ => M.keepsMem_pure _
  unfold reserveRecord
  refine (readWord_keepsMem _ _ _).bind fun wr => (readWord_keepsMem _ _ _).bind fun rd => ?_
  dsimp only
  refine M.keepsMem_ite (M.keepsMem_pure _) (M.keepsMem_ite ?_ ?_)
  · exact (writeVaWait_keepsMem _ _ _).bind fun _ => tail _ _ _ _ _
  · exact tail _ _ _ _ _

theorem State.endRecord_wf {s : State} (h : s.mem.wf = true) (c : Nat) (a : Arrival) (f : Field) (r : Region) (i : Inbound) :
    (s.endRecord c a f r i).mem.wf = true :=
  State.arrive_wf h _ _ _ _ (writeVaWait_keepsMem _ _ _) fun _ t ht => by simpa using ht

theorem State.fillRecord_wf {s : State} (h : s.mem.wf = true) (c : Nat) (a : Arrival) (f : Field) (r : Region) (i : Inbound)
    (off : Nat) (data : List Byte) : (s.fillRecord c a f r i off data).mem.wf = true := by
  refine State.arrive_wf h _ _ _ _ (writeVaWait_keepsMem _ _ _) fun _ t ht => ?_
  dsimp only
  split
  · exact State.endRecord_wf (by simpa using ht) _ _ _ _ _
  · simpa using ht

theorem State.place_wf {s : State} (h : s.mem.wf = true) (c peer stage : Nat) (a : Arrival) :
    (s.place c peer stage a).mem.wf = true := by
  cases a with
  | write key off data last =>
    unfold State.place
    dsimp only
    split
    · simpa using h
    split
    · simpa using h
    refine State.arrive_wf h _ _ _ _ (writeVaWait_keepsMem _ _ _) fun _ t ht => ?_
    split <;> simpa using ht
  | read key off len =>
    unfold State.place
    dsimp only
    split
    · simpa using h
    split
    · simpa using h
    exact State.arrive_wf h _ _ _ _ (readVa_keepsMem _ _ _ _) fun _ t ht => by simpa using ht
  | send key tag msg total off data =>
    unfold State.place
    dsimp only
    split
    · simpa using h
    split
    · simpa using h
    split
    · split
      · exact State.endRecord_wf h _ _ _ _ _
      · exact State.fillRecord_wf h _ _ _ _ _ _ _
    refine State.arrive_wf h _ _ _ _ (reserveRecord_keepsMem _ _ _ _ _) fun _ t ht => ?_
    split
    · simpa using ht
    · exact State.fillRecord_wf (by simpa using ht) _ _ _ _ _ _ _

theorem State.tryArrival_wf {s : State} (h : s.mem.wf = true) (p : PeerPacket) (a : Arrival) :
    ∀ t ∈ s.tryArrival p a, t.mem.wf = true := by
  unfold State.tryArrival
  dsimp only
  (repeat' split) <;> simp [State.place_wf, h]

/-! ### Sections of an image -/

theorem State.copySection_wf {s : State} (h : s.mem.wf = true) (f : Field) (x : Section) : (s.copySection f x).mem.wf = true := by
  unfold State.copySection
  have fold (l : List (Nat × Nat)) (acc : State × Nat) (ha : acc.1.mem.wf = true) :
      (l.foldl (fun (acc : State × Nat) p =>
        (match s.imagePlace f p.1 with
          | some a => acc.1.writeFlat a (s.mem.bytes (x.flat + acc.2) p.2)
          | none => acc.1, acc.2 + p.2)) acc).1.mem.wf = true := by
    induction l generalizing acc with
    | nil => exact ha
    | cons p l ih =>
      refine ih _ ?_
      dsimp only
      split
      · exact State.writeFlat_wf ha _ _
      · exact ha
  exact fold _ _ h

theorem State.copyNear_wf {s : State} (h : s.mem.wf = true) (f : Field) (xs : List Section) : (s.copyNear f xs).mem.wf = true :=
  foldl_wf (fun _ _ ht => Memory.wf_block _ _ _ ht) _ h

/-! ### Matrix instructions -/

theorem MatCheck.go_memOk {α : Type} (r : MatCheck α) (c : Ctx) {s : State} (h : s.mem.wf = true) {k : α → Issued}
    (hk : ∀ x, (k x).MemOk) : (r.go c s k).MemOk := by
  cases r with
  | ok x => exact hk x
  | reserved => trivial
  | align va => trivial
  | straddle va n => simpa [MatCheck.go] using h

theorem withDescs_memOk {s : State} (h : s.mem.wf = true) (c : Ctx) (as : List Addr) {k : Pending → State → Issued}
    (hk : GoesOn k) : (withDescs c as s k).MemOk :=
  withRecords_memOk h c _ _ fun p t ht => hk p _ (by simpa using ht)

theorem withScore_memOk {s : State} (h : s.mem.wf = true) (c : Ctx) (frags : List Nat) (p : Pending)
    {k : Pending → State → Issued} (hk : GoesOn k) : (withScore c frags p s k).MemOk := by
  have reach {t : State} (ht : t.mem.wf = true) :
      (if (t.reachScore c.cell (t.progId c) frags).admitted c.cell (t.progId c) frags then
          k { p with stage := 8 } ((t.reachScore c.cell (t.progId c) frags).setPend c { p with stage := 8 })
        else .stall ((t.reachScore c.cell (t.progId c) frags).setPend c { p with stage := 7 })).MemOk := by
    split
    · exact hk _ _ (by simpa using ht)
    · simpa using ht
  unfold withScore
  dsimp only
  split
  · split
    · exact cancelCheck_memOk h c _ fun t ht => reach ht
    · exact reach h
  · exact hk _ _ h

/-- What ends an instruction leaves the memory. -/
def KeepsMemory (fin : State → State) : Prop := ∀ t, (fin t).mem = t.mem

theorem nextUnit_memOk {s : State} (h : s.mem.wf = true) (c : Ctx) (p : Pending) (total : Nat) {fin : State → State}
    (hf : KeepsMemory fin) : (nextUnit c p total s fin).MemOk := by
  unfold nextUnit
  dsimp only
  split
  · exact settled_memOk h c _ fun _ t ht => by simpa [hf t] using ht
  · simpa using h

theorem atUnit_memOk {s : State} (h : s.mem.wf = true) (c : Ctx) {go : State → Issued}
    (hg : ∀ t : State, t.mem.wf = true → (go t).MemOk) : (atUnit c s go).MemOk := cancelCheck_memOk h c _ hg

theorem matUnit_memOk {s : State} (h : s.mem.wf = true) (c : Ctx) (p : Pending) (total : Nat) {m : State → M Pending}
    (hm : ∀ t : State, (m t).KeepsMem) {fin : State → State} (hf : KeepsMemory fin) :
    (matUnit c p s total m fin).MemOk := by
  have run (t : State) (ht : t.mem.wf = true) : (unitOf c p t (m t) fun p s => nextUnit c p total s fin).MemOk :=
    unitOf_memOk ht c p (hm t) fun p u hu => nextUnit_memOk hu c p total hf
  unfold matUnit
  dsimp only
  split
  · exact settled_memOk h c p fun _ t ht => by simpa [hf t] using ht
  split
  · exact run s h
  · exact atUnit_memOk h c run

theorem msclBody_memOk {s : State} (h : s.mem.wf = true) (c : Ctx) (a b : Nat) : (msclBody c a b s).MemOk := by
  unfold msclBody
  dsimp only
  split
  · trivial
  split
  · trivial
  refine matUnit_memOk h c _ _ (fun t => M.keepsMem_ite (M.keepsMem_pure _) ?_) fun _ => rfl
  refine (readVa_keepsMem _ _ _ _).bind fun bs => M.keepsMem_state fun u hu => ?_
  refine (M.keepsMem_put ?_).bind fun _ => M.keepsMem_pure _
  rw [State.dropLatch_mem, foldl_mem (by simp)]
  exact hu

theorem PlaneJob.load_keepsMem (j : PlaneJob) (v : VEnv) (y : Nat) : (j.load v y).KeepsMem := by
  unfold PlaneJob.load
  refine (M.keepsMem_mapM (fun _ => readBits_keepsMem _ _ _) _).bind fun _ => ?_
  dsimp only
  refine M.keepsMem_ite ((M.keepsMem_pure _).bind fun _ => M.keepsMem_pure _) ?_
  exact (M.keepsMem_mapM (fun _ => (readVa_keepsMem _ _ _ _).bind fun _ => M.keepsMem_pure _) _).bind fun _ => M.keepsMem_pure _

theorem PlaneJob.listFits_keepsMem (j : PlaneJob) (v : VEnv) : (j.listFits v).KeepsMem := by
  unfold PlaneJob.listFits
  refine M.keepsMem_ite ?_ (M.keepsMem_pure _)
  exact (M.keepsMem_mapM (fun _ => (j.load_keepsMem v _).bind fun _ => M.keepsMem_pure _) _).bind fun _ =>
    straddleStop_keepsMem _ _ _ _

theorem PlaneJob.run_keepsMem (j : PlaneJob) (v : VEnv) (y : Nat) (outs : List Nat) : (j.run v y outs).KeepsMem := by
  have row (o : PlaneRow → List Nat × List UWrite) : (j.load v y >>= fun r => v.raise r.flags >>= fun _ => M.state >>= fun s =>
      M.put (j.unlatch v.who.cell (j.entries v.who.cell y r s)) >>= fun _ => (pure (o r) : M _)).KeepsMem :=
    (j.load_keepsMem v y).bind fun _ => (v.raise_keepsMem _).bind fun _ => M.keepsMem_state fun _ h =>
      (M.keepsMem_put (by simpa using h)).bind fun _ => M.keepsMem_pure _
  unfold PlaneJob.run
  exact M.keepsMem_ite ((j.listFits_keepsMem v).bind fun _ => row _) (row _)

theorem mplaneBody_memOk {s : State} (h : s.mem.wf = true) (c : Ctx) (x : Prog) (a b : Nat) : (mplaneBody c x a b s).MemOk :=
  withDescs_memOk h c _ fun p _ ht => MatCheck.go_memOk _ c ht fun j => matUnit_memOk ht c p _
    (fun _ => (j.run_keepsMem _ _ _).bind fun _ => M.keepsMem_pure _) fun _ => rfl

theorem readOutliers_keepsMem (w : Who) (va : Addr) (limit : Nat) (isA : Bool) : (readOutliers w va limit isA).KeepsMem := by
  unfold readOutliers
  refine M.keepsMem_ite (M.keepsMem_pure _) ((readVa_keepsMem _ _ _ _).bind fun _ => ?_)
  refine M.keepsMem_ite (M.keepsMem_pure _) ((straddleStop_keepsMem _ _ _ _).bind fun _ => ?_)
  exact (readVa_keepsMem _ _ _ _).bind fun _ => M.keepsMem_pure _

theorem readA_keepsMem (s : State) (c : Nat) (w : Who) (f : OpFmt) (off : Nat) (d : PlaneDesc) :
    (readA s c w f off d).KeepsMem := by
  unfold readA
  refine (readVa_keepsMem _ _ _ _).bind fun _ => ?_
  exact M.keepsMem_ite ((readOutliers_keepsMem _ _ _ _).bind fun _ => M.keepsMem_pure _) (M.keepsMem_pure _)

theorem readB_keepsMem (s : State) (c : Nat) (w : Who) (f : OpFmt) (code : BitVec 9) (off : Nat) (d : PlaneDesc) :
    (readB s c w f code off d).KeepsMem := by
  unfold readB
  dsimp only
  generalize (match (s.cell c).latch with | some l => _ | none => none) = held
  split
  · exact M.keepsMem_pure _
  refine (readVa_keepsMem _ _ _ _).bind fun _ => ?_
  exact M.keepsMem_ite ((readOutliers_keepsMem _ _ _ _).bind fun _ => M.keepsMem_pure _) (M.keepsMem_pure _)

theorem TileJob.read_keepsMem (j : TileJob) (s : State) (c : Nat) (x : Prog) (w : Who) : (j.read s c x w).KeepsMem := by
  unfold TileJob.read
  split
  · refine (readA_keepsMem _ _ _ _ _ _).bind fun ra => (readB_keepsMem _ _ _ _ _ _ _).bind fun rb => ?_
    split <;> exact M.keepsMem_pure _
  · refine (readB_keepsMem _ _ _ _ _ _ _).bind fun rb => ?_
    split <;> exact M.keepsMem_pure _

theorem runTile_memOk {s : State} (h : s.mem.wf = true) (c : Ctx) (m : MatRun) (p : Pending) : (runTile c m p s).MemOk :=
  atUnit_memOk h c fun t ht => nextUnit_memOk (by simpa using ht) c p _ fun _ => rfl

theorem mmulBody_memOk {s : State} (h : s.mem.wf = true) (c : Ctx) (x : Prog) (a b : Nat) : (mmulBody c x a b s).MemOk := by
  refine withDescs_memOk h c _ fun p t ht => ?_
  split
  · next m _ => exact withScore_memOk ht c _ p fun p u hu => runTile_memOk hu c m p
  refine MatCheck.go_memOk _ c ht fun j => ?_
  refine withMemory_memOk (by simpa using ht) c (j.read_keepsMem _ _ _ _) fun r u hu => ?_
  split
  · trivial
  · next m l => exact withScore_memOk (by simpa using hu) c _ _ fun p u hu => runTile_memOk hu c m p

theorem joinGang_memOk {s : State} (h : s.mem.wf = true) (c : Ctx) (p : Pending) : (joinGang c p s).MemOk := by
  unfold joinGang
  split
  · exact cancelCheck_memOk h c _ fun t ht => by simpa using ht
  · simpa [arriveGang] using h

theorem awaitGang_memOk {s : State} (h : s.mem.wf = true) (c : Ctx) (sc : BitVec 32) : (awaitGang c sc s).MemOk := by
  unfold awaitGang
  dsimp only
  split
  · exact h
  split
  · simpa using h
  split
  · exact cancelProg_memOk (by simpa using h) c
  · simpa using h

theorem mgangBody_memOk {s : State} (h : s.mem.wf = true) (c : Ctx) (x : Prog) (a b : Nat) : (mgangBody c x a b s).MemOk := by
  refine withDescs_memOk h c _ fun p t ht => ?_
  dsimp only
  split
  · exact awaitGang_memOk ht c _
  split
  · next m _ =>
    refine withScore_memOk ht c _ p fun p u hu => ?_
    split
    · exact joinGang_memOk hu c p
    · exact runTile_memOk hu c m p
  refine MatCheck.go_memOk _ c ht fun j => ?_
  have reach (m : MatRun) (l : List Nat) {u : State} (hu : u.mem.wf = true) : (withScore c [m.frag] { p with mat := some m, ids := l }
      (u.setPend c { p with mat := some m, ids := l }) fun p s => joinGang c p s).MemOk :=
    withScore_memOk (by simpa using hu) c _ _ fun p u hu => joinGang_memOk hu c p
  generalize hr : withMemory c _ _ _ = r
  have read : r.MemOk := by
    rw [← hr]
    refine withMemory_memOk (by simpa using ht) c (j.read_keepsMem _ _ _ _) fun r u hu => ?_
    split
    · trivial
    · next m l => exact reach m [] (by simpa using hu)
  split
  · exact reach _ _ read
  · exact read

theorem StoreJob.writes_keepsMem (j : StoreJob) (v : VEnv) (r : List (Nat × Nat) × Flags × AL (BitVec 16)) :
    (j.writes v r).KeepsMem :=
  (v.raise_keepsMem _).bind fun _ => M.keepsMem_state fun _ h =>
    (M.keepsMem_put (by simpa using h)).bind fun _ => M.keepsMem_pure _

theorem mstBody_memOk {s : State} (h : s.mem.wf = true) (c : Ctx) (x : Prog) (a b : Nat) : (mstBody c x a b s).MemOk := by
  refine withDescs_memOk h c _ fun p t ht => MatCheck.go_memOk _ c ht fun j => ?_
  refine withScore_memOk ht c _ p fun p u hu => ?_
  refine matUnit_memOk hu c p _ (fun t => (j.writes_keepsMem _ _).bind fun _ => M.keepsMem_pure _) fun t => ?_
  split
  · exact State.clearFrag_mem _ _ _
  · rfl

/-! ### Fields that are saved, loaded and recovered -/

theorem foldl_block_wf {α : Type} (a : α → Nat) (n : Nat) (ps : α → List (Nat × List Byte)) (l : List α) {m : Memory}
    (h : m.wf = true) : (l.foldl (fun m p => m.block (a p) n (ps p)) m).wf = true := by
  induction l generalizing m with
  | nil => exact h
  | cons p l ih => exact ih (Memory.wf_block _ _ _ h)

theorem State.writeArea_wf {s : State} (h : s.mem.wf = true) (x : FieldCtx) (area : Addr) : (s.writeArea x area).mem.wf = true :=
  foldl_block_wf _ _ _ _ (Memory.wf_block _ _ _ h)

theorem State.saveField_wf {s : State} (h : s.mem.wf = true) (x : Field) : (s.saveField x).mem.wf = true := by
  have hs := State.writeArea_wf (s := (s.gangs.filter (fun g => g.1 % 64 == x.ctx.field)).foldl (fun t g => t.withdraw g.1) s)
    (by rwa [foldl_mem (by simp)]) x.ctx x.ctx.save
  unfold State.saveField
  exact hs

theorem State.restoreField_wf {s : State} (h : s.mem.wf = true) (x : FieldCtx) (segs : List Seg) (v : Saved) :
    (s.restoreField x segs v).mem.wf = true :=
  foldl_wf (fun _ _ ht => Memory.wf_block _ _ _ (by simpa using ht)) _ (by simpa using h)

theorem State.enterField_wf {s : State} (h : s.mem.wf = true) (x : FieldCtx) : (s.enterField x).mem.wf = true := by
  unfold State.enterField
  dsimp only
  rw [State.answerMgmt_mem, State.unpause_mem]
  split
  · exact State.restoreField_wf h _ _ _
  · simpa using h

theorem State.restart_wf (s : State) (m : PowerMode) : (s.restart m).mem.wf = true := rfl

theorem State.failLaunch_wf {s : State} (h : s.mem.wf = true) (r : Recovery) (x : Nat) (l : Launch) :
    (s.failLaunch r x l).mem.wf = true := by
  refine State.completionError_wf h _ _ _ _ _ fun t => ?_
  dsimp only
  (repeat' split) <;> simp

theorem State.recoveryMove_wf {s : State} (h : s.mem.wf = true) (f : Nat) (contained : Bool) :
    ∀ t ∈ s.recoveryMove f contained, t.mem.wf = true := by
  unfold State.recoveryMove
  split
  · split
    · simp
    split
    · (repeat' split) <;> simp [h]
    · split
      · simp [State.failLaunch_wf, h]
      · simp only [Option.mem_some_iff, forall_eq']
        rw [foldl_mem (by simp)]
        exact h
    · simp
  · simp

/-! ### What an arm of the dispatcher does -/

/-- From `s` the machine goes on to a next state, and keeps the canonical form of its memory. -/
def Steps (s : State) (o : Out) : Prop := ∃ t, o = .next t ∧ (s.mem.wf = true → t.mem.wf = true)

theorem steps_next {s t : State} (h : s.mem.wf = true → t.mem.wf = true) : Steps s (.next t) := ⟨t, rfl, h⟩

theorem steps_frame {s t : State} (h : t.mem = s.mem) : Steps s (.next t) := steps_next fun hs => by rwa [h]

theorem steps_happen {s : State} {r : Option State} (h : s.mem.wf = true → ∀ t ∈ r, t.mem.wf = true) :
    Steps s (happen s r) := by
  cases r with
  | none => exact steps_next id
  | some t => exact steps_next fun hs => h hs t rfl

theorem steps_happen_frame {s : State} {r : Option State} (h : ∀ t ∈ r, t.mem = s.mem) : Steps s (happen s r) :=
  steps_happen fun hs t ht => by rwa [h t ht]

theorem steps_issue {s : State} {c : Ctx} {forced : Forced} {touched reads dests : List Int} {body : State → Issued}
    (hb : ∀ t : State, t.mem.wf = true → (body t).MemOk) : Steps s (issueWith s c forced touched reads dests body) := by
  obtain ⟨t, e⟩ := issueWith_next s c forced touched reads dests body
  exact ⟨t, e, fun h => issueWith_memOk h c forced touched reads dests hb t e⟩

/-- A group issues, and whatever it does keeps the canonical form of the memory. -/
def GroupArm (f : State → Out) : Prop := ∃ k : State → Ctx → Out, (∀ s, f s = withGroup s (k s)) ∧ ∀ s c, Steps s (k s c)

/-- A word of a program runs on the trace core that executes. -/
def TraceArm (f : State → Out) : Prop := ∃ i, ∀ s, f s = traceInstr i s

theorem groupArm {k : State → Ctx → Out} (h : ∀ s c, Steps s (k s c)) : GroupArm fun s => withGroup s (k s) :=
  ⟨k, fun _ => rfl, h⟩

/-- What the dispatcher does for an instruction: a group issues, a word of a trace core runs there, and a step without a word goes on
from every state. -/
inductive Arm (i : Instr) : Prop
  | group {g : Group} {f : State → Out} (hg : encodeGroup i = some g) (hw : encodeGorivo i = none) (e : ∀ s, exec i s = f s)
      (a : GroupArm f)
  | trace {w : BitVec 32} {f : State → Out} (hg : encodeGroup i = none) (hw : encodeGorivo i = some w) (e : ∀ s, exec i s = f s)
      (a : TraceArm f)
  | event {f : State → Out} (hn : i.encoded = false) (e : ∀ s, exec i s = f s) (a : ∀ s, Steps s (f s))

/-! ### Groups -/

theorem alu3_arm (r : Rel) (d a b : RegNum) (f : Word → Word → Word) : GroupArm fun s => alu3 s r d a b f :=
  groupArm fun _ _ => steps_issue fun _ h => by simpa using h

theorem alu2_arm (r : Rel) (d a : RegNum) (f : Word → Word → Word) : GroupArm fun s => alu2 s r d a f :=
  groupArm fun _ _ => steps_issue fun _ h => by simpa using h

theorem alu1_arm (r : Rel) (d a : RegNum) (f : Word → Word) : GroupArm fun s => alu1 s r d a f :=
  groupArm fun _ _ => steps_issue fun _ h => by simpa using h

theorem aluI_arm (r : Rel) (d : RegNum) (f : Word → Word) : GroupArm fun s => aluI s r d f :=
  groupArm fun _ _ => steps_issue fun _ h => by simpa using h

theorem loadInstr_arm (r : Rel) (t : Attr) (d n : RegNum) (off : BitVec 40) (l : BitVec 4) (k : Nat) (signed : Bool) :
    GroupArm fun s => loadInstr s r t d n off l k signed :=
  groupArm fun _ _ => steps_issue fun _ h => loadBody_memOk h _ _ _ _ _ _ _ _ _ _

theorem storeInstr_arm (r : Rel) (t : Attr) (wd : Width) (v n : RegNum) (off : BitVec 40) (rel : Bool) :
    GroupArm fun s => storeInstr s r t wd v n off rel :=
  groupArm fun _ _ => steps_issue fun _ h => storeBody_memOk h _ _ _ _ _ _ _ _

theorem atomInstr_arm (op : AtomOp) (r : Rel) (t : Attr) (f : AtomForm) (a b : RegNum) (l : BitVec 4) :
    GroupArm fun s => atomInstr s op r t f a b l := by
  refine groupArm fun s c => ?_
  dsimp only
  split
  · exact steps_issue fun _ h => postedBody_memOk h _ _ _ _ _ _
  · exact steps_issue fun _ h => returningBody_memOk h _ _ _ _ _ _ _

theorem frontInstr_arm (op : FrontOp) (r : Rel) (t : Attr) (a b : RegNum) (l : BitVec 4) :
    GroupArm fun s => frontInstr s op r t a b l := by
  refine groupArm fun s c => ?_
  dsimp only
  split <;> exact steps_issue fun _ h => frontBody_memOk h _ _ _ _ _ _ _

theorem sendInstr_arm (r : Rel) (t : Attr) (k : SendKind) (d a b : RegNum) : GroupArm fun s => sendInstr s r t k d a b :=
  groupArm fun _ _ => steps_issue fun _ h => sendBody_memOk h _ _ _ _ _ _

theorem tagInstr_arm (r : Rel) (d a : RegNum) (f : Word → TagEntry → TagEntry) : GroupArm fun s => tagInstr s r d a f :=
  groupArm fun _ _ => steps_issue fun _ h => by simpa using h

theorem branch1_arm (r : Rel) (a : RegNum) (off : BitVec 46) (cond : Word → Bool) : GroupArm fun s => branch1 s r a off cond :=
  groupArm fun _ _ => steps_issue fun _ h => by split <;> exact h

theorem branch2_arm (r : Rel) (a b : RegNum) (off : BitVec 10) (cond : Word → Word → Bool) :
    GroupArm fun s => branch2 s r a b off cond :=
  groupArm fun _ _ => steps_issue fun _ h => by split <;> exact h

theorem crOp_arm (r : Rel) (d : RegNum) (n : BitVec 12) (rm mix : Word → Word → Word) :
    GroupArm fun s => crOp s r d n rm mix :=
  groupArm fun _ _ => steps_issue fun _ h => by simpa using h

theorem vectorInstr_arm (regs : List Nat) {plan : List Shape → Option Plan} (hp : PlansKeepMem plan) :
    GroupArm fun s => vectorInstr s regs plan :=
  groupArm fun _ _ => steps_issue fun _ h => vectorBody_memOk h _ _ hp

theorem matrixInstr_arm (regs : List Nat) {body : Ctx → Prog → State → Issued}
    (hb : ∀ c x (s : State), s.mem.wf = true → (body c x s).MemOk) : GroupArm fun s => matrixInstr s regs body := by
  refine groupArm fun s c => steps_issue fun t h => ?_
  split
  · exact Issued.leave_memOk (hb _ _ _ h) h _
  · exact h

theorem transferInstr_arm (k : XferKind) (r : Rel) (d a : RegNum) : GroupArm (transferInstr k r d a) :=
  groupArm fun _ _ => steps_issue fun _ h => transferBody_memOk h _ _ _ _

theorem execIfence_arm : GroupArm execIfence := by
  refine groupArm fun s c => steps_issue fun t h => ?_
  dsimp only
  (repeat' split) <;> simpa using h

theorem execLp_arm (off : BitVec 50) : GroupArm (execLp off) := by
  refine groupArm fun s c => ?_
  dsimp only
  split
  all_goals
    refine steps_issue fun t h => ?_
    (repeat' split) <;> simpa using h

/-- A pair that begins at an odd register traps before it reads anything. -/
theorem steps_oddPair {s : State} {c : Ctx} {r : Int} {x : Issued} (e : oddPair r = some x) (forced : Forced) :
    Steps s (issue s c forced [] [] fun _ => x) := steps_issue fun _ _ => oddPair_memOk r x e

theorem execLdp_arm (r : Rel) (t : Attr) (d n : RegNum) (off : BitVec 40) (l : BitVec 4) : GroupArm (execLdp r t d n off l) := by
  refine groupArm fun s c => ?_
  dsimp only
  split
  · next e => exact steps_oddPair e _
  · exact steps_issue fun _ h => loadBody_memOk h _ _ _ _ _ _ _ _ _ _

theorem execStp_arm (r : Rel) (t : Attr) (v n : RegNum) (off : BitVec 40) : GroupArm (execStp r t v n off) := by
  refine groupArm fun s c => ?_
  dsimp only
  split
  · next e => exact steps_oddPair e _
  · exact steps_issue fun _ h => storeBody_memOk h _ _ _ _ _ _ _ _

theorem execPf_arm (r : Rel) (t : Attr) (n : RegNum) (off : BitVec 40) : GroupArm (execPf r t n off) := by
  refine groupArm fun s c => steps_issue fun u h => ?_
  split
  · trivial
  · simpa using h

theorem execSclaim_arm (r : Rel) (d : RegNum) : GroupArm (execSclaim r d) := by
  refine groupArm fun s c => steps_issue fun t h => ?_
  dsimp only
  split
  · exact State.ask_memOk h _ _ _ _
  · split <;> simpa using h

theorem execCopy_arm (r : Rel) (d a : RegNum) : GroupArm (execCopy r d a) := by
  refine groupArm fun s c => steps_issue fun t h => ?_
  cases c.unit with
  | scalar => exact copyScalar_memOk h _ _ _
  | engine u => exact copyProg_memOk h _ _ _

theorem execQfence_arm (r : Rel) (d a : RegNum) : GroupArm (execQfence r d a) := by
  refine groupArm fun s c => steps_issue fun t h => ?_
  cases c.unit with
  | scalar => exact qfenceScalar_memOk h _ _ _
  | engine u => exact qfenceProg_memOk h _ _ _

theorem execMzero_arm (a : ERegNum) : GroupArm (execMzero a) := by
  refine matrixInstr_arm _ fun c x s h => ?_
  dsimp only
  split
  · trivial
  · refine withScore_memOk h _ _ _ fun _ t ht => ?_
    rw [Issued.memOk_ok, foldl_mem (by simp)]
    exact ht

/-- A fold that carries a flag along leaves the memory if each of its steps does. -/
theorem foldl_fst_mem {α : Type} {f : State × Bool → α → State × Bool} (hf : ∀ x a, (f x a).1.mem = x.1.mem) (l : List α)
    (x : State × Bool) : (l.foldl f x).1.mem = x.1.mem := by
  induction l generalizing x with
  | nil => rfl
  | cons a l ih => exact (ih _).trans (hf x a)

theorem raiseClear_memOk {s : State} (h : s.mem.wf = true) (c : Ctx) (fl : Flags) (p : Prop) [Decidable p] (k f : Nat) :
    (Issued.ok (if p then (s.progRaise c fl).clearFrag k f else s.progRaise c fl)).MemOk := by
  split <;> simpa using h

theorem execMacc_arm (a b : ERegNum) : GroupArm (execMacc a b) := by
  refine matrixInstr_arm _ fun c x s h => ?_
  dsimp only
  split
  · trivial
  · refine withScore_memOk h _ _ _ fun _ t ht => raiseClear_memOk ?_ _ _ _ _ _
    rw [foldl_fst_mem]
    · exact ht
    · intro x i
      split <;> simp

/-! ### Steps without a word -/

theorem map_mem {α : Type} {s : State} {r : Option α} {f : α → State} (h : ∀ x, (f x).mem = s.mem) :
    ∀ t ∈ r.map f, t.mem = s.mem := by
  intro t ht
  obtain ⟨x, -, rfl⟩ := Option.map_eq_some_iff.1 ht
  exact h x

theorem execFaultResolve_steps (x : Nat) (s : State) : Steps s (execFaultResolve x s) :=
  steps_happen_frame (map_mem fun p => by rw [foldl_mem (by simp)])

theorem execFaultRefuse_steps (x : Nat) (s : State) : Steps s (execFaultRefuse x s) := by
  refine steps_happen fun h t ht => ?_
  obtain ⟨p, -, rfl⟩ := Option.map_eq_some_iff.1 ht
  exact foldl_wf (fun u b hu => State.refuseReq_wf hu b) _ h

theorem execNopPacket_steps (p : Nat) (s : State) : Steps s (execNopPacket p s) :=
  steps_happen_frame (map_mem fun r => by simp)

theorem execTollRecover_steps (q : Nat) (s : State) : Steps s (execTollRecover q s) := by
  refine steps_happen_frame fun t ht => ?_
  obtain ⟨u, hu, rfl⟩ := Option.map_eq_some_iff.1 ht
  simpa using State.tryRecover_mem s q u hu

theorem execDoorbell_steps (node queue tail : Nat) (s : State) : Steps s (execDoorbell node queue tail s) := by
  refine steps_frame ?_
  cases e : s.ring (BitVec.ofNat 12 node) queue (BitVec.ofNat 32 tail) with
  | none => simp
  | some t => exact State.ring_mem _ _ _ _ t e

theorem execLoadFieldContext_steps (rec : Addr) (s : State) : Steps s (execLoadFieldContext rec s) := by
  refine steps_next fun h => ?_
  split
  · simpa using h
  · dsimp only
    (repeat' split) <;> simp [State.enterField_wf, h]

theorem execSegmentTableLoad_steps (f : Nat) (s : State) : Steps s (execSegmentTableLoad f s) :=
  steps_frame (by (repeat' split) <;> simp)

theorem execImageLoad_steps (f : Nat) (image : Addr) (s : State) : Steps s (execImageLoad f image s) := by
  refine steps_next fun h => ?_
  split
  · simpa using h
  dsimp only
  split
  · simpa using h
  split
  · simpa using h
  split
  · rw [State.answerMgmt_mem]
    exact State.copyNear_wf (foldl_wf (fun t y ht => State.copySection_wf ht _ y) _ h) _ _
  · simpa using h

theorem execContextSwitch_steps (f : Nat) (s : State) : Steps s (execContextSwitch f s) :=
  steps_frame (by (repeat' split) <;> simp)

theorem execSwitchDrainComplete_steps (f : Nat) (rec : Addr) (s : State) : Steps s (execSwitchDrainComplete f rec s) := by
  refine steps_next fun h => ?_
  dsimp only
  (repeat' split) <;> simp [State.enterField_wf, State.saveField_wf, h]

theorem execDump_steps (f : Nat) (area : Addr) (s : State) : Steps s (execDump f area s) := by
  refine steps_next fun h => ?_
  (repeat' split) <;> simp [State.writeArea_wf, h]

theorem execManagementTableWrite_steps (t : MgmtTarget) (ws : List Word) (s : State) :
    Steps s (execManagementTableWrite t ws s) := by
  refine steps_frame ?_
  split
  · split
    · next r e => simpa using State.readTable_mem s t r e
    · simp
  · split
    · next u e => simpa using State.writeTable_mem s t ws u e
    · simp

theorem execPluginStop_steps (tenant : Nat) (s : State) : Steps s (execPluginStop tenant s) := by
  refine steps_frame ?_
  rw [State.yieldPlugin_mem, foldl_mem]
  exact fun t q => getD_mem (State.tryRecover_mem t q.1)

theorem execBoot_steps (s : State) : Steps s (execBoot s) := by
  refine steps_frame ?_
  split <;> simp [foldl_mem]

theorem execFarMemoryBringup_steps (passed : List Nat) (s : State) : Steps s (execFarMemoryBringup passed s) := by
  refine steps_next fun h => ?_
  split
  · exact h
  · rw [State.mgmtSays_mem]
    exact Memory.wf_filter _ h

theorem execThermalSample_steps (temp : Int) (s : State) : Steps s (execThermalSample temp s) := by
  refine steps_frame ?_
  dsimp only
  split
  · rw [foldl_mem (by simp)]
  · rfl

theorem execScrub_steps (u : LogUnit) (s : State) : Steps s (execScrub u s) :=
  steps_frame (by split <;> simp)

theorem spdm_steps (s : State) (a : MgmtAnswer) : Steps s (s.spdm a) := steps_frame (by split <;> simp)

theorem execGetMeasurements_steps (index : Nat) (s : State) : Steps s (execGetMeasurements index s) := by
  unfold execGetMeasurements
  split <;> exact spdm_steps _ _

theorem execSenderTableRead_steps (c : Nat) (clear : Bool) (s : State) : Steps s (execSenderTableRead c clear s) :=
  steps_frame (by rw [State.answerMgmt_mem]; split <;> simp)

/-! ### The dispatcher -/

/-- Each row of the dispatcher is an arm of one of the three kinds. -/
theorem exec_arm (i : Instr) : Arm i :=
  match i with
  | .add r d a b => .group rfl rfl (exec_add r d a b) (alu3_arm ..)
  | .sub r d a b => .group rfl rfl (exec_sub r d a b) (alu3_arm ..)
  | .and r d a b => .group rfl rfl (exec_and r d a b) (alu3_arm ..)
  | .or r d a b => .group rfl rfl (exec_or r d a b) (alu3_arm ..)
  | .xor r d a b => .group rfl rfl (exec_xor r d a b) (alu3_arm ..)
  | .mul r d a b => .group rfl rfl (exec_mul r d a b) (alu3_arm ..)
  | .shl r d a => .group rfl rfl (exec_shl r d a) (alu2_arm ..)
  | .shr r d a => .group rfl rfl (exec_shr r d a) (alu2_arm ..)
  | .sar r d a => .group rfl rfl (exec_sar r d a) (alu2_arm ..)
  | .rol r d a => .group rfl rfl (exec_rol r d a) (alu2_arm ..)
  | .ror r d a => .group rfl rfl (exec_ror r d a) (alu2_arm ..)
  | .andn r d a => .group rfl rfl (exec_andn r d a) (alu2_arm ..)
  | .min r d a => .group rfl rfl (exec_min r d a) (alu2_arm ..)
  | .max r d a => .group rfl rfl (exec_max r d a) (alu2_arm ..)
  | .minu r d a => .group rfl rfl (exec_minu r d a) (alu2_arm ..)
  | .maxu r d a => .group rfl rfl (exec_maxu r d a) (alu2_arm ..)
  | .mulh r d a => .group rfl rfl (exec_mulh r d a) (alu2_arm ..)
  | .mulhu r d a => .group rfl rfl (exec_mulhu r d a) (alu2_arm ..)
  | .seq r d a => .group rfl rfl (exec_seq r d a) (alu2_arm ..)
  | .sne r d a => .group rfl rfl (exec_sne r d a) (alu2_arm ..)
  | .slt r d a => .group rfl rfl (exec_slt r d a) (alu2_arm ..)
  | .sltu r d a => .group rfl rfl (exec_sltu r d a) (alu2_arm ..)
  | .mov r d a => .group rfl rfl (exec_mov r d a) (alu1_arm ..)
  | .neg r d a => .group rfl rfl (exec_neg r d a) (alu1_arm ..)
  | .not r d a => .group rfl rfl (exec_not r d a) (alu1_arm ..)
  | .clz r d a => .group rfl rfl (exec_clz r d a) (alu1_arm ..)
  | .ctz r d a => .group rfl rfl (exec_ctz r d a) (alu1_arm ..)
  | .popc r d a => .group rfl rfl (exec_popc r d a) (alu1_arm ..)
  | .bswap r d a => .group rfl rfl (exec_bswap r d a) (alu1_arm ..)
  | .jr r a => .group rfl rfl (exec_jr r a) (groupArm fun _ _ => steps_issue fun _ h => by simpa using h)
  | .jalr r d a => .group rfl rfl (exec_jalr r d a) (groupArm fun _ _ => steps_issue fun _ h => by simpa using h)
  | .ret => .group rfl rfl (exec_ret) (groupArm fun _ _ => steps_issue fun _ h => by simpa using h)
  | .done => .group rfl rfl (exec_done) (groupArm fun _ _ => steps_issue fun _ h => by simpa using h)
  | .trap code => .group rfl rfl (exec_trap code) (groupArm fun _ _ => steps_issue fun _ _ => trivial)
  | .brk code => .group rfl rfl (exec_brk code) (groupArm fun _ _ => steps_issue fun _ _ => trivial)
  | .nop => .group rfl rfl (exec_nop) (groupArm fun _ _ => steps_issue fun _ h => by simpa using h)
  | .ifence => .group rfl rfl (exec_ifence) (execIfence_arm ..)
  | .rdtime r d => .group rfl rfl (exec_rdtime r d) (groupArm fun _ _ => steps_issue fun _ h => by simpa using h)
  | .li r d imm => .group rfl rfl (exec_li r d imm) (aluI_arm ..)
  | .addi r d imm => .group rfl rfl (exec_addi r d imm) (aluI_arm ..)
  | .andi r d imm => .group rfl rfl (exec_andi r d imm) (aluI_arm ..)
  | .ori r d imm => .group rfl rfl (exec_ori r d imm) (aluI_arm ..)
  | .xori r d imm => .group rfl rfl (exec_xori r d imm) (aluI_arm ..)
  | .shli r d n => .group rfl rfl (exec_shli r d n) (aluI_arm ..)
  | .shri r d n => .group rfl rfl (exec_shri r d n) (aluI_arm ..)
  | .sari r d n => .group rfl rfl (exec_sari r d n) (aluI_arm ..)
  | .slti r d imm => .group rfl rfl (exec_slti r d imm) (aluI_arm ..)
  | .sltui r d imm => .group rfl rfl (exec_sltui r d imm) (aluI_arm ..)
  | .sext r d n => .group rfl rfl (exec_sext r d n) (aluI_arm ..)
  | .zext r d n => .group rfl rfl (exec_zext r d n) (aluI_arm ..)
  | .bext r d p lm1 => .group rfl rfl (exec_bext r d p lm1) (aluI_arm ..)
  | .bins r d p lm1 => .group rfl rfl (exec_bins r d p lm1) (groupArm fun _ _ => steps_issue fun _ h => by simpa using h)
  | .ldW r t d n off l => .group rfl rfl (exec_ldW r t d n off l) (loadInstr_arm ..)
  | .ldD r t d n off l => .group rfl rfl (exec_ldD r t d n off l) (loadInstr_arm ..)
  | .st r t wd v n off => .group rfl rfl (exec_st r t wd v n off) (storeInstr_arm ..)
  | .beq r a b off => .group rfl rfl (exec_beq r a b off) (branch2_arm ..)
  | .bne r a b off => .group rfl rfl (exec_bne r a b off) (branch2_arm ..)
  | .blt r a b off => .group rfl rfl (exec_blt r a b off) (branch2_arm ..)
  | .bge r a b off => .group rfl rfl (exec_bge r a b off) (branch2_arm ..)
  | .bltu r a b off => .group rfl rfl (exec_bltu r a b off) (branch2_arm ..)
  | .bgeu r a b off => .group rfl rfl (exec_bgeu r a b off) (branch2_arm ..)
  | .bz r a off => .group rfl rfl (exec_bz r a off) (branch1_arm ..)
  | .bnz r a off => .group rfl rfl (exec_bnz r a off) (branch1_arm ..)
  | .bltz r a off => .group rfl rfl (exec_bltz r a off) (branch1_arm ..)
  | .bgez r a off => .group rfl rfl (exec_bgez r a off) (branch1_arm ..)
  | .br off => .group rfl rfl (exec_br off) (groupArm fun _ _ => steps_issue fun _ h => by simpa using h)
  | .jal off => .group rfl rfl (exec_jal off) (groupArm fun _ _ => steps_issue fun _ h => by simpa using h)
  | .lp off => .group rfl rfl (exec_lp off) (execLp_arm ..)
  | .ldB r t d n off l => .group rfl rfl (exec_ldB r t d n off l) (loadInstr_arm ..)
  | .ldBu r t d n off l => .group rfl rfl (exec_ldBu r t d n off l) (loadInstr_arm ..)
  | .ldH r t d n off l => .group rfl rfl (exec_ldH r t d n off l) (loadInstr_arm ..)
  | .ldHu r t d n off l => .group rfl rfl (exec_ldHu r t d n off l) (loadInstr_arm ..)
  | .ldWPage1 r t d n off l => .group rfl rfl (exec_ldWPage1 r t d n off l) (loadInstr_arm ..)
  | .ldWu r t d n off l => .group rfl rfl (exec_ldWu r t d n off l) (loadInstr_arm ..)
  | .ldDPage1 r t d n off l => .group rfl rfl (exec_ldDPage1 r t d n off l) (loadInstr_arm ..)
  | .stPage1 r t wd v n off => .group rfl rfl (exec_stPage1 r t wd v n off) (storeInstr_arm ..)
  | .lda r t d n off l => .group rfl rfl (exec_lda r t d n off l) (groupArm fun _ _ => steps_issue fun _ h => loadBody_memOk h ..)
  | .stl r t wd v n off => .group rfl rfl (exec_stl r t wd v n off) (storeInstr_arm ..)
  | .ldp r t d n off l => .group rfl rfl (exec_ldp r t d n off l) (execLdp_arm ..)
  | .stp r t v n off => .group rfl rfl (exec_stp r t v n off) (execStp_arm ..)
  | .pf r t n off => .group rfl rfl (exec_pf r t n off) (execPf_arm ..)
  | .fence m sc => .group rfl rfl (exec_fence m sc) (groupArm fun _ _ => steps_issue fun _ h => fenceBody_memOk h ..)
  | .fenceAcq m sc => .group rfl rfl (exec_fenceAcq m sc) (groupArm fun _ _ => steps_issue fun _ h => fenceBody_memOk h ..)
  | .fenceRel m sc => .group rfl rfl (exec_fenceRel m sc) (groupArm fun _ _ => steps_issue fun _ h => fenceBody_memOk h ..)
  | .aadd r t f a b l => .group rfl rfl (exec_aadd r t f a b l) (atomInstr_arm ..)
  | .aand r t f a b l => .group rfl rfl (exec_aand r t f a b l) (atomInstr_arm ..)
  | .aor r t f a b l => .group rfl rfl (exec_aor r t f a b l) (atomInstr_arm ..)
  | .axor r t f a b l => .group rfl rfl (exec_axor r t f a b l) (atomInstr_arm ..)
  | .amin r t f a b l => .group rfl rfl (exec_amin r t f a b l) (atomInstr_arm ..)
  | .amax r t f a b l => .group rfl rfl (exec_amax r t f a b l) (atomInstr_arm ..)
  | .aminu r t f a b l => .group rfl rfl (exec_aminu r t f a b l) (atomInstr_arm ..)
  | .amaxu r t f a b l => .group rfl rfl (exec_amaxu r t f a b l) (atomInstr_arm ..)
  | .aswap r t f a b l => .group rfl rfl (exec_aswap r t f a b l) (atomInstr_arm ..)
  | .acas r t f a b l => .group rfl rfl (exec_acas r t f a b l) (atomInstr_arm ..)
  | .ainc r t f a b l => .group rfl rfl (exec_ainc r t f a b l) (atomInstr_arm ..)
  | .adec r t f a b l => .group rfl rfl (exec_adec r t f a b l) (atomInstr_arm ..)
  | .afadd r t f a b l => .group rfl rfl (exec_afadd r t f a b l) (atomInstr_arm ..)
  | .fcfg r t a b l => .group rfl rfl (exec_fcfg r t a b l) (frontInstr_arm ..)
  | .fins r t a b l => .group rfl rfl (exec_fins r t a b l) (frontInstr_arm ..)
  | .fmerge r t a b l => .group rfl rfl (exec_fmerge r t a b l) (frontInstr_arm ..)
  | .frd r t a b l => .group rfl rfl (exec_frd r t a b l) (frontInstr_arm ..)
  | .fclr r t a b l => .group rfl rfl (exec_fclr r t a b l) (frontInstr_arm ..)
  | .fstat r t a b l => .group rfl rfl (exec_fstat r t a b l) (frontInstr_arm ..)
  | .snd r t d a b => .group rfl rfl (exec_snd r t d a b) (sendInstr_arm ..)
  | .sndm r t d a b => .group rfl rfl (exec_sndm r t d a b) (sendInstr_arm ..)
  | .sndg r t d a b => .group rfl rfl (exec_sndg r t d a b) (sendInstr_arm ..)
  | .snds r t d a b => .group rfl rfl (exec_snds r t d a b) (sendInstr_arm ..)
  | .tagen r d a => .group rfl rfl (exec_tagen r d a) (tagInstr_arm ..)
  | .tagdis r d a => .group rfl rfl (exec_tagdis r d a) (tagInstr_arm ..)
  | .tagrd r d a => .group rfl rfl (exec_tagrd r d a) (tagInstr_arm ..)
  | .bar r d a => .group rfl rfl (exec_bar r d a) (groupArm fun _ _ => steps_issue fun _ h => barBody_memOk h ..)
  | .barw r d a => .group rfl rfl (exec_barw r d a) (groupArm fun _ _ => steps_issue fun _ h => barwBody_memOk h ..)
  | .sopen r d a => .group rfl rfl (exec_sopen r d a) (groupArm fun _ _ => steps_issue fun _ h => sopenBody_memOk h ..)
  | .sclose r d a => .group rfl rfl (exec_sclose r d a) (groupArm fun _ _ => steps_issue fun _ h => scopeRequest_memOk h ..)
  | .scancel r d => .group rfl rfl (exec_scancel r d) (groupArm fun _ _ => steps_issue fun _ h => scopeRequest_memOk h ..)
  | .sshield r d => .group rfl rfl (exec_sshield r d) (groupArm fun _ _ => steps_issue fun _ h => scopeRequest_memOk h ..)
  | .sclaim r d => .group rfl rfl (exec_sclaim r d) (execSclaim_arm ..)
  | .schk r d => .group rfl rfl (exec_schk r d) (groupArm fun _ _ => steps_issue fun _ h => scopeRequest_memOk h ..)
  | .fork r d a => .group rfl rfl (exec_fork r d a) (groupArm fun _ _ => steps_issue fun _ h => forkBody_memOk h ..)
  | .rdv r d a => .group rfl rfl (exec_rdv r d a) (groupArm fun _ _ => steps_issue fun _ h => rdvBody_memOk h ..)
  | .copy r d a => .group rfl rfl (exec_copy r d a) (execCopy_arm ..)
  | .qfence r d a => .group rfl rfl (exec_qfence r d a) (execQfence_arm ..)
  | .nsend r d a => .group rfl rfl (exec_nsend r d a) (transferInstr_arm ..)
  | .nwrite r d a => .group rfl rfl (exec_nwrite r d a) (transferInstr_arm ..)
  | .nread r d a => .group rfl rfl (exec_nread r d a) (transferInstr_arm ..)
  | .ncst r d a => .group rfl rfl (exec_ncst r d a) (groupArm fun _ _ => steps_issue fun _ h => ncstBody_memOk h ..)
  | .vadd d a b => .group rfl rfl (exec_vadd d a b) (vectorInstr_arm _ (binaryPlan_keepsMem _))
  | .vsub d a b => .group rfl rfl (exec_vsub d a b) (vectorInstr_arm _ (binaryPlan_keepsMem _))
  | .vmul d a b => .group rfl rfl (exec_vmul d a b) (vectorInstr_arm _ (binaryPlan_keepsMem _))
  | .vfma d a b => .group rfl rfl (exec_vfma d a b) (vectorInstr_arm _ (fusedPlan_keepsMem _))
  | .vfms d a b => .group rfl rfl (exec_vfms d a b) (vectorInstr_arm _ (fusedPlan_keepsMem _))
  | .vdiv d a b => .group rfl rfl (exec_vdiv d a b) (vectorInstr_arm _ divPlan_keepsMem)
  | .vmin d a b => .group rfl rfl (exec_vmin d a b) (vectorInstr_arm _ (binaryPlan_keepsMem _))
  | .vmax d a b => .group rfl rfl (exec_vmax d a b) (vectorInstr_arm _ (binaryPlan_keepsMem _))
  | .vand d a b => .group rfl rfl (exec_vand d a b) (vectorInstr_arm _ (bitwisePlan_keepsMem _))
  | .vor d a b => .group rfl rfl (exec_vor d a b) (vectorInstr_arm _ (bitwisePlan_keepsMem _))
  | .vxor d a b => .group rfl rfl (exec_vxor d a b) (vectorInstr_arm _ (bitwisePlan_keepsMem _))
  | .vshl d a b => .group rfl rfl (exec_vshl d a b) (vectorInstr_arm _ (shiftPlan_keepsMem _))
  | .vshr d a b => .group rfl rfl (exec_vshr d a b) (vectorInstr_arm _ (shiftPlan_keepsMem _))
  | .vabs d a => .group rfl rfl (exec_vabs d a) (vectorInstr_arm _ (unaryPlan_keepsMem _))
  | .vneg d a => .group rfl rfl (exec_vneg d a) (vectorInstr_arm _ (unaryPlan_keepsMem _))
  | .vcvt d a => .group rfl rfl (exec_vcvt d a) (vectorInstr_arm _ cvtPlan_keepsMem)
  | .vexp d a => .group rfl rfl (exec_vexp d a) (vectorInstr_arm _ (functionPlan_keepsMem _))
  | .vlog d a => .group rfl rfl (exec_vlog d a) (vectorInstr_arm _ (functionPlan_keepsMem _))
  | .vrcp d a => .group rfl rfl (exec_vrcp d a) (vectorInstr_arm _ (functionPlan_keepsMem _))
  | .vrsq d a => .group rfl rfl (exec_vrsq d a) (vectorInstr_arm _ (functionPlan_keepsMem _))
  | .vsqrt d a => .group rfl rfl (exec_vsqrt d a) (vectorInstr_arm _ (functionPlan_keepsMem _))
  | .vtanh d a => .group rfl rfl (exec_vtanh d a) (vectorInstr_arm _ (functionPlan_keepsMem _))
  | .vsig d a => .group rfl rfl (exec_vsig d a) (vectorInstr_arm _ (functionPlan_keepsMem _))
  | .verf d a => .group rfl rfl (exec_verf d a) (vectorInstr_arm _ (functionPlan_keepsMem _))
  | .vsin d a => .group rfl rfl (exec_vsin d a) (vectorInstr_arm _ (functionPlan_keepsMem _))
  | .vcos d a => .group rfl rfl (exec_vcos d a) (vectorInstr_arm _ (functionPlan_keepsMem _))
  | .vfill d a => .group rfl rfl (exec_vfill d a)
    (groupArm fun _ _ => steps_issue fun _ h => vectorBody_memOk h _ _ (fillPlan_keepsMem _))
  | .vcpy d a => .group rfl rfl (exec_vcpy d a) (vectorInstr_arm _ cpyPlan_keepsMem)
  | .eend => .group rfl rfl (exec_eend) (groupArm fun _ _ => steps_issue fun _ h => eendBody_memOk h ..)
  | .vcmpEq d a => .group rfl rfl (exec_vcmpEq d a) (vectorInstr_arm _ (comparePlan_keepsMem _))
  | .vcmpNe d a => .group rfl rfl (exec_vcmpNe d a) (vectorInstr_arm _ (comparePlan_keepsMem _))
  | .vcmpLt d a => .group rfl rfl (exec_vcmpLt d a) (vectorInstr_arm _ (comparePlan_keepsMem _))
  | .vcmpLe d a => .group rfl rfl (exec_vcmpLe d a) (vectorInstr_arm _ (comparePlan_keepsMem _))
  | .vcmpGt d a => .group rfl rfl (exec_vcmpGt d a) (vectorInstr_arm _ (comparePlan_keepsMem _))
  | .vcmpGe d a => .group rfl rfl (exec_vcmpGe d a) (vectorInstr_arm _ (comparePlan_keepsMem _))
  | .vcmpUn d a => .group rfl rfl (exec_vcmpUn d a) (vectorInstr_arm _ (comparePlan_keepsMem _))
  | .vcmpOr d a => .group rfl rfl (exec_vcmpOr d a) (vectorInstr_arm _ (comparePlan_keepsMem _))
  | .vsel d a => .group rfl rfl (exec_vsel d a) (vectorInstr_arm _ selPlan_keepsMem)
  | .vredAdd d a => .group rfl rfl (exec_vredAdd d a) (vectorInstr_arm _ (redPlan_keepsMem _))
  | .vredMul d a => .group rfl rfl (exec_vredMul d a) (vectorInstr_arm _ (redPlan_keepsMem _))
  | .vredMin d a => .group rfl rfl (exec_vredMin d a) (vectorInstr_arm _ (redPlan_keepsMem _))
  | .vredMax d a => .group rfl rfl (exec_vredMax d a) (vectorInstr_arm _ (redPlan_keepsMem _))
  | .vredAnd d a => .group rfl rfl (exec_vredAnd d a) (vectorInstr_arm _ (redPlan_keepsMem _))
  | .vredOr d a => .group rfl rfl (exec_vredOr d a) (vectorInstr_arm _ (redPlan_keepsMem _))
  | .vredXor d a => .group rfl rfl (exec_vredXor d a) (vectorInstr_arm _ (redPlan_keepsMem _))
  | .vscanAdd d a => .group rfl rfl (exec_vscanAdd d a) (vectorInstr_arm _ (scaPlan_keepsMem _))
  | .vscanMul d a => .group rfl rfl (exec_vscanMul d a) (vectorInstr_arm _ (scaPlan_keepsMem _))
  | .vscanMin d a => .group rfl rfl (exec_vscanMin d a) (vectorInstr_arm _ (scaPlan_keepsMem _))
  | .vscanMax d a => .group rfl rfl (exec_vscanMax d a) (vectorInstr_arm _ (scaPlan_keepsMem _))
  | .vscanAnd d a => .group rfl rfl (exec_vscanAnd d a) (vectorInstr_arm _ (scaPlan_keepsMem _))
  | .vscanOr d a => .group rfl rfl (exec_vscanOr d a) (vectorInstr_arm _ (scaPlan_keepsMem _))
  | .vscanXor d a => .group rfl rfl (exec_vscanXor d a) (vectorInstr_arm _ (scaPlan_keepsMem _))
  | .vgat d a => .group rfl rfl (exec_vgat d a) (vectorInstr_arm _ vgatPlan_keepsMem)
  | .vsca d a => .group rfl rfl (exec_vsca d a) (vectorInstr_arm _ vscaPlan_keepsMem)
  | .vtop d a => .group rfl rfl (exec_vtop d a) (vectorInstr_arm _ vtopPlan_keepsMem)
  | .mplane a b => .group rfl rfl (exec_mplane a b) (matrixInstr_arm _ fun _ _ _ h => mplaneBody_memOk h ..)
  | .mscl a b => .group rfl rfl (exec_mscl a b) (matrixInstr_arm _ fun _ _ _ h => msclBody_memOk h ..)
  | .mzero a => .group rfl rfl (exec_mzero a) (execMzero_arm ..)
  | .mmul a b => .group rfl rfl (exec_mmul a b) (matrixInstr_arm _ fun _ _ _ h => mmulBody_memOk h ..)
  | .mgang a b => .group rfl rfl (exec_mgang a b) (matrixInstr_arm _ fun _ _ _ h => mgangBody_memOk h ..)
  | .mst a b => .group rfl rfl (exec_mst a b) (matrixInstr_arm _ fun _ _ _ h => mstBody_memOk h ..)
  | .macc a b => .group rfl rfl (exec_macc a b) (execMacc_arm ..)
  | .eendPage4 => .group rfl rfl (exec_eendPage4) (groupArm fun _ _ => steps_issue fun _ h => eendBody_memOk h ..)
  | .div r d a b => .group rfl rfl (exec_div r d a b) (alu3_arm ..)
  | .divu r d a b => .group rfl rfl (exec_divu r d a b) (alu3_arm ..)
  | .rem r d a b => .group rfl rfl (exec_rem r d a b) (alu3_arm ..)
  | .remu r d a b => .group rfl rfl (exec_remu r d a b) (alu3_arm ..)
  | .crd r d n => .group rfl rfl (exec_crd r d n) (groupArm fun _ _ => steps_issue fun _ h => by simpa using h)
  | .cwr r d n => .group rfl rfl (exec_cwr r d n) (crOp_arm ..)
  | .cset r d n => .group rfl rfl (exec_cset r d n) (crOp_arm ..)
  | .cclr r d n => .group rfl rfl (exec_cclr r d n) (crOp_arm ..)
  | .bextu r d a p lm1 => .group rfl rfl (exec_bextu r d a p lm1) (alu1_arm ..)
  | .lea r d a imm => .group rfl rfl (exec_lea r d a imm) (alu1_arm ..)
  | .movxToIndex r k a => .group rfl rfl (exec_movxToIndex r k a) (groupArm fun _ _ => steps_issue fun _ h => by simpa using h)
  | .movxFromIndex r k a => .group rfl rfl (exec_movxFromIndex r k a) (groupArm fun _ _ => steps_issue fun _ h => by simpa using h)
  | .addx r k imm => .group rfl rfl (exec_addx r k imm) (groupArm fun _ _ => steps_issue fun _ h => by simpa using h)
  | .tmark r a code => .group rfl rfl (exec_tmark r a code) (groupArm fun _ _ => steps_issue fun _ h => by simpa using h)
  | .gorivoLdr d n => .trace rfl rfl (exec_gorivoLdr d n) ⟨_, fun _ => rfl⟩
  | .gorivoLdi d imm => .trace rfl rfl (exec_gorivoLdi d imm) ⟨_, fun _ => rfl⟩
  | .gorivoLdh d imm => .trace rfl rfl (exec_gorivoLdh d imm) ⟨_, fun _ => rfl⟩
  | .gorivoAdd d a b => .trace rfl rfl (exec_gorivoAdd d a b) ⟨_, fun _ => rfl⟩
  | .gorivoSub d a b => .trace rfl rfl (exec_gorivoSub d a b) ⟨_, fun _ => rfl⟩
  | .gorivoAnd d a b => .trace rfl rfl (exec_gorivoAnd d a b) ⟨_, fun _ => rfl⟩
  | .gorivoOr d a b => .trace rfl rfl (exec_gorivoOr d a b) ⟨_, fun _ => rfl⟩
  | .gorivoXor d a b => .trace rfl rfl (exec_gorivoXor d a b) ⟨_, fun _ => rfl⟩
  | .gorivoShli d a n => .trace rfl rfl (exec_gorivoShli d a n) ⟨_, fun _ => rfl⟩
  | .gorivoShri d a n => .trace rfl rfl (exec_gorivoShri d a n) ⟨_, fun _ => rfl⟩
  | .gorivoAndi d a imm => .trace rfl rfl (exec_gorivoAndi d a imm) ⟨_, fun _ => rfl⟩
  | .gorivoCadd a n => .trace rfl rfl (exec_gorivoCadd a n) ⟨_, fun _ => rfl⟩
  | .gorivoCset a n => .trace rfl rfl (exec_gorivoCset a n) ⟨_, fun _ => rfl⟩
  | .gorivoCrd d n => .trace rfl rfl (exec_gorivoCrd d n) ⟨_, fun _ => rfl⟩
  | .gorivoBeq a b off => .trace rfl rfl (exec_gorivoBeq a b off) ⟨_, fun _ => rfl⟩
  | .gorivoBne a b off => .trace rfl rfl (exec_gorivoBne a b off) ⟨_, fun _ => rfl⟩
  | .gorivoBltu a b off => .trace rfl rfl (exec_gorivoBltu a b off) ⟨_, fun _ => rfl⟩
  | .gorivoBgeu a b off => .trace rfl rfl (exec_gorivoBgeu a b off) ⟨_, fun _ => rfl⟩
  | .gorivoBr off => .trace rfl rfl (exec_gorivoBr off) ⟨_, fun _ => rfl⟩
  | .gorivoKeep => .trace rfl rfl (exec_gorivoKeep) ⟨_, fun _ => rfl⟩
  | .gorivoDrop => .trace rfl rfl (exec_gorivoDrop) ⟨_, fun _ => rfl⟩
  | .gorivoCount n => .trace rfl rfl (exec_gorivoCount n) ⟨_, fun _ => rfl⟩
  | .gorivoTrigger m => .trace rfl rfl (exec_gorivoTrigger m) ⟨_, fun _ => rfl⟩
  | .messageArrival m => .event rfl (exec_messageArrival m) fun _ => steps_happen_frame (State.tryArrive_mem _ _)
  | .dispatch c => .event rfl (exec_dispatch c) fun _ => steps_happen_frame (State.tryDispatch_mem _ _)
  | .retirement c slot => .event rfl (exec_retirement c slot) fun _ => steps_happen_frame (State.tryRetire_mem _ _ _)
  | .weightReturnDrain c act => .event rfl (exec_weightReturnDrain c act) fun _ => steps_happen_frame (State.tryDrain_mem _ _ _)
  | .stealProbe c => .event rfl (exec_stealProbe c) fun _ => steps_happen_frame (State.trySteal_mem _ _)
  | .stolenMessageArrival c => .event rfl (exec_stolenMessageArrival c) fun _ => steps_happen_frame (State.tryStolen_mem _ _)
  | .streamerStealProbe c => .event rfl (exec_streamerStealProbe c) fun _ => steps_happen_frame (State.tryStreamerSteal_mem _ _)
  | .loadComplete x => .event rfl (exec_loadComplete x) fun _ => steps_happen_frame (State.tryComplete_mem _ _)
  | .trapTaken c slot => .event rfl (exec_trapTaken c slot) fun _ => steps_happen fun h => State.tryTrap_wf h _ _
  | .trapDeferredWrite f => .event rfl (exec_trapDeferredWrite f) fun _ => steps_happen fun h => State.tryDeferred_wf h _
  | .engineTrap c u => .event rfl (exec_engineTrap c u) fun _ => steps_happen fun h => State.tryEngineTrap_wf h _ _
  | .retiredAccessError x => .event rfl (exec_retiredAccessError x) fun _ => steps_happen fun h => State.tryRetiredError_wf h _
  | .verdictResumeAt c record => .event rfl (exec_verdictResumeAt c record) fun _ => steps_happen fun h => State.tryVerdict_wf h _ _ _
  | .verdictResumeAfter c record => .event rfl (exec_verdictResumeAfter c record)
    fun _ => steps_happen fun h => State.tryVerdict_wf h _ _ _
  | .verdictAbandon c record => .event rfl (exec_verdictAbandon c record) fun _ => steps_happen fun h => State.tryVerdict_wf h _ _ _
  | .verdictKeep c record => .event rfl (exec_verdictKeep c record) fun _ => steps_happen fun h => State.tryVerdict_wf h _ _ _
  | .storeBufferSend c => .event rfl (exec_storeBufferSend c) fun _ => steps_happen_frame (State.sendEntry_mem _ _)
  | .accessPerformed x => .event rfl (exec_accessPerformed x) fun _ => steps_happen fun h => State.performAccess_wf h _
  | .storeAck x => .event rfl (exec_storeAck x) fun _ => steps_happen_frame (State.tryAck_mem _ _)
  | .atomicEngineOp k => .event rfl (exec_atomicEngineOp k) fun _ => steps_happen fun h => State.tryAtomic_wf h _
  | .hotLineEvict k => .event rfl (exec_hotLineEvict k) fun _ => steps_happen_frame (State.tryEvictLine_mem _ _)
  | .frontWriteback k obj => .event rfl (exec_frontWriteback k obj) fun _ => steps_happen_frame (State.tryFrontBack_mem _ _ _)
  | .launchRecordRead c => .event rfl (exec_launchRecordRead c) fun _ => steps_happen fun h => State.tryRecords_wf h _
  | .engineProgramStart c u => .event rfl (exec_engineProgramStart c u) fun _ => steps_happen_frame (State.tryStart_mem _ _ _)
  | .engineProgramEnd c u => .event rfl (exec_engineProgramEnd c u) fun _ => steps_happen_frame (State.tryEnd_mem _ _ _)
  | .rdvContinuation c j => .event rfl (exec_rdvContinuation c j) fun _ => steps_happen_frame (State.tryRdv_mem _ _ _)
  | .scoreboardGrant c frag => .event rfl (exec_scoreboardGrant c frag) fun _ => steps_happen_frame (State.tryScore_mem _ _ _)
  | .gangStart strip => .event rfl (exec_gangStart strip) fun _ => steps_happen_frame (State.tryGang_mem _ _)
  | .gangPass strip => .event rfl (exec_gangPass strip) fun _ => steps_happen_frame (State.tryPass_mem _ _)
  | .copyHead c => .event rfl (exec_copyHead c) fun _ => steps_happen_frame (State.tryHead_mem _ _)
  | .chunkStart x => .event rfl (exec_chunkStart x) fun _ => steps_happen_frame (State.tryChunk_mem _ _)
  | .chunkForward x chunk => .event rfl (exec_chunkForward x chunk) fun _ => steps_happen_frame (State.tryForward_mem _ _ _)
  | .chunkPerformed x chunk => .event rfl (exec_chunkPerformed x chunk) fun _ => steps_happen fun h => State.tryPerformed_wf h _ _
  | .chunkRefused x chunk => .event rfl (exec_chunkRefused x chunk) fun _ => steps_happen fun h => State.tryRefused_wf h _ _
  | .copyEnd x => .event rfl (exec_copyEnd x) fun _ => steps_happen_frame (State.tryCopyEnd_mem _ _)
  | .syncCredit x => .event rfl (exec_syncCredit x) fun _ => steps_happen fun h => State.tryCredit_wf h _
  | .wakeMessage x => .event rfl (exec_wakeMessage x) fun _ => steps_happen_frame (State.tryWake_mem _ _)
  | .qfenceRelease c marker => .event rfl (exec_qfenceRelease c marker) fun _ => steps_happen_frame (State.tryQfence_mem _ _ _)
  | .generationClose die bell => .event rfl (exec_generationClose die bell) fun _ => steps_happen_frame (State.tryClose_mem _ _ _)
  | .bellMessage die bell => .event rfl (exec_bellMessage die bell) fun _ => steps_happen_frame (State.tryBell_mem _ _ _)
  | .externalArrival x => .event rfl (exec_externalArrival x) fun _ => steps_happen_frame (State.tryExternal_mem _ _)
  | .mint x => .event rfl (exec_mint x) fun _ => steps_happen_frame (State.serveMint_mem _ _)
  | .grant x => .event rfl (exec_grant x) fun _ => steps_happen_frame (State.serveGrant_mem _ _)
  | .refuse x => .event rfl (exec_refuse x) fun _ => steps_happen_frame (State.serveRefuse_mem _ _)
  | .link x => .event rfl (exec_link x) fun _ => steps_happen_frame (State.serveLink_mem _ _)
  | .linkres x => .event rfl (exec_linkres x) fun _ => steps_happen_frame (State.serveLinkres_mem _ _)
  | .unlink x => .event rfl (exec_unlink x) fun _ => steps_happen_frame (State.serveUnlink_mem _ _)
  | .unlinkack x => .event rfl (exec_unlinkack x) fun _ => steps_happen_frame (State.serveUnlinkack_mem _ _)
  | .notice x => .event rfl (exec_notice x) fun _ => steps_happen_frame (State.serveNotice_mem _ _)
  | .clear x => .event rfl (exec_clear x) fun _ => steps_happen_frame (State.serveClear_mem _ _)
  | .clearack x => .event rfl (exec_clearack x) fun _ => steps_happen_frame (State.serveClearack_mem _ _)
  | .close x => .event rfl (exec_close x) fun _ => steps_happen_frame (State.serveClose_mem _ _)
  | .cancel x => .event rfl (exec_cancel x) fun _ => steps_happen_frame (State.serveCancel_mem _ _)
  | .choke x => .event rfl (exec_choke x) fun _ => steps_happen_frame (State.serveChoke_mem _ _)
  | .shield x => .event rfl (exec_shield x) fun _ => steps_happen_frame (State.serveShield_mem _ _)
  | .claim x => .event rfl (exec_claim x) fun _ => steps_happen_frame (State.serveClaim_mem _ _)
  | .check x => .event rfl (exec_check x) fun _ => steps_happen_frame (State.serveCheck_mem _ _)
  | .climb x => .event rfl (exec_climb x) fun _ => steps_happen_frame (State.serveClimb_mem _ _)
  | .answer x => .event rfl (exec_answer x) fun _ => steps_happen_frame (State.serveAnswer_mem _ _)
  | .weightReturn x => .event rfl (exec_weightReturn x) fun _ => steps_happen_frame (State.serveReturn_mem _ _)
  | .doorbell node queue tail => .event rfl (exec_doorbell node queue tail) (execDoorbell_steps node queue tail)
  | .packetSelect p => .event rfl (exec_packetSelect p) fun _ => steps_happen fun h => State.tryPick_wf h _
  | .ageingTick => .event rfl (exec_ageingTick) fun _ => steps_frame (by simp)
  | .launch p => .event rfl (exec_launch p) fun _ => steps_happen fun h => State.tryLaunch_wf h _
  | .launchStartMessage p => .event rfl (exec_launchStartMessage p) fun _ => steps_happen fun h => State.tryStartMsg_wf h _
  | .launchComplete x => .event rfl (exec_launchComplete x) fun _ => steps_happen fun h => State.tryLaunchEnd_wf h _
  | .nopPacket p => .event rfl (exec_nopPacket p) (execNopPacket_steps p)
  | .waitPacket p => .event rfl (exec_waitPacket p) fun _ => steps_happen_frame (State.tryWait_mem _ _)
  | .waitRecheck q => .event rfl (exec_waitRecheck q) fun _ => steps_happen fun h => State.tryRecheck_wf h _
  | .signalPacket p => .event rfl (exec_signalPacket p) fun _ => steps_happen fun h => State.trySignal_wf h _
  | .fencePacket p => .event rfl (exec_fencePacket p) fun _ => steps_happen_frame (State.tryFence_mem _ _)
  | .freeSlotReport c => .event rfl (exec_freeSlotReport c) fun _ => steps_frame (by simp)
  | .tollExpiry q => .event rfl (exec_tollExpiry q) fun _ => steps_happen_frame (State.tryExpiry_mem _ _)
  | .tollExtend q n => .event rfl (exec_tollExtend q n) fun _ => steps_happen_frame (State.tryExtend_mem _ _ _)
  | .tollRecover q => .event rfl (exec_tollRecover q) (execTollRecover_steps q)
  | .pluginTimeout q => .event rfl (exec_pluginTimeout q) fun _ => steps_happen_frame (State.tryPluginTimeout_mem _ _)
  | .recovery f => .event rfl (exec_recovery f) fun _ => steps_happen fun h => State.recoveryMove_wf h _ _
  | .fenceLift f => .event rfl (exec_fenceLift f) fun _ => steps_happen_frame (State.tryLift_mem _ _)
  | .containment f => .event rfl (exec_containment f) fun _ => steps_happen fun h => State.recoveryMove_wf h _ _
  | .loadFieldContext rec => .event rfl (exec_loadFieldContext rec) (execLoadFieldContext_steps rec)
  | .segmentTableLoad f => .event rfl (exec_segmentTableLoad f) (execSegmentTableLoad_steps f)
  | .imageLoad f image => .event rfl (exec_imageLoad f image) (execImageLoad_steps f image)
  | .contextSwitch f => .event rfl (exec_contextSwitch f) (execContextSwitch_steps f)
  | .preemptDeadline f => .event rfl (exec_preemptDeadline f) fun _ => steps_frame (by simp)
  | .switchDrainComplete f rec => .event rfl (exec_switchDrainComplete f rec) (execSwitchDrainComplete_steps f rec)
  | .stopField f => .event rfl (exec_stopField f) fun _ => steps_frame (by simp)
  | .resumeField f => .event rfl (exec_resumeField f) fun _ => steps_frame (by simp)
  | .dump f area => .event rfl (exec_dump f area) (execDump_steps f area)
  | .invalidate f lo hi => .event rfl (exec_invalidate f lo hi) fun _ => steps_frame (by simp)
  | .translationWalk x => .event rfl (exec_translationWalk x) fun _ => steps_happen_frame (State.walkFor_mem _ _)
  | .faultResolve x => .event rfl (exec_faultResolve x) (execFaultResolve_steps x)
  | .faultRefuse x => .event rfl (exec_faultRefuse x) (execFaultRefuse_steps x)
  | .queueRearm q => .event rfl (exec_queueRearm q) fun _ => steps_frame (by (repeat' split) <;> simp)
  | .managementTableWrite t ws => .event rfl (exec_managementTableWrite t ws) (execManagementTableWrite_steps t ws)
  | .groupTableWrite g ports valid local_ => .event rfl (exec_groupTableWrite g ports valid local_)
    fun _ => steps_frame (by (repeat' split) <;> simp)
  | .senderTableRead c clear => .event rfl (exec_senderTableRead c clear) (execSenderTableRead_steps c clear)
  | .violationLogRead u => .event rfl (exec_violationLogRead u) fun _ => steps_frame (by simp)
  | .refusalLogRead c => .event rfl (exec_refusalLogRead c) fun _ => steps_frame (by simp)
  | .bellDiscardCountRead die bell => .event rfl (exec_bellDiscardCountRead die bell) fun _ => steps_frame (by simp)
  | .errorLogRead u => .event rfl (exec_errorLogRead u) fun _ => steps_frame (by simp)
  | .raceRingPlace c ring => .event rfl (exec_raceRingPlace c ring) fun _ => steps_frame (by simp)
  | .traceRecordOffer k => .event rfl (exec_traceRecordOffer k) fun _ => steps_happen_frame (State.tryOffer_mem _ _)
  | .traceRecordProcess k => .event rfl (exec_traceRecordProcess k) fun _ => steps_happen fun h => State.tryTrace_wf h _
  | .traceStateWrite k v => .event rfl (exec_traceStateWrite k v) fun _ => steps_frame (by simp)
  | .prog k addr => .event rfl (exec_prog k addr) fun _ => steps_next fun h => State.loadProgram_wf h _ _
  | .traceLostRead k => .event rfl (exec_traceLostRead k) fun _ => steps_frame (by simp)
  | .frameReceive port fr => .event rfl (exec_frameReceive port fr) fun _ => steps_next fun h => State.receiveFrame_wf h _ _
  | .packetAccept port => .event rfl (exec_packetAccept port) fun _ => steps_happen fun h => State.tryAccept_wf h _
  | .packetForward x => .event rfl (exec_packetForward x) fun _ => steps_happen fun h => State.tryForwardPacket_wf h _
  | .ackReceived port seq => .event rfl (exec_ackReceived port seq) fun _ => steps_frame (by simp)
  | .refusalReceived port seq => .event rfl (exec_refusalReceived port seq) fun _ => steps_frame (by simp)
  | .corruptReceived port seq => .event rfl (exec_corruptReceived port seq) fun _ => steps_frame (by simp)
  | .refusedResend port => .event rfl (exec_refusedResend port) fun _ => steps_happen_frame (State.tryResend_mem _ _)
  | .controlFrameSend port => .event rfl (exec_controlFrameSend port) fun _ => steps_frame (by simp)
  | .controlFrameReceive port fr => .event rfl (exec_controlFrameReceive port fr) fun _ => steps_frame (by (repeat' split) <;> simp)
  | .timeSlew => .event rfl (exec_timeSlew) fun _ => steps_frame (by simp)
  | .timeLoad => .event rfl (exec_timeLoad) fun _ => steps_frame (by simp)
  | .message x => .event rfl (exec_message x) fun _ => steps_happen fun h => State.tryMessage_wf h _
  | .load x => .event rfl (exec_load x) fun _ => steps_happen fun h => State.tryLoad_wf h _
  | .store x => .event rfl (exec_store x) fun _ => steps_happen fun h => State.tryStore_wf h _
  | .atomic x => .event rfl (exec_atomic x) fun _ => steps_happen fun h => State.tryAtomicPacket_wf h _
  | .response x => .event rfl (exec_response x) fun _ => steps_happen fun h => State.tryResponse_wf h _
  | .nack x => .event rfl (exec_nack x) fun _ => steps_happen_frame (State.tryNack_mem _ _)
  | .weight x => .event rfl (exec_weight x) fun _ => steps_happen_frame (State.tryWeight_mem _ _)
  | .builtInHandler m => .event rfl (exec_builtInHandler m) fun _ => steps_happen fun h => State.tryBuiltIn_wf h _
  | .multicastPacket x => .event rfl (exec_multicastPacket x) fun _ => steps_happen_frame (State.tryMulticast_mem _ _)
  | .transferStart x => .event rfl (exec_transferStart x) fun _ => steps_happen_frame (State.tryXferStart_mem _ _)
  | .transferPacketSend x => .event rfl (exec_transferPacketSend x) fun _ => steps_happen fun h => State.tryXferSend_wf h _
  | .transferAck x bytes marked trimmed => .event rfl (exec_transferAck x bytes marked trimmed)
    fun _ => steps_happen_frame (State.tryXferAck_mem _ _ _ _ _)
  | .transferComplete x => .event rfl (exec_transferComplete x) fun _ => steps_happen_frame (State.tryXferEnd_mem _ _)
  | .transferRefused r => .event rfl (exec_transferRefused r) fun _ => steps_happen_frame (State.tryXferRefused_mem _ _ _)
  | .retryLimit x => .event rfl (exec_retryLimit x) fun _ => steps_happen_frame (State.tryRetry_mem _ _)
  | .rmaWrite p key off data last => .event rfl (exec_rmaWrite p key off data last)
    fun _ => steps_happen fun h => State.tryArrival_wf h _ _
  | .rmaRead p key off len => .event rfl (exec_rmaRead p key off len) fun _ => steps_happen fun h => State.tryArrival_wf h _ _
  | .send p key msg total off data => .event rfl (exec_send p key msg total off data)
    fun _ => steps_happen fun h => State.tryArrival_wf h _ _
  | .taggedSend p key tag msg total off data => .event rfl (exec_taggedSend p key tag msg total off data)
    fun _ => steps_happen fun h => State.tryArrival_wf h _ _
  | .chime c => .event rfl (exec_chime c) fun _ => steps_happen_frame (State.tryChime_mem _ _)
  | .chimeAgree c => .event rfl (exec_chimeAgree c) fun _ => steps_happen_frame (State.tryAgree_mem _ _)
  | .chimeDisagree c => .event rfl (exec_chimeDisagree c) fun _ => steps_happen_frame (State.tryDisagree_mem _ _)
  | .tapInject c u lane results => .event rfl (exec_tapInject c u lane results)
    fun _ => steps_frame (by dsimp only; (repeat' split) <;> simp)
  | .sweepResult k pass => .event rfl (exec_sweepResult k pass) fun _ => steps_frame (by (repeat' split) <;> simp)
  | .requalification k bin => .event rfl (exec_requalification k bin) fun _ => steps_frame (by (repeat' split) <;> simp)
  | .scanTest c => .event rfl (exec_scanTest c) fun _ => steps_frame (by (repeat' split) <;> simp)
  | .scanTestAbort c => .event rfl (exec_scanTestAbort c) fun _ => steps_frame (by (repeat' split) <;> simp)
  | .scanTestResult c signature => .event rfl (exec_scanTestResult c signature) fun _ => steps_frame (by (repeat' split) <;> simp)
  | .repairPoint die col => .event rfl (exec_repairPoint die col) fun _ => steps_frame (by dsimp only; (repeat' split) <;> simp)
  | .scrub u => .event rfl (exec_scrub u) (execScrub_steps u)
  | .commitDieRecord die => .event rfl (exec_commitDieRecord die) fun _ => steps_frame (by (repeat' split) <;> simp)
  | .requestUpdate => .event rfl (exec_requestUpdate) fun _ => steps_frame (by (repeat' split) <;> simp)
  | .passComponentTable comp => .event rfl (exec_passComponentTable comp) fun _ => steps_frame (by (repeat' split) <;> simp)
  | .updateComponent comp => .event rfl (exec_updateComponent comp) fun _ => steps_frame (by (repeat' split) <;> simp)
  | .requestFirmwareData off data => .event rfl (exec_requestFirmwareData off data) fun _ => steps_frame (by (repeat' split) <;> simp)
  | .verifyComplete => .event rfl (exec_verifyComplete) fun _ => steps_frame (by dsimp only; (repeat' split) <;> simp)
  | .applyComplete => .event rfl (exec_applyComplete) fun _ => steps_frame (by (repeat' split) <;> simp)
  | .activateFirmware => .event rfl (exec_activateFirmware) fun _ => steps_frame (by dsimp only; (repeat' split) <;> simp)
  | .monitorActivation => .event rfl (exec_monitorActivation) fun _ => steps_frame (by dsimp only; (repeat' split) <;> simp)
  | .raiseMinSvn comp svn => .event rfl (exec_raiseMinSvn comp svn) fun _ => steps_frame (by (repeat' split) <;> simp)
  | .pluginStop tenant => .event rfl (exec_pluginStop tenant) (execPluginStop_steps tenant)
  | .boot => .event rfl (exec_boot) execBoot_steps
  | .getVersion => .event rfl (exec_getVersion) fun _ => spdm_steps ..
  | .getCapabilities => .event rfl (exec_getCapabilities) fun _ => spdm_steps ..
  | .negotiateAlgorithms => .event rfl (exec_negotiateAlgorithms) fun _ => spdm_steps ..
  | .getDigests => .event rfl (exec_getDigests) fun _ => spdm_steps ..
  | .getCertificate => .event rfl (exec_getCertificate) fun _ => spdm_steps ..
  | .challenge nonce => .event rfl (exec_challenge nonce) fun _ => spdm_steps ..
  | .getMeasurements index => .event rfl (exec_getMeasurements index) (execGetMeasurements_steps index)
  | .farMemoryBringup passed => .event rfl (exec_farMemoryBringup passed) (execFarMemoryBringup_steps passed)
  | .zqCalibration k => .event rfl (exec_zqCalibration k) fun _ => steps_frame (by simp)
  | .dataRetrain k passed => .event rfl (exec_dataRetrain k passed) fun _ => steps_frame (by (repeat' split) <;> simp)
  | .thermalSample temp => .event rfl (exec_thermalSample temp) (execThermalSample_steps temp)
  | .powerCapSet watts => .event rfl (exec_powerCapSet watts) fun _ => steps_frame (by (repeat' split) <;> simp)
  | .powerCapWindow watts => .event rfl (exec_powerCapWindow watts) fun _ => steps_frame (by simp)
  | .powerOnReset => .event rfl (exec_powerOnReset) fun _ => steps_next fun _ => State.restart_wf _ _
  | .rmaReadResponse x off data => .event rfl (exec_rmaReadResponse x off data)
    fun _ => steps_happen fun h => State.tryReadData_wf h _ _ _
  | .powerLoss => .event rfl (exec_powerLoss) fun _ => steps_next fun _ => State.restart_wf _ _

/-! ### Decoded words -/

/-- What the decoder answers, if an instruction, is one that a group encodes. -/
def OnlyGroups (d : Decoded) : Prop := ∀ i, d = .ok i → ∃ g, encodeGroup i = some g

theorem onlyGroups_bad (c : DecodeCause) : OnlyGroups (.bad c) := by
  intro i e
  cases e

theorem onlyGroups_finish {g k : Group} {f : Form} {ok : Bool} {i : Instr} (h : encodeGroup i = some k) :
    OnlyGroups (g.finish f ok i) := by
  intro j e
  unfold Group.finish at e
  split at e
  · split at e
    · cases e
      exact ⟨k, h⟩
    · cases e
  · cases e

theorem decode06_onlyGroups (g : Group) : OnlyGroups (decode06 g) := by
  unfold decode06
  dsimp only
  split <;> exact onlyGroups_finish rfl

theorem decode07_onlyGroups (g : Group) : OnlyGroups (decode07 g) := by
  unfold decode07
  dsimp only
  split <;> exact onlyGroups_finish rfl

theorem decode08_onlyGroups (g : Group) : OnlyGroups (decode08 g) := by
  unfold decode08
  dsimp only
  split
  any_goals exact onlyGroups_finish rfl
  exact onlyGroups_bad _

theorem decode0C_onlyGroups (g : Group) : OnlyGroups (decode0C g) := by
  unfold decode0C
  dsimp only
  split
  any_goals exact onlyGroups_finish rfl
  exact onlyGroups_bad _

theorem decode0D_onlyGroups (g : Group) : OnlyGroups (decode0D g) := by
  unfold decode0D
  dsimp only
  split <;> exact onlyGroups_finish rfl

theorem decode0E_onlyGroups (g : Group) : OnlyGroups (decode0E g) := by
  unfold decode0E
  dsimp only
  split
  any_goals exact onlyGroups_finish rfl
  exact onlyGroups_bad _

theorem decodePage0_onlyGroups (g : Group) : OnlyGroups (decodePage0 g) := by
  unfold decodePage0 Group.loadForm Group.storeForm
  dsimp only
  split
  any_goals exact onlyGroups_finish rfl
  · exact decode06_onlyGroups g
  · exact decode07_onlyGroups g
  · exact decode08_onlyGroups g
  · exact decode0C_onlyGroups g
  · exact decode0D_onlyGroups g
  · exact decode0E_onlyGroups g

theorem decode1C_onlyGroups (g : Group) : OnlyGroups (decode1C g) := by
  unfold decode1C
  dsimp only
  split
  any_goals exact onlyGroups_finish rfl
  exact onlyGroups_bad _

theorem decode1D_onlyGroups (g : Group) : OnlyGroups (decode1D g) := by
  unfold decode1D
  dsimp only
  split
  any_goals exact onlyGroups_finish rfl
  exact onlyGroups_bad _

theorem decodeFence_onlyGroups (g : Group) : OnlyGroups (decodeFence g) := by
  unfold decodeFence
  dsimp only
  split <;> exact onlyGroups_finish rfl

theorem decodePage1_onlyGroups (g : Group) : OnlyGroups (decodePage1 g) := by
  unfold decodePage1 Group.loadForm Group.storeForm
  split
  any_goals exact onlyGroups_finish rfl
  · exact decode1C_onlyGroups g
  · exact decode1D_onlyGroups g
  · split
    · exact onlyGroups_finish rfl
    · exact decodeFence_onlyGroups g
    · exact onlyGroups_bad _

theorem decodePage2_onlyGroups (g : Group) : OnlyGroups (decodePage2 g) := by
  unfold decodePage2
  dsimp only
  split
  any_goals exact onlyGroups_finish rfl
  exact onlyGroups_bad _

theorem decode3D_onlyGroups (g : Group) : OnlyGroups (decode3D g) := by
  unfold decode3D
  dsimp only
  split <;> exact onlyGroups_finish rfl

theorem decodeVcmp_onlyGroups (g : Group) : OnlyGroups (decodeVcmp g) := by
  unfold decodeVcmp
  dsimp only
  split <;> exact onlyGroups_finish rfl

theorem decodeVred_onlyGroups (g : Group) : OnlyGroups (decodeVred g) := by
  unfold decodeVred
  dsimp only
  split <;> exact onlyGroups_finish rfl

theorem decodeVscan_onlyGroups (g : Group) : OnlyGroups (decodeVscan g) := by
  unfold decodeVscan
  dsimp only
  split <;> exact onlyGroups_finish rfl

theorem decodePage3_onlyGroups (g : Group) : OnlyGroups (decodePage3 g) := by
  unfold decodePage3
  dsimp only
  split
  any_goals exact onlyGroups_finish rfl
  · exact decode3D_onlyGroups g
  · split
    any_goals exact onlyGroups_finish rfl
    · exact decodeVcmp_onlyGroups g
    · exact decodeVred_onlyGroups g
    · exact decodeVscan_onlyGroups g
    · exact onlyGroups_bad _

theorem decodePage4_onlyGroups (g : Group) : OnlyGroups (decodePage4 g) := by
  unfold decodePage4
  dsimp only
  split
  any_goals exact onlyGroups_finish rfl
  exact onlyGroups_bad _

/-- A control register that is assigned, or the answer that it is not. -/
theorem decode54_onlyGroups (g : Group) : OnlyGroups (decode54 g) := by
  have fin {i : Instr} {k : Group} (h : encodeGroup i = some k) (p : Prop) [Decidable p] (f : Form) (ok : Bool) :
      OnlyGroups (if p then .bad .illegal else g.finish f ok i) := by
    split
    · exact onlyGroups_bad _
    · exact onlyGroups_finish h
  unfold decode54
  dsimp only
  split
  any_goals exact fin rfl _ _ _
  exact onlyGroups_bad _

theorem decodePage5_onlyGroups (g : Group) : OnlyGroups (decodePage5 g) := by
  unfold decodePage5
  dsimp only
  split
  any_goals exact onlyGroups_finish rfl
  · exact decode54_onlyGroups g
  · (repeat' split) <;> exact onlyGroups_finish rfl
  · exact onlyGroups_bad _

theorem decodeAssigned_onlyGroups (g : Group) : OnlyGroups (decodeAssigned g) := by
  unfold decodeAssigned
  split
  · exact decodePage0_onlyGroups g
  · exact decodePage1_onlyGroups g
  · exact decodePage2_onlyGroups g
  · exact decodePage3_onlyGroups g
  · exact decodePage4_onlyGroups g
  · exact decodePage5_onlyGroups g
  · exact onlyGroups_bad _

/-- A unit decodes only what a group encodes. -/
theorem decodeFor_onlyGroups (u : ExecUnit) (ws : GroupWords) : OnlyGroups (decodeFor u ws) := by
  unfold decodeFor
  split
  · exact onlyGroups_bad _
  split
  · exact onlyGroups_bad _
  split
  · exact decodeAssigned_onlyGroups _
  · exact onlyGroups_bad _

/-- A trace core decodes only what a Gorivo word encodes. -/
theorem decodeGorivo_encoded {w : BitVec 32} {i : Instr} (h : decodeGorivo w = .ok i) : ∃ v, encodeGorivo i = some v := by
  have fin {j : Instr} {v : BitVec 32} (hj : encodeGorivo j = some v) (p q : Prop) [Decidable p] [Decidable q]
      (e : (if p then (if q then GorivoDecoded.ok j else .bad 3) else .bad 2) = .ok i) : ∃ v, encodeGorivo i = some v := by
    split at e
    · split at e
      · cases e
        exact ⟨v, hj⟩
      · cases e
    · cases e
  unfold decodeGorivo at h
  dsimp only at h
  split at h
  any_goals exact fin rfl _ _ h
  cases h

/-! ### What is ready to run -/

/-- What is ready to run is where it can: a group of the decoder where its group executes, a word of a trace core where the core does,
and a step without a word anywhere. -/
def Ready.Placed : Ready → Prop
  | .done _ => True
  | .run i t => (∃ g, encodeGroup i = some g) ∧ (∃ c, t.At c) ∨ (∃ w, encodeGorivo i = some w) ∧ (∃ k, t.cur = .trace k) ∨
      i.encoded = false

theorem State.decodeGroup_placed (s : State) (cell : Nat) (unit : ExecUnit) (slot : Nat) (st : Site) :
    (s.decodeGroup cell unit slot st).Placed := by
  unfold State.decodeGroup
  split
  · next i e => exact .inl ⟨decodeFor_onlyGroups _ _ _ e, ⟨cell, unit, slot, st⟩, rfl⟩
  · trivial

theorem State.readyGroup_placed (s : State) (cell : Nat) (unit : ExecUnit) (slot : Nat) (pc : Addr) (off : Bool) :
    (s.readyGroup cell unit slot pc off).Placed := by
  unfold State.readyGroup
  dsimp only
  split
  · trivial
  split
  · trivial
  split
  · exact State.decodeGroup_placed _ _ _ _ _
  split
  · exact State.decodeGroup_placed _ _ _ _ _
  all_goals (repeat' split) <;> trivial

theorem State.readyFrame_placed (s : State) (cell slot : Nat) : (s.readyFrame cell slot).Placed := by
  unfold State.readyFrame
  dsimp only
  split
  · trivial
  split
  · exact State.readyGroup_placed _ _ _ _ _ _
  · trivial

theorem State.readyEngine_placed (s : State) (cell : Nat) (u : EngineUnit) : (s.readyEngine cell u).Placed := by
  unfold State.readyEngine
  split
  · trivial
  split
  · split
    · trivial
    split
    · trivial
    split
    · trivial
    split
    · trivial
    · exact State.readyGroup_placed _ _ _ _ _ _
  · trivial

theorem State.readyTrace_placed (s : State) (k : Nat) : (s.readyTrace k).Placed := by
  unfold State.readyTrace
  dsimp only
  split
  · trivial
  split
  · trivial
  split
  · next e => exact .inr (.inl ⟨decodeGorivo_encoded e, k, rfl⟩)
  · trivial

/-- A move that brings no word as an event. -/
def Move.Proper : Move → Prop
  | .event i => i.encoded = false
  | _ => True

theorem State.readyMove_placed (s : State) {m : Move} (h : m.Proper) : (s.readyMove m).Placed := by
  cases m with
  | issue c slot =>
    unfold State.readyMove State.readyIssue
    dsimp only
    split
    · exact State.readyFrame_placed _ _ _
    · trivial
  | engine c u =>
    unfold State.readyMove
    dsimp only
    split
    · exact State.readyEngine_placed _ _ _
    · trivial
  | gorivo k =>
    unfold State.readyMove
    dsimp only
    split
    · exact State.readyTrace_placed _ _
    · trivial
  | event i =>
    unfold State.readyMove
    dsimp only
    split
    · exact .inr (.inr h)
    · trivial
  | evict c line => trivial
  | clock n => trivial
  | upset u k => trivial

theorem State.ready_placed (s : State) {m : Move} (h : m.Proper) : (s.ready m).Placed := by
  unfold State.ready
  split
  · exact s.readyMove_placed h
  unfold State.guarded
  dsimp only
  split
  · trivial
  split
  · exact s.readyMove_placed h
  · trivial

theorem State.freeStep_proper {s : State} {i : Instr} (h : s.freeStep i = true) : i.encoded = false := by
  unfold State.freeStep at h
  split at h
  any_goals cases h
  · rfl
  · simpa using h

theorem State.nextMove_proper {s : State} (h : s.AgendaOk) : s.nextMove.1.Proper := by
  unfold State.nextMove
  unfold State.AgendaOk at h
  split
  · next m t e =>
    rw [e] at h
    cases m with
    | event i => exact h
    | _ => trivial
  · next e =>
    dsimp only
    split
    · next hm =>
      generalize freeMove s.tick = m at hm
      cases m with
      | event i => exact State.freeStep_proper hm
      | _ => trivial
    · trivial

/-! ### Every instruction that is ready runs -/

theorem traceInstr_steps {s : State} {k : Nat} (h : s.cur = .trace k) (i : Instr) : Steps s (traceInstr i s) := by
  unfold traceInstr traceGo
  rw [h]
  exact steps_next fun hs => State.settleTrace_wf (by simpa using hs) k

/-- What is placed where it can run goes on to a next state. -/
theorem exec_steps {i : Instr} {t : State} (h : (Ready.run i t).Placed) : Steps t (exec i t) := by
  cases exec_arm i with
  | group hg hw e a =>
    obtain ⟨k, hk, hs⟩ := a
    obtain ⟨-, c, hc⟩ | ⟨⟨w, hw'⟩, -⟩ | hn := h
    · rw [e, hk, withGroup_at hc]
      exact hs t c
    · simp [hw] at hw'
    · simp [Instr.encoded, hg] at hn
  | trace hg hw e a =>
    obtain ⟨j, hj⟩ := a
    obtain ⟨⟨g, hg'⟩, -⟩ | ⟨-, k, hk⟩ | hn := h
    · simp [hg] at hg'
    · rw [e, hj]
      exact traceInstr_steps hk j
    · simp [Instr.encoded, hw] at hn
  | event hn e a =>
    rw [e]
    exact a t

/-- Whatever is placed where it can run goes on to a next state. -/
theorem step_next {s : State} (h : s.AgendaOk) : s.Goes := by
  have hp := s.nextMove.2.ready_placed (State.nextMove_proper h)
  unfold State.Goes step
  split <;> rename_i e
  · rw [e] at hp
    obtain ⟨t, ht, -⟩ := exec_steps hp
    exact ⟨t, ht⟩
  · exact ⟨_, rfl⟩

/-- Settles O5: what the decoder answers runs where its group executes, and a step without a word runs anywhere. -/
theorem noStepStops : Obligations.NoStepStops := fun _ h => step_next h

/-! ### Every step keeps the canonical form of the memory -/

/-- Whatever an instruction answers keeps the canonical form, wherever it runs. -/
theorem exec_memOk {s : State} (h : s.mem.wf = true) (i : Instr) : Out.MemOk (exec i s) := by
  cases exec_arm i with
  | group hg hw e a =>
    obtain ⟨k, hk, hs⟩ := a
    rw [e, hk]
    refine withGroup_memOk fun c => ?_
    obtain ⟨t, ht, hm⟩ := hs s c
    rw [ht]
    exact Out.memOk_next (hm h)
  | trace hg hw e a =>
    obtain ⟨j, hj⟩ := a
    rw [e, hj]
    unfold traceInstr traceGo
    split
    · exact Out.memOk_next (State.settleTrace_wf (by simpa using h) _)
    · exact Out.memOk_fault _
  | event hn e a =>
    obtain ⟨t, ht, hm⟩ := a s
    rw [e, ht]
    exact Out.memOk_next (hm h)

theorem outcomeOf_wf {r : Ready} (h : r.MemOk) : (outcomeOf r).mem.wf = true := by
  unfold outcomeOf
  split
  · exact h
  · next i t =>
    have he := exec_memOk (s := t) h i
    split
    · next v e => exact he v e
    · exact h
    · exact h

theorem State.readyMove_memOk {s : State} (h : s.mem.wf = true) (m : Move) : (s.readyMove m).MemOk := by
  cases m with
  | issue c slot =>
    unfold State.readyMove State.readyIssue
    dsimp only
    split
    · exact State.readyFrame_memOk h _ _
    · exact h
  | engine c u =>
    unfold State.readyMove
    dsimp only
    split
    · exact State.readyEngine_memOk h _ _
    · exact h
  | gorivo k =>
    unfold State.readyMove
    dsimp only
    split
    · exact State.readyTrace_memOk h _
    · exact h
  | event i =>
    unfold State.readyMove
    dsimp only
    split <;> exact h
  | evict c line => simpa [State.readyMove, Ready.MemOk] using h
  | clock n => simpa [State.readyMove, Ready.MemOk] using h
  | upset u k => simpa [State.readyMove, Ready.MemOk] using h

theorem State.ready_memOk {s : State} (h : s.mem.wf = true) (m : Move) : (s.ready m).MemOk := by
  unfold State.ready
  split
  · exact State.readyMove_memOk h m
  unfold State.guarded
  dsimp only
  split
  · simpa [Ready.MemOk] using h
  split
  · exact State.readyMove_memOk h m
  · simpa [Ready.MemOk] using outcomeOf_wf (State.readyMove_memOk h m)

@[simp] theorem State.charge_mem (s : State) (m : Move) : (s.charge m).mem = s.mem := by
  unfold State.charge
  split
  · split <;> simp
  · rfl
  · rfl

@[simp] theorem State.chargeGiven_mem (s : State) : s.chargeGiven.mem = s.mem := by
  unfold State.chargeGiven
  split
  · split <;> simp
  · rfl

@[simp] theorem State.nextMove_mem (s : State) : s.nextMove.2.mem = s.mem := by
  unfold State.nextMove
  split <;> simp

theorem step_keepsMem : Keeps State.MemOk := by
  intro s t h e
  have hr := State.ready_memOk (s := s.nextMove.2) (by rw [State.nextMove_mem]; exact h) s.nextMove.1
  unfold step at e
  split at e <;> rename_i he <;> rw [he] at hr
  · exact exec_memOk hr _ t e
  · cases e
    exact hr

/-- Settles O6: each step keeps the invariant, since every write of the memory keeps the order of its cells and no other part of a step
touches it. -/
theorem stepsKeepTheMemoryCanonical : Obligations.StepsKeepTheMemoryCanonical := step_keepsMem

/-! ## A step runs what it decodes -/

/-! ### The move at the head of the agenda -/

@[simp] theorem State.chargeGiven_upsets (s : State) : s.chargeGiven.upsets = s.upsets := by
  unfold State.chargeGiven
  split
  · split <;> rfl
  · rfl

@[simp] theorem State.chargeGiven_power (s : State) : s.chargeGiven.power = s.power := by
  unfold State.chargeGiven
  split
  · split <;> rfl
  · rfl

@[simp] theorem State.chargeGiven_act (s : State) (a : Nat) : s.chargeGiven.act a = s.act a := by
  unfold State.chargeGiven
  split
  · split <;> rfl
  · rfl

/-- A change of a cell that leaves its frames. -/
theorem State.frame_modCell_of_frames (s : State) (c k slot : Nat) {f : Cell → Cell}
    (hf : (f (s.cell c)).frames = (s.cell c).frames) :
    (s.modCell c f).frame k slot = s.frame k slot := by
  unfold State.frame
  rw [State.cell_modCell]
  split
  · next e => rw [hf, e]
  · rfl

@[simp] theorem State.chargeGiven_frame (s : State) (c slot : Nat) : s.chargeGiven.frame c slot = s.frame c slot := by
  unfold State.chargeGiven
  split
  · split
    · exact State.frame_modCell_of_frames _ _ _ _ rfl
    · rfl
  · rfl

/-- Only the issue of a frame charges deficit counters (R144). -/
theorem State.chargeGiven_eq {s : State} {m : Move} {rest : List Move} (ha : s.agenda = m :: rest)
    (hm : ∀ c slot, m ≠ .issue c slot) :
    s.chargeGiven = s := by
  unfold State.chargeGiven
  rw [ha]
  split
  · next e => exact absurd (List.cons.inj e).1 (hm _ _)
  · rfl

/-- The state that has taken the move off the agenda. -/
def State.taken (s : State) (rest : List Move) : State := { s.chargeGiven with agenda := rest, tick := s.tick + 1 }

theorem nextMove_of_agenda {s : State} {m : Move} {rest : List Move} (ha : s.agenda = m :: rest) :
    s.nextMove = (m, s.taken rest) := by
  unfold State.nextMove
  split
  · next e =>
    obtain ⟨rfl, rfl⟩ := List.cons.inj (e.symm.trans ha)
    rfl
  · next e => simp [ha] at e

theorem ready_of_agenda {s : State} {m : Move} {rest : List Move} (hu : s.upsets = []) (ha : s.agenda = m :: rest) :
    s.nextMove.2.ready s.nextMove.1 = (s.taken rest).readyMove m := by
  rw [nextMove_of_agenda ha]
  unfold State.ready
  rw [if_pos]
  simp [State.taken, hu]

theorem step_of_run {s t : State} {m : Move} {rest : List Move} {i : Instr} (hu : s.upsets = []) (ha : s.agenda = m :: rest)
    (h : (s.taken rest).readyMove m = .run i t) : step s = exec i t := by
  unfold step
  rw [ready_of_agenda hu ha, h]

theorem step_of_done {s t : State} {m : Move} {rest : List Move} (hu : s.upsets = []) (ha : s.agenda = m :: rest)
    (h : (s.taken rest).readyMove m = .done t) : step s = .next t := by
  unfold step
  rw [ready_of_agenda hu ha, h]

/-! ### The group that a unit takes -/

theorem State.readyGroup_of_takes {s s2 : State} {c slot : Nat} {unit : ExecUnit} {pc : Addr} {held : Option Site} {st : Site}
    (hpc : pc.toNat % 2 = 0) (hh : s.heldGroup ⟨c, unit, slot, ⟨pc, pc, 0, [], 0⟩⟩ = held)
    (ht : Claims.TakesGroup s c pc held st s2) : s.readyGroup c unit slot pc false = s2.decodeGroup c unit slot st := by
  have hodd : ¬ pc.toNat % 2 = 1 := by omega
  unfold State.readyGroup
  dsimp only
  rw [if_neg hodd, if_neg (by simp), hh]
  obtain ⟨rfl, hst, rfl⟩ | ⟨hold, ws, next, hf, rfl⟩ := ht
  · have hfilter : (some st).filter (fun x => x.pc == pc) = some st := by simp [hst]
    rw [hfilter]
  · have hfilter : held.filter (fun x => x.pc == pc) = none := by
      cases held with
      | none => rfl
      | some old => simp [hold old rfl]
    rw [hfilter, hf]

theorem takesGroup_pc {s s2 : State} {c : Nat} {pc : Addr} {held : Option Site} {st : Site}
    (ht : Claims.TakesGroup s c pc held st s2) : st.pc = pc := by
  obtain ⟨-, hst, -⟩ | ⟨-, ws, next, -, rfl⟩ := ht
  · exact hst
  · rfl

theorem State.decodeGroup_ok {s : State} {c slot : Nat} {unit : ExecUnit} {st : Site} {i : Instr}
    (h : decodeFor unit ⟨st.pfx, st.base⟩ = .ok i) :
    s.decodeGroup c unit slot st = .run i { s.hold ⟨c, unit, slot, st⟩ st with cur := .group c unit slot st } := by
  unfold State.decodeGroup
  rw [h]

theorem State.decodeGroup_bad {s : State} {c slot : Nat} {unit : ExecUnit} {st : Site} {cause : DecodeCause}
    (h : decodeFor unit ⟨st.pfx, st.base⟩ = .bad cause) :
    ∃ site : Site, site.pc = st.pc ∧
      s.decodeGroup c unit slot st = .done (s.trapGroup ⟨c, unit, slot, site⟩ (causeCode cause) 0 st.next) := by
  unfold State.decodeGroup
  rw [h]
  exact ⟨{ st with base := if cause = .badPrefix then 0 else st.base }, rfl, rfl⟩

/-! ### The trap of a group -/

theorem State.modPair_frame (s : State) (c slot k j : Nat) (f : PairUnit → PairUnit) :
    (s.modPair c slot f).frame k j = s.frame k j := by
  obtain ⟨ps, h, -⟩ := State.modPair_cell s c slot k f
  simp [State.frame, h]

theorem State.raiseTrap_frame (s : State) (c slot cause : Nat) (site : Site) (idx : Word) (next : Addr) :
    (s.raiseTrap c slot cause site idx next).frame c slot = { s.frame c slot with
      life := .frozen, trap := some ⟨cause, site, idx, next, .raised, s.nextId⟩,
      pend := none, mark := none, held := none, groups := (s.frame c slot).groups + 1 } := by
  unfold State.raiseTrap
  rw [State.frame_modFrame, if_pos ⟨rfl, rfl⟩]
  rfl

theorem State.trapGroup_frame (s : State) (c slot cause : Nat) (site : Site) (idx : Word) (next : Addr) :
    (s.trapGroup ⟨c, .scalar, slot, site⟩ cause idx next).frame c slot = { s.frame c slot with
      life := .frozen, trap := some ⟨cause, site, idx, next, .raised, s.nextId⟩,
      pend := none, mark := none, held := none, groups := (s.frame c slot).groups + 1 } := by
  unfold State.trapGroup
  rw [State.modPair_frame, State.raiseTrap_frame]

theorem State.trapGroup_prog {s : State} {c cause p : Nat} {v : EngineUnit} {site : Site} {idx : Word} {next : Addr} {x : Prog}
    (hr : ((s.cell c).engine v).run = some p) (hx : AL.find s.progs p = some x) :
    ∃ z tr, AL.find (s.trapGroup ⟨c, .engine v, 0, site⟩ cause idx next).progs p = some z ∧ z.life = .frozen ∧ z.w = x.w ∧
      z.trap = some tr ∧ tr.cause = cause ∧ tr.site = site ∧ tr.stage = .raised := by
  have hp : s.progId ⟨c, .engine v, 0, site⟩ = p := by simp [State.progId, hr]
  have hf : AL.find (s.endWait (.prog p)).progs p = some x := hx
  unfold State.trapGroup State.raiseEngineTrap
  dsimp only
  rw [hp]
  unfold State.modProg
  rw [hf]
  exact ⟨_, _, AL.find_put_same _ _ _, rfl, rfl, rfl, rfl, rfl, rfl⟩

/-! ### A fetch leaves the engines -/

/-- Programs and the engines that run them are as they were. -/
def SameEngines (s t : State) : Prop := t.progs = s.progs ∧ ∀ c v, (t.cell c).engine v = (s.cell c).engine v

theorem SameEngines.refl (s : State) : SameEngines s s := ⟨rfl, fun _ _ => rfl⟩

theorem SameEngines.trans {s t u : State} (h : SameEngines s t) (k : SameEngines t u) : SameEngines s u :=
  ⟨k.1.trans h.1, fun c v => (k.2 c v).trans (h.2 c v)⟩

theorem sameEngines_modCell (s : State) (c : Nat) {f : Cell → Cell} (hf : ∀ x v, (f x).engine v = x.engine v) :
    SameEngines s (s.modCell c f) := by
  refine ⟨rfl, fun k v => ?_⟩
  rw [State.cell_modCell]
  split
  · next e => rw [hf, e]
  · rfl

theorem State.translate_sameEngines (s : State) (field va : Nat) (need : Need) : SameEngines s (s.translate field va need).2 := by
  unfold State.translate
  (repeat' split) <;> exact ⟨rfl, fun _ _ => rfl⟩

theorem State.logPort_sameEngines (s : State) (c : Nat) (v : Violation) : SameEngines s (s.logPort c v) :=
  sameEngines_modCell s c fun x u => by cases u <;> rfl

theorem State.codeLine_sameEngines (s : State) (c field : Nat) (segs : List Seg) (va : Nat) :
    SameEngines s (s.codeLine c field segs va).2 := by
  unfold State.codeLine
  dsimp only
  split
  · split
    · exact State.logPort_sameEngines _ _ _
    · split <;> exact .refl s
  · have ht := s.translate_sameEngines field va .x
    split <;> rename_i e <;> rw [e] at ht
    · split <;> exact ht
    all_goals exact ht
  all_goals exact .refl s

theorem Cell.fillLine_engine (x : Cell) (tick line : Nat) (bs : List Byte) (v : EngineUnit) :
    (x.fillLine tick line bs).engine v = x.engine v := by
  unfold Cell.fillLine
  cases v <;> rfl

theorem State.fetchLine_sameEngines (s : State) (c va : Nat) : SameEngines s (s.fetchLine c va).2 := by
  unfold State.fetchLine
  dsimp only
  split
  · exact .refl s
  · exact .refl s
  · have hl := s.codeLine_sameEngines c (s.cell c).field (s.segsOf c) (va / 64 * 64)
    split
    · next e =>
      rw [e] at hl
      exact hl.trans (sameEngines_modCell _ _ fun x v => Cell.fillLine_engine x _ _ _ v)
    · exact hl

theorem State.fetchHalf_sameEngines (s : State) (c va : Nat) : SameEngines s (s.fetchHalf c va).2 := by
  have hl := s.fetchLine_sameEngines c va
  unfold State.fetchHalf
  split <;> simp_all

theorem State.fetchGroup_sameEngines (c : Nat) (pc : Addr) (n : Nat) (s : State) (pfx : List Half) (va : Addr) :
    SameEngines s (s.fetchGroup c pc n pfx va).state := by
  induction n generalizing s pfx va with
  | zero => exact .refl s
  | succ n ih =>
    unfold State.fetchGroup
    split
    · exact .refl s
    have hf := s.fetchHalf_sameEngines c va.toNat
    split <;> rename_i e <;> rw [e] at hf
    · split
      · split
        · exact hf
        · exact hf.trans (ih _ _ _)
      · exact hf
    · split <;> exact hf
    all_goals exact hf

theorem takesGroup_sameEngines {s s2 : State} {c : Nat} {pc : Addr} {held : Option Site} {st : Site}
    (ht : Claims.TakesGroup s c pc held st s2) : SameEngines s s2 := by
  obtain ⟨-, -, rfl⟩ | ⟨-, ws, next, hf, -⟩ := ht
  · exact .refl _
  · have h := State.fetchGroup_sameEngines c pc 6 s [] pc
    rwa [hf] at h

/-! ### Frames -/

theorem State.readyMove_frame {u s2 : State} {c slot : Nat} {st : Site} (hon : u.power.mode = .on)
    (hlife : (u.frame c slot).life = .running) (hoff : (u.frame c slot).off = false)
    (hkept : (u.frame c slot).pend = none → (u.actOf c slot).kept = none) (hwait : u.waitOf (.frame c slot) ≠ .withheld)
    (hpre : u.preempted c slot = false) (hpc : (u.frame c slot).pc.toNat % 2 = 0)
    (ht : Claims.TakesGroup u c (u.frame c slot).pc (u.frame c slot).held st s2) :
    u.readyMove (.issue c slot) = s2.decodeGroup c .scalar slot st := by
  have hno : ¬ ((u.frame c slot).life = .running ∧ (u.frame c slot).pend = none ∧ (u.actOf c slot).kept.isSome = true) := by
    rintro ⟨-, hp, hk⟩
    simp [hkept hp] at hk
  unfold State.readyMove State.readyIssue State.readyFrame
  dsimp only
  rw [if_pos hon, if_neg hno, if_pos ⟨hlife, hwait, hpre⟩, hoff]
  exact State.readyGroup_of_takes hpc rfl ht

@[simp] theorem State.taken_frame (s : State) (rest : List Move) (c slot : Nat) : (s.taken rest).frame c slot = s.frame c slot :=
  s.chargeGiven_frame c slot

@[simp] theorem State.taken_actOf (s : State) (rest : List Move) (c slot : Nat) : (s.taken rest).actOf c slot = s.actOf c slot := by
  unfold State.actOf
  rw [State.taken_frame]
  exact s.chargeGiven_act _

@[simp] theorem State.taken_power (s : State) (rest : List Move) : (s.taken rest).power = s.power := s.chargeGiven_power

/-! ### Engines -/

theorem State.checked_sameEngines (s : State) (c : Nat) (sc : BitVec 32) : SameEngines s (s.checked c sc) := by
  unfold State.checked
  split
  · exact sameEngines_modCell _ _ fun x v => by cases v <;> rfl
  · exact .refl s

theorem State.readyMove_engine {u s2 : State} {c p : Nat} {v : EngineUnit} {x : Prog} {st : Site} (hon : u.power.mode = .on)
    (hrun : ((u.cell c).engine v).run = some p) (hx : AL.find u.progs p = some x) (hlife : x.life = .running)
    (hoff : x.off = false) (hwait : u.waitOf (.prog p) ≠ .withheld)
    (hnew : x.pend = none → u.engineGo c = true ∧ u.mayCheck c x.naming.scope = true ∧ u.cancelledAt c x.naming.scope = false ∧
      u.writesDone p = true)
    (hpc : x.pc.toNat % 2 = 0)
    (ht : Claims.TakesGroup (if x.pend = none then u.checked c x.naming.scope else u) c x.pc x.held st s2) :
    u.readyMove (.engine c v) = s2.decodeGroup c (.engine v) 0 st := by
  have hgo : ¬ (x.life ≠ .running ∨ x.pend = none ∧ u.engineGo c = false) := by
    rintro (h | ⟨hp, h⟩)
    · exact h hlife
    · simp [(hnew hp).1] at h
  have hmay : ¬ (x.pend = none ∧ u.mayCheck c x.naming.scope = false) := by
    rintro ⟨hp, h⟩
    simp [(hnew hp).2.1] at h
  have hcancel : ¬ (x.pend = none ∧ u.cancelledAt c x.naming.scope = true) := by
    rintro ⟨hp, h⟩
    simp [(hnew hp).2.2.1] at h
  have hwrites : ¬ (u.waitOf (.prog p) = .withheld ∨ x.pend = none ∧ u.writesDone p = false) := by
    rintro (h | ⟨hp, h⟩)
    · exact hwait h
    · simp [(hnew hp).2.2.2] at h
  have hsame : SameEngines u (if x.pend = none then u.checked c x.naming.scope else u) := by
    split
    · exact u.checked_sameEngines _ _
    · exact .refl u
  unfold State.readyMove State.readyEngine
  dsimp only
  rw [if_pos hon, hrun]
  dsimp only
  rw [hx]
  dsimp only
  rw [if_neg hgo, if_neg hmay, if_neg hcancel, if_neg hwrites, hoff]
  refine State.readyGroup_of_takes hpc ?_ ht
  obtain ⟨hprogs, heng⟩ := hsame
  simp [State.heldGroup, State.progId, heng, hprogs, hrun, hx]

/-! ### Trace cores -/

theorem State.readyMove_gorivo {u : State} {k : Nat} {w : BitVec 32} {i : Instr} (hon : u.power.mode = .on)
    (hbusy : (u.trace k).busy = true) (hv : (u.trace k).verdict = .none) (hw : (u.trace k).store[(u.trace k).pc]? = some w)
    (hi : decodeGorivo w = .ok i) : u.readyMove (.gorivo k) = .run i { u with cur := .trace k } := by
  have hbegin : u.beginTrace k = u := by
    unfold State.beginTrace
    dsimp only
    rw [hbusy]
  unfold State.readyMove State.readyTrace
  dsimp only
  rw [if_pos hon, hbegin, if_neg (by simp [hbusy, hv]), hw]
  dsimp only
  rw [hi]

theorem State.readyMove_event {u : State} {i : Instr} (h : u.mayCome i = true) :
    u.readyMove (.event i) = .run i { u with cur := .none } := by
  unfold State.readyMove
  dsimp only
  rw [if_pos h]

/-! ### The claim, part by part -/

theorem step_issues {s : State} {rest : List Move} {c slot : Nat} (hu : s.upsets = []) (ha : s.agenda = .issue c slot :: rest)
    (hon : s.power.mode = .on) (hlife : (s.frame c slot).life = .running) (hoff : (s.frame c slot).off = false)
    (hkept : (s.frame c slot).pend = none → (s.actOf c slot).kept = none)
    (hwait : (s.taken rest).waitOf (.frame c slot) ≠ .withheld)
    (hpre : (s.taken rest).preempted c slot = false) (hpc : (s.frame c slot).pc.toNat % 2 = 0) {st : Site} {s2 : State}
    (ht : Claims.TakesGroup (s.taken rest) c (s.frame c slot).pc (s.frame c slot).held st s2) :
    (∀ i, decodeFor .scalar ⟨st.pfx, st.base⟩ = .ok i →
      step s = exec i { s2.hold ⟨c, .scalar, slot, st⟩ st with cur := .group c .scalar slot st }) ∧
    (∀ cause, decodeFor .scalar ⟨st.pfx, st.base⟩ = .bad cause → ∃ t, step s = .next t ∧
      (t.frame c slot).life = .frozen ∧ (t.frame c slot).g = (s2.frame c slot).g ∧ t.mem = s2.mem ∧
      ∃ tr, (t.frame c slot).trap = some tr ∧ tr.cause = causeCode cause ∧ tr.site.pc = (s.frame c slot).pc ∧
        tr.stage = .raised) := by
  have hm : (s.taken rest).readyMove (.issue c slot) = s2.decodeGroup c .scalar slot st :=
    State.readyMove_frame (by simpa using hon) (by simpa using hlife) (by simpa using hoff) (by simpa using hkept) hwait hpre
      (by simpa using hpc) (by simpa using ht)
  refine ⟨fun i hi => step_of_run hu ha (hm.trans (State.decodeGroup_ok hi)), fun cause hb => ?_⟩
  obtain ⟨site, hsite, hd⟩ := State.decodeGroup_bad (s := s2) (c := c) (slot := slot) hb
  refine ⟨_, step_of_done hu ha (hm.trans hd), ?_⟩
  rw [State.trapGroup_frame, State.trapGroup_mem]
  exact ⟨rfl, rfl, rfl, _, rfl, rfl, hsite.trans (takesGroup_pc ht), rfl⟩

theorem step_runs_engine {s : State} {rest : List Move} {c p : Nat} {v : EngineUnit} {x : Prog} (hu : s.upsets = [])
    (ha : s.agenda = .engine c v :: rest) (hon : s.power.mode = .on) (hrun : ((s.cell c).engine v).run = some p)
    (hx : AL.find s.progs p = some x) (hlife : x.life = .running) (hoff : x.off = false)
    (hwait : (s.taken rest).waitOf (.prog p) ≠ .withheld)
    (hnew : x.pend = none → (s.taken rest).engineGo c = true ∧ (s.taken rest).mayCheck c x.naming.scope = true ∧
      (s.taken rest).cancelledAt c x.naming.scope = false ∧ (s.taken rest).writesDone p = true)
    (hpc : x.pc.toNat % 2 = 0) {st : Site} {s2 : State}
    (ht : Claims.TakesGroup (if x.pend = none then (s.taken rest).checked c x.naming.scope else s.taken rest) c x.pc x.held st s2) :
    (∀ i, decodeFor (.engine v) ⟨st.pfx, st.base⟩ = .ok i →
      step s = exec i { s2.hold ⟨c, .engine v, 0, st⟩ st with cur := .group c (.engine v) 0 st }) ∧
    (∀ cause, decodeFor (.engine v) ⟨st.pfx, st.base⟩ = .bad cause → ∃ t z tr, step s = .next t ∧
      AL.find t.progs p = some z ∧ z.life = .frozen ∧ z.w = x.w ∧ t.mem = s2.mem ∧
      z.trap = some tr ∧ tr.cause = causeCode cause ∧ tr.site.pc = x.pc ∧ tr.stage = .raised) := by
  have hcharge : s.chargeGiven = s := State.chargeGiven_eq ha nofun
  have hsame : SameEngines s (s.taken rest) := by
    unfold State.taken
    rw [hcharge]
    exact ⟨rfl, fun _ _ => rfl⟩
  obtain ⟨hprogs, heng⟩ := hsame
  have hrun' : (((s.taken rest).cell c).engine v).run = some p := by rw [heng, hrun]
  have hx' : AL.find (s.taken rest).progs p = some x := by rw [hprogs, hx]
  have hm := State.readyMove_engine (by simpa using hon) hrun' hx' hlife hoff hwait hnew hpc ht
  refine ⟨fun i hi => step_of_run hu ha (hm.trans (State.decodeGroup_ok hi)), fun cause hb => ?_⟩
  obtain ⟨site, hsite, hd⟩ := State.decodeGroup_bad (s := s2) (c := c) (slot := 0) hb
  have hs2 : SameEngines (s.taken rest) s2 := by
    refine .trans ?_ (takesGroup_sameEngines ht)
    split
    · exact State.checked_sameEngines _ _ _
    · exact .refl _
  obtain ⟨hprogs2, heng2⟩ := hs2
  have hrun2 : ((s2.cell c).engine v).run = some p := by rw [heng2, hrun']
  have hx2 : AL.find s2.progs p = some x := by rw [hprogs2, hx']
  obtain ⟨z, tr, hz, hfrozen, hw, htr, hcause, htrsite, hstage⟩ := State.trapGroup_prog (cause := causeCode cause)
    (site := site) (idx := 0) (next := st.next) hrun2 hx2
  exact ⟨_, z, tr, step_of_done hu ha (hm.trans hd), hz, hfrozen, hw, State.trapGroup_mem _ _ _ _ _, htr, hcause,
    by rw [htrsite, hsite, takesGroup_pc ht], hstage⟩

theorem step_runs_trace {s : State} {rest : List Move} {k : Nat} {w : BitVec 32} {i : Instr} (hu : s.upsets = [])
    (ha : s.agenda = .gorivo k :: rest) (hon : s.power.mode = .on) (hbusy : (s.trace k).busy = true)
    (hv : (s.trace k).verdict = .none) (hw : (s.trace k).store[(s.trace k).pc]? = some w) (hi : decodeGorivo w = .ok i) :
    step s = exec i { s.taken rest with cur := .trace k } := by
  have htr : (s.taken rest).trace k = s.trace k := by
    unfold State.taken
    rw [State.chargeGiven_eq ha nofun]
    rfl
  exact step_of_run hu ha (State.readyMove_gorivo (by simpa using hon) (by rw [htr, hbusy]) (by rw [htr, hv]) (by rw [htr, hw]) hi)

/-- Settles O4: the head of the agenda is what is made ready, and the decoder's answer for the group that its unit takes, whether held or
fetched, is what runs or traps. -/
theorem stepRunsTheInstruction : Obligations.StepRunsTheInstruction := by
  intro s rest hu
  refine ⟨fun hon => ⟨?_, ?_, ?_⟩, ?_⟩
  · intro c slot ha f hlife hoff hkept hwait hpre hpc st s2 ht
    exact step_issues hu ha hon hlife hoff hkept hwait hpre hpc ht
  · intro c v p x ha hrun hx hlife hoff hwait hnew hpc st s2 ht
    exact step_runs_engine hu ha hon hrun hx hlife hoff hwait hnew hpc ht
  · intro k w i ha hbusy hv hw hi
    exact step_runs_trace hu ha hon hbusy hv hw hi
  · intro i ha hcome
    exact step_of_run hu ha (State.readyMove_event hcome)

end Sys2Proof.Machine

namespace Sys2Proof.Machine

/-! ## Dispatch, refusal and retirement -/

/-! ### What the operations of dispatch leave -/

theorem happens_of_some {s t : State} {i : Instr} {q : State → Prop} {r : Option State} (he : exec i s = happen s r)
    (hr : r = some t) (hq : q t) : Happens s i q := ⟨t, by rw [he, hr]; rfl, hq⟩

@[simp] theorem State.endWait_cell (s : State) (r : FaultReq) (k : Nat) : (s.endWait r).cell k = s.cell k := rfl
@[simp] theorem State.offer_cell (s : State) (c kind : Nat) (nm : Naming) (entry : Addr) (slot : Nat) (dseq : BitVec 8)
    (code aux k : Nat) : (s.offer c kind nm entry slot dseq code aux).cell k = s.cell k := rfl
@[simp] theorem State.offer_acts (s : State) (c kind : Nat) (nm : Naming) (entry : Addr) (slot : Nat) (dseq : BitVec 8)
    (code aux : Nat) : (s.offer c kind nm entry slot dseq code aux).acts = s.acts := rfl
@[simp] theorem State.offer_flights (s : State) (c kind : Nat) (nm : Naming) (entry : Addr) (slot : Nat) (dseq : BitVec 8)
    (code aux : Nat) : (s.offer c kind nm entry slot dseq code aux).flights = s.flights := rfl

/-- A control message changes what is on its way, and nothing else. -/
theorem State.postCtl_frame (s : State) (m : Ctl) : { s.postCtl m with
    ctls := s.ctls, asks := s.asks, packets := s.packets, hubPaths := s.hubPaths, nextId := s.nextId } = s := by
  unfold State.postCtl
  dsimp only
  split
  · rfl
  · split <;> rfl

@[simp] theorem State.postCtl_cell (s : State) (m : Ctl) (k : Nat) : (s.postCtl m).cell k = s.cell k :=
  (congrArg (State.cell · k) (s.postCtl_frame m) :)
@[simp] theorem State.postCtl_acts (s : State) (m : Ctl) : (s.postCtl m).acts = s.acts :=
  (congrArg State.acts (s.postCtl_frame m) :)

/-- A control message to a cell of this device travels under a number of its own. -/
theorem State.postCtl_here {s : State} {m : Ctl} (h : devOf m.dst = s.devNum) : ∃ paths, s.postCtl m = { s with
    ctls := AL.put s.ctls s.nextId { m with colour := s.ctlColour m }, nextId := s.nextId + 1, hubPaths := paths } :=
  ⟨_, if_pos h⟩

@[simp] theorem State.returnWeight_cell (s : State) (src : BitVec 24) (sc : BitVec 32) (w : Nat) (hub : Bool) (k : Nat) :
    (s.returnWeight src sc w hub).cell k = s.cell k := by simp [State.returnWeight, apply_ite (State.cell · k)]
@[simp] theorem State.returnWeight_acts (s : State) (src : BitVec 24) (sc : BitVec 32) (w : Nat) (hub : Bool) :
    (s.returnWeight src sc w hub).acts = s.acts := by simp [State.returnWeight, apply_ite State.acts]

/-- Weight of a scope of this device travels to the scope's home (R160). -/
theorem State.returnWeight_here {s : State} (src : BitVec 24) {sc : BitVec 32} {w : Nat} (hub : Bool) (hw : w ≠ 0)
    (hd : devOf (homeOf sc) = s.devNum) :
    ∃ q paths, s.returnWeight src sc w hub = { s with
        ctls := AL.put s.ctls s.nextId q, nextId := s.nextId + 1, hubPaths := paths } ∧
      q.kind = .weightReturn ∧ q.dst = homeOf sc ∧ q.scope = sc ∧ q.value = BitVec.ofNat 64 w := by
  unfold State.returnWeight
  rw [if_neg hw]
  obtain ⟨paths, h⟩ := State.postCtl_here (m := { Ctl.make .weightReturn src (homeOf sc) sc 0 .none with value := word w, hub := hub }) hd
  exact ⟨_, paths, h, rfl, rfl, rfl, rfl⟩

@[simp] theorem State.sendService_cell (s : State) (f : Field) (src : BitVec 24) (hub : Bool) (words : List Word) (nack : Bool)
    (k : Nat) : (s.sendService f src hub words nack).cell k = s.cell k := by
  simp only [State.sendService, State.askMint, State.postCtl_cell]; rfl
@[simp] theorem State.sendService_acts (s : State) (f : Field) (src : BitVec 24) (hub : Bool) (words : List Word) (nack : Bool) :
    (s.sendService f src hub words nack).acts = s.acts := by
  simp only [State.sendService, State.askMint, State.postCtl_acts]

@[simp] theorem State.countReplica_cell (s : State) (m : Msg) (k : Nat) : (s.countReplica m).cell k = s.cell k := by
  unfold State.countReplica
  split <;> rfl
@[simp] theorem State.countReplica_acts (s : State) (m : Msg) : (s.countReplica m).acts = s.acts := by
  unfold State.countReplica
  split <;> rfl

@[simp] theorem State.sendPacket_cell (s : State) (p : Packet) (k : Nat) : (s.sendPacket p).cell k = s.cell k := rfl
@[simp] theorem State.sendPacket_acts (s : State) (p : Packet) : (s.sendPacket p).acts = s.acts := rfl

/-- A refusal tells the source of a message, and changes no cell (R136). -/
@[simp] theorem State.nack_cell (s : State) (m : Msg) (code : Nat) (src : BitVec 24) (hub : Bool) (fld : Option Field) (k : Nat) :
    (s.nack m code src hub fld).cell k = s.cell k := by
  unfold State.nack
  dsimp only
  (repeat' split) <;> simp
@[simp] theorem State.nack_acts (s : State) (m : Msg) (code : Nat) (src : BitVec 24) (hub : Bool) (fld : Option Field) :
    (s.nack m code src hub fld).acts = s.acts := by
  unfold State.nack
  dsimp only
  (repeat' split) <;> simp

theorem State.follower_congr {s t : State} {c : Nat} (hp : (s.cell c).paired = (t.cell c).paired)
    (hl : (s.cell c).leader = (t.cell c).leader) : s.follower c = t.follower c := by
  simp [State.follower, hp, hl]

/-- A cell that leads no pair frees a slot of its own alone. -/
theorem State.dropSlot_of_alone {s : State} {c : Nat} (k : Nat) (h : s.follower c = none) :
    s.dropSlot c k = (s.endWait (.input c k)).modCell c (fun x => { x with slots := AL.del x.slots k }) := by
  unfold State.dropSlot State.mirrorSlots
  have : ((s.endWait (.input c k)).modCell c (fun x => { x with slots := AL.del x.slots k })).follower c = none := by
    rw [← h]; exact State.follower_congr (by simp) (by simp)
  rw [this]

theorem State.translate_cells (s : State) (field va : Nat) (need : Need) : (s.translate field va need).2.cells = s.cells := by
  unfold State.translate
  (repeat' split) <;> rfl

/-- A code line that can be read changes no cell: only a refusal is logged there (R180). -/
theorem State.codeLine_ok_cells {s s2 : State} {c field : Nat} {segs : List Seg} {va : Nat} {bs : List Byte}
    (h : s.codeLine c field segs va = (.ok bs, s2)) : s2.cells = s.cells := by
  have ht := s.translate_cells field va .x
  unfold State.codeLine at h
  dsimp only at h
  split at h
  case h_1 => (repeat' split at h) <;> simp_all
  case h_2 =>
    split at h
    · next e =>
      rw [e] at ht
      split at h <;> simp_all
    all_goals simp at h
  all_goals simp at h

/-- Reading a descriptor that meets R132 changes no cell. -/
theorem State.readDescriptor_ok_cells {s s2 : State} {c : Nat} {r : FaultReq} {h : Addr} {d : Descriptor}
    (hr : s.readDescriptor c r h = (.ok d, s2)) : s2.cells = s.cells := by
  unfold State.readDescriptor at hr
  dsimp only at hr
  split at hr
  · simp at hr
  split at hr
  · simp at hr
  · simp_all
  · split at hr
    · next e =>
      have := State.codeLine_ok_cells e
      simp_all
    all_goals simp at hr

theorem State.follower_of_cells {s t : State} (h : s.cells = t.cells) (c : Nat) : s.follower c = t.follower c := by
  simp [State.follower, State.cell, h]

/-! ### The dispatch decision -/

section
variable {s : State} {c k : Nat} {p : InSlot} {chan : BitVec 3} (hmay : s.mayDispatch c = true)
  (hnext : s.nextDispatch c = some (k, p, chan)) (hover : (s.cell c).overflow = false) (hquery : p.query = none)
include hmay hnext hover hquery

theorem State.tryDispatch_of_notified (hn : s.notified c p.msg.scope = true) : s.tryDispatch c = some (s.discardSlot c k p) := by
  simp [State.tryDispatch, hmay, hnext, hover, hquery, hn]

variable (hn : s.notified c p.msg.scope = false) (hstolen : p.stolen = none)
include hn hstolen

theorem State.tryDispatch_of_no_handler (h0 : p.msg.handler = 0)
    (ht : (AL.get TagEntry.reset (s.cell c).tags p.msg.tag.toNat).handler = 0) : s.tryDispatch c = some (s.refuseSlot c k p 1) := by
  simp [State.tryDispatch, hmay, hnext, hover, hquery, hn, hstolen, h0, ht]

theorem State.tryDispatch_of_descriptor {h : Addr} {d : Descriptor} {s2 : State} {slot : Nat}
    (hh : h = if p.msg.handler = 0 then (AL.get TagEntry.reset (s.cell c).tags p.msg.tag.toNat).handler else p.msg.handler)
    (h0 : h ≠ 0) (hd : s.readDescriptor c (.input c k) h = (.ok d, s2)) (hslot : (s.freeFrames c).head? = some slot) :
    s.tryDispatch c = some ((s2.startAct c k p h d chan slot).modCell c Cell.askAnew) := by
  have hh' : (if p.msg.handler = 0 ∧ p.stolen.isNone = true then
      (AL.get TagEntry.reset (s.cell c).tags p.msg.tag.toNat).handler else p.msg.handler) = h := by simp [hh, hstolen]
  unfold State.tryDispatch
  rw [hmay, hnext]
  dsimp only
  rw [hh', hover, hquery, Option.getD_none, hn, if_neg h0, hd, hstolen]
  dsimp only
  rw [hslot]
  rfl

end

/-! ### The frame that dispatch loads -/

/-- Words set in turn stand from the first register on. -/
theorem Regs.get_foldl_set (ws : List Word) (i n : Nat) (r : Regs) :
    Regs.get ((ws.zipIdx i).foldl (fun r v => Regs.set r v.2 v.1) r) n =
      if i ≤ n then (ws[n - i]?).getD (Regs.get r n) else Regs.get r n := by
  induction ws generalizing i r with
  | nil => simp
  | cons w ws ih =>
    rw [List.zipIdx_cons, List.foldl_cons, ih, Regs.get_set]
    obtain h | rfl | h := lt_trichotomy i n
    · obtain ⟨m, hm⟩ : ∃ m, n - i = m + 1 := ⟨n - i - 1, by omega⟩
      simp [show i ≤ n by omega, show i + 1 ≤ n by omega, show i ≠ n by omega, show n - (i + 1) = m by omega, hm]
    · simp
    · simp [show ¬ i ≤ n by omega, show ¬ i + 1 ≤ n by omega, show i ≠ n by omega]

/-- The registers of a dispatched frame are the words of its message, its header and its scope word, and zero behind them (R133). -/
theorem Frame.dispatched_get (m : Msg) (h : Addr) (d : Descriptor) (chan : BitVec 3) (a order n : Nat) :
    Regs.get (Frame.dispatched m h d chan a order).g n = ((m.words ++ [m.hdr, m.naming.scopeWord])[n]?).getD 0 := by
  exact (Regs.get_foldl_set _ 0 n []).trans (by simp [Regs.get, AL.get])

/-- The activation that a message starts in a frame slot. -/
def State.newAct (s : State) (c : Nat) (p : InSlot) (h : Addr) (d : Descriptor) (slot : Nat) : Act := { Act.zero with
  cell := c, slot := some slot, slot0 := slot, dseq := AL.get 0 (s.cell c).dseq slot + 1, naming := p.msg.naming,
  holdings := if p.msg.w = 0 then [] else [⟨p.msg.scope, p.msg.w⟩], xferId := p.msg.xferId, entry := h, engine := d.engine,
  checked := false, sent := p.msg.sent, arrived := p.arrived, dispd := s.time64 }

theorem State.startAct_acts {s : State} {c k : Nat} {p : InSlot} {h : Addr} {d : Descriptor} {chan : BitVec 3} {slot : Nat}
    (hf : s.follower c = none) (hp : p.stolen = none) :
    (s.startAct c k p h d chan slot).acts = AL.put s.acts s.nextId (s.newAct c p h d slot) := by
  unfold State.startAct
  simp only [hf, hp]
  simp [State.offerSlot, State.newAct]

/-- The cell of a started activation has lost the message's slot and has the frame. -/
theorem State.startAct_cell {s : State} {c k : Nat} {p : InSlot} {h : Addr} {d : Descriptor} {chan : BitVec 3} {slot : Nat}
    (hf : s.follower c = none) (hp : p.stolen = none) (j : Nat) :
    (s.startAct c k p h d chan slot).cell j = if c = j then { s.cell c with
      slots := AL.del (s.cell c).slots k,
      frames := AL.put (s.cell c).frames slot (Frame.dispatched p.msg h d chan s.nextId s.nextId),
      dseq := AL.put (s.cell c).dseq slot (AL.get 0 (s.cell c).dseq slot + 1),
      pairs := AL.del (s.cell c).pairs slot } else s.cell j := by
  have hcell : ∀ (t : State) (l : AL Act) (n : Nat) (us : List Upset), { t with acts := l, nextId := n, upsets := us }.cell = t.cell :=
    fun _ _ _ _ => rfl
  unfold State.startAct State.offerSlot
  simp only [hf, hp, State.dropSlot_of_alone k hf, State.offer_cell, State.cell_modCell, State.cell_setFrame, hcell, State.endWait_cell]
  split <;> simp

theorem State.startAct_frame {s : State} {c k : Nat} {p : InSlot} {h : Addr} {d : Descriptor} {chan : BitVec 3} {slot : Nat}
    (hf : s.follower c = none) (hp : p.stolen = none) (j i : Nat) :
    (s.startAct c k p h d chan slot).frame j i =
      if c = j ∧ slot = i then Frame.dispatched p.msg h d chan s.nextId s.nextId else s.frame j i := by
  unfold State.frame
  rw [State.startAct_cell hf hp]
  by_cases hc : c = j
  · subst hc
    simp [AL.get_put]
  · simp [hc]

theorem AL.find_map {α β : Type} (l : AL α) (f : α → β) (k : Nat) :
    AL.find (l.map (fun p => (p.1, f p.2))) k = (AL.find l k).map f := by
  induction l with
  | nil => rfl
  | cons p l ih => simp only [List.map_cons, AL.find]; split <;> simp [ih]


/-- A message whose scope's home is asked anew. -/
def InSlot.askedAnew (p : InSlot) : InSlot := if p.query.isSome then { p with query := none, asked := false } else p

theorem Cell.askAnew_slots (x : Cell) : x.askAnew.slots = x.slots.map (fun p => (p.1, p.2.askedAnew)) := rfl

/-- Dispatch starts an activation in the lowest free frame (R27 to R30, R133). -/
theorem dispatch_loads_frame : Claims.DispatchLoadsAFrame := by
  intro s s2 c k p chan d slot w0 w1 w2 w3 hmay hnext hover hquery hstolen hn hf hw h h0 hd hslot
  have hf2 : s2.follower c = none := (State.follower_of_cells (State.readDescriptor_ok_cells hd) c).trans hf
  have hframe : ∀ j i, ((s2.startAct c k p h d chan slot).modCell c Cell.askAnew).frame j i =
      if c = j ∧ slot = i then Frame.dispatched p.msg h d chan s2.nextId s2.nextId else s2.frame j i := fun j i => by
    rw [State.frame_modCell_of_frames _ _ _ _ rfl, State.startAct_frame hf2 hstolen]
  refine happens_of_some (exec_dispatch c s) (State.tryDispatch_of_descriptor hmay hnext hover hquery hn hstolen rfl h0 hd hslot) ?_
  dsimp only
  rw [hframe, if_pos ⟨rfl, rfl⟩]
  refine ⟨rfl, rfl, rfl, rfl, rfl, rfl, ?_, fun n hn6 => ?_, fun _ => rfl, rfl, ?_, fun j hj => ?_, by simp,
    s2.newAct c p h d slot, ?_, rfl, rfl, rfl, rfl, rfl⟩
  · simp [List.range_succ, Frame.dispatched_get, hw]
  · rw [Frame.dispatched_get, hw, List.getElem?_eq_none (by simpa using hn6)]
    rfl
  · rw [State.cell_modCell_same]
    simp [Cell.askAnew_slots, AL.find_map, State.startAct_cell hf2 hstolen]
  · rw [hframe, if_neg (by omega)]
  · rw [State.modCell_acts, State.startAct_acts hf2 hstolen, AL.find_put_same]

/-! ### Messages that dispatch turns away -/

/-- An account changes the sender table of a cell, and nothing else of it (R384). -/
theorem State.account_cell_frame (s : State) (c : Nat) (nm : Naming) (sent arrived dispd : BitVec 64) (discard : Bool) (k : Nat) :
    { (s.account c nm sent arrived dispd discard).cell k with senders := (s.cell k).senders } = s.cell k := by
  unfold State.account
  simp only [State.cell_modCell]
  split
  · next e => rw [e]
  · rfl

@[simp] theorem State.account_slots (s : State) (c : Nat) (nm : Naming) (sent arrived dispd : BitVec 64) (discard : Bool) (k : Nat) :
    ((s.account c nm sent arrived dispd discard).cell k).slots = (s.cell k).slots :=
  (congrArg Cell.slots (s.account_cell_frame c nm sent arrived dispd discard k) :)
@[simp] theorem State.account_sb (s : State) (c : Nat) (nm : Naming) (sent arrived dispd : BitVec 64) (discard : Bool) (k : Nat) :
    ((s.account c nm sent arrived dispd discard).cell k).sb = (s.cell k).sb :=
  (congrArg Cell.sb (s.account_cell_frame c nm sent arrived dispd discard k) :)
@[simp] theorem State.account_frame (s : State) (c : Nat) (nm : Naming) (sent arrived dispd : BitVec 64) (discard : Bool)
    (k i : Nat) : (s.account c nm sent arrived dispd discard).frame k i = s.frame k i :=
  (congrArg (fun x : Cell => AL.get Frame.free x.frames i) (s.account_cell_frame c nm sent arrived dispd discard k) :)
@[simp] theorem State.account_acts (s : State) (c : Nat) (nm : Naming) (sent arrived dispd : BitVec 64) (discard : Bool) :
    (s.account c nm sent arrived dispd discard).acts = s.acts := by simp [State.account]
@[simp] theorem State.account_flights (s : State) (c : Nat) (nm : Naming) (sent arrived dispd : BitVec 64) (discard : Bool) :
    (s.account c nm sent arrived dispd discard).flights = s.flights := by simp [State.account]

theorem State.discardSlot_slots {s : State} {c k : Nat} {p : InSlot} (hf : s.follower c = none) :
    ((s.discardSlot c k p).cell c).slots = AL.del (s.cell c).slots k := by
  simp [State.discardSlot, State.offerMsg, State.dropSlot_of_alone k hf]

theorem State.discardSlot_acts {s : State} {c k : Nat} {p : InSlot} (hf : s.follower c = none) :
    (s.discardSlot c k p).acts = s.acts := by
  simp [State.discardSlot, State.offerMsg, State.dropSlot_of_alone k hf, State.endWait]

theorem State.refuseSlot_cell {s : State} {c k code : Nat} {p : InSlot} (hf : s.follower c = none) :
    (s.refuseSlot c k p code).cell c = { s.cell c with
      slots := AL.del (s.cell c).slots k,
      refusals := log8 (s.cell c).refusals ⟨code, p.msg.handler, p.msg.src, p.msg.scope⟩ } := by
  simp [State.refuseSlot, State.offerMsg, State.logRefusal, State.dropSlot_of_alone k hf]

theorem State.refuseSlot_acts {s : State} {c k code : Nat} {p : InSlot} (hf : s.follower c = none) :
    (s.refuseSlot c k p code).acts = s.acts := by
  simp [State.refuseSlot, State.offerMsg, State.logRefusal, State.dropSlot_of_alone k hf, State.endWait]

theorem dispatch_refuses : Claims.DispatchRefuses := by
  intro s c k p chan hmay hnext hover hquery hstolen hf
  refine ⟨fun hn hw hd => ?_, fun hn h0 ht => ?_⟩
  · refine happens_of_some (exec_dispatch c s) (State.tryDispatch_of_notified hmay hnext hover hquery hn) ?_
    refine ⟨by rw [State.discardSlot_slots hf, AL.find_del_same], by simp, State.discardSlot_acts hf, ?_⟩
    have hdrop : s.dropSlot c k = (s.endWait (.input c k)).modCell c (fun x => { x with slots := AL.del x.slots k }) :=
      State.dropSlot_of_alone k hf
    obtain ⟨q, paths, hr, hq⟩ := State.returnWeight_here (s := s.dropSlot c k) (s.gca c) false hw (by rw [hdrop]; exact hd)
    refine ⟨q, ?_, hq⟩
    have hctls : (s.discardSlot c k p).ctls = ((s.dropSlot c k).returnWeight (s.gca c) p.msg.scope p.msg.w).ctls := rfl
    rw [hctls, hr, hdrop]
    exact AL.find_put_same _ _ _
  · refine happens_of_some (exec_dispatch c s) (State.tryDispatch_of_no_handler hmay hnext hover hquery hn hstolen h0 ht) ?_
    rw [State.refuseSlot_cell hf]
    exact ⟨AL.find_del_same _ _, by simp, State.refuseSlot_acts hf, by rw [h0]⟩

/-! ### Retirement -/

theorem State.follower_of_unpaired {s : State} {c : Nat} (h : (s.cell c).paired = false) : s.follower c = none := by
  simp [State.follower, h]

/-- A cell of no pair retires what may retire (R27). -/
theorem State.tryRetire_of_unpaired {s : State} {c slot : Nat} (hp : (s.cell c).paired = false) (hm : s.mayRetire c slot = true)
    (ht : (s.frame c slot).trap = none) : s.tryRetire c slot = some (s.freeFrame c slot) := by
  simp [State.tryRetire, State.follower_of_unpaired hp, hp, hm, ht]

/-- The state in which a frame is free, before its activation is told. -/
def State.clearedFrame (s : State) (c slot : Nat) : State :=
  let a := s.act (s.frame c slot).act
  (((((s.offerSlot c slot 1 0 (sat32 (s.time64.toNat - a.dispd.toNat))).account c a.naming a.sent a.arrived a.dispd false).endWait
    (.frame c slot)).setFrame c slot Frame.free).modCell c (fun x => { x with pairs := AL.del x.pairs slot }))

theorem State.freeFrame_of_alone {s : State} {c slot : Nat} (hf : s.follower c = none) :
    s.freeFrame c slot = (s.clearedFrame c slot).modAct (s.frame c slot).act (fun t => { t with slot := none }) := by
  simp only [State.freeFrame, State.clearedFrame, hf]

theorem State.clearedFrame_frame (s : State) (c slot j i : Nat) :
    (s.clearedFrame c slot).frame j i = if c = j ∧ slot = i then Frame.free else s.frame j i := by
  unfold State.clearedFrame
  simp only
  rw [State.frame_modCell_of_frames _ _ _ _ rfl, State.frame_setFrame]
  exact if_congr Iff.rfl rfl (State.account_frame _ _ _ _ _ _ _ _ _)

theorem State.clearedFrame_acts (s : State) (c slot : Nat) : (s.clearedFrame c slot).acts = s.acts := by
  simp [State.clearedFrame, State.offerSlot, State.endWait]

theorem State.clearedFrame_flights (s : State) (c slot : Nat) : (s.clearedFrame c slot).flights = s.flights := by
  simp [State.clearedFrame, State.offerSlot, State.endWait]

theorem State.clearedFrame_mem (s : State) (c slot : Nat) : (s.clearedFrame c slot).mem = s.mem := by
  simp [State.clearedFrame]

theorem State.clearedFrame_sb (s : State) (c slot : Nat) : ((s.clearedFrame c slot).cell c).sb = (s.cell c).sb := by
  simp [State.clearedFrame, State.cell_setFrame, State.offerSlot]

@[simp] theorem State.modAct_cell (s : State) (a : Nat) (f : Act → Act) (k : Nat) : (s.modAct a f).cell k = s.cell k := by
  simp [State.cell, State.modAct_cells]
@[simp] theorem State.modAct_frame (s : State) (a : Nat) (f : Act → Act) (k i : Nat) : (s.modAct a f).frame k i = s.frame k i := by
  simp [State.frame]

theorem State.modAct_of_find {s : State} {a : Nat} {x : Act} (f : Act → Act) (h : AL.find s.acts a = some x) :
    s.modAct a f = { s with acts := AL.put s.acts a (f x) } := by
  unfold State.modAct
  rw [h]

theorem retirement_frees_frame {s : State} {c slot : Nat} {act : Act} (hm : s.mayRetire c slot = true)
    (ht : (s.frame c slot).trap = none) (hp : (s.cell c).paired = false) (ha : AL.find s.acts (s.frame c slot).act = some act) :
    Happens s (.retirement c slot) fun t => t.frame c slot = Frame.free ∧
      (∀ k, k ≠ slot → t.frame c k = s.frame c k) ∧ AL.find t.acts (s.frame c slot).act = some { act with slot := none } ∧
      t.mem = s.mem ∧ t.flights = s.flights ∧ (t.cell c).sb = (s.cell c).sb := by
  refine happens_of_some (exec_retirement c slot s) (State.tryRetire_of_unpaired hp hm ht) ?_
  rw [State.freeFrame_of_alone (State.follower_of_unpaired hp)]
  refine ⟨by simp [State.clearedFrame_frame], fun k hk => ?_, ?_, ?_, ?_, ?_⟩
  · simp [State.clearedFrame_frame, hk.symm]
  · rw [State.modAct_of_find _ (by rwa [State.clearedFrame_acts])]
    exact AL.find_put_same _ _ _
  · exact (State.modAct_mem _ _ _).trans (s.clearedFrame_mem c slot)
  · exact (State.modAct_flights _ _ _).trans (s.clearedFrame_flights c slot)
  · rw [State.modAct_cell, State.clearedFrame_sb]

@[simp] theorem anyOrder_singleton (occasion : Nat) (h : Holding) : anyOrder occasion 1 [h] = [h] := by
  simp [anyOrder, Nat.mod_one]

section
variable {s : State} {c a : Nat} {act : Act} {sc : BitVec 32} {w : Nat} (ha : AL.find s.acts a = some act) (hc : act.cell = c)
  (hslot : act.slot = none) (hdead : act.dead = []) (hdr : s.drained a act = true) (hh : act.holdings = [⟨sc, w⟩])
include ha hc hslot hdead hdr hh

/-- The one holding of a drained activation returns; the activation goes where nothing names it any more. -/
theorem State.tryDrain_of_one_holding :
    let u := s.returnWeight (s.gca c) sc w
    s.tryDrain c a = some (if s.unnamed a act then
        { u with acts := AL.del u.acts a, progs := u.progs.filter (fun p => !(p.2.act == a)) }
      else { u with acts := AL.put u.acts a { act with holdings := [] } }) := by
  unfold State.tryDrain
  rw [ha]
  dsimp only
  rw [if_pos ⟨hc, hslot, hdead, hdr⟩, hh, List.length_singleton, anyOrder_singleton, List.foldl_cons, List.foldl_nil,
    State.modAct_of_find _ (by rwa [State.returnWeight_acts]), if_neg (List.cons_ne_nil _ _)]
  split <;> rfl

theorem drain_returns_weight (hw : w ≠ 0) (hd : devOf (homeOf sc) = s.devNum) :
    Happens s (.weightReturnDrain c a) fun t =>
      (∃ q, AL.find t.ctls s.nextId = some q ∧ q.kind = .weightReturn ∧ q.dst = homeOf sc ∧ q.scope = sc ∧
        q.value = BitVec.ofNat 64 w) ∧
      AL.find t.acts a = (if s.unnamed a act then none else some { act with holdings := [] }) ∧
      { t with ctls := s.ctls, acts := s.acts, progs := s.progs, hubPaths := s.hubPaths, nextId := s.nextId } = s := by
  obtain ⟨q, paths, hr, hq⟩ := State.returnWeight_here (s.gca c) false hw hd
  have hput : AL.find (AL.put s.ctls s.nextId q) s.nextId = some q := AL.find_put_same _ _ _
  refine happens_of_some (exec_weightReturnDrain c a s) (State.tryDrain_of_one_holding ha hc hslot hdead hdr hh) ?_
  rw [hr]
  split
  · exact ⟨⟨q, hput, hq⟩, AL.find_del_same _ _, rfl⟩
  · exact ⟨⟨q, hput, hq⟩, AL.find_put_same _ _ _, rfl⟩

end

/-- Settles O29: each decision of the dispatcher is one branch of `State.tryDispatch`, and what it makes of a cell that leads no pair is
read off the cell, the activations and the control messages. -/
theorem dispatchLoadsAFrame : Obligations.DispatchLoadsAFrame :=
  ⟨dispatch_loads_frame, dispatch_refuses, fun _ _ _ => ⟨fun _ hm ht hp ha => retirement_frees_frame hm ht hp ha,
    fun _ _ _ _ ha hc hslot hdead hdr hh hw hd => drain_returns_weight ha hc hslot hdead hdr hh hw hd⟩⟩

/-! ## Bins, die records, scan tests, repair and scrubbing -/

/-! ### Tap slots and bins (R416, R417) -/

theorem State.cell_of_cells {s t : State} (h : s.cells = t.cells) (k : Nat) : s.cell k = t.cell k :=
  congrArg (AL.get Cell.reset · k) h

/-- A change of one cell, whatever else of the state changes. -/
theorem State.cell_of_modCell {s t : State} {c : Nat} (f : Cell → Cell) (h : t.cells = (s.modCell c f).cells) :
    t.cell c = f (s.cell c) ∧ ∀ d, d ≠ c → t.cell d = s.cell d :=
  ⟨(State.cell_of_cells h c).trans (State.cell_modCell_same s c f), fun d hd =>
    (State.cell_of_cells h d).trans ((State.cell_modCell s c d f).trans (if_neg hd.symm))⟩

theorem setNat_getElem? {l : List Nat} {n i : Nat} (v : Nat) (h : i < n) : (setNat l n i v)[i]? = some v := by
  simp [setNat, h]

/-- What an injected operation makes of a cluster some of whose lanes do not match (R417). -/
theorem Cluster.marked_eq (y : Cluster) (c u : Nat) (lanes : List Nat) :
    y.marked c u lanes =
      let logged := { y with tapLog := y.tapLog ++ lanes.map (fun l => (c, u, l)) }
      if y.marginal = true ∧ y.stopped = true then logged
      else { logged with marginal := true, stopped := true, bin := if y.bin = 3 then 3 else y.bin + 1 } := by
  simp [Cluster.marked]

theorem tapLanes_of_lt {u : Nat} (h : u < 3) : tapLanes u = if u = 0 then 1 else if u = 1 then 64 else 32 := by
  interval_cases u <;> rfl

theorem execTapInject_eq {s : State} {c u lane : Nat} {vs : List Word} (hu : u < 3) :
    let n := ((s.cell c).tapPos[u]?).getD 0
    let s1 := s.modCell c (fun x => { x with tapPos := setNat x.tapPos 3 u ((n + 1) % 32) })
    execTapInject c u lane vs s = .next (if badLanes u n lane vs = [] then s1
      else s1.modCluster (clusterOf c) (fun k => k.marked c u (badLanes u n lane vs))) := by
  simp [execTapInject, show ¬ 3 ≤ u by omega]

theorem tap_moves_cluster (s : State) {c u lane : Nat} (vs : List Word) (hu : u < 3) :
    let n := ((s.cell c).tapPos[u]?).getD 0
    let bad := badLanes u n lane vs
    Happens s (.tapInject c u lane vs) fun t =>
      (t.cell c).tapPos[u]? = some ((n + 1) % 32) ∧ { t.cell c with tapPos := (s.cell c).tapPos } = s.cell c ∧
      (∀ d, d ≠ c → t.cell d = s.cell d) ∧ (bad = [] → t.clusters = s.clusters) ∧
      (bad ≠ [] → t.clusters = AL.put s.clusters (clusterOf c) ((s.cluster (clusterOf c)).marked c u bad)) ∧
      { t with cells := s.cells, clusters := s.clusters } = s := by
  intro n bad
  refine ⟨_, (exec_tapInject c u lane vs s).trans (execTapInject_eq hu), ?_⟩
  have hcell : ∀ t : State, t.cells = (s.modCell c (fun x => { x with tapPos := setNat x.tapPos 3 u ((n + 1) % 32) })).cells →
      (t.cell c).tapPos[u]? = some ((n + 1) % 32) ∧ { t.cell c with tapPos := (s.cell c).tapPos } = s.cell c ∧
        ∀ d, d ≠ c → t.cell d = s.cell d := by
    intro t ht
    obtain ⟨hc, hd⟩ := State.cell_of_modCell _ ht
    rw [hc]
    exact ⟨setNat_getElem? _ hu, rfl, hd⟩
  split
  · next hb =>
    obtain ⟨hpos, hrest, hother⟩ := hcell _ rfl
    exact ⟨hpos, hrest, hother, fun _ => rfl, fun hn => absurd hb hn, rfl⟩
  · next hb =>
    obtain ⟨hpos, hrest, hother⟩ := hcell _ (State.modCluster_cells _ _ _)
    exact ⟨hpos, hrest, hother, fun hn => absurd hn hb, fun _ => rfl, rfl⟩

/-! ### Die records (R420, R422) -/

theorem AL.find_map_key {α : Type} (l : List Nat) (f : Nat → α) (j : Nat) :
    AL.find (l.map (fun k => (k, f k))) j = if j ∈ l then some (f j) else none := by
  induction l with
  | nil => rfl
  | cons k l ih =>
    rw [List.map_cons, AL.find, ih]
    by_cases h : k = j
    · simp [h]
    · simp [h, Ne.symm h]

theorem AL.get_map_range {α : Type} (x : α) {n : Nat} (f : Nat → α) {j : Nat} (h : j < n) :
    AL.get x ((List.range n).map (fun k => (k, f k))) j = f j := by
  simp [AL.get, AL.find_map_key, h]

theorem DieRecord.valid_iff (r : DieRecord) (die : Nat) (k : KeyStore) :
    r.valid die k = true ↔ r.magic = 0x524D4C48 ∧ r.version = 1 ∧ r.die = die ∧ r.sigEd = fit 64 (Config.sign 0 k.recEd r.body) ∧
      r.sigMldsa = fit 3309 (Config.sign 1 k.recMl r.body) := by
  simp [DieRecord.valid, DieRecord.signed, recMagic, and_assoc]

theorem DieRecord.valid_signed {r : DieRecord} (k : KeyStore) (hm : r.magic = recMagic) (hv : r.version = 1) :
    (r.signed k).valid r.die k = true :=
  (DieRecord.valid_iff _ _ _).2 ⟨hm, hv, rfl, rfl, rfl⟩

/-- A commit writes the record of a die as it stands (R420). -/
theorem State.commit_committed (s : State) (die : Nat) : Claims.Committed s (s.commit die) die := by
  refine ⟨s.dieNow die (max (s.dieSlot die 0).gen (s.dieSlot die 1).gen + 1), rfl, rfl, DieRecord.valid_signed _ rfl rfl, rfl, rfl, rfl,
    fun j hj => ?_, fun c hc => ?_⟩
  · exact AL.get_map_range _ _ hj
  · exact AL.get_map_range _ _ hc

theorem bins_move : Claims.BinsMove := by
  intro s c u lane k vs bin
  refine ⟨fun hu => ?_, fun hq pass => ?_, fun hq => ⟨?_, ?_⟩, fun hb => ?_, fun hb => ?_⟩
  · have h := tap_moves_cluster s (c := c) (lane := lane) vs hu
    simp only [badLanes, tapLanes_of_lt hu, Cluster.marked_eq] at h
    exact h
  · simp [execSweepResult, hq]
  · refine ⟨_, (exec_sweepResult k true s).trans ?_, State.commit_committed _ _⟩
    simp [execSweepResult, hq]
    rfl
  · simp [execSweepResult, hq]
    rfl
  · refine ⟨_, (exec_requalification k bin s).trans ?_, State.commit_committed _ _⟩
    simp [execRequalification, hb]
    rfl
  · simp [execRequalification, show ¬ bin.toNat ≤ (s.cluster k).bin.toNat by omega]

/-- May a row of a column be marked against the column of the record in use (R422)? -/
def State.mayMark (s : State) (die c : Nat) (was : Column) : Option Nat → Bool
  | none => true
  | some row => was.removed == some row || was.failed == some row || s.firmware.scanFail.contains (physKey die row c)

theorem State.mayMark_iff (s : State) (die c : Nat) (was : Column) (r : Option Nat) :
    s.mayMark die c was r = true ↔
      ∀ row, r = some row → was.removed = some row ∨ was.failed = some row ∨ 1056 * die + 32 * row + c ∈ s.firmware.scanFail := by
  cases r <;> simp [State.mayMark, physKey, or_assoc]

theorem State.commitOk_eq (s : State) (die : Nat) :
    let was := fun c => AL.get Column.whole (s.dieRecord die).columns c
    s.commitOk die = ((List.range 32).all (fun c =>
        s.mayMark die c (was c) (s.column die c).removed && s.mayMark die c (was c) (s.column die c).failed) &&
      (List.range 64).all (fun k => decide ((AL.get 0 (s.dieRecord die).bins k).toNat ≤ (s.cluster (64 * die + k)).bin.toNat))) := by
  have hmark (c : Nat) (was : Column) (r : Option Nat) : s.mayMark die c was r = match r with
      | none => true
      | some row => was.removed == r || was.failed == r || s.firmware.scanFail.contains (physKey die row c) := by
    cases r <;> rfl
  simp only [hmark]
  rfl

/-- The monitor may commit a record that marks no cell removed but one that the record in use marks or whose scan test failed, and that
lowers no bin (R422). -/
theorem State.commitOk_iff (s : State) (die : Nat) : s.commitOk die = true ↔
    (∀ c < 32, ∀ row, (s.column die c).removed = some row ∨ (s.column die c).failed = some row →
      (AL.get Column.whole (s.dieRecord die).columns c).removed = some row ∨
      (AL.get Column.whole (s.dieRecord die).columns c).failed = some row ∨ 1056 * die + 32 * row + c ∈ s.firmware.scanFail) ∧
    ∀ j < 64, (AL.get 0 (s.dieRecord die).bins j).toNat ≤ (s.cluster (64 * die + j)).bin.toNat := by
  rw [State.commitOk_eq]
  simp only [Bool.and_eq_true, List.all_eq_true, List.mem_range, State.mayMark_iff, decide_eq_true_eq, or_imp, forall_and]

theorem State.dieRecord_eq (s : State) (die : Nat) :
    s.dieRecord die =
      if (s.dieSlot die 0).valid die s.firmware.keys = true ∧
          ((s.dieSlot die 1).valid die s.firmware.keys = true → (s.dieSlot die 1).gen ≤ (s.dieSlot die 0).gen) then s.dieSlot die 0
      else if (s.dieSlot die 1).valid die s.firmware.keys = true then s.dieSlot die 1 else DieRecord.factory die := by
  unfold State.dieRecord
  simp [imp_iff_not_or]

/-! The image of a die record (Table 21-7). -/

theorem leNat_leBytes (n v : Nat) : leNat (leBytes n v) = v % 256 ^ n := by
  induction n generalizing v with
  | zero => simp [leBytes, leNat, Nat.mod_one]
  | succ n ih =>
    rw [leBytes, leNat, ih, Nat.pow_succ', Nat.mod_mul]
    simp

@[simp] theorem leBytes_length (n v : Nat) : (leBytes n v).length = n := by
  induction n generalizing v with
  | zero => rfl
  | succ n ih => simp [leBytes, ih]

theorem leBytes_take {k n : Nat} (v : Nat) (h : k ≤ n) : (leBytes n v).take k = leBytes k v := by
  induction k generalizing n v with
  | zero => rfl
  | succ k ih =>
    obtain ⟨m, rfl⟩ : ∃ m, n = m + 1 := ⟨n - 1, by omega⟩
    rw [leBytes, leBytes, List.take_succ_cons, ih _ (by omega)]

theorem leBytes_drop (k n v : Nat) : (leBytes (k + n) v).drop k = leBytes n (v / 256 ^ k) := by
  induction k generalizing v with
  | zero => simp
  | succ k ih => rw [Nat.succ_add, leBytes, List.drop_succ_cons, ih, Nat.div_div_eq_div_mul, Nat.pow_succ']

@[simp] theorem fit_length (n : Nat) (bs : List Byte) : (fit n bs).length = n := by
  simp [fit]
  omega

theorem fit_take {k n : Nat} {bs : List Byte} (hn : k ≤ n) (hk : k ≤ bs.length) : (fit n bs).take k = bs.take k := by
  rw [fit, List.take_take, Nat.min_eq_left hn, List.take_append_of_le_length hk]

theorem DieRecord.body_length (r : DieRecord) : r.body.length = 128 := by
  simp [DieRecord.body, wordsBytes]

/-- The first doubleword of a record. -/
def DieRecord.head (r : DieRecord) : Nat := r.magic.toNat + 2 ^ 32 * r.version.toNat + 2 ^ 48 * (r.die % 4)

theorem DieRecord.head_lt (r : DieRecord) : r.head < 2 ^ 64 := by
  have hm := r.magic.isLt
  have hv := r.version.isLt
  unfold DieRecord.head
  omega

theorem DieRecord.body_take (r : DieRecord) (h : r.gen < 2 ^ 64) : r.body.take 16 = leBytes 8 r.head ++ leBytes 8 r.gen := by
  have hw : wordsBytes [word r.head, word r.gen] = leBytes 8 r.head ++ leBytes 8 r.gen := by
    simp only [wordsBytes, word, List.flatMap_cons, List.flatMap_nil, List.append_nil, BitVec.toNat_ofNat, Nat.mod_eq_of_lt h,
      Nat.mod_eq_of_lt r.head_lt]
  unfold DieRecord.body
  rw [List.append_assoc, List.append_assoc]
  exact (List.take_append_of_le_length (by simp [wordsBytes])).trans ((List.take_of_length_le (by simp [wordsBytes])).trans hw)

/-- What the image of a record holds before its signatures. -/
theorem DieRecord.image_take (r : DieRecord) (h : r.gen < 2 ^ 64) : r.image.take 16 = leBytes 8 r.head ++ leBytes 8 r.gen := by
  rw [DieRecord.image, fit_take (by decide) (by simp [DieRecord.body_length]), List.append_assoc,
    List.take_append_of_le_length (by simp [DieRecord.body_length]), r.body_take h]

theorem take_drop_of_take {l m : List Byte} {k n i : Nat} (h : l.take i = m) (hi : k + n ≤ i) :
    (l.drop k).take n = (m.drop k).take n := by
  rw [← h, List.drop_take, List.take_take, Nat.min_eq_left (by omega)]

/-- A number within the first doubleword of an image. -/
theorem DieRecord.image_head (r : DieRecord) (h : r.gen < 2 ^ 64) {k n : Nat} (hn : k + n ≤ 8) :
    leNat ((r.image.drop k).take n) = r.head / 256 ^ k % 256 ^ n := by
  rw [take_drop_of_take (r.image_take h) (by omega), List.drop_append_of_le_length (by rw [leBytes_length]; omega),
    List.take_append_of_le_length (by rw [List.length_drop, leBytes_length]; omega)]
  have h8 : leBytes 8 r.head = leBytes (k + (8 - k)) r.head := by rw [Nat.add_sub_cancel' (by omega)]
  rw [h8, leBytes_drop, leBytes_take _ (by omega), leNat_leBytes]

theorem DieRecord.image_gen (r : DieRecord) (h : r.gen < 2 ^ 64) : leNat ((r.image.drop 8).take 8) = r.gen := by
  rw [take_drop_of_take (r.image_take h) (by decide), List.drop_left' (by simp), List.take_of_length_le (by simp), leNat_leBytes]
  exact Nat.mod_eq_of_lt h

theorem DieRecord.image_sigEd (r : DieRecord) : (r.image.drop 128).take 64 = fit 64 r.sigEd := by
  have ht : r.image.take 192 = r.body ++ fit 64 r.sigEd := by
    rw [DieRecord.image, fit_take (by decide) (by simp [DieRecord.body_length]), List.take_left' (by simp [DieRecord.body_length])]
  rw [take_drop_of_take ht (by decide), List.drop_left' r.body_length, List.take_of_length_le (by simp)]

theorem DieRecord.image_layout (r : DieRecord) (h : r.gen < 2 ^ 64) : r.image.length = 4096 ∧
    (r.image.drop 128).take 64 = fit 64 r.sigEd ∧ leNat (r.image.take 4) = r.magic.toNat ∧
    leNat ((r.image.drop 4).take 2) = r.version.toNat ∧ leNat ((r.image.drop 8).take 8) = r.gen := by
  have hm := r.magic.isLt
  have hv := r.version.isLt
  refine ⟨fit_length _ _, r.image_sigEd, ?_, ?_, r.image_gen h⟩
  · rw [← List.drop_zero (l := r.image), r.image_head h (by decide)]
    unfold DieRecord.head
    omega
  · rw [r.image_head h (by decide)]
    unfold DieRecord.head
    omega

theorem die_records_committed : Claims.DieRecordsAreCommitted := by
  intro s die
  refine ⟨⟨fun hmay => ?_, fun hnot => ?_⟩, ?_⟩
  · exact ⟨_, (exec_commitDieRecord die s).trans (congrArg Host.Outcome.next (if_pos ((s.commitOk_iff die).2 hmay))), rfl,
      s.commit die, s.commit_committed die, rfl⟩
  · exact (exec_commitDieRecord die s).trans (congrArg Host.Outcome.next (if_neg (mt (s.commitOk_iff die).1 hnot)))
  · have heq := s.dieRecord_eq die
    refine ⟨fun ha hb => heq.trans (if_pos ⟨ha, hb⟩), fun hb ha => (heq.trans (if_neg ?_)).trans (if_pos hb),
      fun ha hb => (heq.trans (if_neg fun h => ha h.1)).trans (if_neg hb), fun r => r.valid_iff _ _, fun r => r.image_layout⟩
    rintro ⟨hva, hle⟩
    exact absurd (ha hva) (Nat.not_lt.2 (hle hb))

/-! ### The in-field scan test and repair (R418, R419) -/

/-- A change of one column, whatever else of the state changes. -/
theorem State.column_of_modColumn {s t : State} {die col : Nat} (f : Column → Column)
    (h : t.columns = (s.modColumn die col f).columns) : t.column die col = f (s.column die col) := by
  simp [State.column, h, State.modColumn]

/-- A cell out of service for its test. -/
def Cell.underTest (x : Cell) : Cell := { x with scan := .running, service := false }

/-- A cell out of service for good. -/
def Cell.takenOut (x : Cell) : Cell := { x with scan := .none, service := false, removed := true }

theorem execScanTest_of_drained {s : State} {c : Nat} (hd : s.cellDrained c = true) (hs : (s.cell c).scan = .none)
    (hv : (s.cell c).service = true) : execScanTest c s = .next
      ((s.modCell c Cell.underTest).modColumn (dieOf c) (colOf c) (fun k =>
        { k with reserved := some (rowOf c) })) := congrArg Host.Outcome.next (if_pos ⟨hd, hs, hv⟩)

theorem execScanTest_of_busy {s : State} {c : Nat} (h : s.cellDrained c = false ∨ (s.cell c).service = false) :
    execScanTest c s = .next s := by
  refine congrArg Host.Outcome.next (if_neg ?_)
  rintro ⟨hd, -, hv⟩
  rcases h with h | h <;> simp_all

/-- A cell that its test gives back is in service with what was saved of it, and the spare row of its column is free (Table 21-6). -/
def State.GivesBack (s : State) (c : Nat) (t : State) : Prop :=
  let x := s.cell c
  let y := t.cell c
  y.scan = .none ∧ y.service = true ∧ y.frames = [] ∧ y.slots = [] ∧ y.sb = [] ∧ y.tags = x.tags ∧ y.cancels = x.cancels ∧
  y.joins = x.joins ∧ y.deficit = x.deficit ∧ y.bells = x.bells ∧ y.vector = x.vector ∧ y.matrix = x.matrix ∧
  y.streamer = x.streamer ∧ y.acc = x.acc ∧ y.scales = x.scales ∧ y.refusals = x.refusals ∧ y.violations = x.violations ∧
  (∀ d, d ≠ c → t.cell d = s.cell d) ∧
  t.column (dieOf c) (colOf c) = { s.column (dieOf c) (colOf c) with reserved := none } ∧
  { t with cells := s.cells, columns := s.columns } = s

theorem State.endScan_givesBack (s : State) (c : Nat) : s.GivesBack c (s.endScan c) := by
  obtain ⟨hc, hd⟩ := State.cell_of_modCell (s := s) (t := s.endScan c) Cell.afterScan rfl
  unfold State.GivesBack
  rw [hc]
  exact ⟨rfl, rfl, rfl, rfl, rfl, rfl, rfl, rfl, rfl, rfl, rfl, rfl, rfl, rfl, rfl, rfl, rfl,
    hd, State.column_of_modColumn (s := s) (fun k => { k with reserved := none }) rfl, rfl⟩

theorem execScanTestAbort_of_message {s : State} {c : Nat} {m : Nat × MsgFlight} (hr : (s.cell c).scan = .running) (hm : m ∈ s.msgs)
    (hc : cellOf m.2.msg.dst = c) (hd : devOf m.2.msg.dst = s.devNum) : execScanTestAbort c s = .next (s.endScan c) := by
  refine congrArg Host.Outcome.next (if_pos ⟨hr, List.any_eq_true.2 ⟨m, hm, ?_⟩⟩)
  simp [hc, hd]

/-- A cell is out of service for good and its failed test logged, before its column is marked (R419). -/
def State.withoutCell (s : State) (c : Nat) : State :=
  let t := s.modCell c Cell.takenOut
  { t with firmware := { t.firmware with scanFail := t.firmware.scanFail ++ [physKey (dieOf c) (s.physRow c) (colOf c)] } }

theorem State.removeCell_of_spare {s : State} {c : Nat} (hr : (s.column (dieOf c) (colOf c)).removed = none)
    (hf : (s.column (dieOf c) (colOf c)).failed = none) :
    s.removeCell c = ((s.withoutCell c).modColumn (dieOf c) (colOf c) (fun k =>
      { k with failed := some (s.physRow c), reserved := none })).commit (dieOf c) := by
  unfold State.removeCell
  dsimp only
  rw [hr, hf]
  rfl

theorem State.removeCell_of_full {s : State} {c : Nat}
    (h : (s.column (dieOf c) (colOf c)).removed ≠ none ∨ (s.column (dieOf c) (colOf c)).failed ≠ none) :
    s.removeCell c = State.commit { (s.withoutCell c).modColumn (dieOf c) (colOf c) (fun k =>
      { k with second := true, reserved := none }) with
        degraded := if s.degraded.contains (dieOf c) then s.degraded else s.degraded ++ [dieOf c] } (dieOf c) := by
  unfold State.removeCell
  exact congrArg (State.commit · (dieOf c)) (if_pos (by simpa [Option.isSome_iff_ne_none] using h))

theorem State.withoutCell_scanFail (s : State) (c : Nat) :
    1056 * dieOf c + 32 * s.physRow c + colOf c ∈ (s.withoutCell c).firmware.scanFail :=
  List.mem_append_right _ (List.mem_singleton_self _)

/-- A cell that fails its test is out of service for good, and its die's record is marked (R419). -/
theorem State.removeCell_removes (s : State) (c : Nat) :
    let t := s.removeCell c
    let col := s.column (dieOf c) (colOf c)
    t.cell c = { s.cell c with scan := .none, service := false, removed := true } ∧ (∀ d, d ≠ c → t.cell d = s.cell d) ∧
    1056 * dieOf c + 32 * s.physRow c + colOf c ∈ t.firmware.scanFail ∧ t.mem = s.mem ∧
    Claims.Committed { t with dieRecs := s.dieRecs } t (dieOf c) ∧
    (col.removed = none → col.failed = none →
      t.column (dieOf c) (colOf c) = { col with failed := some (s.physRow c), reserved := none } ∧ t.degraded = s.degraded) ∧
    (col.removed ≠ none ∨ col.failed ≠ none →
      t.column (dieOf c) (colOf c) = { col with second := true, reserved := none } ∧ dieOf c ∈ t.degraded) := by
  intro t col
  by_cases h : col.removed ≠ none ∨ col.failed ≠ none
  · have ht : t = _ := State.removeCell_of_full h
    rw [ht]
    obtain ⟨hhere, hother⟩ := State.cell_of_modCell (s := s) (t := t) Cell.takenOut (by rw [ht]; rfl)
    rw [ht] at hhere hother
    refine ⟨hhere, hother, s.withoutCell_scanFail c, rfl, State.commit_committed _ _, fun hr hf => ?_, fun _ => ⟨?_, ?_⟩⟩
    · exact absurd h (by simp [hr, hf])
    · exact State.column_of_modColumn (s := s) (fun k => { k with second := true, reserved := none }) rfl
    · show dieOf c ∈ if s.degraded.contains (dieOf c) then s.degraded else s.degraded ++ [dieOf c]
      split
      · next hd => exact List.contains_iff_mem.1 hd
      · exact List.mem_append_right _ (List.mem_singleton_self _)
  · obtain ⟨hr, hf⟩ : col.removed = none ∧ col.failed = none := by simpa using h
    have ht : t = _ := State.removeCell_of_spare hr hf
    rw [ht]
    obtain ⟨hhere, hother⟩ := State.cell_of_modCell (s := s) (t := t) Cell.takenOut (by rw [ht]; rfl)
    rw [ht] at hhere hother
    exact ⟨hhere, hother, s.withoutCell_scanFail c, rfl, State.commit_committed _ _,
      fun _ _ => ⟨State.column_of_modColumn (s := s) (fun k => { k with failed := some (s.physRow c), reserved := none }) rfl,
        rfl⟩, fun hn => absurd hn h⟩

theorem execScanTestResult_of_running {s : State} {c : Nat} (sig : Word) (hr : (s.cell c).scan = .running) :
    execScanTestResult c sig s = .next (if sig = Config.scanSignature c then s.endScan c else s.removeCell c) :=
  congrArg Host.Outcome.next (if_neg (not_not_intro hr))

theorem cells_are_tested : Claims.CellsAreTested := by
  intro s c
  refine ⟨fun hd hs hv => ?_, fun h => ?_, fun hr => ⟨fun m hm hc hd => ?_, ?_, fun sig hsig => ?_⟩⟩
  · obtain ⟨hhere, hother⟩ := State.cell_of_modCell (s := s) (c := c) Cell.underTest rfl
    exact ⟨_, (exec_scanTest c s).trans (execScanTest_of_drained hd hs hv), hhere, hother,
      State.column_of_modColumn (s := s) (fun k => { k with reserved := some (rowOf c) }) rfl, rfl⟩
  · exact (exec_scanTest c s).trans (execScanTest_of_busy h)
  · exact ⟨_, (exec_scanTestAbort c s).trans (execScanTestAbort_of_message hr hm hc hd), s.endScan_givesBack c⟩
  · refine ⟨_, (exec_scanTestResult c _ s).trans (execScanTestResult_of_running _ hr), ?_⟩
    rw [if_pos rfl]
    exact s.endScan_givesBack c
  · refine ⟨_, (exec_scanTestResult c _ s).trans (execScanTestResult_of_running _ hr), ?_⟩
    rw [if_neg hsig]
    exact s.removeCell_removes c

theorem State.columnOut_iff (s : State) (die col : Nat) : s.columnOut die col = true ↔
    ∀ p ∈ s.fields, p.2.mode = .out ∨ ∀ r < 32, p.2.ctx.holds (cellAt die r col) = false := by
  simp [State.columnOut]

/-- A cell that a repair point puts back into service (R419). -/
def Cell.backInService (x : Cell) : Cell := { x.afterReset with senders := x.senders, service := true, removed := false }

/-- The column of a failed row after its repair point, and the cell that sat there (R19, R419). -/
def State.repaired (s : State) (die col f : Nat) : State :=
  let s1 := s.modColumn die col (fun k => { k with removed := some f, failed := none })
  if f < 32 then s1.modCell (cellAt die f col) Cell.backInService else s1

theorem State.repaired_column (s : State) (die col f : Nat) :
    (s.repaired die col f).column die col = { s.column die col with removed := some f, failed := none } :=
  State.column_of_modColumn (fun k => { k with removed := some f, failed := none }) (by unfold State.repaired; dsimp only; split <;> rfl)

theorem State.repaired_frame (s : State) (die col f : Nat) : { s.repaired die col f with cells := s.cells, columns := s.columns } = s := by
  unfold State.repaired
  dsimp only
  split <;> rfl

theorem State.repaired_cell (s : State) (die col f : Nat) :
    (f < 32 → (s.repaired die col f).cell (cellAt die f col) = (s.cell (cellAt die f col)).backInService) ∧
    ∀ d, d ≠ cellAt die f col ∨ 32 ≤ f → (s.repaired die col f).cell d = s.cell d := by
  unfold State.repaired
  dsimp only
  split
  · next h =>
    obtain ⟨hhere, hother⟩ := State.cell_of_modCell (s := s) (c := cellAt die f col) Cell.backInService rfl
    exact ⟨fun _ => hhere, fun d hd => hother d (hd.resolve_right (by omega))⟩
  · next h => exact ⟨fun h32 => absurd h32 h, fun _ _ => rfl⟩

theorem execRepairPoint_of_failed {s : State} {die col f : Nat} (hf : (s.column die col).failed = some f) :
    execRepairPoint die col s =
      .next (if (s.column die col).removed.isSome || !s.columnOut die col then s else s.repaired die col f) := by
  unfold execRepairPoint
  rw [hf]
  rfl

theorem columns_are_repaired : Claims.ColumnsAreRepaired := by
  intro s die col f hf out
  have hexec : exec (.repairPoint die col) s = _ := (exec_repairPoint die col s).trans (execRepairPoint_of_failed hf)
  refine ⟨fun hr ho => ⟨s.repaired die col f, ?_, s.repaired_column die col f, fun h32 => ?_, (s.repaired_cell die col f).2,
    s.repaired_frame die col f⟩, fun hn => ?_⟩
  · rw [hexec, if_neg (by simp [hr, (s.columnOut_iff die col).2 ho])]
  · rw [(s.repaired_cell die col f).1 h32]
    exact ⟨rfl, rfl, rfl⟩
  · rw [hexec, if_pos]
    rcases hn with hn | hn
    · simp [Option.isSome_iff_ne_none, hn]
    · simp [Bool.eq_false_iff.2 (mt (s.columnOut_iff die col).1 hn)]

/-! ### Scrubbing (R405, R406, R408) -/

/-- The error log of a unit. -/
def State.errLog (s : State) (k : Nat) : ErrLog := AL.get ErrLog.empty s.errLogs k

theorem State.logErr_errLog (s : State) (k : Nat) (e : ErrEntry) (j : Nat) :
    (s.logErr k e).errLog j = if k = j then (s.errLog j).log e else s.errLog j := by
  unfold State.errLog State.logErr
  rw [AL.get_put]
  split
  · next h => rw [h]
  · rfl

theorem memUpset_inj {v w : Nat} : memUpset v = memUpset w ↔ v = w :=
  ⟨fun h => congrArg Upset.index h, congrArg memUpset⟩

theorem State.latent_upsets (s : State) (w v : Nat) : memUpset v ∈ (s.latent w).upsets ↔ memUpset v ∈ s.upsets ∧ v ≠ w := by
  simp [State.latent, memUpset_inj]

theorem State.latent_poison (s : State) (w v : Nat) : v ∈ (s.latent w).poison ↔ v ∈ s.poison ∨ v = w := by
  unfold State.latent
  dsimp only
  split
  · next h =>
    have : w ∈ s.poison := List.contains_iff_mem.1 h
    constructor
    · exact Or.inl
    · rintro (h | rfl) <;> assumption
  · simp

/-- What checks of some doublewords of a cell leave: the log entries `es` that they make, what they poison, and what stood in
`State.upsets` that they find. -/
structure State.Checked (s : State) (c : Nat) (ws : List Nat) (es : List ErrEntry) (t : State) : Prop where
  frame : ∃ p l u, t = { s with poison := p, errLogs := l, upsets := u }
  few : es.length ≤ ws.length
  here : t.errLog c = es.foldl ErrLog.log (s.errLog c)
  elsewhere : ∀ j, j ≠ c → t.errLog j = s.errLog j
  entries : ∀ e ∈ es, (e.kind = 1 ∨ e.kind = 2) ∧ e.source = s.gca c
  added : ∀ w ∈ t.poison, w ∈ s.poison ∨ (w ∈ ws ∧ (s.scrubEntry 2 w).2 ∈ es)
  kept : ∀ w ∈ s.poison, w ∈ t.poison
  struck : ∀ w ∈ ws, memUpset w ∈ s.upsets → w ∈ s.poison → (s.scrubEntry 2 w).2 ∈ es ∧ memUpset w ∉ t.upsets
  fewer : ∀ w, memUpset w ∈ t.upsets → memUpset w ∈ s.upsets
  stays : ∀ w, w ∉ ws → memUpset w ∈ s.upsets → memUpset w ∈ t.upsets

theorem State.Checked.refl (s : State) (c : Nat) : s.Checked c [] [] s where
  frame := ⟨_, _, _, rfl⟩
  few := le_rfl
  here := rfl
  elsewhere _ _ := rfl
  entries _ h := absurd h List.not_mem_nil
  added _ h := .inl h
  kept _ h := h
  struck _ h := absurd h List.not_mem_nil
  fewer _ h := h
  stays _ _ h := h

/-- Checks one after the other. -/
theorem State.Checked.append {s t u : State} {c : Nat} {ws vs : List Nat} {es fs : List ErrEntry} (h : s.Checked c ws es t)
    (k : t.Checked c vs fs u) : s.Checked c (ws ++ vs) (es ++ fs) u := by
  have hgca : t.gca c = s.gca c := by obtain ⟨p, l, v, rfl⟩ := h.frame; rfl
  have hentry : ∀ w, t.scrubEntry 2 w = s.scrubEntry 2 w := by obtain ⟨p, l, v, rfl⟩ := h.frame; exact fun _ => rfl
  have hframe : ∃ p l v, u = { s with poison := p, errLogs := l, upsets := v } := by
    obtain ⟨p, l, v, rfl⟩ := h.frame
    obtain ⟨p', l', v', rfl⟩ := k.frame
    exact ⟨p', l', v', rfl⟩
  refine ⟨hframe, ?_, ?_, fun j hj => (k.elsewhere j hj).trans (h.elsewhere j hj), ?_, ?_, fun w hw => k.kept w (h.kept w hw), ?_,
    fun w hw => h.fewer w (k.fewer w hw), ?_⟩
  · simpa using add_le_add h.few k.few
  · rw [k.here, h.here, List.foldl_append]
  · intro e he
    obtain he | he := List.mem_append.1 he
    · exact h.entries e he
    · exact hgca ▸ k.entries e he
  · intro w hw
    obtain hw | ⟨hw, he⟩ := k.added w hw
    · exact (h.added w hw).imp_right fun ⟨hw, he⟩ => ⟨List.mem_append_left _ hw, List.mem_append_left _ he⟩
    · exact .inr ⟨List.mem_append_right _ hw, List.mem_append_right _ (hentry w ▸ he)⟩
  · intro w hw hu hp
    by_cases hws : w ∈ ws
    · obtain ⟨he, hn⟩ := h.struck w hws hu hp
      exact ⟨List.mem_append_left _ he, fun hc => hn (k.fewer w hc)⟩
    · obtain ⟨he, hn⟩ := k.struck w ((List.mem_append.1 hw).resolve_left hws) (h.stays w hws hu) (h.kept w hp)
      exact ⟨List.mem_append_right _ (hentry w ▸ he), hn⟩
  · intro w hw hu
    rw [List.mem_append, not_or] at hw
    exact k.stays w hw.2 (h.stays w hw.1 hu)

/-- A doubleword is one of a cell: a check of it is logged by the cell, under its name. -/
def State.LogsAt (s : State) (c w : Nat) : Prop :=
  ∀ kind, (s.scrubEntry kind w).1 = c ∧ (s.scrubEntry kind w).2.source = s.gca c ∧ (s.scrubEntry kind w).2.kind = kind

theorem State.latent_errLog (s : State) (w j : Nat) :
    (s.latent w).errLog j = if (s.scrubEntry 2 w).1 = j then (s.errLog j).log (s.scrubEntry 2 w).2 else s.errLog j :=
  s.logErr_errLog _ _ _

theorem State.latent_checked {s : State} {c w : Nat} (hw : s.LogsAt c w) : s.Checked c [w] [(s.scrubEntry 2 w).2] (s.latent w) := by
  obtain ⟨hkey, hsrc, hkind⟩ := hw 2
  refine ⟨⟨_, _, _, rfl⟩, le_rfl, ?_, fun j hj => ?_, ?_, fun v hv => ?_, fun v hv => ?_, ?_, fun v hv => ?_, fun v hv hu => ?_⟩
  · rw [State.latent_errLog, if_pos hkey]; rfl
  · rw [State.latent_errLog, if_neg (hkey ▸ hj.symm)]
  · intro e he
    rw [List.mem_singleton.1 he]
    exact ⟨.inr hkind, hsrc⟩
  · obtain hv | rfl := (s.latent_poison w v).1 hv
    · exact .inl hv
    · exact .inr ⟨List.mem_singleton_self _, List.mem_singleton_self _⟩
  · exact (s.latent_poison w v).2 (.inl hv)
  · intro v hv _ _
    rw [List.mem_singleton.1 hv]
    exact ⟨List.mem_singleton_self _, fun h => ((s.latent_upsets w w).1 h).2 rfl⟩
  · exact ((s.latent_upsets w v).1 hv).1
  · exact (s.latent_upsets w v).2 ⟨hu, fun h => hv (List.mem_singleton.2 h)⟩

/-- A check that finds no uncorrectable error, of a doubleword that was not struck. -/
theorem State.logged_checked {s t : State} {c w : Nat} {es : List ErrEntry} (hf : ∃ l, t = { s with errLogs := l }) (few : es.length ≤ 1)
    (here : t.errLog c = es.foldl ErrLog.log (s.errLog c)) (elsewhere : ∀ j, j ≠ c → t.errLog j = s.errLog j)
    (entries : ∀ e ∈ es, e.kind = 1 ∧ e.source = s.gca c) (hn : ¬ (memUpset w ∈ s.upsets ∧ w ∈ s.poison)) : s.Checked c [w] es t := by
  obtain ⟨l, rfl⟩ := hf
  exact ⟨⟨_, _, _, rfl⟩, few, here, elsewhere, fun e he => (entries e he).imp_left .inl, fun _ h => .inl h, fun _ h => h,
    fun v hv hu hp => absurd ⟨List.mem_singleton.1 hv ▸ hu, List.mem_singleton.1 hv ▸ hp⟩ hn, fun _ h => h, fun _ _ h => h⟩

theorem State.checkWord_checked {s : State} {c w : Nat} (code : Nat) (hw : s.LogsAt c w) :
    ∃ es, s.Checked c [w] es (s.checkWord code w) := by
  unfold State.checkWord
  split
  · next hp =>
    split
    · exact ⟨_, s.latent_checked hw⟩
    · next hu => exact ⟨[], State.logged_checked ⟨_, rfl⟩ (Nat.zero_le _) rfl (fun _ _ => rfl) (fun _ h => absurd h List.not_mem_nil)
        fun h => hu (List.contains_iff_mem.2 h.1)⟩
  · next hp =>
    have hn : ¬ (memUpset w ∈ s.upsets ∧ w ∈ s.poison) := fun h => hp (List.contains_iff_mem.2 h.2)
    split
    · exact ⟨_, s.latent_checked hw⟩
    · split
      · obtain ⟨hkey, hsrc, hkind⟩ := hw 1
        refine ⟨[(s.scrubEntry 1 w).2], State.logged_checked ⟨_, rfl⟩ le_rfl ?_ (fun j hj => ?_) ?_ hn⟩
        · exact (s.logErr_errLog _ _ _).trans (if_pos hkey)
        · exact (s.logErr_errLog _ _ _).trans (if_neg (hkey ▸ hj.symm))
        · intro e he
          rw [List.mem_singleton.1 he]
          exact ⟨hkind, hsrc⟩
      · exact ⟨[], State.logged_checked ⟨_, rfl⟩ (Nat.zero_le _) rfl (fun _ _ => rfl) (fun _ h => absurd h List.not_mem_nil) hn⟩

theorem State.Checked.logsAt {s t : State} {c : Nat} {ws : List Nat} {es : List ErrEntry} (h : s.Checked c ws es t) {w : Nat}
    (hw : s.LogsAt c w) : t.LogsAt c w := by
  obtain ⟨p, l, u, rfl⟩ := h.frame
  exact hw

/-- Checks of some words of a cell, each with its own code. -/
theorem State.foldl_checkWord_checked {s : State} {c : Nat} (code word : Nat → Nat) (ks : List Nat)
    (h : ∀ k ∈ ks, s.LogsAt c (word k)) :
    ∃ es, s.Checked c (ks.map word) es (ks.foldl (fun t k => t.checkWord (code k) (word k)) s) := by
  induction ks generalizing s with
  | nil => exact ⟨[], .refl s c⟩
  | cons k ks ih =>
    obtain ⟨es, hes⟩ := s.checkWord_checked (code k) (h k List.mem_cons_self)
    obtain ⟨fs, hfs⟩ := ih fun j hj => hes.logsAt (h j (List.mem_cons_of_mem _ hj))
    exact ⟨es ++ fs, hes.append hfs⟩

/-- Where a byte of a cell's memories is in the flat numbering: of its slice, or of its near scratch. -/
inductive AtCell (c off : Nat) : Nat → Prop
  | slice : off < sliceSize → AtCell c off (sliceAddr c off)
  | near : off < nearSize → AtCell c off (nearAddr c off)

theorem ownerCell_sliceAddr {c off : Nat} (hc : c < 4096) (ho : off < sliceSize) : ownerCell (sliceAddr c off) = some c := by
  have hlow : ¬ sliceAddr c off < sliceBase := by unfold sliceAddr; omega
  have hhigh : sliceAddr c off < farBase := by
    simp only [sliceAddr, farBase, cellCount, sliceSize] at ho ⊢
    omega
  have hcell : (sliceAddr c off - sliceBase) / sliceSize = c := by
    simp only [sliceAddr, sliceSize] at ho ⊢
    omega
  unfold ownerCell
  rw [if_neg hlow, if_pos hhigh, hcell]

theorem nearAddr_lt {c off : Nat} (hc : c < 4096) (ho : off < nearSize) : nearAddr c off < sliceBase := by
  simp only [nearAddr, sliceBase, cellCount, nearSize] at ho ⊢
  omega

theorem ownerCell_nearAddr {c off : Nat} (hc : c < 4096) (ho : off < nearSize) : ownerCell (nearAddr c off) = some c := by
  have hcell : nearAddr c off / nearSize = c := by
    simp only [nearAddr, nearSize] at ho ⊢
    omega
  unfold ownerCell
  rw [if_pos (nearAddr_lt hc ho), hcell]

/-- What a check of a doubleword of a cell logs: at the cell, under its name, at the doubleword's offset (Table 21-2). -/
theorem AtCell.scrubEntry {c off w : Nat} (hc : c < 4096) (h : AtCell c off w) (s : State) (kind : Nat) :
    ∃ st, s.scrubEntry kind w = (c, ⟨s.time64, kind, st, s.cellLocation c off, s.gca c, none, Config.syndrome s.tick w⟩) := by
  unfold State.scrubEntry
  obtain ho | ho := h
  · have hlow : decide (sliceAddr c off < sliceBase) = false := decide_eq_false (by unfold sliceAddr; omega)
    have hoff : sliceAddr c off - sliceAddr c 0 = off := by unfold sliceAddr; omega
    rw [ownerCell_sliceAddr hc ho]
    dsimp only
    rw [hlow, hoff]
    exact ⟨_, rfl⟩
  · have hlow : decide (nearAddr c off < sliceBase) = true := decide_eq_true (nearAddr_lt hc ho)
    have hoff : nearAddr c off - nearAddr c 0 = off := by unfold nearAddr; omega
    rw [ownerCell_nearAddr hc ho]
    dsimp only
    rw [hlow, hoff]
    exact ⟨_, rfl⟩

theorem State.cellLocation_off (s : State) (c : Nat) {off : Nat} (h : off < 2 ^ 33) : (s.cellLocation c off).toNat % 2 ^ 33 = off := by
  unfold State.cellLocation
  rw [BitVec.toNat_ofNat]
  omega

/-- A check of the eight doublewords of a line of a cell. -/
theorem State.checkLine_checked {s : State} {c line off : Nat} (hc : c < 4096) (hl : ∀ k < 8, AtCell c (off + 8 * k) (line + 8 * k)) :
    ∃ es, s.Checked c ((List.range 8).map (fun k => line + 8 * k)) es (s.checkLine line) := by
  refine State.foldl_checkWord_checked (fun k => (Config.freeWord s.tick line).toNat / 4 ^ k % 4) (fun k => line + 8 * k) _
    fun k hk kind => ?_
  obtain ⟨st, he⟩ := (hl k (List.mem_range.1 hk)).scrubEntry hc s kind
  rw [he]
  exact ⟨rfl, rfl, rfl⟩

/-- The line of a cell's memories that its scrubber takes at a position, and the line's offset in its memory (R405). -/
def scrubOff (k : Nat) : Nat := if k < 65536 then 64 * k else 64 * (k - 65536)
/-- See `scrubOff`. -/
def scrubAddr (c k : Nat) : Nat := if k < 65536 then sliceAddr c (scrubOff k) else nearAddr c (scrubOff k)

theorem scrubAddr_atCell (c : Nat) {k j : Nat} (hk : k < 69632) (hj : j < 8) : AtCell c (scrubOff k + 8 * j) (scrubAddr c k + 8 * j) := by
  unfold scrubOff scrubAddr
  split
  · rw [show sliceAddr c (scrubOff k) + 8 * j = sliceAddr c (64 * k + 8 * j) by simp only [sliceAddr, scrubOff, if_pos ‹k < 65536›]; omega]
    exact .slice (by unfold sliceSize; omega)
  · rw [show nearAddr c (scrubOff k) + 8 * j = nearAddr c (64 * (k - 65536) + 8 * j) by
      simp only [nearAddr, scrubOff, if_neg ‹¬ k < 65536›]; omega]
    exact .near (by unfold nearSize; omega)

theorem scrubOff_lt {k : Nat} (hk : k < 69632) : scrubOff k < 2 ^ 23 := by
  unfold scrubOff
  split <;> omega

theorem scrubLine_cell (c n : Nat) : scrubLine (.cell c) n = some (scrubAddr c (n % 69632), 69632) := by
  unfold scrubLine scrubAddr scrubOff cellLines
  dsimp only
  split <;> rfl

theorem execScrub_cell (c : Nat) (s : State) :
    let n := AL.get 0 s.scrubPos c
    execScrub (.cell c) s =
      .next { s.scrubAt (scrubAddr c (n % 69632)) with scrubPos := AL.put s.scrubPos c ((n + 1) % 69632) } := by
  unfold execScrub
  dsimp only [errKeyOf]
  rw [scrubLine_cell]

theorem State.scrubAt_of_hot {s : State} {flat : Nat} (h : s.isHot flat = true) : s.scrubAt flat = s := if_pos h

theorem State.scrubAt_of_cold {s : State} {flat : Nat} (h : s.isHot flat = false) : s.scrubAt flat = s.checkLine flat :=
  if_neg (by simp [h])

theorem State.scrubAt_frame {s : State} {c line off : Nat} (hc : c < 4096) (hl : ∀ k < 8, AtCell c (off + 8 * k) (line + 8 * k)) :
    { s.scrubAt line with poison := s.poison, errLogs := s.errLogs, upsets := s.upsets } = s := by
  cases h : s.isHot line with
  | true => rw [State.scrubAt_of_hot h]
  | false =>
    obtain ⟨es, hes⟩ := State.checkLine_checked (s := s) hc hl
    obtain ⟨p, l, u, hf⟩ := hes.frame
    rw [State.scrubAt_of_cold h, hf]

theorem mem_line {line w : Nat} (h : w ∈ (List.range 8).map (fun k => line + 8 * k)) : ∃ j < 8, w = line + 8 * j := by
  obtain ⟨j, hj, rfl⟩ := List.mem_map.1 h
  exact ⟨j, List.mem_range.1 hj, rfl⟩

/-- What a check of a line of a cell finds has its place in the log (R406, R408). -/
theorem State.line_found {s : State} {c line off j : Nat} {es : List ErrEntry} (hc : c < 4096) (ho : off < 2 ^ 23) (hj : j < 8)
    (hl : AtCell c (off + 8 * j) (line + 8 * j)) (h : (s.scrubEntry 2 (line + 8 * j)).2 ∈ es) :
    ∃ e ∈ es, e.kind = 2 ∧ e.location.toNat % 2 ^ 33 = off + 8 * j := by
  obtain ⟨st, he⟩ := hl.scrubEntry hc s 2
  rw [he] at h
  exact ⟨_, h, rfl, s.cellLocation_off c (by omega)⟩

theorem scrubbers_go_on : Claims.ScrubbersGoOn := by
  intro s c hc n k off line log
  have hk : k < 69632 := Nat.mod_lt _ (by decide)
  have ho : off < 2 ^ 23 := scrubOff_lt hk
  have hline : line = scrubAddr c k := by
    simp only [line, off, scrubAddr, scrubOff]
  have hat : ∀ j < 8, AtCell c (off + 8 * j) (line + 8 * j) := fun j hj => hline ▸ scrubAddr_atCell c hk hj
  have hexec : exec (.scrub (.cell c)) s = .next { s.scrubAt line with scrubPos := AL.put s.scrubPos c ((n + 1) % 69632) } :=
    hline ▸ (exec_scrub (.cell c) s).trans (execScrub_cell c s)
  refine ⟨_, hexec, rfl, fun hhot => ?_, fun hcold => ?_, ?_⟩
  · rw [State.scrubAt_of_hot hhot]
    exact ⟨rfl, rfl, rfl⟩
  · rw [State.scrubAt_of_cold hcold]
    obtain ⟨es, h⟩ := State.checkLine_checked (s := s) hc hat
    generalize s.checkLine line = t at h ⊢
    have hfound : ∀ j < 8, (s.scrubEntry 2 (line + 8 * j)).2 ∈ es → _ := fun j hj => State.line_found hc ho hj (hat j hj)
    refine ⟨es, by simpa using h.few, h.here, h.elsewhere, h.entries, fun w hw => ?_, h.kept, fun j hj hu hp => ?_⟩
    · obtain hw | ⟨hw, he⟩ := h.added w hw
      · exact .inl hw
      · obtain ⟨j, hj, rfl⟩ := mem_line hw
        exact .inr ⟨j, hj, rfl, hfound j hj he⟩
    · obtain ⟨he, hn⟩ := h.struck _ (List.mem_map_of_mem (List.mem_range.2 hj)) hu hp
      exact ⟨hfound j hj he, hn⟩
  · exact (congrArg (fun t : State => { t with scrubPos := s.scrubPos }) (s.scrubAt_frame hc hat) :)

/-! ### Errors that strike and are met (R404, R407 to R409) -/

theorem State.scrubEntry_kind (s : State) (kind flat : Nat) : (s.scrubEntry kind flat).2.kind = kind := by
  unfold State.scrubEntry
  split <;> rfl

theorem State.corrected_logs (s : State) (u : Upset) : ∃ k e, s.corrected u = s.logErr k e ∧ e.kind = 1 := by
  unfold State.corrected
  split
  · exact ⟨_, _, rfl, s.scrubEntry_kind 1 u.index⟩
  · exact ⟨_, _, rfl, rfl⟩

theorem State.strike_single {s : State} {u : Upset} (h : u.struct_ ≤ 10) (h4 : u.struct_ ≠ 4) (h5 : u.struct_ ≠ 5) :
    s.strike u .single = s.corrected u := (if_neg (not_or.2 ⟨h4, h5⟩)).trans (if_pos h)

/-- Containing a field that is not under recovery begins its recovery (R410). -/
theorem State.contain_begins {s : State} {f : Nat} (hf : AL.has s.fields f = true) (hr : AL.find s.recovery f = none) :
    s.contain (some f) = { s with recovery := AL.put s.recovery f ⟨4, none, 0, [], []⟩ } := by
  unfold State.contain
  dsimp only
  rw [hr]
  exact if_pos hf

theorem State.contain_frame (s : State) (f : Option Nat) : { s.contain f with recovery := s.recovery } = s := by
  unfold State.contain
  (repeat' split) <;> rfl

/-- An error that has been met, without its mark and with its log entry. -/
def State.met (s : State) (u : Upset) (e : Nat × ErrEntry) : State :=
  { s with upsets := s.upsets.filter (fun v => v != u) }.logErr e.1 e.2

theorem State.met_upsets (s : State) (u : Upset) (e : Nat × ErrEntry) : u ∉ (s.met u e).upsets := by
  show u ∉ s.upsets.filter (fun v => v != u)
  simp

/-- What a consumed error leaves where the field that it contains is not under recovery (R407, R410). -/
theorem State.met_contain {s : State} {u : Upset} {e : Nat × ErrEntry} {f : Nat} (hf : AL.has s.fields f = true)
    (hr : AL.find s.recovery f = none) :
    let t := (s.met u e).contain (some f)
    AL.find t.recovery f = some ⟨4, none, 0, [], []⟩ ∧ u ∉ t.upsets ∧
      { t with upsets := s.upsets, errLogs := s.errLogs, recovery := s.recovery } = s := by
  intro t
  have ht : t = _ := State.contain_begins (s := s.met u e) hf hr
  rw [ht]
  exact ⟨AL.find_put_same _ _ _, s.met_upsets u e, rfl⟩

/-- The field that an error of a cell contains. -/
def State.upsetField (s : State) (u : Upset) : Option Nat := if (s.cell u.key).fieldV then some (s.cell u.key).field else none

theorem State.consumeIn_eq (s : State) (kind : Nat) (u : Upset) :
    let e := s.upsetEntry kind u (s.gca u.key) (s.upsetField u)
    s.consumeIn kind u = if (s.cell u.key).fieldV then (s.met u e).contain (some (s.cell u.key).field)
      else (s.met u e).wipe (fun k => k == u.key) := by
  unfold State.consumeIn State.upsetField
  dsimp only
  split <;> rfl

theorem State.consumeIn_log (s : State) (kind : Nat) (u : Upset) :
    let e := s.upsetEntry kind u (s.gca u.key) (s.upsetField u)
    (s.consumeIn kind u).errLogs = (s.met u e).errLogs ∧ u ∉ (s.consumeIn kind u).upsets := by
  intro e
  have hn := s.met_upsets u e
  rw [State.consumeIn_eq]
  split
  · have hc := (s.met u e).contain_frame (some (s.cell u.key).field)
    exact ⟨(congrArg State.errLogs hc :), fun h => hn ((congrArg State.upsets hc :) ▸ h)⟩
  · exact ⟨rfl, fun h => hn (List.mem_filter.1 h).1⟩

theorem State.consumeAt_of_cell {s : State} {u : Upset} (h : u.struct_ ≤ 8) :
    s.consumeAt u = s.consumeIn (if u.struct_ = 4 ∨ u.struct_ = 5 then 4 else 3) u := if_neg (by omega)

theorem State.consumeAt_of_hub {s : State} {u : Upset} (h : u.struct_ = 10) :
    s.consumeAt u = (s.met u (s.upsetEntry 3 u (s.hubUser u) (s.hubField u))).contain (s.hubField u) := if_pos h

theorem State.upsetEntry_of_cell {s : State} {kind : Nat} {u : Upset} {source : BitVec 24} {field : Option Nat} (h : u.struct_ ≠ 10) :
    let e := s.upsetEntry kind u source field
    e.1 = u.key ∧ e.2.struct_ = u.struct_ ∧ e.2.kind = kind ∧ e.2.source = source :=
  ⟨if_neg h, rfl, rfl, rfl⟩

/-- What a cell meets in a structure of its own is logged there, and contains the cell's field (R407). -/
theorem State.consumeAt_logs {s : State} {u : Upset} (h : u.struct_ ≤ 8) :
    let t := s.consumeAt u
    (∃ e, AL.get ErrLog.empty t.errLogs u.key = (AL.get ErrLog.empty s.errLogs u.key).log e ∧ e.struct_ = u.struct_ ∧
      e.kind = (if u.struct_ = 4 ∨ u.struct_ = 5 then 4 else 3) ∧ e.source = s.gca u.key) ∧ u ∉ t.upsets := by
  intro t
  have ht : t = _ := State.consumeAt_of_cell h
  obtain ⟨hlog, hn⟩ := s.consumeIn_log (if u.struct_ = 4 ∨ u.struct_ = 5 then 4 else 3) u
  obtain ⟨hkey, hstruct, hkind, hsource⟩ := State.upsetEntry_of_cell (s := s) (kind := if u.struct_ = 4 ∨ u.struct_ = 5 then 4 else 3)
    (u := u) (source := s.gca u.key) (field := s.upsetField u) (by omega)
  rw [ht]
  refine ⟨⟨_, ?_, hstruct, hkind, hsource⟩, hn⟩
  rw [hlog]
  exact (State.logErr_errLog _ _ _ _).trans (if_pos hkey)

theorem State.guarded_of_clear {s : State} (m : Move) (ready : State → Ready) (h : s.upsets = []) : s.guarded m ready = ready s := by
  unfold State.guarded
  simp [h]

theorem State.guarded_of_met {s : State} {u : Upset} {m : Move} {ready : State → Ready} (h : s.upsets = [u])
    (hm : s.meets m (ready s) u = true) : s.guarded m ready = .done (s.consumeAt u) := by
  unfold State.guarded
  simp [h, hm]

theorem errors_are_met : Claims.ErrorsAreMet := by
  intro s u
  refine ⟨fun h h4 h5 => ?_, fun h => if_pos h, fun h => ?_, fun h => ⟨if_pos h, ?_⟩, fun h2 h8 => ?_, fun f h10 hf hhas hr => ?_,
    fun m ready => ⟨State.guarded_of_clear m ready, State.guarded_of_met⟩⟩
  · rw [State.strike_single h h4 h5]
    exact s.corrected_logs u
  · have hs : s.strike u .multiple = { s with
        poison := s.poison ++ [u.index / 8 * 8], upsets := memUpset (u.index / 8 * 8) :: s.upsets } := if_pos h
    rw [hs]
    exact ⟨rfl, rfl⟩
  · exact s.scrubEntry_kind 5 u.index
  · obtain ⟨hlog, hn⟩ := s.consumeAt_logs h8
    refine ⟨hlog, hn, fun hv hhas hr => ?_⟩
    rw [State.consumeAt_of_cell h8, State.consumeIn_eq, if_pos hv]
    obtain ⟨hrec, -, hframe⟩ := State.met_contain (u := u) (e := s.upsetEntry _ u (s.gca u.key) (s.upsetField u)) hhas hr
    exact ⟨hrec, hframe⟩
  · rw [State.consumeAt_of_hub h10, hf]
    exact State.met_contain hhas hr

/-- Settles O59: a commit writes the record of a die as it stands, a test's end and a repair point change one cell and one column, the
checks of a line are a chain of checks of doublewords, and an error that is met leaves its mark for a log entry and a containment. -/
theorem cellsAreTested : Obligations.CellsAreTested :=
  ⟨bins_move, die_records_committed, cells_are_tested, columns_are_repaired, scrubbers_go_on, errors_are_met⟩

end Sys2Proof.Machine

namespace Sys2Proof.Machine

/-! # Numbers, vector and matrix instructions

The lemmas of this part follow the model's files: exact numbers and their rounding, control registers, computations over plain bytes of
SRAM, the units of an engine program, vector instructions and matrix instructions. -/

/-! ## Exact numbers and their rounding (spec 03, R66 to R72) -/

theorem Num.finite_iff {x : Num} : x.finite ↔ ∃ s m e, x = .fin s m e := by
  cases x <;> simp [Num.finite]

/-- The integer of a finite value in units of 2^u is the value in these units. -/
theorem scaled_toRat (s : Bool) (m : Nat) {e u : Int} (h : u ≤ e) :
    (scaled s m e u : ℚ) * (2 : ℚ) ^ u = (Num.fin s m e).toRat := by
  have hp : ((2 : ℚ) ^ (e - u).toNat) * (2 : ℚ) ^ u = (2 : ℚ) ^ e := by
    rw [← zpow_natCast, ← zpow_add₀ (by norm_num), Int.toNat_of_nonneg (by omega)]
    congr 1; omega
  cases s <;> simp [scaled, Num.toRat, ← hp] <;> ring

theorem Num.toRat_signed (v u : Int) : (Num.fin (decide (v < 0)) v.natAbs u).toRat = (v : ℚ) * (2 : ℚ) ^ u := by
  have h : (if v < 0 then (-1 : ℚ) else 1) * ((v.natAbs : Nat) : ℚ) = v := by
    split
    · next hv => rw [Nat.cast_natAbs, abs_of_neg hv]; push_cast; ring
    · next hv => rw [Nat.cast_natAbs, abs_of_nonneg (by omega)]; ring
  simp only [Num.toRat, decide_eq_true_eq, h]

theorem two_zpow_pos (u : Int) : (0 : ℚ) < (2 : ℚ) ^ u := zpow_pos (by norm_num) u

theorem Num.toRat_zero (s : Bool) (e : Int) : (Num.fin s 0 e).toRat = 0 := by simp [Num.toRat]

theorem Num.toRat_eq_zero {s : Bool} {m : Nat} {e : Int} : (Num.fin s m e).toRat = 0 ↔ m = 0 := by
  have := (two_zpow_pos e).ne'
  cases s <;> simp [Num.toRat, this]

/-- The sum of two finite values: the exact sum, or a zero with the sign that the mode gives it. -/
theorem Num.add_fin (mode : Nat) (s t : Bool) (m n : Nat) (e g : Int) :
    let r := Num.add mode (.fin s m e) (.fin t n g)
    let q := (Num.fin s m e).toRat + (Num.fin t n g).toRat
    r.1.finite ∧ r.1.toRat = q ∧ r.2 = false ∧ (q = 0 → r.1.neg = if s = t then s else mode == 3) := by
  intro r q
  let u := if e < g then e else g
  have hu : u ≤ e ∧ u ≤ g := by simp only [u]; split <;> omega
  let v := scaled s m e u + scaled t n g u
  have hq : (v : ℚ) * (2 : ℚ) ^ u = q := by
    simp only [q, v, ← scaled_toRat s m hu.1, ← scaled_toRat t n hu.2]; push_cast; ring
  have hr : r = if v = 0 then (.fin (if s = t then s else mode == 3) 0 0, false) else (.fin (decide (v < 0)) v.natAbs u, false) := rfl
  by_cases hv : v = 0
  · rw [if_pos hv] at hr
    rw [hr]
    refine ⟨trivial, ?_, rfl, fun _ => rfl⟩
    rw [← hq, hv, Num.toRat_zero]; simp
  · rw [if_neg hv] at hr
    rw [hr]
    refine ⟨trivial, (Num.toRat_signed v u).trans hq, rfl, fun h0 => absurd h0 ?_⟩
    rw [← hq]
    exact mul_ne_zero (by exact_mod_cast hv) (two_zpow_pos u).ne'

theorem Num.mul_fin (s t : Bool) (m n : Nat) (e g : Int) :
    (Num.mul (.fin s m e) (.fin t n g)).1.toRat = (Num.fin s m e).toRat * (Num.fin t n g).toRat := by
  simp only [Num.mul, Num.toRat, zpow_add₀ (two_ne_zero' ℚ)]
  cases s <;> cases t <;> simp <;> ring

theorem Num.lt_fin (s t : Bool) (m n : Nat) (e g : Int) :
    (Num.fin s m e).lt (.fin t n g) = true ↔ (Num.fin s m e).toRat < (Num.fin t n g).toRat := by
  let u := if e < g then e else g
  have hu : u ≤ e ∧ u ≤ g := by simp only [u]; split <;> omega
  rw [← scaled_toRat s m hu.1, ← scaled_toRat t n hu.2, mul_lt_mul_iff_left₀ (two_zpow_pos u)]
  simp only [Num.lt, decide_eq_true_eq, Int.cast_lt]
  rfl

theorem Num.lt_finite {x y : Num} (hx : x.finite) (hy : y.finite) : x.lt y = true ↔ x.toRat < y.toRat := by
  obtain ⟨s, m, e, rfl⟩ := Num.finite_iff.mp hx
  obtain ⟨t, n, g, rfl⟩ := Num.finite_iff.mp hy
  exact Num.lt_fin s t m n e g

theorem Num.not_nan_of_finite {x : Num} (hx : x.finite) : x.isNan = false := by
  obtain ⟨s, m, e, rfl⟩ := Num.finite_iff.mp hx
  rfl

theorem Num.eqv_finite {x y : Num} (hx : x.finite) (hy : y.finite) : x.eqv y = true ↔ x.toRat = y.toRat := by
  have h1 := Num.lt_finite hx hy
  have h2 := Num.lt_finite hy hx
  simp only [Num.eqv, Num.not_nan_of_finite hx, Num.not_nan_of_finite hy, Bool.not_false, Bool.true_and, Bool.and_eq_true,
    Bool.not_eq_true', ← Bool.not_eq_true, h1, h2, not_lt]
  exact ⟨fun h => le_antisymm h.2 h.1, fun h => ⟨h.ge, h.le⟩⟩

theorem Num.ofInt_exact (v : Int) : (Num.ofInt v).finite ∧ (Num.ofInt v).toRat = (v : ℚ) :=
  ⟨trivial, by simp [Num.ofInt, Num.toRat_signed]⟩

/-! ### A value that its format holds rounds to itself -/

theorem Mag.round_dyadic (m : Nat) {e ulp : Int} (h : ulp ≤ e) {mode draw : Nat} (hd : draw < 2 ^ 16) (neg : Bool) :
    (Mag.dyadic m e).round mode neg ulp draw = (m * 2 ^ (e - ulp).toNat, false) := by
  have h0 : (0 : Int) ≤ e - ulp := by omega
  have hu : (Mag.dyadic m e).units ulp = (m * 2 ^ (e - ulp).toNat, 1) := if_pos h0
  have hm : ¬ 65536 ≤ draw := by omega
  simp only [Mag.round, hu, Nat.mod_one, Nat.div_one]
  rcases mode with _ | _ | _ | _ | k <;> simp [Mag.dyadic, hm]

theorem Mag.log2_dyadic {m : Nat} (h : 0 < m) (e : Int) : (Mag.dyadic m e).log2 = e + (m.log2 : Int) := by
  have := Nat.log2_self_le h.ne'
  have h1 : Nat.log2 1 = 0 := by decide
  simp [Mag.log2, Mag.dyadic, h1, this]

/-- A magnitude that a floating format holds at its exponent rounds to itself, in every mode and without a flag. -/
theorem FloatFmt.roundMag_exact {f : FloatFmt} {k draw : Nat} {u : Int} {mode : Nat} {sat : Bool} (s : Bool)
    (hk : k < 2 ^ (f.mbits + 1)) (hn : (f.emin ≤ u + f.mbits ∧ 2 ^ f.mbits ≤ k) ∨ (u = f.emin - f.mbits ∧ k < 2 ^ f.mbits))
    (hmax : u < f.maxUnits.2 ∨ (u = f.maxUnits.2 ∧ k ≤ f.maxUnits.1)) (hd : draw < 2 ^ 16) :
    f.roundMag ⟨mode, false, sat⟩ s (Mag.dyadic k u) draw = (f.pack s k u, Flags.none) := by
  by_cases h0 : k = 0
  · subst h0
    simp [FloatFmt.roundMag, Mag.dyadic, FloatFmt.pack]
  have hulp : (if (Mag.dyadic k u).log2 < f.emin then f.emin else (Mag.dyadic k u).log2) - (f.mbits : Int) = u := by
    rw [Mag.log2_dyadic (by omega)]
    rcases hn with ⟨h1, h2⟩ | ⟨h1, h2⟩
    · have : k.log2 = f.mbits := by
        rw [Nat.log2_eq_iff h0]; exact ⟨h2, hk⟩
      rw [this]; split <;> omega
    · have : k.log2 < f.mbits := (Nat.log2_lt h0).mpr h2
      split <;> omega
  have hbig : (decide (f.maxUnits.2 < u) || (u == f.maxUnits.2 && decide (f.maxUnits.1 < k))) = false := by
    simp only [Bool.or_eq_false_iff, decide_eq_false_iff_not, Bool.and_eq_false_iff, beq_eq_false_iff_ne, not_lt]
    omega
  have hr := Mag.round_dyadic (mode := mode) k (le_refl u) hd s
  simp only [sub_self, Int.toNat_zero, pow_zero, mul_one] at hr
  have hk' : k ≠ 2 ^ (f.mbits + 1) := by omega
  have hz : ¬ ((Mag.dyadic k u).num = 0 ∧ (!(Mag.dyadic k u).sticky) = true) := fun h => h0 h.1
  have hz' : (Mag.dyadic k u).num ≠ 0 := h0
  simp only [FloatFmt.roundMag, if_neg hz, if_neg hz', hulp, hr, if_neg hk', hbig]
  simp [Flags.none]

/-- The bits of a finite value come back when the value is rounded into their own format. -/
theorem FloatFmt.ofNum_decode {f : FloatFmt} (hm : 0 < f.mbits) (he : 2 ≤ f.ebits) {b : Nat} (hb : b < 2 ^ (f.mbits + f.ebits + 1))
    (hfin : (decodeFloat f false b).finite) (mode : Nat) (sat : Bool) {draw : Nat} (hd : draw < 2 ^ 16) :
    f.ofNum ⟨mode, false, sat⟩ (decodeFloat f false b) draw = (b, Flags.none) := by
  obtain ⟨Q, hQ⟩ : ∃ Q, Q = 2 ^ f.mbits := ⟨_, rfl⟩
  obtain ⟨P, hP⟩ : ∃ P, P = 2 ^ f.ebits := ⟨_, rfl⟩
  have hQ2 : 2 ≤ Q := hQ ▸ (Nat.pow_le_pow_right (by norm_num) hm : 2 ^ 1 ≤ 2 ^ f.mbits)
  have hP4 : 4 ≤ P := hP ▸ (Nat.pow_le_pow_right (by norm_num) he : 2 ^ 2 ≤ 2 ^ f.ebits)
  have hPi : ((2 : Int) ^ f.ebits) = P := by rw [hP]; push_cast; rfl
  have hQP : 2 ^ (f.mbits + f.ebits) = Q * P := by rw [pow_add, hQ, hP]
  have hPQ : 2 ^ (f.ebits + f.mbits) = Q * P := by rw [add_comm, hQP]
  have hQ1 : 2 ^ (f.mbits + 1) = 2 * Q := by rw [pow_succ, hQ, mul_comm]
  rw [pow_succ, hQP] at hb
  -- the three fields of the bits
  obtain ⟨frac, hfrac⟩ : ∃ x, x = b % Q := ⟨_, rfl⟩
  obtain ⟨E, hE⟩ : ∃ x, x = b / Q % P := ⟨_, rfl⟩
  obtain ⟨S, hS⟩ : ∃ x, x = b / (Q * P) := ⟨_, rfl⟩
  have hfl : frac < Q := hfrac ▸ Nat.mod_lt _ (by omega)
  have hEl : E < P := hE ▸ Nat.mod_lt _ (by omega)
  have hSl : S < 2 := hS ▸ Nat.div_lt_of_lt_mul (by omega)
  have hbe : b = S * (Q * P) + (E * Q + frac) := by
    have h1 := Nat.div_add_mod b Q
    have h2 := Nat.div_add_mod (b / Q) P
    rw [Nat.div_div_eq_div_mul] at h2
    rw [← hfrac] at h1
    rw [← hE, ← hS] at h2
    rw [← h2] at h1
    rw [← h1]; ring
  have hsign : f.signBit (decide (S % 2 = 1)) = S * (Q * P) := by
    rcases (by omega : S = 0 ∨ S = 1) with rfl | rfl <;> simp [FloatFmt.signBit, flag, hPQ]
  have hdec : decodeFloat f false b =
      if f.hasInf && E == P - 1 then (if frac = 0 then .inf (decide (S % 2 = 1)) else .nan (decide (frac < 2 ^ (f.mbits - 1))))
      else if !f.hasInf && E == P - 1 && frac == Q - 1 then .nan false
      else if E = 0 then .fin (decide (S % 2 = 1)) frac (f.emin - f.mbits)
      else .fin (decide (S % 2 = 1)) (Q + frac) ((E : Int) - f.bias - f.mbits) := by
    simp only [decodeFloat, ← hQ, ← hP, hQP, ← hfrac, ← hE, ← hS]
    rfl
  rw [hdec] at hfin ⊢
  split at hfin
  · split at hfin <;> exact hfin.elim
  next h1 =>
  rw [if_neg h1]
  split at hfin
  · exact hfin.elim
  next h2 =>
  rw [if_neg h2]
  have hmx : f.maxUnits = if f.hasInf then (2 * Q - 1, (P : Int) - 2 - f.bias - f.mbits) else (2 * Q - 2, (P : Int) - 1 - f.bias - f.mbits) := by
    simp only [FloatFmt.maxUnits, hQ1, hPi]
  split
  next hE0 =>
    refine (FloatFmt.roundMag_exact _ (by omega) (.inr ⟨rfl, by omega⟩) ?_ hd).trans ?_
    · rw [hmx]; simp only [FloatFmt.emin]
      split <;> simp <;> omega
    · simp only [FloatFmt.pack, hsign, ← hQ, if_pos hfl]
      rw [hbe, hE0]; simp
  next hE0 =>
    refine (FloatFmt.roundMag_exact _ (by omega) (.inl ⟨by simp only [FloatFmt.emin]; omega, by omega⟩) ?_ hd).trans ?_
    · rw [hmx]
      simp only [Bool.and_eq_true, beq_iff_eq, not_and, Bool.not_eq_true', and_imp] at h1 h2
      split
      · next hi => have := h1 hi; simp; omega
      · next hi => have := h2 (by simpa using hi); simp; omega
    · have h3 : ((E : Int) - f.bias - f.mbits + f.mbits + f.bias).toNat = E := by omega
      have h4 : ¬ Q + frac < Q := by omega
      simp only [FloatFmt.pack, hsign, ← hQ, if_neg h4, h3]
      rw [hbe]; congr 2; omega

theorem signedNat_eq (w b : Nat) :
    signedNat w b = if 2 * (b % 2 ^ w) < 2 ^ w then ((b % 2 ^ w : Nat) : Int) else ((b % 2 ^ w : Nat) : Int) - (2 ^ w : Nat) := by
  simp only [signedNat, Nat.cast_pow, Int.natCast_emod, Nat.cast_ofNat]

theorem signedNat_range {w : Nat} (hw : 0 < w) (b : Nat) : -(2 ^ (w - 1)) ≤ signedNat w b ∧ signedNat w b ≤ 2 ^ (w - 1) - 1 := by
  obtain ⟨k, rfl⟩ : ∃ k, w = k + 1 := ⟨w - 1, by omega⟩
  have h1 : b % 2 ^ (k + 1) < 2 ^ (k + 1) := Nat.mod_lt _ (by positivity)
  have h5 : ((2 : Int) ^ k) = (2 ^ k : Nat) := by push_cast; rfl
  rw [signedNat_eq, Nat.add_sub_cancel, h5]
  generalize b % 2 ^ (k + 1) = m at h1 ⊢
  rw [pow_succ] at h1 ⊢
  split <;> omega

theorem intBits_signedNat {w b : Nat} (hb : b < 2 ^ w) : intBits w (signedNat w b) = b := by
  have h1 : ((b : Int) % 2 ^ w) = b := Int.emod_eq_of_lt (by omega) (by exact_mod_cast hb)
  have h2 : ((b : Int) % 2 ^ w - 2 ^ w) % 2 ^ w = b := by rw [Int.sub_emod, Int.emod_self, h1]; simp [h1]
  simp only [intBits, signedNat]
  split
  · rw [Int.emod_emod_of_dvd _ (dvd_refl _), h1]; rfl
  · rw [h2]; rfl

theorem intBits_natCast {w b : Nat} (hb : b < 2 ^ w) : intBits w (b : Int) = b := by
  have h1 : ((b : Int) % 2 ^ w) = b := Int.emod_eq_of_lt (by omega) (by exact_mod_cast hb)
  simp [intBits, h1]

/-- An integer in the range of its format rounds to itself. -/
theorem roundInt_exact (sg sat : Bool) (w mode : Nat) {draw : Nat} (hd : draw < 2 ^ 16) {v : Int}
    (hv : (intRange sg w).1 ≤ v ∧ v ≤ (intRange sg w).2) :
    roundInt sg w ⟨mode, false, sat⟩ (decide (v < 0)) (Mag.dyadic v.natAbs 0) draw = (v, Flags.none) := by
  have hr := Mag.round_dyadic (mode := mode) v.natAbs (le_refl 0) hd (decide (v < 0))
  simp only [sub_self, Int.toNat_zero, pow_zero, mul_one] at hr
  have hv' : (if decide (v < 0) = true then -((v.natAbs : Nat) : Int) else (v.natAbs : Nat)) = v := by
    simp only [decide_eq_true_eq]; split <;> omega
  simp only [roundInt, hr, hv', if_neg (not_lt.mpr hv.1), if_neg (not_lt.mpr hv.2), Flags.none]

theorem Fmt.ofNum_int {f : Fmt} {sg : Bool} (hf : f.float = none) (hs : f.intSigned = some sg) (rd : Rounding) (v : Int) (draw : Nat) :
    f.ofNum rd (Num.ofInt v) draw = (intBits f.bits (roundInt sg f.bits rd (decide (v < 0)) (Mag.dyadic v.natAbs 0) draw).1,
      (roundInt sg f.bits rd (decide (v < 0)) (Mag.dyadic v.natAbs 0) draw).2) := by
  simp only [Fmt.ofNum, Fmt.roundMag, Num.ofInt, hf, hs]

/-- See `FloatFmt.ofNum_decode`. -/
theorem Fmt.ofNum_decode_float {f : Fmt} {g : FloatFmt} (hf : f.float = some g) (hm : 0 < g.mbits) (he : 2 ≤ g.ebits)
    (hw : f.bits = g.mbits + g.ebits + 1) {b : Nat} (hb : b < 2 ^ f.bits) (hfin : (decodeNum f false b).finite) (mode : Nat)
    (sat : Bool) {draw : Nat} (hd : draw < 2 ^ 16) : f.ofNum ⟨mode, false, sat⟩ (decodeNum f false b) draw = (b, Flags.none) := by
  simp only [decodeNum, hf, Fmt.ofNum] at hfin ⊢
  exact FloatFmt.ofNum_decode hm he (hw ▸ hb) hfin mode sat hd

/-- The bits of a signed integer come back when their value is rounded into their own format. -/
theorem Fmt.ofNum_decode_signed {f : Fmt} (hf : f.float = none) (hs : f.intSigned = some true) {b : Nat} (hw : 0 < f.bits)
    (hb : b < 2 ^ f.bits) (mode : Nat) (sat : Bool) {draw : Nat} (hd : draw < 2 ^ 16) :
    f.ofNum ⟨mode, false, sat⟩ (Num.ofInt (signedNat f.bits b)) draw = (b, Flags.none) := by
  rw [Fmt.ofNum_int hf hs, roundInt_exact true sat _ mode hd (by simpa [intRange] using signedNat_range hw b), intBits_signedNat hb]

theorem arithmetic_is_exact (m : Nat) (x y : Num) (hx : x.finite) (hy : y.finite) :
    (Num.add m x y).1.finite ∧ (Num.add m x y).1.toRat = x.toRat + y.toRat ∧ (Num.add m x y).2 = false ∧
    (Num.mul x y).1.finite ∧ (Num.mul x y).1.toRat = x.toRat * y.toRat ∧ (Num.mul x y).2 = false := by
  obtain ⟨s, k, e, rfl⟩ := Num.finite_iff.mp hx
  obtain ⟨t, n, g, rfl⟩ := Num.finite_iff.mp hy
  obtain ⟨h1, h2, h3, -⟩ := Num.add_fin m s t k n e g
  exact ⟨h1, h2, h3, trivial, Num.mul_fin .., rfl⟩

/-- Settles O44: sums and products are exact by the units of the smaller exponent, and a value that its format holds is a whole number of
units in the last place, which no mode moves. -/
theorem arithmeticIsExact : Obligations.ArithmeticIsExact := by
  refine ⟨fun m x y hx hy => ?_, Num.ofInt_exact, fun f hf b hb hfin mode sat draw _ hd => ?_, fun f hf b hb mode sat draw _ hd => ?_⟩
  · obtain ⟨h1, h2, h3, h4, h5, h6⟩ := arithmetic_is_exact m x y hx hy
    exact ⟨h1, h2, h3, h4, h5, h6, Num.lt_finite hx hy, Num.eqv_finite hx hy⟩
  · simp only [List.mem_cons, List.not_mem_nil, or_false] at hf
    rcases hf with rfl | rfl | rfl | rfl | rfl
    all_goals exact Fmt.ofNum_decode_float rfl (by decide) (by decide) rfl hb hfin mode sat hd
  · simp only [List.mem_cons, List.not_mem_nil, or_false] at hf
    rcases hf with rfl | rfl | rfl | rfl | rfl
    case inr.inr.inl =>
      have h8 : b % 256 = b := Nat.mod_eq_of_lt hb
      have hr : (intRange false Fmt.uint8.bits).1 ≤ (b : Int) ∧ (b : Int) ≤ (intRange false Fmt.uint8.bits).2 := by
        simp [intRange, Fmt.bits] at hb ⊢; omega
      change Fmt.uint8.ofNum _ (Num.ofInt ((b % 256 : Nat) : Int)) draw = _
      rw [Fmt.ofNum_int rfl rfl, h8, roundInt_exact false sat _ mode hd hr, intBits_natCast hb]
    all_goals exact Fmt.ofNum_decode_signed rfl rfl (by decide) hb mode sat hd

end Sys2Proof.Machine

namespace Sys2Proof.Machine

/-! ## Control registers (spec 04, R104 to R111) -/

/-- Some flags at their places: bit `k` of the number is flag `k`. -/
theorem testBit_foldl_flags (f : Nat → Bool) (n : Nat) :
    (List.range n).foldl (fun acc t => acc + flag (f t) * 2 ^ t) 0 < 2 ^ n ∧
    ∀ k, ((List.range n).foldl (fun acc t => acc + flag (f t) * 2 ^ t) 0).testBit k = (decide (k < n) && f k) := by
  induction n with
  | zero => simp
  | succ n ih =>
    obtain ⟨hlt, hbit⟩ := ih
    generalize hx : (List.range n).foldl (fun acc t => acc + flag (f t) * 2 ^ t) 0 = x at hlt hbit
    have hs : (List.range (n + 1)).foldl (fun acc t => acc + flag (f t) * 2 ^ t) 0 = 2 ^ n * flag (f n) + x := by
      rw [List.range_succ, List.foldl_append, hx]; simp; ring
    have hflag : flag (f n) ≤ 1 := by cases f n <;> simp [flag]
    rw [hs]
    refine ⟨by rw [pow_succ]; nlinarith, fun k => ?_⟩
    rw [Nat.testBit_two_pow_mul_add _ hlt, hbit]
    rcases lt_trichotomy k n with h | rfl | h
    · simp [h, h.trans (Nat.lt_succ_self n)]
    · cases f k <;> simp [flag]
    · have h1 : ¬ k < n := by omega
      have h2 : ¬ k < n + 1 := by omega
      have h3 : (flag (f n)).testBit (k - n) = false :=
        Nat.testBit_lt_two_pow (lt_of_le_of_lt hflag (Nat.one_lt_two_pow (by omega)))
      simp [h1, h2, h3]

theorem tagBits_getLsbD (f : Nat → Bool) {k : Nat} (hk : k < 64) : (tagBits f).getLsbD k = (decide (k < 16) && f k) := by
  rw [tagBits, word, BitVec.getLsbD_ofNat, (testBit_foldl_flags f 16).2]
  simp [hk]

/-! What a write of the RW fields of RMODE gives (Table 3-4). -/

theorem rmodeFields_eq (old v : Word) :
    ∃ x : Word, x.toNat = bits v 63 48 * 2 ^ 48 + bits v 4 3 * 2 ^ 3 + (if bits v 2 0 ≤ 4 then bits v 2 0 else bits old 2 0) ∧
      rmodeFields old v = x ||| (old &&& flagMask) := by
  refine ⟨_, ?_, rfl⟩
  have h1 : bits v 63 48 < 2 ^ 16 := Nat.mod_lt _ (by decide)
  have h2 : bits v 4 3 < 2 ^ 2 := Nat.mod_lt _ (by decide)
  have h3 : bits v 2 0 < 2 ^ 3 := Nat.mod_lt _ (by decide)
  have h4 : bits old 2 0 < 2 ^ 3 := Nat.mod_lt _ (by decide)
  simp only [word, BitVec.toNat_ofNat]
  refine Nat.mod_eq_of_lt ?_
  split <;> omega

theorem bits_eq_extractLsb' (v : Word) (lo n : Nat) (hn : 0 < n) : bits v (lo + n - 1) lo = (v.extractLsb' lo n).toNat := by
  have : lo + n - 1 + 1 - lo = n := by omega
  rw [bits, BitVec.extractLsb'_toNat, Nat.shiftRight_eq_div_pow, this]

/-- The fields of RMODE after a write of its RW fields. -/
theorem rmodeFields_fields (old v : Word) :
    let new := rmodeFields old v
    new.extractLsb' 0 3 = (if (v.extractLsb' 0 3).toNat ≤ 4 then v.extractLsb' 0 3 else old.extractLsb' 0 3) ∧
    new.extractLsb' 3 2 = v.extractLsb' 3 2 ∧ new.extractLsb' 48 16 = v.extractLsb' 48 16 ∧
    new.extractLsb' 8 6 = old.extractLsb' 8 6 ∧ new.extractLsb' 5 3 = 0 ∧ new.extractLsb' 14 34 = 0 := by
  intro new
  obtain ⟨x, hx, hnew⟩ := rmodeFields_eq old v
  have hb1 : bits v 63 48 = (v.extractLsb' 48 16).toNat := bits_eq_extractLsb' v 48 16 (by decide)
  have hb2 : bits v 4 3 = (v.extractLsb' 3 2).toNat := bits_eq_extractLsb' v 3 2 (by decide)
  have hb3 : bits v 2 0 = (v.extractLsb' 0 3).toNat := bits_eq_extractLsb' v 0 3 (by decide)
  have hb4 : bits old 2 0 = (old.extractLsb' 0 3).toNat := bits_eq_extractLsb' old 0 3 (by decide)
  rw [hb1, hb2, hb3, hb4, ← apply_ite BitVec.toNat] at hx
  generalize hM : (if (v.extractLsb' 0 3).toNat ≤ 4 then v.extractLsb' 0 3 else old.extractLsb' 0 3) = M at hx
  generalize hA : v.extractLsb' 48 16 = A at hx
  generalize hB : v.extractLsb' 3 2 = B at hx
  have hMl := M.isLt
  have hAl := A.isLt
  have hBl := B.isLt
  -- a field of the new value is that of `x`, but for the flags
  have field : ∀ lo n, new.extractLsb' lo n = x.extractLsb' lo n ||| (old.extractLsb' lo n &&& flagMask.extractLsb' lo n) := by
    intro lo n
    rw [show new = _ from hnew, BitVec.extractLsb'_or, BitVec.extractLsb'_and]
  have other : ∀ lo n, flagMask.extractLsb' lo n = 0#n → ∀ y : BitVec n, x.toNat / 2 ^ lo % 2 ^ n = y.toNat →
      new.extractLsb' lo n = y := by
    intro lo n h0 y hy
    rw [field, h0, BitVec.and_zero, BitVec.or_zero]
    apply BitVec.eq_of_toNat_eq
    rw [BitVec.extractLsb'_toNat, Nat.shiftRight_eq_div_pow, hy]
  refine ⟨other 0 3 (by decide) _ ?_, other 3 2 (by decide) _ ?_, other 48 16 (by decide) _ ?_, ?_, other 5 3 (by decide) _ ?_,
    other 14 34 (by decide) _ ?_⟩
  case refine_4 =>
    have h0 : x.extractLsb' 8 6 = 0#6 := by
      apply BitVec.eq_of_toNat_eq
      rw [BitVec.extractLsb'_toNat, Nat.shiftRight_eq_div_pow, hx]; simp; omega
    rw [field, show flagMask.extractLsb' 8 6 = BitVec.allOnes 6 by decide, BitVec.and_allOnes, h0, BitVec.zero_or]
  all_goals
    rw [hx]
    simp
    try omega

/-- What the flags that `cwr` clears leave of RMODE. -/
theorem rmode_cleared (old v : Word) :
    (old &&& ~~~(v &&& flagMask)).extractLsb' 0 3 = old.extractLsb' 0 3 ∧
    (old &&& ~~~(v &&& flagMask)).extractLsb' 8 6 = old.extractLsb' 8 6 &&& ~~~(v.extractLsb' 8 6) := by
  constructor
  · rw [BitVec.extractLsb'_and, BitVec.extractLsb'_not_of_lt (by decide), BitVec.extractLsb'_and,
      show flagMask.extractLsb' 0 3 = 0#3 by decide, BitVec.and_zero, BitVec.not_zero, BitVec.and_allOnes]
  · rw [BitVec.extractLsb'_and, BitVec.extractLsb'_not_of_lt (by decide), BitVec.extractLsb'_and,
      show flagMask.extractLsb' 8 6 = BitVec.allOnes 6 by decide, BitVec.and_allOnes]

/-- Setting the enable bits of all tags leaves a tag with its bit of the value. -/
theorem State.setTagEnable_tag (s : State) (c : Nat) (v : Word) {k : Nat} (hk : k < 16) :
    AL.get TagEntry.reset ((s.setTagEnable c v).cell c).tags k =
      { AL.get TagEntry.reset (s.cell c).tags k with en := v.getLsbD k } := by
  have go : ∀ n ≤ 16, ∀ j, AL.get TagEntry.reset ((List.range n).foldl (fun acc t =>
      AL.put acc t { AL.get TagEntry.reset (s.cell c).tags t with en := v.getLsbD t }) (s.cell c).tags) j =
      if j < n then { AL.get TagEntry.reset (s.cell c).tags j with en := v.getLsbD j } else AL.get TagEntry.reset (s.cell c).tags j := by
    intro n hn j
    induction n with
    | zero => simp
    | succ n ih =>
      rw [List.range_succ, List.foldl_append, List.foldl_cons, List.foldl_nil, AL.get_put, ih (by omega)]
      by_cases h : n = j
      · subst h; simp
      · have : j < n + 1 ↔ j < n := by omega
        simp [h, this]
  simp only [State.setTagEnable, State.cell_modCell_same]
  rw [go 16 (le_refl _) k, if_pos hk]

theorem execCrd_at {s : State} {c : Ctx} (r : Rel) (d : RegNum) (n : BitVec 12) (ha : s.At c) :
    exec (.crd r d n) s = issue s c .no [s.regNo c r d] [s.regNo c r d] fun s1 =>
      .ok ((s1.crClear c n.toNat).setReg c (s.regNo c r d) (s1.crRead c n.toNat)) := by
  rw [exec_crd, execCrd, withGroup_at ha]

/-- `crd` of a register without a field that the read clears. -/
theorem crd_wrote {s : State} {c : Ctx} {r : Rel} {d : RegNum} (ha : s.At c) (hc : s.Clear c .no [s.regNo c r d]) {n : BitVec 12}
    (hn : s.crClear c n.toNat = s) {v : Word} (hv : s.crRead c n.toNat = v) : Wrote s c (.crd r d n) (s.regNo c r d) v := by
  refine wrote_of_setReg (execCrd_at r d n ha) (fun _ hm => (List.mem_filter.mp hm).1) hc (by simp) ?_
  simp only [hn, hv]

/-- `crd` of a register with a field that the read clears, by a change `f` of the cell. -/
theorem crd_cleared {s : State} {c : Ctx} {r : Rel} {d : RegNum} (ha : s.At c) (hc : s.Clear c .no [s.regNo c r d])
    {n : BitVec 12} {f : Cell → Cell} (hn : s.crClear c n.toNat = s.modCell c.cell f)
    (hf : ∀ y, (f y).frames = y.frames ∧ ∀ u, (f y).engine u = y.engine u) :
    Happens s (.crd r d n) (fun t => t.reg c (s.regNo c r d) = s.crRead c n.toNat ∧ KeepsRegs s t c [s.regNo c r d] ∧
      Completed (s.modCell c.cell f) t c) := by
  have hreg : ∀ k, (s.modCell c.cell f).reg c k = s.reg c k := by
    intro k
    simp only [State.reg, State.fr, State.frame, State.cell_modCell_same, (hf _).1, (hf _).2]
  have hd0 := (hc.exist (s.regNo c r d) (by simp)).1
  obtain ⟨h1, h2, -⟩ := completed_of (RegChange.setReg (s.modCell c.cell f) c (s.regNo c r d) (s.crRead c n.toNat)) none
    [(s.regNo c r d).toNat]
  refine ⟨_, by rw [execCrd_at r d n ha, issue_clear hc, State.feed_no, hn]; rfl, ?_, ?_, h1⟩
  · refine (h2 _).trans ?_
    rw [State.reg_setReg _ c hd0 hd0, if_pos rfl]
  · intro k hk
    refine (h2 k).trans ?_
    rw [State.reg_setReg _ c hd0 (by omega), if_neg (fun e => hk (by simp [e])), hreg]

theorem flag_eq_ite (b : Bool) : flag b = if b then 1 else 0 := rfl

theorem control_register_reads : Claims.ControlRegisterReads := by
  intro s c r d ha _ hc D f a x w
  have plain : ∀ n v, s.crClear c (BitVec.toNat n) = s → s.crRead c (BitVec.toNat n) = v → Wrote s c (.crd r d n) D v :=
    fun n v hn hv => crd_wrote ha hc hn hv
  refine ⟨plain _ _ rfl rfl, plain _ _ rfl rfl, plain _ _ rfl rfl, plain _ _ rfl rfl, plain _ _ rfl rfl, plain _ _ rfl ?_,
    plain _ _ rfl ?_, plain _ _ rfl ?_, plain _ _ rfl ?_, plain _ _ rfl ?_, plain _ _ rfl ?_, plain _ _ rfl ?_, plain _ _ rfl rfl,
    plain _ _ rfl rfl, plain _ _ rfl rfl, plain _ _ rfl rfl, ⟨_, plain _ _ rfl rfl, fun k hk => tagBits_getLsbD _ hk⟩,
    ⟨_, plain _ _ rfl rfl, fun k hk => tagBits_getLsbD _ hk⟩, ?_, ?_⟩
  case refine_8 =>
    obtain ⟨t, ht, h1, h2, h3⟩ := crd_cleared ha hc (n := 0x012) (f := fun y => { y with disagree := 0 }) rfl
      (fun y => ⟨rfl, fun u => by cases u <;> rfl⟩)
    refine ⟨t, ht, ?_, ?_, h2, h3⟩
    · rw [h1]; change word _ = w _
      simp only [flag_eq_ite, ite_mul, one_mul, zero_mul]; rfl
    · have := congrArg Cell.disagree h3.cell
      rwa [State.cell_modCell_same] at this
  case refine_9 =>
    obtain ⟨t, ht, h1, h2, h3⟩ := crd_cleared ha hc (n := 0x013) (f := fun y => { y with raceLost := 0 }) rfl
      (fun y => ⟨rfl, fun u => by cases u <;> rfl⟩)
    refine ⟨t, ht, h1, ?_, h2, h3⟩
    have := congrArg Cell.raceLost h3.cell
    rwa [State.cell_modCell_same] at this
  all_goals exact (BitVec.ofNat_toNat _ _).symm

/-- The control registers of a frame after a write of register `n`, field by field (R104). -/
def FrameCr.written (r : FrameCr) (n : BitVec 12) (v : Word) (rm mix : Word → Word → Word) : FrameCr where
  rmode := if n = 0x004 then rm r.rmode v else r.rmode
  nbv := if n = 0x005 then nbvWrite r.nbv ((mix (r.nbv.setWidth 64) v).setWidth 2) else r.nbv
  fmtA := if n = 0x006 then (mix (r.fmtA.setWidth 64) v).setWidth 9 else r.fmtA
  fmtB := if n = 0x007 then (mix (r.fmtB.setWidth 64) v).setWidth 9 else r.fmtB
  sclA := if n = 0x008 then (mix (r.sclA.setWidth 64) v).setWidth 13 else r.sclA
  sclB := if n = 0x009 then (mix (r.sclB.setWidth 64) v).setWidth 13 else r.sclB
  result := if n = 0x00A then (mix (r.result.setWidth 64) v).setWidth 4 else r.result

/-- A write of a register other than TAG_ENABLE changes the control registers of its frame, and nothing else. -/
theorem State.crWrite_frame {s : State} {c : Ctx} (hu : c.unit = .scalar) {n : BitVec 12} (hn : n ≠ 0x010) (v : Word)
    (rm mix : Word → Word → Word) :
    (s.crWrite c n.toNat v rm mix).fr c = { s.fr c with cr := (s.fr c).cr.written n v rm mix } ∧
      RegChange s (s.crWrite c n.toNat v rm mix) c := by
  have by_number : ∀ k : BitVec 12, n.toNat = k.toNat → n = k := fun k h => BitVec.eq_of_toNat_eq h
  unfold State.crWrite
  split
  case h_1 h => rw [by_number 0x004 h]; exact ⟨State.fr_modFr .., RegChange.modFr hu _ fun _ => ⟨_, _, _, rfl⟩⟩
  case h_2 h => rw [by_number 0x005 h]; exact ⟨State.fr_modFr .., RegChange.modFr hu _ fun _ => ⟨_, _, _, rfl⟩⟩
  case h_3 h => rw [by_number 0x006 h]; exact ⟨State.fr_modFr .., RegChange.modFr hu _ fun _ => ⟨_, _, _, rfl⟩⟩
  case h_4 h => rw [by_number 0x007 h]; exact ⟨State.fr_modFr .., RegChange.modFr hu _ fun _ => ⟨_, _, _, rfl⟩⟩
  case h_5 h => rw [by_number 0x008 h]; exact ⟨State.fr_modFr .., RegChange.modFr hu _ fun _ => ⟨_, _, _, rfl⟩⟩
  case h_6 h => rw [by_number 0x009 h]; exact ⟨State.fr_modFr .., RegChange.modFr hu _ fun _ => ⟨_, _, _, rfl⟩⟩
  case h_7 h => rw [by_number 0x00A h]; exact ⟨State.fr_modFr .., RegChange.modFr hu _ fun _ => ⟨_, _, _, rfl⟩⟩
  case h_8 h => exact absurd (by_number 0x010 h) hn
  case h_9 h4 h5 h6 h7 h8 h9 hA _ =>
    have other : ∀ k : BitVec 12, (n.toNat = k.toNat → False) → n ≠ k := fun k h e => h (by rw [e])
    refine ⟨?_, RegChange.refl s c⟩
    simp only [FrameCr.written, if_neg (other 0x004 h4), if_neg (other 0x005 h5), if_neg (other 0x006 h6), if_neg (other 0x007 h7),
      if_neg (other 0x008 h8), if_neg (other 0x009 h9), if_neg (other 0x00A hA)]

/-- The three writes are one operation: `rm` is what each makes of RMODE, `mix` what it makes of a plain field. -/
theorem control_write_op {r : Rel} {d : RegNum} {n : BitVec 12} {i : Instr} {q : Word → Word → Word}
    (h : (i = .cwr r d n ∧ q = (fun _ v => v)) ∨ (i = .cset r d n ∧ q = (fun x v => x ||| v)) ∨
      (i = .cclr r d n ∧ q = (fun x v => x &&& ~~~v))) :
    ∃ rm, (∀ s, exec i s = crOp s r d n rm q) ∧ ∀ old v : Word, ∃ kept : Word, rm old v = rmodeFields kept (q old v) ∧
      kept.extractLsb' 0 3 = old.extractLsb' 0 3 ∧ kept.extractLsb' 8 6 =
        (if i = .cwr r d n then old.extractLsb' 8 6 &&& ~~~(v.extractLsb' 8 6) else old.extractLsb' 8 6) := by
  rcases h with ⟨rfl, rfl⟩ | ⟨rfl, rfl⟩ | ⟨rfl, rfl⟩
  · exact ⟨rmodeWrite, fun _ => rfl, fun old v => ⟨_, rfl, (rmode_cleared old v).1, by rw [if_pos rfl]; exact (rmode_cleared old v).2⟩⟩
  · exact ⟨rmodeSet, fun _ => rfl, fun old v => ⟨_, rfl, rfl, by rw [if_neg (by simp)]⟩⟩
  · exact ⟨rmodeClr, fun _ => rfl, fun old v => ⟨_, rfl, rfl, by rw [if_neg (by simp)]⟩⟩

theorem crOp_at {s : State} {c : Ctx} {r : Rel} {d : RegNum} (ha : s.At c) (hc : s.Clear c .both [s.regNo c r d]) (n : BitVec 12)
    (rm mix : Word → Word → Word) :
    crOp s r d n rm mix =
      .next (((s.crWrite c n.toNat (s.reg c (s.regNo c r d)) rm mix).advance c s.nextId none).pairRetire c [] none) := by
  rw [crOp, withGroup_at ha, issue_clear hc, State.feed_both]
  rfl

theorem State.reg_congr {s t : State} {c : Ctx} (hu : c.unit = .scalar) (h : (t.fr c).g = (s.fr c).g) (k : Int) :
    t.reg c k = s.reg c k := by
  simp only [State.reg, hu, h]

theorem setWidth_eq_extractLsb' (x : Word) (n : Nat) : x.setWidth n = x.extractLsb' 0 n := by
  apply BitVec.eq_of_toNat_eq; simp [BitVec.extractLsb'_toNat]

/-- A change of a cell's tag table is told by the table that it leaves. -/
theorem State.modCell_tags (s : State) (c : Nat) (f : Cell → AL TagEntry) :
    s.modCell c (fun y => { y with tags := ((s.modCell c (fun x => { x with tags := f x })).cell c).tags }) =
      s.modCell c (fun x => { x with tags := f x }) := by
  rw [State.cell_modCell_same]; rfl

theorem nbvWrite_eq (old v : BitVec 2) : nbvWrite old v = if v ≠ 0 ∧ v ≠ 3 then v else old := by
  by_cases h : v = 0 ∨ v = 3
  · rw [nbvWrite, if_pos h, if_neg (by tauto)]
  · rw [nbvWrite, if_neg h, if_pos (by tauto)]

theorem control_register_writes : Claims.ControlRegisterWrites := by
  intro s c r d n i q ha hu hc hi v old
  obtain ⟨rm, hexec, hrm⟩ := control_write_op hi
  constructor
  · intro hn
    obtain ⟨hfr, hch⟩ := State.crWrite_frame (s := s) hu hn v rm q
    obtain ⟨h1, h2, h3, h4, h5⟩ := completed_of hch none []
    refine ⟨_, by rw [hexec, crOp_at ha hc], fun k _ => ?_, ?_, h1, h5, ?_⟩
    · exact (h2 k).trans (State.reg_congr hu (by rw [hfr]) k)
    · exact h3.trans (by rw [hfr])
    rw [h4, hfr]
    refine ⟨?_, ?_, ?_, ?_, ?_, ?_, ?_, ?_⟩
    case refine_1 =>
      simp only [FrameCr.written, nbvWrite_eq, setWidth_eq_extractLsb' _ 2]
      by_cases h5n : n = 0x005
      · rw [if_pos h5n]
        simp only [h5n, true_and, old]
      · rw [if_neg h5n, if_neg (fun h => h5n h.1)]
    case refine_7 => intro h4n; exact if_neg h4n
    case refine_8 =>
      intro h4n m
      obtain ⟨kept, hk, hmode, hflags⟩ := hrm old.rmode v
      have hw : (old.written n v rm q).rmode = rmodeFields kept m := by simp only [FrameCr.written, if_pos h4n, hk, m]
      obtain ⟨f1, f2, f3, f4, f5, f6⟩ := rmodeFields_fields kept m
      rw [hw]
      exact ⟨by rw [f1, hmode], f2, f3, f4.trans hflags, f5, f6⟩
    all_goals
      simp only [FrameCr.written, setWidth_eq_extractLsb']
      rfl
  · rintro rfl
    let s1 := s.setTagEnable c.cell (q (s.cell c.cell).tagEnable v)
    have hfr : s1.fr c = s.fr c := by
      simp only [s1, State.fr, State.frame, State.setTagEnable, State.cell_modCell_same]
    have hs1 : s.modCell c.cell (fun y => { y with tags := (s1.cell c.cell).tags }) = s1 := s.modCell_tags c.cell _
    have hw : exec i s = .next ((s1.advance c s1.nextId none).pairRetire c [] none) := by
      have h : s.crWrite c (BitVec.toNat (0x010 : BitVec 12)) v rm q = s1 := rfl
      rw [hexec, crOp_at ha hc, h]
      rfl
    obtain ⟨t, ht, h1, h2, h3, h4, h5⟩ : ∃ t, exec i s = .next t ∧ Completed s1 t c ∧ (∀ k : Int, t.reg c k = s1.reg c k) ∧
        (t.fr c).x = (s1.fr c).x ∧ (t.fr c).cr = (s1.fr c).cr ∧ t.pcAt c = s1.pcNext c none :=
      ⟨_, hw, completed_of (RegChange.refl s1 c) none []⟩
    have htags : (t.cell c.cell).tags = (s1.cell c.cell).tags := by
      have h := congrArg Cell.tags h1.cell
      exact h
    refine ⟨t, ht, fun k _ => ?_, by rw [h3, hfr], by rw [h4, hfr], ?_, by rw [htags, hs1]; exact h1, fun k hk => ?_⟩
    · exact (h2 k).trans (State.reg_congr hu (by rw [hfr]) k)
    · rw [h5]; simp only [State.pcNext, hu, hfr]
    · intro e
      rw [htags]
      exact State.setTagEnable_tag s c.cell _ hk

/-- Settles O19: `crd` writes one register, and the three writes are one operation on the fields of a frame's control registers. -/
theorem controlRegisters : Obligations.ControlRegisters := ⟨control_register_reads, control_register_writes⟩

end Sys2Proof.Machine

namespace Sys2Proof.Machine

/-! ## Accumulators (spec 13, Table 13-5, R301, R302, R309) -/

theorem intBits_lt (w : Nat) (v : Int) : intBits w v < 2 ^ w := by
  have h1 : (0 : Int) < 2 ^ w := by positivity
  have h2 := Int.emod_lt_of_pos v h1
  have h3 := Int.emod_nonneg v h1.ne'
  have h4 : ((2 ^ w : Nat) : Int) = 2 ^ w := by push_cast; rfl
  simp only [intBits]; omega

theorem signedNat_intBits {w : Nat} {v : Int} (hw : 0 < w) (h : -(2 ^ (w - 1)) ≤ v ∧ v < 2 ^ (w - 1)) : signedNat w (intBits w v) = v := by
  obtain ⟨k, rfl⟩ : ∃ k, w = k + 1 := ⟨w - 1, by omega⟩
  have hp : ((2 : Int) ^ (k + 1)) = ((2 ^ (k + 1) : Nat) : Int) := by push_cast; rfl
  have hq : ((2 : Int) ^ k) = ((2 ^ k : Nat) : Int) := by push_cast; rfl
  have h0 : 0 < 2 ^ k := by positivity
  rw [Nat.add_sub_cancel, hq] at h
  rw [signedNat_eq, Nat.mod_eq_of_lt (intBits_lt _ _), intBits, hp]
  rw [pow_succ] at *
  rcases lt_or_ge v 0 with hv | hv
  · have : v % ((2 ^ k * 2 : Nat) : Int) = v + (2 ^ k * 2 : Nat) := by
      rw [← Int.add_mul_emod_self_left v _ 1, mul_one, Int.emod_eq_of_lt (by omega) (by omega)]
    rw [this]; split <;> omega
  · rw [Int.emod_eq_of_lt hv (by omega)]; split <;> omega

theorem clamp40_range (v : Int) : -(2 ^ 39) ≤ (clamp40 v).1 ∧ (clamp40 v).1 < 2 ^ 39 := by
  unfold clamp40
  split
  · norm_num
  · split
    · norm_num
    · constructor <;> dsimp only <;> omega

theorem accV_range (w : Word) : -(2 ^ 39) ≤ accV w ∧ accV w < 2 ^ 39 := by
  have := signedNat_range (w := 40) (by decide) w.toNat
  simp only [accV]; omega

theorem clamp40_of_range {v : Int} (h : -(2 ^ 39) ≤ v ∧ v < 2 ^ 39) : clamp40 v = (v, false) := by
  rw [clamp40, if_neg (by omega), if_neg (by omega)]

/-- The exponent field of a container. -/
def accField (x : Option Int) : Nat := (x.map (intBits 16)).getD 0x8000

theorem accField_lt (x : Option Int) : accField x < 2 ^ 16 := by
  cases x with
  | none => decide
  | some e => exact intBits_lt 16 e

/-- The two fields of a container as a number. -/
theorem accMake_toNat (x : Option Int) (v : Int) : (accMake x v).toNat = accField x * 2 ^ 40 + intBits 40 v := by
  have h1 := intBits_lt 40 v
  have h2 := accField_lt x
  have h3 : accMake x v = word (accField x * 2 ^ 40 + intBits 40 v) := by cases x <;> rfl
  rw [h3, word, BitVec.toNat_ofNat]
  exact Nat.mod_eq_of_lt (by omega)

theorem accField_accMake (x : Option Int) (v : Int) : bits (accMake x v) 55 40 = accField x := by
  have h1 := intBits_lt 40 v
  have h2 := accField_lt x
  rw [bits, accMake_toNat]; omega

theorem accV_accMake (x : Option Int) {v : Int} (h : -(2 ^ 39) ≤ v ∧ v < 2 ^ 39) : accV (accMake x v) = v := by
  have h1 := intBits_lt 40 v
  have h2 : (accMake x v).toNat % 2 ^ 40 = intBits 40 v := by rw [accMake_toNat]; omega
  have h3 := signedNat_intBits (w := 40) (by decide) h
  rw [signedNat_eq] at h3
  rw [accV, signedNat_eq, h2, ← Nat.mod_eq_of_lt h1, h3]

theorem accX_accMake_none (v : Int) : accX (accMake none v) = none := by
  rw [accX, accField_accMake]; rfl

theorem accX_accMake_some {e : Int} (h : -(2 ^ 15) < e ∧ e < 2 ^ 15) (v : Int) : accX (accMake (some e) v) = some e := by
  have h2 : bits (accMake (some e) v) 55 40 = intBits 16 e := accField_accMake ..
  have h3 := signedNat_intBits (w := 16) (by decide) (v := e) (by omega)
  have h4 : intBits 16 e ≠ 0x8000 := by
    intro h5
    rw [h5] at h3
    have : signedNat 16 0x8000 = -(2 ^ 15) := by decide
    omega
  rw [accX, h2, if_neg h4, h3]

theorem accX_range {w : Word} {e : Int} (h : accX w = some e) : -(2 ^ 15) < e ∧ e < 2 ^ 15 := by
  unfold accX at h
  split at h
  · cases h
  next h0 =>
    have h1 : bits w 55 40 < 2 ^ 16 := Nat.mod_lt _ (by decide)
    rw [← Option.some.inj h, signedNat_eq, Nat.mod_eq_of_lt h1]
    split <;> omega

theorem accX_accMake_accX (w : Word) (v : Int) : accX (accMake (accX w) v) = accX w := by
  cases h : accX w with
  | none => exact accX_accMake_none v
  | some e => exact accX_accMake_some (accX_range h) v

theorem addAcc_fields (w : Word) (n : Int) :
    (accX (addAcc w n).1, accV (addAcc w n).1) = (accX w, (clamp40 (accV w + n)).1) := by
  simp only [addAcc, accX_accMake_accX, accV_accMake _ (clamp40_range _)]

/-- What a container holds after it has been aligned for contributions of some exponents. -/
theorem alignAcc_fields (w : Word) (t : Int) (ts : List Int) (h : ∀ e ∈ t :: ts, -(2 ^ 15) < e ∧ e < 2 ^ 15) :
    (accX (alignAcc w (t :: ts)).1, accV (alignAcc w (t :: ts)).1) =
      match accX w with
      | none => (some (ts.foldl min t), 0)
      | some e => (some (min e (ts.foldl min t)),
          if ts.foldl min t < e then (clamp40 (accV w * 2 ^ (e - ts.foldl min t).toNat)).1 else accV w) := by
  have hm : -(2 ^ 15) < ts.foldl min t ∧ ts.foldl min t < 2 ^ 15 := by
    have : ∀ (ts : List Int) (t : Int), ts.foldl min t ∈ t :: ts := by
      intro ts
      induction ts with
      | nil => simp
      | cons x ts ih =>
        intro t
        rcases List.mem_cons.mp (ih (min t x)) with h | h
        · rw [List.foldl_cons, h]
          rcases min_choice t x with h | h <;> simp [h]
        · simp [h]
    exact h _ (this ts t)
  simp only [alignAcc]
  cases hx : accX w with
  | none => simp only [accX_accMake_some hm, accV_accMake _ (v := 0) (by norm_num)]
  | some e =>
    dsimp only
    split
    next hlt =>
      rw [accX_accMake_some hm, accV_accMake _ (clamp40_range _), min_eq_right hlt.le]
    next hge => rw [hx, min_eq_left (not_lt.mp hge)]

/-! ### Containers of a fragment -/

theorem State.accAt_setAcc (s : State) (c c' f g i k : Nat) (w : Word) :
    (s.setAcc c f i w).accAt c' g k = if c = c' ∧ accKey f i = accKey g k then w else s.accAt c' g k := by
  simp only [State.accAt, State.setAcc, State.cell_modCell]
  by_cases hc : c = c'
  · subst hc
    by_cases hk : accKey f i = accKey g k
    · simp only [hk, and_self, if_true]
      split
      next hw => rw [hw, AL.get_del, if_pos rfl]
      · exact AL.get_put_same ..
    · simp only [hk, and_false, if_false, if_true]
      split
      · rw [AL.get_del, if_neg hk]
      · exact AL.get_put_ne _ _ _ hk
  · simp [hc]

theorem accKey_inj {f g i k : Nat} (hi : i < 2048) (hk : k < 2048) : accKey f i = accKey g k ↔ f = g ∧ i = k := by
  simp only [accKey]; omega

/-- Two states that differ at most in the accumulators of one cell. -/
structure AccChange (s t : State) (cell : Nat) : Prop where
  cells : ∀ k, k ≠ cell → t.cell k = s.cell k
  cell  : { t.cell cell with acc := (s.cell cell).acc } = s.cell cell
  rest  : { t with cells := s.cells } = s

theorem AccChange.refl (s : State) (cell : Nat) : AccChange s s cell := ⟨fun _ _ => rfl, rfl, rfl⟩

theorem AccChange.trans {s t u : State} {cell : Nat} (h : AccChange s t cell) (g : AccChange t u cell) : AccChange s u cell where
  cells k hk := (g.cells k hk).trans (h.cells k hk)
  cell := by
    have h1 := congrArg (fun y : Cell => { y with acc := (s.cell cell).acc }) g.cell
    exact h1.trans h.cell
  rest := by
    have h1 := congrArg (fun y : State => { y with cells := s.cells }) g.rest
    exact h1.trans h.rest

theorem State.modCell_accChange (s : State) (c : Nat) (f : Cell → AL Word) :
    AccChange s (s.modCell c (fun y => { y with acc := f y })) c where
  cells k hk := by rw [State.cell_modCell, if_neg (Ne.symm hk)]
  cell := by rw [State.cell_modCell_same]
  rest := rfl

theorem State.setAcc_accChange (s : State) (c f i : Nat) (w : Word) : AccChange s (s.setAcc c f i w) c := s.modCell_accChange c _

/-- Going over all containers of a fragment changes each by itself, and clamps where one of them does. -/
theorem State.eachAcc_eq (s : State) (cell frag : Nat) (f : Nat → Nat → Word → Word × Bool) :
    AccChange s (s.eachAcc cell frag f).1 cell ∧
    (∀ g, ∀ k < 2048, (s.eachAcc cell frag f).1.accAt cell g k =
      if g = frag then (f (k / 64) (k % 64) (s.accAt cell frag k)).1 else s.accAt cell g k) ∧
    (s.eachAcc cell frag f).2 = (List.range 2048).any (fun k => (f (k / 64) (k % 64) (s.accAt cell frag k)).2) := by
  have go : ∀ n ≤ 2048, let r := (List.range n).foldl (fun (acc : State × Bool) i =>
      let q := f (i / 64) (i % 64) (acc.1.accAt cell frag i)
      (acc.1.setAcc cell frag i q.1, acc.2 || q.2)) (s, false)
      AccChange s r.1 cell ∧ (∀ g, ∀ k < 2048, r.1.accAt cell g k =
        if g = frag ∧ k < n then (f (k / 64) (k % 64) (s.accAt cell frag k)).1 else s.accAt cell g k) ∧
      r.2 = (List.range n).any (fun k => (f (k / 64) (k % 64) (s.accAt cell frag k)).2) := by
    intro n hn
    induction n with
    | zero => exact ⟨AccChange.refl s cell, by simp, rfl⟩
    | succ n ih =>
      obtain ⟨h1, h2, h3⟩ := ih (by omega)
      have hn' := h2 frag n (by omega)
      rw [if_neg (by omega)] at hn'
      rw [List.range_succ, List.foldl_append, List.foldl_cons, List.foldl_nil]
      refine ⟨h1.trans (State.setAcc_accChange ..), fun g k hk => ?_, ?_⟩
      · dsimp only
        rw [State.accAt_setAcc]
        simp only [accKey_inj (show n < 2048 by omega) hk]
        rw [h2 g k hk, hn']
        by_cases hg : g = frag
        · subst hg
          by_cases hnk : n = k
          · subst hnk; simp
          · have : k < n + 1 ↔ k < n := by omega
            simp [hnk, this]
        · have : ¬ frag = g := fun h => hg h.symm
          simp [hg, this]
      · dsimp only
        rw [hn', h3, List.any_append, List.any_cons, List.any_nil, Bool.or_false]
  obtain ⟨h1, h2, h3⟩ := go 2048 (le_refl _)
  refine ⟨h1, fun g k hk => ?_, h3⟩
  have := h2 g k hk
  simp only [hk, and_true] at this
  exact this

/-- The containers of a cell are the same in two states. -/
def SameAccs (s t : State) (c : Nat) : Prop := ∀ f, ∀ k < 2048, t.accAt c f k = s.accAt c f k

theorem SameAccs.of_cell {s t : State} {c : Nat} (h : (t.cell c).acc = (s.cell c).acc) : SameAccs s t c :=
  fun f k _ => by rw [State.accAt, State.accAt, h]

/-- What going over the containers gives depends on the containers only. -/
theorem State.eachAcc_congr {s t : State} {cell : Nat} (h : SameAccs s t cell) (frag : Nat) (f : Nat → Nat → Word → Word × Bool) :
    SameAccs (s.eachAcc cell frag f).1 (t.eachAcc cell frag f).1 cell ∧
    (t.eachAcc cell frag f).2 = (s.eachAcc cell frag f).2 := by
  obtain ⟨-, hs, hs2⟩ := s.eachAcc_eq cell frag f
  obtain ⟨-, ht, ht2⟩ := t.eachAcc_eq cell frag f
  constructor
  · intro g k hk
    rw [hs g k hk, ht g k hk, h frag k hk, h g k hk]
  · rw [hs2, ht2, Bool.eq_iff_iff, List.any_eq_true, List.any_eq_true]
    constructor
    · rintro ⟨k, hk, hf⟩; exact ⟨k, hk, by rwa [← h frag k (List.mem_range.mp hk)]⟩
    · rintro ⟨k, hk, hf⟩; exact ⟨k, hk, by rwa [h frag k (List.mem_range.mp hk)]⟩

end Sys2Proof.Machine

namespace Sys2Proof.Machine

/-! ## Plane slots and passes (spec 13, R73, R74, R302, R310) -/

open Finset in
theorem foldl_add_range {M : Type} [AddCommMonoid M] (f : Nat → M) (a : M) (n : Nat) :
    (List.range n).foldl (fun x k => x + f k) a = a + ∑ k ∈ range n, f k := by
  induction n with
  | zero => simp
  | succ n ih => rw [List.range_succ, List.foldl_append, ih, sum_range_succ, ← add_assoc]; rfl

open Finset in
theorem sum_map_range {M : Type} [AddCommMonoid M] (f : Nat → M) (n : Nat) :
    ((List.range n).map f).sum = ∑ k ∈ range n, f k := by
  induction n with
  | zero => simp
  | succ n ih => rw [List.range_succ, List.map_append, List.sum_append, ih, sum_range_succ]; simp

/-- The sign of a plane slot: the last one of `p` is the sign slot (R73). -/
def slotSign (p s : Nat) : Int := if s + 1 = p then -1 else 1

/-- One bit of a doubleword as an integer. -/
def bitInt (w k : Nat) : Int := if w.testBit k then 1 else 0

theorem div_pow_mod_two (w k : Nat) : w / 2 ^ k % 2 = if w.testBit k then 1 else 0 := by
  rw [Nat.testBit_eq_decide_div_mod_eq]
  rcases Nat.mod_two_eq_zero_or_one (w / 2 ^ k) with h | h <;> simp [h]

theorem bitInt_eq (w k : Nat) : ((w / 2 ^ k % 2 : Nat) : Int) = bitInt w k := by
  rw [div_pow_mod_two, bitInt]; split <;> rfl

theorem bitInt_and (v w k : Nat) : bitInt (v &&& w) k = bitInt v k * bitInt w k := by
  simp only [bitInt, Nat.testBit_and]
  cases v.testBit k <;> cases w.testBit k <;> rfl

open Finset in
/-- The integer of an element as a sum over its plane slots. -/
theorem planeInt_eq (bs : List Byte) (size p off y k : Nat) :
    planeInt bs size p off y k = ∑ s ∈ range p, slotSign p s * (bitInt (slotWord bs size s y) k * 2 ^ (s + off)) := by
  have h := foldl_add_range (fun s : Nat => slotSign p s * (bitInt (slotWord bs size s y) k * 2 ^ (s + off))) 0 p
  rw [zero_add] at h
  rw [← h, planeInt]
  congr 1
  funext a s
  rw [bitInt_eq, slotSign]
  split <;> simp

open Finset in
/-- The number of common bits of two doublewords. -/
theorem popCount_and (v w : Nat) :
    (((List.range 64).foldl (fun n k => n + (v &&& w) / 2 ^ k % 2) 0 : Nat) : Int) =
      ∑ k ∈ range 64, bitInt v k * bitInt w k := by
  rw [foldl_add_range, zero_add]
  push_cast
  refine sum_congr rfl fun k _ => ?_
  rw [← bitInt_and, ← bitInt_eq]
  push_cast; rfl

/-- The sign of a pass is the product of the signs of its slots. -/
theorem passSign_eq (p q i j : Nat) :
    (if (i + 1 == p) != (j + 1 == q) then -1 else 1 : Int) = slotSign p i * slotSign q j := by
  simp only [slotSign, ← beq_iff_eq (a := i + 1), ← beq_iff_eq (a := j + 1)]
  cases i + 1 == p <;> cases j + 1 == q <;> rfl

open Finset in
theorem passes_sum_to_product : Claims.PassesMultiply := by
  intro as bs pa pb oa ob r c _ _
  simp only [sum_map_range, planeInt_eq, popCount_and, passSign_eq, sum_mul_sum]
  rw [sum_comm (s := range 64) (t := range pa)]
  refine sum_congr rfl fun i _ => ?_
  rw [sum_comm (s := range 64)]
  refine sum_congr rfl fun j _ => ?_
  rw [mul_sum]
  refine sum_congr rfl fun k _ => ?_
  rw [show i + oa + j + ob = (i + oa) + (j + ob) by omega, pow_add]
  ring

/-! ### What a unit of a tile operation does to the containers (R302, R310) -/

/-- A unit of a tile operation that goes over all containers, by what it does to the fields of each. -/
theorem State.eachAcc_contains (s : State) {cell frag : Nat} {f : Nat → Nat → Word → Word × Bool}
    {g : Nat → Nat → Word → Option Int × Int}
    (h : ∀ r c w, (accX (f r c w).1, accV (f r c w).1) = g r c w) :
    Claims.Contains s (s.eachAcc cell frag f).1 cell frag g := by
  obtain ⟨hch, hin, -⟩ := s.eachAcc_eq cell frag f
  refine ⟨fun r hr c hc => ?_, fun g hg hne k hk => (hin g k hk).trans (if_neg hne), hch.cells, hch.cell, hch.rest⟩
  have h1 : (64 * r + c) / 64 = r := by omega
  have h2 : (64 * r + c) % 64 = c := by omega
  dsimp only
  rw [hin _ _ (by omega), if_pos rfl, h1, h2, h]

/-- What the first unit does to a container: it is aligned with the exponents of its blocks (R302). -/
def MatRun.alignedFields (m : MatRun) (r c : Nat) (w : Word) : Option Int × Int :=
  let least := ((List.range 4).map (m.t r c)).foldl min (m.t r c 0)
  match accX w with
  | none => (some least, 0)
  | some e => (some (min e least), if least < e then (clamp40 (accV w * 2 ^ (e - least).toNat)).1 else accV w)

theorem MatRun.align_contains (m : MatRun) (cell : Nat) (s : State)
    (h : ∀ r c, ∀ e ∈ (List.range 4).map (m.t r c), -(2 ^ 15) < e ∧ e < 2 ^ 15) :
    Claims.Contains s (m.align cell s).1 cell m.frag m.alignedFields := by
  rw [MatRun.align]
  refine s.eachAcc_contains fun r c w => ?_
  have h1 := alignAcc_fields w (m.t r c 0) ((List.range' 1 3).map (m.t r c)) (h r c)
  have h2 : ((List.range 4).map (m.t r c)).foldl min (m.t r c 0) =
      ((List.range' 1 3).map (m.t r c)).foldl min (m.t r c 0) := by
    simp [List.range, List.range.loop, List.range']
  have h3 : (List.range 4).map (m.t r c) = m.t r c 0 :: (List.range' 1 3).map (m.t r c) := rfl
  rw [h3]
  refine h1.trans ?_
  unfold MatRun.alignedFields
  cases accX w <;> simp only [h2]

open Finset in
/-- The common bits of two doublewords, block by block, each at the weight of its block. -/
theorem pop16_blocks (w : Nat) (u : Nat → Int) :
    (List.range 4).foldl (fun (n : Int) b => n + (pop16 w b : Int) * u b) 0 =
      ((List.range 64).map (fun k => if w.testBit k then u (k / 16) else 0)).sum := by
  have h1 : ∀ b, (pop16 w b : Int) * u b = ∑ i ∈ range 16, if w.testBit (16 * b + i) then u ((16 * b + i) / 16) else 0 := by
    intro b
    rw [pop16, foldl_add_range, zero_add]
    push_cast
    rw [sum_mul]
    refine sum_congr rfl fun i hi => ?_
    have h2 : (16 * b + i) / 16 = b := by have := mem_range.mp hi; omega
    have h3 := bitInt_eq w (16 * b + i)
    push_cast at h3
    rw [h3, h2, bitInt]
    split <;> simp
  have h4 : ∀ n, ∑ b ∈ range n, (pop16 w b : Int) * u b = ∑ k ∈ range (16 * n), if w.testBit k then u (k / 16) else 0 := by
    intro n
    induction n with
    | zero => rfl
    | succ n ih => rw [sum_range_succ, ih, h1, Nat.mul_succ, sum_range_add]
  rw [foldl_add_range, zero_add, h4, sum_map_range]

theorem MatRun.pass_contains (m : MatRun) (cell i j : Nat) (s : State) :
    Claims.Contains s (m.pass cell i j s).1 cell m.frag (fun r c w =>
      let weight := (if (i + 1 = m.pa) ↔ (j + 1 = m.pb) then 1 else -1) * (2 : Int) ^ (i + m.oa + j + m.ob)
      let both := slotWord m.aBytes 256 i r &&& slotWord m.bBytes 512 j c
      (accX w, (clamp40 (accV w + weight * ((List.range 64).map (fun k =>
        if both.testBit k then (2 : Int) ^ (m.t r c (k / 16) - (accX w).getD 0).toNat else 0)).sum)).1)) := by
  rw [MatRun.pass]
  refine s.eachAcc_contains fun r c w => ?_
  dsimp only
  rw [addAcc_fields, pop16_blocks _ (fun b => (2 : Int) ^ (m.t r c b - (accX w).getD 0).toNat)]
  have h : (if (i + 1 == m.pa) != (j + 1 == m.pb) then -((2 : Int) ^ (i + m.oa + j + m.ob)) else 2 ^ (i + m.oa + j + m.ob)) =
      (if (i + 1 = m.pa) ↔ (j + 1 = m.pb) then 1 else -1) * (2 : Int) ^ (i + m.oa + j + m.ob) := by
    by_cases h1 : i + 1 = m.pa <;> by_cases h2 : j + 1 = m.pb <;> simp [h1, h2]
  rw [h]

theorem MatRun.sideA_contains (m : MatRun) (cell : Nat) (e : BitVec 32) (s : State) :
    Claims.Contains s (m.sideA cell e s).1 cell m.frag (fun r c w =>
      (accX w, if r = e.toNat / 64 % 64 then (clamp40 (accV w + signedNat 20 (e.toNat / 4096) *
        planeInt m.bBytes 512 m.pb m.ob c (e.toNat % 64) *
        2 ^ (m.t r c (e.toNat % 64 / 16) - (accX w).getD 0).toNat)).1 else accV w)) := by
  rw [MatRun.sideA]
  refine s.eachAcc_contains fun r c w => ?_
  split
  next h => rw [addAcc_fields, h]
  · rfl

theorem MatRun.sideB_contains (m : MatRun) (cell : Nat) (e : BitVec 32) (s : State) :
    Claims.Contains s (m.sideB cell e s).1 cell m.frag (fun r c w =>
      (accX w, if c = e.toNat / 64 % 64 then (clamp40 (accV w + planeInt m.aBytes 256 m.pa m.oa r (e.toNat % 64) *
        signedNat 20 (e.toNat / 4096) *
        2 ^ (m.t r c (e.toNat % 64 / 16) - (accX w).getD 0).toNat)).1 else accV w)) := by
  rw [MatRun.sideB]
  refine s.eachAcc_contains fun r c w => ?_
  split
  next h => rw [addAcc_fields, h]
  · rfl

theorem passes_add : Claims.PassesAdd := by
  intro s m cell _ exps unitOf hr
  have ha : m.alignedFields = fun r c w =>
      let least := (exps r c).foldl min (m.t r c 0)
      match accX w with
      | none => (some least, 0)
      | some e => (some (min e least), if least < e then (clamp40 (accV w * 2 ^ (e - least).toNat)).1 else accV w) := by
    funext r c w
    unfold MatRun.alignedFields
    cases accX w <;> rfl
  refine ⟨?_, fun i j => ?_, fun e => ⟨?_, ?_⟩, fun u => ?_⟩
  · exact ha ▸ m.align_contains cell s hr
  · exact m.pass_contains cell i j s
  · exact m.sideA_contains cell e s
  · exact m.sideB_contains cell e s
  simp only [MatRun.unit]
  split
  · rfl
  · cases m.alist[u - m.pa * m.pb]? with
    | some e => rw [Option.map_some, Option.getD_some]
    | none =>
      rw [Option.map_none, Option.getD_none]
      cases m.blist[u - m.pa * m.pb - m.alist.length]? with
      | some e => rw [Option.map_some, Option.getD_some]
      | none => rw [Option.map_none, Option.getD_none]

/-! ### Planes of a row of integers (R73, R74, R307) -/

/-- Bits that are added at ascending places from `n` on stand at their places. -/
theorem testBit_zipIdx_fold {α : Type} (g : α → Nat) (hg : ∀ x, g x < 2) (l : List α) (n a : Nat) (ha : a < 2 ^ n) :
    let r := (l.zipIdx n).foldl (fun a x => a + g x.1 * 2 ^ x.2) a
    r < 2 ^ (n + l.length) ∧ ∀ j, r.testBit j = if j < n then a.testBit j else ((l[j - n]?).map (fun x => g x == 1)).getD false := by
  induction l generalizing n a with
  | nil =>
    refine ⟨ha, fun j => ?_⟩
    split
    · rfl
    next h => exact Nat.testBit_lt_two_pow (lt_of_lt_of_le ha (Nat.pow_le_pow_right (by decide) (not_lt.mp h)))
  | cons x xs ih =>
    have hx := hg x
    have h1 : a + g x * 2 ^ n < 2 ^ (n + 1) := by
      rw [pow_succ]
      rcases (show g x = 0 ∨ g x = 1 by omega) with h | h <;> rw [h] <;> omega
    obtain ⟨h2, h3⟩ := ih (n + 1) _ h1
    rw [List.zipIdx_cons, List.foldl_cons]
    refine ⟨by rw [List.length_cons, ← Nat.add_assoc, Nat.add_right_comm]; exact h2, fun j => ?_⟩
    rw [h3 j, add_comm a, mul_comm (g x), Nat.testBit_two_pow_mul_add _ ha]
    rcases lt_trichotomy j n with h | h | h
    · rw [if_pos (by omega), if_pos h, if_pos h]
    · subst h
      rcases (show g x = 0 ∨ g x = 1 by omega) with h | h <;> simp [h]
    · rw [if_neg (by omega), if_neg (by omega), show j - n = j - (n + 1) + 1 by omega, List.getElem?_cons_succ]

/-- Bit k of the doubleword of a plane slot is that bit of element k. -/
theorem planeWord_bits (q : List Int) (slot : Nat) :
    planeWord q slot < 2 ^ q.length ∧ ∀ k, ∀ h : k < q.length, (planeWord q slot).testBit k = (intBits 32 q[k]).testBit slot := by
  obtain ⟨h1, h2⟩ := testBit_zipIdx_fold (fun v : Int => intBits 32 v / 2 ^ slot % 2) (fun _ => Nat.mod_lt _ (by decide)) q 0 0
    (by decide)
  rw [zero_add] at h1
  refine ⟨h1, fun k h => (h2 k).trans ?_⟩
  rw [if_neg (Nat.not_lt_zero k), Nat.sub_zero, List.getElem?_eq_getElem h, Option.map_some, Option.getD_some, div_pow_mod_two]
  cases (intBits 32 q[k]).testBit slot <;> rfl

open Finset in
/-- The place values of the plane slots of an integer, the last one negative, add up to it (R73). -/
theorem slots_sum (n p : Nat) (hp : 0 < p) : ∑ s ∈ range p, slotSign p s * (bitInt n s * 2 ^ s) = signedNat p n := by
  have low : ∀ m, ∑ s ∈ range m, bitInt n s * 2 ^ s = ((n % 2 ^ m : Nat) : Int) := by
    intro m
    induction m with
    | zero => simp [Nat.mod_one]
    | succ m ih => rw [sum_range_succ, ih, Nat.mod_pow_succ, ← bitInt_eq]; push_cast; ring
  obtain ⟨k, rfl⟩ : ∃ k, p = k + 1 := ⟨p - 1, by omega⟩
  have h1 : ∑ s ∈ range k, slotSign (k + 1) s * (bitInt n s * 2 ^ s) = ((n % 2 ^ k : Nat) : Int) := by
    rw [← low]
    refine sum_congr rfl fun s hs => ?_
    have := mem_range.mp hs
    rw [slotSign, if_neg (by omega), one_mul]
  have h2 : n % 2 ^ k < 2 ^ k := Nat.mod_lt _ (by positivity)
  have h3 : ((2 : Int) ^ k) = ((2 ^ k : Nat) : Int) := by push_cast; rfl
  rw [sum_range_succ, h1, slotSign, if_pos rfl, signedNat_eq, Nat.mod_pow_succ, pow_succ, ← bitInt_eq, h3]
  rcases Nat.mod_two_eq_zero_or_one (n / 2 ^ k) with h | h <;> rw [h]
  · rw [if_pos (by omega)]; push_cast; ring
  · rw [if_neg (by omega)]; push_cast; ring

theorem planes_hold_integers : Claims.PlanesHoldIntegers := by
  intro q bs size p off y hp0 hp hq hrange hbytes k hk
  have hv := hrange q[k] (List.getElem_mem hk)
  have hbit : ∀ s < p, bitInt (slotWord bs size s y) k = bitInt (intBits 32 q[k]) s := by
    intro s hs
    obtain ⟨h1, h2⟩ := planeWord_bits q s
    rw [hq] at h1
    rw [slotWord, hbytes s hs, leNat_leBytes, show 256 ^ 8 = 2 ^ 64 from rfl, Nat.mod_eq_of_lt h1, bitInt, h2 k hk, bitInt]
  have hlow : intBits 32 q[k] % 2 ^ p = intBits p q[k] := by
    have h1 : ((2 : Int) ^ p) ∣ 2 ^ 32 := pow_dvd_pow 2 hp
    have h2 : (0 : Int) < 2 ^ p := by positivity
    have h3 := Int.emod_nonneg q[k] h2.ne'
    have h4 := Int.emod_nonneg q[k] (show (2 : Int) ^ 32 ≠ 0 by decide)
    zify
    rw [intBits, intBits, Int.toNat_of_nonneg h4, Int.toNat_of_nonneg h3, Int.emod_emod_of_dvd _ h1]
  calc planeInt bs size p off y k
      = (∑ s ∈ Finset.range p, slotSign p s * (bitInt (intBits 32 q[k]) s * 2 ^ s)) * 2 ^ off := by
        rw [planeInt_eq, Finset.sum_mul]
        refine Finset.sum_congr rfl fun s hs => ?_
        rw [hbit s (Finset.mem_range.mp hs), pow_add]; ring
    _ = signedNat p (intBits 32 q[k]) * 2 ^ off := by rw [slots_sum _ _ hp0]
    _ = q[k] * 2 ^ off := by
        rw [signedNat_eq, hlow, ← Nat.mod_eq_of_lt (intBits_lt p q[k]), ← signedNat_eq, signedNat_intBits hp0 hv]

end Sys2Proof.Machine

namespace Sys2Proof.Machine

/-! ## Scoreboards and gangs (spec 12 and 13, R279, R311 to R313) -/

theorem State.score_setScore (s : State) (c d f g : Nat) (l : List Nat) :
    (s.setScore c f l).score d g = if c = d ∧ f = g then l else s.score d g := by
  simp only [State.score, State.setScore, State.cell_modCell]
  by_cases hc : c = d
  · subst hc
    by_cases hf : f = g
    · subst hf
      simp only [and_self, if_true]
      split
      next h => rw [h, AL.get_del, if_pos rfl]
      · exact AL.get_put_same ..
    · simp only [hf, and_false, if_false, if_true]
      split
      · rw [AL.get_del, if_neg hf]
      · exact AL.get_put_ne _ _ _ hf
  · simp [hc]

theorem scoreboard_grants (s : State) (c f n : Nat) (rest : List Nat) (h : s.score c f = n :: rest) (hn : n % 2 = 0) :
    Happens s (.scoreboardGrant c f) fun t =>
      t.score c f = (n + 1) :: rest ∧ (∀ g, g ≠ f → t.score c g = s.score c g) ∧ { t with cells := s.cells } = s := by
  have ht : s.tryScore c f = some (s.setScore c f ((n + 1) :: rest)) := by
    simp only [State.tryScore, h, hn, if_true]
  refine ⟨s.setScore c f ((n + 1) :: rest), ?_, ?_, fun g hg => ?_, rfl⟩
  · rw [exec_scoreboardGrant, execScoreboardGrant, ht]; rfl
  · rw [State.score_setScore, if_pos ⟨rfl, rfl⟩]
  · rw [State.score_setScore, if_neg fun h => hg h.2.symm]

/-! ### Units of a tile operation change accumulators only -/

/-- An operation that changes accumulators of one cell only, by what stands in them. -/
structure OnAccs (op : State → State × Bool) (cell : Nat) : Prop where
  change : ∀ s, AccChange s (op s).1 cell
  congr  : ∀ s t, SameAccs s t cell → SameAccs (op s).1 (op t).1 cell ∧ (op t).2 = (op s).2

theorem State.eachAcc_onAccs (cell frag : Nat) (f : Nat → Nat → Word → Word × Bool) : OnAccs (fun s => s.eachAcc cell frag f) cell :=
  ⟨fun s => (s.eachAcc_eq cell frag f).1, fun _ _ h => State.eachAcc_congr h frag f⟩

theorem MatRun.align_onAccs (m : MatRun) (cell : Nat) : OnAccs (m.align cell) cell := by
  unfold MatRun.align; exact State.eachAcc_onAccs ..

theorem MatRun.pass_onAccs (m : MatRun) (cell i j : Nat) : OnAccs (m.pass cell i j) cell := by
  unfold MatRun.pass; exact State.eachAcc_onAccs ..

theorem MatRun.sideA_onAccs (m : MatRun) (cell : Nat) (e : BitVec 32) : OnAccs (m.sideA cell e) cell := by
  unfold MatRun.sideA; exact State.eachAcc_onAccs ..

theorem MatRun.sideB_onAccs (m : MatRun) (cell : Nat) (e : BitVec 32) : OnAccs (m.sideB cell e) cell := by
  unfold MatRun.sideB; exact State.eachAcc_onAccs ..

theorem MatRun.unit_accChange (m : MatRun) (cell u : Nat) (s : State) : AccChange s (m.unit cell u s).1 cell := by
  rw [MatRun.unit]
  dsimp only
  split
  · have h1 : AccChange s (if u = 0 then m.align cell s else (s, false)).1 cell := by
      split
      · exact (m.align_onAccs cell).change s
      · exact AccChange.refl s cell
    dsimp only
    exact h1.trans ((m.pass_onAccs cell (u / m.pb) (u % m.pb)).change (if u = 0 then m.align cell s else (s, false)).1)
  · split
    · exact (m.sideA_onAccs cell _).change s
    · split
      · exact (m.sideB_onAccs cell _).change s
      · exact AccChange.refl s cell

/-- What a unit makes of the containers depends on the containers only. -/
theorem MatRun.unit_congr (m : MatRun) {cell : Nat} (u : Nat) {s t : State} (h : SameAccs s t cell) :
    SameAccs (m.unit cell u s).1 (m.unit cell u t).1 cell ∧ (m.unit cell u t).2 = (m.unit cell u s).2 := by
  rw [MatRun.unit, MatRun.unit]
  dsimp only
  split
  · have h1 : SameAccs (if u = 0 then m.align cell s else (s, false)).1 (if u = 0 then m.align cell t else (t, false)).1 cell ∧
        (if u = 0 then m.align cell t else (t, false)).2 = (if u = 0 then m.align cell s else (s, false)).2 := by
      split
      · exact (m.align_onAccs cell).congr s t h
      · exact ⟨h, rfl⟩
    obtain ⟨h2, h3⟩ := (m.pass_onAccs cell (u / m.pb) (u % m.pb)).congr _ _ h1.1
    dsimp only
    exact ⟨h2, by rw [h1.2, h3]⟩
  · split
    · exact (m.sideA_onAccs cell _).congr s t h
    · split
      · exact (m.sideB_onAccs cell _).congr s t h
      · exact ⟨h, rfl⟩

/-! ### Joins -/

theorem State.gang_setGang (s : State) (k : Nat) (g : GangJoin) : (s.setGang k g).gang k = g := by
  simp only [State.gang, State.setGang]
  split
  next h => rw [h, AL.get_del, if_pos rfl]
  · exact AL.get_put_same ..

theorem AL.mem_of_find {α : Type} {l : AL α} {k : Nat} {v : α} (h : AL.find l k = some v) : (k, v) ∈ l := by
  induction l with
  | nil => cases h
  | cons p t ih =>
    obtain ⟨i, x⟩ := p
    simp only [AL.find] at h
    split at h
    next hk => subst hk; cases h; exact List.mem_cons_self ..
    · exact List.mem_cons_of_mem _ (ih h)

/-- No gang runs where none runs on its strip. -/
theorem State.gang_not_running {s : State} {k : Nat} (h : s.stripRuns (k / 64) = false) : (s.gang k).running = false := by
  rw [State.gang, AL.get]
  cases hf : AL.find s.gangs k with
  | none => rfl
  | some g =>
    rw [State.stripRuns, List.any_eq_false] at h
    have := h _ (AL.mem_of_find hf)
    simpa using this

theorem State.gangMember_eq_some {s : State} {c p : Nat} {x : Prog} {q : Pending} {m : MatRun} :
    s.gangMember c = some (p, x, q, m) ↔
      (s.cell c).matrix.run = some p ∧ AL.find s.progs p = some x ∧ x.pend = some q ∧ q.stage = 11 ∧ q.mat = some m := by
  rw [State.gangMember]
  constructor
  · intro h
    cases hr : (s.cell c).matrix.run with
    | none => simp [hr] at h
    | some p' =>
      cases hx : AL.find s.progs p' with
      | none => simp [hr, hx] at h
      | some x' =>
        cases hq : x'.pend with
        | none => simp [hr, hx, hq] at h
        | some q' =>
          simp only [hr, hx, hq] at h
          split at h
          next h11 =>
            rw [Option.map_eq_some_iff] at h
            obtain ⟨m', hm', he⟩ := h
            cases he
            exact ⟨rfl, hx, hq, h11, hm'⟩
          · cases h
  · rintro ⟨hr, hx, hq, h11, hm⟩
    simp only [hr, hx, hq, h11, hm, if_true, Option.map_some]

theorem State.find_modProg (s : State) (p r : Nat) (f : Prog → Prog) :
    AL.find (s.modProg p f).progs r = if p = r then (AL.find s.progs p).map f else AL.find s.progs r := by
  rw [State.modProg]
  by_cases hp : p = r
  · subst hp
    cases h : AL.find s.progs p with
    | none => simp [h]
    | some x => simp
  · rw [if_neg hp]
    cases AL.find s.progs p with
    | none => rfl
    | some x => exact AL.find_put_ne _ _ hp

end Sys2Proof.Machine

namespace Sys2Proof.Machine

/-! ### GANG_START: the gang runs (R311) -/

/-- A member's run with the A operand of the source. -/
def MatRun.joined (m a : MatRun) : MatRun :=
  { m with pa := a.pa, oa := a.oa, aes4 := a.aes4, aBytes := a.aBytes, ua := a.ua, alist := a.alist }

/-- A member takes the A operand of the source. -/
def State.joinMember (a : MatRun) (t : State) (d : Nat × MatRun) : State :=
  match t.gangMember d.1 with
  | some (p, _, q, m) => t.modProg p (fun y => { y with pend := some { q with mat := some (m.joined a) } })
  | none => t

theorem State.joinMember_rest (a : MatRun) (t : State) (d : Nat × MatRun) : ∃ ps, t.joinMember a d = { t with progs := ps } := by
  rw [State.joinMember]
  split
  · exact State.modProg_rest ..
  · exact ⟨t.progs, rfl⟩

/-- A member that takes the operand has it; another one is as it was, or shares the program. -/
theorem State.joinMember_member (a : MatRun) {t : State} (d : Nat × MatRun) {c p : Nat} {x : Prog} {q : Pending} {m : MatRun}
    (h : t.gangMember c = some (p, x, q, m)) :
    ∃ y r m', (t.joinMember a d).gangMember c = some (p, y, r, m') ∧ (m' = m ∨ m' = m.joined a) ∧ (d.1 = c → m' = m.joined a) := by
  rw [State.joinMember]
  split
  next p2 x2 q2 m2 h2 =>
    obtain ⟨hr2, hx2, hq2, hs2, hm2⟩ := State.gangMember_eq_some.mp h2
    obtain ⟨hr, hx, hq, hs, hm⟩ := State.gangMember_eq_some.mp h
    by_cases hp : p2 = p
    · subst hp
      rw [hx2] at hx; cases hx
      rw [hq2] at hq; cases hq
      rw [hm2] at hm; cases hm
      refine ⟨{ x with pend := some { q with mat := some (m.joined a) } }, { q with mat := some (m.joined a) }, m.joined a,
        State.gangMember_eq_some.mpr ⟨?_, ?_, rfl, hs, rfl⟩, Or.inr rfl, fun _ => rfl⟩
      · rw [State.cell_of_cells (State.modProg_cells ..), hr]
      · rw [State.find_modProg, if_pos rfl, hx2]; rfl
    · refine ⟨x, q, m, State.gangMember_eq_some.mpr ⟨?_, ?_, hq, hs, hm⟩, Or.inl rfl, fun hd => ?_⟩
      · rw [State.cell_of_cells (State.modProg_cells ..), hr]
      · rw [State.find_modProg, if_neg hp, hx]
      · rw [hd, hr] at hr2; exact absurd (Option.some.inj hr2).symm hp
  next h2 =>
    refine ⟨x, q, m, h, Or.inl rfl, fun hd => ?_⟩
    rw [hd, h] at h2; cases h2

theorem State.joinMembers (a : MatRun) (l : List (Nat × MatRun)) (t : State) :
    (∃ ps, l.foldl (State.joinMember a) t = { t with progs := ps }) ∧
    ∀ c p x q m m0, t.gangMember c = some (p, x, q, m) → (m = m0 ∨ m = m0.joined a) →
      ∃ y r m', (l.foldl (State.joinMember a) t).gangMember c = some (p, y, r, m') ∧ (m' = m0 ∨ m' = m0.joined a) ∧
        (m = m0.joined a ∨ c ∈ l.map Prod.fst → m' = m0.joined a) := by
  induction l generalizing t with
  | nil =>
    refine ⟨⟨t.progs, rfl⟩, fun c p x q m m0 h hm => ⟨x, q, m, h, hm, fun hc => ?_⟩⟩
    simpa using hc
  | cons d l ih =>
    obtain ⟨⟨ps, h1⟩, h2⟩ := ih (t.joinMember a d)
    obtain ⟨ps1, h3⟩ := State.joinMember_rest a t d
    rw [List.foldl_cons]
    refine ⟨⟨ps, by rw [h1, h3]⟩, fun c p x q m m0 h hm => ?_⟩
    obtain ⟨y, r, m1, h4, h5, h6⟩ := State.joinMember_member a d h
    have h7 : m1 = m0 ∨ m1 = m0.joined a := by
      rcases hm with rfl | rfl
      · exact h5
      · rcases h5 with h | h <;> exact Or.inr h
    obtain ⟨y', r', m', h8, h9, h10⟩ := h2 c p y r m1 m0 h4 h7
    refine ⟨y', r', m', h8, h9, fun hc => h10 ?_⟩
    rw [List.map_cons, List.mem_cons] at hc
    rcases hc with hj | hd | hl
    · subst hj
      rcases h5 with h | h <;> exact Or.inl h
    · have h11 := h6 hd.symm
      rcases hm with rfl | rfl <;> exact Or.inl h11
    · exact Or.inr hl

/-- The cells of a strip segment stand in different columns. -/
theorem State.segmentCells_col {s : State} {k c d : Nat} (hc : c ∈ s.segmentCells k) (hd : d ∈ s.segmentCells k)
    (h : colOf c = colOf d) : c = d := by
  rw [State.segmentCells] at hc hd
  cases hf : AL.find s.fields (k % 64) with
  | none => simp [hf] at hc
  | some f =>
    simp only [hf, List.mem_filter, List.mem_map, List.mem_range] at hc hd
    obtain ⟨⟨i, hi, rfl⟩, -⟩ := hc
    obtain ⟨⟨j, hj, rfl⟩, -⟩ := hd
    simp only [colOf] at h
    omega

/-- The members of a strip segment with what they run. -/
def State.gangData (s : State) (ms : List Nat) : List (Nat × MatRun) := ms.filterMap (fun c => (s.gangMember c).map (fun r => (c, r.2.2.2)))

theorem State.mem_gangData {s : State} {ms : List Nat} {d : Nat × MatRun} :
    d ∈ s.gangData ms ↔ d.1 ∈ ms ∧ ∃ p x q, s.gangMember d.1 = some (p, x, q, d.2) := by
  simp only [State.gangData, List.mem_filterMap, Option.map_eq_some_iff]
  constructor
  · rintro ⟨c, hc, ⟨p, x, q, m⟩, h, rfl⟩; exact ⟨hc, p, x, q, h⟩
  · rintro ⟨hc, p, x, q, h⟩; exact ⟨d.1, hc, _, h, rfl⟩

/-- GANG_START where the members of a segment agree: the gang runs with the A operand of its source. -/
theorem State.tryGang_runs {s : State} {k : Nat} (hne : s.segmentCells k ≠ []) (hstrip : s.stripRuns (k / 64) = false)
    (hm : ∀ c ∈ s.segmentCells k, s.engineGo c = true ∧ (c, false) ∈ (s.gang k).arrived ∧ (c, true) ∉ (s.gang k).arrived ∧
      s.gangAsks c = none ∧ s.gangGone c = false)
    {src p0 : Nat} {x0 : Prog} {q0 : Pending} {m0 : MatRun} (hsrc : src ∈ s.segmentCells k)
    (hmem : s.gangMember src = some (p0, x0, q0, m0)) (hcol : colOf src = m0.srccol) (hes4 : m0.aes4 = false)
    (hagree : ∀ c ∈ s.segmentCells k, ∃ p x q m, s.gangMember c = some (p, x, q, m) ∧ m.gtag = m0.gtag ∧ m.srccol = m0.srccol ∧
      m.pb = m0.pb) :
    s.tryGang k = some (((s.gangData (s.segmentCells k)).foldl (State.joinMember m0) s).setGang k
      { s.gang k with running := true, pass := 0 }) := by
  have h1 : (s.segmentCells k).isEmpty = false := by simpa using hne
  have h2 : (s.segmentCells k).any (fun c => !s.engineGo c) = false := by
    rw [List.any_eq_false]; intro c hc; simp [(hm c hc).1]
  have h3 : (s.segmentCells k).all (fun c => (s.gang k).arrived.any (fun a => a.1 == c)) = true := by
    rw [List.all_eq_true]; intro c hc
    exact List.any_eq_true.mpr ⟨_, (hm c hc).2.1, beq_self_eq_true c⟩
  have h4 : (s.segmentCells k).any (fun c => (s.gangAsks c).isSome) = false := by
    rw [List.any_eq_false]; intro c hc; simp [(hm c hc).2.2.2.1]
  have h5 : (s.segmentCells k).any s.gangGone = false := by
    rw [List.any_eq_false]; intro c hc; simp [(hm c hc).2.2.2.2]
  have h6 : ∀ d ∈ s.gangData (s.segmentCells k), d.2.gtag = m0.gtag ∧ d.2.srccol = m0.srccol ∧ d.2.pb = m0.pb := by
    intro d hd
    obtain ⟨hd1, p, x, q, hd2⟩ := State.mem_gangData.mp hd
    obtain ⟨p', x', q', m', h, hg⟩ := hagree d.1 hd1
    rw [hd2] at h; cases h
    exact hg
  have h7 : (s.segmentCells k).all (fun c => !(s.gang k).arrived.any (fun a => a.1 == c && a.2)) = true := by
    rw [List.all_eq_true]; intro c hc
    simp only [Bool.not_eq_true', List.any_eq_false, Bool.and_eq_true, beq_iff_eq, not_and]
    rintro ⟨e, b⟩ ha rfl hb
    exact (hm e hc).2.2.1 (by rw [← hb]; exact ha)
  have hin : (src, m0) ∈ s.gangData (s.segmentCells k) := State.mem_gangData.mpr ⟨hsrc, p0, x0, q0, hmem⟩
  obtain ⟨⟨c1, m1⟩, l, hl⟩ : ∃ d l, s.gangData (s.segmentCells k) = d :: l := List.exists_cons_of_ne_nil (List.ne_nil_of_mem hin)
  obtain ⟨hg1, hs1, hb1⟩ := h6 (c1, m1) (by rw [hl]; exact List.mem_cons_self ..)
  dsimp only at hg1 hs1 hb1
  have h8 : (s.gangData (s.segmentCells k)).find? (fun d => colOf d.1 == m1.srccol) = some (src, m0) := by
    cases hf : (s.gangData (s.segmentCells k)).find? (fun d => colOf d.1 == m1.srccol) with
    | none =>
      have := List.find?_eq_none.mp hf _ hin
      simp [hs1, hcol] at this
    | some d =>
      have hd1 := List.mem_of_find?_eq_some hf
      have hd2 := List.find?_some hf
      rw [hs1, beq_iff_eq, ← hcol] at hd2
      obtain ⟨hd3, p, x, q, hd4⟩ := State.mem_gangData.mp hd1
      have he := State.segmentCells_col hd3 hsrc hd2
      obtain ⟨d1, d2⟩ := d
      dsimp only at he hd4
      rw [he, hmem] at hd4
      cases hd4
      rw [he]
  have h9 : (s.gangData (s.segmentCells k)).all
      (fun d => d.2.gtag == m1.gtag && d.2.srccol == m1.srccol && d.2.pb == m1.pb) = true := by
    rw [List.all_eq_true]; intro d hd
    obtain ⟨a, b, c⟩ := h6 d hd
    simp [a, b, c, hg1, hs1, hb1]
  have h10 : (s.gangData (s.segmentCells k)).head? = some (c1, m1) := by rw [hl]; rfl
  have h11 : (m0.aes4 && (s.gangData (s.segmentCells k)).any (fun d => d.2.bes4)) = false := by rw [hes4]; rfl
  rw [State.gangData] at h8 h9 h10 h11 ⊢
  rw [State.tryGang]
  simp only [hstrip, h1, h2, h3, h4, h5, h7, h8, h9, h10, h11, Bool.not_true, Bool.not_false, Bool.or_false,
    Bool.and_self, Bool.false_eq_true, if_false, if_true]
  rfl

theorem gang_starts (s : State) (k src p0 : Nat) (x0 : Prog) (q0 : Pending) (m0 : MatRun)
    (hne : s.segmentCells k ≠ []) (hstrip : s.stripRuns (k / 64) = false)
    (hm : ∀ c ∈ s.segmentCells k, s.engineGo c = true ∧ (c, false) ∈ (s.gang k).arrived ∧ (c, true) ∉ (s.gang k).arrived ∧
      s.gangAsks c = none ∧ s.gangGone c = false)
    (hsrc : src ∈ s.segmentCells k) (hmem : s.gangMember src = some (p0, x0, q0, m0)) (hcol : colOf src = m0.srccol)
    (hes4 : m0.aes4 = false)
    (hagree : ∀ c ∈ s.segmentCells k, ∃ p x q m, s.gangMember c = some (p, x, q, m) ∧ m.gtag = m0.gtag ∧ m.srccol = m0.srccol ∧
      m.pb = m0.pb) :
    Happens s (.gangStart k) fun t => (t.gang k).running = true ∧ (t.gang k).pass = 0 ∧ (t.gang k).arrived = (s.gang k).arrived ∧
      (∀ c ∈ s.segmentCells k, ∀ p x q m, s.gangMember c = some (p, x, q, m) → ∃ y r, t.gangMember c = some (p, y, r, m.joined m0)) ∧
      { t with progs := s.progs, gangs := s.gangs } = s := by
  obtain ⟨⟨ps, h1⟩, h2⟩ := State.joinMembers m0 (s.gangData (s.segmentCells k)) s
  refine ⟨((s.gangData (s.segmentCells k)).foldl (State.joinMember m0) s).setGang k { s.gang k with running := true, pass := 0 },
    by rw [exec_gangStart, execGangStart, State.tryGang_runs hne hstrip hm hsrc hmem hcol hes4 hagree]; rfl, ?_, ?_, ?_,
    fun c hc p x q m h => ?_, ?_⟩
  · rw [State.gang_setGang]
  · rw [State.gang_setGang]
  · rw [State.gang_setGang]
  · obtain ⟨y, r, m', h3, -, h4⟩ := h2 c p x q m m h (Or.inl rfl)
    refine ⟨y, r, ?_⟩
    have h5 : c ∈ (s.gangData (s.segmentCells k)).map Prod.fst :=
      List.mem_map.mpr ⟨(c, m), State.mem_gangData.mpr ⟨hc, p, x, q, h⟩, rfl⟩
    rw [← h4 (Or.inr h5)]
    exact h3
  · rw [h1]; rfl

end Sys2Proof.Machine

namespace Sys2Proof.Machine

/-! ### GANG_START: a cancelled member withdraws (R312) -/

@[simp] theorem State.setScore_progs (s : State) (c f : Nat) (l : List Nat) : (s.setScore c f l).progs = s.progs := rfl

@[simp] theorem State.leaveScore_progs (s : State) (c p : Nat) : (s.leaveScore c p).progs = s.progs := rfl

@[simp] theorem State.checked_progs (s : State) (c : Nat) (sc : BitVec 32) : (s.checked c sc).progs = s.progs := by
  rw [State.checked]; split <;> rfl

/-- A list without repetitions holds an element once. -/
theorem filter_eq_singleton {α : Type} {f : α → Bool} {l : List α} {c : α} (hl : l.Nodup) (hc : c ∈ l) (hf : f c = true)
    (h : ∀ d ∈ l, d ≠ c → f d = false) : l.filter f = [c] := by
  induction l with
  | nil => cases hc
  | cons x l ih =>
    rw [List.nodup_cons] at hl
    by_cases hx : x = c
    · subst hx
      have h1 : l.filter f = [] := List.filter_eq_nil_iff.mpr fun d hd => by
        rw [h d (List.mem_cons_of_mem _ hd) fun he => hl.1 (he ▸ hd)]; exact Bool.false_ne_true
      rw [List.filter_cons_of_pos hf, h1]
    · have h1 : f x = false := h x (List.mem_cons_self ..) hx
      rw [List.filter_cons_of_neg (by rw [h1]; exact Bool.false_ne_true)]
      exact ih hl.2 ((List.mem_cons.mp hc).resolve_left fun he => hx he.symm) fun d hd => h d (List.mem_cons_of_mem _ hd)

/-- The program of a member that ends leaves nothing else of the programs changed. -/
theorem State.gangEnd_progs {s : State} {c p : Nat} {x : Prog} {q : Pending} {m : MatRun} (h : s.gangMember c = some (p, x, q, m)) :
    (s.gangEnd c).mem = s.mem ∧ AL.find (s.gangEnd c).progs p = some { x with life := .ending, pend := none } ∧
    ∀ r, r ≠ p → AL.find (s.gangEnd c).progs r = AL.find s.progs r := by
  obtain ⟨-, hx, -⟩ := State.gangMember_eq_some.mp h
  rw [State.gangEnd, h]
  refine ⟨by simp, ?_, fun r hr => ?_⟩
  · rw [State.find_modProg, if_pos rfl, State.leaveScore_progs, State.checked_progs, hx]; rfl
  · rw [State.find_modProg, if_neg (Ne.symm hr), State.leaveScore_progs, State.checked_progs]

theorem State.tryGang_withdraws {s : State} {k c p : Nat} {x : Prog} {q : Pending} {m : MatRun}
    (hstrip : s.stripRuns (k / 64) = false) (hnd : (s.segmentCells k).Nodup) (hc : c ∈ s.segmentCells k)
    (hall : ∀ d ∈ s.segmentCells k, s.engineGo d = true ∧ s.gangAsks d = none ∧ (∃ b, (d, b) ∈ (s.gang k).arrived))
    (hgone : ∀ d ∈ s.segmentCells k, d ≠ c → s.gangGone d = false) (hm : s.gangMember c = some (p, x, q, m))
    (hcan : s.cancelledAt c x.naming.scope = true) : s.tryGang k = some (s.gangWithdraws k [c]) := by
  have h1 : (s.segmentCells k).isEmpty = false := by
    rw [List.isEmpty_eq_false_iff]; exact List.ne_nil_of_mem hc
  have h2 : (s.segmentCells k).any (fun c => !s.engineGo c) = false := by
    rw [List.any_eq_false]; intro c hc; simp [(hall c hc).1]
  have h3 : (s.segmentCells k).all (fun c => (s.gang k).arrived.any (fun a => a.1 == c)) = true := by
    rw [List.all_eq_true]; intro c hc
    obtain ⟨b, hb⟩ := (hall c hc).2.2
    exact List.any_eq_true.mpr ⟨_, hb, beq_self_eq_true c⟩
  have h4 : (s.segmentCells k).any (fun c => (s.gangAsks c).isSome) = false := by
    rw [List.any_eq_false]; intro c hc; simp [(hall c hc).2.1]
  have hg : s.gangGone c = true := by rw [State.gangGone, hm]; exact hcan
  have h5 : (s.segmentCells k).any s.gangGone = true := List.any_eq_true.mpr ⟨c, hc, hg⟩
  rw [State.tryGang]
  simp only [hstrip, h1, h2, h3, h4, h5, filter_eq_singleton hnd hc hg hgone, Bool.not_true, Bool.or_false, Bool.false_eq_true,
    if_false, if_true]

theorem gang_member_withdraws (s : State) (k c p : Nat) (x : Prog) (q : Pending) (m : MatRun)
    (hstrip : s.stripRuns (k / 64) = false) (hnd : (s.segmentCells k).Nodup) (hc : c ∈ s.segmentCells k)
    (hall : ∀ d ∈ s.segmentCells k, s.engineGo d = true ∧ s.gangAsks d = none ∧ (∃ b, (d, b) ∈ (s.gang k).arrived))
    (hgone : ∀ d ∈ s.segmentCells k, d ≠ c → s.gangGone d = false) (hm : s.gangMember c = some (p, x, q, m))
    (hcan : s.cancelledAt c x.naming.scope = true) :
    Happens s (.gangStart k) fun t =>
      AL.find t.progs p = some { x with life := .ending, pend := none } ∧ (t.gang k).running = false ∧
      (∀ d, d ∈ (t.gang k).arrived ↔ d ∈ (s.gang k).arrived ∧ d.1 ≠ c) ∧ (∀ r, r ≠ p → AL.find t.progs r = AL.find s.progs r) ∧
      t.mem = s.mem := by
  obtain ⟨h1, h2, h3⟩ := State.gangEnd_progs hm
  refine ⟨s.gangWithdraws k [c],
    by rw [exec_gangStart, execGangStart, State.tryGang_withdraws hstrip hnd hc hall hgone hm hcan]; rfl, h2, ?_, fun d => ?_, h3, h1⟩
  · rw [State.gangWithdraws, State.gang_setGang]
    exact State.gang_not_running hstrip
  · rw [State.gangWithdraws, State.gang_setGang]
    simp [List.mem_filter]

/-! ### GANG_PASS (R311, R313) -/

theorem AccChange.progs {s t : State} {c : Nat} (h : AccChange s t c) : t.progs = s.progs := by
  have h1 := congrArg State.progs h.rest; exact h1

theorem AccChange.mem {s t : State} {c : Nat} (h : AccChange s t c) : t.mem = s.mem := by
  have h1 := congrArg State.mem h.rest; exact h1

/-- What differs at most in one cell and one program. -/
structure OneMember (s t : State) (c p : Nat) : Prop where
  cells : ∀ d, d ≠ c → t.cell d = s.cell d
  progs : ∀ r, r ≠ p → AL.find t.progs r = AL.find s.progs r
  rest  : { t with cells := s.cells, progs := s.progs } = s

theorem State.checked_accs (s : State) (c : Nat) (sc : BitVec 32) : ((s.checked c sc).cell c).acc = (s.cell c).acc := by
  rw [State.checked]; split
  · rw [State.cell_modCell_same]
  · rfl

/-- What a member makes of a pass. -/
structure MadePass (s t : State) (c pass : Nat) (last : Bool) (p : Nat) (q : Pending) (m : MatRun) : Prop where
  accs : SameAccs (m.unit c pass s).1 t c
  goes : last = true → ∃ y, AL.find t.progs p = some y ∧ y.pend = some { q with stage := 8, sent := pass + 1 }

theorem State.gangUnit_makes {s : State} {c p : Nat} {x : Prog} {q : Pending} {m : MatRun} (pass : Nat) (last : Bool)
    (h : s.gangMember c = some (p, x, q, m)) (hgo : s.cancelledAt c x.naming.scope = false) :
    OneMember s (s.gangUnit c pass last) c p ∧ MadePass s (s.gangUnit c pass last) c pass last p q m := by
  obtain ⟨-, hx, -⟩ := State.gangMember_eq_some.mp h
  have hg : s.gangGone c = false := by rw [State.gangGone, h]; exact hgo
  have hch := m.unit_accChange c pass (s.checked c x.naming.scope)
  have hacc := (m.unit_congr pass (SameAccs.of_cell (s.checked_accs c x.naming.scope))).1
  have hcell : ∀ d, d ≠ c → (s.checked c x.naming.scope).cell d = s.cell d := by
    intro d hd
    rw [State.checked]; split
    · rw [State.cell_modCell, if_neg (Ne.symm hd)]
    · rfl
  have hrest : { s.checked c x.naming.scope with cells := s.cells } = s := by
    rw [State.checked]; split <;> rfl
  simp only [State.gangUnit, h, hg, Bool.false_eq_true, if_false]
  generalize hr : m.unit c pass (s.checked c x.naming.scope) = r at hch hacc
  generalize hf : (fun y : Prog => { y with cr := { y.cr with rmode := y.cr.rmode ||| (asFlag r.2).toWord } }) = f
  have h1 : OneMember s (r.1.modProg p f) c p := by
    refine ⟨fun d hd => ?_, fun j hj => ?_, ?_⟩
    · rw [State.cell_of_cells (State.modProg_cells ..), hch.cells d hd, hcell d hd]
    · rw [State.find_modProg, if_neg (Ne.symm hj), hch.progs, State.checked_progs]
    · obtain ⟨ps, hps⟩ := r.1.modProg_rest p f
      rw [hps]
      have h3 := congrArg (fun y : State => { y with cells := s.cells, progs := s.progs }) hch.rest
      have h4 := congrArg (fun y : State => { y with progs := s.progs }) hrest
      exact h3.trans h4
  have h2 : SameAccs (m.unit c pass s).1 (r.1.modProg p f) c := fun g k hk => by
    rw [← hacc g k hk, State.accAt, State.accAt, State.cell_of_cells (State.modProg_cells ..)]
  have h3 : AL.find (r.1.modProg p f).progs p = some (f x) := by
    rw [State.find_modProg, if_pos rfl, hch.progs, State.checked_progs, hx]; rfl
  cases last with
  | false => exact ⟨h1, h2, fun h => absurd h Bool.false_ne_true⟩
  | true =>
    simp only [if_true]
    refine ⟨⟨fun d hd => ?_, fun j hj => ?_, ?_⟩, fun g k hk => ?_, fun _ => ?_⟩
    · rw [State.cell_of_cells (State.modProg_cells ..), h1.cells d hd]
    · rw [State.find_modProg, if_neg (Ne.symm hj), h1.progs j hj]
    · obtain ⟨ps, hps⟩ := (r.1.modProg p f).modProg_rest p (fun y => { y with pend := some { q with stage := 8, sent := pass + 1 } })
      rw [hps]; exact h1.rest
    · rw [← h2 g k hk, State.accAt, State.accAt, State.cell_of_cells (State.modProg_cells ..)]
    · rw [State.find_modProg, if_pos rfl, h3]; exact ⟨_, rfl, rfl⟩

/-- The members whose turn is still to come are as they were. -/
theorem OneMember.member {s t : State} {c p d p' : Nat} {x : Prog} {q : Pending} {m : MatRun} (h : OneMember s t c p)
    (hd : d ≠ c) (hp : p' ≠ p) (hm : s.gangMember d = some (p', x, q, m)) : t.gangMember d = some (p', x, q, m) := by
  obtain ⟨h1, h2, h3⟩ := State.gangMember_eq_some.mp hm
  exact State.gangMember_eq_some.mpr ⟨by rw [h.cells d hd, h1], by rw [h.progs p' hp, h2], h3⟩

theorem MadePass.of_same {s t u : State} {c pass p : Nat} {last : Bool} {q : Pending} {m : MatRun}
    (h : MadePass s t c pass last p q m) (hc : u.cell c = t.cell c) (hp : AL.find u.progs p = AL.find t.progs p) :
    MadePass s u c pass last p q m :=
  ⟨fun g k hk => by rw [← h.accs g k hk, State.accAt, State.accAt, hc], fun hl => by rw [hp]; exact h.goes hl⟩

/-- A member of a gang whose program goes on. -/
def State.Passes (s : State) (c : Nat) : Prop :=
  ∃ p x q m, s.gangMember c = some (p, x, q, m) ∧ s.cancelledAt c x.naming.scope = false

/-- Each member of a gang makes the pass on its own containers. -/
theorem State.gangUnits_make (pass : Nat) (last : Bool) (l : List Nat) (s : State) (hnd : l.Nodup) (hl : ∀ c ∈ l, s.Passes c)
    (hdist : ∀ c ∈ l, ∀ d ∈ l, (s.cell c).matrix.run = (s.cell d).matrix.run → c = d) :
    let t := l.foldl (fun t c => t.gangUnit c pass last) s
    (∀ d, d ∉ l → t.cell d = s.cell d) ∧
    (∀ r, (∀ c ∈ l, (s.cell c).matrix.run ≠ some r) → AL.find t.progs r = AL.find s.progs r) ∧
    { t with cells := s.cells, progs := s.progs } = s ∧
    ∀ c ∈ l, ∀ p x q m, s.gangMember c = some (p, x, q, m) → MadePass s t c pass last p q m := by
  induction l generalizing s with
  | nil => exact ⟨fun _ _ => rfl, fun _ _ => rfl, rfl, fun c hc => absurd hc (List.not_mem_nil)⟩
  | cons c l ih =>
    rw [List.nodup_cons] at hnd
    obtain ⟨p, x, q, m, hm, hgo⟩ := hl c (List.mem_cons_self ..)
    obtain ⟨h1, h2⟩ := State.gangUnit_makes pass last hm hgo
    have hrun := (State.gangMember_eq_some.mp hm).1
    have hne : ∀ d ∈ l, d ≠ c := fun d hd he => hnd.1 (he ▸ hd)
    have hother : ∀ d ∈ l, ∀ p', (s.cell d).matrix.run = some p' → p' ≠ p := fun d hd p' h he =>
      hne d hd (hdist d (List.mem_cons_of_mem _ hd) c (List.mem_cons_self ..) (by rw [h, he, hrun]))
    have hmem : ∀ d ∈ l, ∀ p' x' q' m', s.gangMember d = some (p', x', q', m') →
        (s.gangUnit c pass last).gangMember d = some (p', x', q', m') := fun d hd p' x' q' m' h =>
      h1.member (hne d hd) (hother d hd p' (State.gangMember_eq_some.mp h).1) h
    obtain ⟨g1, g2, g3, g4⟩ := ih (s.gangUnit c pass last) hnd.2
      (fun d hd => by
        obtain ⟨p', x', q', m', h3, h4⟩ := hl d (List.mem_cons_of_mem _ hd)
        refine ⟨p', x', q', m', hmem d hd _ _ _ _ h3, ?_⟩
        rw [← h4, State.cancelledAt, State.cancelledAt, State.unitAnswer, State.unitAnswer, State.notified, State.notified,
          h1.cells d (hne d hd)])
      (fun d hd e he h => hdist d (List.mem_cons_of_mem _ hd) e (List.mem_cons_of_mem _ he) (by
        rwa [h1.cells d (hne d hd), h1.cells e (hne e he)] at h))
    rw [List.foldl_cons]
    refine ⟨fun d hd => ?_, fun r hr => ?_, ?_, fun d hd p' x' q' m' h => ?_⟩
    · rw [List.mem_cons, not_or] at hd
      rw [g1 d hd.2, h1.cells d hd.1]
    · have hrp : r ≠ p := fun he => hr c (List.mem_cons_self ..) (by rw [he, hrun])
      rw [g2 r (fun d hd => by rw [h1.cells d (hne d hd)]; exact hr d (List.mem_cons_of_mem _ hd)), h1.progs r hrp]
    · have h5 := congrArg (fun y : State => { y with cells := s.cells, progs := s.progs }) g3
      exact h5.trans h1.rest
    · rcases List.mem_cons.mp hd with he | hd
      · subst he
        rw [hm] at h; cases h
        refine h2.of_same (g1 d hnd.1) (g2 p fun e he hr => ?_)
        rw [h1.cells e (hne e he)] at hr
        exact hother e he p hr rfl
      · have h6 := g4 d hd p' x' q' m' (hmem d hd _ _ _ _ h)
        refine ⟨fun g k hk => ?_, h6.goes⟩
        rw [h6.accs g k hk]
        have h7 : SameAccs s (s.gangUnit c pass last) d := SameAccs.of_cell (by rw [h1.cells d (hne d hd)])
        exact (m'.unit_congr pass h7).1 g k hk

theorem gang_makes_pass (s : State) (k n : Nat) (hrun : (s.gang k).running = true) (hnd : ((s.gang k).arrived.map Prod.fst).Nodup)
    (hne : (s.gang k).arrived ≠ [])
    (hall : ∀ a ∈ (s.gang k).arrived, (s.cluster (clusterOf a.1)).stopped = false ∧ s.engineGo a.1 = true ∧
      ∃ p x q m, s.gangMember a.1 = some (p, x, q, m) ∧ m.pa * m.pb = n ∧
        s.mayCheck a.1 x.naming.scope = true ∧ s.cancelledAt a.1 x.naming.scope = false)
    (hdist : ∀ a ∈ (s.gang k).arrived, ∀ b ∈ (s.gang k).arrived, (s.cell a.1).matrix.run = (s.cell b.1).matrix.run → a.1 = b.1) :
    Happens s (.gangPass k) fun t =>
      (∀ a ∈ (s.gang k).arrived, ∀ p x q m, s.gangMember a.1 = some (p, x, q, m) →
        (∀ f < 4, ∀ e < 2048, t.accAt a.1 f e = (m.unit a.1 (s.gang k).pass s).1.accAt a.1 f e) ∧
        (n ≤ (s.gang k).pass + 1 → ∃ y, AL.find t.progs p = some y ∧
          y.pend = some { q with stage := 8, sent := (s.gang k).pass + 1 })) ∧
      t.gang k = (if n ≤ (s.gang k).pass + 1 then GangJoin.idle else { s.gang k with pass := (s.gang k).pass + 1 }) ∧
      t.mem = s.mem := by
  have h1 : ((s.gang k).arrived.map Prod.fst).any (fun c => (s.cluster (clusterOf c)).stopped) = false := by
    rw [List.any_eq_false]
    intro c hc
    obtain ⟨a, ha, rfl⟩ := List.mem_map.mp hc
    rw [(hall a ha).1]; exact Bool.false_ne_true
  have h2 : (((s.gang k).arrived.map Prod.fst).filterMap
      (fun c => (s.gangMember c).map (fun r => r.2.2.2.pa * r.2.2.2.pb))).headD 0 = n := by
    obtain ⟨a, l, hl⟩ := List.exists_cons_of_ne_nil hne
    obtain ⟨-, -, p, x, q, m, h3, h4, -⟩ := hall a (by rw [hl]; exact List.mem_cons_self ..)
    rw [hl, List.map_cons, List.filterMap_cons, h3]
    exact h4
  have h3 : ((s.gang k).arrived.map Prod.fst).filterMap (fun c => (s.gangAsks c).map (fun sc => (c, sc))) = [] := by
    rw [List.filterMap_eq_nil_iff]
    intro c hc
    obtain ⟨a, ha, rfl⟩ := List.mem_map.mp hc
    obtain ⟨-, -, p, x, q, m, h4, -, h5, -⟩ := hall a ha
    rw [State.gangAsks, h4]
    simp [h5]
  have h4 := State.gangUnits_make (s.gang k).pass (decide (n ≤ (s.gang k).pass + 1)) ((s.gang k).arrived.map Prod.fst) s hnd
    (fun c hc => by
      obtain ⟨a, ha, rfl⟩ := List.mem_map.mp hc
      obtain ⟨-, -, p, x, q, m, h4, -, -, h5⟩ := hall a ha
      exact ⟨p, x, q, m, h4, h5⟩)
    (fun c hc d hd h => by
      obtain ⟨a, ha, rfl⟩ := List.mem_map.mp hc
      obtain ⟨b, hb, rfl⟩ := List.mem_map.mp hd
      exact hdist a ha b hb h)
  obtain ⟨-, -, hrest, hmade⟩ := h4
  generalize ht : ((s.gang k).arrived.map Prod.fst).foldl
    (fun t c => t.gangUnit c (s.gang k).pass (decide (n ≤ (s.gang k).pass + 1))) s = t at hrest hmade
  have h5 : s.tryPass k = some (t.setGang k
      (if decide (n ≤ (s.gang k).pass + 1) then GangJoin.idle else { s.gang k with pass := (s.gang k).pass + 1 })) := by
    rw [State.tryPass]
    simp only [hrun, h1, h2, h3, ht, Bool.not_true, Bool.or_self, Bool.false_eq_true, if_false, ne_eq, not_true_eq_false]
  refine ⟨_, by rw [exec_gangPass, execGangPass, h5]; rfl, fun a ha p x q m h => ?_, ?_, ?_⟩
  · have h6 := hmade a.1 (List.mem_map_of_mem ha) p x q m h
    exact ⟨fun f _ e he => h6.accs f e he, fun hn => h6.goes (decide_eq_true hn)⟩
  · refine (State.gang_setGang ..).trans ?_
    simp only [decide_eq_true_eq]
  · have h7 := congrArg State.mem hrest; exact h7

theorem fragments_and_gangs : Claims.FragmentsAndGangs := by
  intro s
  refine ⟨fun c f n rest h hn => scoreboard_grants s c f n rest h hn, ?_, ?_, ?_⟩
  · intro k src p0 x0 q0 m0 g h1 h2 h3 h4 h5 h6 h7 h8
    exact gang_starts s k src p0 x0 q0 m0 h1 h2 h3 h4 h5 h6 h7 h8
  · intro k c p x q m g h1 h2 h3 h4 h5 h6 h7
    exact gang_member_withdraws s k c p x q m h1 h2 h3 h4 h5 h6 h7
  · intro k n g h1 h2 h3 h4 h5
    exact gang_makes_pass s k n h1 h2 h3 h4 h5

/-- Settles O47: plane sums by swapping the sums over slots and elements, units of a tile operation container by container, and the steps of
gangs by going over their members. -/
theorem passesMultiply : Obligations.PassesMultiply := by
  unfold Obligations.PassesMultiply
  exact ⟨passes_sum_to_product, passes_add, fragments_and_gangs⟩

end Sys2Proof.Machine

namespace Sys2Proof.Machine

/-! ## Engine programs (spec 11 to 13): what their instructions change beside memory -/

/-- A cell with what its engines work on as in another one: containers, scoreboards, scale memory, latch, LFSRs and asked scopes. -/
def Cell.workOf (y z : Cell) : Cell :=
  { y with acc := z.acc, accOwner := z.accOwner, scales := z.scales, latch := z.latch, mlfsr := z.mlfsr, vlfsr := z.vlfsr,
           unitAsks := z.unitAsks }

/-- `t` differs from `s` in what the engines of the group's cell work on, in what is waited for, and in the group's own program, by `f`. -/
structure EngineChange (s t : State) (c : Ctx) (f : Prog → Prog) : Prop where
  cells  : ∀ k, k ≠ c.cell → t.cell k = s.cell k
  cell   : (t.cell c.cell).workOf (s.cell c.cell) = s.cell c.cell
  rest   : { t with cells := s.cells, progs := s.progs, waits := s.waits } = s
  others : ∀ r, r ≠ s.progId c → AL.find t.progs r = AL.find s.progs r
  prog   : AL.find t.progs (s.progId c) = (AL.find s.progs (s.progId c)).map f

section
variable {s t u : State} {c : Ctx} {f g : Prog → Prog}

theorem EngineChange.engine (h : EngineChange s t c f) (v : EngineUnit) : (t.cell c.cell).engine v = (s.cell c.cell).engine v := by
  have h1 := congrArg (fun y : Cell => y.engine v) h.cell
  cases v <;> exact h1

theorem EngineChange.progId (h : EngineChange s t c f) : t.progId c = s.progId c := by
  simp only [State.progId, h.engine]

theorem EngineChange.req (h : EngineChange s t c f) : t.req c = s.req c := by
  simp only [State.req, h.progId]

theorem EngineChange.mem (h : EngineChange s t c f) : t.mem = s.mem := by
  have h1 := congrArg State.mem h.rest; exact h1

theorem EngineChange.flights (h : EngineChange s t c f) : t.flights = s.flights := by
  have h1 := congrArg State.flights h.rest; exact h1

theorem EngineChange.writesDone (h : EngineChange s t c f) (p : Nat) : t.writesDone p = s.writesDone p := by
  rw [State.writesDone, State.writesDone, h.flights]

theorem EngineChange.reg {v : EngineUnit} (hu : c.unit = .engine v) (h : EngineChange s t c f) (n : Int) : t.reg c n = s.reg c n := by
  simp only [State.reg, hu, h.engine]

theorem EngineChange.refl (s : State) (c : Ctx) : EngineChange s s c id where
  cells _ _ := rfl
  cell := rfl
  rest := rfl
  others _ _ := rfl
  prog := by rw [Option.map_id]; rfl

theorem EngineChange.trans (h : EngineChange s t c f) (k : EngineChange t u c g) : EngineChange s u c (g ∘ f) where
  cells j hj := (k.cells j hj).trans (h.cells j hj)
  cell := by
    have h1 := congrArg (fun y : Cell => y.workOf (s.cell c.cell)) k.cell
    exact h1.trans h.cell
  rest := by
    have h1 := congrArg (fun y : State => { y with cells := s.cells, progs := s.progs, waits := s.waits }) k.rest
    exact h1.trans h.rest
  others r hr := (k.others r (by rwa [h.progId])).trans (h.others r hr)
  prog := by
    have h1 := k.prog
    rw [h.progId, h.prog, Option.map_map] at h1
    exact h1

/-- A change that leaves the program as it is. -/
theorem EngineChange.then (h : EngineChange s t c f) (k : EngineChange t u c id) : EngineChange s u c f := h.trans k

theorem EngineChange.after (h : EngineChange s t c id) (k : EngineChange t u c f) : EngineChange s u c f := h.trans k

/-- A change of what the engines of the cell work on. -/
theorem EngineChange.of_modCell (s : State) (c : Ctx) (k : Cell → Cell) (hk : ∀ y, (k y).workOf y = y) :
    EngineChange s (s.modCell c.cell k) c id where
  cells j hj := by rw [State.cell_modCell, if_neg (Ne.symm hj)]
  cell := by rw [State.cell_modCell_same, hk]
  rest := rfl
  others _ _ := rfl
  prog := by rw [Option.map_id]; rfl

theorem EngineChange.of_accChange (h : AccChange s t c.cell) : EngineChange s t c id where
  cells := h.cells
  cell := by
    have h1 := congrArg (fun y : Cell => y.workOf (s.cell c.cell)) h.cell
    exact h1
  rest := by
    have h1 := congrArg (fun y : State => { y with progs := s.progs, waits := s.waits }) h.rest
    exact h1
  others r _ := by rw [h.progs]
  prog := by rw [h.progs, Option.map_id]; rfl

theorem EngineChange.endWait (s : State) (c : Ctx) (r : FaultReq) : EngineChange s (s.endWait r) c id where
  cells _ _ := rfl
  cell := rfl
  rest := rfl
  others _ _ := rfl
  prog := by rw [Option.map_id]; rfl

theorem EngineChange.modProg (s : State) (c : Ctx) (f : Prog → Prog) : EngineChange s (s.modProg (s.progId c) f) c f := by
  have hcell : ∀ k, (s.modProg (s.progId c) f).cell k = s.cell k := fun k => State.cell_of_cells (State.modProg_cells ..) k
  obtain ⟨ps, hps⟩ := s.modProg_rest (s.progId c) f
  refine ⟨fun k _ => hcell k, by rw [hcell]; rfl, by rw [hps], fun r hr => ?_, ?_⟩
  · rw [State.find_modProg, if_neg (Ne.symm hr)]
  · rw [State.find_modProg, if_pos rfl]

theorem EngineChange.setScore (s : State) (c : Ctx) (fr : Nat) (l : List Nat) : EngineChange s (s.setScore c.cell fr l) c id :=
  .of_modCell s c _ fun _ => rfl

theorem EngineChange.checked (s : State) (c : Ctx) (sc : BitVec 32) : EngineChange s (s.checked c.cell sc) c id := by
  rw [State.checked]
  split
  · exact .of_modCell s c _ fun _ => rfl
  · exact .refl s c

/-- A fold of changes is a change. -/
theorem EngineChange.foldl {α : Type} (k : State → α → State) (hk : ∀ t x, EngineChange t (k t x) c id) (l : List α) (s : State) :
    EngineChange s (l.foldl k s) c id := by
  induction l generalizing s with
  | nil => exact .refl s c
  | cons x l ih => exact (hk s x).then (ih (k s x))

theorem EngineChange.reachScore (s : State) (c : Ctx) (p : Nat) (frags : List Nat) : EngineChange s (s.reachScore c.cell p frags) c id := by
  refine .foldl _ (fun t x => ?_) frags s
  dsimp only
  split
  · exact .refl t c
  · exact .setScore ..

theorem EngineChange.leaveScore (s : State) (c : Ctx) (p : Nat) : EngineChange s (s.leaveScore c.cell p) c id :=
  .foldl _ (fun t _ => .setScore ..) _ s

theorem EngineChange.clearFrag (s : State) (c : Ctx) (fr : Nat) : EngineChange s (s.clearFrag c.cell fr) c id :=
  .of_modCell s c _ fun _ => rfl

theorem EngineChange.setPend {v : EngineUnit} (hu : c.unit = .engine v) (s : State) (q : Pending) :
    EngineChange s (s.setPend c q) c (fun x => { x with pend := some q }) := by
  rw [State.setPend, hu]; exact .modProg ..

theorem EngineChange.progRaise (s : State) (c : Ctx) (fl : Flags) :
    EngineChange s (s.progRaise c fl) c (fun p => { p with cr := { p.cr with rmode := p.cr.rmode ||| fl.toWord } }) := .modProg ..

/-- A program whose instruction is done. -/
def Prog.goesOn (c : Ctx) (b : Bool) (x : Prog) : Prog :=
  { x with pc := x.resume.getD c.site.next, resume := none, off := x.resume.isNone && b, mark := none, pend := none, held := none,
           copy := none, old := [] }

theorem EngineChange.advance {v : EngineUnit} (hu : c.unit = .engine v) (s : State) (n : Nat) :
    EngineChange s (s.advance c n none) c (Prog.goesOn c ((s.endWait (s.req c)).endsSegment c)) := by
  have h1 := (EngineChange.endWait s c (s.req c)).after (.modProg (s.endWait (s.req c)) c (Prog.goesOn c ((s.endWait (s.req c)).endsSegment c)))
  simp only [State.advance, hu, Option.getD_none]
  exact h1

end

/-! ### Scoreboards -/

theorem State.score_foldl_setScore (s : State) (c : Nat) (g : Nat → List Nat → List Nat) (n f : Nat) :
    ((List.range n).foldl (fun t f => t.setScore c f (g f (t.score c f))) s).score c f =
      if f < n then g f (s.score c f) else s.score c f := by
  induction n with
  | zero => simp
  | succ n ih =>
    rw [List.range_succ, List.foldl_append, List.foldl_cons, List.foldl_nil, State.score_setScore]
    by_cases hf : n = f
    · subst hf
      have : ((List.range n).foldl (fun t f => t.setScore c f (g f (t.score c f))) s).score c n = s.score c n := by
        rw [ih, if_neg (Nat.lt_irrefl n)]
      rw [if_pos ⟨rfl, rfl⟩, this, if_pos (Nat.lt_succ_self n)]
    · rw [if_neg fun h => hf h.2, ih]
      have : f < n + 1 ↔ f < n := by omega
      simp only [this]

/-- A program that has left stands in no scoreboard. -/
theorem State.score_leaveScore (s : State) (c p f : Nat) (hf : f < 4) : ∀ k ∈ (s.leaveScore c p).score c f, k / 2 ≠ p := by
  intro k hk
  rw [State.leaveScore, State.score_foldl_setScore s c (fun _ l => l.filter (fun x => x / 2 != p)), if_pos hf, List.mem_filter] at hk
  simpa using hk.2

/-! ### What a cell keeps through changes of its programs and scoreboards -/

theorem State.leaveScore_cell (s : State) (c p k : Nat) :
    ∃ o, (s.leaveScore c p).cell k = { s.cell k with accOwner := o } := by
  have go : ∀ l : List Nat, ∀ t : State, (∃ o, t.cell k = { s.cell k with accOwner := o }) →
      ∃ o, (l.foldl (fun t f => t.setScore c f ((t.score c f).filter (fun x => x / 2 != p))) t).cell k = { s.cell k with accOwner := o } := by
    intro l
    induction l with
    | nil => exact fun _ h => h
    | cons f l ih =>
      rintro t ⟨o, h⟩
      refine ih _ ?_
      dsimp only
      rw [State.setScore, State.cell_modCell]
      split
      next hc => subst hc; exact ⟨_, by rw [h]⟩
      · exact ⟨o, h⟩
  exact go _ s ⟨_, rfl⟩

theorem State.reachScore_cell (s : State) (c p k : Nat) (frags : List Nat) :
    ∃ o, (s.reachScore c p frags).cell k = { s.cell k with accOwner := o } := by
  have go : ∀ l : List Nat, ∀ t : State, (∃ o, t.cell k = { s.cell k with accOwner := o }) →
      ∃ o, (t.reachScore c p l).cell k = { s.cell k with accOwner := o } := by
    intro l
    induction l with
    | nil => exact fun _ h => h
    | cons f l ih =>
      rintro t ⟨o, h⟩
      rw [State.reachScore, List.foldl_cons]
      refine ih _ ?_
      dsimp only
      split
      · exact ⟨o, h⟩
      rw [State.setScore, State.cell_modCell]
      split
      next hc => subst hc; exact ⟨_, by rw [h]⟩
      · exact ⟨o, h⟩
  exact go _ s ⟨_, rfl⟩

theorem State.setPend_cell {c : Ctx} {v : EngineUnit} (hu : c.unit = .engine v) (s : State) (q : Pending) (k : Nat) :
    (s.setPend c q).cell k = s.cell k := by
  rw [State.setPend, hu]; exact State.cell_of_cells (State.modProg_cells ..) k

theorem State.progRaise_cell (s : State) (c : Ctx) (fl : Flags) (k : Nat) : (s.progRaise c fl).cell k = s.cell k :=
  State.cell_of_cells (State.modProg_cells ..) k

theorem State.advance_cell {c : Ctx} {v : EngineUnit} (hu : c.unit = .engine v) (s : State) (n k : Nat) :
    (s.advance c n none).cell k = s.cell k := by
  simp only [State.advance, hu]
  exact State.cell_of_cells (State.modProg_cells ..) k

end Sys2Proof.Machine

namespace Sys2Proof.Machine

/-! ## How an instruction of an engine program ends (spec 11 to 13) -/

section
variable {s m m' : State} {c : Ctx} {v : EngineUnit} {fl : Flags} {f g : Prog → Prog}

/-- A change of a program that raises flags, and leaves its life, its weight and its address as they are. -/
structure Raises (fl : Flags) (f : Prog → Prog) : Prop where
  cr     : ∀ y, (f y).cr = { y.cr with rmode := y.cr.rmode ||| fl.toWord }
  life   : ∀ y, (f y).life = y.life
  w      : ∀ y, (f y).w = y.w
  pc     : ∀ y, (f y).pc = y.pc
  resume : ∀ y, (f y).resume = y.resume

theorem or_none_toWord (w : Word) : w ||| Flags.none.toWord = w := by
  have h : Flags.none.toWord = 0#64 := by decide
  rw [h, BitVec.or_zero]

theorem Raises.id : Raises Flags.none id := ⟨fun y => by rw [or_none_toWord]; rfl, fun _ => rfl, fun _ => rfl, fun _ => rfl, fun _ => rfl⟩

theorem Raises.setPend (h : Raises fl f) (q : Pending) : Raises fl ((fun x : Prog => { x with pend := some q }) ∘ f) :=
  ⟨h.cr, h.life, h.w, h.pc, h.resume⟩

theorem Raises.before_setPend (q : Pending) (h : Raises fl f) : Raises fl (f ∘ (fun x : Prog => { x with pend := some q })) :=
  ⟨fun _ => h.cr _, fun _ => h.life _, fun _ => h.w _, fun _ => h.pc _, fun _ => h.resume _⟩

theorem Raises.flags (fl : Flags) : Raises fl (fun p => { p with cr := { p.cr with rmode := p.cr.rmode ||| fl.toWord } }) :=
  ⟨fun _ => rfl, fun _ => rfl, fun _ => rfl, fun _ => rfl, fun _ => rfl⟩

/-- The state after a group of an engine program that is done in `m`: it leaves its scoreboards and goes on. -/
def State.engineEnd (m : State) (c : Ctx) (n : Nat) : State := (m.leaveScore c.cell (m.progId c)).advance c n none

theorem State.engineEnd_change (hu : c.unit = .engine v) (m : State) (n : Nat) :
    ∃ b, EngineChange m (m.engineEnd c n) c (Prog.goesOn c b) :=
  ⟨_, (EngineChange.leaveScore m c (m.progId c)).after (.advance hu _ n)⟩

theorem State.engineEnd_cell (hu : c.unit = .engine v) (m : State) (n k : Nat) :
    ∃ o, (m.engineEnd c n).cell k = { m.cell k with accOwner := o } := by
  obtain ⟨o, ho⟩ := m.leaveScore_cell c.cell (m.progId c) k
  exact ⟨o, (State.advance_cell hu _ n k).trans ho⟩

theorem State.engineEnd_score (hu : c.unit = .engine v) (m : State) (n fr : Nat) (hf : fr < 4) :
    ∀ k ∈ (m.engineEnd c n).score c.cell fr, k / 2 ≠ m.progId c := by
  have h : (m.engineEnd c n).score c.cell fr = (m.leaveScore c.cell (m.progId c)).score c.cell fr := by
    rw [State.score, State.engineEnd, State.advance_cell hu]; rfl
  rw [h]
  exact m.score_leaveScore c.cell (m.progId c) fr hf

theorem State.engineEnd_accs (hu : c.unit = .engine v) (m : State) (n k : Nat) : SameAccs m (m.engineEnd c n) k := by
  obtain ⟨o, ho⟩ := m.engineEnd_cell hu n k
  exact .of_cell (by rw [ho])

/-- The last unit of an instruction, done in a state that differs from `m` by what the unit makes of the engine. -/
theorem UnitDone.of_last (hu : c.unit = .engine v) (h : EngineChange m m' c f) (hf : Raises fl f) (n : Nat) (q : Pending) :
    UnitDone m (m'.engineEnd c n) c (m.progId c) fl true q := by
  obtain ⟨b, hb⟩ := m'.engineEnd_change hu n
  have h1 := h.trans hb
  refine ⟨h1.mem, h1.cells, h1.rest, h1.others, fun y hy => ⟨_, by rw [h1.prog, hy]; rfl, ?_, ?_, ?_, ?_, rfl⟩⟩
  · exact hf.cr y
  · exact hf.life y
  · exact hf.w y
  · show (f y).resume.getD c.site.next = y.resume.getD c.site.next
    rw [hf.resume]

/-- A unit that another one follows. -/
theorem UnitDone.of_more (hu : c.unit = .engine v) (h : EngineChange m m' c f) (hf : Raises fl f) (q : Pending) :
    UnitDone m (m'.setPend c q) c (m.progId c) fl false q := by
  have h1 := h.trans (EngineChange.setPend hu m' q)
  refine ⟨h1.mem, h1.cells, h1.rest, h1.others, fun y hy => ⟨_, by rw [h1.prog, hy]; rfl, ?_, ?_, ?_, ?_, rfl⟩⟩
  · exact hf.cr y
  · exact hf.life y
  · exact hf.w y
  · exact hf.pc y

/-- A trap of an engine program. -/
theorem Raised.of_engine (hu : c.unit = .engine v) (s : State) (cause : Nat) (idx : Word) :
    Raised s (s.trapGroup c cause idx c.site.next) c cause idx c.site.next := by
  have hne : c.unit ≠ .scalar := by rw [hu]; exact fun h => by cases h
  have hreq : (FaultReq.prog (s.progId c)) = s.req c := by rw [State.req, hu]
  have hg : s.trapGroup c cause idx c.site.next = s.raiseEngineTrap (s.progId c) cause c.site idx := by rw [State.trapGroup, hu]
  have h1 := (EngineChange.endWait s c (.prog (s.progId c))).after (.modProg (s.endWait (.prog (s.progId c))) c (fun x => { x with
    life := .frozen, pend := none, held := none, old := [],
    trap := some ⟨cause, c.site, idx, if c.site.pc = 0 then 0 else c.site.next, .raised, s.nextId⟩ }))
  change EngineChange s (s.raiseEngineTrap (s.progId c) cause c.site idx) c _ at h1
  rw [← hg] at h1
  have hcell : ∀ k, (s.trapGroup c cause idx c.site.next).cell k = s.cell k := fun k => by
    rw [hg]; exact State.cell_of_cells (State.modProg_cells ..) k
  refine ⟨h1.rest, fun k _ => by rw [hcell], by rw [hcell], fun _ k => by rw [hcell], fun k _ => ?_, fun h => absurd h hne, fun p hp => ?_,
    fun u _ p hp => ?_⟩
  · rw [State.frame, hcell, State.frame]
  · rcases hp with hp | hp
    · exact absurd hp hne
    · exact h1.others p hp
  · rw [h1.prog, hp]; rfl

end

/-! ### Matrix instructions -/

section
variable {s : State} {c : Ctx} {regs : List Nat} {body : Ctx → Prog → State → Issued} {x : Prog} {i : Instr} {q : State → Prop}

theorem pairRetire_engine {v : EngineUnit} (hu : c.unit = .engine v) (t : State) (ds : List Nat) (k : Option Nat) : t.pairRetire c ds k = t := by
  simp only [State.pairRetire, State.checkedC_engine hu, Bool.false_eq_true, if_false]

theorem matrixInstr_next (ha : s.At c) (hc : s.Clear c .no (regs.map (fun (r : Nat) => (r : Int))))
    (hx : AL.find s.progs (s.progId c) = some x) :
    matrixInstr s regs body = .next (finish s c [] ((body c x s).leave s c)) := by
  rw [matrixInstr, withGroup_at ha, issue_clear hc, State.feed_no, State.prog, hx]
  rfl

/-- A matrix instruction as the group `c` runs it: a clear group of the matrix engine, its program, and the body of the instruction. -/
structure RunsMatrix (s : State) (c : Ctx) (x : Prog) (i : Instr) (regs : List Nat) (body : Ctx → Prog → State → Issued) : Prop where
  unit  : c.unit = .engine .matrix
  there : s.At c
  clear : s.Clear c .no (regs.map (fun (r : Nat) => (r : Int)))
  prog  : AL.find s.progs (s.progId c) = some x
  runs  : exec i s = matrixInstr s regs body

variable (h : RunsMatrix s c x i regs body)
include h

theorem RunsMatrix.next : exec i s = .next (finish s c [] ((body c x s).leave s c)) := by
  rw [h.runs, matrixInstr_next h.there h.clear h.prog]

theorem RunsMatrix.ok {m : State} (hb : body c x s = .ok m) (hq : q (m.engineEnd c s.nextId)) : Happens s i q := by
  refine ⟨_, h.next, ?_⟩
  rw [hb]
  change q ((m.engineEnd c s.nextId).pairRetire c [] none)
  rwa [pairRetire_engine h.unit]

theorem RunsMatrix.stall {m : State} (hb : body c x s = .stall m) (hq : q m) : Happens s i q := by
  refine ⟨_, h.next, ?_⟩
  rw [hb]
  exact hq

theorem RunsMatrix.halt {m : State} (hb : body c x s = .halt m) (hq : q m) : Happens s i q := by
  refine ⟨_, h.next, ?_⟩
  rw [hb]
  change q (m.pairRetire c [] none)
  rwa [pairRetire_engine h.unit]

theorem RunsMatrix.trap {cause : Nat} {idx : Word} (hb : body c x s = .trap cause idx) :
    Happens s i fun t => Raised (s.leaveScore c.cell (s.progId c)) t c cause idx c.site.next := by
  refine ⟨_, h.next, ?_⟩
  rw [hb, Issued.leave, finish]
  exact Raised.of_engine h.unit ..

end

/-! ### Free scoreboards (R279, R305) -/

theorem State.score_reachScore (c p : Nat) (frags : List Nat) (s : State)
    (h : ∀ f ∈ frags, s.score c f = [] ∨ s.score c f = [2 * p + 1]) (f : Nat) :
    (s.reachScore c p frags).score c f = if f ∈ frags then [2 * p + 1] else s.score c f := by
  induction frags generalizing s with
  | nil => simp [State.reachScore]
  | cons a l ih =>
    have hstep : ∀ t : State, (t = s ∧ s.score c a = [2 * p + 1]) ∨ (t = s.setScore c a [2 * p + 1]) →
        (t.reachScore c p l).score c f = if f ∈ a :: l then [2 * p + 1] else s.score c f := by
      intro t ht
      have hsc : ∀ g, t.score c g = if g = a then [2 * p + 1] else s.score c g := by
        intro g
        rcases ht with ⟨rfl, ha⟩ | rfl
        · split
          next hg => rw [hg, ha]
          · rfl
        · rw [State.score_setScore]
          by_cases hg : g = a
          · rw [if_pos ⟨rfl, hg.symm⟩, if_pos hg]
          · rw [if_neg fun h => hg h.2.symm, if_neg hg]
      rw [ih t fun g hg => ?_, hsc]
      · by_cases hfl : f ∈ l
        · rw [if_pos hfl, if_pos (List.mem_cons_of_mem _ hfl)]
        · by_cases hfa : f = a
          · rw [if_neg hfl, if_pos hfa, if_pos (hfa ▸ List.mem_cons_self ..)]
          · rw [if_neg hfl, if_neg hfa, if_neg]
            rw [List.mem_cons]
            exact fun h => h.elim hfa hfl
      · rw [hsc]
        split
        · exact Or.inr rfl
        · exact h g (List.mem_cons_of_mem _ hg)
    rw [State.reachScore, List.foldl_cons]
    refine hstep _ ?_
    dsimp only
    rcases h a (List.mem_cons_self ..) with ha | ha
    · right; rw [ha]; simp
    · left
      refine ⟨?_, ha⟩
      have h2 : (2 * p + 1) / 2 = p := by omega
      rw [ha]
      simp [h2]

/-- A program that reaches free fragments is admitted to them. -/
theorem State.admitted_reachScore {c p : Nat} {frags : List Nat} {s : State}
    (h : ∀ f ∈ frags, s.score c f = [] ∨ s.score c f = [2 * p + 1]) :
    (s.reachScore c p frags).admitted c p frags = true := by
  rw [State.admitted, List.all_eq_true]
  intro f hf
  rw [State.score_reachScore c p frags s h f, if_pos hf]
  simp

theorem withScore_first {c : Ctx} {frags : List Nat} {p : Pending} {s : State} (k : Pending → State → Issued) (hp : p.stage = 0)
    (h : ∀ f ∈ frags, s.score c.cell f = [] ∨ s.score c.cell f = [2 * s.progId c + 1]) :
    withScore c frags p s k =
      k { p with stage := 8 } ((s.reachScore c.cell (s.progId c) frags).setPend c { p with stage := 8 }) := by
  have h7 : ¬ p.stage = 7 := by omega
  rw [withScore, if_pos (Or.inl hp)]
  dsimp only
  rw [if_neg h7, if_pos (State.admitted_reachScore h)]

theorem withScore_free {c : Ctx} {frags : List Nat} {p : Pending} {s : State} (k : Pending → State → Issued) (hp : p.stage = 0)
    (h : ∀ f ∈ frags, s.score c.cell f = []) :
    withScore c frags p s k =
      k { p with stage := 8 } ((s.reachScore c.cell (s.progId c) frags).setPend c { p with stage := 8 }) :=
  withScore_first k hp fun f hf => Or.inl (h f hf)

theorem withScore_running {c : Ctx} {frags : List Nat} {p : Pending} {s : State} (k : Pending → State → Issued) (hp : p.stage = 8) :
    withScore c frags p s k = k p s := by
  have h1 : ¬ (p.stage = 0 ∨ p.stage = 7) := by omega
  rw [withScore, if_neg h1]

end Sys2Proof.Machine

namespace Sys2Proof.Machine

/-! ## mzero and macc (spec 13, R309, R315) -/

theorem AL.find_filter_key {α : Type} (l : AL α) (q : Nat → Bool) (k : Nat) :
    AL.find (l.filter (fun p => q p.1)) k = if q k then AL.find l k else none := by
  induction l with
  | nil => simp
  | cons p t ih =>
    obtain ⟨i, x⟩ := p
    rw [List.filter_cons]
    by_cases hi : i = k
    · subst hi
      cases hq : q i <;> simp [hq, AL.find, ih]
    · cases q i <;> simp [AL.find, hi, ih]

theorem State.accAt_clearFrag (s : State) (c f g k : Nat) (hk : k < 2048) :
    (s.clearFrag c f).accAt c g k = if g = f then accUnset else s.accAt c g k := by
  have h1 : accKey g k / 2048 = g := by rw [accKey]; omega
  rw [State.accAt, State.clearFrag, State.cell_modCell_same, AL.get, AL.find_filter_key _ (fun n => n / 2048 != f), h1]
  by_cases hg : g = f
  · simp [hg]
  · simp [hg, State.accAt, AL.get]

theorem State.accAt_clearFrags (s : State) (c : Nat) (fs : List Nat) (g k : Nat) (hk : k < 2048) :
    (fs.foldl (fun t f => t.clearFrag c f) s).accAt c g k = if g ∈ fs then accUnset else s.accAt c g k := by
  induction fs generalizing s with
  | nil => simp
  | cons f fs ih =>
    rw [List.foldl_cons, ih, State.accAt_clearFrag s c f g k hk]
    by_cases h1 : g ∈ fs
    · simp [h1]
    · by_cases h2 : g = f <;> simp [h1, h2]

theorem State.pendOf_fresh {s : State} {c : Ctx} {x : Prog} (hu : c.unit = .engine .matrix) (hx : AL.find s.progs (s.progId c) = some x)
    (hp : x.pend = none) : s.pendOf c = Pending.zero := by
  simp only [State.pendOf, hu, hx, hp]; rfl

/-- The body of `mzero`. -/
def mzeroBody (c : Ctx) (a : Nat) (s : State) : Issued :=
  let v := s.reg c (a : Int)
  if bits v 63 4 ≠ 0 then .trap 0x02 0
  else
    let fs := (List.range 4).filter (fun f => bitAt v f)
    withScore c fs (s.pendOf c) s fun _ s => .ok (fs.foldl (fun t f => t.clearFrag c.cell f) s)

theorem runsMatrix_mzero {s : State} {c : Ctx} {a : ERegNum} {x : Prog} (hu : c.unit = .engine .matrix) (ha : s.At c)
    (hc : s.Clear c .no [(a.toNat : Int)]) (hx : AL.find s.progs (s.progId c) = some x) :
    RunsMatrix s c x (.mzero a) [a.toNat] (fun c _ s => mzeroBody c a.toNat s) :=
  ⟨hu, ha, hc, hx, rfl⟩

theorem mzero_clears {s : State} {c : Ctx} {a : ERegNum} {x : Prog} (h : RunsMatrix s c x (.mzero a) [a.toNat] (fun c _ s => mzeroBody c a.toNat s))
    (hp : x.pend = none) (hfree : ∀ f < 4, s.score c.cell f = []) (hok : bits (s.reg c a.toNat) 63 4 = 0) :
    Happens s (.mzero a) fun t => UnitDone s t c (s.progId c) Flags.none true Pending.zero ∧
        ∀ f < 4, ∀ k < 2048, t.accAt c.cell f k = if (s.reg c a.toNat).getLsbD f then accUnset else s.accAt c.cell f k := by
  let fs := (List.range 4).filter (fun f => bitAt (s.reg c a.toNat) f)
  let s1 := (s.reachScore c.cell (s.progId c) fs).setPend c { Pending.zero with stage := 8 }
  have hch : EngineChange s (fs.foldl (fun t f => t.clearFrag c.cell f) s1) c (fun y => { y with pend := some { Pending.zero with stage := 8 } }) :=
    ((EngineChange.reachScore s c (s.progId c) fs).after (.setPend h.unit _ _)).then (.foldl _ (fun t f => .clearFrag t c f) fs s1)
  refine h.ok (m := fs.foldl (fun t f => t.clearFrag c.cell f) s1) ?_ ⟨?_, fun f hf k hk => ?_⟩
  · rw [mzeroBody]
    dsimp only
    rw [if_neg (not_not.mpr hok), State.pendOf_fresh h.unit h.prog hp, withScore_free _ rfl fun f hf => ?_]
    exact hfree f (List.mem_range.mp (List.mem_filter.mp hf).1)
  · exact .of_last h.unit hch (Raises.id.before_setPend _) _ _
  · have h2 : s1.accAt c.cell f k = s.accAt c.cell f k := by
      obtain ⟨o, ho⟩ := s.reachScore_cell c.cell (s.progId c) c.cell fs
      rw [State.accAt, State.setPend_cell h.unit, ho, State.accAt]
    rw [State.engineEnd_accs h.unit _ _ _ f k hk, State.accAt_clearFrags _ _ _ _ _ hk, h2]
    have h3 : f ∈ fs ↔ (s.reg c a.toNat).getLsbD f = true := by
      simp only [fs, List.mem_filter, List.mem_range, hf, true_and]; rfl
    simp only [h3]

/-- What `macc` makes of a container of the destination, where the one of the source is set. -/
def maccOne (src dst : Word) : Option (Word × Bool) :=
  match accX src with
  | none => none
  | some x =>
    let al := alignAcc dst [x]
    let q := addAcc al.1 (accV src * 2 ^ (x - (accX al.1).getD x).toNat)
    some (q.1, al.2 || q.2)

theorem maccOne_unset {src dst : Word} (h : accX src = none) : maccOne src dst = none := by
  simp only [maccOne, h]

theorem maccOne_set {src dst : Word} {e : Int} (h : accX src = some e) : ∃ w b, maccOne src dst = some (w, b) ∧
    let old := accX dst
    let m := match old with | some g => min e g | none => e
    let base := match old with | some g => (clamp40 (accV dst * 2 ^ (g - m).toNat)).1 | none => 0
    accX w = some m ∧ accV w = (clamp40 (base + accV src * 2 ^ (e - m).toNat)).1 := by
  have hal := alignAcc_fields dst e [] (fun y hy => by
    rw [List.mem_singleton] at hy; subst hy; exact accX_range h)
  rw [List.foldl_nil] at hal
  have hadd := addAcc_fields (alignAcc dst [e]).1 (accV src * 2 ^ (e - (accX (alignAcc dst [e]).1).getD e).toNat)
  refine ⟨_, _, by simp only [maccOne, h]; rfl, ?_⟩
  obtain ⟨hx, hv⟩ := Prod.ext_iff.mp hadd
  dsimp only at hx hv
  dsimp only
  rw [hx, hv]
  cases hd : accX dst with
  | none =>
    rw [hd] at hal
    obtain ⟨h1, h2⟩ := Prod.ext_iff.mp hal
    dsimp only at h1 h2
    rw [h1, h2]
    exact ⟨rfl, rfl⟩
  | some g =>
    rw [hd] at hal
    obtain ⟨h1, h2⟩ := Prod.ext_iff.mp hal
    dsimp only at h1 h2
    rw [h1, h2, min_comm g e]
    refine ⟨rfl, ?_⟩
    dsimp only
    rw [Option.getD_some]
    by_cases hlt : e < g
    · rw [if_pos hlt, min_eq_left hlt.le]
    · rw [if_neg hlt, min_eq_right (not_lt.mp hlt), sub_self, Int.toNat_zero, pow_zero, mul_one, clamp40_of_range (accV_range dst)]

/-- `macc` over the containers of two fragments. -/
def State.addFrag (s : State) (c d f : Nat) : State × Bool :=
  (List.range 2048).foldl (fun (acc : State × Bool) i =>
    match maccOne (acc.1.accAt c f i) (acc.1.accAt c d i) with
    | none => acc
    | some q => (acc.1.setAcc c d i q.1, acc.2 || q.2)) (s, false)

/-- The containers of the destination take the sums; every other one is as it was. -/
theorem State.addFrag_eq (s : State) (c d f : Nat) : AccChange s (s.addFrag c d f).1 c ∧
    ∀ g, ∀ k < 2048, (s.addFrag c d f).1.accAt c g k =
      if g = d then ((maccOne (s.accAt c f k) (s.accAt c d k)).map Prod.fst).getD (s.accAt c d k) else s.accAt c g k := by
  have go : ∀ n ≤ 2048, let r := (List.range n).foldl (fun (acc : State × Bool) i =>
      match maccOne (acc.1.accAt c f i) (acc.1.accAt c d i) with
      | none => acc
      | some q => (acc.1.setAcc c d i q.1, acc.2 || q.2)) (s, false)
      AccChange s r.1 c ∧ ∀ g, ∀ k < 2048, r.1.accAt c g k =
        if g = d ∧ k < n then ((maccOne (s.accAt c f k) (s.accAt c d k)).map Prod.fst).getD (s.accAt c d k) else s.accAt c g k := by
    intro n hn
    induction n with
    | zero => exact ⟨AccChange.refl s c, by simp⟩
    | succ n ih =>
      obtain ⟨h1, h2⟩ := ih (by omega)
      have hn' : ∀ g, _ := fun g => (h2 g n (by omega)).trans (if_neg (by omega))
      rw [List.range_succ, List.foldl_append, List.foldl_cons, List.foldl_nil]
      dsimp only
      rw [hn' f, hn' d]
      cases hq : maccOne (s.accAt c f n) (s.accAt c d n) with
      | none =>
        refine ⟨h1, fun g k hk => ?_⟩
        dsimp only
        rw [h2 g k hk]
        by_cases hkn : k = n
        · subst hkn
          by_cases hg : g = d
          · subst hg; simp [hq]
          · simp [hg]
        · have : k < n + 1 ↔ k < n := by omega
          simp only [this]
      | some q =>
        refine ⟨h1.trans (State.setAcc_accChange ..), fun g k hk => ?_⟩
        dsimp only
        rw [State.accAt_setAcc]
        simp only [accKey_inj (show n < 2048 by omega) hk]
        rw [h2 g k hk]
        by_cases hg : g = d
        · subst hg
          by_cases hkn : n = k
          · subst hkn; simp [hq]
          · have : k < n + 1 ↔ k < n := by omega
            simp [hkn, this]
        · have : ¬ d = g := fun h => hg h.symm
          simp [hg, this]
  obtain ⟨h1, h2⟩ := go 2048 (le_refl _)
  refine ⟨h1, fun g k hk => ?_⟩
  have h3 := h2 g k hk
  simp only [hk, and_true] at h3
  exact h3

/-- What `macc` does after the sums. -/
def maccEnd (r : State × Bool) (c : Ctx) (f : Nat) (clear : Bool) : State :=
  if clear then (r.1.progRaise c (asFlag r.2)).clearFrag c.cell f else r.1.progRaise c (asFlag r.2)

/-- What `macc` does once its fragments are its own. -/
def State.maccDone (s : State) (c : Ctx) (d f : Nat) (clear : Bool) : State := maccEnd (s.addFrag c.cell d f) c f clear

/-- The body of `macc`. -/
def maccBody (c : Ctx) (a b : Nat) (s : State) : Issued :=
  let va := s.reg c (a : Int)
  let vb := s.reg c (b : Int)
  if bits va 63 2 ≠ 0 ∨ bits vb 63 9 ≠ 0 ∨ bits vb 7 2 ≠ 0 then .trap 0x02 0
  else withScore c [bits va 1 0, bits vb 1 0].eraseDups (s.pendOf c) s fun _ s =>
    .ok (s.maccDone c (bits va 1 0) (bits vb 1 0) (bitAt vb 8))

theorem exec_macc_body (a b : ERegNum) (s : State) :
    exec (.macc a b) s = matrixInstr s [a.toNat, b.toNat] (fun c _ s => maccBody c a.toNat b.toNat s) := by
  have hstep : ∀ (c : Ctx) (d f : Nat), (fun (acc : State × Bool) i =>
      let src := acc.1.accAt c.cell f i
      match accX src with
      | none => acc
      | some x =>
        let al := alignAcc (acc.1.accAt c.cell d i) [x]
        let sh := x - (accX al.1).getD x
        let q := addAcc al.1 (accV src * 2 ^ sh.toNat)
        (acc.1.setAcc c.cell d i q.1, acc.2 || al.2 || q.2)) =
      fun (acc : State × Bool) i => match maccOne (acc.1.accAt c.cell f i) (acc.1.accAt c.cell d i) with
        | none => acc
        | some q => (acc.1.setAcc c.cell d i q.1, acc.2 || q.2) := by
    intro c d f
    funext acc i
    dsimp only
    cases hx : accX (acc.1.accAt c.cell f i) with
    | none => rw [maccOne_unset hx]
    | some x => simp only [maccOne, hx, Bool.or_assoc]
  rw [exec_macc, execMacc]
  simp only [maccBody, State.maccDone, maccEnd, State.addFrag, ← hstep] <;> rfl

theorem runsMatrix_macc {s : State} {c : Ctx} {a b : ERegNum} {x : Prog} (hu : c.unit = .engine .matrix) (ha : s.At c)
    (hc : s.Clear c .no [(a.toNat : Int), (b.toNat : Int)]) (hx : AL.find s.progs (s.progId c) = some x) :
    RunsMatrix s c x (.macc a b) [a.toNat, b.toNat] (fun c _ s => maccBody c a.toNat b.toNat s) :=
  ⟨hu, ha, hc, hx, exec_macc_body a b s⟩

theorem maccEnd_eq (r : State × Bool) (c : Ctx) (f : Nat) (clear : Bool) :
    EngineChange r.1 (maccEnd r c f clear) c (fun p => { p with cr := { p.cr with rmode := p.cr.rmode ||| (asFlag r.2).toWord } }) ∧
    ∀ g, ∀ k < 2048, (maccEnd r c f clear).accAt c.cell g k = if clear = true ∧ g = f then accUnset else r.1.accAt c.cell g k := by
  have h1 : SameAccs r.1 (r.1.progRaise c (asFlag r.2)) c.cell := .of_cell (by rw [State.progRaise_cell])
  cases clear with
  | false =>
    refine ⟨.progRaise .., fun g k hk => ?_⟩
    simp only [maccEnd, Bool.false_eq_true, false_and, if_false]
    exact h1 g k hk
  | true =>
    refine ⟨(EngineChange.progRaise ..).then (.clearFrag _ c f), fun g k hk => ?_⟩
    simp only [maccEnd, true_and, if_true]
    rw [State.accAt_clearFrag _ _ _ _ _ hk, h1 g k hk]

/-- What `macc` leaves: the flags raised, the sums in the destination, and the source cleared where it is asked for. -/
theorem State.maccDone_eq (s : State) (c : Ctx) (d f : Nat) (clear : Bool) :
    (∃ fl : Flags, EngineChange s (s.maccDone c d f clear) c (fun p => { p with cr := { p.cr with rmode := p.cr.rmode ||| fl.toWord } })) ∧
    ∀ g, ∀ k < 2048, (s.maccDone c d f clear).accAt c.cell g k =
      if clear = true ∧ g = f then accUnset
      else if g = d then ((maccOne (s.accAt c.cell f k) (s.accAt c.cell d k)).map Prod.fst).getD (s.accAt c.cell d k)
      else s.accAt c.cell g k := by
  obtain ⟨h1, h2⟩ := s.addFrag_eq c.cell d f
  obtain ⟨h3, h4⟩ := maccEnd_eq (s.addFrag c.cell d f) c f clear
  rw [State.maccDone]
  refine ⟨⟨_, (EngineChange.of_accChange h1).after h3⟩, fun g k hk => ?_⟩
  rw [h4 g k hk, h2 g k hk]

theorem macc_adds {s : State} {c : Ctx} {a b : ERegNum} {x : Prog}
    (h : RunsMatrix s c x (.macc a b) [a.toNat, b.toNat] (fun c _ s => maccBody c a.toNat b.toNat s))
    (hp : x.pend = none) (hfree : ∀ f < 4, s.score c.cell f = [])
    (hok : ¬ (bits (s.reg c a.toNat) 63 2 ≠ 0 ∨ bits (s.reg c b.toNat) 63 9 ≠ 0 ∨ bits (s.reg c b.toNat) 7 2 ≠ 0)) :
    Happens s (.macc a b) fun t => (∃ fl, UnitDone s t c (s.progId c) fl true Pending.zero) ∧
      ∀ g, ∀ k < 2048, t.accAt c.cell g k =
        if bitAt (s.reg c b.toNat) 8 = true ∧ g = bits (s.reg c b.toNat) 1 0 then accUnset
        else if g = bits (s.reg c a.toNat) 1 0 then
          ((maccOne (s.accAt c.cell (bits (s.reg c b.toNat) 1 0) k) (s.accAt c.cell (bits (s.reg c a.toNat) 1 0) k)).map Prod.fst).getD
            (s.accAt c.cell (bits (s.reg c a.toNat) 1 0) k)
        else s.accAt c.cell g k := by
  generalize hd : bits (s.reg c a.toNat) 1 0 = d
  generalize hf : bits (s.reg c b.toNat) 1 0 = f
  have hd4 : d < 4 := by rw [← hd]; exact Nat.mod_lt _ (by decide)
  have hf4 : f < 4 := by rw [← hf]; exact Nat.mod_lt _ (by decide)
  let s1 := (s.reachScore c.cell (s.progId c) [d, f].eraseDups).setPend c { Pending.zero with stage := 8 }
  have hch : EngineChange s s1 c (fun y => { y with pend := some { Pending.zero with stage := 8 } }) :=
    (EngineChange.reachScore s c (s.progId c) _).after (.setPend h.unit _ _)
  have hacc : SameAccs s s1 c.cell := .of_cell (by
    obtain ⟨o, ho⟩ := s.reachScore_cell c.cell (s.progId c) c.cell [d, f].eraseDups
    rw [State.setPend_cell h.unit, ho])
  obtain ⟨⟨fl, h1⟩, h2⟩ := s1.maccDone_eq c d f (bitAt (s.reg c b.toNat) 8)
  refine h.ok (m := s1.maccDone c d f (bitAt (s.reg c b.toNat) 8)) ?_ ⟨⟨fl, ?_⟩, fun g k hk => ?_⟩
  · rw [maccBody]
    rw [if_neg hok, State.pendOf_fresh h.unit h.prog hp, hd, hf, withScore_free _ rfl fun g hg => hfree g ?_]
    rw [List.mem_eraseDups] at hg
    simp only [List.mem_cons, List.not_mem_nil, or_false] at hg
    omega
  · exact .of_last h.unit (hch.trans h1) ((Raises.flags fl).before_setPend _) _ _
  · rw [State.engineEnd_accs h.unit _ _ _ g k hk, h2 g k hk, hacc f k hk, hacc d k hk, hacc g k hk]

theorem accumulators_add : Claims.AccumulatorsAdd := by
  intro s c a b x ha hu hx hp _ hfree p va vb rest
  refine ⟨fun hc => ⟨fun hbad => ?_, fun hok => ?_⟩, fun hc => ⟨fun hbad => ?_, fun h1 h2 h3 => ?_⟩⟩
  · refine (runsMatrix_mzero hu ha hc hx).trap ?_
    rw [mzeroBody]
    exact if_pos hbad
  · exact mzero_clears (runsMatrix_mzero hu ha hc hx) hp hfree hok
  · refine (runsMatrix_macc hu ha hc hx).trap ?_
    rw [maccBody]
    exact if_pos hbad
  · intro d f
    obtain ⟨t, ht, hdone, hacc⟩ := macc_adds (runsMatrix_macc hu ha hc hx) hp hfree (by
      rw [not_or, not_or, not_not, not_not, not_not]; exact ⟨h1, h2, h3⟩)
    refine ⟨t, ht, hdone, fun hcl k hk => ?_, fun g _ hgd hgf k hk => ?_, fun hcl hfd k hk => ?_, fun hcl k hk => ⟨fun hn => ?_, fun e he => ?_⟩⟩
    · rw [hacc f k hk, if_pos ⟨hcl, rfl⟩]
    · rw [hacc g k hk, if_neg fun h => hgf h.2, if_neg hgd]
    · rw [hacc f k hk, if_neg, if_neg hfd]
      rintro ⟨h, -⟩
      exact Bool.false_ne_true (hcl.symm.trans h)
    · rw [hacc d k hk, if_neg, if_pos rfl, maccOne_unset hn]; · rfl
      rintro ⟨h, hdf⟩
      rcases hcl with hcl | hcl
      · exact Bool.false_ne_true (hcl.symm.trans h)
      · exact hcl hdf.symm
    · obtain ⟨w, b', hw, hx', hv'⟩ := maccOne_set (dst := s.accAt c.cell d k) he
      rw [hacc d k hk, if_neg, if_pos rfl, hw]
      · exact ⟨hx', hv'⟩
      rintro ⟨h, hdf⟩
      rcases hcl with hcl | hcl
      · exact Bool.false_ne_true (hcl.symm.trans h)
      · exact hcl hdf.symm

end Sys2Proof.Machine

namespace Sys2Proof.Machine

/-! ## Units of work of an engine instruction (spec 12 and 13, R274 to R276, R305, R306) -/

section
variable {s s0 s1 s2 m : State} {c : Ctx} {p q : Pending} {x : Prog} {total : Nat} {fin : State → State}

theorem settled_done (go : Pending → State → Issued) (hw : s.writesDone (s.progId c) = true) (he : p.err = none) :
    settled c p s go = go p s := by
  rw [settled, hw]; simp [he]

theorem nextUnit_last (hlast : total ≤ p.sent + 1) (hw : s.writesDone (s.progId c) = true) (he : p.err = none) :
    nextUnit c p total s fin = .ok (fin s) := by
  simp only [nextUnit, hlast, if_true]
  exact settled_done _ hw he

theorem nextUnit_more (hlast : ¬ total ≤ p.sent + 1) :
    nextUnit c p total s fin = .stall (s.setPend c { p with stage := 8, sent := p.sent + 1 }) := by
  simp only [nextUnit, hlast, if_false]

theorem doWrites_written (go : Pending → State → Issued) {ws : List UWrite} {a b : State}
    (h : Claims.Written (fun u => u.whoGroup c) (fun u => u.endWait (u.req c)) ws a b) :
    doWrites c go ws p a = go { p with writes := [] } b := by
  induction ws generalizing a with
  | nil => rw [Claims.Written] at h; rw [h, doWrites]
  | cons w t ih =>
    obtain ⟨u, hu, ht⟩ := h
    rw [doWrites, hu]
    exact ih ht

/-- A unit whose computation succeeds and whose writes are made goes on to what follows it. -/
theorem unitOf_written {m : M Pending} (next : Pending → State → Issued) (hst : p.stage = 0 ∨ p.stage = 8) (hwait : s.memWait c = .none)
    (hm : m.exec s = (.ok q, s0)) (he : q.err = none) (hw : Claims.UnitWritten c q.writes s0 s1) :
    unitOf c p s m next = next { q with writes := [] } s1 := by
  have h12 : ¬ p.stage = 12 := by omega
  have h13 : ¬ p.stage = 13 := by omega
  simp only [unitOf, h12, h13, if_false, withMemoryKeep, hwait, hm]
  rw [doWrites_written _ hw]
  simp [he]

theorem State.memWait_checked (s : State) (c : Ctx) (sc : BitVec 32) : (s.checked c.cell sc).memWait c = s.memWait c := by
  have h : (s.checked c.cell sc).waits = s.waits := by rw [State.checked]; split <;> rfl
  rw [State.memWait, State.memWait, (EngineChange.checked s c sc).req, State.waitOf, State.waitOf, h]

theorem State.namingOf_prog (hx : AL.find s.progs (s.progId c) = some x) : s.namingOf (.prog (s.progId c)) = x.naming := by
  simp only [State.namingOf, hx]

theorem cancelCheck_goes (sc : BitVec 32) (go : State → Issued) (h1 : s.mayCheck c.cell sc = true) (h2 : s.cancelledAt c.cell sc = false) :
    cancelCheck c sc s go = go (s.checked c.cell sc) := by
  simp only [cancelCheck, h1, h2, Bool.not_true, Bool.false_eq_true, if_false]

theorem cancelCheck_cancelled (sc : BitVec 32) (go : State → Issued) (h1 : s.mayCheck c.cell sc = true)
    (h2 : s.cancelledAt c.cell sc = true) : cancelCheck c sc s go = cancelProg c (s.checked c.cell sc) := by
  simp only [cancelCheck, h1, h2, Bool.not_true, Bool.false_eq_true, if_false, if_true]

/-- A unit of a matrix instruction from its boundary on. -/
theorem matUnit_written {u : State → M Pending} (hx : AL.find s.progs (s.progId c) = some x) (hgo : s.Uncancelled c x)
    (hsent : p.sent < total) (hst : p.stage = 0 ∨ p.stage = 8) (hwait : s.memWait c = .none)
    (hm : (u (s.checked c.cell x.naming.scope)).exec (s.checked c.cell x.naming.scope) = (.ok q, s0)) (he : q.err = none)
    (hw : Claims.UnitWritten c q.writes s0 s1) :
    matUnit c p s total u fin = nextUnit c { q with writes := [] } total s1 fin := by
  have h1 : ¬ total ≤ p.sent := by omega
  have h2 : ¬ (p.stage = 12 ∨ p.stage = 13 ∨ p.stage = 14) := by omega
  simp only [matUnit, h1, h2, if_false, atUnit, State.namingOf_prog hx]
  rw [cancelCheck_goes _ _ hgo.1 hgo.2]
  exact unitOf_written _ hst ((s.memWait_checked c _).trans hwait) hm he hw

theorem matUnit_cancelled {u : State → M Pending} (hx : AL.find s.progs (s.progId c) = some x)
    (h1 : s.mayCheck c.cell x.naming.scope = true) (h2 : s.cancelledAt c.cell x.naming.scope = true)
    (hsent : p.sent < total) (hst : p.stage = 0 ∨ p.stage = 8) :
    matUnit c p s total u fin = cancelProg c (s.checked c.cell x.naming.scope) := by
  have h3 : ¬ total ≤ p.sent := by omega
  have h4 : ¬ (p.stage = 12 ∨ p.stage = 13 ∨ p.stage = 14) := by omega
  simp only [matUnit, h3, h4, if_false, atUnit, State.namingOf_prog hx]
  exact cancelCheck_cancelled _ _ h1 h2

/-- What stands after a unit of the program `r` in `s2`, beside what `UnitDone` says: the cells but for their scoreboards, where `fin` is done
last, and none with the program once the instruction is done. -/
structure Stands (s2 t : State) (c : Ctx) (r : Nat) (last : Bool) (fin : State → State) : Prop where
  cell  : ∀ k, ∃ o, t.cell k = { (if last then fin s2 else s2).cell k with accOwner := o }
  score : last = true → ∀ f < 4, ∀ k ∈ t.score c.cell f, k / 2 ≠ r

theorem Stands.same {t : State} {r : Nat} {last : Bool} (h : Stands s2 t c r last id) (k : Nat) :
    ∃ o, t.cell k = { s2.cell k with accOwner := o } := by
  cases last <;> exact h.cell k

variable {regs : List Nat} {body : Ctx → Prog → State → Issued} {i : Instr} {f : Prog → Prog} {fl : Flags}

/-- The end of a unit of a matrix instruction: its next one, or the end of the instruction. -/
theorem RunsMatrix.nextUnit_done (h : RunsMatrix s c x i regs body) (hb : body c x s = nextUnit c q total s2 fin)
    (hch : EngineChange s1 s2 c f) (hf : Raises fl f) (hfin : EngineChange s2 (fin s2) c id) (he : q.err = none)
    (hw : total ≤ q.sent + 1 → s1.writesDone (s1.progId c) = true) {P : State → Prop}
    (hP : ∀ t, UnitDone s1 t c (s1.progId c) fl (decide (total ≤ q.sent + 1)) { q with stage := 8, sent := q.sent + 1 } →
      Stands s2 t c (s1.progId c) (decide (total ≤ q.sent + 1)) fin → P t) : Happens s i P := by
  by_cases hlast : total ≤ q.sent + 1
  · rw [nextUnit_last hlast (by rw [hch.writesDone, hch.progId]; exact hw hlast) he] at hb
    refine h.ok hb (hP _ ?_ ⟨fun k => ?_, fun _ g hg => ?_⟩)
    · rw [decide_eq_true hlast]
      exact .of_last h.unit (hch.then hfin) hf _ _
    · rw [decide_eq_true hlast, if_pos rfl]
      exact (fin s2).engineEnd_cell h.unit _ k
    · have h1 := (fin s2).engineEnd_score h.unit s.nextId g hg
      rwa [(hch.then hfin).progId] at h1
  · rw [nextUnit_more hlast] at hb
    refine h.stall hb (hP _ ?_ ⟨fun k => ?_, fun h => ?_⟩)
    · rw [decide_eq_false hlast]
      exact .of_more h.unit hch hf _
    · rw [decide_eq_false hlast, if_neg Bool.false_ne_true]
      exact ⟨(s2.cell k).accOwner, State.setPend_cell h.unit ..⟩
    · exact absurd (of_decide_eq_true h) hlast

/-- A cancelled program ends, and has made nothing. -/
theorem RunsMatrix.cancelled (h : RunsMatrix s c x i regs body) (hb : body c x s = cancelProg c m) (hch : EngineChange s m c f) :
    Happens s i fun t => t.mem = s.mem ∧ (∀ k, ∃ o, t.cell k = { m.cell k with accOwner := o }) ∧
      ∃ z, AL.find t.progs (s.progId c) = some z ∧ z.life = .ending ∧ z.pend = none := by
  have h1 := (EngineChange.leaveScore m c (m.progId c))
  have h2 := EngineChange.modProg (m.leaveScore c.cell (m.progId c)) c (fun y => { y with life := .ending, pend := none })
  rw [h1.progId] at h2
  have h3 := (hch.then h1).trans h2
  refine h.halt hb ⟨h3.mem, fun k => ?_, ?_⟩
  · obtain ⟨o, ho⟩ := m.leaveScore_cell c.cell (m.progId c) k
    exact ⟨o, (State.cell_of_cells (State.modProg_cells ..) k).trans ho⟩
  · rw [h3.prog, h.prog]
    exact ⟨_, rfl, rfl, rfl⟩

end

/-! ## mscl (spec 13, R299, R308) -/

theorem State.sclAt_setScl (s : State) (c o k : Nat) (v : BitVec 16) :
    (s.setScl c o v).sclAt c k = if o / 2 = k / 2 then v.toInt else s.sclAt c k := by
  simp only [State.sclAt, State.setScl, State.cell_modCell_same]
  by_cases h : o / 2 = k / 2
  · rw [if_pos h]
    split
    next hv => rw [hv, AL.get_del, if_pos h]
    · rw [h, AL.get_put_same]
  · rw [if_neg h]
    split
    · rw [AL.get_del, if_neg h]
    · rw [AL.get_put_ne _ _ _ h]

/-- Entries that are written one after the other from an even byte offset on. -/
theorem State.sclAt_fold (s : State) (c o : Nat) (g : Nat → BitVec 16) (n j : Nat) (ho : o % 2 = 0) :
    ((List.range n).foldl (fun t i => t.setScl c (o + 2 * i) (g i)) s).sclAt c (2 * j) =
      if o ≤ 2 * j ∧ 2 * j < o + 2 * n then (g ((2 * j - o) / 2)).toInt else s.sclAt c (2 * j) := by
  induction n with
  | zero => rw [if_neg (by omega)]; rfl
  | succ n ih =>
    rw [List.range_succ, List.foldl_append, List.foldl_cons, List.foldl_nil, State.sclAt_setScl, ih]
    by_cases h : (o + 2 * n) / 2 = 2 * j / 2
    · have h1 : (2 * j - o) / 2 = n := by omega
      rw [if_pos h, if_pos (by omega), h1]
    · rw [if_neg h]
      have h1 : (o ≤ 2 * j ∧ 2 * j < o + 2 * n) ↔ (o ≤ 2 * j ∧ 2 * j < o + 2 * (n + 1)) := by omega
      simp only [h1]

theorem toInt_ofNat_signed (n : Nat) : (BitVec.ofNat 16 n).toInt = signedNat 16 n := by
  rw [BitVec.toInt_eq_toNat_cond, signedNat_eq, BitVec.toNat_ofNat]

theorem State.dropLatch_cases (s : State) (c lo n : Nat) :
    s.dropLatch c lo n = s ∨ s.dropLatch c lo n = s.modCell c (fun y => { y with latch := none }) := by
  rw [State.dropLatch]
  split
  · exact (ite_eq_or_eq ..).symm
  · exact Or.inl rfl

theorem State.dropLatch_scl (s : State) (c lo n k : Nat) : (s.dropLatch c lo n).sclAt c k = s.sclAt c k := by
  rcases s.dropLatch_cases c lo n with h | h
  · rw [h]
  · rw [h, State.sclAt, State.cell_modCell_same, State.sclAt]

theorem EngineChange.setScl (s : State) (c : Ctx) (o : Nat) (v : BitVec 16) : EngineChange s (s.setScl c.cell o v) c id :=
  .of_modCell s c _ fun _ => rfl

theorem EngineChange.dropLatch (s : State) (c : Ctx) (lo n : Nat) : EngineChange s (s.dropLatch c.cell lo n) c id := by
  rcases s.dropLatch_cases c.cell lo n with h | h <;> rw [h]
  · exact .refl s c
  · exact .of_modCell s c _ fun _ => rfl

/-- The value of `mscl` names no entries of scale memory, or entries that are not all there (R308). -/
def msclBad (v : Word) : Prop :=
  bits v 15 13 ≠ 0 ∨ bits v 30 29 ≠ 0 ∨ bits v 63 32 ≠ 0 ∨ bits v 12 0 % 2 = 1 ∨ bits v 28 16 = 0 ∨ 8192 < bits v 12 0 + 2 * bits v 28 16

/-- The address of entry `i` of a part of `mscl` that begins at entry `lo`. -/
def msclPlace (va : Addr) (lo i : Nat) : Nat := (va.toNat + 2 * (lo + i)) % 2 ^ 48

/-- What a part of `mscl` that begins at entry `lo` and has `k` entries reads or writes. -/
def msclPart (c : Ctx) (v : Word) (va : Addr) (p : Pending) (lo k : Nat) (s : State) : M Pending :=
  if bitAt v 31 then
    pure { p with writes := (List.range k).map (fun i =>
      .mem (msclPlace va lo i : Nat) (leBytes 2 (intBits 16 (s.sclAt c.cell (bits v 12 0 + 2 * lo + 2 * i)))) none .o) }
  else do
    let bs ← readVa (s.whoGroup c) (msclPlace va lo 0) (2 * k) .r
    let t ← M.state
    let t2 := (List.range k).foldl (fun t i =>
      t.setScl c.cell (bits v 12 0 + 2 * lo + 2 * i) (BitVec.ofNat 16 (leNat ((bs.drop (2 * i)).take 2)))) t
    M.put (t2.dropLatch c.cell (bits v 12 0 + 2 * lo) (2 * k))
    pure p

theorem msclBody_good {s : State} {c : Ctx} {a b : Nat} (h1 : ¬ msclBad (s.reg c (a : Int)))
    (h2 : (lo48 (s.reg c (b : Int))).toNat % 2 = 0) :
    msclBody c a b s = matUnit c (s.pendOf c) s ((bits (s.reg c (a : Int)) 28 16 + 63) / 64)
      (msclPart c (s.reg c (a : Int)) (lo48 (s.reg c (b : Int))) (s.pendOf c) (64 * (s.pendOf c).sent)
        (min 64 (bits (s.reg c (a : Int)) 28 16 - 64 * (s.pendOf c).sent))) := by
  have h3 : ¬ (lo48 (s.reg c (b : Int))).toNat % 2 = 1 := by omega
  rw [msclBody]
  dsimp only
  unfold msclBad at h1
  rw [if_neg h1, if_neg h3]
  rfl

theorem M.exec_pure {α : Type} (x : α) (s : State) : (pure x : M α).exec s = (.ok x, s) := rfl
theorem M.exec_state (s : State) : M.state.exec s = (.ok s, s) := rfl
theorem M.exec_put (t s : State) : (M.put t).exec s = (.ok (), t) := rfl

theorem State.sclAt_checked (s : State) (c : Nat) (sc : BitVec 32) (k : Nat) : (s.checked c sc).sclAt c k = s.sclAt c k := by
  rw [State.checked]
  split
  · rw [State.sclAt, State.cell_modCell_same, State.sclAt]
  · rfl

/-- A program at a part of `mscl` whose records are sound. -/
structure MsclAt (s : State) (c : Ctx) (x : Prog) (a b : ERegNum) : Prop
    extends RunsMatrix s c x (.mscl a b) [a.toNat, b.toNat] (fun c _ s => msclBody c a.toNat b.toNat s) where
  wait  : s.memWait c = .none
  good  : ¬ msclBad (s.reg c a.toNat)
  even  : (lo48 (s.reg c b.toNat)).toNat % 2 = 0
  stage : (s.pendOf c).stage = 0 ∨ (s.pendOf c).stage = 8
  whole : (s.pendOf c).writes = [] ∧ (s.pendOf c).err = none
  more  : 64 * (s.pendOf c).sent < bits (s.reg c a.toNat) 28 16

theorem Happens.imp {s : State} {i : Instr} {P Q : State → Prop} (h : Happens s i P) (hPQ : ∀ t, P t → Q t) : Happens s i Q := by
  obtain ⟨t, ht, hp⟩ := h
  exact ⟨t, ht, hPQ t hp⟩

section
variable {s s1 : State} {c : Ctx} {x : Prog} {a b : ERegNum}

/-- The entries of the part of `mscl` that a program is at. -/
def State.msclCount (s : State) (c : Ctx) (a : ERegNum) : Nat := min 64 (bits (s.reg c a.toNat) 28 16 - 64 * (s.pendOf c).sent)
/-- The byte offset of its first entry. -/
def State.msclFrom (s : State) (c : Ctx) (a : ERegNum) : Nat := bits (s.reg c a.toNat) 12 0 + 2 * (64 * (s.pendOf c).sent)
/-- Is it the last part? -/
def State.msclLast (s : State) (c : Ctx) (a : ERegNum) : Bool :=
  decide ((bits (s.reg c a.toNat) 28 16 + 63) / 64 ≤ (s.pendOf c).sent + 1)
/-- What the program has done so far once it is done. -/
def State.msclNext (s : State) (c : Ctx) : Pending := { s.pendOf c with stage := 8, sent := (s.pendOf c).sent + 1 }

/-- What the part leaves in scale memory where it reads `bs`. -/
def State.msclLoaded (s : State) (c : Ctx) (a : ERegNum) (bs : List Byte) (u : State) : State :=
  ((List.range (s.msclCount c a)).foldl (fun t i =>
    t.setScl c.cell (s.msclFrom c a + 2 * i) (BitVec.ofNat 16 (leNat ((bs.drop (2 * i)).take 2)))) u).dropLatch c.cell
      (s.msclFrom c a) (2 * s.msclCount c a)

theorem State.msclLoaded_change (s : State) (c : Ctx) (a : ERegNum) (bs : List Byte) (u : State) :
    EngineChange u (s.msclLoaded c a bs u) c id :=
  (EngineChange.foldl _ (fun _ _ => .setScl ..) _ u).then (.dropLatch ..)

theorem State.msclLoaded_scl (s : State) (c : Ctx) (a : ERegNum) (bs : List Byte) (u : State) (j : Nat) (h : s.msclFrom c a % 2 = 0) :
    (s.msclLoaded c a bs u).sclAt c.cell (2 * j) =
      if s.msclFrom c a ≤ 2 * j ∧ 2 * j < s.msclFrom c a + 2 * s.msclCount c a then
        signedNat 16 (leNat ((bs.drop (2 * j - s.msclFrom c a)).take 2))
      else u.sclAt c.cell (2 * j) := by
  rw [State.msclLoaded, State.dropLatch_scl, State.sclAt_fold _ _ _ _ _ _ h]
  have h1 : 2 * ((2 * j - s.msclFrom c a) / 2) = 2 * j - s.msclFrom c a := by omega
  rw [toInt_ofNat_signed, h1]

variable (h : MsclAt s c x a b)
include h

theorem MsclAt.from_even : s.msclFrom c a % 2 = 0 := by
  have h1 := h.good
  simp only [msclBad, not_or] at h1
  have h2 := h1.2.2.2.1
  rw [State.msclFrom]; omega

theorem MsclAt.last_iff : s.msclLast c a = true ↔ (bits (s.reg c a.toNat) 28 16 + 63) / 64 ≤ (s.pendOf c).sent + 1 := decide_eq_true_iff

theorem MsclAt.body_goes (hgo : s.Uncancelled c x) {s0 : State} {q : Pending}
    (hm : (msclPart c (s.reg c a.toNat) (lo48 (s.reg c b.toNat)) (s.pendOf c) (64 * (s.pendOf c).sent) (s.msclCount c a)
      (s.checked c.cell x.naming.scope)).exec (s.checked c.cell x.naming.scope) = (.ok q, s0))
    (he : q.err = none) (hw : Claims.UnitWritten c q.writes s0 s1) :
    msclBody c a.toNat b.toNat s = nextUnit c { q with writes := [] } ((bits (s.reg c a.toNat) 28 16 + 63) / 64) s1 := by
  have h1 := h.more
  rw [msclBody_good h.good h.even]
  exact matUnit_written h.prog hgo (by omega) h.stage h.wait hm he hw

theorem mscl_loads (hgo : s.Uncancelled c x) {bs : List Byte} (hdir : bitAt (s.reg c a.toNat) 31 = false)
    (hread : (readVa ((s.checked c.cell x.naming.scope).whoGroup c) (msclPlace (lo48 (s.reg c b.toNat)) (64 * (s.pendOf c).sent) 0)
      (2 * s.msclCount c a) .r).exec (s.checked c.cell x.naming.scope) = (.ok bs, s1))
    (hw : s.msclLast c a = true → s1.writesDone (s1.progId c) = true) :
    Happens s (.mscl a b) fun t =>
      UnitDone s1 t c (s1.progId c) Flags.none (s.msclLast c a) (s.msclNext c) ∧
      (s.msclLast c a = true → ∀ f < 4, ∀ k ∈ t.score c.cell f, k / 2 ≠ s1.progId c) ∧
      ∀ j, t.sclAt c.cell (2 * j) = (s.msclLoaded c a bs s1).sclAt c.cell (2 * j) := by
  obtain ⟨hq, he⟩ := h.whole
  have hch := (s.msclLoaded_change c a bs s1).then (.endWait _ c ((s.msclLoaded c a bs s1).req c))
  have hm : (msclPart c (s.reg c a.toNat) (lo48 (s.reg c b.toNat)) (s.pendOf c) (64 * (s.pendOf c).sent) (s.msclCount c a)
      (s.checked c.cell x.naming.scope)).exec (s.checked c.cell x.naming.scope) = (.ok (s.pendOf c), s.msclLoaded c a bs s1) := by
    rw [msclPart, hdir, if_neg Bool.false_ne_true, M.exec_bind, hread]
    rfl
  refine h.toRunsMatrix.nextUnit_done (h.body_goes hgo hm he (by rw [hq]; rfl)) hch Raises.id (.refl _ c) he
    (fun hl => hw (h.last_iff.mpr hl)) fun t hd hs => ⟨?_, hs.score, fun j => ?_⟩
  · have h1 : s.msclNext c = { s.pendOf c with stage := 8, sent := (s.pendOf c).sent + 1, writes := [] } := by
      rw [State.msclNext, ← hq]
    rw [h1]
    exact hd
  · obtain ⟨o, ho⟩ := hs.same c.cell
    rw [State.sclAt, ho]
    rfl

theorem mscl_stores (hgo : s.Uncancelled c x) (hdir : bitAt (s.reg c a.toNat) 31 = true)
    (hws : Claims.UnitWritten c ((List.range (s.msclCount c a)).map (fun j =>
      .mem (msclPlace (lo48 (s.reg c b.toNat)) (64 * (s.pendOf c).sent) j : Nat)
        (leBytes 2 (intBits 16 (s.sclAt c.cell (s.msclFrom c a + 2 * j)))) none .o)) (s.checked c.cell x.naming.scope) s1)
    (hw : s.msclLast c a = true → s1.writesDone (s1.progId c) = true) :
    Happens s (.mscl a b) fun t =>
      UnitDone s1 t c (s1.progId c) Flags.none (s.msclLast c a) (s.msclNext c) ∧
      (s.msclLast c a = true → ∀ f < 4, ∀ k ∈ t.score c.cell f, k / 2 ≠ s1.progId c) ∧
      (t.cell c.cell).scales = (s1.cell c.cell).scales := by
  obtain ⟨hq, he⟩ := h.whole
  have hm : (msclPart c (s.reg c a.toNat) (lo48 (s.reg c b.toNat)) (s.pendOf c) (64 * (s.pendOf c).sent) (s.msclCount c a)
      (s.checked c.cell x.naming.scope)).exec (s.checked c.cell x.naming.scope) =
      (.ok { s.pendOf c with writes := (List.range (s.msclCount c a)).map (fun j =>
      .mem (msclPlace (lo48 (s.reg c b.toNat)) (64 * (s.pendOf c).sent) j : Nat)
        (leBytes 2 (intBits 16 (s.sclAt c.cell (s.msclFrom c a + 2 * j)))) none .o) }, s.checked c.cell x.naming.scope) := by
    rw [msclPart, hdir, if_pos rfl]
    simp only [State.sclAt_checked]
    rfl
  refine h.toRunsMatrix.nextUnit_done (h.body_goes hgo hm he hws) (.refl s1 c) Raises.id (.refl _ c) he
    (fun hl => hw (h.last_iff.mpr hl)) fun t hd hs => ⟨?_, hs.score, ?_⟩
  · have h1 : s.msclNext c = { s.pendOf c with stage := 8, sent := (s.pendOf c).sent + 1, writes := [] } := by
      rw [State.msclNext, ← hq]
    rw [h1]
    exact hd
  · obtain ⟨o, ho⟩ := hs.same c.cell
    rw [ho]

theorem mscl_cancelled (h1 : s.mayCheck c.cell x.naming.scope = true) (h2 : s.cancelledAt c.cell x.naming.scope = true) :
    Happens s (.mscl a b) fun t => t.mem = s.mem ∧ (t.cell c.cell).scales = (s.cell c.cell).scales ∧
      ∃ z, AL.find t.progs (s.progId c) = some z ∧ z.life = .ending ∧ z.pend = none := by
  have h3 := h.more
  have hb : msclBody c a.toNat b.toNat s = cancelProg c (s.checked c.cell x.naming.scope) := by
    rw [msclBody_good h.good h.even]
    exact matUnit_cancelled h.prog h1 h2 (by omega) h.stage
  refine (h.toRunsMatrix.cancelled hb (EngineChange.checked s c x.naming.scope)).imp fun t ⟨hmem, hcell, hz⟩ => ⟨hmem, ?_, hz⟩
  obtain ⟨o, ho⟩ := hcell c.cell
  rw [ho]
  dsimp only
  rw [State.checked]
  split
  · rw [State.cell_modCell_same]
  · rfl

end

theorem scales_move : Claims.ScalesMove := by
  intro s c a b x q ha hu hc hx hwait hq hstage hqw hqe p b0 v va off n wrong lo k last place rest
  have hrun : RunsMatrix s c x (.mscl a b) [a.toNat, b.toNat] (fun c _ s => msclBody c a.toNat b.toNat s) := ⟨hu, ha, hc, hx, rfl⟩
  have hpend : s.pendOf c = q := by rw [hq]; simp only [State.pendOf, hu, hx]
  refine ⟨fun hbad => ?_, fun hgood hodd => ?_, fun hgood heven hlt h1 h2 => ?_, fun hgood heven hlt hgo => ⟨?_, ?_⟩⟩
  · refine hrun.trap ?_
    rw [msclBody]
    exact if_pos hbad
  · refine hrun.trap ?_
    rw [msclBody]
    dsimp only
    rw [if_neg hgood]
    exact if_pos hodd
  all_goals
    have hat : MsclAt s c x a b := ⟨hrun, hwait, hgood, heven, by rw [hpend]; exact hstage, by rw [hpend]; exact ⟨hqw, hqe⟩,
      by rw [hpend]; exact hlt⟩
  · exact mscl_cancelled hat h1 h2
  · intro bs s1 hdir hread hp hw
    have h1 := mscl_loads hat hgo (bs := bs) (s1 := s1) hdir (by simp only [State.msclCount, hpend]; exact hread)
      (by simp only [State.msclLast, hpend, hp]; exact hw)
    simp only [State.msclLast, State.msclNext, hpend, hp] at h1
    refine h1.imp fun t ⟨h2, _, h3⟩ => ⟨h2, fun j => ?_⟩
    rw [h3 j, State.msclLoaded_scl _ _ _ _ _ _ hat.from_even]
    simp only [State.msclCount, State.msclFrom, hpend]
    rfl
  · intro s1 hdir hws hp hw
    have h1 := mscl_stores hat hgo (s1 := s1) hdir (by simp only [State.msclCount, State.msclFrom, hpend]; exact hws)
      (by simp only [State.msclLast, hpend, hp]; exact hw)
    simp only [State.msclLast, State.msclNext, hpend, hp] at h1
    exact h1.imp fun t ⟨h2, _, h3⟩ => ⟨h2, h3⟩

/-- Settles O45: `mzero` and `macc` container by container, and the parts of `mscl` as units of work. -/
theorem accumulatorsAdd : Obligations.AccumulatorsAdd := by
  unfold Obligations.AccumulatorsAdd
  exact ⟨accumulators_add, scales_move⟩

end Sys2Proof.Machine

namespace Sys2Proof.Machine

/-! ## Records of an instruction (spec 12 and 13, R272, R304) -/

/-- A list in pieces of `n`, one after the other, is the list. -/
theorem flatten_pieces {α : Type} (n m : Nat) (l : List α) (h : l.length = n * m) :
    ((List.range m).map (fun k => (l.drop (n * k)).take n)).flatten = l := by
  have go : ∀ m ≤ l.length, ∀ j, n * j ≤ m → ((List.range j).map (fun k => (l.drop (n * k)).take n)).flatten = l.take (n * j) := by
    intro m hm j hj
    induction j with
    | zero => simp
    | succ j ih =>
      rw [List.range_succ, List.map_append, List.flatten_append, ih (by rw [Nat.mul_succ] at hj; omega), List.map_cons, List.map_nil,
        List.flatten_cons, List.flatten_nil, List.append_nil, Nat.mul_succ, List.take_add]
  rw [go l.length (le_refl _) m (by omega), List.take_of_length_le (by omega)]

/-- Some records at aligned addresses, each of which is read without a change. -/
def State.ReadsAll (s : State) (c : Ctx) (n : Nat) (l : List (Addr × List Byte)) : Prop :=
  ∀ p ∈ l, p.1.toNat % n = 0 ∧ (readVa (s.whoGroup c) p.1.toNat n .r).exec s = (.ok p.2, s)

theorem readEach_read {s : State} {c : Ctx} {n : Nat} {go : Pending → State → Issued} (hwait : s.memWait c = .none)
    (l : List (Addr × List Byte)) (p : Pending) (h : s.ReadsAll c n l) :
    readEach c n go (l.map Prod.fst) p s = go { p with data := p.data ++ (l.map Prod.snd).flatten } (s.endWait (s.req c)) := by
  induction l generalizing p with
  | nil => simp [readEach]
  | cons x l ih =>
    obtain ⟨h1, h2⟩ := h x (List.mem_cons_self ..)
    rw [List.map_cons, readEach, if_neg (by rw [h1]; exact fun h => h rfl), withMemoryKeep]
    simp only [hwait, h2]
    rw [ih _ fun y hy => h y (List.mem_cons_of_mem _ hy)]
    simp only [List.map_cons, List.flatten_cons, List.append_assoc]

/-- The addresses of the records that some registers name. -/
def State.recordAddrs (s : State) (c : Ctx) (regs : List Nat) : List Addr := regs.map (fun (r : Nat) => lo48 (s.reg c (r : Int)))

theorem State.RecordsRead.readsAll {s : State} {c : Ctx} {n : Nat} {regs : List Nat} {bs : List Byte} (h : s.RecordsRead c n regs bs) :
    ∃ l : List (Addr × List Byte), l.map Prod.fst = s.recordAddrs c regs ∧ (l.map Prod.snd).flatten = bs ∧ s.ReadsAll c n l := by
  obtain ⟨hlen, hread⟩ := h
  refine ⟨regs.zipIdx.map (fun p => (lo48 (s.reg c (p.1 : Int)), (bs.drop (n * p.2)).take n)), ?_, ?_, fun p hp => ?_⟩
  · have h1 := List.zipIdx_map_fst 0 regs
    rw [List.map_map, State.recordAddrs]
    conv_rhs => rw [← h1, List.map_map]
    rfl
  · have h1 := List.zipIdx_map_snd 0 regs
    rw [List.map_map]
    have h2 : (Prod.snd ∘ fun p : Nat × Nat => (lo48 (s.reg c (p.1 : Int)), (bs.drop (n * p.2)).take n)) =
        (fun k => (bs.drop (n * k)).take n) ∘ Prod.snd := rfl
    rw [h2, ← List.map_map, h1, ← List.range_eq_range', flatten_pieces n _ _ hlen]
  · obtain ⟨x, hx, rfl⟩ := List.mem_map.mp hp
    exact hread x hx

section
variable {s : State} {c : Ctx} {n : Nat} {regs : List Nat} {go : Pending → State → Issued}

/-- The records are read at the first issue, and kept. -/
theorem withRecords_first {bs : List Byte} (hp : s.pendOf c = Pending.zero) (hwait : s.memWait c = .none) (hne : regs ≠ [])
    (h : s.RecordsRead c n regs bs) :
    withRecords c n (s.recordAddrs c regs) s go = go { Pending.zero with data := bs } (s.endWait (s.req c)) := by
  obtain ⟨l, h1, h2, h3⟩ := h.readsAll
  have hz : (Pending.zero.data.length / n) = 0 := Nat.zero_div n
  rw [withRecords, hp]
  dsimp only
  rw [hz, List.drop_zero]
  split
  next he =>
    rw [State.recordAddrs, List.map_eq_nil_iff] at he
    exact absurd he hne
  · rw [← h1, readEach_read hwait l _ h3, h2]
    rfl

/-- Records that have been read are not read again. -/
theorem withRecords_again {q : Pending} (hp : s.pendOf c = q) (hn : 0 < n) (hlen : q.data.length = n * regs.length) :
    withRecords c n (s.recordAddrs c regs) s go = go q s := by
  have h1 : (s.recordAddrs c regs).drop (q.data.length / n) = [] := by
    rw [hlen, Nat.mul_div_cancel_left _ hn, List.drop_eq_nil_iff, State.recordAddrs, List.length_map]
  rw [withRecords, hp, h1]

end

theorem State.memWait_endWait (s : State) (c : Ctx) (r : FaultReq) (h : s.memWait c = .none) : (s.endWait r).memWait c = .none := by
  have h1 : (s.endWait r).req c = s.req c := (EngineChange.endWait s c r).req
  rw [State.memWait, h1, State.waitOf, State.endWait]
  dsimp only
  rw [List.find?_filter]
  rw [State.memWait, State.waitOf] at h
  by_cases hr : s.req c = r
  · have h2 : s.waits.find? (fun a => decide ((!(a.req == r)) = true ∧ (a.req == s.req c) = true)) = none := by
      rw [List.find?_eq_none]
      intro w _ hw
      rw [hr] at hw
      simp at hw
    rw [h2]
  · have h2 : (fun a : WaitRec => decide ((!(a.req == r)) = true ∧ (a.req == s.req c) = true)) = fun a => a.req == s.req c := by
      funext a
      by_cases ha : a.req = s.req c
      · have h3 : ¬ a.req = r := fun h => hr (ha ▸ h)
        simp [ha, hr]
      · simp [ha]
    rw [h2]
    exact h

theorem State.memWait_of_waits {s t : State} {c : Ctx} (hw : t.waits = s.waits) (hr : t.req c = s.req c) : t.memWait c = s.memWait c := by
  rw [State.memWait, State.memWait, State.waitOf, State.waitOf, hw, hr]

/-- A program at a unit of a matrix instruction that reads descriptors: what the rest of the instruction is done in. -/
structure AtUnit (s b : State) (c : Ctx) (x : Prog) (q : Pending) : Prop where
  change : EngineChange s b c (fun y => { y with pend := some q })
  cells  : b.cells = s.cells
  wait   : b.memWait c = .none
  prog   : AL.find b.progs (b.progId c) = some { x with pend := some q }

theorem AtUnit.setPend {s s' : State} {c : Ctx} {x : Prog} {v : EngineUnit} (hu : c.unit = .engine v) (q : Pending)
    (hx : AL.find s.progs (s.progId c) = some x) (hch : EngineChange s s' c id) (hcells : s'.cells = s.cells) (hw : s'.memWait c = .none) :
    AtUnit s (s'.setPend c q) c x q := by
  have h1 : EngineChange s' (s'.setPend c q) c (fun y => { y with pend := some q }) := .setPend hu ..
  have h2 := hch.after h1
  have hwaits : (s'.setPend c q).waits = s'.waits := by simp [State.setPend, hu]
  have hcs : (s'.setPend c q).cells = s'.cells := by simp [State.setPend, hu]
  refine ⟨h2, hcs.trans hcells, ?_, ?_⟩
  · rw [State.memWait_of_waits hwaits h1.req, hw]
  · rw [h2.progId, h2.prog, hx]; rfl

/-- The descriptors of a matrix instruction that is at a unit. -/
theorem withDescs_at {s m : State} {c : Ctx} {x : Prog} {regs : List Nat} {q : Pending} (h : s.MatrixAt c x regs q m) :
    ∃ b, (∀ k : Pending → State → Issued, withDescs c (s.recordAddrs c regs) s k = k q b) ∧ m = b.checked c.cell x.naming.scope ∧ AtUnit s b c x q := by
  have hne : regs ≠ [] := fun he => h.data.2 (List.length_eq_zero_iff.mp (by rw [h.data.1, he]; rfl))
  rcases h.stands with ⟨hp, hr, hq, hm⟩ | ⟨hp, -, hm⟩
  · refine ⟨(s.endWait (s.req c)).setPend c q, fun k => ?_, hm,
      .setPend h.unit q h.prog (.endWait ..) rfl (s.memWait_endWait c _ h.wait)⟩
    rw [withDescs, withRecords_first (State.pendOf_fresh h.unit h.prog hp) h.wait hne hr, ← hq]
  · refine ⟨s.setPend c q, fun k => ?_, hm, .setPend h.unit q h.prog (.refl ..) rfl h.wait⟩
    rw [withDescs, withRecords_again (q := q) ?_ (by decide) h.data.1]
    simp only [State.pendOf, h.unit, h.prog, hp]
    rfl

end Sys2Proof.Machine

namespace Sys2Proof.Machine

/-! ## Rows of mplane and mst (spec 13, R307, R314) -/

theorem AtUnit.cell {s b : State} {c : Ctx} {x : Prog} {q : Pending} (h : AtUnit s b c x q) (k : Nat) : b.cell k = s.cell k :=
  State.cell_of_cells h.cells k

theorem AtUnit.segs {s b : State} {c : Ctx} {x : Prog} {q : Pending} (h : AtUnit s b c x q) (k : Nat) : b.segsOf k = s.segsOf k := by
  have h1 := congrArg State.fields h.change.rest
  have h2 : b.fields = s.fields := h1
  simp only [State.segsOf, State.fieldOf, h.cell, h2]

theorem AtUnit.mayCheck {s b : State} {c : Ctx} {x : Prog} {q : Pending} (h : AtUnit s b c x q) (k : Nat) (sc : BitVec 32) :
    b.mayCheck k sc = s.mayCheck k sc ∧ b.cancelledAt k sc = s.cancelledAt k sc := by
  simp only [State.mayCheck, State.cancelledAt, State.unitAnswer, State.notified, h.cell, and_self]

/-- A unit of a matrix instruction with descriptors: its computation and its writes, and the state in which the program goes on. -/
theorem AtUnit.matUnit_written {s b s0 s1 : State} {c : Ctx} {x : Prog} {q q' : Pending} {total : Nat} {u : State → M Pending}
    {fin : State → State} (h : AtUnit s b c x q) (hgo : s.Uncancelled c x) (hsent : q.sent < total) (hst : q.stage = 0 ∨ q.stage = 8)
    (hm : (u (b.checked c.cell x.naming.scope)).exec (b.checked c.cell x.naming.scope) = (.ok q', s0)) (he : q'.err = none)
    (hw : Claims.UnitWritten c q'.writes s0 s1) :
    matUnit c q b total u fin = nextUnit c { q' with writes := [] } total s1 fin := by
  obtain ⟨h1, h2⟩ := h.mayCheck c.cell x.naming.scope
  exact Machine.matUnit_written h.prog ⟨h1.trans hgo.1, h2.trans hgo.2⟩ hsent hst h.wait hm he hw

theorem VEnv.raise_exec {v : VEnv} {p : Nat} (hi : v.who.issuer = .prog p) (f : Flags) (s : State) :
    (v.raise f).exec s = (.ok (), s.modProg p (fun x => { x with cr := { x.cr with rmode := x.cr.rmode ||| f.toWord } })) := by
  simp only [VEnv.raise, hi]
  rfl

theorem State.venv_issuer {s : State} {c : Ctx} {v : EngineUnit} (hu : c.unit = .engine v) (x : Prog) :
    (s.venv c x).who.issuer = .prog (s.progId c) := by
  simp only [State.venv, State.whoGroup, hu]

/-- The outlier list as it stands after a row. -/
def PlaneRow.list (r : PlaneRow) (outs : List Nat) (y : Nat) : List Nat := outs ++ r.outs.map (fun o => outlierEntry o.1 y o.2)

/-- A write of `mplane`. -/
def PlaneJob.at_ (j : PlaneJob) (a : Nat) (bs : List Byte) : UWrite := .mem (a % 2 ^ 48 : Nat) bs none j.d.cls

/-- The writes of a row: its plane slots, and with the last row the outlier list. -/
def PlaneJob.rowWrites (j : PlaneJob) (r : PlaneRow) (y : Nat) (outs : List Nat) : List UWrite :=
  (List.range j.f.p).map (fun k => j.at_ (j.d.base.toNat + (if j.d.b then 512 else 256) * k + 8 * y) (leBytes 8 (planeWord r.q k))) ++
    (if y + 1 = j.d.outers ∧ j.d.olist ≠ 0 then
      j.at_ j.d.olist.toNat (leBytes 8 (r.list outs y).length) ::
        (r.list outs y).zipIdx.map (fun e => j.at_ (j.d.olist.toNat + 8 + 4 * e.2) (leBytes 4 e.1))
    else [])

theorem PlaneJob.run_exec (j : PlaneJob) {v : VEnv} {y : Nat} (outs : List Nat) {m m1 m2 : State} {r : PlaneRow} {p : Nat}
    (hi : v.who.issuer = .prog p) (h1 : (if y = 0 then j.listFits v else pure ()).exec m = (.ok (), m1))
    (h2 : (j.load v y).exec m1 = (.ok r, m2)) :
    (j.run v y outs).exec m = (.ok (r.list outs y, j.rowWrites r y outs),
      j.unlatch v.who.cell (j.entries v.who.cell y r
        (m2.modProg p (fun x => { x with cr := { x.cr with rmode := x.cr.rmode ||| r.flags.toWord } })))) := by
  have first : ∀ {α : Type} (k : PUnit → M α), (if y = 0 then j.listFits v >>= k else k ()).exec m = (k ()).exec m1 := by
    intro α k
    by_cases hy : y = 0
    · rw [if_pos hy] at h1 ⊢
      rw [M.exec_bind, h1]
    · rw [if_neg hy] at h1 ⊢
      rw [M.exec_pure] at h1
      obtain rfl : m = m1 := (Prod.ext_iff.mp h1).2
      rfl
  rw [PlaneJob.run]
  refine (first _).trans ?_
  rw [M.exec_bind, h2]
  dsimp only
  rw [M.exec_bind, VEnv.raise_exec hi]
  rfl

/-! ### Block exponents of a row (R299, R307) -/

theorem State.sclAt_zipIdx (l : List Int) (s : State) (c o n k : Nat) :
    ((l.zipIdx n).foldl (fun t x => t.setScl c (o + 2 * x.2) (BitVec.ofInt 16 x.1)) s).sclAt c (o + 2 * k) =
      if n ≤ k ∧ k < n + l.length then (BitVec.ofInt 16 ((l[k - n]?).getD 0)).toInt else s.sclAt c (o + 2 * k) := by
  induction l generalizing s n with
  | nil => rw [if_neg (by simp)]; rfl
  | cons a l ih =>
    rw [List.zipIdx_cons, List.foldl_cons, ih, State.sclAt_setScl, List.length_cons]
    have h0 : (o + 2 * n) / 2 = (o + 2 * k) / 2 ↔ n = k := by omega
    simp only [h0]
    by_cases h : n = k
    · subst h
      rw [if_neg (by omega), if_pos rfl, if_pos (by omega)]
      simp
    · rw [if_neg h]
      by_cases h2 : n + 1 ≤ k ∧ k < n + 1 + l.length
      · rw [if_pos h2, if_pos (by omega), show k - n = k - (n + 1) + 1 by omega, List.getElem?_cons_succ]
      · rw [if_neg h2, if_neg (by omega)]

theorem PlaneJob.unlatch_scl (j : PlaneJob) (s : State) (c k : Nat) : (j.unlatch c s).sclAt c k = s.sclAt c k := by
  rw [PlaneJob.unlatch]
  split
  · split
    · rw [State.sclAt, State.cell_modCell_same, State.sclAt]
    · rfl
  · rfl

theorem PlaneJob.entries_scl (j : PlaneJob) (s : State) (c y : Nat) (r : PlaneRow) (k : Nat) (hs : j.f.scaled = true) :
    (j.entries c y r s).sclAt c (j.off + 8 * y + 2 * k) =
      if r.u.length ≤ k then s.sclAt c (j.off + 8 * y + 2 * k) else (BitVec.ofInt 16 ((r.u[k]?).getD 0)).toInt := by
  rw [PlaneJob.entries, if_pos hs]
  dsimp only
  rw [State.dropLatch_scl, State.sclAt_zipIdx]
  by_cases h : r.u.length ≤ k
  · rw [if_neg (by omega), if_pos h]
  · rw [if_pos (by omega), if_neg h]; rfl

section
variable {s m : State} {c : Ctx} {x : Prog} {a b : ERegNum} {q : Pending}

theorem runsMatrix_of_at {i : Instr} {regs all : List Nat} {body : Ctx → Prog → State → Issued} (h : s.MatrixAt c x regs q m)
    (ha : s.At c) (hc : s.Clear c .no (all.map (fun (r : Nat) => (r : Int)))) (hi : exec i s = matrixInstr s all body) :
    RunsMatrix s c x i all body := ⟨h.unit, ha, hc, h.prog, hi⟩

theorem State.MatrixAt.stage (h : s.MatrixAt c x [a.toNat, b.toNat] q m) : q.stage = 0 ∨ q.stage = 8 := by
  rcases h.stands with ⟨-, -, hq, -⟩ | ⟨-, hst, -⟩
  · left; rw [hq]; rfl
  · exact hst

theorem mplane_row (ha : s.At c) (hc : s.Clear c .no [(a.toNat : Int), (b.toNat : Int)]) (h : s.MatrixAt c x [a.toNat, b.toNat] q m)
    {m1 m2 s1 : State} {j : PlaneJob} {r : PlaneRow} (hj : mplaneCheck x (s.segsOf c.cell) q.data = .ok j) (hsent : q.sent < j.d.outers)
    (h1 : (if q.sent = 0 then j.listFits (m.venv c x) else pure ()).exec m = (.ok (), m1))
    (h2 : (j.load (m.venv c x) q.sent).exec m1 = (.ok r, m2))
    (hw : Claims.UnitWritten c (j.rowWrites r q.sent q.ids) (j.unlatch c.cell (j.entries c.cell q.sent r
      (m2.modProg (s.progId c) (fun y => { y with cr := { y.cr with rmode := y.cr.rmode ||| r.flags.toWord } })))) s1)
    (hp : s1.progId c = s.progId c) (hdone : j.d.outers ≤ q.sent + 1 → s1.writesDone (s.progId c) = true) :
    Happens s (.mplane a b) fun t =>
      UnitDone s1 t c (s.progId c) Flags.none (decide (j.d.outers ≤ q.sent + 1))
        { q with stage := 8, sent := q.sent + 1, ids := r.list q.ids q.sent } ∧
      (j.d.outers ≤ q.sent + 1 → ∀ f < 4, ∀ k ∈ t.score c.cell f, k / 2 ≠ s.progId c) ∧
      ∀ k, ∃ o, t.cell k = { s1.cell k with accOwner := o } := by
  obtain ⟨u, hu, hm, hat⟩ := withDescs_at h
  have hrun : RunsMatrix s c x (.mplane a b) [a.toNat, b.toNat] (fun c x s => mplaneBody c x a.toNat b.toNat s) :=
    runsMatrix_of_at h ha hc rfl
  have hprog : m.progId c = s.progId c := by rw [hm, (EngineChange.checked u c _).progId, hat.change.progId]
  have hexec : ((do
      let r ← j.run (m.venv c x) q.sent q.ids
      pure { q with ids := r.1, writes := r.2 }) : M Pending).exec m =
      (.ok { q with ids := r.list q.ids q.sent, writes := j.rowWrites r q.sent q.ids }, j.unlatch c.cell (j.entries c.cell q.sent r
        (m2.modProg (s.progId c) (fun y => { y with cr := { y.cr with rmode := y.cr.rmode ||| r.flags.toWord } })))) := by
    rw [M.exec_bind, j.run_exec q.ids (State.venv_issuer h.unit x) h1 h2, hprog]
    rfl
  have hbody : mplaneBody c x a.toNat b.toNat s = nextUnit c { q with ids := r.list q.ids q.sent, writes := [] } j.d.outers s1 := by
    refine (hu _).trans ?_
    rw [hat.segs, hj]
    exact hat.matUnit_written (q' := { q with ids := r.list q.ids q.sent, writes := j.rowWrites r q.sent q.ids })
      h.going hsent h.stage (by rw [← hm]; exact hexec) h.whole.2 hw
  refine hrun.nextUnit_done hbody (.refl s1 c) Raises.id (.refl s1 c) h.whole.2 (fun hl => by rw [hp]; exact hdone hl)
    fun t hd hs => ⟨?_, fun hl => ?_, hs.same⟩
  · have h3 : ({ q with stage := 8, sent := q.sent + 1, ids := r.list q.ids q.sent } : Pending) =
        { q with stage := 8, sent := q.sent + 1, ids := r.list q.ids q.sent, writes := [] } := by
      rw [← h.whole.1]
    rw [h3, ← hp]
    exact hd
  · rw [← hp]
    exact hs.score (decide_eq_true hl)

end

theorem tile_rows_move : Claims.TileRowsMove := by
  intro s c a b x q m m1 m2 s1 j r ha hc hat hj hsent h1 h2 p raised s0 size at_ outs hw hp hdone
  refine (mplane_row ha hc hat hj hsent h1 h2 hw hp fun hl => hdone (by omega)).imp fun t ⟨hd, _, hcell⟩ => ⟨hd, ?_, ?_, ?_⟩
  · obtain ⟨o, ho⟩ := hcell c.cell
    rw [ho]
  · obtain ⟨o, ho⟩ := hcell c.cell
    rw [ho]
  · intro hs k _
    have h3 : raised.sclAt c.cell (j.off + 8 * q.sent + 2 * k) = m2.sclAt c.cell (j.off + 8 * q.sent + 2 * k) := by
      rw [State.sclAt, State.cell_of_cells (State.modProg_cells ..), State.sclAt]
    rw [PlaneJob.unlatch_scl, PlaneJob.entries_scl _ _ _ _ _ _ hs, h3]

end Sys2Proof.Machine

namespace Sys2Proof.Machine

/-! ## mst (spec 13, R67, R69, R75, R314) -/

theorem StoreJob.value_toRat (j : StoreJob) (w : Word) :
    (j.value w).finite ∧ (j.value w).toRat = (accV w : ℚ) * (2 : ℚ) ^ ((accX w).getD 0 + j.adj) := by
  refine ⟨trivial, ?_⟩
  rw [StoreJob.value, Num.toRat]
  congr 1
  rcases lt_or_ge (accV w) 0 with h | h
  · have h1 : (((accV w).natAbs : Int) : ℚ) = ((-(accV w) : Int) : ℚ) := by rw [Int.ofNat_natAbs_of_nonpos h.le]
    simp only [h, decide_true, if_true]
    rw [← Int.cast_natCast (R := ℚ), h1]
    push_cast; ring
  · have h1 : (((accV w).natAbs : Int) : ℚ) = ((accV w : Int) : ℚ) := by rw [Int.natAbs_of_nonneg h]
    simp only [not_lt.mpr h, decide_false, Bool.false_eq_true, if_false, one_mul]
    rw [← Int.cast_natCast (R := ℚ), h1]

/-- The elements of a row before column `n`, with what their rounding raises and draws. -/
def StoreJob.rowTo (j : StoreJob) (v : VEnv) (s : State) (r n : Nat) : List (Nat × Nat) × Flags × AL (BitVec 16) :=
  (List.range n).foldl (fun (acc : List (Nat × Nat) × Flags × AL (BitVec 16)) c =>
    let d := v.draw acc.2.2 c
    let q := j.fmt.ofNum v.rd (j.value (s.accAt v.who.cell j.frag (64 * r + c))) d.1
    (acc.1 ++ [(64 * r + c, q.1)], acc.2.1.or q.2, d.2)) ([], Flags.none, (s.cell v.who.cell).mlfsr)

theorem StoreJob.rowTo_succ (j : StoreJob) (v : VEnv) (s : State) (r n : Nat) :
    j.rowTo v s r (n + 1) =
      ((j.rowTo v s r n).1 ++ [(64 * r + n, (j.fmt.ofNum v.rd (j.value (s.accAt v.who.cell j.frag (64 * r + n)))
          (v.draw (j.rowTo v s r n).2.2 n).1).1)],
        (j.rowTo v s r n).2.1.or (j.fmt.ofNum v.rd (j.value (s.accAt v.who.cell j.frag (64 * r + n)))
          (v.draw (j.rowTo v s r n).2.2 n).1).2,
        (v.draw (j.rowTo v s r n).2.2 n).2) := by
  rw [StoreJob.rowTo, List.range_succ, List.foldl_append]
  rfl

/-- Without draws a row is rounded element by element. -/
theorem StoreJob.row_nearest (j : StoreJob) (v : VEnv) (s : State) (r : Nat) (hmode : v.rd.mode < 4) (n : Nat) :
    j.rowTo v s r n = ((List.range n).map (fun k => (64 * r + k, (j.fmt.ofNum v.rd (j.value (s.accAt v.who.cell j.frag (64 * r + k))) 0).1)),
      (List.range n).foldl (fun f k => f.or (j.fmt.ofNum v.rd (j.value (s.accAt v.who.cell j.frag (64 * r + k))) 0).2) Flags.none,
      (s.cell v.who.cell).mlfsr) := by
  have hd : ∀ fs k, v.draw fs k = (0, fs) := fun fs k => by rw [VEnv.draw, if_neg (by omega)]
  induction n with
  | zero => rfl
  | succ n ih =>
    rw [StoreJob.rowTo_succ, ih]
    simp only [hd, List.range_succ, List.map_append, List.foldl_append, List.map_cons, List.map_nil, List.foldl_cons, List.foldl_nil]

/-- Under mode 4 each column takes one draw of its own LFSR. -/
theorem StoreJob.row_draws (j : StoreJob) (v : VEnv) (s : State) (r : Nat) (hmode : v.rd.mode = 4) (n : Nat) :
    (j.rowTo v s r n).1 = (List.range n).map (fun k => (64 * r + k, (j.fmt.ofNum v.rd (j.value (s.accAt v.who.cell j.frag (64 * r + k)))
      (lfsrStep (AL.get 0 (s.cell v.who.cell).mlfsr k)).toNat).1)) ∧
    (∀ k < n, AL.find (j.rowTo v s r n).2.2 k = some (lfsrStep (AL.get 0 (s.cell v.who.cell).mlfsr k))) ∧
    ∀ k, n ≤ k → AL.get 0 (j.rowTo v s r n).2.2 k = AL.get 0 (s.cell v.who.cell).mlfsr k := by
  induction n with
  | zero => exact ⟨rfl, fun k hk => absurd hk (Nat.not_lt_zero k), fun k _ => rfl⟩
  | succ n ih =>
    obtain ⟨h1, h2, h3⟩ := ih
    have hd : v.draw (j.rowTo v s r n).2.2 n = ((lfsrStep (AL.get 0 (s.cell v.who.cell).mlfsr n)).toNat,
        AL.put (j.rowTo v s r n).2.2 n (lfsrStep (AL.get 0 (s.cell v.who.cell).mlfsr n))) := by
      rw [VEnv.draw, if_pos hmode, drawOf, h3 n (le_refl n)]
    rw [StoreJob.rowTo_succ, hd]
    refine ⟨?_, fun k hk => ?_, fun k hk => ?_⟩
    · rw [List.range_succ, List.map_append, ← h1]; rfl
    · dsimp only
      rw [AL.find_put]
      by_cases hkn : n = k
      · rw [if_pos hkn, hkn]
      · rw [if_neg hkn, h2 k (by omega)]
    · dsimp only
      rw [AL.get_put_ne _ _ _ (by omega), h3 k (by omega)]

theorem Fmt.bits_cases (f : Fmt) : f.bits = 4 ∨ f.bits = 8 ∨ f.bits = 16 ∨ f.bits = 32 ∨ f.bits = 64 := by
  cases f <;> decide

theorem StoreJob.writeOf_eq (j : StoreJob) {r k : Nat} (hr : r < 32) (hk : k < 64) (e : Nat) (h8 : 8 ≤ j.fmt.bits) :
    j.shape.writeOf (64 * r + k) e =
      [.mem (j.d.base.toNat + (k * j.d.cstr + r * j.d.rstr) * (j.fmt.bits / 8 : Nat)) (leBytes (j.fmt.bits / 8) e) none j.d.cls] := by
  have hi : j.shape.index (64 * r + k) = k * j.d.cstr + r * j.d.rstr := by
    have h1 : (64 * r + k) % 64 = k := by omega
    have h2 : (64 * r + k) / 64 % 32 = r := by omega
    rw [StoreJob.shape, Shape.index, tileShape, elemIndex, elemIndex, elemIndex, h1, h2, add_zero]
    · nofun
  have hb : (j.fmt.bits + 7) / 8 = j.fmt.bits / 8 := by
    rcases j.fmt.bits_cases with h | h | h | h | h <;> rw [h] at h8 ⊢
    omega
  have h4 : ¬ j.fmt.bits = 4 := by omega
  have hsb : j.shape.bits = j.fmt.bits := rfl
  have hl : j.shape.loc = 0 := rfl
  rw [Shape.writeOf, hl, hsb, hi, hb, if_neg (by decide), if_pos rfl, if_neg h4, elemPlace, if_neg h4]
  rfl

/-- The rows of `mst` (R75, R314). -/
theorem store_rows (j : StoreJob) (v : VEnv) (s : State) (r : Nat) (hr : r < 32) :
    let w := fun (k : Nat) => s.accAt v.who.cell j.frag (64 * r + k)
    (∀ k, (j.value (w k)).finite ∧ (j.value (w k)).toRat = (accV (w k) : ℚ) * (2 : ℚ) ^ ((accX (w k)).getD 0 + j.adj)) ∧
    (v.rd.mode < 4 → (j.row v s r).1 = (List.range 64).map (fun k => (64 * r + k, (j.fmt.ofNum v.rd (j.value (w k)) 0).1)) ∧
      (j.row v s r).2.1 = (List.range 64).foldl (fun f k => f.or (j.fmt.ofNum v.rd (j.value (w k)) 0).2) Flags.none ∧
      (j.row v s r).2.2 = (s.cell v.who.cell).mlfsr) ∧
    (v.rd.mode = 4 →
      let d := fun (k : Nat) => lfsrStep (AL.get 0 (s.cell v.who.cell).mlfsr k)
      (j.row v s r).1 = (List.range 64).map (fun k => (64 * r + k, (j.fmt.ofNum v.rd (j.value (w k)) (d k).toNat).1)) ∧
      ∀ k < 64, AL.find (j.row v s r).2.2 k = some (d k)) ∧
    ∀ k < 64, ∀ e, 8 ≤ j.fmt.bits → j.shape.writeOf (64 * r + k) e =
      [.mem (j.d.base.toNat + (k * j.d.cstr + r * j.d.rstr) * (j.fmt.bits / 8 : Nat)) (leBytes (j.fmt.bits / 8) e) none j.d.cls] := by
  have hrow : j.row v s r = j.rowTo v s r 64 := rfl
  refine ⟨fun k => j.value_toRat _, fun hm => ?_, fun hm => ?_, fun k hk e h8 => j.writeOf_eq hr hk e h8⟩
  · rw [hrow, j.row_nearest v s r hm 64]
    exact ⟨rfl, rfl, rfl⟩
  · obtain ⟨h1, h2, -⟩ := j.row_draws v s r hm 64
    exact ⟨h1, h2⟩

/-! ### A row of mst as a unit of work -/

/-- The writes of a row are made in its order where no two elements meet. -/
theorem StoreJob.writes_exec (j : StoreJob) {v : VEnv} {r : List (Nat × Nat) × Flags × AL (BitVec 16)} {m : State} {p : Nat}
    (hi : v.who.issuer = .prog p)
    (hmeet : selfMeet (j.fmt.bits / 8) (r.1.map (fun e => (elemPlace j.d.base (j.shape.index e.1) j.fmt.bits).1)) = false ∨
      j.fmt.bits = 4) :
    (j.writes v r).exec m = (.ok (r.1.flatMap (fun e => j.shape.writeOf e.1 e.2)),
      (m.modProg p (fun y => { y with cr := { y.cr with rmode := y.cr.rmode ||| r.2.1.toWord } })).modCell v.who.cell
        (fun y => { y with mlfsr := r.2.2 })) := by
  have hres : (resultsOf v j.shape 0 r.1 []).writes = r.1.flatMap (fun e => j.shape.writeOf e.1 e.2) := by
    have hl : ¬ j.shape.loc = 1 := by show ¬ (0 : Nat) = 1; decide
    have hr : ∀ e, j.shape.range e = some (0, (elemPlace j.d.base (j.shape.index e) j.fmt.bits).1,
      (elemPlace j.d.base (j.shape.index e) j.fmt.bits).1 + ((j.fmt.bits + 7) / 8 : Nat)) := fun _ => rfl
    have hb : (if j.shape.loc = 2 then 1 else j.shape.bits / 8) = j.fmt.bits / 8 := rfl
    have hm : (j.shape.bits != 4 && selfMeet (j.fmt.bits / 8)
        (r.1.map (fun e => (elemPlace j.d.base (j.shape.index e.1) j.fmt.bits).1))) = false := by
      rcases hmeet with h | h
      · rw [h, Bool.and_false]
      · have h2 : j.shape.bits = 4 := h
        rw [h2]; rfl
    simp only [resultsOf, hl, hr, hb, hm, if_false, Bool.false_eq_true]
  rw [StoreJob.writes, M.exec_bind, VEnv.raise_exec hi]
  dsimp only
  rw [M.exec_bind, M.exec_state]
  dsimp only
  rw [M.exec_bind, M.exec_put]
  dsimp only
  rw [M.exec_pure, hres]

theorem MatCheck.go_ok {α : Type} (x : α) (c : Ctx) (s : State) (k : α → Issued) : (MatCheck.ok x).go c s k = k x := rfl

/-- What clears the fragment after the last row. -/
def StoreJob.fin (j : StoreJob) (c : Ctx) (s : State) : State := if j.clr then s.clearFrag c.cell j.frag else s

theorem StoreJob.fin_change (j : StoreJob) (c : Ctx) (s : State) : EngineChange s (j.fin c s) c id := by
  rw [StoreJob.fin]
  split
  · exact .clearFrag ..
  · exact .refl ..

theorem StoreJob.fin_acc (j : StoreJob) (c : Ctx) (s : State) (f k : Nat) (hk : k < 2048) :
    (j.fin c s).accAt c.cell f k = if j.clr = true ∧ f = j.frag then accUnset else s.accAt c.cell f k := by
  rw [StoreJob.fin]
  split
  next h => rw [State.accAt_clearFrag _ _ _ _ _ hk]; simp [h]
  next h => simp [h]

theorem StoreJob.fin_mlfsr (j : StoreJob) (c : Ctx) (s : State) : ((j.fin c s).cell c.cell).mlfsr = (s.cell c.cell).mlfsr := by
  rw [StoreJob.fin]
  split
  · rw [State.clearFrag, State.cell_modCell_same]
  · rfl

section
variable {s m s1 : State} {c : Ctx} {x : Prog} {a b : ERegNum} {q : Pending} {j : StoreJob}

theorem mst_row (ha : s.At c) (hc : s.Clear c .no [(a.toNat : Int), (b.toNat : Int)]) (h : s.MatrixAt c x [a.toNat] q m)
    (hj : mstCheck x (s.segsOf c.cell) q.data (s.reg c b.toNat) = .ok j) (hst : q.stage = 8) (hsent : q.sent < 32)
    {row : List (Nat × Nat) × Flags × AL (BitVec 16)} (hrow : j.row (m.venv c x) m q.sent = row)
    (hw : Claims.UnitWritten c (row.1.flatMap (fun e => j.shape.writeOf e.1 e.2))
      ((m.modProg (s.progId c) (fun y => { y with cr := { y.cr with rmode := y.cr.rmode ||| row.2.1.toWord } })).modCell
        c.cell (fun y => { y with mlfsr := row.2.2 })) s1)
    (hmeet : selfMeet (j.fmt.bits / 8) (row.1.map
      (fun e => (elemPlace j.d.base (j.shape.index e.1) j.fmt.bits).1)) = false ∨ j.fmt.bits = 4)
    (hp : s1.progId c = s.progId c) (hdone : q.sent = 31 → s1.writesDone (s.progId c) = true) :
    Happens s (.mst a b) fun t =>
      UnitDone s1 t c (s.progId c) Flags.none (decide (32 ≤ q.sent + 1)) { q with stage := 8, sent := q.sent + 1 } ∧
      Stands s1 t c (s.progId c) (decide (32 ≤ q.sent + 1)) (j.fin c) := by
  obtain ⟨u, hu, hm, hat⟩ := withDescs_at h
  have hrun : RunsMatrix s c x (.mst a b) [a.toNat, b.toNat] (fun c x s => mstBody c x a.toNat b.toNat s) :=
    runsMatrix_of_at h ha hc rfl
  have hprog : m.progId c = s.progId c := by rw [hm, (EngineChange.checked u c _).progId, hat.change.progId]
  have hexec : ((do
      let ws ← j.writes (m.venv c x) (j.row (m.venv c x) m q.sent)
      pure { q with writes := ws }) : M Pending).exec m =
      (.ok { q with writes := row.1.flatMap (fun e => j.shape.writeOf e.1 e.2) },
      (m.modProg (s.progId c) (fun y => { y with cr := { y.cr with rmode := y.cr.rmode ||| row.2.1.toWord } })).modCell
        c.cell (fun y => { y with mlfsr := row.2.2 })) := by
    rw [hrow, M.exec_bind, j.writes_exec (State.venv_issuer h.unit x) hmeet, hprog]
    rfl
  have hbody : mstBody c x a.toNat b.toNat s = nextUnit c { q with writes := [] } 32 s1 (j.fin c) := by
    refine (hu _).trans ?_
    rw [hat.segs, hat.change.reg h.unit, hj, MatCheck.go_ok, withScore_running _ hst]
    exact hat.matUnit_written (q' := { q with writes := row.1.flatMap (fun e => j.shape.writeOf e.1 e.2) })
      h.going hsent (Or.inr hst) (by rw [← hm]; exact hexec) h.whole.2 hw
  refine hrun.nextUnit_done hbody (.refl s1 c) Raises.id (j.fin_change c s1) h.whole.2
    (fun hl => by rw [hp]; exact hdone (by dsimp only at hl; omega)) fun t hd hs => ⟨?_, by rw [← hp]; exact hs⟩
  have h3 : ({ q with stage := 8, sent := q.sent + 1 } : Pending) = { q with stage := 8, sent := q.sent + 1, writes := [] } := by
    rw [← h.whole.1]
  rw [h3, ← hp]
  exact hd

theorem tile_rows_are_stored : Claims.TileRowsAreStored := by
  refine ⟨?_, fun j v s r hr => store_rows j v s r hr⟩
  intro s c a b x q m s1 j ha hc hat hj hst hsent
  dsimp only
  generalize hrow : j.row (m.venv c x) m q.sent = row
  intro hw hmeet hp hdone
  refine (mst_row ha hc hat hj hst hsent hrow hw hmeet hp hdone).imp fun t ⟨hd, hs⟩ => ⟨?_, ?_, fun f _ k hk => ?_⟩
  · have h1 : decide (q.sent = 31) = decide (32 ≤ q.sent + 1) := decide_eq_decide.mpr (by omega)
    rw [h1]
    exact hd
  · obtain ⟨o, ho⟩ := hs.cell c.cell
    rw [ho]
    dsimp only
    split
    · exact j.fin_mlfsr c s1
    · rfl
  · obtain ⟨o, ho⟩ := hs.cell c.cell
    have h1 : t.accAt c.cell f k = (if decide (32 ≤ q.sent + 1) then j.fin c s1 else s1).accAt c.cell f k := by
      rw [State.accAt, ho, State.accAt]
    rw [h1]
    by_cases hl : q.sent = 31
    · rw [decide_eq_true (by omega), if_pos rfl, j.fin_acc c s1 f k hk]
      simp only [hl, true_and]
    · rw [decide_eq_false (by omega), if_neg Bool.false_ne_true, if_neg fun h => hl h.1]

end

end Sys2Proof.Machine

namespace Sys2Proof.Machine

/-! ## Tile operations (spec 13, R306, R310 to R312) -/

/-- Two changes of the engines from one state: the second seen from where the first led. -/
theorem EngineChange.rebase {s s' t : State} {c : Ctx} {f : Prog → Prog} (h : EngineChange s t c f) (k : EngineChange s s' c id) :
    EngineChange s' t c f where
  cells j hj := (h.cells j hj).trans (k.cells j hj).symm
  cell := by
    have h1 := congrArg (fun y : Cell => y.workOf (s'.cell c.cell)) h.cell
    have h2 := congrArg (fun y : Cell => y.workOf (s'.cell c.cell)) k.cell
    exact h1.trans h2.symm
  rest := by
    have h1 := congrArg (fun y : State => { y with cells := s'.cells, progs := s'.progs, waits := s'.waits }) h.rest
    have h2 := congrArg (fun y : State => { y with cells := s'.cells, progs := s'.progs, waits := s'.waits }) k.rest
    exact h1.trans h2.symm
  others r hr := by
    rw [k.progId] at hr
    exact (h.others r hr).trans (k.others r hr).symm
  prog := by
    have h1 := k.prog
    rw [Option.map_id] at h1
    have h2 : AL.find s'.progs (s.progId c) = AL.find s.progs (s.progId c) := h1
    rw [k.progId, h.prog, h2]

theorem SameAccs.trans {s t u : State} {k : Nat} (h : SameAccs s t k) (g : SameAccs t u k) : SameAccs s u k :=
  fun f j hj => (g f j hj).trans (h f j hj)

/-- The program of a group goes on in `u` with what it has done so far; its cell has changed in its scoreboards and its latch at most. -/
structure Resumes (s u : State) (c : Ctx) (q : Pending) : Prop where
  change : EngineChange s u c (fun y => { y with pend := some q })
  work   : ∃ o l, u.cell c.cell = { s.cell c.cell with accOwner := o, latch := l }

theorem AtUnit.resumes {s u : State} {c : Ctx} {x : Prog} {q : Pending} (h : AtUnit s u c x q) : Resumes s u c q :=
  ⟨h.change, _, _, h.cell c.cell⟩

theorem Resumes.naming {s u : State} {c : Ctx} {x : Prog} {q : Pending} (h : Resumes s u c q) (hx : AL.find s.progs (s.progId c) = some x) :
    u.namingOf (.prog (u.progId c)) = x.naming := by
  have h1 : AL.find u.progs (u.progId c) = some { x with pend := some q } := by rw [h.change.progId, h.change.prog, hx]; rfl
  exact (State.namingOf_prog h1).trans rfl

theorem Resumes.mayCheck {s u : State} {c : Ctx} {q : Pending} (h : Resumes s u c q) (sc : BitVec 32) :
    u.mayCheck c.cell sc = s.mayCheck c.cell sc ∧ u.cancelledAt c.cell sc = s.cancelledAt c.cell sc := by
  obtain ⟨o, l, hw⟩ := h.work
  simp only [State.mayCheck, State.cancelledAt, State.unitAnswer, State.notified, hw, and_self]

theorem Resumes.accs {s u : State} {c : Ctx} {q : Pending} (h : Resumes s u c q) : SameAccs s u c.cell := by
  obtain ⟨o, l, hw⟩ := h.work
  exact .of_cell (by rw [hw])

section
variable {s u : State} {c : Ctx} {x : Prog} {q : Pending} {m : MatRun}

/-- A tile operation whose operands are read is at its next unit. -/
theorem withDescs_again {regs : List Nat} (hu : c.unit = .engine .matrix) (hx : AL.find s.progs (s.progId c) = some x) (hp : x.pend = some q)
    (hlen : q.data.length = 32 * regs.length) (hwait : s.memWait c = .none) :
    (∀ k : Pending → State → Issued, withDescs c (s.recordAddrs c regs) s k = k q (s.setPend c q)) ∧ AtUnit s (s.setPend c q) c x q := by
  refine ⟨fun k => ?_, .setPend hu q hx (.refl ..) rfl hwait⟩
  rw [withDescs, withRecords_again (q := q) ?_ (by decide) hlen]
  simp only [State.pendOf, hu, hx, hp]
  rfl

/-- A unit of a tile operation, from its boundary on. -/
theorem runTile_goes (hx : AL.find s.progs (s.progId c) = some x) (h : Resumes s u c q) (hgo : s.Uncancelled c x) :
    runTile c m q u = nextUnit c q m.units ((m.unit c.cell q.sent (u.checked c.cell x.naming.scope)).1.progRaise c
      (asFlag (m.unit c.cell q.sent (u.checked c.cell x.naming.scope)).2)) := by
  obtain ⟨h1, h2⟩ := h.mayCheck x.naming.scope
  rw [runTile, atUnit, h.naming hx]
  exact cancelCheck_goes _ _ (h1.trans hgo.1) (h2.trans hgo.2)

theorem runTile_cancelled (hx : AL.find s.progs (s.progId c) = some x) (h : Resumes s u c q) (h1 : s.mayCheck c.cell x.naming.scope = true)
    (h2 : s.cancelledAt c.cell x.naming.scope = true) : runTile c m q u = cancelProg c (u.checked c.cell x.naming.scope) := by
  obtain ⟨h4, h5⟩ := h.mayCheck x.naming.scope
  rw [runTile, atUnit, h.naming hx]
  exact cancelCheck_cancelled _ _ (h4.trans h1) (h5.trans h2)

/-- What a unit of a tile operation makes of the engine. -/
theorem unit_change (m : MatRun) (c : Ctx) (n : Nat) (b : State) :
    EngineChange b ((m.unit c.cell n b).1.progRaise c (asFlag (m.unit c.cell n b).2)) c
      (fun p => { p with cr := { p.cr with rmode := p.cr.rmode ||| (asFlag (m.unit c.cell n b).2).toWord } }) :=
  (EngineChange.of_accChange (m.unit_accChange c.cell n b)).after (.progRaise ..)

theorem SameAccs.of_stands {s2 t : State} {r : Nat} {last : Bool} (h : Stands s2 t c r last id) : SameAccs s2 t c.cell := by
  obtain ⟨o, ho⟩ := h.same c.cell
  exact .of_cell (by rw [ho])

theorem SameAccs.progRaise (s : State) (c : Ctx) (fl : Flags) (k : Nat) : SameAccs s (s.progRaise c fl) k :=
  .of_cell (by rw [State.progRaise_cell])

theorem SameAccs.checked (s : State) (c : Ctx) (sc : BitVec 32) : SameAccs s (s.checked c.cell sc) c.cell :=
  .of_cell (s.checked_accs c.cell sc)

variable {a b : ERegNum} {i : Instr} {body : Ctx → Prog → State → Issued}

/-- A matrix instruction whose body comes to the next unit of a tile operation makes that unit. -/
theorem tile_unit_made (h : RunsMatrix s c x i [a.toNat, b.toNat] body) (hb : body c x s = runTile c m q u) (hat : Resumes s u c q)
    (hgo : s.Uncancelled c x) (he : q.err = none) (hw : m.units ≤ q.sent + 1 → s.writesDone (s.progId c) = true) :
    Happens s i fun t =>
      SameAccs (m.unit c.cell q.sent (u.checked c.cell x.naming.scope)).1 t c.cell ∧
      UnitDone (u.checked c.cell x.naming.scope) t c (s.progId c) (asFlag (m.unit c.cell q.sent (u.checked c.cell x.naming.scope)).2)
        (decide (m.units ≤ q.sent + 1)) { q with stage := 8, sent := q.sent + 1 } ∧
      (m.units ≤ q.sent + 1 → ∀ f < 4, ∀ k ∈ t.score c.cell f, k / 2 ≠ s.progId c) := by
  have hch := hat.change.then (.checked u c x.naming.scope)
  rw [runTile_goes h.prog hat hgo] at hb
  refine h.nextUnit_done hb (unit_change ..) (Raises.flags _) (.refl ..) he (fun hl => by rw [hch.progId, hch.writesDone]; exact hw hl)
    fun t hd hs => ⟨?_, by rw [← hch.progId]; exact hd, fun hl => by rw [← hch.progId]; exact hs.score (decide_eq_true hl)⟩
  exact (SameAccs.progRaise _ c _ c.cell).trans (.of_stands hs)

/-- A cancelled program ends before the unit, and leaves the fragment as it is. -/
theorem tile_unit_cancelled (h : RunsMatrix s c x i [a.toNat, b.toNat] body) (hb : body c x s = runTile c m q u) (hat : Resumes s u c q)
    (h1 : s.mayCheck c.cell x.naming.scope = true) (h2 : s.cancelledAt c.cell x.naming.scope = true) :
    Happens s i fun t => SameAccs s t c.cell ∧ t.mem = s.mem ∧
      ∃ z, AL.find t.progs (s.progId c) = some z ∧ z.life = .ending ∧ z.pend = none := by
  have hch := hat.change.then (.checked u c x.naming.scope)
  rw [runTile_cancelled h.prog hat h1 h2] at hb
  refine (h.cancelled hb hch).imp fun t ⟨hmem, hcell, hz⟩ => ⟨?_, hmem, hz⟩
  obtain ⟨o, ho⟩ := hcell c.cell
  refine hat.accs.trans ((SameAccs.checked u c x.naming.scope).trans (.of_cell (by rw [ho])))

theorem runsMatrix_mmul (hu : c.unit = .engine .matrix) (ha : s.At c) (hc : s.Clear c .no [(a.toNat : Int), (b.toNat : Int)])
    (hx : AL.find s.progs (s.progId c) = some x) :
    RunsMatrix s c x (.mmul a b) [a.toNat, b.toNat] (fun c x s => mmulBody c x a.toNat b.toNat s) := ⟨hu, ha, hc, hx, rfl⟩

theorem runsMatrix_mgang (hu : c.unit = .engine .matrix) (ha : s.At c) (hc : s.Clear c .no [(a.toNat : Int), (b.toNat : Int)])
    (hx : AL.find s.progs (s.progId c) = some x) :
    RunsMatrix s c x (.mgang a b) [a.toNat, b.toNat] (fun c x s => mgangBody c x a.toNat b.toNat s) := ⟨hu, ha, hc, hx, rfl⟩

/-- A tile operation with its operands read, on its own or behind the passes of its gang. -/
theorem tile_running (hu : c.unit = .engine .matrix) (ha : s.At c) (hc : s.Clear c .no [(a.toNat : Int), (b.toNat : Int)])
    (hx : AL.find s.progs (s.progId c) = some x) (hwait : s.memWait c = .none) (hp : x.pend = some q) (hlen : q.data.length = 64)
    (hm : q.mat = some m) (hst : q.stage = 8) (hi : i = .mmul a b ∨ (i = .mgang a b ∧ 0 < q.sent)) :
    ∃ body, RunsMatrix s c x i [a.toNat, b.toNat] body ∧ body c x s = runTile c m q (s.setPend c q) ∧ Resumes s (s.setPend c q) c q := by
  have hat := (withDescs_again (regs := [a.toNat, b.toNat]) hu hx hp hlen hwait).2.resumes
  rcases hi with rfl | ⟨rfl, hsent⟩
  · refine ⟨_, runsMatrix_mmul hu ha hc hx, ?_⟩
    refine ⟨((withDescs_again (regs := [a.toNat, b.toNat]) hu hx hp hlen hwait).1 _).trans ?_, hat⟩
    rw [hm]
    exact withScore_running _ hst
  · refine ⟨_, runsMatrix_mgang hu ha hc hx, ?_⟩
    have h11 : ¬ q.stage = 11 := by omega
    have h0 : ¬ q.sent = 0 := by omega
    refine ⟨((withDescs_again (regs := [a.toNat, b.toNat]) hu hx hp hlen hwait).1 _).trans ?_, hat⟩
    rw [if_neg h11, hm]
    refine (withScore_running _ hst).trans ?_
    rw [if_neg h0]

end

end Sys2Proof.Machine

namespace Sys2Proof.Machine

/-! ## The first issue of a tile operation (spec 13, R304, R305, R310, R311) -/

theorem matPlaces_ok {α : Type} {segs : List Seg} {al areas : List (Addr × Nat)} {x y : α} (h : matPlaces segs al areas x = .ok y) : y = x := by
  rw [matPlaces] at h
  split at h
  · cases h
  · split at h
    · cases h
    · cases h; rfl

theorem planeDescOf_frag {bs : List Byte} {d : PlaneDesc} (h : planeDescOf bs = some d) : d.frag < 4 := by
  rw [planeDescOf] at h
  split at h
  · cases h
    exact Nat.mod_lt _ (by decide)
  · cases h

theorem tileCheck_frag {x : Prog} {segs : List Seg} {bs : List Byte} {src : PlaneDesc → Bool} {j : TileJob}
    (h : tileCheck x segs bs src = .ok j) : j.a.frag < 4 := by
  rw [tileCheck] at h
  rcases ha : planeDescOf (bs.take 32) with _ | a
  · rw [ha] at h; cases h
  rcases hb : planeDescOf (bs.drop 32) with _ | b
  · rw [ha, hb] at h; cases h
  rcases hfb : opFmt x.cr.fmtB with _ | fb
  · rw [ha, hb, hfb] at h
    dsimp only at h
    split at h <;> cases h
  rw [ha, hb, hfb] at h
  generalize opFmt x.cr.fmtA = fa at h
  dsimp only at h
  by_cases h1 : (a.b || !b.b || !b.plainB) = true
  · rw [if_pos h1] at h; cases h
  rw [if_neg h1] at h
  by_cases h2 : (src a && fa.isNone) = true
  · rw [if_pos h2] at h; cases h
  rw [if_neg h2] at h
  generalize (if src a = true then fa else none) = f at h
  generalize (!_ || _ : Bool) = bad at h
  cases bad with
  | true => cases h
  | false =>
    rw [matPlaces_ok h]
    exact planeDescOf_frag ha

section
variable {s : State} {c : Ctx} {x : Prog} {bs : List Byte} {m : MatRun} {l : Latch} {f : Nat}

/-- The state in which the operands of a tile operation are read: at its fragment's scoreboard, with its descriptors. -/
def State.tileReach (s : State) (c : Ctx) (bs : List Byte) (f : Nat) : State :=
  ((s.endWait (s.req c)).setPend c { Pending.zero with data := bs }).reachScore c.cell (s.progId c) [f]

/-- The state once they are read. -/
def State.tileRead (s : State) (c : Ctx) (bs : List Byte) (f : Nat) (m : MatRun) (l : Latch) : State :=
  (((s.tileReach c bs f).endWait ((s.tileReach c bs f).req c)).modCell c.cell (fun y => { y with latch := some l })).setPend c
    { Pending.zero with data := bs, mat := some m }

theorem State.tileReach_change (hu : c.unit = .engine .matrix) (s : State) (bs : List Byte) (f : Nat) :
    EngineChange s (s.tileReach c bs f) c (fun y => { y with pend := some { Pending.zero with data := bs } }) :=
  ((EngineChange.endWait s c (s.req c)).after (.setPend hu _ _)).then (.reachScore ..)

theorem State.tileReach_cell (hu : c.unit = .engine .matrix) (s : State) (bs : List Byte) (f : Nat) :
    ∃ o, (s.tileReach c bs f).cell c.cell = { s.cell c.cell with accOwner := o } := by
  obtain ⟨o, ho⟩ := ((s.endWait (s.req c)).setPend c { Pending.zero with data := bs }).reachScore_cell c.cell (s.progId c) c.cell [f]
  exact ⟨o, by rw [State.tileReach, ho, State.setPend_cell hu]; rfl⟩

theorem State.tileReach_score (hu : c.unit = .engine .matrix) (s : State) (bs : List Byte) (f : Nat) (hf : s.score c.cell f = []) :
    (s.tileReach c bs f).score c.cell f = [2 * s.progId c + 1] := by
  have h1 : ((s.endWait (s.req c)).setPend c { Pending.zero with data := bs }).score c.cell f = [] := by
    rw [State.score, State.setPend_cell hu]; exact hf
  rw [State.tileReach, State.score_reachScore _ _ _ _ (fun g hg => by rw [List.mem_singleton.mp hg]; exact Or.inl h1), if_pos (List.mem_singleton_self f)]

theorem State.reachScore_waits (s : State) (c p : Nat) (frags : List Nat) : (s.reachScore c p frags).waits = s.waits := by
  have h := (EngineChange.refl s ⟨c, .scalar, 0, Site.zero⟩)
  induction frags generalizing s with
  | nil => rfl
  | cons g frags ih =>
    rw [State.reachScore, List.foldl_cons]
    refine (ih _ (.refl ..)).trans ?_
    dsimp only
    split <;> rfl

theorem State.tileReach_wait (hu : c.unit = .engine .matrix) (s : State) (bs : List Byte) (f : Nat) (hw : s.memWait c = .none) :
    (s.tileReach c bs f).memWait c = .none := by
  have h1 : (s.tileReach c bs f).waits = (s.endWait (s.req c)).waits := by
    rw [State.tileReach, State.reachScore_waits]
    simp [State.setPend, hu]
  have h2 : (s.tileReach c bs f).req c = (s.endWait (s.req c)).req c :=
    (State.tileReach_change hu s bs f).req.trans (EngineChange.endWait s c (s.req c)).req.symm
  rw [State.memWait_of_waits h1 h2, State.memWait_endWait s c _ hw]

theorem EngineChange.latch (s : State) (c : Ctx) (l : Latch) : EngineChange s (s.modCell c.cell (fun y => { y with latch := some l })) c id :=
  .of_modCell s c (fun y => { y with latch := some l }) fun _ => rfl

theorem State.tileRead_change (hu : c.unit = .engine .matrix) (s : State) (bs : List Byte) (f : Nat) (m : MatRun) (l : Latch) :
    EngineChange s (s.tileRead c bs f m l) c (fun y => { y with pend := some { Pending.zero with data := bs, mat := some m } }) := by
  have h1 := State.tileReach_change hu s bs f
  rw [State.tileRead]
  generalize s.tileReach c bs f = u at h1
  have h2 := (h1.then (.endWait u c (u.req c))).then (.latch _ c l)
  exact h2.trans (.setPend hu _ _)

theorem State.tileRead_cell (hu : c.unit = .engine .matrix) (s : State) (bs : List Byte) (f : Nat) (m : MatRun) (l : Latch) :
    (s.tileRead c bs f m l).cell c.cell = { (s.tileReach c bs f).cell c.cell with latch := some l } := by
  rw [State.tileRead, State.setPend_cell hu, State.cell_modCell_same]
  rfl

/-- The state in which it holds its fragment. -/
def State.tileHeld (s : State) (c : Ctx) (bs : List Byte) (f : Nat) (m : MatRun) (l : Latch) : State :=
  ((s.tileRead c bs f m l).reachScore c.cell ((s.tileRead c bs f m l).progId c) [f]).setPend c
    { Pending.zero with data := bs, mat := some m, stage := 8 }

theorem State.tileHeld_resumes (hu : c.unit = .engine .matrix) (s : State) (bs : List Byte) (f : Nat) (m : MatRun) (l : Latch) :
    Resumes s (s.tileHeld c bs f m l) c { Pending.zero with data := bs, mat := some m, stage := 8 } ∧
    ((s.tileHeld c bs f m l).cell c.cell).latch = some l := by
  obtain ⟨o1, h1⟩ := State.tileReach_cell hu s bs f
  obtain ⟨o2, h2⟩ := (s.tileRead c bs f m l).reachScore_cell c.cell ((s.tileRead c bs f m l).progId c) c.cell [f]
  have h3 : (s.tileHeld c bs f m l).cell c.cell = { s.cell c.cell with accOwner := o2, latch := some l } := by
    rw [State.tileHeld, State.setPend_cell hu, h2, State.tileRead_cell hu, h1]
  exact ⟨⟨((State.tileRead_change hu s bs f m l).then (.reachScore ..)).trans (.setPend hu _ _), o2, some l, h3⟩, by rw [h3]⟩

/-- The program holds its fragment, which was free. -/
theorem withScore_tile (hu : c.unit = .engine .matrix) (hfree : s.score c.cell f = []) (k : Pending → State → Issued) :
    withScore c [f] { Pending.zero with data := bs, mat := some m } (s.tileRead c bs f m l) k =
      k { Pending.zero with data := bs, mat := some m, stage := 8 } (s.tileHeld c bs f m l) := by
  refine withScore_first k rfl fun g hg => ?_
  rw [List.mem_singleton] at hg
  subst hg
  right
  rw [State.score, State.tileRead_cell hu, (State.tileRead_change hu s bs g m l).progId]
  exact State.tileReach_score hu s bs g hfree

/-- The descriptors of a matrix instruction at its first issue. -/
theorem withDescs_first {regs : List Nat} (hu : c.unit = .engine .matrix) (hx : AL.find s.progs (s.progId c) = some x) (hp : x.pend = none)
    (hwait : s.memWait c = .none) (hne : regs ≠ []) (hr : s.RecordsRead c 32 regs bs) (k : Pending → State → Issued) :
    withDescs c (s.recordAddrs c regs) s k =
      k { Pending.zero with data := bs } ((s.endWait (s.req c)).setPend c { Pending.zero with data := bs }) := by
  rw [withDescs, withRecords_first (State.pendOf_fresh hu hx hp) hwait hne hr]

theorem withMemory_goes {α : Type} {r : M α} {y : α} {s1 : State} (hwait : s.memWait c = .none) (hr : r.exec s = (.ok y, s1))
    (k : α → State → Issued) : withMemory c r s k = k y s1 := by
  rw [withMemory, withMemoryKeep, hwait, hr]

/-- What holds where a tile operation finds its operands at hand at its first issue. -/
structure TileFirst (s : State) (c : Ctx) (x : Prog) (regs : List Nat) (bs : List Byte) (j : TileJob) (m : MatRun) (l : Latch) : Prop where
  unit : c.unit = .engine .matrix
  prog : AL.find s.progs (s.progId c) = some x
  pend : x.pend = none
  wait : s.memWait c = .none
  free : ∀ f < 4, s.score c.cell f = []
  recs : s.RecordsRead c 32 regs bs
  read : (j.read (s.tileReach c bs j.a.frag) c.cell x ((s.tileReach c bs j.a.frag).whoGroup c)).exec (s.tileReach c bs j.a.frag) =
    (.ok (some (m, l)), s.tileReach c bs j.a.frag)
  frag : m.frag = j.a.frag

variable {a b : ERegNum} {j : TileJob}

theorem TileFirst.segs (h : TileFirst s c x [a.toNat, b.toNat] bs j m l) :
    ((s.endWait (s.req c)).setPend c { Pending.zero with data := bs }).segsOf c.cell = s.segsOf c.cell ∧
    ((s.endWait (s.req c)).setPend c { Pending.zero with data := bs }).progId c = s.progId c := by
  have hat : AtUnit s ((s.endWait (s.req c)).setPend c { Pending.zero with data := bs }) c x { Pending.zero with data := bs } :=
    .setPend h.unit _ h.prog (.endWait ..) rfl (s.memWait_endWait c _ h.wait)
  exact ⟨hat.segs _, hat.change.progId⟩

/-- `mmul` at its first issue, with its operands at hand. -/
theorem TileFirst.mmulBody (h : TileFirst s c x [a.toNat, b.toNat] bs j m l)
    (hj : tileCheck x (s.segsOf c.cell) bs (fun _ => true) = .ok j) :
    mmulBody c x a.toNat b.toNat s =
      runTile c m { Pending.zero with data := bs, mat := some m, stage := 8 } (s.tileHeld c bs j.a.frag m l) := by
  obtain ⟨h1, h2⟩ := h.segs
  refine (withDescs_first (regs := [a.toNat, b.toNat]) h.unit h.prog h.pend h.wait (List.cons_ne_nil _ _) h.recs _).trans ?_
  dsimp only
  rw [h1, hj, h2]
  refine (withMemory_goes (State.tileReach_wait h.unit s bs j.a.frag h.wait) h.read _).trans ?_
  dsimp only
  rw [h.frag]
  exact withScore_tile h.unit (h.free _ (tileCheck_frag hj)) _

theorem State.checked_latch (s : State) (k : Nat) (sc : BitVec 32) (i : Nat) : ((s.checked k sc).cell i).latch = (s.cell i).latch := by
  rw [State.checked]
  split
  · rw [State.cell_modCell]
    split
    next h => rw [h]
    · rfl
  · rfl

theorem AccChange.latch {t : State} {k : Nat} (h : AccChange s t k) : (t.cell k).latch = (s.cell k).latch := by
  have h1 := congrArg Cell.latch h.cell; exact h1

/-- `mmul` makes its first unit at its first issue. -/
theorem mmul_first (h : RunsMatrix s c x (.mmul a b) [a.toNat, b.toNat] (fun c x s => mmulBody c x a.toNat b.toNat s))
    (hf : TileFirst s c x [a.toNat, b.toNat] bs j m l) (hj : tileCheck x (s.segsOf c.cell) bs (fun _ => true) = .ok j)
    (hgo : s.Uncancelled c x) (hw : m.units ≤ 1 → s.writesDone (s.progId c) = true) :
    Happens s (.mmul a b) fun t => SameAccs (m.unit c.cell 0 s).1 t c.cell ∧ (t.cell c.cell).latch = some l ∧
      UnitDone (s.checked c.cell x.naming.scope) t c (s.progId c) (asFlag (m.unit c.cell 0 s).2) (decide (m.units ≤ 1))
        ⟨8, 1, none, bs, 0, [], some m, 0, [], [], none⟩ := by
  obtain ⟨hat, hlatch⟩ := s.tileHeld_resumes hf.unit bs j.a.frag m l
  have hb := (hf.mmulBody hj).trans (runTile_goes h.prog hat hgo)
  obtain ⟨haccs, hflag⟩ := m.unit_congr 0 (hat.accs.trans (.checked _ c x.naming.scope))
  have hmade := m.unit_accChange c.cell 0 ((s.tileHeld c bs j.a.frag m l).checked c.cell x.naming.scope)
  have hk := EngineChange.checked s c x.naming.scope
  have hch := ((hat.change.then (.checked _ c x.naming.scope)).trans (unit_change m c 0 _)).rebase hk
  refine h.nextUnit_done hb hch ((Raises.flags _).before_setPend _) (.refl ..) rfl
    (fun hl => by rw [hk.progId, hk.writesDone]; exact hw hl) fun t hd hs => ⟨?_, ?_, ?_⟩
  · exact haccs.trans ((SameAccs.progRaise _ c _ c.cell).trans (.of_stands hs))
  · obtain ⟨o, ho⟩ := hs.same c.cell
    rw [ho]
    exact (congrArg Cell.latch (State.progRaise_cell ..)).trans (hmade.latch.trans ((State.checked_latch ..).trans hlatch))
  · rw [hk.progId] at hd
    rw [← hflag]
    exact hd

/-- The state in which a member that holds its fragment has arrived at its join. -/
def State.arrived (s : State) (c : Ctx) (q : Pending) : State :=
  (s.setGang (s.segmentOf c.cell) { s.gang (s.segmentOf c.cell) with
    arrived := (s.gang (s.segmentOf c.cell)).arrived ++ [(c.cell, false)] }).setPend c { q with stage := 11 }

theorem joinGang_arrives {q : Pending} (hg : (s.gang (s.segmentOf c.cell)).running = false) (hq : q.ids = []) :
    joinGang c q s = .stall (s.arrived c q) := by
  rw [joinGang, if_neg (by rw [hg]; exact Bool.false_ne_true), hq]
  rfl

theorem Resumes.segment {u : State} {q : Pending} (h : Resumes s u c q) :
    u.segmentOf c.cell = s.segmentOf c.cell ∧ ∀ k, u.gang k = s.gang k := by
  obtain ⟨o, l, hw⟩ := h.work
  have h1 := congrArg State.gangs h.change.rest
  have h2 : u.gangs = s.gangs := h1
  exact ⟨by rw [State.segmentOf, hw, State.segmentOf], fun k => by rw [State.gang, h2, State.gang]⟩

/-- What a member of a gang does with its operands at hand. -/
def gangReads (c : Ctx) (bs : List Byte) (r : Option (MatRun × Latch)) (s : State) : Issued :=
  match r with
  | none => .trap 0x02 0
  | some (m, l) =>
    let p := { Pending.zero with data := bs, mat := some m }
    withScore c [m.frag] p (((s.endWait (s.req c)).modCell c.cell (fun y => { y with latch := some l })).setPend c p)
      (fun p s => joinGang c p s)

/-- `mgang` at its first issue, with its operands at hand: it arrives at its join. -/
theorem TileFirst.mgangBody (h : TileFirst s c x [a.toNat, b.toNat] bs j m l)
    (hj : tileCheck x (s.segsOf c.cell) bs (fun d => d.srccol == colOf c.cell) = .ok j)
    (hg : (s.gang (s.segmentOf c.cell)).running = false) :
    mgangBody c x a.toNat b.toNat s =
      .stall ((s.tileHeld c bs j.a.frag m l).arrived c { Pending.zero with data := bs, mat := some m, stage := 8 }) := by
  obtain ⟨h1, h2⟩ := h.segs
  obtain ⟨hseg, hgang⟩ := (s.tileHeld_resumes h.unit bs j.a.frag m l).1.segment
  refine (withDescs_first (regs := [a.toNat, b.toNat]) h.unit h.prog h.pend h.wait (List.cons_ne_nil _ _) h.recs _).trans ?_
  dsimp only
  rw [if_neg (show ¬ Pending.zero.stage = 11 by decide), h1, hj, h2, MatCheck.go_ok]
  have harrive : withMemory c (j.read (s.tileReach c bs j.a.frag) c.cell x ((s.tileReach c bs j.a.frag).whoGroup c))
      (s.tileReach c bs j.a.frag) (gangReads c bs) =
        .stall ((s.tileHeld c bs j.a.frag m l).arrived c { Pending.zero with data := bs, mat := some m, stage := 8 }) := by
    rw [withMemory_goes (State.tileReach_wait h.unit s bs j.a.frag h.wait) h.read, gangReads]
    dsimp only
    rw [h.frag]
    refine (withScore_tile (bs := bs) (m := m) (l := l) h.unit (h.free _ (tileCheck_frag hj)) _).trans ?_
    exact joinGang_arrives (by rw [hseg, hgang]; exact hg) rfl
  split
  next m' hm => exact absurd hm (by intro h; cases h)
  next =>
    split
    next s1 va hr => exact absurd (harrive.symm.trans hr) (by intro h; cases h)
    next => exact harrive

/-- `mgang` joins at its first issue. -/
theorem mgang_first (h : RunsMatrix s c x (.mgang a b) [a.toNat, b.toNat] (fun c x s => mgangBody c x a.toNat b.toNat s))
    (hf : TileFirst s c x [a.toNat, b.toNat] bs j m l)
    (hj : tileCheck x (s.segsOf c.cell) bs (fun d => d.srccol == colOf c.cell) = .ok j)
    (hg : (s.gang (s.segmentOf c.cell)).running = false) :
    Happens s (.mgang a b) fun t => t.mem = s.mem ∧ (t.cell c.cell).latch = some l ∧
      (t.gang (s.segmentOf c.cell)).arrived = (s.gang (s.segmentOf c.cell)).arrived ++ [(c.cell, false)] ∧
      ∃ z, AL.find t.progs (s.progId c) = some z ∧ z.pend = some ⟨11, 0, none, bs, 0, [], some m, 0, [], [], none⟩ ∧ z.pc = x.pc := by
  obtain ⟨hat, hlatch⟩ := s.tileHeld_resumes hf.unit bs j.a.frag m l
  obtain ⟨hseg, hgang⟩ := hat.segment
  refine h.stall (hf.mgangBody hj hg) ?_
  have hprog : AL.find (s.tileHeld c bs j.a.frag m l).progs (s.progId c) =
      some { x with pend := some { Pending.zero with data := bs, mat := some m, stage := 8 } } := by
    rw [hat.change.prog, hf.prog]; rfl
  have hid := hat.change.progId
  have hmem := hat.change.mem
  have harr : ∀ (u : State) (q : Pending) (z : Prog), AL.find u.progs (u.progId c) = some z →
      (u.arrived c q).mem = u.mem ∧ (u.arrived c q).cell c.cell = u.cell c.cell ∧
      (u.arrived c q).gang (u.segmentOf c.cell) = { u.gang (u.segmentOf c.cell) with
        arrived := (u.gang (u.segmentOf c.cell)).arrived ++ [(c.cell, false)] } ∧
      AL.find (u.arrived c q).progs (u.progId c) = some { z with pend := some { q with stage := 11 } } := by
    intro u q z hz
    have hset : ∀ g, EngineChange (u.setGang (u.segmentOf c.cell) g) ((u.setGang (u.segmentOf c.cell) g).setPend c { q with stage := 11 }) c
        (fun y => { y with pend := some { q with stage := 11 } }) := fun g => .setPend hf.unit _ _
    refine ⟨(hset _).mem, State.setPend_cell hf.unit .., ?_, ?_⟩
    · exact (congrArg (fun v : State => v.gang (u.segmentOf c.cell)) (hset _).rest).trans (State.gang_setGang ..)
    · exact (hset _).prog.trans (congrArg (Option.map _) hz)
  obtain ⟨h1, h2, h3, h4⟩ := harr _ { Pending.zero with data := bs, mat := some m, stage := 8 } _ (by rw [hid]; exact hprog)
  rw [hid] at h4
  rw [hseg, hgang] at h3
  exact ⟨h1.trans hmem, by rw [h2, hlatch], by rw [h3], _, h4, rfl, rfl⟩

end

theorem tile_operations : Claims.TileOperations := by
  intro s c a b x ha hu hc hx hwait p made
  have hmade : ∀ {r t : State}, SameAccs r t c.cell → made t r := fun h f _ k hk => h f k hk
  refine ⟨fun q m hp hlen hm hst he hsent i hi => ?_, fun bs j m l hp hfree hr => ?_⟩
  · obtain ⟨body, h, hb, hat⟩ := tile_running hu ha hc hx hwait hp hlen hm hst hi
    refine ⟨fun hgo hw => ?_, fun h1 h2 => (tile_unit_cancelled h hb hat h1 h2).imp fun t ⟨h3, h4⟩ => ⟨hmade h3, h4⟩⟩
    exact (tile_unit_made h hb hat hgo he fun hl => hw (decide_eq_true hl)).imp fun t ⟨h3, h4, _⟩ => ⟨hmade h3, h4⟩
  · intro u hread hfrag hunits
    have hf : TileFirst s c x [a.toNat, b.toNat] bs j m l := ⟨hu, hx, hp, hwait, hfree, hr, hread, hfrag⟩
    exact ⟨fun hj hgo hw => (mmul_first (runsMatrix_mmul hu ha hc hx) hf hj hgo hw).imp fun t ⟨h3, h4⟩ => ⟨hmade h3, h4⟩,
      fun hj hg => mgang_first (runsMatrix_mgang hu ha hc hx) hf hj hg⟩

end Sys2Proof.Machine

namespace Sys2Proof.Machine

/-! ## A segment that begins at an odd address (R176, R308, R327)

The scheduler refuses a table whose segments do not begin at multiples of 256 (R327), but the statement that the matrix instructions complete
speaks of every state. Two segments that meet at an odd address map two neighbouring bytes of SRAM one after the other, so that these are a
plain run; yet they lie in two regions, and the straddle check refuses the store of one entry of scale memory to them. -/

/-- Two segments that map the slice of cell 0, the second from the second byte on. -/
def oddSegs : List Seg :=
  [⟨0x1000000, 1, true, true, true, true, 1, false, 0, 0⟩, ⟨0x1000001, 255, true, true, true, true, 1, false, 0x10000, 0⟩]

/-- The site of `mscl`. -/
def oddSite : Site := ⟨0x1000080, 0x1000082, 0, [], 0⟩

/-- The matrix engine of cell 0. -/
def oddCtx : Ctx := ⟨0, .engine .matrix, 0, oddSite⟩

/-- Its program. -/
def oddProg : Prog :=
  ⟨0, .matrix, 1, Naming.zero, 0, 0, 0x1000080, [], 1, FrameCr.reset, .running, 0x1000080, none, none, none, none, none, false, 0, 0, none, []⟩

/-- A state in which it stores one entry of scale memory to the two bytes. -/
def oddState : State :=
  { State.reset with
    fields := [(0, ⟨FieldCtx.zero, oddSegs, 0, [], .running, false, false⟩)],
    cells := [(0, { Cell.reset with fieldV := true, matrix := ⟨[(1, 0x80010000), (2, 0x1000000)], [], some 1⟩ })],
    progs := [(1, oddProg)], nextId := 2, cur := .group 0 (.engine .matrix) 0 oddSite }

/-- The two bytes stand one after the other in SRAM. -/
theorem oddState_plain : oddState.PlainRun (oddState.whoGroup oddCtx) 0x1000000 2 (sliceAddr 0 0) := by
  refine ⟨⟨by decide, by decide, fun k hk need => ?_, fun k hk => ?_, by decide, fun k hk => ?_, fun k hk c hc => ?_⟩, fun k hk => ?_⟩
  · obtain rfl | rfl : k = 0 ∨ k = 1 := by omega
    · cases need <;> decide +kernel
    · cases need <;> decide +kernel
  · obtain rfl | rfl : k = 0 ∨ k = 1 := by omega
    · decide +kernel
    · decide +kernel
  · obtain rfl | rfl : k = 0 ∨ k = 1 := by omega
    · decide +kernel
    · decide +kernel
  · have h0 : ownerCell (sliceAddr 0 0 + k) = some 0 := by
      obtain rfl | rfl : k = 0 ∨ k = 1 := by omega
      · decide +kernel
      · decide +kernel
    rw [h0] at hc
    cases hc
    decide +kernel
  · rfl

/-- What becomes of the program: the store is refused with STRADDLE, and it freezes. -/
theorem oddState_freezes :
    (match exec (.mscl 1 2) oddState with
      | .next t => (AL.find t.progs 1).map Prog.life
      | _ => none) = some .frozen := by
  decide +kernel

theorem not_matrix_instructions_complete : ¬ Claims.MatrixInstructionsComplete := by
  intro h
  obtain ⟨-, hmscl, -⟩ := h oddState oddCtx 1 2 oddProg rfl rfl
    ⟨fun h => absurd h (by decide), by decide, fun h => absurd h (by decide), rfl, fun _ _ hu => absurd hu List.not_mem_nil⟩
    rfl (by decide +kernel) (by decide +kernel) ⟨by decide +kernel, by decide +kernel⟩
  obtain ⟨t, ht, ⟨z, hz, hlife, -⟩, -⟩ := hmscl Pending.zero (sliceAddr 0 0) rfl (Or.inl rfl) rfl rfl (by decide +kernel) (by decide +kernel)
    (by decide +kernel) (by decide +kernel) (by decide +kernel) (by decide +kernel) (by decide +kernel) (by decide +kernel) oddState_plain
  have hfreezes := oddState_freezes
  rw [ht] at hfreezes
  have hfrozen : z.life = .frozen := by
    have hfind : AL.find t.progs 1 = some z := hz
    simpa only [hfind, Option.map_some, Option.some.injEq] using hfreezes
  rw [hlife] at hfrozen
  exact absurd hfrozen (by decide)

/-- The other parts of the statement hold. -/
theorem tile_operations_but_completion :
    Claims.TileRowsMove ∧ Claims.TileRowsAreStored ∧ Claims.PlanesHoldIntegers ∧ Claims.TileOperations :=
  ⟨tile_rows_move, tile_rows_are_stored, planes_hold_integers, tile_operations⟩

/-- Refutes O46: two segments that meet at an odd address, which R327 refuses and the statement does not exclude, make a plain run of two
bytes that straddles, and `mscl` to it traps. -/
theorem not_tileOperations : ¬ Obligations.TileOperations := by
  rintro ⟨-, -, -, -, h⟩
  exact not_matrix_instructions_complete h

end Sys2Proof.Machine

namespace Sys2Proof.Machine

/-! ## Integer square roots (spec 12, R287) -/

/-- A Newton step from a number that is not below the root does not go below it, and halves the distance to it. -/
theorem newton_step {n x : Nat} (hx : 0 < x) : Nat.sqrt n ≤ (x + n / x) / 2 ∧
    (Nat.sqrt n < x → (x + n / x) / 2 - Nat.sqrt n ≤ (x - Nat.sqrt n) / 2) := by
  have hlo := Nat.sqrt_le n
  have hhi := Nat.lt_succ_sqrt n
  generalize Nat.sqrt n = r at *
  have hd := Nat.div_add_mod n x
  have hm := Nat.mod_lt n hx
  generalize n / x = d at *
  generalize n % x = k at *
  constructor
  · have h1 : 2 * r ≤ x + d := by
      by_contra hlt
      have h2 : (x : Int) + d + 1 ≤ 2 * r := by omega
      have h3 : (r : Int) * r < x * (d + 1) := by
        have h4 : r * r < x * (d + 1) := by rw [Nat.mul_succ]; omega
        exact_mod_cast h4
      nlinarith [sq_nonneg ((x : Int) - r)]
    omega
  · intro h
    have h1 : d ≤ r := by
      by_contra hlt
      have h2 : (r + 1) * (r + 1) ≤ x * d := Nat.mul_le_mul (by omega) (by omega)
      have h3 : (r + 1) * (r + 1) = r.succ * r.succ := rfl
      omega
    omega

/-- Newton steps reach the root once there are as many as the distance has bits. -/
theorem isqrtSteps_eq (n : Nat) (f x : Nat) (hx : Nat.sqrt n ≤ x) (hf : x - Nat.sqrt n < 2 ^ f) : isqrtSteps f n x = Nat.sqrt n := by
  induction f generalizing x with
  | zero => rw [isqrtSteps]; rw [pow_zero] at hf; omega
  | succ f ih =>
    rw [isqrtSteps]
    by_cases h0 : x = 0
    · rw [if_pos h0]; omega
    obtain ⟨hlo, hhi⟩ := newton_step (n := n) (Nat.pos_of_ne_zero h0)
    rw [if_neg h0]
    dsimp only
    split
    next h => 
      by_contra hne
      have := hhi (by omega)
      omega
    next h => 
      refine ih _ hlo ?_
      rw [pow_succ] at hf
      by_cases hlt : Nat.sqrt n < x
      · have := hhi hlt
        omega
      · omega

theorem isqrt_eq (n : Nat) : isqrt n = Nat.sqrt n := by
  have h1 : n < 2 ^ (n.log2 / 2 + 1) * 2 ^ (n.log2 / 2 + 1) := by
    rw [← pow_add]
    exact Nat.lt_log2_self.trans_le (Nat.pow_le_pow_right (by decide) (by omega))
  have h2 : Nat.sqrt n < 2 ^ (n.log2 / 2 + 1) := Nat.sqrt_lt.mpr h1
  refine isqrtSteps_eq n _ _ h2.le ?_
  have h3 : 2 ^ (n.log2 / 2 + 1) < 2 ^ (n.log2 + 4) := Nat.pow_lt_pow_right (by decide) (by omega)
  omega

/-- The magnitude under the root with an even exponent. -/
def evenMag (m : Nat) (e : Int) : Nat × Int := (if e % 2 = 0 then m else 2 * m, if e % 2 = 0 then e else e - 1)

theorem evenMag_eq (m : Nat) (e : Int) : ((evenMag m e).1 : ℚ) * (2 : ℚ) ^ (evenMag m e).2 = (m : ℚ) * (2 : ℚ) ^ e := by
  rw [evenMag]
  by_cases h : e % 2 = 0
  · simp only [h, if_true]
  · simp only [h, if_false]
    rw [zpow_sub_one₀ (by norm_num)]
    push_cast; ring

theorem evenMag_even (m : Nat) (e : Int) : 2 * ((evenMag m e).2 / 2) = (evenMag m e).2 := by
  rw [evenMag]
  dsimp only
  split <;> omega

theorem sqrtMag_eq (m : Nat) (e : Int) : sqrtMag m e =
    ⟨Nat.sqrt ((evenMag m e).1 * 2 ^ 200), 1, (evenMag m e).2 / 2 - 100,
      Nat.sqrt ((evenMag m e).1 * 2 ^ 200) * Nat.sqrt ((evenMag m e).1 * 2 ^ 200) != (evenMag m e).1 * 2 ^ 200⟩ := by
  rw [sqrtMag]
  simp only [isqrt_eq]
  rfl

/-- The integer under the root in units of the square of the root's unit. -/
theorem sqrtMag_unit (m : Nat) (e : Int) :
    (((evenMag m e).1 * 2 ^ 200 : Nat) : ℚ) * ((2 : ℚ) ^ ((evenMag m e).2 / 2 - 100)) ^ 2 = (m : ℚ) * (2 : ℚ) ^ e := by
  have h1 : ((2 : ℚ) ^ ((evenMag m e).2 / 2 - 100)) ^ 2 * (2 : ℚ) ^ (200 : Int) = (2 : ℚ) ^ (evenMag m e).2 := by
    rw [← zpow_natCast, ← zpow_mul, ← zpow_add₀ (by norm_num)]
    congr 1
    have := evenMag_even m e
    push_cast; omega
  have h2 : (2 : ℚ) ^ (200 : Int) = ((2 ^ 200 : Nat) : ℚ) := by rw [Nat.cast_pow]; exact zpow_natCast 2 200
  rw [← evenMag_eq, ← h1, h2, Nat.cast_mul]
  ring

/-- An integer between two squares, in units of the square of `u`. -/
theorem root_bounds {n r : Nat} {u : ℚ} (hu : 0 < u) (hlo : r * r ≤ n) (hhi : n < (r + 1) * (r + 1)) :
    ((r : ℚ) * u) ^ 2 ≤ n * u ^ 2 ∧ (n : ℚ) * u ^ 2 < (((r : ℚ) + 1) * u) ^ 2 ∧
    ((r * r != n) = false ↔ ((r : ℚ) * u) ^ 2 = n * u ^ 2) := by
  have hu2 : 0 < u ^ 2 := by positivity
  refine ⟨?_, ?_, ?_⟩
  · rw [mul_pow, pow_two (r : ℚ)]
    exact mul_le_mul_of_nonneg_right (by exact_mod_cast hlo) hu2.le
  · rw [mul_pow, pow_two ((r : ℚ) + 1)]
    exact mul_lt_mul_of_pos_right (by exact_mod_cast hhi) hu2
  · rw [mul_pow, mul_left_inj' hu2.ne', bne_eq_false_iff_eq, pow_two]
    exact_mod_cast Iff.rfl

/-- A root is exact but for its one rounding: its magnitude is the root rounded down to at least 101 bits, and sticky where that is not
exact. -/
theorem sqrtMag_bounds (m : Nat) (e : Int) (hm : m ≠ 0) :
    (sqrtMag m e).den = 1 ∧ 2 ^ 100 ≤ (sqrtMag m e).num ∧
    ((sqrtMag m e).num * (2 : ℚ) ^ (sqrtMag m e).exp) ^ 2 ≤ (m : ℚ) * (2 : ℚ) ^ e ∧
    (m : ℚ) * (2 : ℚ) ^ e < (((sqrtMag m e).num + 1) * (2 : ℚ) ^ (sqrtMag m e).exp) ^ 2 ∧
    ((sqrtMag m e).sticky = false ↔ ((sqrtMag m e).num * (2 : ℚ) ^ (sqrtMag m e).exp) ^ 2 = (m : ℚ) * (2 : ℚ) ^ e) := by
  have hn : 1 ≤ (evenMag m e).1 := by
    rw [evenMag]
    dsimp only
    split <;> omega
  have hbig : 2 ^ 100 ≤ Nat.sqrt ((evenMag m e).1 * 2 ^ 200) := by
    rw [Nat.le_sqrt, ← pow_add]
    exact Nat.le_mul_of_pos_left _ hn
  have hb := root_bounds (two_zpow_pos ((evenMag m e).2 / 2 - 100)) (Nat.sqrt_le ((evenMag m e).1 * 2 ^ 200))
    (Nat.lt_succ_sqrt ((evenMag m e).1 * 2 ^ 200))
  rw [sqrtMag_unit] at hb
  rw [sqrtMag_eq]
  exact ⟨rfl, hbig, hb⟩

end Sys2Proof.Machine

namespace Sys2Proof.Machine

/-! ## What the element functions give (spec 12, Tables 12-5 to 12-7) -/

/-- The canonical NaN, with NV or without a flag. -/
def Res.isNan (r : Res) (nv : Bool) : Prop := r = .num (.nan false) { Flags.none with nv := nv }

/-- A finite value without a flag. -/
def Res.value (r : Res) (q : ℚ) : Prop := ∃ n, r = .num n Flags.none ∧ n.finite ∧ n.toRat = q

/-- A zero of a sign without a flag. -/
def Res.zero (r : Res) (neg : Bool) : Prop := ∃ n, r = .num n Flags.none ∧ n.finite ∧ n.toRat = 0 ∧ n.neg = neg

/-! ### NaN operands -/

theorem Num.isNan_opp (x : Num) : x.opp.isNan = x.isNan := by cases x <;> rfl
theorem Num.isSnan_opp (x : Num) : x.opp.isSnan = x.isSnan := by cases x <;> rfl

theorem Num.add_nan (mode : Nat) {x y : Num} (h : x.isNan = true ∨ y.isNan = true) :
    Num.add mode x y = (.nan false, x.isSnan || y.isSnan) := by
  cases x with
  | nan b => rfl
  | inf s => cases y with
    | nan b => rfl
    | inf t => simp [Num.isNan] at h
    | fin t n g => simp [Num.isNan] at h
  | fin s m e => cases y with
    | nan b => rfl
    | inf t => simp [Num.isNan] at h
    | fin t n g => simp [Num.isNan] at h

theorem Num.mul_nan {x y : Num} (h : x.isNan = true ∨ y.isNan = true) : Num.mul x y = (.nan false, x.isSnan || y.isSnan) := by
  cases x with
  | nan b => rfl
  | inf s => cases y with
    | nan b => rfl
    | inf t => simp [Num.isNan] at h
    | fin t n g => simp [Num.isNan] at h
  | fin s m e => cases y with
    | nan b => rfl
    | inf t => simp [Num.isNan] at h
    | fin t n g => simp [Num.isNan] at h

theorem nan2_nan {x y : Num} (h : x.isNan = true ∨ y.isNan = true) (k : Res) : (nan2 x y k).isNan (x.isSnan || y.isSnan) :=
  if_pos (by simpa using h)

theorem nan2_not {x y : Num} (hx : x.isNan = false) (hy : y.isNan = false) (k : Res) : nan2 x y k = k :=
  if_neg (by simp [hx, hy])

theorem results_nan (v : VEnv) {x y : Num} (h : x.isNan = true ∨ y.isNan = true) :
    ∀ r ∈ [addRes v x y, subRes v x y, mulRes v x y, divRes x y, minRes v x y, maxRes v x y], r.isNan (x.isSnan || y.isSnan) := by
  have hadd : (addRes v x y).isNan (x.isSnan || y.isSnan) := by rw [addRes, Num.add_nan _ h]; rfl
  have hsub : (subRes v x y).isNan (x.isSnan || y.isSnan) := by
    rw [subRes, Num.add_nan _ (by rwa [Num.isNan_opp]), Num.isSnan_opp]; rfl
  have hmul : (mulRes v x y).isNan (x.isSnan || y.isSnan) := by rw [mulRes, Num.mul_nan h]; rfl
  simp only [List.mem_cons, List.not_mem_nil, or_false, forall_eq_or_imp, forall_eq]
  exact ⟨hadd, hsub, hmul, nan2_nan h _, nan2_nan h _, nan2_nan h _⟩

/-! ### Finite operands -/

theorem Num.finite_opp {x : Num} (h : x.finite) : x.opp.finite := by
  obtain ⟨s, m, e, rfl⟩ := Num.finite_iff.mp h; trivial

theorem Num.toRat_opp {x : Num} (h : x.finite) : x.opp.toRat = -x.toRat := by
  obtain ⟨s, m, e, rfl⟩ := Num.finite_iff.mp h
  cases s <;> simp [Num.opp, Num.toRat]

theorem Num.add_finite (mode : Nat) {x y : Num} (hx : x.finite) (hy : y.finite) :
    (Num.add mode x y).1.finite ∧ (Num.add mode x y).1.toRat = x.toRat + y.toRat ∧ (Num.add mode x y).2 = false ∧
    (x.toRat + y.toRat = 0 → (Num.add mode x y).1.neg = if x.neg = y.neg then x.neg else mode == 3) := by
  obtain ⟨s, m, e, rfl⟩ := Num.finite_iff.mp hx
  obtain ⟨t, n, g, rfl⟩ := Num.finite_iff.mp hy
  exact Num.add_fin mode s t m n e g

theorem Num.mul_finite {x y : Num} (hx : x.finite) (hy : y.finite) :
    (Num.mul x y).1.finite ∧ (Num.mul x y).1.toRat = x.toRat * y.toRat ∧ (Num.mul x y).2 = false ∧ (Num.mul x y).1.neg = (x.neg != y.neg) := by
  obtain ⟨s, m, e, rfl⟩ := Num.finite_iff.mp hx
  obtain ⟨t, n, g, rfl⟩ := Num.finite_iff.mp hy
  exact ⟨trivial, Num.mul_fin s t m n e g, rfl, rfl⟩

theorem numInv_valid {r : Num × Bool} (h : r.2 = false) : numInv r = .num r.1 Flags.none := by rw [numInv, h]; rfl

section
variable (v : VEnv) {x y : Num} (hx : x.finite) (hy : y.finite)
include hx hy

theorem addRes_value : (addRes v x y).value (x.toRat + y.toRat) := by
  obtain ⟨hf, hq, hi, -⟩ := Num.add_finite v.rd.mode hx hy
  exact ⟨_, numInv_valid hi, hf, hq⟩

theorem subRes_value : (subRes v x y).value (x.toRat - y.toRat) := by
  have h := addRes_value v hx (Num.finite_opp hy)
  rw [Num.toRat_opp hy, ← sub_eq_add_neg] at h
  exact h

theorem mulRes_value : (mulRes v x y).value (x.toRat * y.toRat) := by
  obtain ⟨hf, hq, hi, -⟩ := Num.mul_finite hx hy
  exact ⟨_, numInv_valid hi, hf, hq⟩

theorem addRes_zero (h : x.toRat + y.toRat = 0) : (addRes v x y).zero (if x.neg = y.neg then x.neg else v.rd.mode == 3) := by
  obtain ⟨hf, hq, hi, hs⟩ := Num.add_finite v.rd.mode hx hy
  exact ⟨_, numInv_valid hi, hf, hq.trans h, hs h⟩

theorem mulRes_zero (h : x.toRat * y.toRat = 0) : (mulRes v x y).zero (x.neg != y.neg) := by
  obtain ⟨hf, hq, hi, hs⟩ := Num.mul_finite hx hy
  exact ⟨_, numInv_valid hi, hf, hq.trans h, hs⟩

theorem fusedRes_value {z : Num} (hz : z.finite) : (fusedRes false v.rd.mode x y z).value (x.toRat * y.toRat + z.toRat) ∧
    (fusedRes true v.rd.mode x y z).value (z.toRat - x.toRat * y.toRat) := by
  obtain ⟨hf, hq, hi, -⟩ := Num.mul_finite hx hy
  obtain ⟨hf1, hq1, hi1, -⟩ := Num.add_finite v.rd.mode hf hz
  obtain ⟨hf2, hq2, hi2, -⟩ := Num.add_finite v.rd.mode (Num.finite_opp hf) hz
  have hn : (x.isNan || y.isNan || z.isNan) = false := by
    rw [Num.not_nan_of_finite hx, Num.not_nan_of_finite hy, Num.not_nan_of_finite hz]; rfl
  constructor
  · refine ⟨_, ?_, hf1, by rw [hq1, hq]⟩
    rw [fusedRes, hn, hi]
    simp only [Bool.false_eq_true, if_false, hi1]
    rfl
  · refine ⟨_, ?_, hf2, by rw [hq2, Num.toRat_opp hf, hq]; ring⟩
    rw [fusedRes, hn, hi]
    simp only [Bool.false_eq_true, if_false, if_true, hi2]
    rfl

end

theorem Num.toRat_ne_zero {s : Bool} {m : Nat} {e : Int} : (Num.fin s m e).toRat ≠ 0 ↔ m ≠ 0 := Num.toRat_eq_zero.not

theorem Num.abs_toRat (s : Bool) (m : Nat) (e : Int) : |(Num.fin s m e).toRat| = (m : ℚ) * (2 : ℚ) ^ e := by
  have h : (0 : ℚ) ≤ (m : ℚ) * (2 : ℚ) ^ e := mul_nonneg (Nat.cast_nonneg m) (two_zpow_pos e).le
  cases s
  · simp only [Num.toRat, Bool.false_eq_true, if_false, one_mul]
    exact abs_of_nonneg h
  · simp only [Num.toRat, if_true, neg_mul, one_mul, abs_neg]
    exact abs_of_nonneg h

theorem divRes_fin (s t : Bool) (m n : Nat) (e g : Int) : divRes (.fin s m e) (.fin t n g) =
    if n = 0 then (if m = 0 then invalidRes else dzInf (s != t))
    else if m = 0 then .num (.fin (s != t) 0 0) Flags.none
    else .mag (s != t) ⟨m, n, e - g, false⟩ Flags.none := rfl

/-- A quotient of finite values. -/
theorem divRes_finite {x y : Num} (hx : x.finite) (hy : y.finite) :
    (y.toRat ≠ 0 → x.toRat ≠ 0 → ∃ m, divRes x y = .mag (x.neg != y.neg) m Flags.none ∧ m.sticky = false ∧
      ((m.num : ℚ) / m.den) * (2 : ℚ) ^ m.exp = |x.toRat / y.toRat|) ∧
    (y.toRat ≠ 0 → x.toRat = 0 → (divRes x y).zero (x.neg != y.neg)) ∧
    (y.toRat = 0 → x.toRat = 0 → (divRes x y).isNan true) ∧
    (y.toRat = 0 → x.toRat ≠ 0 → divRes x y = .num (.inf (x.neg != y.neg)) { Flags.none with dz := true }) := by
  obtain ⟨s, m, e, rfl⟩ := Num.finite_iff.mp hx
  obtain ⟨t, n, g, rfl⟩ := Num.finite_iff.mp hy
  rw [divRes_fin, Num.toRat_ne_zero, Num.toRat_ne_zero, Num.toRat_eq_zero, Num.toRat_eq_zero]
  refine ⟨fun hn hm => ?_, fun hn hm => ?_, fun hn hm => ?_, fun hn hm => ?_⟩
  · refine ⟨⟨m, n, e - g, false⟩, by rw [if_neg hn, if_neg hm]; rfl, rfl, ?_⟩
    rw [abs_div, Num.abs_toRat, Num.abs_toRat]
    dsimp only
    rw [zpow_sub₀ (by norm_num), div_mul_div_comm]
  · rw [if_neg hn, if_pos hm]
    exact ⟨_, rfl, trivial, Num.toRat_zero _ _, rfl⟩
  · rw [if_pos hn, if_pos hm]
    rfl
  · rw [if_pos hn, if_neg hm]
    rfl

/-! ### Infinities -/

theorem results_inf (v : VEnv) (s : Bool) {y : Num} (hy : y.finite) :
    addRes v (.inf s) y = .num (.inf s) Flags.none ∧ addRes v y (.inf s) = .num (.inf s) Flags.none ∧
    subRes v (.inf s) y = .num (.inf s) Flags.none ∧ divRes (.inf s) y = .num (.inf (s != y.neg)) Flags.none ∧
    (divRes y (.inf s)).zero (y.neg != s) ∧
    (y.toRat = 0 → (mulRes v (.inf s) y).isNan true ∧ (mulRes v y (.inf s)).isNan true) ∧
    (y.toRat ≠ 0 → mulRes v (.inf s) y = .num (.inf (s != y.neg)) Flags.none ∧ mulRes v y (.inf s) = .num (.inf (s != y.neg)) Flags.none) := by
  obtain ⟨t, n, g, rfl⟩ := Num.finite_iff.mp hy
  rw [Num.toRat_eq_zero, Num.toRat_ne_zero]
  refine ⟨rfl, rfl, rfl, rfl, ⟨_, rfl, trivial, Num.toRat_zero _ _, rfl⟩, fun hn => ?_, fun hn => ?_⟩
  · simp only [mulRes, Num.mul, hn, if_true]
    exact ⟨rfl, rfl⟩
  · simp only [mulRes, Num.mul, hn, if_false]
    refine ⟨rfl, ?_⟩
    cases s <;> cases t <;> rfl

theorem results_inf_inf (v : VEnv) (s t : Bool) :
    mulRes v (.inf s) (.inf t) = .num (.inf (s != t)) Flags.none ∧ (divRes (.inf s) (.inf t)).isNan true ∧
    (s = t → addRes v (.inf s) (.inf t) = .num (.inf s) Flags.none ∧ (subRes v (.inf s) (.inf t)).isNan true) ∧
    (s ≠ t → (addRes v (.inf s) (.inf t)).isNan true ∧ subRes v (.inf s) (.inf t) = .num (.inf s) Flags.none) := by
  refine ⟨rfl, rfl, ?_, ?_⟩
  · rintro rfl
    cases s <;> exact ⟨rfl, rfl⟩
  · intro h
    obtain rfl : s = !t := Bool.eq_not_iff.mpr h
    cases t <;> exact ⟨rfl, rfl⟩

/-! ### The order of values -/

/-- The place of a value that is no NaN on the extended number line. -/
def Num.place : Num → WithBot (WithTop ℚ)
  | .inf true => ⊥
  | .inf false => ((⊤ : WithTop ℚ) : WithBot (WithTop ℚ))
  | x => ((x.toRat : WithTop ℚ) : WithBot (WithTop ℚ))

theorem Num.lt_place {x y : Num} (hx : x.isNan = false) (hy : y.isNan = false) : x.lt y = true ↔ x.place < y.place := by
  cases x with
  | nan b => cases hx
  | inf s => cases y with
    | nan b => cases hy
    | inf t => cases s <;> cases t <;> simp [Num.lt, Num.place]
    | fin t n g => cases s <;> simp [Num.lt, Num.place]
  | fin s m e => cases y with
    | nan b => cases hy
    | inf t => cases t with
      | true => simp [Num.lt, Num.place]
      | false => exact iff_of_true rfl (WithBot.coe_lt_coe.mpr (WithTop.coe_lt_top _))
    | fin t n g =>
      rw [Num.lt_fin]
      simp only [Num.place, WithBot.coe_lt_coe, WithTop.coe_lt_coe]

theorem Num.not_lt_place {x y : Num} (hx : x.isNan = false) (hy : y.isNan = false) : x.lt y = false ↔ y.place ≤ x.place := by
  rw [← Bool.not_eq_true, Num.lt_place hx hy, not_lt]

theorem Num.eqv_not_lt {x y : Num} (h : x.eqv y = true) : x.lt y = false ∧ y.lt x = false := by
  simp only [Num.eqv, Bool.and_eq_true, Bool.not_eq_true'] at h
  exact ⟨h.1.2, h.2⟩

section
variable {x y : Num} (hx : x.isNan = false) (hy : y.isNan = false)
include hx hy

theorem numMin_least : (numMin x y = x ∨ numMin x y = y) ∧ x.lt (numMin x y) = false ∧ y.lt (numMin x y) = false ∧
    (x.eqv y = true → (numMin x y).neg = (x.neg || y.neg)) := by
  have hxx : x.lt x = false := (Num.not_lt_place hx hx).mpr le_rfl
  have hyy : y.lt y = false := (Num.not_lt_place hy hy).mpr le_rfl
  rw [numMin]
  by_cases h1 : x.lt y = true
  · rw [if_pos h1]
    refine ⟨Or.inl rfl, hxx, (Num.not_lt_place hy hx).mpr ((Num.lt_place hx hy).mp h1).le, fun he => ?_⟩
    rw [(Num.eqv_not_lt he).1] at h1; cases h1
  rw [if_neg h1]
  by_cases h2 : y.lt x = true
  · rw [if_pos h2]
    refine ⟨Or.inr rfl, Bool.eq_false_of_not_eq_true h1, hyy, fun he => ?_⟩
    rw [(Num.eqv_not_lt he).2] at h2; cases h2
  rw [if_neg h2]
  by_cases h3 : x.neg = true
  · rw [if_pos h3]
    exact ⟨Or.inl rfl, hxx, Bool.eq_false_of_not_eq_true h2, fun _ => by rw [h3]; rfl⟩
  · rw [if_neg h3]
    exact ⟨Or.inr rfl, Bool.eq_false_of_not_eq_true h1, hyy, fun _ => by rw [Bool.eq_false_of_not_eq_true h3]; rfl⟩

theorem numMax_greatest : (numMax x y = x ∨ numMax x y = y) ∧ (numMax x y).lt x = false ∧ (numMax x y).lt y = false ∧
    (x.eqv y = true → (numMax x y).neg = (x.neg && y.neg)) := by
  have hxx : x.lt x = false := (Num.not_lt_place hx hx).mpr le_rfl
  have hyy : y.lt y = false := (Num.not_lt_place hy hy).mpr le_rfl
  rw [numMax]
  by_cases h1 : x.lt y = true
  · rw [if_pos h1]
    refine ⟨Or.inr rfl, (Num.not_lt_place hy hx).mpr ((Num.lt_place hx hy).mp h1).le, hyy, fun he => ?_⟩
    rw [(Num.eqv_not_lt he).1] at h1; cases h1
  rw [if_neg h1]
  by_cases h2 : y.lt x = true
  · rw [if_pos h2]
    refine ⟨Or.inl rfl, hxx, Bool.eq_false_of_not_eq_true h1, fun he => ?_⟩
    rw [(Num.eqv_not_lt he).2] at h2; cases h2
  rw [if_neg h2]
  by_cases h3 : x.neg = true
  · rw [if_pos h3]
    exact ⟨Or.inr rfl, Bool.eq_false_of_not_eq_true h2, hyy, fun _ => by rw [h3]; rfl⟩
  · rw [if_neg h3]
    exact ⟨Or.inl rfl, hxx, Bool.eq_false_of_not_eq_true h1, fun _ => by rw [Bool.eq_false_of_not_eq_true h3]; rfl⟩

theorem minRes_least (v : VEnv) : ∃ n, minRes v x y = .num n Flags.none ∧ (n = x ∨ n = y) ∧ x.lt n = false ∧ y.lt n = false ∧
    (x.eqv y = true → n.neg = (x.neg || y.neg)) := ⟨_, nan2_not hx hy _, numMin_least hx hy⟩

theorem maxRes_greatest (v : VEnv) : ∃ n, maxRes v x y = .num n Flags.none ∧ (n = x ∨ n = y) ∧ n.lt x = false ∧ n.lt y = false ∧
    (x.eqv y = true → n.neg = (x.neg && y.neg)) := ⟨_, nan2_not hx hy _, numMax_greatest hx hy⟩

end

/-- Every value but the infinity itself lies above the negative one, and below the positive one. -/
theorem Num.lt_inf {x : Num} (hx : x.isNan = false) :
    (Num.inf true).lt x = decide (x ≠ .inf true) ∧ x.lt (.inf true) = false ∧
    x.lt (.inf false) = decide (x ≠ .inf false) ∧ (Num.inf false).lt x = false := by
  cases x with
  | nan b => cases hx
  | inf s => cases s <;> decide
  | fin s m e => simp [Num.lt]

/-! ### Signs, conditions -/

theorem nan1_nan (f : Num → Num) {x : Num} (h : x.isNan = true) : (nan1 f x).isNan x.isSnan := if_pos h

theorem nan1_finite (f : Num → Num) {x : Num} (h : x.finite) : nan1 f x = .num (f x) Flags.none :=
  if_neg (by rw [Num.not_nan_of_finite h]; exact Bool.false_ne_true)

theorem signs_finite {x : Num} (h : x.finite) :
    (nan1 Num.abs x).value |x.toRat| ∧ (nan1 Num.opp x).value (-x.toRat) := by
  refine ⟨⟨x.abs, nan1_finite _ h, ?_⟩, ⟨x.opp, nan1_finite _ h, Num.finite_opp h, Num.toRat_opp h⟩⟩
  obtain ⟨s, m, e, rfl⟩ := Num.finite_iff.mp h
  refine ⟨trivial, ?_⟩
  rw [Num.abs_toRat]
  simp [Num.abs, Num.toRat]

theorem condRes_eq (f : Num → Num → Bool) (x y : Num) : condRes f x y =
    .num (if f x y = true then .fin false 1 0 else .fin false 0 0) { Flags.none with nv := x.isSnan || y.isSnan } := rfl

theorem Num.unordered_nan {x : Num} (h : x.isNan = true) (y : Num) :
    x.eqv y = false ∧ y.eqv x = false ∧ ordered x y = false ∧ ordered y x = false := by
  simp [Num.eqv, ordered, h]

end Sys2Proof.Machine

namespace Sys2Proof.Machine

/-! ### Shifts of patterns (R283) -/

theorem shiftLeft_bits (f : Fmt) (x k j : Nat) (hj : j < f.bits) :
    (shiftLeft f x k).testBit j = (decide (k ≤ j) && x.testBit (j - k)) := by
  rw [shiftLeft, Nat.testBit_mod_two_pow, decide_eq_true hj, Bool.true_and, Nat.mul_comm, Nat.testBit_two_pow_mul]

/-- The sign of a pattern is its highest bit. -/
theorem sign_testBit {w x : Nat} (hw : 0 < w) (hx : x < 2 ^ w) : x.testBit (w - 1) = decide (2 ^ w ≤ 2 * x) := by
  have h1 : 2 ^ w = 2 * 2 ^ (w - 1) := by rw [← pow_succ']; congr 1; omega
  by_cases h : 2 ^ (w - 1) ≤ x
  · rw [decide_eq_true (by omega)]
    obtain ⟨y, rfl⟩ := Nat.exists_eq_add_of_le h
    rw [Nat.testBit_two_pow_add_eq, Nat.testBit_lt_two_pow (by omega)]
    rfl
  · rw [decide_eq_false (by omega)]
    exact Nat.testBit_lt_two_pow (by omega)

/-- An arithmetic shift fills the places of the bits that it drops with the sign. -/
theorem intBits_shift {w k x : Nat} (hk : k < w) (hx : x < 2 ^ w) : intBits w (signedNat w x / 2 ^ k) =
    if x.testBit (w - 1) then 2 ^ (w - k) * (2 ^ k - 1) + x / 2 ^ k else x / 2 ^ k := by
  have hq : x / 2 ^ k < 2 ^ (w - k) := by
    rw [Nat.div_lt_iff_lt_mul (Nat.two_pow_pos k), ← pow_add]
    rwa [show w - k + k = w by omega]
  have hp : 2 ^ (w - k) * 2 ^ k = 2 ^ w := by rw [← pow_add]; congr 1; omega
  have hle : 2 ^ (w - k) ≤ 2 ^ w := Nat.pow_le_pow_right (by decide) (by omega)
  have hmul : 2 ^ (w - k) * (2 ^ k - 1) = 2 ^ w - 2 ^ (w - k) := by rw [Nat.mul_sub_one, hp]
  rw [sign_testBit (by omega) hx, signedNat_eq, Nat.mod_eq_of_lt hx]
  by_cases h : 2 * x < 2 ^ w
  · rw [if_pos h, decide_eq_false (by omega), if_neg Bool.false_ne_true]
    rw [show ((x : Nat) : Int) / 2 ^ k = ((x / 2 ^ k : Nat) : Int) by push_cast; rfl]
    exact intBits_natCast (by omega)
  · rw [if_neg h, decide_eq_true (by omega), if_pos rfl, hmul]
    have h1 : ((x : Int) - (2 ^ w : Nat)) / 2 ^ k = ((2 ^ w - 2 ^ (w - k) + x / 2 ^ k : Nat) : Int) - 2 ^ w := by
      have h2 : (x : Int) - (2 ^ w : Nat) = x + -(2 ^ (w - k) : Nat) * 2 ^ k := by
        rw [← hp]; push_cast; ring
      rw [h2, Int.add_mul_ediv_right _ _ (by positivity)]
      push_cast [Nat.cast_sub hle]
      ring
    rw [h1, intBits, Int.sub_emod_right, ← intBits, intBits_natCast (by omega)]

theorem shiftRight_bits (f : Fmt) {x k j : Nat} (hx : x < 2 ^ f.bits) (hk : k < f.bits) (hj : j < f.bits) :
    (shiftRight f x k).testBit j = (if j + k < f.bits then x.testBit (j + k) else f.intSigned == some true && x.testBit (f.bits - 1)) := by
  have hq : x / 2 ^ k < 2 ^ (f.bits - k) := by
    rw [Nat.div_lt_iff_lt_mul (Nat.two_pow_pos k), ← pow_add]
    rwa [show f.bits - k + k = f.bits by omega]
  have hdrop : (x / 2 ^ k).testBit j = if j + k < f.bits then x.testBit (j + k) else false := by
    rw [Nat.testBit_div_two_pow]
    split
    · rfl
    · exact Nat.testBit_lt_two_pow (hx.trans_le (Nat.pow_le_pow_right (by decide) (by omega)))
  rw [shiftRight]
  by_cases hs : f.intSigned = some true
  · rw [if_pos hs, intBits_shift hk hx, hs]
    by_cases hn : x.testBit (f.bits - 1) = true
    · rw [if_pos hn, Nat.testBit_two_pow_mul_add _ hq, Nat.testBit_two_pow_sub_one, hdrop, hn]
      by_cases h : j + k < f.bits
      · rw [if_pos (by omega), if_pos h, if_pos h]
      · rw [if_neg (by omega), if_neg h, decide_eq_true (by omega)]; rfl
    · rw [if_neg hn, hdrop, Bool.eq_false_of_not_eq_true hn, Bool.and_false]
  · rw [if_neg hs, hdrop, beq_eq_false_iff_ne.mpr hs, Bool.false_and]

theorem shifts_lt (f : Fmt) {x k : Nat} (hx : x < 2 ^ f.bits) : shiftLeft f x k < 2 ^ f.bits ∧ shiftRight f x k < 2 ^ f.bits := by
  refine ⟨Nat.mod_lt _ (Nat.two_pow_pos _), ?_⟩
  rw [shiftRight]
  split
  · exact intBits_lt ..
  · exact (Nat.div_le_self ..).trans_lt hx

/-! ### Special functions (R287, Table 12-6) -/

section
variable (sat : Bool) (n k : Nat)

theorem special_nan (f : Special) (b : Bool) : f.apply (.nan b) sat n k = .num (.nan false) { Flags.none with nv := b } := rfl

theorem special_zero (s : Bool) (e : Int) :
    Special.exp.apply (.fin s 0 e) sat n k = .num .one Flags.none ∧
    Special.log.apply (.fin s 0 e) sat n k = .num (.inf true) Flags.none ∧
    Special.sqrt.apply (.fin s 0 e) sat n k = .num (.fin s 0 e) Flags.none ∧
    Special.tanh.apply (.fin s 0 e) sat n k = .num (.fin s 0 e) Flags.none ∧
    Special.sig.apply (.fin s 0 e) sat n k = .num (.fin false 1 (-1)) Flags.none ∧
    Special.erf.apply (.fin s 0 e) sat n k = .num (.fin s 0 e) Flags.none ∧
    Special.sin.apply (.fin s 0 e) sat n k = .num (.fin s 0 e) Flags.none ∧
    Special.cos.apply (.fin s 0 e) sat n k = .num .one Flags.none ∧
    ∀ f ∈ [Special.rcp, .rsq], f.apply (.fin s 0 e) sat n k = .num (.inf s) { Flags.none with dz := true } := by
  refine ⟨rfl, rfl, rfl, rfl, rfl, rfl, rfl, rfl, ?_⟩
  simp only [List.mem_cons, List.not_mem_nil, or_false, forall_eq_or_imp, forall_eq]
  exact ⟨rfl, rfl⟩

theorem special_inf (s : Bool) :
    Special.exp.apply (.inf s) sat n k = .num (if s then .zero else .inf false) Flags.none ∧
    Special.rcp.apply (.inf s) sat n k = .num (.fin s 0 0) Flags.none ∧
    Special.tanh.apply (.inf s) sat n k = .num (.fin s 1 0) Flags.none ∧
    Special.sig.apply (.inf s) sat n k = .num (if s then .zero else .one) Flags.none ∧
    Special.erf.apply (.inf s) sat n k = .num (.fin s 1 0) Flags.none ∧
    Special.sin.apply (.inf s) sat n k = .num (.nan false) Flags.invalid ∧
    Special.cos.apply (.inf s) sat n k = .num (.nan false) Flags.invalid := ⟨rfl, rfl, rfl, rfl, rfl, rfl, rfl⟩

/-- The functions that have no value below zero. -/
theorem special_negative : ∀ f ∈ [Special.log, .rsq, .sqrt], f.apply (.inf true) sat n k = .num (.nan false) Flags.invalid ∧
    ∀ (m : Nat) (e : Int), m ≠ 0 → f.apply (.fin true m e) sat n k = .num (.nan false) Flags.invalid := by
  simp only [List.mem_cons, List.not_mem_nil, or_false, forall_eq_or_imp, forall_eq]
  exact ⟨⟨rfl, fun m e hm => if_neg hm⟩, ⟨rfl, fun m e hm => if_neg hm⟩, ⟨rfl, fun m e hm => if_neg hm⟩⟩

theorem special_log_one (m : Nat) (e : Int) (h : (m : ℚ) * (2 : ℚ) ^ e = 1) :
    Special.log.apply (.fin false m e) sat n k = .num .zero Flags.none := by
  have hm : ¬ m = 0 := by rintro rfl; simp at h
  have h1 : (Mag.dyadic m e).units 0 = (1, 1) ∨ m * 2 ^ e.toNat = 2 ^ (-e).toNat := by
    right
    have h2 : (m : ℚ) * 2 ^ e.toNat = 2 ^ (-e).toNat := by
      have h3 : (2 : ℚ) ^ e * (2 : ℚ) ^ (-e).toNat = 2 ^ e.toNat := by
        rw [← zpow_natCast, ← zpow_natCast, ← zpow_add₀ (by norm_num)]
        congr 1; omega
      rw [← h3, ← mul_assoc, h, one_mul]
    exact_mod_cast h2
  exact (if_neg hm).trans ((if_neg Bool.false_ne_true).trans (if_pos h1))

theorem special_rcp (s : Bool) (m : Nat) (e : Int) (hm : m ≠ 0) : ∃ g, Special.rcp.apply (.fin s m e) sat n k = .mag s g Flags.none ∧
    g.sticky = false ∧ ((g.num : ℚ) / g.den) * (2 : ℚ) ^ g.exp = 1 / ((m : ℚ) * (2 : ℚ) ^ e) := by
  refine ⟨⟨1, m, -e, false⟩, if_neg hm, rfl, ?_⟩
  dsimp only
  rw [Nat.cast_one, zpow_neg, one_div, one_div, mul_inv]

theorem special_sqrt (m : Nat) (e : Int) (hm : m ≠ 0) :
    Special.sqrt.apply (.fin false m e) sat n k = .mag false (sqrtMag m e) Flags.none := if_neg hm

end

theorem element_results : Claims.ElementResults := by
  refine ⟨fun v x y => ?_, fun f hf x hx k hk => ?_, fun sat n k => ?_⟩
  · refine ⟨fun h => results_nan v h, fun hx hy => ?_, ?_, fun hx hy => ⟨minRes_least hx hy v, maxRes_greatest hx hy v⟩,
      fun h => ⟨nan1_nan _ h, nan1_nan _ h⟩, fun hx => signs_finite hx, fun f => condRes_eq f x y,
      fun hx hy => ⟨Num.lt_finite hx hy, Num.eqv_finite hx hy⟩, fun hx => Num.lt_inf hx, fun hx => Num.unordered_nan hx y,
      fun hx hy => by rw [ordered, hx, hy]; rfl⟩
    · obtain ⟨h1, h2, h3, h4⟩ := divRes_finite hx hy
      exact ⟨addRes_value v hx hy, subRes_value v hx hy, mulRes_value v hx hy, addRes_zero v hx hy, mulRes_zero v hx hy,
        fun z hz => fusedRes_value v hx hy hz, h1, h2, h3, h4⟩
    · rintro s rfl
      refine ⟨fun hy => results_inf v s hy, ?_⟩
      rintro t rfl
      exact results_inf_inf v s t
  · have hlt := shifts_lt f hx (k := k)
    exact ⟨hlt.1, hlt.2, fun j hj => ⟨shiftLeft_bits f x k j hj, shiftRight_bits f hx hk hj⟩⟩
  · exact ⟨special_nan sat n k, special_zero sat n k, special_inf sat n k, rfl, rfl, rfl, special_negative sat n k,
      special_log_one sat n k, special_rcp sat n k, fun m e hm => ⟨_, special_sqrt sat n k m e hm, sqrtMag_bounds m e hm⟩⟩

end Sys2Proof.Machine

namespace Sys2Proof.Machine

/-! ## Reductions, scans, ranks (spec 12, R76, R77, R290 to R293) -/

/-- A mode without draws leaves the LFSRs and draws nothing. -/
theorem VEnv.draw_plain {v : VEnv} (h : v.rd.mode < 4) (fs : AL (BitVec 16)) (l : Nat) : v.draw fs l = (0, fs) :=
  if_neg (by omega)

section
variable {v : VEnv} (hv : v.rd.mode < 4) (op : RedOp)
include hv

theorem RedRun.step_value (r : RedRun) (l : Nat) (x y : Num) : (r.step v op l x y).1 = (op.fp32 v.rd x y 0).1 := by
  rw [RedRun.step, VEnv.draw_plain hv]

/-! ### The tree over 64 lanes -/

/-- What the lanes `l` and `l + w` give, once the upper one has joined the lower. -/
def joined (f : Num → Num → Num) (x y : Option Num) : Option Num :=
  match x, y with
  | some x, some y => some (f x y)
  | x, _ => x

omit hv in
theorem joined_none (f : Num → Num → Num) (x : Option Num) : joined f x none = x := by cases x <;> rfl

/-- One lane of a level. -/
def treeStep (v : VEnv) (op : RedOp) (w : Nat) (acc : AL Num × RedRun) (i : Nat) : AL Num × RedRun :=
  match AL.find acc.1 (i * 2 * w), AL.find acc.1 (i * 2 * w + w) with
  | some x, some y => (AL.put acc.1 (i * 2 * w) (acc.2.step v op (i * 2 * w) x y).1, (acc.2.step v op (i * 2 * w) x y).2)
  | _, _ => acc

omit hv in
theorem treeLevel_eq (w : Nat) (xs : AL Num) (r : RedRun) :
    treeLevel v op w xs r = (List.range (64 / (2 * w))).foldl (treeStep v op w) (xs, r) := rfl

theorem treeStep_find (w : Nat) (acc : AL Num × RedRun) (i l : Nat) : AL.find (treeStep v op w acc i).1 l =
    if l = i * 2 * w then joined (fun x y => (op.fp32 v.rd x y 0).1) (AL.find acc.1 l) (AL.find acc.1 (l + w)) else AL.find acc.1 l := by
  rw [treeStep]
  rcases hx : AL.find acc.1 (i * 2 * w) with _ | x
  · by_cases h : l = i * 2 * w
    · rw [if_pos h, h, hx]; rfl
    · rw [if_neg h]
  rcases hy : AL.find acc.1 (i * 2 * w + w) with _ | y
  · by_cases h : l = i * 2 * w
    · rw [if_pos h, h, hx, hy]; rfl
    · rw [if_neg h]
  dsimp only
  rw [AL.find_put, RedRun.step_value hv]
  by_cases h : l = i * 2 * w
  · rw [if_pos h, if_pos h.symm, h, hx, hy]; rfl
  · rw [if_neg h, if_neg (Ne.symm h)]

/-- A level of the tree: a lane that is a multiple of 2w takes in the lane `w` above it, where there is one; the others stay. -/
theorem treeSteps_find {w : Nat} (hw : 0 < w) (xs : AL Num) (r : RedRun) (n l : Nat) :
    AL.find ((List.range n).foldl (treeStep v op w) (xs, r)).1 l =
    if l % (2 * w) = 0 ∧ l / (2 * w) < n then joined (fun x y => (op.fp32 v.rd x y 0).1) (AL.find xs l) (AL.find xs (l + w))
    else AL.find xs l := by
  induction n generalizing l with
  | zero => rw [if_neg fun h => Nat.not_lt_zero _ h.2]; rfl
  | succ n ih =>
    rw [List.range_succ, List.foldl_append, List.foldl_cons, List.foldl_nil, treeStep_find hv]
    have h1 : n * 2 * w = 2 * w * n := by ring
    have hpos : 0 < 2 * w := by omega
    by_cases h : l = n * 2 * w
    · have hdiv : l / (2 * w) = n := by rw [h, h1, Nat.mul_div_cancel_left _ hpos]
      have hmod : l % (2 * w) = 0 := by rw [h, h1, Nat.mul_mod_right]
      have hup : (l + w) % (2 * w) = w := by rw [Nat.add_mod, hmod, Nat.zero_add, Nat.mod_mod, Nat.mod_eq_of_lt (by omega)]
      rw [if_pos h, ih, ih, if_neg (by omega), if_neg (by omega), if_pos ⟨hmod, by omega⟩]
    · rw [if_neg h, ih]
      have hne : l % (2 * w) = 0 → l / (2 * w) ≠ n := by
        intro hm hd
        apply h
        rw [h1, ← hd]
        exact (Nat.mul_div_cancel' (Nat.dvd_of_mod_eq_zero hm)).symm
      by_cases hm : l % (2 * w) = 0
      · have := hne hm
        by_cases hlt : l / (2 * w) < n
        · rw [if_pos ⟨hm, hlt⟩, if_pos ⟨hm, by omega⟩]
        · rw [if_neg fun h => hlt h.2, if_neg fun h => hlt (by omega)]
      · rw [if_neg fun h => hm h.1, if_neg fun h => hm h.1]

/-- The lanes hold, in multiples of 2^j, what the tree gives in `j` levels. -/
def Lanes (f : Num → Num → Num) (xs : List Num) (j : Nat) (m : AL Num) : Prop :=
  ∀ l < 64, l % 2 ^ j = 0 → AL.find m l = if l < xs.length then some (Claims.treeOf f xs j l) else none

theorem treeLevel_lanes (xs : List Num) (j : Nat) (hj : j < 6) (m : AL Num) (r : RedRun)
    (h : Lanes (fun x y => (op.fp32 v.rd x y 0).1) xs j m) :
    Lanes (fun x y => (op.fp32 v.rd x y 0).1) xs (j + 1) (treeLevel v op (2 ^ j) m r).1 := by
  intro l hl hm
  have h64 : 64 = 2 ^ (j + 1) * 2 ^ (5 - j) := by
    rw [← pow_add, show j + 1 + (5 - j) = 6 by omega]; rfl
  have hp : 2 * 2 ^ j = 2 ^ (j + 1) := by rw [pow_succ]; ring
  have hpos : 0 < 2 ^ (j + 1) := Nat.two_pow_pos _
  have hposj : 0 < 2 ^ j := Nat.two_pow_pos _
  have hlm : l % 2 ^ j = 0 := Nat.mod_eq_zero_of_dvd ((Dvd.intro _ (pow_succ 2 j).symm).trans (Nat.dvd_of_mod_eq_zero hm))
  have hroom : l + 2 ^ j < 64 := by
    obtain ⟨a, ha⟩ := Nat.dvd_of_mod_eq_zero hm
    have h1 : a < 2 ^ (5 - j) := by
      rw [h64, ha] at hl
      exact Nat.lt_of_mul_lt_mul_left hl
    have h2 : 2 ^ (j + 1) * (a + 1) ≤ 2 ^ (j + 1) * 2 ^ (5 - j) := Nat.mul_le_mul_left _ h1
    rw [← h64, Nat.mul_add, ← ha] at h2
    omega
  rw [treeLevel_eq, treeSteps_find hv op hposj, hp]
  rw [if_pos ⟨hm, Nat.div_lt_div_of_lt_of_dvd ⟨_, h64⟩ hl⟩, h l hl hlm,
    h (l + 2 ^ j) hroom (by rw [Nat.add_mod_right]; exact hlm), Claims.treeOf]
  by_cases h1 : l + 2 ^ j < xs.length
  · rw [if_pos h1, if_pos (by omega), if_pos (by omega), if_pos h1]
    rfl
  · rw [if_neg h1, joined_none, if_neg h1]

omit hv in
theorem AL.find_zipIdx {α : Type} (l : List α) (n k : Nat) :
    AL.find ((l.zipIdx n).map (fun x => (x.2, x.1))) k = if n ≤ k then l[k - n]? else none := by
  induction l generalizing n with
  | nil => simp
  | cons x xs ih =>
    rw [List.zipIdx_cons, List.map_cons, AL.find, ih]
    by_cases h : n = k
    · rw [if_pos h, if_pos (by omega), h, Nat.sub_self]; rfl
    · rw [if_neg h]
      by_cases h1 : n ≤ k
      · rw [if_pos (by omega), if_pos h1, show k - n = k - (n + 1) + 1 by omega, List.getElem?_cons_succ]
      · rw [if_neg (by omega), if_neg h1]

omit hv in
theorem lanes_zero (f : Num → Num → Num) (xs : List Num) : Lanes f xs 0 (xs.zipIdx.map (fun x => (x.2, x.1))) := by
  intro k _ _
  rw [AL.find_zipIdx, if_pos (Nat.zero_le k), Nat.sub_zero, Claims.treeOf]
  by_cases h : k < xs.length
  · rw [if_pos h, List.getElem?_eq_getElem h]; rfl
  · rw [if_neg h, List.getElem?_eq_none (by omega)]

/-- The levels of the tree up to the lanes `2^n` apart. -/
theorem treeLevels_lanes (xs : List Num) (r : RedRun) (n : Nat) (hn : n ≤ 6) :
    Lanes (fun x y => (op.fp32 v.rd x y 0).1) xs n
      (((List.range n).map (fun j => 2 ^ j)).foldl (fun acc w => treeLevel v op w acc.1 acc.2)
        (xs.zipIdx.map (fun x => (x.2, x.1)), r)).1 := by
  induction n with
  | zero => exact lanes_zero _ xs
  | succ n ih =>
    rw [List.range_succ, List.map_append, List.foldl_append]
    exact treeLevel_lanes hv op xs n (by omega) _ _ (ih (by omega))

theorem treeChunk_value (x : Num) (xs : List Num) (r : RedRun) :
    (treeChunk v op (x :: xs) r).1 = Claims.treeOf (fun x y => (op.fp32 v.rd x y 0).1) (x :: xs) 6 0 := by
  have h := treeLevels_lanes hv op (x :: xs) r 6 (le_refl 6) 0 (by decide) rfl
  rw [if_pos (show 0 < (x :: xs).length from Nat.succ_pos _)] at h
  rw [show (List.range 6).map (fun j => 2 ^ j) = [1, 2, 4, 8, 16, 32] by decide] at h
  generalize Claims.treeOf _ _ 6 0 = z at h ⊢
  rw [treeChunk]
  dsimp only
  generalize List.foldl _ _ _ = q at h ⊢
  exact AL.get_of_find h

/-! ### Rows in order -/

/-- The steps of a row from element to element. -/
theorem steps_value (x : Num) (xs : List Num) (r : RedRun) :
    (xs.foldl (fun (acc : Num × RedRun) y => acc.2.step v op 0 acc.1 y) (x, r)).1 = xs.foldl (fun x y => (op.fp32 v.rd x y 0).1) x := by
  induction xs generalizing x r with
  | nil => rfl
  | cons y ys ih =>
    rw [List.foldl_cons, List.foldl_cons, ← RedRun.step_value hv op r 0]
    exact ih _ _

omit hv in
theorem chunk64_eq (f : Nat) (xs : List Num) (h : xs.length ≤ f) :
    chunk64 f xs = (List.range ((xs.length + 63) / 64)).map (fun k => (xs.drop (64 * k)).take 64) := by
  induction f generalizing xs with
  | zero =>
    obtain rfl := List.length_eq_zero_iff.mp (Nat.le_zero.mp h)
    rfl
  | succ f ih =>
    rw [chunk64]
    split
    next he => rw [he]; rfl
    next he =>
      have hpos := List.length_pos_iff.mpr he
      have hn : (xs.length + 63) / 64 = ((xs.drop 64).length + 63) / 64 + 1 := by rw [List.length_drop]; omega
      rw [ih _ (by rw [List.length_drop]; omega), hn, List.range_succ_eq_map, List.map_cons, List.map_map, Nat.mul_zero, List.drop_zero]
      congr 1
      refine List.map_congr_left fun k _ => ?_
      rw [Function.comp_apply, List.drop_drop, Nat.mul_succ, Nat.add_comm]

theorem chunks_value (ls : List (List Num)) (h : ∀ l ∈ ls, 0 < l.length) (out : List Num) (r : RedRun) :
    (ls.foldl (fun (acc : List Num × RedRun) ys =>
      let z := treeChunk v op ys acc.2
      (acc.1 ++ [z.1], z.2)) (out, r)).1 =
    out ++ ls.map (fun l => Claims.treeOf (fun x y => (op.fp32 v.rd x y 0).1) l 6 0) := by
  induction ls generalizing out r with
  | nil => simp
  | cons l ls ih =>
    obtain ⟨y, ys, rfl⟩ := List.exists_cons_of_length_pos (h l (List.mem_cons_self ..))
    rw [List.foldl_cons, ih fun l hl => h l (List.mem_cons_of_mem _ hl)]
    dsimp only
    rw [treeChunk_value hv op y ys _, List.map_cons, List.append_assoc, List.singleton_append]

/-- A row under NBV 1 goes from element to element, under NBV 2 by a tree over each 64 lanes, and then from chunk to chunk. -/
theorem reduceFloat_value (x : Num) (xs : List Num) (r : RedRun) :
    (v.nbv = 1 → (reduceFloat v op (x :: xs) r).1 = xs.foldl (fun x y => (op.fp32 v.rd x y 0).1) x) ∧
    (v.nbv = 2 → (reduceFloat v op (x :: xs) r).1 = (List.range (xs.length / 64)).foldl
      (fun acc k => (op.fp32 v.rd acc
        (Claims.treeOf (fun x y => (op.fp32 v.rd x y 0).1) (((x :: xs).drop (64 * (k + 1))).take 64) 6 0) 0).1)
      (Claims.treeOf (fun x y => (op.fp32 v.rd x y 0).1) (((x :: xs).drop (64 * 0)).take 64) 6 0)) := by
  refine ⟨fun h => ?_, fun h => ?_⟩
  · rw [reduceFloat]
    dsimp only
    rw [if_pos h]
    exact steps_value hv op x xs r
  · have h1 : ¬ v.nbv = 1 := by omega
    rw [reduceFloat]
    dsimp only
    rw [if_neg h1, chunks_value hv op _ ?_]
    · rw [chunk64_eq _ _ (le_refl _), List.nil_append, show ((x :: xs).length + 63) / 64 = xs.length / 64 + 1 by
        rw [List.length_cons]; omega, List.range_succ_eq_map, List.map_cons, List.map_cons]
      dsimp only
      rw [steps_value hv, List.foldl_map, List.foldl_map, List.foldl_map]
    · rw [chunk64_eq _ _ (le_refl _)]
      intro l hl
      obtain ⟨k, hk, rfl⟩ := List.mem_map.mp hl
      rw [List.mem_range] at hk
      rw [List.length_take, List.length_drop]
      omega

/-! ### Scans (R77, R290) -/

/-- What a scan stores of a floating value. -/
def scanStore (v : VEnv) (d : Shape) (y : Num) : Nat := (d.finish v.rd (if y.isNan then .num (.nan false) Flags.none else .num y Flags.none) 0).1

/-- A scan within a row, from the second place on. -/
theorem scanFloat_rest (d : Shape) (n k : Nat) (acc : Num) (xs : List Num) (r : RedRun) (out : List Nat) (hk : 0 < k)
    (hn : k + xs.length ≤ n) : (scanFloat v op d n k acc xs r out).1 = out ++ (List.range xs.length).map (fun i =>
      scanStore v d ((xs.take (i + 1)).foldl (fun x y => (op.fp32 v.rd x y 0).1) acc)) := by
  induction xs generalizing k acc r out with
  | nil => rw [scanFloat]; simp
  | cons x xs ih =>
    rw [List.length_cons] at hn
    have hk0 : ¬ k % n = 0 := by rw [Nat.mod_eq_of_lt (by omega)]; omega
    rw [scanFloat]
    rw [if_neg hk0, VEnv.draw_plain hv, ih _ _ _ _ (by omega) (by omega), RedRun.step_value hv, List.length_cons, List.range_succ_eq_map,
      List.map_cons, List.map_map, List.append_assoc]
    rfl

/-- A scan gives the value after each element. -/
theorem scanFloat_value (d : Shape) (acc x : Num) (xs : List Num) (r : RedRun) :
    (scanFloat v op d (x :: xs).length 0 acc (x :: xs) r []).1 = (List.range (x :: xs).length).map (fun k =>
      scanStore v d ((xs.take k).foldl (fun x y => (op.fp32 v.rd x y 0).1) x)) := by
  rw [scanFloat]
  rw [if_pos (Nat.zero_mod _), VEnv.draw_plain hv, scanFloat_rest hv op d _ _ _ _ _ _ (by omega) (by rw [List.length_cons]; omega),
    List.length_cons, List.range_succ_eq_map, List.map_cons, List.map_map]
  rfl

theorem scanInt_rest (d a : Shape) (n k : Nat) (acc : Int) (zs : List Int) (r : RedRun) (out : List Nat) (hk : 0 < k)
    (hn : k + zs.length ≤ n) : (scanInt v op d a n k acc zs r out).1 = out ++ (List.range zs.length).map (fun i =>
      (d.finish v.rd (intRes ((zs.take (i + 1)).foldl (op.int (a.fmt.intSigned == some true) a.bits) acc)) 0).1) := by
  induction zs generalizing k acc r out with
  | nil => rw [scanInt]; simp
  | cons z zs ih =>
    rw [List.length_cons] at hn
    have hk0 : ¬ k % n = 0 := by rw [Nat.mod_eq_of_lt (by omega)]; omega
    rw [scanInt]
    rw [if_neg hk0, VEnv.draw_plain hv, ih _ _ _ _ (by omega) (by omega), List.length_cons, List.range_succ_eq_map,
      List.map_cons, List.map_map, List.append_assoc]
    rfl

theorem scanInt_value (d a : Shape) (acc z : Int) (zs : List Int) (r : RedRun) :
    (scanInt v op d a (z :: zs).length 0 acc (z :: zs) r []).1 = (List.range (z :: zs).length).map (fun k =>
      (d.finish v.rd (intRes ((zs.take k).foldl (op.int (a.fmt.intSigned == some true) a.bits) z)) 0).1) := by
  rw [scanInt]
  rw [if_pos (Nat.zero_mod _), VEnv.draw_plain hv, scanInt_rest hv op d a _ _ _ _ _ _ (by omega) (by rw [List.length_cons]; omega),
    List.length_cons, List.range_succ_eq_map, List.map_cons, List.map_map]
  rfl

end

/-! ### One step on integers -/

theorem redInt_arith (sg : Bool) (w : Nat) (x y : Int) : RedOp.int .add sg w x y = x + y ∧ RedOp.int .mul sg w x y = x * y ∧
    RedOp.int .min sg w x y = min x y ∧ RedOp.int .max sg w x y = max x y := by
  refine ⟨rfl, rfl, ?_, ?_⟩
  · rw [min_comm, min_def_lt]; rfl
  · rw [max_def_lt]; rfl

/-- The integer of a pattern, signed or not. -/
def patternInt (sg : Bool) (w b : Nat) : Int := if sg then signedNat w b else (b : Int)

theorem intBits_patternInt (sg : Bool) {w b : Nat} (hb : b < 2 ^ w) : intBits w (patternInt sg w b) = b := by
  cases sg
  · exact intBits_natCast hb
  · exact intBits_signedNat hb

theorem redInt_bitwise {w x y : Nat} (hx : x < 2 ^ w) (hy : y < 2 ^ w) (sg : Bool) :
    RedOp.int .and sg w (patternInt sg w x) (patternInt sg w y) = patternInt sg w (x &&& y) ∧
    RedOp.int .or sg w (patternInt sg w x) (patternInt sg w y) = patternInt sg w (x ||| y) ∧
    RedOp.int .xor sg w (patternInt sg w x) (patternInt sg w y) = patternInt sg w (x ^^^ y) := by
  simp only [RedOp.int, intBits_patternInt sg hx, intBits_patternInt sg hy]
  exact ⟨rfl, rfl, rfl⟩

/-! ### Ranks (R293) -/

theorem ranksBefore_iff (x y : Num) (j k : Nat) : ranksBefore (x, j) (y, k) = true ↔
    (x.isNan = false ∧ y.isNan = true) ∨ (x.isNan = true ∧ y.isNan = true ∧ j < k) ∨
      (x.isNan = false ∧ y.isNan = false ∧ (y.lt x = true ∨ (x.lt y = false ∧ j < k))) := by
  rw [ranksBefore]
  cases x.isNan <;> cases y.isNan <;> simp

/-- For values that are no NaNs: the greater, or the one before among equals. -/
theorem ranksBefore_place {x y : Num} (hx : x.isNan = false) (hy : y.isNan = false) (j k : Nat) :
    ranksBefore (x, j) (y, k) = true ↔ y.place < x.place ∨ (y.place ≤ x.place ∧ j < k) := by
  rw [ranksBefore_iff, Num.lt_place hy hx, Num.not_lt_place hx hy]
  simp [hx, hy]

theorem ranksBefore_trans {x y z : Num × Nat} (h1 : ranksBefore x y = true) (h2 : ranksBefore y z = true) : ranksBefore x z = true := by
  obtain ⟨x, i⟩ := x
  obtain ⟨y, j⟩ := y
  obtain ⟨z, k⟩ := z
  have g1 := (ranksBefore_iff x y i j).mp h1
  have g2 := (ranksBefore_iff y z j k).mp h2
  rw [ranksBefore_iff]
  by_cases hz : z.isNan = true
  · by_cases hx : x.isNan = true
    · obtain ⟨hy, hij⟩ : y.isNan = true ∧ i < j := by simpa [hx] using g1
      have hjk : j < k := by simpa [hy, hz] using g2
      exact Or.inr (Or.inl ⟨hx, hz, by omega⟩)
    · exact Or.inl ⟨Bool.eq_false_of_not_eq_true hx, hz⟩
  · have hz := Bool.eq_false_of_not_eq_true hz
    have hy : y.isNan = false := by
      simp only [hz, Bool.false_eq_true, and_false, false_and, true_and, false_or] at g2
      exact g2.1
    have hx : x.isNan = false := by
      simp only [hy, Bool.false_eq_true, and_false, false_and, true_and, false_or] at g1
      exact g1.1
    rw [← ranksBefore_iff, ranksBefore_place hx hz]
    rw [ranksBefore_place hx hy] at h1
    rw [ranksBefore_place hy hz] at h2
    rcases h1 with h1 | ⟨h1, hij⟩
    · rcases h2 with h2 | ⟨h2, -⟩
      · exact Or.inl (h2.trans h1)
      · exact Or.inl (h2.trans_lt h1)
    · rcases h2 with h2 | ⟨h2, hjk⟩
      · exact Or.inl (h2.trans_le h1)
      · exact Or.inr ⟨h2.trans h1, by omega⟩

/-- Of two elements at different places one ranks before the other. -/
theorem ranksBefore_total {x y : Num × Nat} (h : x.2 ≠ y.2) : ranksBefore x y = true ∨ ranksBefore y x = true := by
  obtain ⟨x, i⟩ := x
  obtain ⟨y, j⟩ := y
  dsimp only at h
  by_cases hx : x.isNan = true
  · by_cases hy : y.isNan = true
    · simp only [ranksBefore_iff, hx, hy, Bool.true_eq_false, false_and, false_or, true_and, or_false]
      omega
    · right
      exact (ranksBefore_iff ..).mpr (Or.inl ⟨Bool.eq_false_of_not_eq_true hy, hx⟩)
  have hx := Bool.eq_false_of_not_eq_true hx
  by_cases hy : y.isNan = true
  · left
    exact (ranksBefore_iff ..).mpr (Or.inl ⟨hx, hy⟩)
  have hy := Bool.eq_false_of_not_eq_true hy
  rw [ranksBefore_place hx hy, ranksBefore_place hy hx]
  rcases lt_trichotomy x.place y.place with hlt | heq | hgt
  · exact Or.inr (Or.inl hlt)
  · rcases Nat.lt_or_gt_of_ne h with hij | hij
    · exact Or.inl (Or.inr ⟨heq.ge, hij⟩)
    · exact Or.inr (Or.inr ⟨heq.le, hij⟩)
  · exact Or.inl (Or.inl hgt)

theorem rankInsert_perm (x : Num × Nat) (l : List (Num × Nat)) : (rankInsert x l).Perm (x :: l) := by
  induction l with
  | nil => exact .refl _
  | cons y t ih =>
    rw [rankInsert]
    split
    · exact .refl _
    · exact (ih.cons y).trans (.swap x y t)

theorem rankInsert_pairwise (x : Num × Nat) (l : List (Num × Nat)) (hl : l.Pairwise (fun x y => ranksBefore x y = true))
    (hx : ∀ y ∈ l, x.2 ≠ y.2) : (rankInsert x l).Pairwise (fun x y => ranksBefore x y = true) := by
  induction l with
  | nil => exact List.pairwise_singleton ..
  | cons y t ih =>
    obtain ⟨hy, ht⟩ := List.pairwise_cons.mp hl
    rw [rankInsert]
    split
    next hb =>
      refine List.pairwise_cons.mpr ⟨fun z hz => ?_, hl⟩
      rcases List.mem_cons.mp hz with rfl | hz
      · exact hb
      · exact ranksBefore_trans hb (hy z hz)
    next hb =>
      refine List.pairwise_cons.mpr ⟨fun z hz => ?_, ih ht fun z hz => hx z (List.mem_cons_of_mem _ hz)⟩
      rcases List.mem_cons.mp ((rankInsert_perm x t).mem_iff.mp hz) with rfl | hz
      · exact (ranksBefore_total (hx y (List.mem_cons_self ..))).resolve_left hb
      · exact hy z hz

/-- Elements at different places, ranked one after the other. -/
theorem ranked (xs l : List (Num × Nat)) (hl : l.Pairwise (fun x y => ranksBefore x y = true)) (hnd : ((l ++ xs).map Prod.snd).Nodup) :
    (xs.foldl (fun l x => rankInsert x l) l).Perm (l ++ xs) ∧
    (xs.foldl (fun l x => rankInsert x l) l).Pairwise (fun x y => ranksBefore x y = true) := by
  induction xs generalizing l with
  | nil => rw [List.append_nil]; exact ⟨.refl _, hl⟩
  | cons x xs ih =>
    have hp : (rankInsert x l ++ xs).Perm (l ++ x :: xs) := ((rankInsert_perm x l).append_right xs).trans List.perm_middle.symm
    have hx : ∀ y ∈ l, x.2 ≠ y.2 := by
      intro y hy he
      rw [List.map_append, List.nodup_append] at hnd
      exact hnd.2.2 _ (List.mem_map_of_mem hy) _ (List.mem_map_of_mem (List.mem_cons_self ..)) he.symm
    obtain ⟨h1, h2⟩ := ih (rankInsert x l) (rankInsert_pairwise x l hl hx) ((hp.map Prod.snd).nodup_iff.mpr hnd)
    exact ⟨h1.trans hp, h2⟩

theorem topOf_ranked (v : VEnv) (a : Shape) (k : Nat) (row : List Nat) :
    (topOf v a row.length row).Perm ((row.map (decodeNum a.fmt v.rd.ftz)).zipIdx) ∧
    (topOf v a row.length row).Pairwise (fun x y => ranksBefore x y = true) ∧ topOf v a k row = (topOf v a row.length row).take k := by
  have hnd : (([] ++ (row.map (decodeNum a.fmt v.rd.ftz)).zipIdx).map Prod.snd).Nodup := by
    rw [List.nil_append, List.zipIdx_map_snd]
    exact List.nodup_range'
  obtain ⟨h1, h2⟩ := ranked _ [] List.Pairwise.nil hnd
  have hall : topOf v a row.length row = ((row.map (decodeNum a.fmt v.rd.ftz)).zipIdx).foldl (fun l x => rankInsert x l) [] := by
    rw [topOf]
    exact List.take_of_length_le (by rw [h1.length_eq, List.nil_append, List.length_zipIdx, List.length_map])
  rw [hall]
  exact ⟨h1, h2, rfl⟩

end Sys2Proof.Machine

namespace Sys2Proof.Machine

/-! ## Plain bytes of SRAM (spec 09, R175 to R183; spec 12, R276) -/

/-- `t` reaches memory as `s` does: the same fields, checked pairs, channels and atomic engines, and no new poison. -/
structure State.Reaches (s t : State) : Prop where
  field    : ∀ k, (t.cell k).fieldV = (s.cell k).fieldV ∧ (t.cell k).field = (s.cell k).field
  pair     : ∀ k, (t.cell k).paired = (s.cell k).paired ∧ (t.cell k).leader = (s.cell k).leader
  fields   : t.fields = s.fields
  channels : t.channels = s.channels
  atomics  : t.atomics = s.atomics
  poison   : ∀ p ∈ t.poison, p ∈ s.poison

section
variable {s t u : State}

theorem State.Reaches.refl (s : State) : s.Reaches s := ⟨fun _ => ⟨rfl, rfl⟩, fun _ => ⟨rfl, rfl⟩, rfl, rfl, rfl, fun _ h => h⟩

theorem State.Reaches.trans (h : s.Reaches t) (g : t.Reaches u) : s.Reaches u where
  field k := ⟨(g.field k).1.trans (h.field k).1, (g.field k).2.trans (h.field k).2⟩
  pair k := ⟨(g.pair k).1.trans (h.pair k).1, (g.pair k).2.trans (h.pair k).2⟩
  fields := g.fields.trans h.fields
  channels := g.channels.trans h.channels
  atomics := g.atomics.trans h.atomics
  poison p hp := h.poison p (g.poison p hp)

theorem State.Reaches.fieldOf (h : s.Reaches t) (k : Nat) : t.fieldOf k = s.fieldOf k := by
  simp only [State.fieldOf, h.field, h.fields]

theorem State.Reaches.segsOf (h : s.Reaches t) (k : Nat) : t.segsOf k = s.segsOf k := by
  simp only [State.segsOf, h.fieldOf]

theorem State.Reaches.flatFenced (h : s.Reaches t) (a : Nat) : t.flatFenced a = s.flatFenced a := by
  simp only [State.flatFenced, State.fencedCell, h.fieldOf]

theorem State.Reaches.raceOn (h : s.Reaches t) (a : Nat) : t.raceOn a = s.raceOn a := by
  simp only [State.raceOn, h.segsOf]

theorem State.Reaches.follower (h : s.Reaches t) (k : Nat) : t.follower k = s.follower k := by
  simp only [State.follower, h.pair]

theorem State.Reaches.cold (h : s.Reaches t) (l : Nat) : t.cold l = s.cold l := by
  simp only [State.cold, h.atomics]

theorem State.Reaches.clean (h : s.Reaches t) {a n : Nat} (hs : s.poisoned a n = false) : t.poisoned a n = false := by
  simp only [State.poisoned, Bool.or_eq_false_iff, h.channels] at hs ⊢
  refine ⟨?_, hs.2⟩
  rw [List.any_eq_false] at hs ⊢
  exact fun p hp => hs.1 p (h.poison p hp)

/-- A plain run stays one. -/
theorem State.PlainRun.reached {w w' : Who} {va n a : Nat} (hp : s.PlainRun w va n a) (h : s.Reaches t) (hsegs : w'.segs = w.segs)
    (hwin : w'.window = w.window) : t.PlainRun w' va n a where
  top := hp.top
  sram := hp.sram
  place k hk need := by rw [hsegs, hwin]; exact hp.place k hk need
  open_ k hk := (h.flatFenced _).trans (hp.open_ k hk)
  clean := h.clean hp.clean
  race k hk := (h.raceOn _).trans (hp.race k hk)
  alone k hk c hc := (h.follower c).trans (hp.alone k hk c hc)
  cold k hk := (h.cold _).trans (hp.cold k hk)

/-- A part of a plain run. -/
theorem State.PlainRun.part {w : Who} {va n a : Nat} (hp : s.PlainRun w va n a) {o k : Nat} (hk : 0 < k) (hn : o + k ≤ n) :
    s.PlainRun w (va + o) k (a + o) where
  top := by have := hp.top; omega
  sram := by have := hp.sram; omega
  place j hj need := by rw [Nat.add_assoc, Nat.add_assoc]; exact hp.place (o + j) (by omega) need
  open_ j hj := by rw [Nat.add_assoc]; exact hp.open_ (o + j) (by omega)
  clean := by
    have h1 := hp.clean
    have h2 := hp.sram
    simp only [State.poisoned, Bool.or_eq_false_iff, List.any_eq_false, Bool.and_eq_true, decide_eq_true_eq, not_and, Nat.not_lt] at h1 ⊢
    refine ⟨fun p hp h => (h1.1 p hp (by omega)).trans (by omega), ?_⟩
    rw [decide_eq_false (by omega), Bool.false_and]
  race j hj := by rw [Nat.add_assoc]; exact hp.race (o + j) (by omega)
  alone j hj c hc := by rw [Nat.add_assoc] at hc; exact hp.alone (o + j) (by omega) c hc
  cold j hj := by rw [Nat.add_assoc]; exact hp.cold (o + j) (by omega)

/-! ### One access in one doubleword -/

/-- What a plain access to a line in no engine's hands leaves. -/
theorem State.plainTo_cold (keep : Resident → Bool) (field a : Nat) (h : s.cold (a / 64) = true) : s.plainTo keep field (.sram a) = s :=
  if_pos h

theorem readPiece_sram {w : Who} {va n a : Nat} {need : Need} (hr : resolve w.segs w.window va need = .sram a)
    (hf : s.flatFenced a = false) (hc : s.poisoned a n = false) (hcold : s.cold (a / 64) = true) :
    (readPiece w va n need).exec s = (.ok (s.mem.bytes a n), s) := by
  rw [readPiece, M.exec_bind, M.exec_state]
  dsimp only
  rw [hr]
  dsimp only
  rw [State.readTarget, if_neg (by rw [hf]; exact Bool.false_ne_true), if_neg (by rw [hc]; exact Bool.false_ne_true), useAnswer]
  dsimp only
  rw [M.exec_bind, M.exec_put, State.plainTo_cold _ _ _ hcold]
  rfl

/-- Bytes written where they are not mirrored. -/
def State.wroteAt (s : State) (a : Nat) (bs : List Byte) : State :=
  { s with
    mem := s.mem.setBytes a bs,
    poison := s.poison.filter (fun p => !(decide (a ≤ p) && decide (p + 8 ≤ a + bs.length))) }

theorem State.writeTarget_sram {a field : Nat} {bs : List Byte} {by_ : Option RaceBy} {v : Nat → Violation}
    (hf : s.flatFenced a = false) (hn : s.narrowPoison a bs.length = false) (hrace : s.raceOn a = false) (hm : s.mirrorAt a = none) :
    s.writeTarget field (.sram a) bs by_ v = (.ok [], s.wroteAt a bs) := by
  have hflat : s.writeFlat a bs = s.wroteAt a bs := by rw [State.writeFlat, hm]; rfl
  unfold State.writeTarget
  dsimp only
  rw [if_neg (by rw [hf]; exact Bool.false_ne_true), if_neg (by rw [hn]; exact Bool.false_ne_true)]
  cases by_ with
  | none => rw [← hflat]
  | some b =>
    dsimp only
    rw [State.noteStore, if_neg (by rw [hrace]; exact Bool.false_ne_true), hflat]

theorem writePiece_sram {w : Who} {va a : Nat} {bs : List Byte} (hr : resolve w.segs w.window va .w = .sram a)
    (hf : s.flatFenced a = false) (hn : s.narrowPoison a bs.length = false) (hrace : s.raceOn a = false)
    (hm : s.mirrorAt a = none) (hcold : s.cold (a / 64) = true) :
    (writePiece w va bs).exec s = (.ok (), s.wroteAt a bs) := by
  have hcold' : (s.wroteAt a bs).cold (a / 64) = true := hcold
  rw [writePiece, M.exec_bind, M.exec_state]
  dsimp only
  rw [hr]
  dsimp only
  rw [M.exec_bind, State.writeTarget_sram hf hn hrace hm, useAnswer]
  dsimp only
  rw [M.exec_bind, M.exec_put, State.plainTo_cold _ _ _ hcold']
  rfl

/-! ### Runs of bytes -/

theorem State.PlainRun.mirror {w : Who} {va n a : Nat} (hp : s.PlainRun w va n a) (hn : 0 < n) : s.mirrorAt a = none := by
  rw [State.mirrorAt]
  split
  next c hc =>
    split
    · rw [hp.alone 0 hn c hc]; rfl
    · rfl
  · rfl

/-- No write covers a poisoned doubleword of a plain run in part: there is none. -/
theorem State.PlainRun.narrow {w : Who} {va n a : Nat} (hp : s.PlainRun w va n a) (hn : 0 < n) : s.narrowPoison a n = false := by
  have hc := hp.clean
  rw [State.poisoned, Bool.or_eq_false_iff, List.any_eq_false] at hc
  rw [State.narrowPoison]
  dsimp only
  rw [hp.mirror hn, Bool.or_eq_false_iff]
  refine ⟨List.any_eq_false.mpr fun p hmem h => hc.1 p hmem ?_, rfl⟩
  rw [Bool.and_eq_true] at h
  exact h.1

/-- What a run writes: memory, and the poison that it covers. -/
structure State.Wrote (s t : State) : Prop where
  rest   : { t with mem := s.mem, poison := s.poison } = s
  poison : ∀ p ∈ t.poison, p ∈ s.poison

theorem State.Wrote.refl (s : State) : s.Wrote s := ⟨rfl, fun _ h => h⟩

theorem State.Wrote.trans (h : s.Wrote t) (g : t.Wrote u) : s.Wrote u where
  rest := by
    have h1 := congrArg (fun x : State => { x with mem := s.mem, poison := s.poison }) g.rest
    exact h1.trans h.rest
  poison p hp := h.poison p (g.poison p hp)

theorem State.wroteAt_wrote (s : State) (a : Nat) (bs : List Byte) : s.Wrote (s.wroteAt a bs) :=
  ⟨rfl, fun _ hp => (List.mem_filter.mp hp).1⟩

theorem State.Wrote.cells (h : s.Wrote t) : t.cells = s.cells := by
  have h1 := congrArg State.cells h.rest; exact h1

theorem State.Wrote.reaches (h : s.Wrote t) : s.Reaches t := by
  have hc : ∀ k, t.cell k = s.cell k := State.cell_of_cells h.cells
  have h1 := congrArg State.fields h.rest
  have h2 := congrArg State.channels h.rest
  have h3 := congrArg State.atomics h.rest
  exact ⟨fun k => by rw [hc]; exact ⟨rfl, rfl⟩, fun k => by rw [hc]; exact ⟨rfl, rfl⟩, h1, h2, h3, h.poison⟩

theorem Memory.bytes_add (m : Memory) (a k n : Nat) : m.bytes a (k + n) = m.bytes a k ++ m.bytes (a + k) n := by
  induction k generalizing a with
  | zero => rw [Nat.zero_add]; rfl
  | succ k ih =>
    rw [Nat.succ_add, Memory.bytes, Memory.bytes, List.cons_append, ih, show a + 1 + k = a + (k + 1) by omega]

/-- The first piece of a run, up to the next doubleword. -/
theorem pieces_cons {f va n : Nat} (hn : 0 < n) (htop : va + n ≤ 2 ^ 48) :
    pieces (f + 1) va n = (va, min n (8 - va % 8)) :: pieces f (va + min n (8 - va % 8)) (n - min n (8 - va % 8)) := by
  have hva : va % 2 ^ 48 = va := Nat.mod_eq_of_lt (by omega)
  rw [pieces, if_neg (by omega), hva]

theorem pieces_zero (f va : Nat) : pieces f va 0 = [] := by
  cases f with
  | zero => rfl
  | succ f => rw [pieces, if_pos rfl]

theorem State.PlainRun.readPiece {w : Who} {va n a : Nat} (hp : s.PlainRun w va n a) (hn : 0 < n) (need : Need) :
    (Machine.readPiece w va n need).exec s = (.ok (s.mem.bytes a n), s) :=
  readPiece_sram (hp.place 0 hn need) (hp.open_ 0 hn) hp.clean (hp.cold 0 hn)

theorem State.PlainRun.writePiece {w : Who} {va n a : Nat} (hp : s.PlainRun w va n a) (hn : 0 < n) {bs : List Byte} (hb : bs.length = n) :
    (Machine.writePiece w va bs).exec s = (.ok (), s.wroteAt a bs) :=
  writePiece_sram (hp.place 0 hn .w) (hp.open_ 0 hn) (by rw [hb]; exact hp.narrow hn) (hp.race 0 hn) (hp.mirror hn) (hp.cold 0 hn)

/-- The bytes of a plain run are read, and nothing changes. -/
theorem State.PlainRun.readPieces {w : Who} (need : Need) (f : Nat) {va n a : Nat} (hp : 0 < n → s.PlainRun w va n a) (hf : n ≤ f)
    (acc : List Byte) : ((pieces f va n).foldlM (fun acc p => do let bs ← Machine.readPiece w p.1 p.2 need; pure (acc ++ bs)) acc : M _).exec s =
      (.ok (acc ++ s.mem.bytes a n), s) := by
  induction f generalizing va n a acc with
  | zero =>
    obtain rfl : n = 0 := by omega
    rw [pieces_zero, List.foldlM_nil, M.exec_pure, Memory.bytes, List.append_nil]
  | succ f ih =>
    by_cases hn : 0 < n
    · have hrun := hp hn
      rw [pieces_cons hn hrun.top]
      generalize hk : min n (8 - va % 8) = k
      have hk0 : 0 < k := by omega
      have hkn : k ≤ n := by omega
      have hfirst := hrun.part (o := 0) hk0 (by omega)
      rw [Nat.add_zero, Nat.add_zero] at hfirst
      rw [List.foldlM_cons, M.exec_bind, M.exec_bind, hfirst.readPiece hk0]
      dsimp only
      rw [M.exec_pure]
      dsimp only
      rw [ih (a := a + k) (fun h => hrun.part h (by omega)) (by omega), List.append_assoc, ← Memory.bytes_add, Nat.add_sub_cancel' hkn]
    · obtain rfl : n = 0 := by omega
      rw [pieces_zero, List.foldlM_nil, M.exec_pure, Memory.bytes, List.append_nil]

theorem State.PlainRun.readVa {w : Who} {va n a : Nat} (hp : 0 < n → s.PlainRun w va n a) (need : Need) :
    (Machine.readVa w va n need).exec s = (.ok (s.mem.bytes a n), s) := by
  rw [Machine.readVa, State.PlainRun.readPieces need n hp (le_refl n), List.nil_append]

/-- Bytes are written to a plain run. -/
theorem State.PlainRun.writePieces {w : Who} (f : Nat) {va n a : Nat} (hp : 0 < n → s.PlainRun w va n a) (hf : n ≤ f)
    {bs : List Byte} (hb : bs.length = n) : ∃ r t, ((pieces f va n).foldlM
      (fun rest p => do Machine.writePiece w p.1 (rest.take p.2); pure (rest.drop p.2)) bs : M _).exec s = (.ok r, t) ∧ s.Wrote t := by
  induction f generalizing s va n a bs with
  | zero =>
    obtain rfl : n = 0 := by omega
    rw [pieces_zero, List.foldlM_nil, M.exec_pure]
    exact ⟨_, _, rfl, .refl s⟩
  | succ f ih =>
    by_cases hn : 0 < n
    · have hrun := hp hn
      rw [pieces_cons hn hrun.top]
      generalize hk : min n (8 - va % 8) = k
      have hk0 : 0 < k := by omega
      have hfirst := hrun.part (o := 0) hk0 (by omega)
      rw [Nat.add_zero, Nat.add_zero] at hfirst
      rw [List.foldlM_cons, M.exec_bind, M.exec_bind, hfirst.writePiece hk0 (by rw [List.length_take]; omega)]
      dsimp only
      rw [M.exec_pure]
      dsimp only
      have hw := s.wroteAt_wrote a (bs.take k)
      obtain ⟨r, t, ht, hwt⟩ := ih (n := n - k) (a := a + k) (bs := bs.drop k) (fun h => (hrun.part h (by omega)).reached hw.reaches rfl rfl)
        (by omega) (by rw [List.length_drop, hb])
      exact ⟨r, t, ht, hw.trans hwt⟩
    · obtain rfl : n = 0 := by omega
      rw [pieces_zero, List.foldlM_nil, M.exec_pure]
      exact ⟨_, _, rfl, .refl s⟩

theorem State.PlainRun.writeVaM {w : Who} {va n a : Nat} (hp : 0 < n → s.PlainRun w va n a) {bs : List Byte} (hb : bs.length = n) :
    ∃ t, (Machine.writeVaM w va bs).exec s = (.ok (), t) ∧ s.Wrote t := by
  rw [← hb] at hp
  obtain ⟨r, t, ht, hw⟩ := State.PlainRun.writePieces bs.length hp (le_refl _) rfl
  refine ⟨t, ?_, hw⟩
  rw [Machine.writeVaM, M.exec_bind, ht]
  rfl

theorem boundStop_inside {w : Who} {va : Int} {op : Nat} (h0 : 0 ≤ va) (h1 : va < 2 ^ 48) : (boundStop w va op).exec s = (.ok (), s) := by
  rw [boundStop, if_neg (by omega)]
  rfl

theorem straddleStop_one {w : Who} {va n op : Nat} (h : oneRegion w.segs va n = true) : (straddleStop w va n op).exec s = (.ok (), s) := by
  rw [straddleStop, if_pos h]
  rfl

end

end Sys2Proof.Machine

namespace Sys2Proof.Machine

/-! ## What a unit of work over plain bytes leaves (spec 12, R274 to R276) -/

/-- Between two states of a unit of work of the group: memory stays within reach, the engines of the cell and what is in flight stay, and
the program goes on at its address. -/
structure Works (s t : State) (c : Ctx) : Prop where
  reaches : s.Reaches t
  engine  : ∀ v, (t.cell c.cell).engine v = (s.cell c.cell).engine v
  flights : t.flights = s.flights
  prog    : ∀ y, AL.find s.progs (s.progId c) = some y → ∃ z, AL.find t.progs (s.progId c) = some z ∧ z.life = y.life ∧ z.pc = y.pc ∧
              z.resume = y.resume

section
variable {s t u : State} {c : Ctx}

theorem Works.progId (h : Works s t c) : t.progId c = s.progId c := by
  simp only [State.progId, h.engine]

theorem Works.refl (s : State) (c : Ctx) : Works s s c := ⟨.refl s, fun _ => rfl, rfl, fun y hy => ⟨y, hy, rfl, rfl, rfl⟩⟩

theorem Works.trans (h : Works s t c) (g : Works t u c) : Works s u c where
  reaches := h.reaches.trans g.reaches
  engine v := (g.engine v).trans (h.engine v)
  flights := g.flights.trans h.flights
  prog y hy := by
    obtain ⟨z, hz, h1, h2, h3⟩ := h.prog y hy
    obtain ⟨x, hx, g1, g2, g3⟩ := g.prog z (by rw [h.progId]; exact hz)
    rw [h.progId] at hx
    exact ⟨x, hx, g1.trans h1, g2.trans h2, g3.trans h3⟩

theorem Works.of_wrote (h : s.Wrote t) : Works s t c where
  reaches := h.reaches
  engine v := by rw [State.cell_of_cells h.cells]
  flights := by have h1 := congrArg State.flights h.rest; exact h1
  prog y hy := by
    have h1 := congrArg State.progs h.rest
    have h2 : t.progs = s.progs := h1
    exact ⟨y, by rw [h2]; exact hy, rfl, rfl, rfl⟩

/-- A change of the engines that keeps the program going. -/
theorem Works.of_engineChange {f : Prog → Prog} (h : EngineChange s t c f) (hlife : ∀ y, (f y).life = y.life) (hpc : ∀ y, (f y).pc = y.pc)
    (hres : ∀ y, (f y).resume = y.resume) : Works s t c where
  reaches := by
    have hcell : ∀ k, (t.cell k).workOf (s.cell k) = s.cell k := by
      intro k
      by_cases hk : k = c.cell
      · rw [hk]; exact h.cell
      · rw [h.cells k hk]; rfl
    have h1 := congrArg State.fields h.rest
    have h2 := congrArg State.channels h.rest
    have h3 := congrArg State.atomics h.rest
    have h4 := congrArg State.poison h.rest
    have h5 : t.poison = s.poison := h4
    refine ⟨fun k => ⟨?_, ?_⟩, fun k => ⟨?_, ?_⟩, h1, h2, h3, fun p hp => by rwa [← h5]⟩
    · have := congrArg Cell.fieldV (hcell k); exact this
    · have := congrArg Cell.field (hcell k); exact this
    · have := congrArg Cell.paired (hcell k); exact this
    · have := congrArg Cell.leader (hcell k); exact this
  engine := h.engine
  flights := h.flights
  prog y hy := ⟨f y, by rw [h.prog, hy]; rfl, hlife y, hpc y, hres y⟩

theorem Works.of_same (h : EngineChange s t c id) : Works s t c :=
  .of_engineChange h (fun _ => rfl) (fun _ => rfl) fun _ => rfl

/-- A change of a program that keeps it going. -/
theorem Works.modProg (s : State) (c : Ctx) (p : Nat) (f : Prog → Prog) (hlife : ∀ y, (f y).life = y.life) (hpc : ∀ y, (f y).pc = y.pc)
    (hres : ∀ y, (f y).resume = y.resume) : Works s (s.modProg p f) c where
  reaches := by
    have hc : ∀ k, (s.modProg p f).cell k = s.cell k := State.cell_of_cells (by simp)
    exact ⟨fun k => by rw [hc]; exact ⟨rfl, rfl⟩, fun k => by rw [hc]; exact ⟨rfl, rfl⟩, by simp, by simp, by simp, by simp⟩
  engine v := by rw [State.cell_of_cells (State.modProg_cells s p f)]
  flights := by simp
  prog y hy := by
    rw [State.find_modProg]
    by_cases h : p = s.progId c
    · rw [if_pos h, h, hy]
      exact ⟨f y, rfl, hlife y, hpc y, hres y⟩
    · rw [if_neg h]
      exact ⟨y, hy, rfl, rfl, rfl⟩

/-- A change of what an engine of a cell works on. -/
theorem Works.modCell (s : State) (c : Ctx) (k : Nat) (f : Cell → Cell) (hf : ∀ y, (f y).workOf y = y) : Works s (s.modCell k f) c := by
  have hcell : ∀ j, ((s.modCell k f).cell j).workOf (s.cell j) = s.cell j := by
    intro j
    rw [State.cell_modCell]
    split
    next h => rw [h, hf]
    · rfl
  refine ⟨⟨fun j => ⟨?_, ?_⟩, fun j => ⟨?_, ?_⟩, rfl, rfl, rfl, fun _ h => h⟩, fun v => ?_, rfl, fun y hy => ⟨y, hy, rfl, rfl, rfl⟩⟩
  · have := congrArg Cell.fieldV (hcell j); exact this
  · have := congrArg Cell.field (hcell j); exact this
  · have := congrArg Cell.paired (hcell j); exact this
  · have := congrArg Cell.leader (hcell j); exact this
  · have := congrArg (fun y : Cell => y.engine v) (hcell c.cell)
    cases v <;> exact this

theorem Works.plain (h : Works s t c) {va n a : Nat} (hp : s.PlainRun (s.whoGroup c) va n a) {w : Who} (hsegs : w.segs = t.segsOf c.cell)
    (hwin : w.window = some c.cell) : t.PlainRun w va n a :=
  hp.reached h.reaches (by rw [hsegs, h.reaches.segsOf]; rfl) hwin

/-! ### Writes -/

/-- A write that is made: of an accumulator, or of bytes of SRAM in one region. -/
def UWrite.Plain (s : State) (c : Ctx) : UWrite → Prop
  | .acc _ _ _ => True
  | .mem va bs nib _ => 0 ≤ va ∧ 0 < bs.length ∧ (nib ≠ none → bs.length = 1) ∧ oneRegion (s.segsOf c.cell) va.toNat bs.length = true ∧
      ∃ a, s.PlainRun (s.whoGroup c) va.toNat bs.length a

theorem UWrite.Plain.works {w : UWrite} (hw : w.Plain s c) (h : Works s t c) : w.Plain t c := by
  cases w with
  | acc frag i v => trivial
  | mem va bs nib cls =>
    obtain ⟨h0, hn, h1, hone, a, ha⟩ := hw
    exact ⟨h0, hn, h1, by rw [h.reaches.segsOf]; exact hone, a, h.plain ha rfl rfl⟩

theorem UWrite.Plain.perform {w : UWrite} (hw : w.Plain s c) : ∃ t, (w.perform (s.whoGroup c)).exec s = (.ok (), t) ∧ Works s t c := by
  cases w with
  | acc frag i v =>
    refine ⟨_, rfl, ?_⟩
    exact .modCell s c _ _ fun _ => rfl
  | mem va bs nib cls =>
    obtain ⟨h0, hn, h1, hone, a, ha⟩ := hw
    have hrun : s.PlainRun ((s.whoGroup c).inClass cls) va.toNat bs.length a := ha.reached (.refl s) rfl rfl
    have htop := ha.top
    unfold UWrite.perform
    rw [M.exec_bind, boundStop_inside h0 (by omega)]
    dsimp only
    rw [M.exec_bind, straddleStop_one hone]
    dsimp only
    cases nib with
    | none =>
      obtain ⟨t, ht, hw⟩ := State.PlainRun.writeVaM (bs := bs) (fun _ => hrun) rfl
      exact ⟨t, ht, .of_wrote hw⟩
    | some high =>
      have hlen := h1 (by simp)
      rw [hlen] at hrun
      dsimp only
      have hread := State.PlainRun.readVa (w := { (s.whoGroup c).inClass cls with opR := ((s.whoGroup c).inClass cls).opW })
        (fun _ => hrun.reached (.refl s) rfl rfl) .w
      rw [M.exec_bind, hread]
      dsimp only
      obtain ⟨t, ht, hw⟩ := State.PlainRun.writeVaM (bs := [BitVec.ofNat 8 (if high = true then
        leNat (s.mem.bytes a 1) % 16 + 16 * leNat bs else leNat (s.mem.bytes a 1) / 16 * 16 + leNat bs)]) (fun _ => hrun) rfl
      exact ⟨t, ht, .of_wrote hw⟩

theorem Works.endWait (s : State) (c : Ctx) (r : FaultReq) : Works s (s.endWait r) c := .of_same (.endWait s c r)

/-- Such writes are made, one after the other. -/
theorem written_plain (ws : List UWrite) (hws : ∀ w ∈ ws, w.Plain s c) :
    ∃ t, Claims.Written (fun u => u.whoGroup c) (fun u => u.endWait (u.req c)) ws s t ∧ Works s t c := by
  induction ws generalizing s with
  | nil => exact ⟨s, rfl, .refl s c⟩
  | cons w ws ih =>
    obtain ⟨u, hu, hwu⟩ := (hws w (List.mem_cons_self ..)).perform
    have hwe := hwu.trans (.endWait u c (u.req c))
    obtain ⟨t, ht, hwt⟩ := ih fun w hw => (hws w (List.mem_cons_of_mem _ hw)).works hwe
    exact ⟨t, ⟨u, hu, ht⟩, hwe.trans hwt⟩

theorem unitWritten_plain (ws : List UWrite) (hws : ∀ w ∈ ws, w.Plain s c) : ∃ t, Claims.UnitWritten c ws s t ∧ Works s t c := by
  have hwe := Works.endWait s c (s.req c)
  obtain ⟨t, ht, hwt⟩ := written_plain ws fun w hw => (hws w hw).works hwe
  exact ⟨t, ht, hwe.trans hwt⟩

end

end Sys2Proof.Machine

namespace Sys2Proof.Machine

/-! ## Computations over plain bytes (spec 12, R269 to R276) -/

/-- From every state of the unit of work the computation ends without a stop, in a state of it, with a value as said. -/
def M.Goes {α : Type} (m : M α) (s : State) (c : Ctx) (Q : α → Prop) : Prop :=
  ∀ u, Works s u c → ∃ x t, m.exec u = (.ok x, t) ∧ Works u t c ∧ Q x

section
variable {α β : Type} {s : State} {c : Ctx} {P : α → Prop} {Q : β → Prop}

theorem M.Goes.pure {x : α} (h : P x) : (Pure.pure x : M α).Goes s c P := fun u _ => ⟨x, u, rfl, .refl u c, h⟩

theorem M.Goes.bind {m : M α} {k : α → M β} (hm : m.Goes s c P) (hk : ∀ x, P x → (k x).Goes s c Q) : (m >>= k).Goes s c Q := by
  intro u hu
  obtain ⟨x, t, hx, hw, hp⟩ := hm u hu
  obtain ⟨y, r, hy, hr, hq⟩ := hk x hp t (hu.trans hw)
  exact ⟨y, r, by rw [M.exec_bind, hx]; exact hy, hw.trans hr, hq⟩

theorem M.Goes.imp {m : M α} {P' : α → Prop} (hm : m.Goes s c P) (h : ∀ x, P x → P' x) : m.Goes s c P' := by
  intro u hu
  obtain ⟨x, t, hx, hw, hp⟩ := hm u hu
  exact ⟨x, t, hx, hw, h x hp⟩

theorem M.Goes.state {k : State → M β} (hk : ∀ u, Works s u c → (k u).Goes s c Q) : (M.state >>= k).Goes s c Q := by
  intro u hu
  obtain ⟨y, t, hy, hw, hq⟩ := hk u hu u hu
  exact ⟨y, t, by rw [M.exec_bind, M.exec_state]; exact hy, hw, hq⟩

/-- The state is changed within the unit of work. -/
theorem M.Goes.modify {f : State → State} (hf : ∀ u, Works s u c → Works u (f u) c) :
    (M.state >>= fun u => M.put (f u)).Goes s c (fun _ => True) :=
  fun u hu => ⟨(), f u, rfl, hf u hu, trivial⟩

theorem M.Goes.ite {p : Prop} [Decidable p] {m n : M α} (hm : p → m.Goes s c P) (hn : ¬ p → n.Goes s c P) :
    (if p then m else n).Goes s c P := by
  by_cases h : p
  · rw [if_pos h]; exact hm h
  · rw [if_neg h]; exact hn h

theorem M.Goes.mapM {f : α → M β} {l : List α} (hf : ∀ x ∈ l, (f x).Goes s c Q) :
    (l.mapM f).Goes s c (fun ys => ys.length = l.length ∧ ∀ y ∈ ys, Q y) := by
  induction l with
  | nil => rw [List.mapM_nil]; exact .pure ⟨rfl, by simp⟩
  | cons x l ih =>
    rw [List.mapM_cons]
    refine (hf x (List.mem_cons_self ..)).bind fun y hy => (ih fun z hz => hf z (List.mem_cons_of_mem _ hz)).bind fun ys hys => .pure ?_
    exact ⟨by rw [List.length_cons, hys.1, List.length_cons], List.forall_mem_cons.mpr ⟨hy, hys.2⟩⟩

theorem M.Goes.forM {f : α → M PUnit} {l : List α} (hf : ∀ x ∈ l, (f x).Goes s c (fun _ => True)) :
    (l.forM f).Goes s c (fun _ => True) := by
  induction l with
  | nil => exact .pure trivial
  | cons x l ih => exact (hf x (List.mem_cons_self ..)).bind fun _ _ => ih fun z hz => hf z (List.mem_cons_of_mem _ hz)

/-- A computation that reads and changes nothing. -/
theorem M.Goes.of_read {m : M α} (h : ∀ u, Works s u c → ∃ x, m.exec u = (.ok x, u) ∧ P x) : m.Goes s c P := by
  intro u hu
  obtain ⟨x, hx, hp⟩ := h u hu
  exact ⟨x, u, hx, .refl u c, hp⟩

end

/-- An environment of the group: its reader has the segments and the window of the cell. -/
structure VEnv.On (v : VEnv) (s : State) (c : Ctx) : Prop where
  segs   : v.who.segs = s.segsOf c.cell
  window : v.who.window = some c.cell

/-- The elements of a shape below `n` can be read and written where they stand: accumulators, or bytes of SRAM in one region. -/
structure State.Elements (s : State) (c : Ctx) (h : Shape) (n : Nat) : Prop where
  fmt   : h.fmt ≠ .es4
  place : ∀ e < n, h.loc = 2 ∨ (h.loc = 0 ∧ 0 ≤ (elemPlace h.base (h.index e) h.bits).1 ∧
    oneRegion (s.segsOf c.cell) (elemPlace h.base (h.index e) h.bits).1.toNat ((h.bits + 7) / 8) = true ∧
    ∃ f, s.PlainRun (s.whoGroup c) (elemPlace h.base (h.index e) h.bits).1.toNat ((h.bits + 7) / 8) f)

section
variable {s : State} {c : Ctx} {v : VEnv} {h d : Shape} {n e : Nat}

theorem Shape.bits_cases (h : Shape) : h.bits = 4 ∨ h.bits = 8 ∨ h.bits = 16 ∨ h.bits = 32 ∨ h.bits = 64 := h.fmt.bits_cases

theorem State.Elements.mono (hh : s.Elements c h n) {k : Nat} (hk : k ≤ n) : s.Elements c h k :=
  ⟨hh.fmt, fun e he => hh.place e (by omega)⟩

/-! ### Reading elements -/

theorem readBits_goes (hv : v.On s c) (hh : s.Elements c h n) (he : e < n) : (readBits v h e).Goes s c (fun _ => True) := by
  rw [readBits]
  rcases hh.place e he with h2 | ⟨h0, hva, hone, f, hf⟩
  · rw [if_pos h2]
    exact .state fun u hu => .pure trivial
  · rw [if_neg (by omega)]
    refine .of_read fun u hu => ?_
    have hn : 0 < (h.bits + 7) / 8 := by rcases h.bits_cases with h | h | h | h | h <;> omega
    have htop := hf.top
    have hrun : u.PlainRun (v.whoOf h) (elemPlace h.base (h.index e) h.bits).1.toNat ((h.bits + 7) / 8) f :=
      hf.reached hu.reaches hv.segs hv.window
    rw [M.exec_bind, boundStop_inside hva (by omega)]
    dsimp only
    rw [M.exec_bind, straddleStop_one (by rw [VEnv.whoOf, Who.inClass, hv.segs]; exact hone)]
    dsimp only
    rw [M.exec_bind, State.PlainRun.readVa fun _ => hrun]
    exact ⟨_, rfl, trivial⟩

theorem readNum_goes (hv : v.On s c) (hh : s.Elements c h n) (he : e < n) : (readNum v h e).Goes s c (fun _ => True) := by
  rw [readNum, if_neg hh.fmt]
  exact (readBits_goes hv hh he).bind fun _ _ => .pure trivial

theorem readOld_goes (hv : v.On s c) (hh : s.Elements c h n) (he : e < n) (always : Bool) :
    (readOld v h always e).Goes s c (fun _ => True) := by
  rw [readOld]
  refine (readBits_goes hv hh he).bind fun x _ => .state fun u _ => ?_
  dsimp only
  refine .ite (fun _ => .pure trivial) fun _ => .ite (fun _ => .pure trivial) fun _ => ?_
  exact .ite (fun _ => .pure trivial) fun _ => .pure trivial

/-! ### Writing elements -/

theorem writeOf_plain (hh : s.Elements c h n) (he : e < n) (b : Nat) : ∀ w ∈ h.writeOf e b, w.Plain s c := by
  intro w hw
  rw [Shape.writeOf] at hw
  rcases hh.place e he with h2 | ⟨h0, hva, hone, f, hf⟩
  · rw [if_pos h2, List.mem_singleton] at hw
    rw [hw]
    trivial
  · rw [if_neg (by omega), if_pos h0] at hw
    by_cases h4 : h.bits = 4
    · rw [if_pos h4, List.mem_singleton] at hw
      rw [h4] at hf hone hva hw
      rw [hw]
      exact ⟨hva, Nat.one_pos, fun _ => rfl, hone, f, hf⟩
    · rw [if_neg h4, List.mem_singleton] at hw
      rw [hw]
      refine ⟨hva, ?_, fun h => absurd rfl h, ?_, f, ?_⟩
      · rw [leBytes_length]
        rcases h.bits_cases with h | h | h | h | h <;> omega
      · rw [leBytes_length]; exact hone
      · rw [leBytes_length]; exact hf

theorem mem_insertAt {α : Type} {x y : α} {l : List α} {k : Nat} (h : y ∈ insertAt l k x) : y = x ∨ y ∈ l := by
  induction l generalizing k with
  | nil => cases k <;> simpa [insertAt] using h
  | cons z l ih =>
    cases k with
    | zero => simpa [insertAt] using h
    | succ k =>
      rcases List.mem_cons.mp h with rfl | h
      · exact Or.inr (List.mem_cons_self ..)
      · exact (ih h).imp id (List.mem_cons_of_mem _)

theorem mem_shuffle {α : Type} {y : α} {occasion : Nat} {l : List α} (h : y ∈ shuffle occasion l) : y ∈ l := by
  have go : ∀ (l acc : List α), y ∈ l.foldl
      (fun acc x => insertAt acc (Config.overlap occasion acc.length % (acc.length + 1)) x) acc → y ∈ acc ∨ y ∈ l := by
    intro l
    induction l with
    | nil => exact fun acc h => Or.inl h
    | cons x l ih =>
      intro acc h
      rcases ih _ h with h | h
      · rcases mem_insertAt h with rfl | h
        · exact Or.inr (List.mem_cons_self ..)
        · exact Or.inl h
      · exact Or.inr (List.mem_cons_of_mem _ h)
  exact (go l [] h).resolve_left List.not_mem_nil

/-- What a unit gives that only writes, and only what is written. -/
def UnitOut.Plain (o : UnitOut) (s : State) (c : Ctx) : Prop := o.outs = [] ∧ ∀ w ∈ o.writes, w.Plain s c

theorem resultsOf_plain (hd : s.Elements c d n) (hloc : d.loc ≠ 1) (ch : Nat) {rs : List (Nat × Nat)} (hrs : ∀ r ∈ rs, r.1 < n)
    (carry : List Int) : (resultsOf v d ch rs carry).Plain s c := by
  rw [resultsOf, if_neg hloc]
  refine ⟨rfl, fun w hw => ?_⟩
  obtain ⟨r, hr, hw⟩ := List.mem_flatMap.mp hw
  have hmem : ∀ b : Bool, r ∈ (if b = true then shuffle v.tick rs else rs) → r ∈ rs := by
    intro b hb
    cases b with
    | false => exact hb
    | true => exact mem_shuffle hb
  exact writeOf_plain hd (hrs r (hmem _ hr)) _ w hw

/-! ### Flags, draws and what is kept -/

theorem raise_goes (v : VEnv) (f : Flags) : (v.raise f).Goes s c (fun _ => True) := by
  rw [VEnv.raise]
  split
  · exact .modify fun u _ => .modProg u c _ _ (fun _ => rfl) (fun _ => rfl) fun _ => rfl
  · exact .pure trivial

theorem commit_goes (v : VEnv) (f : Flags) (fs : AL (BitVec 16)) : (v.commit f fs).Goes s c (fun _ => True) := by
  rw [VEnv.commit]
  exact (raise_goes v f).bind fun _ _ => .modify fun u _ => .modCell u c _ _ fun _ => rfl

theorem forget_goes (v : VEnv) : v.forget.Goes s c (fun _ => True) := by
  rw [VEnv.forget]
  split
  · exact .modify fun u _ => .modProg u c _ _ (fun _ => rfl) (fun _ => rfl) fun _ => rfl
  · exact .pure trivial

theorem keepAt_goes (v : VEnv) (key x : Nat) : (keepAt v key x).Goes s c (fun _ => True) := by
  rw [keepAt]
  split
  · refine .modify fun u _ => .modProg u c _ _ (fun y => ?_) (fun y => ?_) fun y => ?_
    · split <;> rfl
    · split <;> rfl
    · split <;> rfl
  · exact .pure trivial

theorem keepOld_goes (v : VEnv) (h : Shape) (e : Nat) : (keepOld v h e).Goes s c (fun _ => True) := by
  rw [keepOld]
  refine .state fun u _ => .ite (fun _ => keepAt_goes v _ _) fun _ => .ite (fun _ => .forM fun i _ => ?_) fun _ => .pure trivial
  split
  · exact keepAt_goes v _ _
  · exact .pure trivial

theorem writeOver_goes (hd : s.Elements c d n) (hloc : d.loc ≠ 1) {rs : List (Nat × Nat)} (hrs : ∀ r ∈ rs, r.1 < n) (carry : List Int) :
    (writeOver v d rs carry).Goes s c (fun o => o.Plain s c) := by
  rw [writeOver]
  exact (M.Goes.forM fun r _ => keepOld_goes v d r.1).bind fun _ _ => .pure (resultsOf_plain hd hloc 0 hrs carry)

end

end Sys2Proof.Machine

namespace Sys2Proof.Machine

/-! ## The plans of the vector instructions over plain elements (spec 12, R274, R282 to R293) -/

/-- A shape that the instruction may name where it runs over plain elements: `k` elements beyond its own are within reach too. -/
structure State.Usable (s : State) (c : Ctx) (k : Nat) (h : Shape) : Prop where
  elements : s.Elements c h (h.count + k)
  loc      : h.loc ≠ 1
  ext      : ∀ x ∈ h.ext, x ≠ 0

/-- From every state of the unit of work an iteration ends without a stop, and leaves only plain writes. -/
def Plan.Goes (pl : Plan) (s : State) (c : Ctx) (carry : List Int) : Prop :=
  ∀ (v : VEnv) (fs : AL (BitVec 16)) (u : Nat), v.On s c → u < pl.units → (pl.run v fs carry u).Goes s c (fun o => o.Plain s c)

theorem mem_iteration {n total u e : Nat} (h : e ∈ iteration n total u) : e < total := by
  obtain ⟨k, hk, rfl⟩ := List.mem_map.mp h
  have := List.mem_range.mp hk
  omega

theorem length_iteration (n total u : Nat) : (iteration n total u).length = min n (total - u * n) := by
  rw [iteration, List.length_map, List.length_range]

theorem finishAll_fst {v : VEnv} {d : Shape} {n m : Nat} {rs : List (Nat × Res)} (fs : AL (BitVec 16)) (f0 : Flags)
    (h : ∀ r ∈ rs, r.1 < m) : ∀ r ∈ (finishAll v d n rs fs f0).1, r.1 < m := by
  refine List.foldlRecOn (motive := fun acc : List (Nat × Nat) × Flags × AL (BitVec 16) => ∀ r ∈ acc.1, r.1 < m) _ _ (by simp) fun acc hacc x hx r hr => ?_
  rcases List.mem_append.mp hr with hr | hr
  · exact hacc r hr
  · rw [List.mem_singleton.mp hr]
    exact h x.1 (List.fst_mem_of_mem_zipIdx hx)

section
variable {s : State} {c : Ctx} {d a b j : Shape} {k : Nat} {carry : List Int}

theorem Shape.compat_count (h : a.compat b = true) : a.count = b.count := by
  rw [Shape.compat, Bool.and_eq_true] at h
  rw [Shape.count, Shape.count, eq_of_beq h.2]

theorem State.Usable.of_count (h : s.Usable c k a) {n : Nat} (hn : n ≤ a.count + k) : s.Elements c a n := h.elements.mono hn

theorem State.Usable.compat (h : s.Usable c k a) (hc : a.compat d = true) : s.Elements c a d.count :=
  h.of_count (by rw [Shape.compat_count hc]; omega)

/-! ### Element by element -/

theorem elementPlan_goes {srcs : List Shape} (hd : s.Usable c k d) (hs : ∀ h ∈ srcs, s.Elements c h d.count) (slow : Bool)
    (f : VEnv → Nat → List Num → Res) : (elementPlan d srcs slow f).Goes s c carry := by
  intro v fs u hv _
  rw [elementPlan]
  dsimp only
  refine M.Goes.bind (M.Goes.mapM (Q := fun r => r.1 < d.count) fun e he => ?_) fun rs hrs => ?_
  · exact M.Goes.bind (.mapM fun h hh => readNum_goes hv (hs h hh) (mem_iteration he)) fun _ _ => .pure (mem_iteration he)
  · refine (commit_goes v _ _).bind fun _ _ => .pure ?_
    refine resultsOf_plain (hd.of_count (Nat.le_add_right _ _)) hd.loc 0 (finishAll_fst _ _ fun r hr => ?_) []
    obtain ⟨q, hq, rfl⟩ := List.mem_map.mp hr
    exact hrs.2 q hq

theorem patternPlan_goes {srcs : List Shape} (hd : s.Usable c k d) (hs : ∀ h ∈ srcs, s.Elements c h d.count)
    (f : VEnv → List Nat → Nat) : (patternPlan d srcs f).Goes s c carry := by
  intro v fs u hv _
  rw [patternPlan]
  dsimp only
  refine M.Goes.bind (M.Goes.mapM (Q := fun r => r.1 < d.count) fun e he => ?_) fun rs hrs => ?_
  · exact M.Goes.bind (.mapM fun h hh => readBits_goes hv (hs h hh) (mem_iteration he)) fun _ _ => .pure (mem_iteration he)
  · refine (commit_goes v _ _).bind fun _ _ => .pure ?_
    exact resultsOf_plain (hd.of_count (Nat.le_add_right _ _)) hd.loc 0 (finishAll_fst _ _ hrs.2) []

theorem specialPlan_goes (hd : s.Usable c k d) (ha : s.Elements c a d.count) (f : Special) : (specialPlan f d a).Goes s c carry := by
  intro v fs u hv _
  rw [specialPlan]
  dsimp only
  refine M.Goes.bind (M.Goes.mapM (Q := fun r => r.1 < d.count) fun e he => ?_) fun xs hxs => ?_
  · exact (readNum_goes hv ha (mem_iteration he)).bind fun _ _ => .pure (mem_iteration he)
  · refine (commit_goes v _ _).bind fun _ _ => .pure ?_
    refine resultsOf_plain (hd.of_count (Nat.le_add_right _ _)) hd.loc 0 ?_ []
    refine List.foldlRecOn (motive := fun acc : List (Nat × Nat) × Flags × AL (BitVec 16) => ∀ r ∈ acc.1, r.1 < d.count) _ _ (by simp)
      fun acc hacc x hx r hr => ?_
    rcases List.mem_append.mp hr with hr | hr
    · exact hacc r hr
    · rw [List.mem_singleton.mp hr]
      exact hxs.2 x.1 (List.fst_mem_of_mem_zipIdx hx)

/-! ### Gather and scatter -/

theorem gatherPlan_goes (hd : s.Usable c k d) (ha : s.Elements c a a.count) (hb : s.Elements c b d.count) :
    (gatherPlan d a b).Goes s c carry := by
  intro v fs u hv _
  rw [gatherPlan]
  dsimp only
  refine M.Goes.bind (M.Goes.mapM (Q := fun r => r.1 < d.count) fun e he => ?_) fun rs hrs => ?_
  · refine (readOld_goes hv hb (mem_iteration he) _).bind fun ib _ => .ite (fun hi => ?_) fun _ => .pure (mem_iteration he)
    exact (readOld_goes hv ha (by omega) _).bind fun _ _ => .pure (mem_iteration he)
  · refine (commit_goes v _ _).bind fun _ _ => ?_
    exact writeOver_goes (hd.of_count (Nat.le_add_right _ _)) hd.loc (finishAll_fst _ _ hrs.2) []

theorem scatterPlan_goes (hd : s.Elements c d d.count) (ha : s.Elements c a a.count) (hb : s.Elements c b a.count) :
    (scatterPlan d a b).Goes s c carry := by
  intro v fs u hv _
  rw [scatterPlan]
  dsimp only
  refine M.Goes.bind (M.Goes.mapM (Q := fun _ => True) fun e he => ?_) fun rs hrs => ?_
  · refine (readBits_goes hv hb (mem_iteration he)).bind fun _ _ => ?_
    exact (readBits_goes hv ha (mem_iteration he)).bind fun _ _ => .pure trivial
  · refine (commit_goes v _ _).bind fun _ _ => .pure ⟨rfl, fun w hw => ?_⟩
    obtain ⟨r, hr, hw⟩ := List.mem_flatMap.mp hw
    obtain ⟨q, hq, rfl⟩ := List.mem_map.mp hr
    have hin := (List.mem_filter.mp hq).2
    rw [Bool.and_eq_true, decide_eq_true_eq, decide_eq_true_eq] at hin
    exact writeOf_plain hd (by dsimp only; omega) _ w hw

/-! ### Rows -/

/-- The elements of a shape are those of its rows. -/
theorem Shape.count_rows (h : Shape) : h.count = h.ext.headD 1 * (h.ext.drop 1).prod := by
  rw [Shape.count, ← List.prod_eq_foldl]
  cases h.ext with
  | nil => rfl
  | cons x l => rfl

theorem State.Usable.row_pos (h : s.Usable c k a) : 0 < a.ext.headD 1 := by
  have h1 := h.ext
  cases he : a.ext with
  | nil => exact Nat.one_pos
  | cons x l => exact Nat.pos_of_ne_zero (h1 x (by rw [he]; exact List.mem_cons_self ..))

theorem length_foldl_fst {α β γ : Type} (f : List α × β → γ → List α × β) (hf : ∀ acc x, (f acc x).1.length = acc.1.length + 1)
    (l : List γ) (acc : List α × β) : (l.foldl f acc).1.length = acc.1.length + l.length := by
  induction l generalizing acc with
  | nil => rfl
  | cons x l ih => rw [List.foldl_cons, ih, hf, List.length_cons]; omega

theorem length_wholeRows (n : Nat) (bs : List Nat) : (wholeRows n bs).length = bs.length / n := by
  rw [wholeRows, List.length_map, List.length_range]

theorem length_carried (l : List Int) : (carried l).length = l.length := List.length_map ..

/-- A row that is made whole in an iteration is one of the shape, or one of the last that were handed on. -/
theorem whole_lt {n R per u cl got i : Nat} (hn : 0 < n) (hu : u < (n * R + per - 1) / per) (hgot : got = min per (n * R - u * per))
    (hi : i < (cl + got) / n) : u * per / n + i < R + cl / n := by
  have hm := Nat.mul_le_of_le_div _ _ _ (Nat.succ_le_of_lt hu)
  rw [Nat.succ_mul] at hm
  have h1 : u * per / n + (cl + got) / n ≤ (u * per + (cl + got)) / n := Nat.div_add_div_le_add_div
  have h2 : (u * per + (cl + got)) / n ≤ (cl + n * R) / n := Nat.div_le_div_right (by omega)
  rw [Nat.add_mul_div_left _ _ hn] at h2
  omega

theorem reducePlan_goes (op : RedOp) (hd : s.Usable c carry.length d) (ha : s.Usable c carry.length a)
    (hext : d.ext.headD 0 = 1) (hrows : d.ext.drop 1 = a.ext.drop 1) : (reducePlan op d a).Goes s c carry := by
  intro v fs u hv hu
  rw [reducePlan] at hu ⊢
  dsimp only at hu ⊢
  have hn := ha.row_pos
  have hhead : d.ext.headD 1 = 1 := by
    cases he : d.ext with
    | nil => rfl
    | cons x l => rw [he] at hext; exact hext
  have hcount : d.count = (a.ext.drop 1).prod := by rw [d.count_rows, hhead, hrows, Nat.one_mul]
  rw [a.count_rows] at hu
  refine (M.Goes.mapM fun e he => readOld_goes hv (ha.of_count (Nat.le_add_right _ _)) (mem_iteration he) _).bind fun got hgot => ?_
  refine (commit_goes v _ _).bind fun _ _ => writeOver_goes hd.elements hd.loc (fun r hr => ?_) _
  obtain ⟨x, hx, rfl⟩ := List.mem_map.mp hr
  have hlt := List.snd_lt_of_mem_zipIdx hx
  rw [length_foldl_fst _ (fun _ _ => by rw [List.length_append]; rfl), length_wholeRows, List.length_append, length_carried,
    hgot.1, length_iteration, a.count_rows] at hlt
  have h1 := whole_lt hn hu rfl (by simpa using hlt)
  have h2 := Nat.div_le_self carry.length (a.ext.headD 1)
  dsimp only
  omega

theorem scanPlan_goes (op : RedOp) (hd : s.Usable c k d) (ha : s.Usable c k a) (hc : a.compat d = true) :
    (scanPlan op d a).Goes s c carry := by
  intro v fs u hv _
  rw [scanPlan]
  dsimp only
  refine (M.Goes.mapM fun e he => readOld_goes hv (ha.of_count (Nat.le_add_right _ _)) (mem_iteration he) _).bind fun got _ => ?_
  have hw : ∀ (l : List Nat) (r : List Int),
      (writeOver v d ((iteration (perIteration [d, a] false) a.count u).zip l) r).Goes s c (fun o => o.Plain s c) := fun l r =>
    writeOver_goes (hd.of_count (Nat.le_add_right _ _)) hd.loc (fun q hq => by
      rw [← Shape.compat_count hc]; exact mem_iteration (List.of_mem_zip hq).1) r
  refine (commit_goes v _ _).bind fun _ _ => ?_
  refine .ite (fun _ => (forget_goes v).bind fun _ _ => hw _ _) fun _ => hw _ _

/-- Results for two destinations, each of elements below a bound. -/
def Below (n : Nat) (acc : List (Nat × Nat) × List (Nat × Nat) × RedRun) : Prop := (∀ r ∈ acc.1, r.1 < n) ∧ ∀ r ∈ acc.2.1, r.1 < n

theorem Below.append {n e x y : Nat} {acc : List (Nat × Nat) × List (Nat × Nat) × RedRun} (h : Below n acc) (he : e < n) (r : RedRun) :
    Below n (acc.1 ++ [(e, x)], acc.2.1 ++ [(e, y)], r) := by
  constructor
  · exact fun q hq => (List.mem_append.mp hq).elim (h.1 q) fun hq => by rw [List.mem_singleton.mp hq]; exact he
  · exact fun q hq => (List.mem_append.mp hq).elim (h.2 q) fun hq => by rw [List.mem_singleton.mp hq]; exact he

theorem UnitOut.Plain.both {o p : UnitOut} (h : o.Plain s c) (g : p.Plain s c) (l : List Int) :
    UnitOut.Plain ⟨o.outs ++ p.outs, o.writes ++ p.writes, l⟩ s c :=
  ⟨by rw [h.1, g.1]; rfl, fun w hw => (List.mem_append.mp hw).elim (h.2 w) (g.2 w)⟩

theorem topResults_plain {v : VEnv} {n : Nat} {r : List (Nat × Nat) × List (Nat × Nat) × RedRun} {f g : Nat × Nat → Nat × Nat}
    (hd : s.Elements c d n) (hdl : d.loc ≠ 1) (hj : s.Elements c j n) (hjl : j.loc ≠ 1) (hf : ∀ x, (f x).1 = x.1) (hg : ∀ x, (g x).1 = x.1)
    (hr : Below n r) (l : List Int) :
    UnitOut.Plain ⟨(resultsOf v d 0 (r.1.map f) []).outs ++ (resultsOf v j 1 (r.2.1.map g) []).outs,
      (resultsOf v d 0 (r.1.map f) []).writes ++ (resultsOf v j 1 (r.2.1.map g) []).writes, l⟩ s c := by
  refine (resultsOf_plain hd hdl 0 (fun q hq => ?_) []).both (resultsOf_plain hj hjl 1 (fun q hq => ?_) []) l
  · obtain ⟨x, hx, rfl⟩ := List.mem_map.mp hq
    rw [hf]; exact hr.1 x hx
  · obtain ⟨x, hx, rfl⟩ := List.mem_map.mp hq
    rw [hg]; exact hr.2 x hx

/-- The place of a result of a row among the elements of its destination. -/
theorem top_lt {n k R cl count r x : Nat} (hcount : count = k * R) (hk : k ≤ n) (hr : r < R + cl / n) (hx : x < k) :
    r * k + x < count + cl := by
  have h1 : (r + 1) * k ≤ (R + cl / n) * k := Nat.mul_le_mul_right k hr
  have h2 : cl / n * k ≤ cl := (Nat.mul_le_mul_left _ hk).trans (Nat.div_mul_le_self cl n)
  rw [Nat.add_mul, Nat.add_mul, Nat.one_mul, Nat.mul_comm R k] at h1
  omega

theorem topPlan_goes (hd : s.Usable c carry.length d) (ha : s.Usable c carry.length a) (hj : s.Usable c carry.length j)
    (hc : j.compat d = true) (hrows : d.ext.drop 1 = a.ext.drop 1) (hk : d.ext.headD 1 ≤ a.ext.headD 1) :
    (topPlan d a j).Goes s c carry := by
  intro v fs u hv hu
  rw [topPlan] at hu ⊢
  dsimp only at hu ⊢
  have hn := ha.row_pos
  have hcount : d.count = d.ext.headD 1 * (a.ext.drop 1).prod := by rw [d.count_rows, hrows]
  have hjd : j.count = d.count := Shape.compat_count hc
  rw [a.count_rows] at hu
  refine (M.Goes.mapM fun e he => readBits_goes hv (ha.of_count (Nat.le_add_right _ _)) (mem_iteration he)).bind fun got hgot => ?_
  refine (commit_goes v _ _).bind fun _ _ => .pure ?_
  generalize hr : List.foldl _ _ (wholeRows (a.ext.headD 1) (carried carry ++ got)).zipIdx = r
  refine topResults_plain (n := d.count + carry.length) hd.elements hd.loc (hj.of_count (by omega)) hj.loc ?_ ?_ ?_ _
  · exact fun _ => rfl
  · exact fun _ => rfl
  rw [← hr]
  refine List.foldlRecOn (motive := Below (d.count + carry.length)) _ _ ⟨by simp, by simp⟩ fun acc hacc row hrow => ?_
  refine List.foldlRecOn (motive := Below (d.count + carry.length)) _ _ hacc fun acc hacc x hx => hacc.append ?_ _
  obtain ⟨y, hy, rfl⟩ := List.mem_map.mp hx
  have hplace := List.snd_lt_of_mem_zipIdx hy
  have hlt := List.snd_lt_of_mem_zipIdx hrow
  rw [length_wholeRows, List.length_append, length_carried, hgot.1, length_iteration, a.count_rows, Nat.add_zero] at hlt
  rw [topOf, List.length_take] at hplace
  exact top_lt hcount hk (whole_lt hn hu rfl hlt) (by omega)

end

end Sys2Proof.Machine

namespace Sys2Proof.Machine

/-! ## The vector instructions and their plans (spec 12, R272 to R293) -/

/-- Over plain elements the iterations of a plan go, and its destinations are shapes that the instruction names. -/
def PlanPlain (plan : List Shape → Option Plan) : Prop :=
  ∀ (shs : List Shape) (pl : Plan), plan shs = some pl → ∀ (s : State) (c : Ctx) (carry : List Int),
    (∀ h ∈ shs, s.Usable c carry.length h) → pl.Goes s c carry ∧ ∀ h ∈ pl.dests, h ∈ shs

section
variable {p pl : Plan} {shs : List Shape}

theorem onlyIf_some {b : Bool} (h : onlyIf b p = some pl) : b = true ∧ p = pl := by
  cases b with
  | false => cases h
  | true => exact ⟨rfl, Option.some.inj h⟩

theorem plan2_some {k : Shape → Shape → Option Plan} (h : plan2 k shs = some pl) : ∃ d a, shs = [d, a] ∧ k d a = some pl := by
  match shs, h with
  | [d, a], h => exact ⟨d, a, rfl, h⟩

theorem plan3_some {k : Shape → Shape → Shape → Option Plan} (h : plan3 k shs = some pl) :
    ∃ d a b, shs = [d, a, b] ∧ k d a b = some pl := by
  match shs, h with
  | [d, a, b], h => exact ⟨d, a, b, rfl, h⟩

theorem plan4_some {k : Shape → Shape → Shape → Shape → Option Plan} (h : plan4 k shs = some pl) :
    ∃ d a b x, shs = [d, a, b, x] ∧ k d a b x = some pl := by
  match shs, h with
  | [d, a, b, x], h => exact ⟨d, a, b, x, rfl, h⟩

end

/-- A plan for two shapes under a condition. -/
theorem PlanPlain.two {cond : Shape → Shape → Bool} {p : Shape → Shape → Plan}
    (h : ∀ d a, cond d a = true → ∀ s c (carry : List Int), State.Usable s c carry.length d → State.Usable s c carry.length a →
      (p d a).Goes s c carry ∧ ∀ h ∈ (p d a).dests, h = d ∨ h = a) : PlanPlain (plan2 fun d a => onlyIf (cond d a) (p d a)) := by
  intro shs pl hp s c carry hs
  obtain ⟨d, a, rfl, hp⟩ := plan2_some hp
  obtain ⟨hc, rfl⟩ := onlyIf_some hp
  obtain ⟨hg, hd⟩ := h d a hc s c carry (hs d (by simp)) (hs a (by simp))
  exact ⟨hg, fun h hh => by simpa using hd h hh⟩

/-- A plan for three shapes under a condition. -/
theorem PlanPlain.three {cond : Shape → Shape → Shape → Bool} {p : Shape → Shape → Shape → Plan}
    (h : ∀ d a b, cond d a b = true → ∀ s c (carry : List Int), State.Usable s c carry.length d → State.Usable s c carry.length a →
      State.Usable s c carry.length b → (p d a b).Goes s c carry ∧ ∀ h ∈ (p d a b).dests, h = d ∨ h = a ∨ h = b) :
    PlanPlain (plan3 fun d a b => onlyIf (cond d a b) (p d a b)) := by
  intro shs pl hp s c carry hs
  obtain ⟨d, a, b, rfl, hp⟩ := plan3_some hp
  obtain ⟨hc, rfl⟩ := onlyIf_some hp
  obtain ⟨hg, hd⟩ := h d a b hc s c carry (hs d (by simp)) (hs a (by simp)) (hs b (by simp))
  exact ⟨hg, fun h hh => by simpa using hd h hh⟩

theorem dests_one {d : Shape} {q : Shape → Prop} (h : q d) : ∀ x ∈ [d], q x := by
  intro x hx
  rwa [List.mem_singleton.mp hx]

theorem binaryPlan_plain (f : VEnv → Num → Num → Res) : PlanPlain (binaryPlan f) := by
  refine .three fun d a b hc s c carry hd ha hb => ⟨elementPlan_goes hd ?_ _ _, dests_one (.inl rfl)⟩
  simp only [Bool.and_eq_true] at hc
  obtain ⟨⟨-, h1⟩, h2⟩ := hc
  simpa using ⟨ha.compat h1, hb.compat h2⟩

theorem fusedPlan_plain (neg : Bool) : PlanPlain (fusedPlan neg) := by
  refine .three fun d a b hc s c carry hd ha hb => ⟨elementPlan_goes hd ?_ _ _, dests_one (.inl rfl)⟩
  simp only [Bool.and_eq_true] at hc
  obtain ⟨⟨-, h1⟩, h2⟩ := hc
  simpa using ⟨ha.compat h1, hb.compat h2, hd.of_count (Nat.le_add_right _ _)⟩

theorem divPlan_plain : PlanPlain divPlan := by
  refine .three fun d a b hc s c carry hd ha hb => ⟨elementPlan_goes hd ?_ _ _, dests_one (.inl rfl)⟩
  simp only [Bool.and_eq_true] at hc
  obtain ⟨⟨-, h1⟩, h2⟩ := hc
  simpa using ⟨ha.compat h1, hb.compat h2⟩

theorem bitwisePlan_plain (f : Nat → Nat → Nat) : PlanPlain (bitwisePlan f) := by
  refine .three fun d a b hc s c carry hd ha hb => ⟨patternPlan_goes hd ?_ _, dests_one (.inl rfl)⟩
  simp only [Bool.and_eq_true] at hc
  obtain ⟨⟨-, h1⟩, h2⟩ := hc
  simpa using ⟨ha.compat h1, hb.compat h2⟩

theorem shiftPlan_plain (f : Fmt → Nat → Nat → Nat) : PlanPlain (shiftPlan f) := by
  refine .three fun d a b hc s c carry hd ha hb => ⟨patternPlan_goes hd ?_ _, dests_one (.inl rfl)⟩
  simp only [Bool.and_eq_true] at hc
  obtain ⟨⟨-, h1⟩, h2⟩ := hc
  simpa using ⟨ha.compat h1, hb.compat h2⟩

theorem unaryPlan_plain (f : Num → Res) : PlanPlain (unaryPlan f) := by
  refine .two fun d a hc s c carry hd ha => ⟨elementPlan_goes hd ?_ _ _, dests_one (.inl rfl)⟩
  rw [Bool.and_eq_true] at hc
  simpa using ha.compat hc.2

theorem cvtPlan_plain : PlanPlain cvtPlan := by
  refine .two fun d a hc s c carry hd ha => ?_
  rw [Bool.and_eq_true] at hc
  rw [if_neg hd.elements.fmt]
  exact ⟨elementPlan_goes hd (by simpa using ha.compat hc.2) _ _, dests_one (.inl rfl)⟩

theorem cpyPlan_plain : PlanPlain cpyPlan := by
  refine .two fun d a hc s c carry hd ha => ?_
  rw [Bool.and_eq_true] at hc
  rw [if_neg hd.elements.fmt]
  exact ⟨patternPlan_goes hd (by simpa using ha.compat hc.2) _, dests_one (.inl rfl)⟩

theorem fillPlan_plain (x : Nat) : PlanPlain (fillPlan x) := by
  intro shs pl hp s c carry hs
  match shs, hp with
  | [d], hp =>
    obtain ⟨-, rfl⟩ := onlyIf_some hp
    exact ⟨patternPlan_goes (hs d (by simp)) (by simp) _, fun h hh => hh⟩

theorem functionPlan_plain (f : Special) : PlanPlain (functionPlan f) := by
  refine .two fun d a hc s c carry hd ha => ⟨specialPlan_goes hd (ha.compat ?_) f, dests_one (.inl rfl)⟩
  rw [Bool.and_eq_true] at hc
  exact hc.2

theorem comparePlan_plain (f : Num → Num → Bool) : PlanPlain (comparePlan f) := by
  refine .two fun d a hc s c carry hd ha => ⟨elementPlan_goes hd ?_ _ _, dests_one (.inl rfl)⟩
  rw [Bool.and_eq_true] at hc
  simpa using ⟨hd.of_count (Nat.le_add_right _ _), ha.compat hc.2⟩

theorem selPlan_plain : PlanPlain selPlan := by
  intro shs pl hp s c carry hs
  obtain ⟨d, a, b, x, rfl, hp⟩ := plan4_some hp
  obtain ⟨hc, rfl⟩ := onlyIf_some hp
  simp only [Bool.and_eq_true] at hc
  obtain ⟨⟨⟨-, h1⟩, h2⟩, h3⟩ := hc
  refine ⟨patternPlan_goes (hs d (by simp)) ?_ _, dests_one (by simp)⟩
  simpa using ⟨(hs a (by simp)).compat h1, (hs b (by simp)).compat h2, (hs x (by simp)).compat h3⟩

theorem redPlan_plain (op : RedOp) : PlanPlain (redPlan op) := by
  refine .two fun d a hc s c carry hd ha => ?_
  simp only [Bool.and_eq_true, beq_iff_eq] at hc
  exact ⟨reducePlan_goes op hd ha hc.1.2 hc.2, dests_one (.inl rfl)⟩

theorem scaPlan_plain (op : RedOp) : PlanPlain (scaPlan op) := by
  refine .two fun d a hc s c carry hd ha => ?_
  rw [Bool.and_eq_true] at hc
  exact ⟨scanPlan_goes op hd ha hc.2, dests_one (.inl rfl)⟩

theorem vgatPlan_plain : PlanPlain vgatPlan := by
  refine .three fun d a b hc s c carry hd ha hb => ?_
  rw [Bool.and_eq_true] at hc
  exact ⟨gatherPlan_goes hd (ha.of_count (Nat.le_add_right _ _)) (hb.compat hc.2), dests_one (.inl rfl)⟩

theorem vscaPlan_plain : PlanPlain vscaPlan := by
  refine .three fun d a b hc s c carry hd ha hb => ?_
  rw [Bool.and_eq_true] at hc
  have h1 := ha.of_count (Nat.le_add_right a.count carry.length)
  exact ⟨scatterPlan_goes (hd.of_count (Nat.le_add_right _ _)) h1 (hb.compat hc.2), dests_one (.inl rfl)⟩

theorem vtopPlan_plain : PlanPlain vtopPlan := by
  refine .three fun d a j hc s c carry hd ha hj => ?_
  simp only [Bool.and_eq_true, beq_iff_eq, decide_eq_true_eq] at hc
  obtain ⟨⟨⟨-, h1⟩, h2⟩, h3⟩ := hc
  refine ⟨topPlan_goes hd ha hj h1 h2 ?_, by simp [topPlan]⟩
  have hn := ha.row_pos
  generalize d.ext = l at h3 ⊢
  generalize a.ext = r at h3 hn ⊢
  cases l with
  | nil => exact hn
  | cons x l =>
    cases r with
    | nil => exact h3.trans (Nat.zero_le _)
    | cons y r => exact h3

/-! ### Their bodies -/

/-- A vector instruction as its group runs it: its body on its records and its plan. -/
structure VectorForm (s : State) (c : Ctx) (y : Instr × List Nat × List Nat × (List Shape → Option Plan)) : Prop where
  next  : s.At c → s.Clear c .no (y.2.1.map (fun (n : Nat) => (n : Int))) →
            exec y.1 s = .next (finish s c [] (vectorBody c (y.2.2.1.map (fun (r : Nat) => (r : Int))) y.2.2.2 s))
  plain : PlanPlain y.2.2.2
  regs  : y.2.2.1 ≠ []

section
variable {s : State} {c : Ctx}

theorem VectorForm.of_instr {i : Instr} {r : Nat} {regs : List Nat} {plan : List Shape → Option Plan}
    (h : exec i s = vectorInstr s (r :: regs) plan) (hp : PlanPlain plan) : VectorForm s c (i, r :: regs, r :: regs, plan) where
  next ha hc := by
    rw [h, vectorInstr, withGroup_at ha, issue_clear hc, State.feed_no]
    rfl
  plain := hp
  regs := List.cons_ne_nil _ _

theorem VectorForm.vfill (d a : ERegNum) :
    VectorForm s c (.vfill d a, [d.toNat, a.toNat], [d.toNat], fillPlan (s.reg c a.toNat).toNat) where
  next ha hc := by
    change s.Clear c .no [(d.toNat : Int), (a.toNat : Int)] at hc
    have h : exec (.vfill d a) s = withGroup s fun c => issue s c .no [(d.toNat : Int), (a.toNat : Int)] [] fun s =>
      vectorBody c [(d.toNat : Int)] (fillPlan (s.reg c (a.toNat : Int)).toNat) s := rfl
    rw [h, withGroup_at ha, issue_clear hc, State.feed_no]
    rfl
  plain := fillPlan_plain _
  regs := List.cons_ne_nil _ _

theorem vectorInstrs_form (d a b : ERegNum) : ∀ y ∈ Claims.vectorInstrs s c d a b, VectorForm s c y := by
  simp only [Claims.vectorInstrs, List.forall_mem_append, List.forall_mem_cons, and_assoc]
  exact ⟨.of_instr rfl (binaryPlan_plain _), .of_instr rfl (binaryPlan_plain _), .of_instr rfl (binaryPlan_plain _),
    .of_instr rfl (fusedPlan_plain _), .of_instr rfl (fusedPlan_plain _), .of_instr rfl divPlan_plain,
    .of_instr rfl (binaryPlan_plain _), .of_instr rfl (binaryPlan_plain _), .of_instr rfl (bitwisePlan_plain _),
    .of_instr rfl (bitwisePlan_plain _), .of_instr rfl (bitwisePlan_plain _), .of_instr rfl (shiftPlan_plain _),
    .of_instr rfl (shiftPlan_plain _), List.forall_mem_nil _,
    .of_instr rfl (unaryPlan_plain _), .of_instr rfl (unaryPlan_plain _), .of_instr rfl cvtPlan_plain, .vfill d a,
    .of_instr rfl cpyPlan_plain, .of_instr rfl (functionPlan_plain _), .of_instr rfl (functionPlan_plain _),
    .of_instr rfl (functionPlan_plain _), .of_instr rfl (functionPlan_plain _), .of_instr rfl (functionPlan_plain _),
    .of_instr rfl (functionPlan_plain _), .of_instr rfl (functionPlan_plain _), .of_instr rfl (functionPlan_plain _),
    .of_instr rfl (functionPlan_plain _), .of_instr rfl (functionPlan_plain _), List.forall_mem_nil _,
    .of_instr rfl (comparePlan_plain _), .of_instr rfl (comparePlan_plain _), .of_instr rfl (comparePlan_plain _),
    .of_instr rfl (comparePlan_plain _), .of_instr rfl (comparePlan_plain _), .of_instr rfl (comparePlan_plain _),
    .of_instr rfl (comparePlan_plain _), .of_instr rfl (comparePlan_plain _), .of_instr rfl selPlan_plain, List.forall_mem_nil _,
    .of_instr rfl (redPlan_plain _), .of_instr rfl (redPlan_plain _), .of_instr rfl (redPlan_plain _),
    .of_instr rfl (redPlan_plain _), .of_instr rfl (redPlan_plain _), .of_instr rfl (redPlan_plain _),
    .of_instr rfl (redPlan_plain _), .of_instr rfl (scaPlan_plain _), .of_instr rfl (scaPlan_plain _),
    .of_instr rfl (scaPlan_plain _), .of_instr rfl (scaPlan_plain _), .of_instr rfl (scaPlan_plain _),
    .of_instr rfl (scaPlan_plain _), .of_instr rfl (scaPlan_plain _), .of_instr rfl vgatPlan_plain,
    .of_instr rfl vscaPlan_plain, .of_instr rfl vtopPlan_plain, List.forall_mem_nil _⟩

end

end Sys2Proof.Machine

namespace Sys2Proof.Machine

/-! ## Iterations of a vector instruction (spec 12, R272, R274 to R279) -/

section
variable {s s0 s1 m : State} {c : Ctx} {x : Prog} {regs : List Nat} {plan : List Shape → Option Plan} {shs : List Shape} {pl : Plan}
variable {bs : List Byte} {u : Nat} {carry : List Int} {o : UnitOut}

/-- The register numbers of some shape records, as the issue names them. -/
def intRegs (regs : List Nat) : List Int := regs.map (fun (r : Nat) => (r : Int))

/-- The records that some registers name, from their bytes. -/
def recordsOf (regs : List Nat) (bs : List Byte) : List (List Byte) := (List.range regs.length).map (fun k => (bs.drop (64 * k)).take 64)

/-- What a vector instruction has at the beginning of an iteration. -/
def unitPend (bs : List Byte) (u : Nat) (carry : List Int) : Pending := ⟨8, u, none, bs, 0, [], none, 0, carry, [], none⟩

theorem State.recordAddrs_eq (s : State) (c : Ctx) (regs : List Nat) :
    (intRegs regs).map (fun r => lo48 (s.reg c r)) = s.recordAddrs c regs := List.map_map ..

theorem length_intRegs (regs : List Nat) : (intRegs regs).length = regs.length := List.length_map ..

theorem State.pendOf_engine {v : EngineUnit} (hu : c.unit = .engine v) (hx : AL.find s.progs (s.progId c) = some x) :
    s.pendOf c = x.pend.getD Pending.zero := by
  simp only [State.pendOf, hu, hx]

theorem State.pendOf_fresh_vector (s : State) (hu : c.unit = .engine .vector) (hx : AL.find s.progs (s.progId c) = some x) (hp : x.pend = none) :
    s.pendOf c = Pending.zero := by
  rw [State.pendOf_engine hu hx, hp]; rfl

/-- What a vector instruction does once its records are read: it traps where they or the shapes keep a rule of R272 not, enters the
scoreboards of its fragments, and runs its units. -/
structure VectorStart (c : Ctx) (regs : List Nat) (plan : List Shape → Option Plan) (start : Pending → State → Issued) : Prop where
  malformed : ∀ p s, (recordsOf regs p.data).mapM (fun r => shapeOf r (s.channelOk c)) = none → start p s = .trap 0x02 0
  unplanned : ∀ p s shs, (recordsOf regs p.data).mapM (fun r => shapeOf r (s.channelOk c)) = some shs → plan shs = none →
    start p s = .trap 0x02 0
  unaligned : ∀ p s shs pl h, (recordsOf regs p.data).mapM (fun r => shapeOf r (s.channelOk c)) = some shs → plan shs = some pl →
    shs.find? (fun h => !h.aligned) = some h → start p s = .trap 0x08 (addrWord h.base)
  reaches : ∀ p s shs pl, (recordsOf regs p.data).mapM (fun r => shapeOf r (s.channelOk c)) = some shs → plan shs = some pl →
    shs.find? (fun h => !h.aligned) = none → p.stage = 0 →
    (s.reachScore c.cell (s.progId c) (fragsOf shs)).admitted c.cell (s.progId c) (fragsOf shs) = true →
    start p s = runUnits c pl { p with stage := 8 }
      ((s.reachScore c.cell (s.progId c) (fragsOf shs)).setPend c { p with stage := 8 })
  runs : ∀ p s shs pl, (recordsOf regs p.data).mapM (fun r => shapeOf r (s.channelOk c)) = some shs → plan shs = some pl →
    shs.find? (fun h => !h.aligned) = none → p.stage = 8 → start p s = runUnits c pl p s

/-- A vector instruction reads its records and starts. -/
theorem vectorBody_start (c : Ctx) (regs : List Nat) (plan : List Shape → Option Plan) : ∃ start, VectorStart c regs plan start ∧
    ∀ s, vectorBody c (intRegs regs) plan s = (withRecords c 64 (s.recordAddrs c regs) s start).leave s c := by
  apply Exists.intro
  apply And.symm
  constructor
  · intro s
    rw [vectorBody, State.recordAddrs_eq, length_intRegs]
  refine ⟨?_, ?_, ?_, ?_, ?_⟩
  · intro p s h
    rw [recordsOf] at h
    dsimp only
    rw [h]
  · intro p s shs h hp
    rw [recordsOf] at h
    dsimp only
    rw [h]
    dsimp only
    rw [hp]
  · intro p s shs pl sh h hp hf
    rw [recordsOf] at h
    dsimp only
    rw [h]
    dsimp only
    rw [hp]
    dsimp only
    rw [hf]
  · intro p s shs pl h hp hf hst hadm
    rw [recordsOf] at h
    dsimp only
    rw [h]
    dsimp only
    rw [hp]
    dsimp only
    rw [hf]
    dsimp only
    rw [if_pos (Or.inl hst), if_pos hst, if_pos hadm]
  · intro p s shs pl h hp hf hst
    rw [recordsOf] at h
    dsimp only
    rw [h]
    dsimp only
    rw [hp]
    dsimp only
    rw [hf]
    dsimp only
    rw [if_neg (by omega)]

/-- The first issue, once the records have been read and its fragments are free. -/
theorem vectorBody_first (hu : c.unit = .engine .vector) (hx : AL.find s.progs (s.progId c) = some x) (hp : x.pend = none)
    (hwait : s.memWait c = .none) (hne : regs ≠ []) (hr : s.RecordsRead c 64 regs bs)
    (hshs : (recordsOf regs bs).mapM (fun r => shapeOf r (s.channelOk c)) = some shs) (hal : ∀ h ∈ shs, h.aligned = true)
    (hpl : plan shs = some pl) (hfree : ∀ f ∈ fragsOf shs, s.score c.cell f = []) :
    vectorBody c (intRegs regs) plan s = (runUnits c pl (unitPend bs 0 []) (((s.endWait (s.req c)).reachScore c.cell (s.progId c)
      (fragsOf shs)).setPend c (unitPend bs 0 []))).leave s c := by
  obtain ⟨start, hst, hbody⟩ := vectorBody_start c regs plan
  rw [hbody, withRecords_first (s.pendOf_fresh_vector hu hx hp) hwait hne hr]
  rw [hst.reaches { Pending.zero with data := bs } (s.endWait (s.req c)) shs pl hshs hpl (by simpa using hal) rfl (State.admitted_reachScore fun f hf => Or.inl (hfree f hf))]
  rfl

/-- A later issue, with the records kept. -/
theorem vectorBody_again (hu : c.unit = .engine .vector) (hx : AL.find s.progs (s.progId c) = some x)
    (hp : x.pend = some (unitPend bs u carry)) (hlen : bs.length = 64 * regs.length)
    (hshs : (recordsOf regs bs).mapM (fun r => shapeOf r (s.channelOk c)) = some shs) (hal : ∀ h ∈ shs, h.aligned = true)
    (hpl : plan shs = some pl) :
    vectorBody c (intRegs regs) plan s = (runUnits c pl (unitPend bs u carry) s).leave s c := by
  obtain ⟨start, hst, hbody⟩ := vectorBody_start c regs plan
  have hpend : s.pendOf c = unitPend bs u carry := by rw [State.pendOf_engine hu hx, hp]; rfl
  rw [hbody, withRecords_again hpend (by decide) hlen, hst.runs _ _ shs pl hshs hpl (by simpa using hal) rfl]

/-! ### Traps -/

/-- A record that is misaligned behind others that have been read. -/
theorem readEach_misaligned {go : Pending → State → Issued} (hwait : s.memWait c = .none) (l : List (Addr × List Byte)) (a : Addr)
    (post : List Addr) (p : Pending) (h : s.ReadsAll c 64 l) (ha : a.toNat % 64 ≠ 0) :
    readEach c 64 go (l.map Prod.fst ++ a :: post) p s = .trap 0x08 (addrWord a) := by
  induction l generalizing p with
  | nil => rw [List.map_nil, List.nil_append, readEach, if_pos ha]
  | cons x l ih =>
    obtain ⟨h1, h2⟩ := h x (List.mem_cons_self ..)
    rw [List.map_cons, List.cons_append, readEach, if_neg (by rw [h1]; exact fun h => h rfl), withMemoryKeep]
    simp only [hwait, h2]
    exact ih _ fun y hy => h y (List.mem_cons_of_mem _ hy)

theorem vectorBody_misaligned {pre post : List Nat} {r : Nat} (hp : s.pendOf c = Pending.zero) (hwait : s.memWait c = .none)
    (hr : s.RecordsRead c 64 pre bs) (ha : (s.reg c (r : Int)).toNat % 64 ≠ 0) :
    vectorBody c (intRegs (pre ++ r :: post)) plan s = (Issued.trap 0x08 (((s.reg c (r : Int)).setWidth 48).setWidth 64)).leave s c := by
  obtain ⟨start, -, hbody⟩ := vectorBody_start c (pre ++ r :: post) plan
  obtain ⟨l, h1, -, h3⟩ := hr.readsAll
  have hz : Pending.zero.data.length / 64 = 0 := rfl
  have hlo : (lo48 (s.reg c (r : Int))).toNat % 64 ≠ 0 := by
    have h : (lo48 (s.reg c (r : Int))).toNat = (s.reg c (r : Int)).toNat % 2 ^ 48 := BitVec.toNat_setWidth ..
    omega
  have haddr : s.recordAddrs c (pre ++ r :: post) = l.map Prod.fst ++ lo48 (s.reg c (r : Int)) :: s.recordAddrs c post := by
    rw [State.recordAddrs, List.map_append, List.map_cons, h1]; rfl
  rw [hbody, withRecords, hp, haddr, hz, List.drop_zero]
  split
  next he => exact absurd he (by simp)
  · rw [readEach_misaligned hwait l _ _ _ h3 hlo]
    rfl

/-- Where the records break a rule of R272 the instruction traps as its start says. -/
theorem vectorBody_traps {cause : Nat} {idx : Word} (hp : s.pendOf c = Pending.zero) (hwait : s.memWait c = .none) (hne : regs ≠ [])
    (hr : s.RecordsRead c 64 regs bs)
    (h : ∀ start, VectorStart c regs plan start → ∀ p t, p.data = bs → t.channelOk c = s.channelOk c → start p t = .trap cause idx) :
    vectorBody c (intRegs regs) plan s = (Issued.trap cause idx).leave s c := by
  obtain ⟨start, hst, hbody⟩ := vectorBody_start c regs plan
  rw [hbody, withRecords_first hp hwait hne hr, h start hst { Pending.zero with data := bs } (s.endWait (s.req c)) rfl rfl]

/-- What follows an iteration whose channel results have left: the end of the instruction, or the next iteration. -/
def unitEnds (c : Ctx) (pl : Plan) (n : Nat) (p : Pending) (s : State) : Issued :=
  if pl.units ≤ n then settled c { p with sent := n, stage := 15 } s (fun _ s => .ok s)
  else .stall (s.setPend c { p with stage := 8, sent := n })

/-- An iteration, from its beginning to the results that leave. -/
theorem runUnits_unit (hx : AL.find s.progs (s.progId c) = some x) (hu : u < pl.units) (hwait : s.memWait c = .none)
    (hm : u = 0 ∧ m = s ∨ 0 < u ∧ s.Uncancelled c x ∧ m = s.checked c.cell x.naming.scope)
    (hrun : (pl.run (m.venv c x) (m.cell c.cell).vlfsr carry u).exec m = (.ok o, s0)) (hw : Claims.UnitWritten c o.writes s0 s1) :
    runUnits c pl (unitPend bs u carry) s = sendGroups c pl.dests (pl.made (u + 1)) (decide (pl.units ≤ u + 1)) 2000
      { unitPend bs u o.carry with stage := 9, ids := o.outs.map (fun v => 2 * v.2 + v.1) } s1 (unitEnds c pl (u + 1)) := by
  have hnot : ¬ pl.units ≤ (unitPend bs u carry).sent := Nat.not_le_of_lt hu
  have h9 : ¬ ((unitPend bs u carry).stage = 9 ∨ (unitPend bs u carry).stage = 10) := by simp [unitPend]
  have hmw : m.memWait c = .none := by
    rcases hm with ⟨-, rfl⟩ | ⟨-, -, rfl⟩
    · exact hwait
    · exact (s.memWait_checked c _).trans hwait
  have hgo : ∀ go : State → Issued, (if (unitPend bs u carry).stage = 8 ∧ (unitPend bs u carry).sent ≠ 0 then
      cancelCheck c x.naming.scope s go else go s) = go m := by
    intro go
    rcases hm with ⟨h0, rfl⟩ | ⟨h0, hun, rfl⟩
    · exact if_neg fun h => h.2 h0
    · rw [if_pos ⟨rfl, Nat.ne_of_gt h0⟩, cancelCheck_goes _ _ hun.1 hun.2]
  simp only [runUnits, State.prog, hx]
  rw [if_neg hnot, if_neg h9, hgo]
  refine (unitOf_written (q := { unitPend bs u carry with carry := o.carry, writes := o.writes, ids := o.outs.map (fun v => 2 * v.2 + v.1) })
    _ (.inr rfl) hmw ?_ rfl hw).trans rfl
  rw [M.exec_bind, show (unitPend bs u carry).carry = carry from rfl, show (unitPend bs u carry).sent = u from rfl, hrun]
  rfl

end

end Sys2Proof.Machine

namespace Sys2Proof.Machine

/-! ## Where an iteration ends: results for channels, the next iteration, the end (spec 12, R271, R275, R278, R279) -/

section
variable {s t m : State} {c : Ctx} {dests : List Shape} {done f : Nat} {last : Bool} {p : Pending} {go : Pending → State → Issued}

theorem Shape.group_pos (h : Shape) : 0 < 256 / h.bits := by
  rcases h.bits_cases with h | h | h | h | h <;> rw [h] <;> decide

/-- Without results nothing leaves. -/
theorem sendGroups_none (h : p.ids = []) : sendGroups c dests done last (f + 1) p s go = go p s := by
  rw [sendGroups]
  generalize hr : List.findSome? _ _ = ready
  have hnone : ready = none := by
    rw [← hr, List.findSome?_eq_none_iff]
    rintro ⟨d, k⟩ -
    have hd := d.group_pos
    dsimp only
    rw [h, List.filter_nil, List.map_nil]
    split
    · rw [if_neg]
      rintro (h | ⟨-, h⟩)
      · exact absurd h (Nat.not_le_of_lt hd)
      · exact h rfl
    · rfl
  rw [hnone]

/-- A group of channel results leaves: with a share of the program's weight, behind the messages of the cell. -/
def State.sentGroup (s : State) (c : Ctx) (x : Prog) (d : Shape) (g : List Nat) (first : Nat) : State :=
  ((s.sendMsg c.cell (s.channelMsg c x d g first (splitShare x.w))).modCell c.cell (fun y => { y with
    outq := y.outq ++ [s.nextId] })).modProg (s.progId c) (fun y => { y with w := x.w - splitShare x.w })

/-- The results of the first destination as they wait for their channel. -/
def channelIds (rs : List Nat) : List Nat := rs.map (fun v => 2 * v)

theorem channelIds_values (rs : List Nat) : ((channelIds rs).filter (fun v => v % 2 == 0)).map (fun v => v / 2) = rs := by
  rw [channelIds, List.filter_eq_self.mpr, List.map_map]
  · conv_rhs => rw [← List.map_id rs]
    exact List.map_congr_left fun v _ => Nat.mul_div_cancel_left v (by decide)
  · intro v hv
    obtain ⟨r, -, rfl⟩ := List.mem_map.mp hv
    rw [Nat.mul_mod_right]; rfl

theorem channelIds_rest (rs : List Nat) : (channelIds rs).filter (fun v => v % 2 != 0) = [] := by
  rw [List.filter_eq_nil_iff]
  intro v hv
  obtain ⟨r, -, rfl⟩ := List.mem_map.mp hv
  simp

/-- The last results of one channel that fit in one message leave in it. -/
theorem sendGroups_one {h : Shape} {rs : List Nat} {x : Prog} (hloc : h.loc = 1) (hids : p.ids = channelIds rs) (hne : rs ≠ [])
    (hlen : rs.length ≤ 256 / h.bits) (hx : AL.find s.progs (s.progId c) = some x) (hw : 1 < x.w)
    (hroom : (s.cell c.cell).outq.length < 16) :
    sendGroups c [h] done true (f + 2) p s go =
      go { p with stage := 9, answer := none, ids := [] } (s.sentGroup c x h rs (done - rs.length)) := by
  rw [sendGroups]
  generalize hr : List.findSome? _ _ = ready
  have hready : ready = some (h, 0, rs, [], done - rs.length) := by
    rw [← hr, List.zipIdx_cons, List.zipIdx_nil, List.findSome?_cons]
    dsimp only
    rw [if_pos hloc, hids, channelIds_values, if_pos (Or.inr ⟨rfl, hne⟩), List.take_of_length_le hlen, List.drop_of_length_le hlen]
  rw [hready, State.prog, hx]
  dsimp only
  rw [if_neg (by rw [outQueueSize]; omega), if_neg (by omega), sendGroups_none]
  · rw [hids, channelIds_rest]; rfl
  · rw [hids, channelIds_rest]; rfl

/-- The last iteration ends the instruction once its writes have been performed. -/
theorem unitEnds_last {pl : Plan} {n : Nat} (hn : pl.units ≤ n) (hw : s.writesDone (s.progId c) = true) (he : p.err = none) :
    unitEnds c pl n p s = .ok s := by
  rw [unitEnds, if_pos hn]
  exact settled_done _ hw he

theorem unitEnds_more {pl : Plan} {n : Nat} (hn : ¬ pl.units ≤ n) :
    unitEnds c pl n p s = .stall (s.setPend c { p with stage := 8, sent := n }) := by
  rw [unitEnds, if_neg hn]

end

/-! ### The instruction as its program runs it -/

section
variable {s m : State} {c : Ctx} {i : Instr} {b : Issued} {v : EngineUnit} {q : State → Prop}

theorem happens_ok (hu : c.unit = .engine v) (h : exec i s = .next (finish s c [] (b.leave s c))) (hb : b = .ok m)
    (hq : q (m.engineEnd c s.nextId)) : Happens s i q := by
  refine ⟨_, h, ?_⟩
  rw [hb]
  change q ((m.engineEnd c s.nextId).pairRetire c [] none)
  rwa [pairRetire_engine hu]

theorem happens_stall (h : exec i s = .next (finish s c [] (b.leave s c))) (hb : b = .stall m) (hq : q m) : Happens s i q := by
  refine ⟨_, h, ?_⟩
  rw [hb]
  exact hq

theorem happens_trap {cause : Nat} {idx : Word} (hu : c.unit = .engine v) (h : exec i s = .next (finish s c [] (b.leave s c)))
    (hb : b = .trap cause idx) : Happens s i fun t => Raised (s.leaveScore c.cell (s.progId c)) t c cause idx c.site.next := by
  refine ⟨_, h, ?_⟩
  rw [hb, Issued.leave, finish]
  exact Raised.of_engine hu ..

end

section
variable {s s0 s1 m : State} {c : Ctx} {x : Prog} {regs touched : List Nat} {plan : List Shape → Option Plan} {shs : List Shape} {pl : Plan}
variable {bs : List Byte} {u : Nat} {carry : List Int} {o : UnitOut} {i : Instr}

/-- The state in which the first iteration runs. -/
def State.vectorStarts (s : State) (c : Ctx) (shs : List Shape) (bs : List Byte) : State :=
  ((s.endWait (s.req c)).reachScore c.cell (s.progId c) (fragsOf shs)).setPend c (unitPend bs 0 [])

theorem State.vectorStarts_change (hu : c.unit = .engine .vector) (s : State) (shs : List Shape) (bs : List Byte) :
    EngineChange s (s.vectorStarts c shs bs) c (fun y => { y with pend := some (unitPend bs 0 []) }) :=
  ((EngineChange.endWait s c (s.req c)).then (.reachScore ..)).after (.setPend hu _ _)

theorem State.vectorStarts_wait (hu : c.unit = .engine .vector) (hw : s.memWait c = .none) (shs : List Shape) (bs : List Byte) :
    (s.vectorStarts c shs bs).memWait c = .none := by
  have h1 : (s.vectorStarts c shs bs).waits = (s.endWait (s.req c)).waits := by
    rw [← State.reachScore_waits (s.endWait (s.req c)) c.cell (s.progId c) (fragsOf shs), State.vectorStarts]
    simp [State.setPend, hu]
  have h2 : (s.vectorStarts c shs bs).req c = (s.endWait (s.req c)).req c :=
    (State.vectorStarts_change hu s shs bs).req.trans (EngineChange.endWait s c (s.req c)).req.symm
  rw [State.memWait_of_waits h1 h2, State.memWait_endWait s c _ hw]

/-- A vector instruction that is at an iteration runs it, and goes on with its results. -/
theorem VectorForm.unit (hf : VectorForm s c (i, touched, regs, plan)) (h : s.VectorAt c x regs bs shs u carry m)
    (hpl : plan shs = some pl) (hu : u < pl.units)
    (hrun : (pl.run (m.venv c x) (m.cell c.cell).vlfsr carry u).exec m = (.ok o, s0)) (hw : Claims.UnitWritten c o.writes s0 s1) :
    vectorBody c (intRegs regs) plan s = (sendGroups c pl.dests (pl.made (u + 1)) (decide (pl.units ≤ u + 1)) 2000
      { unitPend bs u o.carry with stage := 9, ids := o.outs.map (fun v => 2 * v.2 + v.1) } s1 (unitEnds c pl (u + 1))).leave s c := by
  rcases h.stands with ⟨rfl, rfl, hp, hr, hfree, hm⟩ | ⟨hp, hlen, -, hm⟩
  · have hch := State.vectorStarts_change h.unit s shs bs
    have hx : AL.find (s.vectorStarts c shs bs).progs ((s.vectorStarts c shs bs).progId c) =
        some { x with pend := some (unitPend bs 0 []) } := by rw [hch.progId, hch.prog, h.prog]; rfl
    rw [vectorBody_first h.unit h.prog hp h.wait hf.regs hr h.shapes h.aligned hpl hfree]
    exact congrArg (fun r => Issued.leave r s c)
      (runUnits_unit hx hu (State.vectorStarts_wait h.unit h.wait shs bs) (.inl ⟨rfl, hm⟩) hrun hw)
  · rw [vectorBody_again h.unit h.prog hp hlen h.shapes h.aligned hpl, runUnits_unit h.prog hu h.wait ?_ hrun hw]
    rcases hm with ⟨h0, rfl⟩ | ⟨h0, h1, h2, rfl⟩
    · exact .inl ⟨h0, rfl⟩
    · exact .inr ⟨h0, ⟨h1, h2⟩, rfl⟩

/-- An iteration without channel results is done: the next one follows, or the instruction ends. -/
theorem VectorForm.done (hf : VectorForm s c (i, touched, regs, plan)) (ha : s.At c)
    (hc : s.Clear c .no (touched.map (fun (n : Nat) => (n : Int)))) (h : s.VectorAt c x regs bs shs u carry m)
    (hpl : plan shs = some pl) (hu : u < pl.units)
    (hrun : (pl.run (m.venv c x) (m.cell c.cell).vlfsr carry u).exec m = (.ok o, s0)) (hw : Claims.UnitWritten c o.writes s0 s1)
    (hdone : pl.units ≤ u + 1 → s1.writesDone (s1.progId c) = true) (houts : o.outs = []) :
    Happens s i fun t => UnitDone s1 t c (s1.progId c) Flags.none (decide (pl.units ≤ u + 1)) (unitPend bs (u + 1) o.carry) ∧
      Stands s1 t c (s1.progId c) (decide (pl.units ≤ u + 1)) id := by
  have hnext := hf.next ha hc
  have hbody := hf.unit h hpl hu hrun hw
  rw [sendGroups_none (by rw [houts]; rfl)] at hbody
  rw [intRegs] at hbody
  rw [hbody] at hnext
  by_cases hlast : pl.units ≤ u + 1
  · rw [decide_eq_true hlast]
    refine happens_ok h.unit hnext (unitEnds_last hlast (hdone hlast) rfl) ⟨.of_last h.unit (.refl s1 c) .id _ _, fun k => ?_, fun _ f hf => ?_⟩
    · exact s1.engineEnd_cell h.unit _ k
    · exact s1.engineEnd_score h.unit _ f hf
  · rw [decide_eq_false hlast]
    refine happens_stall hnext (unitEnds_more hlast) ⟨?_, fun k => ?_, fun h => absurd h Bool.false_ne_true⟩
    · rw [houts]
      exact .of_more h.unit (.refl s1 c) .id _
    · exact ⟨(s1.cell k).accOwner, State.setPend_cell h.unit ..⟩

end

end Sys2Proof.Machine

namespace Sys2Proof.Machine

/-! ## The units of the vector instructions (spec 12, R271 to R279) -/

section
variable {s s0 s1 m : State} {c : Ctx} {x y : Prog} {regs touched : List Nat} {plan : List Shape → Option Plan} {shs : List Shape} {pl : Plan}
variable {bs : List Byte} {u : Nat} {carry : List Int} {o : UnitOut} {i : Instr}

/-- What a group of channel results that has left for this device leaves. -/
structure GroupSent (s t : State) (c : Ctx) (y : Prog) (d : Shape) (rs : List Nat) (first : Nat) : Prop where
  msg     : AL.find t.msgs s.nextId = some ⟨s.channelMsg c y d rs first (y.w / 2), s.gca c.cell⟩
  outq    : (t.cell c.cell).outq = (s.cell c.cell).outq ++ [s.nextId]
  mem     : t.mem = s.mem
  flights : t.flights = s.flights
  progId  : t.progId c = s.progId c
  prog    : AL.find t.progs (s.progId c) = (AL.find s.progs (s.progId c)).map (fun k => { k with w := y.w - y.w / 2 })

theorem State.sentGroup_sent (hu : c.unit = .engine .vector) {d : Shape} {rs : List Nat} {first : Nat} (hdev : devOf d.dest = s.devNum) :
    GroupSent s (s.sentGroup c y d rs first) c y d rs first := by
  have hpost : s.sendMsg c.cell (s.channelMsg c y d rs first (splitShare y.w)) = s.post (s.channelMsg c y d rs first (splitShare y.w)) :=
    if_pos hdev
  have hcell : (s.sentGroup c y d rs first).cell c.cell = { s.cell c.cell with outq := (s.cell c.cell).outq ++ [s.nextId] } := by
    rw [State.sentGroup, State.cell_of_cells (State.modProg_cells ..), State.cell_modCell_same, hpost]
    rfl
  refine ⟨?_, by rw [hcell], ?_, ?_, ?_, ?_⟩
  · have h : (s.sentGroup c y d rs first).msgs = AL.put s.msgs s.nextId ⟨s.channelMsg c y d rs first (splitShare y.w), s.gca c.cell⟩ := by
      rw [State.sentGroup, hpost, State.modProg_msgs]
      rfl
    rw [h, AL.find_put, if_pos rfl]
    rfl
  · rw [State.sentGroup, hpost, State.modProg_mem]; rfl
  · rw [State.sentGroup, hpost, State.modProg_flights]; rfl
  · simp only [State.progId, hcell, hu, Cell.engine]
  · rw [State.sentGroup, hpost, State.find_modProg, if_pos rfl]
    rfl

/-- A single group of channel results leaves as one message, and the instruction ends. -/
theorem VectorForm.sends (hf : VectorForm s c (i, touched, regs, plan)) (ha : s.At c)
    (hc : s.Clear c .no (touched.map (fun (n : Nat) => (n : Int)))) (h : s.VectorAt c x regs bs shs u carry m)
    (hpl : plan shs = some pl) (hu : u < pl.units)
    (hrun : (pl.run (m.venv c x) (m.cell c.cell).vlfsr carry u).exec m = (.ok o, s0)) (hw : Claims.UnitWritten c o.writes s0 s1)
    (hlast : pl.units ≤ u + 1) (hdone : s1.writesDone (s1.progId c) = true) {d : Shape} {rs : List Nat} (hd : pl.dests = [d])
    (hloc : d.loc = 1) (houts : o.outs = rs.map (fun v => (0, v))) (hne : rs ≠ []) (hlen : rs.length ≤ 256 / d.bits)
    (hy : AL.find s1.progs (s1.progId c) = some y) (hweight : 1 < y.w) (hroom : (s1.cell c.cell).outq.length < 16)
    (hdev : devOf d.dest = s1.devNum) {P : State → Prop}
    (hP : ∀ r, GroupSent s1 r c y d rs (pl.made (u + 1) - rs.length) → P (r.engineEnd c s.nextId)) : Happens s i P := by
  have hnext := hf.next ha hc
  have hbody := hf.unit h hpl hu hrun hw
  have hsent : GroupSent s1 _ c y d rs (pl.made (u + 1) - rs.length) := State.sentGroup_sent h.unit hdev
  have hids : o.outs.map (fun v => 2 * v.2 + v.1) = channelIds rs := by
    rw [houts, List.map_map]; rfl
  rw [hd, decide_eq_true hlast, sendGroups_one hloc hids hne hlen hy hweight hroom] at hbody
  rw [intRegs] at hbody
  rw [hbody] at hnext
  refine happens_ok h.unit hnext (unitEnds_last hlast ?_ rfl) (hP _ hsent)
  rw [hsent.progId, State.writesDone, hsent.flights]
  exact hdone

/-- A trap of a vector instruction whose records have been read. -/
theorem VectorForm.traps (hf : VectorForm s c (i, touched, regs, plan)) (ha : s.At c)
    (hc : s.Clear c .no (touched.map (fun (n : Nat) => (n : Int)))) (hu : c.unit = .engine .vector)
    (hx : AL.find s.progs (s.progId c) = some x) (hp : x.pend = none) (hwait : s.memWait c = .none) (hr : s.RecordsRead c 64 regs bs)
    {cause : Nat} {idx : Word}
    (h : ∀ start, VectorStart c regs plan start → ∀ p t, p.data = bs → t.channelOk c = s.channelOk c → start p t = .trap cause idx) :
    Happens s i fun t => Raised (s.leaveScore c.cell (s.progId c)) t c cause idx c.site.next := by
  have hnext := hf.next ha hc
  have hbody := vectorBody_traps (plan := plan) (s.pendOf_fresh_vector hu hx hp) hwait hf.regs hr h
  rw [intRegs] at hbody
  rw [hbody] at hnext
  exact happens_trap hu hnext rfl

theorem VectorForm.misaligned {pre post : List Nat} {r : Nat} (hf : VectorForm s c (i, touched, pre ++ r :: post, plan)) (ha : s.At c)
    (hc : s.Clear c .no (touched.map (fun (n : Nat) => (n : Int)))) (hu : c.unit = .engine .vector)
    (hx : AL.find s.progs (s.progId c) = some x) (hp : x.pend = none) (hwait : s.memWait c = .none) (hr : s.RecordsRead c 64 pre bs)
    (hal : (s.reg c (r : Int)).toNat % 64 ≠ 0) :
    Happens s i fun t => Raised (s.leaveScore c.cell (s.progId c)) t c 0x08 (((s.reg c (r : Int)).setWidth 48).setWidth 64) c.site.next := by
  have hnext := hf.next ha hc
  have hbody := vectorBody_misaligned (plan := plan) (post := post) (s.pendOf_fresh_vector hu hx hp) hwait hr hal
  rw [intRegs] at hbody
  rw [hbody] at hnext
  exact happens_trap hu hnext rfl

end

theorem vector_units : Claims.VectorUnits := by
  intro s c d a b i touched regs plan x hi ha hc p
  have hf : VectorForm s c (i, touched, regs, plan) := vectorInstrs_form d a b _ hi
  refine ⟨fun bs shs u carry m pl o s0 s1 h hpl hu hrun hw hid hdone => ⟨fun _ houts => ?_, ?_⟩, fun bs hu hx hp hwait => ⟨?_, fun hr => ?_⟩⟩
  · refine (hf.done ha hc h hpl hu hrun hw (fun hl => ?_) houts).imp fun t ht => ?_
    · rw [hid]; exact hdone (decide_eq_true hl)
    · obtain ⟨hdone, hst⟩ := ht
      rw [hid] at hdone hst
      obtain ⟨o, ho⟩ := hst.same c.cell
      exact ⟨hdone, by rw [ho], by rw [ho], hst.score⟩
  · intro h1 rs y hd hloc houts hne hlen hlast hy hweight hroom hdev
    rw [← hid] at hy
    refine hf.sends ha hc h hpl hu hrun hw (of_decide_eq_true hlast) (by rw [hid]; exact hdone hlast) hd hloc houts hne hlen hy hweight hroom
      hdev fun r hr => ?_
    obtain ⟨f, hch⟩ := r.engineEnd_change h.unit s.nextId
    obtain ⟨o, ho⟩ := r.engineEnd_cell h.unit s.nextId c.cell
    have hmsgs := congrArg State.msgs hch.rest
    refine ⟨?_, ?_, ?_, ?_⟩
    · rw [show (r.engineEnd c s.nextId).msgs = r.msgs from hmsgs, hr.msg]
      rfl
    · rw [ho]; exact hr.outq
    · rw [hch.mem, hr.mem]
    · have hp1 := hch.prog
      rw [hr.progId, hr.prog, hy, hid] at hp1
      exact ⟨_, hp1, rfl, rfl, rfl⟩
  · intro pre post r hregs hr hal
    subst hregs
    exact hf.misaligned ha hc hu hx hp hwait hr hal
  · refine ⟨fun hsh => ?_, fun shs hsh hpl => ?_, fun shs pl h hsh hpl hal => ?_⟩
    · exact hf.traps ha hc hu hx hp hwait hr fun start hst q t hq ht => hst.malformed q t (by rw [hq, ht]; exact hsh)
    · exact hf.traps ha hc hu hx hp hwait hr fun start hst q t hq ht => hst.unplanned q t shs (by rw [hq, ht]; exact hsh) hpl
    · exact hf.traps ha hc hu hx hp hwait hr fun start hst q t hq ht => hst.unaligned q t shs pl h (by rw [hq, ht]; exact hsh) hpl hal

end Sys2Proof.Machine

namespace Sys2Proof.Machine

/-! ## The vector instructions complete (spec 12, R272 to R279) -/

/-- What R272 asks of the extents and of an accumulator's format. -/
theorem shapeOf_formed {bs : List Byte} {ok : BitVec 24 → Bool} {h : Shape} (hs : shapeOf bs ok = some h) :
    (∀ x ∈ h.ext, x ≠ 0) ∧ (h.loc = 2 → h.fmt = .int64) := by
  rw [shapeOf] at hs
  dsimp only at hs
  split at hs
  · cases hs
  next fmt hfmt =>
    rw [Option.ite_none_right_eq_some] at hs
    obtain ⟨hok, heq⟩ := hs
    obtain rfl := Option.some.inj heq
    simp only [Bool.and_eq_true] at hok
    obtain ⟨⟨hzeros, hplace⟩, -⟩ := hok
    obtain ⟨⟨⟨-, hext⟩, -⟩, -⟩ := hzeros
    refine ⟨fun x hx => by simpa using List.all_eq_true.mp hext x hx, fun hloc => ?_⟩
    dsimp only at hloc
    rw [hloc] at hplace
    simp only [Bool.and_eq_true, beq_iff_eq] at hplace
    obtain ⟨⟨⟨⟨⟨hint, -⟩, -⟩, -⟩, -⟩, -⟩ := hplace
    exact hint

theorem mem_of_mapM {α β : Type} {f : α → Option β} {l : List α} {r : List β} (h : l.mapM f = some r) : ∀ y ∈ r, ∃ x ∈ l, f x = some y := by
  induction l generalizing r with
  | nil =>
    rw [List.mapM_nil] at h
    cases h
    simp
  | cons a l ih =>
    rw [List.mapM_cons] at h
    obtain ⟨b, hb, h⟩ := Option.bind_eq_some_iff.mp h
    obtain ⟨bs, hbs, h⟩ := Option.bind_eq_some_iff.mp h
    cases h
    intro y hy
    rcases List.mem_cons.mp hy with rfl | hy
    · exact ⟨a, List.mem_cons_self .., hb⟩
    · obtain ⟨x, hx, hxy⟩ := ih hbs y hy
      exact ⟨x, List.mem_cons_of_mem _ hx, hxy⟩

section
variable {s : State} {c : Ctx} {h : Shape} {k : Nat}

theorem elementsPlain_usable (he : Claims.ElementsPlain s (s.whoGroup c) h (List.range (h.count + k)))
    (hext : ∀ x ∈ h.ext, x ≠ 0) (hfmt : h.loc = 2 → h.fmt = .int64) : s.Usable c k h := by
  rcases he with h2 | ⟨h0, hes, hplace⟩
  · exact ⟨⟨by rw [hfmt h2]; decide, fun e _ => .inl h2⟩, by omega, hext⟩
  · exact ⟨⟨hes, fun e hlt => .inr ⟨h0, hplace e (List.mem_range.mpr hlt)⟩⟩, by omega, hext⟩

/-- Records that stand in SRAM are read without a change. -/
theorem recordsPlain_read {regs : List Nat} {bs : List Byte}
    (hr : Claims.RecordsPlain s (s.whoGroup c) (regs.map (fun (r : Nat) => (s.reg c (r : Int)).setWidth 48)) bs) :
    s.RecordsRead c 64 regs bs := by
  obtain ⟨hlen, hrec⟩ := hr
  rw [List.length_map] at hlen
  refine ⟨hlen, fun q hq => ?_⟩
  obtain ⟨hal, f, hf, hbs⟩ := hrec q.2 ((s.reg c (q.1 : Int)).setWidth 48) (by
    rw [List.getElem?_map, List.mk_mem_zipIdx_iff_getElem?.mp hq]; rfl)
  exact ⟨hal, by rw [hbs]; exact State.PlainRun.readVa (fun _ => hf) .r⟩

end

section
variable {s : State} {c : Ctx} {x : Prog} {regs touched : List Nat} {plan : List Shape → Option Plan} {shs : List Shape} {pl : Plan}
variable {bs : List Byte} {u : Nat} {carry : List Int} {i : Instr}

/-- The state in which an iteration over plain elements is done: that of the first one, or the one before it, whose scope may have been
checked. -/
theorem vectorAt_works (hu : c.unit = .engine .vector) (hx : AL.find s.progs (s.progId c) = some x) (hwait : s.memWait c = .none)
    (hdone : s.writesDone (s.progId c) = true) (hne : regs ≠ [])
    (h : x.pend = none ∧ u = 0 ∧ carry = [] ∧ (∀ f ∈ fragsOf shs, s.score c.cell f = []) ∧ s.RecordsRead c 64 regs bs ∨
      x.pend = some (unitPend bs u carry) ∧ bs.length = 64 * regs.length ∧ (0 < u → s.Uncancelled c x))
    (hshs : (recordsOf regs bs).mapM (fun r => shapeOf r (s.channelOk c)) = some shs) (hal : ∀ h ∈ shs, h.aligned = true) :
    ∃ m, s.VectorAt c x regs bs shs u carry m ∧ Works s m c := by
  rcases h with ⟨hp, rfl, rfl, hfree, hr⟩ | ⟨hp, hlen, hgo⟩
  · refine ⟨s.vectorStarts c shs bs, ⟨hu, hx, hwait, hdone, hshs, hal, .inl ⟨rfl, rfl, hp, hr, hfree, rfl⟩⟩, ?_⟩
    exact .of_engineChange (State.vectorStarts_change hu s shs bs) (fun _ => rfl) (fun _ => rfl) fun _ => rfl
  · have hbs : bs ≠ [] := by
      rintro rfl
      exact hne (List.length_eq_zero_iff.mp (by rw [List.length_nil] at hlen; omega))
    by_cases h0 : u = 0
    · exact ⟨s, ⟨hu, hx, hwait, hdone, hshs, hal, .inr ⟨hp, hlen, hbs, .inl ⟨h0, rfl⟩⟩⟩, .refl s c⟩
    · have hpos := Nat.pos_of_ne_zero h0
      obtain ⟨h1, h2⟩ := hgo hpos
      exact ⟨s.checked c.cell x.naming.scope, ⟨hu, hx, hwait, hdone, hshs, hal, .inr ⟨hp, hlen, hbs, .inr ⟨hpos, h1, h2, rfl⟩⟩⟩,
        .of_same (.checked s c _)⟩

/-- An iteration over plain elements is computed and written. -/
theorem Plan.Goes.unit {m : State} (hg : pl.Goes s c carry) (hu : u < pl.units) (hm : Works s m c) (x : Prog) :
    ∃ o s0 s1, (pl.run (m.venv c x) (m.cell c.cell).vlfsr carry u).exec m = (.ok o, s0) ∧ Claims.UnitWritten c o.writes s0 s1 ∧
      o.outs = [] ∧ Works s s1 c := by
  have hv : (m.venv c x).On s c := ⟨hm.reaches.segsOf c.cell, rfl⟩
  obtain ⟨o, s0, hrun, h0, houts, hws⟩ := hg (m.venv c x) (m.cell c.cell).vlfsr u hv hu m hm
  have hs0 := hm.trans h0
  obtain ⟨s1, hw, h1⟩ := unitWritten_plain o.writes fun w hmem => (hws w hmem).works hs0
  exact ⟨o, s0, s1, hrun, hw, houts, hs0.trans h1⟩

end

theorem vector_instructions_complete : Claims.VectorInstructionsComplete := by
  intro s c d a b i touched regs plan x bs shs pl u carry hi ha hunit hc hx hwait hdone hst hshs hal hpl hplain hu
  have hf : VectorForm s c (i, touched, regs, plan) := vectorInstrs_form d a b _ hi
  have husable : ∀ h ∈ shs, s.Usable c carry.length h := fun h hh => by
    obtain ⟨r, -, hr⟩ := mem_of_mapM hshs h hh
    obtain ⟨hext, hfmt⟩ := shapeOf_formed hr
    exact elementsPlain_usable (hplain h hh) hext hfmt
  obtain ⟨hgoes, -⟩ := hf.plain shs pl hpl s c carry husable
  obtain ⟨m, hat, hm⟩ := vectorAt_works hunit hx hwait hdone hf.regs (hst.imp
    (fun ⟨h1, h2, h3, h4, h5⟩ => ⟨h1, h2, h3, h4, recordsPlain_read h5⟩) id) hshs hal
  obtain ⟨o, s0, s1, hrun, hw, houts, h1⟩ := hgoes.unit hu hm x
  have hdone1 : s1.writesDone (s1.progId c) = true := by
    rw [h1.progId, State.writesDone, h1.flights]; exact hdone
  obtain ⟨y, hy, hlife, hpc, hres⟩ := h1.prog x hx
  refine (hf.done ha hc hat hpl hu hrun hw (fun _ => hdone1) houts).imp fun t ⟨ht, hst⟩ => ?_
  rw [h1.progId] at ht hst
  obtain ⟨z, hz, -, hzl, -, hzpc, hzp⟩ := ht.prog y hy
  refine ⟨fun hlast => ?_, fun hmore => ?_⟩
  · rw [decide_eq_true hlast] at hst hzpc hzp
    refine ⟨⟨z, hz, hzl.trans hlife, hzp, ?_⟩, hst.score rfl⟩
    rw [hzpc, if_pos rfl, hres]
  · rw [decide_eq_false (by omega)] at hzpc hzp
    exact ⟨z, o.carry, hz, hzl.trans hlife, by rw [hzpc, if_neg Bool.false_ne_true, hpc], hzp⟩

end Sys2Proof.Machine

namespace Sys2Proof.Machine

/-! ## An iteration of one element (spec 12, R269, R270, R274) -/

/-- An iteration has committed its flags and draws: they stand with its program and its cell, and nothing else has changed. -/
structure VEnv.Committed (v : VEnv) (f : Flags) (fs : AL (BitVec 16)) (s t : State) : Prop where
  own    : ∀ p x, v.who.issuer = .prog p → AL.find s.progs p = some x →
             AL.find t.progs p = some { x with cr := { x.cr with rmode := x.cr.rmode ||| f.toWord } }
  others : ∀ k, v.who.issuer ≠ .prog k → AL.find t.progs k = AL.find s.progs k
  lfsr   : (t.cell v.who.cell).vlfsr = fs
  cell   : { t.cell v.who.cell with vlfsr := (s.cell v.who.cell).vlfsr } = s.cell v.who.cell
  cells  : ∀ k, k ≠ v.who.cell → t.cell k = s.cell k
  rest   : { t with progs := s.progs, cells := s.cells } = s

section
variable {v : VEnv} {s t : State} {f : Flags} {fs : AL (BitVec 16)}

/-- The draws of an iteration stand with its cell. -/
theorem VEnv.Committed.of_raised (ho : ∀ p x, v.who.issuer = .prog p → AL.find s.progs p = some x →
      AL.find t.progs p = some { x with cr := { x.cr with rmode := x.cr.rmode ||| f.toWord } })
    (hk : ∀ k, v.who.issuer ≠ .prog k → AL.find t.progs k = AL.find s.progs k) (hc : t.cells = s.cells)
    (hr : { t with progs := s.progs } = s) :
    v.Committed f fs s (t.modCell v.who.cell (fun y => { y with vlfsr := fs })) where
  own := ho
  others := hk
  lfsr := by rw [State.cell_modCell_same]
  cell := by rw [State.cell_modCell_same, State.cell_of_cells hc]
  cells k h := by rw [State.cell_modCell, if_neg (Ne.symm h), State.cell_of_cells hc]
  rest := by
    have h := congrArg (fun u : State => { u with cells := s.cells }) hr
    exact h

theorem VEnv.commit_committed (v : VEnv) (f : Flags) (fs : AL (BitVec 16)) (s : State) :
    ∃ t, (v.commit f fs).exec s = (.ok (), t) ∧ v.Committed f fs s t := by
  rw [VEnv.commit, VEnv.raise]
  split
  next p hp =>
    refine ⟨_, rfl, .of_raised (fun q x hq hx => ?_) (fun k hk => ?_) (State.modProg_cells ..) ?_⟩
    · obtain rfl : p = q := by rw [hp] at hq; exact Issuer.prog.inj hq
      rw [State.find_modProg, if_pos rfl, hx]; rfl
    · rw [State.find_modProg, if_neg fun h : p = k => hk (h ▸ hp)]
    · obtain ⟨ps, hps⟩ := s.modProg_rest p fun x => { x with cr := { x.cr with rmode := x.cr.rmode ||| f.toWord } }
      rw [hps]
  next hne =>
    exact ⟨_, rfl, .of_raised (t := s) (fun q x hq => absurd hq (hne q)) (fun _ _ => rfl) rfl rfl⟩

theorem VEnv.Committed.reaches (h : v.Committed f fs s t) : s.Reaches t := by
  have hcell : ∀ k, ∃ l, t.cell k = { s.cell k with vlfsr := l } := by
    intro k
    by_cases hk : k = v.who.cell
    · refine ⟨(t.cell k).vlfsr, ?_⟩
      have h1 := congrArg (fun y : Cell => { y with vlfsr := (t.cell k).vlfsr }) h.cell
      rw [← hk] at h1
      exact h1
    · exact ⟨(s.cell k).vlfsr, h.cells k hk⟩
  have h1 := congrArg State.fields h.rest
  have h2 := congrArg State.channels h.rest
  have h3 := congrArg State.atomics h.rest
  have h4 := congrArg State.poison h.rest
  refine ⟨fun k => ?_, fun k => ?_, h1, h2, h3, fun p hp => ?_⟩
  · obtain ⟨l, hl⟩ := hcell k; rw [hl]; exact ⟨rfl, rfl⟩
  · obtain ⟨l, hl⟩ := hcell k; rw [hl]; exact ⟨rfl, rfl⟩
  · rw [← h4]; exact hp

theorem VEnv.Committed.mem (h : v.Committed f fs s t) : t.mem = s.mem := by
  have h1 := congrArg State.mem h.rest; exact h1

end

section
variable {v : VEnv} {s : State} {d a : Shape} {need : Need} {fl : Nat}

theorem elemIndex_one (ext : List Nat) (h : ∀ n ∈ ext, n = 1) (str : List Int) : elemIndex ext str 0 = 0 := by
  induction ext generalizing str with
  | nil => cases str <;> rfl
  | cons n l ih =>
    cases str with
    | nil => rfl
    | cons x str =>
      rw [elemIndex, Nat.zero_mod, Nat.zero_div, ih fun m hm => h m (List.mem_cons_of_mem _ hm)]
      simp

theorem State.ElementAt.count (h : s.ElementAt (v.whoOf a) a need fl) : a.count = 1 := by
  rw [Shape.count, ← List.prod_eq_foldl]
  exact List.prod_eq_one h.one.2

/-- The place of the one element of a shape. -/
theorem State.ElementAt.elemPlace (h : s.ElementAt (v.whoOf a) a need fl) :
    Machine.elemPlace a.base (a.index 0) a.bits = ((a.base.toNat : Int), false) := by
  have h4 : ¬ a.bits = 4 := by have := h.bytes; omega
  rw [Machine.elemPlace, if_neg h4, Shape.index, elemIndex_one _ h.one.2]
  simp

theorem State.ElementAt.bytes_eq (h : s.ElementAt (v.whoOf a) a need fl) : (a.bits + 7) / 8 = a.bits / 8 ∧ 0 < a.bits / 8 ∧ a.bits / 8 ≤ 8 := by
  have := h.bytes
  rcases a.bits_cases with h | h | h | h | h <;> omega

/-- The one element lies in one doubleword. -/
theorem State.ElementAt.pieces (h : s.ElementAt (v.whoOf a) a need fl) (n : Nat) (hn : n = a.bits / 8) :
    Machine.pieces n a.base.toNat n = [(a.base.toNat, n)] := by
  have hal := h.aligned
  have hlt := a.base.isLt
  have hb := h.bytes
  have hfit : a.base.toNat % 8 + n ≤ 8 := by
    rw [← hn] at hal
    rcases a.bits_cases with h | h | h | h | h <;> rw [h] at hn hb <;> norm_num at hn hb <;> subst hn <;> omega
  obtain ⟨-, hpos, -⟩ := h.bytes_eq
  obtain ⟨m, rfl⟩ : ∃ m, n = m + 1 := ⟨n - 1, by omega⟩
  rw [Machine.pieces, if_neg (by omega), Nat.mod_eq_of_lt hlt]
  dsimp only
  rw [show min (m + 1) (8 - a.base.toNat % 8) = m + 1 by omega, Nat.sub_self, pieces_zero]

/-- The one element of a shape is read where it stands. -/
theorem readBits_one (h : s.ElementAt (v.whoOf a) a .r fl) (hcold : s.cold (fl / 64) = true) :
    (readBits v a 0).exec s = (.ok (leNat (s.mem.bytes fl (a.bits / 8))), s) := by
  have h4 : ¬ a.bits = 4 := by have := h.bytes; omega
  have hlt := a.base.isLt
  obtain ⟨hn, hpos, -⟩ := h.bytes_eq
  rw [readBits, if_neg (by rw [h.loc]; decide)]
  dsimp only
  rw [h.elemPlace, hn]
  dsimp only
  rw [M.exec_bind, boundStop_inside (by omega) (by omega)]
  dsimp only
  rw [Int.toNat_natCast, M.exec_bind, straddleStop_one h.region]
  dsimp only
  rw [M.exec_bind, readVa, h.pieces _ rfl, List.foldlM_cons, M.exec_bind, M.exec_bind,
    readPiece_sram h.place h.open_ h.clean hcold]
  dsimp only
  rw [M.exec_pure]
  dsimp only
  rw [List.foldlM_nil, M.exec_pure]
  dsimp only
  rw [if_neg h4, List.nil_append, M.exec_pure]

theorem readNum_one (h : s.ElementAt (v.whoOf a) a .r fl) (hcold : s.cold (fl / 64) = true) :
    (readNum v a 0).exec s = (.ok (decodeNum a.fmt v.rd.ftz (leNat (s.mem.bytes fl (a.bits / 8))), Flags.none), s) := by
  have hes : ¬ a.fmt = .es4 := by
    intro he
    have := h.bytes
    rw [Shape.bits, he] at this
    exact absurd this (by decide)
  rw [readNum, if_neg hes, M.exec_bind, readBits_one h hcold]
  rfl

/-! ### Its write and its state -/

theorem State.Reaches.mirrorAt {s t : State} (h : s.Reaches t) (a : Nat) : t.mirrorAt a = s.mirrorAt a := by
  simp only [State.mirrorAt, h.follower]

theorem State.mirrorAt_none {s : State} {a : Nat} (h : ∀ k, ownerCell a = some k → s.follower k = none) : s.mirrorAt a = none := by
  rw [State.mirrorAt]
  split
  next k hk =>
    split
    · rw [h k hk]; rfl
    · rfl
  · rfl

/-- The write of the one element of a shape, once the iteration has committed. -/
theorem writeOf_one {t : State} {f : Flags} {fs : AL (BitVec 16)} (h : s.ElementAt (v.whoOf d) d .w fl)
    (hn : s.narrowPoison fl (d.bits / 8) = false) (hrace : s.raceOn fl = false) (halone : ∀ k, ownerCell fl = some k → s.follower k = none)
    (hcold : s.cold (fl / 64) = true) (ht : v.Committed f fs s t) (q : Nat) :
    Claims.Written (fun _ => v.who) id (d.writeOf 0 q) t (t.wroteAt fl (leBytes (d.bits / 8) q)) := by
  have h4 : ¬ d.bits = 4 := by have := h.bytes; omega
  have hlt := d.base.isLt
  obtain ⟨hlen, hpos, -⟩ := h.bytes_eq
  have hr := ht.reaches
  have hm := State.mirrorAt_none halone
  have hregion : oneRegion (v.who.inClass d.cls).segs d.base.toNat (d.bits / 8) = true := h.region
  have hplace : resolve (v.who.inClass d.cls).segs (v.who.inClass d.cls).window d.base.toNat .w = .sram fl := h.place
  have hpoison : t.poison = s.poison := by
    have h1 := congrArg State.poison ht.rest; exact h1
  have hw : d.writeOf 0 q = [.mem (d.base.toNat : Int) (leBytes (d.bits / 8) q) none d.cls] := by
    rw [Shape.writeOf, if_neg (by rw [h.loc]; decide), if_pos h.loc, if_neg h4, h.elemPlace, hlen]
  rw [hw]
  refine ⟨t.wroteAt fl (leBytes (d.bits / 8) q), ?_, rfl⟩
  unfold UWrite.perform
  rw [M.exec_bind, boundStop_inside (by omega) (by omega)]
  dsimp only
  rw [Int.toNat_natCast, leBytes_length, M.exec_bind, straddleStop_one hregion]
  dsimp only
  rw [writeVaM, leBytes_length, h.pieces _ rfl, M.exec_bind, List.foldlM_cons, M.exec_bind, M.exec_bind]
  dsimp only
  rw [List.take_of_length_le (by rw [leBytes_length]), writePiece_sram hplace ((hr.flatFenced fl).trans h.open_) ?_
    ((hr.raceOn fl).trans hrace) ((hr.mirrorAt fl).trans hm) ((hr.cold _).trans hcold)]
  · dsimp only
    rw [M.exec_pure]
    dsimp only
    rw [List.foldlM_nil, M.exec_pure]
    rfl
  · rw [leBytes_length, ← hn, State.narrowPoison, State.narrowPoison, hpoison, hr.mirrorAt]

/-- What the iteration leaves with its one result `q`: its flags and draws stand, its bytes are written, and nothing else has changed. -/
structure ElementDone (v : VEnv) (s t : State) (fl : Nat) (q : Nat × Flags) (n : Nat) (fs : AL (BitVec 16)) : Prop where
  mem    : ∀ j, t.mem.get j = if fl ≤ j ∧ j < fl + n then ((leBytes n q.1)[j - fl]?).getD 0 else s.mem.get j
  own    : ∀ p x, v.who.issuer = .prog p → AL.find s.progs p = some x →
             AL.find t.progs p = some { x with cr := { x.cr with rmode := x.cr.rmode ||| q.2.toWord } }
  others : ∀ k, v.who.issuer ≠ .prog k → AL.find t.progs k = AL.find s.progs k
  lfsr   : (t.cell v.who.cell).vlfsr = fs
  cell   : { t.cell v.who.cell with vlfsr := (s.cell v.who.cell).vlfsr } = s.cell v.who.cell
  cells  : ∀ k, k ≠ v.who.cell → t.cell k = s.cell k
  rest   : { t with mem := s.mem, poison := s.poison, progs := s.progs, cells := s.cells } = s

theorem VEnv.Committed.wrote {t : State} {q : Nat × Flags} {n : Nat} {fs : AL (BitVec 16)} (h : v.Committed q.2 fs s t) :
    ElementDone v s (t.wroteAt fl (leBytes n q.1)) fl q n fs where
  mem j := by
    rw [State.wroteAt]
    dsimp only
    rw [Memory.get_setBytes, h.mem]
    by_cases h1 : fl ≤ j
    · by_cases h2 : j < fl + n
      · have h3 : j - fl < (leBytes n q.1).length := by rw [leBytes_length]; omega
        rw [if_pos h1, if_pos ⟨h1, h2⟩, List.getElem?_eq_getElem h3]; rfl
      · rw [if_pos h1, if_neg fun h => h2 h.2, List.getElem?_eq_none (by rw [leBytes_length]; omega)]; rfl
    · rw [if_neg h1, if_neg fun h => h1 h.1]
  own := h.own
  others := h.others
  lfsr := h.lfsr
  cell := h.cell
  cells := h.cells
  rest := by
    have h1 := congrArg (fun u : State => { u with mem := s.mem, poison := s.poison }) h.rest
    exact h1

/-! ### One result -/

theorem Flags.none_or (f : Flags) : Flags.none.or f = f := rfl

theorem perIteration_pos (shs : List Shape) (slow : Bool) : 0 < perIteration shs slow := by
  have hw : ∀ (l : List Shape) (a : Nat), a ≤ 64 → l.foldl (fun a h => max a h.bits) a ≤ 64 := by
    intro l
    induction l with
    | nil => exact fun a h => h
    | cons h l ih =>
      refine fun a ha => ih _ (max_le ha ?_)
      rcases h.bits_cases with h | h | h | h | h <;> omega
  have h1 := hw shs 1 (by decide)
  have h0 : ∀ (l : List Shape) (a : Nat), 1 ≤ a → 1 ≤ l.foldl (fun a h => max a h.bits) a := by
    intro l
    induction l with
    | nil => exact fun a h => h
    | cons h l ih => exact fun a ha => ih _ (ha.trans (le_max_left ..))
  have h2 := h0 shs 1 (le_refl 1)
  have h3 : 0 < 2048 / shs.foldl (fun a h => max a h.bits) 1 := Nat.div_pos (by omega) (by omega)
  rw [perIteration]
  cases slow <;> simp <;> omega

theorem iteration_one {n : Nat} (hn : 0 < n) : iteration n 1 0 = [0] := by
  rw [iteration, Nat.zero_mul, Nat.sub_zero, Nat.min_eq_right hn]
  rfl

/-- The result of one element, as its destination in memory takes it, with its draw. -/
def oneResult (v : VEnv) (d : Shape) (fs : AL (BitVec 16)) (r : Res) : (Nat × Flags) × AL (BitVec 16) :=
  let dr := if r.rounded then v.draw fs 0 else (0, fs)
  (d.fmt.finish v.rd r dr.1, dr.2)

theorem finishAll_one (hd : d.loc = 0) (n : Nat) (r : Res) (fs : AL (BitVec 16)) : finishAll v d n [(0, r)] fs Flags.none =
    ([(0, (oneResult v d fs r).1.1)], (oneResult v d fs r).1.2, (oneResult v d fs r).2) := by
  have hloc : ¬ d.loc = 2 := by omega
  have hl : lfsrFor n 0 = 0 := by rw [lfsrFor, Nat.zero_mul, Nat.zero_div]
  rw [finishAll, List.zipIdx_cons, List.zipIdx_nil, List.foldl_cons, List.foldl_nil, hl]
  dsimp only
  rw [Shape.finish, if_neg hloc, Flags.none_or, List.nil_append]
  rfl

theorem insertAt_nil {α : Type} (n : Nat) (x : α) : insertAt [] n x = [x] := by cases n <;> rfl

theorem resultsOf_one (hd : d.loc = 0) (q : Nat) : resultsOf v d 0 [(0, q)] [] = ⟨[], d.writeOf 0 q, []⟩ := by
  have hshuffle : shuffle v.tick [(0, q)] = [(0, q)] := by
    rw [shuffle, List.foldl_cons, List.foldl_nil, insertAt_nil]
  rw [resultsOf, if_neg (by omega), hshuffle]
  dsimp only
  rw [ite_self, List.flatMap_singleton]

end

end Sys2Proof.Machine

namespace Sys2Proof.Machine

/-! ## What the elements of an instruction give where it has one (spec 12, R282 to R289) -/

section
variable {v : VEnv} {s : State} {d a b : Shape} {fd fa fb : Nat} {fs : AL (BitVec 16)} {carry : List Int}

/-- What reads without a change reads one after the other. -/
theorem M.mapM_reads {α β : Type} {f : α → M β} {l : List α} {ys : List β} (h : List.Forall₂ (fun x y => (f x).exec s = (.ok y, s)) l ys) :
    (l.mapM f).exec s = (.ok ys, s) := by
  induction h with
  | nil => rw [List.mapM_nil]; rfl
  | cons hx _ ih =>
    rw [List.mapM_cons, M.exec_bind, hx]
    dsimp only
    rw [M.exec_bind, ih]
    rfl

theorem noFlags (l : List Num) : (l.map (fun x => (x, Flags.none))).foldl (fun f x => f.or x.2) Flags.none = Flags.none := by
  induction l with
  | nil => rfl
  | cons x l ih => rw [List.map_cons, List.foldl_cons]; exact ih

theorem units_one {n : Nat} (hn : 0 < n) : (1 + n - 1) / n = 1 := by
  rw [Nat.add_sub_cancel_left, Nat.div_self hn]

/-- The run of a plan of one element gives the result `r` in memory. -/
def Plan.GivesOne (pl : Plan) (v : VEnv) (s : State) (d : Shape) (fs : AL (BitVec 16)) (r : Res) : Prop :=
  pl.units = 1 ∧ ∀ carry, ∃ t, (pl.run v fs carry 0).exec s = (.ok ⟨[], d.writeOf 0 (oneResult v d fs r).1.1, []⟩, t) ∧
    v.Committed (oneResult v d fs r).1.2 (oneResult v d fs r).2 s t

theorem elementPlan_one {srcs : List Shape} {xs : List Num} (slow : Bool) (f : VEnv → Nat → List Num → Res) (hloc : d.loc = 0)
    (hcount : d.count = 1) (hr : List.Forall₂ (fun h x => (readNum v h 0).exec s = (.ok (x, Flags.none), s)) srcs xs) :
    (elementPlan d srcs slow f).GivesOne v s d fs (f v 0 xs) := by
  refine ⟨?_, fun carry => ?_⟩
  · rw [elementPlan]
    dsimp only
    rw [hcount, units_one (perIteration_pos ..)]
  obtain ⟨t, ht, hc⟩ := v.commit_committed (oneResult v d fs (f v 0 xs)).1.2 (oneResult v d fs (f v 0 xs)).2 s
  refine ⟨t, ?_, hc⟩
  have hr' : List.Forall₂ (fun h x => (readNum v h 0).exec s = (.ok x, s)) srcs (xs.map (fun x => (x, Flags.none))) :=
    List.forall₂_map_right_iff.mpr hr
  have hxs : (xs.map (fun x => (x, Flags.none))).map Prod.fst = xs := by
    rw [List.map_map]; exact List.map_id xs
  rw [elementPlan]
  dsimp only
  rw [hcount, iteration_one (perIteration_pos ..), M.exec_bind, List.mapM_cons, M.exec_bind, M.exec_bind, M.mapM_reads hr']
  dsimp only
  rw [M.exec_pure, hxs, noFlags]
  dsimp only
  rw [List.mapM_nil, M.exec_bind, M.exec_pure]
  dsimp only
  rw [M.exec_pure]
  dsimp only
  rw [List.map_cons, List.map_nil, List.foldl_cons, List.foldl_nil, Flags.none_or, finishAll_one hloc, M.exec_bind, ht]
  dsimp only
  rw [resultsOf_one hloc, M.exec_pure]

theorem patternPlan_one {srcs : List Shape} {xs : List Nat} (f : VEnv → List Nat → Nat) (hloc : d.loc = 0)
    (hcount : d.count = 1) (hr : List.Forall₂ (fun h x => (readBits v h 0).exec s = (.ok x, s)) srcs xs) :
    (patternPlan d srcs f).GivesOne v s d fs (.raw (f v xs)) := by
  refine ⟨?_, fun carry => ?_⟩
  · rw [patternPlan]
    dsimp only
    rw [hcount, units_one (perIteration_pos ..)]
  obtain ⟨t, ht, hc⟩ := v.commit_committed (oneResult v d fs (.raw (f v xs))).1.2 (oneResult v d fs (.raw (f v xs))).2 s
  refine ⟨t, ?_, hc⟩
  rw [patternPlan]
  dsimp only
  rw [hcount, iteration_one (perIteration_pos ..), M.exec_bind, List.mapM_cons, M.exec_bind, M.exec_bind, M.mapM_reads hr]
  dsimp only
  rw [M.exec_pure]
  dsimp only
  rw [List.mapM_nil, M.exec_bind, M.exec_pure]
  dsimp only
  rw [M.exec_pure]
  dsimp only
  rw [finishAll_one hloc, M.exec_bind, ht]
  dsimp only
  rw [resultsOf_one hloc, M.exec_pure]

end

theorem vector_elements : Claims.VectorElements := by
  intro s v d a b fd fa fb fs hd hn hrace halone ha hb hcd hca hcb pat num gives
  have hgives : ∀ r pl, pl.GivesOne v s d fs r → gives r pl := by
    refine fun r pl ⟨hu, hrun⟩ => ⟨hu, fun carry => ?_⟩
    obtain ⟨s1, hrun, hc⟩ := hrun carry
    obtain ⟨hmem, hown, hothers, hlfsr, hcell, hcells, hrest⟩ := hc.wrote (fl := fd) (n := d.bits / 8)
    exact ⟨_, s1, _, hrun, hc.mem, writeOf_one hd hn hrace halone hcd hc _, hmem, hown, hothers, hlfsr, hcell, hcells, hrest⟩
  have hna := readNum_one ha hca
  have hnb := readNum_one hb hcb
  have hpa := readBits_one ha hca
  have hpb := readBits_one hb hcb
  exact ⟨fun slow f => hgives _ _ (elementPlan_one slow f hd.loc hd.count (.cons hna .nil)),
    fun slow f => hgives _ _ (elementPlan_one slow f hd.loc hd.count (.cons hna (.cons hnb .nil))),
    fun f => hgives _ _ (patternPlan_one f hd.loc hd.count (.cons hpa .nil)),
    fun f => hgives _ _ (patternPlan_one f hd.loc hd.count (.cons hpa (.cons hpb .nil)))⟩

end Sys2Proof.Machine

namespace Sys2Proof.Machine

/-! ## Gather and scatter of one element (spec 12, R291, R292) -/

section
variable {v : VEnv} {d a b : Shape} {fs : AL (BitVec 16)}

theorem keepAt_mem (v : VEnv) (key x : Nat) (s : State) : ∃ t, (keepAt v key x).exec s = (.ok (), t) ∧ t.mem = s.mem := by
  rw [keepAt]
  split
  · exact ⟨_, rfl, State.modProg_mem ..⟩
  · exact ⟨s, rfl, rfl⟩

theorem forM_mem {α : Type} {f : α → M PUnit} (hf : ∀ x s, ∃ t, (f x).exec s = (.ok (), t) ∧ t.mem = s.mem) (l : List α) (s : State) :
    ∃ t, (l.forM f).exec s = (.ok (), t) ∧ t.mem = s.mem := by
  induction l generalizing s with
  | nil => exact ⟨s, rfl, rfl⟩
  | cons x l ih =>
    obtain ⟨u, hu, hm⟩ := hf x s
    obtain ⟨t, ht, hmt⟩ := ih u
    refine ⟨t, ?_, hmt.trans hm⟩
    change (f x >>= fun _ => l.forM f).exec s = _
    rw [M.exec_bind, hu]
    exact ht

theorem keepOld_mem (v : VEnv) (h : Shape) (e : Nat) (s : State) : ∃ t, (keepOld v h e).exec s = (.ok (), t) ∧ t.mem = s.mem := by
  rw [keepOld, M.exec_bind, M.exec_state]
  dsimp only
  split
  · exact keepAt_mem ..
  · split
    · refine forM_mem (fun i u => ?_) _ s
      split
      · exact keepAt_mem ..
      · exact ⟨u, rfl, rfl⟩
    · exact ⟨s, rfl, rfl⟩

theorem writeOver_one (hd : d.loc = 0) (q : Nat) (s : State) :
    ∃ t, (writeOver v d [(0, q)] []).exec s = (.ok ⟨[], d.writeOf 0 q, []⟩, t) ∧ t.mem = s.mem := by
  obtain ⟨t, ht, hm⟩ := forM_mem (f := fun r : Nat × Nat => keepOld v d r.1) (fun r u => keepOld_mem v d r.1 u) [(0, q)] s
  exact ⟨t, by rw [writeOver, M.exec_bind, ht]; dsimp only; rw [resultsOf_one hd, M.exec_pure], hm⟩

/-- A gather of one element whose source has been read. -/
theorem gather_one (hd : d.loc = 0) (hcount : d.count = 1) {s : State} {ib q : Nat}
    (hi : (readOld v b (d.same b) 0).exec s = (.ok ib, s))
    (hq : 0 ≤ indexOf b ib ∧ indexOf b ib < a.count ∧ (readOld v a false (indexOf b ib).toNat).exec s = (.ok q, s) ∨
      ¬ (0 ≤ indexOf b ib ∧ indexOf b ib < a.count) ∧ q = 0) :
    ∃ t, ((gatherPlan d a b).run v fs [] 0).exec s = (.ok ⟨[], d.writeOf 0 q, []⟩, t) ∧ t.mem = s.mem := by
  obtain ⟨u, hu, hc⟩ := v.commit_committed (oneResult v d fs (.raw q)).1.2 (oneResult v d fs (.raw q)).2 s
  obtain ⟨t, ht, hm⟩ := writeOver_one (v := v) hd q u
  refine ⟨t, ?_, hm.trans hc.mem⟩
  have hread : ((if 0 ≤ indexOf b ib ∧ indexOf b ib < a.count then do
      let x ← readOld v a false (indexOf b ib).toNat
      pure (0, Res.raw x)
      else pure (0, Res.raw 0) : M (Nat × Res))).exec s = (.ok (0, Res.raw q), s) := by
    rcases hq with ⟨h0, h1, hq⟩ | ⟨h0, rfl⟩
    · rw [if_pos ⟨h0, h1⟩, M.exec_bind, hq]; rfl
    · rw [if_neg h0]; rfl
  rw [gatherPlan]
  dsimp only
  rw [hcount, iteration_one (perIteration_pos ..), M.exec_bind, List.mapM_cons, M.exec_bind, M.exec_bind, hi]
  dsimp only
  rw [hread]
  dsimp only
  rw [List.mapM_nil, M.exec_bind, M.exec_pure]
  dsimp only
  rw [M.exec_pure]
  dsimp only
  rw [finishAll_one hd, M.exec_bind, hu]
  exact ht

/-- A scatter of one element. -/
theorem scatter_one (hd : d.loc = 0) (hcount : a.count = 1) {s : State} {ib q : Nat} (hi : (readBits v b 0).exec s = (.ok ib, s))
    (hq : (readBits v a 0).exec s = (.ok q, s)) :
    (0 ≤ indexOf b ib → indexOf b ib < d.count → a.meets d (indexOf b ib).toNat = false → b.meets d (indexOf b ib).toNat = false →
      ∃ t, ((scatterPlan d a b).run v fs [] 0).exec s = (.ok ⟨[], d.writeOf (indexOf b ib).toNat q, []⟩, t) ∧ t.mem = s.mem) ∧
    (indexOf b ib < 0 ∨ d.count ≤ indexOf b ib →
      ∃ t, ((scatterPlan d a b).run v fs [] 0).exec s = (.ok ⟨[], [], []⟩, t) ∧ t.mem = s.mem) := by
  have hloc : ¬ d.loc = 2 := by omega
  rw [scatterPlan]
  dsimp only
  rw [hcount, iteration_one (perIteration_pos ..), M.exec_bind, List.mapM_cons, M.exec_bind, M.exec_bind, hi]
  dsimp only
  rw [M.exec_bind, hq]
  dsimp only
  rw [M.exec_pure]
  dsimp only
  rw [List.mapM_nil, M.exec_bind, M.exec_pure]
  dsimp only
  rw [M.exec_pure]
  dsimp only
  obtain ⟨t, ht, hc⟩ := v.commit_committed Flags.none fs s
  refine ⟨fun h0 h1 ha hb => ⟨t, ?_, hc.mem⟩, fun h => ⟨t, ?_, hc.mem⟩⟩
  · have hin : [((0 : Nat), indexOf b ib, q)].filter (fun r => decide (0 ≤ r.2.1) && decide (r.2.1 < (d.count : Int))) =
        [(0, indexOf b ib, q)] := by simp [h0, h1]
    rw [hin, List.map_cons, List.map_nil, ha, hb, Bool.or_false, if_neg Bool.false_ne_true, Shape.finish, if_neg hloc,
      List.foldl_cons, List.foldl_nil, M.exec_bind]
    dsimp only [Fmt.finish]
    rw [Flags.none_or, ht]
    dsimp only
    rw [List.flatMap_singleton, M.exec_pure]
  · have hout : [((0 : Nat), indexOf b ib, q)].filter (fun r => decide (0 ≤ r.2.1) && decide (r.2.1 < (d.count : Int))) = [] := by
      have hd : 0 ≤ indexOf b ib → (d.count : Int) ≤ indexOf b ib := by omega
      simpa using hd
    rw [hout, List.map_nil, List.foldl_nil, M.exec_bind, ht]
    dsimp only
    rw [List.flatMap_nil, M.exec_pure]

end

theorem row_results : Claims.RowResults := by
  refine ⟨fun v op x xs r hv => ⟨fun _ => treeChunk_value hv op x xs r, (reduceFloat_value hv op x xs r).1, (reduceFloat_value hv op x xs r).2,
    fun d acc => scanFloat_value hv op d acc x xs r⟩, fun v op d a z acc zs r hv => scanInt_value hv op d a acc z zs r,
    redInt_arith, fun w x y _ hx hy sg => redInt_bitwise hx hy sg, topOf_ranked, ranksBefore_iff,
    fun s v d a b fs ib q hd hcount hi => ⟨fun h0 h1 hq => ?_, fun h => ?_⟩, fun s v d a b fs ib q hd hcount hi hq => ?_⟩
  · exact gather_one hd hcount hi (.inl ⟨h0, h1, hq⟩)
  · exact gather_one hd hcount hi (.inr ⟨by omega, rfl⟩)
  · exact scatter_one hd hcount hi hq

/-- Settles O43: an iteration is what `VectorForm.unit` says of the instruction's body, over plain elements each plan goes
(`Plan.Goes`), and the results of elements and rows are those of their values. -/
theorem vectorInstructions : Obligations.VectorInstructions :=
  ⟨vector_units, vector_elements, element_results, row_results, vector_instructions_complete⟩

end Sys2Proof.Machine
